-- ==== Sys2Proof/Word.lean ====
section
/-! DEFINITION. The plain word types of the model and the sparse table that holds keyed state. -/
namespace Sys2Proof

/-- A byte. -/
abbrev Byte := BitVec 8

/-- A 32-bit register (R6). -/
abbrev Word := BitVec 32

/-- A table of values under number keys, sorted by key with no key twice. Every keyed part of the state (memories,
registers, rings, shelves, ...) is such a list, so that two equal tables are equal data. -/
abbrev Tab (α : Type) := List (Nat × α)

/-- What a line of HBM that belongs to no drawer holds (R91, R167, R272, R273, R305, R327, R337): where the device keeps its structures is open, so
whoever says that a line is in error says what it holds. `clear` is a line that is free or whose loss has no effect. An entry of a directory quarter has the
number `4 * bucket + entry`, a stash entry `4,194,304 + entry`; `copy` is 0 or 1 where two copies are kept. `dev` is a line of device memory, by its number. -/
inductive LineUse where
  | clear
  | entry (die idx copy : Nat)
  | table (shelf copy : Nat)
  | summary (shelf head idx : Nat)
  | segment (req run : Nat)
  | map (unit : Nat)
  | tables (index copy : Nat)
  | ids (index : Nat) (items : List Nat) (copy : Nat)
  | list (index list : Nat)
  | bench (index : Nat)
  | spill (qpn : Nat)
  | shadow (entry copy : Nat)
  | dev (line : Nat)
deriving DecidableEq, Repr

/-- Bits of a stored line have changed (R265): the line, what it holds, and the symbols of its codeword that have changed, with their changes. -/
structure LineHit where
  line : Nat := 0
  use  : LineUse := .clear
  errs : List (Nat × Nat) := []
deriving DecidableEq, Repr

/-- The line lies in a stack, and every change is one of a symbol of its codeword. -/
def LineHit.wellFormed (x : LineHit) : Bool :=
  decide (x.line < 1342177280) && x.errs.all (fun e => decide (e.1 < 76) && decide (1 ≤ e.2) && decide (e.2 ≤ 255))

/-- A run of a request that comes to a pass; `upset` is an uncorrectable error of the tile store, which the pass meets instead (R284). -/
structure RunAt where
  run   : Nat := 0
  upset : Bool := false
deriving DecidableEq, Repr

/-- A drawer that arrives from the cabinet: its index in its series, and how many reads of it met an uncorrectable error of the staging SRAM (R284). -/
structure ColdAt where
  idx    : Nat := 0
  upsets : Nat := 0
deriving DecidableEq, Repr

/-- What the two reads of a stored block get wrong (R262): positions of its bytes and their changes, in the first read and in the one that parity
rebuilds. -/
structure BlockErrs where
  first  : List (Nat × Nat) := []
  second : List (Nat × Nat) := []
deriving DecidableEq, Repr

end Sys2Proof
end

