-- ==== Sys2Proof/Machine/TypesMem.lean ====
section
/-! DEFINITION. The data of the HBM controllers, the vector indexes and the rule table (09_memory_protection.md,
10_vector_search.md, 11_rule_table.md). Plain data only. -/
namespace Sys2Proof.Machine

/-- A repaired row in the repair log (R278, R279). -/
structure Repair where
  row  : Nat := 0
  bank : Nat := 0
  hard : Bool := false
deriving DecidableEq, Repr

/-- The errors that stand in a stored line (R265): symbols of its codeword with their changes, those that stay and those that only the next read
meets. -/
structure Upset where
  bad  : List (Nat × Nat) := []
  once : List (Nat × Nat) := []
deriving DecidableEq, Repr

/-- An HBM controller with its stack (R264-R282). `poison` maps a poisoned line to its `CAUSE`, `upsets` a line to the errors that stand in it, and `uses`
a line of no drawer to what it holds; `wb` holds the corrected lines that wait to be written back. `unwritten` counts the repairs that the repair log does not
hold yet (R278), and `fenceDue` says that the stack is to be fenced (R281). -/
structure Hbm where
  poison   : Tab Nat := []
  upsets   : Tab Upset := []
  uses     : Tab LineUse := []
  wb       : List Nat := []
  rows     : List (Nat × Nat) := []
  due      : List Nat := []
  log      : List Repair := []
  pcUnc    : Tab Nat := []
  stUnc    : Nat := 0
  retiring : List Nat := []
  retired  : List Nat := []
  fenced   : Bool := false
  scrub    : Nat := 0
  hours    : Nat := 24
  last     : Option (Nat × Nat) := none
  dropped  : Nat := 0
  unwritten : Nat := 0
  fenceDue : Bool := false
deriving DecidableEq, Repr

/-- An item of a vector index (R285, R288, R291): its record in the cabinet (`loc` counts the slots of the index's units) and its place
in bench or list. `failing` is a record that can no longer be read and that no search has met yet (R305). -/
structure Item where
  id     : Nat := 0
  attr   : List Nat := []
  vec    : List Nat := []
  loc    : Nat := 0
  seq    : Nat := 0
  code   : List Nat := []
  list   : Nat := 0
  merged : Bool := false
  del    : Option Nat := none
  lost   : Bool := false
  failing : Bool := false
deriving DecidableEq, Repr

/-- New list versions that a VMERGE has built (R303): the request, B and the lists named. -/
structure Building where
  req   : Nat := 0
  b     : Nat := 0
  lists : Option Nat := none
deriving DecidableEq, Repr

/-- A vector index (R285-R308). `items` holds the bench and list entries, the ID map and the stored records of its
items; a merged item with `del` has a tombstone, a bench item with `del` a delete number. `charge` is the HBM charge of R289 in bytes and `vunits` counts vector units
(R288), whose logical units `lunits` names by their number within the index. -/
structure VIndex where
  part      : Nat := 0
  handle    : Nat := 0
  metric    : Nat := 0
  home      : Nat := 0
  fmt       : Nat := 1
  dims      : Nat := 16
  m         : Nat := 8
  nlist     : Nat := 1
  cents     : List Nat := []
  subs      : List Nat := []
  statRef   : Nat := 0
  nprobe    : Nat := 0
  sample    : Nat := 1
  cand      : Nat := 1
  benchHi   : Nat := 0
  seq       : Nat := 0
  vis       : Nat := 0
  items     : List Item := []
  building  : Option Building := none
  benchBad  : Bool := false
  listBad   : List Nat := []
  tblBad    : Bool := false
  lostItems : Nat := 0
  delMiss   : Nat := 0
  lastMerge : Nat := 0
  statDue   : Bool := false
  charge    : Nat := 0
  vunits    : Nat := 0
  lunits    : Tab Nat := []
deriving DecidableEq, Repr

/-- An entry of the rule table (R312) with the priority of its insertion (R322). A removal clears `valid` alone (R325). -/
structure Rule where
  valid  : Bool := false
  value  : Nat := 0
  care   : Nat := 0
  action : Nat := 0
  prio   : Nat := 0
deriving DecidableEq, Repr

/-- The rule table (R312-R329): entries by index, the two shadow copies of each, the band sizes in force, the default action,
a held low half (R315), the bands that wait for rebalancing (R326), and for each slice the next entry to compare and the
slice's counter at the start of its pass (R328). -/
structure Rules where
  entries : Tab Rule := []
  shadowA : Tab Rule := []
  shadowB : Tab Rule := []
  bands   : List Nat := List.replicate 16 0
  deflt   : Nat := 0
  heldLo  : Option Nat := none
  rebal   : List Nat := []
  sweep   : List Nat := [0, 0, 0, 0]
  sweepAt : List Nat := [0, 0, 0, 0]
deriving DecidableEq, Repr

end Sys2Proof.Machine
end

