-- ==== Sys2Proof/Machine/TypesKv.lean ====
section
/-! DEFINITION. The data of shelves, drawers, rings, descriptors in flight, requests, objects, tiers and the
cabinet (03_kv_storage_model.md, 04_requests_and_queues.md, 05_attention_passes.md, 06_drawer_selection.md,
08_memory_tiers.md). Plain data only. -/
namespace Sys2Proof.Machine

/-- The five fields that name a shelf (R67). -/
structure ShelfKey where
  part   : Nat := 0
  tenant : Nat := 0
  conv   : Nat := 0
  layer  : Nat := 0
  group  : Nat := 0
deriving DecidableEq, Repr

/-- The fields of a 16-byte shelf profile (R68), as numbers. -/
structure Profile where
  kfmt  : Nat := 0
  vfmt  : Nat := 0
  dim   : Nat := 0
  heads : Nat := 0
  cb    : Nat := 0
  seed  : Nat := 0
  ringW : Nat := 0
  slack : Nat := 0
  flags : Nat := 0
deriving DecidableEq, Repr

/-- A drawer place in HBM (R75, R191). Stacks 0-7 are FS0-FS7, 8-15 are BS0-BS7. In a front stack `slot` is
`5,080 * pair + place`, with `pair` the index 0-7 of the pair within the pseudo-channel. -/
structure Place where
  stack : Nat := 0
  pc    : Nat := 0
  slot  : Nat := 0
deriving DecidableEq, Repr

/-- Residency of a drawer (R228, R239). `remote` is a drawer of a pulled shelf that has not been read yet (R406). -/
inductive Loc where
  | hbm    (p : Place)
  | clean  (p : Place) (unit : Nat)
  | cab    (unit : Nat)
  | remote
  | none
deriving DecidableEq, Repr

/-- A drawer: its variable header fields (R73), its records (R72), where it lies (R239) and, for a K drawer, its
bound summary (R90). `series` is `2 * head` for K and `2 * head + 1` for V; `idx` is `SEQ`. -/
structure Drawer where
  series   : Nat := 0
  idx      : Nat := 0
  count    : Nat := 0
  firstPos : Nat := 0
  gen      : Nat := 0
  stamp    : Nat := 0
  epoch    : Nat := 0
  data     : List Byte := []
  loc      : Loc := .none
  moving   : Option Loc := none
  smin     : List Nat := []
  smax     : List Nat := []
  sumLost  : Bool := false
deriving DecidableEq, Repr

/-- STATE of a directory entry (R79). -/
inductive ShelfState where
  | live | lost | dropping
deriving DecidableEq, Repr

/-- DURAB: the durability mode of a shelf (R3, R79, R411). -/
inductive Durab where
  | single | sync | async
deriving DecidableEq, Repr

/-- Where a directory entry stands: one of the four entries of a bucket, or a stash entry of its quarter (R77). -/
inductive DirAt where
  | bucket (b : Nat) (i : Nat)
  | stash (i : Nat)
deriving DecidableEq, Repr

/-- An accepted append that is not yet visible (R81-R83). `req` is the request it belongs to. `charge` is the charge taken for
drawers not yet allocated. `done` of the drawers it touches hold its records already. `created` says that it made its shelf (R80). `failed` is the status of a failure that has not been acted on yet. `waitSeq` is the mirror entry whose confirmation `MIRROR-SYNC` awaits. -/
structure Append where
  req     : Nat := 0
  pos     : Nat := 0
  n       : Nat := 0
  done    : Nat := 0
  written : Bool := false
  failed  : Option Nat := none
  failDet : Nat := 0
  sat     : Nat := 0
  charge  : Nat := 0
  created : Bool := false
  waitSeq : Option Nat := none
deriving DecidableEq, Repr

/-- A tail trim in progress on a shelf (R92). `was` is the `END` before it, `older` lists the requests that it still waits for once it has set `END`, and
`waitSeq` is the mirror entry whose confirmation it awaits. -/
structure TailTrim where
  req     : Nat := 0
  pos     : Nat := 0
  was     : Nat := 0
  older   : List Nat := []
  waitSeq : Option Nat := none
deriving DecidableEq, Repr

/-- A head trim whose drawers are freed once the requests in `older` have completed (R92). -/
structure HeadTrim where
  pos   : Nat := 0
  older : List Nat := []
deriving DecidableEq, Repr

/-- A pin range of a shelf (R246). -/
structure PinRange where
  first : Nat := 0
  endp  : Nat := 0
  tier1 : Bool := false
deriving DecidableEq, Repr

/-- State of a pull on a shelf created from the pull table or by MOVE_PULL (R406-R409): the peer entry and the key of the
shelf region it comes from, the `MOVE_PULL` request it serves (0 for none), and the drawers whose READ is in flight. -/
structure Pull where
  peer     : Nat := 0
  rkey     : Nat := 0
  req      : Nat := 0
  inFlight : List (Nat × Nat) := []
deriving DecidableEq, Repr

/-- A pull that has not created its shelf yet (R406, R409): its two first drawers are being read. `move` is the `MOVE_PULL`
request that asked for it. -/
structure PullJob where
  key   : ShelfKey := {}
  peer  : Nat := 0
  profH : Nat := 0
  rkey  : Nat := 0
  first : Nat := 0
  endp  : Nat := 0
  move  : Option Nat := none
deriving DecidableEq, Repr

/-- A directory entry with everything the device keeps for its shelf (R68, R71, R79, R86, R410). `trim` is a
tail trim that has not set `END` yet, `tails` those that have, and `held` the operations held behind `trim`. A copy names the peer entry
of its source and says whether the source mirrors asynchronously. -/
structure Shelf where
  key        : ShelfKey := {}
  hash       : Nat := 0
  state      : ShelfState := .live
  profH      : Nat := 0
  prof       : Profile := {}
  cbTab      : List Byte := []
  seed       : Nat := 0
  f16x       : Bool := false
  digest     : List Byte := []
  base       : Nat := 0
  endPos     : Nat := 0
  visible    : Nat := 0
  start      : Nat := 0
  body       : Nat := 0
  createSeq  : Nat := 0
  place      : DirAt := .stash 0
  durab      : Durab := .single
  drawers    : List Drawer := []
  appends    : List Append := []
  trim       : Option TailTrim := none
  tails      : List TailTrim := []
  headTrims  : List HeadTrim := []
  held       : List Nat := []
  pins       : List PinRange := []
  lastScored : Option (List (Nat × Nat)) := none
  dropOlder  : List Nat := []
  damaged    : Bool := false
  link       : Option Nat := none
  copy       : Bool := false
  degraded   : Bool := false
  seeding    : Bool := false
  copyPeer   : Nat := 0
  copyAsync  : Bool := false
  pull       : Option Pull := none
deriving DecidableEq, Repr

/-- A conversation mark (R93): `seqs` holds the `CREATE_SEQ` of the four quarters, `done` the engines that ended. -/
structure Mark where
  part   : Nat := 0
  tenant : Nat := 0
  conv   : Nat := 0
  seqs   : List Nat := []
  done   : List Nat := []
deriving DecidableEq, Repr

/-- The shelf directory (R76-R79, R93). -/
structure Dir where
  key       : List Byte := []
  shelves   : Tab Shelf := []
  createSeq : List Nat := [0, 0, 0, 0]
  marks     : List Mark := []
  retired   : List (Nat × DirAt) := []
deriving DecidableEq, Repr

/-- A completion record (R135) before its ring number and phase are added. -/
structure Rec where
  tag    : Nat := 0
  opcode : Nat := 0
  status : Nat := 0
  epoch  : Nat := 0
  info0  : Nat := 0
  info1  : Nat := 0
  info2  : Nat := 0
  info3  : Nat := 0
  cflags : Nat := 0
  detail : Nat := 0
deriving DecidableEq, Repr

/-- A request ring with its completion ring (R106-R112). `srcs` says which interface advanced `PI` past the slots not yet
taken, in order, as (slots, `SRC` of R310); `taken` holds the fetched descriptors that have not been admitted yet, each
with its `SRC`; `records` are records that wait for a free slot. -/
structure Ring where
  part       : Nat := 0
  rloc       : Bool := false
  cloc       : Bool := false
  rsize      : Nat := 0
  csize      : Nat := 0
  rbase      : Nat := 0
  cbase      : Nat := 0
  pi         : Word := 0
  ci         : Word := 0
  cqPi       : Word := 0
  cqCi       : Word := 0
  inflight   : Nat := 0
  stopped    : Bool := false
  destroying : Bool := false
  byCmd      : Bool := false
  srcs       : List (Nat × Nat) := []
  taken      : List (Nat × List Byte) := []
  records    : List Rec := []
deriving DecidableEq, Repr

/-- Whose turn it is at the scheduler of a die: the partition it serves and the services left to it, the ring it served last for each partition
(R121), and the bucket it visits next for each partition (R124). -/
structure Sched where
  part    : Nat := 0
  left    : Nat := 0
  rings   : Tab Nat := []
  buckets : Tab Nat := []
deriving DecidableEq, Repr

/-- An armed descriptor (R125-R127): `order` is its place among the descriptors of its ring (R102), `count` is the GATHER count so far, `fires` the ports of the firings that have not run
yet. `gone` is a descriptor that has been disarmed by firing and has a firing left to run. -/
structure Armed where
  ring  : Nat := 0
  key   : Nat := 0
  order : Nat := 0
  desc  : List Byte := []
  count : Nat := 0
  fires : List Nat := []
  gone  : Bool := false
deriving DecidableEq, Repr

/-- A loaded object (R129-R133). -/
structure Obj where
  kind      : Nat := 0
  bytes     : List Byte := []
  unloading : Bool := false
  f16x      : Bool := false
deriving DecidableEq, Repr

/-- Progress of a run through its passes (R140). -/
inductive RunPhase where
  | queued | scoring | normed | done
deriving DecidableEq, Repr

/-- A run (R139-R147). `sched` is the die to whose scheduler it has been handed on, and `handed` says that its partial no longer holds a thread (R140,
R142). `scores` is the score plane: the entry `(j * L + i) * T + r` is the score of record `r` of the
`i`-th drawer for query head `j`; a missing entry has not been accepted yet. `probs` is the probability plane, and `vs` the V drawers
that hold its positions, with the number of its records in each. -/
structure Run where
  head     : Nat := 0
  drawers  : List Nat := []
  vs       : List (Nat × Nat) := []
  stack    : Option Nat := none
  round    : Nat := 0
  phase    : RunPhase := .queued
  sched    : Option Nat := none
  handed   : Bool := false
  booth    : Bool := false
  tile     : Nat := 0
  thread   : Nat := 0
  segStack : Option Nat := none
  seg      : Nat := 0
  slot     : Nat := 0
  jobsLeft : Nat := 0
  coldLeft : List (Nat × Nat) := []
  coldRead : List (Nat × Nat) := []
  scores   : Tab (BitVec 32) := []
  probs    : Tab Nat := []
  poisoned : Bool := false
  m        : List (BitVec 32) := []
  l        : List (BitVec 32) := []
  o        : List (List (BitVec 32)) := []
  n        : Nat := 0
deriving DecidableEq, Repr

/-- An omitted candidate drawer with its count of seen positions and its bound for every query head of its KV head
(R172, R173, R183). `fresh` are its bounds as last computed, by round 1 or by a refill (R186). -/
structure Cand where
  head   : Nat := 0
  idx    : Nat := 0
  nx     : Nat := 0
  bounds : List (BitVec 32) := []
  fresh  : List (BitVec 32) := []
deriving DecidableEq, Repr

/-- Selection state of a TOPM or NET request (R177-R187). `amax` is for each query head the largest A of the keys scored
(R59, R181); `eps` are the omission bounds of the latest check and `pairing` names the pairs of its combine (R157, R184). -/
structure Sel where
  round   : Nat := 0
  scored  : Nat := 0
  omitted : List Cand := []
  list    : List (Nat × Nat) := []
  bref    : List (BitVec 32) := []
  e       : List (BitVec 32) := []
  eps     : List (BitVec 32) := []
  amax    : List (BitVec 32) := []
  pairing : Nat := 0
  stopped : Option Nat := none
deriving DecidableEq, Repr

/-- What capture keeps of a request (R485-R488): its number, the home scheduler's time at admission, the rule action, C at
step 6, the inputs, and the `SCORES` entries and bytes written so far. -/
structure CapReq where
  seq    : Nat := 0
  time   : Nat := 0
  action : Nat := 0
  c      : Nat := 0
  input  : List Byte := []
  nsc    : Nat := 0
  bytes  : Nat := 0
  lost   : Bool := false
deriving DecidableEq, Repr

/-- The steps of a search's work on tiles (R296, R300, R307): the coarse scan, the scan of the lists and the bench, the re-rank, and the scan and the re-rank
of a widened search. -/
inductive SearchStep where
  | coarse | scan | rank | wideScan | wideRank
deriving DecidableEq, Repr

/-- A search under way (R296, R300, R301, R307): the home die of its index, NPROBE and CAND as in force, the lists it probes, and, by their slots, the
candidates kept so far, the records that its present step reads, those read, and those dropped; the tiles that its tasks have gone to; and the index
as it was before a merge switched to new versions meanwhile (R304). -/
structure Srch where
  home    : Nat := 0
  np      : Nat := 0
  cand    : Nat := 0
  step    : SearchStep := .coarse
  lists   : List Nat := []
  kept    : List Nat := []
  todo    : List Nat := []
  read    : List Nat := []
  dropped : List Nat := []
  tiles   : List Nat := []
  old     : Option VIndex := none
deriving DecidableEq, Repr

/-- An admitted request (R101, R115-R124, R167). `order` is its place among the descriptors of its ring (R102), `query` is the held query in `F32` values after rotation and
narrowing; `cfmt` the compute format (0 F32, 1 BF16, 2 F16); `objs` the handles it holds (R133); `route` the bytes of its
route; `tclass` the class of step 7; `waitPull` says that it waits at step 10 for a pull (R406); `entry` is the captured entry
of a replayed request (R490), which has no ring: `ring` then names its die alone. `srch` is the work of a search, whose tasks are its runs. -/
structure Req where
  ring     : Nat := 0
  desc     : List Byte := []
  order    : Nat := 0
  part     : Nat := 0
  src      : Nat := 4
  fired    : Bool := false
  grace    : Bool := false
  narrowed : Bool := false
  retried  : Bool := false
  booth    : Bool := false
  cold     : Bool := false
  already  : Bool := false
  replay   : Bool := false
  shelf    : Option Nat := none
  lo       : Nat := 0
  snap     : Nat := 0
  query    : List (BitVec 32) := []
  cfmt     : Nat := 0
  boothOk  : Bool := false
  bucket   : Option Nat := none
  since    : Nat := 0
  urgent   : Bool := false
  tclass   : Option Nat := none
  objs     : List Nat := []
  route    : List Byte := []
  sprog    : List Byte := []
  runs     : List Run := []
  sel      : Sel := {}
  fails    : Nat := 0
  coldN    : Nat := 0
  older    : List Nat := []
  waitPull : Option Nat := none
  cap      : Option CapReq := none
  entry    : List Byte := []
  srch     : Option Srch := none
deriving DecidableEq, Repr

/-- A layer-plan attachment (R244) with the plan entry of the latest lifting admission (R245). -/
structure PlanAt where
  part   : Nat := 0
  tenant : Nat := 0
  conv   : Nat := 0
  plan   : Nat := 0
  depth  : Nat := 0
  last   : Option Nat := none
deriving DecidableEq, Repr

/-- States of a lift job that is not yet over (R247). -/
inductive LiftPhase where
  | queued | room | reading (p : Place)
deriving DecidableEq, Repr

/-- A lift job of a die's prefetcher (R247); `req` is the PIN it serves, 0 for a prefetch. `demand` is the demand read of a READ
that faulted (R356). -/
structure Lift where
  die    : Nat := 0
  shelf  : Nat := 0
  series : Nat := 0
  idx    : Nat := 0
  req    : Nat := 0
  demand : Bool := false
  phase  : LiftPhase := .queued
deriving DecidableEq, Repr

/-- An allocation that waits for a place (R240). -/
structure AllocWait where
  part   : Nat := 0
  t0     : Bool := false
  shelf  : Nat := 0
  series : Nat := 0
  idx    : Nat := 0
deriving DecidableEq, Repr

/-- Plans, prefetch, waiting allocations, and the tiers (partition, T0) in which demotion runs (R235, R240, R244-R247). `turn` is the partition whose
lift the cabinet took last (R248). -/
structure Tiers where
  active : List (Nat × Bool) := []
  plans : List PlanAt := []
  lifts : List Lift := []
  waits : List AllocWait := []
  turn  : Nat := 31
deriving DecidableEq, Repr

/-- A stored block of the cabinet map (R252, R260), or a stored record of a vector unit (R288): which drawer it holds, with the header written with it, or
the logical unit, the slot and the stored size of a record; its table, coded length and write sequence number; and the pages of erase blocks that hold
parts of it, with their bytes (a part that is not there yet is in write staging). -/
structure CabUnit where
  shelf   : Nat := 0
  series  : Nat := 0
  idx     : Nat := 0
  part    : Nat := 0
  table   : Nat := 0
  codeLen : Nat := 0
  hdr     : List Byte := []
  vslot   : Option (Nat × Nat × Nat) := none
  wseq    : Nat := 0
  pieces  : List (Nat × Nat × Nat) := []
deriving DecidableEq, Repr

/-- An erase block (R250, R253-R255). `failed` lists its pages that could not be corrected once. -/
structure EBlock where
  erases : Nat := 0
  reads  : Nat := 0
  valid  : Nat := 0
  prog   : Bool := false
  bad    : Bool := false
  failed : List Nat := []
deriving DecidableEq, Repr

/-- The cabinet (R250-R262). `openB` are the 32 erase blocks of the stripes being written, one per channel, `stripe` the next
stripe in them, `fill` the bytes of the open stripe that write staging holds, and `staged` the parts of units in it with their start and length. `tblWait`
holds the table commands that wait for the ringmaster (R263): whether it is an installation, and the ID. -/
structure Cab where
  mounted  : Bool := false
  readOnly : Bool := false
  gcUrgent : Bool := false
  units    : Tab CabUnit := []
  nextUnit : Nat := 0
  wseq     : Nat := 0
  openB    : List Nat := []
  stripe   : Nat := 0
  fill     : Nat := 0
  staged   : List (Nat × Nat × Nat) := []
  tblWait  : List (Bool × Nat) := []
  blocks   : Tab EBlock := []
  badCount : Nat := 0
  tables   : Tab (List Byte) := []
  active   : Tab Nat := []
  window   : Tab Byte := []
  patrol   : Nat := 0
  patrolMs : Nat := 0
  ratioSum : Nat := 0
  ratioN   : Nat := 0
deriving DecidableEq, Repr

end Sys2Proof.Machine
end

