-- ==== Sys2Proof/Machine/TypesNet.lean ====
section
/-! DEFINITION. The data of the network ports, the CXL attachment and link sealing (12_network_ports.md,
13_cxl_attachment.md, 15_security.md). Plain data only. -/
namespace Sys2Proof.Machine

/-- What arrives at a network port as one frame (R333, R334, R367). -/
inductive FrameKind where
  | roce | vlan | pause | unsupported
deriving DecidableEq, Repr

/-- A frame on a port: a RoCEv2 packet with the fields that R334-R358 use. `frameLen` is its length as it travels, FCS and sealing
included. `an` and `pn` are the association and packet number of a sealed frame's SecTAG, `icvOk` says that its integrity check value is right
(R366). `opcode` is the BTH opcode;
`va`, `rkey` and `dlen` are the RETH; `imm` the immediate; `syndrome` the AETH of an Acknowledge. -/
structure Packet where
  kind     : FrameKind := .roce
  sealed   : Bool := false
  an       : Nat := 0
  pn       : Nat := 0
  icvOk    : Bool := true
  icrcOk   : Bool := true
  ce       : Bool := false
  frameLen : Nat := 0
  opcode   : Nat := 0
  qpn      : Nat := 0
  psn      : Nat := 0
  va       : Nat := 0
  rkey     : Nat := 0
  dlen     : Nat := 0
  imm      : Nat := 0
  syndrome : Nat := 0
  payload  : List Byte := []
deriving DecidableEq, Repr

/-- A message the device sends on a queue pair (R353, R354, R404). -/
inductive OutKind where
  | write | notice | readResp | read | mirror
deriving DecidableEq, Repr

/-- An outbound message: its place in the order of the port's messages (R360), the PSN of its first packet once that packet has been sent, and how many
packets have been sent since it was posted or last had to be sent again (R354). A `read` keeps its length in `imm`. -/
structure OutMsg where
  kind  : OutKind := .write
  tclass : Nat := 0
  seq   : Nat := 0
  va    : Nat := 0
  rkey  : Nat := 0
  imm   : Nat := 0
  bytes : List Byte := []
  psn   : Option Nat := none
  next  : Nat := 0
deriving DecidableEq, Repr

/-- The message that a queue pair is placing (R342, R347): the region and generation of its key check, the data reference
where the next byte of a WRITE goes and how many bytes are left, or the bytes of a SEND collected so far. -/
structure Placing where
  firstPsn : Nat := 0
  isWrite  : Bool := false
  region   : Option (Nat × Nat) := none
  ref      : Nat := 0
  left     : Nat := 0
  bytes    : List Byte := []
deriving DecidableEq, Repr

/-- A queue pair (R336-R342, R347, R358). Rates are in Mb/s as exact rationals. `pace` is the time of the port's island counter, in ns, before which no data
packet of it starts. -/
structure Qp where
  port     : Nat := 0
  part     : Nat := 0
  attr     : List Byte := []
  err      : Bool := false
  sqPsn    : Nat := 0
  rqPsn    : Nat := 0
  msn      : Nat := 0
  retries  : Nat := 0
  rnrLeft  : Nat := 0
  rnrWait  : Bool := false
  gapNak   : Bool := false
  refused  : Option Nat := none
  placing  : Option Placing := none
  out      : List OutMsg := []
  rc       : Rat := 800000
  rt       : Rat := 800000
  a        : Rat := 1
  pace     : Rat := 0
  calm     : Nat := 0
  cnpSeen  : Bool := false
  lastCnp  : Option Nat := none
deriving DecidableEq, Repr

/-- Why a packet waits in the holding buffer (R340, R356). -/
inductive HoldWhy where
  | fetch | fault
deriving DecidableEq, Repr

/-- A registered region (R343, R344). -/
structure Region where
  part : Nat := 0
  acc  : Nat := 0
  base : Nat := 0
  len  : Nat := 0
  gen  : Nat := 0
deriving DecidableEq, Repr

/-- A held packet (R340). One that waits for a drawer keeps the region that its key check found (R346, R356). -/
structure Held where
  pkt : Packet := {}
  why : HoldWhy := .fetch
  region : Option (Nat × Region) := none
deriving DecidableEq, Repr

/-- Handshake progress of a port or of CXL IDE (R438-R441). -/
inductive HsPhase where
  | none | helloSent | replySent | confirmSent | done | failed
deriving DecidableEq, Repr

/-- A sealing handshake and session (R438-R441). `hello` and `reply` are the messages so far; `secret` the session
secret; `keyIdx` the key index n; `peer` the identity digest of the session peer. On a port `txPn` counts the frames sealed under the current key, and
`rxPn` and `rxOld` are the packet numbers of the latest frames accepted under the current association and the one before it (R366). -/
structure Seal where
  phase   : HsPhase := .none
  init    : Bool := false
  hello   : List Byte := []
  reply   : List Byte := []
  secret  : List Byte := []
  keyIdx  : Nat := 0
  txPn    : Nat := 0
  rxPn    : Nat := 0
  rxOld   : Nat := 0
  peer    : List Byte := []
  eph     : Nat := 0
deriving DecidableEq, Repr

/-- A gate control list (R364, R365): its entries (gates, interval in ns), its base time in ns of port time, the entry
now in force and the start of that entry. -/
structure Gcl where
  entries : List (Nat × Nat) := [(0xFFFF, 0)]
  base    : Nat := 0
  cur     : Nat := 0
  since   : Nat := 0
deriving DecidableEq, Repr

/-- A network port (R332-R367). `cache` lists the cached queue pairs, least recently used first. `tokens` are the
shaper tokens and `pol` the policer tokens in units of 1/1,000 byte; `shRate` and `polRate` are the rates in force since their latest refill (R361).
`msgNo` numbers the messages posted; `drrAt` is the queue that the deficit round robin visits, `drrNew` says that the visit has not begun, and `drr` holds the
deficits of the queues (R360). -/
structure Port where
  up        : Bool := false
  sealReq   : Bool := false
  sealed    : Bool := false
  cache     : List Nat := []
  fetch     : List Nat := []
  held      : List Held := []
  refusals  : List (Nat × Nat) := []
  tokens    : List Int := List.replicate 16 0
  pol       : Tab Int := []
  polDrops  : Tab Nat := []
  shRate    : List Nat := List.replicate 16 0
  polRate   : Tab Nat := []
  msgNo     : Nat := 0
  drrAt     : Nat := 4
  drrNew    : Bool := true
  drr       : List Nat := List.replicate 16 0
  gcl       : Gcl := {}
  nextGcl   : Option (Gcl × Nat) := none
  ptpStep   : Int := 0
  ptpRate   : Int := 0
  ptpAt     : Nat := 0
  ptpGood   : Nat := 0
  ptpLock   : Bool := false
  secLatch  : Nat := 0
  hs        : Seal := {}
deriving DecidableEq, Repr

/-- A re-registration or deregistration that waits for packets checked under the old generation (R346), with
the region as it was. -/
structure RegionWait where
  index : Nat := 0
  old   : Region := {}
deriving DecidableEq, Repr

/-- State of an extent (R381). -/
inductive ExtState where
  | free | alloc | offered | accepted | releasing | zeroing
deriving DecidableEq, Repr

/-- An extent of a DC region (R379-R381): `pcs` are the pseudo-channels its granules lie in, fixed at the add; `order` numbers
the offers. -/
structure Extent where
  state  : ExtState := .free
  part   : Nat := 0
  poff   : Nat := 0
  relReq : Bool := false
  order  : Nat := 0
  pcs    : List (Nat × Nat) := []
deriving DecidableEq, Repr

/-- A DC event record (R381): add or release, with the extent and the partition that its tag holds. -/
structure DcEvent where
  release : Bool := false
  ext     : Nat := 0
  part    : Nat := 0
  handle  : Nat := 0
deriving DecidableEq, Repr

/-- A write that the device has issued and that has not been accepted yet (R28, R384): bytes to a device physical address,
bytes to host memory, or a completion record of a ring, where `held` says that the record's completion slot was reserved; or what may
follow only once every earlier write has been accepted (R342, R351, R352): a producer index, a trigger, an acknowledgement, or the end of the placement of a
packet that was checked under a region and generation (R346). -/
inductive DevWrite where
  | data (dpa : Nat) (bytes : List Byte)
  | host (addr : Nat) (bytes : List Byte)
  | record (ring : Nat) (r : Rec) (held : Bool)
  | advance (ring src : Nat) (value : Word)
  | trigger (port part value : Nat)
  | packet (port qpn : Nat) (p : Packet)
  | placed (region gen : Nat)
deriving DecidableEq, Repr

/-- The CXL attachment (R369-R388). `memActive` is Memory_Active of the CXL DVSEC (R373), and `cache` the spill-table lines in the device cache, each with
whether it is modified. `filter` lists the tracked lines of each die's snoop filter, least recently filled
first; `bisnp` the lines whose BIRsp is awaited; `wq` the device writes in issue order that are not accepted yet. -/
structure Cxl where
  speed    : Nat := 0
  width    : Nat := 0
  flit256  : Bool := false
  cacheEn  : Bool := false
  memActive : Bool := false
  ideReq   : Bool := false
  ideIo    : Bool := false
  ideCm    : Bool := false
  keyset   : Nat := 0
  ext      : Tab Extent := []
  dcLog    : List DcEvent := []
  dcHandle : Nat := 0
  cache    : Tab Bool := []
  filter   : List (List Nat) := [[], [], [], []]
  bisnp    : List Nat := []
  wq       : List DevWrite := []
  ide      : Seal := {}
deriving DecidableEq, Repr

end Sys2Proof.Machine
end

