-- ==== Sys2Proof/Syntax.lean ====
section
/-! DEFINITION. The commands of the block: one constructor for every row of spec/opcode_table.json, in its order, with
the values that the event carries. -/
namespace Sys2Proof

/-- A command (95_what_each_step_holds.md; each constructor names its row and rule). -/
inductive Instr where
  /-- `LINK_CRC_FAIL` (R24). `retrained` says whether one of the three retrainings succeeded. -/
  | linkCrcFail (link : Fin 20) (retrained : Bool)
  /-- `REROUTE` (R24). `n` names the traffic between PD0 and PD1: the attention die it concerns, or 4 for host register accesses. -/
  | reroute (n : Fin 5) (src dst : Fin 7)
  /-- `COUNTER_WRAP` (R31). `island` counts the islands in the row order of R26. -/
  | counterWrap (island : Fin 175)
  /-- `RING_PI` (R109). `stores` are host memory stores made visible before this write; `none` poisons the 64-byte line. -/
  | ringPi (ring : Fin 4096) (value : Word) (stores : List (Nat × Option (List Byte)))
  /-- `CQ_CI` (R111). -/
  | cqCi (ring : Fin 4096) (value : Word)
  /-- `DESCRIPTOR_FETCH` (R376). -/
  | descriptorFetch (ring : Fin 4096) (count : Nat)
  /-- `ATTEND` (R115). -/
  | attend (ring : Fin 4096)
  /-- `APPEND_KV` (R81). -/
  | appendKv (ring : Fin 4096)
  /-- `VISIBLE_ADVANCE` (R82). -/
  | visibleAdvance (shelf : Nat)
  /-- `FAILED_APPEND` (R83). -/
  | failedAppend (shelf : Nat)
  /-- `RING_SLOT_REUSE` (R88). -/
  | ringSlotReuse (shelf : Nat)
  /-- `MERGE` (R165). -/
  | merge (ring : Fin 4096)
  /-- `TRIM_KV` (R92). -/
  | trimKv (ring : Fin 4096)
  /-- `TRIM_SET_END` (R92). -/
  | trimSetEnd (shelf : Nat)
  /-- `TRIM_TAIL_COMPLETE` (R92). -/
  | trimTailComplete (shelf : Nat)
  /-- `HEAD_TRIM_FREE` (R92). -/
  | headTrimFree (shelf : Nat)
  /-- `DROP_SHELF` (R93). -/
  | dropShelf (ring : Fin 4096)
  /-- `DROP_FREE` (R93). -/
  | dropFree (shelf : Nat)
  /-- `CONV_SCAN_END` (R93). -/
  | convScanEnd (die : Fin 4) (mark : Nat)
  /-- `PLAN` (R244). -/
  | plan (ring : Fin 4096)
  /-- `PIN` (R246). -/
  | pin (ring : Fin 4096)
  /-- `SEARCH` (R296). -/
  | search (ring : Fin 4096)
  /-- `VINSERT` (R291). -/
  | vinsert (ring : Fin 4096)
  /-- `VDELETE` (R293). -/
  | vdelete (ring : Fin 4096)
  /-- `VMERGE` (R303). -/
  | vmerge (ring : Fin 4096)
  /-- `VMERGE_SWITCH` (R304). -/
  | vmergeSwitch (part : Fin 32) (handle : Nat)
  /-- `STATUS_RECORD_WRITE` (R308). -/
  | statusRecordWrite (part : Fin 32) (handle : Nat)
  /-- `MOVE_PULL` (R409). -/
  | movePull (ring : Fin 4096)
  /-- `MIRROR_SET` (R411). -/
  | mirrorSet (ring : Fin 4096)
  /-- `LOAD` (R131). -/
  | load (ring : Fin 4096)
  /-- `UNLOAD` (R133). -/
  | unload (ring : Fin 4096)
  /-- `OBJECT_FREE` (R133). -/
  | objectFree (part : Fin 32) (handle : Nat)
  /-- `FENCE` (R400). -/
  | fence (ring : Fin 4096)
  /-- `FENCE_COMPLETE` (R402). -/
  | fenceComplete (part : Fin 32)
  /-- `GRACE_WINDOW_CLOSE` (R396). -/
  | graceWindowClose (part : Fin 32)
  /-- `ARM` (R125). -/
  | arm (ring : Fin 4096)
  /-- `DISARM` (R128). -/
  | disarm (ring : Fin 4096)
  /-- `TRIGGER` (R126). -/
  | trigger (port : Fin 4) (value : Word) (qpn : Nat)
  /-- `FIRE` (R127). -/
  | fire (ring : Fin 4096) (key : Nat)
  /-- `RING_CREATE` (R107). -/
  | ringCreate (die : Fin 4)
  /-- `RING_DESTROY` (R108). -/
  | ringDestroy (die : Fin 4)
  /-- `RING_DESTROY_DONE` (R108). -/
  | ringDestroyDone (ring : Fin 4096)
  /-- `BUCKET_WAIT_EXCEEDED` (R124). -/
  | bucketWaitExceeded (req : Nat)
  /-- `RUN_DISPATCH` (R147). No tile: the dispatch meets an uncorrectable error of the scheduler's state (R284). -/
  | runDispatch (req run : Nat) (tile : Option (Fin 192))
  /-- `PASS_N` (R154). -/
  | passN (req : Nat) (run : RunAt)
  /-- `PASS_V` (R155). -/
  | passV (req : Nat) (run : RunAt)
  /-- `COMBINE` (R157). -/
  | combine (req : Nat)
  /-- `NET_LOOP_CHECK` (R184). -/
  | netLoopCheck (req : Nat)
  /-- `SCORE_SHEET_FAILURE` (R167). -/
  | scoreSheetFailure (req : Nat)
  /-- `BOOTH_JOB_START` (R199). -/
  | boothJobStart (booth : Fin 4096)
  /-- `NOP` (R202). -/
  | uopNop (booth : Fin 4096)
  /-- `ACT` (R196). -/
  | uopAct (booth : Fin 4096)
  /-- `RD` (R202). -/
  | uopRd (booth : Fin 4096)
  /-- `EXP` (R200). -/
  | uopExp (booth : Fin 4096)
  /-- `DOTG` (R195). -/
  | uopDotg (booth : Fin 4096)
  /-- `GSC` (R202). -/
  | uopGsc (booth : Fin 4096)
  /-- `SST` (R207). -/
  | uopSst (booth : Fin 4096)
  /-- `SETI` (R202). -/
  | uopSeti (booth : Fin 4096)
  /-- `ADDI` (R202). -/
  | uopAddi (booth : Fin 4096)
  /-- `LOOP` (R202). -/
  | uopLoop (booth : Fin 4096)
  /-- `END` (R202). -/
  | uopEnd (booth : Fin 4096)
  /-- `COLLECTOR_JOB_DONE` (R207). -/
  | collectorJobDone (booth : Fin 4096)
  /-- `BOOTH_PARK` (R197). -/
  | boothPark (booth : Fin 4096)
  /-- `PER_BANK_REFRESH` (R214). -/
  | perBankRefresh (booth : Fin 4096) (bank : Fin 8)
  /-- `ALL_BANK_REFRESH` (R215). -/
  | allBankRefresh (stack : Fin 8) (die : Fin 16)
  /-- `REFRESH_COMPLETE` (R215). -/
  | refreshComplete (stack : Fin 8) (die : Fin 16)
  /-- `BOOTH_RESTART` (R222). -/
  | boothRestart (booth : Fin 4096)
  /-- `BOOTH_JOB_TIMEOUT` (R223). -/
  | boothJobTimeout (booth : Fin 4096)
  /-- `SCRIPT_WINDOW_WRITE` (R204). -/
  | scriptWindowWrite (stack : Fin 8) (entry : Fin 64) (value : Word)
  /-- `SCRIPT_DESCRIPTOR_WRITE` (R203). -/
  | scriptDescriptorWrite (stack : Fin 8) (index : Fin 8) (value : List Byte)
  /-- `DEMOTION` (R235). -/
  | demotion (part : Fin 32) (t0 : Bool)
  /-- `MOVE_END` (R239). -/
  | moveEnd (shelf series idx : Nat)
  /-- `TIER_VISIT` (R234). -/
  | tierVisit (shelf series idx : Nat)
  /-- `ALLOCATION_PLACE_FREED` (R240). -/
  | allocationPlaceFreed (part : Fin 32)
  /-- `COLD_READ_DONE` (R241). -/
  | coldReadDone (req run series : Nat) (got : ColdAt)
  /-- `LIFT_TAKEN` (R247). -/
  | liftTaken (die : Fin 4)
  /-- `LIFT_ROOM` (R247). -/
  | liftRoom (die : Fin 4)
  /-- `LIFT_PLACED` (R247). -/
  | liftPlaced (die : Fin 4) (shelf series idx : Nat)
  /-- `GARBAGE_COLLECTION` (R252). -/
  | garbageCollection
  /-- `STATIC_WEAR_LEVELLING` (R253). -/
  | staticWearLevelling
  /-- `READ_DISTURB_RELOCATION` (R254). -/
  | readDisturbRelocation (block : Nat)
  /-- `PATROL_READ` (R255). -/
  | patrolRead (corrected : Nat) (bad : Bool)
  /-- `BLOCK_READ_FAIL` (R262). -/
  | blockReadFail (unit : Nat) (errs : BlockErrs)
  /-- `CAB_TBL_INSTALL` (R261). -/
  | cabTblInstall (id : Nat)
  /-- `CAB_TBL_RETIRE` (R261). -/
  | cabTblRetire (id : Nat)
  /-- `PART_TIER_WRITE` (R231). -/
  | partTierWrite (part : Fin 32) (value : Word)
  /-- `PART_CABSHARE_WRITE` (R230). -/
  | partCabshareWrite (part : Fin 32) (value : Word)
  /-- `CORRECTED_WRITEBACK` (R274). -/
  | correctedWriteback (stack : Fin 16) (line : Nat)
  /-- `SCRUB_READ` (R275). The errors that lines of the stack have taken, for good and for the next read alone. -/
  | scrubRead (stack : Fin 16) (stays once : List LineHit)
  /-- `DAMAGED_SHELF_FREE` (R271). -/
  | damagedShelfFree (shelf : Nat)
  /-- `ROW_REPAIR` (R278). -/
  | rowRepair (stack : Fin 16)
  /-- `PC_RETIRE` (R280). -/
  | pcRetire (stack : Fin 16) (pc : Fin 64)
  /-- `PC_RETIRED` (R280). -/
  | pcRetired (stack : Fin 16) (pc : Fin 64)
  /-- `STACK_FENCE` (R281). -/
  | stackFence (stack : Fin 16)
  /-- `RULE_INSERT` (R323). -/
  | ruleInsert
  /-- `RULE_REMOVE` (R325). -/
  | ruleRemove
  /-- `RULE_MODIFY` (R325). -/
  | ruleModify
  /-- `RULE_READ` (R325). -/
  | ruleRead
  /-- `RULE_APPLY_BANDS` (R321). -/
  | ruleApplyBands
  /-- `RULE_DEF_LO_WRITE` (R315). -/
  | ruleDefLoWrite (value : Word)
  /-- `RULE_DEF_HI_WRITE` (R315). -/
  | ruleDefHiWrite (value : Word)
  /-- `REBALANCE` (R326). -/
  | rebalance (band : Fin 16)
  /-- `SHADOW_COMPARE` (R329). `badA` and `badB` say that a shadow copy is uncorrectable. -/
  | shadowCompare (die : Fin 4) (badA badB : Bool)
  /-- `PORT_LINK_UP` (R332). -/
  | portLinkUp (port : Fin 4)
  /-- `PORT_LINK_DOWN` (R368). -/
  | portLinkDown (port : Fin 4)
  /-- `PACKET_RECEIVE` (R347). -/
  | packetReceive (port : Fin 4) (pkt : Machine.Packet)
  /-- `QP_FETCH_DONE` (R339). -/
  | qpFetchDone (port : Fin 4) (qpn : Nat)
  /-- `RESULT_BLOCK_SEND` (R353). -/
  | resultBlockSend (port : Fin 4) (qpn : Nat)
  /-- `ACK_TIMEOUT` (R337). -/
  | ackTimeout (qpn : Nat)
  /-- `CC_TIMER_EXPIRY` (R358). -/
  | ccTimerExpiry (qpn : Nat)
  /-- `SHAPER_REFILL` (R361). -/
  | shaperRefill (port : Fin 4)
  /-- `POLICER_REFILL` (R362). -/
  | policerRefill (port : Fin 4)
  /-- `GATE_INTERVAL_END` (R364). -/
  | gateIntervalEnd (port : Fin 4)
  /-- `GCL_COMMIT` (R365). -/
  | gclCommit (port : Fin 4)
  /-- `GCL_SWITCH` (R365). -/
  | gclSwitch (port : Fin 4)
  /-- `PTP_SYNC` (R363). -/
  | ptpSync (port : Fin 4) (offset : Int)
  /-- `PTP_TIMEOUT` (R363). -/
  | ptpTimeout (port : Fin 4)
  /-- `NET_TIME_NS_READ` (R363). -/
  | netTimeNsRead (port : Fin 4)
  /-- `HELLO` (R439). -/
  | hello (port : Fin 4) (msg : List Byte)
  /-- `REPLY` (R438). -/
  | reply (port : Fin 4) (msg : List Byte)
  /-- `CONFIRM` (R438). -/
  | confirm (port : Fin 4) (msg : List Byte)
  /-- `REKEY` (R441). -/
  | rekey (port : Fin 4) (msg : List Byte)
  /-- `ABORT` (R439). -/
  | abort (port : Fin 4) (msg : List Byte)
  /-- `HELLO_REPEAT` (R439). -/
  | helloRepeat (port : Fin 4)
  /-- `HANDSHAKE_TIMEOUT` (R439). -/
  | handshakeTimeout (port : Fin 4)
  /-- `REKEY_PERIOD` (R441). -/
  | rekeyPeriod (port : Fin 4)
  /-- `QP_CREATE` (R337). -/
  | qpCreate (port : Fin 4)
  /-- `QP_DESTROY` (R337). -/
  | qpDestroy (port : Fin 4)
  /-- `QP_READ` (R337). -/
  | qpRead (port : Fin 4)
  /-- `REGION_REGISTER` (R343). -/
  | regionRegister
  /-- `REGION_REREGISTER_NEW` (R346). -/
  | regionReregisterNew
  /-- `REGION_REREGISTER_KEEP` (R346). -/
  | regionReregisterKeep
  /-- `REGION_DEREGISTER` (R346). -/
  | regionDeregister
  /-- `REGION_READ` (R343). -/
  | regionRead
  /-- `REGION_COMMAND_DRAIN` (R346). -/
  | regionCommandDrain
  /-- `CONVENTIONAL_RESET` (R387). -/
  | conventionalReset
  /-- `CXL_LINK_UP` (R371). -/
  | cxlLinkUp (speed width : Nat) (flit256 cacheOk memOk : Bool)
  /-- `CXL_MEM_READ` (R383). -/
  | cxlMemRead (dpa : Nat)
  /-- `CXL_MEM_WRITE` (R383). -/
  | cxlMemWrite (dpa : Nat) (bytes : List Byte) (poison : Bool)
  /-- `HOST_SNOOP` (R377). -/
  | hostSnoop (line : Nat)
  /-- `BIRSP` (R384). -/
  | birsp (line : Nat)
  /-- `IDE_FAIL` (R385). -/
  | ideFail
  /-- `DC_ADD` (R380). -/
  | dcAdd
  /-- `DC_RELEASE` (R381). -/
  | dcRelease
  /-- `DC_READ` (R381). -/
  | dcRead
  /-- `EXTENT_UNUSED` (R381). -/
  | extentUnused (ext : Fin 512)
  /-- `EXTENT_ZEROED` (R381). -/
  | extentZeroed (ext : Fin 512)
  /-- `ADD_DYNAMIC_CAPACITY_RESPONSE` (R381). -/
  | addDynamicCapacityResponse (exts : List (Nat × Nat))
  /-- `RELEASE_DYNAMIC_CAPACITY` (R381). -/
  | releaseDynamicCapacity (exts : List (Nat × Nat))
  /-- `IDENTIFY_MEMORY_DEVICE` (R369). -/
  | identifyMemoryDevice
  /-- `GET_DYNAMIC_CAPACITY_CONFIGURATION` (R369). -/
  | getDynamicCapacityConfiguration
  /-- `GET_DYNAMIC_CAPACITY_EXTENT_LIST` (R369). -/
  | getDynamicCapacityExtentList
  /-- `GET_EVENT_RECORDS` (R369). -/
  | getEventRecords (log : Nat)
  /-- `CLEAR_EVENT_RECORDS` (R369). -/
  | clearEventRecords (log : Nat) (handles : List Nat)
  /-- `PART_CREATE` (R391). -/
  | partCreate (part : Fin 32)
  /-- `PART_DESTROY` (R394). -/
  | partDestroy (part : Fin 32)
  /-- `PART_DESTROY_DONE` (R394). -/
  | partDestroyDone (part : Fin 32)
  /-- `PART_RESET` (R393). -/
  | partReset (part : Fin 32)
  /-- `PART_RESET_DONE` (R393). -/
  | partResetDone (part : Fin 32)
  /-- `PART_APPLY_MAPS` (R392). -/
  | partApplyMaps (part : Fin 32)
  /-- `MAP_REMOVAL_DONE` (R392). -/
  | mapRemovalDone (part : Fin 32)
  /-- `PULL_CHECK` (R406). -/
  | pullCheck (shelf : Nat) (drawers : List (List Byte))
  /-- `REMOTE_DRAWER_READ` (R407). -/
  | remoteDrawerRead (shelf series idx : Nat) (data : List Byte)
  /-- `PULL_SWEEP` (R407). -/
  | pullSweep (die : Fin 4)
  /-- `MIRROR_ENTRY` (R414). -/
  | mirrorEntry (part : Fin 32) (peer : Fin 64) (entry : List Byte)
  /-- `MIRROR_ACK` (R415). -/
  | mirrorAck (part : Fin 32) (peer : Fin 64)
  /-- `MIRROR_STALL` (R417). -/
  | mirrorStall (link : Nat)
  /-- `LEASE_EXPIRY` (R419). -/
  | leaseExpiry
  /-- `METERING_HOUR` (R421). -/
  | meteringHour (part : Fin 32)
  /-- `REPORT` (R442). `part` and `psect` are the fields of the command register. -/
  | report (part : Fin 32) (psect : Bool)
  /-- `READ_CERTIFICATE` (R427). -/
  | readCertificate (index : Fin 16)
  /-- `INSTALL_FENCE_KEY` (R446). -/
  | installFenceKey
  /-- `ADD_TRUST_KEY` (R436). -/
  | addTrustKey
  /-- `REMOVE_TRUST_KEY` (R436). -/
  | removeTrustKey (index : Fin 16)
  /-- `IDE_HANDSHAKE_MESSAGE` (R440). -/
  | ideHandshakeMessage
  /-- `APPLY_WINDOW` (R435). -/
  | applyWindow
  /-- `WINDOW_CHANGE_DONE` (R435). -/
  | windowChangeDone (part : Fin 32)
  /-- `DEBUG_TOKEN` (R448). -/
  | debugToken (token : List Byte)
  /-- `WATCHDOG_EXPIRY` (R454). -/
  | watchdogExpiry
  /-- `RESTART` (R454). -/
  | restart
  /-- `RESTART_DONE` (R454). -/
  | restartDone
  /-- `LOAD_WINDOW` (R452). -/
  | loadWindow (load : Nat)
  /-- `FW_STREAM` (R462). -/
  | fwStream
  /-- `FW_DONE` (R463). -/
  | fwDone
  /-- `FW_ABORT` (R464). -/
  | fwAbort
  /-- `FW_VERIFY` (R465). -/
  | fwVerify (slot : Fin 2)
  /-- `FW_VERIFY_DONE` (R465). -/
  | fwVerifyDone
  /-- `ACTIVATE_TRIAL` (R465). -/
  | activateTrial
  /-- `COMMIT` (R468). -/
  | commit
  /-- `RAISE_SECURITY_VERSION` (R470). -/
  | raiseSecurityVersion
  /-- `CANCEL_TRIAL` (R465). -/
  | cancelTrial
  /-- `TRIAL_COMMIT_TIMER` (R468). -/
  | trialCommitTimer
  /-- `BOOT_ROM` (R467). -/
  | bootRom
  /-- `LOADER_START` (R467). -/
  | loaderStart
  /-- `RUNTIME_START` (R472). -/
  | runtimeStart
  /-- `TRAIN_DONE` (R514). -/
  | trainDone
  /-- `RECOVERY_IMAGE_DATA` (R511). -/
  | recoveryImageData (data : List Byte)
  /-- `RECOVERY_STATUS_REQUEST` (R511). -/
  | recoveryStatusRequest
  /-- `EVR_WSTAT_READ` (R480). -/
  | evrWstatRead
  /-- `EVR_CLEAR` (R482). -/
  | evrClear
  /-- `CAPT_CFG_WRITE` (R484). -/
  | captCfgWrite (part : Fin 32) (value : Word)
  /-- `REPLAY_START` (R489). -/
  | replayStart (part : Fin 32) (die : Fin 4)
  /-- `REPLAY_STOP` (R492). -/
  | replayStop (part : Fin 32)
  /-- `REPLAY_ENTRY` (R490). -/
  | replayEntry (part : Fin 32)
  /-- `DUMP_START` (R493). -/
  | dumpStart
  /-- `DUMP_COMPLETE` (R495). -/
  | dumpComplete
  /-- `DUMP_TIMEOUT` (R493). -/
  | dumpTimeout
  /-- `DUMP_COPY` (R497). -/
  | dumpCopy
  /-- `DUMP_RELEASE` (R497). -/
  | dumpRelease
  /-- `SNAP` (R499). -/
  | snap (part : Fin 32)
  /-- `PWR_EN` (R506). -/
  | pwrEn
  /-- `PWR_GOOD` (R506). -/
  | pwrGood
  /-- `INPUT_LOSS` (R505). -/
  | inputLoss
  /-- `INPUT_FAULT` (R505). -/
  | inputFault (mv : Nat)
  /-- `RESET_N` (R509). -/
  | resetN
  /-- `SMBUS_BLOCK_READ` (R510). -/
  | smbusBlockRead (code : Nat)
  /-- `POWER_MEASUREMENT` (R517). -/
  | powerMeasurement (mv ca watts : Nat)
  /-- `PWR_MODE_WRITE` (R517). -/
  | pwrModeWrite (value : Word)
  /-- `PLL_LOCKED` (R518). -/
  | pllLocked
  /-- `SENSOR_READING` (R519). -/
  | sensorReading (temps : List Int)
  /-- `DRAIN` (R515). -/
  | drain
  /-- `SERVE` (R515). -/
  | serve
  /-- `PG_EVT_WRITE` (R531). -/
  | pgEvtWrite (page : Nat) (value : Word)
  /-- `PG_EVT_EN_WRITE` (R531). -/
  | pgEvtEnWrite (page : Nat) (value : Word)
  /-- `PG_CTRL_WRITE` (R531). -/
  | pgCtrlWrite (page : Nat) (value : Word)
  /-- `PG_EVT_FORCE` (R530). -/
  | pgEvtForce (page : Nat) (value : Word)
  /-- `MSIX_UNMASK` (R531). -/
  | msixUnmask (vector : Option Nat)
  /-- `RC_READ` (R11). A read of `width` bytes at a BAR0 offset. -/
  | rcRead (addr width : Nat)
  /-- `REGISTER_WRITE` (R7). A write of `width` bytes at a BAR0 offset. -/
  | registerWrite (addr width : Nat) (value : BitVec 64)
  /-- `REFERENCE_OSCILLATOR_LOSS` (R523). -/
  | referenceOscillatorLoss
  /-- `PWR_EN_LOW` (R524). -/
  | pwrEnLow
  /-- `RNR_TIMER_EXPIRY` (R354). -/
  | rnrTimerExpiry (qpn : Nat)
  /-- `CXL_LINK_RECOVERY` (R387). -/
  | cxlLinkRecovery
  /-- `UNSUPPORTED_MAILBOX_COMMAND` (R370). -/
  | unsupportedMailboxCommand (code : Nat)
  /-- `RECOVERY_REENUMERATION` (R511). -/
  | recoveryReenumeration
deriving DecidableEq, Repr

end Sys2Proof
end

