-- ==== Sys2Proof/Decode.lean ====
section
/-! DEFINITION. The decoder over the rows of spec/opcode_table.json that give bits: there are none. -/
namespace Sys2Proof

/-- The command that a word spells by the table's bits. The table gives no row any bits (every `fields` list is empty), so
no word spells a command. -/
def decodeTableWord (_nbits _w : Nat) : Option Instr := none

end Sys2Proof
end

