-- ==== Sys2Proof/Config.lean ====
section
/-! DEFINITION. What an implementation fixes and what the spec leaves open, as constants with no body: nothing in Lean can
evaluate them, so a statement holds for every value of them. -/
namespace Sys2Proof.Config

/-- A free value: the n-th value drawn where the spec leaves a value open or calls it random (log entry 1). -/
opaque freeNat : Nat → Nat

/-- Where a function of the tile vector unit lands within its error bound (R56): function number and input pattern
(log entry 19). -/
opaque freeUlp : Nat → Nat → Nat

/-- tanh of the tile vector unit as a function of the input pattern (R152); the model takes it where it meets what R152 says of it
(log entry 19). -/
opaque tanhUnit : BitVec 32 → BitVec 32

/-- The bytes of a line of HBM of whose contents the spec says nothing: stack, line and byte (log entry 148). -/
opaque freeLine : Nat → Nat → Nat → BitVec 8

/-- How many lanes a path that adds `n` channels has (R56, R60-R62, log entry 20): path number and
`n`. -/
opaque sumOrder : Nat → Nat → Nat

/-- The coder of R261, whose tables the spec does not spell out (log entry 34): how many bytes a table codes a payload to, and those bytes. -/
opaque codedLength : List (BitVec 8) → List (BitVec 8) → Nat
opaque codedByte : List (BitVec 8) → List (BitVec 8) → Nat → BitVec 8

/-- The locator of a slot of an index (R285): its numeric form is open, and never visible to software (log entry 48). -/
opaque freeLocator : Nat → Nat

/-- The unique device secret of R424. -/
opaque uds : Nat

/-- The SHA3-256 digest of the Eloanas debug public key in the fuses (R424), and the SHA3-256 of the boot ROM (R443). -/
opaque debugDigest : Nat
opaque romDigest : Nat

/-- ML-DSA-44 (FIPS 204): the public key of a seed; a signature by a seed over a message under a context; the check of a
signature. Public keys and signatures are numbers whose little-endian bytes are the encodings (log entry 62). -/
opaque mldsaPub : List Byte → Nat
opaque mldsaSign : List Byte → List Byte → List Byte → Nat
opaque mldsaVerify : List Byte → List Byte → List Byte → List Byte → Bool

/-- ML-KEM-768 (FIPS 203): the encapsulation key of a seed; ciphertext and secret of an encapsulation to a key with random bits; the
secret that a seed decapsulates (log entry 62). -/
opaque mlkemPub : List Byte → Nat
opaque mlkemCipher : List Byte → Nat → Nat
opaque mlkemSecret : List Byte → Nat → Nat
opaque mlkemOpen : List Byte → List Byte → Nat

/-- AES-256-GCM: the plaintext of a ciphertext with its tag under key, nonce and additional data, where the tag matches (log entry 62). -/
opaque gcmOpen : List Byte → List Byte → List Byte → List Byte → Option (List Byte)

/-- The Eloanas keys that sign certificates and capsules (R427, R458). -/
opaque eloanasPub : List Byte
opaque deviceCertSig : Nat

/-- The SHA3-256 of the image-signing key, a constant of the boot ROM (R457). -/
opaque signerDigest : Nat

end Sys2Proof.Config
end

