-- ==== Sys2Proof/Machine/RegMap.lean ====
section
/-! DEFINITION. The register map: which page belongs to which block (R526), and every register of a block with its
fields, access codes and reset values (R6-R9, R529, R539 and the register tables of each chapter). -/
namespace Sys2Proof.Machine

/-- Access codes of register fields (R7). -/
inductive Acc where
  | rw | ro | wo | w1c | rc
deriving DecidableEq, Repr

/-- A field: its lowest and highest bit, its access code and its reset value. -/
structure RField where
  lo  : Nat
  hi  : Nat
  acc : Acc
  rst : Nat
deriving DecidableEq, Repr

/-- `count` equal registers, the first at `off` in the page and the others `stride` bytes apart. `only0` marks registers
that only instance 0 of the block has. -/
structure Reg where
  off    : Nat
  count  : Nat
  stride : Nat
  fields : List RField
  only0  : Bool := false
deriving DecidableEq, Repr

/-- The kinds of pages (R526). `bth1` and `shp1` are the pages with page index 1. -/
inductive Kind where
  | root | msix | pba | tcl | asch | ring | dir | rule | hbm | bth0 | bth1 | net | shp0 | shp1 | cxl | cab | stw | evr | sec | pwr | part | capt | mtr
deriving DecidableEq, Repr

/-- The page map of R526: kind and instance of a page; `none` is an absent page (R527). -/
def pageKind (p : Nat) : Option (Kind × Nat) :=
  if p = 0 then some (.root, 0)
  else if p ≤ 8 then some (.msix, 0)
  else if p = 9 then some (.pba, 0)
  else if 0x10 ≤ p ∧ p < 0x20 then some (.tcl, p - 0x10)
  else if 0x20 ≤ p ∧ p < 0x24 then some (.asch, p - 0x20)
  else if 0x24 ≤ p ∧ p < 0x28 then some (.dir, p - 0x24)
  else if 0x28 ≤ p ∧ p < 0x2C then some (.rule, p - 0x28)
  else if 0x30 ≤ p ∧ p < 0x40 then some (.hbm, p - 0x30)
  else if 0x40 ≤ p ∧ p < 0x50 then some (if p % 2 = 0 then .bth0 else .bth1, (p - 0x40) / 2)
  else if 0x50 ≤ p ∧ p < 0x54 then some (.net, p - 0x50)
  else if 0x54 ≤ p ∧ p < 0x5C then some (if p % 2 = 0 then .shp0 else .shp1, (p - 0x54) / 2)
  else if p = 0x60 then some (.cxl, 0)
  else if p = 0x61 then some (.cab, 0)
  else if p = 0x70 then some (.stw, 0)
  else if p = 0x71 then some (.evr, 0)
  else if p = 0x72 then some (.sec, 0)
  else if p = 0x73 then some (.pwr, 0)
  else if 0x80 ≤ p ∧ p < 0xA0 then some (.part, p - 0x80)
  else if 0xA0 ≤ p ∧ p < 0xC0 then some (.capt, p - 0xA0)
  else if 0xC0 ≤ p ∧ p < 0xE0 then some (.mtr, p - 0xC0)
  else if 0x1000 ≤ p ∧ p < 0x2000 then some (.ring, p - 0x1000)
  else none

/-- The block type of a page kind (R526, R538). -/
def blockType : Kind → Nat
  | .root | .msix | .pba => 0x001
  | .tcl => 0x010 | .asch => 0x011 | .ring => 0x011 | .dir => 0x012 | .hbm => 0x020 | .bth0 => 0x021 | .bth1 => 0x021
  | .cab => 0x030 | .rule => 0x040 | .net => 0x050 | .shp0 => 0x051 | .shp1 => 0x051 | .cxl => 0x060 | .stw => 0x070
  | .evr => 0x071 | .capt => 0x072 | .sec => 0x080 | .pwr => 0x090 | .part => 0x0A0 | .mtr => 0x0B0

/-- Instance and page index of a page (R526). -/
def pageInst (k : Kind) (n : Nat) : Nat × Nat :=
  match k with
  | .ring => (16 + n / 256, n % 256)
  | .bth1 | .shp1 => (n, 1)
  | _ => (n, 0)

/-- The defined event bits of a page kind (R539): how many there are, from bit 0. -/
def eventBits : Kind → Nat
  | .tcl => 3 | .asch => 3 | .dir => 3 | .hbm => 8 | .bth0 => 6 | .cab => 8 | .rule => 4 | .net => 6 | .shp0 => 2
  | .cxl => 8 | .stw => 9 | .evr => 3 | .capt => 3 | .sec => 5 | .pwr => 6 | .part => 6
  | .root | .msix | .pba | .ring | .bth1 | .shp1 | .mtr => 0

/-- Registers of the root page (R532, R533). -/
def regsRoot : List Reg := [
  ⟨0x100, 1, 4, [⟨0, 31, .ro, 0⟩], false⟩,
  ⟨0x104, 1, 4, [⟨0, 15, .ro, 0⟩], false⟩,
  ⟨0x108, 2, 4, [⟨0, 31, .ro, 0⟩], false⟩,
  ⟨0x110, 1, 4, [⟨0, 2, .ro, 0⟩, ⟨3, 3, .ro, 0⟩, ⟨4, 4, .ro, 0⟩], false⟩,
  ⟨0x114, 1, 4, [⟨0, 7, .ro, 0⟩], false⟩,
  ⟨0x118, 2, 4, [⟨0, 31, .ro, 0⟩], false⟩,
  ⟨0x400, 256, 4, [⟨0, 31, .ro, 0⟩], false⟩]

/-- Registers of the tile cluster page. -/
def regsTcl : List Reg := [
  ⟨0x100, 1, 4, [⟨0, 8, .ro, 0⟩, ⟨13, 16, .ro, 0⟩], false⟩,
  ⟨0x104, 1, 4, [⟨0, 31, .rc, 0⟩], false⟩,
  ⟨0x108, 1, 4, [⟨0, 31, .rc, 0⟩], false⟩,
  ⟨0x10C, 1, 4, [⟨0, 31, .rc, 0⟩], false⟩,
  ⟨0x110, 1, 4, [⟨0, 15, .rc, 0⟩, ⟨16, 31, .rc, 0⟩], false⟩]

/-- Registers of the attention scheduler page. -/
def regsAsch : List Reg := [
  ⟨0x100, 1, 4, [⟨0, 9, .rw, 0⟩], false⟩,
  ⟨0x104, 1, 4, [⟨1, 1, .rw, 0⟩, ⟨2, 2, .rw, 0⟩, ⟨8, 12, .rw, 0⟩, ⟨16, 19, .rw, 0⟩, ⟨20, 23, .rw, 0⟩], false⟩,
  ⟨0x108, 1, 4, [⟨0, 31, .rw, 0⟩], false⟩,
  ⟨0x10C, 1, 4, [⟨0, 31, .rw, 0⟩], false⟩,
  ⟨0x110, 1, 4, [⟨0, 31, .rw, 0⟩], false⟩,
  ⟨0x114, 1, 4, [⟨0, 31, .rw, 0⟩], false⟩,
  ⟨0x118, 1, 4, [⟨0, 1, .wo, 0⟩], false⟩,
  ⟨0x11C, 1, 4, [⟨0, 0, .ro, 0⟩, ⟨1, 1, .ro, 0⟩, ⟨2, 3, .ro, 0⟩], false⟩,
  ⟨0x120, 1, 4, [⟨0, 31, .rc, 0⟩], false⟩,
  ⟨0x124, 1, 4, [⟨0, 14, .ro, 0⟩], false⟩]

/-- Registers of the ring doorbell page. -/
def regsRing : List Reg := [
  ⟨0x100, 1, 4, [⟨0, 31, .rw, 0⟩], false⟩,
  ⟨0x104, 1, 4, [⟨0, 31, .ro, 0⟩], false⟩,
  ⟨0x108, 1, 4, [⟨0, 31, .ro, 0⟩], false⟩,
  ⟨0x10C, 1, 4, [⟨0, 31, .rw, 0⟩], false⟩,
  ⟨0x110, 1, 4, [⟨0, 16, .ro, 0⟩, ⟨17, 17, .ro, 0⟩, ⟨18, 18, .ro, 0⟩, ⟨19, 19, .ro, 0⟩], false⟩]

/-- Registers of the directory engine page. -/
def regsDir : List Reg := [
  ⟨0x100, 1, 4, [⟨0, 22, .ro, 0⟩], false⟩,
  ⟨0x104, 1, 4, [⟨0, 6, .ro, 0⟩, ⟨16, 24, .rc, 0⟩], false⟩,
  ⟨0x108, 1, 4, [⟨0, 31, .rc, 0⟩], false⟩]

/-- Registers of the rule slice page. -/
def regsRule : List Reg := [
  ⟨0x100, 1, 4, [⟨0, 14, .ro, 0⟩, ⟨16, 23, .ro, 0⟩], false⟩,
  ⟨0x104, 1, 4, [⟨0, 31, .rc, 0⟩], false⟩,
  ⟨0x108, 1, 4, [⟨0, 13, .ro, 0⟩, ⟨31, 31, .ro, 0⟩], false⟩,
  ⟨0x10C, 1, 4, [⟨0, 15, .rc, 0⟩, ⟨16, 31, .rc, 0⟩], false⟩,
  ⟨0x110, 1, 4, [⟨0, 31, .rc, 0⟩], true⟩,
  ⟨0x200, 5, 4, [⟨0, 31, .rw, 0⟩], true⟩,
  ⟨0x214, 5, 4, [⟨0, 31, .rw, 0⟩], true⟩,
  ⟨0x228, 1, 4, [⟨0, 31, .rw, 0⟩], true⟩,
  ⟨0x22C, 1, 4, [⟨0, 31, .rw, 0⟩], true⟩,
  ⟨0x230, 1, 4, [⟨0, 3, .rw, 0⟩, ⟨16, 31, .rw, 0⟩], true⟩,
  ⟨0x234, 1, 4, [⟨0, 15, .rw, 0⟩], true⟩,
  ⟨0x238, 1, 4, [⟨0, 2, .wo, 0⟩], true⟩,
  ⟨0x23C, 1, 4, [⟨0, 0, .ro, 0⟩, ⟨1, 3, .ro, 0⟩, ⟨4, 4, .ro, 0⟩], true⟩,
  ⟨0x240, 8, 4, [⟨0, 11, .rw, 0⟩, ⟨16, 27, .rw, 0⟩], true⟩,
  ⟨0x260, 1, 4, [⟨0, 31, .rw, 0⟩], true⟩,
  ⟨0x264, 1, 4, [⟨0, 31, .rw, 0⟩], true⟩]

/-- Registers of the HBM controller page. -/
def regsHbm : List Reg := [
  ⟨0x100, 1, 4, [⟨0, 15, .rc, 0⟩, ⟨16, 31, .rc, 0⟩], false⟩,
  ⟨0x104, 1, 4, [⟨0, 31, .rc, 0⟩], false⟩,
  ⟨0x108, 1, 4, [⟨0, 30, .ro, 0⟩, ⟨31, 31, .ro, 0⟩], false⟩,
  ⟨0x10C, 1, 4, [⟨0, 5, .ro, 0⟩, ⟨8, 10, .ro, 0⟩], false⟩,
  ⟨0x110, 1, 4, [⟨0, 15, .rc, 0⟩, ⟨16, 18, .ro, 4⟩], false⟩,
  ⟨0x114, 1, 4, [⟨0, 31, .ro, 0⟩], false⟩,
  ⟨0x118, 1, 4, [⟨0, 31, .ro, 0⟩], false⟩,
  ⟨0x11C, 1, 4, [⟨0, 0, .ro, 0⟩, ⟨1, 1, .ro, 0⟩, ⟨2, 11, .ro, 0⟩], false⟩,
  ⟨0x120, 1, 4, [⟨0, 7, .rw, 24⟩, ⟨8, 15, .rw, 8⟩, ⟨16, 23, .rw, 16⟩, ⟨24, 31, .rw, 32⟩], false⟩,
  ⟨0x124, 1, 4, [⟨0, 31, .ro, 0⟩], false⟩]

/-- Registers of the booth stack (page index 0) page. -/
def regsBth0 : List Reg := [
  ⟨0x100, 1, 4, [⟨0, 0, .rw, 1⟩], false⟩,
  ⟨0x104, 1, 4, [⟨0, 9, .ro, 0⟩, ⟨10, 19, .ro, 0⟩, ⟨20, 29, .ro, 0⟩], false⟩,
  ⟨0x108, 1, 4, [⟨0, 5, .ro, 0⟩], false⟩,
  ⟨0x10C, 1, 4, [⟨0, 7, .ro, 0⟩, ⟨8, 15, .ro, 0⟩], false⟩,
  ⟨0x110, 1, 4, [⟨0, 31, .rc, 0⟩], false⟩,
  ⟨0x114, 1, 4, [⟨0, 15, .rc, 0⟩, ⟨16, 31, .rc, 0⟩], false⟩,
  ⟨0x118, 1, 4, [⟨0, 31, .rc, 0⟩], false⟩,
  ⟨0x11C, 1, 4, [⟨0, 15, .rc, 0⟩, ⟨16, 31, .rc, 0⟩], false⟩,
  ⟨0x120, 1, 4, [⟨0, 2, .rc, 0⟩], false⟩]

/-- Registers of the booth stack (page index 1) page. -/
def regsBth1 : List Reg := [
  ⟨0x100, 512, 4, [⟨0, 2, .ro, 5⟩, ⟨4, 8, .ro, 0⟩, ⟨9, 11, .ro, 0⟩, ⟨12, 16, .ro, 0⟩, ⟨17, 22, .ro, 0⟩], false⟩]

/-- Registers of the network port page. -/
def regsNet : List Reg := [
  ⟨0x100, 1, 4, [⟨0, 0, .rw, 0⟩, ⟨1, 5, .rw, 1⟩, ⟨8, 15, .rw, 50⟩], false⟩,
  ⟨0x104, 1, 4, [⟨0, 0, .ro, 0⟩, ⟨1, 1, .ro, 0⟩, ⟨2, 2, .ro, 0⟩, ⟨3, 15, .ro, 0⟩, ⟨16, 26, .ro, 0⟩], false⟩,
  ⟨0x108, 1, 4, [⟨0, 13, .ro, 0⟩, ⟨16, 29, .ro, 0⟩], false⟩,
  ⟨0x10C, 1, 4, [⟨0, 31, .rc, 0⟩], false⟩,
  ⟨0x110, 1, 4, [⟨0, 15, .rc, 0⟩, ⟨16, 31, .rc, 0⟩], false⟩,
  ⟨0x114, 1, 4, [⟨0, 15, .rc, 0⟩, ⟨16, 31, .rc, 0⟩], false⟩,
  ⟨0x118, 1, 4, [⟨0, 15, .rc, 0⟩, ⟨16, 31, .rc, 0⟩], false⟩,
  ⟨0x11C, 1, 4, [⟨0, 15, .rc, 0⟩, ⟨16, 31, .rc, 0⟩], false⟩,
  ⟨0x120, 1, 4, [⟨0, 15, .rc, 0⟩, ⟨16, 31, .rc, 0⟩], false⟩,
  ⟨0x124, 1, 4, [⟨0, 15, .rc, 0⟩, ⟨16, 31, .rc, 0⟩], false⟩,
  ⟨0x128, 1, 4, [⟨0, 15, .rc, 0⟩, ⟨16, 31, .rc, 0⟩], false⟩,
  ⟨0x130, 1, 4, [⟨0, 7, .rw, 4⟩, ⟨8, 15, .rw, 55⟩, ⟨16, 31, .rw, 40⟩], false⟩,
  ⟨0x200, 16, 4, [⟨0, 31, .rw, 0⟩], false⟩,
  ⟨0x240, 1, 4, [⟨0, 1, .wo, 0⟩], false⟩,
  ⟨0x244, 1, 4, [⟨0, 0, .ro, 0⟩, ⟨1, 3, .ro, 0⟩, ⟨4, 5, .ro, 0⟩, ⟨6, 6, .ro, 0⟩], false⟩,
  ⟨0x280, 8, 4, [⟨0, 31, .rw, 0⟩], true⟩,
  ⟨0x2A0, 1, 4, [⟨0, 2, .wo, 0⟩], true⟩,
  ⟨0x2A4, 1, 4, [⟨0, 0, .ro, 0⟩, ⟨1, 3, .ro, 0⟩], true⟩,
  ⟨0x2A8, 1, 4, [⟨0, 31, .ro, 0⟩], true⟩,
  ⟨0x2B0, 1, 4, [⟨0, 31, .rw, 0⟩], true⟩,
  ⟨0x2B4, 1, 4, [⟨0, 31, .rw, 0⟩], true⟩,
  ⟨0x2B8, 1, 4, [⟨0, 0, .rw, 0⟩, ⟨1, 1, .rw, 0⟩], true⟩,
  ⟨0x300, 1, 4, [⟨0, 31, .ro, 0⟩], false⟩,
  ⟨0x304, 1, 4, [⟨0, 31, .ro, 0⟩], false⟩,
  ⟨0x308, 1, 4, [⟨0, 31, .ro, 0⟩], false⟩,
  ⟨0x600, 64, 4, [⟨0, 31, .rw, 0⟩], false⟩]

/-- Registers of the shaper (page index 0) page. -/
def regsShp0 : List Reg := [
  ⟨0x100, 16, 4, [⟨0, 19, .rw, 0⟩], false⟩,
  ⟨0x140, 16, 4, [⟨0, 11, .rw, 64⟩, ⟨16, 23, .rw, 1⟩], false⟩,
  ⟨0x180, 1, 4, [⟨0, 0, .rw, 0⟩, ⟨1, 1, .wo, 0⟩, ⟨8, 16, .rw, 1⟩, ⟨31, 31, .ro, 0⟩], false⟩,
  ⟨0x184, 1, 4, [⟨0, 31, .rw, 0⟩], false⟩,
  ⟨0x188, 1, 4, [⟨0, 31, .rw, 0⟩], false⟩,
  ⟨0x18C, 1, 4, [⟨0, 31, .rw, 0⟩], false⟩,
  ⟨0x190, 1, 4, [⟨0, 15, .rc, 0⟩], false⟩,
  ⟨0x1A0, 4, 4, [⟨0, 5, .rw, 0⟩, ⟨8, 13, .rw, 0⟩, ⟨16, 21, .rw, 0⟩, ⟨24, 29, .rw, 0⟩], false⟩,
  ⟨0x800, 256, 8, [⟨0, 15, .rw, 65535⟩], false⟩,
  ⟨0x804, 256, 8, [⟨0, 31, .rw, 0⟩], false⟩]

/-- Registers of the shaper (page index 1) page. -/
def regsShp1 : List Reg := [
  ⟨0x100, 256, 8, [⟨0, 19, .rw, 0⟩], false⟩,
  ⟨0x104, 256, 8, [⟨0, 11, .rw, 64⟩], false⟩,
  ⟨0x900, 1, 4, [⟨0, 7, .rw, 0⟩], false⟩,
  ⟨0x904, 1, 4, [⟨0, 31, .rc, 0⟩], false⟩]

/-- Registers of the CXL controller page. -/
def regsCxl : List Reg := [
  ⟨0x100, 1, 4, [⟨0, 1, .ro, 0⟩, ⟨2, 3, .ro, 0⟩, ⟨4, 4, .ro, 0⟩, ⟨5, 5, .ro, 0⟩, ⟨6, 6, .ro, 0⟩, ⟨7, 7, .ro, 0⟩], false⟩,
  ⟨0x104, 1, 4, [⟨0, 0, .rw, 0⟩], false⟩,
  ⟨0x110, 1, 4, [⟨0, 2, .rw, 0⟩, ⟨3, 3, .rw, 0⟩, ⟨4, 9, .rw, 0⟩, ⟨10, 14, .rw, 0⟩, ⟨16, 24, .rw, 0⟩], false⟩,
  ⟨0x114, 1, 4, [⟨0, 1, .wo, 0⟩], false⟩,
  ⟨0x118, 1, 4, [⟨0, 0, .ro, 0⟩, ⟨1, 3, .ro, 0⟩, ⟨4, 6, .ro, 0⟩, ⟨7, 11, .ro, 0⟩, ⟨12, 20, .ro, 0⟩, ⟨21, 21, .ro, 0⟩], false⟩,
  ⟨0x11C, 1, 4, [⟨0, 9, .ro, 0⟩, ⟨16, 25, .ro, 0⟩], false⟩,
  ⟨0x120, 1, 4, [⟨0, 20, .ro, 0⟩], false⟩,
  ⟨0x124, 1, 4, [⟨0, 31, .rc, 0⟩], false⟩,
  ⟨0x128, 1, 4, [⟨0, 31, .rc, 0⟩], false⟩,
  ⟨0x12C, 1, 4, [⟨0, 31, .rc, 0⟩], false⟩,
  ⟨0x130, 1, 4, [⟨0, 15, .rc, 0⟩, ⟨16, 31, .rc, 0⟩], false⟩,
  ⟨0x134, 1, 4, [⟨0, 0, .ro, 0⟩, ⟨1, 1, .ro, 0⟩, ⟨2, 3, .ro, 0⟩, ⟨16, 31, .rc, 0⟩], false⟩]

/-- Registers of the cabinet page. -/
def regsCab : List Reg := [
  ⟨0x100, 1, 4, [⟨0, 0, .ro, 0⟩, ⟨1, 1, .ro, 0⟩, ⟨2, 2, .ro, 0⟩], false⟩,
  ⟨0x104, 1, 4, [⟨0, 12, .ro, 0⟩, ⟨16, 28, .ro, 0⟩], false⟩,
  ⟨0x108, 1, 4, [⟨0, 9, .ro, 0⟩, ⟨16, 31, .ro, 0⟩], false⟩,
  ⟨0x10C, 1, 4, [⟨0, 19, .ro, 0⟩], false⟩,
  ⟨0x110, 1, 4, [⟨0, 15, .rc, 0⟩, ⟨16, 31, .rc, 0⟩], false⟩,
  ⟨0x114, 1, 4, [⟨0, 9, .ro, 0⟩, ⟨16, 23, .ro, 0⟩], false⟩,
  ⟨0x118, 1, 4, [⟨0, 15, .rc, 0⟩, ⟨16, 31, .rc, 0⟩], false⟩,
  ⟨0x11C, 1, 4, [⟨0, 15, .ro, 0⟩], false⟩,
  ⟨0x130, 1, 4, [⟨0, 1, .wo, 0⟩, ⟨8, 13, .wo, 0⟩], false⟩,
  ⟨0x134, 1, 4, [⟨0, 0, .ro, 0⟩, ⟨1, 3, .ro, 0⟩], false⟩,
  ⟨0x700, 576, 4, [⟨0, 31, .wo, 0⟩], false⟩]

/-- Registers of the steward page. -/
def regsStw : List Reg := [
  ⟨0x100, 1, 4, [⟨0, 1, .ro, 0⟩, ⟨2, 5, .ro, 0⟩, ⟨6, 6, .ro, 0⟩, ⟨7, 7, .ro, 0⟩, ⟨8, 14, .ro, 0⟩, ⟨15, 20, .ro, 0⟩], false⟩,
  ⟨0x104, 1, 4, [⟨0, 9, .rw, 500⟩, ⟨10, 10, .wo, 0⟩], false⟩,
  ⟨0x110, 4, 4, [⟨0, 31, .rc, 0⟩], false⟩,
  ⟨0x120, 1, 4, [⟨0, 10, .ro, 0⟩, ⟨11, 19, .ro, 0⟩], false⟩,
  ⟨0x124, 1, 4, [⟨0, 15, .rc, 0⟩, ⟨16, 16, .ro, 0⟩], false⟩,
  ⟨0x128, 1, 4, [⟨0, 12, .ro, 0⟩, ⟨16, 28, .ro, 0⟩], false⟩,
  ⟨0x140, 1, 4, [⟨0, 31, .rw, 0⟩], false⟩,
  ⟨0x144, 1, 4, [⟨0, 31, .rw, 0⟩], false⟩,
  ⟨0x148, 1, 4, [⟨0, 31, .rw, 0⟩], false⟩,
  ⟨0x14C, 1, 4, [⟨0, 2, .wo, 0⟩, ⟨3, 3, .wo, 0⟩], false⟩,
  ⟨0x150, 1, 4, [⟨0, 0, .ro, 0⟩, ⟨1, 4, .ro, 0⟩, ⟨5, 14, .ro, 0⟩], false⟩,
  ⟨0x154, 1, 4, [⟨0, 7, .ro, 0⟩, ⟨8, 10, .ro, 0⟩, ⟨11, 11, .ro, 0⟩, ⟨12, 17, .ro, 0⟩, ⟨18, 23, .ro, 0⟩], false⟩,
  ⟨0x158, 1, 4, [⟨0, 31, .ro, 0⟩], false⟩,
  ⟨0x15C, 1, 4, [⟨0, 31, .ro, 0⟩], false⟩,
  ⟨0x160, 1, 4, [⟨0, 31, .ro, 0⟩], false⟩,
  ⟨0x164, 1, 4, [⟨0, 31, .ro, 0⟩], false⟩,
  ⟨0x170, 1, 4, [⟨0, 15, .ro, 0⟩, ⟨16, 16, .ro, 0⟩, ⟨17, 17, .ro, 0⟩], false⟩]

/-- Registers of the event recorder page. -/
def regsEvr : List Reg := [
  ⟨0x100, 1, 4, [⟨0, 15, .ro, 0⟩], false⟩,
  ⟨0x104, 1, 4, [⟨0, 31, .ro, 0⟩], false⟩,
  ⟨0x108, 1, 4, [⟨0, 31, .ro, 0⟩], false⟩,
  ⟨0x10C, 1, 4, [⟨0, 31, .rc, 0⟩], false⟩,
  ⟨0x110, 1, 4, [⟨0, 14, .rw, 0⟩], false⟩,
  ⟨0x114, 1, 4, [⟨0, 7, .ro, 0⟩, ⟨8, 15, .ro, 0⟩], false⟩,
  ⟨0x118, 1, 4, [⟨0, 15, .rw, 0⟩, ⟨16, 31, .rw, 0⟩], false⟩,
  ⟨0x11C, 1, 4, [⟨0, 0, .wo, 0⟩], false⟩,
  ⟨0x120, 1, 4, [⟨0, 1, .ro, 0⟩], false⟩,
  ⟨0x124, 1, 4, [⟨0, 31, .rc, 0⟩], false⟩,
  ⟨0x140, 1, 4, [⟨0, 3, .ro, 0⟩, ⟨4, 4, .ro, 0⟩, ⟨5, 5, .ro, 0⟩, ⟨6, 7, .ro, 0⟩], false⟩,
  ⟨0x144, 1, 4, [⟨0, 0, .rw, 0⟩], false⟩,
  ⟨0x148, 1, 4, [⟨0, 31, .rw, 0⟩], false⟩,
  ⟨0x14C, 1, 4, [⟨0, 31, .rw, 0⟩], false⟩,
  ⟨0x150, 1, 4, [⟨0, 31, .rw, 0⟩], false⟩,
  ⟨0x154, 1, 4, [⟨0, 31, .rw, 0⟩], false⟩,
  ⟨0x158, 1, 4, [⟨0, 31, .rw, 0⟩], false⟩,
  ⟨0x15C, 1, 4, [⟨0, 1, .wo, 0⟩], false⟩,
  ⟨0x700, 64, 4, [⟨0, 31, .ro, 0⟩], false⟩,
  ⟨0x800, 512, 4, [⟨0, 31, .ro, 0⟩], false⟩]

/-- Registers of the security page. -/
def regsSec : List Reg := [
  ⟨0x100, 1, 4, [⟨0, 1, .ro, 0⟩, ⟨2, 2, .ro, 0⟩, ⟨3, 3, .ro, 0⟩, ⟨4, 8, .ro, 0⟩, ⟨9, 9, .ro, 0⟩, ⟨10, 12, .ro, 0⟩, ⟨16, 19, .ro, 0⟩], false⟩,
  ⟨0x104, 1, 4, [⟨0, 3, .wo, 0⟩, ⟨4, 8, .wo, 0⟩, ⟨9, 9, .wo, 0⟩, ⟨10, 13, .wo, 0⟩], false⟩,
  ⟨0x108, 1, 4, [⟨0, 1, .rw, 0⟩], false⟩,
  ⟨0x10C, 1, 4, [⟨0, 12, .rw, 0⟩], false⟩,
  ⟨0x110, 1, 4, [⟨0, 15, .rw, 3600⟩], false⟩,
  ⟨0x120, 1, 4, [⟨0, 3, .rw, 0⟩, ⟨4, 8, .rw, 0⟩], false⟩,
  ⟨0x124, 1, 4, [⟨0, 31, .rw, 0⟩], false⟩,
  ⟨0x128, 1, 4, [⟨0, 31, .rw, 0⟩], false⟩,
  ⟨0x12C, 1, 4, [⟨0, 31, .rw, 0⟩], false⟩,
  ⟨0x130, 1, 4, [⟨0, 31, .rw, 0⟩], false⟩,
  ⟨0x800, 512, 4, [⟨0, 31, .rw, 0⟩], false⟩]

/-- Registers of the power and thermal page. -/
def regsPwr : List Reg := [
  ⟨0x100, 1, 4, [⟨0, 1, .rw, 0⟩, ⟨4, 15, .rw, 1950⟩], false⟩,
  ⟨0x104, 1, 4, [⟨0, 2, .ro, 1⟩, ⟨3, 3, .ro, 0⟩, ⟨4, 6, .ro, 0⟩, ⟨8, 10, .ro, 0⟩], false⟩,
  ⟨0x108, 1, 4, [⟨0, 15, .ro, 0⟩, ⟨16, 31, .ro, 0⟩], false⟩,
  ⟨0x10C, 1, 4, [⟨0, 11, .ro, 0⟩, ⟨16, 27, .rc, 0⟩], false⟩,
  ⟨0x110, 1, 4, [⟨0, 31, .ro, 0⟩], false⟩,
  ⟨0x114, 1, 4, [⟨0, 31, .ro, 0⟩], false⟩,
  ⟨0x118, 1, 4, [⟨0, 31, .ro, 0⟩], false⟩,
  ⟨0x11C, 1, 4, [⟨0, 31, .ro, 0⟩], false⟩,
  ⟨0x120, 1, 4, [⟨0, 31, .ro, 0⟩], false⟩,
  ⟨0x124, 1, 4, [⟨0, 7, .ro, 0⟩, ⟨8, 15, .ro, 0⟩], false⟩,
  ⟨0x128, 1, 4, [⟨0, 15, .rc, 0⟩, ⟨16, 31, .rc, 0⟩], false⟩,
  ⟨0x12C, 1, 4, [⟨0, 1, .wo, 0⟩], false⟩,
  ⟨0x130, 1, 4, [⟨0, 1, .ro, 0⟩], false⟩,
  ⟨0x134, 1, 4, [⟨0, 31, .ro, 0⟩], false⟩,
  ⟨0x138, 1, 4, [⟨0, 31, .ro, 0⟩], false⟩]

/-- Registers of the partition page. -/
def regsPart : List Reg := [
  ⟨0x100, 1, 4, [⟨0, 2, .wo, 0⟩], false⟩,
  ⟨0x104, 1, 4, [⟨0, 2, .ro, 0⟩, ⟨3, 3, .ro, 0⟩, ⟨4, 6, .ro, 0⟩, ⟨7, 7, .ro, 0⟩, ⟨8, 8, .ro, 0⟩], false⟩,
  ⟨0x108, 1, 4, [⟨0, 7, .rw, 1⟩, ⟨8, 8, .rw, 0⟩, ⟨9, 9, .rw, 0⟩], false⟩,
  ⟨0x10C, 1, 4, [⟨0, 24, .rw, 0⟩], false⟩,
  ⟨0x110, 1, 4, [⟨0, 31, .rw, 0⟩], false⟩,
  ⟨0x114, 1, 4, [⟨0, 31, .rw, 0⟩], false⟩,
  ⟨0x118, 1, 4, [⟨0, 31, .ro, 0⟩], false⟩,
  ⟨0x11C, 1, 4, [⟨0, 13, .rw, 1000⟩, ⟨16, 29, .rw, 100⟩], false⟩,
  ⟨0x120, 1, 4, [⟨0, 15, .rw, 0⟩], false⟩,
  ⟨0x124, 1, 4, [⟨0, 15, .rc, 0⟩, ⟨16, 31, .rc, 0⟩], false⟩,
  ⟨0x128, 1, 4, [⟨0, 31, .rc, 0⟩], false⟩,
  ⟨0x130, 1, 4, [⟨0, 31, .rw, 0⟩], false⟩,
  ⟨0x134, 1, 4, [⟨0, 31, .rw, 0⟩], false⟩,
  ⟨0x138, 1, 4, [⟨0, 16, .rw, 0⟩], false⟩,
  ⟨0x13C, 1, 4, [⟨0, 31, .ro, 0⟩], false⟩,
  ⟨0x140, 1, 4, [⟨0, 31, .rw, 0⟩], false⟩,
  ⟨0x144, 1, 4, [⟨0, 31, .rw, 0⟩], false⟩,
  ⟨0x148, 1, 4, [⟨0, 3, .rw, 0⟩, ⟨4, 4, .rw, 0⟩], false⟩,
  ⟨0x160, 1, 4, [⟨0, 31, .rw, 0⟩], false⟩,
  ⟨0x164, 1, 4, [⟨0, 31, .rw, 0⟩], false⟩,
  ⟨0x168, 1, 4, [⟨0, 3, .rw, 0⟩, ⟨4, 4, .rw, 0⟩], false⟩,
  ⟨0x16C, 1, 4, [⟨0, 31, .ro, 0⟩], false⟩,
  ⟨0x170, 1, 4, [⟨0, 31, .rw, 0⟩], false⟩,
  ⟨0x180, 6, 4, [⟨0, 31, .rw, 0⟩], false⟩,
  ⟨0x198, 6, 4, [⟨0, 31, .rw, 0⟩], false⟩,
  ⟨0x200, 1, 4, [⟨0, 31, .rw, 0⟩], false⟩,
  ⟨0x204, 1, 4, [⟨0, 31, .ro, 0⟩], false⟩,
  ⟨0x208, 1, 4, [⟨0, 12, .rw, 0⟩, ⟨31, 31, .ro, 0⟩], false⟩,
  ⟨0x20C, 1, 4, [⟨0, 31, .ro, 0⟩], false⟩,
  ⟨0x210, 1, 4, [⟨0, 0, .rw, 0⟩, ⟨1, 1, .ro, 0⟩, ⟨4, 14, .rw, 16⟩, ⟨15, 22, .rw, 8⟩], false⟩,
  ⟨0x214, 1, 4, [⟨0, 31, .rw, 0⟩], false⟩,
  ⟨0x218, 1, 4, [⟨0, 24, .ro, 0⟩], false⟩,
  ⟨0x21C, 1, 4, [⟨0, 24, .ro, 0⟩], false⟩,
  ⟨0x220, 1, 4, [⟨0, 15, .rc, 0⟩, ⟨16, 31, .rc, 0⟩], false⟩,
  ⟨0x224, 1, 4, [⟨0, 31, .rc, 0⟩], false⟩,
  ⟨0x228, 1, 4, [⟨0, 15, .rc, 0⟩, ⟨16, 31, .rc, 0⟩], false⟩,
  ⟨0x22C, 1, 4, [⟨0, 31, .rc, 0⟩], false⟩,
  ⟨0x300, 32, 4, [⟨0, 31, .rw, 0⟩], false⟩,
  ⟨0x400, 64, 16, [⟨0, 31, .rw, 0⟩], false⟩,
  ⟨0x404, 64, 16, [⟨0, 19, .rw, 0⟩, ⟨24, 29, .rw, 0⟩, ⟨31, 31, .rw, 0⟩], false⟩,
  ⟨0x408, 64, 16, [⟨0, 31, .rw, 0⟩], false⟩,
  ⟨0x40C, 64, 16, [⟨0, 4, .rw, 0⟩], false⟩]

/-- Registers of the capture page. -/
def regsCapt : List Reg := [
  ⟨0x100, 1, 4, [⟨0, 0, .rw, 0⟩, ⟨1, 1, .rw, 0⟩, ⟨2, 2, .rw, 0⟩, ⟨8, 11, .rw, 0⟩, ⟨16, 20, .rw, 31⟩], false⟩,
  ⟨0x104, 1, 4, [⟨0, 31, .rw, 0⟩], false⟩,
  ⟨0x108, 1, 4, [⟨0, 31, .rw, 0⟩], false⟩,
  ⟨0x10C, 1, 4, [⟨0, 31, .ro, 0⟩], false⟩,
  ⟨0x110, 1, 4, [⟨0, 31, .ro, 0⟩], false⟩,
  ⟨0x114, 1, 4, [⟨0, 31, .rw, 0⟩], false⟩,
  ⟨0x118, 1, 4, [⟨0, 31, .rw, 0⟩], false⟩,
  ⟨0x11C, 1, 4, [⟨0, 15, .rc, 0⟩, ⟨16, 31, .rc, 0⟩], false⟩,
  ⟨0x120, 1, 4, [⟨0, 7, .rw, 16⟩], false⟩,
  ⟨0x140, 1, 4, [⟨0, 31, .rw, 0⟩], false⟩,
  ⟨0x144, 1, 4, [⟨0, 31, .rw, 0⟩], false⟩,
  ⟨0x148, 1, 4, [⟨0, 31, .rw, 0⟩], false⟩,
  ⟨0x14C, 1, 4, [⟨0, 31, .rw, 0⟩], false⟩,
  ⟨0x150, 1, 4, [⟨0, 31, .rw, 0⟩], false⟩,
  ⟨0x154, 1, 4, [⟨0, 1, .wo, 0⟩, ⟨2, 3, .wo, 0⟩], false⟩,
  ⟨0x158, 1, 4, [⟨0, 0, .ro, 0⟩, ⟨1, 2, .ro, 0⟩, ⟨3, 31, .ro, 0⟩], false⟩,
  ⟨0x15C, 1, 4, [⟨0, 15, .ro, 0⟩, ⟨16, 31, .ro, 0⟩], false⟩,
  ⟨0x160, 1, 4, [⟨0, 15, .ro, 0⟩, ⟨16, 31, .ro, 0⟩], false⟩,
  ⟨0x164, 1, 4, [⟨0, 31, .rw, 0⟩], false⟩,
  ⟨0x168, 1, 4, [⟨0, 31, .rw, 0⟩], false⟩,
  ⟨0x16C, 1, 4, [⟨0, 31, .rw, 0⟩], false⟩]

/-- Registers of the metering page. -/
def regsMtr : List Reg := [
  ⟨0x100, 1, 4, [⟨0, 0, .wo, 0⟩], false⟩,
  ⟨0x104, 37, 4, [⟨0, 31, .ro, 0⟩], false⟩]

/-- The registers of a page kind from offset 0x100 on (R539). -/
def kindRegs : Kind → List Reg
  | .msix | .pba => []
  | .root => regsRoot
  | .tcl => regsTcl
  | .asch => regsAsch
  | .ring => regsRing
  | .dir => regsDir
  | .rule => regsRule
  | .hbm => regsHbm
  | .bth0 => regsBth0
  | .bth1 => regsBth1
  | .net => regsNet
  | .shp0 => regsShp0
  | .shp1 => regsShp1
  | .cxl => regsCxl
  | .cab => regsCab
  | .stw => regsStw
  | .evr => regsEvr
  | .sec => regsSec
  | .pwr => regsPwr
  | .part => regsPart
  | .capt => regsCapt
  | .mtr => regsMtr

/-- The fields of the register at offset `off` of a page of kind `k` and instance `n`; reserved offsets have none (R9).
The header registers are those of R529; `PG_EVT` and its companions exist bit by bit for the events of R539. -/
def regFields (k : Kind) (n off : Nat) : List RField :=
  match k with
  | .msix | .pba => []
  | _ =>
    if off = 0x000 ∨ off = 0x004 ∨ off = 0x00C then [⟨0, 31, .ro, 0⟩]
    else if off = 0x008 then [⟨0, 10, .rw, 0⟩, ⟨15, 15, .rw, 0⟩]
    else if off = 0x010 then if eventBits k = 0 then [] else [⟨0, eventBits k - 1, .w1c, 0⟩]
    else if off = 0x014 then if eventBits k = 0 then [] else [⟨0, eventBits k - 1, .rw, 0⟩]
    else if off = 0x018 then if eventBits k = 0 then [] else [⟨0, eventBits k - 1, .wo, 0⟩]
    else if off = 0x01C then if eventBits k = 0 then [] else [⟨0, 31, .rc, 0⟩]
    else
      match (kindRegs k).find? (fun r => (decide (r.off ≤ off) && decide (off < r.off + r.count * r.stride)
          && decide ((off - r.off) % r.stride = 0) && (!r.only0 || decide (n = 0)))) with
      | some r => r.fields
      | none => []

/-- The value a register has after reset, from its fields' reset values. -/
def fieldsReset (fs : List RField) : Nat := fs.foldl (fun a f => a + f.rst * 2 ^ f.lo) 0

/-- The reset value of the register at a BAR0 byte offset. -/
def regReset (addr : Nat) : Word :=
  match pageKind (addr / 4096) with
  | none => 0
  | some (k, n) => BitVec.ofNat 32 (fieldsReset (regFields k n (addr % 4096)))

/-- The mask of the bits of a register whose fields have access code `a`. -/
def accMask (fs : List RField) (a : Acc) : Nat :=
  fs.foldl (fun m f => if f.acc = a then m + (2 ^ (f.hi + 1 - f.lo) - 1) * 2 ^ f.lo else m) 0

end Sys2Proof.Machine
end

