-- ==== Sys2Proof/Machine/TypesBooth.lean ====
section
/-! DEFINITION. The data of the booths and the front stacks (07_booths.md). Plain data only. -/
namespace Sys2Proof.Machine

/-- A job entry (R205). `seg` is `J_SEG`. `req`, `run` and `try_` are the model's own: the request, the run whose segment `J_SEG` addresses (R145), and the
attempt of the request (R167) that wrote the entry. -/
structure Job where
  script : Nat := 0
  slot   : Nat := 0
  place  : Nat := 0
  runLen : Nat := 0
  dplace : Nat := 0
  count  : Nat := 0
  first  : Nat := 0
  lower  : Nat := 0
  snap   : Nat := 0
  t      : Nat := 0
  thread : Nat := 0
  seg    : Nat := 0
  req    : Nat := 0
  run    : Nat := 0
  try_   : Nat := 0
deriving DecidableEq, Repr

/-- Whether a booth is parked (R197): for an all-bank refresh (R215), or for a service of accesses (R216). A forced refresh of a bank and a clock change
are over within one command (log entry 84). -/
inductive Park where
  | no | refresh | access
deriving DecidableEq, Repr

/-- The state of one booth (R193), its queue (R204) and its fault marks (R222, R223). `rows` are the open drawer rows,
earliest opened first (R196), and `held` those that a parked booth reopens before it issues again; `atEnd` says that the script position is at a step end
(R197); `ended` is set once END has been reached (R202). `waits` are the banks of the pair to which accesses are queued (R216), and `serviced` says that no
step has ended since the last service. -/
structure Booth where
  v        : List (List (BitVec 16)) := List.replicate 8 (List.replicate 16 0)
  a        : List (List (BitVec 32)) := List.replicate 4 (List.replicate 16 0)
  sc       : List Word := List.replicate 8 0
  win      : List Byte := List.replicate 64 0
  winLo    : Option Nat := none
  winHi    : Option Nat := none
  cb       : List (BitVec 16) := List.replicate 16 0
  rows     : List Nat := []
  held     : List Nat := []
  waits    : List Nat := []
  queue    : List Job := []
  job      : Option Job := none
  entry    : Nat := 0
  atEnd    : Bool := true
  ended    : Bool := false
  stopReq  : Bool := false
  park     : Park := .no
  askPark  : Bool := false
  restarted : Bool := false
  disabled : Bool := false
  serviced : Bool := false
deriving DecidableEq, Repr

/-- A feeder slot (R206): its key, its parameters, the query heads in C, the group sums and the codebook table. -/
structure Slot where
  req    : Nat := 0
  head   : Nat := 0
  round  : Nat := 0
  part   : Nat := 0
  cfmt   : Nat := 0
  g      : Nat := 0
  d      : Nat := 0
  cd     : BitVec 32 := 0
  query  : List (BitVec 16) := []
  sums   : List (BitVec 32) := []
  cb     : List (BitVec 16) := []
deriving DecidableEq, Repr

/-- State of an all-bank refresh of one DRAM die (R215). -/
inductive AllBank where
  | due | issued
deriving DecidableEq, Repr

/-- The command area and refresh state of a front stack (R203, R204, R206, R213-R215). `owed` counts the intervals by
which a refresh of a bank has been postponed, keyed `8 * booth + bank`; `abr` holds the dies with an all-bank
refresh under way. -/
structure FStack where
  script : List Word := List.replicate 64 0
  desc   : List (List Byte) := List.replicate 8 (List.replicate 8 0)
  slots  : Tab Slot := []
  owed   : Tab Nat := []
  abr    : Tab AllBank := []
deriving DecidableEq, Repr

end Sys2Proof.Machine
end

