-- ==== Sys2Proof/Machine/TypesSys.lean ====
section
/-! DEFINITION. The data of partitions, mirrors, metering, security, the steward, observation and power
(14_composition_and_failure.md to 18_power_clocks_and_physical.md). Plain data only. -/
namespace Sys2Proof.Machine

/-- Partition states (R390). -/
inductive PartState where
  | free | live | fenced | resetting | destroying
deriving DecidableEq, Repr

/-- Metering counters of a partition (R498), in integer units: tile-microseconds, MiB-microseconds, bytes, counts. -/
structure Meter where
  tile  : Nat := 0
  t0    : Nat := 0
  t1    : Nat := 0
  t2    : Nat := 0
  rx    : List Nat := [0, 0, 0, 0]
  tx    : List Nat := [0, 0, 0, 0]
  busy  : Nat := 0
  admitN : Nat := 0
  keys  : Nat := 0
  cold  : Nat := 0
deriving DecidableEq, Repr

/-- What SNAP latched (R499). -/
structure Latch where
  now   : Nat := 0
  start : Nat := 0
  pseq  : Nat := 0
  m     : Meter := {}
deriving DecidableEq, Repr

/-- A fence that has been applied and whose completion waits (R402), or one that the ringmaster still checks. -/
structure FenceWait where
  req   : Nat := 0
  older : List Nat := []
deriving DecidableEq, Repr

/-- A window change in progress (R435). -/
structure WinWait where
  win   : Nat := 0
  older : List Nat := []
deriving DecidableEq, Repr

/-- A partition (R390-R403, R419-R422, R435, R445). `scratchOld` is the reserve that still holds in the stacks whose segments
exceed a lowered `scratch` (R231); `before` the maps that a change in progress replaces (R455). -/
structure Part where
  state    : PartState := .free
  sealed   : Bool := false
  scratch  : Nat := 16
  scratchOld : Nat := 0
  graceEnd : Option Nat := none
  leaseFenced : Bool := false
  wasFenced : Bool := false
  busy     : Bool := false
  rmTiles  : List Nat := []
  rmWays   : List Nat := []
  rmPcs    : List Nat := []
  before   : Option (List Nat × List Nat × List Nat) := none
  windows  : Tab (Nat × Nat) := []
  winWait  : Option WinWait := none
  excluded : List Nat := []
  fences   : List FenceWait := []
  step     : Nat := 0
  chain    : List Byte := []
  nload    : Nat := 0
  keys     : Option Nat := none
  capSeq   : Nat := 0
  capLost  : Nat := 0
  meter    : Meter := {}
  pseq     : Nat := 0
  pstart   : Nat := 0
  pfirst   : Nat := 0
  mtrHeld  : Bool := false
  latch    : Latch := {}
deriving DecidableEq, Repr

/-- A mirror link of a source shelf (R410-R417). `acks` is the highest `ME_SEQ` acknowledged, `sent` the entries sent and not
acknowledged, as (`ME_SEQ`, end in the stream), `backlog` the entries not yet sent, `seed` the `MIRROR_SET` that waits for
`SEEDED`, numbered `seedSeq`, `since` when the oldest outstanding acknowledgement began to be awaited. -/
structure Link where
  part    : Nat := 0
  peer    : Nat := 0
  shelf   : Nat := 0
  sync    : Bool := false
  active  : Bool := false
  seq     : Nat := 0
  acks    : Nat := 0
  seed    : Option Nat := none
  seedSeq : Nat := 0
  backlog : List (List Byte) := []
  sent    : List (Nat × Nat) := []
  since   : Option Nat := none
  stalled : Bool := false
deriving DecidableEq, Repr

/-- Byte counts of one sub-inbox and of the traffic towards that peer (R412). -/
structure SubInbox where
  got  : Nat := 0
  sent : Nat := 0
  ackd : Nat := 0
deriving DecidableEq, Repr

/-- The root of trust and the security block (R424-R449). `devKeys` is the device data key with the device tag key
above it, as `keys` of a partition is its two keys (R426, R428); `svnUsed` is the `SVN` of the last derivation (R425). -/
structure Sec where
  devKeys   : Nat := 0
  svn       : Nat := 0
  svnUsed   : Nat := 0
  m1        : List Byte := []
  m2        : List Byte := []
  debugByte : Nat := 0
  fenceKey  : Option (List Byte) := none
  trust     : Tab (List Byte) := []
  mb        : Tab Byte := []
  level     : Nat := 0
  since1    : Bool := false
  since2    : Bool := false
  challenge : List Byte := []
  fails     : Nat := 0
  reports   : Nat := 0
  result    : Nat := 0
deriving DecidableEq, Repr

/-- An image as a firmware slot stores it (R457, R461). -/
structure Image where
  header  : List Byte := []
  table   : List Byte := []
  capsule : List Byte := []
  blocks  : List (List Byte) := []
deriving DecidableEq, Repr

/-- A boot record (R466). -/
structure BootRec where
  valid   : Bool := false
  active  : Nat := 0
  pending : Bool := false
  started : Bool := false
  trial   : Nat := 0
  slotA   : Nat := 0
  slotB   : Nat := 0
  gen     : Nat := 0
  half    : Nat := 0
  oldKept : Bool := false
  boots   : Nat := 0
deriving DecidableEq, Repr

/-- Ringmaster states (R454, R456). -/
inductive Rm where
  | running | restarting | held
deriving DecidableEq, Repr

/-- A firmware command in progress (R463, R465): a stream from host memory, its blocks from `base` on, or a verification. -/
structure FwJob where
  stream : Bool := false
  slot   : Nat := 0
  base   : Nat := 0
deriving DecidableEq, Repr

/-- The steward: ringmaster, work classes, firmware, settings (R451-R472). `trialEnded` says that the boot ROM ended
a started trial in this passage; `halves` are the formats of the settings halves. `lastUp` is when a port was last up, in milliseconds (R419).
`queues` is the fill of the four class queues: the work of a command is done within it, so no command raises it (log entry 117). -/
structure Stw where
  rm        : Rm := .running
  lastOp    : Bool := false
  queues    : List Nat := [0, 0, 0, 0]
  load      : Nat := 0
  defer3    : Bool := false
  defer23   : Bool := false
  calm3     : Nat := 0
  calm23    : Nat := 0
  expiries  : List Nat := []
  slotA     : Option Image := none
  slotB     : Option Image := none
  recA      : BootRec := {}
  recB      : BootRec := {}
  runSlot   : Nat := 0
  runVer    : Nat := 0
  fw        : Option FwJob := none
  fwResult  : Nat := 0
  fwDone    : Nat := 0
  trialEnded : Bool := false
  cfgFormat : Nat := 0
  cfgHalf   : Nat := 0
  halves    : List Nat := [0, 0]
  recovery  : Bool := false
  recBytes  : List Byte := []
  recResult : Nat := 0xFF
  recWait   : Bool := false
  lastUp    : Nat := 0
deriving DecidableEq, Repr

/-- State of a dump slot (R494, DUMP_STAT). -/
inductive DumpState where
  | empty | unreleased | released | incomplete
deriving DecidableEq, Repr

/-- A dump slot (R494, R495): its state, its number, whether its header has been written, whether its dump is reduced, and its bytes. -/
structure DumpSlot where
  state  : DumpState := .empty
  no     : Nat := 0
  header : Bool := false
  reduced : Bool := false
  bytes  : Tab Byte := []
deriving DecidableEq, Repr

/-- The event recorder and the dump engine (R473-R483, R493-R497). A record of `log` is its 32 bytes (R474); `cause` is the
record of the severity-3 event that a dump is due or under way for. -/
structure Evr where
  log       : List (List Byte) := []
  nextSeq   : Nat := 0
  overflow  : Nat := 0
  inGroup   : Bool := false
  dump0     : DumpSlot := {}
  dump1     : DumpSlot := {}
  dumpNo    : Nat := 0
  newest    : Nat := 0
  active    : Option Nat := none
  cause     : Option (List Byte) := none
  result    : Nat := 0
  clrResult : Nat := 0
deriving DecidableEq, Repr

/-- A replay in progress or ended in a partition (R489-R492); `cur` is the replayed request whose verdict is awaited. -/
structure Replay where
  busy   : Bool := false
  cur    : Nat := 0
  result : Nat := 0
  die    : Nat := 0
  pos    : Nat := 0
  index  : Nat := 0
  prev   : Option Nat := none
  nMatch : Nat := 0
  within : Nat := 0
  differ : Nat := 0
  skip   : Nat := 0
deriving DecidableEq, Repr

/-- Device states (R513), in the order of their codes. -/
inductive DevState where
  | off | boot | train | ready | serve | drain | dump | halt
deriving DecidableEq, Repr

/-- The device state and the sideband pins (R508, R513, R532). Pins are electrical levels. `bootStep` is how far a passage through `BOOT`
has come: 0 the boot ROM, 1 the loader, 2 the runtime is next. -/
structure Dev where
  state     : DevState := .boot
  pagesOpen : Bool := false
  drained   : Bool := false
  pwrEn     : Bool := true
  pwrGood   : Bool := true
  resetN    : Bool := true
  alertN    : Bool := true
  tripN     : Bool := true
  presentN  : Bool := false
  tripped   : Bool := false
  bootCause : Nat := 1
  bootStep  : Nat := 0
deriving DecidableEq, Repr

/-- Thermal state of one source: its step, readings 3 degrees below the entry threshold, readings above the trip
limit, and its temperature in 1/16 degrees (R519, R522). -/
structure Therm where
  step  : Nat := 0
  cool  : Nat := 0
  hot   : Nat := 0
  temp  : Int := 0
deriving DecidableEq, Repr

/-- Power and thermal control (R504, R505, R510, R516-R521). `hist` are the powers measured in the last second, newest first; `since` the
measurements since the last rise for the 1 s average, `under` those in a row below 95 % of the limit. `appliedT` is the clock step of a tile cluster,
`appliedB` that of the booths of die `d` of front stack `f`, under `16 f + d`. -/
structure Pwr where
  vin      : Nat := 0
  iin      : Nat := 0
  p1s      : Nat := 0
  peak     : Nat := 0
  energyMj : Nat := 0
  mode     : Nat := 0
  cap      : Nat := 1950
  nextMode : Option (Nat × Nat) := none
  step     : Nat := 0
  since    : Nat := 10
  under    : Nat := 0
  hist     : List Nat := []
  appliedT : Tab Nat := []
  appliedB : Tab Nat := []
  therm    : Tab Therm := []
  inlet    : Int := 0
  outlet   : Int := 0
  inletHot : Nat := 0
  inBad    : Bool := false
  sbAlert  : Nat := 0
  result   : Nat := 0
deriving DecidableEq, Repr

/-- The fabric links (R22-R24): the disabled links, and by route the die that carries its traffic: `via` for a route that no
longer takes the path of R23, `switching` for a route that will switch once its flits on the old path are acknowledged.
Route `64 * n + 8 * source + destination`, dies AD0-AD3 0-3, PD0 4, PD1 5, SD 6; between PD0 and PD1, `n` is the attention
die that the traffic concerns, and 4 for host register accesses. -/
structure Fabric where
  down      : List Nat := []
  via       : Tab Nat := []
  switching : Tab Nat := []
deriving DecidableEq, Repr

/-- Time (R30, R31): the counter of each of the 175 islands in the row order of R26, its wraps since the island's last
reset, and the steward's nanoseconds since its reset (source of the 1 ms counter and the microsecond count). -/
structure Time where
  ctr   : List Nat := List.replicate 175 0
  wraps : List Nat := List.replicate 175 0
  ns    : Nat := 0
deriving DecidableEq, Repr

/-- What is fixed per part (R13, R424, R536, R443): stepping, serial, lifecycle, the disabled tile of each cluster. -/
structure Chip where
  step      : Nat := 0x0200
  serial    : Nat := 0
  lifecycle : Nat := 2
  tileOff   : List Nat := List.replicate 16 12
  boothCap  : Bool := true
  dcCap     : Bool := true
  replayCap : Bool := true
  sealedCap : Bool := true
  mxf4Cap   : Bool := true
  leaseCap  : Bool := true
  cabCap    : Bool := true
deriving DecidableEq, Repr

/-- MSI-X (R528, R531): entries as (address, data, masked) by vector, pending bits, enable and function mask. -/
structure Msix where
  entries : Tab (Nat × Nat × Bool) := []
  pend    : List Nat := []
  enable  : Bool := false
  fmask   : Bool := false
deriving DecidableEq, Repr

/-- What the device hands to the outside (the model's own record of its outputs, log entry 13). -/
inductive Out where
  | msix (vector addr data : Nat)
  | read (offset : Nat) (width : Nat) (value : Nat)
  | frame (port : Nat) (what : List Byte)
  /-- a packet of queue pair `qpn`, with codepoint ECT(0) and a DSCP (R335); `p.qpn` is the peer's number -/
  | packet (port qpn dscp : Nat) (p : Packet)
  | hs (port : Nat) (bytes : List Byte)
  | cxlData (dpa : Nat) (poison : Bool) (bytes : List Byte)
  | cxlDrop (dpa : Nat)
  | unsupported (what : Nat)
  /-- a CXL.io access answered as unsupported (R386), by BAR0 offset -/
  | refusedIo (offset : Nat)
  | mailbox (code : Nat) (ret : Nat) (bytes : List Byte)
  | bisnp (line : Nat)
  | snoopAns (line : Nat) (hit dirty : Bool)
  | smbus (bytes : List Byte)
  | usb (bytes : List Byte)
  | debug (accepted : Bool)
  | flit (link : Nat) (count : Nat)
deriving DecidableEq, Repr

end Sys2Proof.Machine
end

