-- ==== Sys2Proof/Machine/State.lean ====
section
/-! DEFINITION. The state of the module, the reasons a command can stop, and the state right after reset. -/
namespace Sys2Proof.Machine

/-- What a command can stop the model with. -/
inductive Fault where
  /-- Raised by a meaning whose operand no event of the hardware can carry (a list of the wrong length, a number outside
  its range). Safe: the hardware has no such event. -/
  | operand (what : String)
deriving DecidableEq, Repr

/-- Why a command has no meaning. -/
inductive Refusal where
  /-- Raised by `exec` alone, for a command that has no meaning yet. Safe: the machine stops. -/
  | notModelled (mnemonic : String)
deriving DecidableEq, Repr

/-- The state of the module: everything the spec gives it, the queue `pending` of waiting commands, and the model's own
`free`, `out`, `nextId` (log entries 1, 13, 8). Every keyed part is a `Tab`, whose unlisted entries have the default
value of their type. -/
structure State where
  dev       : Dev := {}
  fabric    : Fabric := {}
  time      : Time := {}
  chip      : Chip := {}
  /-- owner of way `48 * die + way` -/
  wayOwner  : Tab Nat := []
  /-- owner of tile `12 * cluster + tile` -/
  tileOwner : Tab Nat := []
  /-- owner of pseudo-channel `64 * stack + pc` -/
  pcOwner   : Tab Nat := []
  /-- bucket of a tile -/
  tileTag   : Tab Nat := []
  /-- turns of the scheduler of a die -/
  sched     : Tab Sched := []
  dir       : Dir := {}
  rings     : Tab Ring := []
  armed     : List Armed := []
  /-- objects under `65536 * partition + handle` -/
  objects   : Tab Obj := []
  /-- admitted requests by ticket, in order of admission -/
  reqs      : Tab Req := []
  nextId    : Nat := 1
  hostMem   : Tab Byte := []
  hostBad   : List Nat := []
  devMem    : Tab Byte := []
  /-- poisoned lines of device memory with their `CAUSE` -/
  devBad    : Tab Nat := []
  booths    : Tab Booth := []
  fstacks   : Tab FStack := []
  tiers     : Tiers := {}
  cab       : Cab := {}
  hbm       : Tab Hbm := []
  /-- vector indexes under `65536 * partition + handle` -/
  vidx      : Tab VIndex := []
  rules     : Rules := {}
  ports     : Tab Port := []
  qps       : Tab Qp := []
  regions   : Tab Region := []
  regionGen : Tab Nat := []
  regionBusy : Option RegionWait := none
  cxl       : Cxl := {}
  parts     : Tab Part := []
  links     : Tab Link := []
  pulls     : Tab PullJob := []
  /-- sub-inbox `64 * partition + peer` -/
  sub       : Tab SubInbox := []
  sec       : Sec := {}
  stw       : Stw := {}
  evr       : Evr := {}
  replay    : Tab Replay := []
  pwr       : Pwr := {}
  /-- register words by BAR0 offset -/
  regs      : Tab Word := []
  msix      : Msix := {}
  free      : Nat := 0
  out       : List Out := []
  pending   : List Instr := []
deriving DecidableEq, Repr

/-- The module right after reset: in `BOOT`, no ring, shelf, object or partition, every port down, every table empty,
memory with nothing listed. -/
def State.reset : State := {}

end Sys2Proof.Machine
end

