-- ==== Sys2Proof/Machine/Ops.lean ====
section
/-! DEFINITION. The named operations over the state: sparse tables, bytes, registers, memory, free values, time. -/
namespace Sys2Proof.Machine

/-- The outcome of a command. -/
abbrev Res := Host.Outcome State Fault Refusal

/-! ### Sparse tables -/

/-- The entry of a table under a key. -/
def tget? {α : Type} : Tab α → Nat → Option α
  | [], _ => none
  | (k', v) :: t, k => if k' = k then some v else tget? t k

/-- The entry of a table under a key, or `d` where none is listed. -/
def tget {α : Type} (d : α) (t : Tab α) (k : Nat) : α := (tget? t k).getD d

/-- A table with the entry of a key set, in key order. -/
def tput {α : Type} : Tab α → Nat → α → Tab α
  | [], k, v => [(k, v)]
  | (k', v') :: t, k, v =>
    if k' < k then (k', v') :: tput t k v else if k' = k then (k, v) :: t else (k, v) :: (k', v') :: t

/-- A table without the entry of a key. -/
def tdel {α : Type} (t : Tab α) (k : Nat) : Tab α := t.filter (fun e => decide (e.1 ≠ k))

/-- A table whose unlisted entries read `d`, with one entry set: writing `d` removes the entry, so that equal contents are
equal tables. -/
def tset {α : Type} [DecidableEq α] (d : α) (t : Tab α) (k : Nat) (v : α) : Tab α :=
  if v = d then tdel t k else tput t k v

/-- The keys of a table. -/
def tkeys {α : Type} (t : Tab α) : List Nat := t.map (·.1)

/-- The canonical form of a table: keys strictly rising. -/
def tsorted {α : Type} : Tab α → Bool
  | [] => true
  | [_] => true
  | (k, _) :: (k', v') :: t => decide (k < k') && tsorted ((k', v') :: t)

/-! ### Lists and numbers -/

/-- A list with its i-th element replaced by `f` of it. -/
def modAt {α : Type} (f : α → α) : Nat → List α → List α
  | _, [] => []
  | 0, a :: l => f a :: l
  | n + 1, a :: l => a :: modAt f n l

/-- The number that bytes spell, least significant first (R5). -/
def leNat : List Byte → Nat
  | [] => 0
  | b :: l => b.toNat + 256 * leNat l

/-- The `n` bytes of a number, least significant first (R5). -/
def leBytes : Nat → Nat → List Byte
  | 0, _ => []
  | n + 1, v => BitVec.ofNat 8 v :: leBytes n (v / 256)

/-- `n` bytes of a list from offset `o`. -/
def bslice (l : List Byte) (o n : Nat) : List Byte := (l.drop o).take n

/-- The number in `n` bytes at offset `o`. -/
def le (l : List Byte) (o n : Nat) : Nat := leNat (bslice l o n)

/-- Bits `[lo + n - 1 : lo]` of a number. -/
def bits (v lo n : Nat) : Nat := v / 2 ^ lo % 2 ^ n

/-- Bit `i` of a number. -/
def bit (v i : Nat) : Bool := v / 2 ^ i % 2 = 1

/-- `v` with bits `[lo + n - 1 : lo]` replaced by `x` modulo `2 ^ n`. -/
def setBits (v lo n x : Nat) : Nat := v - bits v lo n * 2 ^ lo + x % 2 ^ n * 2 ^ lo

/-- A list of bytes padded with zeros to `n` bytes. -/
def padTo (l : List Byte) (n : Nat) : List Byte := l ++ List.replicate (n - l.length) 0

/-- `a / b` rounded up. -/
def ceilDiv (a b : Nat) : Nat := (a + b - 1) / b

/-- A length rounded up to a multiple of 64. -/
def up64 (n : Nat) : Nat := ceilDiv n 64 * 64

/-- A number of at most `2 ^ n - 1`, saturated. -/
def sat (n v : Nat) : Nat := min v (2 ^ n - 1)

/-! ### Free values -/

/-- The next free value, and the state after it has been drawn (log entry 1). -/
def draw (s : State) : Nat × State := (Config.freeNat s.free, { s with free := s.free + 1 })

/-- A free value of `n` bytes. -/
def drawBytes (s : State) (n : Nat) : List Byte × State := (leBytes n (Config.freeNat s.free), { s with free := s.free + 1 })

/-! ### The register file -/

/-- The stored value of the register at a BAR0 offset. -/
def rd (s : State) (a : Nat) : Nat := (tget (regReset a) s.regs a).toNat

/-- The state with the register at a BAR0 offset set. -/
def wr (s : State) (a v : Nat) : State := { s with regs := tset (regReset a) s.regs a (BitVec.ofNat 32 v) }

/-- Field `[lo + n - 1 : lo]` of a register. -/
def rdf (s : State) (a lo n : Nat) : Nat := bits (rd s a) lo n

/-- The state with one field of a register set. -/
def wrf (s : State) (a lo n v : Nat) : State := wr s a (setBits (rd s a) lo n v)

/-- The state with a counter field of a register raised by `k`, saturating at all ones. -/
def bump (s : State) (a lo n k : Nat) : State := wrf s a lo n (sat n (rdf s a lo n + k))

/-- The 64-bit value of two registers, the low half first. -/
def rd64 (s : State) (a : Nat) : Nat := rd s a + rd s (a + 4) * 2 ^ 32

/-- The state with a 64-bit value in two registers, the low half first. -/
def wr64 (s : State) (a v : Nat) : State := wr (wr s a (v % 2 ^ 32)) (a + 4) (v / 2 ^ 32 % 2 ^ 32)

/-- BAR0 offsets of the pages (R526). -/
def pgTcl (i : Nat) : Nat := 4096 * (0x10 + i)
def pgAsch (n : Nat) : Nat := 4096 * (0x20 + n)
def pgDir (n : Nat) : Nat := 4096 * (0x24 + n)
def pgRule (n : Nat) : Nat := 4096 * (0x28 + n)
def pgHbm (k : Nat) : Nat := 4096 * (0x30 + k)
def pgBth (f x : Nat) : Nat := 4096 * (0x40 + 2 * f + x)
def pgNet (p : Nat) : Nat := 4096 * (0x50 + p)
def pgShp (p x : Nat) : Nat := 4096 * (0x54 + 2 * p + x)
def pgCxl : Nat := 4096 * 0x60
def pgCab : Nat := 4096 * 0x61
def pgStw : Nat := 4096 * 0x70
def pgEvr : Nat := 4096 * 0x71
def pgSec : Nat := 4096 * 0x72
def pgPwr : Nat := 4096 * 0x73
def pgPart (p : Nat) : Nat := 4096 * (0x80 + p)
def pgCapt (p : Nat) : Nat := 4096 * (0xA0 + p)
def pgMtr (p : Nat) : Nat := 4096 * (0xC0 + p)
def pgRing (r : Nat) : Nat := 4096 * (0x1000 + r)

/-! ### Memory -/

/-- One byte of a memory; a byte that nothing has written reads 0 (log entry 2). -/
def mget (m : Tab Byte) (a : Nat) : Byte := tget 0 m a

/-- A memory with one byte written. -/
def mset (m : Tab Byte) (a : Nat) (b : Byte) : Tab Byte := tset 0 m a b

/-- `n` bytes of a memory from an address. -/
def mread (m : Tab Byte) (a n : Nat) : List Byte := (List.range n).map (fun i => mget m (a + i))

/-- A memory with bytes written from an address. -/
def mwrite : Tab Byte → Nat → List Byte → Tab Byte
  | m, _, [] => m
  | m, a, b :: l => mwrite (mset m a b) (a + 1) l

/-- The canonical form of a memory: addresses strictly rising and no entry equal to the unlisted value. -/
def Memory.wf (m : Tab Byte) : Bool := tsorted m && m.all (fun e => decide (e.2 ≠ 0))

/-- Whether a range of bytes touches a poisoned line of 64 bytes; `bad` lists line numbers. -/
def poisoned (bad : List Nat) (a n : Nat) : Bool := bad.any (fun l => decide (l * 64 < a + n) && decide (a < l * 64 + 64))

/-- The poisoned lines left after bytes have been written: a line written whole is poisoned no longer. -/
def unpoison (bad : List Nat) (a n : Nat) : List Nat :=
  bad.filter (fun l => !(decide (a ≤ l * 64) && decide (l * 64 + 64 ≤ a + n)))

/-! ### Accessors of keyed state -/

def State.port (s : State) (p : Nat) : Port := tget {} s.ports p
def State.setPort (s : State) (p : Nat) (v : Port) : State := { s with ports := tset {} s.ports p v }
def State.part (s : State) (p : Nat) : Part := tget {} s.parts p
def State.setPart (s : State) (p : Nat) (v : Part) : State := { s with parts := tset {} s.parts p v }
def State.hbmc (s : State) (k : Nat) : Hbm := tget {} s.hbm k
def State.setHbm (s : State) (k : Nat) (v : Hbm) : State := { s with hbm := tset {} s.hbm k v }
def State.booth (s : State) (b : Nat) : Booth := tget {} s.booths b
def State.setBooth (s : State) (b : Nat) (v : Booth) : State := { s with booths := tset {} s.booths b v }
def State.fstack (s : State) (f : Nat) : FStack := tget {} s.fstacks f
def State.setFstack (s : State) (f : Nat) (v : FStack) : State := { s with fstacks := tset {} s.fstacks f v }
def State.setRing (s : State) (r : Nat) (v : Ring) : State := { s with rings := tput s.rings r v }
def State.setReq (s : State) (i : Nat) (v : Req) : State := { s with reqs := tput s.reqs i v }
def State.setQp (s : State) (q : Nat) (v : Qp) : State := { s with qps := tput s.qps q v }
def State.setShelf (s : State) (i : Nat) (v : Shelf) : State := { s with dir := { s.dir with shelves := tput s.dir.shelves i v } }
def State.shelf? (s : State) (i : Nat) : Option Shelf := tget? s.dir.shelves i

/-- No request is served: in `HALT` (R513), and from a thermal trip on, which stops the clocks of tiles, booths, ports and the CXL link (R521). -/
def noService (s : State) : Bool := decide (s.dev.state = .halt) || s.dev.tripped

/-- The state with one thing handed to the outside (log entry 13). -/
def emit (s : State) (o : Out) : State := { s with out := s.out ++ [o] }

/-! ### Islands and time -/

/-- The island IDs of R26, in the row order. -/
def islandId (i : Nat) : Nat :=
  if i < 3 then i else if i < 7 then 0x04 + (i - 3) else if i < 11 then 0x10 + (i - 7) else if i < 15 then 0x14 + (i - 11)
  else if i < 31 then 0x20 + (i - 15) else if i < 47 then 0x30 + (i - 31) else 0x80 + (i - 47)

/-- The place of an island ID in that order. -/
def islandIdx (id : Nat) : Nat :=
  if id < 3 then id else if id < 8 then id - 0x04 + 3 else if id < 0x14 then id - 0x10 + 7
  else if id < 0x18 then id - 0x14 + 11 else if id < 0x30 then id - 0x20 + 15 else if id < 0x40 then id - 0x30 + 31
  else id - 0x80 + 47

/-- The counter of an island, by its ID (R30). -/
def islandTime (s : State) (id : Nat) : Nat := s.time.ctr.getD (islandIdx id) 0

/-- The steward's 1 ms counter (R30, R31). -/
def stewardMs (s : State) : Nat := s.time.ns / 1000000

/-- The steward microsecond count, 64 bits wide (R31). -/
def stewardUs (s : State) : Nat := s.time.ns / 1000 % 2 ^ 64

end Sys2Proof.Machine
end

