-- ==== Sys2Proof/Machine/Flags.lean ====
section
/-! DEFINITION. Event bits, alerts, MSI-X messages and the event recorder (R8, R473-R479, R493, R522, R529-R531, R541). -/
namespace Sys2Proof.Machine

/-! ### MSI-X (R528, R531) -/

/-- Whether a vector counts as masked: MSI-X off, Function Mask set or its own Mask bit set (R531). -/
def vecMasked (s : State) (v : Nat) : Bool :=
  !s.msix.enable || s.msix.fmask || (tget (0, 0, true) s.msix.entries v).2.2

/-- The message of a vector is sent, or its pending bit is set where the vector counts as masked (R531). -/
def sendVector (s : State) (v : Nat) : State :=
  if vecMasked s v then
    { s with msix := { s.msix with pend := if s.msix.pend.contains v then s.msix.pend else s.msix.pend ++ [v] } }
  else emit s (.msix v (tget (0, 0, true) s.msix.entries v).1 (tget (0, 0, true) s.msix.entries v).2.1)

/-- `ALERT` of the page at BAR0 offset `pg`: an enabled event bit is set (R529). -/
def alert (s : State) (pg : Nat) : Bool := decide (rd s (pg + 0x10) &&& rd s (pg + 0x14) ≠ 0)

/-- The message of a page's vector, while `VEC_EN` is 1 (R531). -/
def signalPage (s : State) (pg : Nat) : State :=
  if rdf s (pg + 0x08) 15 1 = 1 then sendVector s (rdf s (pg + 0x08) 0 11) else s

/-- Hardware sets event bits of a page: `PG_EVT` takes them, `PG_EVT_CNT` counts each setting, and an `ALERT` that rises
sends the page's message (R529-R531). -/
def setEvt (s : State) (pg bitNo : Nat) : State :=
  let was := alert s pg
  let s1 := wr s (pg + 0x10) (rd s (pg + 0x10) ||| 2 ^ bitNo)
  let s2 := bump s1 (pg + 0x1C) 0 32 1
  if !was && alert s2 pg then signalPage s2 pg else s2

/-! ### The recorder (R473-R479) -/

/-- One bit step of CRC-16 with polynomial 0x1021. -/
def crcStep (c : Nat) : Nat → Nat
  | 0 => c
  | n + 1 => crcStep (if c ≥ 0x8000 then ((c * 2) % 0x10000) ^^^ 0x1021 else c * 2) n

/-- CRC-16 of bytes: polynomial 0x1021, no reflection, no final inversion (R475). -/
def crc16 : Nat → List Byte → Nat
  | c, [] => c
  | c, b :: l => crc16 (crcStep (c ^^^ (b.toNat * 256)) 8) l

/-- The 32 bytes of a new record (R474, R475), `ER_REPEAT` 0 and `ER_VALID` 0xA5. -/
def mkRecord (seq time island sev blk inst code : Nat) (data : List Byte) : List Byte :=
  let body := leBytes 4 seq ++ leBytes 6 time ++ leBytes 1 island ++ leBytes 1 sev ++ leBytes 2 blk ++ leBytes 1 inst ++
    leBytes 1 code ++ bslice (padTo data 10) 0 10
  body ++ leBytes 2 (crc16 0xFFFF body) ++ [0, 0, 0, 0xA5]

/-- What R478 compares: island, severity byte, block, number, code and data. -/
def recKey (r : List Byte) : List Byte := bslice r 0x0A 16

/-- `ER_REPEAT` of a record. -/
def recRepeat (r : List Byte) : Nat := le r 0x1C 2

/-- A record with `ER_REPEAT` set. -/
def recSetRepeat (r : List Byte) (n : Nat) : List Byte := r.take 0x1C ++ leBytes 2 n ++ r.drop 0x1E

/-- An event as the recorder takes it: island, severity byte, block type, number of the block, code, and the data of each
record of its group. -/
structure Ev where
  island : Nat
  sev    : Nat
  blk    : Nat
  inst   : Nat
  code   : Nat
  datas  : List (List Byte)
deriving DecidableEq, Repr

/-- The records of an event, `CONT` set on every one but the last (R476). -/
def evRecords (seq time : Nat) (e : Ev) : List (List Byte) :=
  (e.datas.zip (List.range e.datas.length)).map (fun (d, i) =>
    mkRecord ((seq + i) % 2 ^ 32) time e.island (if i + 1 < e.datas.length then e.sev + 8 else e.sev) e.blk e.inst e.code d)

/-- The recorder accepts one event: it merges into the last record, becomes new records, or counts as an overflow
(R473-R479). `LOG_FULL` is not raised here. -/
def accept1 (s : State) (e : Ev) : State :=
  let s := bump s (pgEvr + 0x10C) 0 32 1
  let recs := evRecords s.evr.nextSeq (islandTime s e.island) e
  let last := s.evr.log.getLast?
  let mergeable := match last, recs with
    | some l, [r] => decide (recKey l = recKey r) && !s.evr.inGroup && decide (recRepeat l < 0xFFFF)
    | _, _ => false
  if mergeable then
    { s with evr := { s.evr with log := modAt (fun r => recSetRepeat r (recRepeat r + 1)) (s.evr.log.length - 1) s.evr.log } }
  else if s.evr.log.length + recs.length ≤ 32768 then
    { s with evr := { s.evr with
        log := s.evr.log ++ recs, nextSeq := (s.evr.nextSeq + recs.length) % 2 ^ 32,
        inGroup := decide (1 < recs.length) } }
  else { s with evr := { s.evr with overflow := sat 32 (s.evr.overflow + 1) } }

/-- The recorder accepts an event, and raises `LOG_FULL` when the log reaches 32,768 records by it (R479). -/
def accept (s : State) (e : Ev) : State :=
  let s1 := accept1 s e
  if s1.evr.log.length = 32768 ∧ s.evr.log.length < 32768 then
    accept1 (setEvt s1 pgEvr 0) { island := 0, sev := 0, blk := 0x071, inst := 0, code := 0, datas := [[]] }
  else s1

/-! ### Severity and DUMP (R474, R493, R510, R513) -/

/-- `SB_ALERT` bits become set, and `ALERT_N` goes low (R510). -/
def setSbAlert (s : State) (mask : Nat) : State :=
  { s with pwr := { s.pwr with sbAlert := s.pwr.sbAlert ||| mask },
           dev := { s.dev with alertN := s.dev.alertN && decide (s.pwr.sbAlert ||| mask = 0) } }

/-- A severity-3 event sends the device from `TRAIN`, `READY`, `SERVE` or `DRAIN` to `DUMP` and is the cause of the dump
(R493, R513); in any other state it is only recorded (R500). -/
def enterDump (s : State) (cause : List Byte) : State :=
  match s.dev.state with
  | .train | .ready | .serve | .drain =>
    setSbAlert { s with dev := { s.dev with state := .dump }, evr := { s.evr with cause := some cause } } 1
  | _ => s

/-- Severity of each page event by the rules of R474 (log entry 17 lists the reading for each). -/
def evtSev : Kind → Nat → Nat
  | .tcl, b => if b = 1 ∨ b = 2 then 2 else 0
  | .asch, b => if b = 0 then 1 else 2
  | .dir, b => if b = 1 then 2 else 0
  | .hbm, b => if b = 0 ∨ b = 1 ∨ b = 2 ∨ b = 7 then 2 else if b = 5 ∨ b = 6 then 1 else 0
  | .bth0, b => if b = 0 then 1 else if b = 2 then 2 else 0
  | .cab, b => if b = 0 then 1 else if b = 4 ∨ b = 7 then 2 else 0
  | .net, b => if b = 1 ∨ b = 2 ∨ b = 3 ∨ b = 5 then 1 else 0
  | .cxl, b => if b = 1 ∨ b = 2 ∨ b = 3 ∨ b = 4 then 1 else if b = 7 then 2 else 0
  | .part, b => if b = 1 ∨ b = 2 then 1 else if b = 4 then 2 else 0
  | .stw, b => if b = 0 ∨ b = 1 ∨ b = 2 then 1 else 0
  | .pwr, b => if b = 0 ∨ b = 1 then 1 else 0
  | _, _ => 0

/-- The island that R541 names for an event of a page. -/
def evtIsland : Kind → Nat → Nat
  | .tcl, n => 0x20 + n
  | .asch, n => 0x10 + n
  | .dir, n => 0x10 + n
  | .hbm, n => 0x30 + n
  | .bth0, n => 0x30 + n
  | .cab, _ => 0x01
  | .rule, n => 0x14 + n
  | .net, n => 0x04 + n
  | .shp0, n => 0x04 + n
  | .cxl, _ => 0x02
  | _, _ => 0x00

/-- Hardware raises event `b` of the page at BAR0 offset `pg`, with the data of each record of its group (R473, R530). -/
def raiseG (s : State) (pg b : Nat) (datas : List (List Byte)) : State :=
  match pageKind (pg / 4096) with
  | none => s
  | some (k, n) =>
    accept (setEvt s pg b)
      { island := evtIsland k n, sev := evtSev k b, blk := blockType k, inst := (pageInst k n).1, code := b, datas := datas }

/-- Hardware raises event `b` of a page with at most ten bytes of data. -/
def raise (s : State) (pg b : Nat) (data : List Byte) : State := raiseG s pg b [data]

/-- An event set by `PG_EVT_FORCE`: `ER_DATA` zero and `FORCED` set (R477, R530). -/
def raiseForced (s : State) (pg b : Nat) : State :=
  match pageKind (pg / 4096) with
  | none => s
  | some (k, n) =>
    accept (setEvt s pg b)
      { island := evtIsland k n, sev := evtSev k b + 4, blk := blockType k, inst := (pageInst k n).1, code := b, datas := [[]] }

/-- A happening with a code of 0x20 or above is accepted (R473, R477). A severity of 3 sends the device to `DUMP`. -/
def record (s : State) (island sev blk inst code : Nat) (data : List Byte) : State :=
  let s1 := accept s { island := island, sev := sev, blk := blk, inst := inst, code := code, datas := [data] }
  if sev = 3 then
    enterDump s1 (mkRecord s.evr.nextSeq (islandTime s island) island sev blk inst code data)
  else s1

/-! ### Pages that answer (R373, R386, R527, R535) -/

/-- IDE is required and its streams are not both active: no CXL.cache request is issued (R386). -/
def ideHold (s : State) : Bool := s.cxl.ideReq && !(s.cxl.ideIo && s.cxl.ideCm)

/-- The page of an optional capability that the part lacks (R535). -/
def capAbsent (s : State) : Kind → Bool
  | .bth0 | .bth1 => !s.chip.boothCap
  | _ => false

/-- There is power, and the clocks of the ports and of the CXL link run (R505, R521): packets, the host's accesses and what else a link carries reach the
module. -/
def hostReach (s : State) : Bool := decide (s.dev.state ≠ .off) && !s.dev.tripped

/-- A page is there and open to the host (R373, R527). -/
def pageOpen (s : State) (page : Nat) : Bool :=
  match pageKind page with
  | none => false
  | some (k, _) => !capAbsent s k && (decide (page < 0x0A) || s.dev.pagesOpen)

/-- A host write to a register of the page at BAR0 offset `pg`: refused while IDE is missing, ignored where the page does not answer, and otherwise
with its effect `r`. -/
def hostWr (s : State) (pg : Nat) (r : Res) : Res :=
  if !hostReach s then .next s
  else if ideHold s then .next (emit s (.refusedIo pg))
  else if !pageOpen s (pg / 4096) then .next s
  else r

/-- A host read at a BAR0 offset reaches the module: refused while IDE is missing, and otherwise as `r` says. Which of its bytes answer is for each page
to say (R6, R527). -/
def hostIo (s : State) (addr : Nat) (r : Res) : Res :=
  if !hostReach s then .next s
  else if ideHold s then .next (emit s (.refusedIo addr))
  else r

/-- A host read of `width` bytes within one page: 0 where the page does not answer, and otherwise as `r` says. -/
def hostRd (s : State) (addr width : Nat) (r : Res) : Res :=
  hostIo s addr (if !pageOpen s (addr / 4096) then .next (emit s (.read addr width 0)) else r)

end Sys2Proof.Machine
end

