-- ==== Sys2Proof/Machine/Float.lean ====
section
/-! DEFINITION. Floating numbers: exact dyadic values, the formats of R34, rounding, and `F32` arithmetic (R56). -/
namespace Sys2Proof.Machine

/-- A binary32 pattern. -/
abbrev F32 := BitVec 32

/-- An exact dyadic number `m * 2 ^ e`. -/
structure Dy where
  m : Int := 0
  e : Int := 0
deriving DecidableEq, Repr

/-- `m * 2 ^ k` for a natural shift. -/
def shl (m : Int) (k : Int) : Int := m * (2 : Int) ^ k.toNat

def dyAdd (a b : Dy) : Dy :=
  let e := min a.e b.e
  ⟨shl a.m (a.e - e) + shl b.m (b.e - e), e⟩
def dyNeg (a : Dy) : Dy := ⟨-a.m, a.e⟩
def dySub (a b : Dy) : Dy := dyAdd a (dyNeg b)
def dyMul (a b : Dy) : Dy := ⟨a.m * b.m, a.e + b.e⟩
def dyAbs (a : Dy) : Dy := ⟨a.m.natAbs, a.e⟩
def dyLt (a b : Dy) : Bool := decide ((dySub a b).m < 0)
def dyLe (a b : Dy) : Bool := !dyLt b a
def dyOfInt (n : Int) : Dy := ⟨n, 0⟩

/-- Rounding directions: to nearest with ties to even, away from zero, towards zero. -/
inductive Rnd where
  | near | away | trunc
deriving DecidableEq, Repr

/-- `n / 2 ^ k` rounded to an integer; `sticky` says that the exact value is slightly above `n`. -/
def rndShift (r : Rnd) (n k : Nat) (sticky : Bool) : Nat :=
  let q := n / 2 ^ k
  let rem := n % 2 ^ k
  let exact := decide (rem = 0) && !sticky
  match r with
  | .trunc => q
  | .away => if exact then q else q + 1
  | .near =>
    if k = 0 then q
    else
      let half := 2 ^ (k - 1)
      if rem > half ∨ (rem = half ∧ sticky) then q + 1
      else if rem = half then (if q % 2 = 0 then q else q + 1) else q

/-- A floating format: exponent bits, fraction bits, bias and the pattern of the largest finite magnitude (R34). -/
structure FFmt where
  eb   : Nat
  fb   : Nat
  bias : Nat
  top  : Nat
deriving DecidableEq, Repr

def fmtF32 : FFmt := ⟨8, 23, 127, 0x7F7FFFFF⟩
def fmtBF16 : FFmt := ⟨8, 7, 127, 0x7F7F⟩
def fmtF16 : FFmt := ⟨5, 10, 15, 0x7BFF⟩
def fmtE4M3 : FFmt := ⟨4, 3, 7, 0x7E⟩
def fmtE5M2 : FFmt := ⟨5, 2, 15, 0x7B⟩
def fmtE2M1 : FFmt := ⟨2, 1, 1, 7⟩

/-- The magnitude pattern of `n * 2 ^ e` (`sticky`: slightly above) rounded to a format with unbounded exponent: exponent
and fraction as one number, so that a carry of the rounding moves into the exponent. -/
def magPat (f : FFmt) (r : Rnd) (n : Nat) (e : Int) (sticky : Bool) : Nat :=
  if n = 0 then (if sticky ∧ r = .away then 1 else 0)
  else
    let lg : Int := (n.log2 : Int) + e
    let qmin : Int := 1 - (f.bias : Int) - (f.fb : Int)
    let q : Int := max qmin (lg - f.fb)
    let k : Nat :=
      if e ≥ q then (n * 2 ^ (e - q).toNat) else rndShift r n (q - e).toNat sticky
    (q - qmin).toNat * 2 ^ f.fb + k

/-- The value of a magnitude pattern. -/
def patDy (f : FFmt) (p : Nat) : Dy :=
  let ex := p / 2 ^ f.fb
  let fr := p % 2 ^ f.fb
  if ex = 0 then ⟨fr, 1 - (f.bias : Int) - (f.fb : Int)⟩ else ⟨(2 ^ f.fb + fr : Nat), (ex : Int) - f.bias - f.fb⟩

/-- The value of a signed pattern; a code above the largest finite magnitude (excluded by R35) has that magnitude
(R201). -/
def decDy (f : FFmt) (p : Nat) : Dy :=
  let mag := p % 2 ^ (f.eb + f.fb)
  let v := patDy f (min mag f.top)
  if p / 2 ^ (f.eb + f.fb) % 2 = 1 then dyNeg v else v

/-- A sign bit and a magnitude as a pattern. -/
def signed (f : FFmt) (neg : Bool) (mag : Nat) : Nat := (if neg then 2 ^ (f.eb + f.fb) else 0) + mag

/-- An exact value to a format by RNE, saturating (R42), with `true` where it saturated; `neg` is the sign of a zero. -/
def encSat (f : FFmt) (neg : Bool) (d : Dy) : Nat × Bool :=
  let p := magPat f .near d.m.natAbs d.e false
  let sg := if d.m = 0 then neg else decide (d.m < 0)
  if p > f.top then (signed f sg f.top, true) else (signed f sg p, false)

/-! ### F32 -/

def f32Neg (x : F32) : Bool := x.toNat ≥ 0x80000000
def f32Mag (x : F32) : Nat := x.toNat % 0x80000000
def isNaN (x : F32) : Bool := f32Mag x > 0x7F800000
def isInf (x : F32) : Bool := f32Mag x = 0x7F800000
def isFin (x : F32) : Bool := f32Mag x < 0x7F800000
def f32Zero : F32 := 0
def f32One : F32 := 0x3F800000
def negInf : F32 := 0xFF800000
def posInf : F32 := 0x7F800000
/-- The NaN an invalid operation gives: which one is free (log entry 42). No valid data reaches it (R41). -/
def f32NaN : F32 := BitVec.ofNat 32 (0x7F800001 + Config.freeUlp 2 0 % 0x7FFFFF)

/-- The exact value of a finite `F32`. -/
def toDy (x : F32) : Dy :=
  let v := patDy fmtF32 (f32Mag x)
  if f32Neg x then dyNeg v else v

def negate (x : F32) : F32 := x ^^^ 0x80000000
def fabs (x : F32) : F32 := x &&& 0x7FFFFFFF

/-- Directions for a signed result. -/
inductive Dir2 where
  | rne | up | down
deriving DecidableEq, Repr

def magRnd (d : Dir2) (neg : Bool) : Rnd :=
  match d with
  | .rne => .near
  | .up => if neg then .trunc else .away
  | .down => if neg then .away else .trunc

/-- A magnitude `n * 2 ^ e` with a sign as an `F32`. -/
def packF32 (d : Dir2) (neg : Bool) (n : Nat) (e : Int) (sticky : Bool) : F32 :=
  let r := magRnd d neg
  let p := magPat fmtF32 r n e sticky
  let p' := if p > 0x7F7FFFFF then (if r = .trunc then 0x7F7FFFFF else 0x7F800000) else p
  BitVec.ofNat 32 (signed fmtF32 neg p')

/-- An exact value as an `F32`; `zneg` is the sign of an exact zero. -/
def ofDy (d : Dir2) (zneg : Bool) (v : Dy) : F32 :=
  packF32 d (if v.m = 0 then zneg else decide (v.m < 0)) v.m.natAbs v.e false

/-- `F32` addition. -/
def faddR (d : Dir2) (x y : F32) : F32 :=
  if isNaN x ∨ isNaN y then f32NaN
  else if isInf x then (if isInf y ∧ f32Neg x ≠ f32Neg y then f32NaN else x)
  else if isInf y then y
  else
    let z := if f32Mag x = 0 ∧ f32Mag y = 0 ∧ f32Neg x = f32Neg y then f32Neg x else decide (d = .down)
    ofDy d z (dyAdd (toDy x) (toDy y))

/-- `F32` multiplication. -/
def fmulR (d : Dir2) (x y : F32) : F32 :=
  let sg := f32Neg x != f32Neg y
  if isNaN x ∨ isNaN y then f32NaN
  else if isInf x ∨ isInf y then
    (if f32Mag x = 0 ∨ f32Mag y = 0 then f32NaN else if sg then negInf else posInf)
  else ofDy d sg (dyMul (toDy x) (toDy y))

/-- `F32` division. -/
def fdivR (d : Dir2) (x y : F32) : F32 :=
  let sg := f32Neg x != f32Neg y
  if isNaN x ∨ isNaN y ∨ (isInf x ∧ isInf y) ∨ (f32Mag x = 0 ∧ f32Mag y = 0) then f32NaN
  else if isInf x ∨ f32Mag y = 0 then (if sg then negInf else posInf)
  else if isInf y then (if sg then 0x80000000 else 0)
  else
    let a := patDy fmtF32 (f32Mag x)
    let b := patDy fmtF32 (f32Mag y)
    let num := a.m.natAbs * 2 ^ 64
    packF32 d sg (num / b.m.natAbs) (a.e - b.e - 64) (decide (num % b.m.natAbs ≠ 0))

def fadd (x y : F32) : F32 := faddR .rne x y
def fsub (x y : F32) : F32 := faddR .rne x (negate y)
def fmul (x y : F32) : F32 := fmulR .rne x y
def fdiv (x y : F32) : F32 := fdivR .rne x y

/-- The order of two `F32` numbers that are no NaN. -/
def flt (x y : F32) : Bool :=
  if f32Mag x = 0 ∧ f32Mag y = 0 then false
  else match f32Neg x, f32Neg y with
    | true, false => true
    | false, true => false
    | false, false => f32Mag x < f32Mag y
    | true, true => f32Mag y < f32Mag x
def fle (x y : F32) : Bool := !flt y x
def fmax (x y : F32) : F32 := if flt x y then y else x
def fmin (x y : F32) : F32 := if flt y x then y else x

/-- An integer as an `F32` by RNE. -/
def ofInt (n : Int) : F32 := ofDy .rne false (dyOfInt n)

/-- An exact value rounded to an integer with ties to even (R43). -/
def rneInt (v : Dy) : Int :=
  if v.e ≥ 0 then shl v.m v.e
  else
    let q := rndShift .near v.m.natAbs (-v.e).toNat false
    if v.m < 0 then -(q : Int) else q

/-- The floor of an exact value. -/
def floorDy (v : Dy) : Int := if v.e ≥ 0 then shl v.m v.e else v.m / (2 : Int) ^ (-v.e).toNat

/-- `1 / sqrt d` rounded to `F32` by RNE (R53). -/
def cD (d : Nat) : F32 :=
  let n := Nat.sqrt (2 ^ 160 / d)
  packF32 .rne false n (-80) (decide (n * n * d ≠ 2 ^ 160))

/-! ### Narrow formats -/

/-- `F32` to `BF16` by RNE without saturation: infinities and NaN pass (R33). -/
def toBf16 (x : F32) : BitVec 16 :=
  if isNaN x then BitVec.ofNat 16 (0x7F81 + Config.freeUlp 2 1 % 0x7F)
  else if isInf x then BitVec.ofNat 16 (x.toNat / 0x10000)
  else
    let p := magPat fmtBF16 .near (toDy x).m.natAbs (toDy x).e false
    BitVec.ofNat 16 (signed fmtBF16 (f32Neg x) (min p 0x7F80))

/-- A `BF16` pattern widened to `F32`. -/
def ofBf16 (p : BitVec 16) : F32 := BitVec.ofNat 32 (p.toNat * 0x10000)

/-- `F32` to `BF16` towards plus or minus infinity (R57). -/
def bf16Dir (d : Dir2) (x : F32) : BitVec 16 :=
  let r := magRnd d (f32Neg x)
  let p := magPat fmtBF16 r (toDy x).m.natAbs (toDy x).e false
  BitVec.ofNat 16 (signed fmtBF16 (f32Neg x) (min p 0x7F7F))

/-- `F32` to `F16` by RNE without saturation. -/
def toF16 (x : F32) : BitVec 16 :=
  if isNaN x then BitVec.ofNat 16 (0x7C01 + Config.freeUlp 2 2 % 0x3FF)
  else if isInf x then BitVec.ofNat 16 (signed fmtF16 (f32Neg x) 0x7C00)
  else
    let p := magPat fmtF16 .near (toDy x).m.natAbs (toDy x).e false
    BitVec.ofNat 16 (signed fmtF16 (f32Neg x) (min p 0x7C00))

/-- An `F16` pattern widened to `F32`. -/
def ofF16 (p : BitVec 16) : F32 :=
  let mag := p.toNat % 0x8000
  let neg := decide (p.toNat ≥ 0x8000)
  if mag > 0x7C00 then f32NaN
  else if mag = 0x7C00 then (if neg then negInf else posInf)
  else ofDy .rne neg (decDy fmtF16 p.toNat)

/-- Whether a value is exact in a format. -/
def exactIn (f : FFmt) (x : F32) : Bool :=
  let v := toDy x
  let p := magPat f .trunc v.m.natAbs v.e false
  decide (p ≤ f.top) && decide ((dySub (dyAbs v) (patDy f p)).m = 0)

end Sys2Proof.Machine
end

