-- ==== Sys2Proof/Machine/Formats.lean ====
section
/-! DEFINITION. The ten stored formats, rotation, narrowing and the functions of the tile vector unit
(02_numbers_and_rotation.md). -/
namespace Sys2Proof.Machine

/-! ### exp (R56) -/

/-- ln 2 in units of 2^-256. -/
def ln2Fix : Nat := 80260960185991308862233904206310070533990667611589946606122867505419956976171

/-- The sum 1 + r/i (1 + r/(i+1) (...)) with n terms, in units of 2^-256. -/
def expTerms (r : Nat) : Nat → Nat → Nat
  | _, 0 => 2 ^ 256
  | i, n + 1 => 2 ^ 256 + r * expTerms r (i + 1) n / 2 ^ 256 / i

/-- The reference of exp: `n * 2 ^ e` with the exact value slightly above, far closer than any rounding of `F32`. -/
def expRef (v : Dy) : Nat × Int :=
  let x : Int := if v.e + 256 ≥ 0 then shl v.m (v.e + 256) else v.m / (2 : Int) ^ (-(v.e + 256)).toNat
  let k : Int := x / (ln2Fix : Int)
  let r : Nat := (x - k * (ln2Fix : Int)).toNat
  (expTerms r 1 60, k - 256)

/-- The patterns within `ulps` units in the last place of a positive reference. -/
def ulpCands (ulps : Nat) (n : Nat) (e : Int) : List Nat :=
  let c := magPat fmtF32 .near n e true
  let lg : Int := max (-126) ((n.log2 : Int) + e)
  let tol : Dy := ⟨(ulps : Int), lg - 23⟩
  ((List.range (2 * ulps + 1)).map (fun i => c + i - ulps)).filter (fun p =>
    decide (p ≤ 0x7F7FFFFF) && dyLe (dyAbs (dySub (patDy fmtF32 p) ⟨(n : Int), e⟩)) tol)

/-- exp of the tile vector unit at an exact number: within 2 ulp of the exact value (R56, R61); exact at 0, where R62 takes l to be at
least 1 (DEDUCED, log entry 19). `key` names the operands, on which the place within the bound may depend. -/
def expAt (key : Nat) (v : Dy) : F32 :=
  if v.m = 0 then f32One
  else if decide (floorDy v > 128) then posInf
  else if decide (floorDy v < -200) then
    let c := [0, 1, 2]
    BitVec.ofNat 32 (c.getD (Config.freeUlp 0 key % 3) 0)
  else
    let (n, e) := expRef v
    let c := ulpCands 2 n e
    BitVec.ofNat 32 (c.getD (Config.freeUlp 0 key % max c.length 1) (magPat fmtF32 .near n e true))

/-- exp of an `F32` number; 0 at minus infinity. -/
def fexp (x : F32) : F32 :=
  if isNaN x then f32NaN
  else if isInf x then (if f32Neg x then 0 else posInf)
  else expAt x.toNat (toDy x)

/-- exp(x - y): the difference is no rounding point of R56, so it is taken exactly. -/
def fexpSub (x y : F32) : F32 :=
  if isFin x && isFin y then expAt (x.toNat * 2 ^ 32 + y.toNat) (dySub (toDy x) (toDy y)) else fexp (fsub x y)

/-! ### Rotation (R53, R54) -/

/-- One draw of the sign stream: the new state and 64 bits. -/
def signBlock (state : Nat) : Nat × Nat :=
  let st := (state + 0x9E3779B97F4A7C15) % 2 ^ 64
  let z1 := (st ^^^ (st / 2 ^ 30)) * 0xBF58476D1CE4E5B9 % 2 ^ 64
  let z2 := (z1 ^^^ (z1 / 2 ^ 27)) * 0x94D049BB133111EB % 2 ^ 64
  (st, z2 ^^^ (z2 / 2 ^ 31))

/-- The blocks of the sign stream. -/
def signBlocks : Nat → Nat → List Nat
  | _, 0 => []
  | st, n + 1 => (signBlock st).2 :: signBlocks (signBlock st).1 n

/-- Whether channel i has the sign -1. -/
def signNeg (seed d : Nat) : List Bool :=
  let bs := signBlocks seed (max 1 (d / 64))
  (List.range d).map (fun i => bit (bs.getD (i / 64) 0) (i % 64))

/-- One stage of butterflies with stride h. -/
def butterfly (h : Nat) (y : List F32) : List F32 :=
  (List.range y.length).map (fun i =>
    if i / h % 2 = 0 then fadd (y.getD i 0) (y.getD (i + h) 0) else fsub (y.getD (i - h) 0) (y.getD i 0))

/-- The strides below d: 1, 2, 4, .... -/
def strides (d : Nat) : List Nat := ((List.range 8).map (fun k => 2 ^ k)).filter (· < d)

/-- rotate of R54. -/
def rotate (seed : Nat) (x : List F32) : List F32 :=
  let d := x.length
  let y := ((signNeg seed d).zip x).map (fun (n, v) => if n then negate v else v)
  ((strides d).foldl (fun y h => butterfly h y) y).map (fun v => fmul (cD d) v)

/-- unrotate of R54. -/
def unrotate (seed : Nat) (y : List F32) : List F32 :=
  let d := y.length
  let z := (strides d).foldl (fun y h => butterfly h y) y
  ((signNeg seed d).zip z).map (fun (n, v) => let w := fmul (cD d) v; if n then negate w else w)

/-! ### Source data (R33, R41) -/

/-- Size of a partial-result block (R160). -/
def blockSize (heads d : Nat) (bf16 : Bool) : Nat := 64 + up64 (16 * heads) + heads * up64 ((if bf16 then 2 else 4) * d)

/-- Bytes of one source element: 4 for F32, 2 for BF16 and F16. -/
def srcSize (fmt : Nat) : Nat := if fmt = 0 then 4 else 2

/-- One source element of format 0, 1 or 2 as an F32. -/
def srcElem (fmt : Nat) (b : List Byte) : F32 :=
  let v := leNat b
  if fmt = 0 then BitVec.ofNat 32 v else if fmt = 1 then ofBf16 (BitVec.ofNat 16 v) else ofF16 (BitVec.ofNat 16 v)

/-- `n` source elements. -/
def srcElems (fmt n : Nat) (b : List Byte) : List F32 :=
  (List.range n).map (fun i => srcElem fmt (bslice b (i * srcSize fmt) (srcSize fmt)))

/-- R41: no NaN, no infinity, magnitude below 2^32. -/
def srcOk (x : F32) : Bool := decide (f32Mag x < 0x4F800000)

/-! ### Record sizes (R36, R40) -/

/-- Group size of a format byte: [3:0] code, [4] G128 (R36, R68). -/
def groupSize (f : Nat) : Nat := if bit f 4 then 128 else 32

/-- Bytes of one token record. -/
def recSize (f d : Nat) : Nat :=
  match f % 16 with
  | 0 => 4 * d
  | 1 | 2 => 2 * d
  | 3 | 4 | 8 => d
  | 5 => d + 4 * (d / groupSize f)
  | 6 => d / 2 + 4 * (d / groupSize f)
  | 7 => d / 2
  | 9 => d / 2 + d / 32
  | _ => 0

/-- Tokens of one drawer (R40). -/
def perDrawer (f d : Nat) : Nat := 32768 / recSize f d

/-! ### Encoding (R42, R43) -/

/-- Four-bit codes, two to a byte, the even channel in bits [3:0] (R40). -/
def nibbles : List Nat → List Byte
  | a :: b :: l => BitVec.ofNat 8 (a % 16 + 16 * (b % 16)) :: nibbles l
  | [a] => [BitVec.ofNat 8 (a % 16)]
  | [] => []

/-- The codes in nibbles. -/
def unNibbles : List Byte → List Nat
  | [] => []
  | b :: l => b.toNat % 16 :: b.toNat / 16 :: unNibbles l

/-- A list cut into pieces of n (fuel: its length). -/
def chunks {α : Type} (n : Nat) : Nat → List α → List (List α)
  | 0, _ => []
  | _, [] => []
  | k + 1, l => l.take n :: chunks n k (l.drop n)

/-- An integer as a code of `n` bits, two's complement. -/
def twos (n : Nat) (i : Int) : Nat := (i % (2 : Int) ^ n).toNat

/-- A two's-complement code of `n` bits as an integer. -/
def ofTwos (n c : Nat) : Int := if c % 2 ^ n ≥ 2 ^ (n - 1) then (c % 2 ^ n : Nat) - (2 : Int) ^ n else (c % 2 ^ n : Nat)

/-- round_up_to_bf16 of a positive F32 (R43); a quotient that underflowed gives the least positive scale (R36 asks for a
positive one; DEDUCED, log entry 21). -/
def bf16Up (x : F32) : BitVec 16 :=
  let p := bf16Dir .up x
  if p = 0 then 1 else p

/-- One group of I8A or I4A: scale, zero point, codes, and how many codes were clamped (R43, R44). -/
def encGroup (i8 : Bool) (x : List F32) : BitVec 16 × Int × List Int × Nat :=
  let n : Int := if i8 then 255 else 15
  let cmin : Int := if i8 then -128 else -8
  let lo := x.foldl fmin 0
  let hi := x.foldl fmax 0
  let s := if f32Mag lo = 0 ∧ f32Mag hi = 0 then toBf16 f32One else bf16Up (fdiv (fsub hi lo) (ofInt n))
  let z := rneInt (dySub (dyOfInt cmin) (toDy (fdiv lo (ofBf16 s))))
  let raw := x.map (fun v => rneInt (toDy (fdiv v (ofBf16 s))) + z)
  let c := raw.map (fun v => max cmin (min (cmin + n) v))
  (s, z, c, ((raw.zip c).filter (fun (a, b) => decide (a ≠ b))).length)

/-- The entry nearest to x, ties to the lowest index (R42). -/
def nearestEntry (tab : List (BitVec 16)) (x : F32) : Nat :=
  let d := tab.map (fun e => dyAbs (dySub (toDy x) (toDy (ofBf16 e))))
  (List.range d.length).foldl (fun b i => if dyLt (d.getD i {}) (d.getD b {}) then i else b) 0

/-- One MXF4 block: scale code, element codes, saturated elements (R42). -/
def encMx (x : List F32) : Nat × List Nat × Nat :=
  let mx := x.foldl (fun a v => fmax a (fabs v)) 0
  if f32Mag mx = 0 then (0x7F, x.map (fun v => if f32Neg v then 8 else 0), 0)
  else
    let v := toDy mx
    let bx : Int := max (-127) ((v.m.natAbs.log2 : Int) + v.e - 2)
    let r := x.map (fun w => encSat fmtE2M1 (f32Neg w) ⟨(toDy w).m, (toDy w).e - bx⟩)
    ((bx + 127).toNat, r.map (·.1), (r.filter (·.2)).length)

/-- The token record of one KV head (R40, R42-R44): bytes and saturated elements. `tab` is the head's codebook. -/
def encRecord (f : Nat) (tab : List (BitVec 16)) (x : List F32) : List Byte × Nat :=
  match f % 16 with
  | 0 => (x.flatMap (fun v => leBytes 4 v.toNat), 0)
  | 1 | 2 | 3 | 4 =>
    let fm := match f % 16 with | 1 => fmtBF16 | 2 => fmtF16 | 3 => fmtE4M3 | _ => fmtE5M2
    let r := x.map (fun v => encSat fm (f32Neg v) (toDy v))
    (r.flatMap (fun p => leBytes ((fm.eb + fm.fb + 1) / 8) p.1), (r.filter (·.2)).length)
  | 5 | 6 =>
    let i8 := decide (f % 16 = 5)
    let gs := (chunks (groupSize f) x.length x).map (encGroup i8)
    let codes := gs.flatMap (fun g => g.2.2.1)
    let body := if i8 then codes.map (fun c => BitVec.ofNat 8 (twos 8 c)) else nibbles (codes.map (twos 4))
    (body ++ gs.flatMap (fun g => leBytes 4 (g.1.toNat + 0x10000 * twos 8 g.2.1)), (gs.map (fun g => g.2.2.2)).sum)
  | 7 => (nibbles (x.map (nearestEntry tab)), 0)
  | 8 => (x.map (fun v => BitVec.ofNat 8 (nearestEntry tab v)), 0)
  | 9 =>
    let bs := (chunks 32 x.length x).map encMx
    (nibbles (bs.flatMap (fun b => b.2.1)) ++ bs.map (fun b => BitVec.ofNat 8 b.1), (bs.map (fun b => b.2.2)).sum)
  | _ => ([], 0)

/-! ### Decoding (R36, R38, R39, R46, R51) -/

/-- The codes of an I8A or I4A record. -/
def recCodes (f d : Nat) (r : List Byte) : List Int :=
  if f % 16 = 5 then (r.take d).map (fun b => ofTwos 8 b.toNat) else ((unNibbles (r.take (d / 2))).take d).map (ofTwos 4)

/-- The group records of an I8A or I4A record: scale and zero point. -/
def recGroups (f d : Nat) (r : List Byte) : List (BitVec 16 × Int) :=
  let o := if f % 16 = 5 then d else d / 2
  (List.range (d / groupSize f)).map (fun i =>
    let w := le r (o + 4 * i) 4
    (BitVec.ofNat 16 (w % 0x10000), ofTwos 8 (w / 0x10000 % 256)))

/-- The decoded values of a token record, each exact in F32. -/
def decRecord (f d : Nat) (tab : List (BitVec 16)) (r : List Byte) : List F32 :=
  match f % 16 with
  | 0 => (List.range d).map (fun i => BitVec.ofNat 32 (le r (4 * i) 4))
  | 1 => (List.range d).map (fun i => ofBf16 (BitVec.ofNat 16 (le r (2 * i) 2)))
  | 2 => (List.range d).map (fun i => ofF16 (BitVec.ofNat 16 (le r (2 * i) 2)))
  | 3 => (r.take d).map (fun b => ofDy .rne (decide (b.toNat ≥ 128)) (decDy fmtE4M3 b.toNat))
  | 4 => (r.take d).map (fun b => ofDy .rne (decide (b.toNat ≥ 128)) (decDy fmtE5M2 b.toNat))
  | 5 | 6 =>
    let gs := recGroups f d r
    let cs := recCodes f d r
    (List.range d).map (fun i =>
      let g := gs.getD (i / groupSize f) (0, 0)
      fmul (ofBf16 g.1) (ofInt (cs.getD i 0 - g.2)))
  | 7 => ((unNibbles (r.take (d / 2))).take d).map (fun c => ofBf16 (tab.getD c 0))
  | 8 => (r.take d).map (fun b => ofBf16 (tab.getD b.toNat 0))
  | 9 =>
    let sc := bslice r (d / 2) (d / 32)
    let es := unNibbles (r.take (d / 2))
    (List.range d).map (fun i =>
      let c := es.getD i 0
      let v := decDy fmtE2M1 c
      ofDy .rne (decide (c ≥ 8)) ⟨v.m, v.e + (((sc.getD (i / 32) 0).toNat : Nat) : Int) - 127⟩)
  | _ => []

/-! ### Compute format and narrowing (R47-R50) -/

/-- Compute format (0 F32, 1 BF16, 2 F16) and whether booths may score, for a key format code, an F16-exact mark and a
query format, not narrowed (R48); `none` outside the table (R50). -/
def computeFmt (kf : Nat) (f16x : Bool) (qf : Nat) : Option (Nat × Bool) :=
  match kf, qf with
  | 0, 0 | 0, 1 | 0, 2 => some (0, false)
  | 1, 1 => some (1, true)
  | 1, 0 | 1, 2 => some (0, false)
  | 2, 2 => some (2, true)
  | 2, 0 | 2, 1 => some (0, false)
  | 3, 1 | 4, 1 | 5, 1 => some (1, true)
  | 3, 2 | 4, 2 | 5, 2 => some (2, true)
  | 3, 0 | 4, 0 | 5, 0 => some (0, false)
  | 6, 1 => some (1, false)
  | 6, 2 => some (2, false)
  | 6, 0 => some (0, false)
  | 7, 1 => some (1, true)
  | 7, 2 => if f16x then some (2, true) else some (0, false)
  | 7, 0 => some (0, false)
  | 8, 1 => some (1, false)
  | 8, 2 => if f16x then some (2, false) else some (0, false)
  | 8, 0 => some (0, false)
  | 9, 1 => some (1, false)
  | 9, 0 | 9, 2 => some (0, false)
  | _, _ => none

/-- The format an F32 query is narrowed to under Q_NARROW_OK (R48, R49). -/
def narrowTo (kf : Nat) : Option Nat :=
  match kf with
  | 1 | 3 | 4 | 5 | 7 => some 1
  | 2 => some 2
  | _ => none

/-- A query held in F32 rounded by RNE to a format (R49, R54). A rotated element beyond the range of `F16` becomes an infinity, where the
spec says RNE alone (DESIGN CHOICE, log entry 137). -/
def roundTo (fmt : Nat) (x : F32) : F32 :=
  if fmt = 1 then ofBf16 (toBf16 x) else if fmt = 2 then ofF16 (toF16 x) else x

/-- Whether every value of a codebook is exact in F16 (R38). -/
def f16Exact (tab : List (BitVec 16)) : Bool := tab.all (fun e => exactIn fmtF16 (ofBf16 e))

/-- Whether a value format is widened to BF16 in Pass V (R51). -/
def valueBf16 (f : Nat) : Bool := [1, 3, 4, 7, 8, 9].contains (f % 16)

/-- A list in the order that a number names (a free order of summation): repeatedly the element at the number's next
digit. `fuel` is the list's length. -/
def permuted {α : Type} : Nat → Nat → List α → List α
  | 0, _, l => l
  | _, _, [] => []
  | k + 1, n, a :: l =>
    let m := (a :: l).length
    let i := n % m
    match (a :: l)[i]? with
    | some x => x :: permuted k (n / m) ((a :: l).eraseIdx i)
    | none => a :: permuted k (n / m) l

/-- The sum of F32 numbers by adds from left to right. -/
def fsum (l : List F32) : F32 := l.foldl fadd 0

end Sys2Proof.Machine
end

