-- ==== Sys2Proof/Machine/Places.lean ====
section
/-! DEFINITION. Drawers, placement in HBM, charge and share, eligibility, demotion targets and discards (R68-R75, R86, R144,
R189-R192, R209-R212, R228-R239). -/
namespace Sys2Proof.Machine

/-! ### Profiles, series and drawers (R68, R71) -/

def profD (p : Profile) : Nat := 16 * (p.dim % 16 + 1)
def profH (p : Profile) : Nat := p.heads % 16 + 1
/-- The format byte of a series: K series are even (R355). -/
def serFmt (p : Profile) (series : Nat) : Nat := if series % 2 = 0 then p.kfmt else p.vfmt
/-- T of a series. -/
def serT (p : Profile) (series : Nat) : Nat := perDrawer (serFmt p series) (profD p)
def isRing (p : Profile) : Bool := decide (p.ringW > 0)
/-- S of a series of a ring shelf (R87). -/
def ringSlots (p : Profile) (series : Nat) : Nat := ceilDiv p.ringW (serT p series) + p.slack

/-- Record size of a series. -/
def serB (p : Profile) (series : Nat) : Nat := recSize (serFmt p series) (profD p)

/-- The 256-byte header of a drawer (R73) with a count. -/
def drawerHeader (sh : Shelf) (d : Drawer) (count : Nat) : List Byte :=
  padTo (leBytes 4 0x334E4358 ++ leBytes 1 1 ++ leBytes 1 (d.series % 2) ++ leBytes 1 (serFmt sh.prof d.series) ++
    leBytes 1 (d.series / 2 + 16 * sh.prof.heads) ++ leBytes 1 sh.prof.dim ++ leBytes 1 sh.key.layer ++ leBytes 1 sh.key.group ++
    leBytes 1 ((if isRing sh.prof then 1 else 0) + (if bit sh.prof.flags 0 then 2 else 0)) ++ leBytes 2 sh.key.tenant ++ leBytes 2 count ++
    leBytes 8 sh.key.conv ++ leBytes 4 d.firstPos ++ leBytes 4 d.idx ++ leBytes 4 d.gen ++ leBytes 2 d.stamp ++ leBytes 2 0 ++
    padTo (sh.digest.take 16) 16 ++ leBytes 4 d.epoch) 256

/-- The drawer of a series with an index. -/
def getDrawer (sh : Shelf) (series idx : Nat) : Option Drawer :=
  sh.drawers.find? (fun d => decide (d.series = series) && decide (d.idx = idx))

/-- A shelf with one of its drawers replaced. -/
def setDrawer (sh : Shelf) (d : Drawer) : Shelf :=
  { sh with drawers := sh.drawers.map (fun e => if e.series = d.series ∧ e.idx = d.idx then d else e) }

/-- A shelf without one of its drawers. -/
def delDrawer (sh : Shelf) (series idx : Nat) : Shelf :=
  { sh with drawers := sh.drawers.filter (fun e => !(decide (e.series = series) && decide (e.idx = idx))) }

/-- The place of a drawer in HBM. -/
def locPlace : Loc → Option Place
  | .hbm p => some p
  | .clean p _ => some p
  | _ => none

/-- The cabinet unit of a drawer. -/
def locUnit : Loc → Option Nat
  | .clean _ u => some u
  | .cab u => some u
  | _ => none

/-- First position of drawer `j` of a series (R71). -/
def drawerPos (sh : Shelf) (series j : Nat) : Nat := sh.base + j * serT sh.prof series

/-- The requests admitted against a shelf (`READERS`, R79). -/
def shelfReqs (s : State) (i : Nat) : List Nat := (s.reqs.filter (fun e => decide (e.2.shelf = some i))).map (·.1)

/-- The low 16 bits of the steward's 1 ms counter (R233). -/
def stampNow (s : State) : Nat := stewardMs s % 65536

/-- The age of a stamp in milliseconds (R234). -/
def ageOf (s : State) (stamp : Nat) : Nat := (stampNow s + 65536 - stamp % 65536) % 65536

/-! ### Ownership (R14, R190) -/

def stackDie (k : Nat) : Nat := k % 8 / 2
def isFront (k : Nat) : Bool := decide (k < 8)
/-- Drawer places of a pseudo-channel (R75). -/
def placesPer (k : Nat) : Nat := if k < 8 then 40640 else 40128

/-- A pseudo-channel of a stack can take new drawers: not retiring, not retired, and the stack is not fenced. -/
def pcOk (s : State) (k pc : Nat) : Bool :=
  let h := s.hbmc k
  !h.fenced && !h.retiring.contains pc && !h.retired.contains pc

/-- The pseudo-channels of a stack that a partition holds. -/
def heldPcs (s : State) (p k : Nat) : List Nat :=
  (s.pcOwner.filter (fun e => decide (e.2 = p) && decide (e.1 / 64 = k))).map (fun e => e.1 % 64)

/-- Those of them that can take new drawers; one that is being removed takes none (R392). -/
def partPcs (s : State) (p k : Nat) : List Nat :=
  (heldPcs s p k).filter (fun pc => pcOk s k pc && !(s.part p).rmPcs.contains (64 * k + pc))

/-- Tiles and ways of a partition. -/
def partTiles (s : State) (p : Nat) : List Nat := (s.tileOwner.filter (fun e => decide (e.2 = p))).map (·.1)
def partWays (s : State) (p : Nat) : List Nat := (s.wayOwner.filter (fun e => decide (e.2 = p))).map (·.1)
def partPcKeys (s : State) (p : Nat) : List Nat := (s.pcOwner.filter (fun e => decide (e.2 = p))).map (·.1)

/-- The stacks in which a partition holds a pseudo-channel. -/
def partStacks (s : State) (p : Nat) : List Nat := (List.range 16).filter (fun k => !(heldPcs s p k).isEmpty)

/-! ### Charge (R86, R132, R229, R289) -/

/-- Charge of one drawer with its locator and, for a K drawer, its summary. -/
def drawerCharge (p : Profile) (series : Nat) : Nat := 33032 + (if series % 2 = 0 then 4 * profD p else 0)

/-- Charge of a shelf; a ring shelf is charged all its slots for its life. A remote drawer is not allocated yet (R86, R407). -/
def shelfCharge (sh : Shelf) : Nat :=
  64 + (if isRing sh.prof then
      (if sh.state = .lost ∧ sh.damaged = false then 0
       else ((List.range (2 * profH sh.prof)).map (fun j => ringSlots sh.prof j * drawerCharge sh.prof j)).sum)
    else ((sh.drawers.filter (fun d => decide (d.loc ≠ .remote))).map (fun d => drawerCharge sh.prof d.series)).sum + (sh.appends.map (·.charge)).sum)

/-- The score segment of a run: g L (RS + PS) bytes (R145). -/
def segBytes (sh : Shelf) (g : Nat) (x : Run) : Nat :=
  let t := serT sh.prof (2 * x.head)
  g * x.drawers.length * (up64 (4 * t) + up64 (2 * t))

/-- The shelf of a request. -/
def reqShelf (s : State) (r : Req) : Option Shelf := r.shelf.bind s.shelf?

/-- Scratch of a stack that a partition's segments take. -/
def scratchUsed (s : State) (p k : Nat) : Nat :=
  (s.reqs.map (fun e =>
    if e.2.part = p then
      match reqShelf s e.2 with
      | some sh => ((e.2.runs.filter (fun x => decide (x.segStack = some k))).map (segBytes sh (le e.2.desc 0x24 1 % 16 + 1))).sum
      | none => 0
    else 0)).sum

/-- The scratch reserve of a stack in MiB: a lowered one takes effect as segments return (R231). -/
def reserveIn (s : State) (p k : Nat) : Nat :=
  let pt := s.part p
  if pt.scratchOld > pt.scratch ∧ scratchUsed s p k > pt.scratch * 2 ^ 20 then pt.scratchOld else pt.scratch

/-- The scratch reserve of a partition in bytes (R231). -/
def scratchCharge (s : State) (p : Nat) : Nat := ((partStacks s p).map (fun k => reserveIn s p k * 2 ^ 20)).sum

/-- Charge of a partition's objects (R132). -/
def objCharge (s : State) (p : Nat) : Nat :=
  ((s.objects.filter (fun e => decide (e.1 / 65536 = p))).map (fun e => ceilDiv e.2.bytes.length 64 * 64)).sum

/-- The charge of a partition in bytes. -/
def partCharge (s : State) (p : Nat) : Nat :=
  ((s.dir.shelves.filter (fun e => decide (e.2.key.part = p))).map (fun e => shelfCharge e.2)).sum + objCharge s p +
  scratchCharge s p + ((s.vidx.filter (fun e => decide (e.2.part = p))).map (fun e => e.2.charge)).sum

/-- The quota of a partition in bytes. -/
def quotaBytes (s : State) (p : Nat) : Nat := rd s (pgPart p + 0x200) * 2 ^ 20

/-- New charge fits. -/
def quotaFits (s : State) (p extra : Nat) : Bool := decide (partCharge s p + extra ≤ quotaBytes s p)

/-- Drawers of a partition in `CAB`. -/
def cabDrawers (s : State) (p : Nat) : Nat :=
  ((s.dir.shelves.filter (fun e => decide (e.2.key.part = p))).map (fun e =>
    (e.2.drawers.filter (fun d => match d.loc with | .cab _ => true | _ => false)).length)).sum

/-- Drawers of a partition on their way to `CAB`. -/
def cabMoving (s : State) (p : Nat) : Nat :=
  ((s.dir.shelves.filter (fun e => decide (e.2.key.part = p))).map (fun e =>
    (e.2.drawers.filter (fun d => match d.moving with | some (.cab _) => true | _ => false)).length)).sum

/-- Cabinet share in use or spoken for, in bytes (R230, R288). -/
def shareUsed (s : State) (p : Nat) : Nat :=
  33024 * (cabDrawers s p + cabMoving s p + ((s.vidx.filter (fun e => decide (e.2.part = p))).map (fun e => e.2.vunits)).sum)

/-- The cabinet share of a partition in bytes. -/
def shareBytes (s : State) (p : Nat) : Nat := rdf s (pgPart p + 0x208) 0 13 * 2 ^ 30

/-- Room for `n` more units in the cabinet share. -/
def shareFits (s : State) (p n : Nat) : Bool := decide (shareUsed s p + 33024 * n ≤ shareBytes s p)

/-! ### Free places (R75, R379) -/

/-- Places of HBM that drawers take: their own, those they move into, and those that lifts read into. -/
def usedPlaces (s : State) : List Place :=
  s.dir.shelves.flatMap (fun e => e.2.drawers.flatMap (fun d => (locPlace d.loc).toList ++ (d.moving.bind locPlace).toList)) ++
  s.tiers.lifts.filterMap (fun l => match l.phase with | .reading p => some p | _ => none)

/-- Granules of an extent in its j-th pseudo-channel, and the places they fill (R379). -/
def extentPlaces (n j : Nat) : Nat := ceilDiv (262144 / n + (if j < 262144 % n then 1 else 0)) 8

/-- Places that the extents of a partition take in a pseudo-channel. -/
def extPlacesPc (s : State) (k pc : Nat) : Nat :=
  (s.cxl.ext.map (fun e => if e.2.state = .free then 0 else
    (((List.range e.2.pcs.length).filter (fun j => decide (e.2.pcs.getD j (99, 0) = (k, pc)))).map (extentPlaces e.2.pcs.length)).sum)).sum

/-- Where the summary strips and the drawer table of a shelf lie: the lowest back stack of its placement die in which the partition holds a
pseudo-channel, or else its lowest back stack, or else its lowest stack; a fenced stack holds none (R282; DESIGN CHOICE, log entry 23). -/
def homeStack (s : State) (p die : Nat) : Nat :=
  let own := (partStacks s p).filter (fun k => !(s.hbmc k).fenced)
  let here := own.filter (fun k => !isFront k && decide (stackDie k = die))
  let back := own.filter (fun k => !isFront k)
  (here ++ back ++ own).headD 8

/-- Where the lists, the bench and the tombstones of an index lie, on `HOME` (R285): in the lowest back stack there in which the partition holds a
pseudo-channel, or else in the lowest front stack; a fenced stack holds none (DESIGN CHOICE, log entry 23). -/
def listStack (s : State) (v : VIndex) : Nat :=
  let own := (partStacks s v.part).filter (fun k => !(s.hbmc k).fenced && decide (stackDie k = v.home))
  (own.filter (fun k => !isFront k) ++ own).headD (8 + 2 * v.home)

/-- The back stacks of the die of an index hold its structures: each of them a copy of its tables and of its ID map (R285). -/
def indexOn (v : VIndex) (k : Nat) : Bool := !isFront k && decide (stackDie k = v.home)

/-- Bytes of one copy of the tables and of the ID map of an index (R285, R289), and of an entry of a list and of the bench. -/
def indexCopy (v : VIndex) : Nat := 2 * v.nlist * v.dims + 512 * v.dims + 16 * v.items.length
def listEntry (v : VIndex) : Nat := 16 * ceilDiv (v.m + 16) 16
def benchEntry (v : VIndex) : Nat := 16 * ceilDiv (v.m + 32) 16

/-- Bytes of the list and bench entries and of the tombstones of an index (R285, R289). -/
def indexEntries (v : VIndex) : Nat :=
  (v.items.map (fun i => if i.merged then listEntry v + (if i.del.isSome then 16 else 0) else benchEntry v)).sum

/-- Charge of an index in bytes (R289). -/
def indexCharge (v : VIndex) : Nat := 2 * indexCopy v + indexEntries v

/-- Places of a stack that an index takes: a copy of its tables and ID map, and the rest of its charge where its lists lie (R285). -/
def indexPlaces (s : State) (v : VIndex) (k : Nat) : Nat :=
  (if indexOn v k then ceilDiv (indexCopy v) 32768 else 0) + (if listStack s v = k then ceilDiv (v.charge - 2 * indexCopy v) 32768 else 0)

/-- Places that the summary strips and the drawer table of a shelf take (log entry 23). -/
def tablePlaces (sh : Shelf) : Nat :=
  ((List.range (profH sh.prof)).map (fun h =>
    ceilDiv (4 * profD sh.prof * (sh.drawers.filter (fun d => decide (d.series = 2 * h))).length) 32768)).sum +
  ceilDiv (8 * sh.drawers.length) 32768

/-- The placement die of a shelf: that of its directory quarter (R17, R209). -/
def shelfDie (sh : Shelf) : Nat := sh.hash / 2 ^ 62 % 4

/-- Places of a stack that a partition's other data take (R75). -/
def otherPlaces (s : State) (p k : Nat) : Nat :=
  (if (heldPcs s p k).isEmpty then 0 else reserveIn s p k * 32) +
  ((partPcs s p k).map (extPlacesPc s k)).sum +
  ((s.dir.shelves.filter (fun e => decide (e.2.key.part = p) && decide (homeStack s p (shelfDie e.2) = k))).map
    (fun e => tablePlaces e.2)).sum +
  ((s.vidx.filter (fun e => decide (e.2.part = p))).map (fun e => indexPlaces s e.2 k)).sum

/-- Places of a stack that drawers of a partition take. -/
def drawerPlacesIn (s : State) (p k : Nat) : Nat :=
  ((usedPlaces s).filter (fun q => decide (q.stack = k) && (partPcs s p k).contains q.pc)).length

/-- Free drawer places of a partition in a stack. -/
def freeIn (s : State) (p k : Nat) : Nat :=
  (partPcs s p k).length * placesPer k - drawerPlacesIn s p k - otherPlaces s p k

/-- Drawer places and free drawer places of a partition in T0 (`true`) or T1. -/
def tierStacks (t0 : Bool) : List Nat := if t0 then List.range 8 else (List.range 8).map (· + 8)
def tierTotal (s : State) (p : Nat) (t0 : Bool) : Nat := ((tierStacks t0).map (fun k => (partPcs s p k).length * placesPer k)).sum
def tierFree (s : State) (p : Nat) (t0 : Bool) : Nat := ((tierStacks t0).map (freeIn s p)).sum

/-! ### Placement (R190, R191, R209-R212) -/

/-- The pair index 0-7 of a booth within its pseudo-channel, and the booth of a pair. -/
def boothPc (b : Nat) : Nat := 16 * (b / 32 / 4) + b % 32 / 2
def boothPair (b : Nat) : Nat := 2 * (b / 32 % 4) + b % 2
def pairBooth (pc i : Nat) : Nat := 32 * (4 * (pc / 16) + i / 2) + 2 * (pc % 16) + i % 2

/-- Booth `b` of front stack `f` in the state. -/
def boothNo (f b : Nat) : Nat := 512 * f + b

/-- A running booth. -/
def running (y : Booth) : Bool := y.job.isSome && !y.disabled

/-- Accesses through the stack interface to banks of a pair whose booth is running are queued for the booth's next step end (R216). What such an access
reads or writes is as at the command that makes it (DESIGN CHOICE, log entry 84). -/
def askAccess (s : State) (b : Nat) (banks : List Nat) : State :=
  let y := s.booth b
  if running y then s.setBooth b { y with waits := y.waits ++ banks.filter (fun k => !y.waits.contains k) } else s

/-- The booth of a front-stack place. -/
def placeBooth (q : Place) : Nat := pairBooth q.pc (q.slot / 5080)

/-- The lowest number below `n` that is not in a list. -/
def lowestFree (used : List Nat) (n : Nat) : Option Nat := (List.range (min n (used.length + 1))).find? (fun i => !used.contains i)

/-- The partition's pairs in a front stack, in booth order. -/
def partBooths (s : State) (p k : Nat) : List Nat :=
  let pcs := partPcs s p k
  (List.range 512).filter (fun b => pcs.contains (boothPc b))

/-- A free place of a pair. -/
def pairFree (used : List Place) (k b : Nat) : Option Place :=
  let base := 5080 * boothPair b
  let mine := (used.filter (fun q => decide (q.stack = k) && decide (q.pc = boothPc b) && decide (q.slot / 5080 = boothPair b))).map
    (fun q => q.slot - base)
  (lowestFree mine 5080).map (fun n => { stack := k, pc := boothPc b, slot := base + n })

/-- The place for a drawer in a stack that has free places: in a front stack by the rotation of R210, skipping full pairs; in
a back stack the lowest free place (the spec leaves it open; log entry 24). -/
def placeIn (s : State) (sh : Shelf) (series idx k : Nat) : Option Place :=
  let p := sh.key.part
  let used := usedPlaces s
  if isFront k then
    let bs := partBooths s p k
    let prev := (sh.drawers.filterMap (fun d =>
      match locPlace d.loc with
      | some q => if d.series = series ∧ d.idx < idx ∧ q.stack = k then some (d.idx, placeBooth q) else none
      | none => none)).foldl (fun (b : Option (Nat × Nat)) e =>
        match b with
        | some x => if e.1 > x.1 then some e else b
        | none => some e) none
    let start := match prev with
      | some x => (bs.takeWhile (fun b => decide (b ≤ x.2))).length
      | none => (sh.hash % 2 ^ 32 + series) % max bs.length 1
    ((List.range bs.length).map (fun i => bs.getD ((start + i) % bs.length) 0)).findSome? (pairFree used k)
  else
    (partPcs s p k).findSome? (fun pc =>
      let mine := (used.filter (fun q => decide (q.stack = k) && decide (q.pc = pc))).map (·.slot)
      if mine.length + extPlacesPc s k pc ≥ 40128 then none
      else (lowestFree mine 40128).map (fun n => { stack := k, pc := pc, slot := n }))

/-- The stack with the most free places among some, the lowest on a tie; none where none is free. -/
def bestStack (s : State) (p : Nat) (ks : List Nat) : Option Nat :=
  (ks.foldl (fun (b : Option (Nat × Nat)) k =>
    let f := freeIn s p k
    match b with
    | some x => if f > x.2 then some (k, f) else b
    | none => if f > 0 then some (k, f) else none) none).map (·.1)

/-- Front stacks and back stacks of a die. -/
def fronts (die : Nat) : List Nat := [2 * die, 2 * die + 1]
def backs (die : Nat) : List Nat := [8 + 2 * die, 9 + 2 * die]

/-- Placement as in `CAPACITY-FIRST` (R212). -/
def capacityFirst (s : State) (p : Nat) : Bool := decide (rdf s (pgPart p + 0x108) 9 1 = 1) || (s.part p).sealed

/-- The levels of R210 or R211 as groups of stacks, in order. -/
def placeLevels (s : State) (p pd series : Nat) : List (List Nat) :=
  let dies := (List.range 4).map (fun i => (pd + i) % 4)
  if capacityFirst s p then dies.map (fun d => fronts d ++ backs d)
  else if series % 2 = 0 then dies.map fronts ++ dies.map backs
  else dies.map backs ++ dies.map fronts

/-- The place that R210 or R211 gives a drawer, if the partition has a free one. -/
def findPlace (s : State) (sh : Shelf) (series idx : Nat) : Option Place :=
  (placeLevels s sh.key.part (shelfDie sh) series).findSome? (fun ks =>
    match bestStack s sh.key.part ks with
    | some k => placeIn s sh series idx k
    | none => none)

/-- The tier that an allocation asks for is T0 (R240). -/
def asksT0 (s : State) (p series : Nat) : Bool := decide (series % 2 = 0) && !capacityFirst s p

/-! ### Runs that read a drawer (R144) -/

/-- The V drawers that hold the positions of a K drawer. -/
def vOfK (sh : Shelf) (head j : Nat) : List Nat :=
  let tk := serT sh.prof (2 * head)
  let tv := serT sh.prof (2 * head + 1)
  if tv = 0 then [] else (List.range ((tk * j + tk - 1) / tv - tk * j / tv + 1)).map (· + tk * j / tv)

/-- A dispatched run of a shelf still has to read a drawer. -/
def runReads (r : Run) (series idx : Nat) : Bool :=
  decide (r.head = series / 2) &&
  match r.phase with
  | .queued => false
  | .done => false
  | .scoring => !r.coldRead.contains (series, idx) &&
      (if series % 2 = 0 then r.drawers.contains idx else r.vs.any (fun e => decide (e.1 = idx)))
  | .normed => decide (series % 2 = 1) && !r.coldRead.contains (series, idx) && r.vs.any (fun e => decide (e.1 = idx))

/-- Some dispatched run still has to read a drawer. -/
def beingRead (s : State) (i : Nat) (series idx : Nat) : Bool :=
  s.reqs.any (fun e => decide (e.2.shelf = some i) && e.2.runs.any (fun r => runReads r series idx))

/-! ### Pins, eligibility and demotion (R235, R236, R246) -/

/-- A drawer is pinned. -/
def pinned (sh : Shelf) (series idx : Nat) : Bool :=
  let a := drawerPos sh series idx
  sh.pins.any (fun r => decide (r.first < a + serT sh.prof series) && decide (a < r.endp))

/-- The open drawer of a series: the highest index while it is not full (R236). -/
def isOpen (sh : Shelf) (d : Drawer) : Bool :=
  decide (d.count < serT sh.prof d.series) && sh.drawers.all (fun e => decide (e.series ≠ d.series) || decide (e.idx ≤ d.idx))

/-- A drawer in HBM tier T0 (`true`) or T1. -/
def inTier (d : Drawer) (t0 : Bool) : Bool :=
  match locPlace d.loc with
  | some q => isFront q.stack == t0
  | none => false

/-- A drawer may be demoted from a tier. -/
def eligible (s : State) (i : Nat) (sh : Shelf) (t0 : Bool) (d : Drawer) : Bool :=
  inTier d t0 && decide (d.moving = none) && !pinned sh d.series d.idx && !beingRead s i d.series d.idx && (t0 || !isOpen sh d)

/-- The eligible drawers of a partition in a tier: shelf, series, index and age. -/
def eligibles (s : State) (p : Nat) (t0 : Bool) : List (Nat × Nat × Nat × Nat) :=
  s.dir.shelves.flatMap (fun e =>
    if e.2.key.part = p then
      (e.2.drawers.filter (eligible s e.1 e.2 t0)).map (fun d => (e.1, d.series, d.idx, ageOf s d.stamp))
    else [])

/-- The eligible drawer of greatest age, ages rounded down to 256 ms; the free value `n` chooses among equals (R235). -/
def oldest (l : List (Nat × Nat × Nat × Nat)) (n : Nat) : Option (Nat × Nat × Nat × Nat) :=
  let mx := l.foldl (fun a e => max a (e.2.2.2 / 256)) 0
  let cs := l.filter (fun e => decide (e.2.2.2 / 256 = mx))
  cs[n % max cs.length 1]?

/-- The back stack that a drawer of T0 moves to (R235): on the placement die, or else on the other dies in order. -/
def demoteStack (s : State) (sh : Shelf) : Option Nat :=
  ((List.range 4).map (fun i => backs ((shelfDie sh + i) % 4))).findSome? (bestStack s sh.key.part)

/-! ### The flash side of a drawer (R252, R260) -/

/-- Stored size of a block, or of a record. -/
def unitBytes (u : CabUnit) : Nat :=
  match u.vslot with
  | some (_, _, n) => n
  | none => ceilDiv (32 + ceilDiv (256 + u.codeLen + 4) 16 * 16 + 8) 64 * 64

/-- Erase blocks that hold so many fewer valid bytes. -/
def lessValid (b : Tab EBlock) (pieces : List (Nat × Nat × Nat)) : Tab EBlock :=
  pieces.foldl (fun b x => let e := tget {} b x.1; tset {} b x.1 { e with valid := e.valid - x.2.2 }) b

/-- A cabinet unit is released, and its erase blocks hold so many fewer valid bytes. -/
def dropUnit (s : State) (u : Nat) : State :=
  match tget? s.cab.units u with
  | none => s
  | some x =>
    { s with cab := { s.cab with units := tdel s.cab.units u, blocks := lessValid s.cab.blocks x.pieces,
                                 staged := s.cab.staged.filter (fun e => decide (e.1 ≠ u)) } }

/-- The number under which the map holds a stored record of an index: by the index's key and the number of its slot. -/
def vecUnit (key slot : Nat) : Nat := 2 ^ 32 * (key + 1) + slot

/-- The stored records of an index. -/
def recordsOf (s : State) (key : Nat) : List Nat := (tkeys s.cab.units).filter (fun n => decide (n / 2 ^ 32 = key + 1))

/-- The shelf, series and index of the drawer that a unit is the retained copy of: in place, or while it moves within HBM (R237). -/
def retainedBy (s : State) (n : Nat) (u : CabUnit) : Bool :=
  match (s.shelf? u.shelf).bind (fun sh => getDrawer sh u.series u.idx) with
  | some d => (match d.loc with | .clean _ v => decide (v = n) | _ => false)
  | none => false

/-- A location without a retained copy in the cabinet (R237). -/
def uncopied : Loc → Loc
  | .clean q _ => .hbm q
  | l => l

/-- A retained copy is released: its drawer becomes `HBM`, also where it is moving (R237, R239). -/
def releaseRetained (s : State) (n : Nat) (u : CabUnit) : State :=
  match s.shelf? u.shelf with
  | none => s
  | some sh =>
    match getDrawer sh u.series u.idx with
    | some d =>
      match d.loc with
      | .clean q _ => (dropUnit s n).setShelf u.shelf (setDrawer sh { d with loc := .hbm q, moving := d.moving.map uncopied })
      | _ => s
    | none => s

/-- A lift is over. A demand read stays, without a place, until the READ that it serves has been answered (R356). -/
def dropLift (s : State) (l : Lift) : State :=
  { s with tiers := { s.tiers with lifts :=
      if l.demand then s.tiers.lifts.map (fun x => if x = l then { x with phase := .room } else x) else s.tiers.lifts.erase l } }

/-- Lifts of a drawer, or of a whole shelf, are skipped (R247, R263). -/
def skipLifts (s : State) (f : Lift → Bool) : State :=
  let gone := s.tiers.lifts.filter (fun l => f l && !l.demand)
  let s1 := s.tiers.lifts.foldl (fun s l => if f l then dropLift s l else s) s
  gone.foldl (fun s l =>
    match s.shelf? l.shelf with
    | some sh => bump s (pgPart sh.key.part + 0x228) 16 16 1
    | none => s) s1

/-- The line index of a byte offset of a pseudo-channel. -/
def lineAt (pc off : Nat) : Nat := pc * 20971520 + off / 64

/-- First payload line and first header line of a place. In a front stack R191 gives the layout; of a back stack R75 gives the numbers alone, and the
model puts the places in the slots from 0 and the header area from slot 40,128 (DESIGN CHOICE, log entry 146). -/
def placeLines (q : Place) : Nat × Nat :=
  if isFront q.stack then
    let pair := q.slot / 5080
    let n := q.slot % 5080
    (lineAt q.pc ((pair * 5120 + n) * 32768), lineAt q.pc ((pair * 5120 + 5080) * 32768 + n * 256))
  else (lineAt q.pc (q.slot * 32768), lineAt q.pc (40128 * 32768 + q.slot * 256))

/-- A line belongs to a place: 512 lines of payload and 4 of header. -/
def placeHas (q : Place) (line : Nat) : Bool :=
  let (a, h) := placeLines q
  (decide (a ≤ line) && decide (line < a + 512)) || (decide (h ≤ line) && decide (line < h + 4))

/-- A controller after lines have been written whole (R268, R269, R276): they are neither poisoned nor in error, and what waited to be written back there
is skipped. -/
def wroteLines (h : Hbm) (f : Nat → Bool) : Hbm :=
  { h with poison := h.poison.filter (fun e => !f e.1), upsets := h.upsets.filter (fun e => !f e.1), uses := h.uses.filter (fun e => !f e.1),
           wb := h.wb.filter (fun l => !f l) }

/-- An access to a place of a front stack goes to all banks of its pair (R191). -/
def askPlace (s : State) (q : Place) : State := if isFront q.stack then askAccess s (boothNo q.stack (placeBooth q)) (List.range 8) else s

/-- The lines of a place are written whole, so that none of them is poisoned any longer (R269, R271). -/
def wipePlace (s : State) (q : Place) : State :=
  let h := wroteLines (s.hbmc q.stack) (placeHas q)
  if h = s.hbmc q.stack then s else s.setHbm q.stack h

/-- A drawer's storage is freed in all tiers. Damage in a place that is free is written over (R271; DEDUCED, log entry 96). -/
def freeDrawer (s : State) (i : Nat) (d : Drawer) : State :=
  let s0 := match locPlace d.loc with | some q => wipePlace s q | none => s
  let s1 := match locUnit d.loc with | some u => dropUnit s0 u | none => s0
  let s2 := skipLifts s1 (fun l => decide (l.shelf = i) && decide (l.series = d.series) && decide (l.idx = d.idx))
  match s2.shelf? i with
  | some sh => s2.setShelf i (delDrawer sh d.series d.idx)
  | none => s2

/-- Every drawer of a shelf is freed. -/
def freeAll (s : State) (i : Nat) : State :=
  match s.shelf? i with
  | some sh => sh.drawers.foldl (fun s d => freeDrawer s i d) s
  | none => s

/-! ### Discards (R238) -/

/-- A shelf may be discarded for an operation on shelf `own` (R238); the storage of a retired entry stays held (R272). -/
def discardable (s : State) (p : Nat) (own : Option Nat) (i : Nat) (sh : Shelf) : Bool :=
  decide (sh.key.part = p) && decide (sh.state = .live) && (bit sh.prof.flags 0 || decide (rdf s (pgPart p + 0x210) 0 1 = 1)) &&
  decide (own ≠ some i) && (shelfReqs s i).isEmpty && sh.held.isEmpty && sh.appends.isEmpty && decide (sh.trim = none) &&
  sh.drawers.all (fun d => !pinned sh d.series d.idx && decide (d.moving = none)) && !s.dir.retired.contains (shelfDie sh, sh.place)

/-- The age of a shelf's most recently touched drawer, none for a shelf with no drawer, which counts as older. -/
def shelfAge (s : State) (sh : Shelf) : Option Nat :=
  sh.drawers.foldl (fun a d => some (match a with | some x => min x (ageOf s d.stamp) | none => ageOf s d.stamp)) none

/-- The order of discards: `a` before `b`. -/
def discardBefore (s : State) (a b : Shelf) : Bool :=
  let x := match shelfAge s a with | some v => v | none => 65536
  let y := match shelfAge s b with | some v => v | none => 65536
  decide (x > y) || (decide (x = y) && (decide (shelfDie a < shelfDie b) ||
    (decide (shelfDie a = shelfDie b) && decide (a.createSeq < b.createSeq))))

/-- The next shelf to discard. -/
def nextDiscard (s : State) (p : Nat) (own : Option Nat) : Option Nat :=
  ((s.dir.shelves.filter (fun e => discardable s p own e.1 e.2)).foldl (fun (b : Option (Nat × Shelf)) e =>
    match b with
    | some x => if discardBefore s e.2 x.2 then some e else b
    | none => some e) none).map (·.1)

/-- A shelf is discarded: its entry is lost, its storage free. -/
def discardShelf (s : State) (p i : Nat) : State :=
  let s1 := freeAll s i
  match s1.shelf? i with
  | some sh => bump (s1.setShelf i { sh with state := .lost, pins := [], lastScored := none }) (pgPart p + 0x224) 0 32 1
  | none => s1

/-- Discards until a condition holds or no discardable shelf is left. -/
def discardUntil (ok : State → Bool) (p : Nat) (own : Option Nat) : Nat → State → State
  | 0, s => s
  | n + 1, s =>
    if ok s then s
    else match nextDiscard s p own with
      | some i => discardUntil ok p own n (discardShelf s p i)
      | none => s

/-- New charge of a partition, after the discards of R229; the flag says whether it fits. -/
def takeCharge (s : State) (p extra : Nat) (own : Option Nat) : Bool × State :=
  let s1 := discardUntil (fun s => quotaFits s p extra) p own (s.dir.shelves.length + 1) s
  (quotaFits s1 p extra, s1)

/-- Room in the cabinet share for `n` units, after discards. -/
def takeShare (s : State) (p n : Nat) (own : Option Nat) : Bool × State :=
  let s1 := discardUntil (fun s => shareFits s p n) p own (s.dir.shelves.length + 1) s
  (shareFits s1 p n, s1)

end Sys2Proof.Machine
end

