-- ==== Sys2Proof/Machine/Clock.lean ====
section
/-! DEFINITION. The idle tick: time passes by one nanosecond (R30, R31, R498). -/
namespace Sys2Proof.Machine

/-- Charge of a partition that lies in front stacks, in bytes: its drawers there and its scratch reserve there. All other
charge counts as held in back stacks (DESIGN CHOICE, log entry 29). -/
def frontCharge (s : State) (p : Nat) : Nat :=
  ((s.dir.shelves.filter (fun e => decide (e.2.key.part = p))).map (fun e =>
    33032 * (e.2.drawers.filter (fun d => inTier d true)).length)).sum +
  (((partStacks s p).filter isFront).map (fun k => reserveIn s p k * 2 ^ 20)).sum

/-- Tiles of a partition with a thread that holds a run. -/
def busyTiles (s : State) (p : Nat) : Nat :=
  ((s.reqs.flatMap (fun e => if e.2.part = p then (e.2.runs.filter (fun r => decide (r.phase ≠ .queued) && decide (r.phase ≠ .done))).map (·.tile)
    else [])).eraseDups).length

/-- One microsecond of a partition's metering integrals; the tier integrals are kept in byte-microseconds. -/
def meterTick (s : State) (p : Nat) (m : Meter) : Meter :=
  let f := frontCharge s p
  { m with tile := sat 64 (m.tile + (partTiles s p).length), t0 := m.t0 + f, t1 := m.t1 + (partCharge s p - f),
           t2 := m.t2 + shareUsed s p, busy := sat 64 (m.busy + busyTiles s p) }

/-- A port counts as up: its link is up, and sealed where it must be (R419). -/
def anyPortUp (s : State) : Bool := s.ports.any (fun e => e.2.up && (!e.2.sealReq || e.2.sealed))

/-- The idle tick: every island counter that has not reached its last value advances, and so do the steward's nanoseconds; at
each whole microsecond the metering integrals of every partition advance. Commands take no time (log entries 14, 15). A module that is `OFF` keeps
no time. -/
def idleTick (s : State) : State :=
  if s.dev.state = .off then s else
  let s0 := { s with time := { s.time with
    ctr := s.time.ctr.map (fun c => if c + 1 < 2 ^ 48 then c + 1 else c), ns := s.time.ns + 1 } }
  let s1 := if anyPortUp s then { s0 with stw := { s0.stw with lastUp := stewardMs s0 } } else s0
  if s1.time.ns % 1000 = 0 then
    { s1 with parts := s1.parts.map (fun e => (e.1, if e.2.state = .free then e.2 else { e.2 with meter := meterTick s e.1 e.2.meter })) }
  else s1

end Sys2Proof.Machine
end

