-- ==== Sys2Proof/Machine/Keccak.lean ====
section
/-! DEFINITION. SHA3-256, KMAC128 and KMAC256 (R70, R76, R134 and the derivations of 15_security.md), over Keccak-f[1600] with
lanes as numbers below 2^64. -/
namespace Sys2Proof.Machine

/-- A lane rotated left. -/
def rotl64 (x n : Nat) : Nat := ((x <<< n) ||| (x >>> (64 - n))) % 2 ^ 64

/-- Rotation of lane `x + 5 y`. -/
def keccakRot : List Nat :=
  [0, 1, 62, 28, 27, 36, 44, 6, 55, 20, 3, 10, 43, 25, 39, 41, 45, 15, 21, 8, 18, 2, 61, 56, 14]

/-- Round constants. -/
def keccakRC : List Nat :=
  [0x0000000000000001, 0x0000000000008082, 0x800000000000808A, 0x8000000080008000, 0x000000000000808B, 0x0000000080000001,
   0x8000000080008081, 0x8000000000008009, 0x000000000000008A, 0x0000000000000088, 0x0000000080008009, 0x000000008000000A] ++
  [0x000000008000808B, 0x800000000000008B, 0x8000000000008089, 0x8000000000008003, 0x8000000000008002, 0x8000000000000080,
   0x000000000000800A, 0x800000008000000A, 0x8000000080008081, 0x8000000000008080, 0x0000000080000001, 0x8000000080008008]

/-- One round. -/
def keccakRound (a : List Nat) (rc : Nat) : List Nat :=
  let g := fun i => a.getD i 0
  let c := [g 0 ^^^ g 5 ^^^ g 10 ^^^ g 15 ^^^ g 20, g 1 ^^^ g 6 ^^^ g 11 ^^^ g 16 ^^^ g 21, g 2 ^^^ g 7 ^^^ g 12 ^^^ g 17 ^^^ g 22,
    g 3 ^^^ g 8 ^^^ g 13 ^^^ g 18 ^^^ g 23, g 4 ^^^ g 9 ^^^ g 14 ^^^ g 19 ^^^ g 24]
  let d := (List.range 5).map (fun x => c.getD ((x + 4) % 5) 0 ^^^ rotl64 (c.getD ((x + 1) % 5) 0) 1)
  let t := (List.range 25).map (fun i => rotl64 (g i ^^^ d.getD (i % 5) 0) (keccakRot.getD i 0))
  -- lane (x, y) moves to (y, 2 x + 3 y)
  let b := (List.range 25).map (fun i =>
    let x' := i % 5
    let y' := i / 5
    t.getD ((x' + 3 * y') % 5 + 5 * x') 0)
  (List.range 25).map (fun i =>
    let y := i / 5 * 5
    let v := b.getD i 0 ^^^ ((b.getD (y + (i + 1 - y) % 5) 0 ^^^ (2 ^ 64 - 1)) &&& b.getD (y + (i + 2 - y) % 5) 0)
    if i = 0 then v ^^^ rc else v)

/-- Keccak-f[1600]. -/
def keccakF (a : List Nat) : List Nat := keccakRC.foldl keccakRound a

/-- Bytes as lanes, little-endian. -/
def toLanes : Nat → List Byte → List Nat
  | 0, _ => []
  | n + 1, b => leNat (b.take 8) :: toLanes n (b.drop 8)

/-- A state with one block absorbed. -/
def absorb (a : List Nat) (block : List Byte) : List Nat :=
  keccakF ((a.zip (toLanes 25 block)).map (fun (x, y) => x ^^^ y))

/-- The blocks of a padded message. -/
def absorbAll (rate : Nat) : Nat → List Nat → List Byte → List Nat
  | 0, a, _ => a
  | _, a, [] => a
  | n + 1, a, m => absorbAll rate n (absorb a (m.take rate)) (m.drop rate)

/-- pad10*1 with a domain suffix. -/
def keccakPad (rate suffix : Nat) (m : List Byte) : List Byte :=
  let k := rate - m.length % rate
  if k = 1 then m ++ [BitVec.ofNat 8 (suffix ||| 0x80)]
  else m ++ [BitVec.ofNat 8 suffix] ++ List.replicate (k - 2) 0 ++ [0x80]

/-- A sponge with at most one block of output. -/
def sponge (rate suffix : Nat) (m : List Byte) (out : Nat) : List Byte :=
  let p := keccakPad rate suffix m
  ((absorbAll rate p.length (List.replicate 25 0) p).flatMap (leBytes 8)).take out

/-- SHA3-256. -/
def sha3 (m : List Byte) : List Byte := sponge 136 0x06 m 32

/-- Big-endian bytes of a number, at least one. -/
def beBytes (v : Nat) : List Byte :=
  if v < 256 then [BitVec.ofNat 8 v]
  else if v < 65536 then [BitVec.ofNat 8 (v / 256), BitVec.ofNat 8 v]
  else [BitVec.ofNat 8 (v / 65536), BitVec.ofNat 8 (v / 256), BitVec.ofNat 8 v]

def leftEncode (v : Nat) : List Byte := BitVec.ofNat 8 (beBytes v).length :: beBytes v
def rightEncode (v : Nat) : List Byte := beBytes v ++ [BitVec.ofNat 8 (beBytes v).length]
def encodeString (b : List Byte) : List Byte := leftEncode (8 * b.length) ++ b

/-- bytepad: length a multiple of `w`. -/
def bytepad (w : Nat) (b : List Byte) : List Byte :=
  let z := leftEncode w ++ b
  padTo z (ceilDiv z.length w * w)

/-- The bytes of an ASCII text. -/
def ascii (t : String) : List Byte := t.toList.map (fun c => BitVec.ofNat 8 c.toNat)

/-- KMAC with a rate: key, input, output length in bytes, customisation text. -/
def kmac (rate : Nat) (key input : List Byte) (out : Nat) (cust : String) : List Byte :=
  sponge rate 0x04 (bytepad rate (encodeString (ascii "KMAC") ++ encodeString (ascii cust)) ++ bytepad rate (encodeString key) ++
    input ++ rightEncode (8 * out)) out

def kmac128 (key input : List Byte) (out : Nat) (cust : String) : List Byte := kmac 168 key input out cust
def kmac256 (key input : List Byte) (out : Nat) (cust : String) : List Byte := kmac 136 key input out cust

end Sys2Proof.Machine
end

