-- ==== Sys2Proof/Machine/LineCode.lean ====
section
/-! DEFINITION. The stored line of HBM: the Reed-Solomon code, the integrity tag and the encryption (R264-R267, R429). Nothing here touches the state. -/
namespace Sys2Proof.Machine

/-! ### Fields of 256 elements -/

/-- A field element times x, modulo a polynomial of degree 8. -/
def gfDouble (poly a : Nat) : Nat := if a ≥ 128 then (2 * a) ^^^ poly else 2 * a

/-- Product over the lowest `n` bits of `b`. -/
def gfMulN (poly : Nat) : Nat → Nat → Nat → Nat
  | 0, _, _ => 0
  | n + 1, a, b => (if b % 2 = 1 then a else 0) ^^^ gfMulN poly n (gfDouble poly a) (b / 2)

/-- Product of two field elements. -/
def gfMul (poly a b : Nat) : Nat := gfMulN poly 8 a b

/-- A field element to a power. -/
def gfPow (poly a : Nat) : Nat → Nat
  | 0 => 1
  | n + 1 => gfMul poly a (gfPow poly a n)

/-! ### The line code (R265) -/

/-- Product in the field of R265. -/
def rsMul : Nat → Nat → Nat := gfMul 0x11D

/-- Field elements added, one by one. -/
def xorBytes (a b : List Nat) : List Nat := (a.zip b).map (fun e => e.1 ^^^ e.2)

/-- The generator (x - 1)(x - 2)(x - 4)(x - 8), its coefficients from the highest power down. -/
def rsGen : List Nat := [1, 2, 4, 8].foldl (fun (g : List Nat) r => xorBytes (g ++ [0]) (0 :: g.map (rsMul r))) [1]

/-- One step of the division by the generator. -/
def rsStep (reg : List Nat) (x : Nat) : List Nat :=
  xorBytes (reg.drop 1 ++ [0]) ((rsGen.drop 1).map (rsMul (x ^^^ reg.headD 0)))

/-- The check symbols C0-C3 of 72 symbols. The first symbol of the codeword is the coefficient of the highest power (DEDUCED, log entry 148). -/
def rsParity (m : List Nat) : List Nat := m.foldl rsStep [0, 0, 0, 0]

/-- Syndrome `i` of a word: its value at `2 ^ i`. -/
def rsSyndrome (c : List Nat) (i : Nat) : Nat := c.foldl (fun acc x => rsMul acc (2 ^ i) ^^^ x) 0

/-- What the decoder makes of a word: no error, one symbol in error with its place and its change, or more than it can correct. -/
inductive RsOut where
  | clean | fixed (symbol change : Nat) | failed
deriving DecidableEq, Repr

/-- The decoder (R265): an error confined to one symbol is found by its place. -/
def rsDecode (c : List Nat) : RsOut :=
  let s0 := rsSyndrome c 0
  let s1 := rsSyndrome c 1
  let s2 := rsSyndrome c 2
  let s3 := rsSyndrome c 3
  if s0 = 0 ∧ s1 = 0 ∧ s2 = 0 ∧ s3 = 0 then .clean
  else if s0 = 0 then .failed
  else match (List.range 76).find? (fun p =>
      let x := gfPow 0x11D 2 (75 - p)
      decide (rsMul s0 x = s1) && decide (rsMul s1 x = s2) && decide (rsMul s2 x = s3)) with
    | some p => .fixed p s0
    | none => .failed

/-! ### The tag (R266) -/

/-- The line address of R266: the stack in bits 3-0, the line above. -/
def lineAddr (stack line : Nat) : Nat := 16 * line + stack

/-- `LTAG` under a tag key. -/
def lineTag (key : List Byte) (stack line lstate : Nat) (stored : List Byte) : List Byte :=
  (kmac128 key (leBytes 8 (lineAddr stack line) ++ leBytes 1 lstate ++ stored) 32 "XCN3-LINE").take 6

/-- A stored line of 76 bytes: the stored bytes, the tag, `LSTATE`, the reserved byte and the check symbols (R264). -/
def storedLine (key : List Byte) (stack line lstate : Nat) (stored : List Byte) : List Byte :=
  let b := stored ++ lineTag key stack line lstate stored ++ leBytes 1 lstate ++ [0]
  b ++ (rsParity (b.map (·.toNat))).map (BitVec.ofNat 8)

/-! ### AES-256 (FIPS 197) and XTS (IEEE 1619), as R429 uses them -/

/-- The field of AES. -/
def aesMul : Nat → Nat → Nat := gfMul 0x11B

/-- A byte turned left by `n` bits. -/
def rotl8 (x n : Nat) : Nat := (x * 2 ^ n % 256) ||| (x / 2 ^ (8 - n))

/-- The substitution of a byte. -/
def aesSub (x : Nat) : Nat :=
  let y := gfPow 0x11B x 254
  y ^^^ rotl8 y 1 ^^^ rotl8 y 2 ^^^ rotl8 y 3 ^^^ rotl8 y 4 ^^^ 0x63

/-- The key schedule: words of four bytes, the newest first; `n` more words are formed, the next with number `i`. -/
def aesExpand : Nat → Nat → List (List Nat) → List (List Nat)
  | 0, _, ws => ws
  | n + 1, i, ws =>
    let t := ws.headD []
    let u := if i % 8 = 0 then xorBytes ((t.drop 1 ++ t.take 1).map aesSub) [gfPow 0x11B 2 (i / 8 - 1), 0, 0, 0]
      else if i % 8 = 4 then t.map aesSub else t
    aesExpand n (i + 1) (xorBytes (ws.getD 7 []) u :: ws)

/-- The 15 round keys of a 32-byte key. -/
def aesKeys (key : List Nat) : List (List Nat) :=
  let ws := (aesExpand 52 8 ((List.range 8).map (fun i => (key.drop (4 * i)).take 4)).reverse).reverse
  (List.range 15).map (fun r => ((ws.drop (4 * r)).take 4).flatten)

/-- `ShiftRows` of a state of 16 bytes, column after column. -/
def aesShift (a : List Nat) : List Nat := (List.range 16).map (fun i => a.getD ((i + 4 * (i % 4)) % 16) 0)

/-- `MixColumns`. -/
def aesMix (a : List Nat) : List Nat :=
  (List.range 16).map (fun i =>
    let g := fun k => a.getD (i / 4 * 4 + (i + k) % 4) 0
    aesMul 2 (g 0) ^^^ aesMul 3 (g 1) ^^^ g 2 ^^^ g 3)

/-- One block of 16 bytes under the round keys. -/
def aesBlock (keys : List (List Nat)) (b : List Nat) : List Nat :=
  let mid := ((keys.drop 1).take 13).foldl (fun a k => xorBytes (aesMix (aesShift (a.map aesSub))) k) (xorBytes b (keys.headD []))
  xorBytes (aesShift (mid.map aesSub)) (keys.getD 14 [])

/-- The tweak of the next block. -/
def xtsNext (t : List Nat) : List Nat :=
  let v := leNat (t.map (BitVec.ofNat 8))
  ((leBytes 16 (2 * v % 2 ^ 128)).map (·.toNat)).modifyHead (fun x => if v ≥ 2 ^ 127 then x ^^^ 0x87 else x)

/-- Blocks of a data unit under the data key and a running tweak. -/
def xtsBlocks (keys : List (List Nat)) : Nat → List Nat → List Nat → List Nat
  | 0, _, _ => []
  | n + 1, t, b => xorBytes (aesBlock keys (xorBytes (b.take 16) t)) t ++ xtsBlocks keys n (xtsNext t) (b.drop 16)

/-- AES-256-XTS of a data unit of `16 * n` bytes: the first half of the 64-byte key encrypts the blocks, the second the tweak. -/
def xtsEncrypt (key : List Byte) (tweak n : Nat) (b : List Byte) : List Byte :=
  let k := key.map (·.toNat)
  let t := aesBlock (aesKeys (k.drop 32)) ((leBytes 16 tweak).map (·.toNat))
  (xtsBlocks (aesKeys (k.take 32)) n t (b.map (·.toNat))).map (BitVec.ofNat 8)

end Sys2Proof.Machine
end

