-- ==== Sys2Proof/Machine/Lines.lean ====
section
/-! DEFINITION. Lines of HBM as the controllers store, check and poison them (R264-R269, R274, R277, R429), and the lines of device memory (R379, R382). -/
namespace Sys2Proof.Machine

/-! ### Lines, rows and banks (R75, R191, R277; numbering: log entry 32) -/

def linesPerPc : Nat := 20971520
def linePc (line : Nat) : Nat := line / linesPerPc
/-- Row of a line within the stack: 16 lines. -/
def lineRow (line : Nat) : Nat := line / 16
/-- Bank of a row: pseudo-channel, pair and bank 0-7 of the pair. -/
def rowBank (row : Nat) : Nat :=
  let pc := row / (linesPerPc / 16)
  let w := row % (linesPerPc / 16)
  64 * pc + 8 * (w / (5120 * 32)) + w % 8

/-- The booth whose pair holds a line of a front stack, and the bank there. -/
def lineBooth (k line : Nat) : Nat × Nat :=
  let bank := rowBank (lineRow line)
  (boothNo k (pairBooth (bank / 64) (bank / 8 % 8)), bank % 8)

/-- An access to one line. -/
def askLine (s : State) (k line : Nat) : State := if isFront k then askAccess s (lineBooth k line).1 [(lineBooth k line).2] else s

/-- Spare rows used in a bank. -/
def sparesUsed (h : Hbm) (bank : Nat) : Nat := (h.log.filter (fun r => decide (r.bank = bank))).length
/-- Fewest spare rows left in any bank (`SPARE_MIN`). -/
def spareMin (h : Hbm) : Nat := 4 - (h.log.foldl (fun m r => max m (sparesUsed h r.bank)) 0)

/-- A pseudo-channel is to be retired: it is marked retiring, so that nothing new is allocated in it (R280). -/
def retireMark (h : Hbm) (pc : Nat) : Hbm :=
  if h.retiring.contains pc || h.retired.contains pc then h else { h with retiring := h.retiring ++ [pc] }

/-- A row is due for repair; where its bank has no spare row left, the repair is not done and the pseudo-channel is retired (R279, R280). A repaired row
may become due again. -/
def rowDue (h : Hbm) (row : Nat) : Hbm :=
  if h.due.contains row then h
  else if sparesUsed h (rowBank row) ≥ 4 then retireMark h (rowBank row / 64)
  else { h with due := h.due ++ [row] }

/-- One correction counts for a row, the row counted least recently giving way; at the threshold the row is due for repair. -/
def countRow (h : Hbm) (row thresh : Nat) : Hbm :=
  let n := match h.rows.find? (fun e => decide (e.1 = row)) with | some e => e.2 + 1 | none => 1
  let rest := h.rows.filter (fun e => decide (e.1 ≠ row))
  let h1 := { h with rows := (if rest.length ≥ 4096 then rest.drop 1 else rest) ++ [(row, n)] }
  if n ≥ thresh then rowDue h1 row else h1

/-- The drawer whose place holds a line of a stack: shelf and drawer. -/
def lineDrawer (s : State) (k line : Nat) : Option (Nat × Drawer) :=
  s.dir.shelves.findSome? (fun e => (e.2.drawers.find? (fun d => match locPlace d.loc with
    | some q => decide (q.stack = k) && placeHas q line
    | none => false)).map (fun d => (e.1, d)))

/-! ### What a line holds, and its keys (R75, R224, R264-R266, R428, R429) -/

/-- A line of a device-reserved slot of a back stack (R75; log entry 146). -/
def lineReserved (k line : Nat) : Bool := !isFront k && decide (line % linesPerPc / 512 ≥ 40448)

/-- The partition whose keys a line uses; none for the device keys. -/
def lineOwner (s : State) (k line : Nat) : Option Nat := if lineReserved k line then none else tget? s.pcOwner (64 * k + linePc line)

/-- The data key and, above it, the tag key of a partition or of the device, as one number. -/
def keyBits (s : State) (o : Option Nat) : Nat :=
  match o with
  | some p => (s.part p).keys.getD 0
  | none => s.sec.devKeys
def dataKey (v : Nat) : List Byte := leBytes 64 v
def tagKey (v : Nat) : List Byte := leBytes 32 (v / 2 ^ 512)

/-- A line of the booth region of a `STANDARD` partition is stored as plaintext: a line of a K drawer in a front stack, or of a score segment that booths
write (R224). -/
def boothRegion (s : State) (k line : Nat) : Bool :=
  isFront k &&
  (match lineOwner s k line with | some p => !(s.part p).sealed | none => false) &&
  (match lineDrawer s k line with
   | some (_, d) => decide (d.series % 2 = 0)
   | none => match tget? (s.hbmc k).uses line with
     | some (.segment id n) => (match tget? s.reqs id with | some r => (r.runs.getD n {}).booth | none => false)
     | _ => false)

/-- The 64 bytes of a line: of a drawer, of device memory, or bytes that the spec does not give. -/
def lineBytes (s : State) (k line : Nat) : List Byte :=
  match lineDrawer s k line with
  | some (i, d) =>
    match locPlace d.loc, s.shelf? i with
    | some q, some sh =>
      let (a, h) := placeLines q
      if a ≤ line ∧ line < a + 512 then padTo (bslice d.data ((line - a) * 64) 64) 64
      else bslice (drawerHeader sh d d.count) ((line - h) * 64) 64
    | _, _ => List.replicate 64 0
  | none =>
    match tget? (s.hbmc k).uses line with
    | some (.dev l) => mread s.devMem (l * 64) 64
    | _ => (List.range 64).map (Config.freeLine k line)

/-- `LSTATE` of a line (R264). -/
def lineState (s : State) (k line : Nat) : Nat :=
  match tget? (s.hbmc k).poison line with
  | some c => 1 + 2 * c
  | none => 0

/-- The 76 bytes that the stack stores for a line (R264-R266, R429). -/
def lineStored (s : State) (k line : Nat) : List Byte :=
  let v := keyBits s (lineOwner s k line)
  let plain := if lineState s k line = 0 then lineBytes s k line else List.replicate 64 0
  let b := if boothRegion s k line then plain else xtsEncrypt (dataKey v) (lineAddr k line) 4 plain
  storedLine (tagKey v) k line (lineState s k line) b

/-! ### Reading a line (R265-R267) -/

/-- What a read finds: the line as it is, the line corrected, poison, a word that does not decode, or one that fails its tag. -/
inductive LineOut where
  | good | fixed | poison | code | tag
deriving DecidableEq, Repr

/-- The word is uncorrectable. -/
def LineOut.bad (o : LineOut) : Bool := decide (o = .code) || decide (o = .tag)

/-- The checks of R267 on 76 symbols as they come from the stack: decoding, poison, tag. Step 4, the decryption, gives back what the state holds. A word
that passes with other bytes than were written, which happens with a probability of 2^-48, counts as read right (DEDUCED, log entry 148). -/
def checkWord (s : State) (k line : Nat) (w : List Nat) : LineOut :=
  let rest := fun (c : List Nat) (o : LineOut) =>
    let b := c.map (BitVec.ofNat 8)
    if c.getD 70 0 % 2 = 1 then LineOut.poison
    else if bslice b 64 6 = lineTag (tagKey (keyBits s (lineOwner s k line))) k line (c.getD 70 0) (b.take 64) then o
    else .tag
  match rsDecode w with
  | .failed => .code
  | .clean => rest w .good
  | .fixed p x => rest (modAt (fun y => y ^^^ x) p w) .fixed

/-- What a read finds in a line in which some symbols have changed. -/
def wordOut (s : State) (k line : Nat) (errs : List (Nat × Nat)) : LineOut :=
  checkWord s k line (errs.foldl (fun w e => modAt (fun y => y ^^^ e.2) e.1 w) ((lineStored s k line).map (·.toNat)))

/-- What a controller's read finds in a line: it reads once more before it declares the line uncorrectable, and a line that passes then counts as
corrected (R267). -/
def lineOut (s : State) (k line : Nat) : LineOut :=
  let h := s.hbmc k
  if (tget? h.poison line).isSome then .poison
  else match tget? h.upsets line with
    | none => .good
    | some u =>
      let o := wordOut s k line (u.bad ++ u.once)
      if !o.bad then o
      else match wordOut s k line u.bad with
        | .code => .code
        | .tag => .tag
        | .poison => .poison
        | _ => .fixed

/-- A read corrected a line: it counts, and waits to be written back (R274, R277). -/
def lineCorrected (s : State) (k line : Nat) : State :=
  let s1 := bump s (pgHbm k + 0x100) 0 16 1
  let h := s1.hbmc k
  let h1 := countRow h (lineRow line) (rdf s1 (pgHbm k + 0x120) 8 8)
  s1.setHbm k { h1 with wb := if h1.wb.contains line then h1.wb else h1.wb ++ [line] }

/-- The data of `LINE_UNCORR` and `TAG_FAIL`. -/
def lineData (line cause : Nat) : List Byte := leBytes 4 line ++ leBytes 1 (linePc line) ++ leBytes 1 cause

/-- An uncorrectable line counts for its pseudo-channel and its stack: at the thresholds the one is marked retiring, the other is to be fenced (R280,
R281). -/
def countUnc (s : State) (k : Nat) (h : Hbm) (line : Nat) : Hbm :=
  let pc := linePc line
  let n := tget 0 h.pcUnc pc + 1
  let h1 := { h with pcUnc := tput h.pcUnc pc n, stUnc := h.stUnc + 1 }
  let h2 := if n ≥ max 1 (rdf s (pgHbm k + 0x120) 16 8) then retireMark h1 pc else h1
  if h2.stUnc ≥ 8 * max 1 (rdf s (pgHbm k + 0x120) 24 8) then { h2 with fenceDue := true } else h2

/-- A structure that a line was said to hold is there still. -/
def useLive (s : State) (k : Nat) : LineUse → Bool
  | .clear => false
  | .entry _ i _ => decide (i < 4194368)
  | .table i _ | .summary i _ _ => (s.shelf? i).isSome
  | .segment id n => match (tget? s.reqs id).bind (fun r => r.runs[n]?) with | some x => decide (x.segStack = some k) | none => false
  | .map _ => !s.cab.units.isEmpty
  | .tables i _ | .ids i _ _ | .list i _ | .bench i => (tget? s.vidx i).isSome
  | .spill q => (tget? s.qps q).isSome
  | .shadow _ _ | .dev _ => true

/-- A line holds something that its loss would harm: a drawer's bytes, or what it was said to hold. -/
def lineKept (s : State) (k line : Nat) : Bool :=
  (lineDrawer s k line).isSome || (match tget? (s.hbmc k).uses line with | none => false | some u => useLive s k u)

/-- A read found a line uncorrectable that was not poisoned (R269, R277): it counts and is rewritten as poisoned with `CAUSE` 1, and its row is due for
repair. A free line is rewritten with zeros instead (R271). A line of device memory keeps its poison with the device memory. -/
def lineUncorr (s : State) (k line : Nat) (tag : Bool) : State :=
  let s1 := bump s (pgHbm k + 0x100) 16 16 1
  let s2 := if tag then raise (bump s1 (pgHbm k + 0x104) 0 32 1) (pgHbm k) 1 (lineData line 1) else s1
  let s3 := raise s2 (pgHbm k) 0 (lineData line 1)
  let h := s3.hbmc k
  let h1 := rowDue (countUnc s3 k { h with last := some (line, 1), wb := h.wb.erase line, upsets := tdel h.upsets line } line) (lineRow line)
  match tget? h.uses line with
  | some (.dev l) => { s3.setHbm k h1 with devBad := tput s3.devBad l 1 }
  | _ => s3.setHbm k (if lineKept s3 k line then { h1 with poison := tput h1.poison line 1 } else wroteLines h1 (fun x => decide (x = line)))

/-- The errors that only one read meets are over. -/
def readOnce (s : State) (k line : Nat) : State :=
  let h := s.hbmc k
  match tget? h.upsets line with
  | none => s
  | some u => s.setHbm k { h with upsets := if u.bad.isEmpty then tdel h.upsets line else tput h.upsets line { u with once := [] } }

/-- A controller reads a line: what it finds, and the state after what it does about it. -/
def readLine (s : State) (k line : Nat) : LineOut × State :=
  match lineOut s k line with
  | .good => (.good, readOnce s k line)
  | .fixed => (.fixed, lineCorrected (readOnce s k line) k line)
  | .poison => (.poison, readOnce s k line)
  | o => (o, lineUncorr s k line (decide (o = .tag)))

/-- Bits of a stored line change, for good or for the next read alone. -/
def hitLine (s : State) (k : Nat) (stays : Bool) (x : LineHit) : State :=
  let h := s.hbmc k
  let u := tget {} h.upsets x.line
  if h.fenced || (tget? h.poison x.line).isSome then s
  else s.setHbm k { h with
    upsets := tput h.upsets x.line (if stays then { u with bad := u.bad ++ x.errs } else { u with once := u.once ++ x.errs }),
    uses := if x.use = .clear then h.uses else tput h.uses x.line x.use }

/-- Lines of a place in which something stands that a read would notice. -/
def placeNoted (s : State) (q : Place) : List Nat :=
  let h := s.hbmc q.stack
  ((tkeys h.poison ++ tkeys h.upsets).filter (placeHas q)).eraseDups

/-- All the lines of a place are read: the first that is uncorrectable or poisoned. -/
def readPlace (s0 : State) (q : Place) : Option Nat × State :=
  let s := askPlace s0 q
  (placeNoted s q).foldl (fun (acc : Option Nat × State) line =>
    match acc.1 with
    | some l => (some l, acc.2)
    | none =>
      let (o, s1) := readLine acc.2 q.stack line
      (if o = .good ∨ o = .fixed then none else some line, s1)) (none, s)

/-- The damage that reading a drawer meets in HBM: the stack and the line (R270, R271). -/
def readDrawer (s : State) (d : Drawer) : Option (Nat × Nat) × State :=
  match locPlace d.loc with
  | none => (none, s)
  | some q => let (l, s1) := readPlace s q; (l.map (fun x => (q.stack, x)), s1)

/-- Payload bytes from `x` to `x + n - 1` of a place are written (R268): whole lines with new side records, those written in part by a read, a merge and a
write. Where the read finds the line poisoned or uncorrectable the write is discarded, raised and counted; that line. -/
def wroteSpan (s0 : State) (q : Place) (x n : Nat) : Option Nat × State :=
  let s := askPlace s0 q
  let a := (placeLines q).1
  let whole := fun (l : Nat) => decide (a ≤ l) && decide (x ≤ 64 * (l - a)) && decide (64 * (l - a) + 64 ≤ x + n)
  let h := wroteLines (s.hbmc q.stack) whole
  let s1 := if h = s.hbmc q.stack then s else s.setHbm q.stack h
  ([a + x / 64, a + (x + n - 1) / 64].eraseDups.filter (fun l => !whole l)).foldl (fun (acc : Option Nat × State) l =>
    if (tget? (acc.2.hbmc q.stack).poison l).isNone && (tget? (acc.2.hbmc q.stack).upsets l).isNone then acc
    else
      let (o, s2) := readLine acc.2 q.stack l
      let h2 := s2.hbmc q.stack
      if o = .good ∨ o = .fixed then (acc.1, s2.setHbm q.stack (wroteLines h2 (fun m => decide (m = l))))
      else (some l, raise (s2.setHbm q.stack { h2 with dropped := sat 32 (h2.dropped + 1) }) (pgHbm q.stack) 7 [])) (none, s1)

/-- The first damage among some drawers. -/
def readDrawers (s : State) (ds : List Drawer) : Option (Nat × Nat) × State :=
  ds.foldl (fun (acc : Option (Nat × Nat) × State) d => if acc.1.isSome then acc else readDrawer acc.2 d) (none, s)

/-- The lines that hold a structure, with their stacks, in which something stands that a read would notice. -/
def useNoted (s : State) (f : LineUse → Bool) : List (Nat × Nat × LineUse) :=
  s.hbm.flatMap (fun e => (e.2.uses.filter (fun x => f x.2 && ((tget? e.2.poison x.1).isSome || (tget? e.2.upsets x.1).isSome))).map
    (fun x => (e.1, x.1, x.2)))

/-- A structure's lines are written whole. -/
def wroteUse (s : State) (f : LineUse → Bool) : State :=
  { s with hbm := s.hbm.map (fun e =>
    (e.1, let ls := (e.2.uses.filter (fun x => f x.2)).map (·.1); wroteLines e.2 (fun l => ls.contains l))) }

/-! ### Device memory (R268, R270, R282, R379, R382) -/

/-- The stack that holds a device physical address of an extent. -/
def dpaStack (s : State) (dpa : Nat) : Option Nat :=
  let pcs := (tget {} s.cxl.ext (dpa / 2 ^ 30)).pcs
  if pcs.isEmpty then none else some (pcs.getD (dpa % 2 ^ 30 / 4096 % pcs.length) (0, 0)).1

/-- Whether the HBM that holds a device physical address answers: the stacks of its extent are not fenced (R282). -/
def dpaAnswers (s : State) (dpa : Nat) : Bool :=
  match (tget {} s.cxl.ext (dpa / 2 ^ 30)).pcs with
  | [] => true
  | pcs =>
    let g := dpa % 2 ^ 30 / 4096
    !(s.hbmc (pcs.getD (g % pcs.length) (0, 0)).1).fenced

/-- A controller reads a line of device memory for the device or the host: whether it answers with poison. -/
def readDev (s : State) (l : Nat) : Bool × State :=
  if !dpaAnswers s (l * 64) || (tget? s.devBad l).isSome then (true, s)
  else match dpaStack s (l * 64) with
    | none => (false, s)
    | some k =>
      match ((s.hbmc k).uses.find? (fun e => decide (e.2 = .dev l))).map (·.1) with
      | none => (false, s)
      | some line => let (o, s1) := readLine s k line; (!(decide (o = .good) || decide (o = .fixed)), s1)

/-- Lines of device memory are read in order: whether one of them answers with poison. -/
def readDevs (s : State) (ls : List Nat) : Bool × State :=
  ls.foldl (fun (acc : Bool × State) l => let (b, s1) := readDev acc.2 l; (acc.1 || b, s1)) (false, s)

/-- A line of device memory is written whole, as poison with a `CAUSE` or with bytes. -/
def wroteDev (s : State) (l : Nat) (cause : Option Nat) : State :=
  let s1 := wroteUse s (fun u => decide (u = .dev l))
  { s1 with devBad := match cause with | some c => tput s1.devBad l c | none => tdel s1.devBad l }

/-- A narrow write to a poisoned line is discarded and counted (R268). -/
def dropNarrow (s : State) (dpa : Nat) : State :=
  match dpaStack s dpa with
  | none => s
  | some k =>
    let h := s.hbmc k
    raise (s.setHbm k { h with dropped := sat 32 (h.dropped + 1) }) (pgHbm k) 7 []

/-- Bytes within one line land in device memory: a whole line with a new side record, a narrow one by a read, a merge and a write, which is discarded
where the read finds poison (R268). -/
def devPutLine (s : State) (a : Nat) (b : List Byte) : State :=
  if b.length = 64 then let s1 := wroteDev s (a / 64) none; { s1 with devMem := mwrite s1.devMem a b }
  else match readDev s (a / 64) with
    | (true, s1) => dropNarrow s1 a
    | (false, s1) => { s1 with devMem := mwrite s1.devMem a b }

/-- The bytes of a range, line by line. -/
def linePieces : Nat → Nat → List Byte → List (Nat × List Byte)
  | 0, _, _ => []
  | _, _, [] => []
  | n + 1, a, b => let k := 64 - a % 64; (a, b.take k) :: linePieces n (a + k) (b.drop k)

/-- Bytes land at a device physical address. -/
def devPut (s : State) (a : Nat) (b : List Byte) : State :=
  (linePieces (b.length / 64 + 2) a b).foldl (fun s e => devPutLine s e.1 e.2) s

end Sys2Proof.Machine
end

