-- ==== Sys2Proof/Machine/Rules.lean ====
section
/-! DEFINITION. The ringmaster's gate for work of a class (R451-R456) and the rule table (11_rule_table.md). -/
namespace Sys2Proof.Machine

/-! ### The ringmaster's gate -/

/-- Queue sizes of the work classes (R451). -/
def classQueue (c : Nat) : Nat := if c = 1 then 1024 else if c = 2 then 256 else 4096

/-- Whether a class is deferred for load (R452). -/
def deferred (s : State) (c : Nat) : Bool := (decide (c = 3) && (s.stw.defer3 || s.stw.defer23)) || (decide (c = 2) && s.stw.defer23)

/-- New ringmaster work of a class: `none` where it is taken, or the wait in microseconds that a refused descriptor gives
(R453, R454, R456, R543), with the refusal counted in the class's `STW_DEFER` register where the class is deferred or its
queue is full. -/
def rmGate (s : State) (c : Nat) : Option Nat × State :=
  match s.stw.rm with
  | .held => (some 0xFFFFFFFF, s)
  | .restarting => (some 100000, s)
  | .running =>
    if deferred s c ∨ s.stw.queues.getD c 0 ≥ classQueue c then (some 1000, bump s (pgStw + 0x110 + 4 * c) 0 32 1)
    else (none, s)

/-! ### Entries and actions (R312-R315) -/

/-- `STATUS` codes that a `REFUSE` action may carry (R313): `STALE_EPOCH`, `FENCED`, `RETRY_LATER`, `DENIED`. -/
def refuseCodes : List Nat := [0x11, 0x12, 0x40, 0x50]

/-- An action obeys R313. -/
def actionOk (a : Nat) : Bool :=
  let kind := bits a 0 3
  let tclass := bits a 4 4
  let status := bits a 8 8
  let node := bits a 16 32
  let tpart := bits a 48 5
  decide (kind ≤ 2) && decide (bits a 3 1 = 0) && decide (bits a 53 11 = 0) &&
  (decide (kind = 0) || decide (tclass = 0)) &&
  (if kind = 2 then refuseCodes.contains status else decide (status = 0)) &&
  (if kind = 1 then decide (node ≠ 0xFFFFFFFF) else decide (node = 0) || (decide (kind = 2) && decide (status = 0x40))) &&
  (decide (kind = 1) || decide (tpart = 0))

/-- Value bits whose care bit is 0 are 0 (R314). -/
def valueOk (value care : Nat) : Bool := decide (value &&& (2 ^ 160 - 1 - care) = 0)

/-- A valid entry matches a key (R312). -/
def ruleMatch (r : Rule) (key : Nat) : Bool := r.valid && decide (key &&& r.care = r.value)

/-- The lowest-indexed entry that matches a key (R316). -/
def ruleFind : Tab Rule → Nat → Option (Nat × Rule)
  | [], _ => none
  | (i, r) :: t, key => if ruleMatch r key then some (i, r) else ruleFind t key

/-- A lookup: the action that applies, with the counter of the slice that decided, or of the default action, raised (R315,
R316, `RULE_WINS`, `RULE_DEFHITS`). -/
def ruleLookup (s : State) (key : Nat) : Nat × State :=
  match ruleFind s.rules.entries key with
  | some (i, r) => (r.action, bump s (pgRule (i / 16384) + 0x104) 0 32 1)
  | none => (s.rules.deflt, bump s (pgRule 0 + 0x110) 0 32 1)

/-! ### Bands and groups (R321-R326) -/

/-- First group of a band. -/
def bandStart (bands : List Nat) (b : Nat) : Nat := (bands.take b).sum

/-- The entry at an index; an unlisted entry is invalid. -/
def ruleAt (t : Tab Rule) (i : Nat) : Rule := tget {} t i

/-- Valid entries of a group. -/
def groupCount (t : Tab Rule) (g : Nat) : Nat := ((List.range 32).filter (fun p => (ruleAt t (32 * g + p)).valid)).length

/-- Valid entries of the groups `g0` to `g0 + n - 1`, in order, with their indexes. -/
def groupEntries (t : Tab Rule) (g0 n : Nat) : List (Nat × Rule) :=
  t.filter (fun e => e.2.valid && decide (32 * g0 ≤ e.1) && decide (e.1 < 32 * (g0 + n)))

/-- An entry is written: shadows and slice (R324). -/
def putRule (r : Rules) (i : Nat) (v : Rule) : Rules :=
  { r with entries := tset {} r.entries i v, shadowA := tset {} r.shadowA i v, shadowB := tset {} r.shadowB i v }

/-- The free place of a group nearest to `t`, the later one on a tie (R323). -/
def freePlace (t : Tab Rule) (g at_ : Nat) : Option Nat :=
  ((List.range 32).filter (fun p => !(ruleAt t (32 * g + p)).valid)).foldl (fun b p =>
    match b with
    | none => some p
    | some q =>
      let dp := if p ≥ at_ then p - at_ else at_ - p
      let dq := if q ≥ at_ then q - at_ else at_ - q
      if dp ≤ dq then some p else some q) none

/-- Outcome of the placement of an insertion (R323): done at a group and place, group full, or band full. -/
inductive InsPlan where
  | done (g t : Nat)
  | groupFull (g : Nat)
  | bandFull
deriving DecidableEq, Repr

/-- Where an insertion goes (R323): the group and place `t` before its entries move. -/
def insPlan (r : Rules) (band prio : Nat) : InsPlan :=
  let g0 := bandStart r.bands band
  let n := r.bands.getD band 0
  if (List.range n).all (fun i => decide (31 ≤ groupCount r.entries (g0 + i))) then .bandFull
  else
    let (g, t) := match ((groupEntries r.entries g0 n).filter (fun e => decide (e.2.prio ≤ prio))).getLast? with
      | some (i, _) => (i / 32, i % 32 + 1)
      | none => (g0, 0)
    if groupCount r.entries g ≥ 31 then
      if (List.range 32).all (fun p => decide (p < t) || !(ruleAt r.entries (32 * g + p)).valid) ∧ g + 1 < g0 + n ∧
          groupCount r.entries (g + 1) < 31 then .done (g + 1) 0
      else .groupFull g
    else .done g t

/-- The moves and the write of an insertion at place `t` of group `g` (R323), with the index of the new entry. -/
def insWrite (r : Rules) (g t : Nat) (v : Rule) : Rules × Nat :=
  match freePlace r.entries g t with
  | none => (r, 32 * g + t)
  | some f =>
    if f ≥ t then
      let r1 := (List.range (f - t)).foldl (fun r k =>
        let e := f - 1 - k
        putRule r (32 * g + e + 1) (ruleAt r.entries (32 * g + e))) r
      (putRule r1 (32 * g + t) v, 32 * g + t)
    else
      let r1 := (List.range (t - 1 - f)).foldl (fun r k =>
        let e := f + 1 + k
        putRule r (32 * g + e - 1) (ruleAt r.entries (32 * g + e))) r
      (putRule r1 (32 * g + t - 1) v, 32 * g + t - 1)

/-- A band queues for rebalancing (R326). -/
def queueRebal (r : Rules) (b : Nat) : Rules := if r.rebal.contains b then r else { r with rebal := r.rebal ++ [b] }

/-- The rule table in a new state; the shadow copies of the entries that change are written whole (R324, R327). -/
def setRules (s : State) (r : Rules) : State :=
  let changed := fun u => match u with | .shadow i _ => decide (ruleAt r.shadowA i ≠ ruleAt s.rules.shadowA i) | _ => false
  let s1 := wroteUse s changed
  { s1 with rules := r }

/-! ### Commands (R321-R325) -/

/-- Offsets of the rule command registers, on slice 0. -/
def ruleReg (off : Nat) : Nat := pgRule 0 + off

/-- `RESULT` of `RULE_CSTAT`. -/
def ruleResult (s : State) (n : Nat) : State := wrf s (ruleReg 0x23C) 1 3 n

/-- The staged value or care mask, 160 bits from five registers. -/
def staged160 (s : State) (off : Nat) : Nat := (List.range 5).foldl (fun a i => a + rd s (ruleReg (off + 4 * i)) * 2 ^ (32 * i)) 0

/-- The staged action. -/
def stagedAction (s : State) : Nat := rd64 s (ruleReg 0x228)

/-- `RULE_INSERT` (R323). -/
def execRuleInsert (s : State) : Res := hostWr s (pgRule 0) <|
  match rmGate s 1 with
  | (some _, s1) => .next (ruleResult s1 1)
  | (none, s) =>
    let value := staged160 s 0x200
    let care := staged160 s 0x214
    let act := stagedAction s
    let band := rdf s (ruleReg 0x230) 0 4
    let prio := rdf s (ruleReg 0x230) 16 16
    if !(actionOk act && valueOk value care) then .next (ruleResult s 2)
    else
      match insPlan s.rules band prio with
      | .bandFull => .next (ruleResult s 4)
      | .groupFull g =>
        .next (ruleResult (raise { s with rules := queueRebal s.rules band } (pgRule (32 * g / 16384)) 3 []) 3)
      | .done g t =>
        let (r, i) := insWrite s.rules g t { valid := true, value := value, care := care, action := act, prio := prio }
        let r' := if groupCount r.entries g ≥ 31 then queueRebal r band else r
        .next (ruleResult (wrf (setRules s r') (ruleReg 0x234) 0 16 i) 0)

/-- `RULE_REMOVE` (R325): the valid bit of the entry is cleared. -/
def execRuleRemove (s : State) : Res := hostWr s (pgRule 0) <|
  match rmGate s 1 with
  | (some _, s1) => .next (ruleResult s1 1)
  | (none, s) =>
    let i := rdf s (ruleReg 0x234) 0 16
    let e := ruleAt s.rules.entries i
    if e.valid then .next (ruleResult (setRules s (putRule s.rules i { e with valid := false })) 0)
    else .next (ruleResult s 5)

/-- `RULE_MODIFY` (R325): the action of the entry is replaced. An invalid `INDEX` is reported ahead of a bad action (DESIGN
CHOICE, log entry 22). -/
def execRuleModify (s : State) : Res := hostWr s (pgRule 0) <|
  match rmGate s 1 with
  | (some _, s1) => .next (ruleResult s1 1)
  | (none, s) =>
    let i := rdf s (ruleReg 0x234) 0 16
    let e := ruleAt s.rules.entries i
    if !e.valid then .next (ruleResult s 5)
    else if !actionOk (stagedAction s) then .next (ruleResult s 2)
    else .next (ruleResult (setRules s (putRule s.rules i { e with action := stagedAction s })) 0)

/-- `RULE_READ` (R325): the entry fills the staging registers, and `VALID` says whether it was valid. -/
def execRuleRead (s : State) : Res := hostWr s (pgRule 0) <|
  match rmGate s 1 with
  | (some _, s1) => .next (ruleResult s1 1)
  | (none, s) =>
    let e := ruleAt s.rules.entries (rdf s (ruleReg 0x234) 0 16)
    let s1 := (List.range 5).foldl (fun s i =>
      wr (wr s (ruleReg (0x200 + 4 * i)) (bits e.value (32 * i) 32)) (ruleReg (0x214 + 4 * i)) (bits e.care (32 * i) 32)) s
    let s2 := wr64 s1 (ruleReg 0x228) e.action
    .next (ruleResult (wrf s2 (ruleReg 0x23C) 4 1 (if e.valid then 1 else 0)) 0)

/-- The staged band sizes. -/
def stagedBands (s : State) : List Nat :=
  (List.range 16).map (fun b => rdf s (ruleReg (0x240 + 4 * (b / 2))) (if b % 2 = 0 then 0 else 16) 12)

/-- New band sizes are acceptable (R321). -/
def bandsOk (r : Rules) (new : List Nat) : Bool :=
  decide (new.sum ≤ 2048) && (List.range 16).all (fun b =>
    let o := bandStart r.bands b
    let n := r.bands.getD b 0
    let o' := bandStart new b
    let n' := new.getD b 0
    (decide (o = o') || (groupEntries r.entries o n).isEmpty) &&
    (decide (n ≤ n') || (groupEntries r.entries (o + n') (n - n')).isEmpty))

/-- `RULE_APPLY_BANDS` (R321). -/
def execRuleApplyBands (s : State) : Res := hostWr s (pgRule 0) <|
  match rmGate s 1 with
  | (some _, s1) => .next (ruleResult s1 1)
  | (none, s) =>
    let new := stagedBands s
    if bandsOk s.rules new then .next (ruleResult { s with rules := { s.rules with bands := new } } 0)
    else .next (ruleResult s 6)

/-- `RULE_DEF_LO_WRITE` (R315): the low half is held. -/
def execRuleDefLoWrite (value : Word) (s : State) : Res := hostWr s (pgRule 0) <|
  .next { s with rules := { s.rules with heldLo := some value.toNat } }

/-- `RULE_DEF_HI_WRITE` (R315): the pair is checked and replaces the default action, or is ignored; a held low half is used
up either way. -/
def execRuleDefHiWrite (value : Word) (s : State) : Res := hostWr s (pgRule 0) <|
  let lo := s.rules.heldLo.getD (s.rules.deflt % 2 ^ 32)
  let a := lo + value.toNat * 2 ^ 32
  .next { s with rules := { s.rules with heldLo := none, deflt := if actionOk a then a else s.rules.deflt } }

/-! ### Rebalancing (R326) -/

/-- The even spread of R326: the new index of each of the band's entries, in order. -/
def spread (g0 n : Nat) (l : List (Nat × Rule)) : List (Nat × Rule) :=
  let total := l.length
  let sizes := (List.range n).map (fun i => total / n + (if i < total % n then 1 else 0))
  let places := (List.range n).flatMap (fun i => (List.range (sizes.getD i 0)).map (fun p => 32 * (g0 + i) + p))
  places.zip (l.map (·.2))

/-- A band rebalanced: the entries at their new places, the places left are free. -/
def rebalanced (r : Rules) (band : Nat) : Rules :=
  let g0 := bandStart r.bands band
  let n := r.bands.getD band 0
  let old := groupEntries r.entries g0 n
  let r1 := old.foldl (fun r e => putRule r e.1 { e.2 with valid := false }) r
  let r2 := (spread g0 n old).foldl (fun r e => putRule r e.1 e.2) r1
  { r2 with rebal := r2.rebal.filter (· ≠ band) }

/-- `REBALANCE` (R326): a band that waits is rebalanced, unless the ringmaster's class 3 is deferred or the ringmaster is
not running. -/
def execRebalance (band : Fin 16) (s : State) : Res :=
  if s.rules.rebal.contains band.val ∧ s.stw.rm = .running ∧ deferred s 3 = false then
    .next (setRules s (rebalanced s.rules band.val))
  else .next s

end Sys2Proof.Machine
end

