-- ==== Sys2Proof/Machine/Operands.lean ====
section
/-! DEFINITION. Descriptor fields, data references (R104, R105), host and device memory as the device reaches it (R376-R384),
and completion records (R111, R112, R135). -/
namespace Sys2Proof.Machine

/-! ### Status codes (R137) -/

def stOk : Nat := 0x00
def stShort : Nat := 0x01
def stPartialBound : Nat := 0x02
def stMoved : Nat := 0x10
def stStaleEpoch : Nat := 0x11
def stFenced : Nat := 0x12
def stLost : Nat := 0x20
def stScratchLost : Nat := 0x21
def stIntegrity : Nat := 0x22
def stRebuildSourceLost : Nat := 0x23
def stRefusedFit : Nat := 0x30
def stFormatUnsupported : Nat := 0x31
def stBadDescriptor : Nat := 0x32
def stRetryLater : Nat := 0x40
def stFull : Nat := 0x41
def stDenied : Nat := 0x50
def stAborted : Nat := 0x70

/-! ### Descriptor fields (R100, R114) -/

def dOpcode (d : List Byte) : Nat := le d 0 1
def dFlags (d : List Byte) : Nat := le d 1 1
def dArm (d : List Byte) : Bool := bit (dFlags d) 0
def dPersist (d : List Byte) : Bool := bit (dFlags d) 1
def dDisarm (d : List Byte) : Bool := bit (dFlags d) 2
def dOrdered (d : List Byte) : Bool := bit (dFlags d) 3
def dQuiet (d : List Byte) : Bool := bit (dFlags d) 4
def dPart (d : List Byte) : Nat := bits (le d 2 2) 0 5
def dEpoch (d : List Byte) : Nat := le d 4 4
def dTag (d : List Byte) : Nat := le d 8 4
def dKey (d : List Byte) : ShelfKey :=
  { part := dPart d, tenant := le d 0x0C 2, conv := le d 0x10 8, layer := le d 0x0E 1, group := le d 0x0F 1 }

/-- Opcodes that carry a shelf key (R113). -/
def hasShelfKey (op : Nat) : Bool := [0x01, 0x02, 0x04, 0x05, 0x06, 0x07, 0x20, 0x21].contains op

/-- Opcodes whose execution needs the ringmaster, with their class (R113, R451). -/
def rmClass (op : Nat) : Option Nat :=
  if op = 0x13 then some 3 else if op = 0x21 ∨ op = 0x30 ∨ op = 0x31 then some 1 else if op = 0x3F then some 0 else none

/-! ### The device region and host windows (R104, R105, R379-R382) -/

/-- The extent that holds an offset of a partition's device region, with its number. -/
def extentAt (s : State) (p off : Nat) : Option (Nat × Extent) :=
  s.cxl.ext.find? (fun e => decide (e.2.state ≠ .free) && decide (e.2.part = p) && decide (e.2.poff = off / 2 ^ 30))

/-- The device physical address of an offset of a partition's device region (R379). -/
def devAddr (s : State) (p off : Nat) : Option Nat := (extentAt s p off).map (fun e => e.1 * 2 ^ 30 + off % 2 ^ 30)

/-- Whether an offset lies in an extent that a new reference may reach (R381). -/
def extentOpen (s : State) (p off : Nat) : Bool :=
  match extentAt s p off with
  | some (_, e) => decide (e.state = .alloc) || decide (e.state = .offered) || decide (e.state = .accepted)
  | none => false

/-- Every GiB that a range touches lies in an extent that a new reference may reach. -/
def regionOk (s : State) (p off len : Nat) : Bool :=
  len = 0 ∨ ((List.range ((off + len - 1) / 2 ^ 30 - off / 2 ^ 30 + 1)).all (fun i => extentOpen s p ((off / 2 ^ 30 + i) * 2 ^ 30)))

/-- A host range lies inside one window of the partition (R105). -/
def windowOk (s : State) (p a len : Nat) : Bool :=
  (s.part p).windows.any (fun w => decide (w.2.1 ≤ a) && decide (a + len ≤ w.2.1 + w.2.2))

/-- The space of a data reference and its address or offset (R104). -/
def refSpace (r : Nat) : Nat := r / 2 ^ 62
def refAddr (r : Nat) : Nat := r % 2 ^ 62

/-- The status a data reference draws for a range of `len` bytes, or `none` where it is accepted (R104, R105). -/
def refCheck (s : State) (p r len : Nat) : Option Nat :=
  if r % 64 ≠ 0 then some stBadDescriptor
  else if refSpace r = 0 then (if windowOk s p (refAddr r) len then none else some stDenied)
  else if refSpace r = 1 then (if regionOk s p (refAddr r) len then none else some stBadDescriptor)
  else some stBadDescriptor

/-! ### Reads (R376, R377) -/

/-- Lines of 64 bytes that a range touches. -/
def lineCount (a n : Nat) : Nat := if n = 0 then 0 else (a + n - 1) / 64 - a / 64 + 1

/-- A CXL.cache read returned poison (R377). -/
def poisonRcvd (s : State) (n : Nat) : State := raise (bump s (pgCxl + 0x130) 0 16 n) pgCxl 7 []

/-- Poisoned lines that a range touches. -/
def badLines (bad : List Nat) (a n : Nat) : Nat := (bad.filter (fun l => decide (l * 64 < a + n) && decide (a < l * 64 + 64))).length

/-- Bytes of host memory as CXL.cache reads them: the bytes, or `none` where a line is poisoned. -/
def hostRead (s : State) (a n : Nat) : Option (List Byte) × State :=
  let s1 := bump s (pgCxl + 0x128) 0 32 (lineCount a n)
  if poisoned s.hostBad a n then (none, poisonRcvd s1 (badLines s.hostBad a n)) else (some (mread s.hostMem a n), s1)

/-- Bytes at an offset of a partition's device region, or `none` where a line is poisoned, uncorrectable or does not answer. A byte outside
every extent reads as nothing has been written. -/
def devRead (s : State) (p off n : Nat) : Option (List Byte) × State :=
  let as := (List.range n).map (fun i => devAddr s p (off + i))
  let (bad, s1) := readDevs s ((as.filterMap (·.map (· / 64))).eraseDups)
  (if bad then none else some (as.map (fun a => match a with | some x => mget s.devMem x | none => 0)), s1)

/-- The bytes a data reference names, or `none` where they hold uncorrectable data. -/
def refRead (s : State) (p r n : Nat) : Option (List Byte) × State :=
  if refSpace r = 0 then hostRead s (refAddr r) n else devRead s p (refAddr r) n

/-! ### Writes and back-invalidates (R384) -/

/-- The attention die whose snoop filter covers a device physical address: two DC regions of 64 GiB to a die. -/
def dpaDie (a : Nat) : Nat := a / 2 ^ 37

/-- Whether the host may cache a line of an extent: it is tracked, or its back-invalidate has not been answered. -/
def tracked (s : State) (line : Nat) : Bool :=
  (s.cxl.filter.getD (dpaDie (line * 64)) []).contains line || s.cxl.bisnp.contains line

/-- A BISnpInv is sent for a line, once. -/
def sendBisnp (s : State) (line : Nat) : State :=
  if s.cxl.bisnp.contains line then s
  else
    let s1 := bump s (pgCxl + 0x124) 0 32 1
    emit { s1 with cxl := { s1.cxl with bisnp := s1.cxl.bisnp ++ [line] } } (.bisnp line)

/-- The lines of a range of device physical addresses. -/
def linesOf (a n : Nat) : List Nat := (List.range (lineCount a n)).map (fun i => a / 64 + i)

/-- Bytes land in host memory; each line counts in `CXL_CCWR`. -/
def hostPut (s : State) (a : Nat) (b : List Byte) : State :=
  let s1 := bump s (pgCxl + 0x12C) 0 32 (lineCount a b.length)
  { s1 with hostMem := mwrite s1.hostMem a b, hostBad := unpoison s1.hostBad a b.length }

/-- Slots of a completion ring and of a request ring (R107). -/
def cqSlots (r : Ring) : Nat := 2 ^ (6 + r.csize)
def rqSlots (r : Ring) : Nat := 2 ^ (6 + r.rsize)

/-- Whether a completion slot is free (R111). -/
def slotFree (r : Ring) : Bool := decide (r.inflight + (r.cqPi - r.cqCi).toNat < cqSlots r)

/-- The 32 bytes of a completion record (R135), with its ring and the phase of R112. -/
def recBytes (c : Rec) (ring : Nat) (phase : Bool) : List Byte :=
  leBytes 4 c.tag ++ leBytes 1 c.opcode ++ leBytes 1 c.status ++ leBytes 2 ring ++ leBytes 4 c.epoch ++ leBytes 4 c.info0 ++
  leBytes 4 c.info1 ++ leBytes 4 c.info2 ++ leBytes 4 c.info3 ++ leBytes 2 c.cflags ++ leBytes 1 c.detail ++
  leBytes 1 (if phase then 0x80 else 0)

/-- Where the next completion record of a ring goes: space and address. -/
def recAddr (s : State) (r : Ring) : Nat × Nat :=
  let a := refAddr r.cbase + 32 * (r.cqPi.toNat % cqSlots r)
  if r.cloc then (1, (devAddr s r.part a).getD 0) else (0, a)

/-- A record is written and its slot is no longer reserved. -/
def putRec (s : State) (ring : Nat) (r : Ring) (c : Rec) (held : Bool) : State :=
  let b := recBytes c ring (decide (r.cqPi.toNat / cqSlots r % 2 = 0))
  let (sp, a) := recAddr s r
  let s1 := if sp = 1 then devPut s a b else hostPut s a b
  s1.setRing ring { r with cqPi := r.cqPi + 1, inflight := if held then r.inflight - 1 else r.inflight }

/-! ### Producer index and triggers (R109, R110, R126, R127, R352) -/

/-- `RING_PI` of a ring advances to a value; a producer overrun stops the ring (R109, R110). -/
def advancePi (s : State) (ring src : Nat) (g : Ring) (value : Word) : State :=
  let n := (value - g.pi).toNat
  let g1 := { g with pi := value, srcs := if n = 0 then g.srcs else g.srcs ++ [(n, src)] }
  if (value - g.ci).toNat > rqSlots g ∧ g.stopped = false then
    raise (s.setRing ring { g1 with stopped := true }) (pgAsch (ring / 1024)) 0 (leBytes 2 ring ++ [1])
  else s.setRing ring g1

/-- Triggers that a descriptor needs to fire (R127, `GATHER`). -/
def trigNeed (d : List Byte) : Nat :=
  if dOpcode d = 0x03 then (if le d 0x1F 1 = 0 then le d 0x1A 1 else le d 0x1F 1) else 1

/-- A trigger that matches nothing (R126). Its record joins the issued writes. -/
def trigMiss (s : State) (ring key : Nat) : State :=
  let s1 := raise s (pgAsch (ring / 1024)) 1 []
  match tget? s1.rings ring with
  | none => s1
  | some g =>
    if slotFree g then
      let s2 := s1.setRing ring { g with inflight := g.inflight + 1 }
      { s2 with cxl := { s2.cxl with wq := s2.cxl.wq ++ [.record ring { tag := key, opcode := 0, status := stBadDescriptor, detail := 0xFF } true] } }
    else s1

/-- A port presents a trigger for a queue pair of a partition (R126, R352, R515). -/
def presentTrigger (s : State) (port part value : Nat) : State :=
  let ring := value / 2 ^ 20
  let key := value % 2 ^ 20
  let owner := (tget? s.rings ring).map (·.part)
  if owner ≠ some part then bump s (pgNet port + 0x118) 0 16 1
  else
    match s.armed.find? (fun a => decide (a.ring = ring) && decide (a.key = key) && !a.gone) with
    | none => trigMiss s ring key
    | some a =>
      if s.dev.state = .drain then trigMiss s ring key
      else
        let n := a.count + 1
        let a' := if n < trigNeed a.desc then { a with count := n }
          else { a with count := 0, fires := a.fires ++ [port], gone := !dPersist a.desc }
        { s with armed := s.armed.map (fun b => if b = a then a' else b) }

/-- The tracked lines that a write must have invalidated before it lands. -/
def waitLines (s : State) (w : DevWrite) : List Nat :=
  match w with
  | .data a b => (linesOf a b.length).filter (tracked s)
  | .host _ _ => []
  | .record ring _ _ =>
    match tget? s.rings ring with
    | none => []
    | some r => if (recAddr s r).1 = 1 then (linesOf (recAddr s r).2 32).filter (tracked s) else []
  | _ => []

/-! ### Frames that leave a port (R335, R359, R366, R367, R441) -/

/-- `QCLASS` of a queue pair. -/
def qpClass (x : Qp) : Nat := bits (le x.attr 0x0F 1) 0 4

/-- The DSCP of a class (R359). -/
def classDscp (s : State) (port c : Nat) : Nat := rdf s (pgShp port 0 + 0x1A0 + c / 4 * 4) (8 * (c % 4)) 6

/-- A port carries data and control packets: its link is up, and sealed where it must be (R367). -/
def portOpen (p : Port) : Bool := p.up && (!p.sealReq || p.sealed)

/-- Length of a handshake message by type, and a message with its header (R437). -/
def hsLen (t : Nat) : Nat := if t = 1 then 1264 else if t = 2 then 3588 else if t = 3 then 2436 else 32
def hsMsg (t stream : Nat) (body : List Byte) : List Byte :=
  leBytes 2 0xC5EA ++ leBytes 1 1 ++ leBytes 1 t ++ leBytes 2 (hsLen t) ++ leBytes 1 stream ++ List.replicate 9 0 ++ padTo body (hsLen t - 16)

/-- A session with its next key index: the receiver keeps the association before it too (R366, R441). -/
def nextKey (h : Seal) : Seal := { h with keyIdx := h.keyIdx + 1, txPn := 0, rxOld := h.rxPn, rxPn := 0 }

/-- A port sends `REKEY`, sealed under the current key, and changes to the next one (R439, R441). -/
def sendRekey (s : State) (port : Nat) : State :=
  let p := s.port port
  emit (s.setPort port { p with hs := nextKey p.hs }) (.hs port (hsMsg 4 0 (leBytes 4 (p.hs.keyIdx + 1))))

/-- A packet leaves a port: sealed where that is required, under the association and the next packet number of the current key, and after a `REKEY` where
2^32 frames would have been sent under it (R366, R441). A port that carries nothing sends nothing (R367). -/
def transmit (s : State) (port q dscp : Nat) (k : Packet) : State :=
  if !portOpen (s.port port) then s
  else if !(s.port port).sealReq then emit s (.packet port q dscp k)
  else
    let s1 := if (s.port port).hs.txPn + 2 ≥ 2 ^ 32 then sendRekey s port else s
    let p := s1.port port
    emit (s1.setPort port { p with hs := { p.hs with txPn := p.hs.txPn + 1 } })
      (.packet port q dscp { k with sealed := true, an := p.hs.keyIdx % 4, pn := p.hs.txPn + 1 })

/-- Frame bytes of a partition sent or received on a port (R498). -/
def meterPort (s : State) (p port n : Nat) (tx : Bool) : State :=
  let t := s.part p
  let m := t.meter
  s.setPart p { t with meter := if tx then { m with tx := modAt (fun v => sat 64 (v + n)) port m.tx }
    else { m with rx := modAt (fun v => sat 64 (v + n)) port m.rx } }

/-- An acknowledgement, NAK or CNP leaves, with the DSCP of the queue pair's class (R335; DEDUCED, log entry 156). -/
def sendNow (s : State) (port q : Nat) (k : Packet) : State :=
  match tget? s.qps q with
  | none => s
  | some x =>
    if !portOpen (s.port port) then s
    else transmit (meterPort s x.part port k.frameLen true) port q (classDscp s port (qpClass x)) k

/-- A write lands. -/
def landWrite (s : State) (w : DevWrite) : State :=
  match w with
  | .data a b => devPut s a b
  | .host a b => hostPut s a b
  | .record ring c held =>
    match tget? s.rings ring with
    | none => s
    | some r => putRec s ring r c held
  | .advance ring src v =>
    match tget? s.rings ring with
    | none => s
    | some r => advancePi s ring src r v
  | .trigger port part v => presentTrigger s port part v
  | .packet port q p => sendNow s port q p
  | .placed _ _ => s

/-- A write that goes to host memory. -/
def hostBound (s : State) (w : DevWrite) : Bool :=
  match w with
  | .host _ _ => true
  | .record ring _ _ => match tget? s.rings ring with | some r => !r.cloc | none => false
  | _ => false

/-- The issued writes land in order, each once its back-invalidates have completed (R28, R384); one to host memory waits while IDE is
required and not active (R386). -/
def drainWrites (s : State) : Nat → State
  | 0 => s
  | n + 1 =>
    match s.cxl.wq with
    | [] => s
    | w :: rest =>
      if ideHold s && hostBound s w then s
      else
      match waitLines s w with
      | [] => drainWrites (landWrite { s with cxl := { s.cxl with wq := rest } } w) n
      | ls => ls.foldl sendBisnp s

/-- The device issues a write. -/
def issueWrite (s : State) (w : DevWrite) : State :=
  drainWrites { s with cxl := { s.cxl with wq := s.cxl.wq ++ [w] } } (2 * s.cxl.wq.length + 3)

/-- The pieces of a range of a device region that lie in one extent each: device physical address and bytes. -/
def devPieces (s : State) (p : Nat) : Nat → Nat → List Byte → List (Nat × List Byte)
  | 0, _, _ => []
  | _, _, [] => []
  | n + 1, off, b =>
    let k := 2 ^ 30 - off % 2 ^ 30
    match devAddr s p off with
    | some a => (a, b.take k) :: devPieces s p n (off + k) (b.drop k)
    | none => devPieces s p n (off + k) (b.drop k)

/-- The device writes bytes at a data reference of a partition. -/
def refWrite (s : State) (p r : Nat) (b : List Byte) : State :=
  if b.isEmpty then s
  else if refSpace r = 0 then issueWrite s (.host (refAddr r) b)
  else (devPieces s p (b.length / 2 ^ 30 + 2) (refAddr r) b).foldl (fun s q => issueWrite s (.data q.1 q.2)) s

/-! ### Completion records -/

/-- Records that wait for a free slot are written while there is one (R111). -/
def flushRecords (s : State) (ring : Nat) : Nat → State
  | 0 => s
  | n + 1 =>
    match tget? s.rings ring with
    | none => s
    | some r =>
      match r.records with
      | [] => s
      | c :: rest =>
        if slotFree r then
          flushRecords (issueWrite (s.setRing ring { r with records := rest, inflight := r.inflight + 1 }) (.record ring c true)) ring n
        else s

/-- A record of a descriptor that holds its slot. -/
def writeRec (s : State) (ring : Nat) (c : Rec) : State := issueWrite s (.record ring c true)

/-- A record that must reserve a slot first, waiting where none is free (R111). -/
def queueRec (s : State) (ring : Nat) (c : Rec) : State :=
  match tget? s.rings ring with
  | none => s
  | some r => flushRecords (s.setRing ring { r with records := r.records ++ [c] }) ring (r.records.length + 1)

/-- A slot is released without a record (R111), and a record that waits may take it. -/
def releaseSlot (s : State) (ring : Nat) : State :=
  match tget? s.rings ring with
  | none => s
  | some r => flushRecords (s.setRing ring { r with inflight := r.inflight - 1 }) ring (r.records.length + 1)

/-- The record of a descriptor with a status, a detail and information fields. -/
def mkRec (d : List Byte) (status detail i0 i1 i2 i3 cflags : Nat) : Rec :=
  { tag := dTag d, opcode := dOpcode d, status := status, epoch := dEpoch d, info0 := i0, info1 := i1, info2 := i2,
    info3 := i3, cflags := cflags, detail := detail }

end Sys2Proof.Machine
end

