-- ==== Sys2Proof/Machine/Partial.lean ====
section
/-! DEFINITION. Reading partial-result blocks (R160, R161, R164), and the comparison of a replayed request with its capture
(R491). -/
namespace Sys2Proof.Machine

/-- What a block holds of a query head, widened exactly to `F32`. -/
structure HeadIn where
  m   : F32 := negInf
  l   : F32 := 0
  eps : F32 := 0
  o   : List F32 := []
deriving DecidableEq, Repr

/-- One element of a block: `F32`, or `BF16` widened. -/
def blockElem (bf16 : Bool) (b : List Byte) (o : Nat) : F32 :=
  if bf16 then ofBf16 (BitVec.ofNat 16 (le b o 2)) else BitVec.ofNat 32 (le b o 4)

/-- Bytes of one element. -/
def elemSize (bf16 : Bool) : Nat := if bf16 then 2 else 4

/-- Query head `j` of a block of `n` heads of dimension `d`. -/
def blockHead (b : List Byte) (bf16 : Bool) (n d j : Nat) : HeadIn :=
  let t := 64 + 16 * j
  let e := elemSize bf16
  let o := 64 + ceilDiv (16 * n) 64 * 64 + j * (ceilDiv (e * d) 64 * 64)
  { m := blockElem bf16 b t, l := blockElem bf16 b (t + 4), eps := blockElem bf16 b (t + 8),
    o := (List.range d).map (fun i => blockElem bf16 b (o + e * i)) }

/-- A head is empty (R162). -/
def headEmpty (h : HeadIn) : Bool := decide (f32Mag h.l = 0)

/-! ### Deviations (R491), compared as exact numbers (DEDUCED, log entry 40) -/

/-- The square of the deviation of two heads as numerator and denominator, both squares of dyadic numbers. -/
def devSquare (a b : HeadIn) : Dy × Dy :=
  let la := toDy a.l
  let lb := toDy b.l
  let num := (a.o.zip b.o).foldl (fun s e =>
    let x := dySub (dyMul (toDy e.1) lb) (dyMul (toDy e.2) la)
    dyAdd s (dyMul x x)) ({} : Dy)
  let den := dyMul la lb
  (num, dyMul den den)

/-- A deviation is at most a bound of at least 0. -/
def devWithin (a b : HeadIn) (bound : Dy) : Bool :=
  let (n, d) := devSquare a b
  dyLe n (dyMul (dyMul bound bound) d)

/-- The integer square root of a nonnegative dyadic number scaled by `2 ^ 64`. -/
def dySqrt (x : Dy) : Dy :=
  let e := if x.e % 2 = 0 then x.e else x.e - 1
  let m := if x.e % 2 = 0 then x.m else 2 * x.m
  ⟨(Nat.sqrt (m.natAbs * 2 ^ 256) : Nat), e / 2 - 128⟩

/-- A deviation as an `F32` by RNE. -/
def devF32 (a b : HeadIn) : F32 :=
  let (n, d) := devSquare a b
  if n.m = 0 ∨ d.m = 0 then 0
  else
    let x := dySqrt n
    let y := dySqrt d
    packF32 .rne false (x.m.natAbs * 2 ^ 256 / max 1 y.m.natAbs) (x.e - y.e - 256) true

/-- `l1 <= l2 * exp x`. -/
def leExp (l1 l2 : Dy) (x : Dy) : Bool :=
  if dyLt (dyOfInt 1000) x then true
  else if dyLt x (dyOfInt (-1000)) then false
  else
    let (n, e) := expRef x
    dyLe l1 (dyMul l2 ⟨(n : Int), e⟩)

/-- `|(m + ln l) - (m' + ln l')|` is at most a tolerance. -/
def lseWithin (a b : HeadIn) (tol : Dy) : Bool :=
  let dm := dySub (toDy a.m) (toDy b.m)
  leExp (toDy a.l) (toDy b.l) (dySub tol dm) && leExp (toDy b.l) (toDy a.l) (dyAdd tol dm)

/-- A verdict: its code, its reason, the head with the largest deviation and that deviation. -/
structure Verdict where
  code : Nat := 0
  why  : Nat := 0
  head : Nat := 0
  dev  : F32 := 0
deriving DecidableEq, Repr

/-- The verdict of two results of one opcode: statuses, the fields `INFO0` to `INFO2`, the outputs, the tolerances, and whether the
request is `NET`. -/
def verdict (op : Nat) (net : Bool) (capSt repSt : Nat) (capInfo repInfo : List Nat) (cap rep : List Byte) (tol tolV tolLse : F32) : Verdict :=
  let block := op = 0x01 ∨ op = 0x03
  let n := min (le cap 8 2) (le rep 8 2)
  let bf := fun (b : List Byte) => bit (le b 6 1) 0
  let dim := fun (b : List Byte) => 16 * (le b 7 1 % 16 + 1)
  let hs := if block ∧ !cap.isEmpty ∧ !rep.isEmpty then
      (List.range n).map (fun j => (j, blockHead cap (bf cap) (le cap 8 2) (dim cap) j, blockHead rep (bf rep) (le rep 8 2) (dim rep) j))
    else []
  let live := hs.filter (fun e => !headEmpty e.2.1 && !headEmpty e.2.2)
  let worst := live.foldl (fun (w : Nat × F32) e => let v := devF32 e.2.1 e.2.2; if flt w.2 v then (e.1, v) else w) (0, 0)
  if capSt = repSt ∧ capInfo = repInfo ∧ cap = rep then {}
  else if !block then { code := 2, why := if capSt ≠ repSt then 1 else if capInfo ≠ repInfo then 2 else 4 }
  else
    let stOk := capSt = repSt ∨ (net ∧ (capSt = 0 ∨ capSt = 2) ∧ (repSt = 0 ∨ repSt = 2))
    let same := fun o => decide (le cap o 4 = le rep o 4)
    let counts := same 0x18 && same 0x1C && (net || (same 0x14 && same 0x24))
    let ok := hs.all (fun e => headEmpty e.2.1 == headEmpty e.2.2) && live.all (fun e =>
      if isInf e.2.1.eps ∨ isInf e.2.2.eps then lseWithin e.2.1 e.2.2 (toDy tolLse)
      else
        let bound := dyAdd (toDy tol) (dyMul (dyMul (dyOfInt 2) (dyAdd (toDy e.2.1.eps) (toDy e.2.2.eps))) (toDy tolV))
        devWithin e.2.1 e.2.2 bound && lseWithin e.2.1 e.2.2 (toDy tolLse))
    let w := fun c y => ({ code := c, why := y, head := worst.1, dev := worst.2 } : Verdict)
    if ¬ stOk then w 2 1 else if !counts then w 2 2 else if !ok then w 2 3 else w 1 0

/-- The 32 bytes of a verdict record (R492). -/
def verdictBytes (seq : Nat) (v : Verdict) (capSt repSt : Nat) : List Byte :=
  leBytes 8 seq ++ leBytes 1 v.code ++ leBytes 1 v.why ++ leBytes 1 capSt ++ leBytes 1 repSt ++ leBytes 2 v.head ++ leBytes 2 0 ++
  leBytes 4 v.dev.toNat ++ List.replicate 12 0

end Sys2Proof.Machine
end

