-- ==== Sys2Proof/Machine/Complete.lean ====
section
/-! DEFINITION. How a request ends: messages for the ports, the capture ring, the completion record, the drain check (R111, R112,
R136, R163, R353, R354, R484-R488, R515). -/
namespace Sys2Proof.Machine

/-! ### Outbound messages (R353, R354, R359) -/

/-- A queue pair that takes no message: destroyed or in the error state. -/
def qpDead (s : State) (q : Nat) : Bool :=
  match tget? s.qps q with
  | some x => x.err
  | none => true

/-- A message is posted on a queue pair; a queue pair that is not cached is fetched (R339, R353). -/
def postMsg (s : State) (q : Nat) (m : OutMsg) : State :=
  match tget? s.qps q with
  | none => s
  | some x =>
    if x.err then s
    else
      let p := s.port x.port
      (s.setQp q { x with out := x.out ++ [{ m with seq := p.msgNo }] }).setPort x.port { p with
        msgNo := p.msgNo + 1, fetch := if p.cache.contains q || p.fetch.contains q then p.fetch else p.fetch ++ [q] }

/-! ### Routes (R130) -/

def rtKind (r : List Byte) : Nat := le r 0 1
def rtQpn (r : List Byte) : Nat := le r 4 4 % 2 ^ 24
def rtBase (r : List Byte) : Nat := le r 8 8
def rtKey (r : List Byte) : Nat := le r 0x10 4
def rtLimit (r : List Byte) : Nat := le r 0x14 4

/-! ### Capture (R484-R488) -/

/-- Group of an opcode in `GROUPS` (R485). -/
def captGroup (op : Nat) : Option Nat :=
  if op = 0x01 ∨ op = 0x03 then some 0
  else if op = 0x02 ∨ op = 0x04 ∨ op = 0x05 ∨ op = 0x06 ∨ op = 0x07 then some 1
  else if 0x10 ≤ op ∧ op ≤ 0x13 then some 2
  else if op = 0x20 ∨ op = 0x21 ∨ op = 0x3F then some 3
  else if op = 0x30 ∨ op = 0x31 then some 4
  else none

def captEn (s : State) (p : Nat) : Bool := decide (rdf s (pgCapt p + 0x100) 0 1 = 1)
def captBit (s : State) (p b : Nat) : Bool := decide (rdf s (pgCapt p + 0x100) b 1 = 1)
def captSize (s : State) (p : Nat) : Nat := 2 ^ (20 + rdf s (pgCapt p + 0x100) 8 4)
def captPi (s : State) (p : Nat) : Nat := rd64 s (pgCapt p + 0x10C)
def captCi (s : State) (p : Nat) : Nat := rd64 s (pgCapt p + 0x114)
/-- Free bytes of a capture ring. -/
def captFree (s : State) (p : Nat) : Nat := captSize s p - (captPi s p + 2 ^ 64 - captCi s p) % 2 ^ 64

/-- The bytes of a length as capture pads them. -/
def pad64 (b : List Byte) : List Byte := padTo b (ceilDiv b.length 64 * 64)

/-- The first eight bytes of a capture entry. -/
def captHead (kind len : Nat) : List Byte := leBytes 2 0xCA97 ++ [1, BitVec.ofNat 8 kind] ++ leBytes 4 len

/-- Bytes of padding before an entry of a length. -/
def captPad (s : State) (p len : Nat) : Nat :=
  let pos := captPi s p % captSize s p
  if pos + len > captSize s p then captSize s p - pos else 0

/-- An entry fits, with the padding that it needs. -/
def captFits (s : State) (p len : Nat) : Bool := decide (captPad s p len + len ≤ captFree s p)

/-- An entry is written and `CAPT_PI` advances. -/
def captPut (s : State) (p : Nat) (b : List Byte) : State :=
  let base := rd64 s (pgCapt p + 0x104)
  let pad := captPad s p b.length
  let pos := captPi s p % captSize s p
  let s1 := if pad = 0 then s else refWrite s p (base + pos) (padTo (captHead 0 pad) pad)
  let s2 := refWrite s1 p (base + (pos + pad) % captSize s p) b
  wr64 s2 (pgCapt p + 0x10C) ((captPi s p + pad + b.length) % 2 ^ 64)

/-- An entry is dropped. -/
def captDrop (s : State) (p : Nat) : State :=
  let pt := s.part p
  raise (bump (s.setPart p { pt with capLost := sat 32 (pt.capLost + 1) }) (pgCapt p + 0x11C) 0 16 1) (pgCapt p) 0 []

/-- SHA3-256 of bytes, or zeros where there are none. -/
def digestOf (b : List Byte) : List Byte := if b.isEmpty then List.replicate 32 0 else sha3 b

/-- A `REQUEST` entry (R486): `flags` and `lostN` as they are to be written, with inputs and output under `PAYLOAD`. -/
def captRequest (r : Req) (k : CapReq) (c : Rec) (out : List Byte) (flags lostN : Nat) (payload : Bool) : List Byte :=
  let body := if payload then pad64 k.input ++ pad64 out else []
  let snap := if dOpcode r.desc = 0x01 then r.snap + r.lo * 2 ^ 32 else if dOpcode r.desc = 0x10 then r.snap else 0
  captHead 1 (256 + body.length) ++ leBytes 8 k.seq ++ leBytes 6 k.time ++
  leBytes 1 (0x10 + r.ring / 1024) ++ leBytes 1 flags ++
  leBytes 8 snap ++ leBytes 8 k.action ++ leBytes 4 k.c ++ leBytes 4 k.nsc ++ digestOf k.input ++ digestOf out ++
  leBytes 4 k.input.length ++ leBytes 4 out.length ++ leBytes 4 lostN ++ leBytes 4 0 ++ padTo r.desc 64 ++
  recBytes c r.ring false ++ List.replicate 32 0 ++ body

/-- The entry of a completed request (R485-R488). -/
def captComplete (s : State) (r : Req) (c : Rec) (out : List Byte) : State :=
  match r.cap with
  | none => s
  | some k =>
    let p := r.part
    if !captEn s p then s
    else
      let lost := (s.part p).capLost
      let base := (if k.lost then 4 else 0) + (if lost > 0 then 8 else 0)
      let pay := captBit s p 1
      let full := captRequest r k c out (base + (if pay then 1 else 0)) lost pay
      let clear := fun (s : State) => s.setPart p { s.part p with capLost := 0 }
      if full.length * 4 ≤ captSize s p ∧ captFits s p full.length then captPut (clear s) p full
      else if captFits s p 256 then
        let s1 := raise (bump s (pgCapt p + 0x11C) 16 16 1) (pgCapt p) 0 []
        captPut (clear s1) p (captRequest r k c out (base + 2) lost false)
      else captDrop s p

/-- A `SCORES` entry of a run (R487), with what it leaves in the request. -/
def captScores (s : State) (r : Req) (head l g round first t : Nat) (plane : List Byte) : Req × State :=
  match r.cap with
  | none => (r, s)
  | some k =>
    let p := r.part
    if !(captEn s p && captBit s p 2) || k.lost then (r, s)
    else if k.bytes + plane.length > rdf s (pgCapt p + 0x120) 0 8 * 2 ^ 20 then ({ r with cap := some { k with lost := true } }, s)
    else
      let b := captHead 2 (64 + (pad64 plane).length) ++ leBytes 8 k.seq ++ leBytes 1 head ++ leBytes 1 l ++ leBytes 1 g ++
        leBytes 1 round ++ leBytes 4 first ++ leBytes 2 t
      let e := padTo b 64 ++ pad64 plane
      if captFits s p e.length then
        ({ r with cap := some { k with nsc := k.nsc + 1, bytes := k.bytes + plane.length } }, captPut s p e)
      else ({ r with cap := some { k with lost := true } }, captDrop s p)

/-! ### Completion -/

/-- `CFLAGS` of a request (R135). -/
def reqCflags (r : Req) : Nat :=
  (if r.narrowed then 1 else 0) + (if r.booth then 2 else 0) + (if r.cold then 4 else 0) + (if r.grace then 8 else 0) +
  (if r.retried then 16 else 0) + (if r.fired then 32 else 0) + (if r.already then 64 else 0)

/-- A descriptor has been fetched and not been admitted yet, or a firing has not run yet. -/
def workWaits (s : State) : Bool :=
  s.rings.any (fun e => !e.2.taken.isEmpty) || s.armed.any (fun a => !a.fires.isEmpty)

/-- In `DRAIN`, the end of the last admitted request sets `DRAINED` and raises `DRAIN_DONE` (R515). -/
def drainCheck (s : State) : State :=
  if s.dev.state = .drain ∧ s.dev.drained = false ∧ s.reqs.isEmpty ∧ workWaits s = false then
    raise { s with dev := { s.dev with drained := true } } pgPwr 5 []
  else s

/-- A notice frame with a completion record (R350, R354). -/
def noticeFrame (c : Rec) (ring : Nat) : List Byte :=
  padTo (leBytes 2 0xCF0B ++ [1, 2] ++ leBytes 2 1) 16 ++ recBytes c ring false

/-- The notice of a request with a network route that ends with a status other than `OK` (R354). -/
def sendNotice (s : State) (r : Req) (c : Rec) : State :=
  if c.status ≠ stOk ∧ r.route ≠ [] ∧ rtKind r.route = 1 then
    match tget? s.qps (rtQpn r.route) with
    | none => s
    | some x => postMsg s (rtQpn r.route)
        { kind := .notice, tclass := r.tclass.getD (qpClass x), bytes := noticeFrame c r.ring }
  else s

/-- A counter of the metering page, saturating (R498). -/
def meterAdd (s : State) (p : Nat) (f : Meter → Meter) : State :=
  let pt := s.part p
  s.setPart p { pt with meter := f pt.meter }

/-! ### Replay (R490-R492) -/

/-- A verdict is written and counted; the last one of `CAPT_RP_LEN` ends the replay (R492). -/
def putVerdict (s : State) (p seq capSt repSt : Nat) (v : Verdict) : State :=
  let x := tget {} s.replay p
  let s1 := refWrite s p (rd64 s (pgCapt p + 0x14C) + 32 * x.index) (verdictBytes seq v capSt repSt)
  let x1 := { x with index := x.index + 1, prev := some seq,
                     nMatch := if v.code = 0 then sat 16 (x.nMatch + 1) else x.nMatch,
                     within := if v.code = 1 then sat 16 (x.within + 1) else x.within,
                     differ := if v.code = 2 then sat 16 (x.differ + 1) else x.differ,
                     skip := if v.code = 3 then sat 16 (x.skip + 1) else x.skip }
  let ends := decide (x1.pos ≥ rd s (pgCapt p + 0x148))
  let s2 := { s1 with replay := tset {} s1.replay p (if ends then { x1 with busy := false, result := 0 } else x1) }
  if ends then raise s2 (pgCapt p) 2 [] else s2

/-- A replay stops before its end (R492, R500): `RESULT` 3. -/
def stopReplay (s : State) (p : Nat) : State :=
  let x := tget {} s.replay p
  if x.busy then raise { s with replay := tset {} s.replay p { x with busy := false, result := 3 } } (pgCapt p) 2 [] else s

/-- A replayed request is judged. Once its replay has been stopped, no verdict is written any more. -/
def replayDone (s : State) (id : Nat) (r : Req) (c : Rec) (out : List Byte) : State :=
  if (tget {} s.replay r.part).busy ∧ (tget {} s.replay r.part).cur = id then
    let e := r.entry
    let inl := le e 0x70 4
    let capOut := bslice e (0x100 + ceilDiv inl 64 * 64) (le e 0x74 4)
    let info := fun b => [le e (b + 0x0C) 4, le e (b + 0x10) 4, le e (b + 0x14) 4]
    let op := dOpcode r.desc
    let net := op = 0x01 ∧ bits (le r.desc 0x25 1) 4 2 = 2
    let tol := fun o => (BitVec.ofNat 32 (rd s (pgCapt r.part + o)) : F32)
    putVerdict s r.part (le e 8 8) (le e 0xC5 1) c.status
      (verdict op net (le e 0xC5 1) c.status (info 0xC0) [c.info0, c.info1, c.info2] capOut out (tol 0x164) (tol 0x16C) (tol 0x168))
  else s

/-- A request ends: its record is written, or its slot released for a `QUIET` `OK`; counters, notice and capture entry
follow; the request is gone. A replayed request has no ring and ends in its verdict instead of a record. -/
def complete (s : State) (id : Nat) (r : Req) (status detail i0 i1 i2 i3 : Nat) (out : List Byte := []) : State :=
  let c := mkRec r.desc status detail i0 i1 i2 i3 (reqCflags (if status = stMoved then { r with grace := false } else r))
  let s0 := { s with reqs := tdel s.reqs id }
  let s1 := if r.replay then replayDone s0 id r c out
    else if status = stOk ∧ dQuiet r.desc then releaseSlot s0 r.ring else writeRec s0 r.ring c
  let s2 := if status = stMoved then bump s1 (pgPart r.part + 0x128) 0 32 1
    else if status = stStaleEpoch then bump s1 (pgPart r.part + 0x124) 16 16 1 else s1
  let s3 := if dOpcode r.desc = 0x01 ∧ (status = stOk ∨ status = stPartialBound) then
      meterAdd s2 r.part (fun m => { m with keys := sat 64 (m.keys + i0) }) else s2
  drainCheck (captComplete (sendNotice s3 r c) r c out)

end Sys2Proof.Machine
end

