-- ==== Sys2Proof/Machine/Admit.lean ====
section
/-! DEFINITION. The checks of admission (R100-R105, R113-R119, R395-R398, R310, R311, R319, R320, R542, R543). -/
namespace Sys2Proof.Machine

/-- Why a descriptor is refused: status, `DETAIL` and the information fields. -/
structure Fail where
  status : Nat
  detail : Nat := 0
  i0     : Nat := 0
  i1     : Nat := 0
deriving DecidableEq, Repr

/-! ### Step 1 -/

/-- Body fields of an opcode (R114-R118): offset, size and reserved bits; `none` for an opcode outside R113. -/
def opFields (op : Nat) : Option (List (Nat × Nat × Nat)) :=
  let key : List (Nat × Nat × Nat) := [(0x0C, 2, 0), (0x0E, 1, 0), (0x0F, 1, 0), (0x10, 8, 0)]
  match op with
  | 0x01 => some (key ++ [(0x18, 8, 0), (0x20, 2, 0), (0x22, 2, 0), (0x24, 1, 0xF0), (0x25, 1, 0xC0), (0x26, 2, 0), (0x28, 4, 0),
      (0x2C, 4, 0), (0x30, 4, 0), (0x34, 4, 0), (0x38, 4, 0), (0x3C, 4, 0)])
  | 0x02 => some (key ++ [(0x18, 8, 0), (0x20, 4, 0), (0x24, 2, 0), (0x26, 1, 0xF8), (0x28, 2, 0)])
  | 0x03 => some [(0x0C, 8, 0), (0x14, 4, 0), (0x18, 2, 0), (0x1A, 1, 0), (0x1B, 1, 0xFC), (0x1C, 2, 0), (0x1E, 1, 0xF0), (0x1F, 1, 0),
      (0x20, 4, 0), (0x24, 4, 0)]
  | 0x04 => some (key ++ [(0x18, 4, 0), (0x1C, 1, 0)])
  | 0x05 => some (key ++ [(0x18, 1, 0xFE)])
  | 0x06 => some (key ++ [(0x18, 2, 0), (0x1A, 1, 0)])
  | 0x07 => some (key ++ [(0x18, 4, 0), (0x1C, 4, 0), (0x20, 1, 0x7E)])
  | 0x10 => some [(0x0C, 2, 0), (0x0E, 2, 0), (0x10, 8, 0), (0x18, 2, 0), (0x1A, 2, 0), (0x1C, 2, 0), (0x1E, 1, 0xF0), (0x20, 4, 0),
      (0x24, 4, 0), (0x28, 4, 0), (0x2C, 8, 0)]
  | 0x11 => some [(0x0C, 2, 0), (0x0E, 2, 0), (0x10, 8, 0), (0x18, 1, 0xFC)]
  | 0x12 => some [(0x0C, 2, 0), (0x0E, 2, 0), (0x10, 8, 0)]
  | 0x13 => some [(0x0C, 2, 0), (0x10, 4, 0)]
  | 0x20 => some (key ++ [(0x18, 4, 0), (0x1C, 4, 0), (0x20, 4, 0), (0x24, 2, 0)])
  | 0x21 => some (key ++ [(0x18, 4, 0), (0x1C, 1, 0)])
  | 0x30 => some [(0x0C, 1, 0), (0x0E, 2, 0), (0x10, 8, 0), (0x18, 4, 0)]
  | 0x31 => some [(0x0C, 2, 0)]
  | 0x3F => some [(0x0C, 4, 0), (0x10, 8, 0), (0x18, 2, 0)]
  | _ => none

/-- The common header with its reserved bits (R100, R102). -/
def hdrFields : List (Nat × Nat × Nat) := [(0, 1, 0), (1, 1, 0xE0), (2, 2, 0xFFE0), (4, 4, 0), (8, 4, 0)]

/-- Offsets of enumerated fields out of range and of fields required to be 0 (R115, R118). -/
def enumBad (d : List Byte) : List Nat :=
  match dOpcode d with
  | 0x01 => if bits (le d 0x25 1) 4 2 = 3 then [0x25] else []
  | 0x04 => if le d 0x1C 1 > 1 then [0x1C] else []
  | 0x05 => if bit (le d 0x18 1) 0 then (if le d 0x0E 1 ≠ 0 then [0x0E] else []) ++ (if le d 0x0F 1 ≠ 0 then [0x0F] else []) else []
  | 0x06 => (if le d 0x0E 1 ≠ 0 then [0x0E] else []) ++ (if le d 0x0F 1 ≠ 0 then [0x0F] else [])
  | 0x21 => if le d 0x1C 1 > 2 then [0x1C] else []
  | 0x30 => if le d 0x0C 1 = 0 ∨ le d 0x0C 1 > 8 then [0x0C] else []
  | _ => []

/-- The offset of the first offending field at step 1, or `none` (R103, R113, R118, R542). -/
def firstBad (d : List Byte) : Option Nat :=
  match opFields (dOpcode d) with
  | none => some 0
  | some body =>
    let fs := hdrFields ++ body
    let resv := (fs.filter (fun f => decide (le d f.1 f.2.1 &&& f.2.2 ≠ 0))).map (·.1)
    let loose := (List.range 64).filter (fun i =>
      fs.all (fun f => decide (i < f.1) || decide (f.1 + f.2.1 ≤ i)) && decide (le d i 1 ≠ 0))
    let flag := if (dPersist d || dDisarm d) && !dArm d then [1] else []
    (resv ++ loose ++ flag ++ enumBad d).foldl (fun (b : Option Nat) o => some (match b with | some x => min x o | none => o)) none

/-! ### Objects as descriptors name them (R133) -/

/-- An object that is live and of a kind; kind 0 stands for any. -/
def liveObj (s : State) (p h kind : Nat) : Option Obj :=
  match tget? s.objects (65536 * p + h) with
  | some o => if (kind = 0 ∨ o.kind = kind) ∧ o.unloading = false then some o else none
  | none => none

/-- Handle fields of a descriptor: offset, handle, kind (0 for any) and whether it must name an object even when 0. -/
def handleFields (d : List Byte) : List (Nat × Nat × Nat × Bool) :=
  match dOpcode d with
  | 0x01 => [(0x20, le d 0x20 2, 6, true), (0x22, le d 0x22 2, 4, false)]
  | 0x02 => if bit (le d 0x26 1) 2 then [(0x28, le d 0x28 2, 1, true)] else []
  | 0x03 => [(0x18, le d 0x18 2, 6, true)]
  | 0x06 => [(0x18, le d 0x18 2, 5, false)]
  | 0x10 => [(0x0C, le d 0x0C 2, 7, true), (0x18, le d 0x18 2, 6, true), (0x1A, le d 0x1A 2, 8, false)]
  | 0x11 | 0x12 | 0x13 => [(0x0C, le d 0x0C 2, 7, true)]
  | 0x20 => [(0x24, le d 0x24 2, 1, true)]
  | 0x31 => [(0x0C, le d 0x0C 2, 0, true)]
  | _ => []

/-- Handles that a descriptor names. -/
def descHandles (d : List Byte) : List Nat := ((handleFields d).map (fun f => f.2.1)).filter (· ≠ 0)

/-- The first handle field that names no live object of its kind. -/
def badHandle (s : State) (p : Nat) (d : List Byte) : Option Nat :=
  ((handleFields d).find? (fun f => (decide (f.2.1 ≠ 0) || f.2.2.2) && (liveObj s p f.2.1 f.2.2.1).isNone)).map (·.1)

/-- References to an object: shelves, other objects, armed descriptors, admitted requests and plan attachments. -/
def objRefs (s : State) (p h : Nat) : Nat :=
  let sh := (s.dir.shelves.filter (fun e => decide (e.2.key.part = p))).map (fun e =>
    ([e.2.profH, e.2.prof.cb, e.2.prof.seed].filter (· = h)).length)
  let ob := (s.objects.filter (fun e => decide (e.1 / 65536 = p) && decide (e.2.kind = 1))).map (fun e =>
    ([le e.2.bytes 4 2, le e.2.bytes 6 2].filter (· = h)).length)
  let ar := (s.armed.filter (fun a => decide (dPart a.desc = p))).map (fun a => ((descHandles a.desc).filter (· = h)).length)
  let rq := (s.reqs.filter (fun e => decide (e.2.part = p))).map (fun e => (e.2.objs.filter (· = h)).length)
  let pl := (s.tiers.plans.filter (fun a => decide (a.part = p) && decide (a.plan = h))).length
  (sh.sum + ob.sum + ar.sum + rq.sum) + pl

/-! ### References (step 4; again at firing) -/

/-- Fields of a `MERGE` (R117) and the size of its inputs (R160). -/
def mgN (d : List Byte) : Nat := le d 0x1A 1
def mgStride (d : List Byte) : Nat := le d 0x14 4
def mgInBf16 (d : List Byte) : Bool := bit (le d 0x1B 1) 0
def mgOutBf16 (d : List Byte) : Bool := bit (le d 0x1B 1) 1
def mgHeads (d : List Byte) : Nat := le d 0x1C 2
def mgDim (d : List Byte) : Nat := 16 * (le d 0x1E 1 % 16 + 1)
def mgInSize (d : List Byte) : Nat := blockSize (mgHeads d) (mgDim d) (mgInBf16 d)

/-- Bytes of one item record of a `VINSERT` (R290). -/
def itemBytes (v : VIndex) (fmt : Nat) : Nat := 64 * ceilDiv (32 + v.dims * srcSize fmt) 64

/-- Reference fields of a descriptor: offset, and the bytes that the descriptor and the index it names say the operation touches. What the profile of a
shelf decides is checked at step 10 (R119). -/
def refFields (s : State) (p : Nat) (d : List Byte) : List (Nat × Nat) :=
  let idx := tget? s.vidx (65536 * p + le d 0x0C 2)
  match dOpcode d with
  | 0x01 | 0x02 => [(0x18, 1)]
  | 0x03 => [(0x0C, max 1 ((mgN d - 1) * mgStride d + mgInSize d))]
  | 0x10 => [(0x10, match idx with | some v => max 1 (v.dims * srcSize (bits (le d 0x1E 1) 0 2)) | none => 1)]
  | 0x11 => [(0x10, match idx with | some v => max 1 (le d 0x0E 2 * itemBytes v (bits (le d 0x18 1) 0 2)) | none => 1)]
  | 0x12 => [(0x10, max 1 (8 * le d 0x0E 2))]
  | 0x30 => [(0x10, max 1 (le d 0x18 4))]
  | 0x3F => [(0x10, max 1 (le d 0x18 2))]
  | _ => []

/-- A data reference of a descriptor, checked for a number of bytes (R104, R105). -/
def refFail (s : State) (p : Nat) (d : List Byte) (off len : Nat) : Option Fail :=
  match refCheck s p (le d off 8) len with
  | none => none
  | some st => some { status := st, detail := if st = stBadDescriptor then off else 0 }

/-- The first reference of a descriptor that fails, with its offset. -/
def refsFail (s : State) (p : Nat) (d : List Byte) : Option (Nat × Fail) :=
  (refFields s p d).findSome? (fun f => (refFail s p d f.1 f.2).map (f.1, ·))

/-! ### Capture and metering at step 2 -/

/-- A request takes its capture number (R485) while capture is on (DEDUCED, log entry 25). -/
def numberReq (s : State) (r : Req) : Req × State :=
  match captGroup (dOpcode r.desc) with
  | none => (r, s)
  | some g =>
    if captEn s r.part && captBit s r.part (16 + g) then
      let pt := s.part r.part
      ({ r with cap := some { seq := pt.capSeq, time := islandTime s (0x10 + r.ring / 1024) } },
       s.setPart r.part { pt with capSeq := pt.capSeq + 1 })
    else (r, s)

/-- A descriptor has passed step 2: it counts in `MTR_ADMIT` and takes its capture number (R485, R498). -/
def passStep2 (s : State) (r : Req) : Req × State :=
  numberReq (meterAdd s r.part (fun m => { m with admitN := sat 64 (m.admitN + 1) })) r

/-! ### Step 3: the partition's state (R390) -/

def stateFail (s : State) (r : Req) : Option Fail :=
  match (s.part r.part).state with
  | .resetting | .destroying => some { status := stAborted }
  | .fenced => if dOpcode r.desc = 0x3F then none else some { status := stFenced }
  | _ => none

/-- Of a reference that fails and a handle that does, the one whose field comes first (R135). -/
def earlierFail (a b : Option (Nat × Fail)) : Option (Nat × Fail) :=
  match a, b with
  | some x, some y => if y.1 < x.1 then some y else some x
  | some x, none => some x
  | none, y => y

/-- Step 4: references and handles. The failure comes with the offset of its field. -/
def step4 (s : State) (r : Req) : Option (Nat × Fail) :=
  earlierFail (refsFail s r.part r.desc)
    ((badHandle s r.part r.desc).map (fun o => (o, { status := stBadDescriptor, detail := o })))

/-- Offset of the handle field of a route in a descriptor. -/
def routeOffset (op : Nat) : Option Nat := if op = 0x01 then some 0x20 else if op = 0x03 ∨ op = 0x10 then some 0x18 else none

/-- The bytes of the route that a descriptor names. -/
def routeBytes (s : State) (p : Nat) (d : List Byte) : List Byte :=
  match routeOffset (dOpcode d) with
  | none => []
  | some o => match tget? s.objects (65536 * p + le d o 2) with | some x => x.bytes | none => []

/-- A request that fails at step 4 at the field of an offset: the route that was found valid before it takes its notice (R354). -/
def routeSeen (s : State) (r : Req) (o : Nat) : Req :=
  match routeOffset (dOpcode r.desc) with
  | some a => if a < o then { r with route := routeBytes s r.part r.desc } else r
  | none => r

/-- A request with the objects that its descriptor names held (R133). -/
def holdObjs (s : State) (r : Req) : Req :=
  let bytes := fun h => match tget? s.objects (65536 * r.part + h) with | some o => o.bytes | none => []
  let sp := if dOpcode r.desc = 0x01 then le r.desc 0x22 2 else if dOpcode r.desc = 0x10 then le r.desc 0x1A 2 else 0
  { r with objs := descHandles r.desc, route := routeBytes s r.part r.desc, sprog := bytes sp }

/-! ### Step 6: the epoch (R395) -/

/-- C and F of a partition. -/
def partC (s : State) (p : Nat) : Nat := rd s (pgPart p + 0x114)
def partF (s : State) (p : Nat) : Nat := rd s (pgPart p + 0x118)

/-- The grace window is open (R396). -/
def graceOpen (s : State) (p : Nat) : Bool :=
  match (s.part p).graceEnd with
  | some e => decide (stewardMs s < e)
  | none => false

/-- The rule-table key of a request (R310, R311). -/
def ruleKey (r : Req) : Nat :=
  let d := r.desc
  let op := dOpcode d
  let k := dKey d
  let shelf := hasShelfKey op
  let handle := if op = 0x10 ∨ op = 0x11 ∨ op = 0x12 ∨ op = 0x13 then le d 0x0C 2 else if op = 0x03 then le d 0x18 2 else 0
  r.part + r.src * 2 ^ 5 + op % 64 * 2 ^ 8 + (if shelf then 0 else 2 ^ 14) + (if shelf then k.tenant else 0) * 2 ^ 16 +
  dEpoch d * 2 ^ 32 + (if shelf then k.layer else 0) * 2 ^ 64 + (if shelf then k.group else 0) * 2 ^ 72 +
  (if shelf then k.conv / 2 ^ 16 else 0) * 2 ^ 80 + handle * 2 ^ 128

/-- The hint of a `MOVED` (R319, R320) from an action. -/
def moveHint (a : Nat) : Nat × Nat :=
  if bits a 0 3 = 1 then (bits a 16 32, bits a 48 5) else (0xFFFFFFFF, 0xFFFFFFFF)

/-- `MOVED` for a stale composition, with the hint of a lookup with the request's own key (R320). -/
def movedFail (s : State) (r : Req) : Fail × State :=
  let (a, s1) := ruleLookup s (ruleKey r)
  ({ status := stMoved, i0 := (moveHint a).1, i1 := (moveHint a).2 }, s1)

/-- Opcodes that skip steps 6 and 7. -/
def skips67 (op : Nat) : Bool := decide (op = 0x30) || decide (op = 0x31) || decide (op = 0x3F)

/-- Step 6 (R395). -/
def step6 (s : State) (r : Req) : Option Fail × Req × State :=
  let p := r.part
  let e := dEpoch r.desc
  let c := partC s p
  let r1 := { r with cap := r.cap.map (fun k => { k with c := c }) }
  if e = c then (none, r1, s)
  else if e > c then (some { status := stRetryLater, i0 := rdf s (pgPart p + 0x11C) 16 14 }, r1, s)
  else if e < partF s p then (some { status := stStaleEpoch }, r1, s)
  else if graceOpen s p ∧ (dOpcode r.desc = 0x01 ∨ dOpcode r.desc = 0x03 ∨ dOpcode r.desc = 0x10) then
    (none, { r1 with grace := true }, bump s (pgPart p + 0x124) 0 16 1)
  else
    let (f, s1) := movedFail s r1
    (some f, r1, s1)

/-- Step 7 (R319). -/
def step7 (s : State) (r : Req) : Option Fail × Req × State :=
  let (a, s1) := ruleLookup s (ruleKey r)
  let r1 := { r with cap := r.cap.map (fun k => { k with action := a }) }
  match bits a 0 3 with
  | 0 => (none, { r1 with tclass := some (bits a 4 4) }, s1)
  | 1 => (some { status := stMoved, i0 := (moveHint a).1, i1 := (moveHint a).2 }, r1, s1)
  | _ => (some { status := bits a 8 8, i0 := if bits a 8 8 = stRetryLater then bits a 16 32 else 0 }, r1, s1)

/-- Step 8: a source or query format code of 3 (R50, R115, R290, R295). The pairing itself needs the shelf and follows the
lookup. -/
def step8 (r : Req) : Option Fail :=
  let d := r.desc
  let f := match dOpcode d with
    | 0x01 => bits (le d 0x25 1) 0 2
    | 0x02 => bits (le d 0x26 1) 0 2
    | 0x10 => bits (le d 0x1E 1) 0 2
    | 0x11 => bits (le d 0x18 1) 0 2
    | _ => 0
  if f = 3 then some { status := stFormatUnsupported } else none

/-- Step 9: the ringmaster, for the opcodes that need it. -/
def step9 (s : State) (r : Req) : Option Fail × State :=
  match rmClass (dOpcode r.desc) with
  | none => (none, s)
  | some c =>
    match rmGate s c with
    | (some w, s1) => (some { status := stRetryLater, i0 := w }, s1)
    | (none, s1) => (none, s1)

/-- Steps 6 to 9. -/
def steps69 (s : State) (r : Req) : Option Fail × Req × State :=
  let op := dOpcode r.desc
  let (f6, r6, s6) := if skips67 op then (none, r, s) else step6 s r
  match f6 with
  | some f => (some f, r6, s6)
  | none =>
    let (f7, r7, s7) := if skips67 op then (none, r6, s6) else step7 s6 r6
    match f7 with
    | some f => (some f, r7, s7)
    | none =>
      match step8 r7 with
      | some f => (some f, r7, s7)
      | none => let (f9, s9) := step9 s7 r7; (f9, r7, s9)

/-! ### Taking a descriptor from the front of its ring -/

/-- A new request number. -/
def newId (s : State) : Nat × State := (s.nextId, { s with nextId := s.nextId + 1 })

/-- `INFO0` of a failure: `FENCE` and `UNLOAD` say the epoch in force and the references remaining unless the row of the status replaces theirs
(R136). -/
def failInfo0 (s : State) (p : Nat) (d : List Byte) (f : Fail) : Nat :=
  if f.status = stMoved ∨ f.status = stRetryLater then f.i0
  else if dOpcode d = 0x3F then partC s p
  else if dOpcode d = 0x31 then objRefs s p (le d 0x0C 2)
  else f.i0

/-- A request ends with a failure. -/
def failReq (s : State) (id : Nat) (r : Req) (f : Fail) : State :=
  complete s id r f.status f.detail (failInfo0 s r.part r.desc f) f.i1 0 0

/-- A descriptor that reads or writes host memory: a reference, a memory route or its completion ring lies in space 0. -/
def needsHost (s : State) (ring : Nat) (d : List Byte) : Bool :=
  let rt := if dOpcode d = 0x01 then le d 0x20 2 else if dOpcode d = 0x03 ∨ dOpcode d = 0x10 then le d 0x18 2 else 0
  (match tget? s.rings ring with | some g => !g.cloc | none => false) || (refFields s (dPart d) d).any (fun f => decide (refSpace (le d f.1 8) = 0)) ||
  (match tget? s.objects (65536 * dPart d + rt) with
   | some o => decide (o.kind = 6) && decide (rtKind o.bytes = 0) && decide (refSpace (rtBase o.bytes) = 0)
   | none => false)

/-- The descriptors of a ring that were taken before the number `n` and have not completed: admitted, fired or still armed. -/
def openBefore (s : State) (ring n : Nat) : List (List Byte) :=
  (s.reqs.filter (fun e => decide (e.2.ring = ring) && !e.2.replay && decide (e.2.order < n))).map (·.2.desc) ++
  (s.armed.filter (fun a => decide (a.ring = ring) && decide (a.order < n))).map (·.desc)

/-- `ORDERED` lets a descriptor with the number `n` on its ring be admitted (R102). -/
def inOrder (s : State) (ring n : Nat) (d : List Byte) : Bool :=
  let before := openBefore s ring n
  (!dOrdered d || before.isEmpty) && before.all (fun e => !dOrdered e)

/-- A descriptor fetched from a ring may be admitted: the order of `ORDERED` (R102), a device that serves (R513), and no host memory
needed that R386 keeps from it. One with `ARM` stops at step 5, which is no admission, and waits for no other (DEDUCED, log entry 140). -/
def mayAdmit (s : State) (ring : Nat) (d : List Byte) : Bool :=
  !noService s && !(ideHold s && needsHost s ring d) && (dArm d || inOrder s ring s.nextId d)

/-- The descriptor that a command for `op` would take from a ring, with the ring left. -/
def frontDesc (s : State) (ring : Nat) (f : List Byte → Bool) : Option (Nat × List Byte × Ring) :=
  match tget? s.rings ring with
  | none => none
  | some g =>
    match g.taken with
    | [] => none
    | (src, d) :: rest => if f d && mayAdmit s ring d then some (src, d, { g with taken := rest }) else none

/-- Steps 2 to 4 on a descriptor: the request that passed them, or none where its record has been written. -/
def steps24 (s : State) (ring src : Nat) (g : Ring) (d : List Byte) : Option (Nat × Req) × State :=
  let (id, s1) := newId (s.setRing ring g)
  let r : Req := { ring := ring, desc := d, order := id, part := g.part, src := src }
  if le d 2 2 ≠ g.part then (none, failReq s1 id r { status := stDenied })
  else
    let (r2, s2) := passStep2 s1 r
    match stateFail s2 r2 with
    | some f => (none, failReq s2 id r2 f)
    | none =>
      match step4 s2 r2 with
      | some (o, f) => (none, failReq s2 id (routeSeen s2 r2 o) f)
      | none => (some (id, holdObjs s2 r2), s2)

/-- Admission of a descriptor of an opcode up to step 9, then the operation's own step 10 and effect `k`. -/
def admitOp (s : State) (ring op : Nat) (k : State → Nat → Req → State) : State :=
  match frontDesc s ring (fun d => decide (dOpcode d = op) && !dArm d) with
  | none => s
  | some (src, d, g) =>
    match steps24 s ring src g d with
    | (none, s1) => s1
    | (some (id, r), s1) =>
      match steps69 s1 r with
      | (some f, r2, s2) => failReq s2 id r2 f
      | (none, r2, s2) => k s2 id r2

end Sys2Proof.Machine
end

