-- ==== Sys2Proof/Machine/Rings.lean ====
section
/-! DEFINITION. Request rings, descriptor fetch, arming and triggers (R106-R112, R125-R128, R375, R376). -/
namespace Sys2Proof.Machine

/-- A queue pair with `FEED_EN` that names a ring (R336). -/
def feeds (x : Qp) (ring : Nat) : Bool := bit (le x.attr 5 1) 1 && decide (le x.attr 6 2 % 4096 = ring)

/-- A ring is fed by some queue pair (R375). -/
def ringFed (s : State) (ring : Nat) : Bool := s.qps.any (fun e => feeds e.2 ring)

/-! ### Stores of the host -/

/-- A host store becomes visible: bytes at an address, or the poison of the 64-byte line of an address. -/
def hostStore (s : State) (w : Nat × Option (List Byte)) : State :=
  match w.2 with
  | some b => { s with hostMem := mwrite s.hostMem w.1 b, hostBad := unpoison s.hostBad w.1 b.length }
  | none => if s.hostBad.contains (w.1 / 64) then s else { s with hostBad := s.hostBad ++ [w.1 / 64] }

/-- `RING_PI` (R109, R375): the host's stores are visible, and the producer index takes the value; a write to a fed ring is
ignored and counted, and one to a ring that is absent or being destroyed is ignored. -/
def execRingPi (ring : Fin 4096) (value : Word) (stores : List (Nat × Option (List Byte))) (s : State) : Res :=
  let s1 := stores.foldl hostStore s
  hostWr s1 (pgRing ring.val) <|
  match tget? s1.rings ring.val with
  | none => .next s1
  | some g =>
    if ringFed s1 ring.val then .next (raise (bump s1 (pgCxl + 0x130) 16 16 1) pgCxl 6 [])
    else if g.destroying then .next s1
    else .next (advancePi s1 ring.val 4 g value)

/-- `CQ_CI` (R111, R537): records consumed by the caller; records that wait take the slots so freed. A write while the ring is being
destroyed is ignored. -/
def execCqCi (ring : Fin 4096) (value : Word) (s : State) : Res := hostWr s (pgRing ring.val) <|
  match tget? s.rings ring.val with
  | none => .next s
  | some g =>
    if g.destroying then .next s
    else .next (flushRecords (s.setRing ring.val { g with cqCi := value }) ring.val (g.records.length + 1))

/-! ### Fetch (R109-R111, R376) -/

/-- The scheduler takes descriptors from rings: not in `DRAIN`, and not before `READY` or after `DUMP`. -/
def fetching (s : State) : Bool := decide (s.dev.state = .ready) || decide (s.dev.state = .serve)

/-- The bytes of the slot at `RING_CI`, or `none` for poisoned or aborted data. -/
def readSlot (s : State) (g : Ring) : Option (List Byte) × State :=
  let a := refAddr g.rbase + 64 * (g.ci.toNat % rqSlots g)
  if g.rloc then devRead s g.part a 64 else hostRead s a 64

/-- The source of the next slot, with what is left. -/
def nextSrc : List (Nat × Nat) → Nat × List (Nat × Nat)
  | [] => (4, [])
  | (n, src) :: t => if n ≤ 1 then (src, t) else (src, (n - 1, src) :: t)

/-- A descriptor is taken: `RING_CI` advances, it holds a completion slot, and step 1 of admission refuses it or lets it wait
for its operation. -/
def takeDesc (s : State) (ring : Nat) (g : Ring) (d : List Byte) : State :=
  let (src, srcs) := nextSrc g.srcs
  let g1 := { g with ci := g.ci + 1, inflight := g.inflight + 1, srcs := srcs }
  let s1 := bump s (pgAsch (ring / 1024) + 0x120) 0 32 1
  match firstBad d with
  | none => s1.setRing ring { g1 with taken := g1.taken ++ [(src, d)] }
  | some o =>
    let (id, s2) := newId (s1.setRing ring g1)
    failReq s2 id { ring := ring, desc := d, part := g.part, src := src } { status := stBadDescriptor, detail := o }

/-- A ring from which a descriptor can be taken now. -/
def fetchable (s : State) (g : Ring) : Bool :=
  !g.stopped && !g.destroying && decide (g.ci ≠ g.pi) && slotFree g && !(ideHold s && !g.rloc)

/-- Up to `n` descriptors are fetched. -/
def fetchN (s : State) (ring : Nat) : Nat → State
  | 0 => s
  | n + 1 =>
    match tget? s.rings ring with
    | none => s
    | some g =>
      if !fetchable s g then s
      else
        match readSlot s g with
        | (none, s1) => raise (s1.setRing ring { g with stopped := true }) (pgAsch (ring / 1024)) 0 (leBytes 2 ring ++ [2])
        | (some d, s1) => fetchN (takeDesc s1 ring g d) ring n

/-- The least of some numbers above `a`, or the least of all where none is: the next of a round. -/
def nextRound (l : List Nat) (a : Nat) : Option Nat :=
  let least := fun (l : List Nat) => l.foldl (fun (b : Option Nat) x => some (match b with | some y => min x y | none => x)) none
  match least (l.filter (fun x => decide (a < x))) with
  | some x => some x
  | none => least l

/-- The rings of a die from which a descriptor can be taken, with their partitions. -/
def fetchRings (s : State) (die : Nat) : List (Nat × Nat) :=
  (s.rings.filter (fun e => decide (e.1 / 1024 = die) && fetchable s e.2)).map (fun e => (e.1, e.2.part))

/-- The ring whose turn it is on a die, with the turns after it (R121): a partition with work keeps its turn for `WEIGHT` fetches, and its rings
follow each other. The unit of the weights is one fetch (DESIGN CHOICE, log entry 142). -/
def fetchTurn (s : State) (die : Nat) : Option (Nat × Sched) :=
  let x := tget {} s.sched die
  let rs := fetchRings s die
  let stay := decide (x.left ≠ 0) && rs.any (fun e => decide (e.2 = x.part))
  match if stay then some x.part else nextRound (rs.map (·.2)) x.part with
  | none => none
  | some p =>
    let left := if stay then x.left else max 1 (rdf s (pgPart p + 0x108) 0 8)
    (nextRound ((rs.filter (fun e => decide (e.2 = p))).map (·.1)) (tget 0 x.rings p)).map (fun r =>
      (r, { x with part := p, left := left - 1, rings := tset 0 x.rings p r }))

/-- `DESCRIPTOR_FETCH` (R121, R376): up to 16 consecutive slots of the ring whose turn it is on its die. -/
def execDescriptorFetch (ring : Fin 4096) (count : Nat) (s : State) : Res :=
  if count > 16 then .fault (.operand "more than 16 slots in one fetch")
  else if fetching s ∧ count ≠ 0 then
    match fetchTurn s (ring.val / 1024) with
    | some (r, x) =>
      if r = ring.val then .next (fetchN { s with sched := tset {} s.sched (ring.val / 1024) x } ring.val count) else .next s
    | none => .next s
  else .next s

/-! ### Arming (R111, R125, R128) -/

/-- The trigger key of a descriptor (R101). -/
def trigKey (d : List Byte) : Nat := dTag d % 2 ^ 20

/-- Armed descriptors of a die. -/
def armedOn (s : State) (die : Nat) : List Armed := s.armed.filter (fun a => decide (a.ring / 1024 = die) && !a.gone)

/-- The capture entry of an arming: no completion is written for it, so what stands in the entry's completion beyond the
descriptor's own fields is open (R485, R486; log entry 26). -/
def captArming (s : State) (r : Req) : State :=
  let (v, s1) := draw s
  captComplete s1 r (mkRec r.desc (bits v 0 8) 0 (bits v 8 32) (bits v 40 32) (bits v 72 32) (bits v 104 32) 0) []

/-- `ARM` (R125): step 5 holds the descriptor and releases its slot, or refuses it. -/
def execArm (ring : Fin 4096) (s : State) : Res :=
  match frontDesc s ring.val (fun d => dArm d && !dDisarm d) with
  | none => .next s
  | some (src, d, g) =>
    match steps24 s ring.val src g d with
    | (none, s1) => .next s1
    | (some (id, r), s1) =>
      let here := armedOn s1 (ring.val / 1024)
      if here.any (fun a => decide (a.ring = ring.val) && decide (a.key = trigKey d)) then
        .next (failReq s1 id r { status := stBadDescriptor, detail := 0x08 })
      else if here.length ≥ 16384 ∨ (here.filter (fun a => decide (dPart a.desc = r.part))).length ≥ 4096 then
        .next (failReq (raise s1 (pgAsch (ring.val / 1024)) 2 []) id r { status := stFull, detail := 0x04 })
      else
        let s2 := { s1 with armed := s1.armed ++ [{ ring := ring.val, key := trigKey d, order := id, desc := d }] }
        .next (drainCheck (captArming (releaseSlot s2 ring.val) r))

/-- An armed descriptor ends without firing: its record takes a slot as any other does, and a firing already made is not
affected. -/
def endArmed (s : State) (a : Armed) (status : Nat) : State :=
  let left := if a.fires.isEmpty then s.armed.filter (· ≠ a) else s.armed.map (fun b => if b = a then { a with gone := true } else b)
  let r := holdObjs s { ring := a.ring, desc := a.desc, part := dPart a.desc }
  let c := mkRec a.desc status 0 (failInfo0 s (dPart a.desc) a.desc { status := status }) 0 0 0 0
  sendNotice (queueRec { s with armed := left } a.ring c) r c

/-- `DISARM` (R128): the armed descriptor with the same key is removed. -/
def execDisarm (ring : Fin 4096) (s : State) : Res :=
  match frontDesc s ring.val (fun d => dArm d && dDisarm d) with
  | none => .next s
  | some (src, d, g) =>
    match steps24 s ring.val src g d with
    | (none, s1) => .next s1
    | (some (id, r), s1) =>
      match s1.armed.find? (fun a => decide (a.ring = ring.val) && decide (a.key = trigKey d) && !a.gone) with
      | none => .next (failReq s1 id r { status := stBadDescriptor, detail := 0x08 })
      | some a => .next (complete (endArmed s1 a stAborted) id r stOk 0 0 0 0 0)

/-! ### Triggers (R126, R127, R352) -/

/-- `TRIGGER` (R126): a port presents a 32-bit trigger that arrived on a queue pair, once every earlier write has been accepted. -/
def execTrigger (port : Fin 4) (value : Word) (qpn : Nat) (s : State) : Res :=
  match tget? s.qps qpn with
  | none => .next s
  | some x => .next (issueWrite s (.trigger port.val x.part value.toNat))

/-! ### Ring commands (R107, R108) -/

/-- The staged ring of a die: module ring ID, partition, location bits, size codes and bases. -/
def stagedRing (s : State) (n : Nat) : Nat × Ring :=
  let pg := pgAsch n
  (1024 * n + rdf s (pg + 0x100) 0 10,
   { part := rdf s (pg + 0x104) 8 5, rloc := rdf s (pg + 0x104) 1 1 = 1, cloc := rdf s (pg + 0x104) 2 1 = 1,
     rsize := rdf s (pg + 0x104) 16 4, csize := rdf s (pg + 0x104) 20 4, rbase := rd64 s (pg + 0x108), cbase := rd64 s (pg + 0x110) })

/-- A partition to which new objects may be bound (R540). -/
def partOpen (s : State) (p : Nat) : Bool := decide ((s.part p).state = .live) || decide ((s.part p).state = .fenced)

/-- A ring base: its space agrees with the location bit, it is aligned to its size and to 4 KiB, and its range is allowed. -/
def baseOk (s : State) (p : Nat) (loc : Bool) (ref size : Nat) : Bool :=
  decide (refSpace ref = if loc then 1 else 0) && decide (refAddr ref % (max 4096 size) = 0) && decide (refCheck s p ref size = none)

/-- Staging values of a ring are valid (R107, R540). -/
def ringStagedOk (s : State) (g : Ring) : Bool :=
  partOpen s g.part && decide (g.rsize ≤ 10) && decide (g.csize ≤ 10) && baseOk s g.part g.rloc g.rbase (64 * rqSlots g) &&
  baseOk s g.part g.cloc g.cbase (32 * cqSlots g)

/-- `RESULT` of a scheduler page. -/
def aschResult (s : State) (n r : Nat) : State := wrf s (pgAsch n + 0x11C) 2 2 r

/-- A scheduler command is in progress on a die: a ring that it destroys is still there (R545). -/
def aschBusy (s : State) (n : Nat) : Bool := s.rings.any (fun e => decide (e.1 / 1024 = n) && e.2.byCmd)

/-- `RING_CREATE` (R107). The staging check is reported ahead of an existing ring, and that ahead of the count of rings (DESIGN
CHOICE, log entry 27). -/
def execRingCreate (die : Fin 4) (s : State) : Res := hostWr s (pgAsch die.val) <|
  if aschBusy s die.val then .next s else
  let (id, g) := stagedRing s die.val
  if !ringStagedOk s g then .next (aschResult s die.val 2)
  else if (tget? s.rings id).isSome then .next (aschResult s die.val 3)
  else if (s.rings.filter (fun e => decide (e.2.part = g.part))).length ≥ 128 then .next (aschResult s die.val 1)
  else .next (aschResult (s.setRing id g) die.val 0)

/-- Every armed descriptor of a ring ends with a status. -/
def endArmedOf (s : State) (ring status : Nat) : State :=
  (s.armed.filter (fun a => decide (a.ring = ring) && !a.gone)).foldl (fun s a => endArmed s a status) s

/-- `RING_DESTROY` (R108): the ring stops taking descriptors and its armed descriptors complete with `ABORTED`. -/
def execRingDestroy (die : Fin 4) (s : State) : Res := hostWr s (pgAsch die.val) <|
  if aschBusy s die.val then .next s else
  let (id, _) := stagedRing s die.val
  match tget? s.rings id with
  | none => .next (aschResult s die.val 3)
  | some g =>
    if g.destroying then .next (aschResult s die.val 3)
    else .next (aschResult (endArmedOf (s.setRing id { g with destroying := true, byCmd := true }) id stAborted) die.val 0)

/-- Nothing of a ring is left to be written. -/
def ringQuiet (s : State) (ring : Nat) (g : Ring) : Bool :=
  g.taken.isEmpty && g.records.isEmpty && decide (g.inflight = 0) && s.reqs.all (fun e => decide (e.2.ring ≠ ring) || e.2.replay) &&
  s.armed.all (fun a => decide (a.ring ≠ ring))

/-- `RING_DESTROY_DONE` (R108): the last record has been written, and the ring is gone. -/
def execRingDestroyDone (ring : Fin 4096) (s : State) : Res :=
  match tget? s.rings ring.val with
  | none => .next s
  | some g =>
    if g.destroying && ringQuiet s ring.val g then .next { s with rings := tdel s.rings ring.val } else .next s

end Sys2Proof.Machine
end

