-- ==== Sys2Proof/Machine/Objects.lean ====
section
/-! DEFINITION. Loaded objects (R38, R69, R70, R129-R134, R150, R151, R243, R285-R287, R298, R299, R445). -/
namespace Sys2Proof.Machine

/-- A reference inside an object is refused with a status of R104 or R105; its contents came from `SRC` (R542). -/
def innerRefFail (st : Nat) : Fail := { status := st, detail := if st = stBadDescriptor then 0x10 else 0 }

/-- BF16 entries of bytes. -/
def bf16s (b : List Byte) : List (BitVec 16) := (List.range (b.length / 2)).map (fun i => BitVec.ofNat 16 (le b (2 * i) 2))

/-- Every entry is finite with a magnitude below 2^32 (R38, R287). -/
def bf16sOk (l : List (BitVec 16)) : Bool := l.all (fun e => srcOk (ofBf16 e))

/-- A 16-byte profile (R68). -/
def parseProfile (b : List Byte) : Profile :=
  { kfmt := le b 0 1, vfmt := le b 1 1, dim := le b 2 1, heads := le b 3 1, cb := le b 4 2, seed := le b 6 2, ringW := le b 8 4,
    slack := le b 12 1, flags := le b 13 1 }

/-- Bytes of one codebook table of a format (R69). -/
def cbSize (f : Nat) : Nat := if f % 16 = 7 then 32 else if f % 16 = 8 then 512 else 0

/-! ### The length check (R131, order 2) -/

/-- Length ranges of the kinds (R129). -/
def lenRange (kind len : Nat) : Bool :=
  match kind with
  | 1 => decide (len = 16)
  | 2 => decide (32 ≤ len) && decide (len ≤ 16384) && decide (len % 32 = 0)
  | 3 => decide (len = 8)
  | 4 => decide (64 ≤ len) && decide (len ≤ 16384) && decide (len % 64 = 0)
  | 5 => decide (8 ≤ len) && decide (len ≤ 1024)
  | 6 => decide (len = 32)
  | 7 => decide (64 ≤ len) && decide (len ≤ 65536)
  | 8 => decide (64 ≤ len) && decide (len ≤ 4096) && decide (len % 64 = 0)
  | _ => false

/-- Inline bytes of the two tables of index parameters (R286). -/
def centBytes (b : List Byte) : Nat := 2 * le b 0x0C 4 * le b 8 2
def subBytes (b : List Byte) : Nat := 512 * le b 8 2

/-- The length that an object's own fields declare. -/
def lenDeclared (kind : Nat) (b : List Byte) : Bool :=
  match kind with
  | 4 => decide (b.length = 64 + up64 (8 * le b 5 1) + up64 (4 * le b 6 2))
  | 5 => decide (b.length = 8 + 2 * le b 6 2)
  | 7 => decide (b.length = 64 + (if le b 0x10 8 = 0 then centBytes b else 0) + (if le b 0x18 8 = 0 then subBytes b else 0))
  | 8 => decide (b.length = up64 (64 + 8 * le b 6 2))
  | _ => true

/-! ### Rules of the kinds (R131, order 5) -/

/-- A profile obeys the cases of R69 that draw `REFUSED_FIT`; `cb` is the codebook object that it names. -/
def profileRule (b : List Byte) (cb : Option Obj) : Bool :=
  let p := parseProfile b
  let d := profD p
  let h := profH p
  let fits := fun f => if f % 16 = 5 ∨ f % 16 = 6 then decide (d % groupSize f = 0) else if f % 16 = 9 then decide (d % 32 = 0) else true
  let rot := bit p.kfmt 5 || bit p.vfmt 5
  let need := h * cbSize p.kfmt + h * cbSize p.vfmt
  fits p.kfmt && fits p.vfmt && (!rot || [16, 32, 64, 128, 256].contains d) &&
  (decide (need = 0) || (match cb with | some o => decide (o.bytes.length = need) | none => false)) &&
  (!rot || decide (p.seed ≠ 0)) && decide (p.ringW ≤ 2 ^ 26) &&
  (if p.ringW = 0 then decide (p.slack = 0) else decide (1 ≤ p.slack) && decide (p.slack ≤ 8)) &&
  decide (bits p.kfmt 6 2 = 0) && decide (bits p.vfmt 6 2 = 0) && decide (p.dim < 16) && decide (p.heads < 16) && decide (p.flags < 2) &&
  decide (le b 14 2 = 0)

/-- Operation `i` of a score program, and parameter `k`. -/
def spOp (b : List Byte) (i : Nat) : Nat := le b (64 + 8 * i) 8
def spNops (b : List Byte) : Nat := le b 5 1
def spNparam (b : List Byte) : Nat := le b 6 2
def spNqh (b : List Byte) : Nat := le b 8 2
def spParam (b : List Byte) (k : Nat) : F32 := BitVec.ofNat 32 (le b (64 + up64 (8 * spNops b) + 4 * k) 4)
def spImm (w : Nat) : F32 := BitVec.ofNat 32 (w / 2 ^ 32)

/-- A positive finite number. -/
def posFin (x : F32) : Bool := isFin x && !f32Neg x && decide (f32Mag x ≠ 0)

/-- The product of the `MUL_IMM` immediates of a program, exact. -/
def spProduct (b : List Byte) : Dy :=
  (List.range (spNops b)).foldl (fun a i => let w := spOp b i; if w % 256 = 2 then dyMul a (toDy (spImm w)) else a) (dyOfInt 1)

/-- The rules of R150 and R151. -/
def scoreRule (b : List Byte) : Bool :=
  let n := spNops b
  let np := spNparam b
  let nq := spNqh b
  let opOk := fun w =>
    let a := bits w 16 16
    let imm := spImm w
    decide (bits w 8 8 = 0) &&
    match w % 256 with
    | 1 => srcOk imm
    | 2 => posFin imm
    | 3 => posFin imm && decide (f32Mag imm ≤ 0x47800000)
    | 4 => decide (a + nq ≤ np)
    | 5 => decide (a + nq ≤ np) && (List.range nq).all (fun j => let x := spParam b (a + j); !f32Neg x || decide (f32Mag x = 0))
    | 6 => decide (a + 31 < np)
    | 7 => decide (1 ≤ w / 2 ^ 32)
    | _ => false
  decide (le b 0 4 = 0x50534E33) && decide (le b 4 1 = 1) && decide (1 ≤ n) && decide (n ≤ 32) && decide (np ≤ 4016) && decide (1 ≤ nq) &&
  decide (nq ≤ 256) && decide (le b 0x0A 54 = 0) && (List.range np).all (fun k => srcOk (spParam b k)) &&
  (List.range n).all (fun i => opOk (spOp b i)) && dyLe (spProduct b) (dyOfInt 65536)

/-- Entry `i` of a layer plan: layer and `NOLIFT`. -/
def planEntry (b : List Byte) (i : Nat) : Nat × Bool := (le b (8 + 2 * i) 1, bit (le b (9 + 2 * i) 1) 0)
def planN (b : List Byte) : Nat := le b 6 2

/-- The rules of R243. -/
def planRule (b : List Byte) : Bool :=
  let n := planN b
  let ls := (List.range n).map (fun i => (planEntry b i).1)
  decide (le b 0 4 = 0x4E414C50) && decide (le b 4 1 = 1) && decide (le b 5 1 ≤ 1) && decide (1 ≤ n) && decide (n ≤ 256) &&
  (List.range n).all (fun i => decide (le b (8 + 2 * i) 2 < 512)) && decide ls.Nodup

/-- The rules of R298 and R299. -/
def filterRule (b : List Byte) : Bool :=
  let n := le b 6 2
  decide (le b 0 4 = 0x544C4946) && decide (le b 4 1 = 1) && decide (le b 5 1 = 0) && decide (1 ≤ n) && decide (n ≤ 504) &&
  decide (le b 8 56 = 0) && (List.range n).all (fun i =>
    let w := le b (64 + 8 * i) 8
    decide (bits w 12 20 = 0) && decide (1 ≤ w % 256) && decide (w % 256 ≤ 7))

/-- The rules of R286 and R287 that draw `REFUSED_FIT` with `DETAIL` 0x02. -/
def indexRule (s : State) (p : Nat) (b : List Byte) : Bool :=
  let d := le b 8 2
  let m := le b 0x0A 1
  let home := le b 6 1
  decide (le b 0 4 = 0x58444E49) && decide (le b 4 1 = 1) && decide (le b 5 1 ≤ 1) && decide (home < 4) && decide (16 ≤ d) && decide (d ≤ 2048) &&
  decide (d % 16 = 0) && [8, 16, 32, 64, 128].contains m && decide (d % m = 0) && decide (le b 0x0B 1 = 0) &&
  decide (1 ≤ le b 0x0C 4) && decide (le b 0x0C 4 ≤ 1048576) && decide (le b 0x28 2 ≤ le b 0x0C 4) && decide (1 ≤ le b 0x2A 2) &&
  decide (1 ≤ le b 0x2C 4) && decide (le b 0x2C 4 ≤ 16384) && decide (le b 0x34 12 = 0) &&
  (partTiles s p).any (fun t => decide (t / 48 = home)) && (partWays s p).any (fun w => decide (w / 48 = home))

/-- A route (R130). R130 asks nothing of a `PORT` that is not the port of the queue pair; such a route is accepted, and its messages leave by the queue
pair's own port (DESIGN CHOICE, log entry 147). Malformed contents are bad contents of `SRC`; a queue pair of another partition, or a memory route
outside the windows, draws the status of R130 or R105 (DEDUCED, log entry 28). -/
def routeFail (s : State) (p : Nat) (b : List Byte) : Option Fail :=
  let bad : Fail := { status := stBadDescriptor, detail := 0x10 }
  if rtKind b > 1 ∨ le b 1 1 > 3 ∨ le b 2 2 ≠ 0 ∨ le b 7 1 ≠ 0 ∨ le b 0x18 8 ≠ 0 then some bad
  else if rtKind b = 0 then
    if le b 1 1 ≠ 0 ∨ le b 4 4 ≠ 0 ∨ rtKey b ≠ 0 then some bad
    else match refCheck s p (rtBase b) (max 1 (rtLimit b)) with
      | none => none
      | some st => some (innerRefFail st)
  else
    match tget? s.qps (rtQpn b) with
    | some x => if x.part = p then none else some { status := stDenied }
    | none => some { status := stDenied }

/-! ### The check of a `LOAD` (R131) -/

def fitFail (d : Nat) : Fail := { status := stRefusedFit, detail := d }

/-- Index tables of an index object: inline or referenced; `none` where a reference is refused or unreadable. -/
def indexTables (s : State) (p : Nat) (b : List Byte) : Except Fail (List Byte × List Byte) × State :=
  let cr := le b 0x10 8
  let sr := le b 0x18 8
  let nc := centBytes b
  let ns := subBytes b
  let get := fun (s : State) (ref n off : Nat) =>
    if ref = 0 then (Except.ok (bslice b off n), s)
    else match refCheck s p ref n with
      | some st => (Except.error (innerRefFail st), s)
      | none =>
        match refRead s p ref n with
        | (none, s1) => (Except.error ({ status := stIntegrity } : Fail), s1)
        | (some x, s1) => (Except.ok x, s1)
  match get s cr nc 64 with
  | (.error f, s1) => (.error f, s1)
  | (.ok c, s1) =>
    match get s1 sr ns (64 + (if cr = 0 then nc else 0)) with
    | (.error f, s2) => (.error f, s2)
    | (.ok q, s2) =>
      let st := le b 0x20 8
      if st ≠ 0 then
        match refCheck s2 p st 64 with
        | some x => (.error (innerRefFail x), s2)
        | none => (.ok (c, q), s2)
      else (.ok (c, q), s2)

/-- The contents of an object of a kind pass the checks 3 to 6 of R131: the charge beside the object's length, or the
failure. The checks 3 to 5 need no table of an index, check 6 does. -/
def contentCheck (s : State) (p kind : Nat) (b : List Byte) : Except Fail (List Byte × List Byte) × State :=
  let unsup : Fail := { status := stFormatUnsupported }
  let ok : Except Fail (List Byte × List Byte) := .ok ([], [])
  match kind with
  | 1 =>
    let pr := parseProfile b
    let badFmt := fun f => decide (f % 16 ≥ 10) || (decide (f % 16 = 9) && !s.chip.mxf4Cap)
    if badFmt pr.kfmt || badFmt pr.vfmt then (.error unsup, s)
    else if (pr.cb ≠ 0 ∧ (liveObj s p pr.cb 2).isNone) ∨ (pr.seed ≠ 0 ∧ (liveObj s p pr.seed 3).isNone) then (.error (fitFail 4), s)
    else if profileRule b (liveObj s p pr.cb 2) then (ok, s) else (.error (fitFail 3), s)
  | 2 => if bf16sOk (bf16s b) then (ok, s) else (.error { status := stBadDescriptor, detail := 0x10 }, s)
  | 4 => if scoreRule b then (ok, s) else (.error (fitFail 2), s)
  | 5 => if planRule b then (ok, s) else (.error (fitFail 2), s)
  | 6 => match routeFail s p b with | some f => (.error f, s) | none => (ok, s)
  | 7 =>
    if le b 7 1 ≠ 1 ∧ le b 7 1 ≠ 3 then (.error unsup, s)
    else if !indexRule s p b then (.error (fitFail 2), s)
    else match indexTables s p b with
      | (.error f, s1) => (.error f, s1)
      | (.ok t, s1) =>
        if bf16sOk (bf16s t.1) && bf16sOk (bf16s t.2) then (.ok t, s1) else (.error { status := stBadDescriptor, detail := 0x10 }, s1)
  | 8 => if filterRule b then (ok, s) else (.error (fitFail 2), s)
  | _ => (ok, s)

/-- A new index (R285-R287). -/
def newIndex (p h : Nat) (b : List Byte) (t : List Byte × List Byte) : VIndex :=
  let v : VIndex :=
  { part := p, handle := h, metric := le b 5 1, home := le b 6 1, fmt := le b 7 1, dims := le b 8 2, m := le b 0x0A 1,
    nlist := le b 0x0C 4, cents := (bf16s t.1).map (·.toNat), subs := (bf16s t.2).map (·.toNat), statRef := le b 0x20 8,
    nprobe := le b 0x28 2, sample := le b 0x2A 2, cand := le b 0x2C 4, benchHi := le b 0x30 4, statDue := decide (le b 0x20 8 ≠ 0) }
  { v with charge := indexCharge v }

/-- The lowest free handle of a partition. -/
def freeHandle (s : State) (p : Nat) : Option Nat :=
  let used := ((s.objects.filter (fun e => decide (e.1 / 65536 = p))).map (fun e => e.1 % 65536 - 1))
  (lowestFree used 65535).map (· + 1)

/-- The bytes of which R134 and R287 take the digest. -/
def loadDigestBytes (kind : Nat) (b : List Byte) (t : List Byte × List Byte) : List Byte := if kind = 7 then b.take 64 ++ t.1 ++ t.2 else b

/-- A `LOAD` into a partition (R129-R134): handle and digest, or the failure. -/
def loadObject (s : State) (p kind handle : Nat) (b : List Byte) : Except Fail (Nat × List Byte) × State :=
  if !lenDeclared kind b then (.error (fitFail 1), s)
  else
    match contentCheck s p kind b with
    | (.error f, s1) => (.error f, s1)
    | (.ok t, s1) =>
      match if handle = 0 then freeHandle s1 p else some handle with
      | none => (.error (fitFail 6), s1)
      | some h =>
        let v := newIndex p h b t
        let extra := up64 b.length + (if kind = 7 then v.charge else 0)
        match takeCharge s1 p extra none with
        | (false, s2) => (.error (fitFail 5), s2)
        | (true, s2) =>
          let dig := sha3 (loadDigestBytes kind b t)
          let o : Obj := { kind := kind, bytes := b, f16x := decide (kind = 2) && f16Exact (bf16s b) }
          let s3 := { s2 with objects := tput s2.objects (65536 * p + h) o,
                              vidx := if kind = 7 then tput s2.vidx (65536 * p + h) v else s2.vidx }
          let pt := s3.part p
          let s4 := s3.setPart p { pt with
            chain := sha3 (padTo pt.chain 32 ++ leBytes 1 kind ++ leBytes 2 h ++ dig), nload := pt.nload + 1 }
          (.ok (h, dig), s4)

/-- Step 10 and effect of `LOAD`. -/
def doLoad (s : State) (id : Nat) (r : Req) : State :=
  let d := r.desc
  let kind := le d 0x0C 1
  let handle := le d 0x0E 2
  let len := le d 0x18 4
  if handle ≠ 0 ∧ (tget? s.objects (65536 * r.part + handle)).isSome then failReq s id r { status := stBadDescriptor, detail := 0x0E }
  else if !lenRange kind len then failReq s id r (fitFail 1)
  else
    match refRead s r.part (le d 0x10 8) len with
    | (none, s1) => failReq s1 id r { status := stIntegrity }
    | (some b, s1) =>
      let r1 := { r with cap := r.cap.map (fun k => { k with input := b }) }
      match loadObject s1 r.part kind handle b with
      | (.error f, s2) => failReq s2 id r1 f
      | (.ok (h, dig), s2) => complete s2 id r1 stOk 0 h (le dig 0 4) (le dig 4 4) 0

/-- `LOAD` (R131). -/
def execLoad (ring : Fin 4096) (s : State) : Res := .next (admitOp s ring.val 0x30 doLoad)

/-- Step 10 and effect of `UNLOAD` (R133). -/
def doUnload (s : State) (id : Nat) (r : Req) : State :=
  let k := 65536 * r.part + le r.desc 0x0C 2
  match tget? s.objects k with
  | some o =>
    if o.unloading then failReq s id r { status := stBadDescriptor, detail := 0x0C }
    else complete { s with objects := tput s.objects k { o with unloading := true } } id r stOk 0
        (objRefs s r.part (le r.desc 0x0C 2)) 0 0 0
  | none => failReq s id r { status := stBadDescriptor, detail := 0x0C }

/-- `UNLOAD` (R133). -/
def execUnload (ring : Fin 4096) (s : State) : Res := .next (admitOp s ring.val 0x31 doUnload)

/-- `OBJECT_FREE` (R133): the last reference to an unloading object has ended; the object is freed and its handle becomes
free. With index parameters the index goes. -/
def execObjectFree (part : Fin 32) (handle : Nat) (s : State) : Res :=
  if handle = 0 ∨ handle > 65535 then .fault (.operand "handle outside 1-65535")
  else
    let k := 65536 * part.val + handle
    match tget? s.objects k with
    | some o =>
      if o.unloading && decide (objRefs s part.val handle = 0) then
        let s1 := if o.kind = 7 then (recordsOf s k).foldl dropUnit s else s
        .next { s1 with objects := tdel s1.objects k, vidx := if o.kind = 7 then tdel s1.vidx k else s1.vidx }
      else .next s
    | none => .next s

end Sys2Proof.Machine
end

