-- ==== Sys2Proof/Machine/Directory.lean ====
section
/-! DEFINITION. The shelf directory (R67, R70, R76-R80, R86, R93, R272) and the pull table (R405). -/
namespace Sys2Proof.Machine

/-! ### Names and lookup (R67, R76, R77, R93) -/

/-- The hash of a shelf key (R76). -/
def keyHash (s : State) (k : ShelfKey) : Nat :=
  leNat (kmac128 s.dir.key (leBytes 1 k.part ++ leBytes 1 k.layer ++ leBytes 1 k.group ++ [0] ++ leBytes 2 k.tenant ++ [0, 0] ++
    leBytes 8 k.conv) 8 "XCN3-DIR")

/-- A conversation mark hides a shelf (R93). -/
def hidden (s : State) (sh : Shelf) : Bool :=
  s.dir.marks.any (fun m => decide (m.part = sh.key.part) && decide (m.tenant = sh.key.tenant) && decide (m.conv = sh.key.conv) &&
    decide (sh.createSeq < m.seqs.getD (shelfDie sh) 0) && !m.done.contains (shelfDie sh))

/-- A lookup matches an entry: live or lost, with the key, not hidden by a mark and not retired under R272. Equal keys have equal
hashes. -/
def matchesKey (s : State) (k : ShelfKey) (sh : Shelf) : Bool :=
  decide (sh.key = k) && decide (sh.state ≠ .dropping) && !hidden s sh && !s.dir.retired.contains (shelfDie sh, sh.place)

/-- The shelf that a key names. -/
def lookup (s : State) (k : ShelfKey) : Option (Nat × Shelf) := s.dir.shelves.find? (fun e => matchesKey s k e.2)

/-! ### Insertion (R77, R78) -/

/-- The two candidate buckets of a hash. -/
def bucket1 (h : Nat) : Nat := bits h 42 20
def bucket2 (h : Nat) : Nat := if bits h 22 20 = bucket1 h then bucket1 h ^^^ 1 else bits h 22 20
/-- The other candidate bucket of an entry. -/
def otherBucket (h b : Nat) : Nat := if b = bucket1 h then bucket2 h else bucket1 h

/-- An entry slot of a quarter is taken, or retired under R272. -/
def slotTaken (d : Dir) (q : Nat) (at_ : DirAt) : Bool :=
  d.shelves.any (fun e => decide (shelfDie e.2 = q) && decide (e.2.place = at_)) || d.retired.contains (q, at_)

/-- The first free entry of a bucket. -/
def freeEntry (d : Dir) (q b : Nat) : Option DirAt := ((List.range 4).map (DirAt.bucket b)).find? (fun a => !slotTaken d q a)

/-- The first free stash entry. -/
def freeStash (d : Dir) (q : Nat) : Option DirAt := ((List.range 64).map DirAt.stash).find? (fun a => !slotTaken d q a)

/-- The entries of a bucket with their shelves. -/
def bucketShelves (d : Dir) (q b : Nat) : List (Nat × DirAt) :=
  d.shelves.filterMap (fun e => match e.2.place with
    | .bucket b' i => if shelfDie e.2 = q ∧ b' = b then some (e.1, .bucket b' i) else none
    | .stash _ => none)

/-- A shelf at another entry. -/
def placeAt (d : Dir) (i : Nat) (at_ : DirAt) : Dir :=
  match tget? d.shelves i with
  | some sh => { d with shelves := tput d.shelves i { sh with place := at_ } }
  | none => d

/-- The displacement walk of R78: `last` is the shelf placed last, which has just taken the entry of the shelf `i`; the free
values choose the entry displaced next. It answers the directory after the moves and their number. -/
def displace (q : Nat) : Nat → Nat → Dir → Nat → Nat → Nat → Option (Dir × Nat)
  | 0, _, _, _, _, _ => none
  | fuel + 1, n, d, i, b, moves =>
    match tget? d.shelves i with
    | none => none
    | some sh =>
      let ob := otherBucket sh.hash b
      match freeEntry d q ob with
      | some a => some (placeAt d i a, moves + 1)
      | none =>
        let cs := (bucketShelves d q ob).filter (fun e => decide (e.1 ≠ i))
        match cs[Config.freeNat n % max cs.length 1]? with
        | none => none
        | some (j, a) => displace q fuel (n + 1) (placeAt d i a) j ob (moves + 1)

/-- Where a new entry of a hash goes: the place, the directory after the moves, and the length of the path. -/
def insertAt (s : State) (h : Nat) : Option (DirAt × Dir × Nat) :=
  let q := h / 2 ^ 62 % 4
  let d := s.dir
  match freeEntry d q (bucket1 h) with
  | some a => some (a, d, 0)
  | none =>
    match freeEntry d q (bucket2 h) with
    | some a => some (a, d, 0)
    | none =>
      let cs := bucketShelves d q (bucket1 h)
      let walk := match cs[Config.freeNat s.free % max cs.length 1]? with
        | none => none
        | some (j, a) =>
          -- the entry that the new shelf takes is not free for the moves
          (displace q 256 (s.free + 1) { d with retired := (q, a) :: d.retired } j (bucket1 h) 0).map (fun r =>
            (a, { r.1 with retired := d.retired }, r.2))
      match walk with
      | some r => some r
      | none => (freeStash d q).map (fun a => (a, d, 0))

/-- Entries in the stash of a quarter. -/
def stashCount (d : Dir) (q : Nat) : Nat :=
  (d.shelves.filter (fun e => decide (shelfDie e.2 = q) && (match e.2.place with | .stash _ => true | .bucket _ _ => false))).length

/-! ### Creation (R70, R80, R86) -/

/-- The profile digest of R70. -/
def profileDigest (prof cb seed : List Byte) : List Byte :=
  (sha3 (prof.take 4 ++ List.replicate 4 0 ++ prof.drop 8 ++ cb ++ seed)).take 16

/-- The bytes of an object, or none for handle 0. -/
def objBytes (s : State) (p h : Nat) : List Byte :=
  if h = 0 then [] else match tget? s.objects (65536 * p + h) with | some o => o.bytes | none => []

/-- The digest of a loaded profile. -/
def digestOfHandle (s : State) (p h : Nat) : List Byte :=
  let b := objBytes s p h
  profileDigest b (objBytes s p (le b 4 2)) (objBytes s p (le b 6 2))

/-- A new shelf of a profile, before it has its directory entry. -/
def freshShelf (s : State) (k : ShelfKey) (h base : Nat) : Shelf :=
  let b := objBytes s k.part h
  let pr := parseProfile b
  let cbo := tget? s.objects (65536 * k.part + pr.cb)
  { key := k, hash := keyHash s k, profH := h, prof := pr, cbTab := objBytes s k.part pr.cb, seed := leNat (objBytes s k.part pr.seed),
    f16x := match cbo with | some o => o.f16x | none => false,
    digest := digestOfHandle s k.part h, base := base, endPos := base, visible := base, start := base }

/-- Directory entries of a partition that are not free, without those retired under R272 (R86). -/
def shelfCount (s : State) (p : Nat) : Nat :=
  (s.dir.shelves.filter (fun e => decide (e.2.key.part = p) && !s.dir.retired.contains (shelfDie e.2, e.2.place))).length

/-- A shelf gets its directory entry, or the status says why not. The shelf-count limit is checked ahead of the quota, and the
quota ahead of the directory (DESIGN CHOICE, log entry 27). -/
def createShelf (s : State) (sh0 : Shelf) : Except Fail Nat × State :=
  let p := sh0.key.part
  let q := shelfDie sh0
  if shelfCount s p ≥ rdf s (pgPart p + 0x10C) 0 25 then (.error { status := stFull, detail := 0x03 }, s)
  else
    match takeCharge s p (shelfCharge sh0) none with
    | (false, s1) => (.error { status := stFull, detail := 0x01 }, s1)
    | (true, s1) =>
      let s2 := { s1 with free := s1.free + 257 }
      match insertAt s1 sh0.hash with
      | none =>
        (.error { status := stFull, detail := 0x02 }, raise (bump s2 (pgDir q + 0x108) 0 32 1) (pgDir q) 1 [])
      | some (a, d, moves) =>
        let (id, s3) := newId { s2 with dir := d }
        let (body, s4) := draw s3
        let cs := s4.dir.createSeq.getD q 0
        let sh := { sh0 with place := a, createSeq := cs, body := body % 2 ^ 64 }
        let before := stashCount s4.dir q
        let s5 := { s4 with dir := { s4.dir with
          shelves := tput s4.dir.shelves id sh, createSeq := modAt (fun n => (n + 1) % 2 ^ 32) q s4.dir.createSeq } }
        let s6 := if moves > rdf s5 (pgDir q + 0x104) 16 9 then wrf s5 (pgDir q + 0x104) 16 9 moves else s5
        let s7 := if before < 48 ∧ stashCount s6.dir q ≥ 48 then raise s6 (pgDir q) 0 [] else s6
        (.ok id, s7)

/-- A directory entry becomes free; objects it held lose the reference. -/
def dropEntry (s : State) (i : Nat) : State := { s with dir := { s.dir with shelves := tdel s.dir.shelves i } }

/-! ### The pull table (R405) -/

/-- Order of the pull table. -/
def pullKey (conv tenant layer group : Nat) : Nat := ((conv * 2 ^ 16 + tenant) * 2 ^ 8 + layer) * 2 ^ 8 + group

/-- Entry `i` of the pull table. -/
def pullEntry (s : State) (p i : Nat) : Option (List Byte) × State := devRead s p (refAddr (rd64 s (pgPart p + 0x130)) + 32 * i) 32

/-- Bisection over entries `lo` to `hi - 1`. -/
def pullBisect (p want : Nat) : Nat → State → Nat → Nat → Option (List Byte) × State
  | 0, s, _, _ => (none, s)
  | fuel + 1, s, lo, hi =>
    if lo ≥ hi then (none, s)
    else
      let mid := (lo + hi) / 2
      match pullEntry s p mid with
      | (none, s1) => (none, s1)
      | (some e, s1) =>
        let k := pullKey (le e 0 8) (le e 8 2) (le e 10 1) (le e 11 1)
        if k = want then (some e, s1)
        else if k < want then pullBisect p want fuel s1 (mid + 1) hi else pullBisect p want fuel s1 lo mid

/-- The pull-table entry of a shelf key. -/
def pullFind (s : State) (k : ShelfKey) : Option (List Byte) × State :=
  pullBisect k.part (pullKey k.conv k.tenant k.layer k.group) 18 s 0 (min 65536 (rdf s (pgPart k.part + 0x138) 0 17))

end Sys2Proof.Machine
end

