-- ==== Sys2Proof/Machine/Mirror.lean ====
section
/-! DEFINITION. Peers, mirror links and the entries they carry (R404, R410-R417). -/
namespace Sys2Proof.Machine

/-! ### Peers and inboxes (R404, R412) -/

/-- Words of peer entry `i`. -/
def peerWord (s : State) (p i w : Nat) : Nat := rd s (pgPart p + 0x400 + 16 * i + 4 * w)
def peerValid (s : State) (p i : Nat) : Bool := bit (peerWord s p i 1) 31
def peerNode (s : State) (p i : Nat) : Nat := peerWord s p i 0
def peerQpn (s : State) (p i : Nat) : Nat := 0x100000 + bits (peerWord s p i 1) 0 20
def peerSlot (s : State) (p i : Nat) : Nat := bits (peerWord s p i 1) 24 6
def peerRkey (s : State) (p i : Nat) : Nat := peerWord s p i 2

/-- Bytes of a sub-inbox and of its ring. The sender takes its own `IB_SIZE` for the peer's (DEDUCED, log entry 31). -/
def inboxBytes (s : State) (p : Nat) : Nat := 2 ^ (20 + rdf s (pgPart p + 0x148) 0 4)
def inboxRing (s : State) (p : Nat) : Nat := inboxBytes s p - 64
def inboxOn (s : State) (p : Nat) : Bool := decide (rdf s (pgPart p + 0x148) 4 1 = 1)

def State.subIn (s : State) (p peer : Nat) : SubInbox := tget {} s.sub (64 * p + peer)
def State.setSub (s : State) (p peer : Nat) (v : SubInbox) : State := { s with sub := tset {} s.sub (64 * p + peer) v }

/-- A WRITE without immediate into the inbox of a peer. -/
def inboxWrite (s : State) (p peer off : Nat) (b : List Byte) : State :=
  postMsg s (peerQpn s p peer)
    { kind := .mirror, tclass := (match tget? s.qps (peerQpn s p peer) with | some x => qpClass x | none => 0),
      va := peerSlot s p peer * inboxBytes s p + off, rkey := peerRkey s p peer, bytes := b }

/-! ### Entries (R413) -/

/-- A mirror entry. -/
def meEntry (kind flags seq : Nat) (k : ShelfKey) (pos arg : Nat) (body : List Byte) : List Byte :=
  let len := up64 (32 + body.length)
  padTo (leBytes 1 kind ++ leBytes 1 flags ++ leBytes 2 0 ++ leBytes 4 len ++ leBytes 4 seq ++ leBytes 2 k.tenant ++ leBytes 1 k.layer ++
    leBytes 1 k.group ++ leBytes 8 k.conv ++ leBytes 4 pos ++ leBytes 4 arg ++ body) len

/-- An entry goes out towards a peer with the padding that its ring needs, and `IB_PI` after it; none where there is no room. -/
def sendEntry (s : State) (p peer : Nat) (b : List Byte) : Option State :=
  let sb := s.subIn p peer
  let n := inboxRing s p
  let pos := sb.sent % n
  let pad := if pos + b.length > n then n - pos else 0
  if sb.sent - sb.ackd + pad + b.length > n then none
  else
    let s1 := if pad = 0 then s else inboxWrite s p peer (64 + pos) (padTo (leBytes 1 0 ++ leBytes 3 0 ++ leBytes 4 pad) pad)
    let s2 := inboxWrite s1 p peer (64 + (pos + pad) % n) b
    let s3 := inboxWrite s2 p peer 0 (leBytes 8 (sb.sent + pad + b.length))
    some (s3.setSub p peer { sb with sent := sb.sent + pad + b.length })

/-- The `ME_SEQ` of an entry. -/
def meSeq (b : List Byte) : Nat := le b 8 4

/-- The unsent entries of a link go out while there is room. -/
def drainLink (s : State) (l : Nat) : Nat → State
  | 0 => s
  | n + 1 =>
    match tget? s.links l with
    | none => s
    | some x =>
      match x.backlog with
      | [] => s
      | b :: rest =>
        match sendEntry s x.part x.peer b with
        | none => s
        | some s1 =>
          let x1 := { x with backlog := rest, sent := x.sent ++ [(meSeq b, (s1.subIn x.part x.peer).sent)],
                             since := match x.since with | some t => some t | none => some (stewardMs s) }
          drainLink { s1 with links := tput s1.links l x1 } l n

/-- A link is cut: it is gone, and its shelf is marked (R414-R416). -/
def cutLink (s : State) (l : Nat) (degrade : Bool) : State :=
  match tget? s.links l with
  | none => s
  | some x =>
    let s1 := { s with links := tdel s.links l }
    match s1.shelf? x.shelf with
    | some sh => s1.setShelf x.shelf { sh with link := none, seeding := false, degraded := sh.degraded || degrade }
    | none => s1

/-- An entry is put on a link. Under `MIRROR-ASYNC` an overflow of the backlog cuts the link (R415). -/
def pushEntry (s : State) (l kind flags : Nat) (k : ShelfKey) (pos arg : Nat) (body : List Byte) : State :=
  match tget? s.links l with
  | none => s
  | some x =>
    let b := meEntry kind flags (x.seq + 1) k pos arg body
    let x1 := { x with seq := x.seq + 1, backlog := x.backlog ++ [b] }
    let s1 := drainLink { s with links := tput s.links l x1 } l x1.backlog.length
    match tget? s1.links l with
    | none => s1
    | some y =>
      if !y.sync && decide ((y.backlog.map (·.length)).sum > inboxBytes s y.part) then
        raise (cutLink s1 l true) (pgPart y.part) 2 []
      else s1

/-- The last `ME_SEQ` of a link. -/
def linkSeq (s : State) (l : Nat) : Nat := match tget? s.links l with | some x => x.seq | none => 0

/-- A link is (to be) synchronous; an append made during its seed waits for it too. -/
def linkSync (s : State) (l : Nat) : Bool := match tget? s.links l with | some x => x.sync | none => false

/-! ### Records of a shelf (R413) -/

/-- Stored records of a series for positions `pos` to `pos + n - 1`. -/
def seriesRecords (sh : Shelf) (series pos n : Nat) : List Byte :=
  let t := serT sh.prof series
  let b := serB sh.prof series
  (List.range n).flatMap (fun i =>
    let q := pos + i - sh.base
    match getDrawer sh series (q / t) with
    | some d => padTo (bslice d.data (q % t * b) b) b
    | none => List.replicate b 0)

/-- The body of a `RECORDS` entry. -/
def recordsBody (sh : Shelf) (pos n : Nat) : List Byte :=
  (List.range (2 * profH sh.prof)).flatMap (fun j => pad64 (seriesRecords sh j pos n))

/-- Tokens that one `RECORDS` entry of a shelf holds at most, within 256 KiB. -/
def recordsMax (sh : Shelf) : Nat :=
  let per := ((List.range (2 * profH sh.prof)).map (serB sh.prof)).sum
  max 1 ((262144 - 64 - 128 * profH sh.prof) / max per 1)

/-- `RECORDS` entries for a range; `last` marks the final one. -/
def pushRecords (s : State) (l : Nat) (sh : Shelf) (last : Bool) : Nat → Nat → Nat → State
  | 0, _, _ => s
  | fuel + 1, pos, n =>
    if n = 0 then s
    else
      let m := min n (recordsMax sh)
      let s1 := pushEntry s l 2 (if last && decide (m = n) then 1 else 0) sh.key pos m (recordsBody sh pos m)
      pushRecords s1 l sh last fuel (pos + m) (n - m)

/-- The entries of an append, with the number of the one that carries `LAST`; none where the shelf has no link. -/
def mirrorAppend (s : State) (sh : Shelf) (pos n : Nat) : Option Nat × State :=
  match sh.link with
  | none => (none, s)
  | some l =>
    let s1 := pushRecords s l sh true (n + 1) pos n
    (if linkSync s1 l then some (linkSeq s1 l) else none, s1)

/-- A `TRIM` entry, with its number where the trim waits for the partner (R415). -/
def mirrorTrim (s : State) (sh : Shelf) (p form : Nat) : Option Nat × State :=
  match sh.link with
  | none => (none, s)
  | some l =>
    let s1 := pushEntry s l 3 0 sh.key p form []
    (if linkSync s1 l ∧ form = 1 then some (linkSeq s1 l) else none, s1)

/-- A `DROP` entry (R415). Once it is sent, the link has no more to carry. -/
def mirrorDrop (s : State) (sh : Shelf) : State :=
  match sh.link with
  | none => s
  | some l => pushEntry s l 4 0 sh.key 0 0 []

/-- An entry of a shelf's link has been acknowledged, or the shelf has no link any more. -/
def mirrorOk (s : State) (sh : Shelf) (w : Option Nat) : Bool :=
  match w, sh.link with
  | none, _ => true
  | some _, none => true
  | some n, some l => match tget? s.links l with | some x => decide (n ≤ x.acks) | none => true

end Sys2Proof.Machine
end

