-- ==== Sys2Proof/Machine/Damage.lean ====
section
/-! DEFINITION. Damaged and lost shelves (R95, R270, R271), the end of an `ATTEND`, and the loss of what lines of no drawer hold (R91, R272, R273,
R305). -/
namespace Sys2Proof.Machine

/-! ### A shelf that is marked lost or dropped (R95) -/

/-- The operations of a shelf end when it is dropped or marked lost: a tail trim that has set `END` with `OK`, every other
operation that is not an `ATTEND` with `LOST`, also one that a waiting tail trim still holds unjudged, of which R95 does not speak (DESIGN CHOICE, log
entry 145). -/
def endShelfOps (s : State) (i : Nat) : State :=
  match s.shelf? i with
  | none => s
  | some sh =>
    let ops := s.reqs.filter (fun e => decide (e.2.shelf = some i) && decide (dOpcode e.2.desc ≠ 0x01))
    let s1 := ops.foldl (fun s e =>
      match sh.tails.find? (fun t => decide (t.req = e.1)) with
      | some t => complete s e.1 e.2 stOk 0 t.pos 0 0 0
      | none => complete s e.1 e.2 stLost 0 0 0 0 0) s
    match s1.shelf? i with
    | none => s1
    | some x => s1.setShelf i { x with appends := [], trim := none, tails := [], held := [], pins := [] }

/-- A link that a shelf no longer needs is removed without a mark. -/
def unlink (s : State) (i : Nat) : State :=
  match s.shelf? i with
  | none => s
  | some sh =>
    match sh.link with
    | none => s
    | some l => { (s.setShelf i { sh with link := none, seeding := false }) with links := tdel s.links l }

/-- A shelf is marked lost. -/
def markLost (s : State) (i : Nat) : State :=
  match s.shelf? i with
  | none => s
  | some sh => if sh.state ≠ .live then s else unlink (endShelfOps (s.setShelf i { sh with state := .lost, lastScored := none }) i) i

/-- The data of the event of R271 (R477). -/
def damageData (k : ShelfKey) (stack line : Nat) : List (List Byte) :=
  [leBytes 1 k.part ++ leBytes 2 k.tenant ++ leBytes 1 k.layer ++ leBytes 1 k.group ++ leBytes 1 stack ++ leBytes 4 line,
   leBytes 8 k.conv]

/-- A drawer of a shelf is found damaged: in HBM at a line of a stack, or in a cabinet unit (R271). -/
def damage (s : State) (i : Nat) (where_ : Nat × Nat ⊕ Nat) : State :=
  match s.shelf? i with
  | none => s
  | some sh =>
    if sh.state ≠ .live then s
    else
      let s1 := markLost s i
      let s2 := match s1.shelf? i with | some x => s1.setShelf i { x with damaged := true } | none => s1
      match where_ with
      | .inl (k, line) => raiseG s2 (pgHbm k) 2 (damageData sh.key k line)
      | .inr u => raiseG s2 pgCab 7 (damageData sh.key 0xFF (u % 2 ^ 32))

/-! ### Booth jobs of a request, and its end (R206, R219, R221) -/

/-- The jobs of a booth, the running one first. -/
def boothJobs (b : Booth) : List Job := b.job.toList ++ b.queue

/-- Feeder slots that no job names any more are freed. -/
def freeSlots (s : State) (f : Nat) : State :=
  let used := (List.range 512).flatMap (fun b => (boothJobs (s.booth (boothNo f b))).map (·.slot))
  let fs := s.fstack f
  s.setFstack f { fs with slots := fs.slots.filter (fun e => used.contains e.1) }

/-- Jobs are discarded: queued ones at once, a running one at its next step end (R219, R221). -/
def dropJobs (s : State) (gone : Nat → Job → Bool) : State :=
  let s1 := { s with booths := s.booths.map (fun e =>
    (e.1, { e.2 with queue := e.2.queue.filter (fun j => !gone e.1 j),
                     stopReq := e.2.stopReq || (match e.2.job with | some j => gone e.1 j | none => false) })) }
  (List.range 8).foldl freeSlots s1

/-- The jobs of a request are discarded. -/
def dropReqJobs (s : State) (id : Nat) : State := dropJobs s (fun _ j => decide (j.req = id))

/-- An `ATTEND` ends without a partial. -/
def endAttend (s : State) (id : Nat) (r : Req) (f : Fail) : State := failReq (dropReqJobs s id) id r f

/-! ### Structures in HBM (R91, R272, R273, R305; where each lies is open, log entry 86) -/

/-- The items of an index whose ID-map lines have failed are lost (R305). -/
def loseItems (v : VIndex) (ids : List Nat) : VIndex :=
  { v with items := v.items.map (fun i => if ids.contains i.id then { i with lost := true, failing := false } else i) }

/-- The number of a directory entry within its quarter. -/
def entryNo : DirAt → Nat
  | .bucket b i => 4 * b + i
  | .stash i => 4194304 + i

/-- The entry of a quarter with a number. -/
def entryAt (n : Nat) : DirAt := if n < 4194304 then .bucket (n / 4) (n % 4) else .stash (n - 4194304)

/-- Both copies of a directory line have failed (R272): its entry matches no lookup any more and is retired, the requests on its shelf end with
`LOST`, and the storage stays held. -/
def loseEntry (s : State) (die idx : Nat) : State :=
  if s.dir.retired.contains (die, entryAt idx) then s
  else
    let s1 := (s.dir.shelves.filter (fun e => decide (shelfDie e.2 = die) && decide (e.2.place = entryAt idx))).foldl (fun s e =>
      let at_ := s.reqs.filter (fun q => decide (q.2.shelf = some e.1) && decide (dOpcode q.2.desc = 0x01))
      at_.foldl (fun s q => endAttend s q.1 q.2 { status := stLost }) (endShelfOps s e.1)) s
    { s1 with dir := { s1.dir with retired := s1.dir.retired ++ [(die, entryAt idx)] } }

/-- The entry of the cabinet map that a unit stands in: its logical unit. -/
def mapNo (e : Nat × CabUnit) : Nat := match e.2.vslot with | some (u, _, _) => u | none => e.1

/-- Items of an index whose stored record can be read no longer; a search that still uses an older version of its lists finds that as well (R305). -/
def failRecord (s : State) (n : Nat) : State :=
  let k := n / 2 ^ 32 - 1
  let f := fun (v : VIndex) => { v with items := v.items.map (fun i => if i.loc = n % 2 ^ 32 ∧ i.lost = false then { i with failing := true } else i) }
  match tget? s.vidx k with
  | none => s
  | some v =>
    { s with vidx := tput s.vidx k (f v), reqs := s.reqs.map (fun e =>
        if e.2.srch.isSome && decide (65536 * e.2.part + le e.2.desc 0x0C 2 = k) then
          (e.1, { e.2 with srch := e.2.srch.map (fun x => { x with old := x.old.map f }) })
        else e) }

/-- The map entry of a unit is lost (R273): a retained copy is released, a drawer in `CAB` is damaged when it is next read or patrolled, and a stored
record is lost with its item (R305). -/
def loseUnit (s : State) (e : Nat × CabUnit) : State :=
  if retainedBy s e.1 e.2 then releaseRetained s e.1 e.2
  else
    let s1 := dropUnit s e.1
    if e.2.vslot.isSome then failRecord s1 e.1 else s1

/-- What a line held is lost, in both of its copies where it has two. A structure that is not there is no loss. What a score segment, a spilled queue
pair, a rule shadow or device memory has lost stays poisoned for its reader. -/
def loseUse (s : State) (k line : Nat) (u : LineUse) : State :=
  let copyOn := fun (die : Nat) => !isFront k && (decide (stackDie k = die) || (backs die).any (fun q => (s.hbmc q).fenced))
  let index := fun (i : Nat) (on : VIndex → Bool) (f : VIndex → VIndex) =>
    match tget? s.vidx i with
    | some v => if on v then { s with vidx := tput s.vidx i (f v) } else s
    | none => s
  let onHome := fun (v : VIndex) => decide (stackDie k = v.home)
  match u with
  | .entry die idx _ => if copyOn die && decide (idx < 4194368) then loseEntry s die idx else s
  | .table i _ =>
    match s.shelf? i with
    | none => s
    | some sh => if copyOn (shelfDie sh) then damage s i (.inl (k, line)) else s
  | .summary i head idx =>
    match s.shelf? i with
    | none => s
    | some sh =>
      if homeStack s sh.key.part (shelfDie sh) ≠ k then s
      else
        let hit := fun (d : Drawer) => decide (d.series = 2 * head) && decide (d.idx = idx)
        let s1 := s.setShelf i { sh with drawers := sh.drawers.map (fun d => if hit d then { d with sumLost := true } else d) }
        if sh.drawers.any hit then raise s1 (pgDir (shelfDie sh)) 2 [] else s
  | .map unit =>
    if isFront k then s
    else
      let s1 := (s.cab.units.filter (fun e => decide (mapNo e / 8 = unit / 8))).foldl loseUnit s
      s1.setHbm k (wroteLines (s1.hbmc k) (fun l => decide (l = line)))
  | .tables i _ => index i (fun v => indexOn v k) (fun v => { v with tblBad := true })
  | .ids i l _ => index i (fun v => indexOn v k) (fun v => loseItems v l)
  | .list i l => index i onHome (fun v => { v with listBad := if v.listBad.contains l then v.listBad else v.listBad ++ [l] })
  | .bench i => index i onHome (fun v => { v with benchBad := true })
  | .clear | .segment _ _ | .spill _ | .shadow _ _ | .dev _ => s

/-- What the other copy of a line holds, where there are two. -/
def otherCopy : LineUse → Option LineUse
  | .entry d i c => some (.entry d i (1 - c))
  | .table i c => some (.table i (1 - c))
  | .tables i c => some (.tables i (1 - c))
  | .ids i l c => some (.ids i l (1 - c))
  | _ => none

/-- One copy of a line has failed: the other one serves, and the bad one is written again whole; where the other has failed as well, what they held is
lost (R272). -/
def lostCopy (s : State) (k line : Nat) (u : LineUse) : State :=
  let mend := fun (s : State) => s.setHbm k (wroteLines (s.hbmc k) (fun l => decide (l = line)))
  match otherCopy u with
  | none => loseUse s k line u
  | some w =>
    match useNoted s (fun x => decide (x = w)) with
    | [] => mend s
    | (k2, l2, _) :: _ =>
      let (o, s1) := readLine s k2 l2
      if o = .good ∨ o = .fixed then mend s1 else loseUse s1 k line u

/-- A controller reads a line of no drawer: whether what it holds cannot be had from it, and the state with that loss. -/
def readUsed (acc : Bool × State) (e : Nat × Nat × LineUse) : Bool × State :=
  let (o, s1) := readLine acc.2 e.1 e.2.1
  if o = .good ∨ o = .fixed then (acc.1, s1) else (true, lostCopy s1 e.1 e.2.1 e.2.2)

/-- The lines of structures are read, as far as a read would notice anything: whether one of them was bad, and the state with what was lost. -/
def readUse (s : State) (f : LineUse → Bool) : Bool × State := (useNoted s f).foldl readUsed (false, s)

/-- The directory lines that a lookup of a key reads, and the drawer table of the shelf it finds (R76, R77, R272). -/
def readDir (s : State) (k : ShelfKey) : State :=
  let h := keyHash s k
  let s1 := (readUse s (fun u => match u with
    | .entry d idx _ => decide (d = h / 2 ^ 62 % 4) && (decide (idx / 4 = bucket1 h) || decide (idx / 4 = bucket2 h) || decide (idx ≥ 4194304))
    | _ => false)).2
  match lookup s1 k with
  | some (i, _) => (readUse s1 (fun u => match u with | .table j _ => decide (j = i) | _ => false)).2
  | none => s1

end Sys2Proof.Machine
end

