-- ==== Sys2Proof/Machine/Cabinet.lean ====
section
/-! DEFINITION. Damaged and lost shelves (R95, R270, R271), blocks of the cabinet (R250-R262), and the freeing of drawer places
(R235-R240). -/
namespace Sys2Proof.Machine

/-! ### Erase blocks (R250, R251, R253): TLC block b of flash die n is number 4096 n + b; blocks 4,000-4,095 of a die make up the
SLC reserve (log entry 33) -/

/-- TLC erase blocks of the cabinet. -/
def tlcBlocks : Nat := 128 * 4000

/-- An erase block of the TLC area. -/
def isTlc (b : Nat) : Bool := decide (b % 4096 < 4000)

def eblock (s : State) (b : Nat) : EBlock := tget {} s.cab.blocks b
def setEblock (s : State) (b : Nat) (v : EBlock) : State := { s with cab := { s.cab with blocks := tset {} s.cab.blocks b v } }

/-- A free erase block of a channel with the lowest erase count: one never used, or else the best of those used before. -/
def freeBlock (s : State) (ch : Nat) : Option Nat :=
  let fresh := (List.range (s.cab.blocks.length + 1)).map (fun i => 4096 * (4 * ch + i % 4) + i / 4)
  match fresh.find? (fun b => (tget? s.cab.blocks b).isNone && decide (b % 4096 < 4000)) with
  | some b => some b
  | none =>
    ((s.cab.blocks.filter (fun e => decide (e.1 / 4096 / 4 = ch) && isTlc e.1 && !e.2.prog && !e.2.bad)).foldl (fun (o : Option (Nat × Nat)) e =>
      match o with
      | some x => if e.2.erases < x.2 then some (e.1, e.2.erases) else o
      | none => some (e.1, e.2.erases)) none).map (·.1)

/-- New erase blocks are opened for the stripes to come, one per channel. -/
def openStripes (s : State) : State :=
  let bs := (List.range 32).filterMap (freeBlock s)
  if bs.length = 32 then
    bs.foldl (fun s b => setEblock s b { eblock s b with prog := true, reads := 0 })
      { s with cab := { s.cab with openB := bs, stripe := 0 } }
  else { s with cab := { s.cab with openB := [], stripe := 0 } }

/-- Data bytes of a stripe. -/
def stripeBytes : Nat := 31 * 16384

/-- The data pages of a stripe that a part from `start` on falls into, with its bytes there. -/
def stripePages (start len : Nat) : List (Nat × Nat) :=
  (List.range 31).filterMap (fun i =>
    let lo := max start (16384 * i)
    let hi := min (start + len) (16384 * (i + 1))
    if lo < hi then some (i, hi - lo) else none)

/-- The part of a unit in the open stripe is programmed, page by page, each into the open erase block of its channel (R251). -/
def placePart (s : State) (e : Nat × Nat × Nat) : State :=
  match tget? s.cab.units e.1 with
  | none => s
  | some u =>
    let new := (stripePages e.2.1 e.2.2).map (fun x => (s.cab.openB.getD x.1 0, s.cab.stripe, x.2))
    let s1 := new.foldl (fun s x => setEblock s x.1 { eblock s x.1 with valid := (eblock s x.1).valid + x.2.2 }) s
    { s1 with cab := { s1.cab with units := tput s1.cab.units e.1 { u with pieces := u.pieces ++ new } } }

/-- What of a part lies beyond the open stripe, as it stands in the next one. -/
def nextPart (e : Nat × Nat × Nat) : Option (Nat × Nat × Nat) :=
  let start := max e.2.1 stripeBytes
  if e.2.1 + e.2.2 > start then some (e.1, start - stripeBytes, e.2.1 + e.2.2 - start) else none

/-- The open stripe is programmed once write staging holds all of it. -/
def programStripe (s : State) : State :=
  if s.cab.fill < stripeBytes then s
  else
    let s0 := if s.cab.openB.isEmpty ∨ s.cab.stripe ≥ 1024 then openStripes s else s
    if s0.cab.openB.isEmpty then s0
    else
      let s1 := s0.cab.staged.foldl placePart s0
      { s1 with cab := { s1.cab with staged := s1.cab.staged.filterMap nextPart, fill := s1.cab.fill - stripeBytes, stripe := s1.cab.stripe + 1 } }

/-- A block of a unit is written into staging; `CAB_RATIO` goes by the blocks of drawers. -/
def stageUnit (s : State) (n : Nat) (u : CabUnit) : State :=
  let size := unitBytes u
  let c := s.cab
  programStripe { s with cab := { c with
    units := tput c.units n { u with wseq := c.wseq, pieces := [] }, wseq := (c.wseq + 1) % 2 ^ 32,
    staged := c.staged.filter (fun e => decide (e.1 ≠ n)) ++ [(n, c.fill, size)], fill := c.fill + size,
    ratioSum := if u.vslot.isSome then c.ratioSum else if c.ratioN ≥ 1048576 then c.ratioSum - c.ratioSum / c.ratioN + size else c.ratioSum + size,
    ratioN := if u.vslot.isSome then c.ratioN else min 1048576 (c.ratioN + 1) } }

/-- The erase blocks that hold a unit count one read for each of its pages (R254). -/
def countRead (s : State) (n : Nat) : State :=
  match tget? s.cab.units n with
  | some u => u.pieces.foldl (fun s x => setEblock s x.1 { eblock s x.1 with reads := (eblock s x.1).reads + 1 }) s
  | none => s

/-! ### Coding (R261) -/

/-- The class of a drawer: its format byte and its kind. -/
def drawerClass (p : Profile) (series : Nat) : Nat := serFmt p series + 256 * (series % 2)

/-- A frequency of a compression table. -/
def tblFreq (t : List Byte) (ctx sym : Nat) : Nat := le t (0x10 + 512 * ctx + 2 * sym) 2

/-- Every byte of a payload has a frequency in its context. -/
def tblCovers (t : List Byte) (payload : List Byte) : Bool :=
  let n := le t 5 1
  (payload.zip (List.range payload.length)).all (fun e => decide (tblFreq t (e.2 % n) e.1.toNat ≠ 0))

/-- The block that a drawer gives: `RAW`, or coded with the class's active table to a length that the spec leaves to the coder
(log entry 34). -/
def codeDrawer (s : State) (i : Nat) (sh : Shelf) (d : Drawer) : CabUnit :=
  let raw : CabUnit := { shelf := i, series := d.series, idx := d.idx, part := sh.key.part, table := 0, codeLen := 32768, hdr := drawerHeader sh d d.count }
  match tget? s.cab.active (drawerClass sh.prof d.series) with
  | none => raw
  | some t =>
    match tget? s.cab.tables t with
    | none => raw
    | some b =>
      let x := padTo d.data 32768
      let n := max 1 (Config.codedLength b x)
      if tblCovers b x ∧ n < 32768 then { raw with table := t, codeLen := n } else raw

/-- A new unit for a drawer. -/
def storeDrawer (s : State) (i : Nat) (sh : Shelf) (d : Drawer) : Nat × State :=
  let n := s.cab.nextUnit
  (n, stageUnit { s with cab := { s.cab with nextUnit := n + 1 } } n (codeDrawer s i sh d))

/-! ### Demotion to the cabinet and within HBM (R235-R240) -/

/-- A drawer of a shelf at a new location, whose lines are written whole, no longer moving. -/
def relocate (s : State) (i series idx : Nat) (l : Loc) : State :=
  match s.shelf? i with
  | none => s
  | some sh =>
    match getDrawer sh series idx with
    | none => s
    | some d =>
      let s1 := match locPlace l with | some q => wipePlace (askPlace s q) q | none => s
      s1.setShelf i (setDrawer sh { d with loc := l, moving := none })

/-- A drawer's stamp becomes now (R233). -/
def touch (s : State) (i series idx : Nat) : State :=
  match s.shelf? i with
  | none => s
  | some sh =>
    match getDrawer sh series idx with
    | none => s
    | some d => s.setShelf i (setDrawer sh { d with stamp := stampNow s })

/-- A drawer is no longer there. -/
def gone (i series idx : Nat) (s : State) : Bool :=
  match s.shelf? i with
  | some sh => (getDrawer sh series idx).isNone
  | none => true

/-- How an attempt to move a drawer ended: moved, not possible for a reason of R232, or to be made again with another drawer, this one
being damaged or gone. -/
inductive MoveEnd where
  | moved | full (detail : Nat) | again
deriving DecidableEq, Repr

/-- Why a demotion to T2 is not possible, if so: there is no cabinet tier (R535), the cabinet is read-only, or there is no share for it. Shelves
are discarded one at a time until there is share, or until what was wanted holds without it (R238); the shelf `own` is not one of them. -/
def t2Ready (s : State) (p : Nat) (own : Option Nat) (want : State → Bool) : Option Nat × State :=
  if !s.chip.cabCap then (some 0x06, s)
  else if s.cab.readOnly then (some 0x07, s)
  else
    let s1 := discardUntil (fun s => shareFits s p 1 || want s) p own (s.dir.shelves.length + 1) s
    (if shareFits s1 p 1 || want s1 then none else some 0x06, s1)

/-- A drawer moves from T1 to T2, unless the discards it takes have given what was wanted. -/
def toT2 (s : State) (p : Nat) (own : Option Nat) (want : State → Bool) (i series idx : Nat) : MoveEnd × State :=
  match t2Ready s p own want with
  | (some e, s1) => (.full e, s1)
  | (none, s1) =>
    if want s1 then (.moved, s1)
    else
      match s1.shelf? i with
      | none => (.again, s1)
      | some sh =>
        match getDrawer sh series idx with
        | none => (.again, s1)
        | some d =>
          match d.loc with
          | .clean _ u => (.moved, bump (relocate s1 i series idx (.cab u)) (pgPart p + 0x220) 16 16 1)
          | .hbm _ =>
            match readDrawer s1 d with
            | (some w, s2) => (.again, damage s2 i (.inl w))
            | (none, s2) =>
              let (u, s3) := storeDrawer s2 i sh d
              (.moved, bump (relocate s3 i series idx (.cab u)) (pgPart p + 0x220) 16 16 1)
          | _ => (.again, s1)

/-- A location moved to another place, its cabinet copy kept. -/
def moveLoc (l : Loc) (q : Place) : Loc :=
  match l with
  | .clean _ u => .clean q u
  | _ => .hbm q

/-- A drawer moves from T0 to a back stack that has a place for it. -/
def toT1 (s : State) (p i series idx k : Nat) : MoveEnd × State :=
  match s.shelf? i with
  | none => (.again, s)
  | some sh =>
    match getDrawer sh series idx, placeIn s sh series idx k with
    | some d, some q =>
      match readDrawer s d with
      | (some w, s1) => (.again, damage s1 i (.inl w))
      | (none, s1) => (.moved, bump (relocate s1 i series idx (moveLoc d.loc q)) (pgPart p + 0x220) 0 16 1)
    | _, _ => (.full 0x05, s)

/-- The candidates of at least an age in milliseconds. -/
def agedFrom (age : Nat) (l : List (Nat × Nat × Nat × Nat)) : List (Nat × Nat × Nat × Nat) := l.filter (fun e => decide (age ≤ e.2.2.2))

/-- The chosen drawer of T1 leaves it for the cabinet; with no choice the tier is reported full. -/
def sinkT1 (s : State) (p : Nat) (own : Option Nat) (want : State → Bool) (c : Option (Nat × Nat × Nat × Nat)) : Option (Option Nat) × State :=
  match c with
  | none => (some (some 0x05), s)
  | some (i, series, idx, _) =>
    match toT2 s p own want i series idx with
    | (.moved, s1) => (some none, s1)
    | (.full e, s1) => (some (some e), s1)
    | (.again, s1) => (none, s1)

/-- One attempt to free a place in T1 (R240); the choice among equals is a free value. -/
def tryT1 (s : State) (p age : Nat) (own : Option Nat) (want : State → Bool) : Option (Option Nat) × State :=
  let (v, s0) := draw s
  sinkT1 s0 p own want (oldest (agedFrom age (eligibles s p false)) v)

/-- The engine frees a place in T1. A drawer found damaged is passed over. -/
def freeT1 (s : State) (p age : Nat) (own : Option Nat) (want : State → Bool) : Nat → Option Nat × State
  | 0 => (some 0x05, s)
  | fuel + 1 =>
    match tryT1 s p age own want with
    | (some r, s1) => (r, s1)
    | (none, s1) => freeT1 s1 p age own want fuel

/-- A drawer of T0 has a back stack to move to (R235). -/
def canLower (i : Nat) (s : State) : Bool :=
  match s.shelf? i with
  | some sh => (demoteStack s sh).isSome
  | none => false

/-- A drawer of T0 moves to the back stack that takes it (R235). -/
def lowerT0 (s : State) (p i series idx : Nat) : MoveEnd × State :=
  match s.shelf? i with
  | none => (.again, s)
  | some sh => match demoteStack s sh with
    | some k => toT1 s p i series idx k
    | none => (.full 0x05, s)

/-- A drawer of T0 for which T1 has freed a place moves there, unless what was wanted holds already. -/
def lowerAgain (s : State) (p i series idx : Nat) (want : State → Bool) : Option (Option Nat) × State :=
  if want s then (some none, s)
  else
    match lowerT0 s p i series idx with
    | (.moved, s1) => (some none, s1)
    | (.again, s1) => (none, s1)
    | (.full e, s1) => (some (some e), s1)

/-- The chosen drawer of T0 leaves it for a back stack; T1 gives a place up first where it has none left. -/
def sinkT0 (s : State) (p age fuel : Nat) (own : Option Nat) (want : State → Bool) (c : Option (Nat × Nat × Nat × Nat)) :
    Option (Option Nat) × State :=
  match c with
  | none => (some (some 0x05), s)
  | some (i, series, idx, _) =>
    match lowerT0 s p i series idx with
    | (.moved, s1) => (some none, s1)
    | (.again, s1) => (none, s1)
    | (.full _, s1) =>
      match freeT1 s1 p age own (fun s => want s || canLower i s) fuel with
      | (some e, s2) => (some (some e), s2)
      | (none, s2) => lowerAgain s2 p i series idx want

/-- One attempt to free a place in T0 (R240); the choice among equals is a free value. -/
def tryT0 (s : State) (p age fuel : Nat) (own : Option Nat) (want : State → Bool) : Option (Option Nat) × State :=
  let (v, s0) := draw s
  sinkT0 s0 p age fuel own want (oldest (agedFrom age (eligibles s p true)) v)

/-- The engine frees a place in T0. -/
def freeT0 (s : State) (p age : Nat) (own : Option Nat) (want : State → Bool) : Nat → Option Nat × State
  | 0 => (some 0x05, s)
  | fuel + 1 =>
    match tryT0 s p age (fuel + 1) own want with
    | (some r, s1) => (r, s1)
    | (none, s1) => freeT0 s1 p age own want fuel

/-- A drawer of a shelf has a free place that it may take. -/
def roomFor (i series idx : Nat) (s : State) : Bool :=
  match s.shelf? i with
  | some sh => (findPlace s sh series idx).isSome
  | none => false

/-- The engine frees a place in a tier for shelf `own`, or answers the reason why it cannot; `want` says that there is a place after all. -/
def freeTierPlace (s : State) (p : Nat) (t0 : Bool) (own : Nat) (want : State → Bool) (age : Nat := 0) : Option Nat × State :=
  let n := (eligibles s p t0).length + 1
  if t0 then freeT0 s p age (some own) want n else freeT1 s p age (some own) want n

end Sys2Proof.Machine
end

