-- ==== Sys2Proof/Machine/Shelves.lean ====
section
/-! DEFINITION. Appending, trimming and dropping (03_kv_storage_model.md). -/
namespace Sys2Proof.Machine

/-! ### Step 10: the lookup of a shelf, and the pull on first touch (R85, R95, R397, R406) -/

/-- A READ of 33,024 bytes of a peer's shelf region at a region offset. The message keeps the length in `imm`. -/
def postRead (s : State) (p peer rkey off : Nat) : State :=
  let q := peerQpn s p peer
  postMsg s q { kind := .read, tclass := (match tget? s.qps q with | some x => qpClass x | none => 0), va := off, rkey := rkey,
                imm := 33024 }

/-- A peer whose queue pair takes no message makes a pull wait, and the device raises `MIRROR_STALL` (R408). -/
def peerStall (s : State) (p peer : Nat) : State :=
  if qpDead s (peerQpn s p peer) then raise s (pgPart p) 3 [] else s

/-- The number of a pull of a key that is under way. -/
def pullOf (s : State) (k : ShelfKey) : Option Nat := (s.pulls.find? (fun e => decide (e.2.key = k))).map (·.1)

/-- A pull starts: its two READs go out. Which drawers they name is open, for the positions of the source's drawers are not known
yet; the offsets are free values (log entry 35). -/
def startPull (s : State) (j : PullJob) : Nat × State :=
  let (n, s1) := newId s
  let (a, s2) := draw s1
  let (b, s3) := draw s2
  let p := j.key.part
  let s4 := peerStall { s3 with pulls := tput s3.pulls n j } p j.peer
  (n, postRead (postRead s4 p j.peer j.rkey (a % 2 ^ 37)) p j.peer j.rkey (b % 2 ^ 37))

/-- The pull that a pull-table entry asks for. -/
def tableJob (k : ShelfKey) (e : List Byte) : PullJob :=
  { key := k, peer := le e 0x0C 1 % 64, profH := le e 0x0E 2, rkey := le e 0x10 4, first := le e 0x14 4, endp := le e 0x18 4 }

/-- A request waits at step 10 for a pull. -/
def waitForPull (s : State) (id : Nat) (r : Req) (n : Nat) : State := s.setReq id { r with waitPull := some n }

/-- A graced request that finds no live shelf (R397). -/
def failMoved (s : State) (id : Nat) (r : Req) : State :=
  let (f, s1) := movedFail s r
  failReq s1 id r f

/-- The lookup of step 10: a shelf that is live, or what the absence, the loss, the reader limit or the pull table makes of
the request. -/
def withShelf (s0 : State) (id : Nat) (r : Req) (k : ShelfKey) (found : State → Nat → Shelf → State) (absent : State → State) : State :=
  let s := readDir s0 k
  match lookup s k with
  | some (i, sh) =>
    if sh.state = .lost then (if r.grace then failMoved s id r else failReq s id r { status := stLost })
    else if (shelfReqs s i).length ≥ 65535 then failReq s id r { status := stRetryLater, i0 := 100 }
    else found s i sh
  | none =>
    match pullOf s k with
    | some n => waitForPull s id r n
    | none =>
      match pullFind s k with
      | (some e, s0) => let (n, s1) := startPull s0 (tableJob k e); waitForPull s1 id r n
      | (none, s1) => if r.grace then failMoved s1 id r else absent s1

/-! ### Writing records (R40-R45, R52-R57, R71-R73, R82, R88, R90) -/

/-- The codebook table of a series. -/
def seriesTab (sh : Shelf) (series : Nat) : List (BitVec 16) :=
  let ks := cbSize sh.prof.kfmt
  let vs := cbSize sh.prof.vfmt
  let k := series / 2
  if series % 2 = 0 then bf16s (bslice sh.cbTab (k * ks) ks) else bf16s (bslice sh.cbTab (profH sh.prof * ks + k * vs) vs)

/-- The values of a series are rotated. -/
def seriesRot (p : Profile) (series : Nat) : Bool := bit (if series % 2 = 0 then p.kfmt else p.vfmt) 5

/-- The source elements of one token of a series: K vectors of a head, then its V vectors, head after head. -/
def srcVec (d n fmt : Nat) (src : List Byte) (series t : Nat) : List F32 :=
  srcElems fmt d (bslice src ((series * n + t) * d * srcSize fmt) (d * srcSize fmt))

/-- One token of a series encoded: its record and its saturated elements. -/
def encToken (sh : Shelf) (n fmt : Nat) (src : List Byte) (series t : Nat) : List Byte × Nat :=
  let x := srcVec (profD sh.prof) n fmt src series t
  encRecord (serFmt sh.prof series) (seriesTab sh series) (if seriesRot sh.prof series then rotate sh.seed x else x)

/-- A BF16 minimum and maximum per channel widened by one decoded record (R57, R90); empty lists cover nothing. -/
def widen (mn mx : List Nat) (x : List F32) : List Nat × List Nat :=
  let lo := x.map (fun v => bf16Dir .down v)
  let hi := x.map (fun v => bf16Dir .up v)
  if mn.isEmpty then (lo.map (·.toNat), hi.map (·.toNat))
  else
    ((mn.zip lo).map (fun e => if flt (ofBf16 e.2) (ofBf16 (BitVec.ofNat 16 e.1)) then e.2.toNat else e.1),
     (mx.zip hi).map (fun e => if flt (ofBf16 (BitVec.ofNat 16 e.1)) (ofBf16 e.2) then e.2.toNat else e.1))

/-- The records of a drawer. -/
def drawerRecords (sh : Shelf) (series n : Nat) (data : List Byte) : List (List Byte) :=
  let b := serB sh.prof series
  (List.range n).map (fun i => padTo (bslice data (i * b) b) b)

/-- A summary widened by records; V drawers have none. -/
def summarize (sh : Shelf) (series : Nat) (recs : List (List Byte)) (m : List Nat × List Nat) : List Nat × List Nat :=
  if series % 2 = 1 then ([], [])
  else recs.foldl (fun m r => widen m.1 m.2 (decRecord (serFmt sh.prof series) (profD sh.prof) (seriesTab sh series) r)) m

/-- The drawers of each series that the positions `pos` to `pos + n - 1` fall in. -/
def touched (sh : Shelf) (pos n : Nat) : List (Nat × Nat) :=
  (List.range (2 * profH sh.prof)).flatMap (fun se =>
    let t := serT sh.prof se
    let a := (pos - sh.base) / t
    (List.range ((pos + n - 1 - sh.base) / t - a + 1)).map (fun j => (se, a + j)))

/-- A request's window contains a position of a drawer (R88). -/
def windowHas (s : State) (i : Nat) (sh : Shelf) (series idx : Nat) : Bool :=
  let a := drawerPos sh series idx
  s.reqs.any (fun e => decide (e.2.shelf = some i) && decide (e.2.lo < a + serT sh.prof series) && decide (a < e.2.snap))

/-- An allocation waits for a place (R240). -/
def addWait (s : State) (w : AllocWait) : State :=
  if s.tiers.waits.contains w then s else { s with tiers := { s.tiers with waits := s.tiers.waits ++ [w] } }

/-- The place for a drawer of a shelf, whose free lines are written anew, or a wait for one. -/
def placeOrWait (s : State) (sh : Shelf) (i series idx : Nat) : Option Place × State :=
  match findPlace s sh series idx with
  | some q => (some q, wipePlace s q)
  | none => (none, addWait s { part := sh.key.part, t0 := asksT0 s sh.key.part series, shelf := i, series := series, idx := idx })

/-- The retained copy of a drawer whose records change is released (R237). -/
def releaseCopy (s : State) (l : Loc) : State :=
  match l with
  | .clean _ u => dropUnit s u
  | .cab u => dropUnit s u
  | _ => s

/-- One drawer made ready to be written: in HBM, not moving, and holding the slot it needs. `reuse` lets a ring slot be reused;
`own` is the first position of the append, below which a ring drawer may still be read. It answers whether the drawer is ready. A drawer in `CAB` whose
unit the map has lost is damaged (R273). -/
def readyDrawer (reuse : Bool) (i own : Nat) (acc : Bool × State) (k : Nat × Nat) : Bool × State :=
  let (ok, s) := acc
  if !ok then (false, s)
  else match s.shelf? i with
  | none => (false, s)
  | some sh =>
    let se := k.1
    let j := k.2
    match getDrawer sh se j with
    | some d =>
      if d.moving ≠ none then (false, s)
      else match d.loc with
        | .remote => (false, s)
        | .cab u =>
          if (tget? s.cab.units u).isNone then (false, damage s i (.inr u))
          else match placeOrWait s sh i se j with
            | (some q, s1) => (true, (dropUnit (countRead s1 u) u).setShelf i (setDrawer sh { d with loc := .hbm q }))
            | (none, s1) => (false, s1)
        | _ => (true, s)
    | none =>
      let slots := ringSlots sh.prof se
      match (if isRing sh.prof ∧ j ≥ slots then getDrawer sh se (j - slots) else none) with
      | some d =>
        let mine := decide (drawerPos sh se d.idx ≥ own)
        if !mine && (!reuse || windowHas s i sh se d.idx) then (false, s)
        else if d.moving ≠ none ∨ d.loc = .remote then (false, s)
        else
          let clear := fun (l : Loc) (s : State) =>
            let new : Drawer := { series := se, idx := j, gen := d.gen + 1, firstPos := drawerPos sh se j, loc := l }
            s.setShelf i { sh with drawers := sh.drawers.map (fun e => if e.series = se ∧ e.idx = d.idx then new else e) }
          match d.loc with
          | .clean q u => (true, clear (.hbm q) (dropUnit (wipePlace s q) u))
          | .cab u =>
            match placeOrWait s sh i se j with
            | (some q, s1) => (true, clear (.hbm q) (dropUnit s1 u))
            | (none, s1) => (false, s1)
          | .hbm q => (true, clear (.hbm q) (wipePlace s q))
          | l => (true, clear l s)
      | none =>
        match placeOrWait s sh i se j with
        | (some q, s1) =>
          let new : Drawer := { series := se, idx := j, firstPos := drawerPos sh se j, loc := .hbm q }
          let take := drawerCharge sh.prof se
          (true, s1.setShelf i { sh with
            drawers := sh.drawers ++ [new],
            appends := if isRing sh.prof then sh.appends else
              match sh.appends.findIdx? (fun a => decide (a.pos = own)) with
              | some n => modAt (fun a => { a with charge := a.charge - take }) n sh.appends
              | none => sh.appends })
        | (none, s1) => (false, s1)

/-- An append waits for the slot of its next drawer, which the window of an admitted request still contains (R88). -/
def slotHeld (s : State) (i : Nat) (sh : Shelf) (a : Append) : Bool :=
  match (touched sh a.pos a.n).drop a.done with
  | [] => false
  | (se, j) :: _ =>
    let slots := ringSlots sh.prof se
    isRing sh.prof && (getDrawer sh se j).isNone && decide (j ≥ slots) &&
    (match getDrawer sh se (j - slots) with
     | some d => decide (drawerPos sh se d.idx < a.pos) && windowHas s i sh se d.idx
     | none => false)

/-- `HELD` (R79, R88): the operations of a shelf that wait for readers. These are the tail trims whose older readers have not completed, and the
appends that such a trim or a covered ring slot keeps from being written (DEDUCED, log entry 143). -/
def heldOps (s : State) (i : Nat) (sh : Shelf) : Nat :=
  let trims := (sh.tails.filter (fun t => t.older.any (fun id => (tget? s.reqs id).isSome))).length
  let open_ := sh.appends.filter (fun a => !a.written && decide (a.failed = none))
  trims + (if trims ≠ 0 ∨ (match open_ with | a :: _ => slotHeld s i sh a | [] => false) = true then open_.length else 0)

/-- The positions from `pos` to `pos + n - 1` that fall in a drawer: the first, and the end. -/
def spanIn (sh : Shelf) (pos n : Nat) (k : Nat × Nat) : Nat × Nat :=
  let a := drawerPos sh k.1 k.2
  (max pos a, min (pos + n) (a + serT sh.prof k.1))

/-- Records for the positions from `lo` to `hi - 1` stand in a drawer; it is stamped (R233) and marked with C. -/
def recordsIn (s : State) (i lo hi : Nat) (sh : Shelf) (d : Drawer) (new : List (List Byte)) : State :=
  let b := serB sh.prof d.series
  let a := drawerPos sh d.series d.idx
  let m := summarize sh d.series new (d.smin, d.smax)
  let d' := { d with data := padTo (d.data.take ((lo - a) * b)) ((lo - a) * b) ++ new.flatten, count := hi - a, stamp := stampNow s,
                     epoch := partC s sh.key.part, smin := m.1, smax := m.2,
                     loc := match d.loc with | .clean q _ => .hbm q | l => l }
  let s1 := s.setShelf i (setDrawer sh d')
  match d.loc with
  | .clean _ u => dropUnit s1 u
  | _ => s1

/-- The line of a K drawer's summary is read for an update, and its loss noted (R91). -/
def readSummary (s : State) (i : Nat) (k : Nat × Nat) : State :=
  if k.1 % 2 = 0 then (readUse s (fun u => decide (u = .summary i (k.1 / 2) k.2))).2 else s

/-- Records for the positions from `lo` to `hi - 1` go into the lines of a ready drawer; a line that takes no write damages the drawer (R268, R271). -/
def putRecords (s0 : State) (i lo hi : Nat) (k : Nat × Nat) (new : List (List Byte)) : State :=
  let s := readSummary s0 i k
  match s.shelf? i with
  | none => s
  | some sh =>
    match getDrawer sh k.1 k.2 with
    | none => s
    | some d =>
      match locPlace d.loc with
      | none => recordsIn s i lo hi sh d new
      | some q =>
        let b := serB sh.prof d.series
        match wroteSpan s q ((lo - drawerPos sh d.series d.idx) * b) ((hi - lo) * b) with
        | (none, s1) => recordsIn s1 i lo hi sh d new
        | (some l, s1) => damage s1 i (.inl (q.stack, l))

/-- A shelf is live. -/
def isLive (s : State) (i : Nat) : Bool := match s.shelf? i with | some sh => decide (sh.state = .live) | none => false

/-- One entry of the append list of a shelf replaced. -/
def setAppend (s : State) (i n : Nat) (f : Append → Append) : State :=
  match s.shelf? i with
  | none => s
  | some sh => s.setShelf i { sh with appends := modAt f n sh.appends }

/-- The next drawer of an append takes its records, if it is ready (R41-R45). -/
def fillNext (reuse : Bool) (i n fmt : Nat) (src : List Byte) (acc : Bool × State) (k : Nat × Nat) : Bool × State :=
  match acc.2.shelf? i with
  | none => (false, acc.2)
  | some sh0 =>
    let a := sh0.appends.getD n {}
    match readyDrawer reuse i a.pos acc k with
    | (false, s) => (false, s)
    | (true, s) =>
      match s.shelf? i with
      | none => (false, s)
      | some sh =>
        let (lo, hi) := spanIn sh a.pos a.n k
        let enc := (List.range (hi - lo)).map (fun t => encToken sh a.n fmt src k.1 (lo - a.pos + t))
        let s1 := putRecords s i lo hi k (enc.map (·.1))
        (isLive s1 i, setAppend s1 i n (fun a => { a with done := a.done + 1, sat := a.sat + (enc.map (·.2)).sum }))

/-- The source of an append is read, checked, and written drawer by drawer, as far as the drawers are ready (R41-R45, R116); a failure is
noted for `FAILED_APPEND`. -/
def writeAppend (s : State) (i n : Nat) (reuse : Bool) (sh : Shelf) (a : Append) (r : Req) : Bool × State :=
  let d := profD sh.prof
  let fmt := bits (le r.desc 0x26 1) 0 2
  let len := 2 * profH sh.prof * a.n * d * srcSize fmt
  match refRead s r.part (le r.desc 0x18 8) len with
  | (none, s1) => (true, setAppend s1 i n (fun a => { a with failed := some stIntegrity }))
  | (some src, s1) =>
    let s1 := s1.setReq a.req { r with cap := r.cap.map (fun k => { k with input := src }) }
    if !(srcElems fmt (2 * profH sh.prof * a.n * d) src).all srcOk then
      (true, setAppend s1 i n (fun a => { a with failed := some stBadDescriptor, failDet := 0x18 }))
    else
      match ((touched sh a.pos a.n).drop a.done).foldl (fillNext reuse i n fmt src) (true, s1) with
      | (false, s2) => (false, s2)
      | (true, s2) =>
        match s2.shelf? i with
        | none => (true, s2)
        | some sh2 =>
          let (w, s3) := mirrorAppend s2 sh2 a.pos a.n
          (true, setAppend s3 i n (fun a => { a with written := true, charge := 0, waitSeq := w }))

/-- The accepted appends of a shelf are written in order, as far as nothing holds them up: no tail trim under way (R92), drawers
that have a place and do not move (R240, R263), and ring slots that may be reused, which only `RING_SLOT_REUSE` grants. -/
def writeAppends (s : State) (i : Nat) (reuse : Bool) : Nat → State
  | 0 => s
  | fuel + 1 =>
    match s.shelf? i with
    | none => s
    | some sh =>
      match sh.appends.findIdx? (fun a => !a.written) with
      | none => s
      | some n =>
        let a := sh.appends.getD n {}
        if a.failed ≠ none ∨ !sh.tails.isEmpty then s
        else
          match tget? s.reqs a.req with
          | none => s
          | some r =>
            match (match (touched sh a.pos a.n).drop a.done with
              | k :: _ => match readyDrawer reuse i a.pos (true, s) k with
                | (false, s1) => (false, s1)
                | (true, _) => writeAppend s i n reuse sh a r
              | [] => writeAppend s i n reuse sh a r) with
            | (false, s1) => s1
            | (true, s1) => writeAppends s1 i reuse fuel

/-- The appends of a shelf are tried again. -/
def retryAppends (s : State) (i : Nat) (reuse : Bool := false) : State :=
  match s.shelf? i with
  | none => s
  | some sh => writeAppends s i reuse (sh.appends.length + 1)

/-! ### APPEND_KV (R80, R81) -/

/-- Charge of the drawers that appending `n` tokens at `END` needs beyond those up to `END` (R229); a ring shelf has its
charge already. -/
def appendCharge (sh : Shelf) (n : Nat) : Nat :=
  if isRing sh.prof then 0
  else ((List.range (2 * profH sh.prof)).map (fun se =>
    let t := serT sh.prof se
    (ceilDiv (sh.endPos + n - sh.base) t - ceilDiv (sh.endPos - sh.base) t) * drawerCharge sh.prof se)).sum

/-- The length limit for a new `END`. -/
def lengthOk (sh : Shelf) (e : Nat) : Bool := decide (e ≤ 2 ^ 32 - 1) && (isRing sh.prof || decide (e - sh.base ≤ 2 ^ 26))

/-- An append is judged against `END` and `START` (R81). `made` says that it has created its shelf. -/
def judgeAppend (made : Bool) (s : State) (id : Nat) (r : Req) (i : Nat) (sh : Shelf) : State :=
  let pos := le r.desc 0x20 4
  let n := le r.desc 0x24 2
  if pos = sh.endPos ∧ lengthOk sh (pos + n) = true then
    match takeCharge s r.part (appendCharge sh n) (some i) with
    | (false, s1) => failReq s1 id r { status := stFull, detail := 0x01 }
    | (true, s1) =>
      match s1.shelf? i with
      | none => failReq s1 id r { status := stLost }
      | some sh1 =>
        let s2 := (s1.setReq id { r with shelf := some i }).setShelf i { sh1 with
          endPos := pos + n, appends := sh1.appends ++ [{ req := id, pos := pos, n := n, charge := appendCharge sh n, created := made }] }
        retryAppends s2 i
  else if pos ≥ sh.start ∧ pos + n ≤ sh.endPos then complete s id { r with already := true } stOk 0 sh.visible 0 0 0
  else failReq s id r { status := stBadDescriptor, detail := 0x20 }

/-- Bytes of an append's source for a profile (R116). -/
def appendBytes (p : Profile) (d : List Byte) : Nat :=
  2 * profH p * le d 0x24 2 * profD p * srcSize (bits (le d 0x26 1) 0 2)

/-- An append on a shelf that exists. -/
def appendFound (s : State) (id : Nat) (r : Req) (i : Nat) (sh : Shelf) : State :=
  if sh.copy then failReq s id r { status := stDenied }
  else if bit (le r.desc 0x26 1) 2 ∧ le r.desc 0x28 2 ≠ sh.profH then failReq s id r { status := stBadDescriptor, detail := 0x28 }
  else
    match refFail s r.part r.desc 0x18 (appendBytes sh.prof r.desc) with
    | some f => failReq s id r f
    | none =>
      if sh.trim.isSome then (s.setReq id { r with shelf := some i }).setShelf i { sh with held := sh.held ++ [id] }
      else judgeAppend false s id r i sh

/-- An append on an absent shelf: with `CREATE`, the shelf is created with `BASE` = POS (R80). An append that cannot be accepted
creates nothing (R138). -/
def appendAbsent (s : State) (id : Nat) (r : Req) : State :=
  let d := r.desc
  if !bit (le d 0x26 1) 2 then failReq s id r { status := stLost }
  else
    let sh := freshShelf s (dKey d) (le d 0x28 2) (le d 0x20 4)
    match refFail s r.part d 0x18 (appendBytes sh.prof d) with
    | some f => failReq s id r f
    | none =>
      if !lengthOk sh (le d 0x20 4 + le d 0x24 2) then failReq s id r { status := stBadDescriptor, detail := 0x20 }
      else if shelfCount s r.part ≥ rdf s (pgPart r.part + 0x10C) 0 25 then failReq s id r { status := stFull, detail := 0x03 }
      else
        match takeCharge s r.part (shelfCharge sh + appendCharge sh (le d 0x24 2)) none with
        | (false, s1) => failReq s1 id r { status := stFull, detail := 0x01 }
        | (true, s1) =>
          match createShelf s1 sh with
          | (.error f, s2) => failReq s2 id r f
          | (.ok i, s2) =>
            match s2.shelf? i with
            | none => s2
            | some x => judgeAppend true s2 id r i x

/-- Step 10 and effect of `APPEND_KV`. -/
def doAppend (s : State) (id : Nat) (r : Req) : State :=
  let n := le r.desc 0x24 2
  if n = 0 ∨ n > 4096 then failReq s id r { status := stBadDescriptor, detail := 0x24 }
  else withShelf s id r (dKey r.desc) (fun s i sh => appendFound s id r i sh) (fun s => appendAbsent s id r)

/-- `APPEND_KV` (R81). -/
def execAppendKv (ring : Fin 4096) (s : State) : Res := .next (admitOp s ring.val 0x02 doAppend)

/-- `RING_SLOT_REUSE` (R88): a waiting append reuses the slots that no admitted request's window covers. -/
def execRingSlotReuse (shelf : Nat) (s : State) : Res := .next (retryAppends s shelf true)

/-- `START` of a ring shelf for a `VISIBLE` (R87); it never falls. -/
def ringStart (sh : Shelf) (v : Nat) : Nat := if isRing sh.prof then max sh.start (max sh.base (v - sh.prof.ringW)) else sh.start

/-- `VISIBLE_ADVANCE` (R82): the earliest accepted append has been written and confirmed, and completes. -/
def execVisibleAdvance (shelf : Nat) (s : State) : Res :=
  match s.shelf? shelf with
  | none => .next s
  | some sh =>
    match sh.appends with
    | [] => .next s
    | a :: rest =>
      if sh.state = .live ∧ a.written = true ∧ a.failed = none ∧ mirrorOk s sh a.waitSeq = true then
        let v := a.pos + a.n
        let s1 := s.setShelf shelf { sh with visible := v, start := ringStart sh v, appends := rest }
        match tget? s1.reqs a.req with
        | none => .next s1
        | some r => .next (complete s1 a.req r stOk 0 v (sat 32 a.sat) a.n 0)
      else .next s

/-! ### Cutting records off (R83, R92, R263) -/


/-- Drawers wholly at or beyond a position are freed, and the rest of a shelf's records end below it. A ring drawer in a slot that has been reused keeps
the slot with its `GEN` and no record (R88). The summary of a drawer that loses records is formed again over those that stay; `mend` says that a
summary found lost is then whole again (R91). A drawer whose records change gives up its cabinet copy, also while it moves (R237); one in `CAB` is left to
`trimCab`. -/
def cutRecords (s : State) (i p : Nat) (mend : Bool) : State :=
  match s.shelf? i with
  | none => s
  | some sh =>
    let s1 := (sh.drawers.filter (fun d => decide (drawerPos sh d.series d.idx ≥ p) && !(isRing sh.prof && decide (d.idx ≥ ringSlots sh.prof d.series)))).foldl
      (fun s d => freeDrawer s i d) s
    match s1.shelf? i with
    | none => s1
    | some x =>
      let cut := fun (d : Drawer) =>
        let n := p - drawerPos x d.series d.idx
        if n ≥ d.count then (d, none)
        else
          let data := d.data.take (n * serB x.prof d.series)
          let form := decide (d.loc ≠ .remote)
          let m := if form then summarize x d.series (drawerRecords x d.series n data) ([], []) else (d.smin, d.smax)
          ({ d with count := n, data := data, smin := m.1, smax := m.2, sumLost := d.sumLost && !(mend && form),
                    loc := uncopied d.loc, moving := d.moving.map uncopied },
           match d.loc with | .clean _ u => some u | _ => match d.moving with | some (.clean _ u) => some u | _ => none)
      let r := x.drawers.map cut
      (r.filterMap (·.2)).foldl dropUnit (s1.setShelf i { x with drawers := r.map (·.1) })

/-! ### TRIM_KV (R89, R92, R95) -/

/-- A trim is judged. A head trim takes effect and completes; a tail trim waits to set `END`. -/
def judgeTrim (s : State) (id : Nat) (r : Req) (i : Nat) (sh : Shelf) : State :=
  let p := le r.desc 0x18 4
  if le r.desc 0x1C 1 = 0 then
    if sh.start ≤ p ∧ p ≤ sh.visible then
      let s1 := s.setShelf i { sh with start := p, headTrims := sh.headTrims ++ [{ pos := p, older := shelfReqs s i }] }
      complete (mirrorTrim s1 sh p 0).2 id r stOk 0 p 0 0 0
    else failReq s id r { status := stBadDescriptor, detail := 0x18 }
  else if sh.start ≤ p ∧ p ≤ sh.endPos then
    (s.setReq id { r with shelf := some i }).setShelf i { sh with trim := some { req := id, pos := p } }
  else failReq s id r { status := stBadDescriptor, detail := 0x18 }

/-- A trim on a shelf that exists. -/
def trimFound (s : State) (id : Nat) (r : Req) (i : Nat) (sh : Shelf) : State :=
  if sh.copy then failReq s id r { status := stDenied }
  else if isRing sh.prof then failReq s id r { status := stBadDescriptor, detail := 0x1C }
  else if sh.trim.isSome then (s.setReq id { r with shelf := some i }).setShelf i { sh with held := sh.held ++ [id] }
  else judgeTrim s id r i sh

/-- Step 10 and effect of `TRIM_KV`. -/
def doTrim (s : State) (id : Nat) (r : Req) : State :=
  withShelf s id r (dKey r.desc) (fun s i sh => trimFound s id r i sh) (fun s => failReq s id r { status := stLost })

/-- `TRIM_KV` (R92). -/
def execTrimKv (ring : Fin 4096) (s : State) : Res := .next (admitOp s ring.val 0x04 doTrim)

/-- The operations held behind a tail trim are judged in order, until one of them is again a tail trim that holds the rest. -/
def releaseHeld (s : State) (i : Nat) : Nat → State
  | 0 => s
  | fuel + 1 =>
    match s.shelf? i with
    | none => s
    | some sh =>
      match sh.held with
      | [] => s
      | id :: rest =>
        if sh.trim.isSome then s
        else
          let s1 := s.setShelf i { sh with held := rest }
          match tget? s1.reqs id, s1.shelf? i with
          | some r, some x => releaseHeld ((if dOpcode r.desc = 0x02 then judgeAppend false else judgeTrim) s1 id r i x) i fuel
          | _, _ => releaseHeld s1 i fuel

/-- Admitted `ATTEND`s of a shelf. -/
def shelfReaders (s : State) (i : Nat) : List Nat :=
  (s.reqs.filter (fun e => decide (e.2.shelf = some i) && decide (dOpcode e.2.desc = 0x01))).map (·.1)

/-- `TRIM_SET_END` (R92): every append accepted before the trim has advanced `VISIBLE`, so `END` and `VISIBLE` become p. A trim
whose p an append that failed meanwhile has left beyond `END` is refused (DEDUCED, log entry 36). -/
def execTrimSetEnd (shelf : Nat) (s : State) : Res :=
  match s.shelf? shelf with
  | none => .next s
  | some sh =>
    match sh.trim with
    | none => .next s
    | some t =>
      if sh.state ≠ .live ∨ !sh.appends.isEmpty then .next s
      else
        let n := sh.held.length + 1
        if t.pos > sh.endPos then
          let s1 := s.setShelf shelf { sh with trim := none }
          match tget? s1.reqs t.req with
          | some r => .next (releaseHeld (failReq s1 t.req r { status := stBadDescriptor, detail := 0x18 }) shelf n)
          | none => .next (releaseHeld s1 shelf n)
        else
          let (w, s1) := mirrorTrim s sh t.pos 1
          match s1.shelf? shelf with
          | none => .next s1
          | some x =>
            let s2 := s1.setShelf shelf { x with
              endPos := t.pos, visible := t.pos, trim := none,
              tails := x.tails ++ [{ t with was := x.endPos, older := shelfReaders s1 shelf, waitSeq := w }] }
            .next (releaseHeld s2 shelf n)

/-- None of some requests is left. -/
def allDone (s : State) (ids : List Nat) : Bool := ids.all (fun id => (tget? s.reqs id).isNone)

/-- A drawer in `CAB` that a tail trim cuts (R263): once no run reads it any more, it is lifted into a place that is free or can be freed, and stamped
(R233); where nothing can be demoted it is rewritten as a new block; where the cabinet is read-only as well, there is no way yet. One whose unit the map has
lost is damaged (R273). -/
def trimCab (i p : Nat) (acc : Bool × State) (k : Nat × Nat) : Bool × State :=
  let (ok, s) := acc
  match s.shelf? i with
  | none => (false, s)
  | some sh =>
    match getDrawer sh k.1 k.2 with
    | none => (ok, s)
    | some d =>
      match d.loc with
      | .cab u =>
        if beingRead s i k.1 k.2 then (false, s)
        else if (tget? s.cab.units u).isNone then (false, damage s i (.inr u))
        else
        let s := countRead s u
        let free := match findPlace s sh k.1 k.2 with
          | some q => (some q, s)
          | none =>
            match freeTierPlace s sh.key.part (asksT0 s sh.key.part k.1) i (roomFor i k.1 k.2) with
            | (none, s1) => (match s1.shelf? i with | some x => findPlace s1 x k.1 k.2 | none => none, s1)
            | (some _, s1) => (none, s1)
        match free with
        | (some q, s1) => (ok, touch (relocate (dropUnit s1 u) i k.1 k.2 (.hbm q)) i k.1 k.2)
        | (none, s1) =>
          if s1.cab.readOnly then (false, s1)
          else
            let n := p - drawerPos sh k.1 k.2
            let (u', s2) := storeDrawer (dropUnit s1 u) i sh { d with count := n, data := d.data.take (n * serB sh.prof k.1) }
            (ok, relocate s2 i k.1 k.2 (.cab u'))
      | _ => (ok, s)

/-- The drawers that a position cuts through. -/
def straddlers (sh : Shelf) (p : Nat) : List (Nat × Nat) :=
  (sh.drawers.filter (fun d => decide (drawerPos sh d.series d.idx < p) && decide (p < drawerPos sh d.series d.idx + d.count))).map
    (fun d => (d.series, d.idx))

/-- `TRIM_TAIL_COMPLETE` (R92, R263): the older readers of the earliest tail trim that has set `END` have completed. -/
def execTrimTailComplete (shelf : Nat) (s : State) : Res :=
  match s.shelf? shelf with
  | none => .next s
  | some sh =>
    match sh.tails with
    | [] => .next s
    | t :: _ =>
      if !allDone s t.older || !mirrorOk s sh t.waitSeq then .next s
      else
        match (straddlers sh t.pos).foldl (trimCab shelf t.pos) (true, s) with
        | (false, s1) => .next s1
        | (true, s1) =>
          let s2 := cutRecords s1 shelf t.pos true
          match s2.shelf? shelf with
          | none => .next s2
          | some x =>
            let s3 := s2.setShelf shelf { x with tails := x.tails.drop 1 }
            let s4 := match tget? s3.reqs t.req with
              | some r => complete s3 t.req r stOk 0 t.pos 0 0 0
              | none => s3
            .next (retryAppends s4 shelf)

/-- `HEAD_TRIM_FREE` (R92): the requests admitted before a head trim have completed, and the drawers wholly below p are freed. -/
def execHeadTrimFree (shelf : Nat) (s : State) : Res :=
  match s.shelf? shelf with
  | none => .next s
  | some sh =>
    match sh.headTrims.find? (fun h => allDone s h.older) with
    | none => .next s
    | some h =>
      let s1 := s.setShelf shelf { sh with headTrims := sh.headTrims.erase h }
      let below := sh.drawers.filter (fun d => decide (drawerPos sh d.series d.idx + serT sh.prof d.series ≤ h.pos))
      .next (below.foldl (fun s d => freeDrawer s shelf d) s1)

/-! ### DROP_SHELF (R93, R95) -/

/-- A shelf's entry becomes dropping: its operations end, and its storage waits for the requests admitted before. -/
def dropOne (s : State) (i : Nat) : State :=
  match s.shelf? i with
  | none => s
  | some sh =>
    if sh.state = .dropping then s
    else
      let s1 := mirrorDrop s sh
      let s2 := endShelfOps s1 i
      match s2.shelf? i with
      | none => s2
      | some x =>
        let older := shelfReqs s2 i
        if x.state = .lost ∧ x.drawers.isEmpty ∧ older.isEmpty then dropEntry s2 i
        else (skipLifts s2 (fun l => decide (l.shelf = i))).setShelf i { x with state := .dropping, dropOlder := older, pull := none }

/-- What an append that fails before it is visible leaves behind goes: the records, and the shelf that it has created (R83, R138). -/
def undoAppend (s : State) (i : Nat) (a : Append) : State :=
  let s1 := cutRecords s i a.pos false
  if a.created then dropOne s1 i else s1

/-- `FAILED_APPEND` (R83): the earliest failure among a shelf's accepted appends ends that append and every later one. -/
def execFailedAppend (shelf : Nat) (s : State) : Res :=
  match s.shelf? shelf with
  | none => .next s
  | some sh =>
    match sh.appends.findIdx? (fun a => decide (a.failed ≠ none)) with
    | none => .next s
    | some n =>
      let a := sh.appends.getD n {}
      let s1 := s.setShelf shelf { sh with appends := sh.appends.take n, endPos := a.pos }
      let s2 := match tget? s1.reqs a.req with
        | some r => failReq s1 a.req r { status := a.failed.getD stAborted, detail := a.failDet }
        | none => s1
      let s3 := (sh.appends.drop (n + 1)).foldl (fun s b =>
        match tget? s.reqs b.req with
        | some r => failReq s b.req r { status := stAborted }
        | none => s) s2
      .next (undoAppend s3 shelf a)

/-- The shelves of a conversation that a mark hides. -/
def markedShelves (s : State) (m : Mark) : List (Nat × Shelf) :=
  s.dir.shelves.filter (fun e => decide (e.2.key.part = m.part) && decide (e.2.key.tenant = m.tenant) && decide (e.2.key.conv = m.conv) &&
    decide (e.2.createSeq < m.seqs.getD (shelfDie e.2) 0) && decide (e.2.state ≠ .dropping) && !s.dir.retired.contains (shelfDie e.2, e.2.place))

/-- Step 10 and effect of `DROP_SHELF`. -/
def doDrop (s : State) (id : Nat) (r : Req) : State :=
  let k := dKey r.desc
  if bit (le r.desc 0x18 1) 0 then
    if s.dir.marks.length ≥ 64 then failReq s id r { status := stRetryLater, i0 := 50000 }
    else
      let m : Mark := { part := k.part, tenant := k.tenant, conv := k.conv, seqs := s.dir.createSeq }
      let s1 := (markedShelves s m).foldl (fun s e => endShelfOps s e.1) s
      let plans := s1.tiers.plans.filter (fun a => !(decide (a.part = k.part) && decide (a.tenant = k.tenant) && decide (a.conv = k.conv)))
      complete { s1 with dir := { s1.dir with marks := s1.dir.marks ++ [m] }, tiers := { s1.tiers with plans := plans } } id r stOk 0 0 0 0 0
  else
    let s := readDir s k
    match lookup s k with
    | some (i, sh) =>
      if sh.state = .live ∧ (shelfReqs s i).length ≥ 65535 then failReq s id r { status := stRetryLater, i0 := 100 }
      else complete (dropOne s i) id r stOk 0 0 0 0 0
    | none => complete s id r stOk 0 0 0 0 0

/-- `DROP_SHELF` (R93). -/
def execDropShelf (ring : Fin 4096) (s : State) : Res := .next (admitOp s ring.val 0x05 doDrop)

/-- `DROP_FREE` (R93): the requests admitted before the drop have completed, so the storage and the entry are freed. -/
def execDropFree (shelf : Nat) (s : State) : Res :=
  match s.shelf? shelf with
  | none => .next s
  | some sh =>
    if sh.state = .dropping ∧ allDone s sh.dropOlder = true then .next (dropEntry (freeAll s shelf) shelf) else .next s

/-- `CONV_SCAN_END` (R93): the engine of a die has dropped every shelf of its quarter that the mark hides. -/
def execConvScanEnd (die : Fin 4) (mark : Nat) (s : State) : Res :=
  match s.dir.marks[mark]? with
  | none => .next s
  | some m =>
    if m.done.contains die.val then .next s
    else
      let s1 := ((markedShelves s m).filter (fun e => decide (shelfDie e.2 = die.val))).foldl (fun s e => dropOne s e.1) s
      let m1 := { m with done := m.done ++ [die.val] }
      let marks := if m1.done.length ≥ 4 then s1.dir.marks.eraseIdx mark else modAt (fun _ => m1) mark s1.dir.marks
      .next { s1 with dir := { s1.dir with marks := marks } }

end Sys2Proof.Machine
end

