-- ==== Sys2Proof/Machine/Score.lean ====
section
/-! DEFINITION. Scores, score programs, drawer bounds and the partial-result block (R46-R58, R150-R165, R172-R181). -/
namespace Sys2Proof.Machine

/-! ### Sums in the order of a path (R56, R176, R195) -/

/-- A balanced tree of adds over pairs. -/
def pairUp (add : F32 → F32 → F32) : List F32 → List F32
  | a :: b :: l => add a b :: pairUp add l
  | l => l

/-- A balanced tree of adds. -/
def addTree (add : F32 → F32 → F32) : Nat → List F32 → F32
  | 0, l => l.headD 0
  | fuel + 1, l => if l.length ≤ 1 then l.headD 0 else addTree add fuel (pairUp add l)

/-- ceil(log2 n) of a positive number. -/
def clog2 (n : Nat) : Nat := if n ≤ 1 then 0 else Nat.log2 (n - 1) + 1

/-- The most adds that a term may pass through in a path of `n` terms, so that the bounds of R60-R62 hold: 29 for channels, 19 where a group's sum is
scaled and summed again, `ceil(log2 n)` for l and one more for o. The bounds that are rounded in one direction need none. -/
def sumDepth (path n : Nat) : Nat :=
  if path = 0 then 29 else if path = 1 ∨ path = 7 then 19 else if path = 6 then clog2 n else if path = 8 then clog2 n + 1 else n

/-- The adds that a term may pass through on `k` lanes and the tree over them. -/
def laneDepth (n k : Nat) : Nat := ceilDiv n k - 1 + clog2 k

/-- The lanes of a path: any number that keeps the bounds (log entry 20). -/
def laneCount (path n : Nat) : Nat :=
  let k := 1 + Config.sumOrder path n % max n 1
  if laneDepth n k ≤ sumDepth path n then k else max n 1

/-- The sum of a path: per lane, then a tree. How many lanes a path has is open within the bounds of R60-R62 (log entry 20); element i goes to lane
i modulo their number. Paths: 0 channels, 1 query sums of a group, 2 groups, 3 bound kernel, 4 margin of a bound, 6 l, 7 channels of a group, 8 o. -/
def pathSum (add : F32 → F32 → F32) (path : Nat) (l : List F32) : F32 :=
  let n := l.length
  let k := laneCount path n
  let lane := fun i => ((List.range n).filter (fun j => decide (j % k = i))).foldl (fun a j => add a (l.getD j 0)) 0
  addTree add n ((List.range k).map lane)

/-- `F32` operations rounded towards plus infinity, and towards minus infinity. -/
def addU (x y : F32) : F32 := faddR .up x y
def mulU (x y : F32) : F32 := fmulR .up x y
def divU (x y : F32) : F32 := fdivR .up x y
def subU (x y : F32) : F32 := faddR .up x (negate y)
def addD (x y : F32) : F32 := faddR .down x y
def mulD (x y : F32) : F32 := fmulR .down x y

/-- A number of at least 0 raised by `k` units in the last place; plus infinity stays. -/
def raiseUlp (k : Nat) (x : F32) : F32 := BitVec.ofNat 32 (min 0x7F800000 (f32Mag x + k))
/-- A number of at least 0 lowered by `k` units in the last place, not below 0. -/
def lowerUlp (k : Nat) (x : F32) : F32 := if isInf x then x else BitVec.ofNat 32 (f32Mag x - k)

/-- exp raised by 2 ulp, and lowered by 2 ulp, to cover the error of R56 (R181). -/
def expU (x : F32) : F32 := raiseUlp 2 (fexp x)
def expD (x : F32) : F32 := lowerUlp 2 (fexp x)

/-! ### Scores on tiles (R46, R148) -/

/-- ΣQ of a query head for every group (R46, R206). -/
def groupSums (f : Nat) (q : List F32) : List F32 := (chunks (groupSize f) q.length q).map (pathSum fadd 1)

/-- The score of a key record for a query head on tiles. -/
def tileScore (f d : Nat) (tab : List (BitVec 16)) (q : List F32) (rec : List Byte) : F32 :=
  let raw :=
    if f % 16 = 5 ∨ f % 16 = 6 then
      let n := groupSize f
      let qs := chunks n d q
      let cs := chunks n d ((recCodes f d rec).map ofInt)
      let gs := recGroups f d rec
      let sq := groupSums f q
      pathSum fadd 2 ((List.range (d / n)).map (fun i =>
        let g := gs.getD i (0, 0)
        let qc := pathSum fadd 7 (((qs.getD i []).zip (cs.getD i [])).map (fun e => fmul e.1 e.2))
        fmul (ofBf16 g.1) (fsub qc (fmul (ofInt g.2) (sq.getD i 0)))))
    else pathSum fadd 0 ((q.zip (decRecord f d tab rec)).map (fun e => fmul e.1 e.2))
  fmul (cD d) raw

/-! ### Score programs (R151-R153) -/

/-- The reference of tanh of a positive number, as `n * 2 ^ e`. -/
def tanhRef (v : Dy) : Nat × Int :=
  if dyLt v ⟨1, -40⟩ then (v.m.natAbs, v.e)
  else if dyLt ⟨64, 0⟩ v then (2 ^ 256 - 1, -256)
  else
    let (n, e) := expRef ⟨2 * v.m, v.e⟩
    let a : Int := shl n (e + 256)
    let one : Int := (2 : Int) ^ 256
    ((((a - one) * one) / (a + one)).toNat, -256)

/-- tanh rounded to nearest. -/
def tanhNear (x : F32) : F32 :=
  let m := BitVec.ofNat 32 (f32Mag x)
  let r := if f32Mag m = 0 then m else if isInf m then f32One
    else BitVec.ofNat 32 (magPat fmtF32 .near (tanhRef (toDy m)).1 (tanhRef (toDy m)).2 true)
  if f32Neg x then negate r else r

/-- A result of tanh lies within 4 ulp of the exact value, on its side of 0. -/
def tanhClose (x y : F32) : Bool :=
  if f32Mag x = 0 then decide (y = x)
  else (f32Neg x == f32Neg y) &&
    (ulpCands 4 (tanhRef (toDy (fabs x))).1 (tanhRef (toDy (fabs x))).2).contains (f32Mag y)

/-- What R152 says of tanh: within 4 ulp, and no smaller for the next larger number. -/
abbrev TanhFits : Prop := ∀ x : BitVec 32,
  (isFin x = true → tanhClose x (Config.tanhUnit x) = true) ∧
  (isFin x = true → isFin (x + 1) = true →
    (if f32Neg x then fle (Config.tanhUnit (x + 1)) (Config.tanhUnit x) else fle (Config.tanhUnit x) (Config.tanhUnit (x + 1))) = true)

/-- tanh of the tile vector unit (R152): any function that R152 allows. -/
def ftanh (x : F32) : F32 := if isFin x && decide TanhFits then Config.tanhUnit x else if isNaN x then x else tanhNear x

/-- One operation of a program at a distance for a query head. A distance that no `F32` holds enters the product of `ADD_DIST` rounded by RNE (DESIGN
CHOICE, log entry 137). -/
def spStep (b : List Byte) (w dist j : Nat) (t : F32) : F32 :=
  if t = negInf then t
  else
    let a := bits w 16 16
    let imm := spImm w
    match w % 256 with
    | 1 => fadd t imm
    | 2 => fmul t imm
    | 3 => fmul imm (ftanh (fdiv t imm))
    | 4 => fadd t (spParam b (a + j))
    | 5 => fsub t (fmul (spParam b (a + j)) (ofInt dist))
    | 6 => fadd t (spParam b (a + min (Nat.log2 (dist + 1)) 31))
    | 7 => if dist ≥ w / 2 ^ 32 then negInf else t
    | _ => t

/-- A program applied to a score (R151, R152); no program is the identity. -/
def spRun (b : List Byte) (dist j : Nat) (t : F32) : F32 :=
  if b.isEmpty then t else (List.range (spNops b)).foldl (fun t i => spStep b (spOp b i) dist j t) t

/-- A position at a distance is masked by a program. -/
def spMasks (b : List Byte) (dist : Nat) : Bool :=
  !b.isEmpty && (List.range (spNops b)).any (fun i => decide (spOp b i % 256 = 7) && decide (dist ≥ spOp b i / 2 ^ 32))

/-- tanh rounded towards plus infinity: 4 ulp above the unit's result. -/
def tanhU (x : F32) : F32 := let r := ftanh x; if f32Neg r then negate (lowerUlp 4 (fabs r)) else raiseUlp 4 r

/-- A program on a bound (R153). -/
def spBound (b : List Byte) (j : Nat) (t : F32) : F32 :=
  if b.isEmpty then t
  else (List.range (spNops b)).foldl (fun t i =>
    let w := spOp b i
    let a := bits w 16 16
    let imm := spImm w
    match w % 256 with
    | 1 => addU t imm
    | 2 => mulU t imm
    | 3 => mulU imm (tanhU (divU t imm))
    | 4 => addU t (spParam b (a + j))
    | 6 => addU t ((List.range 32).foldl (fun m k => fmax m (spParam b (a + k))) negInf)
    | _ => t) t

/-! ### Bounds (R173, R174) -/

/-- The largest magnitude that a summary allows in each channel, or for `I8A` and `I4A` in the group of each channel. -/
def magMax (f : Nat) (mn mx : List F32) : List F32 :=
  let per := (mn.zip mx).map (fun e => fmax (fabs e.1) (fabs e.2))
  if f % 16 = 5 ∨ f % 16 = 6 then
    (chunks (groupSize f) per.length per).flatMap (fun g => g.map (fun _ => g.foldl fmax 0))
  else per

/-- A_b of a drawer for a query head. -/
def boundA (f d : Nat) (mn mx q : List F32) : F32 :=
  let a := pathSum addU 4 ((q.zip (magMax f mn mx)).map (fun e => mulU (fabs e.1) e.2))
  let a4 := if f % 16 = 5 ∨ f % 16 = 6 then mulU (ofInt 4) a else a
  mulU a4 (raiseUlp 1 (cD d))

/-- 2^-19, or 2^-18 for compute in `F32`. -/
def scoreEps (cfmt : Nat) : F32 := if cfmt = 0 then 0x36800000 else 0x36000000

/-- The bound of a drawer for a query head before any program. -/
def boundRaw (cfmt f d : Nat) (mn mx q : List F32) : F32 :=
  let raw := pathSum addU 3 ((q.zip (mn.zip mx)).map (fun e => if f32Neg e.1 then mulU e.1 e.2.1 else mulU e.1 e.2.2))
  addU (mulU (cD d) raw) (mulU (scoreEps cfmt) (boundA f d mn mx q))

/-! ### Combining (R157, R165) -/

/-- What a path holds of a query head: m, l, o and w. -/
structure Part3 where
  m : F32
  l : F32
  o : List F32
  w : F32 := 0
deriving DecidableEq, Repr

/-- combine of two partials; operations on w are rounded towards plus infinity. -/
def combine (a b : Part3) : Part3 :=
  let mm := fmax a.m b.m
  let fa := fexpSub a.m mm
  let fb := fexpSub b.m mm
  let wa := expU (subU a.m mm)
  let wb := expU (subU b.m mm)
  { m := mm, l := fadd (fmul a.l fa) (fmul b.l fb),
    o := (a.o.zip b.o).map (fun e => fadd (fmul e.1 fa) (fmul e.2 fb)),
    w := if a.w = 0 ∧ b.w = 0 then 0 else addU (mulU a.w wa) (mulU b.w wb) }

/-- Neighbours combined. -/
def combPairs : List Part3 → List Part3
  | a :: b :: l => combine a b :: combPairs l
  | l => l

/-- A balanced tree of pairs over partials in a free order (R157). -/
def combTree : Nat → List Part3 → Option Part3
  | 0, l => l.head?
  | fuel + 1, l => if l.length ≤ 1 then l.head? else combTree fuel (combPairs l)

/-- A number above 0. -/
def isPos (x : F32) : Bool := !isNaN x && flt 0 x

/-- Partials with l > 0 combined in the order that a free value names. -/
def combAll (order : Nat) (l : List Part3) : Option Part3 :=
  let live := l.filter (fun p => isPos p.l)
  combTree live.length (permuted live.length order live)

/-! ### The partial-result block (R160-R162) -/

/-- What the head table and the o vectors hold of a head. -/
structure HeadOut where
  m   : F32 := negInf
  l   : F32 := 0
  eps : F32 := 0
  o   : List F32 := []
deriving DecidableEq, Repr

/-- One number as a field of 4 bytes. -/
def headField (bf16 up : Bool) (x : F32) : List Byte :=
  if bf16 then leBytes 4 (if up ∧ isFin x then bf16UpS x else (toBf16 x).toNat) else leBytes 4 x.toNat
where
  /-- A number as a `BF16` towards plus infinity. -/
  bf16UpS (x : F32) : Nat :=
    signed fmtBF16 (f32Neg x) (min (if f32Neg x then 0x7F7F else 0x7F80) (magPat fmtBF16 (magRnd .up (f32Neg x)) (toDy x).m.natAbs (toDy x).e false))

/-- The largest omission bound of a block; free where one of them is a NaN (log entry 41). -/
def largestEps (hs : List HeadOut) : F32 :=
  if hs.any (fun h => isNaN h.eps) then BitVec.ofNat 32 (Config.freeUlp 2 3) else hs.foldl (fun a h => fmax a h.eps) (hs.headD {}).eps

/-- A block. -/
def blockBytes (d : Nat) (bf16 merged : Bool) (rstatus tag epoch nkeys snap lower drawers : Nat) (hs : List HeadOut) : List Byte :=
  let emax := largestEps hs
  let head := leBytes 4 0x52545041 ++ [1, BitVec.ofNat 8 rstatus] ++
    leBytes 1 ((if bf16 then 1 else 0) + (if merged then 2 else 0) + (if nkeys = 0 then 4 else 0)) ++ leBytes 1 (d / 16 - 1) ++
    leBytes 2 hs.length ++ leBytes 2 0 ++ leBytes 4 tag ++ leBytes 4 epoch ++ leBytes 4 nkeys ++ leBytes 4 snap ++ leBytes 4 lower ++
    leBytes 4 emax.toNat ++ leBytes 4 drawers
  let table := hs.flatMap (fun h => headField bf16 false h.m ++ headField bf16 false h.l ++ headField bf16 true h.eps ++ leBytes 4 0)
  padTo head 64 ++ padTo table (up64 (16 * hs.length)) ++
  hs.flatMap (fun h =>
    let o := if h.o.isEmpty then List.replicate d (0 : F32) else h.o
    padTo (o.flatMap (fun x => if bf16 then leBytes 2 (toBf16 x).toNat else leBytes 4 x.toNat)) (up64 ((if bf16 then 2 else 4) * d)))

end Sys2Proof.Machine
end

