-- ==== Sys2Proof/Machine/Attend.lean ====
section
/-! DEFINITION. `ATTEND` at admission: query copy, snapshot, selection, runs and prefetch targets (R84, R115, R120-R123, R139, R172-R188,
R245). -/
namespace Sys2Proof.Machine

/-! ### Sorting -/

/-- Insertion into a list in an order. -/
def insertBy {α : Type} (before : α → α → Bool) (a : α) : List α → List α
  | [] => [a]
  | b :: l => if before a b then a :: b :: l else b :: insertBy before a l

/-- A list in an order; elements that the order does not part keep their own. -/
def sortBy {α : Type} (before : α → α → Bool) : List α → List α
  | [] => []
  | a :: l => insertBy (fun x y => before x y || !before y x) a (sortBy before l)

/-! ### Fields of the request -/

def reqG (d : List Byte) : Nat := le d 0x24 1 % 16 + 1
def reqMode (d : List Byte) : Nat := bits (le d 0x25 1) 4 2
def reqOutBf16 (d : List Byte) : Bool := bit (le d 0x25 1) 3
def reqSink (d : List Byte) : Nat := le d 0x26 2
def reqM (d : List Byte) : Nat := le d 0x28 4
def reqRecent (d : List Byte) : Nat := le d 0x2C 4
def reqBudget (d : List Byte) : Nat := le d 0x30 4
def reqEps (d : List Byte) : F32 := BitVec.ofNat 32 (le d 0x34 4)

/-- The held query head j. -/
def queryHead (r : Req) (d j : Nat) : List F32 := (r.query.drop (j * d)).take d

/-! ### Results (R130, R163, R353) -/

/-- A result block goes to its route, then the request completes. A network route whose queue pair takes no message ends it with
`ABORTED`. A replayed request gives its block to the comparison alone (R490). -/
def deliver (s : State) (id : Nat) (r : Req) (status i0 i1 i2 i3 roff imm : Nat) (block : List Byte) : State :=
  if r.replay then complete s id r status 0 i0 i1 i2 i3 block
  else if rtKind r.route = 0 then
    complete (refWrite s r.part (rtBase r.route + roff) block) id r status 0 i0 i1 i2 i3 block
  else if qpDead s (rtQpn r.route) then complete s id r stAborted 0 0 0 0 0
  else
    let s1 := postMsg s (rtQpn r.route)
      { kind := .write, tclass := r.tclass.getD 0, va := (rtBase r.route + roff) % 2 ^ 64,
        rkey := rtKey r.route, imm := imm, bytes := block }
    complete s1 id r status 0 i0 i1 i2 i3 block

/-- The check of a result's place in its route (R115, R130, R542). -/
def roffFail (r : Req) (off size : Nat) : Option Fail :=
  let roff := le r.desc off 4
  if roff % 64 ≠ 0 ∨ roff + size > rtLimit r.route then some { status := stBadDescriptor, detail := off } else none

/-! ### Candidates and bounds (R172-R174, R178) -/

/-- Seen positions of a drawer in a range. -/
def seenIn (sh : Shelf) (series idx lo snap : Nat) : Nat :=
  let a := drawerPos sh series idx
  min snap (a + serT sh.prof series) - max lo a

/-- The K drawers of a head that overlap a range, ascending. -/
def overlapping (sh : Shelf) (head lo snap : Nat) : List Nat :=
  sortBy (fun a b => decide (a < b))
    ((sh.drawers.filter (fun d => decide (d.series = 2 * head) && decide (seenIn sh d.series d.idx lo snap > 0))).map (·.idx))

/-- The candidates of a head with their counts: those that a program does not mask whole (R172). -/
def candidates (sh : Shelf) (prog : List Byte) (head lo snap : Nat) : List (Nat × Nat) :=
  ((overlapping sh head lo snap).filter (fun j =>
    let last := min snap (drawerPos sh (2 * head) j + serT sh.prof (2 * head)) - 1
    !spMasks prog (snap - 1 - last))).map (fun j => (j, seenIn sh (2 * head) j lo snap))

/-- Summary of a drawer as `F32` minima and maxima, or none where it is lost (R91). -/
def summaryOf (d : Drawer) : Option (List F32 × List F32) :=
  if d.sumLost || d.smin.isEmpty then none
  else some (d.smin.map (fun x => ofBf16 (BitVec.ofNat 16 x)), d.smax.map (fun x => ofBf16 (BitVec.ofNat 16 x)))

/-- The bounds of a candidate for the g query heads of its KV head. -/
def candBounds (sh : Shelf) (r : Req) (head idx : Nat) : List F32 :=
  let g := reqG r.desc
  let d := profD sh.prof
  let sum := (getDrawer sh (2 * head) idx).bind summaryOf
  (List.range g).map (fun j =>
    match sum with
    | none => posInf
    | some (mn, mx) =>
      spBound r.sprog (head * g + j) (boundRaw r.cfmt (serFmt sh.prof (2 * head)) d mn mx (queryHead r d (head * g + j))))

/-- A of the keys of a drawer that a request scores for a query head (R59), rounded up. -/
def keysA (sh : Shelf) (r : Req) (head : Nat) (d : Drawer) (q : List F32) : F32 :=
  let f := serFmt sh.prof d.series
  let dim := profD sh.prof
  let a := fun (rec : List Byte) =>
    if f % 16 = 5 ∨ f % 16 = 6 then
      let gs := recGroups f dim rec
      let n := groupSize f
      let cs := chunks n dim (recCodes f dim rec)
      let qs := chunks n dim q
      pathSum addU 4 ((List.range (dim / n)).map (fun i =>
        let g := gs.getD i (0, 0)
        let qc := pathSum addU 4 (((qs.getD i []).zip (cs.getD i [])).map (fun e => mulU (fabs e.1) (fabs (ofInt e.2))))
        let sq := pathSum addU 4 ((qs.getD i []).map fabs)
        mulU (ofBf16 g.1) (addU qc (mulU (fabs (ofInt g.2)) sq))))
    else pathSum addU 4 ((q.zip (decRecord f dim (seriesTab sh (2 * head)) rec)).map (fun e => mulU (fabs e.1) (fabs e.2)))
  let recs := (List.range d.count).filterMap (fun i =>
    let p := drawerPos sh d.series d.idx + i
    if r.lo ≤ p ∧ p < r.snap ∧ spMasks r.sprog (r.snap - 1 - p) = false then
      some (padTo (bslice d.data (i * serB sh.prof d.series) (serB sh.prof d.series)) (serB sh.prof d.series))
    else none)
  recs.foldl (fun m rec => fmax m (mulU (a rec) (raiseUlp 1 (cD dim)))) 0

/-- A over the keys of drawers to be scored (R59), for each query head of a KV head. -/
def scoredA (sh : Shelf) (r : Req) (head : Nat) (idxs : List Nat) : List F32 :=
  let g := reqG r.desc
  let d := profD sh.prof
  (List.range g).map (fun j =>
    let q := queryHead r d (head * g + j)
    idxs.foldl (fun m i =>
      match getDrawer sh (2 * head) i with
      | none => m
      | some x => fmax m (keysA sh r head x q)) 0)

/-- Rank of a drawer: the largest of its bounds (R178). -/
def rankOf (bs : List F32) : F32 := bs.foldl fmax negInf

/-- The order of ranks: higher rank first, then higher index, then lower head. -/
def rankBefore (a b : Cand) : Bool :=
  let x := rankOf a.fresh
  let y := rankOf b.fresh
  flt y x || (!flt x y && (decide (a.idx > b.idx) || (decide (a.idx = b.idx) && decide (a.head < b.head))))

/-- The windows of R177 over ascending candidates. -/
def windows (r : Req) (cs : List Nat) : List Nat :=
  cs.filter (fun j => (cs.take (reqSink r.desc)).contains j || (cs.drop (cs.length - reqRecent r.desc)).contains j)

/-- Drawers that round 1 selects in a series of candidates (R177). -/
def round1Count (r : Req) (cs : List Nat) : Nat :=
  if reqMode r.desc = 0 then cs.length
  else let w := (windows r cs).length; w + min (reqM r.desc) (cs.length - w)

/-- Round 1 of a KV head: the drawers selected and the candidates left out with their bounds. -/
def round1 (sh : Shelf) (r : Req) (head : Nat) : List Nat × List Cand :=
  let cs := candidates sh r.sprog head r.lo r.snap
  if reqMode r.desc = 0 then (cs.map (·.1), [])
  else
    let w := windows r (cs.map (·.1))
    let rest := sortBy rankBefore ((cs.filter (fun c => !w.contains c.1)).map (fun c =>
      let b := candBounds sh r head c.1
      { head := head, idx := c.1, nx := c.2, bounds := b, fresh := b }))
    let top := rest.take (reqM r.desc)
    (sortBy (fun a b => decide (a < b)) (w ++ top.map (·.idx)), rest.drop (reqM r.desc))

/-! ### Runs (R139) -/

/-- The stack of a K drawer, none outside HBM. -/
def kStack (sh : Shelf) (head idx : Nat) : Option Nat := ((getDrawer sh (2 * head) idx).bind (fun d => locPlace d.loc)).map (·.stack)

/-- The positions of a K drawer that a request sees and does not mask. -/
def seenPositions (sh : Shelf) (r : Req) (head j : Nat) : List Nat :=
  let a := drawerPos sh (2 * head) j
  ((List.range (serT sh.prof (2 * head))).map (fun k => a + k)).filter (fun p =>
    decide (r.lo ≤ p) && decide (p < r.snap) && !spMasks r.sprog (r.snap - 1 - p))

/-- The V drawers that hold rising positions, with the number of them in each (R71, R155). -/
def vCounts (sh : Shelf) (head : Nat) (ps : List Nat) : List (Nat × Nat) :=
  let t := serT sh.prof (2 * head + 1)
  (ps.foldl (fun (l : List (Nat × Nat)) p =>
    let v := (p - sh.base) / t
    match l with
    | (w, n) :: rest => if w = v then (w, n + 1) :: rest else (v, 1) :: l
    | [] => [(v, 1)]) []).reverse

/-- The runs of a round of one KV head: drawers grouped by location and cut into runs of 16. -/
def mkRuns (sh : Shelf) (r : Req) (head round : Nat) (idxs : List Nat) : List Run :=
  (none :: (List.range 16).map some).flatMap (fun loc =>
    let g := idxs.filter (fun j => decide (kStack sh head j = loc))
    (chunks 16 g.length g).map (fun l => { head := head, drawers := l, vs := vCounts sh head (l.flatMap (seenPositions sh r head)), stack := loc, round := round }))

/-- The largest of two lists, element by element. -/
def maxLists (a b : List F32) : List F32 := if a.isEmpty then b else (a.zip b).map (fun e => fmax e.1 e.2)

/-- The request with round 1 selected and divided into runs (R177, R181, R183). The terms of E_j are added one by one in rank order, where the spec
names no order (DESIGN CHOICE, log entry 137). -/
def startRounds (sh : Shelf) (r : Req) : Req :=
  let h := profH sh.prof
  let g := reqG r.desc
  let picks := (List.range h).map (round1 sh r)
  let runs := (List.range h).flatMap (fun k => mkRuns sh r k 0 (picks.getD k ([], [])).1)
  if reqMode r.desc = 0 then { r with runs := runs, sel := { scored := (picks.map (fun p => p.1.length)).sum } }
  else
    let omitted := picks.flatMap (·.2)
    let scored := (picks.map (fun p => p.1.length)).sum
    let per := (List.range (h * g)).map (fun j =>
      let bs := (omitted.filter (fun c => decide (c.head = j / g))).map (fun c => (c.nx, c.bounds.getD (j % g) posInf))
      let fin := bs.filter (fun e => isFin e.2)
      let ref := match fin with | [] => 0 | e :: l => l.foldl (fun m x => fmax m x.2) e.2
      (ref, fin.foldl (fun a e => addU a (mulU (ofInt e.1) (expU (subU e.2 ref)))) (0 : F32)))
    let cap := min 1024 (reqBudget r.desc - scored)
    let list := if reqMode r.desc = 2 then ((sortBy rankBefore omitted).take cap).map (fun c => (c.head, c.idx)) else []
    { r with runs := runs, sel := { scored := scored, omitted := omitted, list := list, bref := per.map (·.1), e := per.map (·.2),
                                    amax := (List.range h).flatMap (fun k => scoredA sh r k (picks.getD k ([], [])).1) } }

/-! ### The query copy (R41, R47-R49, R54, R120) -/

/-- The held query of a shelf: values, compute format, whether booths may score, and whether it was narrowed. -/
def holdQuery (sh : Shelf) (d : List Byte) (q : List F32) : List F32 × Nat × Bool × Bool :=
  let qf := bits (le d 0x25 1) 0 2
  let kf := sh.prof.kfmt
  let dim := profD sh.prof
  let rot := bit kf 5
  let x := if rot then (chunks dim q.length q).flatMap (rotate sh.seed) else q
  let want := if qf = 0 ∧ bit (le d 0x25 1) 2 = true then narrowTo (kf % 16) else none
  let tgt := match want with
    | some 2 => if x.any (fun v => decide (f32Mag v ≥ 0x477FF000)) then none else some 2
    | t => t
  match tgt with
  | some f =>
    let c := (computeFmt (kf % 16) sh.f16x f).getD (0, false)
    (x.map (roundTo f), c.1, c.2, true)
  | none =>
    let c := (computeFmt (kf % 16) sh.f16x qf).getD (0, false)
    (if rot then x.map (roundTo qf) else x, c.1, c.2, false)

/-! ### Plans and prefetch (R245, R247) -/

/-- A lift job is queued at a die's prefetcher, or skipped where the queue is full. -/
def queueLift (s : State) (l : Lift) : State :=
  if (s.tiers.lifts.filter (fun x => decide (x.die = l.die) && !x.demand)).length ≥ 4096 then
    match s.shelf? l.shelf with
    | some sh => bump s (pgPart sh.key.part + 0x228) 16 16 1
    | none => s
  else { s with tiers := { s.tiers with lifts := s.tiers.lifts ++ [l] } }

/-- The drawers of a target shelf that a plan lifts. -/
def liftDrawers (sh : Shelf) (last : Bool) : List (Nat × Nat) :=
  let all := (sh.drawers.filter (fun d => decide (seenIn sh d.series d.idx sh.start sh.visible > 0))).map (fun d => (d.series, d.idx))
  match (if last then sh.lastScored else none) with
  | none => all
  | some ks =>
    let newest := (List.range (profH sh.prof)).flatMap (fun k =>
      ((overlapping sh k sh.start sh.visible).reverse.take 4).map (fun j => (k, j)))
    let want := (ks ++ newest).flatMap (fun e => (2 * e.1, e.2) :: (vOfK sh e.1 e.2).map (fun v => (2 * e.1 + 1, v)))
    all.filter (fun e => want.contains e)

/-- The prefetch that the admission of an `ATTEND` starts. -/
def prefetch (s : State) (die : Nat) (k : ShelfKey) : State :=
  match s.tiers.plans.find? (fun a => decide (a.part = k.part) && decide (a.tenant = k.tenant) && decide (a.conv = k.conv)) with
  | none => s
  | some a =>
    let b := objBytes s k.part a.plan
    let n := planN b
    match (List.range n).find? (fun i => decide ((planEntry b i).1 = k.layer)) with
    | none => s
    | some i =>
      if a.last = some i then s
      else
        let s1 := { s with tiers := { s.tiers with plans := s.tiers.plans.map (fun x => if x = a then { a with last := some i } else x) } }
        let layers := (List.range (min a.depth (n - 1))).filterMap (fun m =>
          let e := planEntry b ((i + m + 1) % n)
          if e.2 then none else some e.1)
        layers.foldl (fun s layer =>
          (s.dir.shelves.filter (fun e => decide (e.2.key.part = k.part) && decide (e.2.key.tenant = k.tenant) && decide (e.2.key.conv = k.conv) &&
              decide (e.2.key.layer = layer) && decide (e.2.state = .live) && !hidden s e.2)).foldl (fun s e =>
            (liftDrawers e.2 (decide (le b 5 1 = 1))).foldl (fun s d =>
              queueLift s { die := die, shelf := e.1, series := d.1, idx := d.2 }) s) s) s1

/-! ### Completion of an ATTEND -/

/-- The heads of an `ATTEND` from its run partials and omission bounds (R157-R162). -/
def attendHeads (sh : Shelf) (r : Req) (order : Nat) (eps : List F32) : List HeadOut :=
  let g := reqG r.desc
  (List.range (profH sh.prof * g)).map (fun j =>
    let ps := (r.runs.filter (fun x => decide (x.head = j / g))).map (fun x =>
      { m := x.m.getD (j % g) negInf, l := x.l.getD (j % g) 0, o := x.o.getD (j % g) [] })
    match combAll order ps with
    | none => { eps := eps.getD j 0 }
    | some p => { m := p.m, l := p.l, eps := eps.getD j 0, o := if bit sh.prof.vfmt 5 then unrotate sh.seed p.o else p.o })

/-- The K drawers that a request has scored. -/
def scoredOf (r : Req) : List (Nat × Nat) := r.runs.flatMap (fun x => x.drawers.map (fun j => (x.head, j)))

/-- An `ATTEND` is finished: its block is written, then its completion. `order` names the pairs of the last combine (R157). `N_KEYS` counts the keys
of every KV head (DEDUCED, log entry 137). -/
def finishAttend (s : State) (id : Nat) (r : Req) (i : Nat) (sh : Shelf) (status order : Nat) (eps : List F32) : State :=
  let hs := attendHeads sh r order eps
  let n := (r.runs.map (·.n)).sum
  let k := (scoredOf r).length
  let block := blockBytes (profD sh.prof) (reqOutBf16 r.desc) false status (dTag r.desc) (dEpoch r.desc) n r.snap r.lo k hs
  let emax := largestEps hs
  let s2 := match s.shelf? i with
    | some x => s.setShelf i { x with lastScored := some (scoredOf r) }
    | none => s
  deliver s2 id r status n k r.coldN emax.toNat (le r.desc 0x38 4) (le r.desc 0x3C 4) block

/-! ### Admission step 10 and 11 -/

/-- The checks that need the profile: score program, selection, result place and query range. Of several failures the field at the
lowest offset is named (DEDUCED, log entry 27). -/
def attendFail (s : State) (r : Req) (sh : Shelf) : Option Fail :=
  let d := r.desc
  let h := profH sh.prof
  let g := reqG d
  let dim := profD sh.prof
  let bytes := h * g * dim * srcSize (bits (le d 0x25 1) 0 2)
  let bad := fun (c : Bool) (off : Nat) => if c then some ({ status := stBadDescriptor, detail := off } : Fail) else none
  let r1 := ((List.range h).map (fun k => round1Count r ((candidates sh r.sprog k r.lo r.snap).map (·.1)))).sum
  let mode := reqMode d
  [refFail s r.part d 0x18 bytes, bad (!r.sprog.isEmpty && decide (spNqh r.sprog ≠ h * g)) 0x22,
   bad (decide (mode ≠ 0) && decide (reqSink d = 0) && decide (reqM d = 0) && decide (reqRecent d = 0)) 0x28,
   bad (decide (mode = 2) && decide (reqBudget d < r1)) 0x30,
   bad (decide (mode = 2) && !posFin (reqEps d)) 0x34,
   roffFail r 0x38 (blockSize (h * g) dim (reqOutBf16 d))].findSome? id

/-- The summaries of a shelf are read for a selection (R91, R178, R184, R188). -/
def readSums (s : State) (i : Nat) : State := (readUse s (fun u => match u with | .summary j _ _ => decide (j = i) | _ => false)).2

/-- An `ATTEND` on a shelf that exists: snapshot, query copy, selection, bucket and prefetch. -/
def attendFound (s : State) (id : Nat) (r0 : Req) (i : Nat) (sh : Shelf) : State :=
  let d := r0.desc
  let lo := if isRing sh.prof then max sh.start (sh.visible - sh.prof.ringW) else sh.start
  let r := if r0.replay then { r0 with lo := le r0.entry 0x1C 4, snap := le r0.entry 0x18 4 } else { r0 with lo := lo, snap := sh.visible }
  match attendFail s r sh with
  | some f => failReq s id r f
  | none =>
    let fmt := bits (le d 0x25 1) 0 2
    let n := profH sh.prof * reqG d * profD sh.prof
    match refRead s r.part (le d 0x18 8) (n * srcSize fmt) with
    | (none, s1) => failReq s1 id r { status := stIntegrity }
    | (some b, s1) =>
      let q := srcElems fmt n b
      if !q.all srcOk then failReq s1 id r { status := stBadDescriptor, detail := 0x18 }
      else
        let (hq, c, ok, nar) := holdQuery sh d q
        let r1 := { r with query := hq, cfmt := c, boothOk := ok, narrowed := nar, shelf := some i, since := s1.time.ns,
                           cap := r.cap.map (fun k => { k with input := b }) }
        let s2 := prefetch s1 (r.ring / 1024) (dKey d)
        if r.lo ≥ r.snap then finishAttend s2 id r1 i sh stOk 0 []
        else
          let seen := ((List.range (profH sh.prof)).map (fun k => (overlapping sh k r.lo r.snap).length)).sum
          let dc := if reqMode d = 0 then seen else min seen (reqM d + reqRecent d + reqSink d)
          let s3 := if reqMode d = 0 then s2 else readSums s2 i
          s3.setReq id { startRounds ((s3.shelf? i).getD sh) r1 with bucket := some (min 7 (Nat.log2 dc)) }

/-- Step 10 and effect of `ATTEND`. -/
def doAttend (s : State) (id : Nat) (r : Req) : State :=
  withShelf s id r (dKey r.desc) (fun s i sh => attendFound s id r i sh) (fun s => failReq s id r { status := stLost })

/-- `ATTEND` (R115). -/
def execAttend (ring : Fin 4096) (s : State) : Res := .next (admitOp s ring.val 0x01 doAttend)

end Sys2Proof.Machine
end

