-- ==== Sys2Proof/Machine/Passes.lean ====
section
/-! DEFINITION. Runs on their way through the three passes, the safety-net loop, combining, retries and `MERGE` (R124, R139-R149,
R154-R169, R180-R188, R205, R206, R208). -/
namespace Sys2Proof.Machine

/-! ### Segments (R145-R147, R231) -/

/-- A segment of a size can be taken in a stack. -/
def segFits (s : State) (p k n : Nat) : Bool :=
  !(s.hbmc k).fenced && !(partPcs s p k).isEmpty && decide (scratchUsed s p k + n ≤ (s.part p).scratch * 2 ^ 20)

/-- The stack of a segment for a run on a tile of a die: a back stack first (R146). -/
def tileSeg (s : State) (p die n : Nat) : Option Nat := (backs die ++ fronts die).find? (fun k => segFits s p k n)

/-! ### V drawers of a run (R71, R143) -/

/-- The V drawers that hold the positions of a run. -/
def runV (x : Run) : List Nat := x.vs.map (·.1)

/-- The stack of a V drawer. -/
def vStack (sh : Shelf) (head v : Nat) : Option Nat := ((getDrawer sh (2 * head + 1) v).bind (fun d => locPlace d.loc)).map (·.stack)

/-- The die of the stack that holds most of a run's V records; of stacks that hold equally many the lowest (DESIGN CHOICE, log entry 138). -/
def vDie (sh : Shelf) (x : Run) : Option Nat :=
  let w := fun k => (x.vs.map (fun e => if vStack sh x.head e.1 = some k then e.2 else 0)).sum
  ((List.range 16).foldl (fun (b : Option (Nat × Nat)) k =>
    if w k > (match b with | some e => e.2 | none => 0) then some (k, w k) else b) none).map (fun e => stackDie e.1)

/-! ### Tiles (R16, R18, R140, R142, R143) -/

/-- A run is in flight on its tile: dispatched, and its Pass V not ended. -/
def inFlight (x : Run) : Bool := decide (x.phase = .scoring) || decide (x.phase = .normed)

/-- A run holds a thread of its tile: it is in flight, or the thread holds its partial for the combine step (R140). -/
def onThread (x : Run) : Bool := inFlight x || (decide (x.phase = .done) && !x.handed)

/-- The runs on the threads of a tile with their requests. -/
def tileRuns (s : State) (tile : Nat) : List (Nat × Run) :=
  s.reqs.flatMap (fun e => (e.2.runs.filter (fun x => onThread x && decide (x.tile = tile))).map (fun x => (e.1, x)))

/-- A tile has a thread for a run of a request: one is free, or one holds no more than a partial (log entry 38). -/
def threadFor (s : State) (req tile : Nat) : Bool :=
  let rs := tileRuns s tile
  let ids := (rs.map (·.1)).eraseDups
  (decide (rs.length < 32) || rs.any (fun e => !inFlight e.2)) && (ids.contains req || decide (ids.length < 8))

/-- The tiles of a partition on a die that take new runs. -/
def openTiles (s : State) (p die : Nat) : List Nat :=
  (partTiles s p).filter (fun t => decide (t / 48 = die) && !(s.part p).rmTiles.contains t)

/-- The die whose scheduler queues a run: the home die of its request until it is handed on (R142). -/
def queueDie (r : Req) (x : Run) : Nat := x.sched.getD (r.ring / 1024)

/-- The K drawers of a partition that wait in a bucket of a die's scheduler; a task of a search counts as one (DESIGN CHOICE, log entry 130). -/
def queuedDrawers (s : State) (p die b : Nat) : Nat :=
  ((s.reqs.filter (fun e => decide (e.2.part = p) && decide (e.2.bucket = some b))).map (fun e =>
    ((e.2.runs.filter (fun x => decide (x.phase = .queued) && decide (queueDie e.2 x = die))).map (fun x => max 1 x.drawers.length)).sum)).sum

/-- The bucket of a tile; a tile that no run has met has bucket 0 (DESIGN CHOICE, log entry 139). -/
def tileBucket (s : State) (t : Nat) : Nat := tget 0 s.tileTag t

/-- The tiles that a bucket is due of the partition's tiles on a die (R142): with 8 tiles or more one for each non-empty bucket, and the others in proportion
to the drawers queued, rounded down. -/
def bucketShare (s : State) (p die b : Nat) : Nat :=
  let q := fun k => queuedDrawers s p die k
  let total := ((List.range 8).map q).sum
  let n := (openTiles s p die).length
  let first := if n ≥ 8 then 1 else 0
  let live := ((List.range 8).filter (fun k => decide (q k > 0))).length
  if q b = 0 then 0 else first + (n - first * live) * q b / total

/-- The tiles of a partition on a die that have a bucket. -/
def bucketTiles (s : State) (p die b : Nat) : Nat := ((openTiles s p die).filter (fun t => decide (tileBucket s t = b))).length

/-- The buckets in the order of a visit that starts at one of them (R124). -/
def bucketsFrom (b : Nat) : List Nat := (List.range 8).map (fun i => (b + i) % 8)

/-- The bucket that a die's scheduler visits next for a partition. -/
def bucketTurn (s : State) (p die : Nat) : Nat := tget 0 (tget {} s.sched die).buckets p

/-- The first non-empty bucket of that visit. -/
def nextBucket (s : State) (p die : Nat) : Option Nat := (bucketsFrom (bucketTurn s p die)).find? (fun k => decide (queuedDrawers s p die k > 0))

/-- An empty tile may be given to a bucket (R142): with 8 tiles or more to one that has fewer than it is due, from one that has more, or any left over when
each has its due; with fewer tiles to the one whose turn it is. How shares are rounded is a choice (log entry 139). -/
def mayRetag (s : State) (p die b tile : Nat) : Bool :=
  let a := tileBucket s tile
  (tileRuns s tile).all (fun e => !inFlight e.2) &&
  (if (openTiles s p die).length ≥ 8 then
    decide (bucketTiles s p die a > bucketShare s p die a) &&
      (decide (bucketTiles s p die b < bucketShare s p die b) ||
        (List.range 8).all (fun k => decide (bucketShare s p die k ≤ bucketTiles s p die k)))
   else decide (nextBucket s p die = some b))

/-- A tile of a partition has the way and the thread that a run needs. -/
def tileCan (s : State) (p req tile : Nat) : Bool :=
  (openTiles s p (tile / 48)).contains tile && (partWays s p).any (fun w => decide (w / 48 = tile / 48)) && threadFor s req tile

/-- A tile takes a run of a request from the bucket of a die's scheduler: it has that bucket or is given to it. On another die its own scheduler decides. -/
def tileOk (s : State) (p req die bucket tile : Nat) : Bool :=
  tileCan s p req tile &&
  (decide (tile / 48 ≠ die) || decide (tileBucket s tile = bucket) || mayRetag s p die bucket tile)

/-- The preference class of a tile for a run (R143). -/
def tilePref (sh : Shelf) (x : Run) (tile : Nat) : Nat :=
  if vDie sh x = some (tile / 48) then 0 else if x.stack.map stackDie = some (tile / 48) then 1 else 2

/-- No better tile can take the run. -/
def tileBest (s : State) (sh : Shelf) (p req die bucket : Nat) (x : Run) (tile : Nat) : Bool :=
  (partTiles s p).all (fun t => !tileOk s p req die bucket t || decide (tilePref sh x tile ≤ tilePref sh x t))

/-- A request has a run in its bucket. -/
def inBucket (r : Req) : Bool := r.runs.any (fun x => decide (x.phase = .queued))

/-- A task of a search may go to a tile: one of `HOME` that takes runs of bucket 7, and not the ninth tile of the search (R307). -/
def taskOk (s : State) (id : Nat) (r : Req) (x : Srch) (tile : Nat) : Bool :=
  decide (tile / 48 = x.home) && tileOk s r.part id x.home 7 tile && (x.tiles.contains tile || decide (x.tiles.length < 8))

/-- A run of a request waits in the bucket of a die's scheduler. -/
def waitsAt (r : Req) (die : Nat) : Bool := r.runs.any (fun x => decide (x.phase = .queued) && decide (queueDie r x = die))

/-- The lowest thread of a tile that holds no run. -/
def freeThread (s : State) (tile : Nat) : Nat := (lowestFree ((tileRuns s tile).map (fun e => e.2.thread)) 32).getD 0

/-- Where every thread of a tile is taken, the first partial that waits there gives its thread up (DEDUCED, log entry 38). -/
def yieldThread (s : State) (tile : Nat) : State :=
  if (tileRuns s tile).length < 32 then s
  else
    let waits := fun (x : Run) => decide (x.phase = .done) && !x.handed && decide (x.tile = tile)
    match s.reqs.find? (fun e => e.2.runs.any waits) with
    | none => s
    | some e => s.setReq e.1 { e.2 with runs := modAt (fun x => { x with handed := true }) (e.2.runs.findIdx waits) e.2.runs }

/-! ### Booth jobs (R204-R208, R221) -/

/-- The script descriptors of a stack that match a run, lowest first. -/
def matchScript (s : State) (f kf cfmt d g : Nat) : Option Nat :=
  ((List.range 8).find? (fun i =>
    let x := (s.fstack f).desc.getD i []
    bit (le x 5 1) 7 && decide (bits (le x 2 1) 0 5 = kf % 32) && decide (bits (le x 3 1) 0 2 = cfmt) &&
    decide (bits (le x 4 1) 0 4 + 1 = d / 16) && decide (g ≤ bits (le x 5 1) 0 4 + 1)))

/-- The feeder slot of a run: loaded already, or free to the partition. -/
def findSlot (s : State) (f p req head round : Nat) : Option (Nat × Bool) :=
  let t := (s.fstack f).slots
  match t.find? (fun e => decide (e.2.req = req) && decide (e.2.head = head) && decide (e.2.round = round)) with
  | some e => some (e.1, true)
  | none =>
    if (t.filter (fun e => decide (e.2.part = p))).length ≥ 8 then none
    else (lowestFree (tkeys t) 32).map (fun i => (i, false))

/-- A feeder slot as a thread loads it. -/
def loadSlot (sh : Shelf) (id : Nat) (r : Req) (x : Run) : Slot :=
  let g := reqG r.desc
  let d := profD sh.prof
  let qs := (List.range g).map (fun j => queryHead r d (x.head * g + j))
  { req := id, head := x.head, round := x.round, part := r.part, cfmt := r.cfmt, g := g, d := d, cd := cD d,
    query := qs.flatMap (fun q => q.map (fun v => if r.cfmt = 2 then toF16 v else toBf16 v)),
    sums := if sh.prof.kfmt % 16 = 5 then qs.flatMap (groupSums sh.prof.kfmt) else [],
    cb := if sh.prof.kfmt % 16 = 7 then seriesTab sh (2 * x.head) else [] }

/-- The booth of a front-stack drawer of a run, and its place within the pair. -/
def drawerBooth (sh : Shelf) (head idx : Nat) : Option (Nat × Nat) :=
  ((getDrawer sh (2 * head) idx).bind (fun d => locPlace d.loc)).map (fun q => (boothNo q.stack (placeBooth q), q.slot % 5080))

/-- The owning controller accepts a run for booths (R208): the script descriptor and the slot. -/
def acceptRun (s : State) (id : Nat) (r : Req) (sh : Shelf) (x : Run) (f : Nat) : Option (Nat × Nat × Bool) :=
  let bs := (x.drawers.filterMap (drawerBooth sh x.head)).map (·.1)
  if rdf s (pgBth f 0 + 0x100) 0 1 = 1 ∧
     bs.all (fun b => let y := s.booth b; !y.disabled && decide (y.queue.length + (bs.filter (· = b)).length ≤ 16)) then
    match matchScript s f sh.prof.kfmt r.cfmt (profD sh.prof) (reqG r.desc), findSlot s f r.part id x.head x.round with
    | some sc, some (sl, have_) => some (sc, sl, have_)
    | _, _ => none
  else none

/-! ### Reading drawers (R91, R144, R148, R156, R233) -/

/-- A lost summary is formed again when Pass S reads every key of a drawer. -/
def reformSummary (s : State) (i series idx : Nat) (lo snap : Nat) : State :=
  match s.shelf? i with
  | none => s
  | some sh =>
    match getDrawer sh series idx with
    | none => s
    | some d =>
      let a := drawerPos sh series idx
      if d.sumLost ∧ lo ≤ a ∧ a + d.count ≤ snap then
        let m := summarize sh series (drawerRecords sh series d.count d.data) ([], [])
        (wroteUse s (fun u => decide (u = .summary i (series / 2) idx))).setShelf i (setDrawer sh { d with smin := m.1, smax := m.2, sumLost := false })
      else s

/-- The scores of the drawer at place `n` of a run, on tiles: entries of the score plane. -/
def scoreDrawer (sh : Shelf) (r : Req) (x : Run) (n : Nat) (d : Drawer) : List (Nat × F32) :=
  let g := reqG r.desc
  let dim := profD sh.prof
  let t := serT sh.prof d.series
  let b := serB sh.prof d.series
  let tab := seriesTab sh d.series
  (List.range g).flatMap (fun j =>
    let q := queryHead r dim (x.head * g + j)
    (List.range d.count).filterMap (fun k =>
      let p := drawerPos sh d.series d.idx + k
      if r.lo ≤ p ∧ p < r.snap then
        some ((j * x.drawers.length + n) * t + k, tileScore (serFmt sh.prof d.series) dim tab q (padTo (bslice d.data (k * b) b) b))
      else none))

/-- A table with entries put in. -/
def tputs {α : Type} (t : Tab α) (l : List (Nat × α)) : Tab α := l.foldl (fun t e => tput t e.1 e.2) t

/-- One run of a request replaced. -/
def setRun (r : Req) (n : Nat) (x : Run) : Req := { r with runs := modAt (fun _ => x) n r.runs }

/-- A run meets a damaged drawer: the request ends with `INTEGRITY` and the shelf is damaged (R156, R271). -/
def runIntegrity (s : State) (id : Nat) (r : Req) (i tile : Nat) (where_ : Nat × Nat ⊕ Nat) : State :=
  damage (raise (endAttend s id r { status := stIntegrity }) (pgTcl (tile / 12)) 2 []) i where_

/-- The places of a run's K drawers and of its V drawers as (series, index). -/
def runDrawers (x : Run) : List (Nat × Nat) :=
  x.drawers.map (fun j => (2 * x.head, j)) ++ (runV x).map (fun v => (2 * x.head + 1, v))

/-- A drawer outside HBM: in the cabinet or remote. -/
def isCold (sh : Shelf) (k : Nat × Nat) : Bool :=
  match getDrawer sh k.1 k.2 with
  | some d => (match d.loc with | .cab _ => true | .remote => true | _ => false)
  | none => false

/-- A drawer that a run needs is gone or lies in a fenced stack (R282). -/
def unreachable (s : State) (sh : Shelf) (k : Nat × Nat) : Bool :=
  match getDrawer sh k.1 k.2 with
  | none => true
  | some d => match locPlace d.loc with | some q => (s.hbmc q.stack).fenced | none => false

/-- The READ of a remote drawer that a run needs, ahead of the sweep, where none is in flight (R407). -/
def demandRead (s : State) (i : Nat) (k : Nat × Nat) : State :=
  match s.shelf? i with
  | none => s
  | some sh =>
    match sh.pull, getDrawer sh k.1 k.2 with
    | some pl, some d =>
      if d.loc = .remote ∧ pl.inFlight.contains k = false then
        let s1 := peerStall s sh.key.part pl.peer
        (postRead s1 sh.key.part pl.peer pl.rkey (2 ^ 37 * k.1 + 65536 * k.2)).setShelf i { sh with pull := some { pl with inFlight := pl.inFlight ++ [k] } }
      else s
    | _, _ => s

/-- A run starts on tiles: every K drawer in HBM is scored at once, the rest as they arrive. -/
def startTiles (s : State) (id : Nat) (r : Req) (i : Nat) (sh : Shelf) (n : Nat) (x0 : Run) : State :=
  let ks := runDrawers x0
  let cold := ks.filter (isCold sh)
  let x1 := { x0 with coldLeft := cold }
  let kd := (x0.drawers.zip (List.range x0.drawers.length)).filterMap (fun e => (getDrawer sh (2 * x0.head) e.1).map (fun d => (e.2, d)))
  let hot := kd.filter (fun e => (locPlace e.2.loc).isSome)
  match readDrawers s (hot.map (·.2)) with
  | (some w, s0) => runIntegrity s0 id r i x0.tile (.inl w)
  | (none, s0) =>
    let x2 := { x1 with scores := tputs [] (hot.flatMap (fun e => scoreDrawer sh r x0 e.1 e.2)) }
    let s1 := s0.setReq id (setRun r n x2)
    let s2 := hot.foldl (fun s e => reformSummary (touch s i e.2.series e.2.idx) i e.2.series e.2.idx r.lo r.snap) s1
    cold.foldl (fun s k => demandRead s i k) s2

/-- The job of a drawer of a run (R205). -/
def mkJob (sh : Shelf) (id : Nat) (r : Req) (n : Nat) (x : Run) (script slot place seg : Nat) (d : Drawer) (dplace : Nat) : Job :=
  { script := script, slot := slot, place := place, runLen := x.drawers.length, dplace := dplace, count := d.count,
    first := drawerPos sh d.series d.idx, lower := r.lo, snap := r.snap, t := serT sh.prof d.series, thread := 32 * x.tile + x.thread,
    seg := seg, req := id, run := n, try_ := r.fails }

/-- The address of a segment in a stack, which the spec leaves open: somewhere in a pseudo-channel of the partition that is not retiring (R280; log
entry 90). -/
def drawSeg (s : State) (p k : Nat) : Nat × State :=
  let (v, s1) := draw s
  let pcs := partPcs s p k
  ((pcs.getD (v % max pcs.length 1) 0 * linesPerPc + v / 64 % linesPerPc) * 64, s1)

/-- A run starts on booths: the slot is loaded and one job is written for each drawer. -/
def startBooths (s : State) (id : Nat) (r : Req) (i : Nat) (sh : Shelf) (n : Nat) (x0 : Run) (f script slot : Nat) (have_ : Bool) : State :=
  let x1 := { x0 with booth := true, slot := slot, jobsLeft := x0.drawers.length, coldLeft := (runDrawers x0).filter (isCold sh) }
  let fs := s.fstack f
  let s1 := if have_ then s else s.setFstack f { fs with slots := tput fs.slots slot (loadSlot sh id r x0) }
  let s2 := (x0.drawers.zip (List.range x0.drawers.length)).foldl (fun s e =>
    match getDrawer sh (2 * x0.head) e.1, drawerBooth sh x0.head e.1 with
    | some d, some (b, dp) =>
      let y := s.booth b
      s.setBooth b { y with queue := y.queue ++ [mkJob sh id r n x0 script slot e.2 x0.seg d dp] }
    | _, _ => s) s1
  let s3 := s2.setReq id (setRun { r with booth := true } n x1)
  let s4 := x0.drawers.foldl (fun s j => touch s i (2 * x0.head) j) s3
  x1.coldLeft.foldl (fun s k => demandRead s i k) s4

/-- A run could start now: some tile takes it and a segment is at hand, or it could be handed on. -/
def canStart (s : State) (id : Nat) (r : Req) (x : Run) : Bool :=
  match r.srch with
  | some j => (partTiles s r.part).any (taskOk s id r j)
  | none =>
  match reqShelf s r, r.bucket with
  | some sh, some b =>
    let die := queueDie r x
    let n := segBytes sh (reqG r.desc) x
    (partTiles s r.part).any (fun t => tileOk s r.part id die b t && tileBest s sh r.part id die b x t &&
      (decide (t / 48 ≠ die) || (tileSeg s r.part die n).isSome || (match x.stack.filter isFront with | some f => segFits s r.part f n | none => false)))
  | _, _ => false

/-- The oldest request of a partition that waits in a bucket of a die's scheduler. -/
def oldestIn (s : State) (p die b : Nat) : Option (Nat × Req) :=
  s.reqs.find? (fun e => decide (e.2.part = p) && decide (e.2.bucket = some b) && waitsAt e.2 die)

/-- The oldest request of a bucket has a run that could start now. -/
def bucketReady (s : State) (p die b : Nat) : Bool :=
  match oldestIn s p die b with
  | none => false
  | some e => e.2.runs.any (fun x => decide (x.phase = .queued) && decide (queueDie e.2 x = die) && canStart s e.1 e.2 x)

/-- A request's turn at a die's scheduler (R124): urgent requests of its partition come first; else the buckets are visited in turn, past those of which
nothing can start, and the oldest request of a bucket comes first. -/
def hasTurn (s : State) (id : Nat) (r : Req) (die : Nat) : Bool :=
  let mine := s.reqs.filter (fun e => decide (e.1 ≠ id) && decide (e.2.part = r.part) && inBucket e.2)
  if r.urgent then mine.all (fun e => !e.2.urgent || decide (e.2.bucket ≠ r.bucket) || !waitsAt e.2 die || decide (id < e.1))
  else
    mine.all (fun e => !e.2.urgent) &&
    (match r.bucket with
     | none => false
     | some b => decide ((oldestIn s r.part die b).map (·.1) = some id) &&
        ((bucketsFrom (bucketTurn s r.part die)).takeWhile (fun k => decide (k ≠ b))).all (fun k => !bucketReady s r.part die k))

/-- The visit of a die's scheduler goes on past a bucket that it has served. -/
def passTurn (s : State) (p die b : Nat) (urgent : Bool) : State :=
  if urgent then s
  else
    let x := tget {} s.sched die
    { s with sched := tput s.sched die { x with buckets := tput x.buckets p ((b + 1) % 8) } }

/-- A run goes over to the scheduler of another die, which queues it in its bucket (R142). -/
def handOver (s : State) (id : Nat) (r : Req) (run die : Nat) : State :=
  s.setReq id { r with runs := modAt (fun x => { x with sched := some die }) run r.runs }

/-- A run starts on a tile, on booths where their controller takes it, once a segment is at hand (R141, R146, R147). -/
def startRun (s : State) (req : Nat) (r : Req) (i : Nat) (sh : Shelf) (run : Nat) (x : Run) (b tile : Nat) : State :=
  let p := r.part
  let n := segBytes sh (reqG r.desc) x
  let die := tile / 48
  let s0 := passTurn { yieldThread s tile with tileTag := tput s.tileTag tile b } p (queueDie r x) b r.urgent
  let r0 := (tget? s0.reqs req).getD r
  let x0 := { x with phase := .scoring, tile := tile, thread := freeThread s0 tile }
  let byTile := fun (s s0 : State) =>
    match tileSeg s p die n with
    | none => s
    | some k => let (seg, s1) := drawSeg s0 p k; startTiles s1 req r0 i sh run { x0 with segStack := some k, seg := seg }
  match (if r.boothOk ∧ (s.part p).sealed = false ∧ s.chip.boothCap = true then x.stack.filter isFront else none) with
  | none => byTile s s0
  | some f =>
    match (if segFits s p f n && x.drawers.all (fun j => decide (kStack sh x.head j = some f)) then acceptRun s req r sh x f else none) with
    | some (sc, sl, h) => let (seg, s1) := drawSeg s0 p f; startBooths s1 req r0 i sh run { x0 with segStack := some f, seg := seg } f sc sl h
    | none => byTile s (bump s0 (pgBth f 0 + 0x118) 0 32 1)

/-- A run of an `ATTEND` whose turn it is starts its Pass S on a tile, or goes over to the scheduler of the tile's die (R142, R147). A run whose drawers
have moved since it was formed stays one run, and its drawers are scored on tiles wherever they lie (DESIGN CHOICE, log entry 138). -/
def dispatchRun (s : State) (req : Nat) (r : Req) (run tile : Nat) : State :=
  match r.runs[run]?, r.shelf.bind (fun i => (s.shelf? i).map (fun sh => (i, sh))), r.bucket with
  | some x, some (i, sh), some b =>
    let die := queueDie r x
    if x.phase ≠ .queued ∨ !hasTurn s req r die ∨ !tileOk s r.part req die b tile ∨ !tileBest s sh r.part req die b x tile then s
    else if (runDrawers x).any (unreachable s sh) then endAttend s req r { status := stLost }
    else if tile / 48 ≠ die then handOver (passTurn s r.part die b r.urgent) req r run (tile / 48)
    else startRun s req r i sh run x b tile
  | _, _, _ => s

/-- `BUCKET_WAIT_EXCEEDED` (R124): a request has waited more than 100 microseconds in its bucket. -/
def execBucketWaitExceeded (req : Nat) (s : State) : Res :=
  match tget? s.reqs req with
  | none => .next s
  | some r => if inBucket r ∧ s.time.ns > r.since + 100000 then .next (s.setReq req { r with urgent := true }) else .next s

/-! ### Score-sheet failures (R167, R168) -/

/-- The runs of a request that hold a segment, those in fenced stacks first. -/
def segRuns (s : State) (r : Req) : List Run :=
  let a := r.runs.filter (fun x => x.segStack.isSome)
  let f := a.filter (fun x => match x.segStack with | some k => (s.hbmc k).fenced | none => false)
  if f.isEmpty then a else f

/-- A score-sheet failure met on a cluster. -/
def sheetFailure (s : State) (id : Nat) (r : Req) (cluster : Nat) : State :=
  let s1 := dropReqJobs (raise s (pgTcl cluster) 0 []) id
  if r.fails ≥ 1 then
    failReq (raise (bump s1 (pgTcl cluster + 0x110) 16 16 1) (pgTcl cluster) 1 []) id r { status := stScratchLost }
  else
    match reqShelf s1 r with
    | none => failReq s1 id r { status := stLost }
    | some sh =>
      let r1 := startRounds sh { r with fails := 1, retried := true, booth := false, cold := false, coldN := 0, runs := [], sel := {} }
      let s2 := bump s1 (pgTcl cluster + 0x110) 0 16 1
      if r1.runs.any (fun x => (runDrawers x).any (unreachable s2 sh)) then failReq s2 id r1 { status := stLost }
      else s2.setReq id r1

/-- `SCORE_SHEET_FAILURE` (R167): a fence of a segment's stack or an uncorrectable segment line. Where several runs could have
met it, a free value says on whose cluster it was seen. -/
def execScoreSheetFailure (req : Nat) (s : State) : Res :=
  if noService s then .next s else
  match tget? s.reqs req with
  | none => .next s
  | some r =>
    match segRuns s r with
    | [] => .next s
    | x :: l =>
      let (v, s1) := draw s
      .next (sheetFailure s1 req r (((x :: l).getD (v % (l.length + 1)) x).tile / 12))

/-! ### Pass N and Pass V (R149, R152, R154, R155) -/

/-- Entry of a score plane: query head, place in the run, record. -/
def planeAt (l t key : Nat) : Nat × Nat × Nat := (key / t / l, key / t % l, key % t)

/-- The position of an entry of a run's plane. -/
def planePos (sh : Shelf) (x : Run) (key : Nat) : Nat :=
  let t := serT sh.prof (2 * x.head)
  let (_, i, k) := planeAt x.drawers.length t key
  drawerPos sh (2 * x.head) (x.drawers.getD i 0) + k

/-- The scores of a query head after its program, in the order of the plane. -/
def progScores (sh : Shelf) (r : Req) (x : Run) (j : Nat) : List (Nat × F32) :=
  let t := serT sh.prof (2 * x.head)
  let l := x.drawers.length
  (x.scores.filter (fun e => decide ((planeAt l t e.1).1 = j))).map (fun e =>
    (e.1, spRun r.sprog (r.snap - 1 - planePos sh x e.1) (x.head * reqG r.desc + j) e.2))

/-- Positions that a run saw and did not mask, ascending. -/
def runPositions (sh : Shelf) (r : Req) (x : Run) : List Nat :=
  x.drawers.flatMap (seenPositions sh r x.head)

/-- Pass N of a run: m, l and the probability plane. -/
def passNRun (sh : Shelf) (r : Req) (x : Run) : Run :=
  let per := (List.range (reqG r.desc)).map (fun j =>
    let ss := progScores sh r x j
    let m := ss.foldl (fun a e => fmax a e.2) negInf
    let es := ss.map (fun e => (e.1, if e.2 = negInf then (0 : F32) else fexpSub e.2 m))
    (m, pathSum fadd 6 (es.map (·.2)), es))
  { x with phase := .normed, m := per.map (·.1), l := per.map (fun e => e.2.1),
           probs := tputs [] (per.flatMap (fun e => e.2.2.map (fun q => (q.1, (toBf16 q.2).toNat)))),
           n := (runPositions sh r x).length }

/-- Every score line of a run has been accepted: its jobs are done and its K drawers outside HBM have been scored. -/
def scored (x : Run) : Bool := decide (x.jobsLeft = 0) && x.coldLeft.all (fun k => decide (k.1 % 2 = 1))

/-- The lines of a run's segment are read: whether they can be had, which those of a fenced stack cannot, nor one that is poisoned or uncorrectable (R167,
R223, R282). -/
def readSegment (s : State) (req run : Nat) (x : Run) : Bool × State :=
  let (bad, s1) := readUse s (fun u => decide (u = .segment req run))
  (!bad && !x.poisoned && (match x.segStack with | some k => !(s1.hbmc k).fenced | none => true), s1)

/-- `PASS_N` (R154). A segment that cannot be read is a score-sheet failure (R167). An uncorrectable error of the tile store ends the request
(R284). -/
def execPassN (req : Nat) (it : RunAt) (s : State) : Res :=
  let run := it.run
  if noService s then .next s else
  match tget? s.reqs req with
  | none => .next s
  | some r =>
    match r.runs[run]?, reqShelf s r with
    | some x, some sh =>
      if x.phase ≠ .scoring ∨ !scored x then .next s
      else if it.upset then .next (endAttend s req r { status := stIntegrity })
      else match readSegment s req run x with
        | (false, s1) => .next (sheetFailure s1 req r (x.tile / 12))
        | (true, s1) => .next (s1.setReq req (setRun r run (passNRun sh r x)))
    | _, _ => .next s

/-- The value record of a position. -/
def valueAt (sh : Shelf) (head p : Nat) : List F32 :=
  let se := 2 * head + 1
  let t := serT sh.prof se
  let b := serB sh.prof se
  let q := p - sh.base
  match getDrawer sh se (q / t) with
  | some d => decRecord (serFmt sh.prof se) (profD sh.prof) (seriesTab sh se) (padTo (bslice d.data (q % t * b) b) b)
  | none => List.replicate (profD sh.prof) 0

/-- The key of the plane of a query head at a position of a run. -/
def planeKey (sh : Shelf) (x : Run) (j p : Nat) : Nat :=
  let t := serT sh.prof (2 * x.head)
  let q := p - sh.base
  (j * x.drawers.length + x.drawers.findIdx (fun i => decide (i = q / t))) * t + q % t

/-- The o vectors of a run: the products of its positions, added in a path that keeps the bound of R62 (log entry 20). -/
def passVRun (sh : Shelf) (r : Req) (x : Run) : List (List F32) :=
  let vs := (runPositions sh r x).map (fun p => (p, valueAt sh x.head p))
  (List.range (reqG r.desc)).map (fun j =>
    let ts := vs.map (fun e =>
      let w := ofBf16 (BitVec.ofNat 16 (tget 0 x.probs (planeKey sh x j e.1)))
      e.2.map (fmul w))
    (List.range (profD sh.prof)).map (fun i => pathSum fadd 8 (ts.map (fun t => t.getD i 0))))

/-- The bytes of a score plane (R145). -/
def planeBytes (sh : Shelf) (g : Nat) (x : Run) : List Byte :=
  let t := serT sh.prof (2 * x.head)
  (List.range (g * x.drawers.length)).flatMap (fun m =>
    padTo ((List.range t).flatMap (fun k => leBytes 4 (tget negInf x.scores (m * t + k)).toNat)) (up64 (4 * t)))

/-- Pass V of a run whose values and probabilities have been read: the values are accumulated, the score plane is captured, the segment returns, and
the drawers read from HBM are stamped (R155, R233). -/
def passVDone (s : State) (req run : Nat) (r : Req) (i : Nat) (sh : Shelf) (x : Run) (vs : List Drawer) : State :=
  let g := reqG r.desc
  let x1 := { x with phase := .done, o := passVRun sh r x }
  let (r1, s1) := captScores s r x.head x.drawers.length g x.round (x.drawers.headD 0) (serT sh.prof (2 * x.head)) (planeBytes sh g x)
  let x2 := { x1 with segStack := none, scores := [], probs := [] }
  let s2 := s1.setReq req (setRun r1 run x2)
  let s3 := vs.foldl (fun s d => touch s i d.series d.idx) s2
  let pg := pgTcl (x.tile / 12)
  let s4 := bump s3 (pg + 0x104) 0 32 1
  let s5 := if x.booth then bump s4 (pg + 0x108) 0 32 1 else s4
  if x.coldRead.isEmpty then s5 else bump s5 (pg + 0x10C) 0 32 1

/-- `PASS_V` (R155). An uncorrectable error of the tile store ends the request (R284). -/
def execPassV (req : Nat) (it : RunAt) (s : State) : Res :=
  let run := it.run
  if noService s then .next s else
  match tget? s.reqs req with
  | none => .next s
  | some r =>
    match r.runs[run]?, r.shelf.bind (fun i => (s.shelf? i).map (fun sh => (i, sh))) with
    | some x, some (i, sh) =>
      if x.phase ≠ .normed ∨ !x.coldLeft.isEmpty then .next s
      else if it.upset then .next (endAttend s req r { status := stIntegrity })
      else
        let vs := ((runV x).filterMap (fun v => getDrawer sh (2 * x.head + 1) v)).filter (fun d => !x.coldRead.contains (d.series, d.idx))
        match readDrawers s vs with
        | (some w, s0) => .next (runIntegrity s0 req r i x.tile (.inl w))
        | (none, s0) =>
          if (runV x).any (fun v => unreachable s0 sh (2 * x.head + 1, v)) then .next (endAttend s0 req r { status := stLost })
          else match readSegment s0 req run x with
            | (false, s1) => .next (sheetFailure s1 req r (x.tile / 12))
            | (true, s1) => .next (passVDone s1 req run r i sh x vs)
    | _, _ => .next s

/-! ### The omission bound (R181) -/

/-- 1.01, 2^-22 and 2^-24 as `F32`, the first rounded towards plus infinity. -/
def c101 : F32 := 0x3F8147AF
def c22 : F32 := 0x34800000
def c24 : F32 := 0x33800000

/-- kappa of a query head. -/
def kappa (cfmt : Nat) (amax : F32) (n : Nat) : F32 :=
  let tau := addU (mulU c101 (mulU (scoreEps cfmt) amax)) c22
  mulU c101 (addU tau (mulU (ofInt (clog2 n + 1)) c24))

/-- m and l of a query head over every run that has finished Pass N, and the keys they scored. -/
def headML (r : Req) (order j : Nat) : F32 × F32 × Nat :=
  let g := reqG r.desc
  let rs := r.runs.filter (fun x => decide (x.head = j / g) && (decide (x.phase = .normed) || decide (x.phase = .done)))
  match combAll order (rs.map (fun x => { m := x.m.getD (j % g) negInf, l := x.l.getD (j % g) 0, o := [] })) with
  | none => (negInf, 0, (rs.map (·.n)).sum)
  | some p => (p.m, p.l, (rs.map (·.n)).sum)

/-- A candidate left out has the bound plus infinity for a query head: from the start, or because its summary is lost now
(R188). -/
def candInf (sh : Shelf) (c : Cand) (jj : Nat) : Bool :=
  isInf (c.bounds.getD jj posInf) || ((getDrawer sh (2 * c.head) c.idx).bind summaryOf).isNone

/-- The omission bound of a query head. Every operation is rounded in the direction that makes it larger (R58), so those of the divisor are rounded
down (log entry 131). A divisor that is not above 0 gives plus infinity (DESIGN CHOICE, log entry 137). -/
def epsHat (sh : Shelf) (r : Req) (order j : Nat) : F32 :=
  let g := reqG r.desc
  let om := r.sel.omitted.filter (fun c => decide (c.head = j / g))
  if om.isEmpty then 0
  else if om.any (fun c => candInf sh c (j % g)) then posInf
  else
    let (m, l, n) := headML r order j
    let e := r.sel.e.getD j 0
    if f32Mag e = 0 then 0
    else if f32Mag l = 0 then posInf
    else
      let x := expU (subU (r.sel.bref.getD j 0) m)
      let k := kappa r.cfmt (r.sel.amax.getD j 0) n
      let den := mulD l (addD f32One (negate k))
      if isInf x ∨ !flt k f32One ∨ !flt 0 den then posInf else divU (mulU e x) den

/-- The omission bounds of a request. -/
def epsHats (sh : Shelf) (r : Req) (order : Nat) : List F32 :=
  if reqMode r.desc = 0 then [] else (List.range (profH sh.prof * reqG r.desc)).map (epsHat sh r order)

/-! ### The safety-net loop (R184-R187) -/

/-- The bound of a candidate that enters a key: plus infinity once its summary is lost (R188). -/
def keyBound (sh : Shelf) (c : Cand) (jj : Nat) : F32 :=
  if ((getDrawer sh (2 * c.head) c.idx).bind summaryOf).isNone then posInf else c.fresh.getD jj posInf

/-- The key of a candidate for the needy heads. -/
def candKey (sh : Shelf) (r : Req) (order : Nat) (needy : List Nat) (c : Cand) : F32 :=
  let g := reqG r.desc
  (needy.filter (fun j => decide (j / g = c.head))).foldl (fun a j =>
    let (m, l, _) := headML r order j
    let k := if f32Mag l = 0 then posInf else divU (mulU (ofInt c.nx) (expU (subU (keyBound sh c (j % g)) m))) l
    fmax a k) 0

/-- The order of keys: larger first, then the higher index, then the lower head. -/
def keyBefore (a b : F32 × Cand) : Bool :=
  flt b.1 a.1 || (!flt a.1 b.1 && (decide (a.2.idx > b.2.idx) || (decide (a.2.idx = b.2.idx) && decide (a.2.head < b.2.head))))

/-- The list after the refills of R186: a needy series with omitted candidates and none of them listed takes its omitted drawers with
the largest keys, as many as the list and the budget have room for (log entry 37). -/
def refill (sh : Shelf) (r : Req) (order : Nat) (needy : List Nat) (room : Nat) : Req :=
  let g := reqG r.desc
  (needy.map (fun j => j / g)).eraseDups.foldl (fun r k =>
    if room = 0 ∨ r.sel.list.any (fun e => decide (e.1 = k)) then r
    else
      let om := r.sel.omitted.map (fun c => if c.head = k then { c with fresh := candBounds sh r k c.idx } else c)
      let mine := sortBy keyBefore ((om.filter (fun c => decide (c.head = k))).map (fun c => (candKey sh r order needy c, c)))
      let take := (mine.take (min room (1024 - r.sel.list.length))).map (fun e => (k, e.2.idx))
      { r with sel := { r.sel with omitted := om, list := r.sel.list ++ take } }) r

/-- `choose` (R185). -/
def choose (sh : Shelf) (r : Req) (order : Nat) (needy : List Nat) (room : Nat) : List Cand :=
  let g := reqG r.desc
  let ks := (needy.map (fun j => j / g)).eraseDups
  let per := ks.flatMap (fun k =>
    let mine := r.sel.omitted.filter (fun c => decide (c.head = k) && r.sel.list.contains (k, c.idx))
    (sortBy keyBefore (mine.map (fun c => (candKey sh r order needy c, c)))).take (max (reqM r.desc) 16))
  if per.length > room then ((sortBy keyBefore per).take room).map (·.2) else per.map (·.2)

/-- A candidate joins the scored drawers: it is omitted no longer and its terms leave E. exp in the term that is subtracted is lowered by 2 ulp, so that
the term is rounded towards minus infinity whatever the error of R56 (DEDUCED, log entry 137). -/
def takeCand (g : Nat) (sel : Sel) (c : Cand) : Sel :=
  let e := (List.range sel.e.length).map (fun j =>
    let b := c.bounds.getD (j % g) posInf
    let old := sel.e.getD j 0
    if j / g = c.head ∧ isFin b then
      fmax 0 (subU old (mulD (ofInt c.nx) (expD (addD b (negate (sel.bref.getD j 0))))))
    else old)
  { sel with e := e, omitted := sel.omitted.filter (fun x => !(decide (x.head = c.head) && decide (x.idx = c.idx))),
             list := sel.list.filter (fun x => x ≠ (c.head, c.idx)) }

/-- Every run of the rounds so far has finished Pass N. -/
def roundsNormed (r : Req) : Bool := r.runs.all (fun x => decide (x.phase = .normed) || decide (x.phase = .done))

/-- `NET_LOOP_CHECK` (R184). -/
def execNetLoopCheck (req : Nat) (s : State) : Res :=
  if noService s then .next s else
  match tget? s.reqs req with
  | none => .next s
  | some r =>
    match r.shelf.bind (fun i => (s.shelf? i).map (fun sh => (i, sh))) with
    | none => .next s
    | some (i, sh0) =>
      if dOpcode r.desc ≠ 0x01 ∨ reqMode r.desc ≠ 2 ∨ r.bucket.isNone ∨ r.sel.stopped.isSome ∨ !roundsNormed r then .next s
      else
        let s0 := readSums s i
        let sh := (s0.shelf? i).getD sh0
        let (order, s1) := draw s0
        let g := reqG r.desc
        let eps := epsHats sh r order
        let r0 := { r with sel := { r.sel with eps := eps, pairing := order } }
        let needy := (List.range eps.length).filter (fun j => flt (reqEps r.desc) (eps.getD j 0))
        if needy.isEmpty then .next (s1.setReq req { r0 with sel := { r0.sel with stopped := some stOk } })
        else
          let room := reqBudget r.desc - r0.sel.scored
          let r1 := refill sh r0 order needy room
          match choose sh r1 order needy room with
          | [] => .next (s1.setReq req { r1 with sel := { r1.sel with stopped := some stPartialBound } })
          | add =>
            let round := r1.sel.round + 1
            let heads := List.range (profH sh.prof)
            let of := fun k => sortBy (fun a b => decide (a < b)) ((add.filter (fun c => decide (c.head = k))).map (·.idx))
            let sel := add.foldl (takeCand g) r1.sel
            let am := heads.flatMap (fun k => if (of k).isEmpty then List.replicate g 0 else scoredA sh r1 k (of k))
            .next (s1.setReq req { r1 with
              runs := r1.runs ++ heads.flatMap (fun k => mkRuns sh r k round (of k)),
              sel := { sel with round := round, scored := sel.scored + add.length, amax := maxLists sel.amax am } })

/-- `COMBINE` (R157): every run has ended, and in `NET` the loop has stopped. -/
def execCombine (req : Nat) (s : State) : Res :=
  if noService s then .next s else
  match tget? s.reqs req with
  | none => .next s
  | some r =>
    match r.shelf.bind (fun i => (s.shelf? i).map (fun sh => (i, sh))) with
    | none => .next s
    | some (i, sh) =>
      if dOpcode r.desc ≠ 0x01 ∨ r.bucket.isNone ∨ !r.runs.all (fun x => decide (x.phase = .done)) then .next s
      else
        match reqMode r.desc with
        | 0 => let (order, s1) := draw s; .next (finishAttend s1 req r i sh stOk order [])
        | 1 => let (order, s1) := draw s; .next (finishAttend s1 req r i sh stOk order (epsHats sh r order))
        | _ =>
          match r.sel.stopped with
          | none => .next s
          | some st => .next (finishAttend s req r i sh st r.sel.pairing r.sel.eps)

end Sys2Proof.Machine
end

