-- ==== Sys2Proof/Machine/Merge.lean ====
section
/-! DEFINITION. `MERGE` (R117, R120, R164-R166). -/
namespace Sys2Proof.Machine

/-- The checks on the fields of a `MERGE` and on its result's place (R117, R164), the first offending field ahead of the others (R135); its input
range was checked at step 4. R119 names no step for them; they are made at step 10 (DESIGN CHOICE, log entry 141). -/
def mergeFail (_s : State) (r : Req) : Option Fail :=
  let d := r.desc
  let bad := fun (c : Bool) (off : Nat) => if c then some ({ status := stBadDescriptor, detail := off } : Fail) else none
  [bad (decide (mgStride d % 64 ≠ 0) || decide (mgStride d < mgInSize d)) 0x14, bad (decide (mgN d = 0) || decide (mgN d > 64)) 0x1A,
   bad (decide (mgHeads d = 0) || decide (mgHeads d > 256)) 0x1C, bad (decide (le d 0x1F 1 > 64)) 0x1F,
   roffFail r 0x20 (blockSize (mgHeads d) (mgDim d) (mgOutBf16 d))].findSome? id

/-- The inputs of a `MERGE`: the present ones in order, or the failure. An input whose first line is read and holds no magic number is
absent. -/
def mergeInputs (s : State) (r : Req) : Nat → Except Fail (List (List Byte)) × State
  | 0 => (.ok [], s)
  | n + 1 =>
    match mergeInputs s r n with
    | (.error f, s1) => (.error f, s1)
    | (.ok l, s1) =>
      let d := r.desc
      let a := le d 0x0C 8 + n * mgStride d
      match refRead s1 r.part a 64 with
      | (none, s2) => (.error { status := stIntegrity }, s2)
      | (some h, s2) =>
        if le h 0 4 = 0 then (.ok l, s2)
        else if le h 0 4 ≠ 0x52545041 ∨ le h 4 1 ≠ 1 ∨ le h 8 2 ≠ mgHeads d ∨ le h 7 1 ≠ le d 0x1E 1 ∨ bit (le h 6 1) 0 ≠ mgInBf16 d then
          (.error { status := stBadDescriptor, detail := 0x0C }, s2)
        else
          match refRead s2 r.part a (mgInSize d) with
          | (none, s3) => (.error { status := stIntegrity }, s3)
          | (some b, s3) => (.ok (l ++ [b]), s3)

/-- Numbers of which nothing is known, cut from a free value. -/
def freeNums (v k n : Nat) : List F32 := (List.range n).map (fun i => BitVec.ofNat 32 (v / 2 ^ (32 * (k + i))))

/-- The merged head (R165). Where several inputs count and one of their maxima is infinite or a NaN, as no block of R160 holds it, the spec states
no sum, no output and no omission bound that rests on them: these are free (log entry 41); what R165 states without them stands. -/
def mergeHead (order free d : Nat) (hs : List HeadIn) : HeadOut :=
  let inf := hs.any (fun h => decide (h.eps = posInf))
  let live := hs.filter (fun h => isPos h.l)
  let eps := fun x => if inf then posInf else x
  if live.length ≥ 2 ∧ live.any (fun h => !isFin h.m) = true then
    { m := if live.any (fun h => isNaN h.m) then (freeNums free 0 1).headD 0 else live.foldl (fun a h => fmax a h.m) negInf,
      l := (freeNums free 1 1).headD 0, eps := eps ((freeNums free 2 1).headD 0), o := freeNums free 3 d }
  else
    match combAll order (live.map (fun h => { m := h.m, l := h.l, o := h.o, w := if h.eps = posInf then 0 else mulU h.eps h.l })) with
    | none => { eps := eps 0 }
    | some p => { m := p.m, l := p.l, o := p.o, eps := eps (divU p.w p.l) }

/-- Step 10 and effect of `MERGE`. -/
def doMerge (s : State) (id : Nat) (r : Req) : State :=
  match mergeFail s r with
  | some f => failReq s id r f
  | none =>
    let d := r.desc
    match mergeInputs s r (mgN d) with
    | (.error f, s1) => failReq s1 id r f
    | (.ok bs, s1) =>
      let r1 := { r with cap := r.cap.map (fun k => { k with input := bs.flatten }) }
      let (order, s2) := draw s1
      let (free, s3) := draw s2
      let n := mgHeads d
      let dim := mgDim d
      let hs := (List.range n).map (fun j =>
        mergeHead order (free / 2 ^ (32 * (dim + 3) * j)) dim (bs.map (fun b => blockHead b (mgInBf16 d) n dim j)))
      let keys := (bs.map (fun b => le b 0x14 4)).sum
      let drawers := (bs.map (fun b => le b 0x24 4)).sum
      let st := if bs.any (fun b => decide (le b 5 1 = 2)) then 2 else 0
      let block := blockBytes dim (mgOutBf16 d) true st (dTag d) (dEpoch d) keys 0 0 drawers hs
      deliver s3 id r1 stOk keys bs.length 0 0 (le d 0x20 4) (le d 0x24 4) block

/-- `MERGE` (R165). -/
def execMerge (ring : Fin 4096) (s : State) : Res := .next (admitOp s ring.val 0x03 doMerge)

end Sys2Proof.Machine
end

