-- ==== Sys2Proof/Machine/Booths.lean ====
section
/-! DEFINITION. The booth engine: jobs, micro-operations, parking, refresh, faults, and the script store (R189-R226). -/
namespace Sys2Proof.Machine

/-! ### The running job -/

/-- The front stack and the number of a booth. -/
def bthStack (b : Nat) : Nat := b / 512
def bthNum (b : Nat) : Nat := b % 512

/-- The script descriptor and the feeder slot of a job. -/
def jobDesc (s : State) (b : Nat) (j : Job) : List Byte := (s.fstack (bthStack b)).desc.getD j.script []
def jobSlot (s : State) (b : Nat) (j : Job) : Slot := tget {} (s.fstack (bthStack b)).slots j.slot

/-- A fresh job state (R199). -/
def freshJob (s : State) (b : Nat) (y : Booth) (j : Job) : Booth :=
  let d := jobDesc s b j
  let u := le d 6 1
  { y with v := List.replicate 8 (List.replicate 16 0), a := List.replicate 4 (List.replicate 16 0),
           sc := [0, BitVec.ofNat 32 (ceilDiv j.count (max u 1)), 0, 0, 0, 0, 0, 0],
           win := List.replicate 64 0, winLo := none, winHi := none,
           cb := if (jobSlot s b j).cb.isEmpty then y.cb else (jobSlot s b j).cb,
           job := some j, entry := bits (le d 0 1) 0 6, atEnd := true, ended := false }

/-- The die of a booth and its refresh state. -/
def bthDie (b : Nat) : Nat := bthNum b / 32
def dieRefresh (s : State) (b : Nat) : Option AllBank := tget? (s.fstack (bthStack b)).abr (bthDie b)

/-- The partition of a booth (R190). -/
def bthPart (s : State) (b : Nat) : Option Nat := tget? s.pcOwner (64 * bthStack b + boothPc (bthNum b))

/-- `BOOTH_JOB_START` (R199): an enabled booth without a job takes its next one, whose slot belongs to its partition, while no all-bank
refresh of its die is due. -/
def execBoothJobStart (booth : Fin 4096) (s : State) : Res :=
  if noService s then .next s else
  let y := s.booth booth.val
  match y.queue with
  | [] => .next s
  | j :: rest =>
    if y.disabled ∨ y.job.isSome ∨ y.park ≠ .no ∨ (dieRefresh s booth.val).isSome ∨ bthPart s booth.val ≠ some (jobSlot s booth.val j).part then .next s
    else .next (s.setBooth booth.val { freshJob s booth.val y j with queue := rest, restarted := false, stopReq := false })

/-- The word that a booth would issue next. -/
def uopWord (s : State) (b : Nat) (y : Booth) : Nat := ((s.fstack (bthStack b)).script.getD y.entry 0).toNat

/-- A booth issues: it runs a job that has not reached `END`, it is not parked for a refresh, and it does not stand at a step end at which it is to
park. One that has been parked for accesses resumes with its next micro-op. -/
def issues (y : Booth) : Bool :=
  y.job.isSome && !y.ended && !y.disabled && decide (y.park ≠ .refresh) && !(y.atEnd && (y.askPark || (!y.waits.isEmpty && !y.serviced)))

/-- A booth resumes: it reopens the rows it held (R197). -/
def resume (y : Booth) : Booth := { y with park := .no, rows := y.held ++ y.rows.filter (fun k => !y.held.contains k), held := [] }

/-- A booth parks, and its rows are closed where `f` says so. -/
def parkFor (y : Booth) (p : Park) (f : Nat → Bool) : Booth := { y with park := p, held := y.held ++ y.rows, rows := y.rows.filter (fun k => !f k) }

/-- Operand fields (R202). -/
def uSA (w : Nat) : Nat := bits w 20 3
def uImm (w : Nat) : Nat := bits w 0 15
/-- The byte address S[`SA`] + `IMM`, of 32 bits. -/
def uAddr (y : Booth) (w : Nat) : Nat := ((y.sc.getD (uSA w) 0).toNat + uImm w) % 2 ^ 32

/-- A booth whose job is over. -/
def noJob (y : Booth) : Booth := { y with job := none, ended := false, stopReq := false, rows := [], held := [], waits := [], park := .no, askPark := false }

/-- A booth after a micro-op, at an entry. A booth that is to stop gives up its job at the step end (R219). -/
def stepTo (y : Booth) (w entry : Nat) (stepEnd : Bool) : Booth :=
  let e := stepEnd || bit w 26
  let y1 := { y with entry := entry % 64, atEnd := e, serviced := y.serviced && !e }
  if e && y1.stopReq then noJob y1 else y1

/-- A booth after a micro-op that goes on to the next entry. -/
def stepNext (y : Booth) (w : Nat) : Booth := stepTo y w (y.entry + 1) false

/-- The all-bank refresh of a die is issued once every running booth of the die is parked (R215). -/
def issueRefresh (s : State) (f die : Nat) : State :=
  let fs := s.fstack f
  if tget? fs.abr die = some .due ∧
     (List.range 32).all (fun q => let y := s.booth (boothNo f (32 * die + q)); !running y || decide (y.park = .refresh)) then
    s.setFstack f { fs with abr := tput fs.abr die .issued }
  else s

/-- A booth is set. Where its job is over, slots that no job names any more are freed, and a refresh that waited for it may be issued. -/
def putBooth (s : State) (b : Nat) (y : Booth) : State :=
  let s1 := s.setBooth b y
  if y.job.isNone ∧ (s.booth b).job.isSome then issueRefresh (freeSlots s1 (bthStack b)) (bthStack b) (bthDie b) else s1

/-- One micro-op of an operation code, where it is the one that the booth would issue. -/
def uop (op b : Nat) (s : State) (k : State → Booth → Job → Nat → State) : State :=
  let y := resume (s.booth b)
  let w := uopWord s b y
  match y.job with
  | none => s
  | some j => if !noService s && issues (s.booth b) && decide (w / 2 ^ 27 = op) then k s y j w else s

/-! ### Micro-operations (R194-R202) -/

/-- `NOP`. -/
def execUopNop (booth : Fin 4096) (s : State) : Res :=
  .next (uop 0x00 booth.val s (fun s y _ w => putBooth s booth.val (stepNext y w)))

/-- Open rows after an `ACT` of a drawer row (R196). -/
def actRows (rows : List Nat) (k : Nat) : List Nat :=
  if rows.contains k then rows
  else
    let r := rows.filter (fun x => decide (x % 8 ≠ k % 8))
    if r.length ≥ 2 then r.drop (r.length - 1) ++ [k] else r ++ [k]

/-- `ACT`. -/
def execUopAct (booth : Fin 4096) (s : State) : Res :=
  .next (uop 0x01 booth.val s (fun s y _ w =>
    let a := uAddr y w
    putBooth s booth.val (stepNext (if a ≥ 32768 then y else { y with rows := actRows y.rows (a / 1024) }) w)))

/-- The place of a job's drawer in its stack. -/
def jobPlace (b : Nat) (j : Job) : Place :=
  { stack := bthStack b, pc := boothPc (bthNum b), slot := 5080 * boothPair (bthNum b) + j.dplace }

/-- The shelf and the drawer that hold a place. -/
def drawerAt (s : State) (q : Place) : Option (Nat × Drawer) :=
  s.dir.shelves.findSome? (fun e => (e.2.drawers.find? (fun d => decide (locPlace d.loc = some q))).map (fun d => (e.1, d)))

/-- 32 payload bytes of a column unit; a place that holds no drawer reads free bytes (log entry 43). -/
def columnUnit (s : State) (q : Place) (u : Nat) : List Byte × State :=
  match drawerAt s q with
  | some (_, d) => (padTo (bslice d.data (32 * u) 32) 32, s)
  | none => drawBytes s 32

/-- The window with a new upper half. -/
def pushWindow (y : Booth) (u : Nat) (b : List Byte) : Booth := { y with win := y.win.drop 32 ++ b, winLo := y.winHi, winHi := some u }

/-- The request of a job, where the attempt that wrote the job is still under way (R167). -/
def jobReq (s : State) (j : Job) : Option Req := (tget? s.reqs j.req).filter (fun r => decide (r.fails = j.try_))

/-- A booth meets an uncorrectable key line: its job ends, the other jobs of the run are discarded, and the request completes with
`INTEGRITY` (R221). -/
def keyUncorr (s : State) (b : Nat) (y : Booth) (j : Job) (line : Nat) : State :=
  let f := bthStack b
  let s1 := raise (bump s (pgBth f 0 + 0x11C) 16 16 1) (pgBth f 0) 2 []
  let s2 := putBooth s1 b (noJob y)
  let s3 := dropJobs s2 (fun _ x => decide (x.req = j.req) && decide (x.run = j.run) && decide (x.try_ = j.try_))
  match jobReq s3 j with
  | some r =>
    match r.shelf with
    | some i => runIntegrity s3 j.req r i (j.thread / 32) (.inl (f, line))
    | none => s3
  | none => match drawerAt s3 (jobPlace b j) with | some (i, _) => damage s3 i (.inl (f, line)) | none => s3

/-- A booth reads a key line (R220, R221, R267, R274): what it finds, and the state. A line that it corrects is counted, and the controller, told of its
address, reads and corrects it by its own rule. A line that it finds uncorrectable is poisoned. -/
def boothLine (s : State) (f line : Nat) : LineOut × State :=
  match lineOut s f line with
  | .good => (.good, readOnce s f line)
  | .fixed => (.fixed, (readLine (bump (readOnce s f line) (pgBth f 0 + 0x11C) 0 16 1) f line).2)
  | .poison => (.poison, s)
  | o => (o, lineUncorr s f line (decide (o = .tag)))

/-- `RD` (R196, R202, R220, R221): it waits for its row to be open. -/
def execUopRd (booth : Fin 4096) (s : State) : Res :=
  .next (uop 0x02 booth.val s (fun s y j w =>
    let a := uAddr y w
    let u := a / 32
    let b := booth.val
    if a ≥ 32768 then putBooth s b (stepNext (pushWindow y u (List.replicate 32 0)) w)
    else if !y.rows.contains (a / 1024) then s
    else
      let q := jobPlace b j
      let line := (placeLines q).1 + u / 2
      let (o, s0) := boothLine s q.stack line
      if o = .good ∨ o = .fixed then
        let (x, s1) := columnUnit s0 q u
        putBooth s1 b (stepNext (pushWindow y u x) w)
      else keyUncorr s0 b y j line))

/-- A byte of the drawer as the window holds it; a byte that is not present reads 0. -/
def winByte (y : Booth) (a : Nat) : Byte :=
  if y.winHi = some (a / 32) then y.win.getD (32 + a % 32) 0 else if y.winLo = some (a / 32) then y.win.getD (a % 32) 0 else 0

/-- Bytes of the window. -/
def winBytes (y : Booth) (a n : Nat) : List Byte := (List.range n).map (fun i => winByte y (a + i))

/-- A value in compute format 1 (`BF16`) or 2 (`F16`). -/
def toC (c : Nat) (x : F32) : BitVec 16 := if c = 2 then toF16 x else toBf16 x
def ofC (c : Nat) (p : BitVec 16) : F32 := if c = 2 then ofF16 p else ofBf16 p

/-- 16 key elements widened to C (R200, R201), with `true` where an excluded code was met. -/
def expand (f c : Nat) (cb : List (BitVec 16)) (y : Booth) (a : Nat) : List (BitVec 16) × Bool :=
  match f % 16 with
  | 1 | 2 => ((List.range 16).map (fun i => BitVec.ofNat 16 (leNat (winBytes y (a + 2 * i) 2))), false)
  | 3 =>
    let b := winBytes y a 16
    (b.map (fun x => toC c (ofDy .rne (decide (x.toNat ≥ 128)) (decDy fmtE4M3 x.toNat))), b.any (fun x => decide (x.toNat % 128 = 127)))
  | 4 =>
    let b := winBytes y a 16
    (b.map (fun x => toC c (ofDy .rne (decide (x.toNat ≥ 128)) (decDy fmtE5M2 x.toNat))), b.any (fun x => decide (x.toNat % 128 ≥ 124)))
  | 5 => ((winBytes y a 16).map (fun x => toC c (ofInt (ofTwos 8 x.toNat))), false)
  | 7 => ((unNibbles (winBytes y a 8)).map (fun n => toC c (ofBf16 (cb.getD n 0))), false)
  | _ => (List.replicate 16 0, false)

/-- `EXP` (R200, R201). -/
def execUopExp (booth : Fin 4096) (s : State) : Res :=
  .next (uop 0x03 booth.val s (fun s y j w =>
    let b := booth.val
    let a := uAddr y w
    if bit w 19 then
      let r := leNat (winBytes y a 4)
      let s6 := ofBf16 (BitVec.ofNat 16 (r % 0x10000))
      let s7 := ofInt (ofTwos 8 (r / 0x10000 % 256))
      putBooth s b (stepNext { y with sc := modAt (fun _ => s7) 7 (modAt (fun _ => s6) 6 y.sc) } w)
    else
      let (x, trap) := expand (le (jobDesc s b j) 2 1) (jobSlot s b j).cfmt y.cb y a
      let s1 := if trap then raise s (pgBth (bthStack b) 0) 4 [] else s
      putBooth s1 b (stepNext { y with v := modAt (fun _ => x) (bits w 23 3) y.v } w)))

/-- The four-level tree of adds over 16 products (R195). -/
def tree16 (l : List F32) : F32 := addTree fadd 4 l

/-- `DOTG` (R195). -/
def execUopDotg (booth : Fin 4096) (s : State) : Res :=
  .next (uop 0x04 booth.val s (fun s y j w =>
    let sl := jobSlot s booth.val j
    let v := (y.v.getD (bits w 21 3) []).map (ofC sl.cfmt)
    let ch := bits w 0 4
    let acc := (y.a.getD (bits w 24 2) [])
    let new := (List.range 16).map (fun h =>
      let old := acc.getD h 0
      if h < sl.g then
        let q := ((sl.query.drop (h * sl.d + 16 * ch)).take 16).map (ofC sl.cfmt)
        fadd old (tree16 ((v.zip q).map (fun e => fmul e.1 e.2)))
      else old)
    putBooth s booth.val (stepNext { y with a := modAt (fun _ => new) (bits w 24 2) y.a } w)))

/-- Groups of a job's keys for one head. -/
def jobGroups (f d : Nat) : Nat := d / groupSize f

/-- `GSC` (R46, R202). -/
def execUopGsc (booth : Fin 4096) (s : State) : Res :=
  .next (uop 0x05 booth.val s (fun s y j w =>
    let sl := jobSlot s booth.val j
    let n := jobGroups (le (jobDesc s booth.val j) 2 1) sl.d
    let ad := bits w 24 2
    let as_ := bits w 22 2
    let src := y.a.getD as_ []
    let s6 := y.sc.getD 6 0
    let s7 := y.sc.getD 7 0
    let new := (List.range 16).map (fun h =>
      let old := (y.a.getD ad []).getD h 0
      if h < sl.g then fadd old (fmul s6 (fsub (src.getD h 0) (fmul s7 (sl.sums.getD (h * n + bits w 0 4) 0)))) else old)
    let a1 := modAt (fun _ => new) ad y.a
    putBooth s booth.val (stepNext { y with a := modAt (fun _ => List.replicate 16 0) as_ a1 } w)))

/-- The collector takes the scores of one record (R145, R207): the score plane holds what lies in the seen range, and minus infinity
elsewhere. -/
def collect (s : State) (j : Job) (rec : Nat) (scores : List F32) : State :=
  match jobReq s j with
  | none => s
  | some r =>
    match r.runs[j.run]? with
    | none => s
    | some x =>
      let p := j.first + rec
      let seen := rec < j.count ∧ rec < j.t ∧ j.lower ≤ p ∧ p < j.snap
      if rec ≥ j.t then s
      else
        let key := fun h => (h * j.runLen + j.place) * j.t + rec
        let sc := if seen then tputs x.scores ((scores.zip (List.range scores.length)).map (fun e => (key e.2, e.1)))
          else (List.range scores.length).foldl (fun t h => tdel t (key h)) x.scores
        s.setReq j.req (setRun r j.run { x with scores := sc })

/-- `SST` (R202, R207). -/
def execUopSst (booth : Fin 4096) (s : State) : Res :=
  .next (uop 0x06 booth.val s (fun s y j w =>
    let sl := jobSlot s booth.val j
    let as_ := bits w 24 2
    let acc := y.a.getD as_ []
    let s1 := collect s j (uAddr y w) ((List.range sl.g).map (fun h => fmul sl.cd (acc.getD h 0)))
    putBooth s1 booth.val (stepNext { y with a := modAt (fun _ => List.replicate 16 0) as_ y.a } w)))

/-- `SETI`. -/
def execUopSeti (booth : Fin 4096) (s : State) : Res :=
  .next (uop 0x08 booth.val s (fun s y _ w =>
    putBooth s booth.val (stepNext { y with sc := modAt (fun _ => BitVec.ofNat 32 (bits w 0 16)) (uSA w) y.sc } w)))

/-- `ADDI`. -/
def execUopAddi (booth : Fin 4096) (s : State) : Res :=
  .next (uop 0x09 booth.val s (fun s y _ w =>
    putBooth s booth.val (stepNext { y with sc := modAt (fun v => v + (BitVec.ofNat 16 (bits w 0 16)).signExtend 32) (uSA w) y.sc } w)))

/-- `LOOP`. `TGT` counts entries of the store (DEDUCED, log entry 44). -/
def execUopLoop (booth : Fin 4096) (s : State) : Res :=
  .next (uop 0x0A booth.val s (fun s y _ w =>
    let n := y.sc.getD (uSA w) 0 - 1
    putBooth s booth.val (stepTo { y with sc := modAt (fun _ => n) (uSA w) y.sc } w (if n = 0 then y.entry + 1 else bits w 0 6) true)))

/-- `END`: the collector has every score, and the job ends. -/
def execUopEnd (booth : Fin 4096) (s : State) : Res :=
  .next (uop 0x0B booth.val s (fun s y _ w =>
    let f := bthStack booth.val
    let y1 := stepTo y w y.entry true
    let s1 := putBooth s booth.val { y1 with ended := y1.job.isSome }
    if y1.job.isSome then bump s1 (pgBth f 0 + 0x110) 0 32 1 else s1))

/-- A job is reported done to its thread (R207, R223). -/
def jobDone (s : State) (j : Job) (poison : Bool) : State :=
  match jobReq s j with
  | none => s
  | some r =>
    match r.runs[j.run]? with
    | none => s
    | some x => s.setReq j.req (setRun r j.run { x with jobsLeft := x.jobsLeft - 1, poisoned := x.poisoned || poison })

/-- `COLLECTOR_JOB_DONE` (R207): what the job did not send is minus infinity, the lines are written, and the job is done. A job of an attempt that a
score-sheet failure has ended writes nothing (R167). -/
def execCollectorJobDone (booth : Fin 4096) (s : State) : Res :=
  if noService s then .next s else
  let y := s.booth booth.val
  match y.job with
  | none => .next s
  | some j =>
    if !y.ended then .next s
    else
      let s1 := jobDone (putBooth (askLine s (bthStack booth.val) (j.seg / 64)) booth.val (noJob (s.booth booth.val))) j false
      match jobReq s1 j with
      | none => .next s1
      | some r =>
        match r.shelf, r.runs[j.run]? with
        | some i, some x => .next (reformSummary s1 i (2 * x.head) (x.drawers.getD j.place 0) r.lo r.snap)
        | _, _ => .next s1

/-! ### Parking and refresh (R197, R213-R219) -/

/-- Bank of an open row. -/
def bankOpen (y : Booth) (bank : Nat) : Bool := y.rows.any (fun k => decide (k % 8 = bank))

/-- The longest postponement seen (`BTH_REF_LAG`). -/
def noteLag (s : State) (f n : Nat) : State :=
  let a := pgBth f 0 + 0x120
  if min n 4 > rdf s a 0 3 then wrf s a 0 3 (min n 4) else s

/-- Intervals by which a bank's refresh is owed. -/
def owed (s : State) (b bank : Nat) : Nat := tget 0 (s.fstack (bthStack b)).owed (8 * bthNum b + bank)
def setOwed (s : State) (b bank n : Nat) : State :=
  let fs := s.fstack (bthStack b)
  s.setFstack (bthStack b) { fs with owed := tset 0 fs.owed (8 * bthNum b + bank) n }

/-- A forced per-bank refresh of a booth at a step end: it parks, its row closes, the bank is refreshed, the row reopens and the booth
resumes (R214). -/
def forceRefresh (s : State) (b bank : Nat) : State :=
  let pg := pgBth (bthStack b) 0
  raise (bump (setOwed (noteLag s (bthStack b) (owed s b bank)) b bank 0) (pg + 0x114) 0 16 1) pg 3 []

/-- The banks of a booth whose refresh is to be forced. -/
def forcedBanks (s : State) (b : Nat) (y : Booth) : List Nat := (List.range 8).filter (fun k => bankOpen y k && decide (owed s b k ≥ 3))

/-- The accesses queued for a booth are served (R216): it parks, its rows in their banks close, and it has been serviced until its next step end. -/
def serve (s : State) (b : Nat) (y : Booth) : State :=
  let x := parkFor y .access (fun k => y.waits.contains (k % 8))
  bump (s.setBooth b { x with waits := [], serviced := true }) (pgBth (bthStack b) 0 + 0x114) 16 16 1

/-- `BOOTH_PARK` (R197, R214-R216, R219): a booth at a step end is parked. Accesses that are queued for its pair are served first, once a step has passed
since the last service; then forced refreshes of its banks are done, and a due all-bank refresh of its die keeps it parked. -/
def execBoothPark (booth : Fin 4096) (s : State) : Res :=
  let b := booth.val
  let f := bthStack b
  let y := s.booth b
  let due := decide (dieRefresh s b = some .due)
  if !running y ∨ !y.atEnd ∨ y.park = .refresh then .next s
  else
    let s1 := if !y.waits.isEmpty && !y.serviced then serve s b y else s
    let y1 := s1.booth b
    if due then
      .next (issueRefresh (bump (s1.setBooth b { parkFor y1 .refresh (fun _ => true) with askPark := false }) (pgBth f 0 + 0x114) 0 16 1) f (bthDie b))
    else if y1.askPark then
      .next ((forcedBanks s1 b y1).foldl (fun s k => forceRefresh s b k) (s1.setBooth b { y1 with askPark := false }))
    else .next s1

/-- `PER_BANK_REFRESH` (R214). A bank in which a booth holds a row open owes one interval more; at three its refresh is forced at
the next step end. -/
def execPerBankRefresh (booth : Fin 4096) (bank : Fin 8) (s : State) : Res :=
  let b := booth.val
  let y := s.booth b
  if !(running y && bankOpen y bank.val) then .next (setOwed (noteLag s (bthStack b) (owed s b bank.val)) b bank.val 0)
  else
    let n := min 4 (owed s b bank.val + 1)
    let s1 := setOwed s b bank.val n
    if n < 3 then .next s1
    else if y.atEnd ∧ y.park = .no then .next (forceRefresh s1 b bank.val)
    else .next (s1.setBooth b { y with askPark := true })

/-- `ALL_BANK_REFRESH` (R215): it falls due; every running booth of the die is to park. -/
def execAllBankRefresh (stack : Fin 8) (die : Fin 16) (s : State) : Res :=
  let fs := s.fstack stack.val
  if (tget? fs.abr die.val).isSome then .next s
  else
    let s1 := s.setFstack stack.val { fs with abr := tput fs.abr die.val .due }
    let s2 := (List.range 32).foldl (fun s q =>
      let b := boothNo stack.val (32 * die.val + q)
      let y := s.booth b
      if running y then s.setBooth b { y with askPark := true } else s) s1
    .next (issueRefresh s2 stack.val die.val)

/-- `REFRESH_COMPLETE` (R215): the booths of the die resume. -/
def execRefreshComplete (stack : Fin 8) (die : Fin 16) (s : State) : Res :=
  let fs := s.fstack stack.val
  if tget? fs.abr die.val ≠ some .issued then .next s
  else
    let s1 := s.setFstack stack.val { fs with abr := tdel fs.abr die.val }
    .next ((List.range 32).foldl (fun s q =>
      let b := boothNo stack.val (32 * die.val + q)
      let y := s.booth b
      if y.park = .refresh then s.setBooth b { resume y with askPark := !(forcedBanks s b (resume y)).isEmpty } else s) s1)

/-! ### Faults (R222, R223) -/

/-- The score lines of a job, in its segment (R145, R205). -/
def scoreLines (s : State) (f : Nat) (j : Job) : List Nat :=
  let rs := up64 (4 * j.t) / 64
  (List.range (tget {} (s.fstack f).slots j.slot).g).flatMap (fun h =>
    (List.range rs).map (fun n => j.seg / 64 + (h * j.runLen + j.place) * rs + n))

/-- The base die writes the score lines of a job as poisoned lines (R223). -/
def poisonScores (s : State) (f : Nat) (j : Job) : State :=
  let h := s.hbmc f
  let ls := (scoreLines s f j).filter (fun l => (lineDrawer s f l).isNone)
  s.setHbm f { h with poison := ls.foldl (fun t l => tput t l 2) h.poison, upsets := h.upsets.filter (fun e => !ls.contains e.1),
                      wb := h.wb.filter (fun l => !ls.contains l),
                      uses := ls.foldl (fun t l => tput t l (.segment j.req j.run)) h.uses }

/-- A booth with a permanent fault: the score lines of its jobs are poisoned and the jobs reported done. -/
def disableBooth (s : State) (b : Nat) : State :=
  let y := s.booth b
  if y.disabled then s
  else
    let s1 := s.setBooth b { noJob y with disabled := true, queue := [] }
    let s2 := (boothJobs y).foldl (fun s j => jobDone (poisonScores s (bthStack b) j) j true) s1
    issueRefresh (freeSlots (raise s2 (pgBth (bthStack b) 0) 0 []) (bthStack b)) (bthStack b) (bthDie b)

/-- `BOOTH_RESTART` (R222): the job starts again, once. -/
def execBoothRestart (booth : Fin 4096) (s : State) : Res :=
  if noService s then .next s else
  let b := booth.val
  let y := s.booth b
  match y.job with
  | none => .next s
  | some j =>
    if y.disabled then .next s
    else if y.restarted then .next (disableBooth s b)
    else .next (raise (s.setBooth b { freshJob s b y j with restarted := true }) (pgBth (bthStack b) 0) 1 [])

/-- `BOOTH_JOB_TIMEOUT` (R223): a job does not reach END in time. In `TRAIN` it is the self-check that the booth fails (DESIGN CHOICE, log entry 161). -/
def execBoothJobTimeout (booth : Fin 4096) (s : State) : Res :=
  if s.dev.state = .train then .next (disableBooth s booth.val)
  else if noService s then .next s else
  if (s.booth booth.val).job.isSome then .next (disableBooth s booth.val) else .next s

/-! ### The script store (R198, R203, R204) -/

/-- A descriptor of a stack is named by a queued or running job. -/
def scriptBusy (s : State) (f i : Nat) : Bool :=
  s.booths.any (fun e => decide (e.1 / 512 = f) && (boothJobs e.2).any (fun j => decide (j.script = i)))

/-- A store entry lies in a script that is valid or busy. -/
def entryHeld (s : State) (f e : Nat) : Bool :=
  (List.range 8).any (fun i =>
    let d := (s.fstack f).desc.getD i []
    let base := bits (le d 0 1) 0 6
    (bit (le d 5 1) 7 || scriptBusy s f i) && decide (base ≤ e) && decide (e < base + le d 1 1))

/-- The ringmaster runs: it alone loads scripts. -/
def rmRuns (s : State) : Bool := decide (s.stw.rm = .running)

/-- `SCRIPT_WINDOW_WRITE` (R204): the ringmaster writes an entry that no valid or busy script holds. -/
def execScriptWindowWrite (stack : Fin 8) (entry : Fin 64) (value : Word) (s : State) : Res :=
  if !rmRuns s ∨ entryHeld s stack.val entry.val then .next s
  else
    let fs := s.fstack stack.val
    .next (s.setFstack stack.val { fs with script := modAt (fun _ => value) entry.val fs.script })

/-- A micro-op ends a step. -/
def endsStep (w : Nat) : Bool := bit w 26 || decide (w / 2 ^ 27 = 0x0A) || decide (w / 2 ^ 27 = 0x0B)

/-- The step that starts at an entry of a script of words. -/
def stepFrom (ws : List Nat) (i : Nat) : List Nat :=
  let l := ws.drop i
  l.takeWhile (fun w => !endsStep w) ++ (l.dropWhile (fun w => !endsStep w)).take 1

/-- A step keeps the limits of R198. -/
def stepFits (gmax : Nat) (l : List Nat) : Bool :=
  let cnt := fun (op : Nat) => (l.filter (fun w => decide (w / 2 ^ 27 = op))).length
  let arith := gmax * (cnt 4 + cnt 5)
  decide (cnt 2 ≤ 32) && decide (max arith l.length + 24 * cnt 1 + 8 ≤ 144)

/-- The booth pairings of R48: a descriptor's key format with its group size, and C. -/
def boothPairing (kf c : Nat) : Bool :=
  let k := kf % 16
  (decide (k = 5) || decide (kf < 16)) &&
  match k, c with
  | 1, 1 => true
  | 2, 2 => true
  | 3, 1 | 3, 2 | 4, 1 | 4, 2 | 5, 1 | 5, 2 | 7, 1 | 7, 2 => true
  | _, _ => false

/-- A micro-op of a script obeys R202 and R203; `e` is its entry. -/
def uopOk (base kf d e w : Nat) : Bool :=
  match w / 2 ^ 27 with
  | 0x00 | 0x01 | 0x02 | 0x03 | 0x06 | 0x08 | 0x09 | 0x0B => true
  | 0x04 => decide (bits w 0 4 < d / 16)
  | 0x05 => decide (bits w 0 4 < jobGroups kf d)
  | 0x0A => decide (base ≤ bits w 0 6) && decide (bits w 0 6 ≤ e)
  | _ => false

/-- A script descriptor is accepted (R198, R203). -/
def scriptOk (script : List Word) (x : List Byte) : Bool :=
  let base := bits (le x 0 1) 0 6
  let len := le x 1 1
  let kf := le x 2 1
  let c := le x 3 1
  let d := 16 * (bits (le x 4 1) 0 4 + 1)
  let g := bits (le x 5 1) 0 4 + 1
  let ws := ((script.drop base).take len).map (·.toNat)
  let es := List.range ws.length
  let starts := 0 :: (es.filter (fun i => endsStep (ws.getD i 0))).map (· + 1) ++
    (es.filter (fun i => decide (ws.getD i 0 / 2 ^ 27 = 0x0A))).map (fun i => bits (ws.getD i 0) 0 6 - base)
  decide (le x 0 1 < 64) && decide (1 ≤ len) && decide (base + len ≤ 64) && decide (kf < 32) && decide (c < 4) && decide (le x 4 1 < 16) &&
  decide (bits (le x 5 1) 4 3 = 0) && decide (1 ≤ le x 6 1) && decide (le x 6 1 ≤ 16) && decide (le x 7 1 = 0) && boothPairing kf c &&
  (decide (kf % 16 ≠ 5) || decide (d % groupSize kf = 0)) &&
  es.all (fun i => uopOk base kf d (base + i) (ws.getD i 0)) && starts.all (fun i => stepFits g (stepFrom ws i))

/-- `SCRIPT_DESCRIPTOR_WRITE` (R203): a descriptor is checked and installed; one without `VALID` invalidates the script. A busy
descriptor takes only that. -/
def execScriptDescriptorWrite (stack : Fin 8) (index : Fin 8) (value : List Byte) (s : State) : Res :=
  if value.length ≠ 8 then .fault (.operand "a script descriptor has 8 bytes")
  else if !rmRuns s then .next s
  else
    let fs := s.fstack stack.val
    let old := fs.desc.getD index.val []
    let put := fun x => Host.Outcome.next (s.setFstack stack.val { fs with desc := modAt (fun _ => x) index.val fs.desc })
    if !bit (le value 5 1) 7 then
      put (if scriptBusy s stack.val index.val then old.take 5 ++ leBytes 1 (le old 5 1 % 128) ++ old.drop 6 else value)
    else if scriptBusy s stack.val index.val then .next s
    else if scriptOk fs.script value then put value
    else .next (raise s (pgBth stack.val 0) 5 [])

end Sys2Proof.Machine
end

