-- ==== Sys2Proof/Machine/Net.lean ====
section
/-! DEFINITION. Ports: links, queue pairs, sending, shapers, gates and port time (R332-R342, R349, R353, R354, R357-R365). -/
namespace Sys2Proof.Machine

/-! ### Queue-pair attributes (R336) -/

def qpMtu (x : Qp) : Nat := 128 * 2 ^ le x.attr 0x0C 1
def qpPeer (x : Qp) : Nat := le x.attr 8 4 % 2 ^ 24
def qpRetry (x : Qp) : Nat := bits (le x.attr 0x0E 1) 0 3
def qpRnrRetry (x : Qp) : Nat := bits (le x.attr 0x0E 1) 4 3
def qpIpv6 (x : Qp) : Bool := bit (le x.attr 5 1) 0
def qpFeed (x : Qp) : Option Nat := if bit (le x.attr 5 1) 1 then some (le x.attr 6 2 % 4096) else none
/-- READ requests outstanding as requester; the code 0 stands for 16 (DEDUCED, log entry 54). -/
def qpMaxRead (x : Qp) : Nat := if bits (le x.attr 0x1C 1) 4 4 = 0 then 16 else bits (le x.attr 0x1C 1) 4 4

/-- Distance of two PSNs. -/
def psnDiff (a b : Nat) : Nat := (a + 2 ^ 24 - b % 2 ^ 24) % 2 ^ 24

/-! ### Port time (R30, R31, R363) -/

/-- Island counter of a port, counted on past its wraps. -/
def portCount (s : State) (p : Nat) : Nat :=
  s.time.ctr.getD (islandIdx (4 + p)) 0 + 2 ^ 48 * s.time.wraps.getD (islandIdx (4 + p)) 0

/-- The rate correction gathered since the latest Sync message, in ns; the rate is in parts per 10^9. -/
def rateGain (s : State) (p : Nat) : Int :=
  let x := s.port p
  x.ptpRate * ((portCount s p - x.ptpAt : Nat) : Int) / 1000000000

/-- Port time in ns. -/
def portTime (s : State) (p : Nat) : Nat := ((portCount s p : Int) + (s.port p).ptpStep + rateGain s p).toNat

/-! ### Gates (R364, R365) -/

/-- Length of a cycle. -/
def gclCycle (g : Gcl) : Nat := (g.entries.map (·.2)).sum

/-- The entry that a position of the cycle falls into, with the position of its start. -/
def gclFind : List (Nat × Nat) → Nat → Nat → Nat → Nat × Nat
  | [], _, i, at_ => (i - 1, at_)
  | e :: t, pos, i, at_ => if pos < at_ + e.2 ∨ t = [] then (i, at_) else gclFind t pos (i + 1) (at_ + e.2)

/-- A list placed at a port time: its cycles start at base time plus whole multiples of the cycle. -/
def gclAt (g : Gcl) (now : Nat) : Gcl :=
  let c := gclCycle g
  if c = 0 then { g with cur := 0, since := now }
  else
    let pos := (((now : Int) - g.base) % c).toNat
    let (i, st) := gclFind g.entries pos 0 0
    { g with cur := i, since := now - (pos - st) }

/-- Nanoseconds from the start of the entry in force until the gate of a queue closes; `none` where no entry closes it. A list
whose intervals are all 0 closes no gate that it opens (log entry 55). -/
def gateRun (g : Gcl) (q : Nat) : Option Nat :=
  let n := g.entries.length
  let es := (List.range n).map (fun i => g.entries.getD ((g.cur + i) % n) (0, 0))
  match es.findIdx? (fun e => !bit e.1 q) with
  | none => none
  | some k => some ((es.take k).map (·.2)).sum

/-- The gate of a queue opens with the entry in force. -/
def gateOpens (g : Gcl) (q : Nat) : Bool :=
  let n := g.entries.length
  bit (g.entries.getD g.cur (0, 0)).1 q && !bit (g.entries.getD ((g.cur + n - 1) % n) (0, 0)).1 q

/-- What a gate says of a frame: it may start, it may start and overruns, or it waits. -/
inductive GateSays where
  | go | over | wait
deriving DecidableEq, Repr

/-- A frame of `len` bytes at the gate of a queue: it ends before the gate closes at 800 Gb/s, or no interval holds it and the
interval has just opened (R364). -/
def gateCheck (s : State) (p q len : Nat) : GateSays :=
  if rdf s (pgShp p 0 + 0x180) 0 1 = 0 then .go
  else
    let g := (s.port p).gcl
    if !bit (g.entries.getD g.cur (0, 0)).1 q then .wait
    else
      match gateRun g q with
      | none => .go
      | some t =>
        let now := portTime s p
        if (now - g.since) * 100 + len < t * 100 then .go
        else if gateOpens g q ∧ now = g.since then .over
        else .wait

/-- `GATE_INTERVAL_END` (R364): the next entry of the operating list comes into force. -/
def execGateIntervalEnd (port : Fin 4) (s : State) : Res :=
  if !hostReach s then .next s else
  let p := port.val
  let x := s.port p
  if rdf s (pgShp p 0 + 0x180) 0 1 = 0 ∨ x.gcl.entries.isEmpty then .next s
  else .next (s.setPort p { x with gcl := { x.gcl with cur := (x.gcl.cur + 1) % x.gcl.entries.length, since := portTime s p } })

/-- The administrative list as its registers hold it. -/
def adminGcl (s : State) (p : Nat) : Gcl :=
  let pg := pgShp p 0
  { entries := (List.range (rdf s (pg + 0x180) 8 9)).map (fun i => (rdf s (pg + 0x800 + 8 * i) 0 16, rd s (pg + 0x804 + 8 * i))),
    base := rdf s (pg + 0x184) 0 30 + 1000000000 * (rd s (pg + 0x188) + 2 ^ 32 * rdf s (pg + 0x18C) 0 16) }

/-- `GCL_COMMIT` (R365): the list waits for the first of its cycle starts at or after the commit. -/
def execGclCommit (port : Fin 4) (s : State) : Res := hostWr s (pgShp port.val 0) <|
  let p := port.val
  let x := s.port p
  if x.nextGcl.isSome then .next s
  else
    let g := adminGcl s p
    let c := gclCycle g
    let now := portTime s p
    let wait := if c = 0 then 0 else (((g.base : Int) - now) % c).toNat
    .next (wrf (s.setPort p { x with nextGcl := some (g, now + wait) }) (pgShp p 0 + 0x180) 31 1 1)

/-- `GCL_SWITCH` (R365): the committed list takes over. -/
def execGclSwitch (port : Fin 4) (s : State) : Res :=
  if !hostReach s then .next s else
  let p := port.val
  let x := s.port p
  match x.nextGcl with
  | none => .next s
  | some (g, t) =>
    .next (raise (wrf (s.setPort p { x with gcl := { g with cur := 0, since := t }, nextGcl := none }) (pgShp p 0 + 0x180) 31 1 0) (pgShp p 0) 0 [])

/-- `PTP_SYNC` (R363): an offset above 1 µs is stepped; a smaller one is slewed, by a portion that is free, as is the new rate
correction (log entry 56). -/
def execPtpSync (port : Fin 4) (offset : Int) (s : State) : Res :=
  if !hostReach s then .next s else
  let p := port.val
  let x := s.port p
  let (v, s1) := draw s
  let (w, s2) := draw s1
  let base := x.ptpStep + rateGain s p
  let rate : Int := if w % 2 = 0 then (w / 2 : Nat) else -((w / 2 : Nat) : Int)
  let moved : Int := if offset.natAbs > 1000 then offset else (if offset < 0 then -1 else 1) * ((v % (offset.natAbs + 1) : Nat) : Int)
  let left := offset - moved
  let good := if left.natAbs < 100 then min 16 (x.ptpGood + 1) else 0
  let x1 := { x with ptpStep := base - moved, ptpRate := rate, ptpAt := portCount s p, ptpGood := good,
                     ptpLock := x.ptpLock || decide (good ≥ 16) }
  let s3 := s2.setPort p x1
  if offset.natAbs > 1000 then .next (s3.setPort p { x1 with gcl := gclAt x1.gcl (portTime s3 p) }) else .next s3

/-- `PTP_TIMEOUT` (R363): port time runs free at its last rate. -/
def execPtpTimeout (port : Fin 4) (s : State) : Res :=
  if !hostReach s then .next s else
  .next (raise (s.setPort port.val { s.port port.val with ptpLock := false, ptpGood := 0 }) (pgNet port.val) 3 [])

/-- `NET_TIME_NS_READ` (R363): the nanoseconds are read and the seconds latched. -/
def execNetTimeNsRead (port : Fin 4) (s : State) : Res := hostRd s (pgNet port.val + 0x300) 4 <|
  let t := portTime s port.val
  .next (emit (s.setPort port.val { s.port port.val with secLatch := t / 1000000000 % 2 ^ 48 }) (.read (pgNet port.val + 0x300) 4 (t % 1000000000)))

/-! ### Shapers and policers (R361, R362) -/

/-- One refill of a token bucket, in 1/1,000 byte: `rate` Mb/s for 1.024 µs are 128 thousandths of a byte per Mb/s. -/
def refillBucket (rate burst : Nat) (tokens : Int) : Int := min (tokens + 128 * rate) (burst * 1024000 : Nat)

/-- `SHAPER_REFILL` (R361): the 16 shapers of a port gain tokens, and their rates and bursts as last written come into force. -/
def execShaperRefill (port : Fin 4) (s : State) : Res :=
  if !hostReach s then .next s else
  let p := port.val
  let x := s.port p
  .next (s.setPort p { x with
    shRate := (List.range 16).map (fun q => rdf s (pgShp p 0 + 0x100 + 4 * q) 0 20),
    tokens := (List.range 16).map (fun q =>
      refillBucket (rdf s (pgShp p 0 + 0x100 + 4 * q) 0 20) (rdf s (pgShp p 0 + 0x140 + 4 * q) 0 12) (x.tokens.getD q 0)) })

/-- `POLICER_REFILL` (R362): the 256 policers of a port gain tokens, and their rates and bursts as last written come into force. -/
def execPolicerRefill (port : Fin 4) (s : State) : Res :=
  if !hostReach s then .next s else
  let p := port.val
  let x := s.port p
  .next (s.setPort p { x with
    polRate := (List.range 256).foldl (fun t i => tset 0 t i (rdf s (pgShp p 1 + 0x100 + 8 * i) 0 20)) x.polRate,
    pol := (List.range 256).foldl (fun t i =>
    tset 0 t i (refillBucket (rdf s (pgShp p 1 + 0x100 + 8 * i) 0 20) (rdf s (pgShp p 1 + 0x104 + 8 * i) 0 12) (tget 0 t i))) x.pol })

/-! ### Packets out (R334, R335, R359) -/

/-- Length of a frame with its FCS and sealing: Ethernet, IP, UDP, BTH, further headers, padded payload, ICRC. -/
def frameBytes (s : State) (x : Qp) (extra payload : Nat) : Nat :=
  14 + (if qpIpv6 x then 40 else 20) + 8 + 12 + extra + ceilDiv payload 4 * 4 + 4 + 4 + (if (s.port x.port).sealReq then 32 else 0)

/-- An acknowledgement, NAK or CNP of a queue pair: it bypasses queues, shapers and gates, behind the writes issued so far. -/
def sendCtl (s : State) (q : Nat) (x : Qp) (opcode psn syndrome : Nat) : State :=
  let n := frameBytes s x (if opcode = 0x81 then 16 else 4) 0
  issueWrite s (.packet x.port q { frameLen := n, opcode := opcode, qpn := qpPeer x, psn := psn % 2 ^ 24, syndrome := syndrome })

/-! ### Queue-pair state -/

/-- A pull or a synchronous link of a partition waits on a peer that a queue pair reaches (R408, R417). -/
def peerWaits (s : State) (p q : Nat) : Bool :=
  s.links.any (fun e => decide (e.2.part = p) && decide (peerQpn s p e.2.peer = q) && e.2.sync && !e.2.sent.isEmpty) ||
  s.pulls.any (fun e => decide (e.2.key.part = p) && decide (peerQpn s p e.2.peer = q)) ||
  s.dir.shelves.any (fun e => decide (e.2.key.part = p) && (match e.2.pull with | some x => decide (peerQpn s p x.peer = q) | none => false))

/-- A queue pair enters the error state (R337). -/
def qpError (s : State) (q cause : Nat) : State :=
  match tget? s.qps q with
  | none => s
  | some x =>
    if x.err then s
    else
      let s1 := raise (s.setQp q { x with err := true, placing := none }) (pgNet x.port) 2 (leBytes 3 q ++ [BitVec.ofNat 8 cause])
      if peerWaits s x.part q then raise s1 (pgPart x.part) 3 [] else s1

/-- The spill table lies in host memory. -/
def spillHost (s : State) : Bool := decide (rdf s (pgNet 0 + 0x2B8) 1 1 = 0)

/-- Host address of the spilled state of a queue pair. -/
def spillAddr (s : State) (q : Nat) : Nat := rd64 s (pgNet 0 + 0x2B0) / 4096 * 4096 + 256 * (q % 2 ^ 20)

/-- The four host lines of a spilled state. -/
def spillLines (s : State) (q : Nat) : List Nat := (List.range 4).map (fun i => spillAddr s q / 64 + i)

/-- A line of the device cache is written back to host memory (R377). The 64 bytes are part of a spilled state, whose form is open (log entry 57). -/
def lineBack (s : State) (line : Nat) : State := let (b, s1) := drawBytes s 64; hostPut s1 (line * 64) b

/-- A line enters the device cache, or is marked there. The cache holds 512 KiB, 8,192 lines; where it is full, a line that a free value names is evicted,
written back if it is modified (R369, R377; log entry 158). -/
def cachePut (s : State) (line : Nat) (dirty : Bool) : State :=
  let c := s.cxl.cache
  if (tget? c line).isSome ∨ c.length < 8192 then { s with cxl := { s.cxl with cache := tput c line dirty } }
  else
    let (v, s1) := draw s
    let old := (tkeys c).getD (v % c.length) 0
    let s2 := { s1 with cxl := { s1.cxl with cache := tput (tdel c old) line dirty } }
    if tget? c old = some true then lineBack s2 old else s2

/-- A spill line is owned (R376): it is in the device cache, or RdOwn reads it into it; the flag says that its data came without poison. -/
def ownLine (s : State) (line : Nat) : Bool × State :=
  if (tget? s.cxl.cache line).isSome then (true, s)
  else match hostRead s (line * 64) 64 with
    | (some _, s1) => (true, cachePut s1 line false)
    | (none, s1) => (false, s1)

/-- The state of a queue pair is written to its place in the spill table: in host memory through the device cache, where its lines are then modified, or in
HBM, whole lines (R268, R338, R376). The form of the 256 bytes is open (log entry 57). -/
def writeBack (s : State) (q : Nat) : State :=
  if spillHost s then (spillLines s q).foldl (fun s l => cachePut (ownLine s l).2 l true) s
  else wroteUse s (fun u => decide (u = .spill q))

/-- A queue pair is used: it becomes the most recently used one of its port's cache. -/
def useQp (s : State) (port q : Nat) : State :=
  let p := s.port port
  s.setPort port { p with cache := p.cache.erase q ++ [q] }

/-- A state fetch is asked for. -/
def askFetch (s : State) (port q : Nat) : State :=
  let p := s.port port
  if p.cache.contains q ∨ p.fetch.contains q then s else s.setPort port { p with fetch := p.fetch ++ [q] }

/-- A cached queue pair that may be evicted (R339). -/
def evictable (s : State) (port q : Nat) : Bool :=
  (s.port port).held.all (fun h => decide (h.pkt.qpn ≠ q)) &&
  match tget? s.qps q with
  | none => true
  | some x => x.placing.isNone && x.out.all (fun m => decide (m.psn = none))

/-! ### Messages out (R353, R354, R359-R361) -/

/-- Packets of a message, and the PSNs that it takes. -/
def msgPackets (x : Qp) (m : OutMsg) : Nat := if m.kind = .read then 1 else max 1 (ceilDiv m.bytes.length (qpMtu x))
def msgSpan (x : Qp) (m : OutMsg) : Nat := if m.kind = .read then max 1 (ceilDiv m.imm (qpMtu x)) else msgPackets x m

/-- The BTH opcode of packet `i` of `n` (R334). -/
def msgOpcode (k : OutKind) (i n : Nat) : Nat :=
  let first := decide (i = 0)
  let last := decide (i + 1 = n)
  match k with
  | .write => if first && last then 0x0B else if first then 0x06 else if last then 0x09 else 0x07
  | .mirror => if first && last then 0x0A else if first then 0x06 else if last then 0x08 else 0x07
  | .notice => if first && last then 0x04 else if first then 0x00 else if last then 0x02 else 0x01
  | .read => 0x0C
  | .readResp => if first && last then 0x10 else if first then 0x0D else if last then 0x0F else 0x0E

/-- Packet `i` of a message whose first PSN is `psn`. -/
def msgPacket (s : State) (x : Qp) (m : OutMsg) (psn i : Nat) : Packet :=
  let n := msgPackets x m
  let reth := decide (i = 0) && decide (m.kind = .write ∨ m.kind = .mirror ∨ m.kind = .read)
  let imm := decide (i + 1 = n) && decide (m.kind = .write)
  let aeth := decide (m.kind = .readResp) && (decide (i = 0) || decide (i + 1 = n))
  let b := if m.kind = .read then [] else bslice m.bytes (i * qpMtu x) (qpMtu x)
  { frameLen := frameBytes s x ((if reth then 16 else 0) + (if imm then 4 else 0) + (if aeth then 4 else 0)) b.length,
    opcode := msgOpcode m.kind i n, qpn := qpPeer x, psn := (psn + i) % 2 ^ 24,
    va := if reth then m.va else 0, rkey := if reth then m.rkey else 0,
    dlen := if reth then (if m.kind = .read then m.imm else m.bytes.length) else 0, imm := if imm then m.imm else 0, payload := b }

/-- The message of a queue pair that has packets left to send, with its place. -/
def nextMsg (x : Qp) : Option (Nat × OutMsg) :=
  (x.out.findIdx? (fun m => decide (m.next < msgPackets x m))).map (fun i => (i, x.out.getD i {}))

/-- PSNs outstanding once a message has taken its own (R349). -/
def psnWindow (x : Qp) (m : OutMsg) : Nat :=
  match x.out.find? (fun y => decide (y.kind ≠ .readResp) && y.psn.isSome) with
  | some y => psnDiff (x.sqPsn + msgSpan x m) (y.psn.getD 0)
  | none => msgSpan x m

/-- The next packet of a queue pair may leave, or waits (R337, R349, R354, R358, R360, R367). `none` where it waits. -/
def sendable (s : State) (q : Nat) : Option (Qp × Nat × OutMsg × Packet × GateSays) :=
  match tget? s.qps q with
  | none => none
  | some x =>
    match nextMsg x with
    | none => none
    | some (i, m) =>
      let p := s.port x.port
      let psn := m.psn.getD x.sqPsn
      let reads := (x.out.filter (fun y => decide (y.kind = .read) && decide (y.next > 0))).length
      let pk := msgPacket s x m psn m.next
      let gate := gateCheck s x.port m.tclass pk.frameLen
      let shaped := decide (p.shRate.getD m.tclass 0 ≠ 0)
      if !portOpen p || !p.cache.contains q || x.err || (x.rnrWait && decide (m.kind ≠ .readResp)) ||
        (decide (m.kind = .read) && decide (reads ≥ qpMaxRead x)) || (m.psn.isNone && decide (psnWindow x m > 2 ^ 22 - 1)) ||
        decide (gate = .wait) || (shaped && decide (p.tokens.getD m.tclass 0 ≤ 0)) || decide ((portCount s x.port : Rat) < x.pace) then none
      else some (x, i, m, pk, gate)

/-- The oldest message of an egress queue whose next packet is eligible: the queue pair, the message's number, and the frame's length (R360). -/
def queueHead (s : State) (port tclass : Nat) : Option (Nat × Nat × Nat) :=
  s.qps.foldl (fun (b : Option (Nat × Nat × Nat)) e =>
    if e.2.port ≠ port then b
    else match sendable s e.1 with
      | some (_, _, m, pk, _) =>
        if m.tclass ≠ tclass then b
        else match b with
          | some x => if m.seq < x.2.1 then some (e.1, m.seq, pk.frameLen) else b
          | none => some (e.1, m.seq, pk.frameLen)
      | none => b) none

/-- The deficit round robin of queues 4-15 (R360): the queue visited gains its quantum once a visit and sends while its deficit holds the packet. A queue of
which nothing is eligible is passed over with no deficit kept (DESIGN CHOICE, log entry 154). -/
def drrPick (heads : List (Option (Nat × Nat × Nat))) (quantum : Nat → Nat) : Nat → Port → Option (Nat × Port)
  | 0, _ => none
  | fuel + 1, p =>
    let at_ := p.drrAt
    let onward := fun (d : Nat) => { p with drrAt := 4 + (at_ - 3) % 12, drrNew := true, drr := modAt (fun _ => d) at_ p.drr }
    match heads.getD at_ none with
    | none => drrPick heads quantum fuel (onward 0)
    | some (q, _, n) =>
      let d := p.drr.getD at_ 0 + (if p.drrNew then quantum at_ else 0)
      if n ≤ d then some (q, { p with drrNew := false, drr := modAt (fun _ => d - n) at_ p.drr })
      else drrPick heads quantum fuel (onward d)

/-- The queue pair whose packet a port sends next, and the port after the choice (R360): queues 0-3 in strict priority, then the round robin. -/
def nextSend (s : State) (port : Nat) : Option (Nat × Port) :=
  let heads := (List.range 16).map (queueHead s port)
  match (heads.take 4).findSome? id with
  | some (q, _, _) => some (q, s.port port)
  | none => drrPick heads (fun t => 1024 * max 1 (rdf s (pgShp port 0 + 0x140 + 4 * t) 16 8)) 128 (s.port port)

/-- The time before which the next data packet of a queue pair does not start: its pacing leaves a frame as long as it takes at the current rate (R358;
DESIGN CHOICE, log entry 153). -/
def paced (s : State) (x : Qp) (n : Nat) : Rat := max (portCount s x.port : Rat) x.pace + (8000 * n : Nat) / x.rc

/-- A message after a packet of it has left; a READ response needs no acknowledgement. -/
def sentMsg (x : Qp) (i : Nat) (m : OutMsg) : Qp :=
  let x1 := if m.psn.isNone then { x with sqPsn := (x.sqPsn + msgSpan x m) % 2 ^ 24 } else x
  let m1 := { m with psn := some (m.psn.getD x.sqPsn), next := m.next + 1 }
  if m.kind = .readResp ∧ m1.next ≥ msgPackets x m then { x1 with out := x1.out.eraseIdx i }
  else { x1 with out := modAt (fun _ => m1) i x1.out }

/-- `RESULT_BLOCK_SEND` (R353, R354, R358-R361): the next packet of a queue pair leaves its egress queue, where it is the one that the port serves next. A
queue pair that is not cached is fetched. -/
def execResultBlockSend (port : Fin 4) (qpn : Nat) (s : State) : Res :=
  if !hostReach s then .next s else
  match tget? s.qps qpn with
  | none => .next s
  | some y =>
    if y.port ≠ port.val then .next s
    else
      let s0 := if (nextMsg y).isSome ∧ y.err = false then askFetch s port.val qpn else s
      match sendable s0 qpn, nextSend s0 port.val with
      | some (x, i, m, pk, gate), some (q, p0) =>
        if q ≠ qpn then .next s0
        else
          let n := pk.frameLen
          let p1 := if p0.shRate.getD m.tclass 0 = 0 then p0 else { p0 with tokens := modAt (fun t => t - (1000 * n : Nat)) m.tclass p0.tokens }
          let s1 := useQp ((s0.setPort port.val p1).setQp qpn { sentMsg x i m with pace := paced s0 x n }) port.val qpn
          let s2 := meterPort (transmit s1 port.val qpn (classDscp s1 port.val m.tclass) pk) x.part port.val n true
          .next (if gate = .over then raise (bump s2 (pgShp port.val 0 + 0x190) 0 16 1) (pgShp port.val 0) 1 [] else s2)
      | _, _ => .next s0

/-! ### Acknowledgement and retry (R337, R349, R354) -/

/-- Messages sent whole and covered by a PSN are done; READs end with their response. -/
def ackUpTo (x : Qp) (psn : Nat) : Qp :=
  let done := fun (m : OutMsg) => match m.psn with
    | none => false
    | some f => decide (m.kind ≠ .readResp) && decide (m.kind ≠ .read) && decide (m.next ≥ msgPackets x m) &&
        decide (psnDiff psn (f + msgSpan x m - 1) < 2 ^ 23)
  if x.out.any done then { x with out := x.out.filter (fun m => !done m), retries := 0, rnrLeft := qpRnrRetry x } else x

/-- The requests from a PSN on are to be sent again. -/
def resendFrom (x : Qp) (psn : Nat) : Qp :=
  { x with out := x.out.map (fun m => match m.psn with
      | none => m
      | some f =>
        if m.kind = .readResp then m
        else if m.kind ≠ .read ∧ psnDiff psn f < msgSpan x m then { m with next := min m.next (psnDiff psn f) }
        else { m with next := 0 }) }

/-- PSN of the oldest request that is not acknowledged. -/
def oldestPsn (x : Qp) : Option Nat := (x.out.find? (fun m => decide (m.kind ≠ .readResp) && m.psn.isSome)).bind (·.psn)

/-- One retry is used up, or the retries are exhausted. -/
def retryFrom (s : State) (q : Nat) (x : Qp) (psn : Nat) : State :=
  if x.retries ≥ qpRetry x then qpError s q 1 else s.setQp q (resendFrom { x with retries := x.retries + 1 } psn)

/-- `ACK_TIMEOUT` (R337): the oldest outstanding request is sent again, with all that follow it. -/
def execAckTimeout (qpn : Nat) (s : State) : Res :=
  if !hostReach s then .next s else
  match tget? s.qps qpn with
  | none => .next s
  | some x =>
    match oldestPsn x with
    | none => .next s
    | some f => if x.err ∨ x.rnrWait then .next s else .next (retryFrom s qpn x f)

/-- `RNR_TIMER_EXPIRY` (R354): a queue pair may send again. -/
def execRnrTimerExpiry (qpn : Nat) (s : State) : Res :=
  if !hostReach s then .next s else
  match tget? s.qps qpn with
  | none => .next s
  | some x => .next (s.setQp qpn { x with rnrWait := false })

/-! ### Congestion control (R357, R358) -/

/-- g of R358. -/
def ccG (s : State) (port : Nat) : Rat := (rdf s (pgNet port + 0x130) 0 8 : Nat) / 1024

/-- rc stays within its bounds. -/
def ccClamp (r : Rat) : Rat := max 100 (min 800000 r)

/-- A CNP has been received. -/
def recvCnp (s : State) (q : Nat) (x : Qp) : State :=
  let g := ccG s x.port
  bump (s.setQp q { x with rt := x.rc, rc := ccClamp (x.rc * (1 - x.a / 2)), a := (1 - g) * x.a + g, calm := 0, cnpSeen := true })
    (pgNet x.port + 0x120) 16 16 1

/-- `CC_TIMER_EXPIRY` (R358): a period of `CC_TIMER` ends. -/
def execCcTimerExpiry (qpn : Nat) (s : State) : Res :=
  if !hostReach s then .next s else
  match tget? s.qps qpn with
  | none => .next s
  | some x =>
    if x.cnpSeen then .next (s.setQp qpn { x with cnpSeen := false })
    else
      let rt := if x.calm < 5 then x.rt else x.rt + (rdf s (pgNet x.port + 0x130) 16 16 : Nat)
      .next (s.setQp qpn { x with a := (1 - ccG s x.port) * x.a, rt := rt, rc := ccClamp ((x.rc + rt) / 2), calm := min 5 (x.calm + 1) })

/-- A CNP is sent for a marked request, unless one was sent less than `CNP_GAP` before (R357). -/
def sendCnp (s : State) (q : Nat) (x : Qp) : Qp × State :=
  let now := portCount s x.port
  let recent := match x.lastCnp with
    | some t => decide (now - t < 1000 * rdf s (pgNet x.port + 0x100) 8 8)
    | none => false
  if recent then (x, s)
  else
    let x1 := { x with lastCnp := some now }
    (x1, bump (sendCtl (s.setQp q x1) q x1 0x81 0 0) (pgNet x.port + 0x120) 0 16 1)

/-! ### Queue-pair commands (R336, R337) -/

/-- The staged attribute block. -/
def stagedAttr (s : State) (p : Nat) : List Byte := (List.range 16).flatMap (fun i => leBytes 4 (rd s (pgNet p + 0x200 + 4 * i)))

/-- The block keeps its ranges and reserved bits, its ring can be fed, and its partition takes new objects. -/
def attrOk (s : State) (a : List Byte) : Bool :=
  let part := le a 4 1
  let ring := match tget? s.rings (le a 6 2 % 4096) with
    | some g => g.rloc && !g.destroying && decide (g.part = part)
    | none => false
  decide (0x100000 ≤ le a 0 4) && decide (le a 0 4 ≤ 0x1FFFFF) && decide (part < 32) && decide (le a 5 1 < 4) && decide (le a 6 2 < 4096) &&
  decide (le a 8 4 < 2 ^ 24) && decide (1 ≤ le a 0x0C 1) && decide (le a 0x0C 1 ≤ 5) && decide (1 ≤ le a 0x0D 1) && decide (le a 0x0D 1 < 32) &&
  !bit (le a 0x0E 1) 3 && !bit (le a 0x0E 1) 7 && decide (le a 0x0F 1 < 16) && decide (le a 0x10 2 < 512) && decide (le a 0x14 4 < 2 ^ 24) &&
  decide (le a 0x18 4 < 2 ^ 24) && decide (le a 0x1E 2 = 0) && decide (le a 0x26 1 < 16) && decide (le a 0x27 1 = 0) && decide (le a 0x38 8 = 0) &&
  (!bit (le a 5 1) 1 || ring) && partOpen s part

/-- `RESULT` of a queue-pair command. -/
def qpResult (s : State) (p r : Nat) : State := wrf s (pgNet p + 0x244) 1 3 r

/-- `QP_CREATE` (R336, R337). The staging check comes first, then the QPN, then the spill table (log entry 27). -/
def execQpCreate (port : Fin 4) (s : State) : Res := hostWr s (pgNet port.val) <|
  let p := port.val
  match rmGate s 1 with
  | (some _, s1) => .next (qpResult s1 p 1)
  | (none, s) =>
    let a := stagedAttr s p
    let q := le a 0 4
    if !attrOk s a then .next (qpResult s p 2)
    else if (tget? s.qps q).isSome then .next (qpResult s p 3)
    else if rdf s (pgNet 0 + 0x2B8) 0 1 = 0 then .next (qpResult s p 4)
    else
      let x : Qp := { port := p, part := le a 4 1, attr := a, sqPsn := le a 0x14 4, rqPsn := le a 0x18 4,
                      rnrLeft := bits (le a 0x0E 1) 4 3 }
      .next (qpResult (writeBack (s.setQp q x) q) p 0)

/-- A queue pair is gone with its held packets, its refusals and its unsent messages (R337). -/
def removeQp (s : State) (q : Nat) : State :=
  match tget? s.qps q with
  | none => s
  | some x =>
    let p := s.port x.port
    let p1 := { p with cache := p.cache.erase q, fetch := p.fetch.erase q, held := p.held.filter (fun h => h.pkt.qpn ≠ q),
                       refusals := p.refusals.filter (fun r => r.1 ≠ q) }
    let s1 := s.setPort x.port p1
    -- READs of remote drawers that it carried are issued again by the sweep (R407)
    let shelves := s1.dir.shelves.map (fun (e : Nat × Shelf) =>
      match e.2.pull with
      | some pl => if e.2.key.part = x.part ∧ peerQpn s x.part pl.peer = q then (e.1, { e.2 with pull := some { pl with inFlight := [] } }) else e
      | none => e)
    { s1 with qps := tdel s1.qps q, dir := { s1.dir with shelves := shelves } }

/-- The staged QPN names a queue pair of this port. -/
def stagedQp (s : State) (p : Nat) : Option (Nat × Qp) :=
  let q := rd s (pgNet p + 0x200)
  (tget? s.qps q).bind (fun x => if x.port = p then some (q, x) else none)

/-- `QP_DESTROY` (R337). -/
def execQpDestroy (port : Fin 4) (s : State) : Res := hostWr s (pgNet port.val) <|
  match rmGate s 1 with
  | (some _, s1) => .next (qpResult s1 port.val 1)
  | (none, s) =>
    match stagedQp s port.val with
    | none => .next (qpResult s port.val 3)
    | some (q, _) => .next (qpResult (removeQp s q) port.val 0)

/-- `QP_READ` (R337): an absent QPN reads as absent, with `RESULT` 3 (log entry 52). -/
def execQpRead (port : Fin 4) (s : State) : Res := hostWr s (pgNet port.val) <|
  let pg := pgNet port.val
  match rmGate s 1 with
  | (some _, s1) => .next (qpResult s1 port.val 1)
  | (none, s) =>
    match stagedQp s port.val with
    | none => .next (qpResult (wrf (wrf s (pg + 0x244) 4 2 0) (pg + 0x244) 6 1 0) port.val 3)
    | some (q, x) =>
      .next (qpResult (wrf (wrf s (pg + 0x244) 4 2 (if x.err then 2 else 1)) (pg + 0x244) 6 1
        (if (s.port port.val).cache.contains q then 1 else 0)) port.val 0)

end Sys2Proof.Machine
end

