-- ==== Sys2Proof/Machine/Regions.lean ====
section
/-! DEFINITION. Registered regions, their keys, and paged shelf regions (R343-R346, R355, R540). -/
namespace Sys2Proof.Machine

/-! ### The staged block and checks (R343) -/

/-- The staged region block. -/
def stagedRegion (s : State) : List Byte := (List.range 8).flatMap (fun i => leBytes 4 (rd s (pgNet 0 + 0x280 + 4 * i)))

/-- A region is a view of a shelf. -/
def regShelf (g : Region) : Bool := bit g.acc 2

/-- A region's base and length are allowed for its kind. -/
def spanOk (s : State) (part acc base len : Nat) : Bool :=
  if bit acc 2 then decide (len / 2 ^ 32 = 0) else decide (refCheck s part base len = none)

/-- The key of a region (R344). -/
def regionKey (i : Nat) (g : Region) : Nat := g.part * 2 ^ 24 + i * 2 ^ 8 + g.gen

/-- `RESULT` of a region command, with the key that the index then has; where it has no region the key is open (log entry 58). -/
def regionResult (s : State) (i r : Nat) : State :=
  let s1 := wrf s (pgNet 0 + 0x2A4) 1 3 r
  match tget? s1.regions i with
  | some g => wr s1 (pgNet 0 + 0x2A8) (regionKey i g)
  | none => let (v, s2) := draw s1; wr s2 (pgNet 0 + 0x2A8) v

/-- The staged index. -/
def stagedIndex (s : State) : Nat := le (stagedRegion s) 0 4

/-- `REGION_REGISTER` (R343, R344). The staging check comes ahead of an index in use (log entry 27). -/
def execRegionRegister (s : State) : Res := hostWr s (pgNet 0) <|
  if s.regionBusy.isSome then .next s else
  match rmGate s 1 with
  | (some _, s1) => .next (wrf s1 (pgNet 0 + 0x2A4) 1 3 1)
  | (none, s) =>
    let b := stagedRegion s
    let i := le b 0 4
    let part := le b 4 1
    let acc := le b 5 1
    let ok := decide (i < 65536) && decide (part < 32) && decide (acc < 8) && !(bit acc 2 && bit acc 1) && decide (le b 6 2 = 0) &&
      decide (le b 0x18 8 = 0) && partOpen s part && spanOk s part acc (le b 8 8) (le b 0x10 8)
    if !ok then .next (regionResult s (i % 65536) 2)
    else if (tget? s.regions i).isSome then .next (regionResult s i 3)
    else
      let g : Region := { part := part, acc := acc, base := le b 8 8, len := le b 0x10 8, gen := tget 0 s.regionGen i }
      .next (regionResult { s with regions := tput s.regions i g, regionGen := tset 0 s.regionGen i ((g.gen + 1) % 256) } i 0)

/-- A packet that passed its key check under a region and generation has not been placed or answered (R346). -/
def regionInUse (s : State) (i gen : Nat) : Bool :=
  s.qps.any (fun e => match e.2.placing with | some pl => decide (pl.region = some (i, gen)) | none => false) ||
  s.ports.any (fun e => e.2.held.any (fun h => match h.region with | some (j, g) => decide (j = i) && decide (g.gen = gen) | none => false)) ||
  s.cxl.wq.contains (.placed i gen)

/-- The command waits for the packets checked under the old generation. -/
def regionWait (s : State) (i : Nat) (g : Region) : State :=
  if regionInUse s i g.gen then wrf { s with regionBusy := some { index := i, old := g } } (pgNet 0 + 0x2A4) 0 1 1 else s

/-- Re-registration with a given base and length (R346). -/
def reregister (s : State) (i : Nat) (g : Region) (base len : Nat) : State :=
  let g1 := { g with base := base, len := len, gen := (g.gen + 1) % 256 }
  let s1 := { s with regions := tput s.regions i g1, regionGen := tset 0 s.regionGen i ((g1.gen + 1) % 256) }
  regionWait (regionResult s1 i 0) i g

/-- A command on an existing region, past `BUSY` (R545) and the ringmaster. -/
def onRegion (s : State) (k : State → Nat → Region → State) : Res :=
  if s.regionBusy.isSome then .next s else
  match rmGate s 1 with
  | (some _, s1) => .next (wrf s1 (pgNet 0 + 0x2A4) 1 3 1)
  | (none, s) =>
    let i := stagedIndex s
    if i ≥ 65536 then .next (regionResult s (i % 65536) 2)
    else
      match tget? s.regions i with
      | none => .next (regionResult s i 3)
      | some g => .next (k s i g)

/-- `REGION_REREGISTER_NEW` (R346): the staged base and length replace those of the region. -/
def execRegionReregisterNew (s : State) : Res := hostWr s (pgNet 0) <|
  onRegion s (fun s i g =>
    let b := stagedRegion s
    if partOpen s g.part && spanOk s g.part g.acc (le b 8 8) (le b 0x10 8) then reregister s i g (le b 8 8) (le b 0x10 8)
    else regionResult s i 2)

/-- `REGION_REREGISTER_KEEP` (R346): the region keeps base and length. -/
def execRegionReregisterKeep (s : State) : Res := hostWr s (pgNet 0) <|
  onRegion s (fun s i g => if partOpen s g.part then reregister s i g g.base g.len else regionResult s i 2)

/-- `REGION_DEREGISTER` (R346). -/
def execRegionDeregister (s : State) : Res := hostWr s (pgNet 0) <|
  onRegion s (fun s i g => regionWait (regionResult { s with regions := tdel s.regions i } i 0) i g)

/-- `REGION_READ` (R343): the block of the region fills the staging registers (DEDUCED, log entry 59). -/
def execRegionRead (s : State) : Res := hostWr s (pgNet 0) <|
  onRegion s (fun s i g =>
    let b := leBytes 4 i ++ leBytes 1 g.part ++ leBytes 1 g.acc ++ leBytes 2 0 ++ leBytes 8 g.base ++ leBytes 8 g.len ++ leBytes 8 0
    regionResult ((List.range 8).foldl (fun s j => wr s (pgNet 0 + 0x280 + 4 * j) (le b (4 * j) 4)) s) i 0)

/-- `REGION_COMMAND_DRAIN` (R346): every packet of the old generation has been placed or answered, and the command completes. -/
def execRegionCommandDrain (s : State) : Res :=
  match s.regionBusy with
  | none => .next s
  | some w => if regionInUse s w.index w.old.gen then .next s else .next (wrf { s with regionBusy := none } (pgNet 0 + 0x2A4) 0 1 0)

/-- The key check of a request with a nonzero length; `write` is the access (R345). -/
def keyCheck (s : State) (x : Qp) (rkey va len : Nat) (write : Bool) : Option (Nat × Region) :=
  let i := bits rkey 8 16
  match tget? s.regions i with
  | none => none
  | some g =>
    let size := if regShelf g then 2 ^ 62 else g.len
    if decide (rkey = regionKey i g) && decide (g.part = x.part) && bit g.acc (if write then 1 else 0) && decide (va + len ≤ size) then some (i, g)
    else none

/-! ### Paged shelf regions (R74, R355) -/

/-- Records of a drawer that lie below `VISIBLE`. -/
def seenCount (sh : Shelf) (d : Drawer) : Nat := min d.count (sh.visible - d.firstPos)

/-- The form of R74 of a drawer as a shelf region shows it. -/
def drawerForm (sh : Shelf) (d : Drawer) : List Byte :=
  let n := seenCount sh d
  drawerHeader sh d n ++ padTo (bslice d.data 0 (n * serB sh.prof d.series)) 32768

/-- The live shelf that a shelf region shows. -/
def regionShelfOf (s : State) (g : Region) : Option (Nat × Shelf) :=
  match lookup s { part := g.part, conv := g.base, tenant := bits g.len 0 16, layer := bits g.len 16 8, group := bits g.len 24 8 } with
  | some (i, sh) => if sh.state = .live then some (i, sh) else none
  | none => none

/-- The drawers that a range of a shelf region touches, within their 33,024 bytes. -/
def touchedDrawers (va len : Nat) : List (Nat × Nat) :=
  if len = 0 then []
  else ((List.range ((va + len - 1) / 65536 - va / 65536 + 1)).map (fun i => va / 65536 + i)).filterMap (fun n =>
    let lo := max va (n * 65536)
    if lo % 65536 < 33024 then some (n / 2 ^ 21, n % 2 ^ 21) else none)

/-- The first touched drawer that lies in T2, and the damage that reading them meets. -/
def firstCold (sh : Shelf) (ks : List (Nat × Nat)) : Option (Nat × Nat) :=
  ks.find? (fun k => match (getDrawer sh k.1 k.2).map Drawer.loc with | some (.cab _) => true | _ => false)
def firstBadDrawer (s : State) (sh : Shelf) (ks : List (Nat × Nat)) : Option (Nat × Nat) × State :=
  readDrawers s (ks.filterMap (fun k => getDrawer sh k.1 k.2))

/-- The bytes of a range of a shelf region, drawer by drawer. -/
def shelfBytes (sh : Option Shelf) : Nat → Nat → Nat → List Byte
  | 0, _, _ => []
  | fuel + 1, va, len =>
    if len = 0 then []
    else
      let n := min len (65536 - va % 65536)
      let d := sh.bind (fun x => (getDrawer x (va / 2 ^ 37) (va / 65536 % 2 ^ 21)).bind (fun d => if d.loc = .remote then none else some (x, d)))
      let b := match d with
        | some (x, d) => bslice (padTo (drawerForm x d) 65536) (va % 65536) n
        | none => List.replicate n 0
      b ++ shelfBytes sh fuel (va + n) (len - n)

end Sys2Proof.Machine
end

