-- ==== Sys2Proof/Machine/Tiers.lean ====
section
/-! DEFINITION. Plans, pins, demotion, moves, waiting allocations, cold reads and lifts up to their placement, and the tier registers
(R229-R248, R263). -/
namespace Sys2Proof.Machine

/-! ### PLAN (R244) -/

/-- Step 10 and effect of `PLAN`. An absent shelf that the pull table holds is pulled first (R406); `PLAN` needs no shelf. -/
def doPlan (s : State) (id : Nat) (r : Req) : State :=
  let k := dKey r.desc
  let h := le r.desc 0x18 2
  let depth := le r.desc 0x1A 1
  let mine := fun (a : PlanAt) => decide (a.part = k.part) && decide (a.tenant = k.tenant) && decide (a.conv = k.conv)
  let attach := fun (s : State) =>
    if h = 0 then complete { s with tiers := { s.tiers with plans := s.tiers.plans.filter (fun a => !mine a) } } id r stOk 0 0 0 0 0
    else if depth = 0 ∨ depth > 8 then failReq s id r { status := stBadDescriptor, detail := 0x1A }
    else if s.tiers.plans.any mine then
      complete { s with tiers := { s.tiers with plans := s.tiers.plans.map (fun a =>
        if mine a then { part := k.part, tenant := k.tenant, conv := k.conv, plan := h, depth := depth } else a) } } id r stOk 0 0 0 0 0
    else if s.tiers.plans.length ≥ 262144 then failReq s id r { status := stFull, detail := 0x09 }
    else complete { s with tiers := { s.tiers with
        plans := s.tiers.plans ++ [{ part := k.part, tenant := k.tenant, conv := k.conv, plan := h, depth := depth }] } } id r stOk 0 0 0 0 0
  let s0 := readDir s k
  match lookup s0 k, pullOf s0 k with
  | some _, _ => attach s0
  | none, some n => waitForPull s0 id r n
  | none, none =>
    match pullFind s0 k with
    | (some e, s1) => let (n, s2) := startPull s1 (tableJob k e); waitForPull s2 id r n
    | (none, s1) => attach s1

/-- `PLAN` (R244). -/
def execPlan (ring : Fin 4096) (s : State) : Res := .next (admitOp s ring.val 0x06 doPlan)

/-! ### Pins (R246) -/

/-- A K drawer under a range with `PTIER` 0. -/
def pinnedT0 (sh : Shelf) (series idx : Nat) : Bool :=
  let a := drawerPos sh series idx
  decide (series % 2 = 0) && sh.pins.any (fun r => !r.tier1 && decide (r.first < a + serT sh.prof series) && decide (a < r.endp))

/-- A pinned drawer lies in its tier. -/
def pinHome (sh : Shelf) (d : Drawer) : Bool :=
  match locPlace d.loc with
  | none => false
  | some q => decide (d.moving = none) && (!pinnedT0 sh d.series d.idx || isFront q.stack)

/-- A place in T0 for a drawer. -/
def frontPlace (s : State) (sh : Shelf) (series idx : Nat) : Option Place :=
  ((List.range 4).map (fun i => fronts ((shelfDie sh + i) % 4))).findSome? (fun ks =>
    match bestStack s sh.key.part ks with
    | some k => placeIn s sh series idx k
    | none => none)

/-- One drawer of a shelf replaced. -/
def putDrawer (s : State) (i : Nat) (d : Drawer) : State :=
  match s.shelf? i with
  | some sh => s.setShelf i (setDrawer sh d)
  | none => s

/-- The pinned drawers of a shelf that do not lie in their tiers are lifted, or begin to move to T0; where T0 has no room an
allocation waits. `req` is the `PIN` that asks, on die `die`. -/
def pinWork (s : State) (i die req : Nat) : State :=
  match s.shelf? i with
  | none => s
  | some sh =>
    if sh.state ≠ .live then s
    else (sh.drawers.filter (fun d => pinned sh d.series d.idx && !pinHome sh d && decide (d.moving = none))).foldl (fun s d =>
      match d.loc with
      | .cab _ =>
        if s.tiers.lifts.any (fun l => decide (l.shelf = i) && decide (l.series = d.series) && decide (l.idx = d.idx) && decide (l.req ≠ 0 ∨ req = 0)) then s
        else queueLift s { die := die, shelf := i, series := d.series, idx := d.idx, req := req }
      | .hbm _ | .clean _ _ =>
        match frontPlace s sh d.series d.idx with
        | some q => putDrawer s i { d with moving := some (moveLoc d.loc q) }
        | none => addWait s { part := sh.key.part, t0 := true, shelf := i, series := d.series, idx := d.idx }
      | _ => s) s

/-- The pending `PIN`s of a shelf. -/
def pendingPins (s : State) (i : Nat) : List (Nat × Req) :=
  s.reqs.filter (fun e => decide (e.2.shelf = some i) && decide (dOpcode e.2.desc = 0x07))

/-- A drawer lies in the range of a `PIN`. -/
def inPin (sh : Shelf) (r : Req) (series idx : Nat) : Bool :=
  let a := drawerPos sh series idx
  decide (le r.desc 0x18 4 < a + serT sh.prof series) && decide (a < le r.desc 0x1C 4)

/-- The `PIN`s of a shelf whose drawers all lie in their tiers complete. -/
def pinCheck (s : State) (i : Nat) : State :=
  (pendingPins s i).foldl (fun s e =>
    match s.shelf? i with
    | none => s
    | some sh =>
      if sh.drawers.all (fun d => !(inPin sh e.2 d.series d.idx && pinned sh d.series d.idx) || pinHome sh d) then
        complete s e.1 e.2 stOk 0 0 0 0 0
      else s) s

/-- The range that a `PIN` names. -/
def pinRange (r : Req) : PinRange :=
  { first := le r.desc 0x18 4, endp := le r.desc 0x1C 4, tier1 := bit (le r.desc 0x20 1) 0 }

/-- A `PIN` whose tier cannot be freed pins nothing. -/
def pinFail (s : State) (i : Nat) (e : Nat × Req) (detail : Nat) : State :=
  let s1 := match s.shelf? i with
    | some sh => s.setShelf i { sh with pins := sh.pins.erase (pinRange e.2) }
    | none => s
  failReq { s1 with tiers := { s1.tiers with lifts := s1.tiers.lifts.filter (fun l => l.req ≠ e.1) } } e.1 e.2
    { status := stFull, detail := detail }

/-- Pinned drawers of a partition. -/
def pinnedCount (s : State) (p : Nat) : Nat :=
  ((s.dir.shelves.filter (fun e => decide (e.2.key.part = p))).map (fun e =>
    (e.2.drawers.filter (fun d => pinned e.2 d.series d.idx)).length)).sum

/-- A `PIN` on a shelf that exists. -/
def pinFound (s : State) (id : Nat) (r : Req) (i : Nat) (sh : Shelf) : State :=
  let g := pinRange r
  if bit (le r.desc 0x20 1) 7 then
    match sh.pins.find? (fun x => decide (x.first = g.first) && decide (x.endp = g.endp)) with
    | some x => complete (s.setShelf i { sh with pins := sh.pins.erase x }) id r stOk 0 0 0 0 0
    | none => failReq s id r { status := stBadDescriptor, detail := 0x18 }
  else
    let s1 := s.setShelf i { sh with pins := sh.pins ++ [g] }
    if sh.pins.length ≥ 4 ∨ pinnedCount s1 r.part * 33032 > rd s (pgPart r.part + 0x214) * 2 ^ 20 then
      failReq s id r { status := stFull, detail := 0x08 }
    else pinCheck (pinWork (s1.setReq id { r with shelf := some i }) i (r.ring / 1024) id) i

/-- Step 10 and effect of `PIN`. -/
def doPin (s : State) (id : Nat) (r : Req) : State :=
  withShelf s id r (dKey r.desc) (fun s i sh => pinFound s id r i sh) (fun s => failReq s id r { status := stLost })

/-- `PIN` (R246). -/
def execPin (ring : Fin 4096) (s : State) : Res := .next (admitOp s ring.val 0x07 doPin)

/-! ### Work of the cabinet (R241, R248) -/

/-- The drawers whose cabinet reads a run has in flight: at most 16 at once (R241). -/
def coldFlight (sh : Shelf) (x : Run) : List (Nat × Nat) :=
  (x.coldLeft.filter (fun k => match (getDrawer sh k.1 k.2).map Drawer.loc with | some .remote => false | _ => true)).take 16

/-- The drawer of a lift still lies in the cabinet. -/
def liftNeeded (s : State) (l : Lift) : Bool :=
  match ((s.shelf? l.shelf).bind (fun sh => getDrawer sh l.series l.idx)).map Drawer.loc with
  | some (.cab _) => true
  | _ => false

/-- Work of a class that waits for the cabinet (R248): 1 a run's cold read or a demand read, 2 read disturb, or garbage collection that is urgent, 3 an
allocation that waits for a demotion, 4 a lift, 5 background demotion. -/
def cabWork (s : State) (c : Nat) : Bool :=
  match c with
  | 1 => s.tiers.lifts.any (fun l => l.demand && liftNeeded s l && decide (l.phase = .queued)) ||
      s.reqs.any (fun e => match reqShelf s e.2 with
        | some sh => e.2.runs.any (fun x => inFlight x && (coldFlight sh x).any (fun k =>
            match (getDrawer sh k.1 k.2).map Drawer.loc with | some (.cab _) => true | _ => false))
        | none => false)
  | 2 => s.cab.gcUrgent || s.cab.blocks.any (fun e => e.2.prog && decide (e.2.reads ≥ 50000))
  | 3 => !s.tiers.waits.isEmpty
  | 4 => s.tiers.lifts.any (fun l => !l.demand && decide (l.phase = .queued))
  | _ => s.tiers.active.any (fun e => !e.2)

/-- No work of a class before `c` waits for the cabinet. -/
def cabFree (s : State) (c : Nat) : Bool := (List.range c).all (fun k => decide (k = 0) || !cabWork s k)

/-! ### Demotion and moves (R235, R236, R239, R263) -/

/-- The drawer that a demotion takes begins to move, if there is somewhere for it to go. -/
def startDemotion (s : State) (p i series idx : Nat) (t0 : Bool) : State :=
  match s.shelf? i with
  | none => s
  | some sh =>
    match getDrawer sh series idx with
    | none => s
    | some d =>
      if t0 then
        match (demoteStack s sh).bind (placeIn s sh series idx) with
        | some q => putDrawer s i { d with moving := some (moveLoc d.loc q) }
        | none => s
      else
        match t2Ready s p none (fun s => decide (tierFree s p false * 32 ≥ tierTotal s p false) || gone i series idx s) with
        | (some _, s1) => s1
        | (none, s1) => if shareFits s1 p 1 && !gone i series idx s1 then putDrawer s1 i { d with moving := some (.cab 0) } else s1

/-- `DEMOTION` (R235): demotion of a tier starts below 1/64 of free places, and takes one drawer after another until 1/32 are
free. The command takes the next drawer. A background demotion to T2 waits for the classes of R248 before it. -/
def execDemotion (part : Fin 32) (t0 : Bool) (s : State) : Res :=
  let p := part.val
  let total := tierTotal s p t0
  let free := tierFree s p t0
  let run := s.tiers.active.contains (p, t0)
  let quiet := fun (s : State) => { s with tiers := { s.tiers with active := s.tiers.active.filter (· ≠ (p, t0)) } }
  if run && decide (free * 32 ≥ total) then .next (quiet s)
  else if (!run && decide (free * 64 ≥ total)) || (!t0 && !cabFree s 5) then .next s
  else
    let s1 := if run then s else { s with tiers := { s.tiers with active := s.tiers.active ++ [(p, t0)] } }
    let (v, s2) := draw s1
    match oldest (eligibles s2 p t0) v with
    | none => .next s1
    | some (i, series, idx, _) => .next (startDemotion s2 p i series idx t0)

/-- What follows once a drawer of a shelf has come to rest: appends that waited for it, pins. -/
def settled (s : State) (i : Nat) : State :=
  match s.shelf? i with
  | none => s
  | some sh => pinCheck (pinWork (retryAppends s i) i (shelfDie sh) 0) i

/-- A move between HBM places ends. One to T0 serves a pin and stamps the drawer (R233); one out of a retiring pseudo-channel (R280) is
no demotion. -/
def endHbmMove (s : State) (i : Nat) (sh : Shelf) (d : Drawer) (l : Loc) : State :=
  let up := match locPlace l with | some q => isFront q.stack | none => false
  let s1 := relocate s i d.series d.idx l
  let out := match locPlace d.loc with | some q => (s.hbmc q.stack).retiring.contains q.pc | none => false
  if out then s1
  else if up then touch s1 i d.series d.idx
  else if inTier d true then bump s1 (pgPart sh.key.part + 0x220) 0 16 1 else s1

/-- `MOVE_END` (R239): a move ends with the update of the drawer's locator, once no dispatched run reads the drawer any more (R144).
Damage found stops the move (R263). A cabinet that has become read-only takes no block any more. -/
def execMoveEnd (shelf series idx : Nat) (s : State) : Res :=
  match s.shelf? shelf with
  | none => .next s
  | some sh =>
    match getDrawer sh series idx with
    | none => .next s
    | some d =>
      match d.moving with
      | none => .next s
      | some l =>
        if beingRead s shelf series idx then .next s
        else
          match readDrawer s d with
          | (some w, s0) => .next (damage (putDrawer s0 shelf { d with moving := none }) shelf (.inl w))
          | (none, s) =>
            let stop := putDrawer s shelf { d with moving := none }
            match l with
            | .cab _ =>
              let done := fun (s : State) (u : Nat) =>
                settled (bump (relocate s shelf series idx (.cab u)) (pgPart sh.key.part + 0x220) 16 16 1) shelf
              match d.loc with
              | .clean _ u => .next (done s u)
              | _ =>
                if s.cab.readOnly then .next (settled stop shelf)
                else
                  let (u, s1) := storeDrawer s shelf sh d
                  .next (done s1 u)
            | l => .next (settled (endHbmMove s shelf sh d l) shelf)

/-- `TIER_VISIT` (R234): a stamp of age 32,768 or more becomes now - 32,768. -/
def execTierVisit (shelf series idx : Nat) (s : State) : Res :=
  match s.shelf? shelf with
  | none => .next s
  | some sh =>
    match getDrawer sh series idx with
    | none => .next s
    | some d =>
      let s1 := if ageOf s d.stamp ≥ 32768 then putDrawer s shelf { d with stamp := (stampNow s + 32768) % 65536 } else s
      .next (pinCheck (pinWork s1 shelf (shelfDie sh) 0) shelf)

/-! ### Waiting allocations (R240) -/

/-- The `MOVE_PULL` that a shelf's pull serves. -/
def pullReq (s : State) (sh : Shelf) : Option (Nat × Req) := sh.pull.bind (fun p => (tget? s.reqs p.req).map (fun r => (p.req, r)))

/-- The place or the charge for a pulled drawer cannot be had: what was read of it is given up, and the `MOVE_PULL` and an append that
needs the drawer end with `FULL` (R240, R409). -/
def remoteFull (s : State) (i : Nat) (sh : Shelf) (series idx detail : Nat) : State :=
  let s1 := match getDrawer sh series idx with
    | some d => putDrawer s i { d with data := [] }
    | none => s
  let s2 := match pullReq s1 sh with
    | some (id, r) => failReq s1 id r { status := stFull, detail := detail }
    | none => s1
  match sh.appends.findIdx? (fun a => !a.written && decide (a.failed = none) && ((touched sh a.pos a.n).drop a.done).contains (series, idx)) with
  | some n => setAppend s2 i n (fun a => { a with failed := some stFull, failDet := detail })
  | none => s2

/-- The `MOVE_PULL` of a shelf completes once no drawer of it is remote any more, and the pull is over (R409). -/
def pullOver (s : State) (i : Nat) : State :=
  match s.shelf? i with
  | none => s
  | some sh =>
    if sh.pull.isNone ∨ sh.drawers.any (fun d => decide (d.loc = .remote)) = true then s
    else
      let s1 := s.setShelf i { sh with pull := none }
      match pullReq s sh with
      | some (id, r) => complete s1 id r stOk 0 0 0 0 0
      | none => s1

/-- What has been read of a remote drawer takes its charge and a place (R407, R229). -/
def placeRemote (s : State) (i series idx : Nat) : State :=
  match s.shelf? i with
  | none => s
  | some sh =>
    match getDrawer sh series idx with
    | none => s
    | some d =>
      if d.loc = .remote ∧ !d.data.isEmpty then
        match takeCharge s sh.key.part (if isRing sh.prof then 0 else drawerCharge sh.prof series) (some i) with
        | (false, s1) => remoteFull s1 i sh series idx 0x01
        | (true, s1) =>
          match placeOrWait s1 sh i series idx with
          | (some q, s2) => pullOver (putDrawer s2 i { d with loc := .hbm q, stamp := stampNow s }) i
          | (none, s2) => s2
      else s

/-- An allocation still needs a place. -/
def waitLive (sh : Shelf) (w : AllocWait) : Bool :=
  let app := sh.appends.any (fun a => !a.written && decide (a.failed = none) && ((touched sh a.pos a.n).drop a.done).contains (w.series, w.idx))
  match getDrawer sh w.series w.idx with
  | none => app
  | some d => match d.loc with
    | .cab _ => app
    | .remote => !d.data.isEmpty
    | _ => pinnedT0 sh w.series w.idx && !inTier d true && decide (d.moving = none)

/-- An allocation whose place cannot be freed ends its operation with `FULL`. -/
def allocFail (s : State) (sh : Shelf) (w : AllocWait) (detail : Nat) : State :=
  match (getDrawer sh w.series w.idx).map Drawer.loc with
  | some .remote => remoteFull s w.shelf sh w.series w.idx detail
  | some (.hbm _) | some (.clean _ _) =>
    ((pendingPins s w.shelf).filter (fun e => inPin sh e.2 w.series w.idx)).foldl (fun s e => pinFail s w.shelf e detail) s
  | _ =>
    match sh.appends.findIdx? (fun a => !a.written) with
    | some n => setAppend s w.shelf n (fun a => { a with failed := some stFull, failDet := detail })
    | none => s

/-- What the place that an allocation waited for is used for. -/
def allocGo (s : State) (sh : Shelf) (w : AllocWait) : State :=
  pinCheck (pinWork (placeRemote (retryAppends s w.shelf) w.shelf w.series w.idx) w.shelf (shelfDie sh) 0) w.shelf

/-- `ALLOCATION_PLACE_FREED` (R240): the earliest allocation of a partition that still waits takes a place that is free or that the
engine frees, or its operation ends with `FULL`. -/
def execAllocationPlaceFreed (part : Fin 32) (s : State) : Res :=
  match s.tiers.waits.find? (fun w => decide (w.part = part.val)) with
  | none => .next s
  | some w =>
    let s0 := { s with tiers := { s.tiers with waits := s.tiers.waits.erase w } }
    match s0.shelf? w.shelf with
    | none => .next s0
    | some sh =>
      if !waitLive sh w then .next s0
      else
        let pin := match getDrawer sh w.series w.idx with | some d => (locPlace d.loc).isSome | none => false
        let room := fun (s : State) => match s.shelf? w.shelf with
          | some x => if pin then (frontPlace s x w.series w.idx).isSome else (findPlace s x w.series w.idx).isSome
          | none => false
        if room s0 then .next (allocGo s0 sh w)
        else
          match freeTierPlace s0 part.val w.t0 w.shelf room with
          | (none, s1) => .next (allocGo s1 sh w)
          | (some e, s1) =>
            match s1.shelf? w.shelf with
            | some x => .next (allocFail s1 x w e)
            | none => .next s1

/-! ### Cold reads (R241, R242) -/

/-- A drawer that has arrived in a staging way is scored, if it is a K drawer (R144). -/
def arrivedScore (s : State) (req run i : Nat) (sh : Shelf) (r : Req) (x : Run) (k : Nat × Nat) : State :=
  match getDrawer sh k.1 k.2 with
  | none => s
  | some d =>
    let n := x.drawers.findIdx (fun j => decide (j = k.2))
    let sc := if k.1 % 2 = 0 then tputs x.scores (scoreDrawer sh r x n d) else x.scores
    let x1 := { x with coldLeft := x.coldLeft.erase k, coldRead := x.coldRead ++ [k], scores := sc }
    let s1 := touch (s.setReq req (setRun r run x1)) i k.1 k.2
    if k.1 % 2 = 0 then reformSummary s1 i k.1 k.2 r.lo r.snap else s1

/-- A drawer that arrives from the cabinet counts as a cold read (R135, R241). -/
def coldArrived (s : State) (req run i : Nat) (sh : Shelf) (r : Req) (x : Run) (k : Nat × Nat) : State :=
  let s1 := arrivedScore s req run i sh { r with cold := true, coldN := r.coldN + 1 } x k
  meterAdd (bump s1 (pgPart r.part + 0x22C) 0 32 1) r.part (fun m => { m with cold := sat 64 (m.cold + 1) })

/-- A lift whose block is being read or decoded into its place. -/
def liftInto (s : State) (i series idx : Nat) : Option (Lift × Place) :=
  s.tiers.lifts.findSome? (fun l => if l.shelf = i ∧ l.series = series ∧ l.idx = idx then
    (match l.phase with | .reading q => some (l, q) | _ => none) else none)

/-- After a cold read the drawer takes the place that a lift has for it, or a free place if there is one, and keeps its cabinet
copy; not while another run still reads it (R144, R242, R263). -/
def liftOnRead (s : State) (i series idx : Nat) : State :=
  match s.shelf? i with
  | none => s
  | some sh =>
    match (getDrawer sh series idx).map Drawer.loc with
    | some (.cab u) =>
      if sh.state ≠ .live ∨ beingRead s i series idx = true then s
      else
        match liftInto s i series idx with
        | some (l, q) =>
          let s1 := dropLift s l
          bump (touch (relocate s1 i series idx (.clean q u)) i series idx) (pgPart sh.key.part + 0x228) 0 16 1
        | none =>
          match findPlace s sh series idx with
          | some q => touch (relocate s i series idx (.clean q u)) i series idx
          | none => s
    | _ => s

/-- `COLD_READ_DONE` (R241): a drawer that a run awaits arrives from the cabinet. `got` counts the uncorrectable errors of the staging SRAM: after
one the drawer is read again, a second ends the request (R284). A drawer that a lift has placed meanwhile is read in its place; one whose unit the map has
lost is damaged (R273). -/
def execColdReadDone (req run series : Nat) (got : ColdAt) (s : State) : Res :=
  let idx := got.idx
  if got.upsets > 2 then .fault (.operand "a drawer is read at most twice")
  else if noService s then .next s else
  match tget? s.reqs req with
  | none => .next s
  | some r =>
    match r.runs[run]?, r.shelf.bind (fun i => (s.shelf? i).map (fun sh => (i, sh))) with
    | some x, some (i, sh) =>
      if !inFlight x || !(coldFlight sh x).contains (series, idx) then .next s
      else
        match getDrawer sh series idx with
        | none => .next s
        | some d =>
        match d.loc with
        | .cab u =>
          if (tget? s.cab.units u).isNone then .next (runIntegrity s req r i x.tile (.inr u))
          else
            let s1 := countRead s u
            if got.upsets = 2 then .next (endAttend (countRead s1 u) req r { status := stIntegrity })
            else
              let s2 := if got.upsets = 1 then countRead s1 u else s1
              .next (pinCheck (liftOnRead (coldArrived s2 req run i sh r x (series, idx)) i series idx) i)
        | .clean _ _ | .hbm _ =>
          match readDrawer s d with
          | (some w, s1) => .next (runIntegrity s1 req r i x.tile (.inl w))
          | (none, s1) => .next (coldArrived s1 req run i sh r x (series, idx))
        | _ => .next s
    | _, _ => .next s

/-! ### Lifts (R247) -/

/-- The first lift of a die in a phase; a demand read whose drawer has gone only waits to be answered. -/
def firstLift (s : State) (die : Nat) (f : LiftPhase → Bool) : Option Lift :=
  s.tiers.lifts.find? (fun l => decide (l.die = die) && f l.phase && (!l.demand || liftNeeded s l))

/-- The partition of a lift. -/
def liftPart (s : State) (l : Lift) : Nat := match s.shelf? l.shelf with | some sh => sh.key.part | none => 0

/-- The queued lift of a die whose turn it is (R248): demand reads, which are of class 1, come first; within a class the partitions take turns, each with
its earliest job. -/
def nextLift (s : State) (die : Nat) : Option Lift :=
  let q := s.tiers.lifts.filter (fun l => decide (l.die = die) && decide (l.phase = .queued) && (!l.demand || liftNeeded s l))
  let c := if q.any (·.demand) then q.filter (·.demand) else q
  ((List.range 32).map (fun i => (s.tiers.turn + 1 + i) % 32)).findSome? (fun p => c.find? (fun l => decide (liftPart s l = p)))

/-- A demand read that finds no room waits behind the other jobs. -/
def liftBack (s : State) (l : Lift) : State := { s with tiers := { s.tiers with lifts := s.tiers.lifts.erase l ++ [l] } }

/-- A lift with a new phase. -/
def setLift (s : State) (l : Lift) (p : LiftPhase) : State :=
  { s with tiers := { s.tiers with lifts := s.tiers.lifts.map (fun x => if x = l then { x with phase := p } else x) } }

/-- A lift is `SKIPPED`; the `PIN` that it serves ends with `FULL` for a reason of R232. -/
def liftSkipped (s : State) (l : Lift) (detail : Nat := 0x05) : State :=
  let s1 := match l.demand, s.shelf? l.shelf with
    | false, some sh => bump (dropLift s l) (pgPart sh.key.part + 0x228) 16 16 1
    | _, _ => dropLift s l
  match tget? s1.reqs l.req with
  | some r => pinFail s1 l.shelf (l.req, r) detail
  | none => s1

/-- `LIFT_TAKEN` (R247, R248): the queued job of a die whose turn it is is taken, once the cabinet has no work of a class before it; a drawer that is in
HBM already needs none. -/
def execLiftTaken (die : Fin 4) (s : State) : Res :=
  match nextLift s die.val with
  | none => .next s
  | some l =>
    match ((s.shelf? l.shelf).bind (fun sh => getDrawer sh l.series l.idx)).map Drawer.loc with
    | some (.cab _) =>
      if l.demand || cabFree s 4 then .next (setLift { s with tiers := { s.tiers with turn := liftPart s l } } l .room) else .next s
    | some (.hbm _) | some (.clean _ _) => .next (pinCheck (dropLift s l) l.shelf)
    | _ => .next (liftSkipped s l)

/-- `LIFT_ROOM` (R247): a place is free, or drawers of at least the guard's age make room; else the job is skipped, and a `PIN` learns what is exhausted
(R232, R256). A demand read has no guard, and waits where nothing makes room (R356; DESIGN CHOICE, log entry 53). -/
def execLiftRoom (die : Fin 4) (s : State) : Res :=
  match firstLift s die.val (fun p => decide (p = .room)) with
  | none => .next s
  | some l =>
    match s.shelf? l.shelf with
    | none => .next (liftSkipped s l)
    | some sh =>
      let p := sh.key.part
      match findPlace s sh l.series l.idx with
      | some q => .next (setLift s l (.reading q))
      | none =>
        let noRoom := fun (s : State) (e : Nat) => if l.demand then liftBack s l else liftSkipped s l e
        match freeTierPlace s p (asksT0 s p l.series) l.shelf (roomFor l.shelf l.series l.idx) (if l.demand then 0 else 16 * rdf s (pgPart p + 0x210) 15 8) with
        | (some e, s1) => .next (noRoom s1 e)
        | (none, s1) =>
          match (s1.shelf? l.shelf).bind (fun x => findPlace s1 x l.series l.idx) with
          | some q => .next (setLift s1 l (.reading q))
          | none => .next (noRoom s1 0x05)

/-! ### Registers (R230, R231) -/

/-- `PART_TIER_WRITE` (R231): a raise of the scratch reserve that the quota cannot hold makes the whole write ignored. -/
def execPartTierWrite (part : Fin 32) (value : Word) (s : State) : Res := hostWr s (pgPart part.val) <|
  if (s.part part.val).busy then .next s else
  let p := part.val
  let a := pgPart p + 0x210
  let v := value.toNat
  let new := bits v 4 11
  let others := fun (s : State) => wrf (wrf s a 0 1 (bits v 0 1)) a 15 8 (bits v 15 8)
  let pt := s.part p
  if new < 8 ∨ new > 1024 then .next (others s)
  else if new > pt.scratch then
    let s1 := s.setPart p { pt with scratch := new, scratchOld := max new pt.scratchOld }
    if partCharge s1 p ≤ quotaBytes s p then .next (wrf (others (wrf s1 a 4 11 new)) a 1 1 0)
    else .next (wrf s a 1 1 1)
  else
    .next (others (wrf (s.setPart p { pt with scratch := new, scratchOld := max pt.scratch pt.scratchOld }) a 4 11 new))

/-- `PART_CABSHARE_WRITE` (R230). -/
def execPartCabshareWrite (part : Fin 32) (value : Word) (s : State) : Res := hostWr s (pgPart part.val) <|
  if (s.part part.val).busy then .next s else
  let a := fun p => pgPart p + 0x208
  let new := bits value.toNat 0 13
  let others := (((List.range 32).filter (· ≠ part.val)).map (fun p => rdf s (a p) 0 13)).sum
  if others + new > 6519 ∨ (new ≠ 0 ∧ s.chip.cabCap = false) then .next (wrf s (a part.val) 31 1 1)
  else .next (wrf (wrf s (a part.val) 0 13 new) (a part.val) 31 1 0)

end Sys2Proof.Machine
end

