-- ==== Sys2Proof/Machine/Receive.lean ====
section
/-! DEFINITION. What a port does with a packet: policing, holding, refusal, sequence numbers, placement, frames, triggers, reads
(R334, R337-R342, R345-R352, R355-R358, R362, R367). -/
namespace Sys2Proof.Machine

/-! ### AETH syndromes (PRESUMED: the InfiniBand standard's codes, log entry 60) -/

def synAck : Nat := 0x1F
def synSeq : Nat := 0x60
def synInvalid : Nat := 0x61
def synAccess : Nat := 0x62
def synRnr (s : State) (port : Nat) : Nat := 0x20 + rdf s (pgNet port + 0x100) 1 5

/-! ### Refusal (R341, R342) -/

/-- A message is refused with an RNR NAK for its first packet, and the expected PSN is set back to that packet. -/
def rnrNak (s : State) (q : Nat) (x : Qp) (psn : Nat) : State :=
  let x1 := { x with rqPsn := psn, placing := none, refused := some psn, gapNak := false }
  bump (sendCtl (s.setQp q x1) q x1 0x11 psn (synRnr s x.port)) (pgNet x.port + 0x110) 0 16 1

/-- The refusal-list entry of a queue pair is answered once its state is present and nothing of it is held. An entry whose PSN is
not the expected one names no message to refuse (DEDUCED, log entry 61). -/
def answerRefusal (s : State) (port q : Nat) : State :=
  let p := s.port port
  match p.refusals.find? (fun r => decide (r.1 = q)), tget? s.qps q with
  | some r, some x =>
    if p.held.any (fun h => decide (h.pkt.qpn = q)) ∨ !p.cache.contains q then s
    else
      let s1 := s.setPort port { p with refusals := p.refusals.filter (fun r => r.1 ≠ q) }
      if x.err ∨ r.2 ≠ x.rqPsn then s1
      else rnrNak s1 q x (match x.placing with | some pl => pl.firstPsn | none => r.2)
  | _, _ => s

/-- A packet that belongs to a request of the peer. -/
def isRequest (k : Packet) : Bool :=
  decide (k.opcode ≤ 0x0C) || [0x13, 0x14, 0x16, 0x17].contains k.opcode

/-- The message of a packet is refused, and the packet discarded. A response or acknowledgement is discarded alone. -/
def refusePkt (s : State) (port : Nat) (k : Packet) : State :=
  if !isRequest k then s
  else
    let s0 := raise s (pgNet port) 4 []
    let p := s0.port port
    if p.refusals.length ≥ 1024 then s0
    else answerRefusal (s0.setPort port { p with refusals := p.refusals ++ [(k.qpn, k.psn)] }) port k.qpn

/-- Buffer space of a packet in units of 64 bytes. -/
def holdUnits (k : Packet) : Nat := ceilDiv k.frameLen 64

/-- The buffer and the queue pair's share of it can take a packet (R340). -/
def holdFits (s : State) (port : Nat) (k : Packet) : Bool :=
  let p := s.port port
  let sum := fun (l : List Held) => (l.map (fun h => holdUnits h.pkt)).sum
  decide (sum p.held + holdUnits k ≤ 4096) && decide (sum (p.held.filter (fun h => decide (h.pkt.qpn = k.qpn))) + holdUnits k ≤ 1024)

/-- A packet is held behind those of its queue pair, or refused. -/
def holdPkt (s : State) (port : Nat) (h : Held) : State :=
  if holdFits s port h.pkt then s.setPort port { s.port port with held := (s.port port).held ++ [h] } else refusePkt s port h.pkt

/-! ### Acknowledging and refusing requests (R342, R345, R347) -/

/-- A message has been placed whole: its last PSN is acknowledged. -/
def ackMsg (s : State) (q : Nat) (psn : Nat) : State :=
  match tget? s.qps q with
  | none => s
  | some x =>
    let x1 := { x with msn := (x.msn + 1) % 2 ^ 24, placing := none }
    sendCtl (s.setQp q x1) q x1 0x11 psn synAck

/-- A request is answered with a NAK, and the queue pair enters the error state (R337). -/
def denyMsg (s : State) (q : Nat) (x : Qp) (psn syn cause : Nat) : State := qpError (sendCtl s q x 0x11 psn syn) q cause

/-- A key check failed (R345). -/
def denyKey (s : State) (q : Nat) (x : Qp) (psn : Nat) : State :=
  denyMsg (bump s (pgNet x.port + 0x11C) 0 16 1) q x psn synAccess 2

/-! ### SEND frames (R350, R351) -/

/-- A frame with a good header of a kind and count, and the message length that goes with them. -/
def frameIs (b : List Byte) (kind : Nat) : Bool :=
  decide (le b 0 2 = 0xCF0B) && decide (le b 2 1 = 1) && decide (le b 3 1 = kind) && decide (le b 6 10 = 0) &&
  (if kind = 1 then decide (1 ≤ le b 4 2) && decide (le b 4 2 ≤ 63) && decide (b.length = 16 + 64 * le b 4 2)
   else decide (le b 4 2 = 1) && decide (b.length = 48))

/-- The ring that a queue pair feeds, where it takes frames. -/
def fedRing (s : State) (x : Qp) : Option (Nat × Ring) :=
  (qpFeed x).bind (fun r => (tget? s.rings r).bind (fun g => if g.stopped ∨ g.destroying then none else some (r, g)))

/-- A frame that is discarded is counted and acknowledged; one that breaks R350 gives a record where a slot is free. -/
def badFrame (s : State) (q : Nat) (x : Qp) (psn : Nat) (ring : Option (Nat × Ring)) : State :=
  let s1 := bump s (pgNet x.port + 0x118) 16 16 1
  let s2 := match ring with
    | none => s1
    | some (r, g) =>
      if slotFree g then
        issueWrite (s1.setRing r { g with inflight := g.inflight + 1 }) (.record r { tag := 0, opcode := 0, status := stBadDescriptor, detail := 0xFE } true)
      else s1
  ackMsg s2 q psn

/-- A whole SEND has arrived, with its immediate if it carries one. -/
def deliverFrame (s : State) (q : Nat) (x : Qp) (b : List Byte) (imm : Option Nat) (firstPsn psn : Nat) : State :=
  match fedRing s x with
  | none => badFrame s q x psn none
  | some (r, g) =>
    if frameIs b 2 then badFrame s q x psn none
    else if !frameIs b 1 then badFrame s q x psn (some (r, g))
    else
      let n := le b 4 2
      let waiting := (s.cxl.wq.filterMap (fun w => match w with | .advance k _ v => if k = r then some v else none | _ => none)).getLast?
      let pi := waiting.getD g.pi
      if rqSlots g < (pi - g.ci).toNat + n then rnrNak (raise s (pgNet x.port) 4 []) q x firstPsn
      else
        let s1 := (List.range n).foldl (fun s i =>
          refWrite s g.part (g.rbase + 64 * ((pi.toNat + i) % rqSlots g)) (bslice b (16 + 64 * i) 64)) s
        let s2 := ackMsg (issueWrite s1 (.advance r x.port (pi + BitVec.ofNat 32 n))) q psn
        match imm with
        | some v => issueWrite s2 (.trigger x.port x.part v)
        | none => s2

/-! ### Requests in sequence (R342, R345, R347, R352) -/

/-- Where the packet stands in its message: first, last. -/
def opFirst (o : Nat) : Bool := [0x00, 0x04, 0x05, 0x06, 0x0A, 0x0B].contains o
def opLast (o : Nat) : Bool := [0x02, 0x03, 0x04, 0x05, 0x08, 0x09, 0x0A, 0x0B].contains o
def opImm (o : Nat) : Bool := [0x03, 0x05, 0x09, 0x0B].contains o

/-- The device's own reads of memory as a later read of the same peer finds it: behind the writes already issued. -/
def behindWrites (s : State) : State :=
  s.cxl.wq.foldl (fun s w => match w with
    | .data a b => { s with devMem := mwrite s.devMem a b }
    | .host a b => { s with hostMem := mwrite s.hostMem a b }
    | _ => s) s

/-- The bytes of a memory region; none where they cannot be read. -/
def regionBytes (s : State) (g : Region) (va len : Nat) : Option (List Byte) × State :=
  let (b, s1) := refRead (behindWrites s) g.part (g.base + va) len
  (b, { s1 with devMem := s.devMem, hostMem := s.hostMem })

/-- The answer to a READ leaves as a message of the queue pair's class (R359). -/
def postResp (s : State) (q : Nat) (x : Qp) (psn : Nat) (b : List Byte) : State :=
  postMsg s q { kind := .readResp, tclass := qpClass x, bytes := b, psn := some psn }

/-- A READ against a region: answered, not answered for poisoned memory (log entry 51), or faulted (R355, R356). A damaged drawer
that it meets marks the shelf lost (R271). -/
def readRegion (s : State) (q : Nat) (x : Qp) (k : Packet) (i : Nat) (g : Region) : State × Option (Nat × Region) :=
  if !regShelf g then
    match regionBytes s g k.va k.dlen with
    | (some b, s1) => (postResp s1 q x k.psn b, none)
    | (none, s1) => (s1, none)
  else
    let ks := touchedDrawers k.va k.dlen
    match regionShelfOf s g with
    | none => (postResp s q x k.psn (shelfBytes none (k.dlen / 65536 + 2) k.va k.dlen), none)
    | some (n, sh) =>
      match firstCold sh ks with
      | some c =>
        let l : Lift := { die := shelfDie sh, shelf := n, series := c.1, idx := c.2, demand := true }
        let s1 := if s.tiers.lifts.any (fun y => y.demand && decide (y.shelf = n) && decide (y.series = c.1) && decide (y.idx = c.2)) then s
          else { s with tiers := { s.tiers with lifts := l :: s.tiers.lifts } }
        (s1, some (i, g))
      | none =>
        match firstBadDrawer s sh ks with
        | (some w, s1) => (postResp (damage s1 n (.inl w)) q x k.psn (shelfBytes none (k.dlen / 65536 + 2) k.va k.dlen), none)
        | (none, s1) => (postResp s1 q x k.psn (shelfBytes (some sh) (k.dlen / 65536 + 2) k.va k.dlen), none)

/-- A READ request: its key check, unless that was passed before it was held, and the read. -/
def doRead (s : State) (q : Nat) (x : Qp) (k : Packet) (held : Option (Nat × Region)) : State × Option (Nat × Region) :=
  if k.dlen = 0 then (postResp s q x k.psn [], none)
  else
    match held.or (keyCheck s x k.rkey k.va k.dlen false) with
    | none => (denyKey s q x k.psn, none)
    | some (i, g) => readRegion s q x k i g

/-- The message that a request packet at the expected PSN belongs to: the one under way, or a new one after its key check; none
where the packet is refused. -/
def startPlacing (s : State) (q : Nat) (x : Qp) (k : Packet) (write : Bool) : Option Placing × State :=
  match opFirst k.opcode, x.placing with
  | true, none =>
    if write && decide (k.dlen ≠ 0) then
      match keyCheck s x k.rkey k.va k.dlen true with
      | some (i, g) => (some { firstPsn := k.psn, isWrite := true, region := some (i, g.gen), ref := g.base + k.va, left := k.dlen }, s)
      | none => (none, denyKey s q x k.psn)
    else (some { firstPsn := k.psn, isWrite := write }, s)
  | false, some pl => if pl.isWrite = write then (some pl, s) else (none, denyMsg s q x k.psn synInvalid 3)
  | _, _ => (none, denyMsg s q x k.psn synInvalid 3)

/-- A request packet at the expected PSN that is not a READ. -/
def placePkt (s0 : State) (q : Nat) (x : Qp) (k : Packet) : State :=
  let write := decide (0x06 ≤ k.opcode) && decide (k.opcode ≤ 0x0B)
  let next := (k.psn + 1) % 2 ^ 24
  let imm := if opImm k.opcode then some k.imm else none
  match startPlacing s0 q x k write with
  | (none, s1) => s1
  | (some pl, s) =>
    if write then
      let b := k.payload.take pl.left
      let s1 := refWrite s x.part pl.ref b
      let x1 := { x with rqPsn := next, placing := some { pl with ref := pl.ref + b.length, left := pl.left - b.length } }
      let s2 := (match pl.region with | some (i, g) => issueWrite s1 (.placed i g) | none => s1).setQp q x1
      if opLast k.opcode then
        let s3 := ackMsg s2 q k.psn
        match imm with
        | some v => issueWrite s3 (.trigger x.port x.part v)
        | none => s3
      else s2
    else
      let pl1 := { pl with bytes := pl.bytes ++ k.payload }
      let x1 := { x with rqPsn := next, placing := some pl1 }
      if opLast k.opcode then deliverFrame (s.setQp q x1) q x1 pl1.bytes imm pl.firstPsn k.psn else s.setQp q x1

/-- A duplicate (R347, R348): a READ is executed again; any other is acknowledged as far as whole messages reach. -/
def duplicate (s : State) (q : Nat) (x : Qp) (k : Packet) (held : Option (Nat × Region)) : State × Option (Nat × Region) :=
  if k.opcode = 0x0C then doRead s q x k held
  else
    let s1 := bump s (pgNet x.port + 0x114) 0 16 1
    match x.placing with
    | none => (sendCtl s1 q x 0x11 (x.rqPsn + 2 ^ 24 - 1) synAck, none)
    | some pl =>
      if psnDiff k.psn pl.firstPsn < psnDiff x.rqPsn pl.firstPsn then (s1, none)
      else (sendCtl s1 q x 0x11 (pl.firstPsn + 2 ^ 24 - 1) synAck, none)

/-- A request packet in its zone (R347); the second value is a read that faulted. -/
def recvRequest (s0 : State) (q : Nat) (x0 : Qp) (k : Packet) (held : Option (Nat × Region)) : State × Option (Nat × Region) :=
  let (x1, s) := if k.ce && held.isNone then sendCnp s0 q x0 else (x0, s0)
  let d := psnDiff k.psn x1.rqPsn
  if x1.refused.isSome ∧ d ≠ 0 then (s, none)
  else if d ≥ 2 ^ 23 then duplicate s q x1 k held
  else if d ≥ 2 ^ 22 then (bump s (pgNet x1.port + 0x114) 16 16 1, none)
  else if d > 0 then
    if x1.gapNak then (s, none) else (sendCtl (s.setQp q { x1 with gapNak := true }) q x1 0x11 x1.rqPsn synSeq, none)
  else
    let x := { x1 with refused := none, gapNak := false }
    let s1 := s.setQp q x
    if k.opcode = 0x0C then
      if x.placing.isSome then (denyMsg s1 q x k.psn synInvalid 3, none)
      else
        match doRead s1 q x k held with
        | (s2, some g) => (s2, some g)
        | (s2, none) =>
          match tget? s2.qps q with
          | some y =>
            let y1 := { y with rqPsn := (k.psn + max 1 (ceilDiv k.dlen (qpMtu y))) % 2 ^ 24 }
            (if y.err then s2 else s2.setQp q { y1 with msn := (y.msn + 1) % 2 ^ 24 }, none)
          | none => (s2, none)
    else if [0x13, 0x14, 0x16, 0x17].contains k.opcode then (denyMsg s1 q x k.psn synInvalid 3, none)
    else (placePkt s1 q x k, none)

/-! ### Acknowledgements and responses (R337, R354) -/

/-- An Acknowledge packet: an acknowledgement, an RNR NAK or a NAK. -/
def recvAck (s : State) (q : Nat) (x : Qp) (k : Packet) : State :=
  let c := k.syndrome / 32
  let before := (k.psn + 2 ^ 24 - 1) % 2 ^ 24
  if c = 0 then s.setQp q (ackUpTo x k.psn)
  else if c = 1 then
    let s1 := bump s (pgNet x.port + 0x110) 16 16 1
    let x1 := ackUpTo x before
    if qpRnrRetry x1 = 7 then s1.setQp q (resendFrom { x1 with rnrWait := true } k.psn)
    else if x1.rnrLeft = 0 then qpError s1 q 1
    else s1.setQp q (resendFrom { x1 with rnrWait := true, rnrLeft := x1.rnrLeft - 1 } k.psn)
  else if k.syndrome = synSeq then retryFrom s q (ackUpTo x before) k.psn
  else if k.syndrome = synInvalid then qpError s q 3
  else if k.syndrome = synAccess then qpError s q 2
  else s

/-- A READ response packet: the last one ends the oldest READ. What it carries arrives by the commands of R406 and R407. -/
def recvResp (s : State) (q : Nat) (x : Qp) (k : Packet) : State :=
  match x.out.findIdx? (fun m => decide (m.kind = .read) && decide (m.next > 0)) with
  | none => s
  | some i =>
    if k.opcode = 0x0F ∨ k.opcode = 0x10 then s.setQp q { x with out := x.out.eraseIdx i, retries := 0, rnrLeft := qpRnrRetry x }
    else s

/-- A packet of a queue pair whose state is present. -/
def processPkt (s0 : State) (port : Nat) (k : Packet) (held : Option (Nat × Region)) : State × Option (Nat × Region) :=
  let s := useQp s0 port k.qpn
  match tget? s.qps k.qpn with
  | none => (s, none)
  | some x =>
    if x.err then (s, none)
    else if k.opcode = 0x81 then (recvCnp s k.qpn x, none)
    else if k.opcode = 0x11 then (recvAck s k.qpn x k, none)
    else if 0x0D ≤ k.opcode ∧ k.opcode ≤ 0x10 then (recvResp s k.qpn x k, none)
    else recvRequest s k.qpn x k held

/-- A read that faulted is counted once and held. -/
def faultHold (s : State) (port : Nat) (k : Packet) (g : Nat × Region) (again : Bool) : Held × State :=
  ({ pkt := k, why := .fault, region := some g }, if again then s else bump s (pgNet port + 0x11C) 16 16 1)

/-- The held packets of a queue pair are processed in order, as far as they can be; then its refusal is answered. -/
def processHeld (s : State) (port q : Nat) : Nat → State
  | 0 => s
  | fuel + 1 =>
    let p := s.port port
    match p.held.findIdx? (fun h => decide (h.pkt.qpn = q)) with
    | none => answerRefusal s port q
    | some i =>
      let h := p.held.getD i {}
      match processPkt (s.setPort port { p with held := p.held.eraseIdx i }) port h.pkt h.region with
      | (s1, none) => processHeld s1 port q fuel
      | (s1, some g) =>
        let (h1, s2) := faultHold s1 port h.pkt g (decide (h.why = .fault))
        let p2 := s2.port port
        s2.setPort port { p2 with held := p2.held.take i ++ h1 :: p2.held.drop i }

/-! ### The pipeline -/

/-- Charge of a packet at its policer (R362). -/
def polCharge (k : Packet) : Nat := if k.opcode = 0x0C then k.dlen else k.frameLen

/-- The policer of a queue pair lets a packet pass, or drops it. -/
def police (s : State) (port : Nat) (x : Qp) (k : Packet) : Bool × State :=
  let a := le x.attr 0x10 2
  let i := a % 256
  if !bit a 8 || decide (tget 0 (s.port port).polRate i = 0) || decide (k.opcode = 0x11) || decide (k.opcode = 0x81) then (true, s)
  else
    let p := s.port port
    let t := tget 0 p.pol i
    if t ≤ 0 then (false, s.setPort port { p with polDrops := tset 0 p.polDrops i (sat 32 (tget 0 p.polDrops i + 1)) })
    else (true, s.setPort port { p with pol := tset 0 p.pol i (t - (1000 * polCharge k : Nat)) })

/-- A packet for a known queue pair (R340, R341). -/
def receiveQp (s0 : State) (port : Nat) (x : Qp) (k : Packet) : State :=
  let s := meterPort s0 x.part port k.frameLen false
  match police s port x k with
  | (false, s1) => s1
  | (true, s1) =>
    let p := s1.port port
    if x.err || p.refusals.any (fun r => decide (r.1 = k.qpn)) then s1
    else if !p.cache.contains k.qpn then holdPkt (askFetch s1 port k.qpn) port { pkt := k }
    else if p.held.any (fun h => decide (h.pkt.qpn = k.qpn)) then holdPkt s1 port { pkt := k }
    else
      match processPkt s1 port k none with
      | (s2, none) => s2
      | (s2, some g) =>
        let (h, s3) := faultHold s2 port k g false
        holdPkt s3 port h

/-- Packets of unreliable connection, unreliable datagram and XRC, by the transport bits of the opcode (R334). -/
def otherTransport (o : Nat) : Bool := [1, 3, 5].contains (o / 32)

/-- Opcodes of R334 and the refused ones; any other packet is discarded. -/
def supported (o : Nat) : Bool := decide (o ≤ 0x11) || [0x13, 0x14, 0x16, 0x17, 0x81].contains o

/-- A session takes a sealed frame (R366): its check value is right, its association is one of the two most recent, and its packet number is above the last
one accepted there, the replay window being 0. -/
def unsealed (h : Seal) (k : Packet) : Option Seal :=
  if !k.icvOk then none
  else if k.an = h.keyIdx % 4 then (if k.pn > h.rxPn then some { h with rxPn := k.pn } else none)
  else if h.keyIdx ≥ 1 ∧ k.an = (h.keyIdx - 1) % 4 then (if k.pn > h.rxOld then some { h with rxOld := k.pn } else none)
  else none

/-- A frame past the sealing layer. A packet of another transport is counted as one without a queue pair (DEDUCED, log entry 136). -/
def receiveFrame (s : State) (port : Nat) (k : Packet) : State :=
  match k.kind with
  | .vlan | .unsupported => s
  | .pause => bump s (pgNet port + 0x128) 0 16 1
  | .roce =>
    if !k.icrcOk then bump s (pgNet port + 0x124) 16 16 1
    else if supported k.opcode then
      match tget? s.qps k.qpn with
      | none => bump s (pgNet port + 0x124) 0 16 1
      | some x => if x.port ≠ port then bump s (pgNet port + 0x124) 0 16 1 else receiveQp s port x k
    else if otherTransport k.opcode then bump s (pgNet port + 0x124) 0 16 1
    else s

/-- `PACKET_RECEIVE` (R333, R334, R340-R358, R362, R366, R367). A port that is down receives nothing, and no port takes a frame of more than 4,352 bytes. The
first sealed frame tells the initiator of a handshake that sealing is active (R439). A sealed frame that does not pass is dropped and not counted in
`SEAL_DROP`, which counts the other frames (DEDUCED, log entry 155). -/
def execPacketReceive (port : Fin 4) (pkt : Packet) (s : State) : Res :=
  if !hostReach s then .next s else
  let n := port.val
  let p := s.port n
  if !p.up ∨ pkt.frameLen > 4352 then .next s
  else if p.sealReq then
    let first := p.hs.init && decide (p.hs.phase = .confirmSent)
    if !pkt.sealed || !(p.sealed || first) then .next (bump s (pgNet n + 0x128) 16 16 1)
    else match unsealed p.hs pkt with
      | none => .next s
      | some h => .next (receiveFrame (s.setPort n { p with sealed := true, hs := if p.sealed then h else { h with phase := .done } }) n pkt)
  else if pkt.sealed then .next s
  else .next (receiveFrame s n pkt)

/-- A place in the cache of a port: one that is free, or that of the least recently used queue pair that may be evicted, once its
state has been written back (R339). -/
def cachePlace (s : State) (port : Nat) : Option State :=
  let p := s.port port
  if p.cache.length < 8192 then some s
  else
    match p.cache.find? (evictable s port) with
    | none => none
    | some v => some (writeBack (s.setPort port { p with cache := p.cache.erase v }) v)

/-- The spilled state of a queue pair can be read (R337, R338, R376): from lines that the device cache owns, or from lines of HBM, of which none may be
poisoned or uncorrectable. -/
def readSpill (s : State) (q : Nat) : Bool × State :=
  if spillHost s then
    (spillLines s q).foldl (fun (acc : Bool × State) l => let (ok, s1) := ownLine acc.2 l; (acc.1 && ok, s1)) (true, s)
  else
    let (bad, s1) := readUse s (fun u => decide (u = .spill q))
    (!bad && !(s.hbmc (8 + q % 2 ^ 20 * 256 / 2 ^ 25)).fenced, s1)

/-- `QP_FETCH_DONE` (R339-R341): the state of a queue pair arrives, and its held packets are processed. -/
def execQpFetchDone (port : Fin 4) (qpn : Nat) (s : State) : Res :=
  if !hostReach s then .next s else
  let n := port.val
  if !(s.port n).fetch.contains qpn || (spillHost s && ideHold s) then .next s
  else
    match cachePlace s n with
    | none => .next s
    | some s1 =>
      let p := s1.port n
      let s2 := bump (s1.setPort n { p with fetch := p.fetch.erase qpn, cache := p.cache ++ [qpn] }) (pgNet n + 0x10C) 0 32 1
      match readSpill s2 qpn with
      | (true, s3) => .next (processHeld s3 n qpn ((s3.port n).held.length + 1))
      | (false, s3) => .next (processHeld (qpError s3 qpn 4) n qpn ((s3.port n).held.length + 1))

/-! ### Lifts that end (R247, R356) -/

/-- The queue pairs with a read held for a drawer go on, each on its port. -/
def resumeFaults (s : State) : State :=
  (List.range 4).foldl (fun s n =>
    let qs := (((s.port n).held.filter (fun h => decide (h.why = .fault))).map (fun h => h.pkt.qpn)).eraseDups
    qs.foldl (fun s q => processHeld s n q ((s.port n).held.length + 1)) s) s

/-- A demand read has been served, or its drawer is gone: the reads held for it go on. -/
def endDemand (s : State) (l : Lift) : State :=
  resumeFaults { s with tiers := { s.tiers with lifts := s.tiers.lifts.filter (fun x => !(x.demand && decide (x.shelf = l.shelf) &&
    decide (x.series = l.series) && decide (x.idx = l.idx))) } }

/-- `LIFT_PLACED` (R247, R356): the block of a lift has been decoded and checked and lies in its place. It is not placed while a run
reads the drawer from a staging way (R144). A demand read whose drawer is gone or has been placed otherwise ends here too. -/
def execLiftPlaced (die : Fin 4) (shelf series idx : Nat) (s : State) : Res :=
  let mine := fun (l : Lift) => decide (l.die = die.val) && decide (l.shelf = shelf) && decide (l.series = series) && decide (l.idx = idx)
  match s.tiers.lifts.find? (fun l => mine l && (match l.phase with | .reading _ => true | _ => l.demand && !liftNeeded s l)) with
  | none => .next s
  | some l =>
    match l.phase, (s.shelf? shelf).bind (fun sh => (getDrawer sh series idx).map (fun d => (sh, d))) with
    | .reading q, some (sh, d) =>
      match d.loc with
      | .cab u =>
        if beingRead s shelf series idx then .next s
        else if (tget? s.cab.units u).isNone then
          .next (if l.demand then endDemand (damage s shelf (.inr u)) l else damage (liftSkipped s l) shelf (.inr u))
        else
          let s0 := { s with tiers := { s.tiers with lifts := s.tiers.lifts.erase l } }
          let s1 := touch (relocate (countRead s0 u) shelf series idx (.clean q u)) shelf series idx
          .next (if l.demand then pinCheck (endDemand s1 l) shelf
            else pinCheck (bump s1 (pgPart sh.key.part + 0x228) 0 16 1) shelf)
      | _ => .next (if l.demand then endDemand s l else pinCheck { s with tiers := { s.tiers with lifts := s.tiers.lifts.erase l } } shelf)
    | _, _ => .next (if l.demand then endDemand s l else liftSkipped s l)



end Sys2Proof.Machine
end

