-- ==== Sys2Proof/Machine/Links.lean ====
section
/-! DEFINITION. Pulling a conversation and mirroring (R404-R418, R420, R423). -/
namespace Sys2Proof.Machine

/-! ### Excluded nodes (R401, R408, R414) -/

/-- The node of a peer entry is named by an `EXCLUDE` that this partition has applied; kept until a `REJOIN` (DESIGN CHOICE, log entry 65). -/
def peerExcluded (s : State) (p peer : Nat) : Bool := (s.part p).excluded.contains (peerNode s p peer)

/-! ### Pulls: failure (R406, R408, R409) -/

/-- The requests that wait for a pull: number and request. -/
def pullWaiters (s : State) (n : Nat) : List (Nat × Req) := s.reqs.filter (fun e => decide (e.2.waitPull = some n))

/-- A pull ends without a shelf: every request that waits for it ends with `LOST`, a `MOVE_PULL` with a status of its own. -/
def pullFailed (s : State) (n status detail : Nat) : State :=
  match tget? s.pulls n with
  | none => s
  | some j =>
    let s1 := raise { s with pulls := tdel s.pulls n } (pgPart j.key.part) 4 []
    (pullWaiters s1 n).foldl (fun s e =>
      if j.move = some e.1 then failReq s e.1 e.2 { status := status, detail := detail } else failReq s e.1 e.2 { status := stLost }) s1

/-- A pulled shelf fails: its `MOVE_PULL` ends, it is marked lost or, where its profile does not fit, dropped, and the requests on it end
with `LOST` (R408, R409). Its storage is freed as a damaged shelf's is (DESIGN CHOICE, log entry 66). -/
def pulledShelfFailed (s : State) (i : Nat) (misfit : Bool) : State :=
  match s.shelf? i with
  | none => s
  | some sh =>
    let s1 := match pullReq s sh with
      | some (id, r) => failReq s id r (if misfit then { status := stRefusedFit, detail := 0x04 } else { status := stRebuildSourceLost })
      | none => s
    let drop := misfit && (pullReq s sh).isSome
    let s2 := raise s1 (pgPart sh.key.part) 4 []
    let s3 := (s2.reqs.filter (fun e => decide (e.2.shelf = some i) && decide (dOpcode e.2.desc = 0x01))).foldl
      (fun s e => endAttend s e.1 e.2 { status := stLost }) s2
    if drop then dropOne s3 i
    else
      let s4 := markLost s3 i
      match s4.shelf? i with
      | some x => s4.setShelf i { x with damaged := true, pull := none }
      | none => s4

/-- Every pull of a partition from some peers fails. -/
def failPulls (s : State) (p : Nat) (f : Nat → Bool) : State :=
  let jobs := s.pulls.filter (fun e => decide (e.2.key.part = p) && f e.2.peer)
  let shelves := s.dir.shelves.filter (fun e => decide (e.2.key.part = p) && decide (e.2.state = .live) &&
    (match e.2.pull with | some x => f x.peer | none => false))
  shelves.foldl (fun s e => pulledShelfFailed s e.1 false) (jobs.foldl (fun s e => pullFailed s e.1 stRebuildSourceLost 0) s)

/-! ### Mirrors: a new link (R411, R413) -/

/-- The `MIRROR_SET` that a link still seeds for ends. -/
def endSeed (s : State) (l : Nat) (f : Fail) : State :=
  match tget? s.links l with
  | none => s
  | some x =>
    match x.seed.bind (fun id => (tget? s.reqs id).map (fun r => (id, r))) with
    | some (id, r) => failReq { s with links := tput s.links l { x with seed := none } } id r f
    | none => s

/-- The entry of the first valid peer with a node number. -/
def peerOf (s : State) (p node : Nat) : Option Nat := (List.range 64).find? (fun i => peerValid s p i && decide (peerNode s p i = node))

/-- Appends of a shelf that have been written already and are not visible yet follow the seed. -/
def seedAppends (s : State) (i l : Nat) : State :=
  match s.shelf? i with
  | none => s
  | some sh =>
    let n := sh.appends.length
    (List.range n).foldl (fun s m =>
      match s.shelf? i with
      | none => s
      | some x =>
        let a := x.appends.getD m {}
        if a.written then
          let s1 := pushRecords s l x true (a.n + 1) a.pos a.n
          setAppend s1 i m (fun a => { a with waitSeq := if linkSync s1 l then some (linkSeq s1 l) else none })
        else s) s

/-- The seed of a new link: `SEED`, the records from `START` to `VISIBLE`, and `SEEDED`. Whether `SEED` carries `ADOPT`, and whether the
partner's shelf then spares the records, is open (R411; log entry 67): free values say. -/
def seedLink (s : State) (id : Nat) (r : Req) (i : Nat) (sh : Shelf) (peer : Nat) (sync : Bool) : State :=
  let (l, s1) := newId s
  let (v, s2) := draw s1
  let adopt := bit v 0
  let skip := adopt && bit v 1
  let x : Link := { part := r.part, peer := peer, shelf := i, sync := sync, seed := some id }
  let s3 := ({ s2 with links := tput s2.links l x }.setReq id { r with shelf := some i }).setShelf i { sh with link := some l, seeding := true }
  let s4 := pushEntry s3 l 1 (if adopt then 2 else 0) sh.key sh.base sh.start (padTo (sh.digest.take 16) 32)
  let s5 := if skip then s4 else pushRecords s4 l sh false (sh.visible - sh.start + 1) sh.start (sh.visible - sh.start)
  let s6 := pushEntry s5 l 6 0 sh.key 0 0 []
  let s7 := match tget? s6.links l with
    | some y => { s6 with links := tput s6.links l { y with seedSeq := y.seq } }
    | none => s6
  seedAppends s7 i l

/-- The drawers of a shelf are read for a peer: the first damage that this meets, at a line of HBM or in a unit of the cabinet that is lost (R270, R273). -/
def readShelf (s : State) (sh : Shelf) : Option (Nat × Nat ⊕ Nat) × State :=
  sh.drawers.foldl (fun (acc : Option (Nat × Nat ⊕ Nat) × State) d =>
    if acc.1.isSome then acc
    else match d.loc with
      | .cab u => if (tget? acc.2.cab.units u).isNone then (some (.inr u), acc.2) else (none, countRead acc.2 u)
      | _ => let (w, s1) := readDrawer acc.2 d; (w.map Sum.inl, s1)) (none, s)

/-- A link begins with its seed, which reads every drawer. Where one is damaged nothing is sent, and the request ends with the shelf's other operations
(R270, R271). -/
def startLink (s : State) (id : Nat) (r : Req) (i : Nat) (sh : Shelf) (peer : Nat) (sync : Bool) : State :=
  match readShelf (s.setReq id { r with shelf := some i }) sh with
  | (some w, s1) => damage s1 i w
  | (none, s1) => seedLink s1 id r i sh peer sync

/-- `MIRROR_SET` on a shelf that exists. A shelf with remote drawers is seeded once it has them (DESIGN CHOICE, log entry 68). A link that it has
already is cut first, and a `MIRROR_SET` still seeding ends with `ABORTED` (log entry 69). -/
def mirrorFound (s : State) (id : Nat) (r : Req) (i : Nat) (sh : Shelf) : State :=
  let mode := le r.desc 0x1C 1
  let bad := failReq s id r { status := stBadDescriptor, detail := 0x18 }
  if sh.copy then failReq s id r { status := stDenied }
  else if mode = 0 then
    let s1 := match sh.link with
      | some l => cutLink (endSeed s l { status := stAborted }) l false
      | none => s
    match s1.shelf? i with
    | some x => complete (s1.setShelf i { x with durab := .single }) id r stOk 0 0 0 0 0
    | none => complete s1 id r stOk 0 0 0 0 0
  else if !inboxOn s r.part then bad
  else
    match peerOf s r.part (le r.desc 0x18 4) with
    | none => bad
    | some peer =>
      if sh.drawers.any (fun d => decide (d.loc = .remote)) then s.setReq id { r with shelf := some i, waitPull := some i }
      else
        let s1 := match sh.link with
          | some l => cutLink (endSeed s l { status := stAborted }) l false
          | none => s
        match s1.shelf? i with
        | some x => startLink s1 id r i x peer (decide (mode = 1))
        | none => failReq s1 id r { status := stLost }

/-- Step 10 and effect of `MIRROR_SET` (R411). -/
def doMirrorSet (s : State) (id : Nat) (r : Req) : State :=
  match lookup s (dKey r.desc) with
  | none => failReq s id r { status := stBadDescriptor, detail := 0x18 }
  | some (i, sh) => if sh.state = .lost then failReq s id r { status := stLost } else mirrorFound s id r i sh

/-- `MIRROR_SET` (R411). -/
def execMirrorSet (ring : Fin 4096) (s : State) : Res := .next (admitOp s ring.val 0x21 doMirrorSet)

/-! ### Pulls: the start and the checks (R405, R406, R409) -/

/-- Step 10 and effect of `MOVE_PULL` (R409). -/
def doMovePull (s0 : State) (id : Nat) (r : Req) : State :=
  let d := r.desc
  let k := dKey d
  let (f, s) := pullFind s0 k
  let bad := fun o => failReq s id r { status := stBadDescriptor, detail := o }
  match f with
  | none => bad 0x18
  | some e =>
    let first := le d 0x1C 4
    let endp := le d 0x20 4
    if peerNode s k.part (le e 0x0C 1 % 64) ≠ le d 0x18 4 then bad 0x18
    else if (lookup s k).isSome then bad 0x0C
    else if first < le e 0x14 4 ∨ endp > le e 0x18 4 ∨ first ≥ endp then bad 0x1C
    else
      match pullOf s k with
      | some n => waitForPull s id r n
      | none =>
        let (n, s1) := startPull s { tableJob k e with profH := le d 0x24 2, first := first, endp := endp, move := some id }
        waitForPull s1 id r n

/-- `MOVE_PULL` (R409). -/
def execMovePull (ring : Fin 4096) (s : State) : Res := .next (admitOp s ring.val 0x20 doMovePull)

/-- A request that waited for a pull goes on with its lookup. -/
def rerun (s : State) (id : Nat) (r0 : Req) : State :=
  let r := { r0 with waitPull := none }
  let op := dOpcode r.desc
  if op = 0x01 then doAttend s id r
  else if op = 0x02 then doAppend s id r
  else if op = 0x04 then doTrim s id r
  else if op = 0x06 then doPlan s id r
  else if op = 0x07 then doPin s id r
  else if op = 0x20 then doMovePull s id r
  else doMirrorSet s id r

/-- The requests that waited for a pull go on, in order of admission. -/
def rerunAll (s : State) (n : Nat) : State :=
  (pullWaiters s n).foldl (fun s e => match tget? s.reqs e.1 with | some r => rerun s e.1 r | none => s) s

/-- Fields of a drawer in the form of R74. -/
def fMagic (f : List Byte) : Nat := le f 0 4
def fKind (f : List Byte) : Nat := le f 5 1
def fHead (f : List Byte) : Nat := le f 7 1 % 16
def fCount (f : List Byte) : Nat := le f 0x0E 2
def fFirst (f : List Byte) : Nat := le f 0x18 4
def fSeq (f : List Byte) : Nat := le f 0x1C 4
def fGen (f : List Byte) : Nat := le f 0x20 4
def fDigest (f : List Byte) : List Byte := bslice f 0x28 16
def drwMagic : Nat := 0x334E4358

/-- The remote drawers of a range of positions. -/
def remoteDrawers (sh : Shelf) (first endp : Nat) : List Drawer :=
  (touched sh first (endp - first)).map (fun k =>
    { series := k.1, idx := k.2, firstPos := drawerPos sh k.1 k.2, loc := .remote, sumLost := decide (k.1 % 2 = 0) })

/-- The shelf that a pull makes. -/
def pulledShelf (s : State) (j : PullJob) (base : Nat) : Shelf :=
  { freshShelf s j.key j.profH base with
    start := j.first, endPos := j.endp, visible := j.endp, pull := some { peer := j.peer, rkey := j.rkey, req := j.move.getD 0 } }

/-- The shelf of a pull has its entry: its drawers are remote, the `MOVE_PULL` belongs to it, and the requests that waited go on. -/
def pullCreated (s : State) (n i : Nat) (j : PullJob) : State :=
  match s.shelf? i with
  | none => s
  | some sh =>
    let s1 := { s with pulls := tdel s.pulls n }.setShelf i { sh with drawers := remoteDrawers sh j.first j.endp }
    let s2 := match j.move.bind (fun id => (tget? s1.reqs id).map (fun r => (id, r))) with
      | some (id, r) => s1.setReq id { r with shelf := some i, waitPull := none }
      | none => s1
    rerunAll s2 n

/-- `PULL_CHECK` (R406): the two drawers of a pull have been read. `shelf` is the number of the pull. A base below 0 is a failed check
(DEDUCED, log entry 70). -/
def execPullCheck (shelf : Nat) (drawers : List (List Byte)) (s : State) : Res :=
  match tget? s.pulls shelf with
  | none => .next s
  | some j =>
    match drawers with
    | [a, b] =>
      if a.length ≠ 33024 ∨ b.length ≠ 33024 then .fault (.operand "a drawer is read in 33,024 bytes")
      else
        let p := j.key.part
        let dig := (digestOfHandle s p j.profH).take 16
        let fits := (liveObj s p j.profH 1).isSome && decide (fDigest a = dig) && decide (fDigest b = dig)
        let t := serT (parseProfile (objBytes s p j.profH)) 0
        if fMagic a ≠ drwMagic ∨ fMagic b ≠ drwMagic ∨ peerExcluded s p j.peer = true then .next (pullFailed s shelf stRebuildSourceLost 0)
        else if !fits then .next (pullFailed s shelf stRefusedFit 0x04)
        else if fFirst b + fCount b < j.endp ∨ j.endp ≤ fFirst b ∨ fFirst a < fSeq a * t ∨ j.first < fFirst a - fSeq a * t then
          .next (pullFailed s shelf stRebuildSourceLost 0)
        else
          match createShelf s (pulledShelf s j (fFirst a - fSeq a * t)) with
          | (.error f, s1) =>
            .next ((pullWaiters s1 shelf).foldl (fun s e => failReq s e.1 e.2 f) { s1 with pulls := tdel s1.pulls shelf })
          | (.ok i, s1) => .next (pullCreated s1 shelf i j)
    | _ => .fault (.operand "a pull reads two drawers")

/-! ### Remote drawers (R407) -/

/-- The runs that await a drawer, as request and run numbers. -/
def runsAwaiting (s : State) (i : Nat) (k : Nat × Nat) : List (Nat × Nat) :=
  s.reqs.flatMap (fun e =>
    if e.2.shelf = some i then
      (e.2.runs.zip (List.range e.2.runs.length)).filterMap (fun x => if inFlight x.1 && x.1.coldLeft.contains k then some (e.1, x.2) else none)
    else [])

/-- A run scores a drawer that has arrived for it. -/
def serveRun (i : Nat) (k : Nat × Nat) (s : State) (e : Nat × Nat) : State :=
  match tget? s.reqs e.1, s.shelf? i with
  | some r, some sh =>
    match r.runs[e.2]? with
    | some x => arrivedScore s e.1 e.2 i sh r x k
    | none => s
  | _, _ => s

/-- A pulled drawer as its shelf keeps it: the records below `END`, a summary formed anew, and C as its epoch (R407). -/
def arrivedDrawer (s : State) (sh : Shelf) (d : Drawer) (f : List Byte) : Drawer :=
  let n := min (fCount f) (sh.endPos - d.firstPos)
  let data := bslice f 256 (n * serB sh.prof d.series)
  let m := summarize sh d.series (drawerRecords sh d.series n data) ([], [])
  { d with count := n, data := data, gen := fGen f, epoch := partC s sh.key.part, smin := m.1, smax := m.2, sumLost := false }

/-- `REMOTE_DRAWER_READ` (R407): a drawer arrives. It is checked, given to the runs that await it, and placed. -/
def execRemoteDrawerRead (shelf series idx : Nat) (data : List Byte) (s : State) : Res :=
  if !hostReach s then .next s else
  if data.length ≠ 33024 then .fault (.operand "a drawer is read in 33,024 bytes")
  else
    match s.shelf? shelf with
    | none => .next s
    | some sh =>
      match sh.pull, getDrawer sh series idx with
      | some pl, some d =>
        if sh.state ≠ .live ∨ d.loc ≠ .remote ∨ pl.inFlight.contains (series, idx) = false then .next s
        else
          let misfit := decide (fDigest data ≠ sh.digest.take 16)
          if fMagic data ≠ drwMagic ∨ fKind data ≠ series % 2 ∨ fHead data ≠ series / 2 ∨ fSeq data ≠ idx then .next (pulledShelfFailed s shelf false)
          else if misfit then .next (pulledShelfFailed s shelf true)
          else
            let s1 := s.setShelf shelf (setDrawer { sh with pull := some { pl with inFlight := pl.inFlight.erase (series, idx) } } (arrivedDrawer s sh d data))
            let s2 := (runsAwaiting s1 shelf (series, idx)).foldl (serveRun shelf (series, idx)) s1
            let s3 := retryAppends (placeRemote s2 shelf series idx) shelf
            match s3.shelf? shelf with
            | some x => .next (if x.pull.isNone then rerunAll s3 shelf else s3)
            | none => .next s3
      | _, _ => .next s

/-- Remote drawers of a die's shelves that no READ is under way for and of which nothing has arrived, K drawers ahead of V drawers, each in
ascending index: shelf, series, index. -/
def sweepList (s : State) (die : Nat) : List (Nat × Nat × Nat) :=
  let of := fun (par : Nat) => s.dir.shelves.flatMap (fun e =>
    match e.2.pull with
    | none => []
    | some pl =>
      if shelfDie e.2 = die ∧ e.2.state = .live then
        (sortBy (fun (a b : Nat × Nat) => decide (a.2 < b.2)) ((e.2.drawers.filter (fun d => decide (d.series % 2 = par) && decide (d.loc = .remote) &&
          d.data.isEmpty && !pl.inFlight.contains (d.series, d.idx) && !qpDead s (peerQpn s e.2.key.part pl.peer))).map (fun d => (d.series, d.idx)))).map
            (fun k => (e.1, k))
      else [])
  of 0 ++ of 1

/-- READs of a die's shelves that are under way. -/
def sweepFlight (s : State) (die : Nat) : Nat :=
  (s.dir.shelves.map (fun e => if shelfDie e.2 = die then (match e.2.pull with | some pl => pl.inFlight.length | none => 0) else 0)).sum

/-- `PULL_SWEEP` (R407): the next READ of a remote drawer of a die, at most 64 under way. A pull that has nothing left is over. -/
def execPullSweep (die : Fin 4) (s : State) : Res :=
  let s0 := (s.dir.shelves.filter (fun e => decide (shelfDie e.2 = die.val) && e.2.pull.isSome)).foldl (fun s e => pullOver s e.1) s
  if sweepFlight s0 die.val ≥ 64 then .next s0
  else
    match sweepList s0 die.val with
    | [] => .next s0
    | (i, k) :: _ => .next (demandRead s0 i k)

/-! ### The source's side of a link (R414, R415, R417) -/

/-- A tail trim whose mirror entry was refused ends with the status. `R83` applies to it and nothing of it may be seen afterwards (R138, R414): unless a
later trim holds `END`, `END` and `VISIBLE` go back to where they were, and the appends accepted since end with `ABORTED` (DEDUCED, log entry 144). -/
def refuseTrim (s : State) (i : Nat) (t : TailTrim) (status : Nat) : State :=
  match s.shelf? i with
  | none => s
  | some sh =>
    let last := sh.tails.getLast? = some t
    let s1 := s.setShelf i (if last then { sh with tails := sh.tails.erase t, endPos := t.was, visible := t.was, appends := [] }
      else { sh with tails := (sh.tails.map (fun x => if x.was = t.pos then { x with was := t.was } else x)).erase t })
    let s2 := match tget? s1.reqs t.req with | some r => failReq s1 t.req r { status := status } | none => s1
    if last then sh.appends.foldl (fun s a => match tget? s.reqs a.req with | some r => failReq s a.req r { status := stAborted } | none => s) s2
    else s2

/-- `REFUSE` (R414): the link is cut and marked, its seed ends with the status, and so does the append or trim whose entry was refused. -/
def linkRefused (s : State) (l seq status : Nat) : State :=
  match tget? s.links l with
  | none => s
  | some x =>
    let s1 := endSeed s l { status := status, detail := if status = stRefusedFit then 0x04 else 0 }
    let waits := fun (w : Option Nat) => match w with | some n => decide (n ≥ seq) && decide (n > x.acks) | none => false
    let s2 := match s1.shelf? x.shelf with
      | none => s1
      | some sh =>
        let s2 := match sh.appends.findIdx? (fun a => waits a.waitSeq) with
          | some n => setAppend s1 x.shelf n (fun a => { a with failed := some status })
          | none => s1
        match sh.tails.find? (fun t => waits t.waitSeq) with
        | some t => refuseTrim s2 x.shelf t status
        | none => s2
    raise (cutLink s2 l true) (pgPart x.part) 2 []

/-- The links of a partition to a peer. -/
def linksTo (s : State) (p peer : Nat) : List Nat := (s.links.filter (fun e => decide (e.2.part = p) && decide (e.2.peer = peer))).map (·.1)

/-- A link with what an acknowledgement covers taken off: an entry is covered once both its number and its bytes are (log entry 31). -/
def ackLink (seq ci : Nat) (s : State) (l : Nat) : State :=
  match tget? s.links l with
  | none => s
  | some x =>
    let (done, left) := x.sent.partition (fun e => decide (e.1 ≤ seq) && decide (e.2 ≤ ci))
    if done.isEmpty then s
    else
      let acks := done.foldl (fun a e => max a e.1) x.acks
      let y := { x with sent := left, acks := acks, stalled := false, since := if left.isEmpty then none else some (stewardMs s) }
      let s1 := { s with links := tput s.links l y }
      if y.active ∨ y.seedSeq = 0 ∨ acks < y.seedSeq then s1
      else
        let s2 := { s1 with links := tput s1.links l { y with seed := none, active := true } }
        let s3 := match s2.shelf? y.shelf with
          | some sh => s2.setShelf y.shelf { sh with seeding := false, durab := if y.sync then .sync else .async }
          | none => s2
        match y.seed.bind (fun id => (tget? s3.reqs id).map (fun r => (id, r))) with
        | some (id, r) => complete s3 id r stOk 0 0 0 0 0
        | none => s3

/-- A link whose shelf is gone or being dropped has no more to carry once everything it sent is acknowledged. -/
def reapLink (s : State) (l : Nat) : State :=
  match tget? s.links l with
  | none => s
  | some x =>
    let idle := x.sent.isEmpty && x.backlog.isEmpty
    let gone_ := match s.shelf? x.shelf with | some sh => decide (sh.state = .dropping) | none => true
    if idle && gone_ then unlink { s with links := tdel s.links l } x.shelf else s

/-- `MIRROR_ACK` (R412, R415): the control line that the peer writes has advanced; what it covers is confirmed, and entries that waited for
room go out. -/
def execMirrorAck (part : Fin 32) (peer : Fin 64) (s : State) : Res :=
  if !hostReach s then .next s else
  let p := part.val
  let base := refAddr (rd64 s (pgPart p + 0x140)) + peer.val * inboxBytes s p
  if !inboxOn s p then .next s
  else
    match devRead s p (base + 8) 12 with
    | (none, s0) => .next s0
    | (some b, s) =>
      let ci := le b 0 8
      let sb := s.subIn p peer.val
      let s1 := s.setSub p peer.val { sb with ackd := max sb.ackd ci }
      let ls := linksTo s1 p peer.val
      let s2 := ls.foldl (ackLink (le b 8 4) ci) s1
      let s3 := ls.foldl (fun s l => match tget? s.links l with | some x => drainLink s l (x.backlog.length + 1) | none => s) s2
      .next (ls.foldl reapLink s3)

/-- `MIRROR_STALL` (R417): an acknowledgement has been outstanding for 100 ms. -/
def execMirrorStall (link : Nat) (s : State) : Res :=
  match tget? s.links link with
  | none => .next s
  | some x =>
    if x.sent.isEmpty || x.stalled || !(match x.since with | some t => decide (stewardMs s ≥ t + 100) | none => false) then .next s
    else .next (raise { s with links := tput s.links link { x with stalled := true } } (pgPart x.part) 3 [])

/-! ### The partner's side (R414, R416) -/

/-- The control line of this node's traffic at the peer: bytes consumed and the number applied or refused. -/
def sendAck (s : State) (p peer seq : Nat) : State :=
  inboxWrite s p peer 8 (leBytes 8 (s.subIn p peer).got ++ leBytes 4 seq)

/-- An entry of the inbox has been consumed. -/
def consumed (s : State) (p peer len : Nat) : State :=
  let sb := s.subIn p peer
  s.setSub p peer { sb with got := sb.got + len }

/-- The shelf key of an entry. -/
def meKey (p : Nat) (b : List Byte) : ShelfKey :=
  { part := p, tenant := le b 0x0C 2, layer := le b 0x0E 1, group := le b 0x0F 1, conv := le b 0x10 8 }

/-- A `REFUSE` goes back, and the refused entry is acknowledged; with no room for the `REFUSE`, the entry waits. A `REFUSE` is on no link, and
carries 0 as its own number (DESIGN CHOICE, log entry 71). -/
def refuseEntry (s : State) (p peer : Nat) (b : List Byte) (status : Nat) : State :=
  let s1 := consumed s p peer b.length
  match sendEntry s1 p peer (meEntry 5 0 0 (meKey p b) (meSeq b) status []) with
  | some s2 => sendAck s2 p peer (meSeq b)
  | none => s

/-- A loaded profile with a digest. -/
def profileOf (s : State) (p : Nat) (dig : List Byte) : Option Nat :=
  (s.objects.find? (fun e => decide (e.1 / 65536 = p) && decide (e.2.kind = 1) && !e.2.unloading &&
    decide ((digestOfHandle s p (e.1 % 65536)).take 16 = dig))).map (fun e => e.1 % 65536)

/-- `SEED`: a live shelf with the same digest, `BASE` and `START` is adopted where `ADOPT` is set; otherwise a shelf of the key gives way and a
new one is created. Whether the link is asynchronous the entry does not say: a free value (log entry 72). The status of a refusal, or the
new state. -/
def applySeed (s : State) (p peer : Nat) (b : List Byte) : Except Nat State :=
  let k := meKey p b
  let dig := bslice b 32 16
  let (v, s0) := draw s
  let mark := fun (s : State) (i : Nat) (sh : Shelf) =>
    s.setShelf i { sh with copy := true, copyPeer := peer, copyAsync := bit v 0, durab := .single, degraded := false }
  let fresh := fun (s : State) =>
    match profileOf s p dig with
    | none => Except.error stRefusedFit
    | some h =>
      let s1 := match lookup s k with | some (i, _) => dropOne s i | none => s
      let sh0 := freshShelf s1 k h (le b 0x18 4)
      match createShelf s1 { sh0 with start := le b 0x1C 4, endPos := le b 0x1C 4, visible := le b 0x1C 4 } with
      | (.error _, _) => .error stFull
      | (.ok i, s2) => match s2.shelf? i with | some sh => .ok (mark s2 i sh) | none => .ok s2
  match lookup s0 k with
  | some (i, sh) =>
    if bit (le b 1 1) 1 ∧ sh.state = .live ∧ sh.digest.take 16 = dig ∧ sh.base = le b 0x18 4 ∧ sh.start = le b 0x1C 4 ∧ sh.link = none then
      .ok (mark s0 i sh)
    else fresh s0
  | none => fresh s0

/-- Room for a drawer of a copy is found or made; no for a partition with nothing left to demote. -/
def copyRoom (i : Nat) (acc : Bool × State) (k : Nat × Nat) : Bool × State :=
  let (ok, s) := acc
  match s.shelf? i with
  | none => (false, s)
  | some sh =>
    let need := match (getDrawer sh k.1 k.2).map Drawer.loc with
      | some (.cab _) => true
      | some _ => false
      | none => !(isRing sh.prof && decide (k.2 ≥ ringSlots sh.prof k.1))
    if !ok || !need || (findPlace s sh k.1 k.2).isSome then (ok, s)
    else
      match freeTierPlace s sh.key.part (asksT0 s sh.key.part k.1) i (roomFor i k.1 k.2) with
      | (none, s1) => (true, s1)
      | (some _, s1) => (false, s1)

/-- One drawer of a `RECORDS` entry; none where it still moves or is being read. -/
def copyDrawer (i : Nat) (sh : Shelf) (b : List Byte) (acc : Option (Except Nat State)) (k : Nat × Nat) : Option (Except Nat State) :=
  match acc with
  | some (.ok s) =>
    match copyRoom i (true, s) k with
    | (false, _) => some (.error stFull)
    | (true, s2) =>
      let pos := le b 0x18 4
      let n := le b 0x1C 4
      match readyDrawer true i pos (true, s2) k with
      | (false, _) => none
      | (true, s3) =>
        let (lo, hi) := spanIn sh pos n k
        let off := 32 + ((List.range k.1).map (fun se => ceilDiv (n * serB sh.prof se) 64 * 64)).sum
        some (.ok (putRecords s3 i lo hi k
          ((List.range (hi - lo)).map (fun j => bslice b (off + (lo - pos + j) * serB sh.prof k.1) (serB sh.prof k.1)))))
  | some (.error e) => some (.error e)
  | none => none

/-- `RECORDS`: the records go to their positions; with `LAST` the copy's `END` and `VISIBLE` advance. None where drawers still move or are being
read, so that the entry waits. -/
def applyRecords (s : State) (i : Nat) (sh : Shelf) (b : List Byte) : Option (Except Nat State) :=
  let pos := le b 0x18 4
  let n := le b 0x1C 4
  if n = 0 then some (.ok s)
  else
    let ks := touched sh pos n
    let extra := if isRing sh.prof then 0 else
      ((ks.filter (fun k => (getDrawer sh k.1 k.2).isNone)).map (fun k => drawerCharge sh.prof k.1)).sum
    match takeCharge s sh.key.part extra (some i) with
    | (false, _) => some (.error stFull)
    | (true, s1) =>
      match ks.foldl (copyDrawer i sh b) (some (.ok s1)) with
      | some (.ok s4) =>
        match s4.shelf? i with
        | some x =>
          if bit (le b 1 1) 0 then
            some (.ok (s4.setShelf i { x with endPos := pos + n, visible := pos + n, start := ringStart x (pos + n) }))
          else some (.ok s4)
        | none => some (.ok s4)
      | x => x

/-- Position after the last record that a copy holds. -/
def copyEnd (sh : Shelf) : Nat := sh.drawers.foldl (fun a d => if d.series = 0 then max a (drawerPos sh 0 d.idx + d.count) else a) sh.endPos

/-- `TRIM` on a copy (R92, R414): a head trim sets `START` at once; a tail trim sets `END` and `VISIBLE`, and its records go once the older readers
have completed. -/
def applyTrim (s : State) (i : Nat) (sh : Shelf) (b : List Byte) : State :=
  let p := le b 0x18 4
  if le b 0x1C 4 = 0 then s.setShelf i { sh with start := p, headTrims := sh.headTrims ++ [{ pos := p, older := shelfReqs s i }] }
  else s.setShelf i { sh with endPos := p, visible := p, tails := sh.tails ++ [{ pos := p, older := shelfReaders s i }] }

/-- The link of a shelf key towards a peer. -/
def linkOfKey (s : State) (p peer : Nat) (k : ShelfKey) : Option Nat :=
  (linksTo s p peer).find? (fun l => match (tget? s.links l).bind (fun x => s.shelf? x.shelf) with | some sh => decide (sh.key = k) | none => false)

/-- Kinds after which the peer is told (R414): an entry with `LAST`, `TRIM`, `DROP` and `SEEDED`. -/
def acksEntry (b : List Byte) : Bool := (decide (le b 0 1 = 2) && bit (le b 1 1) 0) || [3, 4, 6].contains (le b 0 1)

/-- An entry for a copy: the status of a refusal, the new state, or none where it must wait. An entry behind a tail trim whose records still stand
waits for it. -/
def applyToCopy (s : State) (p peer : Nat) (b : List Byte) : Option (Except Nat State) :=
  match lookup s (meKey p b) with
  | none => some (.error stLost)
  | some (i, sh) =>
    if sh.state ≠ .live ∨ sh.copy = false ∨ sh.copyPeer ≠ peer then some (.error stLost)
    else
      match le b 0 1 with
      | 2 => if sh.tails.isEmpty then applyRecords s i sh b else none
      | 3 => some (.ok (applyTrim s i sh b))
      | 4 => some (.ok (dropOne s i))
      | _ => some (.ok (s.setShelf i { sh with endPos := copyEnd sh, visible := copyEnd sh, start := ringStart sh (copyEnd sh) }))

/-- What an entry of this partition's inbox does. -/
def mirrorApply (s : State) (p peer : Nat) (b : List Byte) : State :=
  let kind := le b 0 1
  if kind = 0 then consumed s p peer b.length
  else if kind = 5 then
    let s1 := consumed s p peer b.length
    match linkOfKey s1 p peer (meKey p b) with
    | some l => linkRefused s1 l (le b 0x18 4) (le b 0x1C 4 % 256)
    | none => s1
  else if (s.part p).state = .fenced then refuseEntry s p peer b stFenced
  else if peerExcluded s p peer then refuseEntry s p peer b stStaleEpoch
  else
    match if kind = 1 then some (applySeed s p peer b) else applyToCopy s p peer b with
    | none => s
    | some (.error st) => refuseEntry s p peer b st
    | some (.ok s1) =>
      let s2 := consumed s1 p peer b.length
      if acksEntry b then sendAck s2 p peer (meSeq b) else s2

/-- `MIRROR_ENTRY` (R414): the next entry of a sub-inbox is applied or refused. It waits while the partition resets (R423). -/
def execMirrorEntry (part : Fin 32) (peer : Fin 64) (entry : List Byte) (s : State) : Res :=
  if !hostReach s then .next s else
  let n := entry.length
  if n < 32 ∨ n % 64 ≠ 0 ∨ n > 262144 ∨ le entry 4 4 ≠ n ∨ le entry 0 1 > 6 then .fault (.operand "not an entry of R413")
  else if inboxOn s part.val && peerValid s part.val peer.val && partOpen s part.val then .next (mirrorApply s part.val peer.val entry)
  else .next s

end Sys2Proof.Machine
end

