-- ==== Sys2Proof/Machine/Cxl.lean ====
section
/-! DEFINITION. The CXL attachment: link, CXL.mem, back-invalidates, the device cache, extents, and the memory device mailbox
(R369-R389). -/
namespace Sys2Proof.Machine

/-! ### Link (R371, R372, R385) -/

/-- CXL.mem is offered (`MEM_EN`, R372, R535). -/
def memOn (s : State) : Bool := s.chip.dcCap && s.cxl.flit256 && decide (s.cxl.speed = 2)

/-- The width code of `CXL_LINK`. -/
def widthCode (w : Nat) : Nat := if w = 16 then 3 else if w = 8 then 2 else if w = 4 then 1 else 0

/-- `CXL_LINK_UP` (R371): the partner offers a rate (32 or 64 GT/s), a width, 256-byte flits, CXL.cache and CXL.mem; the link trains as the first
row that fits, or is held down. -/
def execCxlLinkUp (speed width : Nat) (flit256 cacheOk memOk : Bool) (s : State) : Res :=
  if !hostReach s then .next s else
  if s.cxl.speed ≠ 0 ∨ s.dev.state = .off then .next s
  else
    let row := if widthCode width = 0 ∨ cacheOk = false then 0
      else if speed ≥ 64 ∧ flit256 = true ∧ memOk = true then 2 else if speed ≥ 32 then 1 else 0
    if row = 0 then .next (raise s pgCxl 3 [])
    else
      let s1 := { s with cxl := { s.cxl with speed := row, width := widthCode width, flit256 := decide (row = 2), cacheEn := true } }
      let s2 := raise s1 pgCxl 0 []
      .next (if width = 16 then s2 else raise s2 pgCxl 2 [])

/-- `CXL_LINK_RECOVERY` (R387): recovery is not a reset; the standard's replay loses nothing. -/
def execCxlLinkRecovery (s : State) : Res := .next s

/-- `IDE_FAIL` (R385): a received flit fails its check. Containment mode ends both streams (PRESUMED, log entry 74). -/
def execIdeFail (s : State) : Res :=
  if s.cxl.ideIo || s.cxl.ideCm then .next (raise { s with cxl := { s.cxl with ideIo := false, ideCm := false, ide := {} } } pgCxl 4 [])
  else .next s

/-- A DSMAS entry of the CDAT (R369, R383): the DC region's base and length, its read latency in ns and its bandwidth in MB/s. -/
structure Dsmas where
  base      : Nat
  length    : Nat
  latencyNs : Nat
  mbPerS    : Nat
deriving DecidableEq, Repr

/-- The CDAT: one entry per DC region. No command reads it (log entry 159). -/
def cdat : List Dsmas := (List.range 8).map (fun r => { base := r * 2 ^ 36, length := 2 ^ 36, latencyNs := 800, mbPerS := 121000 })

/-! ### CXL.mem (R268, R372, R382-R384, R386) -/

/-- An accepted extent holds the address and its stack answers. -/
def dpaOpen (s : State) (dpa : Nat) : Bool := decide ((tget {} s.cxl.ext (dpa / 2 ^ 30)).state = .accepted) && dpaAnswers s dpa

/-- A line is tracked; a full filter back-invalidates its least recently filled line first (R384). -/
def trackLine (s : State) (line : Nat) : State :=
  let die := dpaDie (line * 64)
  let f := s.cxl.filter.getD die []
  let put := fun (s : State) (f : List Nat) => { s with cxl := { s.cxl with filter := modAt (fun _ => f) die s.cxl.filter } }
  if f.contains line then put s (f.erase line ++ [line])
  else if f.length ≥ 262144 then
    match f with
    | [] => s
    | old :: rest => put (sendBisnp s old) (rest ++ [line])
  else put s (f ++ [line])

/-- `CXL_MEM_READ` (R382, R383): the line of a device physical address, or poison. -/
def execCxlMemRead (dpa : Nat) (s : State) : Res :=
  if !hostReach s then .next s else
  let line := dpa / 64
  if dpa ≥ 2 ^ 39 then .fault (.operand "an address outside the 512 GiB of the device")
  else if !memOn s then .next (emit s (.unsupported dpa))
  else if ideHold s then .next (emit s (.cxlDrop dpa))
  else if !dpaOpen s dpa then .next (emit s (.cxlData (line * 64) true (List.replicate 64 0)))
  else match readDev s line with
    | (true, s1) => .next (emit s1 (.cxlData (line * 64) true (List.replicate 64 0)))
    | (false, s1) => .next (emit (trackLine s1 line) (.cxlData (line * 64) false (mread s1.devMem (line * 64) 64)))

/-- `CXL_MEM_WRITE` (R268, R382, R383): bytes within one line. A narrow write is a read, a merge and a write, and is discarded where the read meets poison or
an uncorrectable line; what carries poison stores the line poisoned, with `CAUSE` 3, a narrow one the whole of it (PRESUMED, log entry 75). -/
def execCxlMemWrite (dpa : Nat) (bytes : List Byte) (poison : Bool) (s : State) : Res :=
  if !hostReach s then .next s else
  let line := dpa / 64
  if dpa ≥ 2 ^ 39 ∨ bytes = [] ∨ dpa % 64 + bytes.length > 64 then .fault (.operand "a write that is not within one line of the device")
  else if !memOn s then .next (emit s (.unsupported dpa))
  else if ideHold s || !dpaOpen s dpa then .next (emit s (.cxlDrop dpa))
  else if !poison then .next (devPutLine s dpa bytes)
  else if bytes.length = 64 then .next (wroteDev s line (some 3))
  else match readDev s line with
    | (true, s1) => .next (dropNarrow s1 dpa)
    | (false, s1) => .next (wroteDev s1 line (some 3))

/-- `BIRSP` (R384): the host holds the line no longer, and the writes that waited go on. -/
def execBirsp (line : Nat) (s : State) : Res :=
  if !hostReach s then .next s else
  if !s.cxl.bisnp.contains line then .next s
  else
    let s1 := { s with cxl := { s.cxl with
      bisnp := s.cxl.bisnp.erase line, filter := modAt (fun f => f.erase line) (dpaDie (line * 64)) s.cxl.filter } }
    .next (drainWrites s1 (2 * s1.cxl.wq.length + 3))

/-- `HOST_SNOOP` (R377): a cached spill line is answered, written back where it is modified, and given up (PRESUMED, log entry 76). The 64 bytes
written are part of a spilled state, whose form is open (log entry 57). -/
def execHostSnoop (line : Nat) (s : State) : Res :=
  if !hostReach s then .next s else
  match tget? s.cxl.cache line with
  | none => .next (emit s (.snoopAns line false false))
  | some dirty =>
    let s1 := { s with cxl := { s.cxl with cache := tdel s.cxl.cache line } }
    if dirty then
      let (b, s2) := drawBytes s1 64
      .next (emit (hostPut s2 (line * 64) b) (.snoopAns line true true))
    else .next (emit s1 (.snoopAns line true false))

/-! ### Extents (R379-R381, R540) -/

/-- The staged extent: number, partition, offset in GiB, and whether it is offered. -/
def stagedExt (s : State) : Nat × Nat × Nat × Bool :=
  let v := rd s (pgCxl + 0x110)
  (64 * bits v 0 3 + bits v 4 6, bits v 10 5, bits v 16 9, bit v 3)

/-- `RESULT` of `CXL_DC_STAT`. -/
def dcResult (s : State) (n : Nat) : State := wrf s (pgCxl + 0x118) 1 3 n

/-- An extent changes, and the change raises `DC_EVENT`. -/
def setExt (s : State) (e : Nat) (x : Extent) : State :=
  raise { s with cxl := { s.cxl with ext := tset {} s.cxl.ext e x } } pgCxl 5 []

/-- A DC event record for the host. -/
def postDc (s : State) (release : Bool) (e : Nat) : State :=
  { s with cxl := { s.cxl with dcLog := s.cxl.dcLog ++ [{ release := release, ext := e, part := (tget {} s.cxl.ext e).part, handle := s.cxl.dcHandle }], dcHandle := s.cxl.dcHandle + 1 } }

/-- Every line of an extent is written whole with zeros. -/
def zeroExt (s : State) (e : Nat) : State :=
  let s1 := wroteUse s (fun u => match u with | .dev l => decide (l / 2 ^ 24 = e) | _ => false)
  { s1 with devMem := s1.devMem.filter (fun x => decide (x.1 / 2 ^ 30 ≠ e)), devBad := s1.devBad.filter (fun x => decide (x.1 / 2 ^ 24 ≠ e)) }

/-- The pseudo-channels an extent of a region would lie in: those of the partition in the die's two back stacks that are neither retiring nor being removed
(R379, R392). -/
def extPcs (s : State) (p region : Nat) : List (Nat × Nat) :=
  (backs (region / 2)).flatMap (fun k => ((heldPcs s p k).filter (fun pc => !(s.hbmc k).retiring.contains pc && !(s.hbmc k).retired.contains pc && !(s.part p).rmPcs.contains (64 * k + pc))).map
    (fun pc => (k, pc)))

/-- Free places of a pseudo-channel. -/
def pcFree (s : State) (k pc : Nat) : Nat :=
  placesPer k - ((usedPlaces s).filter (fun q => decide (q.stack = k) && decide (q.pc = pc))).length - extPlacesPc s k pc

/-- Free places of a stack in the pseudo-channels that an extent would lie in. -/
def extRoom (s : State) (p k : Nat) (pcs : List (Nat × Nat)) : Nat :=
  (pcs.filter (fun e => decide (e.1 = k))).length * placesPer k - ((usedPlaces s).filter (fun q => pcs.contains (q.stack, q.pc) && decide (q.stack = k))).length -
    otherPlaces s p k

/-- Every pseudo-channel has room for the share of an extent, and so have the stacks. -/
def extFits (s : State) (p : Nat) (pcs : List (Nat × Nat)) : Bool :=
  let n := pcs.length
  let ix := pcs.zip (List.range n)
  decide (n > 0) && ix.all (fun e => decide (extentPlaces n e.2 ≤ pcFree s e.1.1 e.1.2)) &&
  ((pcs.map (·.1)).eraseDups).all (fun k =>
    decide (((ix.filter (fun e => decide (e.1.1 = k))).map (fun e => extentPlaces n e.2)).sum ≤ extRoom s p k pcs))

/-- `DC_ADD` (R380). The refusals are reported in the order of the rule (DESIGN CHOICE, log entry 27). -/
def execDcAdd (s : State) : Res := hostWr s pgCxl <|
  match rmGate s 1 with
  | (some _, s1) => .next (dcResult s1 1)
  | (none, s) =>
    let (e, p, poff, offer) := stagedExt s
    let pcs := extPcs s p (e / 64)
    if (tget {} s.cxl.ext e).state ≠ .free then .next (dcResult s 3)
    else if (extentAt s p (poff * 2 ^ 30)).isSome ∨ (offer = true ∧ (s.part p).sealed = true) ∨ partOpen s p = false then .next (dcResult s 2)
    else if !extFits s p pcs then .next (dcResult s 4)
    else if offer && !memOn s then .next (dcResult s 5)
    else
      let x : Extent := { state := if offer then .offered else .alloc, part := p, poff := poff, order := s.cxl.dcHandle, pcs := pcs }
      let s1 := setExt (if offer then zeroExt s e else s) e x
      .next (dcResult (if offer then postDc s1 false e else s1) 0)

/-- A range of a partition's device region, named by a data reference, overlaps a GiB of it. -/
def refOverlaps (r len gib : Nat) : Bool :=
  decide (refSpace r = 1) && decide (len > 0) && decide (refAddr r < (gib + 1) * 2 ^ 30) && decide (gib * 2 ^ 30 < refAddr r + len)

/-- The bytes of a replay's verdict area (R492): a record for each entry that has been judged or still can be, of at least 256 bytes each (DEDUCED, log
entry 157). -/
def verdictBytesOf (s : State) (p : Nat) : Nat :=
  let x := tget {} s.replay p
  32 * (x.index + 1 + (rd s (pgCapt p + 0x148) - x.pos) / 256)

/-- What keeps an extent from being released (R381). -/
def extInUse (s : State) (p gib : Nat) : Bool :=
  let on := fun r len => refOverlaps r len gib
  let cp := pgCapt p
  let pp := pgPart p
  s.rings.any (fun e => decide (e.2.part = p) && (on e.2.rbase (64 * rqSlots e.2) || on e.2.cbase (32 * cqSlots e.2))) ||
  s.regions.any (fun e => decide (e.2.part = p) && !regShelf e.2 && on e.2.base e.2.len) ||
  (captEn s p && on (rd64 s (cp + 0x104)) (captSize s p)) ||
  ((tget {} s.replay p).busy && (on (rd64 s (cp + 0x140)) (rd s (cp + 0x148)) || on (rd64 s (cp + 0x14C)) (verdictBytesOf s p))) ||
  (decide (rdf s (pp + 0x168) 4 1 = 1) && on (rd64 s (pp + 0x160)) (128 * 2 ^ (4 + rdf s (pp + 0x168) 0 4))) ||
  on (rd64 s (pp + 0x130)) (32 * rdf s (pp + 0x138) 0 17) ||
  s.vidx.any (fun e => decide (e.2.part = p) && on e.2.statRef (if e.2.statRef = 0 then 0 else 64))

/-- The release of an extent that nothing holds (R381). -/
def releaseExt (s : State) (e : Nat) : State :=
  let x := tget {} s.cxl.ext e
  match x.state with
  | .offered | .alloc => setExt s e { x with state := .releasing }
  | .accepted => if x.relReq then s else postDc (setExt s e { x with relReq := true }) true e
  | _ => s

/-- `DC_RELEASE` (R381). -/
def execDcRelease (s : State) : Res := hostWr s pgCxl <|
  match rmGate s 1 with
  | (some _, s1) => .next (dcResult s1 1)
  | (none, s) =>
    let e := (stagedExt s).1
    let x := tget {} s.cxl.ext e
    match x.state with
    | .free => .next (dcResult s 2)
    | .releasing | .zeroing => .next (dcResult s 0)
    | _ => if extInUse s x.part x.poff then .next (dcResult s 3) else .next (dcResult (releaseExt s e) 0)

/-- Code of an extent state. -/
def extCode : ExtState → Nat
  | .free => 0
  | .alloc => 1
  | .offered => 2
  | .accepted => 3
  | .releasing => 4
  | .zeroing => 5

/-- `DC_READ`. -/
def execDcRead (s : State) : Res := hostWr s pgCxl <|
  match rmGate s 1 with
  | (some _, s1) => .next (dcResult s1 1)
  | (none, s) =>
    let x := tget {} s.cxl.ext (stagedExt s).1
    let a := pgCxl + 0x118
    .next (dcResult (wrf (wrf (wrf (wrf s a 4 3 (extCode x.state)) a 7 5 x.part) a 12 9 x.poff) a 21 1 (if x.relReq then 1 else 0)) 0)

/-- Ranges of the device region that an admitted request uses (R381): reference and length. -/
def reqRanges (s : State) (r : Req) : List (Nat × Nat) :=
  let d := r.desc
  let src := le d 0x18 8
  let n := match reqShelf s r with
    | some sh =>
      if dOpcode d = 0x01 then profH sh.prof * reqG d * profD sh.prof * srcSize (bits (le d 0x25 1) 0 2)
      else if dOpcode d = 0x02 then appendBytes sh.prof d else 1
    | none => 1
  (if dOpcode d = 0x01 ∨ dOpcode d = 0x02 then [(src, n)] else (refFields s r.part d).map (fun f => (le d f.1 8, f.2))) ++
  (if r.route ≠ [] ∧ rtKind r.route = 0 then [(rtBase r.route, max 1 (rtLimit r.route))] else []) ++
  (if r.replay then [] else
    match tget? s.rings r.ring with
    | some g => [(g.rbase, 64 * rqSlots g), (g.cbase, 32 * cqSlots g)]
    | none => [])

/-- `EXTENT_UNUSED` (R381). -/
def execExtentUnused (ext : Fin 512) (s : State) : Res :=
  let x := tget {} s.cxl.ext ext.val
  if x.state = .releasing ∧ (s.reqs.all (fun e => decide (e.2.part ≠ x.part) || (reqRanges s e.2).all (fun a => !refOverlaps a.1 a.2 x.poff))) = true then
    .next (setExt s ext.val { x with state := .zeroing })
  else .next s

/-- `EXTENT_ZEROED` (R381): the extent is free and its places return. -/
def execExtentZeroed (ext : Fin 512) (s : State) : Res :=
  if (tget {} s.cxl.ext ext.val).state = .zeroing then .next (setExt (zeroExt s ext.val) ext.val {}) else .next s

/-! ### The memory device mailbox (R369, R370, R381, R387, R535)

Return codes and payload forms are those of the CXL standard (PRESUMED, log entry 73). -/

def mbOk : Nat := 0
def mbInvalid : Nat := 2
def mbUnsupported : Nat := 3
def mbBusy : Nat := 6
def mbBadHandle : Nat := 0x0E
def mbBadAddress : Nat := 0x0F

/-- The mailbox answers a command. -/
def mbReply (s : State) (code ret : Nat) (b : List Byte) : State := emit s (.mailbox code ret b)

/-- The mailbox is reached: the link runs, and R386 does not refuse CXL.io. -/
def mailboxIo (code : Nat) (s : State) (r : Res) : Res :=
  if !hostReach s then .next s else if ideHold s then .next (emit s (.unsupported code)) else r

/-- A command of the mailbox: Unsupported where Dynamic Capacity is absent, Busy while the ringmaster cannot take it, and otherwise `k`. -/
def mailbox (code : Nat) (dc : Bool) (s : State) (k : State → State) : Res :=
  mailboxIo code s <|
    if dc && !s.chip.dcCap then .next (mbReply s code mbUnsupported [])
    else
      match rmGate s 1 with
      | (some _, s1) => .next (mbReply s1 code mbBusy [])
      | (none, s) => .next (k s)

/-- The extent that a start address and a length name. -/
def extNamed (a : Nat × Nat) : Option Nat := if a.1 % 2 ^ 30 = 0 ∧ a.2 = 2 ^ 30 ∧ a.1 < 2 ^ 39 then some (a.1 / 2 ^ 30) else none

/-- The extents that a list names, if it names only extents in a state. -/
def extsNamed (s : State) (st : ExtState) (l : List (Nat × Nat)) : Option (List Nat) :=
  let es := l.filterMap extNamed
  if es.length = l.length ∧ (es.all (fun e => decide ((tget {} s.cxl.ext e).state = st))) = true then some es else none

/-- `ADD_DYNAMIC_CAPACITY_RESPONSE` (R381): the extents named are accepted; an empty list declines the earliest offer. -/
def execAddDynamicCapacityResponse (exts : List (Nat × Nat)) (s : State) : Res :=
  mailbox 0x4802 true s (fun s =>
    match exts, extsNamed s .offered exts with
    | [], _ =>
      let off := s.cxl.ext.filter (fun e => decide (e.2.state = .offered))
      match off.foldl (fun (b : Option (Nat × Extent)) e => match b with | some x => if e.2.order < x.2.order then some e else b | none => some e) none with
      | some (e, x) => mbReply (setExt s e { x with state := .alloc }) 0x4802 mbOk []
      | none => mbReply s 0x4802 mbOk []
    | _, none => mbReply s 0x4802 mbBadAddress []
    | _, some es => mbReply (es.foldl (fun s e => setExt s e { tget {} s.cxl.ext e with state := .accepted }) s) 0x4802 mbOk [])

/-- `RELEASE_DYNAMIC_CAPACITY` (R381): the host gives extents back; it caches no line of them any more. -/
def execReleaseDynamicCapacity (exts : List (Nat × Nat)) (s : State) : Res :=
  mailbox 0x4803 true s (fun s =>
    match extsNamed s .accepted exts with
    | none => mbReply s 0x4803 mbBadAddress []
    | some es =>
      let s1 := es.foldl (fun s e =>
        let x := tget {} s.cxl.ext e
        setExt s e { x with state := if x.relReq then .releasing else .alloc, relReq := false }) s
      let s2 := { s1 with cxl := { s1.cxl with filter := s1.cxl.filter.map (fun f => f.filter (fun l => !es.contains (l / 2 ^ 24))) } }
      mbReply s2 0x4803 mbOk [])

/-- `IDENTIFY_MEMORY_DEVICE` (R369): the values are open. -/
def execIdentifyMemoryDevice (s : State) : Res :=
  mailbox 0x4000 false s (fun s => let (b, s1) := drawBytes s 69; mbReply s1 0x4000 mbOk b)

/-- `GET_DYNAMIC_CAPACITY_CONFIGURATION` (R369, R379): eight regions of 64 GiB with blocks of 1 GiB; each region's DSMAD handle is open. -/
def execGetDynamicCapacityConfiguration (s : State) : Res :=
  mailbox 0x4800 true s (fun s =>
    let (v, s1) := draw s
    let reg := fun r => leBytes 8 (r * 2 ^ 36) ++ leBytes 8 256 ++ leBytes 8 (2 ^ 36) ++ leBytes 8 (2 ^ 30) ++ leBytes 4 (bits v (32 * r) 32) ++ leBytes 4 0
    mbReply s1 0x4800 mbOk (leBytes 8 8 ++ (List.range 8).flatMap reg))

/-- An extent in the mailbox's form: start, length, and the tag, which holds the partition (R381). -/
def extBytes (e part : Nat) : List Byte :=
  leBytes 8 (e * 2 ^ 30) ++ leBytes 8 (2 ^ 30) ++ padTo (leBytes 1 part) 16 ++ leBytes 8 0

/-- `GET_DYNAMIC_CAPACITY_EXTENT_LIST` (R369): the accepted extents. -/
def execGetDynamicCapacityExtentList (s : State) : Res :=
  mailbox 0x4801 true s (fun s =>
    let l := s.cxl.ext.filter (fun e => decide (e.2.state = .accepted))
    mbReply s 0x4801 mbOk (leBytes 4 l.length ++ leBytes 4 l.length ++ leBytes 8 0 ++ l.flatMap (fun e => extBytes e.1 e.2.part)))

/-- `GET_EVENT_RECORDS` (R369): the records of a log; log 4 is that of Dynamic Capacity. -/
def execGetEventRecords (log : Nat) (s : State) : Res :=
  if log > 4 then mailboxIo 0x0100 s (.next (mbReply s 0x0100 mbInvalid []))
  else
    mailbox 0x0100 false s (fun s =>
      let l := if log = 4 then s.cxl.dcLog else []
      mbReply s 0x0100 mbOk (leBytes 2 l.length ++ l.flatMap (fun e =>
        leBytes 2 e.handle ++ leBytes 1 (if e.release then 1 else 0) ++ extBytes e.ext e.part)))

/-- `CLEAR_EVENT_RECORDS` (R369): the records named by their handles go. -/
def execClearEventRecords (log : Nat) (handles : List Nat) (s : State) : Res :=
  if log > 4 then mailboxIo 0x0101 s (.next (mbReply s 0x0101 mbInvalid []))
  else
    mailbox 0x0101 false s (fun s =>
      let l := if log = 4 then s.cxl.dcLog else []
      if handles.all (fun h => l.any (fun e => decide (e.handle = h))) then
        mbReply { s with cxl := { s.cxl with dcLog := s.cxl.dcLog.filter (fun e => !(decide (log = 4) && handles.contains e.handle)) } } 0x0101 mbOk []
      else mbReply s 0x0101 mbBadHandle [])

/-- `UNSUPPORTED_MAILBOX_COMMAND` (R370). -/
def execUnsupportedMailboxCommand (code : Nat) (s : State) : Res := mailboxIo code s (.next (mbReply s code mbUnsupported []))

end Sys2Proof.Machine
end

