-- ==== Sys2Proof/Machine/Fabric.lean ====
section
/-! DEFINITION. The package fabric and the island counters (R22-R24, R31). -/
namespace Sys2Proof.Machine

/-- The ends of each link, in the row order of R22 with the AD pairs ascending (R477): dies AD0-AD3 0-3, PD0 4, PD1 5,
SD 6. -/
def linkEnds : List (Nat × Nat) :=
  [(0, 1), (0, 2), (0, 3), (1, 2), (1, 3), (2, 3), (4, 0), (4, 1), (4, 2), (4, 3), (5, 0), (5, 1), (5, 2), (5, 3),
   (6, 0), (6, 1), (6, 2), (6, 3), (6, 4), (6, 5)]

/-- The link between two dies, if there is one. -/
def linkOf (a b : Nat) : Option Nat :=
  (List.range 20).find? (fun i => let e := linkEnds.getD i (7, 7); decide (e = (a, b)) || decide (e = (b, a)))

/-- Whether the direct link between two dies exists and works. -/
def linkUp (f : Fabric) (a b : Nat) : Bool :=
  match linkOf a b with
  | some l => !f.down.contains l
  | none => false

/-- The links of a route: direct, or through the die that carries it. -/
def routeLinks (src dst via : Nat) : List Nat := (linkOf src via).toList ++ (linkOf via dst).toList

/-- The links a route takes under R23 (`n` as in `Fabric`). -/
def defaultLinks (n src dst : Nat) : List Nat :=
  match linkOf src dst with
  | some l => [l]
  | none => routeLinks src dst (if n = 4 then 6 else n)

/-- Every route: ordered pairs of dies, those between PD0 and PD1 once for each `n`. -/
def allRoutes : List (Nat × Nat × Nat) :=
  (List.range 7).flatMap (fun s => (List.range 7).flatMap (fun d =>
    if s = d then [] else if (s = 4 ∧ d = 5) ∨ (s = 5 ∧ d = 4) then (List.range 5).map (fun n => (n, s, d)) else [(0, s, d)]))

/-- Key of a route in `Fabric`. -/
def routeKey (r : Nat × Nat × Nat) : Nat := 64 * r.1 + 8 * r.2.1 + r.2.2

/-- The links a route takes now. -/
def routeNow (f : Fabric) (r : Nat × Nat × Nat) : List Nat :=
  match tget? f.via (routeKey r) with
  | some v => routeLinks r.2.1 r.2.2 v
  | none => defaultLinks r.1 r.2.1 r.2.2

/-- The lowest-numbered attention die with working links to both ends (R24). -/
def detour (f : Fabric) (a b : Nat) : Option Nat :=
  (List.range 4).find? (fun m => decide (m ≠ a) && decide (m ≠ b) && linkUp f a m && linkUp f m b)

/-- A die with no working path to any other die (R24). -/
def isolated (f : Fabric) (d : Nat) : Bool := (List.range 7).all (fun o => !linkUp f d o)

/-- The links a route takes once its switch, if it waits for one, is done. -/
def routeNext (f : Fabric) (r : Nat × Nat × Nat) : List Nat :=
  match tget? f.switching (routeKey r) with
  | some v => routeLinks r.2.1 r.2.2 v
  | none => routeNow f r

/-- The fabric after a link is disabled: every route that takes it, or waits to switch to it, will switch to its detour (R24). -/
def disableLink (f : Fabric) (l : Nat) : Fabric :=
  let f' := { f with down := f.down ++ [l] }
  let hit := allRoutes.filter (fun r => (routeNext f r).contains l)
  { f' with switching := hit.foldl (fun t r =>
      match detour f' r.2.1 r.2.2 with
      | some v => tput t (routeKey r) v
      | none => tdel t (routeKey r)) f'.switching }

/-- A free choice among candidates (log entry 1). -/
def pick (s : State) (l : List Nat) (d : Nat) : Nat × State :=
  let (v, s') := draw s
  (l.getD (v % max l.length 1) d, s')

/-- `LINK_CRC_FAIL` (R24): the affected flits are replayed and the link is retrained. When retraining fails, the link is
disabled, event 0x21 is recorded and its routes are rerouted; an isolated die sends the device to `DUMP`. The island of
the event is one of the link's attention dies, or any where it has none, and its block is one of the two blocks of a die
fabric: the spec leaves the choice open (log entry 18). -/
def execLinkCrcFail (link : Fin 20) (retrained : Bool) (s : State) : Res :=
  if retrained ∨ s.fabric.down.contains link.val then .next s
  else
    let e := linkEnds.getD link.val (0, 1)
    let f := disableLink s.fabric link.val
    let s1 := { s with fabric := f }
    let ads := [e.1, e.2].filter (· < 4)
    let (die, s2) := pick s1 (if ads.isEmpty then [0, 1, 2, 3] else ads) 0
    let (blk, s3) := pick s2 [0x011, 0x012] 0x011
    if (List.range 7).any (isolated f) then
      .next (record s3 (0x10 + die) 3 blk die 0x21 (leBytes 1 link.val ++ [0xFF]))
    else
      match detour f e.1 e.2 with
      | some v => .next (record s3 (0x10 + die) 1 blk die 0x21 (leBytes 1 link.val ++ leBytes 1 v))
      | none =>
        let (b, s4) := draw s3
        .next (record s4 (0x10 + die) 1 blk die 0x21 (leBytes 1 link.val ++ leBytes 1 b))

/-- `REROUTE` (R24): every flit sent on the old path has been acknowledged or replayed, and the route switches to its new
path. -/
def execReroute (n : Fin 5) (src dst : Fin 7) (s : State) : Res :=
  let k := routeKey (n.val, src.val, dst.val)
  match tget? s.fabric.switching k with
  | some v => .next { s with fabric := { s.fabric with via := tput s.fabric.via k v, switching := tdel s.fabric.switching k } }
  | none => .next s

/-- `COUNTER_WRAP` (R31): the counter of an island passes from 2^48 - 1 to 0 and the recorder accepts event 0x25 from that
island. A wrap has no source page, so the block and number of the record are free (log entry 18). -/
def execCounterWrap (island : Fin 175) (s : State) : Res :=
  if s.time.ctr.getD island.val 0 = 2 ^ 48 - 1 then
    let w := s.time.wraps.getD island.val 0 + 1
    let s1 := { s with time := { s.time with
      ctr := modAt (fun _ => 0) island.val s.time.ctr, wraps := modAt (fun _ => w) island.val s.time.wraps } }
    let (blk, s2) := draw s1
    let (inst, s3) := draw s2
    .next (record s3 (islandId island.val) 0 (blk % 4096) (inst % 256) 0x25 (leBytes 1 w))
  else .next s

end Sys2Proof.Machine
end

