-- ==== Sys2Proof/Machine/Search.lean ====
section
/-! DEFINITION. Vector search (10_vector_search.md). -/
namespace Sys2Proof.Machine

/-! ### Index data -/

/-- Format code of the stored vectors (R36) and stored bytes per element. -/
def vecElem (v : VIndex) : Nat := if v.fmt = 3 then 1 else 2

/-- Stored size of a record and slots per unit (R288). -/
def recordSize (v : VIndex) : Nat := 64 * ceilDiv (40 + 16 * ceilDiv (24 + v.dims * vecElem v + 4) 16) 64
def slotsPer (v : VIndex) : Nat := 32768 / recordSize v

/-- The vector of an item as `F32` values. -/
def itemVec (v : VIndex) (it : Item) : List F32 := decRecord v.fmt v.dims [] (it.vec.map (fun b => BitVec.ofNat 8 b))

def centroid (v : VIndex) (l : Nat) : List F32 :=
  ((v.cents.drop (l * v.dims)).take v.dims).map (fun x => ofBf16 (BitVec.ofNat 16 x))

/-- Entry `c` of sub-codebook `m`. -/
def subEntry (v : VIndex) (m c : Nat) : List F32 :=
  let w := v.dims / v.m
  ((v.subs.drop ((m * 256 + c) * w)).take w).map (fun x => ofBf16 (BitVec.ofNat 16 x))

/-- Inner product, or squared distance, of two vectors; the additions of each kind of score follow an order of their own (R56,
R297). -/
def metricScore (metric path : Nat) (a b : List F32) : F32 :=
  if metric = 0 then pathSum fadd path ((a.zip b).map (fun e => fmul e.1 e.2))
  else pathSum fadd path ((a.zip b).map (fun e => let x := fsub e.1 e.2; fmul x x))

/-- One score is better than another under a metric. -/
def better (metric : Nat) (x y : F32) : Bool := if metric = 0 then flt y x else flt x y

/-- The order of scored things: better first, ties by a lower key. -/
def scoreBefore (metric : Nat) (a b : F32 × Nat) : Bool :=
  better metric a.1 b.1 || (!better metric b.1 a.1 && decide (a.2 < b.2))

/-- The list of a vector (R291). -/
def bestLists (v : VIndex) (x : List F32) (n : Nat) : List Nat :=
  ((sortBy (scoreBefore v.metric) ((List.range v.nlist).map (fun l => (metricScore v.metric 7 x (centroid v l), l)))).take n).map (·.2)

/-- The codes of a vector (R291). -/
def pqCodes (v : VIndex) (x : List F32) : List Nat :=
  let w := v.dims / v.m
  (List.range v.m).map (fun m =>
    let sub := (x.drop (m * w)).take w
    ((sortBy (scoreBefore 1) ((List.range 256).map (fun c => (metricScore 1 8 sub (subEntry v m c), c)))).headD (0, 0)).2)

/-- The index that a handle names, with its key. -/
def indexOf (s : State) (p h : Nat) : Nat × VIndex := let k := 65536 * p + h; (k, tget {} s.vidx k)

/-- A request works on an index. -/
def onIndex (r : Req) (k : Nat) : Bool := decide (65536 * r.part + le r.desc 0x0C 2 = k)

/-- The older versions of an index that searches still use, each once (R304). -/
def oldVersions (s : State) (k : Nat) : List VIndex :=
  (s.reqs.filterMap (fun e => if onIndex e.2 k then e.2.srch.bind Srch.old else none)).eraseDups

/-- Slots that older versions of an index hold: they are freed with them (DEDUCED, log entry 160). -/
def oldSlots (s : State) (k : Nat) : List Nat := (oldVersions s k).flatMap (fun v => v.items.map (·.loc))

/-- The number of a slot's vector unit within the index, and the units that items and older versions hold (R288). -/
def unitOf (v : VIndex) (loc : Nat) : Nat := loc / max 1 (slotsPer v)
def unitsHeld (s : State) (k : Nat) (v : VIndex) : List Nat := ((v.items.map (·.loc) ++ oldSlots s k).map (unitOf v)).eraseDups

/-- Charge of the entries that a merge in progress has built (R304). -/
def buildCharge (v : VIndex) (b : Nat) (lists : Option Nat) : Nat :=
  listEntry v * (v.items.filter (fun i => decide (i.seq ≤ b) && !i.lost && (match lists with | some l => decide (i.list = l) | none => true) &&
    (match i.del with | some d => decide (d > b) | none => true))).length

/-- Charge of what is being built. -/
def nowBuilding (v : VIndex) : Nat := match v.building with | some x => buildCharge v x.b x.lists | none => 0

/-- A logical unit for a vector unit that has none yet (R288). -/
def nameUnit (v : VIndex) (acc : Tab Nat × State) (u : Nat) : Tab Nat × State :=
  match tget? v.lunits u with
  | some n => (tput acc.1 u n, acc.2)
  | none => (tput acc.1 u acc.2.cab.nextUnit, { acc.2 with cab := { acc.2.cab with nextUnit := acc.2.cab.nextUnit + 1 } })

/-- An index written back: its charge, that of what a merge builds and of older versions still in use (R304), and its vector units; records whose slot is
free leave the cabinet, and so does a unit without occupied slots (R288). -/
def putIndex (s : State) (k : Nat) (v : VIndex) : State :=
  let slots := v.items.map (·.loc) ++ oldSlots s k
  let us := unitsHeld s k v
  let s1 := (recordsOf s k).foldl (fun s n => if slots.contains (n % 2 ^ 32) then s else dropUnit s n) s
  let (names, s2) := us.foldl (nameUnit v) ([], s1)
  { s2 with vidx := tput s2.vidx k { v with
      charge := indexCharge v + nowBuilding v + ((oldVersions s k).map indexEntries).sum, vunits := us.length, lunits := names } }

/-- The stored record of an item is written through write staging (R252, R291). -/
def stageRecord (k : Nat) (s : State) (it : Item) : State :=
  match tget? s.vidx k with
  | none => s
  | some v => stageUnit s (vecUnit k it.loc)
      { part := v.part, vslot := some (tget 0 v.lunits (unitOf v it.loc), it.loc % max 1 (slotsPer v), recordSize v) }

/-- The tables of an index are read: whether they can be had; and the lines of its ID map that map some items are read (R305). -/
def readTables (s : State) (k : Nat) : Bool × State :=
  let s1 := (readUse s (fun u => match u with | .tables i _ => decide (i = k) | _ => false)).2
  (!(tget {} s1.vidx k).tblBad, s1)
def readIds (s : State) (k : Nat) (ids : List Nat) : State :=
  (readUse s (fun u => match u with | .ids i l _ => decide (i = k) && l.any ids.contains | _ => false)).2

/-- The item that the ID map names for an ID. -/
def mapped (v : VIndex) (id : Nat) : Option Item := v.items.find? (fun i => decide (i.id = id) && decide (i.del = none) && !i.lost)

/-- A delete of an ID at a number: the bench entry is marked, or a tombstone added. -/
def deleteItem (v : VIndex) (id n : Nat) : VIndex :=
  match mapped v id with
  | none => v
  | some x => { v with items := v.items.map (fun i => if i = x then { i with del := some n } else i) }

/-- An operation with numbers up to `v.seq` has completed: they are visible. -/
def passNumbers (v : VIndex) : VIndex := { v with vis := v.seq, statDue := v.statDue || decide (v.statRef ≠ 0) }

/-! ### VINSERT (R290-R292) -/

/-- An item made from its record: encoded, assigned and coded, with the slot and the number it takes. -/
def makeItem (v : VIndex) (fmt : Nat) (b : List Byte) (slot n : Nat) : Item :=
  let x := srcElems fmt v.dims (b.drop 32)
  let enc := (encRecord v.fmt [] x).1
  let y := decRecord v.fmt v.dims [] enc
  { id := le b 0 8, attr := (List.range 4).map (fun i => le b (8 + 4 * i) 4), vec := enc.map (·.toNat), loc := slot, seq := n,
    code := pqCodes v y, list := (bestLists v y 1).headD 0 }

/-- The items of a source go into the bench in order, each with a free slot; `held` are slots that are not free beside those of the items. -/
def insertItems (v : VIndex) (held : List Nat) (fmt first : Nat) : List (List Byte) → Nat → VIndex
  | [], _ => v
  | b :: l, i =>
    let slot := (lowestFree (v.items.map (·.loc) ++ held) (2 ^ 32)).getD 0
    let it := makeItem v fmt b slot (first + i)
    let v1 := deleteItem v it.id (first + i)
    insertItems { v1 with items := v1.items ++ [it] } held fmt first l (i + 1)

/-- A `VINSERT` that fails once it is accepted: its numbers are passed over, and it carries the first of them (R292). -/
def vinsertFail (s : State) (id : Nat) (r : Req) (k n : Nat) (f : Fail) : State :=
  let v := tget {} s.vidx k
  let first := v.seq + 1
  failReq { s with vidx := tput s.vidx k (passNumbers { v with seq := v.seq + n }) } id r
    { f with i0 := first % 2 ^ 32, i1 := first / 2 ^ 32 % 2 ^ 32 }

/-- The items of a `VINSERT` whose source and tables have been read are inserted. -/
def vinsertItems (s : State) (id : Nat) (r : Req) (k fmt : Nat) (recs : List (List Byte)) : State :=
  let v := tget {} s.vidx k
  let n := recs.length
  let first := v.seq + 1
  if !s.chip.cabCap then vinsertFail s id r k n { status := stFull, detail := 0x06 }
  else if s.cab.readOnly then vinsertFail s id r k n { status := stFull, detail := 0x07 }
  else
    let new := passNumbers (insertItems { v with seq := v.seq + n } (oldSlots s k) fmt first recs 0)
    match takeCharge s r.part (indexCharge new - indexCharge v) none with
    | (false, s1) => vinsertFail s1 id r k n { status := stFull, detail := 0x01 }
    | (true, s1) =>
      match takeShare s1 r.part ((unitsHeld s1 k new).length - (unitsHeld s1 k v).length) none with
      | (false, s2) => vinsertFail s2 id r k n { status := stFull, detail := 0x06 }
      | (true, s2) =>
        let s3 := (new.items.filter (fun i => decide (i.seq ≥ first))).foldl (stageRecord k) (putIndex s2 k new)
        complete s3 id r stOk 0 (first % 2 ^ 32) (first / 2 ^ 32 % 2 ^ 32) 0 0

/-- Step 10 and effect of `VINSERT`. -/
def doVinsert (s : State) (id : Nat) (r : Req) : State :=
  let d := r.desc
  let n := le d 0x0E 2
  let fmt := bits (le d 0x18 1) 0 2
  let (k, v) := indexOf s r.part (le d 0x0C 2)
  let size := itemBytes v fmt
  if n = 0 ∨ n > 4096 then failReq s id r { status := stBadDescriptor, detail := 0x0E }
  else
    match refFail s r.part d 0x10 (n * size) with
    | some f => failReq s id r f
    | none =>
      match refRead s r.part (le d 0x10 8) (n * size) with
      | (none, s1) => vinsertFail s1 id r k n { status := stIntegrity }
      | (some b, s1) =>
        let r1 := { r with cap := r.cap.map (fun c => { c with input := b }) }
        let recs := (List.range n).map (fun i => bslice b (i * size) size)
        if !recs.all (fun x => (srcElems fmt v.dims (x.drop 32)).all srcOk) then
          vinsertFail s1 id r1 k n { status := stBadDescriptor, detail := 0x10 }
        else
          match readTables (readIds s1 k (recs.map (fun x => le x 0 8))) k with
          | (false, s2) => vinsertFail s2 id r1 k n { status := stIntegrity }
          | (true, s2) => vinsertItems s2 id r1 k fmt recs

/-- `VINSERT` (R291). -/
def execVinsert (ring : Fin 4096) (s : State) : Res := .next (admitOp s ring.val 0x11 doVinsert)

/-! ### VDELETE (R293) -/

/-- The IDs of a `VDELETE` are deleted in order. -/
def deleteAll (v : VIndex) (first : Nat) : List Nat → Nat → VIndex
  | [], _ => v
  | x :: l, i =>
    let v1 := if (mapped v x).isSome then deleteItem v x (first + i) else { v with delMiss := sat 32 (v.delMiss + 1) }
    deleteAll v1 first l (i + 1)

/-- Step 10 and effect of `VDELETE`. -/
def doVdelete (s : State) (id : Nat) (r : Req) : State :=
  let d := r.desc
  let n := le d 0x0E 2
  let (k, _) := indexOf s r.part (le d 0x0C 2)
  if n = 0 ∨ n > 4096 then failReq s id r { status := stBadDescriptor, detail := 0x0E }
  else
    match refFail s r.part d 0x10 (8 * n) with
    | some f => failReq s id r f
    | none =>
      let passed := fun (s : State) (k : Nat) => let v := tget {} s.vidx k; { s with vidx := tput s.vidx k (passNumbers { v with seq := v.seq + n }) }
      match refRead s r.part (le d 0x10 8) (8 * n) with
      | (none, s1) => failReq (passed s1 k) id r { status := stIntegrity }
      | (some b, s1) =>
        let r1 := { r with cap := r.cap.map (fun c => { c with input := b }) }
        let ids := (List.range n).map (fun i => le b (8 * i) 8)
        let s2 := readIds s1 k ids
        let v := tget {} s2.vidx k
        let new := passNumbers (deleteAll { v with seq := v.seq + n } (v.seq + 1) ids 0)
        match takeCharge s2 r.part (indexCharge new - indexCharge v) none with
        | (false, s3) => failReq (passed s3 k) id r1 { status := stFull, detail := 0x01 }
        | (true, s3) => complete (putIndex s3 k new) id r1 stOk 0 0 0 0 0

/-- `VDELETE` (R293). -/
def execVdelete (ring : Fin 4096) (s : State) : Res := .next (admitOp s ring.val 0x12 doVdelete)

/-! ### SEARCH (R294-R302) -/

/-- An item is seen at a snapshot (R294). -/
def seenAt (snap : Nat) (i : Item) : Bool :=
  decide (i.seq ≤ snap) && !i.lost && (match i.del with | some d => decide (d > snap) | none => true)

/-- The test of one filter operation (R299). -/
def filterTest (w farg : Nat) (attr : List Nat) : Bool :=
  let a := attr.getD (bits w 8 2) 0
  let imm := w / 2 ^ 32
  let t := match w % 256 with
    | 1 => decide (a = imm)
    | 2 => decide (a = farg % 2 ^ 32)
    | 3 => decide (a = farg / 2 ^ 32)
    | 4 => decide (a &&& imm ≠ 0)
    | 5 => decide (a &&& (farg % 2 ^ 32) ≠ 0)
    | 6 => decide (a ≤ imm)
    | 7 => decide (a ≥ imm)
    | _ => false
  if bit w 11 then !t else t

/-- The clauses of a filter program: some clause whose tests all hold. -/
def filterRun (farg : Nat) (attr : List Nat) : List Nat → Bool → Bool → Bool
  | [], cur, any => any || cur
  | w :: l, cur, any =>
    if bit w 10 then filterRun farg attr l (filterTest w farg attr) (any || cur) else filterRun farg attr l (cur && filterTest w farg attr) any

/-- A candidate passes a filter program; no program passes all. -/
def filterPass (prog : List Byte) (farg : Nat) (attr : List Nat) : Bool :=
  if prog.isEmpty then true
  else match (List.range (le prog 6 2)).map (fun i => le prog (64 + 8 * i) 8) with
    | [] => true
    | w :: l => filterRun farg attr l (filterTest w farg attr) false

/-- Membership of the `EXACT` sample (R301). -/
def sampled (v : VIndex) (i : Item) : Bool :=
  decide (Config.freeLocator i.loc * 0x9E3779B97F4A7C15 % 2 ^ 64 / 2 ^ 48 < v.sample)

/-- Approximate score of an item for a query. -/
def approxScore (v : VIndex) (q : List F32) (i : Item) : F32 :=
  let w := v.dims / v.m
  pathSum fadd 10 ((List.range v.m).map (fun m => metricScore v.metric 9 ((q.drop (m * w)).take w) (subEntry v m (i.code.getD m 0))))

/-- Candidates of a scan, the best `n` by approximate score, ties to the lower locator. -/
def scanBest (v : VIndex) (q : List F32) (its : List Item) (n : Nat) : List Item :=
  let l := its.map (fun i => ((approxScore v q i, Config.freeLocator i.loc), i))
  ((sortBy (fun a b => scoreBefore v.metric a.1 b.1) l).take n).map (·.2)

/-- Items that pass a filter, best first by exact score, ties to the lower ID. -/
def ranked (v : VIndex) (q : List F32) (prog : List Byte) (farg : Nat) (its : List Item) : List (F32 × Nat) :=
  sortBy (scoreBefore v.metric) ((its.filter (fun i => filterPass prog farg i.attr)).map (fun i => (metricScore v.metric 11 q (itemVec v i), i.id)))

/-- What a search comes to: results, approximate results, candidates re-ranked, removed by the filter, and dropped. -/
structure Found where
  widened : Bool := false
  res     : List (F32 × Nat) := []
  approx  : List (F32 × Nat) := []
  cands   : Nat := 0
  out     : Nat := 0
  dropped : Nat := 0
  short   : Bool := false
  overlap : Nat := 0

/-- Fields of a `SEARCH` (R118). -/
def srTopk (d : List Byte) : Nat := le d 0x0E 2
def srExact (d : List Byte) : Bool := bit (le d 0x1E 1) 3
def srWiden (d : List Byte) : Bool := bit (le d 0x1E 1) 2 && !srExact d

/-- The lists and the bench as a search scans them: the entries that it sees, under `EXACT` those of the sample (R294, R296, R301). -/
def scanned (v : VIndex) (r : Req) (x : Srch) : List Item :=
  v.items.filter (fun i => seenAt r.snap i && (!i.merged || x.lists.contains i.list) && (!srExact r.desc || sampled v i))

/-- Candidates of a search whose records have been read, ranked. -/
def rankedCands (v : VIndex) (r : Req) (x : Srch) : List (F32 × Nat) :=
  ranked v r.query r.sprog (le r.desc 0x2C 8) (v.items.filter (fun i => x.kept.contains i.loc && x.read.contains i.loc))

/-- The results of a search whose records have been read (R296, R300, R301). -/
def searchFound (v : VIndex) (r : Req) (x : Srch) : Found :=
  let d := r.desc
  let rk := rankedCands v r x
  let n := (x.kept.filter x.read.contains).length
  let base : Found := { widened := decide (x.step = .wideScan) || decide (x.step = .wideRank), cands := n, out := n - rk.length, dropped := x.dropped.length }
  if srExact d then
    let ex := (ranked v r.query r.sprog (le d 0x2C 8) (v.items.filter (fun i => x.read.contains i.loc))).take (srTopk d)
    let ap := rk.take (srTopk d)
    { base with res := ex, approx := ap, short := decide (ex.length < srTopk d) || decide (ap.length < srTopk d),
                overlap := (ex.filter (fun e => ap.any (fun a => decide (a.2 = e.2)))).length }
  else { base with res := rk.take (srTopk d), short := decide (rk.length < srTopk d) }

/-- One entry of a result block. -/
def resEntry (e : F32 × Nat) : List Byte := leBytes 8 e.2 ++ leBytes 4 e.1.toNat ++ leBytes 4 0

/-- Bytes of a result block. -/
def resultSize (d : List Byte) : Nat := up64 (64 + 16 * le d 0x0E 2 * (if bit (le d 0x1E 1) 3 then 2 else 1))

/-- The result block (R302). -/
def resultBlock (d : List Byte) (snap : Nat) (f : Found) : List Byte :=
  let exact := bit (le d 0x1E 1) 3
  let h := leBytes 4 0x53524356 ++ [1] ++ leBytes 1 (if f.short then 1 else 0) ++
    leBytes 1 ((if f.widened then 1 else 0) + (if exact then 2 else 0)) ++ [0] ++ leBytes 2 f.res.length ++ leBytes 2 f.approx.length ++
    leBytes 4 (dTag d) ++ leBytes 4 (dEpoch d) ++ leBytes 4 0 ++ leBytes 8 snap ++ leBytes 4 f.cands ++ leBytes 4 f.out ++
    leBytes 4 f.dropped ++ leBytes 2 f.overlap
  padTo (padTo h 64 ++ padTo (f.res.flatMap resEntry) (16 * le d 0x0E 2) ++ f.approx.flatMap resEntry) (resultSize d)

/-- The checks of R295 and the result's place, by ascending offset. -/
def searchFail (s : State) (r : Req) (v : VIndex) : Option Fail :=
  let d := r.desc
  let bad := fun (c : Bool) (off : Nat) => if c then some ({ status := stBadDescriptor, detail := off } : Fail) else none
  let topk := le d 0x0E 2
  let cand := le d 0x20 4
  [bad (decide (topk = 0) || decide (topk > 1024)) 0x0E, refFail s r.part d 0x10 (v.dims * srcSize (bits (le d 0x1E 1) 0 2)),
   bad (decide (le d 0x1C 2 > v.nlist)) 0x1C, bad (decide (cand > 16384) || (decide (cand ≠ 0) && decide (cand < topk))) 0x20,
   roffFail r 0x24 (resultSize d)].findSome? id

/-- The version of its index that a search uses (R304). -/
def searchIndex (s : State) (r : Req) (x : Srch) : VIndex := x.old.getD (indexOf s r.part (le r.desc 0x0C 2)).2

/-- A search has ended: the status record is due (R308), and an older version that no search uses any more is freed (R304). -/
def searchEnded (s : State) (r : Req) (x : Srch) : State :=
  let k := 65536 * r.part + le r.desc 0x0C 2
  match tget? s.vidx k with
  | none => s
  | some v =>
    let v1 := { v with statDue := v.statDue || decide (v.statRef ≠ 0) }
    if x.old.isSome then putIndex s k v1 else { s with vidx := tput s.vidx k v1 }

/-- A search ends with a failure. -/
def failSearch (s : State) (id : Nat) (r : Req) (x : Srch) (f : Fail) : State := searchEnded (failReq s id r f) r x

/-- A step of a search begins: its tasks are queued as runs of bucket 7 at the scheduler of `HOME` (R307). -/
def startStep (s : State) (id : Nat) (r : Req) (x : Srch) (step : SearchStep) (n : Nat) : State :=
  s.setReq id { r with runs := List.replicate n { sched := some x.home }, srch := some { x with step := step } }

/-- Tasks of a scan: at most 65,536 entries each (R307). -/
def scanTasks (v : VIndex) (x : Srch) : Nat :=
  max 1 (ceilDiv (v.items.filter (fun i => !i.merged || x.lists.contains i.list)).length 65536)

/-- The records have been read: the search is widened if it is short (R300), or ends with its results. -/
def endRank (s : State) (id : Nat) (r : Req) (x : Srch) : State :=
  let v := searchIndex s r x
  if srWiden r.desc ∧ x.step = .rank ∧ (rankedCands v r x).length < srTopk r.desc then startStep s id r x .wideScan (scanTasks v x)
  else
    let f := searchFound v r x
    let d := r.desc
    searchEnded (deliver s id r (if f.short then stShort else stOk) f.res.length f.cands 0 0 (le d 0x24 4) (le d 0x28 4) (resultBlock d r.snap f)) r x

/-- The re-rank begins, with at most 64 candidates a task (R307). -/
def startRank (s : State) (id : Nat) (r : Req) (x : Srch) (step : SearchStep) : State :=
  if x.todo.isEmpty then endRank s id r { x with step := step } else startStep s id r x step (ceilDiv x.todo.length 64)

/-- The scan has ended: the candidates are kept, and under `EXACT` every visible item of the sample is read as well (R296, R300, R301). -/
def endScan (s : State) (id : Nat) (r : Req) (x : Srch) : State :=
  let v := searchIndex s r x
  let wide := decide (x.step = .wideScan)
  let c := (scanBest v r.query (scanned v r x) (if wide then 4 * x.cand else x.cand)).map (·.loc)
  let new := c.filter (fun l => !x.kept.contains l)
  let smp := if srExact r.desc then (v.items.filter (fun i => seenAt r.snap i && sampled v i)).map (·.loc) else []
  startRank s id r { x with kept := x.kept ++ new, todo := (new ++ smp).eraseDups } (if wide then .wideRank else .rank)

/-- The coarse scan has ended: the lists are chosen (R296). -/
def endCoarse (s : State) (id : Nat) (r : Req) (x : Srch) : State :=
  let v := searchIndex s r x
  let x1 := { x with lists := bestLists v r.query x.np }
  startStep s id r x1 .scan (scanTasks v x1)

/-- A record is read for a re-rank. One that cannot be read drops its candidate and marks its item lost (R305). -/
def readRecord (k : Nat) (acc : Srch × State) (loc : Nat) : Srch × State :=
  let s1 := countRead acc.2 (vecUnit k loc)
  let live := tget {} s1.vidx k
  let bad := (tget? s1.cab.units (vecUnit k loc)).isNone || (acc.1.old.getD live).items.any (fun i => decide (i.loc = loc) && i.failing)
  if bad then
    ({ acc.1 with dropped := acc.1.dropped ++ [loc] },
     { s1 with vidx := tput s1.vidx k { live with items := live.items.map (fun i => if i.loc = loc then { i with lost := true, failing := false } else i) } })
  else ({ acc.1 with read := acc.1.read ++ [loc] }, s1)

/-- The next step of a search once its last task has run; until then the request waits. -/
def endTask (s : State) (id : Nat) (r : Req) (x : Srch) : State :=
  if r.runs.any (fun t => decide (t.phase = .queued)) then s.setReq id { r with srch := some x }
  else match x.step with
    | .coarse => endCoarse s id r x
    | .scan | .wideScan => endScan s id r x
    | .rank | .wideRank => endRank s id r x

/-- A task of a search runs on a tile: it reads the tables, the lists and the bench, or the records of up to 64 candidates (R296, R305, R307). It is over
within the command that dispatches it (DESIGN CHOICE, log entry 130). -/
def runTask (s : State) (id : Nat) (r : Req) (x0 : Srch) (run tile : Nat) : State :=
  let k := 65536 * r.part + le r.desc 0x0C 2
  let s0 := passTurn { s with tileTag := tput s.tileTag tile 7 } r.part x0.home 7 r.urgent
  let x := { x0 with tiles := if x0.tiles.contains tile then x0.tiles else x0.tiles ++ [tile] }
  let r1 := { r with runs := modAt (fun t => { t with phase := .done, handed := true, tile := tile }) run r.runs }
  match x.step with
  | .coarse =>
    match readTables s0 k with
    | (true, s1) => endTask s1 id r1 x
    | (false, s1) => failSearch s1 id r1 x { status := stIntegrity }
  | .scan | .wideScan =>
    let s1 := (readUse s0 (fun u => match u with
      | .list i l => decide (i = k) && x.lists.contains l
      | .bench i => decide (i = k)
      | _ => false)).2
    let v := searchIndex s1 r x
    if v.benchBad || x.lists.any v.listBad.contains then failSearch s1 id r1 x { status := stIntegrity } else endTask s1 id r1 x
  | .rank | .wideRank =>
    let (x1, s1) := ((x.todo.drop (64 * run)).take 64).foldl (readRecord k) (x, s0)
    endTask s1 id r1 x1

/-- A task of a search whose turn it is goes to a tile of `HOME` (R124, R142, R307). -/
def dispatchTask (s : State) (id : Nat) (r : Req) (x : Srch) (run tile : Nat) : State :=
  match r.runs[run]? with
  | none => s
  | some t => if t.phase ≠ .queued ∨ !hasTurn s id r x.home ∨ !taskOk s id r x tile then s else runTask s id r x run tile

/-- `RUN_DISPATCH` (R142, R147, R307): a run whose turn it is goes to a tile, which of those equally preferred the command says (log entry 39). A command
that names no tile meets an uncorrectable error of the scheduler's request state or of its copy of the query, with which the request ends (R284). -/
def execRunDispatch (req run : Nat) (tile : Option (Fin 192)) (s : State) : Res :=
  if noService s then .next s else
  match tget? s.reqs req with
  | none => .next s
  | some r =>
    match r.srch, tile with
    | some x, some t => .next (dispatchTask s req r x run t.val)
    | some x, none => .next (failSearch s req r x { status := stIntegrity })
    | none, some t => .next (dispatchRun s req r run t.val)
    | none, none => .next (if dOpcode r.desc = 0x01 then endAttend s req r { status := stIntegrity } else s)

/-- Step 10 of `SEARCH`: the query is copied, the snapshot taken, and the coarse scan queued, whose tasks take 65,536 centroids each (R295, R307; log entry
130). -/
def doSearch (s : State) (id : Nat) (r : Req) : State :=
  let d := r.desc
  let (_, v) := indexOf s r.part (le d 0x0C 2)
  match searchFail s r v with
  | some f => failReq s id r f
  | none =>
    let fmt := bits (le d 0x1E 1) 0 2
    match refRead s r.part (le d 0x10 8) (v.dims * srcSize fmt) with
    | (none, s1) => failReq s1 id r { status := stIntegrity }
    | (some b, s1) =>
      let q := srcElems fmt v.dims b
      if !q.all srcOk then failReq s1 id r { status := stBadDescriptor, detail := 0x10 }
      else
        let x : Srch := { home := v.home, np := if le d 0x1C 2 = 0 then v.nprobe else le d 0x1C 2,
                          cand := if le d 0x20 4 = 0 then v.cand else le d 0x20 4 }
        let r1 := { r with snap := if r.replay then le r.entry 0x18 8 else v.vis, query := q, bucket := some 7, since := s1.time.ns,
                           cap := r.cap.map (fun c => { c with input := b }) }
        if v.tblBad || v.benchBad then failSearch s1 id r1 x { status := stIntegrity }
        else startStep s1 id r1 x .coarse (ceilDiv v.nlist 65536)

/-- `SEARCH` (R296). -/
def execSearch (ring : Fin 4096) (s : State) : Res := .next (admitOp s ring.val 0x10 doSearch)

/-! ### VMERGE (R303, R304) -/

/-- A merge starts: it takes B and the charge of the new versions. One that cannot take it ends, with its status record due (R304, R308). -/
def startMerge (s : State) (id : Nat) (r : Req) : State :=
  let (k, v) := indexOf s r.part (le r.desc 0x0C 2)
  let lists := if le r.desc 0x10 4 = 0xFFFFFFFF then none else some (le r.desc 0x10 4)
  let v1 := { v with building := some { req := id, b := v.vis, lists := lists } }
  match takeCharge s r.part (nowBuilding v1) none with
  | (false, s1) => failReq { s1 with vidx := tput s1.vidx k { v with statDue := v.statDue || decide (v.statRef ≠ 0) } } id r { status := stFull, detail := 0x01 }
  | (true, s1) => putIndex (s1.setReq id r) k v1

/-- Step 10 and effect of `VMERGE`. One that meets another on its index waits for it. -/
def doVmerge (s : State) (id : Nat) (r : Req) : State :=
  let (_, v) := indexOf s r.part (le r.desc 0x0C 2)
  let l := le r.desc 0x10 4
  if l ≥ v.nlist ∧ l ≠ 0xFFFFFFFF then failReq s id r { status := stBadDescriptor, detail := 0x10 }
  else if v.building.isSome then s.setReq id r
  else startMerge s id r

/-- `VMERGE` (R303). -/
def execVmerge (ring : Fin 4096) (s : State) : Res := .next (admitOp s ring.val 0x13 doVmerge)

/-- The merges that wait on an index: the first of them that can take its charge starts. -/
def nextMerge (s : State) (p h : Nat) : State :=
  (s.reqs.filter (fun e => decide (dOpcode e.2.desc = 0x13) && onIndex e.2 (65536 * p + h))).foldl (fun s e =>
    if (tget {} s.vidx (65536 * p + h)).building.isSome then s else startMerge s e.1 e.2) s

/-- The items of an index after a merge with B over some lists: covered ones go, bench items up to B are merged, lost ones are removed
and counted. -/
def mergedItems (v : VIndex) (b : Nat) (lists : Option Nat) : VIndex :=
  let named := fun (i : Item) => match lists with | some l => decide (i.list = l) | none => true
  let covered := fun (i : Item) => match i.del with | some d => decide (d ≤ b) | none => false
  let gone := fun (i : Item) => named i && (covered i || (i.lost && decide (i.seq ≤ b)))
  { v with
    lostItems := sat 32 (v.lostItems + (v.items.filter (fun i => named i && i.lost && decide (i.seq ≤ b) && !covered i)).length)
    items := (v.items.filter (fun i => !gone i)).map (fun i => if named i ∧ i.seq ≤ b then { i with merged := true } else i)
    listBad := v.listBad.filter (fun l => match lists with | some x => decide (l ≠ x) | none => false)
    benchBad := v.benchBad && lists.isSome
    building := none
    lastMerge := b }

/-- An item whose list or bench entry is rebuilt by a merge, from the ID map and its stored record (R305). -/
def rebuilt (v : VIndex) (lists : Option Nat) (i : Item) : Bool :=
  (match lists with | some l => decide (i.list = l) | none => true) && (v.listBad.contains i.list || (v.benchBad && !i.merged))

/-- The stored records of damaged lists are read; an item whose record fails is lost (R305). -/
def repairItems (s : State) (k : Nat) (v : VIndex) (lists : Option Nat) : VIndex × State :=
  ({ v with items := v.items.map (fun i => if rebuilt v lists i ∧ i.failing = true then { i with lost := true, failing := false } else i) },
   (v.items.filter (rebuilt v lists)).foldl (fun s i => countRead s (vecUnit k i.loc)) s)

/-- The searches under way on an index keep the version that they were admitted to (R304). -/
def keepOld (s : State) (k : Nat) (v : VIndex) : State :=
  { s with reqs := s.reqs.map (fun e =>
      if onIndex e.2 k then (e.1, { e.2 with srch := e.2.srch.map (fun x => { x with old := some (x.old.getD v) }) }) else e) }

/-- `VMERGE_SWITCH` (R304): the new versions take over in one step, and the merge completes. -/
def execVmergeSwitch (part : Fin 32) (handle : Nat) (s : State) : Res :=
  let k := 65536 * part.val + handle
  match tget? s.vidx k with
  | none => .next s
  | some v =>
    match v.building with
    | none => .next s
    | some x =>
      if s.stw.rm ≠ .running then .next s
      else
        let (v1, s0) := repairItems (keepOld s k v) k v x.lists
        let s1 := putIndex s0 k (passNumbers { mergedItems v1 x.b x.lists with seq := v.seq })
        let s2 := match tget? s1.reqs x.req with
          | some r => complete s1 x.req r stOk 0 0 0 0 0
          | none => s1
        .next (nextMerge s2 part.val handle)

/-! ### The status record (R308) -/

/-- The status record. -/
def statusRecord (v : VIndex) : List Byte :=
  let bench := (v.items.filter (fun i => !i.merged)).length
  padTo (leBytes 8 v.vis ++ leBytes 8 (v.items.filter (seenAt v.vis)).length ++ leBytes 4 bench ++
    leBytes 4 (v.items.filter (fun i => i.merged && i.del.isSome)).length ++ leBytes 4 v.lostItems ++ leBytes 4 v.delMiss ++ leBytes 4 v.vunits ++
    leBytes 4 ((if bench ≥ v.benchHi then 1 else 0) + (if v.benchBad then 2 else 0) + (if v.listBad.isEmpty then 0 else 4)) ++
    leBytes 8 v.lastMerge) 64

/-- `STATUS_RECORD_WRITE` (R308): a record that is due is written. -/
def execStatusRecordWrite (part : Fin 32) (handle : Nat) (s : State) : Res :=
  let k := 65536 * part.val + handle
  match tget? s.vidx k with
  | none => .next s
  | some v =>
    if v.statDue then .next (refWrite { s with vidx := tput s.vidx k { v with statDue := false } } part.val v.statRef (statusRecord v))
    else .next s

end Sys2Proof.Machine
end

