-- ==== Sys2Proof/Machine/Blocks.lean ====
section
/-! DEFINITION. The bytes of stored blocks and stored records of the cabinet, and the check of their tags (R259-R262, R288). -/
namespace Sys2Proof.Machine

/-! ### CRC-32C (R260) -/

/-- Eight steps of the reflected form of the polynomial 0x1EDC6F41. -/
def crc32cBits : Nat → Nat → Nat
  | 0, c => c
  | n + 1, c => crc32cBits n (if c % 2 = 1 then (c / 2) ^^^ 0x82F63B78 else c / 2)

/-- The CRC-32C of some bytes. -/
def crc32c (b : List Byte) : Nat := (b.foldl (fun c x => crc32cBits 8 (c ^^^ x.toNat)) 0xFFFFFFFF) ^^^ 0xFFFFFFFF

/-! ### Blocks and records (R260, R288) -/

/-- A header of 32 bytes and a plaintext as they are stored: the body encrypted, with `tweak`, as one data unit, then the tag over header and ciphertext,
and zeros up to a size. The tag is taken as the first 48 bits of a 256-bit output without a customisation string (DESIGN CHOICE, log entry 149). -/
def sealedBytes (keys tweak size : Nat) (head plain : List Byte) : List Byte :=
  let c := xtsEncrypt (dataKey keys) tweak (plain.length / 16) plain
  padTo (head ++ c ++ (kmac128 (tagKey keys) (head ++ c) 32 "").take 6) size

/-- A plaintext with zeros up to a multiple of 16. -/
def pad16 (b : List Byte) : List Byte := padTo b (ceilDiv b.length 16 * 16)

/-- The payload of a unit's drawer, which stays as it was written for as long as the unit lives (R237). -/
def unitPayload (s : State) (u : CabUnit) : List Byte :=
  match (s.shelf? u.shelf).bind (fun sh => getDrawer sh u.series u.idx) with
  | some d => padTo d.data 32768
  | none => List.replicate 32768 0

/-- The payload as a block holds it: as it is, or coded (R261). -/
def codedPayload (s : State) (u : CabUnit) : List Byte :=
  let x := unitPayload s u
  if u.table = 0 then x else (List.range u.codeLen).map (Config.codedByte ((tget? s.cab.tables u.table).getD []) x)

/-- The stored block of a unit: the header of R73 and the payload, compressed, encrypted and tagged (R259, R260). -/
def drawerBlock (s : State) (n : Nat) (u : CabUnit) : List Byte :=
  let plain := pad16 (u.hdr ++ codedPayload s u ++ leBytes 4 (crc32c (u.hdr ++ unitPayload s u)))
  sealedBytes (keyBits s (some u.part)) (n + 2 ^ 64 * u.wseq) (unitBytes u)
    (leBytes 2 0xCB03 ++ [1] ++ leBytes 1 (if u.table = 0 then 1 else 0) ++ leBytes 1 u.table ++ leBytes 1 u.part ++ [0, 0] ++
      leBytes 4 plain.length ++ leBytes 4 u.codeLen ++ leBytes 8 n ++ leBytes 4 u.wseq ++ leBytes 4 0) plain

/-- The stored record of an item in a slot of a logical unit (R288). -/
def itemRecord (s : State) (v : VIndex) (it : Item) (u : CabUnit) (unit slot : Nat) : List Byte :=
  let body := leBytes 8 it.id ++ it.attr.flatMap (leBytes 4) ++ it.vec.map (BitVec.ofNat 8)
  let plain := pad16 (body ++ leBytes 4 (crc32c body))
  sealedBytes (keyBits s (some v.part)) (unit + 2 ^ 64 * (u.wseq + 2 ^ 32 * slot)) (recordSize v)
    (leBytes 2 0xCB0A ++ [1] ++ leBytes 1 v.fmt ++ leBytes 4 plain.length ++ leBytes 8 unit ++ leBytes 4 u.wseq ++ leBytes 2 slot ++
      List.replicate 10 0) plain

/-- What the cabinet stores under a number of its map. -/
def storedBlock (s : State) (n : Nat) (u : CabUnit) : List Byte :=
  match u.vslot with
  | none => drawerBlock s n u
  | some (unit, slot, _) =>
    match tget? s.vidx (n / 2 ^ 32 - 1) with
    | none => []
    | some v => match v.items.find? (fun i => decide (i.loc = n % 2 ^ 32)) with
      | some it => itemRecord s v it u unit slot
      | none => []

/-- Stored bytes as they are read, some of them changed. -/
def changedBytes (b : List Byte) (errs : List (Nat × Nat)) : List Byte := errs.foldl (fun b e => modAt (fun x => x ^^^ BitVec.ofNat 8 e.2) e.1 b) b

/-- Bytes read from the flash carry the tag that belongs to them (R262). Bytes that do are the ones written, so that their CRC-32C holds as well; that a
wrong tag matches, with a probability of 2^-48, is left out (DEDUCED, log entry 148). -/
def tagHolds (keys : Nat) (b : List Byte) : Bool :=
  let n := 32 + (if le b 0 2 = 0xCB03 then le b 8 4 else le b 4 4)
  decide (bslice b n 6 = (kmac128 (tagKey keys) (b.take n) 32 "").take 6)

/-- A read of a stored block, or record, passes. -/
def blockPasses (s : State) (n : Nat) (u : CabUnit) (errs : List (Nat × Nat)) : Bool :=
  tagHolds (keyBits s (some u.part)) (changedBytes (storedBlock s n u) errs)

end Sys2Proof.Machine
end

