-- ==== Sys2Proof/Machine/Flash.lean ====
section
/-! DEFINITION. The cabinet translation layer at work: garbage collection, wear levelling, read disturb, patrol, failed block reads and
compression tables (R248, R250-R262, R283). -/
namespace Sys2Proof.Machine

/-! ### Erase blocks -/

/-- Erase blocks of the cabinet (R250). -/
def allBlocks : Nat := 128 * 4096

/-- TLC erase blocks that are free. -/
def freeBlocks (s : State) : Nat := tlcBlocks - (s.cab.blocks.filter (fun e => isTlc e.1 && (e.2.prog || e.2.bad))).length

/-- Spare erase blocks left (log entry 9). -/
def spareBlocks (s : State) : Nat := 94767 - s.cab.badCount

/-- The sum of the erase counts of the TLC area. -/
def eraseSum (s : State) : Nat := (s.cab.blocks.map (fun e => e.2.erases)).sum

/-- The highest erase count less the lowest. -/
def eraseSpread (s : State) : Nat :=
  let mx := s.cab.blocks.foldl (fun m e => max m e.2.erases) 0
  let mn := if s.cab.blocks.length < tlcBlocks then 0 else s.cab.blocks.foldl (fun m e => min m e.2.erases) mx
  mx - mn

/-- What erase counts and free blocks bring about: `WEAR_80` and `WEAR_100` when the mean reaches them, and garbage collection in
class 2 while fewer than 1 % of the blocks are free (R248, R256). -/
def flashFlags (old : Nat) (s : State) : State :=
  let new := eraseSum s
  let s1 := { s with cab := { s.cab with gcUrgent := decide (freeBlocks s * 100 < allBlocks) } }
  let s2 := if old < 4000 * tlcBlocks ∧ new ≥ 4000 * tlcBlocks then raise s1 pgCab 1 [] else s1
  if old < 5000 * tlcBlocks ∧ new ≥ 5000 * tlcBlocks then raise s2 pgCab 2 [] else s2

/-- An erase block is erased. -/
def eraseBlock (s : State) (b : Nat) : State :=
  let e := eblock s b
  flashFlags (eraseSum s) (setEblock s b { e with erases := e.erases + 1, reads := 0, valid := 0, prog := false, failed := [] })

/-- An erase block enters the bad-block table (R256, R283): `SPARE_LOW` below 2 % of spare blocks, read-only below 0.5 %. -/
def markBad (s : State) (b : Nat) : State :=
  let old := spareBlocks s
  let s1 := setEblock s b { eblock s b with bad := true, prog := false, valid := 0 }
  let s2 := { s1 with cab := { s1.cab with badCount := if isTlc b then s1.cab.badCount + 1 else s1.cab.badCount } }
  let new := spareBlocks s2
  let low := fun n => decide (n * 100 < 2 * allBlocks)
  let out := fun n => decide (n * 1000 < 5 * allBlocks)
  let s3 := if low new && !low old then raise s2 pgCab 6 [] else s2
  if out new && !out old then raise { s3 with cab := { s3.cab with readOnly := true } } pgCab 0 [] else s3

/-- A unit is read and written anew. -/
def restage (s : State) (e : Nat × CabUnit) : State :=
  let s1 := countRead s e.1
  stageUnit { s1 with cab := { s1.cab with blocks := lessValid s1.cab.blocks e.2.pieces } } e.1 e.2

/-- The units of which an erase block, or one of its pages, holds some part are written anew; an open block is closed first. -/
def moveUnits (s : State) (b : Nat) (page : Option Nat) : State :=
  let s0 := if page.isNone ∧ s.cab.openB.contains b then { s with cab := { s.cab with openB := [] } } else s
  (s0.cab.units.filter (fun e => e.2.pieces.any (fun x => decide (x.1 = b) && (match page with | some p => decide (x.2.1 = p) | none => true)))).foldl
    restage s0

/-- Programmed TLC blocks that no stripe is being written into. -/
def closedBlocks (s : State) : List (Nat × EBlock) := s.cab.blocks.filter (fun e => e.2.prog && !s.cab.openB.contains e.1)

/-- The block of a list that is best by a measure, the first on a tie. -/
def leastBy (f : EBlock → Nat) (l : List (Nat × EBlock)) : Option Nat :=
  (l.foldl (fun (o : Option (Nat × EBlock)) e =>
    match o with
    | some x => if f e.2 < f x.2 then some e else o
    | none => some e) none).map (·.1)

/-! ### Garbage collection (R252) -/

/-- `GARBAGE_COLLECTION` (R252): an erase block without valid data is erased; where there is none, the oldest retained copy is
released; where there is none either, the erase block with the fewest valid bytes is cleared and erased. It is work of class 5, or 2 (R248). -/
def execGarbageCollection (s : State) : Res :=
  if !cabFree s (if s.cab.gcUrgent then 2 else 5) then .next s else
  let cl := closedBlocks s
  match cl.find? (fun e => decide (e.2.valid = 0)) with
  | some e => .next (eraseBlock s e.1)
  | none =>
    match (s.cab.units.filter (fun e => retainedBy s e.1 e.2)).foldl (fun (o : Option (Nat × CabUnit)) e =>
        match o with
        | some x => if e.2.wseq < x.2.wseq then some e else o
        | none => some e) none with
    | some e => .next (flashFlags (eraseSum s) (releaseRetained s e.1 e.2))
    | none =>
      match leastBy (fun e => e.valid) cl with
      | some b => .next (eraseBlock (moveUnits s b none) b)
      | none => .next s

/-- Work that the ringmaster schedules in class 3 may run (R248). -/
def class3Runs (s : State) : Bool := decide (s.stw.rm = .running) && !deferred s 3

/-- `STATIC_WEAR_LEVELLING` (R253): with a spread above 200 the contents of the least-erased programmed block move into the most worn
free block. -/
def execStaticWearLevelling (s : State) : Res :=
  if eraseSpread s ≤ 200 ∨ !class3Runs s ∨ !cabFree s 5 then .next s
  else
    match leastBy (fun e => e.erases) (closedBlocks s), leastBy (fun e => 2 ^ 64 - e.erases)
        (s.cab.blocks.filter (fun e => isTlc e.1 && !e.2.prog && !e.2.bad)) with
    | some b, some w =>
      let s1 := { s with cab := { s.cab with units := s.cab.units.map (fun e =>
        (e.1, { e.2 with pieces := e.2.pieces.map (fun x => if x.1 = b then (w, x.2) else x) })) } }
      let s2 := setEblock s1 w { eblock s1 w with prog := true, reads := 0, valid := (eblock s1 b).valid }
      .next (eraseBlock s2 b)
    | _, _ => .next s

/-- `READ_DISTURB_RELOCATION` (R254): work of class 2 (R248). -/
def execReadDisturbRelocation (block : Nat) (s : State) : Res :=
  let e := eblock s block
  if e.prog ∧ e.reads ≥ 50000 ∧ cabFree s 2 then .next (bump (eraseBlock (moveUnits s block none) block) (pgCab + 0x110) 0 16 1)
  else .next s

/-! ### Patrol (R255) -/

/-- Programmed TLC blocks. -/
def progBlocks (s : State) : List Nat := (s.cab.blocks.filter (fun e => e.2.prog)).map (·.1)

/-- Pages of a patrol pass: those of the programmed TLC blocks, then those of the SLC reserve (log entry 47). -/
def patrolPages (s : State) : Nat := 1024 * (progBlocks s).length + 4194304

/-- The pass goes on; at its end the days beyond 7 are counted. -/
def patrolNext (s : State) : State :=
  if s.cab.patrol + 1 < patrolPages s then { s with cab := { s.cab with patrol := s.cab.patrol + 1 } }
  else
    let now := stewardMs s
    let took := now - s.cab.patrolMs
    let late := (took - 604800000) / 86400000
    let s1 := wrf { s with cab := { s.cab with patrol := 0, patrolMs := now } } (pgCab + 0x114) 16 8 (sat 8 late)
    if took > 604800000 then raise s1 pgCab 3 [] else s1

/-- A read was rebuilt from parity. -/
def stripeRebuilt (s : State) : State := raise (bump s (pgCab + 0x118) 0 16 1) pgCab 5 []

/-- The erase block and the page of a number of the patrol pass: the pages of the SLC reserve, of 16 KiB, are spread over its 12,288 blocks, which hold a
third of what TLC blocks hold (R250; log entry 47). -/
def patrolPage (s : State) (n : Nat) : Nat × Nat :=
  match (progBlocks s)[n / 1024]? with
  | some b => (b, n % 1024)
  | none =>
    let q := 3 * (n - 1024 * (progBlocks s).length)
    (4096 * (q / 1024 % 128) + 4000 + q / 131072, q % 1024 / 3)

/-- The drawers in `CAB` whose unit the map has lost. -/
def unmapped (s : State) : List (Nat × Nat) :=
  s.dir.shelves.flatMap (fun e => e.2.drawers.filterMap (fun d => match d.loc with
    | .cab u => if (tget? s.cab.units u).isNone then some (e.1, u) else none
    | _ => none))

/-- Patrol reads a page: the block counts a read (R254), and drawers whose units the map has lost are found damaged (R273). Which page such a unit lay in
the map tells no longer, so the first page of a pass finds them (DESIGN CHOICE, log entry 150). -/
def patrolSees (s : State) (page : Nat × Nat) : State :=
  let s1 := if isTlc page.1 then setEblock s page.1 { eblock s page.1 with reads := (eblock s page.1).reads + 1 } else s
  if s.cab.patrol = 0 then (unmapped s).foldl (fun s e => damage s e.1 (.inr e.2)) s1 else s1

/-- `PATROL_READ` (R255): the next page is read; `corrected` is the corrected bits in per cent of the code's correcting power, `bad`
says that it could not be corrected. -/
def execPatrolRead (corrected : Nat) (bad : Bool) (s : State) : Res :=
  if !class3Runs s || !s.cab.mounted || !cabFree s 6 then .next s
  else
    let n := s.cab.patrol
    let page := patrolPage s n
    let s0 := patrolSees s page
    let s1 := if bad then stripeRebuilt s0 else s0
    if bad || decide (corrected > 75) then
      let s3 := moveUnits (bump s1 (pgCab + 0x110) 16 16 1) page.1 (some page.2)
      let e := eblock s3 page.1
      if !bad then .next (patrolNext s3)
      else if e.failed.contains page.2 then .next (patrolNext (markBad (moveUnits s3 page.1 none) page.1))
      else .next (patrolNext (setEblock s3 page.1 { e with failed := e.failed ++ [page.2] }))
    else .next (patrolNext s1)

/-! ### Failed block reads (R262, R283) -/

/-- The dispatched runs that read a drawer from the cabinet: request and tile. -/
def coldReaders (s : State) (i series idx : Nat) : List (Nat × Nat) :=
  s.reqs.flatMap (fun e =>
    if e.2.shelf = some i then
      (e.2.runs.filter (fun x => inFlight x && x.coldLeft.contains (series, idx))).map (fun x => (e.1, x.tile))
    else [])

/-- A block has failed twice: a retained copy is released; a drawer in `CAB` ends the runs that read it and its lift, and is damaged. -/
def blockLost (s : State) (n : Nat) (u : CabUnit) : State :=
  let s1 := raise (bump s (pgCab + 0x118) 16 16 1) pgCab 4 []
  if retainedBy s1 n u then releaseRetained s1 n u
  else
    let s2 := (coldReaders s1 u.shelf u.series u.idx).foldl (fun s e =>
      match tget? s.reqs e.1 with
      | some r => runIntegrity s e.1 r u.shelf e.2 (.inr n)
      | none => s) s1
    let lifts := s2.tiers.lifts.filter (fun l => decide (l.shelf = u.shelf) && decide (l.series = u.series) && decide (l.idx = u.idx))
    damage (lifts.foldl liftSkipped s2) u.shelf (.inr n)

/-- The record of an item of an index can be read no longer. -/
def recordLost (s : State) (unit : Nat) : State :=
  failRecord (raise (bump s (pgCab + 0x118) 16 16 1) pgCab 4 []) unit

/-- `BLOCK_READ_FAIL` (R262): a block or a record is read with some bytes changed, given by position and change. One that fails its tag is rebuilt from
parity and read again, with the changes that are left; one that fails again is lost. -/
def execBlockReadFail (unit : Nat) (errs : BlockErrs) (s : State) : Res :=
  match tget? s.cab.units unit with
  | none => .next s
  | some u =>
    if blockPasses s unit u errs.first then .next (countRead s unit)
    else
      let s1 := stripeRebuilt (countRead (countRead s unit) unit)
      .next (if blockPasses s unit u errs.second then s1 else if u.vslot.isSome then recordLost s1 unit else blockLost s1 unit u)

/-! ### Compression tables (R261) -/

/-- The result of a table command. -/
def tblResult (s : State) (r : Nat) : State := wrf s (pgCab + 0x134) 1 3 r

/-- The table in the window obeys R261. -/
def tblOk (b : List Byte) : Bool :=
  let n := le b 5 1
  decide (le b 0 4 = 0x54424346) && decide (le b 4 1 = 1) && [1, 2, 4].contains n && decide (le b 7 1 ≤ 1) && decide (le b 8 8 = 0) &&
  (List.range n).all (fun c => decide (((List.range 256).map (tblFreq b c)).sum = 4096))

/-- A table from the window is installed under an ID. -/
def tblInstall (s : State) (id : Nat) : State :=
  let b := mread s.cab.window 0 2304
  if !tblOk b then tblResult s 1
  else if (tget? s.cab.tables id).isSome then tblResult s 2
  else
    tblResult { s with cab := { s.cab with tables := tput s.cab.tables id b,
                                           active := tput s.cab.active (le b 6 1 + 256 * le b 7 1) id } } 0

/-- A table that no block names is retired. -/
def tblRetire (s : State) (id : Nat) : State :=
  if (tget? s.cab.tables id).isNone then tblResult s 4
  else if s.cab.units.any (fun e => decide (e.2.table = id)) then tblResult s 3
  else
    tblResult { s with cab := { s.cab with tables := tdel s.cab.tables id,
                                           active := s.cab.active.filter (fun e => decide (e.2 ≠ id)) } } 0

/-- A table command runs. ID 0 names no table: it is refused, with one of the codes of a refusal (log entry 124). -/
def tblRun (s : State) (c : Bool × Nat) : State :=
  if c.2 = 0 then let (v, s1) := draw s; tblResult s1 (1 + v % 4)
  else if c.1 then tblInstall s c.2 else tblRetire s c.2

/-- A table command, which waits while the ringmaster restarts (R263); a full queue or a ringmaster held in reset gives `RESULT` 1. -/
def tblCommand (s : State) (install : Bool) (id : Nat) : Res :=
  if id > 63 then .fault (.operand "table ID above 63")
  else if s.stw.rm = .restarting then .next { s with cab := { s.cab with tblWait := s.cab.tblWait ++ [(install, id)] } }
  else
    match rmGate s 1 with
    | (some _, s1) => .next (tblResult s1 1)
    | (none, s1) => .next (tblRun s1 (install, id))

/-- The table commands that waited for the ringmaster run. -/
def tblResume (s : State) : State := s.cab.tblWait.foldl tblRun { s with cab := { s.cab with tblWait := [] } }

/-- `CAB_TBL_INSTALL` (R261). -/
def execCabTblInstall (id : Nat) (s : State) : Res := hostWr s pgCab <| tblCommand s true id

/-- `CAB_TBL_RETIRE` (R261). -/
def execCabTblRetire (id : Nat) (s : State) : Res := hostWr s pgCab <| tblCommand s false id

end Sys2Proof.Machine
end

