-- ==== Sys2Proof/Machine/Protect.lean ====
section
/-! DEFINITION. Lines of HBM found in error, scrubbing, row repair, retirement of pseudo-channels, stack fences (R264-R282), and what is
cleared when a pseudo-channel passes on (R226). -/
namespace Sys2Proof.Machine

/-! ### CORRECTED_WRITEBACK (R274) and SCRUB_READ (R275) -/

/-- `CORRECTED_WRITEBACK` (R274): a corrected line that still waits is written back, once and whole. -/
def execCorrectedWriteback (stack : Fin 16) (line : Nat) (s : State) : Res :=
  let k := stack.val
  let h := s.hbmc k
  if h.fenced ∨ h.wb.contains line = false then .next s
  else .next (askLine (s.setHbm k (wroteLines h (fun l => decide (l = line)))) k line)

/-- A controller reads a line for its own ends: what it finds, and what that means for whatever the line holds (R269-R273). A free line that is poisoned is
written over with zeros (R271). -/
def meetLine (s : State) (k line : Nat) : LineOut × State :=
  let (o, s1) := readLine (askLine s k line) k line
  if o = .good ∨ o = .fixed then (o, s1)
  else match lineDrawer s k line with
    | some (i, _) => (o, damage s1 i (.inl (k, line)))
    | none =>
      if !lineKept s k line then (o, s1.setHbm k (wroteLines (s1.hbmc k) (fun l => decide (l = line))))
      else match tget? (s.hbmc k).uses line with
        | some u => (o, lostCopy s1 k line u)
        | none => (o, s1)

/-- The first line at or after one that lies in no retired pseudo-channel. -/
def scrubFrom (h : Hbm) (n : Nat) : Option Nat :=
  ((List.range 64).find? (fun pc => decide (n ≤ pc * linesPerPc + (linesPerPc - 1)) && !h.retired.contains pc)).map (fun pc => max n (pc * linesPerPc))

/-- The next line of the scrub, past retired pseudo-channels; at the end of a pass the counts of a scrub period begin again and a new
period takes effect. -/
def scrubNext (s : State) (k : Nat) : State :=
  let h := s.hbmc k
  match scrubFrom h (h.scrub + 1) with
  | some n => s.setHbm k { h with scrub := n }
  | none => s.setHbm k { h with scrub := (scrubFrom h 0).getD 0, rows := [], pcUnc := [], stUnc := 0, hours := rdf s (pgHbm k + 0x120) 0 8 }

/-! ### DAMAGED_SHELF_FREE (R271) -/

/-- Some run of a shelf is dispatched. -/
def shelfRunning (s : State) (i : Nat) : Bool :=
  s.reqs.any (fun e => decide (e.2.shelf = some i) && e.2.runs.any inFlight)

/-- `DAMAGED_SHELF_FREE` (R271): once the dispatched runs have finished, the storage of a damaged shelf is freed. -/
def execDamagedShelfFree (shelf : Nat) (s : State) : Res :=
  match s.shelf? shelf with
  | none => .next s
  | some sh =>
    if sh.state ≠ .lost ∨ !sh.damaged ∨ shelfRunning s shelf = true then .next s
    else
      let s1 := freeAll s shelf
      match s1.shelf? shelf with
      | some x => .next (s1.setShelf shelf { x with damaged := false })
      | none => .next s1

/-! ### ROW_REPAIR (R277-R279) -/

/-- The booth of a bank of a front stack. -/
def bankBooth (k bank : Nat) : Nat := boothNo k (pairBooth (bank / 64) (bank / 8 % 8))

/-- A bank can be held for a repair (R276): its booth is not in the middle of a step, so that it can be parked, and no refresh of its die is in
progress. -/
def bankFree (s : State) (k bank : Nat) : Bool :=
  if isFront k then
    let y := s.booth (bankBooth k bank)
    (!running y || y.atEnd) && decide (dieRefresh s (bankBooth k bank) ≠ some .issued)
  else true

/-- The booth of a bank parks for a repair and closes its row there, which it reopens before it issues again (R197, R216, R278). -/
def closeRow (s : State) (k bank : Nat) : State :=
  if isFront k then
    let b := bankBooth k bank
    let y := s.booth b
    if running y then
      bump (s.setBooth b { parkFor y (if y.park = .refresh then .refresh else .access) (fun r => decide (r % 8 = bank % 8)) with serviced := true })
        (pgBth k 0 + 0x114) 16 16 1
    else s
  else s

/-- One line of a row is copied into the spare row: read, corrected where it can be, and written whole. A line found poisoned or uncorrectable is written as
poisoned, with the `CAUSE` of a copy (R264, R278; DEDUCED, log entry 151). -/
def copyLine (s : State) (k line : Nat) : State :=
  let (o, s1) := meetLine s k line
  let h := s1.hbmc k
  if o = .good ∨ o = .fixed then s1.setHbm k (wroteLines h (fun l => decide (l = line)))
  else
    let s2 := if (tget? h.poison line).isSome then s1.setHbm k { h with poison := tput h.poison line 4 } else s1
    match tget? h.uses line with
    | some (.dev l) => if (tget? s2.devBad l).isSome then { s2 with devBad := tput s2.devBad l 4 } else s2
    | _ => s2

/-- The controller can record one repair more: of those that a ringmaster that does not run has not written it keeps 64 (R278). Where the store is full the
repair waits (DESIGN CHOICE, log entry 151). -/
def logRoom (s : State) (h : Hbm) : Bool := rmRuns s || decide (h.unwritten < 64)

/-- A row is repaired (R278): its 16 lines are copied, and the repair log keeps it; the last spare row of a bank raises `SPARE_LOW` (R279). -/
def repairRow (s : State) (k row : Nat) : State :=
  let bank := rowBank row
  let s0 := (List.range 16).foldl (fun s n => copyLine s k (16 * row + n)) (closeRow s k bank)
  let h := s0.hbmc k
  let h1 := { h with due := h.due.erase row, rows := h.rows.filter (fun e => decide (e.1 ≠ row)), log := h.log ++ [{ row := row, bank := bank }],
                     unwritten := if rmRuns s then h.unwritten else h.unwritten + 1 }
  let s1 := raise (bump (s0.setHbm k h1) (pgHbm k + 0x110) 0 16 1) (pgHbm k) 3 []
  if sparesUsed h1 bank = 4 then raise s1 (pgHbm k) 4 [] else s1

/-! ### Retirement (R280) -/

/-- Drawers that lie in a pseudo-channel, or move into it: shelf and drawer. -/
def drawersIn (s : State) (k pc : Nat) : List (Nat × Drawer) :=
  let here := fun (l : Loc) => match locPlace l with | some q => decide (q.stack = k) && decide (q.pc = pc) | none => false
  s.dir.shelves.flatMap (fun e =>
    (e.2.drawers.filter (fun d => here d.loc || (match d.moving with | some l => here l | none => false))).map (fun d => (e.1, d)))

/-- Where a drawer that leaves a pseudo-channel goes once there is share or room for it; a shelf discarded meanwhile moves nothing. -/
def outTo (s : State) (i : Nat) (d : Drawer) : State :=
  match s.shelf? i with
  | none => s
  | some sh =>
    if gone i d.series d.idx s then s
    else match findPlace s sh d.series d.idx with
      | some q => putDrawer s i { d with moving := some (moveLoc d.loc q) }
      | none => putDrawer s i { d with moving := some (.cab 0) }

/-- A drawer begins to move out of a pseudo-channel: to another place of its partition, or else to T2, which an open drawer never
enters. -/
def moveOut (s : State) (e : Nat × Drawer) : State :=
  match s.shelf? e.1 with
  | none => s
  | some sh =>
    match getDrawer sh e.2.series e.2.idx with
    | none => s
    | some d =>
      if d.moving ≠ none ∨ (locPlace d.loc).isNone then s
      else
        match findPlace s sh d.series d.idx with
        | some q => putDrawer s e.1 { d with moving := some (moveLoc d.loc q) }
        | none =>
          if isOpen sh d then s
          else match t2Ready s sh.key.part none (fun s => gone e.1 d.series d.idx s || roomFor e.1 d.series d.idx s) with
            | (none, s1) => outTo s1 e.1 d
            | (some _, s1) => s1

/-- Lifts that read into places of a kind are put back to the search for a place. -/
def backToRoom (s : State) (f : Place → Bool) : State :=
  { s with tiers := { s.tiers with lifts := s.tiers.lifts.map (fun l => match l.phase with
    | .reading q => if f q then { l with phase := .room } else l
    | _ => l) } }

/-- Lifts, and drawers, that lie in a pseudo-channel or move into it begin to leave it. -/
def leavePc (s : State) (k pc : Nat) : State :=
  let s1 := backToRoom s (fun q => decide (q.stack = k) && decide (q.pc = pc))
  (drawersIn s1 k pc).foldl moveOut s1

/-- `PC_RETIRE` (R280): a pseudo-channel whose command or address path fails is marked retiring, and its drawers begin to move out. One that a repair
without a spare row or its uncorrectable lines have marked (R279, R280) leaves with `PC_RETIRED`. -/
def execPcRetire (stack : Fin 16) (pc : Fin 64) (s : State) : Res :=
  let k := stack.val
  let h := s.hbmc k
  if h.retiring.contains pc.val || h.retired.contains pc.val || h.fenced then .next s
  else .next (leavePc (s.setHbm k (retireMark h pc.val)) k pc.val)

/-- What is cleared before a pseudo-channel passes on (R226, R431): jobs, booth state and feeder slots that no job names; and every line is written with
zeros. -/
def clearPc (s : State) (k pc : Nat) : State :=
  let h := wroteLines (s.hbmc k) (fun l => decide (linePc l = pc))
  let s1 := s.setHbm k { h with rows := h.rows.filter (fun e => decide (rowBank e.1 / 64 ≠ pc)) }
  if isFront k then
    freeSlots ((List.range 8).foldl (fun s i =>
      let b := boothNo k (pairBooth pc i)
      s.setBooth b { disabled := (s.booth b).disabled }) s1) k
  else s1

/-- Some dispatched run has its segment in a pseudo-channel (R280). -/
def segmentIn (s : State) (k pc : Nat) : Bool :=
  s.reqs.any (fun e => e.2.runs.any (fun x => inFlight x && decide (x.segStack = some k) && decide (linePc (x.seg / 64) = pc)))

/-- Another pseudo-channel of a stack that is in service. -/
def otherPc (h : Hbm) (pc : Nat) : Option Nat :=
  (List.range 64).find? (fun q => decide (q ≠ pc) && !h.retiring.contains q && !h.retired.contains q)

/-- Device data of a pseudo-channel is moved to another one of the stack, line by line (R280): what a line held that cannot be read is dealt with as any
reader would, and a poisoned line is copied as poisoned. The granules of extents move to the lowest other pseudo-channel of their partition there, or else
with the rest (DESIGN CHOICE, log entry 152). -/
def moveData (s : State) (k pc : Nat) : State :=
  match otherPc (s.hbmc k) pc with
  | none => s
  | some dest =>
    let ls := ((s.hbmc k).uses.filter (fun e => decide (linePc e.1 = pc))).map (·.1)
    let s1 := ls.foldl (fun s l => copyLine s k l) s
    let h := s1.hbmc k
    let at_ := fun (l : Nat) => dest * linesPerPc + l % linesPerPc
    let mine := h.uses.filter (fun e => decide (linePc e.1 = pc) && (tget? h.poison e.1).isSome)
    let h1 := wroteLines h (fun l => decide (linePc l = pc))
    let s2 := s1.setHbm k (mine.foldl (fun h e => { h with poison := tput h.poison (at_ e.1) 4, uses := tput h.uses (at_ e.1) e.2 }) h1)
    { s2 with cxl := { s2.cxl with ext := s2.cxl.ext.map (fun e => (e.1, { e.2 with pcs := e.2.pcs.map (fun q =>
      if q = (k, pc) then (k, (partPcs s2 e.2.part k).headD dest) else q) })) } }

/-! ### Stack fence (R281, R282) -/

/-- Requests with a dispatched run that still reads a drawer of a stack complete with `LOST`. -/
def fenceReaders (s : State) (k : Nat) : State :=
  let hit := s.reqs.filter (fun e =>
    match reqShelf s e.2 with
    | some sh => e.2.runs.any (fun x => inFlight x && sh.drawers.any (fun d => runReads x d.series d.idx &&
        (match locPlace d.loc with | some q => decide (q.stack = k) | none => false)))
    | none => false)
  hit.foldl (fun s e => endAttend s e.1 e.2 { status := stLost }) s

/-- The segments of runs in a stack fail (R167). -/
def fenceSegments (s : State) (k : Nat) : State :=
  (tkeys s.reqs).foldl (fun s id =>
    match tget? s.reqs id with
    | none => s
    | some r =>
      match r.runs.find? (fun x => inFlight x && decide (x.segStack = some k)) with
      | some x => sheetFailure s id r (x.tile / 12)
      | none => s) s

/-- A shelf after the fence of a stack: moves into it end, and the summaries of its strips are lost where they lay there. -/
def fencedShelf (home : Bool) (k : Nat) (sh : Shelf) : Shelf :=
  { sh with drawers := sh.drawers.map (fun d => { d with
      moving := match d.moving with | some l => (match locPlace l with | some q => if q.stack = k then none else some l | none => some l) | none => none,
      sumLost := d.sumLost || (home && decide (d.series % 2 = 0)) }) }

/-- Directory and drawer-table copies of a fenced back stack are copied again from the surviving copy, which is in the other back stack of the die
(R282); where that copy cannot be read, what both held is lost (R272). -/
def fenceCopies (s : State) (k : Nat) : State :=
  if isFront k then s
  else
    let other := if k % 2 = 0 then k + 1 else k - 1
    (((s.hbmc other).uses.filter (fun e => match e.2 with | .entry _ _ _ | .table _ _ => true | _ => false))).foldl (fun s e =>
      let (o, s1) := readLine s other e.1
      if o = .good ∨ o = .fixed then s1 else loseUse s1 other e.1 e.2) s

/-- Vector structures of a fenced stack (R285, R305): the lists, the bench and the tombstones of an index whose stack it was are damaged; where both back
stacks of `HOME` are fenced, both copies of its tables and of its ID map are gone. -/
def fenceIndex (s0 s : State) (k : Nat) (v : VIndex) : VIndex :=
  let v1 := if listStack s0 v = k then { v with benchBad := true, listBad := (v.items.map (·.list)).eraseDups } else v
  if indexOn v k ∧ (backs v.home).all (fun q => (s.hbmc q).fenced) = true then loseItems { v1 with tblBad := true } (v1.items.map (·.id)) else v1

/-- Cabinet units whose map entry or unprogrammed block lay in a fenced back stack are lost; which they are is open, and the free
value says (R273, R282). -/
def fenceUnits (s : State) (k : Nat) : State :=
  if isFront k then s
  else
    let (v, s1) := draw s
    ((s1.cab.units.zip (List.range s1.cab.units.length)).filter (fun e => bit v e.2)).foldl (fun s e => loseUnit s e.1) s1

/-- A stack is fenced (R281, R282). -/
def fenceStack (s : State) (k : Nat) : State :=
  let h := s.hbmc k
  if h.fenced then s
  else
    let lost := s.dir.shelves.filterMap (fun e =>
      (e.2.drawers.findSome? (fun d => match locPlace d.loc with | some q => if q.stack = k then some (placeLines q).1 else none | none => none)).map
        (fun l => (e.1, l)))
    let homes := (s.dir.shelves.filter (fun e => decide (homeStack s e.2.key.part (shelfDie e.2) = k))).map (·.1)
    let s1 := raise (s.setHbm k { h with fenced := true, fenceDue := false, wb := [], due := [], upsets := [] }) (pgHbm k) 6 []
    let s2 := fenceSegments (fenceReaders s1 k) k
    let s3 := { s2 with dir := { s2.dir with shelves := s2.dir.shelves.map (fun e => (e.1, fencedShelf (homes.contains e.1) k e.2)) } }
    let s4 := fenceCopies (lost.foldl (fun s e => damage s e.1 (.inl (k, e.2))) s3) k
    let s5 := { s4 with vidx := s4.vidx.map (fun e => (e.1, fenceIndex s s4 k e.2)) }
    backToRoom (fenceUnits s5 k) (fun q => decide (q.stack = k))

/-- `STACK_FENCE` (R281): the interface of a stack has failed, or the counts of its uncorrectable lines have come so far. -/
def execStackFence (stack : Fin 16) (s : State) : Res := .next (fenceStack s stack.val)

/-- A stack whose uncorrectable lines have reached the threshold, or of which 16 pseudo-channels are retired, is fenced (R281). -/
def fenceIfDue (s : State) (k : Nat) : State :=
  let h := s.hbmc k
  if h.fenceDue || decide (h.retired.length ≥ 16) then fenceStack s k else s

/-! ### The commands that may end in a fence -/

/-- `SCRUB_READ` (R275): the next line of the stack is read, with the errors that lines of the stack have taken meanwhile, those that stay and those that
only the next read of a line meets. A line already poisoned is read without being counted again. -/
def execScrubRead (stack : Fin 16) (stays once : List LineHit) (s : State) : Res :=
  let k := stack.val
  if !(stays ++ once).all LineHit.wellFormed then .fault (.operand "a line, a symbol or a change of an error out of range")
  else if (s.hbmc k).fenced then .next s
  else
    let s1 := once.foldl (fun s x => hitLine s k false x) (stays.foldl (fun s x => hitLine s k true x) s)
    match scrubFrom (s1.hbmc k) (s1.hbmc k).scrub with
    | none => .next (fenceIfDue (scrubNext s1 k) k)
    | some line => .next (fenceIfDue (scrubNext (meetLine s1 k line).2 k) k)

/-- `ROW_REPAIR` (R277-R279): the first row that is due in a bank with a spare row is repaired, once its bank can be held. -/
def execRowRepair (stack : Fin 16) (s : State) : Res :=
  let k := stack.val
  let h := s.hbmc k
  match h.due.find? (fun r => decide (sparesUsed h (rowBank r) < 4) && bankFree s k (rowBank r)) with
  | none => .next s
  | some row => if h.fenced ∨ logRoom s h = false then .next s else .next (fenceIfDue (repairRow s k row) k)

/-- Nothing lies in a pseudo-channel any more, so that it is retired: it belongs to no partition, its booths are disabled, and the scrub skips it
(R275, R280). -/
def retirePc (s : State) (k pc : Nat) : State :=
  let s0 := moveData s k pc
  let h := s0.hbmc k
  let s1 := clearPc (s0.setHbm k { h with retiring := h.retiring.erase pc, retired := h.retired ++ [pc],
                                          due := h.due.filter (fun r => decide (rowBank r / 64 ≠ pc)) }) k pc
  let s2 := { s1 with pcOwner := tdel s1.pcOwner (64 * k + pc) }
  let s3 := if isFront k then (List.range 8).foldl (fun s i =>
      let b := boothNo k (pairBooth pc i)
      s.setBooth b { s.booth b with disabled := true }) s2 else s2
  raise s3 (pgHbm k) 5 []

/-- `PC_RETIRED` (R280): once its runs have ended and nothing lies in it any more, the pseudo-channel is retired. Until then drawers that have not found a
place yet, and those of a pseudo-channel marked by its errors, are tried again. The sixteenth fences the stack (R281). -/
def execPcRetired (stack : Fin 16) (pc : Fin 64) (s : State) : Res :=
  let k := stack.val
  if !(s.hbmc k).retiring.contains pc.val then .next s
  else if !(drawersIn s k pc.val).isEmpty then .next (leavePc s k pc.val)
  else if segmentIn s k pc.val then .next s
  else .next (fenceIfDue (retirePc s k pc.val) k)

end Sys2Proof.Machine
end

