-- ==== Sys2Proof/Machine/Sealing.lean ====
section
/-! DEFINITION. Identity keys, link sealing handshakes and port links (R332, R366-R368, R425, R436-R441). -/
namespace Sys2Proof.Machine

/-! ### Identity (R425) -/

/-- KMAC256 with a 256-bit output (R425). -/
def derive (key input : List Byte) (cust : String) : List Byte := kmac256 key input 32 cust

def cdi0 : List Byte := derive (leBytes 32 Config.uds) [] "XCN3-CDI0"
/-- Seed of the DeviceID key. -/
def idSeed : List Byte := derive cdi0 (ascii "ID") "XCN3-KEY"
/-- Seed of the firmware key: 512 bits of the same function. -/
def fwSeed : List Byte := kmac256 cdi0 (ascii "FW") 64 "XCN3-KEY"
def cdi1 (s : State) : List Byte := derive cdi0 (s.sec.m1 ++ leBytes 4 s.sec.svnUsed ++ leBytes 1 s.sec.debugByte) "XCN3-CDI1"
def cdi2 (s : State) : List Byte := derive (cdi1 s) (s.sec.m2 ++ leBytes 1 s.sec.debugByte) "XCN3-CDI2"
def alias1 (s : State) : List Byte := derive (cdi1 s) (ascii "A1") "XCN3-KEY"
def alias2 (s : State) : List Byte := derive (cdi2 s) (ascii "A2") "XCN3-KEY"

/-- An ML-DSA-44 public key and signature, and ML-KEM-768 bytes. -/
def dsaPub (seed : List Byte) : List Byte := leBytes 1312 (Config.mldsaPub seed)
def dsaSign (seed msg : List Byte) (ctx : String) : List Byte := leBytes 2420 (Config.mldsaSign seed (ascii ctx) msg)
def dsaVerify (pub msg sig : List Byte) (ctx : String) : Bool := Config.mldsaVerify pub (ascii ctx) msg sig
def kemPub (seed : List Byte) : List Byte := leBytes 1184 (Config.mlkemPub seed)

/-- The identity digest of the device: that of its DeviceID public key. -/
def ownDigest : List Byte := sha3 (dsaPub idSeed)

/-- The listed key with an identity digest (R436). -/
def trustKey (s : State) (digest : List Byte) : Option (List Byte) := (s.sec.trust.map (·.2)).find? (fun k => decide (sha3 k = digest))

/-! ### Messages (R437) -/

/-- A message has the form of its type. -/
def hsOk (m : List Byte) (t stream : Nat) : Bool :=
  decide (m.length = hsLen t) && decide (le m 0 2 = 0xC5EA) && decide (le m 2 1 = 1) && decide (le m 3 1 = t) && decide (le m 4 2 = hsLen t) &&
  decide (le m 6 1 = stream) && decide (le m 7 9 = 0) &&
  (if t = 4 ∨ t = 5 then decide (le m 20 12 = 0) else true)

def hsAbort (stream reason : Nat) : List Byte := hsMsg 5 stream (leBytes 4 reason)

/-- The responder's answer to a `HELLO`: its reply and the session that it opens, or the reason of an `ABORT` (R438). -/
def respond (s : State) (m : List Byte) (stream : Nat) : Except Nat (List Byte × Seal) × State :=
  if !hsOk m 1 stream then (.error 3, s)
  else
    let peer := bslice m 48 32
    match trustKey s peer with
    | none => (.error 1, s)
    | some _ =>
      let (nonce, s1) := drawBytes s 32
      let (r, s2) := draw s1
      let ek := bslice m 80 1184
      let ss := leBytes 32 (Config.mlkemSecret ek r)
      let body := nonce ++ ownDigest ++ leBytes 1088 (Config.mlkemCipher ek r)
      let unsigned := (hsMsg 2 stream body).take (3588 - 2420)
      let reply := unsigned ++ dsaSign idSeed (sha3 (m ++ unsigned)) "XCN3-HS-R"
      (.ok (reply, { phase := .replySent, init := false, hello := m, reply := reply, peer := peer,
                     secret := derive ss (sha3 (m ++ reply)) "XCN3-SESS" }), s2)

/-- The responder's check of a `CONFIRM`. -/
def confirmed (s : State) (h : Seal) (m : List Byte) (stream : Nat) : Except Nat Seal :=
  if !hsOk m 3 stream then .error 3
  else
    match trustKey s h.peer with
    | none => .error 1
    | some k =>
      if dsaVerify k (sha3 (h.hello ++ h.reply)) (bslice m 16 2420) "XCN3-HS-I" then .ok { h with phase := .done, keyIdx := 0 } else .error 2

/-- The key index that a `REKEY` brings into force, or the reason of an `ABORT` (R441). -/
def rekeyed (h : Seal) (m : List Byte) (stream : Nat) : Except Nat Seal :=
  if !hsOk m 4 stream then .error 3
  else if le m 16 4 = h.keyIdx + 1 then .ok (nextKey h) else .error 4

/-- The MACsec key and salt of a direction and key index, and the IDE key of a stream (R438). -/
def linkKey (secret : List Byte) (dir n : Nat) : List Byte := derive secret (leBytes 1 dir ++ leBytes 4 n) "XCN3-LINK"
def linkSalt (secret : List Byte) (dir n : Nat) : List Byte := kmac256 secret (leBytes 1 dir ++ leBytes 4 n) 12 "XCN3-SALT"
def ideKey (secret : List Byte) (stream dir n : Nat) : List Byte := derive secret (leBytes 1 stream ++ leBytes 1 dir ++ leBytes 4 n) "XCN3-IDE"

/-! ### Ports (R439, R441) -/

/-- A handshake message leaves on a port. -/
def sendHs (s : State) (p : Nat) (m : List Byte) : State := emit s (.hs p m)

/-- A handshake or session of a port fails. -/
def sealFail (s : State) (p : Nat) : State :=
  raise (s.setPort p { s.port p with sealed := false, hs := { phase := .failed } }) (pgNet p) 5 []

/-- A failed check: `ABORT` is sent. -/
def sealAbort (s : State) (p reason : Nat) : State := sealFail (sendHs s p (hsAbort 0 reason)) p

/-- The port takes handshake messages. -/
def hsOpen (s : State) (p : Nat) : Bool := (s.port p).up && (s.port p).sealReq

/-- `HELLO_REPEAT` (R439): a side without an answer sends its `HELLO`; it draws nonce and ephemeral key for the first one. -/
def execHelloRepeat (port : Fin 4) (s : State) : Res :=
  if !hostReach s then .next s else
  let n := port.val
  let p := s.port n
  if !hsOpen s n then .next s
  else
    match p.hs.phase with
    | .helloSent => .next (sendHs s n p.hs.hello)
    | .none | .failed =>
      let (nonce, s1) := drawBytes s 32
      let (v, s2) := draw s1
      let m := hsMsg 1 0 (nonce ++ ownDigest ++ kemPub (leBytes 64 v))
      .next (sendHs (s2.setPort n { p with hs := { phase := .helloSent, init := true, hello := m, eph := v } }) n m)
    | _ => .next s

/-- `HELLO` (R438, R439): the device answers as responder, unless its own `HELLO` stands because its digest is the lower. -/
def execHello (port : Fin 4) (msg : List Byte) (s : State) : Res :=
  if !hostReach s then .next s else
  let n := port.val
  let p := s.port n
  let stays := decide (p.hs.phase = .helloSent) && hsOk msg 1 0 && decide (leNat ownDigest < leNat (bslice msg 48 32))
  if !hsOpen s n || stays || decide (p.hs.phase = .confirmSent) || decide (p.hs.phase = .done) then .next s
  else
    match respond s msg 0 with
    | (.error e, s1) => .next (sealAbort s1 n e)
    | (.ok (r, h), s1) => .next (sendHs (s1.setPort n { s1.port n with hs := h }) n r)

/-- `REPLY` (R438): the initiator checks it and answers with `CONFIRM`. -/
def execReply (port : Fin 4) (msg : List Byte) (s : State) : Res :=
  if !hostReach s then .next s else
  let n := port.val
  let p := s.port n
  let h := p.hs
  if !hsOpen s n || decide (h.phase ≠ .helloSent) then .next s
  else if !hsOk msg 2 0 then .next (sealAbort s n 3)
  else
    let peer := bslice msg 48 32
    match trustKey s peer with
    | none => .next (sealAbort s n 1)
    | some k =>
      if !dsaVerify k (sha3 (h.hello ++ msg.take (3588 - 2420))) (bslice msg (3588 - 2420) 2420) "XCN3-HS-R" then .next (sealAbort s n 2)
      else
        let ss := leBytes 32 (Config.mlkemOpen (leBytes 64 h.eph) (bslice msg 80 1088))
        let t2 := sha3 (h.hello ++ msg)
        let h1 := { h with phase := .confirmSent, reply := msg, peer := peer, eph := 0, keyIdx := 0, secret := derive ss t2 "XCN3-SESS" }
        .next (sendHs (s.setPort n { p with hs := h1 }) n (hsMsg 3 0 (dsaSign idSeed t2 "XCN3-HS-I")))

/-- `CONFIRM` (R438, R439): the responder verifies it, and sealing is active. -/
def execConfirm (port : Fin 4) (msg : List Byte) (s : State) : Res :=
  if !hostReach s then .next s else
  let n := port.val
  let p := s.port n
  if !hsOpen s n || decide (p.hs.phase ≠ .replySent) then .next s
  else
    match confirmed s p.hs msg 0 with
    | .error e => .next (sealAbort s n e)
    | .ok h => .next (s.setPort n { p with hs := h, sealed := true })

/-- `REKEY` (R441): both directions change to the next key index, or the session ends. -/
def execRekey (port : Fin 4) (msg : List Byte) (s : State) : Res :=
  if !hostReach s then .next s else
  let n := port.val
  let p := s.port n
  if !hsOpen s n || !p.sealed then .next s
  else
    match rekeyed p.hs msg 0 with
    | .error e => .next (sealAbort s n e)
    | .ok h => .next (s.setPort n { p with hs := h })

/-- `REKEY_PERIOD` (R441): the device sends `REKEY` and changes to the next key index with it (DEDUCED, log entry 63). -/
def execRekeyPeriod (port : Fin 4) (s : State) : Res :=
  if !hostReach s then .next s else
  let n := port.val
  let p := s.port n
  if !hsOpen s n || !p.sealed then .next s
  else .next (sendRekey s n)

/-- `ABORT` (R439): the handshake or the session ends. -/
def execAbort (port : Fin 4) (msg : List Byte) (s : State) : Res :=
  if !hostReach s then .next s else
  let n := port.val
  if !hsOpen s n || !hsOk msg 5 0 || decide ((s.port n).hs.phase = .none) || decide ((s.port n).hs.phase = .failed) then .next s
  else .next (sealFail s n)

/-- `HANDSHAKE_TIMEOUT` (R439): no answer within 5 s. -/
def execHandshakeTimeout (port : Fin 4) (s : State) : Res :=
  if !hostReach s then .next s else
  match (s.port port.val).hs.phase with
  | .helloSent | .replySent | .confirmSent => .next (sealFail s port.val)
  | _ => .next s

/-! ### Links (R332, R367, R368) -/

/-- `PORT_LINK_UP` (R332, R367): `SEAL_REQ` takes effect. -/
def execPortLinkUp (port : Fin 4) (s : State) : Res :=
  if !hostReach s then .next s else
  let n := port.val
  let p := s.port n
  if p.up then .next s
  else .next (raise (s.setPort n { p with up := true, sealReq := decide (rdf s (pgNet n + 0x100) 0 1 = 1), sealed := false, hs := {} }) (pgNet n) 0 [])

/-- A port goes down: its session and handshake are abandoned, and its messages wait. -/
def linkDown (s : State) (n : Nat) : State :=
  let p := s.port n
  if p.up then raise (s.setPort n { p with up := false, sealed := false, hs := {} }) (pgNet n) 1 [] else s

/-- `PORT_LINK_DOWN` (R368). -/
def execPortLinkDown (port : Fin 4) (s : State) : Res := .next (linkDown s port.val)

end Sys2Proof.Machine
end

