-- ==== Sys2Proof/Machine/Parts.lean ====
section
/-! DEFINITION. Partitions, fences, leases and metering periods (R390-R403, R419-R423, R226, R430, R431). -/
namespace Sys2Proof.Machine

/-! ### Results and device state (R513) -/

/-- `RESULT` of `PART_STAT`. -/
def partResult (s : State) (p n : Nat) : State := wrf s (pgPart p + 0x104) 4 3 n

/-- `SERVE` holds while some partition is not `FREE`, `READY` while none is. -/
def serveUpdate (s : State) : State :=
  let any := s.parts.any (fun e => decide (e.2.state ≠ .free))
  if s.dev.state = .ready ∧ any = true then { s with dev := { s.dev with state := .serve } }
  else if s.dev.state = .serve ∧ any = false then { s with dev := { s.dev with state := .ready } }
  else s

/-- A partition command, past `BUSY` (R545) and the ringmaster. -/
def partCmd (s : State) (p : Nat) (k : State → State) : Res :=
  if (s.part p).busy then .next s
  else
    match rmGate s 0 with
    | (some _, s1) => .next (partResult s1 p 1)
    | (none, s1) => .next (k s1)

/-! ### Metering periods (R421, R422) -/

/-- The record of a period: why it closes, with `HELD`, and what it counted; the tier integrals in whole MiB-microseconds. -/
def meterRecord (s : State) (p why : Nat) : List Byte :=
  let t := s.part p
  let m := t.meter
  leBytes 2 0x4D52 ++ [1, BitVec.ofNat 8 (why + if t.mtrHeld then 16 else 0)] ++ leBytes 4 t.pseq ++ leBytes 4 (partC s p) ++ leBytes 4 t.pfirst ++
  leBytes 8 t.pstart ++ leBytes 8 (stewardUs s) ++ leBytes 8 m.tile ++ leBytes 8 (sat 64 (m.t0 / 2 ^ 20)) ++ leBytes 8 (sat 64 (m.t1 / 2 ^ 20)) ++
  leBytes 8 (sat 64 (m.t2 / 2 ^ 20)) ++ (List.range 4).flatMap (fun i => leBytes 8 (m.rx.getD i 0) ++ leBytes 8 (m.tx.getD i 0))

/-- A closing event (1 fence, 2 hour, 4 lease, 8 destroy): the record is written where the ring is enabled and has a slot, and the counters start
again; otherwise the period is held open. A ring that is not enabled has no slot (DEDUCED, log entry 64). -/
def closePeriod (s : State) (p why : Nat) : State :=
  let pg := pgPart p
  let size := 2 ^ (4 + rdf s (pg + 0x168) 0 4)
  let pi := rd s (pg + 0x16C)
  let used := (pi + 2 ^ 32 - rd s (pg + 0x170)) % 2 ^ 32
  let t := s.part p
  if rdf s (pg + 0x168) 4 1 = 1 ∧ used < size then
    let s1 := refWrite s p (rd64 s (pg + 0x160) + 128 * (pi % size)) (meterRecord s p why)
    wr (s1.setPart p { t with meter := {}, pseq := (t.pseq + 1) % 2 ^ 32, pstart := stewardUs s, mtrHeld := false }) (pg + 0x16C) ((pi + 1) % 2 ^ 32)
  else raise (s.setPart p { t with mtrHeld := true }) pg 5 []

/-- A period that has just begun takes C as its first epoch. -/
def firstEpoch (s : State) (p : Nat) : State :=
  let t := s.part p
  if t.mtrHeld then s else s.setPart p { t with pfirst := partC s p }

/-- `METERING_HOUR` (R421). -/
def execMeteringHour (part : Fin 32) (s : State) : Res :=
  if (s.part part.val).state = .free then .next s else .next (firstEpoch (closePeriod s part.val 2) part.val)

/-! ### Creation and maps (R226, R231, R391, R392, R431) -/

/-- Numbers of the bits set in word `w` of a map, whose value is `v`. -/
def wordBits (w v : Nat) : List Nat := if v = 0 then [] else ((List.range 32).filter (bit v)).map (32 * w + ·)

/-- Bits set in a map of the partition page. -/
def mapBits (s : State) (p off n : Nat) : List Nat := (List.range (n / 32)).flatMap (fun w => wordBits w (rd s (pgPart p + off + 4 * w)))

/-- The staged tiles, ways and pseudo-channels. -/
def stagedTiles (s : State) (p : Nat) : List Nat := mapBits s p 0x180 192
def stagedWays (s : State) (p : Nat) : List Nat := mapBits s p 0x198 192
def stagedPcs (s : State) (p : Nat) : List Nat := mapBits s p 0x300 1024

/-- A pseudo-channel is retiring or retired. -/
def pcRetiring (s : State) (k : Nat) : Bool := let h := s.hbmc (k / 64); h.retiring.contains (k % 64) || h.retired.contains (k % 64)

/-- A staged resource belongs to another partition, or a pseudo-channel that would be gained is retiring. -/
def mapsTaken (s : State) (p : Nat) : Bool :=
  let other := fun (t : Tab Nat) k => match tget? t k with | some q => decide (q ≠ p) | none => false
  (stagedTiles s p).any (other s.tileOwner) || (stagedWays s p).any (other s.wayOwner) ||
  (stagedPcs s p).any (fun k => other s.pcOwner k || (decide (tget? s.pcOwner k ≠ some p) && pcRetiring s k))

/-- The staged maps lack a kind of resource. -/
def mapsEmpty (s : State) (p : Nat) : Bool := (stagedTiles s p).isEmpty || (stagedWays s p).isEmpty || (stagedPcs s p).isEmpty

/-- The staged resources are the partition's, beside those it has. -/
def takeMaps (s : State) (p : Nat) : State :=
  let add := fun (t : Tab Nat) (l : List Nat) => l.foldl (fun t k => tput t k p) t
  { s with tileOwner := add s.tileOwner (stagedTiles s p), wayOwner := add s.wayOwner (stagedWays s p), pcOwner := add s.pcOwner (stagedPcs s p) }

/-- `PART_CREATE` (R391). A `SEALED` partition is refused where it cannot be had (R535) or invasive debug is unlocked. The order of the refusals is
the model's (log entry 27). -/
def execPartCreate (part : Fin 32) (s : State) : Res := hostWr s (pgPart part.val) <|
  let p := part.val
  partCmd s p (fun s =>
    let t := s.part p
    let sealed_ := rdf s (pgPart p + 0x108) 8 1 = 1
    if t.state ≠ .free then partResult s p 5
    else if sealed_ ∧ (s.chip.sealedCap = false ∨ s.sec.level = 2) then partResult s p 2
    else if mapsEmpty s p then partResult s p 2
    else if mapsTaken s p then partResult s p 3
    else
      let s1 := takeMaps s p
      if partCharge s1 p > quotaBytes s1 p then partResult s p 6
      else
        let (k, s2) := draw s1
        let s3 := s2.setPart p { t with
          state := .live, sealed := sealed_, keys := some k, chain := List.replicate 32 0, pstart := stewardUs s, pfirst := partC s p }
        serveUpdate (partResult (wr s3 (pgPart p + 0x118) (partC s p)) p 0))

/-- Drawers in pseudo-channels that are being removed can go elsewhere (R392): those that are open only to HBM, the rest to HBM or the cabinet. -/
def canMoveOut (s : State) (p : Nat) : Bool :=
  let ds := (s.part p).rmPcs.flatMap (fun k => drawersIn s (k / 64) (k % 64))
  let opens := ds.filter (fun e => match s.shelf? e.1 with | some sh => isOpen sh e.2 | none => false)
  let room := tierFree s p true + tierFree s p false
  decide (ds.length ≤ room) || (decide (opens.length ≤ room) && !s.cab.readOnly && s.chip.cabCap && shareFits s p (ds.length - room))

/-- `PART_APPLY_MAPS` (R392): added resources are the partition's at once; removed ones go one by one, and `BUSY` stays set until they have. -/
def execPartApplyMaps (part : Fin 32) (s : State) : Res := hostWr s (pgPart part.val) <|
  let p := part.val
  partCmd s p (fun s =>
    if (s.part p).state ≠ .live ∧ (s.part p).state ≠ .fenced then partResult s p 5
    else if mapsEmpty s p then partResult s p 2
    else if mapsTaken s p then partResult s p 3
    else
      let s1 := takeMaps s p
      let gained := (partStacks s1 p).any (fun k => !(partStacks s p).contains k)
      if gained && decide (partCharge s1 p > quotaBytes s1 p) then partResult s p 6
      else
        let t := s1.part p
        let rt := (partTiles s p).filter (fun k => !(stagedTiles s p).contains k)
        let rw := (partWays s p).filter (fun k => !(stagedWays s p).contains k)
        let rp := (partPcKeys s p).filter (fun k => !(stagedPcs s p).contains k)
        let s2 := s1.setPart p { t with rmTiles := rt, rmWays := rw, rmPcs := rp, busy := !(rt.isEmpty && rw.isEmpty && rp.isEmpty),
                                            before := some (partTiles s p, partWays s p, partPcKeys s p) }
        if !canMoveOut s2 p then partResult s p 4
        else
          let s3 := backToRoom s2 (fun q => rp.contains (64 * q.stack + q.pc))
          partResult ((rp.flatMap (fun k => drawersIn s3 (k / 64) (k % 64))).foldl moveOut s3) p 0)

/-- A staging way is in use while a cold read of its partition on its die is under way. -/
def wayBusy (s : State) (p w : Nat) : Bool :=
  s.reqs.any (fun e => decide (e.2.part = p) && e.2.runs.any (fun x => onThread x && !x.coldLeft.isEmpty && decide (x.tile / 48 = w / 48)))

/-- A pseudo-channel is cleared and belongs to nobody. -/
def freePc (s : State) (k : Nat) : State :=
  let s1 := clearPc s (k / 64) (k % 64)
  { s1 with pcOwner := tdel s1.pcOwner k }

/-- `MAP_REMOVAL_DONE` (R392): a pseudo-channel goes once no segment and no drawer lies in it, its device data moved (R280). What can go of the resources being removed goes; when nothing is left, `BUSY` clears. -/
def execMapRemovalDone (part : Fin 32) (s : State) : Res :=
  let p := part.val
  let t := s.part p
  if t.state ≠ .live ∧ t.state ≠ .fenced then .next s
  else
    let s0 := (t.rmPcs.flatMap (fun k => drawersIn s (k / 64) (k % 64))).foldl moveOut s
    let tiles := t.rmTiles.filter (fun k => (tileRuns s0 k).isEmpty)
    let ways := t.rmWays.filter (fun w => !wayBusy s0 p w)
    let pcs := t.rmPcs.filter (fun k => (drawersIn s0 (k / 64) (k % 64)).isEmpty && !segmentIn s0 (k / 64) (k % 64))
    let s1 := pcs.foldl (fun s k => freePc (moveData s (k / 64) (k % 64)) k) { s0 with
      tileOwner := s0.tileOwner.filter (fun e => !tiles.contains e.1), wayOwner := s0.wayOwner.filter (fun e => !ways.contains e.1) }
    let t1 := s1.part p
    let left := fun (l gone : List Nat) => l.filter (fun k => !gone.contains k)
    let rt := left t1.rmTiles tiles
    let rw := left t1.rmWays ways
    let rp := left t1.rmPcs pcs
    .next (s1.setPart p { t1 with rmTiles := rt, rmWays := rw, rmPcs := rp, busy := t1.busy && !(rt.isEmpty && rw.isEmpty && rp.isEmpty),
                                            before := if rt.isEmpty && rw.isEmpty && rp.isEmpty then none else t1.before })

/-! ### Reset (R108, R393) -/

/-- Every firing of an armed descriptor that has not run yet ends with a status. -/
def endFires (s : State) (a : Armed) (status : Nat) : State :=
  a.fires.foldl (fun s _ => queueRec s a.ring (mkRec a.desc status 0 0 0 0 0 32)) s

/-- The armed descriptors of a partition, with the firings that they still have to run, end with a status. -/
def endArmedPart (s : State) (p status : Nat) (fires : Bool) : State :=
  let mine := s.armed.filter (fun a => decide (dPart a.desc = p))
  mine.foldl (fun s a =>
    if fires then
      let s1 := endFires { s with armed := s.armed.map (fun b => if b = a then { a with fires := [] } else b) } a status
      if a.gone then { s1 with armed := s1.armed.filter (· ≠ { a with fires := [] }) } else endArmed s1 { a with fires := [] } status
    else if a.gone then s else endArmed s a status) s

/-- Descriptors taken and not admitted yet meet step 3 (R390). -/
def flushTaken (s : State) (ring : Nat) : Nat → State
  | 0 => s
  | n + 1 =>
    match tget? s.rings ring with
    | none => s
    | some g =>
      match g.taken with
      | [] => s
      | (src, d) :: rest => flushTaken (steps24 s ring src { g with taken := rest } d).2 ring n

/-- The rings of a partition. -/
def ringsOf (s : State) (p : Nat) : List Nat := (s.rings.filter (fun e => decide (e.2.part = p))).map (·.1)

/-- What aborted requests leave on a shelf goes: appends that are not visible, a tail trim that has not set `END`, held operations. -/
def abortShelf (s : State) (i : Nat) : State :=
  match s.shelf? i with
  | none => s
  | some sh =>
    let s1 := s.setShelf i { sh with appends := [], trim := none, held := [], endPos := (sh.appends.map (·.pos)).headD sh.endPos }
    match sh.appends with
    | a :: _ => undoAppend s1 i a
    | [] => s1

/-- Every request of a partition ends with `ABORTED`, and what it had begun goes with it. -/
def abortPart (s : State) (p : Nat) : State :=
  let mine := s.reqs.filter (fun e => decide (e.2.part = p))
  let pins := mine.filterMap (fun e => if dOpcode e.2.desc = 0x07 then e.2.shelf.map (fun i => (i, pinRange e.2)) else none)
  let shelves := (s.dir.shelves.filter (fun e => decide (e.2.key.part = p))).map (·.1)
  let s1 := skipLifts (stopReplay s p) (fun l => shelves.contains l.shelf)
  let s2 := mine.foldl (fun s e => endAttend s e.1 e.2 { status := stAborted }) s1
  let s3 := shelves.foldl abortShelf s2
  let s4 := pins.foldl (fun s e => match s.shelf? e.1 with | some sh => s.setShelf e.1 { sh with pins := sh.pins.erase e.2 } | none => s) s3
  let s5 := (s4.vidx.filter (fun e => decide (e.2.part = p))).foldl (fun s e =>
    putIndex s e.1 { e.2 with building := none, statDue := e.2.statDue || decide (e.2.statRef ≠ 0) }) s4
  let s6 := (ringsOf s5 p).foldl (fun s r => flushTaken s r (match tget? s.rings r with | some g => g.taken.length | none => 0)) s5
  let s7 := endArmedPart s6 p stAborted true
  let t := s7.part p
  drainCheck (s7.setPart p { t with fences := [] })

/-- `PART_RESET` (R393). -/
def execPartReset (part : Fin 32) (s : State) : Res := hostWr s (pgPart part.val) <|
  let p := part.val
  partCmd s p (fun s =>
    let t := s.part p
    if t.state ≠ .live ∧ t.state ≠ .fenced then partResult s p 5
    else abortPart (s.setPart p { t with state := .resetting, wasFenced := decide (t.state = .fenced), busy := true }) p)

/-- Nothing of a partition is admitted, armed or taken. -/
def partQuiet (s : State) (p : Nat) : Bool :=
  s.reqs.all (fun e => decide (e.2.part ≠ p)) && s.armed.all (fun a => decide (dPart a.desc ≠ p)) &&
  s.rings.all (fun e => decide (e.2.part ≠ p) || e.2.taken.isEmpty)

/-- `PART_RESET_DONE` (R108, R393): the rings stay, with `RING_CI` at `RING_PI`, and the partition is as it was. -/
def execPartResetDone (part : Fin 32) (s : State) : Res :=
  let p := part.val
  let t := s.part p
  if t.state ≠ .resetting ∨ partQuiet s p = false then .next s
  else
    let s1 := { s with rings := s.rings.map (fun (e : Nat × Ring) => if e.2.part = p then (e.1, { e.2 with ci := e.2.pi, srcs := [] }) else e) }
    .next (partResult (s1.setPart p { t with state := if t.wasFenced then .fenced else .live, busy := false }) p 0)

/-! ### Destruction (R394, R430) -/

/-- `PART_DESTROY` (R394, steps 1 to 3): requests end, the rings take no more, and every shelf with a link sends a `DROP`. -/
def execPartDestroy (part : Fin 32) (s : State) : Res := hostWr s (pgPart part.val) <|
  let p := part.val
  partCmd s p (fun s =>
    let t := s.part p
    if t.state = .free ∨ t.state = .destroying then partResult s p 5
    else
      let s1 := abortPart (s.setPart p { t with state := .destroying, busy := true, step := 1 }) p
      let s2 := { s1 with rings := s1.rings.map (fun (e : Nat × Ring) => if e.2.part = p then (e.1, { e.2 with destroying := true }) else e) }
      (s2.dir.shelves.filter (fun e => decide (e.2.key.part = p) && decide (e.2.state = .live))).foldl (fun s e => mirrorDrop s e.2) s2)

/-- The ports have accepted what the links of a partition send: nothing waits in a backlog, and every mirror message of a live queue pair has been
sent (DEDUCED, log entry 77). -/
def dropsSent (s : State) (p : Nat) : Bool :=
  s.links.all (fun e => decide (e.2.part ≠ p) || e.2.backlog.isEmpty || qpDead s (peerQpn s p e.2.peer)) &&
  s.qps.all (fun e => decide (e.2.part ≠ p) || e.2.err || e.2.out.all (fun m => decide (m.kind ≠ .mirror) || decide (m.next > 0)))

/-- Steps 3 to 6 of R394: queue pairs and regions go, shelves, indexes and objects are freed, extents released, the metering period closed. -/
def destroyObjects (s : State) (p : Nat) : State :=
  let s1 := (s.qps.filter (fun e => decide (e.2.part = p))).foldl (fun s e => removeQp s e.1) s
  let s2 := { s1 with regions := s1.regions.filter (fun e => decide (e.2.part ≠ p)) }
  let shelves := (s2.dir.shelves.filter (fun e => decide (e.2.key.part = p))).map (·.1)
  let s3 := shelves.foldl (fun s i => dropEntry (freeAll s i) i) s2
  let s3 := (s3.vidx.filter (fun e => decide (e.2.part = p))).foldl (fun s e => (recordsOf s e.1).foldl dropUnit s) s3
  let s4 := { s3 with
    dir := { s3.dir with marks := s3.dir.marks.filter (fun m => decide (m.part ≠ p)) }
    links := s3.links.filter (fun e => decide (e.2.part ≠ p))
    pulls := s3.pulls.filter (fun e => decide (e.2.key.part ≠ p))
    sub := s3.sub.filter (fun e => decide (e.1 / 64 ≠ p))
    vidx := s3.vidx.filter (fun e => decide (e.2.part ≠ p))
    objects := s3.objects.filter (fun e => decide (e.1 / 65536 ≠ p))
    tiers := { s3.tiers with
      active := s3.tiers.active.filter (fun a => decide (a.1 ≠ p)), plans := s3.tiers.plans.filter (fun a => decide (a.part ≠ p)),
      waits := s3.tiers.waits.filter (fun w => decide (w.part ≠ p)) } }
  let s5 := (s4.cxl.ext.filter (fun e => decide (e.2.part = p) && decide (e.2.state ≠ .free))).foldl (fun s e => releaseExt s e.1) s4
  closePeriod s5 p 8

/-- Registers of the three pages of a partition that keep their value: event bits and counts, `RESULT`, and counters that reads clear. -/
def keptRegs (p : Nat) : List Nat :=
  [pgPart p + 0x10, pgPart p + 0x1C, pgPart p + 0x104, pgPart p + 0x124, pgPart p + 0x128, pgPart p + 0x220, pgPart p + 0x224, pgPart p + 0x228,
   pgPart p + 0x22C, pgCapt p + 0x10, pgCapt p + 0x1C, pgCapt p + 0x11C, pgMtr p + 0x10, pgMtr p + 0x1C]

/-- Steps 7 and 8 of R394: the resources are cleared and returned, the keys erased, and the pages at reset. -/
def destroyEnd (s : State) (p : Nat) : State :=
  let s1 := (partPcKeys s p).foldl freePc s
  let pages := [pgPart p / 4096, pgCapt p / 4096, pgMtr p / 4096]
  let s2 := { s1 with
    tileOwner := s1.tileOwner.filter (fun e => decide (e.2 ≠ p)), wayOwner := s1.wayOwner.filter (fun e => decide (e.2 ≠ p)),
    regs := s1.regs.filter (fun e => !pages.contains (e.1 / 4096) || (keptRegs p).contains e.1),
    replay := tdel s1.replay p, parts := tdel s1.parts p }
  serveUpdate (raise (partResult s2 p 0) pgSec 2 [])

/-- `PART_DESTROY_DONE` (R394): the destruction goes on as far as what it waits for has ended: the rings' records, the `DROP` entries, the
extents. -/
def execPartDestroyDone (part : Fin 32) (s : State) : Res :=
  let p := part.val
  if (s.part p).state ≠ .destroying then .next s
  else
    let gone := (s.rings.filter (fun e => decide (e.2.part = p) && ringQuiet s e.1 e.2)).map (·.1)
    let s1 := gone.foldl (fun s r => { s with rings := tdel s.rings r }) s
    let ready := partQuiet s1 p && (ringsOf s1 p).isEmpty && dropsSent s1 p
    let t := s1.part p
    let s2 := if t.step = 1 ∧ ready = true then destroyObjects (s1.setPart p { t with step := 2 }) p else s1
    let held := s2.cxl.ext.any (fun e => decide (e.2.part = p) && decide (e.2.state ≠ .free))
    if (s2.part p).step = 2 ∧ held = false then .next (destroyEnd s2 p) else .next s2

/-! ### Fences (R399-R403) -/

/-- Appends that wait for a partner fail with a status; R83 applies to the later ones (R401). -/
def failWaiting (s : State) (i status : Nat) : State :=
  match s.shelf? i with
  | none => s
  | some sh =>
    match sh.appends.findIdx? (fun a => a.written && decide (a.failed = none) && !mirrorOk s sh a.waitSeq) with
    | some n => setAppend s i n (fun a => { a with failed := some status })
    | none => s

/-- Links of a partition whose peers are of a kind are cut, their shelves marked and their seeds ended with a status. -/
def cutLinks (s : State) (p status : Nat) (f : Nat → Bool) : State :=
  (s.links.filter (fun e => decide (e.2.part = p) && f e.2.peer)).foldl (fun s e => cutLink (endSeed s e.1 { status := status }) e.1 true) s

/-- The effects of `EXIT` beside C and F (R401, R419). -/
def applyExit (s : State) (p : Nat) : State :=
  let t := s.part p
  let s1 := endArmedPart (s.setPart p { t with state := .fenced, graceEnd := none }) p stFenced false
  let s2 := (s1.links.filter (fun e => decide (e.2.part = p))).foldl (fun s e => failWaiting s e.2.shelf stFenced) s1
  failPulls (cutLinks s2 p stFenced (fun _ => true)) p (fun _ => true)

/-- The effects of `EXCLUDE` beside C and F (R401, R416): links to the nodes are cut, copies that they fed are promoted, pulls from them fail. A seed
towards one of them ends with `ABORTED` (log entry 69). -/
def applyExclude (s : State) (p : Nat) (nodes : List Nat) : State :=
  let t := s.part p
  let s1 := s.setPart p { t with graceEnd := none, excluded := (t.excluded ++ nodes).eraseDups }
  let hit := fun peer => nodes.contains (peerNode s1 p peer)
  let s2 := cutLinks s1 p stAborted hit
  let s3 := { s2 with dir := { s2.dir with shelves := s2.dir.shelves.map (fun e =>
    if e.2.key.part = p ∧ e.2.copy = true ∧ hit e.2.copyPeer = true then
      (e.1, { e.2 with copy := false, durab := .single, degraded := e.2.copyAsync }) else e) } }
  failPulls s3 p hit

/-- The effects of `REJOIN` beside C and F (R401). -/
def applyRejoin (s : State) (p : Nat) : State :=
  let t := s.part p
  let s1 := s.setPart p { t with state := .live, graceEnd := none, excluded := [], leaseFenced := false }
  { s1 with links := s1.links.filter (fun e => decide (e.2.part ≠ p)),
            dir := { s1.dir with shelves := s1.dir.shelves.map (fun e =>
              if e.2.key.part = p then (e.1, { e.2 with link := none, copy := false, durab := .single, degraded := false, seeding := false }) else e) } }

/-- A fence token (R399) as fields. -/
def tkKind (b : List Byte) : Nat := le b 5 1
def tkNx (b : List Byte) : Nat := le b 6 1
def tkEpoch (b : List Byte) : Nat := le b 0x0C 4
def tkFloor (b : List Byte) : Nat := le b 0x10 4
def tkNodes (b : List Byte) : List Nat := (List.range (tkNx b)).map (fun i => le b (0x40 + 4 * i) 4)

/-- Step 1 of R400: the offset of the field that a malformed token draws (R542). -/
def tokenBad (d b : List Byte) (p : Nat) : Option Nat :=
  let n := le d 0x18 2
  if b.length ≠ n ∨ n < 0x40 ∨ n ≠ 64 + 4 * tkNx b + 2420 then some 0x18
  else if le b 0 4 ≠ 0x4B544E46 ∨ le b 4 1 ≠ 1 ∨ tkKind b > 3 ∨ le b 7 1 ≠ p ∨ le b 0x14 8 ≠ 0 ∨ (bslice b 0x14 44).any (fun x => decide (x ≠ 0)) = true ∨
      (if tkKind b = 1 then tkNx b = 0 ∨ tkNx b > 16 else tkNx b ≠ 0) ∨ (if tkKind b = 0 then tkFloor b > tkEpoch b else tkFloor b ≠ 0) then some 0x10
  else if tkEpoch b ≠ le d 0x0C 4 then some 0x0C
  else none

/-- Step 2 of R400: the token names this node, and its signature verifies under the fence key with an empty context (R446). -/
def tokenOk (s : State) (p : Nat) (b : List Byte) : Bool :=
  let n := 64 + 4 * tkNx b
  decide (le b 8 4 = rd s (pgPart p + 0x110)) &&
  match s.sec.fenceKey with
  | some k => Config.mldsaVerify k [] (b.take n) (bslice b n 2420)
  | none => false

/-- A fence is applied: the metering period closes under the old epoch, C and F change, and the kind's effects follow. -/
def applyFence (s : State) (p : Nat) (b : List Byte) : State :=
  let kind := tkKind b
  let c := tkEpoch b
  let f := if kind = 0 then max (partF s p) (tkFloor b) else c
  let s1 := wr (wr (closePeriod s p 1) (pgPart p + 0x114) c) (pgPart p + 0x118) f
  let s2 := firstEpoch s1 p
  let s3 := match kind with
    | 0 => let t := s2.part p; s2.setPart p { t with graceEnd := some (stewardMs s2 + rdf s2 (pgPart p + 0x11C) 0 14) }
    | 1 => applyExclude s2 p (tkNodes b)
    | 2 => applyExit s2 p
    | _ => applyRejoin s2 p
  raise s3 (pgPart p) 0 []

/-- Step 10 and effect of `FENCE` (R400-R402). -/
def doFence (s : State) (id : Nat) (r : Req) : State :=
  let p := r.part
  let c := partC s p
  let fail := fun (s : State) st d => failReq s id r { status := st, detail := d, i0 := c }
  match refFail s p r.desc 0x10 (le r.desc 0x18 2) with
  | some f => failReq s id r f
  | none =>
    match refRead s p (le r.desc 0x10 8) (le r.desc 0x18 2) with
    | (none, s1) => fail s1 stIntegrity 0
    | (some b, s1) =>
      match tokenBad r.desc b p with
      | some o => fail s1 stBadDescriptor o
      | none =>
        if !tokenOk s1 p b then fail s1 stDenied 0
        else if tkEpoch b < c then fail s1 stStaleEpoch 0
        else if tkEpoch b = c then complete s1 id r stOk 0 c 0 0 0
        else if tkKind b = 3 ∧ (s1.part p).state ≠ .fenced then fail s1 stBadDescriptor 0x10
        else if tkKind b ≠ 3 ∧ (s1.part p).state ≠ .live then fail s1 stFenced 0
        else
          let older := (s1.reqs.filter (fun e => decide (e.2.part = p) && decide (e.1 ≠ id))).map (·.1)
          let s2 := s1.setReq id r
          let s3 := applyFence s2 p b
          if tkKind b = 0 ∨ tkKind b = 3 then complete s3 id r stOk 0 (tkEpoch b) 0 0 0
          else
            let t := s3.part p
            s3.setPart p { t with fences := t.fences ++ [{ req := id, older := older }] }

/-- `FENCE` (R400). -/
def execFence (ring : Fin 4096) (s : State) : Res := .next (admitOp s ring.val 0x3F doFence)

/-- `FENCE_COMPLETE` (R402): the requests admitted before the earliest waiting fence have completed. The ringmaster writes the completion, after a
restart where one is under way (R455). -/
def execFenceComplete (part : Fin 32) (s : State) : Res :=
  let p := part.val
  let t := s.part p
  match t.fences with
  | [] => .next s
  | f :: rest =>
    if s.stw.rm ≠ .running ∨ allDone s f.older = false then .next s
    else
      let s1 := s.setPart p { t with fences := rest }
      match tget? s1.reqs f.req with
      | some r => .next (complete s1 f.req r stOk 0 (le r.desc 0x0C 4) 0 0 0)
      | none => .next s1

/-- `GRACE_WINDOW_CLOSE` (R396). -/
def execGraceWindowClose (part : Fin 32) (s : State) : Res :=
  let t := s.part part.val
  match t.graceEnd with
  | some e => if stewardMs s ≥ e then .next (s.setPart part.val { t with graceEnd := none }) else .next s
  | none => .next s

/-! ### Lease (R419) -/

/-- `LEASE_EXPIRY` (R419): every `LIVE` partition whose lease has run out since a port was last up is fenced. -/
def execLeaseExpiry (s : State) : Res :=
  if anyPortUp s || !s.chip.leaseCap then .next s
  else
    let due := (List.range 32).filter (fun p =>
      let ms := rdf s (pgPart p + 0x120) 0 16
      decide ((s.part p).state = .live) && decide (ms > 0) && decide (stewardMs s - s.stw.lastUp > ms))
    .next (due.foldl (fun s p =>
      let s1 := applyExit (firstEpoch (closePeriod s p 4) p) p
      let t := s1.part p
      raise (s1.setPart p { t with leaseFenced := true }) (pgPart p) 1 []) s)

end Sys2Proof.Machine
end

