-- ==== Sys2Proof/Machine/Fire.lean ====
section
/-! DEFINITION. Firings of armed descriptors (R111, R127, R398). -/
namespace Sys2Proof.Machine

/-- Step 10 and effect of an opcode. -/
def doOp (s : State) (id : Nat) (r : Req) : State :=
  match dOpcode r.desc with
  | 0x01 => doAttend s id r
  | 0x02 => doAppend s id r
  | 0x03 => doMerge s id r
  | 0x04 => doTrim s id r
  | 0x05 => doDrop s id r
  | 0x06 => doPlan s id r
  | 0x07 => doPin s id r
  | 0x10 => doSearch s id r
  | 0x11 => doVinsert s id r
  | 0x12 => doVdelete s id r
  | 0x13 => doVmerge s id r
  | 0x20 => doMovePull s id r
  | 0x21 => doMirrorSet s id r
  | 0x30 => doLoad s id r
  | 0x31 => doUnload s id r
  | _ => doFence s id r

/-- A firing has left the trigger store: one of its ports is off the list, and a one-shot descriptor with none left is gone. -/
def takeFire (s : State) (a : Armed) : State :=
  let b := { a with fires := a.fires.drop 1 }
  if a.gone && b.fires.isEmpty then { s with armed := s.armed.filter (· ≠ a) }
  else { s with armed := s.armed.map (fun c => if c = a then b else c) }

/-- `FIRE` (R127): the earliest firing of an armed descriptor that still has to run takes a completion slot, checks its references again, and runs
steps 6 to 11. `ORDERED` holds it in its ring's order as it does an admission (R102). -/
def execFire (ring : Fin 4096) (key : Nat) (s : State) : Res :=
  match s.armed.find? (fun a => decide (a.ring = ring.val) && decide (a.key = key) && !a.fires.isEmpty), tget? s.rings ring.val with
  | some a, some g =>
    if slotFree g = false ∨ noService s = true ∨ (ideHold s && needsHost s ring.val a.desc) = true ∨ inOrder s ring.val a.order a.desc = false then .next s
    else
      let (id, s1) := newId ((takeFire s a).setRing ring.val { g with inflight := g.inflight + 1 })
      let r0 := holdObjs s { ring := ring.val, desc := a.desc, order := a.order, part := g.part, src := a.fires.headD 0, fired := true }
      let (r, s2) := numberReq s1 r0
      match refsFail s2 r.part r.desc with
      | some (_, f) => .next (failReq s2 id r f)
      | none =>
        match steps69 s2 r with
        | (some f, r1, s3) => .next (failReq s3 id r1 f)
        | (none, r1, s3) => .next (doOp s3 id r1)
  | _, _ => .next s

end Sys2Proof.Machine
end

