-- ==== Sys2Proof/Machine/Security.lean ====
section
/-! DEFINITION. The security block: certificates, reports, fence key, trust list, IDE handshakes, host windows, debug tokens
(R427, R435, R436, R440-R449). -/
namespace Sys2Proof.Machine

/-! ### The command register and the message buffer -/

def mbLen (s : State) : Nat := rdf s (pgSec + 0x10C) 0 13

/-- The message that the host has written. -/
def mbMsg (s : State) : List Byte := mread s.sec.mb 0 (min (mbLen s) 8192)

/-- `RESULT` of `SEC_STAT`. -/
def secResult (s : State) (n : Nat) : State := { s with sec := { s.sec with result := n } }

/-- The device leaves a message in the buffer. -/
def mbPut (s : State) (b : List Byte) : State :=
  wr { s with sec := { s.sec with mb := mwrite s.sec.mb 0 b } } (pgSec + 0x10C) b.length

/-- A window change holds `BUSY`. -/
def secBusy (s : State) : Bool := s.parts.any (fun e => e.2.winWait.isSome)

/-! ### Certificates (R427) -/

/-- A certificate of a role: the subject's key, the issuer's key, and the signature over what stands before it. -/
def certBody (s : State) (role : Nat) (meas : List Byte) (svn dbg : Nat) (pub kem issuer : List Byte) : List Byte :=
  leBytes 4 0x54524543 ++ leBytes 1 1 ++ leBytes 1 role ++ leBytes 2 (if role = 0 then 5012 else 3828) ++ leBytes 8 s.chip.serial ++ padTo meas 32 ++
  leBytes 4 svn ++ leBytes 1 dbg ++ List.replicate 11 0 ++ pub ++ kem ++ sha3 issuer

def certificate (s : State) (role : Nat) : List Byte :=
  if role = 0 then certBody s 0 [] 0 0 (dsaPub idSeed) (kemPub fwSeed) Config.eloanasPub ++ leBytes 2420 Config.deviceCertSig
  else if role = 1 then
    let b := certBody s 1 s.sec.m1 s.sec.svnUsed s.sec.debugByte (dsaPub (alias1 s)) [] (dsaPub idSeed)
    b ++ dsaSign idSeed b "XCN3-CERT"
  else
    let b := certBody s 2 s.sec.m2 s.sec.svnUsed s.sec.debugByte (dsaPub (alias2 s)) [] (dsaPub (alias1 s))
    b ++ dsaSign (alias1 s) b "XCN3-CERT"

/-- `READ_CERTIFICATE` (R427). An `INDEX` above 2 is a buffer command without a certificate: `RESULT` 2 (DESIGN CHOICE, log entry 78). -/
def execReadCertificate (index : Fin 16) (s : State) : Res := hostWr s pgSec <|
  if secBusy s then .next s else
  if index.val > 2 then .next (secResult s 2) else .next (raise (secResult (mbPut s (certificate s index.val)) 0) pgSec 4 [])

/-! ### Reports (R442-R445) -/

/-- Code of a partition state. -/
def partCode : PartState → Nat
  | .free => 0
  | .live => 1
  | .fenced => 2
  | .resetting => 3
  | .destroying => 4

/-- The 32-bit words of a map with bits set. -/
def mapWords (n : Nat) (l : List Nat) : List Nat := (List.range n).map (fun w => ((l.filter (fun b => decide (b / 32 = w))).map (fun b => 2 ^ (b % 32))).sum)

/-- The words of the resource maps in force, in offset order. -/
def partMaps (s : State) (p : Nat) : List Nat := mapWords 6 (partTiles s p) ++ mapWords 6 (partWays s p) ++ mapWords 32 (partPcKeys s p)

/-- The layout entry of a partition (R444). -/
def layoutEntry (s : State) (p : Nat) : List Byte :=
  let t := s.part p
  if t.state = .free then List.replicate 32 0
  else
    leBytes 1 (partCode t.state) ++ leBytes 1 ((if t.sealed then 1 else 0) + (if t.leaseFenced then 2 else 0)) ++ leBytes 1 (partTiles s p).length ++
    leBytes 1 (partWays s p).length ++ leBytes 2 (partPcKeys s p).length ++ [0, 0] ++ leBytes 4 (partC s p) ++ leBytes 4 (partF s p) ++
    (sha3 ((partMaps s p).flatMap (leBytes 4))).take 16

/-- Objects of a partition that are loaded and not unloading. -/
def liveObjects (s : State) (p : Nat) : Nat := (s.objects.filter (fun e => decide (e.1 / 65536 = p) && !e.2.unloading)).length

/-- The partition section (R445). -/
def partSection (s : State) (p : Nat) : List Byte :=
  let t := s.part p
  leBytes 1 p ++ [0, 0, 0] ++ leBytes 4 t.nload ++ leBytes 4 (liveObjects s p) ++ leBytes 4 0 ++ padTo t.chain 32 ++ List.replicate 16 0

/-- `RP_DEBUG`. -/
def debugState (s : State) : Nat := s.sec.level + (if s.sec.since2 then 4 else 0) + (if s.sec.since1 then 8 else 0)

/-- The bytes of a report before its signature. -/
def reportBody (s : State) (p : Nat) (psect : Bool) : List Byte :=
  let sect := psect && (s.part p).sealed && decide ((s.part p).state ≠ .free)
  leBytes 4 0x54505258 ++ leBytes 1 1 ++ leBytes 1 (if sect then 1 else 0) ++ leBytes 2 (if sect then 3764 else 3700) ++ mread s.sec.mb 0 32 ++ ownDigest ++
  leBytes 32 Config.romDigest ++ padTo s.sec.m1 32 ++ padTo s.sec.m2 32 ++ leBytes 4 s.sec.svn ++ leBytes 2 s.chip.step ++ leBytes 1 s.chip.lifecycle ++
  leBytes 1 (debugState s) ++ (match s.sec.fenceKey with | some k => sha3 k | none => List.replicate 32 0) ++
  (if s.sec.trust.isEmpty then List.replicate 32 0 else sha3 (s.sec.trust.flatMap (·.2))) ++ leBytes 4 (s.sec.reports + 1) ++ List.replicate 12 0 ++
  (List.range 32).flatMap (layoutEntry s) ++ (if sect then partSection s p else [])

/-- `REPORT` (R442). -/
def execReport (part : Fin 32) (psect : Bool) (s : State) : Res := hostWr s pgSec <|
  if secBusy s then .next s else
  let b := reportBody s part.val psect
  let s1 := { s with sec := { s.sec with reports := s.sec.reports + 1 } }
  .next (raise (secResult (mbPut s1 (b ++ dsaSign (alias2 s) b "XCN3-RPT")) 0) pgSec 4 [])

/-! ### Fence key and trust list (R436, R446) -/

/-- `INSTALL_FENCE_KEY` (R446). -/
def execInstallFenceKey (s : State) : Res := hostWr s pgSec <|
  if secBusy s then .next s else
  if s.sec.fenceKey.isSome then .next (secResult s 1)
  else if mbLen s ≠ 1312 then .next (secResult s 2)
  else .next (secResult { s with sec := { s.sec with fenceKey := some (mbMsg s) } } 0)

/-- The first free index of the trust list. -/
def trustFree (s : State) : Option Nat := (List.range 16).find? (fun i => decide (tget? s.sec.trust i = none))

/-- `ADD_TRUST_KEY` (R436). A message of another length than a key's is invalid (DEDUCED, log entry 78). -/
def execAddTrustKey (s : State) : Res := hostWr s pgSec <|
  if secBusy s then .next s else
  match trustFree s with
  | none => .next (secResult s 3)
  | some i =>
    if mbLen s ≠ 1312 then .next (secResult s 2)
    else .next (raise (secResult { s with sec := { s.sec with trust := tput s.sec.trust i (mbMsg s) } } 0) pgSec 3 [])

/-- `REMOVE_TRUST_KEY` (R436): port links whose session peer used the key go down. -/
def execRemoveTrustKey (index : Fin 16) (s : State) : Res := hostWr s pgSec <|
  if secBusy s then .next s else
  match tget? s.sec.trust index.val with
  | none => .next (secResult s 3)
  | some k =>
    let s1 := { s with sec := { s.sec with trust := tdel s.sec.trust index.val } }
    let s2 := (List.range 4).foldl (fun s n => if (s.port n).sealed && decide ((s.port n).hs.peer = sha3 k) then linkDown s n else s) s1
    .next (raise (secResult s2 0) pgSec 3 [])

/-! ### CXL IDE (R440, R441) -/

/-- A handshake message of the host fails with a reason: `ABORT` stands in the buffer, `RESULT` is 5. `ends` says that a session in force
ends with it. -/
def ideAbort (s : State) (reason : Option Nat) (ends : Bool) : State :=
  let s1 := match reason with
    | some r => mbPut s (hsAbort 1 r)
    | none => s
  let keep := !ends && decide (s.cxl.ide.phase = .done)
  let s2 := if keep then s1 else { s1 with cxl := { s1.cxl with
    ide := { phase := .failed }, ideIo := s1.cxl.ideIo && !ends, ideCm := s1.cxl.ideCm && !ends } }
  raise (secResult s2 5) pgCxl 4 []

/-- `IDE_HANDSHAKE_MESSAGE` (R440, R441): `HELLO` is answered, `CONFIRM` starts both streams with key set 0, `REKEY` advances the key set. A failure
ends a session in force where it is that of a `REKEY` or the host's `ABORT`, and else only the handshake (DESIGN CHOICE, log entry 79). -/
def execIdeHandshakeMessage (s : State) : Res := hostWr s pgSec <|
  if secBusy s then .next s else
  let m := mbMsg s
  let h := s.cxl.ide
  if le m 3 1 = 1 then
    match respond s m 1 with
    | (.error e, s1) => .next (ideAbort s1 (some e) false)
    | (.ok (r, h1), s1) => .next (secResult (mbPut { s1 with cxl := { s1.cxl with ide := h1 } } r) 0)
  else if le m 3 1 = 3 ∧ h.phase = .replySent then
    match confirmed s h m 1 with
    | .error e => .next (ideAbort s (some e) false)
    | .ok h1 =>
      let s1 := { s with cxl := { s.cxl with ide := h1, ideIo := true, ideCm := true, keyset := 0 } }
      .next (drainWrites (secResult s1 0) (2 * s1.cxl.wq.length + 3))
  else if le m 3 1 = 4 ∧ h.phase = .done then
    match rekeyed h m 1 with
    | .error e => .next (ideAbort s (some e) true)
    | .ok h1 =>
      .next (secResult (bump { s with cxl := { s.cxl with ide := h1, keyset := h1.keyIdx % 4 } } (pgCxl + 0x134) 16 16 1) 0)
  else if hsOk m 5 1 then .next (ideAbort s none true)
  else .next (ideAbort s (some 3) false)

/-! ### Host windows (R435) -/

/-- A range of host memory that a reference names meets the bytes from `lo` up to `hi`. -/
def hostOverlaps (r len lo hi : Nat) : Bool := decide (refSpace r = 0) && decide (len > 0) && decide (refAddr r < hi) && decide (lo < refAddr r + len)

/-- Something of a partition lies in the bytes from `lo` up to `hi` of host memory: a ring, a route object, a memory region, its metering ring. -/
def hostInUse (s : State) (p lo hi : Nat) : Bool :=
  let on := fun r len => hostOverlaps r len lo hi
  let pp := pgPart p
  s.rings.any (fun e => decide (e.2.part = p) && (on e.2.rbase (64 * rqSlots e.2) || on e.2.cbase (32 * cqSlots e.2))) ||
  s.objects.any (fun e => decide (e.1 / 65536 = p) && decide (e.2.kind = 6) && decide (rtKind e.2.bytes = 0) &&
    on (rtBase e.2.bytes) (max 1 (rtLimit e.2.bytes))) ||
  s.regions.any (fun e => decide (e.2.part = p) && !regShelf e.2 && on e.2.base e.2.len) ||
  (decide (rdf s (pp + 0x168) 4 1 = 1) && on (rd64 s (pp + 0x160)) (128 * 2 ^ (4 + rdf s (pp + 0x168) 0 4)))

/-- `APPLY_WINDOW` (R435): the staged base and length become the window; a range that it removes must be free. The removed range is what the old window
has and the new one has not. -/
def execApplyWindow (s : State) : Res := hostWr s pgSec <|
  if secBusy s then .next s else
  let w := rdf s (pgSec + 0x120) 0 4
  let p := rdf s (pgSec + 0x120) 4 5
  let base := rd64 s (pgSec + 0x124) / 4096 * 4096
  let len := rd64 s (pgSec + 0x12C) / 4096 * 4096
  let t := s.part p
  let (ob, ol) := (tget? t.windows w).getD (0, 0)
  let lows := if len = 0 then (ob, ob + ol) else (ob, min (ob + ol) base)
  let highs := if len = 0 then (ob + ol, ob + ol) else (max ob (base + len), ob + ol)
  let used := fun (r : Nat × Nat) => decide (r.1 < r.2) && hostInUse s p r.1 r.2
  if used lows || used highs then .next (secResult s 4)
  else
    let older := (s.reqs.filter (fun e => decide (e.2.part = p))).map (·.1)
    let shrinks := decide (lows.1 < lows.2) || decide (highs.1 < highs.2)
    let t1 := { t with
      windows := if len = 0 then tdel t.windows w else tput t.windows w (base, len)
      winWait := if shrinks && !older.isEmpty then some { win := w, older := older } else none }
    .next (secResult (s.setPart p t1) 0)

/-- `WINDOW_CHANGE_DONE` (R435): the requests admitted before the change have completed. -/
def execWindowChangeDone (part : Fin 32) (s : State) : Res :=
  let t := s.part part.val
  match t.winWait with
  | none => .next s
  | some w =>
    if w.older.any (fun i => (tget? s.reqs i).isSome) then .next s else .next (s.setPart part.val { t with winWait := none })

/-! ### Debug (R447-R449) -/

/-- A debug token is accepted. -/
def tokenGood (s : State) (b : List Byte) : Bool :=
  let lv := le b 5 1
  decide (b.length = 3796) && decide (le b 0 4 = 0x4B544244) && decide (le b 4 1 = 1) && (decide (lv = 1) || decide (lv = 2)) &&
  (bslice b 6 2).all (fun x => decide (x = 0)) && (bslice b 0x30 16).all (fun x => decide (x = 0)) &&
  decide (sha3 (bslice b 0x40 1312) = leBytes 32 Config.debugDigest) && decide (le b 8 8 = s.chip.serial) &&
  decide (bslice b 0x10 32 = s.sec.challenge) && dsaVerify (bslice b 0x40 1312) (b.take 0x560) (bslice b 0x560 2420) "XCN3-DBG" &&
  (decide (lv = 1) || s.parts.all (fun e => decide (e.2.state = .free)))

/-- `DEBUG_TOKEN` (R448, R449). -/
def execDebugToken (token : List Byte) (s : State) : Res :=
  if s.sec.fails ≥ 8 then .next s
  else
    let (ch, s1) := drawBytes s 32
    let s2 := { s1 with sec := { s1.sec with challenge := ch } }
    if tokenGood s token then
      let lv := le token 5 1
      let x := s2.sec
      let y := { x with level := max x.level lv, since1 := true, since2 := x.since2 || decide (lv = 2),
                        debugByte := if lv = 2 then 2 else x.debugByte, svnUsed := if lv = 2 then x.svn else x.svnUsed }
      .next (emit (raise { s2 with sec := y } pgSec 0 [BitVec.ofNat 8 lv]) (.debug true))
    else .next (emit (raise { s2 with sec := { s2.sec with fails := s2.sec.fails + 1 } } pgSec 1 []) (.debug false))

end Sys2Proof.Machine
end

