-- ==== Sys2Proof/Machine/Steward.lean ====
section
/-! DEFINITION. The ringmaster's restarts and load, firmware images and updates, and the way through `BOOT` (R452-R472, R511). -/
namespace Sys2Proof.Machine

/-! ### The boot record (R466) -/

/-- The newest valid copy of the boot record. -/
def bootRec (s : State) : BootRec :=
  if s.stw.recA.valid && (!s.stw.recB.valid || decide (s.stw.recB.gen ≤ s.stw.recA.gen)) then s.stw.recA
  else if s.stw.recB.valid then s.stw.recB else {}

/-- A boot record is written to the other copy. -/
def putBoot (s : State) (r : BootRec) : State :=
  let old := bootRec s
  let new := { r with valid := true, gen := (old.gen + 1) % 2 ^ 32 }
  if s.stw.recA.valid && decide (s.stw.recA = old) then { s with stw := { s.stw with recB := new } } else { s with stw := { s.stw with recA := new } }

/-- `BR_SLOT` of a slot: 0 empty, 1 loaded, 2 verified, 3 bad. -/
def slotCode (r : BootRec) (slot : Nat) : Nat := if slot = 0 then r.slotA else r.slotB

def setSlotCode (r : BootRec) (slot c : Nat) : BootRec := if slot = 0 then { r with slotA := c } else { r with slotB := c }

def slotImage (s : State) (slot : Nat) : Option Image := if slot = 0 then s.stw.slotA else s.stw.slotB

def setSlotImage (s : State) (slot : Nat) (i : Option Image) : State :=
  if slot = 0 then { s with stw := { s.stw with slotA := i } } else { s with stw := { s.stw with slotB := i } }

/-- A slot is marked in the boot record. -/
def markSlot (s : State) (slot c : Nat) : State := putBoot s (setSlotCode (bootRec s) slot c)

/-! ### Images (R457-R460) -/

def ihMinStep (h : List Byte) : Nat := le h 0x0C 2
def ihVersion (h : List Byte) : Nat := le h 0x10 8
def ihSvn (h : List Byte) : Nat := le h 0x18 4
def ihCfgVer (h : List Byte) : Nat := le h 0x1E 2
def ihNblk (h : List Byte) : Nat := le h 0x20 4
def ihNl1 (h : List Byte) : Nat := le h 0x24 2
def ihNl2 (h : List Byte) : Nat := le h 0x26 2

def zeros (l : List Byte) : Bool := l.all (fun b => decide (b = 0))

/-- The fields of a header are those of R457. -/
def headerForm (h : List Byte) : Bool :=
  decide (h.length = 4096) && decide (le h 0 4 = 0x4D494258) && decide (le h 4 1 = 1) && zeros (bslice h 5 3) && zeros (bslice h 0x0E 2) &&
  decide (ihSvn h ≤ 63) && decide (le h 0x1C 1 = 16) && zeros (bslice h 0x1D 1) && decide (1 ≤ ihNblk h) && decide (ihNblk h ≤ 32640) &&
  decide (1 ≤ ihNl1 h) && decide (ihNl1 h ≤ 256) && decide (1 ≤ ihNl2 h) && decide (ihNl2 h ≤ 4096) && decide (ihNl1 h + ihNl2 h ≤ ihNblk h) &&
  zeros (bslice h 0x28 8) && zeros (bslice h 0x570 16) && zeros (h.drop 0xEF4)

/-- The header check of R462: its `RESULT`, 0 where it passes. -/
def headerCheck (s : State) (h : List Byte) : Nat :=
  if !headerForm h then 2
  else if !bit (le h 8 4) 0 ∨ ihMinStep h > s.chip.step then 3
  else if sha3 (bslice h 0x50 1312) ≠ leBytes 32 Config.signerDigest ∨ dsaVerify (bslice h 0x50 1312) (h.take 0x580) (bslice h 0x580 2420) "XCN3-IMG" = false then 4
  else if ihSvn h < s.sec.svn then 5
  else 0

/-- The block table belongs to the header. Its digest is taken over the entries alone (DEDUCED, log entry 80). -/
def tableOk (h t : List Byte) : Bool := decide (sha3 t = bslice h 0x30 32)

/-- The content key that a capsule yields (R459). -/
def contentKey (c : List Byte) : Option (List Byte) :=
  let ss := leBytes 32 (Config.mlkemOpen fwSeed (bslice c 0x10 1088))
  Config.gcmOpen (kmac256 ss (c.take 8) 32 "XCN3-FWWRAP") (List.replicate 12 0) [] (bslice c 0x450 48)

/-- The stored block has the digest of its table entry. -/
def digestOk (t : List Byte) (i : Nat) (b : List Byte) : Bool := decide (b.length = 65536) && decide (sha3 b = bslice t (32 * i) 32)

/-- The plaintext of a good block. -/
def blockPlain (key h t : List Byte) (i : Nat) (b : List Byte) : Option (List Byte) :=
  if digestOk t i b then Config.gcmOpen key (leBytes 4 i ++ List.replicate 8 0) (h.take 0x30) b else none

/-- The plaintext of blocks `lo` up to `hi` of an image, where all are good. -/
def plainOf (key : List Byte) (m : Image) (lo hi : Nat) : Option (List Byte) :=
  ((List.range hi).drop lo).foldl (fun acc i =>
    match acc, blockPlain key m.header m.table i (m.blocks.getD i []) with
    | some a, some b => some (a ++ b)
    | _, _ => none) (some [])

/-- What of an image the boot ROM checks (R467): the content key and the loader's plaintext. -/
def romCheck (s : State) (m : Image) : Option (List Byte × List Byte) :=
  if headerCheck s m.header ≠ 0 ∨ tableOk m.header m.table = false ∨ le m.capsule 0 8 ≠ s.chip.serial then none
  else (contentKey m.capsule).bind (fun key => (plainOf key m 0 (ihNl1 m.header)).map (fun p => (key, p)))

/-- What the loader checks: the plaintexts of the runtime and of the resources. -/
def loaderCheck (m : Image) (key : List Byte) : Option (List Byte × List Byte) :=
  let a := ihNl1 m.header
  let b := a + ihNl2 m.header
  (plainOf key m a b).bind (fun x => (plainOf key m b (ihNblk m.header)).map (fun y => (x, y)))

/-- An image is good (R460). -/
def imageGood (s : State) (m : Image) : Bool :=
  match romCheck s m with
  | some (key, _) => (loaderCheck m key).isSome && decide (m.blocks.length = ihNblk m.header)
  | none => false

/-! ### Image files (R458, R462) -/

/-- Where the capsule section begins, and where the blocks do with `n` capsules. -/
def capsAt (h : List Byte) : Nat := 4096 + ceilDiv (32 * ihNblk h) 4096 * 4096
def blocksAt (h : List Byte) (n : Nat) : Nat := ceilDiv (capsAt h + 16 + 1152 * n) 65536 * 65536

/-- The first capsule of a device among capsules. -/
def findCapsule (serial : Nat) (l : List Byte) : Nat → Option (List Byte)
  | 0 => none
  | n + 1 => if l = [] then none else if le l 0 8 = serial then some (l.take 1152) else findCapsule serial (l.drop 1152) n

/-- A capsule section header. -/
def capsForm (c : List Byte) : Bool := decide (le c 0 4 = 0x53504143) && decide (1 ≤ le c 4 4) && decide (le c 4 4 ≤ 65535) && zeros (bslice c 8 8)

/-- The checks of R462 beside the trial check, over a file that `get` reads (`none` where a read fails): the `RESULT`, the slot contents without
blocks, and how many capsules it has. `len` is the length that the file must have. -/
def fileCheck (s : State) (len : Option Nat) (get : Nat → Nat → Option (List Byte)) : Nat × Image × Nat :=
  match get 0 4096 with
  | none => (9, {}, 0)
  | some h =>
    let ch := if headerForm h then get (capsAt h) 16 else none
    let n := match ch with | some c => le c 4 4 | none => 0
    let base := blocksAt h n
    let bad := !headerForm h || (match ch with
      | some c => !capsForm c || (match len with | some l => decide (l ≠ base + 65536 * ihNblk h) | none => false)
      | none => false)
    let hc := headerCheck s h
    let t := get 4096 (32 * ihNblk h)
    let cs := if ch.isSome then get (capsAt h + 16) (1152 * n) else none
    let code := if bad then 2 else if hc ≠ 0 then hc
      else if (match t with | some t => !tableOk h t | none => false) then 6
      else match cs, t with
        | some l, some _ => if (findCapsule s.chip.serial l n).isNone then 7 else 0
        | some l, none => if (findCapsule s.chip.serial l n).isNone then 7 else 9
        | none, _ => 9
    (code, { header := h, table := t.getD [], capsule := (cs.bind (fun l => findCapsule s.chip.serial l n)).getD [] }, base)

/-- A read of host memory that counts nothing: `none` where a line is poisoned. -/
def hostPeek (s : State) (a n : Nat) : Option (List Byte) := if poisoned s.hostBad a n then none else some (mread s.hostMem a n)

/-! ### Firmware commands (R462-R470) -/

/-- A firmware command ends with a `RESULT`. -/
def fwEnd (s : State) (n : Nat) : State :=
  let s1 := { s with stw := { s.stw with fw := none, fwResult := n } }
  if n ≥ 2 then raise s1 pgStw 4 [] else s1

/-- A firmware command, past `BUSY` (R545) and the ringmaster. -/
def fwCmd (s : State) (k : State → State) : Res :=
  if s.stw.fw.isSome then .next s
  else
    match rmGate s 2 with
    | (some _, s1) => .next (fwEnd s1 1)
    | (none, s1) => .next (k s1)

/-- A trial is pending or in force. -/
def trialOn (s : State) : Bool := (bootRec s).pending || (bootRec s).started

/-- `FW_STREAM` (R462, R463): an image that passes the checks begins to stream; the slot is erased and takes header, table and capsule. -/
def execFwStream (s : State) : Res := hostWr s pgStw <|
  fwCmd s (fun s =>
    let src := rd64 s (pgStw + 0x140)
    if trialOn s then fwEnd s 8
    else
      let (code, img, caps) := fileCheck s (some (rd s (pgStw + 0x148))) (fun o n => hostPeek s (src + o) n)
      let size := if headerForm img.header then capsAt img.header + 16 + 1152 * caps else 4096
      let s1 := bump s (pgCxl + 0x128) 0 32 (lineCount src size)
      if code = 9 then fwEnd (poisonRcvd s1 (badLines s.hostBad src size)) 9
      else if code ≠ 0 then fwEnd s1 code
      else
        let slot := 1 - (bootRec s).active
        let s2 := setSlotImage (markSlot s1 slot 0) slot (some img)
        { s2 with stw := { s2.stw with fw := some { stream := true, slot := slot, base := src + blocksAt img.header caps }, fwDone := 0 } })

/-- A stream ends before its slot is loaded: the slot is empty (R464). -/
def stopStream (s : State) (slot n : Nat) : State := fwEnd (setSlotImage (markSlot s slot 0) slot none) n

/-- The blocks of a stream from host memory, each checked against the table: the blocks, or the `RESULT` that stops the stream. -/
def streamBlocks (s : State) (t : List Byte) (base : Nat) : Nat → Nat → Except Nat (List (List Byte))
  | _, 0 => .ok []
  | i, n + 1 =>
    match hostPeek s (base + 65536 * i) 65536 with
    | none => .error 9
    | some b => if !digestOk t i b then .error 6 else (streamBlocks s t base (i + 1) n).map (fun l => b :: l)

/-- `FW_DONE` (R463): the blocks have been streamed, or a mismatch or a failed read has stopped the stream. -/
def execFwDone (s : State) : Res :=
  match s.stw.fw with
  | none => .next s
  | some j =>
    if !j.stream || decide (s.stw.rm ≠ .running) || ideHold s then .next s
    else
      match slotImage s j.slot with
      | none => .next (stopStream s j.slot 9)
      | some m =>
        let n := ihNblk m.header
        let s1 := bump s (pgCxl + 0x128) 0 32 (1024 * n)
        match streamBlocks s m.table j.base 0 n with
        | .error e =>
          .next (stopStream (if e = 9 then poisonRcvd s1 (badLines s.hostBad j.base (65536 * n)) else s1) j.slot e)
        | .ok l =>
          let s2 := markSlot (setSlotImage s1 j.slot (some { m with blocks := l })) j.slot 1
          .next (raise (fwEnd { s2 with stw := { s2.stw with fwDone := 1000 } } 0) pgStw 3 [])

/-- `FW_ABORT` (R464): it aborts a stream; with none it does nothing. -/
def execFwAbort (s : State) : Res := hostWr s pgStw <|
  match rmGate s 2 with
  | (some _, s1) => .next { s1 with stw := { s1.stw with fwResult := 1 } }
  | (none, s) =>
    match s.stw.fw with
    | some j => if j.stream then .next (stopStream s j.slot 0) else .next s
    | none => .next s

/-- `FW_VERIFY` (R465): the verification of a slot begins. -/
def execFwVerify (slot : Fin 2) (s : State) : Res := hostWr s pgStw <|
  fwCmd s (fun s => { s with stw := { s.stw with fw := some { slot := slot.val }, fwDone := 0 } })

/-- `FW_VERIFY_DONE` (R460, R465): a slot that is good is verified. -/
def execFwVerifyDone (s : State) : Res :=
  match s.stw.fw with
  | none => .next s
  | some j =>
    if j.stream || decide (s.stw.rm ≠ .running) then .next s
    else
      let good := match slotImage s j.slot with | some m => decide (slotCode (bootRec s) j.slot ≠ 0) && imageGood s m | none => false
      let s1 := { s with stw := { s.stw with fwDone := 1000 } }
      if good then .next (fwEnd (markSlot s1 j.slot 2) 0) else .next (fwEnd s1 6)

/-- `ACTIVATE_TRIAL` (R465): the inactive slot is the trial slot of the next passage through `BOOT`, once it has been verified. -/
def execActivateTrial (s : State) : Res := hostWr s pgStw <|
  fwCmd s (fun s =>
    let r := bootRec s
    if slotCode r (1 - r.active) ≠ 2 then fwEnd s 6 else fwEnd (putBoot s { r with pending := true, trial := 1 - r.active }) 0)

/-- The running trial image is committed (R468). -/
def commitTrial (s : State) : State :=
  let r := bootRec s
  raise (putBoot s { r with active := r.trial, pending := false, started := false, oldKept := false }) pgStw 5 []

/-- `COMMIT` (R468). With no trial in force there is nothing to commit (DESIGN CHOICE, log entry 81). -/
def execCommit (s : State) : Res := hostWr s pgStw <|
  fwCmd s (fun s => if (bootRec s).started then fwEnd (commitTrial s) 0 else fwEnd s 0)

/-- `RAISE_SECURITY_VERSION` (R470): the counter rises to that of the committed image. -/
def execRaiseSecurityVersion (s : State) : Res := hostWr s pgStw <|
  fwCmd s (fun s =>
    let v := match slotImage s (bootRec s).active with | some m => ihSvn m.header | none => 0
    if trialOn s then fwEnd s 8
    else if v ≤ s.sec.svn then fwEnd s 5
    else fwEnd { s with sec := { s.sec with svn := v } } 0)

/-- `CANCEL_TRIAL` (R465). -/
def execCancelTrial (s : State) : Res := hostWr s pgStw <|
  fwCmd s (fun s => if (bootRec s).pending then fwEnd (putBoot s { bootRec s with pending := false }) 0 else fwEnd s 0)

/-- The device has reached `READY` and has not left service. -/
def inService (s : State) : Bool := decide (s.dev.state = .ready) || decide (s.dev.state = .serve) || decide (s.dev.state = .drain)

/-- `TRIAL_COMMIT_TIMER` (R468): 600 s from `READY` with no watchdog expiry. -/
def execTrialCommitTimer (s : State) : Res :=
  if inService s && (bootRec s).started && decide (s.stw.rm = .running) then .next (commitTrial s) else .next s

/-! ### Ringmaster restarts (R452-R456) -/

/-- The resource maps of a partition whose maps were being applied return to those before the command (R455): what was added goes as removed
resources do, what had already gone returns where nobody has it (DESIGN CHOICE, log entry 82). -/
def reverseMaps (s : State) (p : Nat) : State :=
  let t := s.part p
  match t.before with
  | none => s
  | some (bt, bw, bp) =>
    let back := fun (o : Tab Nat) (l : List Nat) => l.foldl (fun o k => if (tget? o k).isSome then o else tput o k p) o
    let s1 := { s with tileOwner := back s.tileOwner bt, wayOwner := back s.wayOwner bw, pcOwner := back s.pcOwner (bp.filter (fun k => !pcRetiring s k)) }
    let rt := (partTiles s1 p).filter (fun k => !bt.contains k)
    let rw := (partWays s1 p).filter (fun k => !bw.contains k)
    let rp := (partPcKeys s1 p).filter (fun k => !bp.contains k)
    partResult (s1.setPart p { t with rmTiles := rt, rmWays := rw, rmPcs := rp, before := none, busy := !(rt.isEmpty && rw.isEmpty && rp.isEmpty) }) p 1

/-- What a restart does to the work in progress (R304, R455). -/
def dropWork (s : State) : State :=
  let late : Fail := { status := stRetryLater, i0 := 100000 }
  let s1 := (List.range 32).foldl reverseMaps s
  let s2 := (s1.links.filter (fun e => e.2.seed.isSome)).foldl (fun s e => cutLink (endSeed s e.1 late) e.1 false) s1
  let s3 := s2.vidx.foldl (fun s e =>
    match e.2.building with
    | none => s
    | some b =>
      let s1 := putIndex s e.1 { e.2 with building := none }
      match tget? s1.reqs b.req with
      | some r => failReq s1 b.req r late
      | none => s1) s2
  let s4 := match s3.regionBusy with
    | none => s3
    | some w => wrf (wrf { s3 with regionBusy := none, regions := tput s3.regions w.index w.old } (pgNet 0 + 0x2A4) 0 1 0) (pgNet 0 + 0x2A4) 1 3 1
  match s4.stw.fw with
  | none => s4
  | some j => if j.stream then stopStream s4 j.slot 1 else fwEnd s4 1

/-- The ringmaster alone restarts. -/
def rmRestart (s : State) (op : Bool) : State :=
  let s1 := dropWork (bump { s with stw := { s.stw with rm := .restarting, lastOp := op } } (pgStw + 0x124) 0 16 1)
  raise s1 pgStw 0 []

/-- A started trial ends with a watchdog expiry in service (R468). -/
def expireTrial (s : State) : State :=
  if inService s && (bootRec s).started then raise (putBoot s { bootRec s with started := false, pending := false }) pgStw 6 [] else s

/-- `WATCHDOG_EXPIRY` (R454, R456): the fourth within 10 minutes holds the ringmaster in reset. -/
def execWatchdogExpiry (s : State) : Res :=
  if s.stw.rm ≠ .running ∨ s.dev.state = .off ∨ s.dev.state = .boot then .next s
  else
    let now := stewardMs s
    let recent := s.stw.expiries.filter (fun t => decide (now < t + 600000))
    let s1 := expireTrial { s with stw := { s.stw with expiries := recent ++ [now] } }
    if recent.length ≥ 3 then
      let s2 := dropWork { s1 with stw := { s1.stw with rm := .held } }
      .next (setSbAlert (raise s2 pgStw 1 []) 2)
    else .next (rmRestart s1 false)

/-- `RESTART` (R454). -/
def execRestart (s : State) : Res := hostWr s pgStw <|
  if s.stw.rm ≠ .running ∨ s.dev.state = .off ∨ s.dev.state = .boot then .next s else .next (rmRestart s true)

/-- `RESTART_DONE` (R454): the classes resume. The ringmaster writes the repairs that the controllers kept for it (R278), runs the table commands that
waited (R263), and takes up the merges that are still queued (R455). -/
def execRestartDone (s : State) : Res :=
  if s.stw.rm = .restarting then
    let s1 := { s with stw := { s.stw with rm := .running }, hbm := s.hbm.map (fun (e : Nat × Hbm) => (e.1, { e.2 with unwritten := 0 })) }
    .next (s1.vidx.foldl (fun s (e : Nat × VIndex) => if e.2.building.isNone then nextMerge s e.2.part e.2.handle else s) (tblResume s1))
  else .next s

/-- `LOAD_WINDOW` (R452): a window of 10 ms with a load in percent. A deferral that starts at `t` ends after three windows at or below `t - 20`. -/
def execLoadWindow (load : Nat) (s : State) : Res :=
  if load > 100 then .fault (.operand "a load above 100 %")
  else if s.stw.rm ≠ .running then .next s
  else
    let w := s.stw
    let c3 := if load ≤ 50 then w.calm3 + 1 else 0
    let c23 := if load ≤ 65 then w.calm23 + 1 else 0
    let d3 := decide (load ≥ 70) || (w.defer3 && decide (c3 < 3))
    let d23 := decide (load ≥ 85) || (w.defer23 && decide (c23 < 3))
    let s1 := { s with stw := { w with load := load, calm3 := min c3 3, calm23 := min c23 3, defer3 := d3, defer23 := d23 } }
    let s2 := if d3 && !w.defer3 then raise s1 pgStw 2 [] else s1
    .next (if d23 && !w.defer23 then raise s2 pgStw 2 [] else s2)

/-! ### The way through BOOT (R467-R472, R511) -/

/-- The loader of an image starts: its measurement is formed and its layer derived. -/
def startLoader (s : State) (slot : Nat) (m : Image) (loader : List Byte) : State :=
  { s with sec := { s.sec with m1 := sha3 (m.header.take 0x580 ++ loader), svnUsed := s.sec.svn },
           stw := { s.stw with runSlot := slot }, dev := { s.dev with bootStep := 1 } }

/-- The boot ROM tries a slot: the loader starts, or the slot is marked bad, or it is passed over. -/
def trySlot (s : State) (slot : Nat) : Bool × State :=
  let c := slotCode (bootRec s) slot
  if c = 0 ∨ c = 3 then (false, s)
  else
    match (slotImage s slot).bind (fun m => (romCheck s m).map (fun x => (m, x.2))) with
    | some (m, loader) => (true, startLoader s slot m loader)
    | none => (false, markSlot s slot 3)

/-- The keys that the root of trust draws at a passage: the directory key, the device keys and the debug challenge (R426, R448). -/
def bootKeys (s : State) : State :=
  if s.dir.key ≠ [] then s
  else
    let (k, s1) := drawBytes s 32
    let (c, s2) := drawBytes s1 32
    let (d, s3) := draw s2
    { s3 with dir := { s3.dir with key := k }, sec := { s3.sec with challenge := c, devKeys := d } }

/-- `BOOT_ROM` (R467, R469): the slot is chosen and tried, then the other one, and else the device waits for a recovery image. -/
def execBootRom (s : State) : Res :=
  if s.dev.state ≠ .boot ∨ s.dev.bootStep ≠ 0 ∨ s.stw.recovery = true then .next s
  else
    let s0 := bootKeys s
    let r := bootRec s0
    let r1 := { r with boots := (r.boots + 1) % 2 ^ 32 }
    let (slot, r2, ended) := if r.pending then (r.trial, { r1 with pending := false, started := true }, false)
      else if r.started then (r.active, { r1 with started := false }, true) else (r.active, r1, false)
    let s1 := putBoot s0 r2
    let s2 := { s1 with stw := { s1.stw with trialEnded := s1.stw.trialEnded || ended } }
    match trySlot s2 slot with
    | (true, s3) => .next s3
    | (false, s3) =>
      let r3 := bootRec s3
      let s4 := if r3.started || r3.pending then
          let s5 := putBoot s3 { r3 with started := false, pending := false }
          { s5 with stw := { s5.stw with trialEnded := s5.stw.trialEnded || r3.started } }
        else s3
      match trySlot s4 (1 - slot) with
      | (true, s5) => .next s5
      | (false, s5) => .next (setSbAlert { s5 with stw := { s5.stw with recovery := true, recBytes := [], recResult := 0xFF, recWait := false } } 1)

/-- `LOADER_START` (R467): the runtime and the resources are checked; on a failure the slot is bad and the boot ROM runs again. -/
def execLoaderStart (s : State) : Res :=
  if s.dev.state ≠ .boot ∨ s.dev.bootStep ≠ 1 then .next s
  else
    let slot := s.stw.runSlot
    match (slotImage s slot).bind (fun m => (contentKey m.capsule).bind (fun k => (loaderCheck m k).map (fun x => x))) with
    | some (run, res) =>
      .next { s with sec := { s.sec with m2 := sha3 (run ++ res) }, dev := { s.dev with bootStep := 2 } }
    | none => let s1 := markSlot s slot 3; .next { s1 with dev := { s1.dev with bootStep := 0 } }

/-- The runtime chooses its settings (R472). -/
def chooseSettings (s : State) (ver : Nat) : State :=
  let r := bootRec s
  let cur := s.stw.halves.getD r.half 0
  let use := fun (s : State) h => { s with stw := { s.stw with cfgFormat := ver, cfgHalf := h } }
  if cur = ver then use s r.half
  else if cur < ver then
    let h := 1 - r.half
    let s1 := putBoot { s with stw := { s.stw with halves := modAt (fun _ => ver) h s.stw.halves } } { r with half := h, oldKept := true }
    raise (use s1 h) pgStw 7 (leBytes 2 cur ++ leBytes 2 ver)
  else if r.oldKept && decide (s.stw.halves.getD (1 - r.half) 0 = ver) then use s (1 - r.half)
  else raise (use s r.half) pgStw 8 []

/-- `RUNTIME_START` (R472, R477, R483, R513): `TRAIN` begins. The log is empty until here (DEDUCED, log entry 83), so that the boot record is its first
record. -/
def execRuntimeStart (s : State) : Res :=
  if s.dev.state ≠ .boot ∨ s.dev.bootStep ≠ 2 then .next s
  else
    let h := match slotImage s s.stw.runSlot with | some m => m.header | none => []
    let s1 := { s with
      dev := { s.dev with state := .train, bootStep := 0 }, stw := { s.stw with runVer := ihVersion h },
      evr := { s.evr with log := [], nextSeq := 0, overflow := 0, inGroup := false } }
    let data := leBytes 1 s.dev.bootCause ++ leBytes 4 (bootRec s).boots ++ leBytes 1 s.stw.runSlot ++ leBytes 1 (if s.stw.trialEnded then 1 else 0)
    let s2 := record s1 0x00 0 0x070 0 0x20 data
    let s3 := if s.stw.trialEnded then raise s2 pgStw 6 [] else s2
    .next (chooseSettings s3 (ihCfgVer h))

/-- The repair log of a stack is applied again (R279): which repairs the fuses that remain take is open, and the booths of retired pseudo-channels of a
front stack are disabled. -/
def replayRepairs (s : State) (k : Nat) : State :=
  let (v, s1) := draw s
  let h := s1.hbmc k
  let s2 := s1.setHbm k { h with log := (h.log.zip (List.range h.log.length)).map (fun e => { e.1 with hard := e.1.hard || bit v e.2 }) }
  if isFront k then h.retired.foldl (fun s pc => (List.range 8).foldl (fun s i =>
      let b := boothNo k (pairBooth pc i)
      s.setBooth b { s.booth b with disabled := true }) s) s2 else s2

/-- A dump slot holds an unreleased or an incomplete dump. -/
def dumpHeld (s : State) : Bool :=
  let f := fun (d : DumpSlot) => decide (d.state = .unreleased) || decide (d.state = .incomplete)
  f s.evr.dump0 || f s.evr.dump1

/-- `TRAIN_DONE` (R258, R279, R373, R513, R514, R532): the cabinet is mounted, the pages are open, and the device is `READY`. Stacks and booths that
fail their tests in `TRAIN` have been fenced and disabled by then (`STACK_FENCE`, `BOOTH_JOB_TIMEOUT`; log entry 161). -/
def execTrainDone (s : State) : Res :=
  if s.dev.state ≠ .train then .next s
  else
    let s1 := (List.range 16).foldl replayRepairs s
    let s2 := { s1 with dev := { s1.dev with state := .ready, pagesOpen := true }, cab := { s1.cab with mounted := true },
                        cxl := { s1.cxl with memActive := true } }
    .next (if dumpHeld s2 then raise s2 pgEvr 2 [] else s2)

/-- The bytes of a recovery image as a file. -/
def recGet (l : List Byte) (o n : Nat) : Option (List Byte) := if o + n ≤ l.length then some (bslice l o n) else none

/-- A recovery image is refused. -/
def recRefuse (s : State) (n : Nat) : State := { s with stw := { s.stw with recResult := n, recWait := true } }

/-- `RECOVERY_IMAGE_DATA` (R469, R511): bytes of the image arrive; each check is made as soon as its bytes are there, and a whole image that is good
becomes slot A, committed, and starts. -/
def execRecoveryImageData (data : List Byte) (s : State) : Res :=
  if s.stw.recovery = false ∨ s.stw.recWait = true then .next s
  else
    let l := s.stw.recBytes ++ data
    let s1 := { s with stw := { s.stw with recBytes := l } }
    let (code, img, caps) := fileCheck s1 none (recGet l)
    let base := blocksAt img.header caps
    if code = 9 then .next s1
    else if code ≠ 0 then .next (recRefuse s1 code)
    else
      let n := ihNblk img.header
      let have_ := (l.length - base) / 65536
      let blocks := (List.range (min n have_)).map (fun i => bslice l (base + 65536 * i) 65536)
      let okay := (blocks.zip (List.range blocks.length)).all (fun e => digestOk img.table e.2 e.1)
      let m := { img with blocks := blocks }
      if !okay then .next (recRefuse (setSlotImage (markSlot s1 0 0) 0 none) 6)
      else if have_ < n then .next s1
      else
        match romCheck s1 m, imageGood s1 m with
        | some (_, loader), true =>
          let r := bootRec s1
          let s2 := putBoot (setSlotImage s1 0 (some m)) { r with active := 0, slotA := 2, pending := false, started := false }
          .next (startLoader { s2 with stw := { s2.stw with recovery := false, recResult := 0, recBytes := [] } } 0 m loader)
        | _, _ => .next (recRefuse (setSlotImage (markSlot s1 0 0) 0 none) 6)

/-- `RECOVERY_STATUS_REQUEST` (R511). -/
def execRecoveryStatusRequest (s : State) : Res :=
  if s.stw.recovery then .next (emit s (.usb (leBytes 4 s.stw.recBytes.length ++ leBytes 1 s.stw.recResult ++ [0, 0, 0]))) else .next s

/-- `RECOVERY_REENUMERATION` (R511): after a refusal the port takes a new image. -/
def execRecoveryReenumeration (s : State) : Res :=
  if s.stw.recovery && s.stw.recWait then .next { s with stw := { s.stw with recBytes := [], recResult := 0xFF, recWait := false } } else .next s

end Sys2Proof.Machine
end

