-- ==== Sys2Proof/Machine/RegView.lean ====
section
/-! DEFINITION. What the host reads from BAR0: every page of R526, its header, its registers, and the windows (R6-R9, R373, R525-R538). A register
that shows state kept elsewhere is computed from that state here, and nowhere else. -/
namespace Sys2Proof.Machine

/-- The capability directory (R534): `CAP_ID`, first page, count. -/
def capDir (s : State) : List (Nat × Nat × Nat) :=
  [(0x0010, 0x010, 16), (0x0011, 0x020, 4), (0x0012, 0x024, 4), (0x0020, 0x030, 16)] ++
  (if s.chip.boothCap then [(0x0021, 0x040, 16)] else []) ++
  [(0x0030, 0x061, 1), (0x0040, 0x028, 4), (0x0050, 0x050, 4), (0x0051, 0x054, 8), (0x0060, 0x060, 1), (0x0070, 0x070, 1), (0x0071, 0x071, 1),
   (0x0072, 0x0A0, 32), (0x0080, 0x072, 1), (0x0090, 0x073, 1), (0x00A0, 0x080, 32), (0x00B0, 0x0C0, 32), (0x0100, 0x1000, 4096)] ++
  (if s.chip.dcCap then [(0x0200, 0x060, 1)] else []) ++ (if s.chip.replayCap then [(0x0201, 0x0A0, 32)] else []) ++
  (if s.chip.sealedCap then [(0x0202, 0x080, 32)] else []) ++ (if s.chip.mxf4Cap then [(0x0203, 0, 0)] else []) ++
  (if s.chip.leaseCap then [(0x0204, 0x080, 32)] else []) ++ (if s.chip.cabCap then [(0x0205, 0x061, 1)] else [])

/-! ### Views of state -/

/-- Code of a device state (R513). -/
def devCode : DevState → Nat
  | .off => 0
  | .boot => 1
  | .train => 2
  | .ready => 3
  | .serve => 4
  | .drain => 5
  | .dump => 6
  | .halt => 7

/-- The low or the high half of a 64-bit value, by the offset within it. -/
def half (v off : Nat) : Nat := if off % 8 < 4 then v % 2 ^ 32 else v / 2 ^ 32 % 2 ^ 32

def b2n (b : Bool) : Nat := if b then 1 else 0

/-- Runs on the threads of a cluster. -/
def clusterRuns (s : State) (c : Nat) : List Run :=
  s.reqs.flatMap (fun e => e.2.runs.filter (fun x => onThread x && decide (x.tile / 12 = c)))

def viewTcl (s : State) (c off : Nat) : Option Nat :=
  if off = 0x100 then
    let l := clusterRuns s c
    let parked := ((l.filter (fun x => x.booth && decide (x.phase = .scoring))).map (·.tile)).eraseDups
    some (l.length + parked.length * 2 ^ 13)
  else none

def viewAsch (s : State) (n off : Nat) : Option Nat :=
  let pg := pgAsch n
  if off = 0x11C then
    some (b2n (aschBusy s n) + 2 * b2n (tget? s.rings (1024 * n + rdf s (pg + 0x100) 0 10)).isSome + 4 * rdf s (pg + 0x11C) 2 2)
  else if off = 0x124 then some (armedOn s n).length
  else none

/-- A ring waits for completion space: a record waits, or a descriptor could be taken. -/
def cqWait (g : Ring) : Bool := !slotFree g && (!g.records.isEmpty || (decide (g.ci ≠ g.pi) && !g.stopped && !g.destroying))

def viewRing (s : State) (r off : Nat) : Option Nat :=
  match tget? s.rings r with
  | none => some 0
  | some g =>
    if off = 0x100 then some g.pi.toNat
    else if off = 0x104 then some g.ci.toNat
    else if off = 0x108 then some g.cqPi.toNat
    else if off = 0x10C then some g.cqCi.toNat
    else if off = 0x110 then some (g.inflight + 2 ^ 17 + b2n g.stopped * 2 ^ 18 + b2n (cqWait g) * 2 ^ 19)
    else none

/-- Entries of a quarter that are not free: shelves, and entries retired under R272. -/
def dirOcc (s : State) (n : Nat) : Nat :=
  (s.dir.shelves.filter (fun e => decide (shelfDie e.2 = n))).length + (s.dir.retired.filter (fun e => decide (e.1 = n) &&
    !s.dir.shelves.any (fun x => decide (shelfDie x.2 = n) && decide (x.2.place = e.2)))).length

def viewDir (s : State) (n off : Nat) : Option Nat :=
  if off = 0x100 then some (dirOcc s n)
  else if off = 0x104 then some (stashCount s.dir n + rdf s (pgDir n + 0x104) 16 9 * 2 ^ 16)
  else none

def viewRule (s : State) (n off : Nat) : Option Nat :=
  if off = 0x100 then
    some ((s.rules.entries.filter (fun e => decide (e.1 / 16384 = n) && e.2.valid)).length + rdf s (pgRule n + 0x100) 16 8 * 2 ^ 16)
  else if n = 0 ∧ off = 0x260 then some (s.rules.deflt % 2 ^ 32)  -- log entry 95
  else if n = 0 ∧ off = 0x264 then some (s.rules.deflt / 2 ^ 32)
  else none

def viewHbm (s : State) (k off : Nat) : Option Nat :=
  let h := s.hbmc k
  let bitsOf := fun (lo : Nat) => ((List.range 32).map (fun i => if h.retired.contains (lo + i) then 2 ^ i else 0)).sum
  if off = 0x108 then some (match h.last with | some (l, _) => l + 2 ^ 31 | none => 0)
  else if off = 0x10C then some (match h.last with | some (l, c) => linePc l + c * 2 ^ 8 | none => 0)
  else if off = 0x110 then some (rdf s (pgHbm k + 0x110) 0 16 + spareMin h * 2 ^ 16)
  else if off = 0x114 then some (bitsOf 0)
  else if off = 0x118 then some (bitsOf 32)
  else if off = 0x11C then some (b2n h.fenced + 2 * b2n (!h.retiring.isEmpty) + h.scrub * 1000 / (64 * linesPerPc) * 4)
  else if off = 0x124 then
    some (sat 32 (h.poison.length + (s.devBad.filter (fun e => decide (dpaStack s (e.1 * 64) = some k))).length + h.dropped))
  else none

/-- Code of a booth's state (`BTH_BOOTH`). -/
def boothCode (s : State) (b : Nat) : Nat :=
  let y := s.booth b
  if y.disabled then 4
  else if (bthPart s b).isNone then 5
  else if y.job.isNone then 0
  else match y.park with
    | .refresh => 2
    | .access => 3
    | .no => 1

def viewBth0 (s : State) (f off : Nat) : Option Nat :=
  let bs := (List.range 512).map (fun i => s.booth (boothNo f i))
  if off = 0x104 then
    some (((List.range 512).filter (fun i => decide (boothCode s (boothNo f i) = 0) && (s.booth (boothNo f i)).queue.isEmpty)).length + (bs.filter running).length * 2 ^ 10 +
      (bs.filter (fun y => y.disabled)).length * 2 ^ 20)
  else if off = 0x108 then some (s.fstack f).slots.length
  else if off = 0x10C then
    let v := (List.range 8).map (fun i => if bit (le ((s.fstack f).desc.getD i []) 5 1) 7 then 2 ^ i else 0)
    let y := (List.range 8).map (fun i => if scriptBusy s f i then 2 ^ i else 0)
    some (v.sum + y.sum * 2 ^ 8)
  else none

def viewBth1 (s : State) (f off : Nat) : Option Nat :=
  if 0x100 ≤ off ∧ off < 0x900 then
    let b := boothNo f ((off - 0x100) / 4)
    let y := s.booth b
    some (boothCode s b + (bthPart s b).getD 0 * 2 ^ 4 + (match y.job with | some j => j.script | none => 0) * 2 ^ 9 + y.queue.length * 2 ^ 12 +
      (if y.job.isSome then y.entry else 0) * 2 ^ 17)
  else none

/-- Space of the holding buffer in use, in units of 64 bytes. -/
def heldUnits (s : State) (p : Nat) : Nat := ((s.port p).held.map (fun h => holdUnits h.pkt)).sum

def viewNet (s : State) (p off : Nat) : Option Nat :=
  let x := s.port p
  if off = 0x104 then
    some (b2n x.up + 2 * b2n x.ptpLock + 4 * b2n x.sealed + heldUnits s p * 2 ^ 3 + x.refusals.length * 2 ^ 16)
  else if off = 0x108 then some (x.cache.length + (x.cache.filter (fun q => !evictable s p q)).length * 2 ^ 16)
  else if off = 0x300 then some (portTime s p % 1000000000)
  else if off = 0x304 then some (x.secLatch % 2 ^ 32)
  else if off = 0x308 then some (x.secLatch / 2 ^ 32 % 2 ^ 16)
  else none

def viewShp1 (s : State) (p off : Nat) : Option Nat :=
  if off = 0x904 then some (tget 0 (s.port p).polDrops (rdf s (pgShp p 1 + 0x900) 0 8)) else none

def viewCxl (s : State) (off : Nat) : Option Nat :=
  let c := s.cxl
  if off = 0x100 then
    some (c.speed + c.width * 4 + b2n c.flit256 * 16 + b2n c.cacheEn * 32 + b2n (memOn s) * 64 + b2n (c.ideIo && c.ideCm) * 128)
  else if off = 0x11C then
    some ((c.ext.filter (fun e => decide (e.2.state ≠ .free))).length + (c.ext.filter (fun e => decide (e.2.state = .accepted))).length * 2 ^ 16)
  else if off = 0x120 then some ((c.filter.map (·.length)).sum)
  else if off = 0x134 then some (b2n c.ideIo + 2 * b2n c.ideCm + c.keyset * 4 + rdf s (pgCxl + 0x134) 16 16 * 2 ^ 16)
  else none

/-- GiB of TLC flash that hold valid blocks, rounded down. -/
def physGib (s : State) : Nat := (s.cab.blocks.map (fun e => e.2.valid)).sum / 2 ^ 30

def viewCab (s : State) (off : Nat) : Option Nat :=
  if off = 0x100 then some (b2n s.cab.mounted + 2 * b2n s.cab.readOnly + 4 * b2n s.cab.gcUrgent)
  else if off = 0x104 then some (((List.range 32).map (fun p => rdf s (pgPart p + 0x208) 0 13)).sum + physGib s * 2 ^ 16)
  else if off = 0x108 then some (min 1023 (eraseSum s * 1000 / (5000 * tlcBlocks)) + sat 16 (eraseSpread s) * 2 ^ 16)
  else if off = 0x10C then some (if s.cab.mounted then spareBlocks s else 0)
  else if off = 0x114 then some (s.cab.patrol * 1000 / patrolPages s + rdf s (pgCab + 0x114) 16 8 * 2 ^ 16)
  else if off = 0x11C then some (if s.cab.ratioN = 0 then 0 else sat 16 (s.cab.ratioSum / s.cab.ratioN))
  else none

/-- Code of the ringmaster's state. -/
def rmCode : Rm → Nat
  | .running => 0
  | .restarting => 1
  | .held => 2

/-- Header of the image in a slot that is not empty. -/
def slotHeader (s : State) (slot : Nat) : List Byte :=
  if slotCode (bootRec s) slot = 0 then [] else match slotImage s slot with | some m => m.header | none => []

def viewStw (s : State) (off : Nat) : Option Nat :=
  let w := s.stw
  let r := bootRec s
  if off = 0x100 then
    let def_ := (List.range 4).map (fun c => if deferred s c || decide (w.queues.getD c 0 ≥ classQueue c) then 2 ^ c else 0)
    some (rmCode w.rm + def_.sum * 4 + w.runSlot * 2 ^ 6 + b2n w.recovery * 2 ^ 7 + w.load * 2 ^ 8 + s.sec.svn * 2 ^ 15)
  else if off = 0x120 then some (w.queues.getD 1 0 + w.queues.getD 2 0 * 2 ^ 11)
  else if off = 0x124 then some (rdf s (pgStw + 0x124) 0 16 + b2n w.lastOp * 2 ^ 16)
  else if off = 0x128 then some (w.queues.getD 0 0 + w.queues.getD 3 0 * 2 ^ 16)
  else if off = 0x150 then some (b2n w.fw.isSome + w.fwResult * 2 + w.fwDone * 2 ^ 5)
  else if off = 0x154 then
    some (r.slotA + r.slotB * 4 + b2n r.pending * 2 ^ 8 + b2n r.started * 2 ^ 9 + r.trial * 2 ^ 10 + r.active * 2 ^ 11 +
      ihSvn (slotHeader s 0) % 64 * 2 ^ 12 + ihSvn (slotHeader s 1) % 64 * 2 ^ 18)
  else if off = 0x158 ∨ off = 0x15C then some (half (ihVersion (slotHeader s 0)) (off - 0x158))
  else if off = 0x160 ∨ off = 0x164 then some (half (ihVersion (slotHeader s 1)) (off - 0x160))
  else if off = 0x170 then some (w.cfgFormat + w.cfgHalf * 2 ^ 16 + b2n r.oldKept * 2 ^ 17)
  else none

/-- The record at an index of the log as the SRAM shows it: zeros at or above `EVR_COUNT` (R475). -/
def logRecord (s : State) (i : Nat) : List Byte := s.evr.log.getD i (List.replicate 32 0)

/-- A record passes its CRC. -/
def recCrcOk (r : List Byte) : Bool := decide (le r 0x1A 2 = crc16 0xFFFF (r.take 0x1A))

/-- `EVR_WSTAT` at a cursor (R480). A place without a record shows no `CRC_OK` (DEDUCED, log entry 85). -/
def windowStat (s : State) (cur : Nat) : Nat :=
  ((List.range 8).map (fun j =>
    if cur + j < s.evr.log.length then 2 ^ (8 + j) + (if recCrcOk (logRecord s (cur + j)) then 2 ^ j else 0) else 0)).sum

/-- Code of a dump slot. -/
def dumpCode : DumpState → Nat
  | .empty => 0
  | .unreleased => 1
  | .released => 2
  | .incomplete => 3

def dumpSlot (s : State) (n : Nat) : DumpSlot := if n = 0 then s.evr.dump0 else s.evr.dump1

def viewEvr (s : State) (off : Nat) : Option Nat :=
  if off = 0x100 then some s.evr.log.length
  else if off = 0x104 then some s.evr.nextSeq
  else if off = 0x108 then some s.evr.overflow
  else if off = 0x114 then some (windowStat s (rdf s (pgEvr + 0x110) 0 15))
  else if off = 0x120 then some s.evr.clrResult
  else if off = 0x140 then
    some (dumpCode s.evr.dump0.state + dumpCode s.evr.dump1.state * 4 + s.evr.newest * 2 ^ 4 + s.evr.result * 2 ^ 6)
  else if 0x700 ≤ off ∧ off < 0x800 then some (le (logRecord s (rdf s (pgEvr + 0x110) 0 15 + (off - 0x700) / 32)) ((off - 0x700) % 32) 4)
  else if 0x800 ≤ off then
    some (leNat (mread (dumpSlot s (rdf s (pgEvr + 0x144) 0 1)).bytes (rd64 s (pgEvr + 0x148) + (off - 0x800)) 4))
  else none

def viewSec (s : State) (off : Nat) : Option Nat :=
  let x := s.sec
  if off = 0x100 then
    some (x.level + b2n x.since2 * 4 + b2n x.fenceKey.isSome * 8 + x.trust.length * 2 ^ 4 + b2n (secBusy s) * 2 ^ 9 + x.result * 2 ^ 10 + x.fails * 2 ^ 16)
  else if 0x800 ≤ off then some (leNat (mread x.mb (2048 * rdf s (pgSec + 0x108) 0 2 + (off - 0x800)) 4))
  else none

/-- Whole degrees of a temperature in 1/16 degrees, as a byte. -/
def tempByte (t : Int) : Nat := ((t / 16) % 256).toNat

/-- The temperature of a source: die n or stack k (R522). -/
def tempOf (s : State) (src : Nat) : Int := (tget {} s.pwr.therm src).temp

/-- The highest thermal step of any die or stack. -/
def maxTherm (s : State) : Nat := s.pwr.therm.foldl (fun m e => max m e.2.step) 0

/-- Four temperatures in one register. -/
def tempWord (s : State) (l : List Nat) : Nat := leNat (l.map (fun x => BitVec.ofNat 8 (tempByte (tempOf s x))))

def viewPwr (s : State) (off : Nat) : Option Nat :=
  let x := s.pwr
  if off = 0x100 then some (let m := x.nextMode.getD (x.mode, x.cap); m.1 + m.2 * 2 ^ 4)
  else if off = 0x104 then some (devCode s.dev.state + b2n s.dev.drained * 8 + x.step * 2 ^ 4 + min 7 (maxTherm s) * 2 ^ 8)
  else if off = 0x108 then some (x.vin % 2 ^ 16 + x.iin % 2 ^ 16 * 2 ^ 16)
  else if off = 0x10C then some (sat 12 x.p1s + sat 12 x.peak * 2 ^ 16)
  else if off = 0x110 then some (tempWord s [0x10, 0x11, 0x12, 0x13])
  else if off = 0x114 then some (tempWord s [0x30, 0x31, 0x32, 0x33])
  else if off = 0x118 then some (tempWord s [0x34, 0x35, 0x36, 0x37])
  else if off = 0x11C then some (tempWord s [0x38, 0x39, 0x3A, 0x3B])
  else if off = 0x120 then some (tempWord s [0x3C, 0x3D, 0x3E, 0x3F])
  else if off = 0x124 then some (tempByte x.inlet + tempByte x.outlet * 2 ^ 8)
  else if off = 0x130 then some x.result
  else if off = 0x134 ∨ off = 0x138 then some (half (x.energyMj / 1000) (off - 0x134))
  else none

/-- Drawers of a partition that are remote (R407). -/
def remoteN (s : State) (p : Nat) : Nat :=
  ((s.dir.shelves.filter (fun e => decide (e.2.key.part = p))).map (fun e =>
    (e.2.drawers.filter (fun d => match d.loc with | .remote => true | _ => false)).length)).sum

def viewPart (s : State) (p off : Nat) : Option Nat :=
  let t := s.part p
  if off = 0x104 then
    some (partCode t.state + b2n t.busy * 8 + rdf s (pgPart p + 0x104) 4 3 * 16 + b2n (graceOpen s p) * 2 ^ 7 + b2n t.leaseFenced * 2 ^ 8)
  else if off = 0x120 then if s.chip.leaseCap then none else some 0
  else if off = 0x13C then some (remoteN s p)
  else if 0x180 ≤ off ∧ off < 0x198 then some ((mapWords 6 (partTiles s p)).getD ((off - 0x180) / 4) 0)
  else if 0x198 ≤ off ∧ off < 0x1B0 then some ((mapWords 6 (partWays s p)).getD ((off - 0x198) / 4) 0)
  else if 0x300 ≤ off ∧ off < 0x380 then some ((mapWords 32 (partPcKeys s p)).getD ((off - 0x300) / 4) 0)
  else if off = 0x204 then some (ceilDiv (partCharge s p) (2 ^ 20))
  else if off = 0x20C then some (cabDrawers s p)
  else if off = 0x218 then some (tierFree s p true)
  else if off = 0x21C then some (tierFree s p false)
  else none

def viewCapt (s : State) (p off : Nat) : Option Nat :=
  let x := tget {} s.replay p
  if 0x140 ≤ off ∧ off ≤ 0x16C ∧ s.chip.replayCap = false then some 0
  else if off = 0x158 then some (b2n x.busy + x.result * 2 + x.index * 8)
  else if off = 0x15C then some (x.nMatch + x.within * 2 ^ 16)
  else if off = 0x160 then some (x.differ + x.skip * 2 ^ 16)
  else none

def viewMtr (s : State) (p off : Nat) : Option Nat :=
  let l := (s.part p).latch
  let m := l.m
  let vals := [m.tile, m.t0 / 2 ^ 20, m.t1 / 2 ^ 20, m.t2 / 2 ^ 20] ++ (List.range 4).map (fun i => m.rx.getD i 0) ++
    (List.range 4).map (fun i => m.tx.getD i 0) ++ [m.busy, m.admitN, m.keys, m.cold]
  if off = 0x104 then some (l.start % 2 ^ 32)
  else if off = 0x108 then some (l.start / 2 ^ 32 % 2 ^ 32)
  else if off = 0x10C then some l.pseq
  else if off = 0x110 ∨ off = 0x114 then some (half l.now (off - 0x110))
  else if 0x118 ≤ off ∧ off < 0x198 then some (half (sat 64 (vals.getD ((off - 0x118) / 8) 0)) (off - 0x118))
  else none

def viewRoot (s : State) (off : Nat) : Option Nat :=
  if off = 0x100 then some 1
  else if off = 0x104 then some s.chip.step
  else if off = 0x108 ∨ off = 0x10C then some (half s.chip.serial (off - 0x108))
  else if off = 0x110 then some (devCode s.dev.state + b2n s.stw.recovery * 8 + b2n s.dev.pagesOpen * 16)
  else if off = 0x114 then some (capDir s).length
  else if off = 0x118 ∨ off = 0x11C then some (half s.stw.runVer (off - 0x118))
  else if 0x400 ≤ off ∧ off < 0x800 then
    match (capDir s)[(off - 0x400) / 8]? with
    | some (id, pg, n) => some (if off % 8 = 0 then id + 2 ^ 16 else pg + n * 2 ^ 16)
    | none => some 0
  else none

/-- The view of a register of a page, where it shows state kept elsewhere. -/
def regView (s : State) (k : Kind) (n off : Nat) : Option Nat :=
  match k with
  | .tcl => viewTcl s n off
  | .asch => viewAsch s n off
  | .ring => viewRing s n off
  | .dir => viewDir s n off
  | .rule => viewRule s n off
  | .hbm => viewHbm s n off
  | .bth0 => viewBth0 s n off
  | .bth1 => viewBth1 s n off
  | .net => viewNet s n off
  | .shp1 => viewShp1 s n off
  | .cxl => viewCxl s off
  | .cab => viewCab s off
  | .stw => viewStw s off
  | .evr => viewEvr s off
  | .sec => viewSec s off
  | .pwr => viewPwr s off
  | .part => viewPart s n off
  | .capt => viewCapt s n off
  | .mtr => viewMtr s n off
  | .root => viewRoot s off
  | .shp0 | .msix | .pba => none

/-- A word of the MSI-X table or of the pending bit array (R528). -/
def msixWord (s : State) (page off : Nat) : Nat :=
  if page < 9 then
    let o := 4096 * (page - 1) + off
    let e := tget (0, 0, true) s.msix.entries (o / 16)
    if o % 16 = 0 then e.1 % 2 ^ 32 else if o % 16 = 4 then e.1 / 2 ^ 32 % 2 ^ 32 else if o % 16 = 8 then e.2.1 else b2n e.2.2
  else if off < 256 then ((List.range 32).map (fun i => if s.msix.pend.contains (8 * off + i) then 2 ^ i else 0)).sum
  else 0

/-- The header registers of a page (R529). -/
def headerWord (s : State) (page : Nat) (k : Kind) (n off : Nat) : Nat :=
  let pg := 4096 * page
  if off = 0x000 then (pageInst k n).2 % 256 + 2 ^ 8 + (pageInst k n).1 * 2 ^ 12 + blockType k * 2 ^ 20
  else if off = 0x004 then if page = 0 then 0x400 else 0
  else if off = 0x00C then b2n (alert s pg)
  else if off = 0x018 then 0
  else rd s (pg + off)

/-- What a 32-bit read at an aligned BAR0 offset returns, without any of its effects. WO fields and reserved fields read as 0. -/
def readWord (s : State) (addr : Nat) : Nat :=
  let page := addr / 4096
  let off := addr % 4096
  if !pageOpen s page then 0
  else
    match pageKind page with
    | none => 0
    | some (k, n) =>
      if k = .msix ∨ k = .pba then msixWord s page off
      else if off < 0x20 then if (regFields k n off).isEmpty then 0 else headerWord s page k n off
      else
        let fs := regFields k n off
        let shown := accMask fs .rw ||| accMask fs .ro ||| accMask fs .w1c ||| accMask fs .rc
        ((regView s k n off).getD (rd s addr)) &&& shown

end Sys2Proof.Machine
end

