-- ==== Sys2Proof/Machine/Observe.lean ====
section
/-! DEFINITION. The event recorder as the host reads and clears it, capture settings, replay, the fatal dump and the metering latch
(R473-R500). -/
namespace Sys2Proof.Machine

/-! ### Reading and clearing the log (R480, R482) -/

/-- Present records of the window whose CRC fails. -/
def badInWindow (s : State) (cur : Nat) : Nat :=
  ((List.range 8).filter (fun j => decide (cur + j < s.evr.log.length) && !recCrcOk (logRecord s (cur + j)))).length

/-- `REC_BAD` is raised and counted, once for each of `n` records. -/
def recBad (s : State) : Nat → State
  | 0 => s
  | n + 1 => recBad (raise (bump s (pgEvr + 0x124) 0 32 1) pgEvr 1 []) n

/-- `EVR_WSTAT_READ` (R480). -/
def execEvrWstatRead (s : State) : Res := hostRd s (pgEvr + 0x114) 4 <|
  let cur := rdf s (pgEvr + 0x110) 0 15
  .next (recBad (emit s (.read (pgEvr + 0x114) 4 (windowStat s cur))) (badInWindow s cur))

/-- `EVR_CLEAR` (R482). -/
def execEvrClear (s : State) : Res := hostWr s pgEvr <|
  let e := s.evr
  let res := if e.log.length ≠ rdf s (pgEvr + 0x118) 0 16 then 1
    else match e.log.getLast? with
      | some r => if recRepeat r ≠ rdf s (pgEvr + 0x118) 16 16 then 2 else 0
      | none => 0
  if res ≠ 0 then .next { s with evr := { e with clrResult := res } }
  else .next (wrf { s with evr := { e with log := [], overflow := 0, inGroup := false, clrResult := 0 } } (pgEvr + 0x10) 0 1 0)

/-! ### Capture settings (R484) -/

/-- The staged base of a capture ring names a range that obeys R104. -/
def captBaseOk (s : State) (p size : Nat) : Bool :=
  let b := rd64 s (pgCapt p + 0x104)
  decide (refSpace b = 1) && decide (b % 4096 = 0) && decide (refCheck s p b (2 ^ (20 + size)) = none)

/-- `CAPT_CFG_WRITE` (R484): while `EN` is 1 only `EN` can change; a refused write changes nothing. -/
def execCaptCfgWrite (part : Fin 32) (value : Word) (s : State) : Res := hostWr s (pgCapt part.val) <|
  let p := part.val
  let a := pgCapt p + 0x100
  let v := value.toNat
  if captEn s p then .next (wrf s a 0 1 (bits v 0 1))
  else if (bit v 0 && !captBaseOk s p (bits v 8 4)) || ((bit v 1 || bit v 2) && (s.part p).sealed) then .next (raise s (pgCapt p) 1 [])
  else .next (wr s a (bits v 0 3 + bits v 8 4 * 2 ^ 8 + bits v 16 5 * 2 ^ 16))

/-! ### Replay (R489-R492) -/

/-- A partition is a suitable target (R489). -/
def replayTarget (s : State) (p : Nat) : Bool :=
  decide ((s.part p).state = .live) && (ringsOf s p).isEmpty && s.qps.all (fun e => decide (e.2.part ≠ p)) &&
  s.regions.all (fun e => decide (e.2.part ≠ p)) && s.links.all (fun e => decide (e.2.part ≠ p)) &&
  s.dir.shelves.all (fun e => decide (e.2.key.part ≠ p))

/-- Replay ends at the end of its entries (R492). -/
def endReplay (s : State) (p : Nat) : State :=
  let x := tget {} s.replay p
  raise { s with replay := tset {} s.replay p { x with busy := false, result := 0 } } (pgCapt p) 2 []

/-- `REPLAY_START` (R489). The class of the ringmaster's part in it is not named, so that no deferral refuses it (log entry 87). -/
def execReplayStart (part : Fin 32) (die : Fin 4) (s : State) : Res := hostWr s (pgCapt part.val) <|
  let p := part.val
  let x := tget {} s.replay p
  let put := fun (y : Replay) => { s with replay := tset {} s.replay p y }
  if x.busy || !s.chip.replayCap then .next s
  else if s.stw.rm ≠ .running then .next (put { x with result := 1 })
  else if !replayTarget s p then .next (put { x with result := 2 })
  else
    let s1 := put { busy := true, die := die.val }
    .next (if rd s (pgCapt p + 0x148) = 0 then endReplay s1 p else s1)

/-- `REPLAY_STOP` (R492, R545). A replayed request that still runs gets no verdict. -/
def execReplayStop (part : Fin 32) (s : State) : Res := hostWr s (pgCapt part.val) <|
  if s.chip.replayCap then .next (stopReplay s part.val) else .next s

/-- Bytes of a list replaced from an offset. -/
def setBytes (l : List Byte) (o : Nat) (b : List Byte) : List Byte := l.take o ++ b ++ l.drop (o + b.length)

/-- Fields of a captured entry (R486): flags, sequence number, input length, descriptor, captured status, detail and `INFO0`. -/
def enFlags (e : List Byte) : Nat := le e 0x17 1
def enSeq (e : List Byte) : Nat := le e 8 8
def enInlen (e : List Byte) : Nat := le e 0x70 4
def enDesc (e : List Byte) : List Byte := bslice e 0x80 64
def enStatus (e : List Byte) : Nat := le e 0xC5 1
def enDetail (e : List Byte) : Nat := le e 0xDE 1
def enInfo0 (e : List Byte) : Nat := le e 0xCC 4
def enCflags (e : List Byte) : Nat := le e 0xDC 2

/-- The captured status arose before admission step 10: a status of the steps before it, and no input taken (DEDUCED, log entry 88). -/
def enEarly (s : State) (e : List Byte) : Bool :=
  let d := enDesc e
  decide (enInlen e = 0) &&
  ([stMoved, stStaleEpoch, stFenced, stRetryLater, stAborted, stFormatUnsupported, stDenied].contains (enStatus e) ||
   (decide (enStatus e = stBadDescriptor) &&
    (((refFields s (dPart d) d).map (·.1)).contains (enDetail e) || ((handleFields d).map (·.1)).contains (enDetail e))))

/-- An entry that is not run (R490): `SKIPPED`. -/
def enSkipped (s : State) (e : List Byte) (prev : Option Nat) : Bool :=
  let d := enDesc e
  !bit (enFlags e) 0 || bit (enFlags e) 1 || enEarly s e || (dArm d && !bit (enCflags e) 5) ||
  [0x20, 0x21, 0x3F].contains (dOpcode d) || (match prev with | some q => decide (enSeq e ≤ q) | none => false)

/-- The internal route of a replayed request. -/
def replayRoute : List Byte := List.replicate 0x14 0 ++ leBytes 4 0xFFFFFFFF ++ List.replicate 8 0

/-- The descriptor of an entry with the substitutions of R490: the target partition, the entry's inputs, no route, the captured handle. The
present inputs of a `MERGE` lie one after the other; without any, one absent input stands for them: the zeros of an empty digest. -/
def replayDesc (s : State) (p at_ : Nat) (e : List Byte) : List Byte :=
  let d0 := setBytes (enDesc e) 2 (leBytes 2 p)
  let op := dOpcode d0
  let d1 := match refFields s p d0 with
    | (o, _) :: _ => setBytes d0 o (leBytes 8 (at_ + 0x100))
    | [] => d0
  let d2 := match routeOffset op with
    | some o => setBytes d1 o [0, 0]
    | none => d1
  if op = 0x30 then setBytes d2 0x0E (leBytes 2 (enInfo0 e))
  else if op = 0x03 then
    let n := enInlen e / max 1 (mgInSize d2)
    let d3 := setBytes (setBytes d2 0x14 (leBytes 4 (mgInSize d2))) 0x1F [0]
    if n = 0 then setBytes (setBytes d3 0x0C (leBytes 8 (at_ + 0x40))) 0x1A [1] else setBytes d3 0x1A (leBytes 1 n)
  else d2

/-- A replayed request is admitted with every step of R119 but 6 and 7. -/
def replayAdmit (s : State) (id : Nat) (r0 : Req) : State :=
  let (r1, s1) := passStep2 s r0
  let bad := ((handleFields r1.desc).find? (fun f =>
    decide (f.2.2.1 ≠ 6) && (decide (f.2.1 ≠ 0) || f.2.2.2) && (liveObj s1 r1.part f.2.1 f.2.2.1).isNone)).map (·.1)
  match stateFail s1 r1, refsFail s1 r1.part r1.desc, bad with
  | some f, _, _ => failReq s1 id r1 f
  | none, some (_, f), _ => failReq s1 id r1 f
  | none, none, some o => failReq s1 id r1 { status := stBadDescriptor, detail := o }
  | none, none, none =>
    let r2 := { holdObjs s1 r1 with route := replayRoute }
    match step8 r2 with
    | some f => failReq s1 id r2 f
    | none =>
      match step9 s1 r2 with
      | (some f, s2) => failReq s2 id r2 f
      | (none, s2) => doOp s2 id r2

/-- An entry that a replay has read: skipped, or run as a request. -/
def playEntry (s : State) (p : Nat) (x y : Replay) (at_ : Nat) (e : List Byte) : State :=
  if enSkipped s e x.prev then
    putVerdict { s with replay := tset {} s.replay p y } p (enSeq e) (enStatus e) 0 { code := 3 }
  else
    let (id, s1) := newId s
    replayAdmit { s1 with replay := tset {} s1.replay p { y with cur := id } } id
      { ring := 1024 * x.die, desc := replayDesc s p at_ e, part := p, replay := true, route := replayRoute, entry := e }

/-- The entry at a replay's place, by its first 64 bytes. -/
def replayHead (s : State) (p : Nat) (x : Replay) (at_ len : Nat) (h : List Byte) : State :=
  let n := le h 4 4
  if x.pos + 64 > len ∨ le h 0 2 ≠ 0xCA97 ∨ le h 2 1 ≠ 1 ∨ n < 64 ∨ n % 64 ≠ 0 ∨ x.pos + n > len then endReplay s p
  else
    let y := { x with pos := x.pos + n }
    if le h 3 1 ≠ 1 ∨ n < 256 then
      let s1 := { s with replay := tset {} s.replay p y }
      if y.pos ≥ len then endReplay s1 p else s1
    else
      match refRead s p at_ n with
      | (none, s1) => endReplay s1 p
      | (some e, s1) => playEntry s1 p x y at_ e

/-- `REPLAY_ENTRY` (R490): the next entry is skipped or run. What is not an entry of R486 is passed over where it gives its length, and ends the
replay where it does not (log entry 89). -/
def execReplayEntry (part : Fin 32) (s : State) : Res :=
  let p := part.val
  let x := tget {} s.replay p
  if !x.busy || (tget? s.reqs x.cur).isSome || !fetching s then .next s
  else
    let at_ := rd64 s (pgCapt p + 0x140) + x.pos
    match refRead s p at_ 64 with
    | (none, s1) => .next (endReplay s1 p)
    | (some h, s1) => .next (replayHead s1 p x at_ (rd s (pgCapt p + 0x148)) h)

/-! ### The fatal dump (R493-R497) -/

def putDump (s : State) (n : Nat) (d : DumpSlot) : State :=
  if n = 0 then { s with evr := { s.evr with dump0 := d } } else { s with evr := { s.evr with dump1 := d } }

/-- The slot that a new dump takes (R494). -/
def dumpChoice (s : State) : Nat :=
  let a := s.evr.dump0
  let b := s.evr.dump1
  let newer := fun (x y : DumpSlot) => !x.header || (y.header && decide (y.no ≤ x.no))
  if a.state = .empty then 0
  else if b.state = .empty then 1
  else if a.state = .released ∧ b.state = .released then (if a.no ≤ b.no then 0 else 1)
  else if a.state = .released then 0
  else if b.state = .released then 1
  else if newer a b then 0 else 1

/-- Job entries queued to booths, in booth order. -/
def queuedJobs (s : State) : List Job := (List.range 4096).flatMap (fun i => (s.booth (boothNo (i / 512) (i % 512))).queue)

/-- Sizes of the sections (R495). -/
def sectSize (s : State) : Nat → Nat
  | 1 => 2 ^ 20 + 4096
  | 2 => 2 ^ 26
  | 3 => 6144 * 256
  | 4 => 4096 * 64
  | 5 => 65536 * 64
  | 6 => 4 * 4194368 * 64
  | _ => 4096 * 16 + 32 * (queuedJobs s).length

/-- Status of a section: written, unreadable or omitted. A directory quarter cannot be read once both stacks that hold its copies are fenced
(R272, R496). -/
def sectStatus (s : State) (reduced : Bool) (n : Nat) : Nat :=
  if reduced ∧ n ≠ 1 ∧ n ≠ 2 ∧ n ≠ 4 then 2
  else if n = 6 ∧ (List.range 4).any (fun q => ((List.range 16).filter (fun k => !isFront k && decide (stackDie k = q))).all
      (fun k => (s.hbmc k).fenced)) = true then 1
  else if n = 7 ∧ s.chip.boothCap = false then 2
  else 0

/-- The section table: number, status, length and offset of each section; one that is not written has no bytes. -/
def sectTable (s : State) (reduced : Bool) : Nat → Nat → Nat → List (Nat × Nat × Nat × Nat)
  | 0, _, _ => []
  | m + 1, n, off =>
    let st := sectStatus s reduced n
    if st = 0 then (n, 0, sectSize s n, off) :: sectTable s reduced m (n + 1) (off + ceilDiv (sectSize s n) 4096 * 4096)
    else (n, st, 0, 0) :: sectTable s reduced m (n + 1) off

/-- The 4 KiB header of a dump (R495). -/
def dumpHeader (s : State) (reduced complete : Bool) (no : Nat) (cause : List Byte) (table : List (Nat × Nat × Nat × Nat)) : List Byte :=
  padTo (leBytes 4 0x504D5544 ++ [1, BitVec.ofNat 8 (b2n reduced + 2 * b2n complete)] ++ leBytes 2 7 ++ leBytes 4 (bootRec s).boots ++
    leBytes 4 no ++ bslice (padTo cause 32) 0 32 ++ leBytes 8 s.stw.runVer ++ List.replicate 8 0 ++
    table.flatMap (fun e => leBytes 1 e.1 ++ leBytes 1 e.2.1 ++ leBytes 2 0 ++ leBytes 4 e.2.2.1 ++ leBytes 8 e.2.2.2)) 4096

/-- A directory entry as it stands in memory (R79, R410). -/
def entryBytes (s : State) (id : Nat) (sh : Shelf) : List Byte :=
  let st := match sh.state with | .live => 1 | .lost => 2 | .dropping => 3
  let du := (match sh.durab with | .single => 0 | .sync => 1 | .async => 2) + 4 * b2n sh.copy + 8 * b2n sh.degraded + 16 * b2n sh.seeding
  leBytes 8 sh.hash ++ leBytes 1 st ++ leBytes 1 sh.key.part ++ leBytes 1 sh.key.layer ++ leBytes 1 sh.key.group ++ leBytes 2 sh.key.tenant ++
  leBytes 2 sh.profH ++ leBytes 8 sh.key.conv ++ leBytes 4 sh.base ++ leBytes 4 sh.endPos ++ leBytes 4 sh.visible ++ leBytes 4 sh.start ++
  leBytes 8 sh.body ++ leBytes 4 sh.createSeq ++ leBytes 2 (s.reqs.filter (fun e => decide (e.2.shelf = some id))).length ++
  leBytes 1 (sat 8 (heldOps s id sh)) ++ leBytes 1 du ++ List.replicate 8 0

/-- Where an entry stands in section 6: quarter by quarter, the stash last. -/
def entryIndex (sh : Shelf) : Nat :=
  4194368 * shelfDie sh + entryNo sh.place

/-- The 64 bytes of a ring in section 4. -/
def ringBytes (s : State) (r : Nat) (g : Ring) : List Byte :=
  leBytes 4 g.pi.toNat ++ leBytes 4 g.ci.toNat ++ leBytes 4 g.cqPi.toNat ++ leBytes 4 g.cqCi.toNat ++ leBytes 4 ((viewRing s r 0x110).getD 0) ++
  leBytes 4 (b2n g.rloc * 2 + b2n g.cloc * 4 + g.part * 2 ^ 8 + g.rsize * 2 ^ 16 + g.csize * 2 ^ 20) ++ leBytes 8 g.rbase ++ leBytes 8 g.cbase ++
  List.replicate 24 0

/-- A job entry (R205) with a segment address. -/
def jobBytes (j : Job) : List Byte :=
  leBytes 1 j.script ++ leBytes 1 j.slot ++ leBytes 1 j.place ++ leBytes 1 j.runLen ++ leBytes 2 j.dplace ++ leBytes 2 j.count ++ leBytes 4 j.first ++
  leBytes 4 j.lower ++ leBytes 4 j.snap ++ leBytes 2 j.t ++ leBytes 2 j.thread ++ leBytes 8 j.seg

/-- The words of the pages that exist, as section 2 holds them. -/
def pageBytes (s : State) (off : Nat) (m : Tab Byte) : Tab Byte :=
  let s1 := { s with dev := { s.dev with pagesOpen := true } }
  ((List.range 8192).filter (fun p => (pageKind p).isSome)).foldl (fun m p =>
    (List.range 1024).foldl (fun m w => mwrite m (off + 4096 * p + 4 * w) (leBytes 4 (readWord s1 (4096 * p + 4 * w)))) m) m

/-- The bytes of a section. The forms of sections 3 and 5 and the rest of a record of section 7 are open, and so are free (log entry 90). -/
def sectBytes (s : State) (n off : Nat) (m : Tab Byte) : Tab Byte × State :=
  match n with
  | 1 =>
    let m1 := (s.evr.log.zip (List.range s.evr.log.length)).foldl (fun m e => mwrite m (off + 32 * e.2) e.1) m
    (mwrite m1 (off + 2 ^ 20) (leBytes 4 s.evr.log.length ++ leBytes 4 s.evr.overflow ++ leBytes 4 s.evr.nextSeq), s)
  | 2 => (pageBytes s off m, s)
  | 4 => (s.rings.foldl (fun m (e : Nat × Ring) => mwrite m (off + 64 * e.1) (ringBytes s e.1 e.2)) m, s)
  | 6 => (s.dir.shelves.foldl (fun m (e : Nat × Shelf) => mwrite m (off + 64 * entryIndex e.2) (entryBytes s e.1 e.2)) m, s)
  | 7 =>
    let (v, s1) := draw s
    let m1 := (List.range 4096).foldl (fun m i =>
      mwrite m (off + 16 * i) (leBytes 4 ((viewBth1 s (i / 512) (0x100 + 4 * (i % 512))).getD 0) ++ leBytes 12 (v / 2 ^ (96 * i)))) m
    let js := queuedJobs s
    ((js.zip (List.range js.length)).foldl (fun m e => mwrite m (off + 65536 + 32 * e.2) (jobBytes e.1)) m1, s1)
  | _ => let (b, s1) := drawBytes s (sectSize s n); (mwrite m off b, s1)

/-- A dump begins: its slot is chosen, its header written, and the start recorded. -/
def beginDump (s : State) (reduced : Bool) : State :=
  let n := dumpChoice s
  let no := s.evr.dumpNo + 1
  let hd := dumpHeader s reduced false no (s.evr.cause.getD []) (sectTable s reduced 7 1 4096)
  let s1 := putDump s n { state := .incomplete, no := no, header := true, reduced := reduced, bytes := mwrite [] 0 hd }
  record { s1 with evr := { s1.evr with active := some n, dumpNo := no, newest := n } } 0x00 0 0x070 0 0x24 (leBytes 1 n ++ leBytes 1 (b2n reduced))

/-- The steward's dump engine takes a dump over, or begins it, as a reduced dump (R493, R524). -/
def reduceDump (s : State) : State :=
  match s.evr.active with
  | none => beginDump s true
  | some n =>
    let d := dumpSlot s n
    let hd := dumpHeader s true false d.no (s.evr.cause.getD []) (sectTable s true 7 1 4096)
    putDump s n { d with reduced := true, bytes := mwrite [] 0 hd }

/-- `DUMP_START` (R493, R494): the ringmaster begins the dump, after its restart where one is under way; while it is held, the dump engine begins
the reduced one. -/
def execDumpStart (s : State) : Res :=
  if s.dev.state ≠ .dump ∨ s.evr.active.isSome then .next s
  else
    match s.stw.rm with
    | .restarting => .next s
    | .held => .next (beginDump s true)
    | .running => .next (beginDump s false)

/-- `DUMP_TIMEOUT` (R493). -/
def execDumpTimeout (s : State) : Res :=
  if s.dev.state ≠ .dump then .next s
  else
    match s.evr.active with
    | some n => if (dumpSlot s n).reduced then .next s else .next (reduceDump s)
    | none => .next (reduceDump s)

/-- The sections of a dump are written, and `COMPLETE` last. -/
def writeDump (s : State) (n : Nat) : State :=
  let d := dumpSlot s n
  let table := sectTable s d.reduced 7 1 4096
  let (m, s1) := (table.filter (fun e => decide (e.2.1 = 0))).foldl
    (fun (a : Tab Byte × State) e => sectBytes a.2 e.1 e.2.2.2 a.1) ([], s)
  let hd := dumpHeader s d.reduced true d.no (s.evr.cause.getD []) table
  putDump s1 n { d with state := .unreleased, bytes := mwrite m 0 hd }

/-- `DUMP_COMPLETE` (R493, R495, R513, R521): the dump is complete, and the device enters `HALT`, with `TRIP_N` low after a thermal trip. A dump of the
ringmaster's is not completed while it restarts. -/
def execDumpComplete (s : State) : Res :=
  match s.evr.active with
  | none => .next s
  | some n =>
    if s.dev.state ≠ .dump ∨ (s.stw.rm ≠ .running ∧ (dumpSlot s n).reduced = false) then .next s
    else
      let s1 := writeDump s n
      .next (setSbAlert { s1 with
        evr := { s1.evr with active := none, cause := none },
        dev := { s1.dev with state := .halt, tripN := s1.dev.tripN && !s1.dev.tripped } } 1)

/-- `DUMP_COPY` (R497): no host window applies. A copy fails where CXL.cache is not enabled (DEDUCED, log entry 91). -/
def execDumpCopy (s : State) : Res := hostWr s pgEvr <|
  let d := dumpSlot s (rdf s (pgEvr + 0x144) 0 1)
  let res := fun (s : State) n => { s with evr := { s.evr with result := n } }
  if d.state = .empty then .next (res s 1)
  else if !s.cxl.cacheEn then .next (res s 2)
  else
    let b := mread d.bytes (rd64 s (pgEvr + 0x148)) (rd s (pgEvr + 0x158))
    .next (res (if b.isEmpty then s else issueWrite s (.host (rd64 s (pgEvr + 0x150)) b)) 0)

/-- `DUMP_RELEASE` (R497). -/
def execDumpRelease (s : State) : Res := hostWr s pgEvr <|
  let n := rdf s (pgEvr + 0x144) 0 1
  let d := dumpSlot s n
  if d.state = .empty then .next { s with evr := { s.evr with result := 1 } }
  else let s1 := putDump s n { d with state := .released }; .next { s1 with evr := { s1.evr with result := 0 } }

/-! ### Metering (R499) -/

/-- `SNAP` (R499). -/
def execSnap (part : Fin 32) (s : State) : Res := hostWr s (pgMtr part.val) <|
  let t := s.part part.val
  .next (s.setPart part.val { t with latch := { now := stewardUs s, start := t.pstart, pseq := t.pseq, m := t.meter } })

end Sys2Proof.Machine
end

