-- ==== Sys2Proof/Machine/Power.lean ====
section
/-! DEFINITION. Power, resets, the sideband, power and thermal steps, drain (R387, R504-R524). -/
namespace Sys2Proof.Machine

/-! ### Passages through BOOT (R94, R258, R279, R387, R464, R509, R513) -/

/-- The cabinet after a passage: erase counts, bad blocks and what follows from them stay; every programmed block waits for its erasure. -/
def cabKept (c : Cab) : Cab :=
  { readOnly := c.readOnly, badCount := c.badCount,
    blocks := (c.blocks.map (fun (e : Nat × EBlock) => (e.1, ({ erases := e.2.erases, prog := e.2.prog, bad := e.2.bad } : EBlock)))).filter
      (fun e => decide (e.2 ≠ {})) }

/-- A stack after a passage: its repair log, which holds the retired pseudo-channels, stays (R280), but for the repairs that no ringmaster has written
(R278). -/
def hbmKept (t : Tab Hbm) : Tab Hbm :=
  (t.map (fun (e : Nat × Hbm) => (e.1, ({ log := e.2.log.take (e.2.log.length - e.2.unwritten), retired := e.2.retired } : Hbm)))).filter (fun e => decide (e.2 ≠ {}))

/-- A stream that a passage cuts leaves its slot empty (R464). -/
def cutStream (s : State) : State :=
  match s.stw.fw with
  | some j => if j.stream then setSlotImage (markSlot s j.slot 0) j.slot none else s
  | none => s

/-- The state after a reset of the whole module: that of `State.reset`, with what is fixed per part, what is kept in the fuses and in the cabinet, host
memory, and the pins. -/
def moduleReset (s0 : State) : State :=
  let s := cutStream s0
  { State.reset with
    chip := s.chip, hostMem := s.hostMem, hostBad := s.hostBad, sec := { svn := s.sec.svn },
    stw := { slotA := s.stw.slotA, slotB := s.stw.slotB, recA := s.stw.recA, recB := s.stw.recB, halves := s.stw.halves },
    evr := { dump0 := s.evr.dump0, dump1 := s.evr.dump1, dumpNo := s.evr.dumpNo, newest := s.evr.newest },
    cab := cabKept s.cab, hbm := hbmKept s.hbm, pwr := { energyMj := s.pwr.energyMj },
    dev := { pwrEn := s.dev.pwrEn, pwrGood := s.dev.pwrGood, resetN := s.dev.resetN, presentN := s.dev.presentN, tripN := s.dev.tripN,
             tripped := !s.dev.tripN },
    free := s.free, nextId := s.nextId, out := s.out, pending := s.pending }

/-- A reset through `BOOT` with a cause (R387, R477). -/
def throughBoot (s : State) (cause : Nat) : State :=
  let t := moduleReset s
  { t with dev := { t.dev with state := .boot, bootCause := cause } }

/-- The rails are off (R505): the module is `OFF`, and its outputs are released. -/
def railsOff (s : State) : State :=
  let t := moduleReset s
  { t with pwr := {}, dev := { t.dev with state := .off, pwrGood := false, alertN := true, tripN := true, tripped := false } }

/-- `PWR_EN` (R506, R508): it rises and enables the rails. -/
def execPwrEn (s : State) : Res := .next { s with dev := { s.dev with pwrEn := true } }

/-- `PWR_GOOD` (R506, R513): every rail is within its limits. -/
def execPwrGood (s : State) : Res :=
  if s.dev.state = .off ∧ s.dev.pwrEn = true then
    .next { s with dev := { s.dev with state := .boot, pwrGood := true, bootCause := 1 } }
  else .next s

/-- `INPUT_LOSS` (R505): no dump is written. -/
def execInputLoss (s : State) : Res := .next (railsOff s)

/-- `PWR_EN_LOW` (R524). -/
def execPwrEnLow (s : State) : Res := let t := railsOff s; .next { t with dev := { t.dev with pwrEn := false } }

/-- The input lies within 48-58 V. -/
def inputFine (mv : Nat) : Bool := decide (48000 ≤ mv) && decide (mv ≤ 58000)

/-- `INPUT_FAULT` (R505). -/
def execInputFault (mv : Nat) (s : State) : Res :=
  if s.dev.state = .off ∨ inputFine mv = true then .next s
  else .next (setSbAlert (raise { s with pwr := { s.pwr with vin := mv, inBad := true } } pgPwr 2 []) 8)

/-- `RESET_N` (R509). -/
def execResetN (s : State) : Res := if s.dev.state = .off then .next s else .next (throughBoot s 2)

/-- The device cache writes its dirty lines back, each 64 bytes of a spilled state, whose form is open (R377, log entry 57). -/
def cacheWriteBack (s : State) : State :=
  s.cxl.cache.foldl (fun s (e : Nat × Bool) => if e.2 then lineBack s e.1 else s) s

/-- `CONVENTIONAL_RESET` (R386, R387): the device cache is written back, and the module passes through `BOOT`. `IDE_REQ` keeps its value and takes
effect. -/
def execConventionalReset (s : State) : Res :=
  if s.dev.state = .off then .next s
  else
    let t := throughBoot (cacheWriteBack s) 3
    let q := rdf s (pgCxl + 0x104) 0 1
    .next { wrf t (pgCxl + 0x104) 0 1 q with cxl := { t.cxl with ideReq := decide (q = 1) } }

/-- `REFERENCE_OSCILLATOR_LOSS` (R523): a severity-3 event without a code in R477; code and data of its record are free (log entry 94). -/
def execReferenceOscillatorLoss (s : State) : Res :=
  match s.dev.state with
  | .off | .boot => .next s
  | _ =>
    let (v, s1) := draw s
    .next (record s1 0x00 3 0x090 0 (0x26 + v % 0xDA) (leBytes 10 (v / 256)))

/-! ### The status block (R510) -/

/-- The hottest of some sources, in whole degrees; before a first reading 0. -/
def hottest (s : State) (l : List Nat) : Nat :=
  tempByte ((s.pwr.therm.filter (fun e => l.contains e.1)).foldl (fun (m : Option Int) e => some (match m with | some x => max x e.2.temp | none => e.2.temp)) none |>.getD 0)

/-- The 16 bytes of the status block. Until the boot ROM starts, all but the state is 0. -/
def statusBlock (s : State) : List Byte :=
  if s.dev.state = .boot ∧ s.dir.key = [] then [1] ++ List.replicate 15 0
  else
    let flags := b2n s.stw.recovery + 2 * b2n (decide (s.stw.rm = .held)) + 4 * b2n (dumpHeld s) + 8 * b2n s.dev.tripped + 16 * b2n s.pwr.inBad
    let therm := if s.dev.tripped then 8 else maxTherm s
    leBytes 1 (devCode s.dev.state) ++ leBytes 1 (s.pwr.nextMode.getD (s.pwr.mode, 0)).1 ++ leBytes 1 (s.pwr.step + 16 * therm) ++ leBytes 1 flags ++
    leBytes 2 s.pwr.p1s ++ leBytes 2 s.pwr.vin ++ leBytes 1 (hottest s [0x10, 0x11, 0x12, 0x13]) ++
    leBytes 1 (hottest s ((List.range 16).map (0x30 + ·))) ++ leBytes 1 (tempByte s.pwr.inlet) ++ leBytes 1 (tempByte s.pwr.outlet) ++
    leBytes 1 s.pwr.sbAlert ++ [0, 0, 0]

/-- `SMBUS_BLOCK_READ` (R510): the block is returned, its alert bits are cleared, and `ALERT_N` rises. No other command code is answered. -/
def execSmbusBlockRead (code : Nat) (s : State) : Res :=
  if code > 255 then .fault (.operand "command code above 255")
  else if code ≠ 0x10 ∨ s.dev.state = .off then .next s
  else .next { emit s (.smbus (statusBlock s)) with pwr := { s.pwr with sbAlert := 0 }, dev := { s.dev with alertN := true } }

/-! ### Power modes and steps (R516-R518) -/

/-- Lowest step and limit of a mode. -/
def modeLow (mode : Nat) : Nat := if mode = 1 then 4 else 0
def modeLimit (mode cap : Nat) : Nat := if mode = 1 then 1500 else if mode = 2 then cap else 1950

/-- A change of the power step is counted, raised and recorded. -/
def stepChange (s : State) (old : Nat) : State :=
  let x := s.pwr
  if x.step = old then s
  else
    let s1 := raise (bump s (pgPwr + 0x128) 16 16 1) pgPwr 1 []
    record s1 0x00 (if x.step > old then 1 else 0) 0x090 0 0x23
      (leBytes 1 x.step ++ leBytes 1 old ++ leBytes 2 x.p1s ++ leBytes 2 (modeLimit x.mode x.cap) ++ leBytes 1 x.mode)

/-- Step control (R517) for a 10 ms average: the step, the measurements since the last rise, and those in a row below 95 % of the limit. -/
def stepControl (x : Pwr) (p10 : Nat) : Nat × Nat × Nat :=
  let low := modeLow x.mode
  let limit := modeLimit x.mode x.cap
  let under := if x.p1s * 100 < limit * 95 then x.under + 1 else 0
  if p10 > 2100 then (min 7 (max low x.step + 2), x.since + 1, under)
  else if x.p1s > limit ∧ x.since + 1 ≥ 10 then (min 7 (max low x.step + 1), 0, under)
  else if under ≥ 100 then (max low (x.step - 1), x.since + 1, 0)
  else (max low x.step, x.since + 1, under)

/-- The mean of the newest `n` measurements, or of all where there are fewer, rounded down. -/
def meanOf (l : List Nat) (n : Nat) : Nat := (l.take n).sum / max 1 (l.take n).length

/-- `POWER_MEASUREMENT` (R504, R505, R517): voltage in mV, current in units of 10 mA, power in W. A mode that has been written takes effect first. -/
def execPowerMeasurement (mv ca watts : Nat) (s : State) : Res :=
  if s.dev.state = .off then .next s
  else
    let x := s.pwr
    let hist := (watts :: x.hist).take 1000
    let p10 := meanOf hist 10
    let m := x.nextMode.getD (x.mode, x.cap)
    let y := { x with
      vin := mv, iin := ca, hist := hist, p1s := meanOf hist 1000, peak := max x.peak p10, energyMj := x.energyMj + watts,
      mode := m.1, cap := m.2, nextMode := none, inBad := x.inBad && !inputFine mv }
    let (st, since, under) := stepControl y p10
    let s1 := { s with pwr := { y with step := st, since := min 10 since, under := under } }
    let s2 := if x.nextMode.isSome then raise s1 pgPwr 4 [] else s1
    .next (stepChange s2 x.step)

/-- `PWR_MODE_WRITE` (R517): mode 3 and a cap outside 900-1,950 W leave the register as it is. The power controller is hardware, so that a restart of
the ringmaster does not matter (R524). -/
def execPwrModeWrite (value : Word) (s : State) : Res := hostWr s pgPwr <|
  let mode := bits value.toNat 0 2
  let cap := bits value.toNat 4 12
  if s.dev.state = .off ∨ mode = 3 ∨ cap < 900 ∨ cap > 1950 then .next s
  else .next { s with pwr := { s.pwr with nextMode := some (mode, cap) } }

/-- The thermal step of a source. -/
def thermStep (s : State) (src : Nat) : Nat := (tget {} s.pwr.therm src).step

/-- The step at which an island is to run (R520): a tile cluster, and the booth set of a front stack. -/
def clusterStep (s : State) (c : Nat) : Nat := max s.pwr.step (thermStep s (0x10 + c / 4))
def boothStep (s : State) (f : Nat) : Nat := max s.pwr.step (thermStep s (0x30 + f))

/-- The booths of a die of a front stack take the step of their booth set where every running one of them is at a step end, and are otherwise asked to stop
there (R219). -/
def dieClock (s : State) (f die : Nat) : State :=
  if tget 0 s.pwr.appliedB (16 * f + die) = boothStep s f then s
  else
    let late := ((List.range 32).map (fun q => boothNo f (32 * die + q))).filter (fun b => running (s.booth b) && !(s.booth b).atEnd)
    if late.isEmpty then { s with pwr := { s.pwr with appliedB := tset 0 s.pwr.appliedB (16 * f + die) (boothStep s f) } }
    else late.foldl (fun s b => s.setBooth b { s.booth b with askPark := true }) s

/-- `PLL_LOCKED` (R518, R219): clusters switch at once, the booths die by die. -/
def execPllLocked (s : State) : Res :=
  if s.dev.state = .off ∨ noService s = true then .next s
  else
    let t := (List.range 16).foldl (fun t c => tset 0 t c (clusterStep s c)) s.pwr.appliedT
    let s1 := { s with pwr := { s.pwr with appliedT := t } }
    .next ((List.range 128).foldl (fun s n => dieClock s (n / 16) (n % 16)) s1)

/-! ### Thermal protection (R519-R522) -/

/-- The temperature at which a source enters a step, and above which it trips, in degrees. -/
def enterAt (src step : Nat) : Int := (if src < 0x20 then 96 else 87) + (step : Int)
def tripAbove (src : Nat) : Int := if src < 0x20 then 105 else 95

/-- One reading of a source: its thermal state afterwards. A step is left after 1,000 readings, 100 ms. -/
def thermRead (src : Nat) (t : Int) (x : Therm) : Therm :=
  let hot := if t > 16 * tripAbove src then min 3 (x.hot + 1) else 0
  if x.step < 7 ∧ t ≥ 16 * enterAt src (x.step + 1) then { x with step := x.step + 1, cool := 0, hot := hot, temp := t }
  else if x.step > 0 ∧ t ≤ 16 * (enterAt src x.step - 3) then
    if x.cool + 1 ≥ 1000 then { x with step := x.step - 1, cool := 0, hot := hot, temp := t } else { x with cool := x.cool + 1, hot := hot, temp := t }
  else { x with cool := 0, hot := hot, temp := t }

/-- A temperature as 16 bits, two's complement. -/
def temp16 (t : Int) : Nat := (t % 65536).toNat

/-- The data of event 0x22. -/
def thermData (src new old : Nat) (t : Int) : List Byte := leBytes 1 src ++ leBytes 1 new ++ leBytes 1 old ++ leBytes 2 (temp16 t)

/-- A thermal trip (R521): clocks stop, the trip is recorded at severity 3, and the dump engine writes the reduced dump at once. Where there is no dump to
be written any more, or not yet, `TRIP_N` falls at once. -/
def trip (s : State) (src : Nat) (t : Int) : State :=
  let s1 := { s with dev := { s.dev with tripped := true } }
  match s.dev.state with
  | .off => s
  | .boot => { s1 with dev := { s1.dev with tripN := false } }
  | .halt => let s2 := record s1 0x00 3 0x090 0 0x22 (thermData src 8 (thermStep s src) t); { s2 with dev := { s2.dev with tripN := false } }
  | _ => reduceDump (record s1 0x00 3 0x090 0 0x22 (thermData src 8 (thermStep s src) t))

/-- A reading of one source takes effect. -/
def readSource (s : State) (src : Nat) (t : Int) : State :=
  let x := tget {} s.pwr.therm src
  let y := thermRead src t x
  let s1 := { s with pwr := { s.pwr with therm := tset {} s.pwr.therm src y } }
  let s2 := if y.step = x.step then s1
    else record (raise (bump s1 (pgPwr + 0x128) 0 16 1) pgPwr 0 []) 0x00 (if y.step > x.step then 1 else 0) 0x090 0 0x22 (thermData src y.step x.step t)
  let s3 := if y.step ≥ 5 ∧ x.step < 5 then setSbAlert s2 4 else s2
  if y.hot ≥ 3 ∧ s3.dev.tripped = false then trip s3 src t else s3

/-- The sources in the order of a reading: dies, stacks. -/
def thermSources : List Nat := (List.range 4).map (0x10 + ·) ++ (List.range 16).map (0x30 + ·)

/-- `SENSOR_READING` (R519-R521): the dies AD0-AD3, the stacks in the order of R26, the coolant inlet and outlet, each in 1/16 degrees. -/
def execSensorReading (temps : List Int) (s : State) : Res :=
  if temps.length ≠ 22 then .fault (.operand "not 22 temperatures")
  else if s.dev.state = .off then .next s
  else
    let s1 := (thermSources.zip temps).foldl (fun s e => readSource s e.1 e.2) s
    let inlet := temps.getD 20 0
    let n := if inlet > 640 then min 100 (s1.pwr.inletHot + 1) else 0
    let s2 := { s1 with pwr := { s1.pwr with inlet := inlet, outlet := temps.getD 21 0, inletHot := n } }
    .next (if n = 100 ∧ s1.pwr.inletHot < 100 then setSbAlert (raise s2 pgPwr 3 []) 16 else s2)

/-! ### Drain (R515, R524) -/

def pwrResult (s : State) (n : Nat) : State := { s with pwr := { s.pwr with result := n } }

/-- `DRAIN` (R515). -/
def execDrain (s : State) : Res := hostWr s pgPwr <|
  if s.dev.state = .serve then .next (drainCheck (pwrResult { s with dev := { s.dev with state := .drain, drained := false } } 0))
  else .next (pwrResult s 1)

/-- `SERVE` (R515). A device whose last partition has gone meanwhile is `READY` (R513). -/
def execServe (s : State) : Res := hostWr s pgPwr <|
  if s.dev.state = .drain then .next (serveUpdate (pwrResult { s with dev := { s.dev with state := .serve, drained := false } } 0))
  else .next (pwrResult s 1)

end Sys2Proof.Machine
end

