-- ==== Sys2Proof/WellFormed.lean ====
section
/-! DEFINITION. The commands that an event of the hardware can carry: lists of the length the spec gives them, and numbers within their
range. Unit numbers are `Fin`s already. -/
namespace Sys2Proof

/-- An access of the host to BAR0: 1, 2, 4 or 8 bytes within the 64 MiB (R6, R526). -/
def accessFits (addr width : Nat) : Bool := [1, 2, 4, 8].contains width && decide (addr + width ≤ 2 ^ 26)

/-- A command that an event can carry. Every other command stops with the fault `operand`. -/
def Instr.wellFormed : Instr → Bool
  | .descriptorFetch _ count => decide (count ≤ 16)
  | .objectFree _ handle => decide (1 ≤ handle ∧ handle ≤ 65535)
  | .scriptDescriptorWrite _ _ value => decide (value.length = 8)
  | .cabTblInstall id => decide (id ≤ 63)
  | .cabTblRetire id => decide (id ≤ 63)
  | .scrubRead _ stays once => (stays ++ once).all LineHit.wellFormed
  | .coldReadDone _ _ _ got => decide (got.upsets ≤ 2)
  | .cxlMemRead dpa => decide (dpa < 2 ^ 39)
  | .cxlMemWrite dpa bytes _ => decide (dpa < 2 ^ 39 ∧ bytes ≠ [] ∧ dpa % 64 + bytes.length ≤ 64)
  | .pullCheck _ drawers => decide (drawers.length = 2 ∧ drawers.all (fun b => decide (b.length = 33024)) = true)
  | .remoteDrawerRead _ _ _ data => decide (data.length = 33024)
  | .mirrorEntry _ _ entry => decide (32 ≤ entry.length ∧ entry.length % 64 = 0 ∧ entry.length ≤ 262144 ∧ Machine.le entry 4 4 = entry.length ∧ Machine.le entry 0 1 ≤ 6)
  | .loadWindow percent => decide (percent ≤ 100)
  | .smbusBlockRead code => decide (code ≤ 255)
  | .sensorReading temps => decide (temps.length = 22)
  | .msixUnmask vector => vector.all (fun v => decide (v < 2048))
  | .rcRead addr width => accessFits addr width
  | .registerWrite addr width _ => accessFits addr width
  | .linkCrcFail .. | .reroute .. | .counterWrap .. | .ringPi .. | .cqCi .. | .attend .. | .appendKv .. | .visibleAdvance .. | .failedAppend ..
  | .ringSlotReuse .. | .merge .. | .trimKv .. | .trimSetEnd .. | .trimTailComplete .. | .headTrimFree .. | .dropShelf .. | .dropFree ..
  | .convScanEnd .. | .plan .. | .pin .. | .search .. | .vinsert .. | .vdelete .. | .vmerge .. | .vmergeSwitch .. | .statusRecordWrite ..
  | .movePull .. | .mirrorSet .. | .load .. | .unload .. | .fence .. | .fenceComplete .. | .graceWindowClose .. | .arm .. | .disarm .. | .trigger ..
  | .fire .. | .ringCreate .. | .ringDestroy .. | .ringDestroyDone .. | .bucketWaitExceeded .. | .runDispatch .. | .passN .. | .passV ..
  | .combine .. | .netLoopCheck .. | .scoreSheetFailure .. | .boothJobStart .. | .uopNop .. | .uopAct .. | .uopRd .. | .uopExp .. | .uopDotg ..
  | .uopGsc .. | .uopSst .. | .uopSeti .. | .uopAddi .. | .uopLoop .. | .uopEnd .. | .collectorJobDone .. | .boothPark .. | .perBankRefresh ..
  | .allBankRefresh .. | .refreshComplete .. | .boothRestart .. | .boothJobTimeout .. | .scriptWindowWrite .. | .demotion .. | .moveEnd ..
  | .tierVisit .. | .allocationPlaceFreed .. | .liftTaken .. | .liftRoom .. | .liftPlaced .. | .garbageCollection ..
  | .staticWearLevelling .. | .readDisturbRelocation .. | .patrolRead .. | .blockReadFail .. | .partTierWrite .. | .partCabshareWrite ..
  | .correctedWriteback .. | .damagedShelfFree .. | .rowRepair .. | .pcRetire .. | .pcRetired .. | .stackFence .. | .ruleInsert .. | .ruleRemove ..
  | .ruleModify .. | .ruleRead .. | .ruleApplyBands .. | .ruleDefLoWrite .. | .ruleDefHiWrite .. | .rebalance .. | .shadowCompare .. | .portLinkUp ..
  | .portLinkDown .. | .packetReceive .. | .qpFetchDone .. | .resultBlockSend .. | .ackTimeout .. | .ccTimerExpiry .. | .shaperRefill ..
  | .policerRefill .. | .gateIntervalEnd .. | .gclCommit .. | .gclSwitch .. | .ptpSync .. | .ptpTimeout .. | .netTimeNsRead .. | .hello ..
  | .reply .. | .confirm .. | .rekey .. | .abort .. | .helloRepeat .. | .handshakeTimeout .. | .rekeyPeriod .. | .qpCreate .. | .qpDestroy ..
  | .qpRead .. | .regionRegister .. | .regionReregisterNew .. | .regionReregisterKeep .. | .regionDeregister .. | .regionRead ..
  | .regionCommandDrain .. | .conventionalReset .. | .cxlLinkUp .. | .hostSnoop .. | .birsp .. | .ideFail .. | .dcAdd .. | .dcRelease .. | .dcRead ..
  | .extentUnused .. | .extentZeroed .. | .addDynamicCapacityResponse .. | .releaseDynamicCapacity .. | .identifyMemoryDevice ..
  | .getDynamicCapacityConfiguration .. | .getDynamicCapacityExtentList .. | .getEventRecords .. | .clearEventRecords .. | .partCreate ..
  | .partDestroy .. | .partDestroyDone .. | .partReset .. | .partResetDone .. | .partApplyMaps .. | .mapRemovalDone .. | .pullSweep ..
  | .mirrorAck .. | .mirrorStall .. | .leaseExpiry .. | .meteringHour .. | .report .. | .readCertificate .. | .installFenceKey .. | .addTrustKey ..
  | .removeTrustKey .. | .ideHandshakeMessage .. | .applyWindow .. | .windowChangeDone .. | .debugToken .. | .watchdogExpiry .. | .restart ..
  | .restartDone .. | .fwStream .. | .fwDone .. | .fwAbort .. | .fwVerify .. | .fwVerifyDone .. | .activateTrial .. | .commit ..
  | .raiseSecurityVersion .. | .cancelTrial .. | .trialCommitTimer .. | .bootRom .. | .loaderStart .. | .runtimeStart ..
  | .trainDone .. | .recoveryImageData .. | .recoveryStatusRequest .. | .evrWstatRead .. | .evrClear .. | .captCfgWrite .. | .replayStart .. | .replayStop ..
  | .replayEntry .. | .dumpStart .. | .dumpComplete .. | .dumpTimeout .. | .dumpCopy .. | .dumpRelease .. | .snap .. | .pwrEn .. | .pwrGood ..
  | .inputLoss .. | .inputFault .. | .resetN .. | .powerMeasurement .. | .pwrModeWrite .. | .pllLocked .. | .drain .. | .serve .. | .pgEvtWrite ..
  | .pgEvtEnWrite .. | .pgCtrlWrite .. | .pgEvtForce .. | .referenceOscillatorLoss .. | .pwrEnLow .. | .rnrTimerExpiry .. | .cxlLinkRecovery ..
  | .unsupportedMailboxCommand .. | .recoveryReenumeration .. => true

end Sys2Proof
end

