-- ==== Sys2Proof/Machine/Registers.lean ====
section
/-! DEFINITION. What the host does to BAR0: event registers, MSI-X, reads with their effects, and writes to every register (R6-R11, R525-R545). -/
namespace Sys2Proof.Machine

/-! ### The common header (R529-R531) -/

/-- The mask of the bits of `PG_EVT` that a page has. -/
def evtMask (page : Nat) : Nat :=
  match pageKind page with
  | some (k, _) => 2 ^ eventBits k - 1
  | none => 0

/-- The page carries the common header (R528). -/
def hasHeader (page : Nat) : Bool := !(decide (1 ≤ page) && decide (page ≤ 9))

/-- While a command of its partition is in progress, the RW registers of a partition page take no write (R545 and `PART_STAT`). -/
def partHeld (s : State) (page : Nat) : Bool := decide (0x80 ≤ page) && decide (page < 0xA0) && (s.part (page - 0x80)).busy

/-- After a host write to one of the three registers that leaves `ALERT` at 1, the page's message is sent (R531). -/
def afterWrite (s : State) (pg : Nat) : State := if alert s pg then signalPage s pg else s

/-- `PG_EVT_WRITE` (R7, R531): each 1 clears its bit. -/
def execPgEvtWrite (page : Nat) (value : Word) (s : State) : Res := hostWr s (4096 * page) <|
  let a := 4096 * page + 0x10
  if hasHeader page then .next (afterWrite (wr s a (rd s a - (rd s a &&& (value.toNat &&& evtMask page)))) (4096 * page)) else .next s

/-- `PG_EVT_EN_WRITE` (R531). -/
def execPgEvtEnWrite (page : Nat) (value : Word) (s : State) : Res := hostWr s (4096 * page) <|
  if hasHeader page && !partHeld s page then .next (afterWrite (wr s (4096 * page + 0x14) (value.toNat &&& evtMask page)) (4096 * page)) else .next s

/-- `PG_CTRL_WRITE` (R531). -/
def execPgCtrlWrite (page : Nat) (value : Word) (s : State) : Res := hostWr s (4096 * page) <|
  let v := value.toNat
  if hasHeader page && !partHeld s page then
    .next (afterWrite (wr s (4096 * page + 0x08) (bits v 0 11 + bits v 15 1 * 2 ^ 15)) (4096 * page))
  else .next s

/-- `PG_EVT_FORCE` (R530): each 1 in a bit that the page has sets the event as hardware would. -/
def execPgEvtForce (page : Nat) (value : Word) (s : State) : Res := hostWr s (4096 * page) <|
  if hasHeader page then
    .next ((List.range 32).foldl (fun s i => if bit (value.toNat &&& evtMask page) i then raiseForced s (4096 * page) i else s) s)
  else .next s

/-! ### MSI-X (R528, R531) -/

/-- A pending vector that is no longer masked sends its message. -/
def firePending (s : State) (v : Nat) : State :=
  if s.msix.pend.contains v && !vecMasked s v then
    sendVector { s with msix := { s.msix with pend := s.msix.pend.filter (· ≠ v) } } v
  else s

/-- Every pending vector that is no longer masked sends its message, in the order of the vectors. -/
def fireAll (s : State) : State := ((List.range 2048).filter (fun v => s.msix.pend.contains v)).foldl firePending s

/-- `MSIX_UNMASK` (R531): a vector's Mask bit is cleared; or, without a vector, the host sets MSI-X Enable and clears Function Mask in configuration
space. -/
def execMsixUnmask (vector : Option Nat) (s : State) : Res :=
  match vector with
  | none => if hostReach s then .next (fireAll { s with msix := { s.msix with enable := true, fmask := false } }) else .next s
  | some v =>
    if v ≥ 2048 then .fault (.operand "2,048 vectors")
    else hostWr s 4096 <|
      let e := tget (0, 0, true) s.msix.entries v
      .next (firePending { s with msix := { s.msix with entries := tset (0, 0, true) s.msix.entries v (e.1, e.2.1, false) } } v)

/-- A write to a word of the MSI-X table (R528). -/
def msixWrite (s : State) (page off v : Nat) : State :=
  let o := 4096 * (page - 1) + off
  let n := o / 16
  let e := tget (0, 0, true) s.msix.entries n
  let put := fun (x : Nat × Nat × Bool) => { s with msix := { s.msix with entries := tset (0, 0, true) s.msix.entries n x } }
  match o % 16 with
  | 0 => put (setBits e.1 0 32 v, e.2)
  | 4 => put (setBits e.1 32 32 v, e.2)
  | 8 => put (e.1, v, e.2.2)
  | _ => firePending (put (e.1, e.2.1, bit v 0)) n

/-! ### Reads (R6-R11) -/

/-- The fields of the register at a BAR0 offset. -/
def fieldsAt (addr : Nat) : List RField :=
  match pageKind (addr / 4096) with
  | some (k, n) => regFields k n (addr % 4096)
  | none => []

/-- The RC fields of a register are cleared. -/
def clearRc (s : State) (addr : Nat) : State :=
  match pageKind (addr / 4096), addr % 4096 with
  | some (.shp1, p), 0x904 =>
    s.setPort p { s.port p with polDrops := tset 0 (s.port p).polDrops (rdf s (pgShp p 1 + 0x900) 0 8) 0 }
  | some (.pwr, _), 0x10C => { s with pwr := { s.pwr with peak := 0 } }
  | _, _ => let m := accMask (fieldsAt addr) .rc; if m = 0 then s else wr s addr (rd s addr - (rd s addr &&& m))

/-- An aligned 32-bit read: its value, and the state with its effects (R11, R363, R480). A page that does not answer reads 0. -/
def readEffect (s : State) (addr : Nat) : Nat × State :=
  let v := readWord s addr
  if !pageOpen s (addr / 4096) then (0, s)
  else
    match pageKind (addr / 4096), addr % 4096 with
    | some (.net, p), 0x300 => (v, s.setPort p { s.port p with secLatch := portTime s p / 1000000000 % 2 ^ 48 })
    | some (.evr, _), 0x114 => (v, recBad s (badInWindow s (rdf s (pgEvr + 0x110) 0 15)))
    | _, _ => (v, clearRc s addr)

/-- The byte at a BAR0 offset, read without an effect. -/
def readByte (s : State) (a : Nat) : Nat := readWord s (a / 4 * 4) / 256 ^ (a % 4) % 256

/-- The width of a host access to BAR0, and its place. -/
def accessOk (addr width : Nat) : Bool := accessFits addr width

/-- `RC_READ` (R6, R10, R11): an aligned 32-bit read returns the register and clears its RC fields; an aligned 64-bit read is two of them, the lower
address first; any other read returns the bytes and clears nothing. -/
def execRcRead (addr width : Nat) (s : State) : Res :=
  if !accessOk addr width then .fault (.operand "an access of 1, 2, 4 or 8 bytes within BAR0")
  else hostIo s addr <|
    if width < 4 ∨ addr % width ≠ 0 then
      .next (emit s (.read addr width (((List.range width).map (fun i => readByte s (addr + i) * 256 ^ i)).sum)))
    else
      let (v, s1) := readEffect s addr
      if width = 4 then .next (emit s1 (.read addr 4 v))
      else let (w, s2) := readEffect s1 (addr + 4); .next (emit s2 (.read addr 8 (v + w * 2 ^ 32)))

/-! ### Writes of fields (R7, R9) -/

/-- A register takes the RW fields of a value. -/
def storeRw (s : State) (addr v : Nat) : State :=
  let m := accMask (fieldsAt addr) .rw
  wr s addr (rd s addr - (rd s addr &&& m) + (v &&& m))

/-- The value with its low `n` bits written 0. -/
def lowZero (n v : Nat) : Nat := v / 2 ^ n * 2 ^ n

/-- A peer entry that a mirror link or a pull uses (R404). -/
def peerInUse (s : State) (p i : Nat) : Bool :=
  s.links.any (fun e => decide (e.2.part = p) && decide (e.2.peer = i)) || s.pulls.any (fun e => decide (e.2.key.part = p) && decide (e.2.peer = i)) ||
  s.dir.shelves.any (fun e => decide (e.2.key.part = p) && (match e.2.pull with | some pl => decide (pl.peer = i) | none => false))

/-- Writes to the RW registers of a partition page, with the ranges that the fields take; the page is not held. -/
def partWrite (s : State) (p off v : Nat) : State :=
  let a := pgPart p + off
  if off = 0x114 then if (s.part p).state = .free then storeRw s a v else s
  else if off = 0x11C then if bits v 0 14 ≤ 10000 then storeRw s a v else wrf s a 16 14 (bits v 16 14)
  else if off = 0x120 then
    if s.chip.leaseCap ∧ (bits v 0 16 = 0 ∨ (100 ≤ bits v 0 16 ∧ bits v 0 16 ≤ 60000)) then storeRw s a v else s
  else if off = 0x130 ∨ off = 0x140 ∨ off = 0x160 then storeRw s a (lowZero 6 v)
  else if 0x400 ≤ off ∧ off < 0x800 then if peerInUse s p ((off - 0x400) / 16) then s else storeRw s a v
  else storeRw s a v

/-- Writes to the settings of a capture page (R484, R535). -/
def captWrite (s : State) (p off v : Nat) : State :=
  let a := pgCapt p + off
  if off = 0x104 ∨ off = 0x108 then if captEn s p then s else storeRw s a (if off = 0x104 then lowZero 12 v else v)
  else if 0x140 ≤ off ∧ off ≤ 0x16C ∧ s.chip.replayCap = false then s
  else storeRw s a v

/-- Writes to a port page: the spill table is set up only while no queue pair exists (R338). -/
def netWrite (s : State) (p off v : Nat) : State :=
  let a := pgNet p + off
  if off = 0x2B0 ∨ off = 0x2B4 ∨ off = 0x2B8 then if s.qps.isEmpty then storeRw s a (if off = 0x2B0 then lowZero 12 v else v) else s
  else storeRw s a v

/-- Writes to a shaper page; the administrative list is closed while `PENDING` is set (R365). -/
def shpWrite (s : State) (p off v : Nat) : State :=
  let a := pgShp p 0 + off
  let pending := (s.port p).nextGcl.isSome
  if off = 0x180 then
    let was := rdf s a 0 1
    let s1 := wrf (if pending then s else wrf s a 8 9 (bits v 8 9)) a 0 1 (bits v 0 1)
    if was = 0 ∧ bits v 0 1 = 1 then s1.setPort p { s1.port p with gcl := gclAt (s1.port p).gcl (portTime s1 p) } else s1
  else if pending ∧ ((0x184 ≤ off ∧ off ≤ 0x18C) ∨ 0x800 ≤ off) then s
  else storeRw s a v

/-- Writes to the security page: the message buffer, and the staged window, which a selection fills with the window in force. -/
def secWrite (s : State) (off v : Nat) : State :=
  let a := pgSec + off
  if 0x800 ≤ off then
    { s with sec := { s.sec with mb := mwrite s.sec.mb (2048 * rdf s (pgSec + 0x108) 0 2 + (off - 0x800)) (leBytes 4 v) } }
  else if off = 0x110 then if bits v 0 16 ≥ 60 then storeRw s a v else s
  else if off = 0x120 then
    let s1 := storeRw s a v
    let (b, l) := (tget? (s1.part (rdf s1 a 4 5)).windows (rdf s1 a 0 4)).getD (0, 0)
    wr64 (wr64 s1 (pgSec + 0x124) b) (pgSec + 0x12C) l
  else storeRw s a (if off = 0x124 ∨ off = 0x12C then lowZero 12 v else v)

/-! ### Command registers (R545) -/

def partCommand (s : State) (p : Fin 32) (v : Nat) : Res :=
  match bits v 0 3 with
  | 1 => execPartCreate p s
  | 2 => execPartDestroy p s
  | 3 => execPartReset p s
  | 4 => execPartApplyMaps p s
  | _ => .next s

def aschCommand (s : State) (n : Fin 4) (v : Nat) : Res :=
  match bits v 0 2 with
  | 1 => execRingCreate n s
  | 2 => execRingDestroy n s
  | _ => .next s

def qpCommand (s : State) (p : Fin 4) (v : Nat) : Res :=
  match bits v 0 2 with
  | 1 => execQpCreate p s
  | 2 => execQpDestroy p s
  | 3 => execQpRead p s
  | _ => .next s

def regionCommand (s : State) (v : Nat) : Res :=
  match bits v 0 3 with
  | 1 => execRegionRegister s
  | 2 => execRegionReregisterNew s
  | 3 => execRegionReregisterKeep s
  | 4 => execRegionDeregister s
  | 5 => execRegionRead s
  | _ => .next s

def ruleCommand (s : State) (v : Nat) : Res :=
  match bits v 0 3 with
  | 1 => execRuleInsert s
  | 2 => execRuleRemove s
  | 3 => execRuleModify s
  | 4 => execRuleRead s
  | 5 => execRuleApplyBands s
  | _ => .next s

def dcCommand (s : State) (v : Nat) : Res :=
  match bits v 0 2 with
  | 1 => execDcAdd s
  | 2 => execDcRelease s
  | 3 => execDcRead s
  | _ => .next s

def cabCommand (s : State) (v : Nat) : Res :=
  match bits v 0 2 with
  | 1 => execCabTblInstall (bits v 8 6) s
  | 2 => execCabTblRetire (bits v 8 6) s
  | _ => .next s

def fwCommand (s : State) (v : Nat) : Res :=
  match bits v 0 3 with
  | 1 => execFwStream s
  | 2 => execFwAbort s
  | 3 => execFwVerify (Fin.ofNat 2 (bits v 3 1)) s
  | 4 => execActivateTrial s
  | 5 => execCommit s
  | 6 => execRaiseSecurityVersion s
  | 7 => execCancelTrial s
  | _ => .next s

def secCommand (s : State) (v : Nat) : Res :=
  match bits v 0 4 with
  | 1 => execReport (Fin.ofNat 32 (bits v 4 5)) (bit v 9) s
  | 2 => execReadCertificate (Fin.ofNat 16 (bits v 10 4)) s
  | 3 => execInstallFenceKey s
  | 4 => execAddTrustKey s
  | 5 => execRemoveTrustKey (Fin.ofNat 16 (bits v 10 4)) s
  | 6 => execIdeHandshakeMessage s
  | 8 => execApplyWindow s
  | _ => .next s

def replayCommand (s : State) (p : Fin 32) (v : Nat) : Res :=
  match bits v 0 2 with
  | 1 => execReplayStart p (Fin.ofNat 4 (bits v 2 2)) s
  | 2 => execReplayStop p s
  | _ => .next s

def dumpCommand (s : State) (v : Nat) : Res :=
  match bits v 0 2 with
  | 1 => execDumpCopy s
  | 2 => execDumpRelease s
  | _ => .next s

def pwrCommand (s : State) (v : Nat) : Res :=
  match bits v 0 2 with
  | 1 => execDrain s
  | 2 => execServe s
  | _ => .next s

/-! ### Every register (R525-R545) -/

/-- An aligned 32-bit write to a page that answers, past its header. -/
def writeBlock (s : State) (k : Kind) (n off : Nat) (value : Word) : Res :=
  let v := value.toNat
  match k with
  | .root | .tcl | .dir | .bth1 => .next s
  | .msix => .next s
  | .pba => .next s
  | .asch =>
    if off = 0x118 then aschCommand s (Fin.ofNat 4 n) v
    else .next (storeRw s (pgAsch n + off) (if off = 0x108 ∨ off = 0x110 then lowZero 12 v else v))
  | .ring =>
    if off = 0x100 then execRingPi (Fin.ofNat 4096 n) value [] s
    else if off = 0x10C then execCqCi (Fin.ofNat 4096 n) value s
    else .next s
  | .rule =>
    if n ≠ 0 then .next s
    else if off = 0x238 then ruleCommand s v
    else if off = 0x260 then execRuleDefLoWrite value s
    else if off = 0x264 then execRuleDefHiWrite value s
    else .next (storeRw s (pgRule 0 + off) v)
  | .hbm =>
    let a := pgHbm n + off
    if off = 0x120 ∧ ¬(1 ≤ bits v 0 8 ∧ bits v 0 8 ≤ 168) then .next (storeRw s a (setBits v 0 8 (rdf s a 0 8)))
    else .next (storeRw s a v)
  | .bth0 => .next (storeRw s (pgBth n 0 + off) v)
  | .net =>
    if off = 0x240 then qpCommand s (Fin.ofNat 4 n) v
    else if off = 0x2A0 ∧ n = 0 then regionCommand s v
    else .next (netWrite s n off v)
  | .shp0 =>
    if off = 0x180 ∧ bit v 1 then execGclCommit (Fin.ofNat 4 n) (shpWrite s n off v) else .next (shpWrite s n off v)
  | .shp1 => .next (storeRw s (pgShp n 1 + off) v)
  | .cxl => if off = 0x114 then dcCommand s v else .next (storeRw s (pgCxl + off) v)
  | .cab =>
    if off = 0x130 then cabCommand s v
    else if 0x700 ≤ off then .next { s with cab := { s.cab with window := mwrite s.cab.window (off - 0x700) (leBytes 4 v) } }
    else .next s
  | .stw =>
    if off = 0x14C then fwCommand s v
    else if off = 0x104 then
      let s1 := if 100 ≤ bits v 0 10 ∧ bits v 0 10 ≤ 1000 then storeRw s (pgStw + off) v else s
      if bit v 10 then execRestart s1 else .next s1
    else .next (storeRw s (pgStw + off) v)
  | .evr =>
    if off = 0x11C then if bit v 0 then execEvrClear s else .next s
    else if off = 0x15C then dumpCommand s v
    else .next (storeRw s (pgEvr + off) v)
  | .sec => if off = 0x104 then secCommand s v else .next (secWrite s off v)
  | .pwr =>
    if off = 0x100 then execPwrModeWrite value s
    else if off = 0x12C then pwrCommand s v
    else .next s
  | .part =>
    let p := Fin.ofNat 32 n
    if off = 0x100 then partCommand s p v
    else if (s.part n).busy ∧ off ≠ 0x170 then .next s
    else if off = 0x208 then execPartCabshareWrite p value s
    else if off = 0x210 then execPartTierWrite p value s
    else .next (partWrite s n off v)
  | .capt =>
    let p := Fin.ofNat 32 n
    if off = 0x100 then execCaptCfgWrite p value s
    else if off = 0x154 then replayCommand s p v
    else .next (captWrite s n off v)
  | .mtr => if off = 0x100 ∧ bit v 0 then execSnap (Fin.ofNat 32 n) s else .next s

/-- An aligned 32-bit write at a BAR0 offset. -/
def writeWord (s : State) (addr : Nat) (value : Word) : Res :=
  let page := addr / 4096
  let off := addr % 4096
  if !pageOpen s page then .next s
  else
    match pageKind page with
    | none => .next s
    | some (k, n) =>
      if k = .msix then .next (msixWrite s page off value.toNat)
      else if off = 0x008 then execPgCtrlWrite page value s
      else if off = 0x010 then execPgEvtWrite page value s
      else if off = 0x014 then execPgEvtEnWrite page value s
      else if off = 0x018 then execPgEvtForce page value s
      else if off < 0x100 then .next s
      else writeBlock s k n off value

/-- `REGISTER_WRITE` (R6-R9): an aligned 32-bit write acts on its register; an aligned 64-bit write is two of them, the lower address first; any other
write changes nothing. -/
def execRegisterWrite (addr width : Nat) (value : BitVec 64) (s : State) : Res :=
  if !accessOk addr width then .fault (.operand "an access of 1, 2, 4 or 8 bytes within BAR0")
  else hostWr s (addr / 4096 * 4096) <|
    if width < 4 ∨ addr % width ≠ 0 then .next s
    else
      let lo := BitVec.ofNat 32 value.toNat
      if width = 4 then writeWord s addr lo
      else
        match writeWord s addr lo with
        | .next s1 => writeWord s1 (addr + 4) (BitVec.ofNat 32 (value.toNat / 2 ^ 32))
        | o => o

end Sys2Proof.Machine
end

