-- ==== Sys2Proof/Machine/Shadow.lean ====
section
/-! DEFINITION. The comparison of the rule slices with their shadow copies in HBM (R327-R329). -/
namespace Sys2Proof.Machine

/-- The slice moves to its next entry; at the end of a pass `SWEEP_MS` is written and a pass of more than 50 ms raises
`SWEEP_LATE` (R328). -/
def sweepNext (s : State) (n : Nat) : State :=
  let i := s.rules.sweep.getD n 0
  if i + 1 < 16384 then { s with rules := { s.rules with sweep := modAt (fun _ => i + 1) n s.rules.sweep } }
  else
    let now := islandTime s (0x14 + n)
    let len := (now + 2 ^ 48 - s.rules.sweepAt.getD n 0) % 2 ^ 48
    let s1 := { s with rules := { s.rules with
      sweep := modAt (fun _ => 0) n s.rules.sweep, sweepAt := modAt (fun _ => now) n s.rules.sweepAt } }
    let s2 := wrf s1 (pgRule n + 0x100) 16 8 (sat 8 (len / 1000000))
    if len > 50000000 then raise s2 (pgRule n) 2 [] else s2

/-- A slice reads a shadow copy of an entry, which lies in a back stack of its die (R327): whether its line is uncorrectable. `bad` says that it is found so
now; which line of the device-reserved slots (R75) it is, the spec leaves open, so that the free value says (log entry 86). -/
def readShadow (s : State) (die copy i : Nat) (bad : Bool) : Bool × State :=
  let k := 8 + 2 * die + copy
  let (b, s1) := readUse s (fun u => decide (u = .shadow i copy))
  if b || !bad || (s1.hbmc k).fenced then (b || bad, s1)
  else
    let (v, s2) := draw s1
    let line := v % 64 * linesPerPc + 40448 * 512 + v / 64 % 262144
    let h := s2.hbmc k
    if (tget? h.poison line).isSome then (true, s2)
    else (true, lineUncorr (s2.setHbm k { h with uses := tput h.uses line (.shadow i copy) }) k line false)

/-- Both shadow copies of an entry are written whole, and the slice's entry with them (R329). -/
def writeShadows (s : State) (i : Nat) (e : Rule) : State :=
  let copies := fun u => match u with | .shadow j _ => decide (j = i) | _ => false
  let s1 := wroteUse s copies
  { s1 with rules := putRule s1.rules i e }

/-- `SHADOW_COMPARE` (R328, R329): the slice compares its next entry with its two shadow copies; `badA` and `badB` say that
a copy's line is found uncorrectable. Two good copies that disagree with each other are a case R329 gives no outcome for, and
nothing is done. -/
def execShadowCompare (die : Fin 4) (badA badB : Bool) (s : State) : Res :=
  let n := die.val
  let loc := s.rules.sweep.getD n 0
  let i := 16384 * n + loc
  let (lostA, s1) := readShadow s n 0 i badA
  let (lostB, s2) := readShadow s1 n 1 i badB
  let e := ruleAt s2.rules.entries i
  let a := ruleAt s2.rules.shadowA i
  let b := ruleAt s2.rules.shadowB i
  let softReg := fun s => wr s (pgRule n + 0x108) (2 ^ 31 + loc)
  if lostA ∧ lostB then
    let s3 := bump (softReg (writeShadows s2 i e)) (pgRule n + 0x10C) 16 16 1
    .next (sweepNext (raise s3 (pgRule n) 1 (leBytes 2 i)) n)
  else if !lostA ∧ !lostB ∧ a ≠ b then .next (sweepNext s2 n)
  else
    let g := if lostA then b else a
    if e = g then .next (sweepNext (writeShadows s2 i e) n)
    else
      let s3 := bump (softReg (writeShadows s2 i g)) (pgRule n + 0x10C) 0 16 1
      .next (sweepNext (raise s3 (pgRule n) 0 (leBytes 2 i)) n)

end Sys2Proof.Machine
end

