-- ==== Sys2Proof/Machine/Dispatch.lean ====
section
/-! DEFINITION. One arm per command: a direct call of its meaning. -/
namespace Sys2Proof.Machine

/-- The effect of a command on everything but the queue. -/
def exec (i : Instr) (s : State) : Host.Outcome State Fault Refusal :=
  match i with
  | .linkCrcFail link retrained => Sys2Proof.Machine.execLinkCrcFail link retrained s
  | .reroute n src dst => Sys2Proof.Machine.execReroute n src dst s
  | .counterWrap island => Sys2Proof.Machine.execCounterWrap island s
  | .ringPi ring value stores => Sys2Proof.Machine.execRingPi ring value stores s
  | .cqCi ring value => Sys2Proof.Machine.execCqCi ring value s
  | .descriptorFetch ring count => Sys2Proof.Machine.execDescriptorFetch ring count s
  | .attend ring => Sys2Proof.Machine.execAttend ring s
  | .appendKv ring => Sys2Proof.Machine.execAppendKv ring s
  | .visibleAdvance shelf => Sys2Proof.Machine.execVisibleAdvance shelf s
  | .failedAppend shelf => Sys2Proof.Machine.execFailedAppend shelf s
  | .ringSlotReuse shelf => Sys2Proof.Machine.execRingSlotReuse shelf s
  | .merge ring => Sys2Proof.Machine.execMerge ring s
  | .trimKv ring => Sys2Proof.Machine.execTrimKv ring s
  | .trimSetEnd shelf => Sys2Proof.Machine.execTrimSetEnd shelf s
  | .trimTailComplete shelf => Sys2Proof.Machine.execTrimTailComplete shelf s
  | .headTrimFree shelf => Sys2Proof.Machine.execHeadTrimFree shelf s
  | .dropShelf ring => Sys2Proof.Machine.execDropShelf ring s
  | .dropFree shelf => Sys2Proof.Machine.execDropFree shelf s
  | .convScanEnd die mark => Sys2Proof.Machine.execConvScanEnd die mark s
  | .plan ring => Sys2Proof.Machine.execPlan ring s
  | .pin ring => Sys2Proof.Machine.execPin ring s
  | .search ring => Sys2Proof.Machine.execSearch ring s
  | .vinsert ring => Sys2Proof.Machine.execVinsert ring s
  | .vdelete ring => Sys2Proof.Machine.execVdelete ring s
  | .vmerge ring => Sys2Proof.Machine.execVmerge ring s
  | .vmergeSwitch part handle => Sys2Proof.Machine.execVmergeSwitch part handle s
  | .statusRecordWrite part handle => Sys2Proof.Machine.execStatusRecordWrite part handle s
  | .movePull ring => Sys2Proof.Machine.execMovePull ring s
  | .mirrorSet ring => Sys2Proof.Machine.execMirrorSet ring s
  | .load ring => Sys2Proof.Machine.execLoad ring s
  | .unload ring => Sys2Proof.Machine.execUnload ring s
  | .objectFree part handle => Sys2Proof.Machine.execObjectFree part handle s
  | .fence ring => Sys2Proof.Machine.execFence ring s
  | .fenceComplete part => Sys2Proof.Machine.execFenceComplete part s
  | .graceWindowClose part => Sys2Proof.Machine.execGraceWindowClose part s
  | .arm ring => Sys2Proof.Machine.execArm ring s
  | .disarm ring => Sys2Proof.Machine.execDisarm ring s
  | .trigger port value qpn => Sys2Proof.Machine.execTrigger port value qpn s
  | .fire ring key => Sys2Proof.Machine.execFire ring key s
  | .ringCreate die => Sys2Proof.Machine.execRingCreate die s
  | .ringDestroy die => Sys2Proof.Machine.execRingDestroy die s
  | .ringDestroyDone ring => Sys2Proof.Machine.execRingDestroyDone ring s
  | .bucketWaitExceeded req => Sys2Proof.Machine.execBucketWaitExceeded req s
  | .runDispatch req run tile => Sys2Proof.Machine.execRunDispatch req run tile s
  | .passN req run => Sys2Proof.Machine.execPassN req run s
  | .passV req run => Sys2Proof.Machine.execPassV req run s
  | .combine req => Sys2Proof.Machine.execCombine req s
  | .netLoopCheck req => Sys2Proof.Machine.execNetLoopCheck req s
  | .scoreSheetFailure req => Sys2Proof.Machine.execScoreSheetFailure req s
  | .boothJobStart booth => Sys2Proof.Machine.execBoothJobStart booth s
  | .uopNop booth => Sys2Proof.Machine.execUopNop booth s
  | .uopAct booth => Sys2Proof.Machine.execUopAct booth s
  | .uopRd booth => Sys2Proof.Machine.execUopRd booth s
  | .uopExp booth => Sys2Proof.Machine.execUopExp booth s
  | .uopDotg booth => Sys2Proof.Machine.execUopDotg booth s
  | .uopGsc booth => Sys2Proof.Machine.execUopGsc booth s
  | .uopSst booth => Sys2Proof.Machine.execUopSst booth s
  | .uopSeti booth => Sys2Proof.Machine.execUopSeti booth s
  | .uopAddi booth => Sys2Proof.Machine.execUopAddi booth s
  | .uopLoop booth => Sys2Proof.Machine.execUopLoop booth s
  | .uopEnd booth => Sys2Proof.Machine.execUopEnd booth s
  | .collectorJobDone booth => Sys2Proof.Machine.execCollectorJobDone booth s
  | .boothPark booth => Sys2Proof.Machine.execBoothPark booth s
  | .perBankRefresh booth bank => Sys2Proof.Machine.execPerBankRefresh booth bank s
  | .allBankRefresh stack die => Sys2Proof.Machine.execAllBankRefresh stack die s
  | .refreshComplete stack die => Sys2Proof.Machine.execRefreshComplete stack die s
  | .boothRestart booth => Sys2Proof.Machine.execBoothRestart booth s
  | .boothJobTimeout booth => Sys2Proof.Machine.execBoothJobTimeout booth s
  | .scriptWindowWrite stack entry value => Sys2Proof.Machine.execScriptWindowWrite stack entry value s
  | .scriptDescriptorWrite stack index value => Sys2Proof.Machine.execScriptDescriptorWrite stack index value s
  | .demotion part t0 => Sys2Proof.Machine.execDemotion part t0 s
  | .moveEnd shelf series idx => Sys2Proof.Machine.execMoveEnd shelf series idx s
  | .tierVisit shelf series idx => Sys2Proof.Machine.execTierVisit shelf series idx s
  | .allocationPlaceFreed part => Sys2Proof.Machine.execAllocationPlaceFreed part s
  | .coldReadDone req run series got => Sys2Proof.Machine.execColdReadDone req run series got s
  | .liftTaken die => Sys2Proof.Machine.execLiftTaken die s
  | .liftRoom die => Sys2Proof.Machine.execLiftRoom die s
  | .liftPlaced die shelf series idx => Sys2Proof.Machine.execLiftPlaced die shelf series idx s
  | .garbageCollection => Sys2Proof.Machine.execGarbageCollection s
  | .staticWearLevelling => Sys2Proof.Machine.execStaticWearLevelling s
  | .readDisturbRelocation block => Sys2Proof.Machine.execReadDisturbRelocation block s
  | .patrolRead corrected bad => Sys2Proof.Machine.execPatrolRead corrected bad s
  | .blockReadFail unit errs => Sys2Proof.Machine.execBlockReadFail unit errs s
  | .cabTblInstall id => Sys2Proof.Machine.execCabTblInstall id s
  | .cabTblRetire id => Sys2Proof.Machine.execCabTblRetire id s
  | .partTierWrite part value => Sys2Proof.Machine.execPartTierWrite part value s
  | .partCabshareWrite part value => Sys2Proof.Machine.execPartCabshareWrite part value s
  | .correctedWriteback stack line => Sys2Proof.Machine.execCorrectedWriteback stack line s
  | .scrubRead stack stays once => Sys2Proof.Machine.execScrubRead stack stays once s
  | .damagedShelfFree shelf => Sys2Proof.Machine.execDamagedShelfFree shelf s
  | .rowRepair stack => Sys2Proof.Machine.execRowRepair stack s
  | .pcRetire stack pc => Sys2Proof.Machine.execPcRetire stack pc s
  | .pcRetired stack pc => Sys2Proof.Machine.execPcRetired stack pc s
  | .stackFence stack => Sys2Proof.Machine.execStackFence stack s
  | .ruleInsert => Sys2Proof.Machine.execRuleInsert s
  | .ruleRemove => Sys2Proof.Machine.execRuleRemove s
  | .ruleModify => Sys2Proof.Machine.execRuleModify s
  | .ruleRead => Sys2Proof.Machine.execRuleRead s
  | .ruleApplyBands => Sys2Proof.Machine.execRuleApplyBands s
  | .ruleDefLoWrite value => Sys2Proof.Machine.execRuleDefLoWrite value s
  | .ruleDefHiWrite value => Sys2Proof.Machine.execRuleDefHiWrite value s
  | .rebalance band => Sys2Proof.Machine.execRebalance band s
  | .shadowCompare die badA badB => Sys2Proof.Machine.execShadowCompare die badA badB s
  | .portLinkUp port => Sys2Proof.Machine.execPortLinkUp port s
  | .portLinkDown port => Sys2Proof.Machine.execPortLinkDown port s
  | .packetReceive port pkt => Sys2Proof.Machine.execPacketReceive port pkt s
  | .qpFetchDone port qpn => Sys2Proof.Machine.execQpFetchDone port qpn s
  | .resultBlockSend port qpn => Sys2Proof.Machine.execResultBlockSend port qpn s
  | .ackTimeout qpn => Sys2Proof.Machine.execAckTimeout qpn s
  | .ccTimerExpiry qpn => Sys2Proof.Machine.execCcTimerExpiry qpn s
  | .shaperRefill port => Sys2Proof.Machine.execShaperRefill port s
  | .policerRefill port => Sys2Proof.Machine.execPolicerRefill port s
  | .gateIntervalEnd port => Sys2Proof.Machine.execGateIntervalEnd port s
  | .gclCommit port => Sys2Proof.Machine.execGclCommit port s
  | .gclSwitch port => Sys2Proof.Machine.execGclSwitch port s
  | .ptpSync port offset => Sys2Proof.Machine.execPtpSync port offset s
  | .ptpTimeout port => Sys2Proof.Machine.execPtpTimeout port s
  | .netTimeNsRead port => Sys2Proof.Machine.execNetTimeNsRead port s
  | .hello port msg => Sys2Proof.Machine.execHello port msg s
  | .reply port msg => Sys2Proof.Machine.execReply port msg s
  | .confirm port msg => Sys2Proof.Machine.execConfirm port msg s
  | .rekey port msg => Sys2Proof.Machine.execRekey port msg s
  | .abort port msg => Sys2Proof.Machine.execAbort port msg s
  | .helloRepeat port => Sys2Proof.Machine.execHelloRepeat port s
  | .handshakeTimeout port => Sys2Proof.Machine.execHandshakeTimeout port s
  | .rekeyPeriod port => Sys2Proof.Machine.execRekeyPeriod port s
  | .qpCreate port => Sys2Proof.Machine.execQpCreate port s
  | .qpDestroy port => Sys2Proof.Machine.execQpDestroy port s
  | .qpRead port => Sys2Proof.Machine.execQpRead port s
  | .regionRegister => Sys2Proof.Machine.execRegionRegister s
  | .regionReregisterNew => Sys2Proof.Machine.execRegionReregisterNew s
  | .regionReregisterKeep => Sys2Proof.Machine.execRegionReregisterKeep s
  | .regionDeregister => Sys2Proof.Machine.execRegionDeregister s
  | .regionRead => Sys2Proof.Machine.execRegionRead s
  | .regionCommandDrain => Sys2Proof.Machine.execRegionCommandDrain s
  | .conventionalReset => Sys2Proof.Machine.execConventionalReset s
  | .cxlLinkUp speed width flit256 cacheOk memOk => Sys2Proof.Machine.execCxlLinkUp speed width flit256 cacheOk memOk s
  | .cxlMemRead dpa => Sys2Proof.Machine.execCxlMemRead dpa s
  | .cxlMemWrite dpa bytes poison => Sys2Proof.Machine.execCxlMemWrite dpa bytes poison s
  | .hostSnoop line => Sys2Proof.Machine.execHostSnoop line s
  | .birsp line => Sys2Proof.Machine.execBirsp line s
  | .ideFail => Sys2Proof.Machine.execIdeFail s
  | .dcAdd => Sys2Proof.Machine.execDcAdd s
  | .dcRelease => Sys2Proof.Machine.execDcRelease s
  | .dcRead => Sys2Proof.Machine.execDcRead s
  | .extentUnused ext => Sys2Proof.Machine.execExtentUnused ext s
  | .extentZeroed ext => Sys2Proof.Machine.execExtentZeroed ext s
  | .addDynamicCapacityResponse exts => Sys2Proof.Machine.execAddDynamicCapacityResponse exts s
  | .releaseDynamicCapacity exts => Sys2Proof.Machine.execReleaseDynamicCapacity exts s
  | .identifyMemoryDevice => Sys2Proof.Machine.execIdentifyMemoryDevice s
  | .getDynamicCapacityConfiguration => Sys2Proof.Machine.execGetDynamicCapacityConfiguration s
  | .getDynamicCapacityExtentList => Sys2Proof.Machine.execGetDynamicCapacityExtentList s
  | .getEventRecords log => Sys2Proof.Machine.execGetEventRecords log s
  | .clearEventRecords log handles => Sys2Proof.Machine.execClearEventRecords log handles s
  | .partCreate part => Sys2Proof.Machine.execPartCreate part s
  | .partDestroy part => Sys2Proof.Machine.execPartDestroy part s
  | .partDestroyDone part => Sys2Proof.Machine.execPartDestroyDone part s
  | .partReset part => Sys2Proof.Machine.execPartReset part s
  | .partResetDone part => Sys2Proof.Machine.execPartResetDone part s
  | .partApplyMaps part => Sys2Proof.Machine.execPartApplyMaps part s
  | .mapRemovalDone part => Sys2Proof.Machine.execMapRemovalDone part s
  | .pullCheck shelf drawers => Sys2Proof.Machine.execPullCheck shelf drawers s
  | .remoteDrawerRead shelf series idx data => Sys2Proof.Machine.execRemoteDrawerRead shelf series idx data s
  | .pullSweep die => Sys2Proof.Machine.execPullSweep die s
  | .mirrorEntry part peer entry => Sys2Proof.Machine.execMirrorEntry part peer entry s
  | .mirrorAck part peer => Sys2Proof.Machine.execMirrorAck part peer s
  | .mirrorStall link => Sys2Proof.Machine.execMirrorStall link s
  | .leaseExpiry => Sys2Proof.Machine.execLeaseExpiry s
  | .meteringHour part => Sys2Proof.Machine.execMeteringHour part s
  | .report part psect => Sys2Proof.Machine.execReport part psect s
  | .readCertificate index => Sys2Proof.Machine.execReadCertificate index s
  | .installFenceKey => Sys2Proof.Machine.execInstallFenceKey s
  | .addTrustKey => Sys2Proof.Machine.execAddTrustKey s
  | .removeTrustKey index => Sys2Proof.Machine.execRemoveTrustKey index s
  | .ideHandshakeMessage => Sys2Proof.Machine.execIdeHandshakeMessage s
  | .applyWindow => Sys2Proof.Machine.execApplyWindow s
  | .windowChangeDone part => Sys2Proof.Machine.execWindowChangeDone part s
  | .debugToken token => Sys2Proof.Machine.execDebugToken token s
  | .watchdogExpiry => Sys2Proof.Machine.execWatchdogExpiry s
  | .restart => Sys2Proof.Machine.execRestart s
  | .restartDone => Sys2Proof.Machine.execRestartDone s
  | .loadWindow load => Sys2Proof.Machine.execLoadWindow load s
  | .fwStream => Sys2Proof.Machine.execFwStream s
  | .fwDone => Sys2Proof.Machine.execFwDone s
  | .fwAbort => Sys2Proof.Machine.execFwAbort s
  | .fwVerify slot => Sys2Proof.Machine.execFwVerify slot s
  | .fwVerifyDone => Sys2Proof.Machine.execFwVerifyDone s
  | .activateTrial => Sys2Proof.Machine.execActivateTrial s
  | .commit => Sys2Proof.Machine.execCommit s
  | .raiseSecurityVersion => Sys2Proof.Machine.execRaiseSecurityVersion s
  | .cancelTrial => Sys2Proof.Machine.execCancelTrial s
  | .trialCommitTimer => Sys2Proof.Machine.execTrialCommitTimer s
  | .bootRom => Sys2Proof.Machine.execBootRom s
  | .loaderStart => Sys2Proof.Machine.execLoaderStart s
  | .runtimeStart => Sys2Proof.Machine.execRuntimeStart s
  | .trainDone => Sys2Proof.Machine.execTrainDone s
  | .recoveryImageData data => Sys2Proof.Machine.execRecoveryImageData data s
  | .recoveryStatusRequest => Sys2Proof.Machine.execRecoveryStatusRequest s
  | .evrWstatRead => Sys2Proof.Machine.execEvrWstatRead s
  | .evrClear => Sys2Proof.Machine.execEvrClear s
  | .captCfgWrite part value => Sys2Proof.Machine.execCaptCfgWrite part value s
  | .replayStart part die => Sys2Proof.Machine.execReplayStart part die s
  | .replayStop part => Sys2Proof.Machine.execReplayStop part s
  | .replayEntry part => Sys2Proof.Machine.execReplayEntry part s
  | .dumpStart => Sys2Proof.Machine.execDumpStart s
  | .dumpComplete => Sys2Proof.Machine.execDumpComplete s
  | .dumpTimeout => Sys2Proof.Machine.execDumpTimeout s
  | .dumpCopy => Sys2Proof.Machine.execDumpCopy s
  | .dumpRelease => Sys2Proof.Machine.execDumpRelease s
  | .snap part => Sys2Proof.Machine.execSnap part s
  | .pwrEn => Sys2Proof.Machine.execPwrEn s
  | .pwrGood => Sys2Proof.Machine.execPwrGood s
  | .inputLoss => Sys2Proof.Machine.execInputLoss s
  | .inputFault mv => Sys2Proof.Machine.execInputFault mv s
  | .resetN => Sys2Proof.Machine.execResetN s
  | .smbusBlockRead code => Sys2Proof.Machine.execSmbusBlockRead code s
  | .powerMeasurement mv ca watts => Sys2Proof.Machine.execPowerMeasurement mv ca watts s
  | .pwrModeWrite value => Sys2Proof.Machine.execPwrModeWrite value s
  | .pllLocked => Sys2Proof.Machine.execPllLocked s
  | .sensorReading temps => Sys2Proof.Machine.execSensorReading temps s
  | .drain => Sys2Proof.Machine.execDrain s
  | .serve => Sys2Proof.Machine.execServe s
  | .pgEvtWrite page value => Sys2Proof.Machine.execPgEvtWrite page value s
  | .pgEvtEnWrite page value => Sys2Proof.Machine.execPgEvtEnWrite page value s
  | .pgCtrlWrite page value => Sys2Proof.Machine.execPgCtrlWrite page value s
  | .pgEvtForce page value => Sys2Proof.Machine.execPgEvtForce page value s
  | .msixUnmask vector => Sys2Proof.Machine.execMsixUnmask vector s
  | .rcRead addr width => Sys2Proof.Machine.execRcRead addr width s
  | .registerWrite addr width value => Sys2Proof.Machine.execRegisterWrite addr width value s
  | .referenceOscillatorLoss => Sys2Proof.Machine.execReferenceOscillatorLoss s
  | .pwrEnLow => Sys2Proof.Machine.execPwrEnLow s
  | .rnrTimerExpiry qpn => Sys2Proof.Machine.execRnrTimerExpiry qpn s
  | .cxlLinkRecovery => Sys2Proof.Machine.execCxlLinkRecovery s
  | .unsupportedMailboxCommand code => Sys2Proof.Machine.execUnsupportedMailboxCommand code s
  | .recoveryReenumeration => Sys2Proof.Machine.execRecoveryReenumeration s

end Sys2Proof.Machine
end

