-- ==== Sys2Proof/Safety.lean ====
section
/-! DEFINITION. What counts as a safe run, and which parts of the state each command may change. Claims are stated with these. -/
namespace Sys2Proof.Safety

open Sys2Proof.Machine

/-- What holds in every state that a run can reach, and more: host memory and the CXL memory of extents are in canonical form, `ALERT_N` is low
exactly while an alert bit is set (R510), and every waiting command is one that an event can carry. -/
structure Inv (s : State) : Prop where
  host    : Memory.wf s.hostMem = true
  dev     : Memory.wf s.devMem = true
  alert   : s.dev.alertN = decide (s.pwr.sbAlert = 0)
  pending : s.pending.all Instr.wellFormed = true

/-! ### When a command is taken -/

/-- A host access reaches the registers of the page at a BAR0 offset: the module runs, IDE keeps nothing back, and the page is open (R373, R386, R527). -/
def HostMay (s : State) (pg : Nat) : Prop := hostReach s = true ∧ ideHold s = false ∧ pageOpen s (pg / 4096) = true

/-- The page, by its BAR0 offset, of a command that is a host write of its page's command register or of a register with an effect. -/
def hostPage : Instr → Option Nat
  | .dcAdd | .dcRelease | .dcRead => some pgCxl
  | .cabTblInstall _ | .cabTblRetire _ => some pgCab
  | .gclCommit port => some (pgShp port.val 0)
  | .qpCreate port | .qpDestroy port | .qpRead port => some (pgNet port.val)
  | .evrClear | .dumpCopy | .dumpRelease => some pgEvr
  | .captCfgWrite part _ | .replayStart part _ | .replayStop part => some (pgCapt part.val)
  | .snap part => some (pgMtr part.val)
  | .partCreate part | .partApplyMaps part | .partReset part | .partDestroy part | .partTierWrite part _ | .partCabshareWrite part _ =>
    some (pgPart part.val)
  | .pwrModeWrite _ | .drain | .serve => some pgPwr
  | .regionRegister | .regionReregisterNew | .regionReregisterKeep | .regionDeregister | .regionRead => some (pgNet 0)
  | .pgEvtWrite page _ | .pgEvtEnWrite page _ | .pgCtrlWrite page _ | .pgEvtForce page _ => some (4096 * page)
  | .cqCi ring _ => some (pgRing ring.val)
  | .ringCreate die | .ringDestroy die => some (pgAsch die.val)
  | .ruleInsert | .ruleRemove | .ruleModify | .ruleRead | .ruleApplyBands | .ruleDefLoWrite _ | .ruleDefHiWrite _ => some (pgRule 0)
  | .report _ _ | .readCertificate _ | .installFenceKey | .addTrustKey | .removeTrustKey _ | .ideHandshakeMessage | .applyWindow => some pgSec
  | .fwStream | .fwAbort | .fwVerify _ | .activateTrial | .commit | .raiseSecurityVersion | .cancelTrial | .restart => some pgStw
  | .linkCrcFail .. | .reroute .. | .counterWrap .. | .ringPi .. | .descriptorFetch .. | .attend .. | .appendKv .. | .visibleAdvance ..
  | .failedAppend .. | .ringSlotReuse .. | .merge .. | .trimKv .. | .trimSetEnd .. | .trimTailComplete .. | .headTrimFree .. | .dropShelf ..
  | .dropFree .. | .convScanEnd .. | .plan .. | .pin .. | .search .. | .vinsert .. | .vdelete .. | .vmerge .. | .vmergeSwitch ..
  | .statusRecordWrite .. | .movePull .. | .mirrorSet .. | .load .. | .unload .. | .objectFree .. | .fence .. | .fenceComplete ..
  | .graceWindowClose .. | .arm .. | .disarm .. | .trigger .. | .fire .. | .ringDestroyDone .. | .bucketWaitExceeded .. | .runDispatch ..
  | .passN .. | .passV .. | .combine .. | .netLoopCheck .. | .scoreSheetFailure .. | .boothJobStart .. | .uopNop .. | .uopAct .. | .uopRd ..
  | .uopExp .. | .uopDotg .. | .uopGsc .. | .uopSst .. | .uopSeti .. | .uopAddi .. | .uopLoop .. | .uopEnd .. | .collectorJobDone ..
  | .boothPark .. | .perBankRefresh .. | .allBankRefresh .. | .refreshComplete .. | .boothRestart .. | .boothJobTimeout ..
  | .scriptWindowWrite .. | .scriptDescriptorWrite .. | .demotion .. | .moveEnd .. | .tierVisit .. | .allocationPlaceFreed .. | .coldReadDone ..
  | .liftTaken .. | .liftRoom .. | .liftPlaced .. | .garbageCollection .. | .staticWearLevelling .. | .readDisturbRelocation .. | .patrolRead ..
  | .blockReadFail .. | .correctedWriteback .. | .scrubRead .. | .damagedShelfFree .. | .rowRepair .. | .pcRetire .. | .pcRetired ..
  | .stackFence .. | .rebalance .. | .shadowCompare .. | .portLinkUp .. | .portLinkDown .. | .packetReceive .. | .qpFetchDone ..
  | .resultBlockSend .. | .ackTimeout .. | .ccTimerExpiry .. | .shaperRefill .. | .policerRefill .. | .gateIntervalEnd .. | .gclSwitch ..
  | .ptpSync .. | .ptpTimeout .. | .netTimeNsRead .. | .hello .. | .reply .. | .confirm .. | .rekey .. | .abort .. | .helloRepeat ..
  | .handshakeTimeout .. | .rekeyPeriod .. | .regionCommandDrain .. | .conventionalReset .. | .cxlLinkUp .. | .cxlMemRead .. | .cxlMemWrite ..
  | .hostSnoop .. | .birsp .. | .ideFail .. | .extentUnused .. | .extentZeroed .. | .addDynamicCapacityResponse .. | .releaseDynamicCapacity ..
  | .identifyMemoryDevice .. | .getDynamicCapacityConfiguration .. | .getDynamicCapacityExtentList .. | .getEventRecords ..
  | .clearEventRecords .. | .partDestroyDone .. | .partResetDone .. | .mapRemovalDone .. | .pullCheck .. | .remoteDrawerRead .. | .pullSweep ..
  | .mirrorEntry .. | .mirrorAck .. | .mirrorStall .. | .leaseExpiry .. | .meteringHour .. | .windowChangeDone .. | .debugToken ..
  | .watchdogExpiry .. | .restartDone .. | .loadWindow .. | .fwDone .. | .fwVerifyDone .. | .trialCommitTimer .. | .bootRom .. | .loaderStart ..
  | .runtimeStart .. | .trainDone .. | .recoveryImageData .. | .recoveryStatusRequest .. | .evrWstatRead .. | .replayEntry .. | .dumpStart ..
  | .dumpComplete .. | .dumpTimeout .. | .pwrEn .. | .pwrGood .. | .inputLoss .. | .inputFault .. | .resetN .. | .smbusBlockRead ..
  | .powerMeasurement .. | .pllLocked .. | .sensorReading .. | .msixUnmask .. | .rcRead .. | .registerWrite .. | .referenceOscillatorLoss ..
  | .pwrEnLow .. | .rnrTimerExpiry .. | .cxlLinkRecovery .. | .unsupportedMailboxCommand .. | .recoveryReenumeration .. => none

/-- The ringmaster takes new work of a class: it runs, does not defer the class, and its queue has room (R451-R454). -/
def RmTakes (s : State) (c : Nat) : Prop := s.stw.rm = .running ∧ deferred s c = false ∧ s.stw.queues.getD c 0 < classQueue c

/-- The first descriptor of a ring, of the kind that `p` says, has passed steps 2 to 4 of R119: it is request `r` with number `id`. -/
def Checked (s : State) (ring : Nat) (p : List Byte → Bool) (d : List Byte) (id : Nat) (r : Req) (s1 : State) : Prop :=
  ∃ (src : Nat) (g : Ring), frontDesc s ring p = some (src, d, g) ∧ steps24 s ring src g d = (some (id, r), s1)

/-- The first descriptor of a ring has an opcode, is not to be armed, and has passed steps 2 to 9 of R119. -/
def Admits (s : State) (ring op id : Nat) (r : Req) (s1 : State) : Prop :=
  ∃ (d : List Byte) (r0 : Req) (s0 : State),
    Checked s ring (fun d => decide (dOpcode d = op) && !dArm d) d id r0 s0 ∧ steps69 s0 r0 = (none, r, s1)

/-- The first descriptor of a ring is admitted as `Admits` says, and the lines of the directory that the lookup of its shelf key needs have been read
(R76, R272). -/
def Looks (s : State) (ring op id : Nat) (r : Req) (s1 : State) : Prop :=
  ∃ s0 : State, Admits s ring op id r s0 ∧ s1 = readDir s0 (dKey r.desc)

/-- The ring and the opcode of a command that admits a descriptor. -/
def descOp : Instr → Option (Nat × Nat)
  | .attend ring => some (ring.val, 0x01)
  | .appendKv ring => some (ring.val, 0x02)
  | .merge ring => some (ring.val, 0x03)
  | .trimKv ring => some (ring.val, 0x04)
  | .dropShelf ring => some (ring.val, 0x05)
  | .plan ring => some (ring.val, 0x06)
  | .pin ring => some (ring.val, 0x07)
  | .search ring => some (ring.val, 0x10)
  | .vinsert ring => some (ring.val, 0x11)
  | .vdelete ring => some (ring.val, 0x12)
  | .vmerge ring => some (ring.val, 0x13)
  | .movePull ring => some (ring.val, 0x20)
  | .mirrorSet ring => some (ring.val, 0x21)
  | .load ring => some (ring.val, 0x30)
  | .unload ring => some (ring.val, 0x31)
  | .fence ring => some (ring.val, 0x3F)
  | .linkCrcFail .. | .reroute .. | .counterWrap .. | .ringPi .. | .cqCi .. | .descriptorFetch .. | .visibleAdvance .. | .failedAppend ..
  | .ringSlotReuse .. | .trimSetEnd .. | .trimTailComplete .. | .headTrimFree .. | .dropFree .. | .convScanEnd .. | .vmergeSwitch ..
  | .statusRecordWrite .. | .objectFree .. | .fenceComplete .. | .graceWindowClose .. | .arm .. | .disarm .. | .trigger .. | .fire ..
  | .ringCreate .. | .ringDestroy .. | .ringDestroyDone .. | .bucketWaitExceeded .. | .runDispatch .. | .passN .. | .passV .. | .combine ..
  | .netLoopCheck .. | .scoreSheetFailure .. | .boothJobStart .. | .uopNop .. | .uopAct .. | .uopRd .. | .uopExp .. | .uopDotg .. | .uopGsc ..
  | .uopSst .. | .uopSeti .. | .uopAddi .. | .uopLoop .. | .uopEnd .. | .collectorJobDone .. | .boothPark .. | .perBankRefresh ..
  | .allBankRefresh .. | .refreshComplete .. | .boothRestart .. | .boothJobTimeout .. | .scriptWindowWrite .. | .scriptDescriptorWrite ..
  | .demotion .. | .moveEnd .. | .tierVisit .. | .allocationPlaceFreed .. | .coldReadDone .. | .liftTaken .. | .liftRoom .. | .liftPlaced ..
  | .garbageCollection .. | .staticWearLevelling .. | .readDisturbRelocation .. | .patrolRead .. | .blockReadFail .. | .cabTblInstall ..
  | .cabTblRetire .. | .partTierWrite .. | .partCabshareWrite .. | .correctedWriteback .. | .scrubRead .. | .damagedShelfFree .. | .rowRepair ..
  | .pcRetire .. | .pcRetired .. | .stackFence .. | .ruleInsert .. | .ruleRemove .. | .ruleModify .. | .ruleRead .. | .ruleApplyBands ..
  | .ruleDefLoWrite .. | .ruleDefHiWrite .. | .rebalance .. | .shadowCompare .. | .portLinkUp .. | .portLinkDown .. | .packetReceive ..
  | .qpFetchDone .. | .resultBlockSend .. | .ackTimeout .. | .ccTimerExpiry .. | .shaperRefill .. | .policerRefill .. | .gateIntervalEnd ..
  | .gclCommit .. | .gclSwitch .. | .ptpSync .. | .ptpTimeout .. | .netTimeNsRead .. | .hello .. | .reply .. | .confirm .. | .rekey ..
  | .abort .. | .helloRepeat .. | .handshakeTimeout .. | .rekeyPeriod .. | .qpCreate .. | .qpDestroy .. | .qpRead .. | .regionRegister ..
  | .regionReregisterNew .. | .regionReregisterKeep .. | .regionDeregister .. | .regionRead .. | .regionCommandDrain .. | .conventionalReset ..
  | .cxlLinkUp .. | .cxlMemRead .. | .cxlMemWrite .. | .hostSnoop .. | .birsp .. | .ideFail .. | .dcAdd .. | .dcRelease .. | .dcRead ..
  | .extentUnused .. | .extentZeroed .. | .addDynamicCapacityResponse .. | .releaseDynamicCapacity .. | .identifyMemoryDevice ..
  | .getDynamicCapacityConfiguration .. | .getDynamicCapacityExtentList .. | .getEventRecords .. | .clearEventRecords .. | .partCreate ..
  | .partDestroy .. | .partDestroyDone .. | .partReset .. | .partResetDone .. | .partApplyMaps .. | .mapRemovalDone .. | .pullCheck ..
  | .remoteDrawerRead .. | .pullSweep .. | .mirrorEntry .. | .mirrorAck .. | .mirrorStall .. | .leaseExpiry .. | .meteringHour .. | .report ..
  | .readCertificate .. | .installFenceKey .. | .addTrustKey .. | .removeTrustKey .. | .ideHandshakeMessage .. | .applyWindow ..
  | .windowChangeDone .. | .debugToken .. | .watchdogExpiry .. | .restart .. | .restartDone .. | .loadWindow .. | .fwStream .. | .fwDone ..
  | .fwAbort .. | .fwVerify .. | .fwVerifyDone .. | .activateTrial .. | .commit .. | .raiseSecurityVersion .. | .cancelTrial ..
  | .trialCommitTimer .. | .bootRom .. | .loaderStart .. | .runtimeStart .. | .trainDone .. | .recoveryImageData .. | .recoveryStatusRequest ..
  | .evrWstatRead .. | .evrClear .. | .captCfgWrite .. | .replayStart .. | .replayStop .. | .replayEntry .. | .dumpStart .. | .dumpComplete ..
  | .dumpTimeout .. | .dumpCopy .. | .dumpRelease .. | .snap .. | .pwrEn .. | .pwrGood .. | .inputLoss .. | .inputFault .. | .resetN ..
  | .smbusBlockRead .. | .powerMeasurement .. | .pwrModeWrite .. | .pllLocked .. | .sensorReading .. | .drain .. | .serve .. | .pgEvtWrite ..
  | .pgEvtEnWrite .. | .pgCtrlWrite .. | .pgEvtForce .. | .msixUnmask .. | .rcRead .. | .registerWrite .. | .referenceOscillatorLoss ..
  | .pwrEnLow .. | .rnrTimerExpiry .. | .cxlLinkRecovery .. | .unsupportedMailboxCommand .. | .recoveryReenumeration .. => none

/-- The shelf of a key is there, live, and has room for one more request (R77, R95, R138). -/
def Found (s : State) (k : ShelfKey) (i : Nat) (sh : Shelf) : Prop :=
  lookup s k = some (i, sh) ∧ sh.state = .live ∧ (shelfReqs s i).length < 65535

/-- No entry of the directory and no pull answers for a key; `s1` is the state once the pull table has been read (R77, R405). -/
def Absent (s : State) (k : ShelfKey) (s1 : State) : Prop := lookup s k = none ∧ pullOf s k = none ∧ pullFind s k = (none, s1)

/-- A booth is about to issue the word `w`, of an operation code, for its job `j` (R199, R202). -/
def Issues (s : State) (b op : Nat) (j : Job) (w : Nat) : Prop :=
  noService s = false ∧ (s.booth b).job = some j ∧ issues (s.booth b) = true ∧ uopWord s b (s.booth b) = w ∧ w / 2 ^ 27 = op

/-! ### The parts of the state -/

/-- The parts of the state that a command may change. The chip's fixed properties and the queue of waiting commands are changed by none. -/
inductive Field where
  | dev | fabric | time | wayOwner | tileOwner | pcOwner | tileTag | sched | dir | rings | armed | objects | reqs | nextId | hostMem | hostBad | devMem | devBad | booths | fstacks | tiers | cab
  | hbm | vidx | rules | ports | qps | regions | regionGen | regionBusy | cxl | parts | links | pulls | sub | sec | stw | evr | replay | pwr | regs | msix | free | out
deriving DecidableEq, Repr

/-- Two states agree in a part. -/
def Field.Same : Field → State → State → Prop
  | .dev, s, t => t.dev = s.dev
  | .fabric, s, t => t.fabric = s.fabric
  | .time, s, t => t.time = s.time
  | .wayOwner, s, t => t.wayOwner = s.wayOwner
  | .tileOwner, s, t => t.tileOwner = s.tileOwner
  | .pcOwner, s, t => t.pcOwner = s.pcOwner
  | .tileTag, s, t => t.tileTag = s.tileTag
  | .sched, s, t => t.sched = s.sched
  | .dir, s, t => t.dir = s.dir
  | .rings, s, t => t.rings = s.rings
  | .armed, s, t => t.armed = s.armed
  | .objects, s, t => t.objects = s.objects
  | .reqs, s, t => t.reqs = s.reqs
  | .nextId, s, t => t.nextId = s.nextId
  | .hostMem, s, t => t.hostMem = s.hostMem
  | .hostBad, s, t => t.hostBad = s.hostBad
  | .devMem, s, t => t.devMem = s.devMem
  | .devBad, s, t => t.devBad = s.devBad
  | .booths, s, t => t.booths = s.booths
  | .fstacks, s, t => t.fstacks = s.fstacks
  | .tiers, s, t => t.tiers = s.tiers
  | .cab, s, t => t.cab = s.cab
  | .hbm, s, t => t.hbm = s.hbm
  | .vidx, s, t => t.vidx = s.vidx
  | .rules, s, t => t.rules = s.rules
  | .ports, s, t => t.ports = s.ports
  | .qps, s, t => t.qps = s.qps
  | .regions, s, t => t.regions = s.regions
  | .regionGen, s, t => t.regionGen = s.regionGen
  | .regionBusy, s, t => t.regionBusy = s.regionBusy
  | .cxl, s, t => t.cxl = s.cxl
  | .parts, s, t => t.parts = s.parts
  | .links, s, t => t.links = s.links
  | .pulls, s, t => t.pulls = s.pulls
  | .sub, s, t => t.sub = s.sub
  | .sec, s, t => t.sec = s.sec
  | .stw, s, t => t.stw = s.stw
  | .evr, s, t => t.evr = s.evr
  | .replay, s, t => t.replay = s.replay
  | .pwr, s, t => t.pwr = s.pwr
  | .regs, s, t => t.regs = s.regs
  | .msix, s, t => t.msix = s.msix
  | .free, s, t => t.free = s.free
  | .out, s, t => t.out = s.out

/-- What a register write and a word to the host change. -/
def registering : List Field := [.regs, .out]

/-- What raising an event changes (R473-R479, R529-R531). -/
def raising : List Field := [.evr, .msix] ++ registering

/-- What accepting a record changes; one of severity 3 leads to `DUMP` (R493, R510). -/
def recording : List Field := [.dev, .booths, .pwr] ++ raising

/-- What a write through a reference changes: memory, or the doorbells and triggers it reaches (R104, R127, R378). -/
def writing : List Field := [.rings, .armed, .hostMem, .hostBad, .devMem, .devBad, .hbm, .ports, .cxl, .parts] ++ recording

/-- What the end of a request changes (R111, R112, R354, R485, R498, R515). -/
def ending : List Field := [.reqs, .qps, .replay] ++ writing

/-- The parts of the state that a command may change. -/
def mayChange : Instr → List Field
  | .linkCrcFail .. => [.fabric, .free] ++ recording
  | .reroute .. => [.fabric]
  | .counterWrap .. => [.time, .free] ++ recording
  | .ringPi .. => [.rings, .hostMem, .hostBad] ++ raising
  | .cqCi .. => writing
  | .descriptorFetch .. => [.sched, .nextId] ++ ending
  | .attend .. => [.dir, .nextId, .fstacks, .tiers, .cab, .vidx, .links, .pulls, .free] ++ ending
  | .appendKv .. => [.dir, .nextId, .fstacks, .tiers, .cab, .vidx, .links, .pulls, .sub, .free] ++ ending
  | .visibleAdvance .. => [.dir] ++ ending
  | .failedAppend .. => [.dir, .tiers, .cab, .links, .sub] ++ ending
  | .ringSlotReuse .. => [.dir, .fstacks, .tiers, .cab, .vidx, .links, .sub] ++ ending
  | .merge .. => [.nextId, .free] ++ ending
  | .trimKv .. => [.dir, .nextId, .fstacks, .cab, .vidx, .links, .pulls, .sub, .free] ++ ending
  | .trimSetEnd .. => [.dir, .fstacks, .tiers, .cab, .vidx, .links, .sub] ++ ending
  | .trimTailComplete .. => [.dir, .fstacks, .tiers, .cab, .vidx, .links, .sub, .free] ++ ending
  | .headTrimFree .. => [.dir, .tiers, .cab, .hbm, .regs]
  | .dropShelf .. => [.dir, .nextId, .fstacks, .tiers, .cab, .vidx, .links, .sub] ++ ending
  | .dropFree .. => [.dir, .tiers, .cab, .hbm, .regs]
  | .convScanEnd .. => [.dir, .tiers, .links, .sub] ++ ending
  | .plan .. => [.dir, .nextId, .fstacks, .tiers, .cab, .vidx, .links, .pulls, .free] ++ ending
  | .pin .. => [.dir, .nextId, .fstacks, .tiers, .cab, .vidx, .links, .pulls, .free] ++ ending
  | .search .. => [.nextId, .cab, .vidx] ++ ending
  | .vinsert .. => [.dir, .nextId, .fstacks, .tiers, .cab, .vidx, .links] ++ ending
  | .vdelete .. => [.dir, .nextId, .fstacks, .tiers, .cab, .vidx, .links] ++ ending
  | .vmerge .. => [.dir, .nextId, .tiers, .cab, .vidx] ++ ending
  | .vmergeSwitch .. => [.dir, .tiers, .cab, .vidx] ++ ending
  | .statusRecordWrite .. => [.vidx] ++ writing
  | .movePull .. => [.nextId, .pulls, .free] ++ ending
  | .mirrorSet .. => [.dir, .nextId, .cab, .links, .sub, .free] ++ ending
  | .load .. => [.dir, .objects, .nextId, .tiers, .cab, .vidx] ++ ending
  | .unload .. => [.objects, .nextId] ++ ending
  | .objectFree .. => [.objects, .cab, .vidx]
  | .fence .. => [.dir, .nextId, .fstacks, .tiers, .links, .pulls, .sub] ++ ending
  | .fenceComplete .. => ending
  | .graceWindowClose .. => [.parts]
  | .arm .. => [.nextId, .free] ++ ending
  | .disarm .. => [.nextId] ++ ending
  | .trigger .. => writing
  | .fire .. => [.dir, .objects, .nextId, .fstacks, .tiers, .cab, .vidx, .links, .pulls, .sub, .free] ++ ending
  | .ringCreate .. => [.rings] ++ registering
  | .ringDestroy .. => [.qps] ++ writing
  | .ringDestroyDone .. => [.rings]
  | .bucketWaitExceeded .. => [.reqs]
  | .runDispatch .. => [.tileTag, .sched, .dir, .fstacks, .cab, .vidx, .links, .free] ++ ending
  | .passN .. => [.dir, .fstacks, .cab, .vidx, .links] ++ ending
  | .passV .. => [.dir, .fstacks, .cab, .vidx, .links] ++ ending
  | .combine .. => [.dir, .free] ++ ending
  | .netLoopCheck .. => [.dir, .fstacks, .cab, .vidx, .links, .free] ++ ending
  | .scoreSheetFailure .. => [.fstacks, .free] ++ ending
  | .boothJobStart .. => [.booths]
  | .uopNop .. => [.booths, .fstacks]
  | .uopAct .. => [.booths, .fstacks]
  | .uopRd .. => [.dir, .fstacks, .links, .free] ++ ending
  | .uopExp .. => [.booths, .fstacks] ++ raising
  | .uopDotg .. => [.booths, .fstacks]
  | .uopGsc .. => [.booths, .fstacks]
  | .uopSst .. => [.reqs, .booths, .fstacks]
  | .uopSeti .. => [.booths, .fstacks]
  | .uopAddi .. => [.booths, .fstacks]
  | .uopLoop .. => [.booths, .fstacks]
  | .uopEnd .. => [.booths, .fstacks, .regs]
  | .collectorJobDone .. => [.dir, .reqs, .booths, .fstacks, .hbm]
  | .boothPark .. => [.booths, .fstacks] ++ raising
  | .perBankRefresh .. => [.booths, .fstacks] ++ raising
  | .allBankRefresh .. => [.booths, .fstacks]
  | .refreshComplete .. => [.booths, .fstacks]
  | .boothRestart .. => [.reqs, .booths, .fstacks, .hbm] ++ raising
  | .boothJobTimeout .. => [.reqs, .booths, .fstacks, .hbm] ++ raising
  | .scriptWindowWrite .. => [.fstacks]
  | .scriptDescriptorWrite .. => [.fstacks] ++ raising
  | .demotion .. => [.dir, .tiers, .cab, .hbm, .regs, .free]
  | .moveEnd .. => [.dir, .fstacks, .tiers, .cab, .vidx, .links, .sub] ++ ending
  | .tierVisit .. => [.dir, .tiers] ++ ending
  | .allocationPlaceFreed .. => [.dir, .fstacks, .tiers, .cab, .vidx, .links, .sub, .free] ++ ending
  | .coldReadDone .. => [.dir, .fstacks, .tiers, .cab, .links] ++ ending
  | .liftTaken .. => [.dir, .tiers] ++ ending
  | .liftRoom .. => [.dir, .tiers, .cab, .links, .free] ++ ending
  | .liftPlaced .. => [.dir, .tiers, .cab, .links] ++ ending
  | .garbageCollection .. => [.dir, .cab] ++ raising
  | .staticWearLevelling .. => [.cab] ++ raising
  | .readDisturbRelocation .. => [.cab] ++ raising
  | .patrolRead .. => [.dir, .cab, .links] ++ ending
  | .blockReadFail .. => [.dir, .fstacks, .tiers, .cab, .vidx, .links] ++ ending
  | .cabTblInstall .. => [.cab, .free] ++ registering
  | .cabTblRetire .. => [.cab, .free] ++ registering
  | .partTierWrite .. => [.parts] ++ registering
  | .partCabshareWrite .. => registering
  | .correctedWriteback .. => [.booths, .hbm]
  | .scrubRead .. => [.dir, .fstacks, .tiers, .cab, .vidx, .links, .free] ++ ending
  | .damagedShelfFree .. => [.dir, .tiers, .cab, .hbm, .regs]
  | .rowRepair .. => [.dir, .fstacks, .tiers, .cab, .vidx, .links, .free] ++ ending
  | .pcRetire .. => [.dir, .tiers, .cab, .hbm, .regs]
  | .pcRetired .. => [.pcOwner, .dir, .fstacks, .tiers, .cab, .vidx, .links, .free] ++ ending
  | .stackFence .. => [.dir, .fstacks, .tiers, .cab, .vidx, .links, .free] ++ ending
  | .ruleInsert .. => [.hbm, .rules] ++ raising
  | .ruleRemove .. => [.hbm, .rules] ++ registering
  | .ruleModify .. => [.hbm, .rules] ++ registering
  | .ruleRead .. => registering
  | .ruleApplyBands .. => [.rules] ++ registering
  | .ruleDefLoWrite .. => [.rules, .out]
  | .ruleDefHiWrite .. => [.rules, .out]
  | .rebalance .. => [.hbm, .rules]
  | .shadowCompare .. => [.dir, .fstacks, .cab, .vidx, .rules, .links, .free] ++ ending
  | .portLinkUp .. => [.ports] ++ raising
  | .portLinkDown .. => [.ports] ++ raising
  | .packetReceive .. => [.dir, .tiers, .links] ++ ending
  | .qpFetchDone .. => [.dir, .fstacks, .tiers, .cab, .vidx, .links, .free] ++ ending
  | .resultBlockSend .. => [.ports, .qps, .parts] ++ raising
  | .ackTimeout .. => [.qps] ++ raising
  | .ccTimerExpiry .. => [.qps]
  | .shaperRefill .. => [.ports]
  | .policerRefill .. => [.ports]
  | .gateIntervalEnd .. => [.ports]
  | .gclCommit .. => [.ports] ++ registering
  | .gclSwitch .. => [.ports] ++ raising
  | .ptpSync .. => [.ports, .free]
  | .ptpTimeout .. => [.ports] ++ raising
  | .netTimeNsRead .. => [.ports, .out]
  | .hello .. => [.ports, .free] ++ raising
  | .reply .. => [.ports] ++ raising
  | .confirm .. => [.ports] ++ raising
  | .rekey .. => [.ports] ++ raising
  | .abort .. => [.ports] ++ raising
  | .helloRepeat .. => [.ports, .free, .out]
  | .handshakeTimeout .. => [.ports] ++ raising
  | .rekeyPeriod .. => [.ports, .out]
  | .qpCreate .. => [.hostMem, .hostBad, .hbm, .qps, .cxl, .free] ++ raising
  | .qpDestroy .. => [.dir, .ports, .qps] ++ registering
  | .qpRead .. => registering
  | .regionRegister .. => [.regions, .regionGen, .free] ++ registering
  | .regionReregisterNew .. => [.regions, .regionGen, .regionBusy, .free] ++ registering
  | .regionReregisterKeep .. => [.regions, .regionGen, .regionBusy, .free] ++ registering
  | .regionDeregister .. => [.regions, .regionBusy, .free] ++ registering
  | .regionRead .. => [.free] ++ registering
  | .regionCommandDrain .. => [.regionBusy, .regs]
  | .conventionalReset .. => [.fabric, .time, .wayOwner, .tileOwner, .pcOwner, .tileTag, .sched, .dir, .objects, .nextId, .fstacks, .tiers, .cab, .vidx, .rules, .regions, .regionGen, .regionBusy, .links, .pulls, .sub, .sec, .stw, .free] ++ ending
  | .cxlLinkUp .. => [.cxl] ++ raising
  | .cxlMemRead .. => [.devBad, .hbm, .cxl] ++ raising
  | .cxlMemWrite .. => [.devMem, .devBad, .hbm] ++ raising
  | .hostSnoop .. => [.hostMem, .hostBad, .cxl, .free] ++ registering
  | .birsp .. => writing
  | .ideFail .. => [.cxl] ++ raising
  | .dcAdd .. => [.devMem, .devBad, .hbm, .cxl] ++ raising
  | .dcRelease .. => [.cxl] ++ raising
  | .dcRead .. => registering
  | .extentUnused .. => [.cxl] ++ raising
  | .extentZeroed .. => [.devMem, .devBad, .hbm, .cxl] ++ raising
  | .addDynamicCapacityResponse .. => [.cxl] ++ raising
  | .releaseDynamicCapacity .. => [.cxl] ++ raising
  | .identifyMemoryDevice .. => [.free] ++ registering
  | .getDynamicCapacityConfiguration .. => [.free] ++ registering
  | .getDynamicCapacityExtentList .. => registering
  | .getEventRecords .. => registering
  | .clearEventRecords .. => [.cxl] ++ registering
  | .partCreate .. => [.dev, .wayOwner, .tileOwner, .pcOwner, .booths, .parts, .free] ++ registering
  | .partDestroy .. => [.dir, .nextId, .fstacks, .tiers, .cab, .vidx, .links, .sub] ++ ending
  | .partDestroyDone .. => [.wayOwner, .tileOwner, .pcOwner, .dir, .objects, .fstacks, .tiers, .cab, .vidx, .qps, .regions, .links, .pulls, .sub, .replay] ++ writing
  | .partReset .. => [.dir, .nextId, .fstacks, .tiers, .cab, .vidx, .links, .sub] ++ ending
  | .partResetDone .. => [.rings, .parts, .regs]
  | .partApplyMaps .. => [.wayOwner, .tileOwner, .pcOwner, .dir, .tiers, .cab, .hbm, .parts] ++ registering
  | .mapRemovalDone .. => [.wayOwner, .tileOwner, .pcOwner, .dir, .fstacks, .tiers, .cab, .vidx, .links] ++ ending
  | .pullCheck .. => [.dir, .nextId, .fstacks, .tiers, .cab, .vidx, .links, .pulls, .sub, .free] ++ ending
  | .remoteDrawerRead .. => [.dir, .nextId, .fstacks, .tiers, .cab, .vidx, .links, .pulls, .sub, .free] ++ ending
  | .pullSweep .. => [.dir] ++ ending
  | .mirrorEntry .. => [.dir, .nextId, .fstacks, .tiers, .cab, .vidx, .links, .sub, .free] ++ ending
  | .mirrorAck .. => [.dir, .links, .sub] ++ ending
  | .mirrorStall .. => [.links] ++ raising
  | .leaseExpiry .. => [.dir, .fstacks, .tiers, .links, .pulls, .sub] ++ ending
  | .meteringHour .. => writing
  | .report .. => [.sec] ++ raising
  | .readCertificate .. => [.sec] ++ raising
  | .installFenceKey .. => [.sec, .out]
  | .addTrustKey .. => [.sec] ++ raising
  | .removeTrustKey .. => [.ports, .sec] ++ raising
  | .ideHandshakeMessage .. => [.sec, .free] ++ writing
  | .applyWindow .. => [.parts, .sec, .out]
  | .windowChangeDone .. => [.parts]
  | .debugToken .. => [.sec, .free] ++ raising
  | .watchdogExpiry .. => [.wayOwner, .tileOwner, .pcOwner, .dir, .cab, .vidx, .regions, .regionBusy, .links, .stw] ++ ending
  | .restart .. => [.wayOwner, .tileOwner, .pcOwner, .dir, .cab, .vidx, .regions, .regionBusy, .links, .stw] ++ ending
  | .restartDone .. => [.dir, .tiers, .cab, .vidx, .stw, .free] ++ ending
  | .loadWindow .. => [.stw] ++ raising
  | .fwStream .. => [.stw] ++ raising
  | .fwDone .. => [.stw] ++ raising
  | .fwAbort .. => [.stw] ++ raising
  | .fwVerify .. => [.stw] ++ raising
  | .fwVerifyDone .. => [.stw] ++ raising
  | .activateTrial .. => [.stw] ++ raising
  | .commit .. => [.stw] ++ raising
  | .raiseSecurityVersion .. => [.sec, .stw] ++ raising
  | .cancelTrial .. => [.stw] ++ raising
  | .trialCommitTimer .. => [.stw] ++ raising
  | .bootRom .. => [.dev, .dir, .sec, .stw, .pwr, .free]
  | .loaderStart .. => [.dev, .sec, .stw]
  | .runtimeStart .. => [.stw] ++ recording
  | .trainDone .. => [.dev, .booths, .cab, .hbm, .cxl, .free] ++ raising
  | .recoveryImageData .. => [.dev, .sec, .stw]
  | .recoveryStatusRequest .. => [.out]
  | .evrWstatRead .. => raising
  | .evrClear .. => [.evr] ++ registering
  | .captCfgWrite .. => raising
  | .replayStart .. => [.replay] ++ raising
  | .replayStop .. => [.replay] ++ raising
  | .replayEntry .. => [.dir, .objects, .nextId, .fstacks, .tiers, .cab, .vidx, .links, .pulls, .sub, .free] ++ ending
  | .dumpStart .. => recording
  | .dumpComplete .. => [.dev, .evr, .pwr, .free]
  | .dumpTimeout .. => recording
  | .dumpCopy .. => writing
  | .dumpRelease .. => [.evr, .out]
  | .snap .. => [.parts, .out]
  | .pwrEn .. => [.dev]
  | .pwrGood .. => [.dev]
  | .inputLoss .. => [.fabric, .time, .wayOwner, .tileOwner, .pcOwner, .tileTag, .sched, .dir, .objects, .nextId, .fstacks, .tiers, .cab, .vidx, .rules, .regions, .regionGen, .regionBusy, .links, .pulls, .sub, .sec, .stw, .free] ++ ending
  | .inputFault .. => [.dev, .pwr] ++ raising
  | .resetN .. => [.fabric, .time, .wayOwner, .tileOwner, .pcOwner, .tileTag, .sched, .dir, .objects, .nextId, .fstacks, .tiers, .cab, .vidx, .rules, .regions, .regionGen, .regionBusy, .links, .pulls, .sub, .sec, .stw, .free] ++ ending
  | .smbusBlockRead .. => [.dev, .pwr, .out]
  | .powerMeasurement .. => recording
  | .pwrModeWrite .. => [.pwr, .out]
  | .pllLocked .. => [.booths, .pwr]
  | .sensorReading .. => recording
  | .drain .. => recording
  | .serve .. => [.dev, .booths, .pwr] ++ registering
  | .pgEvtWrite .. => [.msix] ++ registering
  | .pgEvtEnWrite .. => [.msix] ++ registering
  | .pgCtrlWrite .. => [.msix] ++ registering
  | .pgEvtForce .. => raising
  | .msixUnmask .. => [.msix, .out]
  | .rcRead .. => [.ports, .pwr] ++ raising
  | .registerWrite .. => [.wayOwner, .tileOwner, .pcOwner, .dir, .nextId, .fstacks, .tiers, .cab, .vidx, .rules, .regions, .regionGen, .regionBusy, .links, .sub, .sec, .stw, .free] ++ ending
  | .referenceOscillatorLoss .. => [.free] ++ recording
  | .pwrEnLow .. => [.fabric, .time, .wayOwner, .tileOwner, .pcOwner, .tileTag, .sched, .dir, .objects, .nextId, .fstacks, .tiers, .cab, .vidx, .rules, .regions, .regionGen, .regionBusy, .links, .pulls, .sub, .sec, .stw, .free] ++ ending
  | .rnrTimerExpiry .. => [.qps]
  | .cxlLinkRecovery .. => []
  | .unsupportedMailboxCommand .. => registering
  | .recoveryReenumeration .. => [.stw]

end Sys2Proof.Safety
end

