-- ==== Sys2Proof/Certificates/Slice0/Obligations.lean ====
section
/-! DEFINITION. The statements about the block, for the provers: one `Prop` each. Each docstring cites the rules of the spec that it follows. -/
open Sys2Proof Sys2Proof.Machine Sys2Proof.Safety

/-- The block model itself: a step takes the command at the front of the queue and runs it on the state with the queue's rest, and on an empty queue the
block idles for one tick (log entry 14). -/
def Obligations.StepRunsFrontCommand : Prop :=
  (∀ (c : Instr) (rest : List Instr) (s : State), step { s with pending := c :: rest } = exec c { s with pending := rest }) ∧
  (∀ s : State, step { s with pending := [] } = .next (idleTick { s with pending := [] }))

/-- No state that holds the invariant is a dead end: the step answers a next state, and that state holds the invariant. -/
def Obligations.StepKeepsInvariant : Prop :=
  ∀ s : State, Inv s → ∃ t : State, step s = .next t ∧ Inv t

/-- The state right after reset holds the invariant. The device is in `BOOT` with its pages closed, holds no ring, armed descriptor, object, request,
queue pair, region, shelf or record, every partition is `FREE` and every port down; the power mode, the tier registers and the congestion control of
the ports have the values that the spec gives them at reset. What host memory reads as before it is written is the model's choice (log entry 2). -/
def Obligations.ResetHoldsInvariant : Prop :=
  Inv State.reset ∧ State.reset.dev.state = .boot ∧ State.reset.dev.pagesOpen = false ∧ State.reset.pending = [] ∧ State.reset.rings = [] ∧
  State.reset.armed = [] ∧ State.reset.objects = [] ∧ State.reset.reqs = [] ∧ State.reset.qps = [] ∧ State.reset.regions = [] ∧ State.reset.dir.shelves = [] ∧
  State.reset.evr.log = [] ∧ State.reset.evr.nextSeq = 0 ∧ State.reset.evr.overflow = 0 ∧
  (∀ p : Nat, (State.reset.part p).state = .free) ∧ (∀ n : Nat, (State.reset.port n).up = false ∧ (State.reset.port n).ptpLock = false) ∧
  (∀ a : Nat, mget State.reset.hostMem a = 0) ∧
  rdf State.reset (pgPwr + 0x100) 0 2 = 0 ∧ rdf State.reset (pgPwr + 0x100) 4 12 = 1950 ∧
  (∀ p : Fin 32, rdf State.reset (pgPart p.val + 0x210) 4 11 = 16 ∧ rdf State.reset (pgPart p.val + 0x210) 15 8 = 8) ∧
  (∀ n : Fin 4, rdf State.reset (pgNet n.val + 0x130) 0 8 = 4 ∧ rdf State.reset (pgNet n.val + 0x130) 8 8 = 55 ∧ rdf State.reset (pgNet n.val + 0x130) 16 16 = 40)

/-- A command runs to a next state exactly where an event can carry it, in every state; any other stops with the fault `operand`, and none is refused. -/
def Obligations.WellFormedCommandsRun : Prop :=
  ∀ (c : Instr) (s : State),
    (c.wellFormed = true → ∃ t : State, exec c s = .next t) ∧
    (c.wellFormed = false → (∃ t : State, exec c s = .next t) ∨ ∃ what : String, exec c s = .fault (.operand what)) ∧
    (∀ r : Refusal, exec c s ≠ .refused r)

/-- What a command leaves alone: every part of the state outside `mayChange`, the chip's fixed properties and the queue. -/
def Obligations.CommandsChangeOnlyTheirParts : Prop :=
  ∀ (c : Instr) (s t : State), exec c s = .next t →
    t.chip = s.chip ∧ t.pending = s.pending ∧ ∀ f : Field, f ∉ mayChange c → f.Same s t

/-- R510: While `ALERT_N` is low exactly when an alert bit is set, every command keeps it so. -/
def Obligations.AlertPinFollowsAlertBits : Prop :=
  ∀ (c : Instr) (s t : State), exec c s = .next t → s.dev.alertN = decide (s.pwr.sbAlert = 0) → t.dev.alertN = decide (t.pwr.sbAlert = 0)

/-- Host memory and the memory of extents: the bytes of a write read the new data, every other byte reads as before, and the canonical form stays. -/
def Obligations.MemoryReadsAfterWrites : Prop :=
  ∀ (m : Tab Byte) (a x : Nat) (l : List Byte),
    mget (mwrite m a l) x = (if a ≤ x ∧ x < a + l.length then l.getD (x - a) 0 else mget m x) ∧
    (Memory.wf m = true → Memory.wf (mwrite m a l) = true)

/-- A host write or command whose page the host does not reach has no effect: nothing happens without power or after a trip, IDE that is required and
missing refuses it, and a page that does not answer ignores it (R373, R386, R505, R521, R527). Where the condition of a command does not hold the
state stays as it is (log entry 99). -/
def Obligations.HostCommandsThatDoNotReach : Prop :=
  ∀ (c : Instr) (pg : Nat) (s : State), hostPage c = some pg →
    (hostReach s = false → exec c s = .next s) ∧
    (hostReach s = true → ideHold s = true → exec c s = .next (emit s (.refusedIo pg))) ∧
    (hostReach s = true → ideHold s = false → pageOpen s (pg / 4096) = false → exec c s = .next s)

/-- R119, R513, R521: What admission does before an operation's own step 10. With no descriptor of the opcode in front that may be admitted nothing
changes; a failure of steps 2 to 4 ends in its record; a failure of steps 6 to 9 ends the request with that status. In `HALT`, and from a thermal trip
on, no descriptor is admitted: every command that admits one, and `FIRE`, leaves the state as it is. The order of refusals is the model's reading (log
entry 27). Where the condition of a command does not hold the state stays as it is (log entry 99). -/
def Obligations.AdmissionStops : Prop :=
  (∀ (c : Instr) (ring op : Nat) (s : State), descOp c = some (ring, op) →
    (frontDesc s ring (fun d => decide (dOpcode d = op) && !dArm d) = none → exec c s = .next s) ∧
    (∀ (src : Nat) (d : List Byte) (g : Ring) (s1 : State),
      frontDesc s ring (fun d => decide (dOpcode d = op) && !dArm d) = some (src, d, g) → steps24 s ring src g d = (none, s1) →
      exec c s = .next s1) ∧
    (∀ (d : List Byte) (id : Nat) (r0 r : Req) (s0 s1 : State) (f : Fail),
      Checked s ring (fun d => decide (dOpcode d = op) && !dArm d) d id r0 s0 → steps69 s0 r0 = (some f, r, s1) →
      exec c s = .next (failReq s1 id r f))) ∧
  (∀ (c : Instr) (s : State), noService s = true →
    ((∃ ring op : Nat, descOp c = some (ring, op)) ∨ (∃ (ring : Fin 4096) (key : Nat), c = .fire ring key) ∨
      (∃ ring : Fin 4096, c = .arm ring ∨ c = .disarm ring)) → exec c s = .next s)

/-- LINK_CRC_FAIL, REROUTE and COUNTER_WRAP (R22-R24, R31): what a failed link, a switched route and a wrapped counter do. Island, block and instance of a
link-loss or wrap record are free (log entry 18). Where the condition of a command does not hold the state stays as it is (log entry 99). Commands
whose next state it gives: `linkCrcFail`, `reroute`, `counterWrap`. -/
def Obligations.FabricAndCounters : Prop :=
  (∀ (link : Fin 20) (b : Bool) (s : State), b = true ∨ s.fabric.down.contains link.val = true → exec (.linkCrcFail link b) s = .next s) ∧
  (∀ (link : Fin 20) (s : State), s.fabric.down.contains link.val = false →
    ∃ (n die blk : Nat) (data : List Byte),
      exec (.linkCrcFail link false) s = .next (record { s with fabric := disableLink s.fabric link.val, free := n } (0x10 + die)
        (if (List.range 7).any (isolated (disableLink s.fabric link.val)) then 3 else 1) blk die 0x21 data) ∧
      (blk = 0x011 ∨ blk = 0x012)) ∧
  (∀ (n : Fin 5) (src dst : Fin 7) (s : State) (v : Nat), tget? s.fabric.switching (routeKey (n.val, src.val, dst.val)) = some v →
    exec (.reroute n src dst) s = .next { s with fabric := { s.fabric with
      via := tput s.fabric.via (routeKey (n.val, src.val, dst.val)) v,
      switching := tdel s.fabric.switching (routeKey (n.val, src.val, dst.val)) } }) ∧
  (∀ (n : Fin 5) (src dst : Fin 7) (s : State), tget? s.fabric.switching (routeKey (n.val, src.val, dst.val)) = none →
    exec (.reroute n src dst) s = .next s) ∧
  (∀ (i : Fin 175) (s : State), s.time.ctr.getD i.val 0 = 2 ^ 48 - 1 →
    ∃ n blk inst : Nat, exec (.counterWrap i) s = .next (record { s with
        time := { s.time with ctr := modAt (fun _ => 0) i.val s.time.ctr,
                              wraps := modAt (fun _ => s.time.wraps.getD i.val 0 + 1) i.val s.time.wraps },
        free := n } (islandId i.val) 0 blk inst 0x25 (leBytes 1 (s.time.wraps.getD i.val 0 + 1)))) ∧
  (∀ (i : Fin 175) (s : State), s.time.ctr.getD i.val 0 ≠ 2 ^ 48 - 1 → exec (.counterWrap i) s = .next s)

/-- R109, R111, R375, R109-R111, R121, R376: The producer index and the consumer index that the host writes. `s1` is the state with the host's stores
visible. The scheduler of a die fetches from the ring whose turn it is. The descriptor in the slot at `RING_CI` is fetched where the ring runs, is not
empty and has a free completion slot: a good one waits for admission and holds its slot; one that step 1 refuses ends with `BAD_DESCRIPTOR` at its
first bad field; poison stops the ring. A ring whose turn it is not keeps its slots. The unit of the weights is the model's choice (log entry 142).
Where the condition of a command does not hold the state stays as it is (log entry 99). Commands whose next state it gives: `ringPi`, `cqCi`,
`descriptorFetch`. -/
def Obligations.RingIndexesAndFetch : Prop :=
  ((∀ (ring : Fin 4096) (v : Word) (st : List (Nat × Option (List Byte))) (s : State) (g : Ring),
    HostMay (st.foldl hostStore s) (pgRing ring.val) → tget? s.rings ring.val = some g → ringFed s ring.val = false → g.destroying = false →
    ∃ t g', exec (.ringPi ring v st) s = .next t ∧ tget? t.rings ring.val = some g' ∧ g'.pi = v ∧ g'.ci = g.ci ∧
      (g'.stopped = true ↔ g.stopped = true ∨ rqSlots g < (v - g.ci).toNat) ∧
      t.hostMem = (st.foldl hostStore s).hostMem ∧ ∀ q, q ≠ ring.val → tget? t.rings q = tget? s.rings q) ∧
  (∀ (ring : Fin 4096) (v : Word) (st : List (Nat × Option (List Byte))) (s : State) (g : Ring),
    HostMay (st.foldl hostStore s) (pgRing ring.val) → tget? s.rings ring.val = some g → ringFed s ring.val = true →
    exec (.ringPi ring v st) s = .next (raise (bump (st.foldl hostStore s) (pgCxl + 0x130) 16 16 1) pgCxl 6 [])) ∧
  (∀ (ring : Fin 4096) (v : Word) (st : List (Nat × Option (List Byte))) (s : State),
    (hostReach (st.foldl hostStore s) = true → ideHold (st.foldl hostStore s) = false) →
    (tget? s.rings ring.val = none ∨ ∃ g, tget? s.rings ring.val = some g ∧ ringFed s ring.val = false ∧ g.destroying = true) →
    exec (.ringPi ring v st) s = .next (st.foldl hostStore s)) ∧
  (∀ (ring : Fin 4096) (v : Word) (s : State) (g : Ring), HostMay s (pgRing ring.val) → tget? s.rings ring.val = some g → g.destroying = false →
    g.records = [] → exec (.cqCi ring v) s = .next (s.setRing ring.val { g with cqCi := v })) ∧
  (∀ (ring : Fin 4096) (v : Word) (s : State) (g : Ring), HostMay s (pgRing ring.val) → tget? s.rings ring.val = some g → g.destroying = false →
    exec (.cqCi ring v) s = .next (flushRecords (s.setRing ring.val { g with cqCi := v }) ring.val (g.records.length + 1))) ∧
  (∀ (ring : Fin 4096) (v : Word) (s : State), HostMay s (pgRing ring.val) →
    (tget? s.rings ring.val = none ∨ ∃ g, tget? s.rings ring.val = some g ∧ g.destroying = true) → exec (.cqCi ring v) s = .next s)) ∧
  ((∀ (ring : Fin 4096) (n : Nat) (s : State) (x : Sched), 1 ≤ n → n ≤ 16 → fetching s = true → fetchTurn s (ring.val / 1024) = some (ring.val, x) →
    exec (.descriptorFetch ring n) s = .next (fetchN { s with sched := tset {} s.sched (ring.val / 1024) x } ring.val n)) ∧
  (∀ (ring : Fin 4096) (s : State) (x : Sched) (g : Ring), fetching s = true → fetchTurn s (ring.val / 1024) = some (ring.val, x) →
    tget? s.rings ring.val = some g → g.stopped = false → g.destroying = false → g.ci ≠ g.pi → slotFree g = true → (ideHold s && !g.rloc) = false →
    let s0 := { s with sched := tset {} s.sched (ring.val / 1024) x }
    (∀ (d : List Byte) (s1 : State), readSlot s0 g = (some d, s1) → firstBad d = none →
      ∃ t g', exec (.descriptorFetch ring 1) s = .next t ∧ tget? t.rings ring.val = some g' ∧
        g'.ci = g.ci + 1 ∧ g'.inflight = g.inflight + 1 ∧ g'.taken = g.taken ++ [((nextSrc g.srcs).1, d)] ∧ g'.pi = g.pi ∧
        t.hostMem = s1.hostMem ∧ t.devMem = s1.devMem ∧ t.reqs = s1.reqs ∧ ∀ q, q ≠ ring.val → tget? t.rings q = tget? s1.rings q) ∧
    (∀ (d : List Byte) (s1 : State) (o : Nat), readSlot s0 g = (some d, s1) → firstBad d = some o →
      ∃ (u : State) (id : Nat) (r : Req), exec (.descriptorFetch ring 1) s = .next (failReq u id r { status := 0x32, detail := o }) ∧ r.desc = d ∧ r.ring = ring.val ∧
        ∃ g', tget? u.rings ring.val = some g' ∧ g'.ci = g.ci + 1 ∧ g'.taken = g.taken) ∧
    (∀ s1 : State, readSlot s0 g = (none, s1) →
      exec (.descriptorFetch ring 1) s =
        .next (raise (s1.setRing ring.val { g with stopped := true }) (pgAsch (ring.val / 1024)) 0 (leBytes 2 ring.val ++ [2])))) ∧
  (∀ (ring : Fin 4096) (n : Nat) (s : State), n ≤ 16 → (fetching s = false ∨ n = 0 ∨ ∀ x : Sched, fetchTurn s (ring.val / 1024) ≠ some (ring.val, x)) →
    exec (.descriptorFetch ring n) s = .next s))

/-- R125-R128, R352, R126, R127, R102: An armed descriptor is held and releases its completion slot, a disarming removes it with `ABORTED`, and a trigger
joins the writes already issued. A full trigger store raises its event and refuses the arming. A trigger that names an armed descriptor of the port's
own partition counts, and at the count that the descriptor needs it fires; a one-shot descriptor fires once. A trigger to a ring of another partition
or an absent ring is counted in `TRIG_DROP` and changes nothing else. A firing takes a completion slot, and its request runs steps 6 to 11 with the
port as its source; without a free slot, without service, or before the descriptors that `ORDERED` puts before it, it waits (log entry 140). Where the
condition of a command does not hold the state stays as it is (log entry 99). Commands whose next state it gives: `arm`, `disarm`, `trigger`, `fire`. -/
def Obligations.ArmedDescriptorsFire : Prop :=
  ((∀ (ring : Fin 4096) (s s1 : State) (d : List Byte) (id : Nat) (r : Req), Checked s ring.val (fun d => dArm d && !dDisarm d) d id r s1 →
    (armedOn s1 (ring.val / 1024)).any (fun a => decide (a.ring = ring.val) && decide (a.key = trigKey d)) = false →
    (armedOn s1 (ring.val / 1024)).length < 16384 → ((armedOn s1 (ring.val / 1024)).filter (fun a => decide (dPart a.desc = r.part))).length < 4096 →
    exec (.arm ring) s = .next (drainCheck (captArming (releaseSlot
      { s1 with armed := s1.armed ++ [{ ring := ring.val, key := trigKey d, order := id, desc := d }] } ring.val) r))) ∧
  (∀ (ring : Fin 4096) (s s1 : State) (d : List Byte) (id : Nat) (r : Req), Checked s ring.val (fun d => dArm d && !dDisarm d) d id r s1 →
    (armedOn s1 (ring.val / 1024)).any (fun a => decide (a.ring = ring.val) && decide (a.key = trigKey d)) = true →
    exec (.arm ring) s = .next (failReq s1 id r { status := 0x32, detail := 0x08 })) ∧
  (∀ (ring : Fin 4096) (s s1 : State) (d : List Byte) (id : Nat) (r : Req), Checked s ring.val (fun d => dArm d && !dDisarm d) d id r s1 →
    (armedOn s1 (ring.val / 1024)).any (fun a => decide (a.ring = ring.val) && decide (a.key = trigKey d)) = false →
    (16384 ≤ (armedOn s1 (ring.val / 1024)).length ∨
      4096 ≤ ((armedOn s1 (ring.val / 1024)).filter (fun a => decide (dPart a.desc = r.part))).length) →
    exec (.arm ring) s = .next (failReq (raise s1 (pgAsch (ring.val / 1024)) 2 []) id r { status := 0x41, detail := 0x04 })) ∧
  (∀ (ring : Fin 4096) (s s1 : State) (d : List Byte) (id : Nat) (r : Req) (a : Armed), Checked s ring.val (fun d => dArm d && dDisarm d) d id r s1 →
    s1.armed.find? (fun a => decide (a.ring = ring.val) && decide (a.key = trigKey d) && !a.gone) = some a →
    exec (.disarm ring) s = .next (complete (endArmed s1 a 0x70) id r 0x00 0 0 0 0 0)) ∧
  (∀ (ring : Fin 4096) (s s1 : State) (d : List Byte) (id : Nat) (r : Req), Checked s ring.val (fun d => dArm d && dDisarm d) d id r s1 →
    s1.armed.find? (fun a => decide (a.ring = ring.val) && decide (a.key = trigKey d) && !a.gone) = none →
    exec (.disarm ring) s = .next (failReq s1 id r { status := 0x32, detail := 0x08 })) ∧
  (∀ (port : Fin 4) (v : Word) (qpn : Nat) (s : State) (x : Qp), tget? s.qps qpn = some x →
    exec (.trigger port v qpn) s = .next (issueWrite s (.trigger port.val x.part v.toNat))) ∧
  (∀ (port : Fin 4) (v : Word) (qpn : Nat) (s : State), tget? s.qps qpn = none → exec (.trigger port v qpn) s = .next s)) ∧
  (∀ (port part v : Nat) (s : State),
    ((tget? s.rings (v / 2 ^ 20)).map (·.part) ≠ some part → presentTrigger s port part v = bump s (pgNet port + 0x118) 0 16 1) ∧
    (∀ a : Armed, (tget? s.rings (v / 2 ^ 20)).map (·.part) = some part → s.dev.state ≠ .drain →
      s.armed.find? (fun a => decide (a.ring = v / 2 ^ 20) && decide (a.key = v % 2 ^ 20) && !a.gone) = some a →
      ∃ a' : Armed, presentTrigger s port part v = { s with armed := s.armed.map (fun b => if b = a then a' else b) } ∧
        (a.count + 1 < trigNeed a.desc → a' = { a with count := a.count + 1 }) ∧
        (trigNeed a.desc ≤ a.count + 1 → a' = { a with count := 0, fires := a.fires ++ [port], gone := !dPersist a.desc }))) ∧
  ((∀ (ring : Fin 4096) (key id : Nat) (s s1 s2 s3 : State) (a : Armed) (g : Ring) (r r1 : Req),
    s.armed.find? (fun a => decide (a.ring = ring.val) && decide (a.key = key) && !a.fires.isEmpty) = some a → tget? s.rings ring.val = some g →
    slotFree g = true → noService s = false → (ideHold s && needsHost s ring.val a.desc) = false → inOrder s ring.val a.order a.desc = true →
    newId ((takeFire s a).setRing ring.val { g with inflight := g.inflight + 1 }) = (id, s1) →
    numberReq s1 (holdObjs s { ring := ring.val, desc := a.desc, order := a.order, part := g.part, src := a.fires.headD 0, fired := true }) = (r, s2) →
    refsFail s2 r.part r.desc = none → steps69 s2 r = (none, r1, s3) →
    exec (.fire ring key) s = .next (doOp s3 id r1)) ∧
  (∀ (ring : Fin 4096) (key : Nat) (s : State),
    (s.armed.find? (fun a => decide (a.ring = ring.val) && decide (a.key = key) && !a.fires.isEmpty) = none ∨ tget? s.rings ring.val = none ∨
      noService s = true ∨ (∃ g, tget? s.rings ring.val = some g ∧ slotFree g = false) ∨
      ∃ a, s.armed.find? (fun a => decide (a.ring = ring.val) && decide (a.key = key) && !a.fires.isEmpty) = some a ∧ inOrder s ring.val a.order a.desc = false) →
    exec (.fire ring key) s = .next s))

/-- R107, R108, R540: The staged ring of a die is created, or refused with its `RESULT`; a ring being destroyed ends its armed descriptors with `ABORTED`,
and is gone once nothing of it is left to be written. Where the condition of a command does not hold the state stays as it is (log entry 99). Commands
whose next state it gives: `ringCreate`, `ringDestroy`, `ringDestroyDone`. -/
def Obligations.RingCommands : Prop :=
  (∀ (die : Fin 4) (s : State), HostMay s (pgAsch die.val) → aschBusy s die.val = false → ringStagedOk s (stagedRing s die.val).2 = true →
    tget? s.rings (stagedRing s die.val).1 = none →
    (s.rings.filter (fun e => decide (e.2.part = (stagedRing s die.val).2.part))).length < 128 →
    exec (.ringCreate die) s = .next (wrf (s.setRing (stagedRing s die.val).1 (stagedRing s die.val).2) (pgAsch die.val + 0x11C) 2 2 0)) ∧
  (∀ (die : Fin 4) (s : State), HostMay s (pgAsch die.val) → aschBusy s die.val = false → ringStagedOk s (stagedRing s die.val).2 = false →
    exec (.ringCreate die) s = .next (wrf s (pgAsch die.val + 0x11C) 2 2 2)) ∧
  (∀ (die : Fin 4) (s : State), HostMay s (pgAsch die.val) → aschBusy s die.val = false → ringStagedOk s (stagedRing s die.val).2 = true →
    (tget? s.rings (stagedRing s die.val).1).isSome = true → exec (.ringCreate die) s = .next (wrf s (pgAsch die.val + 0x11C) 2 2 3)) ∧
  (∀ (die : Fin 4) (s : State) (g : Ring), HostMay s (pgAsch die.val) → aschBusy s die.val = false →
    tget? s.rings (stagedRing s die.val).1 = some g → g.destroying = false →
    exec (.ringDestroy die) s = .next (wrf (endArmedOf (s.setRing (stagedRing s die.val).1 { g with destroying := true, byCmd := true })
      (stagedRing s die.val).1 0x70) (pgAsch die.val + 0x11C) 2 2 0)) ∧
  (∀ (die : Fin 4) (s : State), HostMay s (pgAsch die.val) → aschBusy s die.val = false → tget? s.rings (stagedRing s die.val).1 = none →
    exec (.ringDestroy die) s = .next (wrf s (pgAsch die.val + 0x11C) 2 2 3)) ∧
  (∀ (die : Fin 4) (s : State), HostMay s (pgAsch die.val) → aschBusy s die.val = true →
    exec (.ringCreate die) s = .next s ∧ exec (.ringDestroy die) s = .next s) ∧
  (∀ (ring : Fin 4096) (s : State) (g : Ring), tget? s.rings ring.val = some g → g.destroying = true → ringQuiet s ring.val g = true →
    exec (.ringDestroyDone ring) s = .next { s with rings := tdel s.rings ring.val }) ∧
  (∀ (ring : Fin 4096) (s : State) (g : Ring), tget? s.rings ring.val = some g → (g.destroying && ringQuiet s ring.val g) = false →
    exec (.ringDestroyDone ring) s = .next s)

/-- R84, R115, R120: An `ATTEND` on a live shelf takes `VISIBLE` as its snapshot and `START` as its lower limit, copies its query and selects its drawers,
once the summaries that a selection needs have been read; nothing else changes but the lifts of its plan. A range that holds no key completes at once.
Commands whose next state it gives: `attend`. -/
def Obligations.AttendTakesItsSnapshot : Prop :=
  (∀ (ring : Fin 4096) (id i : Nat) (s s1 s2 : State) (r : Req) (sh : Shelf) (b : List Byte), Looks s ring.val 0x01 id r s1 → Found s1 (dKey r.desc) i sh → isRing sh.prof = false → r.replay = false →
    attendFail s1 { r with lo := sh.start, snap := sh.visible } sh = none →
    refRead s1 r.part (le r.desc 0x18 8) (profH sh.prof * reqG r.desc * profD sh.prof * srcSize (bits (le r.desc 0x25 1) 0 2)) = (some b, s2) →
    (srcElems (bits (le r.desc 0x25 1) 0 2) (profH sh.prof * reqG r.desc * profD sh.prof) b).all srcOk = true → sh.start < sh.visible →
    ∃ (q : Req) (u : State), (reqMode r.desc = 0 → u = prefetch s2 (r.ring / 1024) (dKey r.desc)) ∧
      (reqMode r.desc ≠ 0 → u = readSums (prefetch s2 (r.ring / 1024) (dKey r.desc)) i) ∧ exec (.attend ring) s = .next (u.setReq id q) ∧
      q.shelf = some i ∧ q.snap = sh.visible ∧ q.lo = sh.start ∧ q.desc = r.desc ∧ q.query = (holdQuery sh r.desc
        (srcElems (bits (le r.desc 0x25 1) 0 2) (profH sh.prof * reqG r.desc * profD sh.prof) b)).1 ∧
      q.runs = (startRounds ((u.shelf? i).getD sh) q).runs ∧ q.bucket.isSome = true) ∧
  (∀ (ring : Fin 4096) (id i : Nat) (s s1 s2 : State) (r : Req) (sh : Shelf) (b : List Byte), Looks s ring.val 0x01 id r s1 →
    Found s1 (dKey r.desc) i sh → isRing sh.prof = false → r.replay = false →
    attendFail s1 { r with lo := sh.start, snap := sh.visible } sh = none →
    refRead s1 r.part (le r.desc 0x18 8) (profH sh.prof * reqG r.desc * profD sh.prof * srcSize (bits (le r.desc 0x25 1) 0 2)) = (some b, s2) →
    (srcElems (bits (le r.desc 0x25 1) 0 2) (profH sh.prof * reqG r.desc * profD sh.prof) b).all srcOk = true → sh.visible ≤ sh.start →
    ∃ q, exec (.attend ring) s = .next (finishAttend (prefetch s2 (r.ring / 1024) (dKey r.desc)) id q i sh 0x00 0 []) ∧
      q.desc = r.desc ∧ q.runs = r.runs ∧ q.lo = sh.start ∧ q.snap = sh.visible)

/-- R81, R82, R138, R83, R87, R88: `APPEND_KV` on a live shelf. At `END`, with room and charge, it is accepted: `END` moves past its tokens, its charge is
taken, and its records are written as far as the drawers are ready. Positions that the shelf already holds complete at once, marked as already
appended; any other position is refused at `POS`. Without `CREATE` an append to a shelf that is not there completes with `LOST`; with `CREATE`, the
shelf is made with `BASE` at `POS`, and the append is accepted on it. Behind a tail trim that waits, an append is held. The end of an append. The
earliest accepted append, once written and confirmed, advances `VISIBLE` past its tokens and completes with them; the earliest failure ends its append
with its status and every later one with `ABORTED`, `END` falls back to its position, and the records written beyond it go, with the shelf if that
append has created it. A waiting append may reuse a ring slot that no admitted window covers: its drawer is cleared and its generation goes up by one.
Where the condition of a command does not hold the state stays as it is (log entry 99). Commands whose next state it gives: `appendKv`,
`visibleAdvance`, `failedAppend`, `ringSlotReuse`. -/
def Obligations.AppendsAreAcceptedAndEnd : Prop :=
  ((∀ (ring : Fin 4096) (id i : Nat) (s s1 s2 : State) (r : Req) (sh sh2 : Shelf), Looks s ring.val 0x02 id r s1 → Found s1 (dKey r.desc) i sh →
    1 ≤ le r.desc 0x24 2 → le r.desc 0x24 2 ≤ 4096 → sh.copy = false → bit (le r.desc 0x26 1) 2 = false →
    refFail s1 r.part r.desc 0x18 (appendBytes sh.prof r.desc) = none → sh.trim = none →
    le r.desc 0x20 4 = sh.endPos → lengthOk sh (sh.endPos + le r.desc 0x24 2) = true →
    takeCharge s1 r.part (appendCharge sh (le r.desc 0x24 2)) (some i) = (true, s2) → s2.shelf? i = some sh2 →
    exec (.appendKv ring) s = .next (retryAppends ((s2.setReq id { r with shelf := some i }).setShelf i { sh2 with
      endPos := sh.endPos + le r.desc 0x24 2, appends := sh2.appends ++
        [{ req := id, pos := sh.endPos, n := le r.desc 0x24 2, charge := appendCharge sh (le r.desc 0x24 2) }] }) i)) ∧
  (∀ (ring : Fin 4096) (id i : Nat) (s s1 s2 : State) (r : Req) (sh : Shelf), Looks s ring.val 0x02 id r s1 → Found s1 (dKey r.desc) i sh →
    1 ≤ le r.desc 0x24 2 → le r.desc 0x24 2 ≤ 4096 → sh.copy = false → bit (le r.desc 0x26 1) 2 = false →
    refFail s1 r.part r.desc 0x18 (appendBytes sh.prof r.desc) = none → sh.trim = none →
    le r.desc 0x20 4 = sh.endPos → lengthOk sh (sh.endPos + le r.desc 0x24 2) = true →
    takeCharge s1 r.part (appendCharge sh (le r.desc 0x24 2)) (some i) = (false, s2) →
    exec (.appendKv ring) s = .next (failReq s2 id r { status := 0x41, detail := 0x01 })) ∧
  (∀ (ring : Fin 4096) (id i : Nat) (s s1 : State) (r : Req) (sh : Shelf), Looks s ring.val 0x02 id r s1 → Found s1 (dKey r.desc) i sh →
    1 ≤ le r.desc 0x24 2 → le r.desc 0x24 2 ≤ 4096 → sh.copy = false → bit (le r.desc 0x26 1) 2 = false →
    refFail s1 r.part r.desc 0x18 (appendBytes sh.prof r.desc) = none → sh.trim = none →
    sh.start ≤ le r.desc 0x20 4 → le r.desc 0x20 4 + le r.desc 0x24 2 ≤ sh.endPos →
    exec (.appendKv ring) s = .next (complete s1 id { r with already := true } 0x00 0 sh.visible 0 0 0)) ∧
  (∀ (ring : Fin 4096) (id i : Nat) (s s1 : State) (r : Req) (sh : Shelf), Looks s ring.val 0x02 id r s1 → Found s1 (dKey r.desc) i sh →
    1 ≤ le r.desc 0x24 2 → le r.desc 0x24 2 ≤ 4096 → sh.copy = false → bit (le r.desc 0x26 1) 2 = false →
    refFail s1 r.part r.desc 0x18 (appendBytes sh.prof r.desc) = none → sh.trim = none →
    le r.desc 0x20 4 ≠ sh.endPos → (le r.desc 0x20 4 < sh.start ∨ sh.endPos < le r.desc 0x20 4 + le r.desc 0x24 2) →
    exec (.appendKv ring) s = .next (failReq s1 id r { status := 0x32, detail := 0x20 })) ∧
  (∀ (ring : Fin 4096) (id : Nat) (s s1 s2 : State) (r : Req), Looks s ring.val 0x02 id r s1 → Absent s1 (dKey r.desc) s2 → r.grace = false →
    1 ≤ le r.desc 0x24 2 → le r.desc 0x24 2 ≤ 4096 → bit (le r.desc 0x26 1) 2 = false →
    exec (.appendKv ring) s = .next (failReq s2 id r { status := 0x20 })) ∧
  (∀ (ring : Fin 4096) (id i : Nat) (s s1 s2 s3 s4 s5 : State) (r : Req) (sh x y : Shelf), Looks s ring.val 0x02 id r s1 →
    Absent s1 (dKey r.desc) s2 → r.grace = false → 1 ≤ le r.desc 0x24 2 → le r.desc 0x24 2 ≤ 4096 → bit (le r.desc 0x26 1) 2 = true →
    sh = freshShelf s2 (dKey r.desc) (le r.desc 0x28 2) (le r.desc 0x20 4) → refFail s2 r.part r.desc 0x18 (appendBytes sh.prof r.desc) = none →
    lengthOk sh (le r.desc 0x20 4 + le r.desc 0x24 2) = true → shelfCount s2 r.part < rdf s2 (pgPart r.part + 0x10C) 0 25 →
    takeCharge s2 r.part (shelfCharge sh + appendCharge sh (le r.desc 0x24 2)) none = (true, s3) → createShelf s3 sh = (.ok i, s4) →
    s4.shelf? i = some x → x.endPos = le r.desc 0x20 4 → lengthOk x (le r.desc 0x20 4 + le r.desc 0x24 2) = true →
    takeCharge s4 r.part (appendCharge x (le r.desc 0x24 2)) (some i) = (true, s5) → s5.shelf? i = some y →
    exec (.appendKv ring) s = .next (retryAppends ((s5.setReq id { r with shelf := some i }).setShelf i { y with
      endPos := le r.desc 0x20 4 + le r.desc 0x24 2, appends := y.appends ++
        [{ req := id, pos := le r.desc 0x20 4, n := le r.desc 0x24 2, charge := appendCharge x (le r.desc 0x24 2), created := true }] }) i)) ∧
  (∀ (ring : Fin 4096) (id i : Nat) (s s1 : State) (r : Req) (sh : Shelf), Looks s ring.val 0x02 id r s1 → Found s1 (dKey r.desc) i sh →
    1 ≤ le r.desc 0x24 2 → le r.desc 0x24 2 ≤ 4096 → sh.copy = false → bit (le r.desc 0x26 1) 2 = false →
    refFail s1 r.part r.desc 0x18 (appendBytes sh.prof r.desc) = none → sh.trim.isSome = true →
    exec (.appendKv ring) s = .next ((s1.setReq id { r with shelf := some i }).setShelf i { sh with held := sh.held ++ [id] })) ∧
  (∀ (ring : Fin 4096) (id : Nat) (s s1 : State) (r : Req), Admits s ring.val 0x02 id r s1 →
    (le r.desc 0x24 2 = 0 ∨ 4096 < le r.desc 0x24 2) → exec (.appendKv ring) s = .next (failReq s1 id r { status := 0x32, detail := 0x24 }))) ∧
  ((∀ (shelf : Nat) (s : State) (sh : Shelf) (a : Append) (rest : List Append) (r : Req), s.shelf? shelf = some sh → sh.appends = a :: rest →
    sh.state = .live → a.written = true → a.failed = none → mirrorOk s sh a.waitSeq = true → tget? s.reqs a.req = some r →
    exec (.visibleAdvance shelf) s = .next (complete (s.setShelf shelf { sh with
      visible := a.pos + a.n, start := ringStart sh (a.pos + a.n), appends := rest }) a.req r 0x00 0 (a.pos + a.n) (min a.sat (2 ^ 32 - 1)) a.n 0)) ∧
  (∀ (shelf : Nat) (s : State), (s.shelf? shelf = none ∨ ∃ sh, s.shelf? shelf = some sh ∧ (sh.appends = [] ∨ ∃ a rest, sh.appends = a :: rest ∧
    (sh.state ≠ .live ∨ a.written = false ∨ a.failed ≠ none ∨ mirrorOk s sh a.waitSeq = false))) → exec (.visibleAdvance shelf) s = .next s) ∧
  (∀ (shelf n : Nat) (s : State) (sh : Shelf) (a : Append) (r : Req), s.shelf? shelf = some sh →
    sh.appends.findIdx? (fun a => decide (a.failed ≠ none)) = some n → sh.appends.getD n {} = a → tget? s.reqs a.req = some r →
    exec (.failedAppend shelf) s = .next (undoAppend
      ((sh.appends.drop (n + 1)).foldl (fun s b => match tget? s.reqs b.req with
        | some r => failReq s b.req r { status := 0x70 }
        | none => s)
        (failReq (s.setShelf shelf { sh with appends := sh.appends.take n, endPos := a.pos }) a.req r
          { status := a.failed.getD 0x70, detail := a.failDet }))
      shelf a)) ∧
  (∀ (s : State) (shelf : Nat) (a : Append), a.created = false → undoAppend s shelf a = cutRecords s shelf a.pos false) ∧
  (∀ (s : State) (shelf : Nat) (a : Append), a.created = true → undoAppend s shelf a = dropOne (cutRecords s shelf a.pos false) shelf) ∧
  (∀ (shelf : Nat) (s : State), (s.shelf? shelf = none ∨ ∃ sh, s.shelf? shelf = some sh ∧
    sh.appends.findIdx? (fun a => decide (a.failed ≠ none)) = none) → exec (.failedAppend shelf) s = .next s) ∧
  (∀ (shelf : Nat) (s : State), exec (.ringSlotReuse shelf) s = .next (retryAppends s shelf true)) ∧
  (∀ (s : State) (i own j se : Nat) (reuse : Bool) (sh : Shelf) (d : Drawer), s.shelf? i = some sh → isRing sh.prof = true → getDrawer sh se j = none →
    ringSlots sh.prof se ≤ j → getDrawer sh se (j - ringSlots sh.prof se) = some d → drawerPos sh se d.idx < own →
    (reuse = false ∨ windowHas s i sh se d.idx = true → readyDrawer reuse i own (true, s) (se, j) = (false, s)) ∧
    (∀ q : Place, reuse = true → windowHas s i sh se d.idx = false → d.moving = none → d.loc = .hbm q →
      readyDrawer reuse i own (true, s) (se, j) = (true, (wipePlace s q).setShelf i { sh with drawers := sh.drawers.map (fun e =>
        if e.series = se ∧ e.idx = d.idx then { series := se, idx := j, gen := d.gen + 1, firstPos := drawerPos sh se j, loc := .hbm q } else e) }))) ∧
  (∀ (shelf : Nat) (s : State) (sh : Shelf), s.shelf? shelf = some sh → sh.appends.all (fun a => a.written) = true →
    exec (.ringSlotReuse shelf) s = .next s))

/-- R71, R72: Records written to a ready drawer replace what stood from their position on, and the drawer ends with them. A line that takes no narrow
write damages the drawer (R268, R271). -/
def Obligations.RecordsReachTheirDrawer : Prop :=
  (∀ (s s0 s1 : State) (i lo hi : Nat) (k : Nat × Nat) (new : List (List Byte)) (sh : Shelf) (d : Drawer) (q : Place), readSummary s0 i k = s →
    s.shelf? i = some sh → getDrawer sh k.1 k.2 = some d → d.loc = .hbm q → drawerPos sh d.series d.idx ≤ lo →
    wroteSpan s q ((lo - drawerPos sh d.series d.idx) * serB sh.prof d.series) ((hi - lo) * serB sh.prof d.series) = (none, s1) →
    ∃ d' : Drawer, putRecords s0 i lo hi k new = s1.setShelf i (setDrawer sh d') ∧ d'.count = hi - drawerPos sh d.series d.idx ∧ d'.loc = d.loc ∧
      d'.data.drop ((lo - drawerPos sh d.series d.idx) * serB sh.prof d.series) = new.flatten ∧
      d'.stamp = s1.time.ns / 1000000 % 65536 ∧ d'.series = d.series ∧ d'.idx = d.idx ∧ d'.gen = d.gen) ∧
  (∀ (s s0 s1 : State) (i lo hi l : Nat) (k : Nat × Nat) (new : List (List Byte)) (sh : Shelf) (d : Drawer) (q : Place), readSummary s0 i k = s →
    s.shelf? i = some sh → getDrawer sh k.1 k.2 = some d → d.loc = .hbm q →
    wroteSpan s q ((lo - drawerPos sh d.series d.idx) * serB sh.prof d.series) ((hi - lo) * serB sh.prof d.series) = (some l, s1) →
    putRecords s0 i lo hi k new = damage s1 i (.inl (q.stack, l)))

/-- R89, R92, R95, R93: Trims. A head trim between `START` and `VISIBLE` sets `START` and completes; a tail trim between `START` and `END` waits for the
appends before it, then sets `END` and `VISIBLE`, and completes once its older readers have; drawers wholly below a head trim are freed once the
requests admitted before it have completed. A copy refuses a trim, and a ring shelf has none. Drops. A drop of one shelf completes at once, and the
entry is freed with its storage once the requests admitted before have completed; a drop of a shelf that is not there completes too. A drop of a
conversation leaves a mark, at most 64 of them, and each die's engine then drops the shelves of its quarter that the mark hides. Where the condition
of a command does not hold the state stays as it is (log entry 99). Commands whose next state it gives: `trimKv`, `trimSetEnd`, `trimTailComplete`,
`headTrimFree`, `dropShelf`, `dropFree`, `convScanEnd`. -/
def Obligations.TrimsAndDrops : Prop :=
  ((∀ (ring : Fin 4096) (id i : Nat) (s s1 : State) (r : Req) (sh : Shelf), Looks s ring.val 0x04 id r s1 → Found s1 (dKey r.desc) i sh →
    sh.copy = false → isRing sh.prof = false → sh.trim = none → le r.desc 0x1C 1 = 0 → sh.start ≤ le r.desc 0x18 4 → le r.desc 0x18 4 ≤ sh.visible →
    exec (.trimKv ring) s = .next (complete (mirrorTrim (s1.setShelf i { sh with
        start := le r.desc 0x18 4, headTrims := sh.headTrims ++ [{ pos := le r.desc 0x18 4, older := shelfReqs s1 i }] })
      sh (le r.desc 0x18 4) 0).2 id r 0x00 0 (le r.desc 0x18 4) 0 0 0)) ∧
  (∀ (ring : Fin 4096) (id i : Nat) (s s1 : State) (r : Req) (sh : Shelf), Looks s ring.val 0x04 id r s1 → Found s1 (dKey r.desc) i sh →
    sh.copy = false → isRing sh.prof = false → sh.trim = none → le r.desc 0x1C 1 ≠ 0 → sh.start ≤ le r.desc 0x18 4 → le r.desc 0x18 4 ≤ sh.endPos →
    exec (.trimKv ring) s = .next ((s1.setReq id { r with shelf := some i }).setShelf i { sh with trim := some { req := id, pos := le r.desc 0x18 4 } })) ∧
  (∀ (ring : Fin 4096) (id i : Nat) (s s1 : State) (r : Req) (sh : Shelf), Looks s ring.val 0x04 id r s1 → Found s1 (dKey r.desc) i sh →
    (sh.copy = true → exec (.trimKv ring) s = .next (failReq s1 id r { status := 0x50 })) ∧
    (sh.copy = false → isRing sh.prof = true → exec (.trimKv ring) s = .next (failReq s1 id r { status := 0x32, detail := 0x1C }))) ∧
  (∀ (shelf : Nat) (s : State) (sh : Shelf) (t : TailTrim), s.shelf? shelf = some sh → sh.trim = some t → sh.state = .live → sh.appends = [] →
    sh.link = none → sh.held = [] → t.pos ≤ sh.endPos →
    exec (.trimSetEnd shelf) s = .next (s.setShelf shelf { sh with
      endPos := t.pos, visible := t.pos, trim := none, tails := sh.tails ++ [{ t with was := sh.endPos, older := shelfReaders s shelf, waitSeq := none }] })) ∧
  (∀ (shelf : Nat) (s : State), (s.shelf? shelf = none ∨ ∃ sh, s.shelf? shelf = some sh ∧ (sh.trim = none ∨ sh.state ≠ .live ∨ sh.appends ≠ [])) →
    exec (.trimSetEnd shelf) s = .next s) ∧
  (∀ (shelf : Nat) (s s1 : State) (sh x : Shelf) (t : TailTrim) (rest : List TailTrim) (r : Req), s.shelf? shelf = some sh → sh.tails = t :: rest →
    allDone s t.older = true → mirrorOk s sh t.waitSeq = true → (straddlers sh t.pos).foldl (trimCab shelf t.pos) (true, s) = (true, s1) →
    (cutRecords s1 shelf t.pos true).shelf? shelf = some x → tget? (cutRecords s1 shelf t.pos true).reqs t.req = some r →
    exec (.trimTailComplete shelf) s = .next (retryAppends
      (complete ((cutRecords s1 shelf t.pos true).setShelf shelf { x with tails := x.tails.drop 1 }) t.req r 0x00 0 t.pos 0 0 0) shelf)) ∧
  (∀ (shelf : Nat) (s : State) (sh : Shelf) (t : TailTrim) (rest : List TailTrim), s.shelf? shelf = some sh → sh.tails = t :: rest →
    (allDone s t.older && mirrorOk s sh t.waitSeq) = false → exec (.trimTailComplete shelf) s = .next s) ∧
  (∀ (shelf : Nat) (s : State) (sh : Shelf) (h : HeadTrim), s.shelf? shelf = some sh → sh.headTrims.find? (fun h => allDone s h.older) = some h →
    exec (.headTrimFree shelf) s = .next
      ((sh.drawers.filter (fun d => decide (drawerPos sh d.series d.idx + serT sh.prof d.series ≤ h.pos))).foldl (fun s d => freeDrawer s shelf d)
        (s.setShelf shelf { sh with headTrims := sh.headTrims.erase h }))) ∧
  (∀ (shelf : Nat) (s : State) (sh : Shelf), s.shelf? shelf = some sh → sh.headTrims.find? (fun h => allDone s h.older) = none →
    exec (.headTrimFree shelf) s = .next s)) ∧
  ((∀ (ring : Fin 4096) (id i : Nat) (s s1 : State) (r : Req) (sh : Shelf), Looks s ring.val 0x05 id r s1 → bit (le r.desc 0x18 1) 0 = false →
    Found s1 (dKey r.desc) i sh → exec (.dropShelf ring) s = .next (complete (dropOne s1 i) id r 0x00 0 0 0 0 0)) ∧
  (∀ (ring : Fin 4096) (id : Nat) (s s1 : State) (r : Req), Looks s ring.val 0x05 id r s1 → bit (le r.desc 0x18 1) 0 = false →
    lookup s1 (dKey r.desc) = none → exec (.dropShelf ring) s = .next (complete s1 id r 0x00 0 0 0 0 0)) ∧
  (∀ (ring : Fin 4096) (id : Nat) (s s1 : State) (r : Req), Admits s ring.val 0x05 id r s1 → bit (le r.desc 0x18 1) 0 = true →
    64 ≤ s1.dir.marks.length → exec (.dropShelf ring) s = .next (failReq s1 id r { status := 0x40, i0 := 50000 })) ∧
  (∀ (ring : Fin 4096) (id : Nat) (s s1 : State) (r : Req), Admits s ring.val 0x05 id r s1 → bit (le r.desc 0x18 1) 0 = true →
    s1.dir.marks.length < 64 → ∃ (u t : State) (m : Mark), exec (.dropShelf ring) s = .next t ∧ t = complete u id r 0x00 0 0 0 0 0 ∧
      u.dir.marks.getLast? = some m ∧ m.part = dPart r.desc ∧ m.seqs = s1.dir.createSeq) ∧
  (∀ (shelf : Nat) (s : State) (sh : Shelf), s.shelf? shelf = some sh → sh.state = .dropping → allDone s sh.dropOlder = true →
    exec (.dropFree shelf) s = .next (dropEntry (freeAll s shelf) shelf)) ∧
  (∀ (shelf : Nat) (s : State), (s.shelf? shelf = none ∨ ∃ sh, s.shelf? shelf = some sh ∧ (sh.state ≠ .dropping ∨ allDone s sh.dropOlder = false)) →
    exec (.dropFree shelf) s = .next s) ∧
  (∀ (die : Fin 4) (mark : Nat) (s : State) (m : Mark), s.dir.marks[mark]? = some m → m.done.contains die.val = false →
    (markedShelves s m).filter (fun e => decide (shelfDie e.2 = die.val)) = [] →
    exec (.convScanEnd die mark) s = .next { s with dir := { s.dir with
      marks := if 4 ≤ m.done.length + 1 then s.dir.marks.eraseIdx mark else modAt (fun _ => { m with done := m.done ++ [die.val] }) mark s.dir.marks } }) ∧
  (∀ (die : Fin 4) (mark : Nat) (s : State), (s.dir.marks[mark]? = none ∨ ∃ m, s.dir.marks[mark]? = some m ∧ m.done.contains die.val = true) →
    exec (.convScanEnd die mark) s = .next s))

/-- R120, R160, R165, R130, R136, R163: `MERGE` reads its inputs, passes over the absent ones, and delivers a merged block of them: each head the
combination of the inputs' heads, keys and drawers the sums of the inputs' counts, the status of the block 2 where an input's is. The order of the
sums is free (log entry 20). An input that fails its check ends the request. A head of which any input has the bound +inf has that bound. Where a
result goes. A memory route takes the block at `BASE` plus the request's offset before the completion; a network route posts it on its queue pair; on
a queue pair that takes no message the request ends with `ABORTED`. Commands whose next state it gives: `merge`. -/
def Obligations.MergeDeliversAndResultsFollowTheirRoute : Prop :=
  ((∀ (ring : Fin 4096) (id : Nat) (s s1 s2 : State) (r : Req) (bs : List (List Byte)), Admits s ring.val 0x03 id r s1 → mergeFail s1 r = none →
    mergeInputs s1 r (mgN r.desc) = (.ok bs, s2) →
    ∃ (order free : Nat) (hs : List HeadOut), hs.length = mgHeads r.desc ∧
      (∀ j : Nat, j < mgHeads r.desc → hs[j]? = some (mergeHead order (free / 2 ^ (32 * (mgDim r.desc + 3) * j)) (mgDim r.desc)
        (bs.map (fun b => blockHead b (mgInBf16 r.desc) (mgHeads r.desc) (mgDim r.desc) j)))) ∧
      exec (.merge ring) s = .next (deliver { s2 with free := s2.free + 2 } id { r with cap := r.cap.map (fun k => { k with input := bs.flatten }) } 0x00
        (bs.map (fun b => le b 0x14 4)).sum bs.length 0 0 (le r.desc 0x20 4) (le r.desc 0x24 4)
        (blockBytes (mgDim r.desc) (mgOutBf16 r.desc) true (if bs.any (fun b => decide (le b 5 1 = 2)) then 2 else 0) (dTag r.desc) (dEpoch r.desc)
          (bs.map (fun b => le b 0x14 4)).sum 0 0 (bs.map (fun b => le b 0x24 4)).sum hs))) ∧
  (∀ (ring : Fin 4096) (id : Nat) (s s1 : State) (r : Req) (f : Fail), Admits s ring.val 0x03 id r s1 → mergeFail s1 r = some f →
    exec (.merge ring) s = .next (failReq s1 id r f)) ∧
  (∀ (ring : Fin 4096) (id : Nat) (s s1 s2 : State) (r : Req) (f : Fail), Admits s ring.val 0x03 id r s1 → mergeFail s1 r = none →
    mergeInputs s1 r (mgN r.desc) = (.error f, s2) → exec (.merge ring) s = .next (failReq s2 id r f)) ∧
  (∀ (order free d : Nat) (hs : List HeadIn), hs.any (fun h => decide (h.eps = posInf)) = true → (mergeHead order free d hs).eps = posInf)) ∧
  (∀ (s : State) (id : Nat) (r : Req) (status i0 i1 i2 i3 roff imm : Nat) (block : List Byte), r.replay = false →
    (rtKind r.route = 0 → deliver s id r status i0 i1 i2 i3 roff imm block =
      complete (refWrite s r.part (rtBase r.route + roff) block) id r status 0 i0 i1 i2 i3 block) ∧
    (rtKind r.route ≠ 0 → qpDead s (rtQpn r.route) = true → deliver s id r status i0 i1 i2 i3 roff imm block = complete s id r 0x70 0 0 0 0 0) ∧
    (rtKind r.route ≠ 0 → qpDead s (rtQpn r.route) = false → ∃ (u : State) (x : Qp),
      deliver s id r status i0 i1 i2 i3 roff imm block = complete u id r status 0 i0 i1 i2 i3 block ∧ tget? s.qps (rtQpn r.route) = some x ∧
      tget? u.qps (rtQpn r.route) = some { x with out := x.out ++
        [{ kind := .write, tclass := r.tclass.getD 0, va := (rtBase r.route + roff) % 2 ^ 64, rkey := rtKey r.route, imm := imm, bytes := block,
           seq := (s.port x.port).msgNo }] } ∧
      (∀ q : Nat, q ≠ rtQpn r.route → tget? u.qps q = tget? s.qps q) ∧ u.hostMem = s.hostMem ∧ u.devMem = s.devMem))

/-- R133, R244, R246: `PLAN` attaches a plan to a conversation, replaces the one attached, or removes it with handle 0, and completes. A depth outside 1
to 8 is refused, and a full table ends it with `FULL`. `PIN` adds its range to the shelf's, at most four of them and within the partition's pin share,
and completes at once where every drawer it names already lies in its tier; `UNPIN` takes a range away. What removes a plan or a range is the model's
reading (log entries 45 and 46). Commands whose next state it gives: `plan`, `pin`. -/
def Obligations.PlansAttachAndPinsHold : Prop :=
  (∀ (ring : Fin 4096) (id : Nat) (s s0 s1 : State) (r : Req), Looks s ring.val 0x06 id r s0 →
    (lookup s0 (dKey r.desc) ≠ none ∧ s1 = s0 ∨ Absent s0 (dKey r.desc) s1) →
    let mine : PlanAt → Bool := fun a => decide (a.part = dPart r.desc) && decide (a.tenant = (dKey r.desc).tenant) && decide (a.conv = (dKey r.desc).conv)
    let new : PlanAt := { part := dPart r.desc, tenant := (dKey r.desc).tenant, conv := (dKey r.desc).conv, plan := le r.desc 0x18 2, depth := le r.desc 0x1A 1 }
    (le r.desc 0x18 2 = 0 → exec (.plan ring) s =
      .next (complete { s1 with tiers := { s1.tiers with plans := s1.tiers.plans.filter (fun a => !mine a) } } id r 0x00 0 0 0 0 0)) ∧
    (le r.desc 0x18 2 ≠ 0 → 1 ≤ le r.desc 0x1A 1 → le r.desc 0x1A 1 ≤ 8 → s1.tiers.plans.any mine = true → exec (.plan ring) s =
      .next (complete { s1 with tiers := { s1.tiers with plans := s1.tiers.plans.map (fun a => if mine a then new else a) } } id r 0x00 0 0 0 0 0)) ∧
    (le r.desc 0x18 2 ≠ 0 → 1 ≤ le r.desc 0x1A 1 → le r.desc 0x1A 1 ≤ 8 → s1.tiers.plans.any mine = false → s1.tiers.plans.length < 262144 →
      exec (.plan ring) s = .next (complete { s1 with tiers := { s1.tiers with plans := s1.tiers.plans ++ [new] } } id r 0x00 0 0 0 0 0)) ∧
    (le r.desc 0x18 2 ≠ 0 → (le r.desc 0x1A 1 = 0 ∨ 8 < le r.desc 0x1A 1) →
      exec (.plan ring) s = .next (failReq s1 id r { status := 0x32, detail := 0x1A })) ∧
    (le r.desc 0x18 2 ≠ 0 → 1 ≤ le r.desc 0x1A 1 → le r.desc 0x1A 1 ≤ 8 → s1.tiers.plans.any mine = false → 262144 ≤ s1.tiers.plans.length →
      exec (.plan ring) s = .next (failReq s1 id r { status := 0x41, detail := 0x09 }))) ∧
  (∀ (ring : Fin 4096) (id i : Nat) (s s1 : State) (r : Req) (sh : Shelf), Looks s ring.val 0x07 id r s1 → Found s1 (dKey r.desc) i sh →
    let g : PinRange := { first := le r.desc 0x18 4, endp := le r.desc 0x1C 4, tier1 := bit (le r.desc 0x20 1) 0 }
    let same : PinRange → Bool := fun x => decide (x.first = g.first) && decide (x.endp = g.endp)
    let s2 := s1.setShelf i { sh with pins := sh.pins ++ [g] }
    (∀ x : PinRange, bit (le r.desc 0x20 1) 7 = true → sh.pins.find? same = some x →
      exec (.pin ring) s = .next (complete (s1.setShelf i { sh with pins := sh.pins.erase x }) id r 0x00 0 0 0 0 0)) ∧
    (bit (le r.desc 0x20 1) 7 = true → sh.pins.find? same = none →
      exec (.pin ring) s = .next (failReq s1 id r { status := 0x32, detail := 0x18 })) ∧
    (bit (le r.desc 0x20 1) 7 = false → (4 ≤ sh.pins.length ∨ rd s1 (pgPart r.part + 0x214) * 2 ^ 20 < pinnedCount s2 r.part * 33032) →
      exec (.pin ring) s = .next (failReq s1 id r { status := 0x41, detail := 0x08 })) ∧
    (bit (le r.desc 0x20 1) 7 = false → sh.pins.length < 4 → pinnedCount s2 r.part * 33032 ≤ rd s1 (pgPart r.part + 0x214) * 2 ^ 20 →
      exec (.pin ring) s = .next (pinCheck (pinWork (s2.setReq id { r with shelf := some i }) i (r.ring / 1024) id) i)) ∧
    (bit (le r.desc 0x20 1) 7 = false → sh.pins.length < 4 → pinnedCount s2 r.part * 33032 ≤ rd s1 (pgPart r.part + 0x214) * 2 ^ 20 → sh.drawers = [] →
      pendingPins s1 i = [] → (∀ e ∈ s1.reqs, e.1 < id) →
      exec (.pin ring) s = .next (complete (s2.setReq id { r with shelf := some i }) id { r with shelf := some i } 0x00 0 0 0 0 0)))

/-- R294, R296, R300-R302, R305, R307: `SEARCH` takes `VISIBLE` of the index as its snapshot, copies its query and queues its coarse scan, in tasks for
the tiles of `HOME`. A task whose turn it is runs on the tile it is given. A scan keeps items that are visible at the snapshot alone. Once the records
of its candidates have been read, a search that is not to be widened delivers its result block, at most `TOPK` results, each the exact score of an
item whose record has been read and which passes the filter; with fewer results than it wants it ends with `SHORT`. A damaged table or bench ends it
with `INTEGRITY`, and a field that fails its check with that failure. The order of sums is free within its bound (log entry 20). Commands whose next
state it gives: `search`, `runDispatch`. -/
def Obligations.SearchDeliversItsResults : Prop :=
  (∀ (ring : Fin 4096) (id : Nat) (s s1 s2 : State) (r : Req) (b : List Byte), Admits s ring.val 0x10 id r s1 → r.replay = false →
    let v := (indexOf s1 r.part (le r.desc 0x0C 2)).2
    let q := srcElems (bits (le r.desc 0x1E 1) 0 2) v.dims b
    let x : Srch := { home := v.home, np := if le r.desc 0x1C 2 = 0 then v.nprobe else le r.desc 0x1C 2,
                      cand := if le r.desc 0x20 4 = 0 then v.cand else le r.desc 0x20 4 }
    let r1 := { r with snap := v.vis, query := q, bucket := some 7, since := s2.time.ns, cap := r.cap.map (fun c => { c with input := b }) }
    searchFail s1 r v = none → refRead s1 r.part (le r.desc 0x10 8) (v.dims * srcSize (bits (le r.desc 0x1E 1) 0 2)) = (some b, s2) → q.all srcOk = true →
    (v.tblBad = false → v.benchBad = false → exec (.search ring) s = .next (s2.setReq id { r1 with
      runs := List.replicate (ceilDiv v.nlist 65536) { sched := some v.home }, srch := some x })) ∧
    ((v.tblBad = true ∨ v.benchBad = true) → exec (.search ring) s = .next (failSearch s2 id r1 x { status := 0x22 }))) ∧
  (∀ (ring : Fin 4096) (id : Nat) (s s1 : State) (r : Req) (f : Fail), Admits s ring.val 0x10 id r s1 →
    searchFail s1 r (indexOf s1 r.part (le r.desc 0x0C 2)).2 = some f → exec (.search ring) s = .next (failReq s1 id r f)) ∧
  (∀ (req run : Nat) (tile : Fin 192) (s : State) (r : Req) (x : Srch) (t : Run), noService s = false → tget? s.reqs req = some r → r.srch = some x →
    r.runs[run]? = some t → t.phase = .queued → hasTurn s req r x.home = true → taskOk s req r x tile.val = true →
    exec (.runDispatch req run (some tile)) s = .next (runTask s req r x run tile.val)) ∧
  (∀ (req run : Nat) (s : State) (r : Req) (x : Srch), noService s = false → tget? s.reqs req = some r → r.srch = some x →
    exec (.runDispatch req run none) s = .next (failSearch s req r x { status := 0x22 })) ∧
  (∀ (s : State) (id : Nat) (r : Req) (x : Srch), ∃ (kept todo : List Nat) (step : SearchStep),
    endScan s id r x = startRank s id r { x with kept := kept, todo := todo } step ∧ (∀ l ∈ x.kept, l ∈ kept) ∧
    ∀ l ∈ todo, ∃ i ∈ (searchIndex s r x).items, i.loc = l ∧ i.seq ≤ r.snap ∧ i.lost = false ∧ ∀ n : Nat, i.del = some n → r.snap < n) ∧
  (∀ (s : State) (id : Nat) (r : Req) (x : Srch), (srWiden r.desc = false ∨ x.step ≠ .rank ∨ srTopk r.desc ≤ (rankedCands (searchIndex s r x) r x).length) →
    let f := searchFound (searchIndex s r x) r x
    endRank s id r x = searchEnded (deliver s id r (if f.short then 0x01 else 0x00) f.res.length f.cands 0 0 (le r.desc 0x24 4) (le r.desc 0x28 4)
      (resultBlock r.desc r.snap f)) r x) ∧
  (∀ (v : VIndex) (r : Req) (x : Srch), (searchFound v r x).res.length ≤ le r.desc 0x0E 2 ∧
    ((searchFound v r x).res.length < le r.desc 0x0E 2 → (searchFound v r x).short = true) ∧
    ∀ e ∈ (searchFound v r x).res, ∃ i ∈ v.items, e = (metricScore v.metric 11 r.query (itemVec v i), i.id) ∧ i.loc ∈ x.read ∧
      filterPass r.sprog (le r.desc 0x2C 8) i.attr = true)

/-- R252, R290-R293, R304, R303-R305, R308: `VINSERT` and `VDELETE` of n items take the next n numbers of the index, end with them visible, and complete,
a `VINSERT` with the first number once its records have gone through write staging; one whose index has lost its tables passes its numbers over and
ends with `INTEGRITY`. An operation of 0 or more than 4,096 items is refused. `VMERGE` starts a merge with the index's `VISIBLE` as B, or waits for
the one under way; the switch repairs damaged lists, replaces the merged ones in one step, while searches under way keep the version they began with,
and completes it; a status record that is due is written at its place once. The first sequence number is the model's reading (log entry 50). Where the
condition of a command does not hold the state stays as it is (log entry 99). Commands whose next state it gives: `vinsert`, `vdelete`, `vmerge`,
`vmergeSwitch`, `statusRecordWrite`. -/
def Obligations.IndexUpdatesAndMerges : Prop :=
  ((∀ (ring : Fin 4096) (id : Nat) (s s1 s2 s3 s4 s5 : State) (r : Req) (b : List Byte), Admits s ring.val 0x11 id r s1 →
    let k := (indexOf s1 r.part (le r.desc 0x0C 2)).1
    let v := (indexOf s1 r.part (le r.desc 0x0C 2)).2
    let n := le r.desc 0x0E 2
    let fmt := bits (le r.desc 0x18 1) 0 2
    let size := itemBytes v fmt
    let recs := (List.range n).map (fun i => bslice b (i * size) size)
    let r1 := { r with cap := r.cap.map (fun c => { c with input := b }) }
    let w := tget {} s3.vidx k
    let new := passNumbers (insertItems { w with seq := w.seq + n } (oldSlots s3 k) fmt (w.seq + 1) recs 0)
    1 ≤ n → n ≤ 4096 → refFail s1 r.part r.desc 0x10 (n * size) = none → refRead s1 r.part (le r.desc 0x10 8) (n * size) = (some b, s2) →
    recs.all (fun x => (srcElems fmt v.dims (x.drop 32)).all srcOk) = true →
    (readTables (readIds s2 k (recs.map (fun x => le x 0 8))) k = (true, s3) → s3.chip.cabCap = true → s3.cab.readOnly = false →
      takeCharge s3 r.part (indexCharge new - indexCharge w) none = (true, s4) →
      takeShare s4 r.part ((unitsHeld s4 k new).length - (unitsHeld s4 k w).length) none = (true, s5) →
      new.seq = w.seq + n ∧ new.vis = w.seq + n ∧
      exec (.vinsert ring) s = .next (complete ((new.items.filter (fun i => decide (i.seq ≥ w.seq + 1))).foldl (stageRecord k) (putIndex s5 k new)) id r1
        0x00 0 ((w.seq + 1) % 2 ^ 32) ((w.seq + 1) / 2 ^ 32 % 2 ^ 32) 0 0)) ∧
    (readTables (readIds s2 k (recs.map (fun x => le x 0 8))) k = (false, s3) →
      exec (.vinsert ring) s = .next (failReq { s3 with vidx := tput s3.vidx k (passNumbers { w with seq := w.seq + n }) } id r1
        { status := 0x22, i0 := (w.seq + 1) % 2 ^ 32, i1 := (w.seq + 1) / 2 ^ 32 % 2 ^ 32 }))) ∧
  (∀ (ring : Fin 4096) (id : Nat) (s s1 : State) (r : Req), Admits s ring.val 0x11 id r s1 → (le r.desc 0x0E 2 = 0 ∨ 4096 < le r.desc 0x0E 2) →
    exec (.vinsert ring) s = .next (failReq s1 id r { status := 0x32, detail := 0x0E })) ∧
  (∀ (ring : Fin 4096) (id : Nat) (s s1 s2 s3 : State) (r : Req) (b : List Byte), Admits s ring.val 0x12 id r s1 →
    let k := (indexOf s1 r.part (le r.desc 0x0C 2)).1
    let n := le r.desc 0x0E 2
    let ids := (List.range n).map (fun i => le b (8 * i) 8)
    let u := readIds s2 k ids
    let v := tget {} u.vidx k
    let new := passNumbers (deleteAll { v with seq := v.seq + n } (v.seq + 1) ids 0)
    1 ≤ n → n ≤ 4096 → refFail s1 r.part r.desc 0x10 (8 * n) = none → refRead s1 r.part (le r.desc 0x10 8) (8 * n) = (some b, s2) →
    takeCharge u r.part (indexCharge new - indexCharge v) none = (true, s3) →
    new.seq = v.seq + n ∧ new.vis = v.seq + n ∧
    exec (.vdelete ring) s = .next (complete (putIndex s3 k new) id { r with cap := r.cap.map (fun c => { c with input := b }) } 0x00 0 0 0 0 0)) ∧
  (∀ (ring : Fin 4096) (id : Nat) (s s1 : State) (r : Req), Admits s ring.val 0x12 id r s1 → (le r.desc 0x0E 2 = 0 ∨ 4096 < le r.desc 0x0E 2) →
    exec (.vdelete ring) s = .next (failReq s1 id r { status := 0x32, detail := 0x0E }))) ∧
  ((∀ (ring : Fin 4096) (id : Nat) (s s1 s2 : State) (r : Req), Admits s ring.val 0x13 id r s1 →
    let k := (indexOf s1 r.part (le r.desc 0x0C 2)).1
    let v := (indexOf s1 r.part (le r.desc 0x0C 2)).2
    let lists := if le r.desc 0x10 4 = 0xFFFFFFFF then none else some (le r.desc 0x10 4)
    let v1 := { v with building := some { req := id, b := v.vis, lists := lists } }
    (le r.desc 0x10 4 < v.nlist ∨ le r.desc 0x10 4 = 0xFFFFFFFF) →
    (v.building = none → takeCharge s1 r.part (buildCharge v v.vis lists) none = (true, s2) →
      exec (.vmerge ring) s = .next (putIndex (s2.setReq id r) k v1)) ∧
    (v.building = none → takeCharge s1 r.part (buildCharge v v.vis lists) none = (false, s2) →
      exec (.vmerge ring) s = .next (failReq { s2 with vidx := tput s2.vidx k { v with statDue := v.statDue || decide (v.statRef ≠ 0) } } id r
        { status := 0x41, detail := 0x01 })) ∧
    (v.building ≠ none → exec (.vmerge ring) s = .next (s1.setReq id r))) ∧
  (∀ (ring : Fin 4096) (id : Nat) (s s1 : State) (r : Req), Admits s ring.val 0x13 id r s1 →
    (indexOf s1 r.part (le r.desc 0x0C 2)).2.nlist ≤ le r.desc 0x10 4 → le r.desc 0x10 4 ≠ 0xFFFFFFFF →
    exec (.vmerge ring) s = .next (failReq s1 id r { status := 0x32, detail := 0x10 })) ∧
  (∀ (part : Fin 32) (handle : Nat) (s u t : State) (v w : VIndex) (x : Building) (r : Req), tget? s.vidx (65536 * part.val + handle) = some v →
    v.building = some x → s.stw.rm = .running → repairItems (keepOld s (65536 * part.val + handle) v) (65536 * part.val + handle) v x.lists = (w, u) →
    putIndex u (65536 * part.val + handle) (passNumbers { mergedItems w x.b x.lists with seq := v.seq }) = t → tget? t.reqs x.req = some r →
    exec (.vmergeSwitch part handle) s = .next (nextMerge (complete t x.req r 0x00 0 0 0 0 0) part.val handle) ∧
    (mergedItems w x.b x.lists).lastMerge = x.b ∧ (mergedItems w x.b x.lists).building = none ∧
    (∀ i ∈ (mergedItems v x.b none).items, i.seq ≤ x.b → i.merged = true ∧ i.lost = false ∧ ∀ n : Nat, i.del = some n → x.b < n)) ∧
  (∀ (part : Fin 32) (handle : Nat) (s : State), (tget? s.vidx (65536 * part.val + handle) = none ∨ s.stw.rm ≠ .running ∨
    ∃ v, tget? s.vidx (65536 * part.val + handle) = some v ∧ v.building = none) → exec (.vmergeSwitch part handle) s = .next s) ∧
  (∀ (part : Fin 32) (handle : Nat) (s : State) (v : VIndex), tget? s.vidx (65536 * part.val + handle) = some v →
    (v.statDue = true → exec (.statusRecordWrite part handle) s =
      .next (refWrite { s with vidx := tput s.vidx (65536 * part.val + handle) { v with statDue := false } } part.val v.statRef (statusRecord v))) ∧
    (v.statDue = false → exec (.statusRecordWrite part handle) s = .next s)) ∧
  (∀ (part : Fin 32) (handle : Nat) (s : State), tget? s.vidx (65536 * part.val + handle) = none → exec (.statusRecordWrite part handle) s = .next s))

/-- R405, R406, R409, R407: `MOVE_PULL` of a key that the pull table holds, from the node it names and within its range, starts a pull, or joins the one
under way; otherwise it is refused at the field that is wrong. The checks of a pull's two drawers, and what a remote drawer brings: its records up to
`END`, a summary formed anew, C as its epoch. The sweep of a die reads its remote drawers one after another, at most 64 at a time. The base check is
the model's reading (log entry 70). Where the condition of a command does not hold the state stays as it is (log entry 99). Commands whose next state
it gives: `movePull`, `pullCheck`, `remoteDrawerRead`, `pullSweep`. -/
def Obligations.PullsBringShelves : Prop :=
  (∀ (ring : Fin 4096) (id : Nat) (s s0 s1 : State) (r : Req), Admits s ring.val 0x20 id r s0 →
    (pullFind s0 (dKey r.desc) = (none, s1) → exec (.movePull ring) s = .next (failReq s1 id r { status := 0x32, detail := 0x18 })) ∧
    (∀ e : List Byte, pullFind s0 (dKey r.desc) = (some e, s1) →
      (peerNode s1 (dPart r.desc) (le e 0x0C 1 % 64) ≠ le r.desc 0x18 4 →
        exec (.movePull ring) s = .next (failReq s1 id r { status := 0x32, detail := 0x18 })) ∧
      (peerNode s1 (dPart r.desc) (le e 0x0C 1 % 64) = le r.desc 0x18 4 →
        (lookup s1 (dKey r.desc) ≠ none → exec (.movePull ring) s = .next (failReq s1 id r { status := 0x32, detail := 0x0C })) ∧
        (lookup s1 (dKey r.desc) = none →
          (le r.desc 0x1C 4 < le e 0x14 4 ∨ le e 0x18 4 < le r.desc 0x20 4 ∨ le r.desc 0x20 4 ≤ le r.desc 0x1C 4 →
            exec (.movePull ring) s = .next (failReq s1 id r { status := 0x32, detail := 0x1C })) ∧
          (le e 0x14 4 ≤ le r.desc 0x1C 4 → le r.desc 0x20 4 ≤ le e 0x18 4 → le r.desc 0x1C 4 < le r.desc 0x20 4 →
            (∀ n : Nat, pullOf s1 (dKey r.desc) = some n → exec (.movePull ring) s = .next (s1.setReq id { r with waitPull := some n })) ∧
            (∀ (n : Nat) (s2 : State), pullOf s1 (dKey r.desc) = none → startPull s1
                { tableJob (dKey r.desc) e with profH := le r.desc 0x24 2, first := le r.desc 0x1C 4, endp := le r.desc 0x20 4, move := some id } = (n, s2) →
              exec (.movePull ring) s = .next (s2.setReq id { r with waitPull := some n })))))) ∧
    (∀ (s : State) (j : PullJob), (startPull s j).1 = s.nextId ∧ tget? (startPull s j).2.pulls s.nextId = some j ∧
      (∀ x : Qp, tget? s.qps (peerQpn s j.key.part j.peer) = some x → x.err = false → ∃ (a b : Nat) (y : Qp),
        tget? (startPull s j).2.qps (peerQpn s j.key.part j.peer) = some y ∧
        y.out = x.out ++ [a, b].map (fun v => { kind := .read, tclass := qpClass x, va := v, rkey := j.rkey, imm := 33024 })))) ∧
  ((∀ (n i : Nat) (a b : List Byte) (s s1 : State) (j : PullJob), tget? s.pulls n = some j → a.length = 33024 → b.length = 33024 →
    let t := serT (parseProfile (objBytes s j.key.part j.profH)) 0
    let dig := (digestOfHandle s j.key.part j.profH).take 16
    (peerExcluded s j.key.part j.peer = true ∨ le a 0 4 ≠ 0x334E4358 ∨ le b 0 4 ≠ 0x334E4358 →
      exec (.pullCheck n [a, b]) s = .next (pullFailed s n 0x23 0)) ∧
    (peerExcluded s j.key.part j.peer = false → le a 0 4 = 0x334E4358 → le b 0 4 = 0x334E4358 →
      (liveObj s j.key.part j.profH 1 = none ∨ fDigest a ≠ dig ∨ fDigest b ≠ dig → exec (.pullCheck n [a, b]) s = .next (pullFailed s n 0x30 0x04)) ∧
      (liveObj s j.key.part j.profH 1 ≠ none → fDigest a = dig → fDigest b = dig →
        (fFirst b + fCount b < j.endp ∨ j.endp ≤ fFirst b ∨ fFirst a < fSeq a * t ∨ j.first < fFirst a - fSeq a * t →
          exec (.pullCheck n [a, b]) s = .next (pullFailed s n 0x23 0)) ∧
        (j.endp ≤ fFirst b + fCount b → fFirst b < j.endp → fSeq a * t ≤ fFirst a → fFirst a - fSeq a * t ≤ j.first →
          createShelf s (pulledShelf s j (fFirst a - fSeq a * t)) = (.ok i, s1) → exec (.pullCheck n [a, b]) s = .next (pullCreated s1 n i j))))) ∧
  (∀ (shelf series idx : Nat) (data : List Byte) (s : State) (sh : Shelf) (pl : Pull) (d : Drawer), hostReach s = true → data.length = 33024 →
    s.shelf? shelf = some sh → sh.pull = some pl → getDrawer sh series idx = some d → sh.state = .live → d.loc = .remote → pl.inFlight.contains (series, idx) = true →
    (le data 0 4 ≠ 0x334E4358 ∨ fKind data ≠ series % 2 ∨ fHead data ≠ series / 2 ∨ fSeq data ≠ idx →
      exec (.remoteDrawerRead shelf series idx data) s = .next (pulledShelfFailed s shelf false)) ∧
    (le data 0 4 = 0x334E4358 → fKind data = series % 2 → fHead data = series / 2 → fSeq data = idx →
      (fDigest data ≠ sh.digest.take 16 → exec (.remoteDrawerRead shelf series idx data) s = .next (pulledShelfFailed s shelf true)) ∧
      (fDigest data = sh.digest.take 16 →
        let s1 := s.setShelf shelf (setDrawer { sh with pull := some { pl with inFlight := pl.inFlight.erase (series, idx) } } (arrivedDrawer s sh d data))
        let s3 := retryAppends (placeRemote ((runsAwaiting s1 shelf (series, idx)).foldl (serveRun shelf (series, idx)) s1) shelf series idx) shelf
        (∀ x : Shelf, s3.shelf? shelf = some x →
          exec (.remoteDrawerRead shelf series idx data) s = .next (if x.pull.isNone then rerunAll s3 shelf else s3)) ∧
        (arrivedDrawer s sh d data).count = min (fCount data) (sh.endPos - d.firstPos) ∧ (arrivedDrawer s sh d data).epoch = partC s sh.key.part ∧
        (arrivedDrawer s sh d data).data = bslice data 256 (min (fCount data) (sh.endPos - d.firstPos) * serB sh.prof d.series) ∧
        (arrivedDrawer s sh d data).gen = fGen data))) ∧
  (∀ (die : Fin 4) (s : State), (∀ (i : Nat) (sh : Shelf), s.shelf? i = some sh → sh.pull = none ∨ sh.drawers.any (fun d => decide (d.loc = .remote)) = true) →
    (64 ≤ sweepFlight s die.val → exec (.pullSweep die) s = .next s) ∧
    (sweepFlight s die.val < 64 → sweepList s die.val = [] → exec (.pullSweep die) s = .next s) ∧
    (∀ (i : Nat) (k : Nat × Nat) (l : List (Nat × Nat × Nat)), sweepFlight s die.val < 64 → sweepList s die.val = (i, k) :: l →
      exec (.pullSweep die) s = .next (demandRead s i k))))

/-- R410-R412, R412-R417: `MIRROR_SET` on a live shelf. Mode 0 leaves the shelf with one copy; modes 1 and 2 need an inbox and the node in the peer table
and seed a new link, synchronous for mode 1, once every drawer of the shelf has been read; a drawer that reads as damaged damages the shelf, and
nothing is sent (R270). A copy refuses it. Mirror entries and acknowledgements. An entry is applied to its copy or refused, and what is consumed is
told to the sender; a refusal that comes back cuts its link; an acknowledgement confirms the entries it covers; one outstanding for 100 ms raises
`MIRROR_STALL` once. The sequence number of a refusal is the model's reading (log entry 71). Where the condition of a command does not hold the state
stays as it is (log entry 99). Commands whose next state it gives: `mirrorSet`, `mirrorEntry`, `mirrorAck`, `mirrorStall`. -/
def Obligations.MirrorsAreKept : Prop :=
  (∀ (ring : Fin 4096) (id : Nat) (s s1 : State) (r : Req), Admits s ring.val 0x21 id r s1 →
    (lookup s1 (dKey r.desc) = none → exec (.mirrorSet ring) s = .next (failReq s1 id r { status := 0x32, detail := 0x18 })) ∧
    (∀ (i : Nat) (sh : Shelf), lookup s1 (dKey r.desc) = some (i, sh) →
      (sh.state = .lost → exec (.mirrorSet ring) s = .next (failReq s1 id r { status := 0x20 })) ∧
      (sh.state ≠ .lost → sh.copy = true → exec (.mirrorSet ring) s = .next (failReq s1 id r { status := 0x50 })) ∧
      (sh.state ≠ .lost → sh.copy = false → sh.link = none → s1.shelf? i = some sh →
        (le r.desc 0x1C 1 = 0 → exec (.mirrorSet ring) s = .next (complete (s1.setShelf i { sh with durab := .single }) id r 0x00 0 0 0 0 0)) ∧
        (le r.desc 0x1C 1 ≠ 0 → (inboxOn s1 r.part = false ∨ peerOf s1 r.part (le r.desc 0x18 4) = none) →
          exec (.mirrorSet ring) s = .next (failReq s1 id r { status := 0x32, detail := 0x18 })) ∧
        (∀ peer : Nat, le r.desc 0x1C 1 ≠ 0 → inboxOn s1 r.part = true → peerOf s1 r.part (le r.desc 0x18 4) = some peer →
          sh.drawers.any (fun d => decide (d.loc = .remote)) = false →
          (∀ s2 : State, readShelf (s1.setReq id { r with shelf := some i }) sh = (none, s2) →
            exec (.mirrorSet ring) s = .next (seedLink s2 id r i sh peer (decide (le r.desc 0x1C 1 = 1)))) ∧
          (∀ (w : Nat × Nat ⊕ Nat) (s2 : State), readShelf (s1.setReq id { r with shelf := some i }) sh = (some w, s2) →
            exec (.mirrorSet ring) s = .next (damage s2 i w)))))) ∧
  ((∀ (part : Fin 32) (peer : Fin 64) (entry : List Byte) (s : State), hostReach s = true → 32 ≤ entry.length → entry.length % 64 = 0 → entry.length ≤ 262144 →
    le entry 4 4 = entry.length → le entry 0 1 ≤ 6 → inboxOn s part.val = true → peerValid s part.val peer.val = true → partOpen s part.val = true →
    exec (.mirrorEntry part peer entry) s = .next (mirrorApply s part.val peer.val entry)) ∧
  (∀ (s : State) (p peer : Nat) (b : List Byte), le b 0 1 = 0 → mirrorApply s p peer b = consumed s p peer b.length) ∧
  (∀ (s : State) (p peer : Nat) (b : List Byte), le b 0 1 ≠ 0 → le b 0 1 ≠ 5 →
    ((s.part p).state = .fenced → mirrorApply s p peer b = refuseEntry s p peer b 0x12) ∧
    ((s.part p).state ≠ .fenced → peerExcluded s p peer = true → mirrorApply s p peer b = refuseEntry s p peer b 0x11) ∧
    ((s.part p).state ≠ .fenced → peerExcluded s p peer = false → le b 0 1 ≠ 1 →
      (lookup s (meKey p b) = none → mirrorApply s p peer b = refuseEntry s p peer b 0x20) ∧
      (∀ (i : Nat) (sh : Shelf), lookup s (meKey p b) = some (i, sh) → sh.state = .live → sh.copy = true → sh.copyPeer = peer →
        (∀ st : Nat, le b 0 1 = 2 → sh.tails = [] → applyRecords s i sh b = some (.error st) → mirrorApply s p peer b = refuseEntry s p peer b st) ∧
        (le b 0 1 = 2 → (sh.tails ≠ [] ∨ applyRecords s i sh b = none) → mirrorApply s p peer b = s) ∧
        (∀ s1 : State, le b 0 1 = 2 → sh.tails = [] → applyRecords s i sh b = some (.ok s1) → mirrorApply s p peer b =
          if bit (le b 1 1) 0 then sendAck (consumed s1 p peer b.length) p peer (meSeq b) else consumed s1 p peer b.length) ∧
        (le b 0 1 = 3 → mirrorApply s p peer b = sendAck (consumed (applyTrim s i sh b) p peer b.length) p peer (meSeq b)) ∧
        (le b 0 1 = 4 → mirrorApply s p peer b = sendAck (consumed (dropOne s i) p peer b.length) p peer (meSeq b)) ∧
        (le b 0 1 = 6 → mirrorApply s p peer b = sendAck (consumed (s.setShelf i { sh with
          endPos := copyEnd sh, visible := copyEnd sh, start := ringStart sh (copyEnd sh) }) p peer b.length) p peer (meSeq b))))) ∧
  (∀ (s : State) (p peer : Nat) (b : List Byte), le b 0 1 = 5 →
    (linkOfKey (consumed s p peer b.length) p peer (meKey p b) = none → mirrorApply s p peer b = consumed s p peer b.length) ∧
    (∀ l : Nat, linkOfKey (consumed s p peer b.length) p peer (meKey p b) = some l →
      mirrorApply s p peer b = linkRefused (consumed s p peer b.length) l (le b 0x18 4) (le b 0x1C 4 % 256))) ∧
  (∀ (s : State) (p peer : Nat) (b : List Byte), le b 0 1 = 1 → (s.part p).state ≠ .fenced → peerExcluded s p peer = false →
    (∀ st : Nat, applySeed s p peer b = .error st → mirrorApply s p peer b = refuseEntry s p peer b st) ∧
    (∀ s1 : State, applySeed s p peer b = .ok s1 → mirrorApply s p peer b = consumed s1 p peer b.length)) ∧
  (∀ (part : Fin 32) (peer : Fin 64) (s s0 : State) (b : List Byte), hostReach s = true → inboxOn s part.val = true →
    devRead s part.val (refAddr (rd64 s (pgPart part.val + 0x140)) + peer.val * inboxBytes s part.val + 8) 12 = (some b, s0) →
    let s1 := s0.setSub part.val peer.val { s0.subIn part.val peer.val with ackd := max (s0.subIn part.val peer.val).ackd (le b 0 8) }
    (linksTo s0 part.val peer.val = [] → exec (.mirrorAck part peer) s = .next s1) ∧
    (∀ (l : Nat) (x : Link), linksTo s0 part.val peer.val = [l] → tget? (ackLink (le b 8 4) (le b 0 8) s1 l).links l = some x →
      exec (.mirrorAck part peer) s = .next (reapLink (drainLink (ackLink (le b 8 4) (le b 0 8) s1 l) l (x.backlog.length + 1)) l))) ∧
  (∀ (link t : Nat) (s : State) (x : Link), tget? s.links link = some x → x.sent ≠ [] → x.stalled = false → x.since = some t → t + 100 ≤ stewardMs s →
    exec (.mirrorStall link) s = .next (raise { s with links := tput s.links link { x with stalled := true } } (pgPart x.part) 3 [])) ∧
  (∀ (link : Nat) (s : State), (tget? s.links link = none ∨ ∃ x, tget? s.links link = some x ∧ (x.sent = [] ∨ x.stalled = true ∨
    ∀ t : Nat, x.since = some t → stewardMs s < t + 100)) →
    exec (.mirrorStall link) s = .next s))

/-- R129-R134: `LOAD` reads its bytes, checks them and installs the object under the handle, or under the lowest free one, and completes with the handle
and the first eight bytes of the object's digest; the partition's chain takes the load. `UNLOAD` marks an object, and is refused for one that is not
there or marked already; it is freed with its handle once nothing refers to it, and with it an index that it made, whose records leave the cabinet.
Where the condition of a command does not hold the state stays as it is (log entry 99). Commands whose next state it gives: `load`, `unload`,
`objectFree`. -/
def Obligations.ObjectsComeAndGo : Prop :=
  (∀ (ring : Fin 4096) (id h : Nat) (s s1 s2 s3 : State) (r : Req) (b dig : List Byte), Admits s ring.val 0x30 id r s1 →
    (le r.desc 0x0E 2 = 0 ∨ tget? s1.objects (65536 * r.part + le r.desc 0x0E 2) = none) → lenRange (le r.desc 0x0C 1) (le r.desc 0x18 4) = true →
    refRead s1 r.part (le r.desc 0x10 8) (le r.desc 0x18 4) = (some b, s2) →
    loadObject s2 r.part (le r.desc 0x0C 1) (le r.desc 0x0E 2) b = (.ok (h, dig), s3) →
    exec (.load ring) s = .next (complete s3 id { r with cap := r.cap.map (fun k => { k with input := b }) } 0x00 0 h (le dig 0 4) (le dig 4 4) 0) ∧
    tget? s3.objects (65536 * r.part + h) =
      some { kind := le r.desc 0x0C 1, bytes := b, f16x := decide (le r.desc 0x0C 1 = 2) && f16Exact (bf16s b) } ∧
    (le r.desc 0x0E 2 ≠ 0 → h = le r.desc 0x0E 2) ∧
    (le r.desc 0x0E 2 = 0 → freeHandle s2 r.part = some h) ∧ (le r.desc 0x0C 1 ≠ 7 → dig = sha3 b) ∧
    (s3.part r.part).chain = sha3 (padTo (s2.part r.part).chain 32 ++ leBytes 1 (le r.desc 0x0C 1) ++ leBytes 2 h ++ dig) ∧
    (s3.part r.part).nload = (s2.part r.part).nload + 1) ∧
  (∀ (ring : Fin 4096) (id : Nat) (s s1 : State) (r : Req), Admits s ring.val 0x30 id r s1 → le r.desc 0x0E 2 ≠ 0 →
    tget? s1.objects (65536 * r.part + le r.desc 0x0E 2) ≠ none → exec (.load ring) s = .next (failReq s1 id r { status := 0x32, detail := 0x0E })) ∧
  (∀ (ring : Fin 4096) (id : Nat) (s s1 s2 s3 : State) (r : Req) (b : List Byte) (f : Fail), Admits s ring.val 0x30 id r s1 →
    (le r.desc 0x0E 2 = 0 ∨ tget? s1.objects (65536 * r.part + le r.desc 0x0E 2) = none) → lenRange (le r.desc 0x0C 1) (le r.desc 0x18 4) = true →
    refRead s1 r.part (le r.desc 0x10 8) (le r.desc 0x18 4) = (some b, s2) →
    loadObject s2 r.part (le r.desc 0x0C 1) (le r.desc 0x0E 2) b = (.error f, s3) →
    exec (.load ring) s = .next (failReq s3 id { r with cap := r.cap.map (fun k => { k with input := b }) } f)) ∧
  (∀ (ring : Fin 4096) (id : Nat) (s s1 : State) (r : Req) (o : Obj), Admits s ring.val 0x31 id r s1 →
    tget? s1.objects (65536 * r.part + le r.desc 0x0C 2) = some o → o.unloading = false →
    exec (.unload ring) s = .next (complete { s1 with objects := tput s1.objects (65536 * r.part + le r.desc 0x0C 2) { o with unloading := true } } id r 0x00 0
      (objRefs s1 r.part (le r.desc 0x0C 2)) 0 0 0)) ∧
  (∀ (ring : Fin 4096) (src : Nat) (d : List Byte) (s s2 : State) (g : Ring) (r : Req),
    frontDesc s ring.val (fun d => decide (dOpcode d = 0x31) && !dArm d) = some (src, d, g) → le d 2 2 = g.part →
    passStep2 (newId (s.setRing ring.val g)).2 { ring := ring.val, desc := d, order := (newId (s.setRing ring.val g)).1, part := g.part, src := src } = (r, s2) →
    r.desc = d → dOpcode d = 0x31 → stateFail s2 r = none →
    (tget? s2.objects (65536 * r.part + le d 0x0C 2) = none ∨ ∃ o : Obj, tget? s2.objects (65536 * r.part + le d 0x0C 2) = some o ∧ o.unloading = true) →
    exec (.unload ring) s = .next (failReq s2 (newId (s.setRing ring.val g)).1 r { status := 0x32, detail := 0x0C })) ∧
  (∀ (part : Fin 32) (h : Nat) (s : State) (o : Obj), 1 ≤ h → h ≤ 65535 → tget? s.objects (65536 * part.val + h) = some o →
    (o.unloading = true → objRefs s part.val h = 0 → o.kind ≠ 7 → exec (.objectFree part h) s = .next { s with
      objects := tdel s.objects (65536 * part.val + h) }) ∧
    (o.unloading = true → objRefs s part.val h = 0 → o.kind = 7 →
      let u := (recordsOf s (65536 * part.val + h)).foldl dropUnit s
      exec (.objectFree part h) s = .next { u with
        objects := tdel u.objects (65536 * part.val + h), vidx := tdel u.vidx (65536 * part.val + h) }) ∧
    ((o.unloading = false ∨ objRefs s part.val h ≠ 0) → exec (.objectFree part h) s = .next s)) ∧
  (∀ (part : Fin 32) (h : Nat) (s : State), 1 ≤ h → h ≤ 65535 → tget? s.objects (65536 * part.val + h) = none → exec (.objectFree part h) s = .next s)

/-- R400-R402, R396, R399, R401: `FENCE`. A token that is well formed and verifies raises C; `ADVANCE` and `REJOIN` complete at once, `EXCLUDE` and `EXIT`
once the older requests have; one that names C itself completes without effect, an older one with `STALE_EPOCH`, one that does not verify with
`DENIED`. Every answer carries C. What the kinds of fence do to a partition, once its metering period has closed and C and F have changed. `ADVANCE`
opens a grace window of `GRACE_MS` and leaves the rest as it is; `EXCLUDE` closes the window, keeps the nodes excluded, cuts the links to them,
promotes the copies they fed and fails the pulls from them; `EXIT` makes the partition `FENCED` without a window, ends its armed descriptors and what
waits for a partner, and cuts its links and pulls; `REJOIN` makes it `LIVE` again and cuts its links. The window closes at its time. Where the
condition of a command does not hold the state stays as it is (log entry 99). Commands whose next state it gives: `fence`, `fenceComplete`,
`graceWindowClose`. -/
def Obligations.FencesMoveEpochAndPartition : Prop :=
  ((∀ (ring : Fin 4096) (id : Nat) (s s1 s2 : State) (r : Req) (b : List Byte), Admits s ring.val 0x3F id r s1 →
    refFail s1 r.part r.desc 0x10 (le r.desc 0x18 2) = none → refRead s1 r.part (le r.desc 0x10 8) (le r.desc 0x18 2) = (some b, s2) →
    let c := partC s1 r.part
    let older := (s2.reqs.filter (fun e => decide (e.2.part = r.part) && decide (e.1 ≠ id))).map (·.1)
    let t := applyFence (s2.setReq id r) r.part b
    (∀ o : Nat, tokenBad r.desc b r.part = some o → exec (.fence ring) s = .next (failReq s2 id r { status := 0x32, detail := o, i0 := c })) ∧
    (tokenBad r.desc b r.part = none →
      (tokenOk s2 r.part b = false → exec (.fence ring) s = .next (failReq s2 id r { status := 0x50, i0 := c })) ∧
      (tokenOk s2 r.part b = true →
        (tkEpoch b < c → exec (.fence ring) s = .next (failReq s2 id r { status := 0x11, i0 := c })) ∧
        (tkEpoch b = c → exec (.fence ring) s = .next (complete s2 id r 0x00 0 c 0 0 0)) ∧
        (c < tkEpoch b →
          (tkKind b = 3 → (s2.part r.part).state ≠ .fenced →
            exec (.fence ring) s = .next (failReq s2 id r { status := 0x32, detail := 0x10, i0 := c })) ∧
          (tkKind b ≠ 3 → (s2.part r.part).state ≠ .live → exec (.fence ring) s = .next (failReq s2 id r { status := 0x12, i0 := c })) ∧
          ((tkKind b = 0 ∧ (s2.part r.part).state = .live ∨ tkKind b = 3 ∧ (s2.part r.part).state = .fenced) →
            exec (.fence ring) s = .next (complete t id r 0x00 0 (tkEpoch b) 0 0 0)) ∧
          (tkKind b ≠ 0 → tkKind b ≠ 3 → (s2.part r.part).state = .live →
            exec (.fence ring) s = .next (t.setPart r.part { t.part r.part with
              fences := (t.part r.part).fences ++ [{ req := id, older := older }] })))))) ∧
  (∀ (part : Fin 32) (s : State) (f : FenceWait) (rest : List FenceWait) (r : Req), (s.part part.val).fences = f :: rest → s.stw.rm = .running →
    allDone s f.older = true → tget? s.reqs f.req = some r →
    exec (.fenceComplete part) s = .next (complete (s.setPart part.val { s.part part.val with fences := rest }) f.req r 0x00 0 (le r.desc 0x0C 4) 0 0 0)) ∧
  (∀ (part : Fin 32) (s : State), ((s.part part.val).fences = [] ∨ s.stw.rm ≠ .running ∨
    ∃ f rest, (s.part part.val).fences = f :: rest ∧ allDone s f.older = false) → exec (.fenceComplete part) s = .next s)) ∧
  ((∀ (s : State) (p : Nat) (b : List Byte),
    let u := firstEpoch (wr (wr (closePeriod s p 1) (pgPart p + 0x114) (tkEpoch b)) (pgPart p + 0x118)
      (if tkKind b = 0 then max (partF s p) (tkFloor b) else tkEpoch b)) p
    (tkKind b = 0 → applyFence s p b =
      raise (u.setPart p { u.part p with graceEnd := some (stewardMs u + rdf u (pgPart p + 0x11C) 0 14) }) (pgPart p) 0 []) ∧
    (tkKind b = 1 → applyFence s p b = raise (applyExclude u p (tkNodes b)) (pgPart p) 0 []) ∧
    (tkKind b = 2 → applyFence s p b = raise (applyExit u p) (pgPart p) 0 []) ∧
    (tkKind b = 3 → applyFence s p b = raise (applyRejoin u p) (pgPart p) 0 [])) ∧
  (∀ (s : State) (p : Nat) (nodes : List Nat), ∃ (u v : State) (hit : Nat → Bool),
    u = cutLinks (s.setPart p { s.part p with graceEnd := none, excluded := ((s.part p).excluded ++ nodes).eraseDups }) p 0x70 hit ∧
    (∀ peer : Nat, hit peer = nodes.contains (peerNode s p peer)) ∧ applyExclude s p nodes = failPulls v p hit ∧ v = { u with dir := v.dir } ∧
    (∀ e ∈ v.dir.shelves, e.2.key.part = p → e.2.copy = true → hit e.2.copyPeer = false) ∧
    v.dir.shelves.map (fun e => (e.1, e.2.drawers, e.2.endPos, e.2.visible)) = u.dir.shelves.map (fun e => (e.1, e.2.drawers, e.2.endPos, e.2.visible))) ∧
  (∀ (s : State) (p : Nat), ∃ u v : State, u = endArmedPart (s.setPart p { s.part p with state := .fenced, graceEnd := none }) p 0x12 false ∧
    v = (u.links.filter (fun e => decide (e.2.part = p))).foldl (fun s e => failWaiting s e.2.shelf 0x12) u ∧
    applyExit s p = failPulls (cutLinks v p 0x12 (fun _ => true)) p (fun _ => true)) ∧
  (∀ (s : State) (p : Nat), ((applyRejoin s p).part p).state = .live ∧ ((applyRejoin s p).part p).graceEnd = none ∧ ((applyRejoin s p).part p).excluded = [] ∧
    (∀ e ∈ (applyRejoin s p).links, e.2.part ≠ p) ∧
    (∀ e ∈ (applyRejoin s p).dir.shelves, e.2.key.part = p → e.2.link = none ∧ e.2.copy = false ∧ e.2.durab = .single ∧ e.2.degraded = false)) ∧
  (∀ (part : Fin 32) (s : State) (e : Nat), (s.part part.val).graceEnd = some e →
    (e ≤ stewardMs s → exec (.graceWindowClose part) s = .next (s.setPart part.val { s.part part.val with graceEnd := none })) ∧
    (stewardMs s < e → exec (.graceWindowClose part) s = .next s)) ∧
  (∀ (part : Fin 32) (s : State), (s.part part.val).graceEnd = none → exec (.graceWindowClose part) s = .next s))

/-- R419, R421, R422: A lease that has run out while no port is up fences its partition, which metering records first; an hour closes the metering period
of every partition that is there. A period closes into its ring where there is a slot, and is held open otherwise. Where the condition of a command
does not hold the state stays as it is (log entry 99). Commands whose next state it gives: `leaseExpiry`, `meteringHour`. -/
def Obligations.LeasesAndMeteringPeriods : Prop :=
  (∀ s : State, (anyPortUp s = true ∨ s.chip.leaseCap = false) → exec .leaseExpiry s = .next s) ∧
  (∀ (s : State) (part : Fin 32), anyPortUp s = false → s.chip.leaseCap = true →
    (∀ p : Nat, p < 32 → ((s.part p).state = .live ∧ 0 < rdf s (pgPart p + 0x120) 0 16 ∧
      rdf s (pgPart p + 0x120) 0 16 < stewardMs s - s.stw.lastUp ↔ p = part.val)) →
    exec .leaseExpiry s = .next (raise ((applyExit (firstEpoch (closePeriod s part.val 4) part.val) part.val).setPart part.val
      { (applyExit (firstEpoch (closePeriod s part.val 4) part.val) part.val).part part.val with leaseFenced := true }) (pgPart part.val) 1 [])) ∧
  (∀ (part : Fin 32) (s : State), (s.part part.val).state ≠ .free →
    exec (.meteringHour part) s = .next (firstEpoch (closePeriod s part.val 2) part.val)) ∧
  (∀ (part : Fin 32) (s : State), (s.part part.val).state = .free → exec (.meteringHour part) s = .next s) ∧
  (∀ (s : State) (p why : Nat),
    (rdf s (pgPart p + 0x168) 4 1 = 0 → closePeriod s p why = raise (s.setPart p { s.part p with mtrHeld := true }) (pgPart p) 5 []) ∧
    (rdf s (pgPart p + 0x168) 4 1 = 1 → 2 ^ (4 + rdf s (pgPart p + 0x168) 0 4) ≤ (rd s (pgPart p + 0x16C) + 2 ^ 32 - rd s (pgPart p + 0x170)) % 2 ^ 32 →
      closePeriod s p why = raise (s.setPart p { s.part p with mtrHeld := true }) (pgPart p) 5 []) ∧
    (rdf s (pgPart p + 0x168) 4 1 = 1 → (rd s (pgPart p + 0x16C) + 2 ^ 32 - rd s (pgPart p + 0x170)) % 2 ^ 32 < 2 ^ (4 + rdf s (pgPart p + 0x168) 0 4) →
      closePeriod s p why = wr
        ((refWrite s p (rd64 s (pgPart p + 0x160) + 128 * (rd s (pgPart p + 0x16C) % 2 ^ (4 + rdf s (pgPart p + 0x168) 0 4))) (meterRecord s p why)).setPart p
          { s.part p with meter := {}, pseq := ((s.part p).pseq + 1) % 2 ^ 32, pstart := stewardUs s, mtrHeld := false })
        (pgPart p + 0x16C) ((rd s (pgPart p + 0x16C) + 1) % 2 ^ 32)))

/-- R391, R431, R513, R545, R392: `PART_CREATE` makes a free partition `LIVE` with the staged maps and new keys, or is refused: 5 where it is not free, 2
where `SEALED` cannot be had or a map is empty, 3 where a resource is another's, 6 where its charge does not fit. Without the ringmaster the command
has `RESULT` 1. `PART_APPLY_MAPS` gives a live or fenced partition its new resources at once and lets the removed ones go as what lies in them has
left, with `BUSY` set until then. It refuses an empty map, a resource of another partition, a stack whose replicated structures the quota has no room
for, and drawers that can go nowhere. Where the condition of a command does not hold the state stays as it is (log entry 99). Commands whose next
state it gives: `partCreate`, `partDestroy`, `partReset`, `partApplyMaps`, `mapRemovalDone`. -/
def Obligations.PartitionsAreCreatedAndMapped : Prop :=
  ((∀ (part : Fin 32) (s : State), HostMay s (pgPart part.val) → (s.part part.val).busy = false → RmTakes s 0 →
    let p := part.val
    let wants := decide (rdf s (pgPart p + 0x108) 8 1 = 1)
    ((s.part p).state ≠ .free → exec (.partCreate part) s = .next (partResult s p 5)) ∧
    ((s.part p).state = .free →
      (wants = true → (s.chip.sealedCap = false ∨ s.sec.level = 2) → exec (.partCreate part) s = .next (partResult s p 2)) ∧
      ((wants = false ∨ s.chip.sealedCap = true ∧ s.sec.level ≠ 2) →
        (mapsEmpty s p = true → exec (.partCreate part) s = .next (partResult s p 2)) ∧
        (mapsEmpty s p = false → mapsTaken s p = true → exec (.partCreate part) s = .next (partResult s p 3)) ∧
        (mapsEmpty s p = false → mapsTaken s p = false → quotaBytes (takeMaps s p) p < partCharge (takeMaps s p) p →
          exec (.partCreate part) s = .next (partResult s p 6)) ∧
        (mapsEmpty s p = false → mapsTaken s p = false → partCharge (takeMaps s p) p ≤ quotaBytes (takeMaps s p) p → ∃ k n : Nat,
          exec (.partCreate part) s = .next (serveUpdate (partResult (wr ({ takeMaps s p with free := n }.setPart p { s.part p with
            state := .live, sealed := rdf s (pgPart p + 0x108) 8 1 = 1, keys := some k, chain := List.replicate 32 0, pstart := stewardUs s, pfirst := partC s p })
              (pgPart p + 0x118) (partC s p)) p 0)))))) ∧
  (∀ (part : Fin 32) (s : State), HostMay s (pgPart part.val) → (s.part part.val).busy = false → s.stw.rm ≠ .running →
    exec (.partCreate part) s = .next (partResult s part.val 1) ∧ exec (.partApplyMaps part) s = .next (partResult s part.val 1) ∧
    exec (.partReset part) s = .next (partResult s part.val 1) ∧ exec (.partDestroy part) s = .next (partResult s part.val 1)) ∧
  (∀ (part : Fin 32) (s : State), HostMay s (pgPart part.val) → (s.part part.val).busy = true →
    exec (.partCreate part) s = .next s ∧ exec (.partApplyMaps part) s = .next s ∧ exec (.partReset part) s = .next s ∧ exec (.partDestroy part) s = .next s) ∧
  (∀ (s : State) (p : Nat) (k : Nat), (tget? (takeMaps s p).tileOwner k = if k ∈ stagedTiles s p then some p else tget? s.tileOwner k))) ∧
  ((∀ (part : Fin 32) (s : State), HostMay s (pgPart part.val) → (s.part part.val).busy = false → RmTakes s 0 →
    let p := part.val
    ((s.part p).state ≠ .live → (s.part p).state ≠ .fenced → exec (.partApplyMaps part) s = .next (partResult s p 5)) ∧
    (((s.part p).state = .live ∨ (s.part p).state = .fenced) →
      (mapsEmpty s p = true → exec (.partApplyMaps part) s = .next (partResult s p 2)) ∧
      (mapsEmpty s p = false → mapsTaken s p = true → exec (.partApplyMaps part) s = .next (partResult s p 3)) ∧
      let gains := (partStacks (takeMaps s p) p).any (fun k => !(partStacks s p).contains k)
      (mapsEmpty s p = false → mapsTaken s p = false → gains = true → quotaBytes (takeMaps s p) p < partCharge (takeMaps s p) p →
        exec (.partApplyMaps part) s = .next (partResult s p 6)) ∧
      (mapsEmpty s p = false → mapsTaken s p = false → (gains = false ∨ partCharge (takeMaps s p) p ≤ quotaBytes (takeMaps s p) p) →
        let rt := (partTiles s p).filter (fun k => !(stagedTiles s p).contains k)
        let rw := (partWays s p).filter (fun k => !(stagedWays s p).contains k)
        let rp := (partPcKeys s p).filter (fun k => !(stagedPcs s p).contains k)
        let s2 := (takeMaps s p).setPart p { s.part p with rmTiles := rt, rmWays := rw, rmPcs := rp,
                                                            busy := !(rt.isEmpty && rw.isEmpty && rp.isEmpty),
                                                            before := some (partTiles s p, partWays s p, partPcKeys s p) }
        let s3 := backToRoom s2 (fun q => rp.contains (64 * q.stack + q.pc))
        (canMoveOut s2 p = true → exec (.partApplyMaps part) s =
          .next (partResult ((rp.flatMap (fun k => drawersIn s3 (k / 64) (k % 64))).foldl moveOut s3) p 0)) ∧
        (canMoveOut s2 p = false → exec (.partApplyMaps part) s = .next (partResult s p 4))))) ∧
  (∀ (part : Fin 32) (s : State), ((s.part part.val).state = .live ∨ (s.part part.val).state = .fenced) →
    let p := part.val
    let s0 := ((s.part p).rmPcs.flatMap (fun k => drawersIn s (k / 64) (k % 64))).foldl moveOut s
    let tiles := (s.part p).rmTiles.filter (fun k => (tileRuns s0 k).isEmpty)
    let ways := (s.part p).rmWays.filter (fun w => !wayBusy s0 p w)
    let pcs := (s.part p).rmPcs.filter (fun k => (drawersIn s0 (k / 64) (k % 64)).isEmpty && !segmentIn s0 (k / 64) (k % 64))
    let u := pcs.foldl (fun s k => freePc (moveData s (k / 64) (k % 64)) k) { s0 with
      tileOwner := s0.tileOwner.filter (fun e => !tiles.contains e.1), wayOwner := s0.wayOwner.filter (fun e => !ways.contains e.1) }
    let t := u.part p
    let rt := t.rmTiles.filter (fun k => !tiles.contains k)
    let rw := t.rmWays.filter (fun w => !ways.contains w)
    let rp := t.rmPcs.filter (fun k => !pcs.contains k)
    let gone := rt.isEmpty && rw.isEmpty && rp.isEmpty
    exec (.mapRemovalDone part) s = .next (u.setPart p { t with rmTiles := rt, rmWays := rw, rmPcs := rp, busy := t.busy && !gone,
                                                                before := if gone then none else t.before })) ∧
  (∀ (part : Fin 32) (s : State), (s.part part.val).state ≠ .live → (s.part part.val).state ≠ .fenced → exec (.mapRemovalDone part) s = .next s))

/-- R108, R393, R394, R430: A reset ends every request of its partition with `ABORTED`; once nothing of it is left, its rings go on from their producer
index and the partition is as it was, `LIVE` or `FENCED`. A destruction ends every request, gives up rings, objects, shelves and extents in its steps,
clears the resources and erases the keys; then the partition is `FREE`. Where the condition of a command does not hold the state stays as it is (log
entry 99). Commands whose next state it gives: `partDestroy`, `partDestroyDone`, `partReset`, `partResetDone`. -/
def Obligations.PartitionsAreResetAndDestroyed : Prop :=
  ((∀ (part : Fin 32) (s : State), HostMay s (pgPart part.val) → (s.part part.val).busy = false → RmTakes s 0 →
    (((s.part part.val).state = .live ∨ (s.part part.val).state = .fenced) → exec (.partReset part) s = .next (abortPart (s.setPart part.val
      { s.part part.val with state := .resetting, wasFenced := decide ((s.part part.val).state = .fenced), busy := true }) part.val)) ∧
    ((s.part part.val).state ≠ .live → (s.part part.val).state ≠ .fenced → exec (.partReset part) s = .next (partResult s part.val 5))) ∧
  (∀ (part : Fin 32) (s : State), (s.part part.val).state = .resetting → partQuiet s part.val = true → ∃ u : State,
    exec (.partResetDone part) s = .next u ∧ (u.part part.val).state = (if (s.part part.val).wasFenced then .fenced else .live) ∧ (u.part part.val).busy = false ∧
    rdf u (pgPart part.val + 0x104) 4 3 = 0 ∧ (∀ r : Nat, tget? u.rings r = (tget? s.rings r).map (fun g => if g.part = part.val then { g with ci := g.pi, srcs := [] } else g)) ∧
    u.dir = s.dir ∧ u.objects = s.objects) ∧
  (∀ (part : Fin 32) (s : State), ((s.part part.val).state ≠ .resetting ∨ partQuiet s part.val = false) → exec (.partResetDone part) s = .next s)) ∧
  ((∀ (part : Fin 32) (s : State), HostMay s (pgPart part.val) → (s.part part.val).busy = false → RmTakes s 0 →
    ((s.part part.val).state = .free ∨ (s.part part.val).state = .destroying → exec (.partDestroy part) s = .next (partResult s part.val 5)) ∧
    ((s.part part.val).state ≠ .free → (s.part part.val).state ≠ .destroying →
      let s1 := abortPart (s.setPart part.val { s.part part.val with state := .destroying, busy := true, step := 1 }) part.val
      let s2 := { s1 with rings := s1.rings.map (fun (e : Nat × Ring) => if e.2.part = part.val then (e.1, { e.2 with destroying := true }) else e) }
      exec (.partDestroy part) s = .next ((s2.dir.shelves.filter (fun e => decide (e.2.key.part = part.val) && decide (e.2.state = .live))).foldl
        (fun s e => mirrorDrop s e.2) s2))) ∧
  (∀ (part : Fin 32) (s : State), (s.part part.val).state ≠ .destroying → exec (.partDestroyDone part) s = .next s) ∧
  (∀ (part : Fin 32) (s : State), (s.part part.val).state = .destroying → (s.part part.val).step = 2 → ringsOf s part.val = [] →
    s.cxl.ext.any (fun e => decide (e.2.part = part.val) && decide (e.2.state ≠ .free)) = false → exec (.partDestroyDone part) s = .next (destroyEnd s part.val)) ∧
  (∀ (part : Fin 32) (s : State), (s.part part.val).state = .destroying → (s.part part.val).step = 1 → ringsOf s part.val = [] →
    partQuiet s part.val = true → dropsSent s part.val = true →
    let u := destroyObjects (s.setPart part.val { s.part part.val with step := 2 }) part.val
    exec (.partDestroyDone part) s = .next (if (u.part part.val).step = 2 ∧
      u.cxl.ext.any (fun e => decide (e.2.part = part.val) && decide (e.2.state ≠ .free)) = false then destroyEnd u part.val else u)) ∧
  (∀ (s : State) (p : Nat), (∀ e ∈ (destroyObjects s p).objects, e.1 / 65536 ≠ p) ∧ (∀ e ∈ (destroyObjects s p).links, e.2.part ≠ p) ∧
    (∀ e ∈ (destroyObjects s p).pulls, e.2.key.part ≠ p) ∧ (∀ e ∈ (destroyObjects s p).vidx, e.2.part ≠ p)) ∧
  (∀ (s : State) (p : Nat), (destroyEnd s p).part p = {} ∧ (∀ e ∈ (destroyEnd s p).tileOwner, e.2 ≠ p) ∧ (∀ e ∈ (destroyEnd s p).wayOwner, e.2 ≠ p)))

/-- R124, R140-R147, R284, R149, R154, R155: A run whose turn it is goes to a tile that may take it and that no better tile precedes. On its scheduler's
own die it starts once a segment is at hand; a tile of another die's has it handed to that die's scheduler. A run whose K drawers all lie in one front
stack starts on that stack's booths where the controller accepts it, and its refusal is counted. An uncorrectable error of the scheduler ends the
request. A request that has waited more than 100 µs is urgent. Pass N takes a run whose score plane is whole, and Pass V a run that has ended Pass N
and awaits no drawer; a segment that cannot be read is a score-sheet failure, a damaged drawer or an uncorrectable error of the tile store ends the
request with `INTEGRITY`. Pass N finds m as the largest score. The form of the turns is the model's (log entries 39 and 139). Where the condition of a
command does not hold the state stays as it is (log entry 99). Commands whose next state it gives: `bucketWaitExceeded`, `runDispatch`, `passN`,
`passV`. -/
def Obligations.RunsGoThroughTheirPasses : Prop :=
  ((∀ (req run : Nat) (tile : Fin 192) (s : State) (r : Req) (x : Run) (i b : Nat) (sh : Shelf), noService s = false → tget? s.reqs req = some r → r.srch = none →
    r.runs[run]? = some x → r.shelf = some i → s.shelf? i = some sh → r.bucket = some b → x.phase = .queued → hasTurn s req r (queueDie r x) = true →
    tileOk s r.part req (queueDie r x) b tile.val = true → tileBest s sh r.part req (queueDie r x) b x tile.val = true →
    ((runDrawers x).any (unreachable s sh) = true → exec (.runDispatch req run (some tile)) s = .next (endAttend s req r { status := 0x20 })) ∧
    ((runDrawers x).any (unreachable s sh) = false → tile.val / 48 ≠ queueDie r x → exec (.runDispatch req run (some tile)) s =
      .next (handOver (passTurn s r.part (queueDie r x) b r.urgent) req r run (tile.val / 48))) ∧
    ((runDrawers x).any (unreachable s sh) = false → tile.val / 48 = queueDie r x → exec (.runDispatch req run (some tile)) s =
      .next (startRun s req r i sh run x b tile.val))) ∧
  (∀ (s : State) (req i run b tile : Nat) (r : Req) (sh : Shelf) (x : Run),
    let n := segBytes sh (reqG r.desc) x
    let s0 := passTurn { yieldThread s tile with tileTag := tput s.tileTag tile b } r.part (queueDie r x) b r.urgent
    let r0 := (tget? s0.reqs req).getD r
    let x0 := { x with phase := .scoring, tile := tile, thread := freeThread s0 tile }
    let onTile := r.boothOk = false ∨ (s.part r.part).sealed = true ∨ s.chip.boothCap = false ∨ x.stack.filter isFront = none
    let takes : Nat → Option (Nat × Nat × Bool) := fun f =>
      if segFits s r.part f n && x.drawers.all (fun j => decide (kStack sh x.head j = some f)) then acceptRun s req r sh x f else none
    (∀ k seg : Nat, ∀ s1 : State, onTile → tileSeg s r.part (tile / 48) n = some k → drawSeg s0 r.part k = (seg, s1) →
      startRun s req r i sh run x b tile = startTiles s1 req r0 i sh run { x0 with segStack := some k, seg := seg }) ∧
    (onTile → tileSeg s r.part (tile / 48) n = none → startRun s req r i sh run x b tile = s) ∧
    (∀ f sc sl seg : Nat, ∀ (h : Bool) (s1 : State), ¬ onTile → x.stack.filter isFront = some f → takes f = some (sc, sl, h) → drawSeg s0 r.part f = (seg, s1) →
      startRun s req r i sh run x b tile = startBooths s1 req r0 i sh run { x0 with segStack := some f, seg := seg } f sc sl h) ∧
    (∀ f k seg : Nat, ∀ s1 : State, ¬ onTile → x.stack.filter isFront = some f → takes f = none → tileSeg s r.part (tile / 48) n = some k →
      drawSeg (bump s0 (pgBth f 0 + 0x118) 0 32 1) r.part k = (seg, s1) →
      startRun s req r i sh run x b tile = startTiles s1 req r0 i sh run { x0 with segStack := some k, seg := seg })) ∧
  (∀ (req run : Nat) (s : State) (r : Req), noService s = false → tget? s.reqs req = some r → r.srch = none → dOpcode r.desc = 0x01 →
    exec (.runDispatch req run none) s = .next (endAttend s req r { status := 0x22 })) ∧
  (∀ (req run : Nat) (tile : Option (Fin 192)) (s : State), (noService s = true ∨ tget? s.reqs req = none) → exec (.runDispatch req run tile) s = .next s) ∧
  (∀ (req : Nat) (s : State) (r : Req), tget? s.reqs req = some r →
    (inBucket r = true → r.since + 100000 < s.time.ns → exec (.bucketWaitExceeded req) s = .next (s.setReq req { r with urgent := true })) ∧
    ((inBucket r = false ∨ s.time.ns ≤ r.since + 100000) → exec (.bucketWaitExceeded req) s = .next s))) ∧
  ((∀ (req : Nat) (a : RunAt) (s : State) (r : Req) (x : Run) (i : Nat) (sh : Shelf), noService s = false → tget? s.reqs req = some r →
    r.runs[a.run]? = some x → r.shelf = some i → s.shelf? i = some sh →
    (x.phase = .scoring → scored x = true → a.upset = true → exec (.passN req a) s = .next (endAttend s req r { status := 0x22 })) ∧
    (∀ s1 : State, x.phase = .scoring → scored x = true → a.upset = false → readSegment s req a.run x = (true, s1) →
      exec (.passN req a) s = .next (s1.setReq req (setRun r a.run (passNRun sh r x)))) ∧
    (∀ s1 : State, x.phase = .scoring → scored x = true → a.upset = false → readSegment s req a.run x = (false, s1) →
      exec (.passN req a) s = .next (sheetFailure s1 req r (x.tile / 12))) ∧
    ((x.phase ≠ .scoring ∨ scored x = false) → exec (.passN req a) s = .next s) ∧
    (x.phase = .normed → x.coldLeft = [] → a.upset = true → exec (.passV req a) s = .next (endAttend s req r { status := 0x22 })) ∧
    (x.phase = .normed → x.coldLeft = [] → a.upset = false →
      let vs := ((runV x).filterMap (fun v => getDrawer sh (2 * x.head + 1) v)).filter (fun d => !x.coldRead.contains (d.series, d.idx))
      (∀ (w : Nat × Nat) (s0 : State), readDrawers s vs = (some w, s0) → exec (.passV req a) s = .next (runIntegrity s0 req r i x.tile (.inl w))) ∧
      (∀ s0 : State, readDrawers s vs = (none, s0) →
        ((runV x).any (fun v => unreachable s0 sh (2 * x.head + 1, v)) = true → exec (.passV req a) s = .next (endAttend s0 req r { status := 0x20 })) ∧
        (∀ s1 : State, (runV x).any (fun v => unreachable s0 sh (2 * x.head + 1, v)) = false →
          (readSegment s0 req a.run x = (false, s1) → exec (.passV req a) s = .next (sheetFailure s1 req r (x.tile / 12))) ∧
          (readSegment s0 req a.run x = (true, s1) → exec (.passV req a) s = .next (passVDone s1 req a.run r i sh x vs))))) ∧
    ((x.phase ≠ .normed ∨ x.coldLeft ≠ []) → exec (.passV req a) s = .next s)) ∧
  (∀ (req : Nat) (a : RunAt) (s : State), (noService s = true ∨ tget? s.reqs req = none) → exec (.passN req a) s = .next s ∧ exec (.passV req a) s = .next s) ∧
  (∀ (sh : Shelf) (r : Req) (x : Run) (j : Nat), j < reqG r.desc →
    (passNRun sh r x).m[j]? = some ((progScores sh r x j).foldl (fun a e => fmax a e.2) negInf) ∧ (passNRun sh r x).phase = .normed ∧
    (passNRun sh r x).n = (runPositions sh r x).length) ∧
  (∀ (s : State) (req run i : Nat) (r : Req) (sh : Shelf) (x : Run) (vs : List Drawer), r.runs[run]? = some x →
    ∃ (q : Req) (y : Run), tget? (passVDone s req run r i sh x vs).reqs req = some q ∧ q.runs[run]? = some y ∧ y.phase = .done ∧ y.o = passVRun sh r x ∧
      y.segStack = none ∧ y.m = x.m ∧ y.l = x.l ∧ q.desc = r.desc ∧ q.sel = r.sel))

/-- R157, R180-R188, R167, R168: Once every run has ended its partials are combined and the block is delivered: with `OK` for `DENSE` and `TOPM`, and for
`NET` with the status with which the loop has stopped: `OK` where every omission bound is within the request's, `PARTIAL_BOUND` where nothing more may
be scored. The sums that a bound rests on are those of the block. A score-sheet failure raises its event; the first of a request starts its rounds
again, without booths and marked as retried, the second ends it with `SCRATCH_LOST`. Where the condition of a command does not hold the state stays as
it is (log entry 99). Commands whose next state it gives: `combine`, `netLoopCheck`, `scoreSheetFailure`. -/
def Obligations.AttendsFinishOrRetry : Prop :=
  ((∀ (req : Nat) (s : State) (r : Req) (i : Nat) (sh : Shelf), noService s = false → tget? s.reqs req = some r → r.shelf = some i → s.shelf? i = some sh →
    dOpcode r.desc = 0x01 → r.bucket ≠ none → r.runs.all (fun x => decide (x.phase = .done)) = true →
    (reqMode r.desc = 0 → ∃ order n : Nat, exec (.combine req) s = .next (finishAttend { s with free := n } req r i sh 0x00 order [])) ∧
    (reqMode r.desc = 1 → ∃ order n : Nat, exec (.combine req) s = .next (finishAttend { s with free := n } req r i sh 0x00 order (epsHats sh r order))) ∧
    (∀ st : Nat, 2 ≤ reqMode r.desc → r.sel.stopped = some st → exec (.combine req) s = .next (finishAttend s req r i sh st r.sel.pairing r.sel.eps)) ∧
    (2 ≤ reqMode r.desc → r.sel.stopped = none → exec (.combine req) s = .next s)) ∧
  (∀ (req : Nat) (s : State), (noService s = true ∨ tget? s.reqs req = none ∨
    ∃ r, tget? s.reqs req = some r ∧ r.runs.all (fun x => decide (x.phase = .done)) = false) → exec (.combine req) s = .next s) ∧
  (∀ (req : Nat) (s : State) (r : Req) (i : Nat) (sh x : Shelf), noService s = false → tget? s.reqs req = some r → r.shelf = some i → s.shelf? i = some sh →
    dOpcode r.desc = 0x01 → reqMode r.desc = 2 → r.bucket ≠ none → r.sel.stopped = none → roundsNormed r = true → (readSums s i).shelf? i = some x →
    ∃ (order n : Nat) (q : Req), exec (.netLoopCheck req) s = .next ({ readSums s i with free := n }.setReq req q) ∧
      q.sel.eps = epsHats x r order ∧ q.sel.pairing = order ∧
      ((epsHats x r order).all (fun e => !flt (reqEps r.desc) e) = true →
        q = { r with sel := { r.sel with eps := epsHats x r order, pairing := order, stopped := some 0x00 } }) ∧
      ((epsHats x r order).all (fun e => !flt (reqEps r.desc) e) = false →
        q.sel.stopped = some 0x02 ∨ (q.sel.stopped = none ∧ q.sel.round = r.sel.round + 1))) ∧
  (∀ (req : Nat) (s : State), (noService s = true ∨ tget? s.reqs req = none) → exec (.netLoopCheck req) s = .next s)) ∧
  ((∀ (req : Nat) (s : State) (r : Req) (x : Run), noService s = false → tget? s.reqs req = some r → segRuns s r = [x] →
    exec (.scoreSheetFailure req) s = .next (sheetFailure { s with free := s.free + 1 } req r (x.tile / 12))) ∧
  (∀ (req : Nat) (s : State) (r : Req) (x y : Run) (l : List Run), noService s = false → tget? s.reqs req = some r → segRuns s r = x :: y :: l →
    ∃ z ∈ segRuns s r, exec (.scoreSheetFailure req) s = .next (sheetFailure { s with free := s.free + 1 } req r (z.tile / 12))) ∧
  (∀ (req : Nat) (s : State), (noService s = true ∨ tget? s.reqs req = none ∨ ∃ r, tget? s.reqs req = some r ∧ segRuns s r = []) →
    exec (.scoreSheetFailure req) s = .next s) ∧
  (∀ (s : State) (id c : Nat) (r : Req), 1 ≤ r.fails → ∃ u : State, sheetFailure s id r c = failReq u id r { status := 0x21 }) ∧
  (∀ (s : State) (id c : Nat) (r : Req) (sh : Shelf), r.fails = 0 → reqShelf (dropReqJobs (raise s (pgTcl c) 0 []) id) r = some sh →
    ∃ (u : State) (q : Req), q.fails = 1 ∧ q.retried = true ∧ q.booth = false ∧ q.desc = r.desc ∧ q.snap = r.snap ∧ q.lo = r.lo ∧
      (sheetFailure s id r c = u.setReq id q ∨ sheetFailure s id r c = failReq u id q { status := 0x20 })))

/-- R194, R196, R202, R195, R200-R202, R207: The micro-ops that move data. `NOP` only goes on; `ACT` opens a row of the drawer, at most one for each bank
and two in all; `RD` waits for its row and takes the next 32 bytes into the window, zeros beyond the drawer; a line that it corrects is counted and
told the controller, and one that it finds uncorrectable ends its job. A booth that was parked has its rows open again. `SETI` and `ADDI` write an S
register; `LOOP` counts one down and goes back to `TGT` while it is not 0. The micro-ops that compute. `EXP` widens 16 elements into a V register, or
loads a group's scale and zero; `DOTG` adds the products of a V register with each head's query; `GSC` applies a group's scale and clears its source;
`SST` hands scaled scores to the collector and clears its accumulator; `END` ends the job and counts it. A LOOP target is absolute (log entry 44).
Where the condition of a command does not hold the state stays as it is (log entry 99). Commands whose next state it gives: `uopNop`, `uopAct`,
`uopRd`, `uopExp`, `uopDotg`, `uopGsc`, `uopSst`, `uopSeti`, `uopAddi`, `uopLoop`, `uopEnd`. -/
def Obligations.MicroOpsRun : Prop :=
  ((∀ (b : Fin 4096) (s : State) (j : Job) (w : Nat), Issues s b.val 0x00 j w → exec (.uopNop b) s = .next (putBooth s b.val (stepNext (resume (s.booth b.val)) w))) ∧
  (∀ (b : Fin 4096) (s : State) (j : Job) (w : Nat), Issues s b.val 0x01 j w →
    (uAddr (resume (s.booth b.val)) w < 32768 → exec (.uopAct b) s = .next (putBooth s b.val (stepNext
      { resume (s.booth b.val) with rows := actRows (resume (s.booth b.val)).rows (uAddr (resume (s.booth b.val)) w / 1024) } w))) ∧
    (32768 ≤ uAddr (resume (s.booth b.val)) w → exec (.uopAct b) s = .next (putBooth s b.val (stepNext (resume (s.booth b.val)) w)))) ∧
  (∀ (rows : List Nat) (k : Nat), k ∈ actRows rows k ∧ (k ∉ rows → (actRows rows k).length ≤ 2 ∧ ∀ x ∈ actRows rows k, x ≠ k → x % 8 ≠ k % 8)) ∧
  (∀ (b : Fin 4096) (s : State) (j : Job) (w : Nat), Issues s b.val 0x02 j w →
    let a := uAddr (resume (s.booth b.val)) w
    let line := (placeLines (jobPlace b.val j)).1 + a / 32 / 2
    (32768 ≤ a → exec (.uopRd b) s = .next (putBooth s b.val (stepNext (pushWindow (resume (s.booth b.val)) (a / 32) (List.replicate 32 0)) w))) ∧
    (a < 32768 → (resume (s.booth b.val)).rows.contains (a / 1024) = false → exec (.uopRd b) s = .next s) ∧
    (a < 32768 → (resume (s.booth b.val)).rows.contains (a / 1024) = true →
      (boothLine s (bthStack b.val) line).1 ≠ .good → (boothLine s (bthStack b.val) line).1 ≠ .fixed →
      exec (.uopRd b) s = .next (keyUncorr (boothLine s (bthStack b.val) line).2 b.val (resume (s.booth b.val)) j line)) ∧
    (∀ (i : Nat) (d : Drawer) (o : LineOut) (s1 : State), a < 32768 → (resume (s.booth b.val)).rows.contains (a / 1024) = true →
      boothLine s (bthStack b.val) line = (o, s1) → (o = .good ∨ o = .fixed) → drawerAt s1 (jobPlace b.val j) = some (i, d) → exec (.uopRd b) s =
        .next (putBooth s1 b.val (stepNext (pushWindow (resume (s.booth b.val)) (a / 32) (padTo (bslice d.data (32 * (a / 32)) 32) 32)) w)))) ∧
  (∀ (s : State) (f line : Nat),
    (lineOut s f line = .good → boothLine s f line = (.good, readOnce s f line)) ∧
    (lineOut s f line = .fixed → boothLine s f line = (.fixed, (readLine (bump (readOnce s f line) (pgBth f 0 + 0x11C) 0 16 1) f line).2)) ∧
    (lineOut s f line = .poison → boothLine s f line = (.poison, s)) ∧
    (∀ o : LineOut, lineOut s f line = o → o ≠ .good → o ≠ .fixed → o ≠ .poison → boothLine s f line = (o, lineUncorr s f line (decide (o = .tag))))) ∧
  (∀ y : Booth, (resume y).park = .no ∧ (resume y).held = [] ∧ (∀ k, k ∈ y.held → k ∈ (resume y).rows) ∧ (y.held = [] → (resume y).rows = y.rows)) ∧
  (∀ (b : Fin 4096) (s : State) (j : Job) (w : Nat), Issues s b.val 0x08 j w → exec (.uopSeti b) s = .next (putBooth s b.val (stepNext
    { resume (s.booth b.val) with sc := modAt (fun _ => BitVec.ofNat 32 (bits w 0 16)) (bits w 20 3) (resume (s.booth b.val)).sc } w))) ∧
  (∀ (b : Fin 4096) (s : State) (j : Job) (w : Nat), Issues s b.val 0x09 j w → exec (.uopAddi b) s = .next (putBooth s b.val (stepNext
    { resume (s.booth b.val) with sc := modAt (fun v => v + (BitVec.ofNat 16 (bits w 0 16)).signExtend 32) (bits w 20 3) (resume (s.booth b.val)).sc } w))) ∧
  (∀ (b : Fin 4096) (s : State) (j : Job) (w : Nat), Issues s b.val 0x0A j w →
    let n := (resume (s.booth b.val)).sc.getD (bits w 20 3) 0 - 1
    exec (.uopLoop b) s = .next (putBooth s b.val (stepTo { resume (s.booth b.val) with sc := modAt (fun _ => n) (bits w 20 3) (resume (s.booth b.val)).sc } w
      (if n = 0 then (resume (s.booth b.val)).entry + 1 else bits w 0 6) true)))) ∧
  ((∀ (b : Fin 4096) (s : State) (j : Job) (w : Nat), Issues s b.val 0x03 j w →
    let y := resume (s.booth b.val)
    let r := leNat (winBytes y (uAddr y w) 4)
    let x := expand (le (jobDesc s b.val j) 2 1) (jobSlot s b.val j).cfmt y.cb y (uAddr y w)
    (bit w 19 = true → exec (.uopExp b) s = .next (putBooth s b.val (stepNext { y with
      sc := modAt (fun _ => ofInt (ofTwos 8 (r / 0x10000 % 256))) 7 (modAt (fun _ => ofBf16 (BitVec.ofNat 16 (r % 0x10000))) 6 y.sc) } w))) ∧
    (bit w 19 = false → exec (.uopExp b) s = .next (putBooth (if x.2 then raise s (pgBth (bthStack b.val) 0) 4 [] else s) b.val
      (stepNext { y with v := modAt (fun _ => x.1) (bits w 23 3) y.v } w)))) ∧
  (∀ (b : Fin 4096) (s : State) (j : Job) (w : Nat), Issues s b.val 0x04 j w →
    let y := resume (s.booth b.val)
    let sl := jobSlot s b.val j
    ∃ new : List F32, exec (.uopDotg b) s = .next (putBooth s b.val (stepNext { y with a := modAt (fun _ => new) (bits w 24 2) y.a } w)) ∧
      ∀ h : Nat, h < 16 → new[h]? = some (if h < sl.g then fadd ((y.a.getD (bits w 24 2) []).getD h 0) (tree16
        ((((y.v.getD (bits w 21 3) []).map (ofC sl.cfmt)).zip (((sl.query.drop (h * sl.d + 16 * bits w 0 4)).take 16).map (ofC sl.cfmt))).map (fun e => fmul e.1 e.2)))
        else (y.a.getD (bits w 24 2) []).getD h 0)) ∧
  (∀ (b : Fin 4096) (s : State) (j : Job) (w : Nat), Issues s b.val 0x05 j w →
    let y := resume (s.booth b.val)
    let sl := jobSlot s b.val j
    let n := jobGroups (le (jobDesc s b.val j) 2 1) sl.d
    ∃ new : List F32, exec (.uopGsc b) s = .next (putBooth s b.val (stepNext
        { y with a := modAt (fun _ => List.replicate 16 0) (bits w 22 2) (modAt (fun _ => new) (bits w 24 2) y.a) } w)) ∧
      ∀ h : Nat, h < 16 → new[h]? = some (if h < sl.g then fadd ((y.a.getD (bits w 24 2) []).getD h 0) (fmul (y.sc.getD 6 0)
        (fsub ((y.a.getD (bits w 22 2) []).getD h 0) (fmul (y.sc.getD 7 0) (sl.sums.getD (h * n + bits w 0 4) 0)))) else (y.a.getD (bits w 24 2) []).getD h 0)) ∧
  (∀ (b : Fin 4096) (s : State) (j : Job) (w : Nat), Issues s b.val 0x06 j w →
    let y := resume (s.booth b.val)
    let sl := jobSlot s b.val j
    exec (.uopSst b) s = .next (putBooth (collect s j (uAddr y w) ((List.range sl.g).map (fun h => fmul sl.cd ((y.a.getD (bits w 24 2) []).getD h 0)))) b.val
      (stepNext { y with a := modAt (fun _ => List.replicate 16 0) (bits w 24 2) y.a } w))) ∧
  (∀ (b : Fin 4096) (s : State) (j : Job) (w : Nat), Issues s b.val 0x0B j w → (resume (s.booth b.val)).stopReq = false →
    exec (.uopEnd b) s = .next (bump (putBooth s b.val { stepTo (resume (s.booth b.val)) w (resume (s.booth b.val)).entry true with ended := true })
      (pgBth (bthStack b.val) 0 + 0x110) 0 32 1)) ∧
  (∀ (s : State) (c : Instr) (b : Fin 4096) (op : Nat),
    (c, op) ∈ [(Instr.uopNop b, 0x00), (.uopAct b, 0x01), (.uopRd b, 0x02), (.uopExp b, 0x03), (.uopDotg b, 0x04), (.uopGsc b, 0x05), (.uopSst b, 0x06), (.uopSeti b, 0x08),
      (.uopAddi b, 0x09), (.uopLoop b, 0x0A), (.uopEnd b, 0x0B)] →
    (∀ (j : Job) (w : Nat), ¬ Issues s b.val op j w) → exec c s = .next s))

/-- R199, R207, R222, R223, R198, R203, R204: A job starts on an idle booth of its partition with its registers cleared, and is done once its scores have
been collected; a soft fault starts it again once, and a second one, a time-out, or a self-check failed in `TRAIN`, disables the booth: its queue is
emptied, the score lines of its jobs are poisoned and the jobs are reported done. A job of an attempt that has ended writes nothing. The ringmaster
alone loads scripts. A word is written where no valid or busy script holds the entry; a descriptor with `VALID` is installed where its script keeps
the rules, and refused with `SCRIPT_BAD` otherwise; one without `VALID` is installed, of a busy script only that it is no longer valid. Where the
condition of a command does not hold the state stays as it is (log entry 99). Commands whose next state it gives: `boothJobStart`, `collectorJobDone`,
`boothRestart`, `boothJobTimeout`, `scriptWindowWrite`, `scriptDescriptorWrite`. -/
def Obligations.BoothJobsAndScripts : Prop :=
  ((∀ (b : Fin 4096) (s : State) (j : Job) (rest : List Job), (s.booth b.val).queue = j :: rest →
    (noService s = false → (s.booth b.val).disabled = false → (s.booth b.val).job = none → (s.booth b.val).park = .no → dieRefresh s b.val = none →
      bthPart s b.val = some (jobSlot s b.val j).part → ∃ y : Booth, exec (.boothJobStart b) s = .next (s.setBooth b.val y) ∧
        y.job = some j ∧ y.queue = rest ∧ y.entry = bits (le (jobDesc s b.val j) 0 1) 0 6 ∧ y.a = List.replicate 4 (List.replicate 16 0) ∧
        y.sc.getD 1 0 = BitVec.ofNat 32 (ceilDiv j.count (max (le (jobDesc s b.val j) 6 1) 1)) ∧ y.restarted = false) ∧
    ((noService s = true ∨ (s.booth b.val).disabled = true ∨ (s.booth b.val).job ≠ none ∨ (s.booth b.val).park ≠ .no ∨ dieRefresh s b.val ≠ none ∨
      bthPart s b.val ≠ some (jobSlot s b.val j).part) → exec (.boothJobStart b) s = .next s)) ∧
  (∀ (b : Fin 4096) (s : State), (s.booth b.val).queue = [] → exec (.boothJobStart b) s = .next s) ∧
  (∀ (b : Fin 4096) (s : State) (j : Job), (s.booth b.val).job = some j → noService s = false → (s.booth b.val).ended = true →
    let s1 := jobDone (putBooth (askLine s (bthStack b.val) (j.seg / 64)) b.val (noJob (s.booth b.val))) j false
    (jobReq s1 j = none → exec (.collectorJobDone b) s = .next s1) ∧
    (∀ (r : Req) (i : Nat) (x : Run), jobReq s1 j = some r → r.shelf = some i → r.runs[j.run]? = some x →
      exec (.collectorJobDone b) s = .next (reformSummary s1 i (2 * x.head) (x.drawers.getD j.place 0) r.lo r.snap))) ∧
  (∀ (b : Fin 4096) (s : State), (noService s = true ∨ (s.booth b.val).job = none ∨ (s.booth b.val).ended = false) → exec (.collectorJobDone b) s = .next s) ∧
  (∀ (b : Fin 4096) (s : State) (j : Job), noService s = false → (s.booth b.val).job = some j → (s.booth b.val).disabled = false →
    ((s.booth b.val).restarted = false → exec (.boothRestart b) s =
      .next (raise (s.setBooth b.val { freshJob s b.val (s.booth b.val) j with restarted := true }) (pgBth (bthStack b.val) 0) 1 [])) ∧
    ((s.booth b.val).restarted = true → exec (.boothRestart b) s = .next (disableBooth s b.val)) ∧
    exec (.boothJobTimeout b) s = .next (disableBooth s b.val)) ∧
  (∀ (b : Fin 4096) (s : State), (noService s = true ∨ (s.booth b.val).job = none) →
    exec (.boothRestart b) s = .next s ∧ (s.dev.state ≠ .train → exec (.boothJobTimeout b) s = .next s)) ∧
  (∀ (b : Fin 4096) (s : State), s.dev.state = .train → exec (.boothJobTimeout b) s = .next (disableBooth s b.val)) ∧
  (∀ (s : State) (b : Nat), (s.booth b).disabled = false →
    ((disableBooth s b).booth b).disabled = true ∧ ((disableBooth s b).booth b).job = none ∧ ((disableBooth s b).booth b).queue = []) ∧
  (∀ (s : State) (b : Nat), (s.booth b).disabled = true → disableBooth s b = s) ∧
  (∀ (s : State) (j : Job) (bad : Bool) (r : Req) (x : Run), jobReq s j = some r → r.runs[j.run]? = some x →
    jobDone s j bad = s.setReq j.req (setRun r j.run { x with jobsLeft := x.jobsLeft - 1, poisoned := x.poisoned || bad })) ∧
  (∀ (s : State) (f : Nat) (j : Job) (line : Nat), line ∈ scoreLines s f j → lineDrawer s f line = none →
    tget? (((poisonScores s f j).hbmc f).poison) line = some 2) ∧
  (∀ (s : State) (j : Job) (bad : Bool), jobReq s j = none → jobDone s j bad = s)) ∧
  ((∀ (f : Fin 8) (e : Fin 64) (v : Word) (s : State), s.stw.rm = .running → entryHeld s f.val e.val = false →
    exec (.scriptWindowWrite f e v) s = .next (s.setFstack f.val { s.fstack f.val with script := modAt (fun _ => v) e.val (s.fstack f.val).script })) ∧
  (∀ (f : Fin 8) (e : Fin 64) (v : Word) (s : State), (s.stw.rm ≠ .running ∨ entryHeld s f.val e.val = true) → exec (.scriptWindowWrite f e v) s = .next s) ∧
  (∀ (f i : Fin 8) (v : List Byte) (s : State), v.length = 8 → s.stw.rm = .running →
    let put : List Byte → State := fun x => s.setFstack f.val { s.fstack f.val with desc := modAt (fun _ => x) i.val (s.fstack f.val).desc }
    (bit (le v 5 1) 7 = true → scriptBusy s f.val i.val = false → scriptOk (s.fstack f.val).script v = true →
      exec (.scriptDescriptorWrite f i v) s = .next (put v)) ∧
    (bit (le v 5 1) 7 = true → scriptBusy s f.val i.val = false → scriptOk (s.fstack f.val).script v = false →
      exec (.scriptDescriptorWrite f i v) s = .next (raise s (pgBth f.val 0) 5 [])) ∧
    (bit (le v 5 1) 7 = true → scriptBusy s f.val i.val = true → exec (.scriptDescriptorWrite f i v) s = .next s) ∧
    (bit (le v 5 1) 7 = false → scriptBusy s f.val i.val = true → exec (.scriptDescriptorWrite f i v) s =
      .next (put (((s.fstack f.val).desc.getD i.val []).take 5 ++ leBytes 1 (le ((s.fstack f.val).desc.getD i.val []) 5 1 % 128) ++ ((s.fstack f.val).desc.getD i.val []).drop 6))) ∧
    (bit (le v 5 1) 7 = false → scriptBusy s f.val i.val = false → exec (.scriptDescriptorWrite f i v) s = .next (put v))) ∧
  (∀ (f i : Fin 8) (v : List Byte) (s : State), v.length = 8 → s.stw.rm ≠ .running → exec (.scriptDescriptorWrite f i v) s = .next s))

/-- R213-R216: Refresh. A bank without an open row is refreshed at once; one that a running booth holds open is postponed, at most to the fourth interval.
An all-bank refresh is issued once every running booth of its die is parked, and its completion lets them go on. A booth at a step end serves the
accesses that are queued for its pair, once between two step ends and with its rows in their banks closed, and then parks for what is due. Where the
condition of a command does not hold the state stays as it is (log entry 99). Commands whose next state it gives: `boothPark`, `perBankRefresh`,
`allBankRefresh`, `refreshComplete`. -/
def Obligations.BoothsParkForRefresh : Prop :=
  (∀ (b : Fin 4096) (bank : Fin 8) (s : State), (running (s.booth b.val) = false ∨ bankOpen (s.booth b.val) bank.val = false) →
    exec (.perBankRefresh b bank) s = .next (setOwed (noteLag s (bthStack b.val) (owed s b.val bank.val)) b.val bank.val 0)) ∧
  (∀ (b : Fin 4096) (bank : Fin 8) (s : State), running (s.booth b.val) = true → bankOpen (s.booth b.val) bank.val = true →
    let n := min 4 (owed s b.val bank.val + 1)
    let s1 := setOwed s b.val bank.val n
    (n < 3 → exec (.perBankRefresh b bank) s = .next s1) ∧
    (3 ≤ n → (s.booth b.val).atEnd = true → (s.booth b.val).park = .no → exec (.perBankRefresh b bank) s = .next (forceRefresh s1 b.val bank.val)) ∧
    (3 ≤ n → ((s.booth b.val).atEnd = false ∨ (s.booth b.val).park ≠ .no) →
      exec (.perBankRefresh b bank) s = .next (s1.setBooth b.val { s.booth b.val with askPark := true }))) ∧
  (∀ (f : Fin 8) (die : Fin 16) (s : State),
    (tget? (s.fstack f.val).abr die.val ≠ none → exec (.allBankRefresh f die) s = .next s) ∧
    (tget? (s.fstack f.val).abr die.val = none → (∀ q : Nat, q < 32 → running (s.booth (boothNo f.val (32 * die.val + q))) = false) →
      ∃ t : State, exec (.allBankRefresh f die) s = .next t ∧ t.booths = s.booths ∧ tget? (t.fstack f.val).abr die.val = some .issued) ∧
    (tget? (s.fstack f.val).abr die.val ≠ some .issued → exec (.refreshComplete f die) s = .next s) ∧
    (tget? (s.fstack f.val).abr die.val = some .issued → ∃ t : State, exec (.refreshComplete f die) s = .next t ∧ tget? (t.fstack f.val).abr die.val = none ∧
      (∀ q : Nat, q < 32 → (t.booth (boothNo f.val (32 * die.val + q))).park ≠ .refresh))) ∧
  (∀ (b : Fin 4096) (s s1 : State) (y : Booth), running (s.booth b.val) = true → (s.booth b.val).atEnd = true → (s.booth b.val).park ≠ .refresh →
    s1 = (if (s.booth b.val).waits ≠ [] ∧ (s.booth b.val).serviced = false then serve s b.val (s.booth b.val) else s) → s1.booth b.val = y →
    (dieRefresh s b.val = some .due → exec (.boothPark b) s = .next (issueRefresh (bump (s1.setBooth b.val { parkFor y .refresh (fun _ => true) with askPark := false })
      (pgBth (bthStack b.val) 0 + 0x114) 0 16 1) (bthStack b.val) (bthDie b.val))) ∧
    (dieRefresh s b.val ≠ some .due → y.askPark = true → exec (.boothPark b) s =
      .next ((forcedBanks s1 b.val y).foldl (fun s k => forceRefresh s b.val k) (s1.setBooth b.val { y with askPark := false }))) ∧
    (dieRefresh s b.val ≠ some .due → y.askPark = false → exec (.boothPark b) s = .next s1)) ∧
  (∀ (b : Fin 4096) (s : State), ((serve s b.val (s.booth b.val)).booth b.val).waits = [] ∧ ((serve s b.val (s.booth b.val)).booth b.val).serviced = true ∧
    ((serve s b.val (s.booth b.val)).booth b.val).park = .access ∧
    ∀ k, k ∈ ((serve s b.val (s.booth b.val)).booth b.val).rows ↔ k ∈ (s.booth b.val).rows ∧ k % 8 ∉ (s.booth b.val).waits) ∧
  (∀ (b : Fin 4096) (s : State), (running (s.booth b.val) = false ∨ (s.booth b.val).atEnd = false ∨ (s.booth b.val).park = .refresh) →
    exec (.boothPark b) s = .next s)

/-- R233-R236, R239, R248: Moves between tiers. Demotion of a tier starts below 1/64 of free places and stops at 1/32, and takes its oldest eligible
drawer; one to T2 waits for the other work of the cabinet; a move ends by the update of the locator, once no dispatched run reads the drawer; a visit
keeps a stamp at an age of at most 32,768 ms, and looks at the pins of the shelf. Where the condition of a command does not hold the state stays as it
is (log entry 99). Commands whose next state it gives: `demotion`, `moveEnd`, `tierVisit`. -/
def Obligations.DrawersMoveBetweenTiers : Prop :=
  (∀ (part : Fin 32) (t0 : Bool) (s : State),
    let total := tierTotal s part.val t0
    let free := tierFree s part.val t0
    let run := s.tiers.active.contains (part.val, t0)
    let on : State := if run then s else { s with tiers := { s.tiers with active := s.tiers.active ++ [(part.val, t0)] } }
    (run = true → total ≤ free * 32 → exec (.demotion part t0) s =
      .next { s with tiers := { s.tiers with active := s.tiers.active.filter (fun a => decide (a ≠ (part.val, t0))) } }) ∧
    (run = false → total ≤ free * 64 → exec (.demotion part t0) s = .next s) ∧
    ((run = true ∧ free * 32 < total ∨ run = false ∧ free * 64 < total) → t0 = false → cabFree s 5 = false → exec (.demotion part t0) s = .next s) ∧
    ((run = true ∧ free * 32 < total ∨ run = false ∧ free * 64 < total) → (t0 = true ∨ cabFree s 5 = true) → ∃ v : Nat,
      (∀ i series idx age : Nat, oldest (eligibles { on with free := s.free + 1 } part.val t0) v = some (i, series, idx, age) →
        exec (.demotion part t0) s = .next (startDemotion { on with free := s.free + 1 } part.val i series idx t0)) ∧
      (oldest (eligibles { on with free := s.free + 1 } part.val t0) v = none → exec (.demotion part t0) s = .next on))) ∧
  (∀ (shelf series idx : Nat) (s : State) (sh : Shelf) (d : Drawer) (l : Loc), s.shelf? shelf = some sh → getDrawer sh series idx = some d → d.moving = some l →
    (beingRead s shelf series idx = true → exec (.moveEnd shelf series idx) s = .next s) ∧
    (beingRead s shelf series idx = false →
      (∀ (w : Nat × Nat) (s0 : State), readDrawer s d = (some w, s0) → exec (.moveEnd shelf series idx) s = .next (damage (putDrawer s0 shelf { d with moving := none }) shelf (.inl w))) ∧
      (∀ s0 : State, readDrawer s d = (none, s0) →
        (∀ q : Place, (l = .hbm q ∨ ∃ u, l = .clean q u) → exec (.moveEnd shelf series idx) s = .next (settled (endHbmMove s0 shelf sh d l) shelf)) ∧
        (∀ n u : Nat, ∀ q : Place, ∀ s1 : State, l = .cab n → d.loc = .hbm q → s0.cab.readOnly = false → storeDrawer s0 shelf sh d = (u, s1) →
          exec (.moveEnd shelf series idx) s = .next (settled (bump (relocate s1 shelf series idx (.cab u)) (pgPart sh.key.part + 0x220) 16 16 1) shelf)) ∧
        (∀ n : Nat, ∀ q : Place, l = .cab n → d.loc = .hbm q → s0.cab.readOnly = true →
          exec (.moveEnd shelf series idx) s = .next (settled (putDrawer s0 shelf { d with moving := none }) shelf)) ∧
        (∀ n u : Nat, ∀ q : Place, l = .cab n → d.loc = .clean q u →
          exec (.moveEnd shelf series idx) s = .next (settled (bump (relocate s0 shelf series idx (.cab u)) (pgPart sh.key.part + 0x220) 16 16 1) shelf))))) ∧
  (∀ (shelf series idx : Nat) (s : State), (s.shelf? shelf = none ∨ ∃ sh, s.shelf? shelf = some sh ∧ (getDrawer sh series idx = none ∨
    ∃ d, getDrawer sh series idx = some d ∧ d.moving = none)) → exec (.moveEnd shelf series idx) s = .next s) ∧
  (∀ (shelf series idx : Nat) (s : State) (sh : Shelf) (d : Drawer), s.shelf? shelf = some sh → getDrawer sh series idx = some d →
    (32768 ≤ ageOf s d.stamp → exec (.tierVisit shelf series idx) s =
      .next (pinCheck (pinWork (putDrawer s shelf { d with stamp := (stampNow s + 32768) % 65536 }) shelf (shelfDie sh) 0) shelf)) ∧
    (ageOf s d.stamp < 32768 → exec (.tierVisit shelf series idx) s = .next (pinCheck (pinWork s shelf (shelfDie sh) 0) shelf))) ∧
  (∀ (shelf series idx : Nat) (s : State), (s.shelf? shelf = none ∨ ∃ sh, s.shelf? shelf = some sh ∧ getDrawer sh series idx = none) →
    exec (.tierVisit shelf series idx) s = .next s)

/-- R240, R241, R247, R248, R284: The earliest allocation of a partition that waits goes on where its place is free or can be made free, and its operation
ends with `FULL` where it cannot. Cold reads and lifts. A drawer that a run awaits, one of at most 16 that it reads at once, arrives from its unit, or
in place where a lift has put it meanwhile, and counts as a cold read; the staging SRAM's first error has it read again and the second ends the
request. Of a die's queued lifts the demand reads come first, and a lift waits for the other work of the cabinet. It is taken, finds its room, and is
placed as a clean copy, or is skipped and counted. What a demand lift waits for is the model's reading (log entry 53). Where the condition of a
command does not hold the state stays as it is (log entry 99). Commands whose next state it gives: `allocationPlaceFreed`, `coldReadDone`,
`liftTaken`, `liftRoom`, `liftPlaced`. -/
def Obligations.AllocationsColdReadsAndLifts : Prop :=
  (∀ (part : Fin 32) (s : State),
    (s.tiers.waits.find? (fun w => decide (w.part = part.val)) = none → exec (.allocationPlaceFreed part) s = .next s) ∧
    (∀ w : AllocWait, s.tiers.waits.find? (fun w => decide (w.part = part.val)) = some w →
      let s0 := { s with tiers := { s.tiers with waits := s.tiers.waits.erase w } }
      (s.shelf? w.shelf = none → exec (.allocationPlaceFreed part) s = .next s0) ∧
      (∀ sh : Shelf, s.shelf? w.shelf = some sh →
        (waitLive sh w = false → exec (.allocationPlaceFreed part) s = .next s0) ∧
        (waitLive sh w = true →
          let pin := (match getDrawer sh w.series w.idx with | some d => (locPlace d.loc).isSome | none => false)
          let place : State → Shelf → Option Place := fun u x => if pin then frontPlace u x w.series w.idx else findPlace u x w.series w.idx
          let room : State → Bool := fun u => match u.shelf? w.shelf with | some x => (place u x).isSome | none => false
          (place s0 sh ≠ none → exec (.allocationPlaceFreed part) s = .next (allocGo s0 sh w)) ∧
          (place s0 sh = none →
            (∀ s1 : State, freeTierPlace s0 part.val w.t0 w.shelf room = (none, s1) → exec (.allocationPlaceFreed part) s = .next (allocGo s1 sh w)) ∧
            (∀ (e : Nat) (s1 : State) (x : Shelf), freeTierPlace s0 part.val w.t0 w.shelf room = (some e, s1) → s1.shelf? w.shelf = some x →
              exec (.allocationPlaceFreed part) s = .next (allocFail s1 x w e))))))) ∧
  ((∀ (req run series i : Nat) (got : ColdAt) (s : State) (r : Req) (x : Run) (sh : Shelf) (d : Drawer), got.upsets ≤ 2 → noService s = false → tget? s.reqs req = some r →
    r.runs[run]? = some x → r.shelf = some i → s.shelf? i = some sh → getDrawer sh series got.idx = some d → inFlight x = true → (coldFlight sh x).contains (series, got.idx) = true →
    (∀ (u : Nat) (c : CabUnit), d.loc = .cab u → tget? s.cab.units u = some c →
      (got.upsets = 0 → exec (.coldReadDone req run series got) s =
        .next (pinCheck (liftOnRead (coldArrived (countRead s u) req run i sh r x (series, got.idx)) i series got.idx) i)) ∧
      (got.upsets = 1 → exec (.coldReadDone req run series got) s =
        .next (pinCheck (liftOnRead (coldArrived (countRead (countRead s u) u) req run i sh r x (series, got.idx)) i series got.idx) i)) ∧
      (got.upsets = 2 → exec (.coldReadDone req run series got) s = .next (endAttend (countRead (countRead s u) u) req r { status := 0x22 }))) ∧
    (∀ u : Nat, d.loc = .cab u → tget? s.cab.units u = none → exec (.coldReadDone req run series got) s = .next (runIntegrity s req r i x.tile (.inr u))) ∧
    (∀ (q : Place) (u : Nat), (d.loc = .clean q u ∨ d.loc = .hbm q) →
      (∀ s1 : State, readDrawer s d = (none, s1) → exec (.coldReadDone req run series got) s = .next (coldArrived s1 req run i sh r x (series, got.idx))) ∧
      (∀ (w : Nat × Nat) (s1 : State), readDrawer s d = (some w, s1) → exec (.coldReadDone req run series got) s = .next (runIntegrity s1 req r i x.tile (.inl w))))) ∧
  (∀ (req run series : Nat) (got : ColdAt) (s : State), got.upsets ≤ 2 → (noService s = true ∨ tget? s.reqs req = none) → exec (.coldReadDone req run series got) s = .next s) ∧
  (∀ (sh : Shelf) (x : Run), (coldFlight sh x).length ≤ 16 ∧ ∀ k ∈ coldFlight sh x, k ∈ x.coldLeft) ∧
  (∀ (die : Fin 4) (s : State), (nextLift s die.val = none → exec (.liftTaken die) s = .next s) ∧
    (firstLift s die.val (fun p => decide (p = .room)) = none → exec (.liftRoom die) s = .next s)) ∧
  (∀ (s : State) (die : Nat) (l : Lift), nextLift s die = some l → l ∈ s.tiers.lifts ∧ l.die = die ∧ l.phase = .queued ∧
    (l.demand = false → ∀ x ∈ s.tiers.lifts, x.die = die → x.phase = .queued → x.demand = true → liftNeeded s x = false)) ∧
  (∀ (die : Fin 4) (s : State) (l : Lift) (sh : Shelf) (d : Drawer), s.shelf? l.shelf = some sh → getDrawer sh l.series l.idx = some d →
    (nextLift s die.val = some l →
      (∀ u : Nat, d.loc = .cab u → (l.demand = true ∨ cabFree s 4 = true) →
        exec (.liftTaken die) s = .next (setLift { s with tiers := { s.tiers with turn := sh.key.part } } l .room)) ∧
      (∀ u : Nat, d.loc = .cab u → l.demand = false → cabFree s 4 = false → exec (.liftTaken die) s = .next s) ∧
      (∀ (q : Place) (u : Nat), (d.loc = .hbm q ∨ d.loc = .clean q u) → exec (.liftTaken die) s = .next (pinCheck (dropLift s l) l.shelf)) ∧
      (d.loc = .remote → exec (.liftTaken die) s = .next (liftSkipped s l))) ∧
    (firstLift s die.val (fun p => decide (p = .room)) = some l →
      let guard := if l.demand then 0 else 16 * rdf s (pgPart sh.key.part + 0x210) 15 8
      let made := freeTierPlace s sh.key.part (asksT0 s sh.key.part l.series) l.shelf (roomFor l.shelf l.series l.idx) guard
      (∀ q : Place, findPlace s sh l.series l.idx = some q → exec (.liftRoom die) s = .next (setLift s l (.reading q))) ∧
      (∀ (s1 : State) (x : Shelf) (q : Place), findPlace s sh l.series l.idx = none → made = (none, s1) → s1.shelf? l.shelf = some x → findPlace s1 x l.series l.idx = some q →
        exec (.liftRoom die) s = .next (setLift s1 l (.reading q))) ∧
      (∀ (e : Nat) (s1 : State), findPlace s sh l.series l.idx = none → made = (some e, s1) →
        (l.demand = false → exec (.liftRoom die) s = .next (liftSkipped s1 l e)) ∧ (l.demand = true → exec (.liftRoom die) s = .next (liftBack s1 l))))) ∧
  (∀ (die : Fin 4) (shelf series idx u : Nat) (s : State) (l : Lift) (sh : Shelf) (d : Drawer) (q : Place) (c : CabUnit), s.shelf? shelf = some sh →
    getDrawer sh series idx = some d → d.loc = .cab u → l.phase = .reading q →
    s.tiers.lifts.find? (fun l => decide (l.die = die.val) && decide (l.shelf = shelf) && decide (l.series = series) && decide (l.idx = idx) &&
      (match l.phase with | .reading _ => true | _ => l.demand && !liftNeeded s l)) = some l →
    let placed := touch (relocate (countRead { s with tiers := { s.tiers with lifts := s.tiers.lifts.erase l } } u) shelf series idx (.clean q u)) shelf series idx
    (beingRead s shelf series idx = true → exec (.liftPlaced die shelf series idx) s = .next s) ∧
    (beingRead s shelf series idx = false → tget? s.cab.units u = none → exec (.liftPlaced die shelf series idx) s =
      .next (if l.demand then endDemand (damage s shelf (.inr u)) l else damage (liftSkipped s l) shelf (.inr u))) ∧
    (beingRead s shelf series idx = false → tget? s.cab.units u = some c → exec (.liftPlaced die shelf series idx) s =
      .next (if l.demand then pinCheck (endDemand placed l) shelf else pinCheck (bump placed (pgPart sh.key.part + 0x228) 0 16 1) shelf))))

/-- R230, R231, R261: The two tier registers. A scratch reserve outside 8 to 1,024 MiB is not taken, and a raise that the quota cannot hold leaves the
register as it is and sets `SCRATCH_REFUSED`; a cabinet share is taken where the shares of all partitions fit, and refused with its bit otherwise.
Compression tables. `INSTALL` takes the table in the window under a free number and makes it the active one of its kind; `RETIRE` removes one that no
unit uses. Each answers in its `RESULT`; where the ringmaster is held, or its queue full, the result is 1, and while it restarts the command waits.
Where the condition of a command does not hold the state stays as it is (log entry 99). Commands whose next state it gives: `cabTblInstall`,
`cabTblRetire`, `partTierWrite`, `partCabshareWrite`. -/
def Obligations.TierRegistersAndTables : Prop :=
  ((∀ (part : Fin 32) (v : Word) (s : State), HostMay s (pgPart part.val) → (s.part part.val).busy = false →
    let a := pgPart part.val + 0x210
    let new := bits v.toNat 4 11
    let t := s.part part.val
    let s1 := s.setPart part.val { t with scratch := new, scratchOld := max new t.scratchOld }
    let rest : State → State := fun s => wrf (wrf s a 0 1 (bits v.toNat 0 1)) a 15 8 (bits v.toNat 15 8)
    ((new < 8 ∨ 1024 < new) → exec (.partTierWrite part v) s = .next (rest s)) ∧
    (8 ≤ new → new ≤ 1024 → t.scratch < new → partCharge s1 part.val ≤ quotaBytes s part.val →
      exec (.partTierWrite part v) s = .next (wrf (rest (wrf s1 a 4 11 new)) a 1 1 0)) ∧
    (8 ≤ new → new ≤ 1024 → t.scratch < new → quotaBytes s part.val < partCharge s1 part.val → exec (.partTierWrite part v) s = .next (wrf s a 1 1 1)) ∧
    (8 ≤ new → new ≤ t.scratch → new ≤ 1024 → exec (.partTierWrite part v) s =
      .next (rest (wrf (s.setPart part.val { t with scratch := new, scratchOld := max t.scratch t.scratchOld }) a 4 11 new)))) ∧
  (∀ (part : Fin 32) (v : Word) (s : State), HostMay s (pgPart part.val) → (s.part part.val).busy = false →
    let a : Nat → Nat := fun p => pgPart p + 0x208
    let new := bits v.toNat 0 13
    let others := (((List.range 32).filter (fun p => decide (p ≠ part.val))).map (fun p => rdf s (a p) 0 13)).sum
    ((6519 < others + new ∨ new ≠ 0 ∧ s.chip.cabCap = false) → exec (.partCabshareWrite part v) s = .next (wrf s (a part.val) 31 1 1)) ∧
    (others + new ≤ 6519 → (new = 0 ∨ s.chip.cabCap = true) →
      exec (.partCabshareWrite part v) s = .next (wrf (wrf s (a part.val) 0 13 new) (a part.val) 31 1 0))) ∧
  (∀ (part : Fin 32) (v : Word) (s : State), HostMay s (pgPart part.val) → (s.part part.val).busy = true →
    exec (.partTierWrite part v) s = .next s ∧ exec (.partCabshareWrite part v) s = .next s)) ∧
  ((∀ (id : Nat) (s : State), 1 ≤ id → id ≤ 63 → HostMay s pgCab → RmTakes s 1 →
    let b := mread s.cab.window 0 2304
    (tblOk b = false → exec (.cabTblInstall id) s = .next (tblResult s 1)) ∧
    (tblOk b = true → tget? s.cab.tables id ≠ none → exec (.cabTblInstall id) s = .next (tblResult s 2)) ∧
    (tblOk b = true → tget? s.cab.tables id = none → exec (.cabTblInstall id) s = .next (tblResult
      { s with cab := { s.cab with tables := tput s.cab.tables id b, active := tput s.cab.active (le b 6 1 + 256 * le b 7 1) id } } 0)) ∧
    (tget? s.cab.tables id = none → exec (.cabTblRetire id) s = .next (tblResult s 4)) ∧
    (tget? s.cab.tables id ≠ none → s.cab.units.any (fun e => decide (e.2.table = id)) = true → exec (.cabTblRetire id) s = .next (tblResult s 3)) ∧
    (tget? s.cab.tables id ≠ none → s.cab.units.any (fun e => decide (e.2.table = id)) = false → exec (.cabTblRetire id) s = .next (tblResult
      { s with cab := { s.cab with tables := tdel s.cab.tables id, active := s.cab.active.filter (fun e => decide (e.2 ≠ id)) } } 0))) ∧
  (∀ (id : Nat) (s : State), id ≤ 63 → HostMay s pgCab →
    (s.stw.rm = .held → exec (.cabTblInstall id) s = .next (tblResult s 1) ∧ exec (.cabTblRetire id) s = .next (tblResult s 1)) ∧
    (s.stw.rm = .restarting → exec (.cabTblInstall id) s = .next { s with cab := { s.cab with tblWait := s.cab.tblWait ++ [(true, id)] } } ∧
      exec (.cabTblRetire id) s = .next { s with cab := { s.cab with tblWait := s.cab.tblWait ++ [(false, id)] } }) ∧
    (s.stw.rm = .running → (deferred s 1 = true ∨ classQueue 1 ≤ s.stw.queues.getD 1 0) →
      exec (.cabTblInstall id) s = .next (tblResult (bump s (pgStw + 0x114) 0 32 1) 1) ∧ exec (.cabTblRetire id) s = .next (tblResult (bump s (pgStw + 0x114) 0 32 1) 1))) ∧
  (∀ s : State, HostMay s pgCab → RmTakes s 1 → ∃ r n : Nat, 1 ≤ r ∧ r ≤ 4 ∧
    exec (.cabTblInstall 0) s = .next (tblResult { s with free := n } r) ∧ exec (.cabTblRetire 0) s = .next (tblResult { s with free := n } r)))

/-- R248, R252-R254, R254, R255, R262, R273, R283: The flash looks after itself, as work of its class. Garbage collection erases an erase block without
valid data, or else releases the oldest retained copy, or else clears the block with the fewest valid bytes; a spread of erase counts above 200 moves
a block; a block read 50,000 times is written anew and erased. An erased block counts one erase more and holds nothing. Reads of the flash. A patrol
read above 75 % of the correcting power, or one that fails, rewrites its page, and a second failure of a page marks its block bad. A block or record
that fails its tag is rebuilt from parity and counted; one that fails again is lost: a retained copy is released, a drawer in `CAB` is damaged, and
the item of a record is dropped. How the patrol counts pages is the model's choice (log entry 47). Where the condition of a command does not hold the
state stays as it is (log entry 99). Commands whose next state it gives: `garbageCollection`, `staticWearLevelling`, `readDisturbRelocation`,
`patrolRead`, `blockReadFail`. -/
def Obligations.FlashIsErasedAndChecked : Prop :=
  ((∀ s : State, cabFree s (if s.cab.gcUrgent then 2 else 5) = true →
    (∀ (b : Nat) (e : EBlock), (closedBlocks s).find? (fun e => decide (e.2.valid = 0)) = some (b, e) → exec .garbageCollection s = .next (eraseBlock s b)) ∧
    ((closedBlocks s).find? (fun e => decide (e.2.valid = 0)) = none →
      (∀ (n : Nat) (u : CabUnit), s.cab.units.filter (fun e => retainedBy s e.1 e.2) = [(n, u)] →
        exec .garbageCollection s = .next (flashFlags (eraseSum s) (releaseRetained s n u))) ∧
      (s.cab.units.filter (fun e => retainedBy s e.1 e.2) ≠ [] → ∃ (n : Nat) (u : CabUnit), (n, u) ∈ s.cab.units ∧ retainedBy s n u = true ∧
        (∀ e ∈ s.cab.units, retainedBy s e.1 e.2 = true → u.wseq ≤ e.2.wseq) ∧ exec .garbageCollection s = .next (flashFlags (eraseSum s) (releaseRetained s n u))) ∧
      (∀ b : Nat, s.cab.units.filter (fun e => retainedBy s e.1 e.2) = [] → leastBy (fun e => e.valid) (closedBlocks s) = some b →
        exec .garbageCollection s = .next (eraseBlock (moveUnits s b none) b)) ∧
      (closedBlocks s = [] → s.cab.units.filter (fun e => retainedBy s e.1 e.2) = [] → exec .garbageCollection s = .next s))) ∧
  (∀ s : State, cabFree s (if s.cab.gcUrgent then 2 else 5) = false → exec .garbageCollection s = .next s) ∧
  (∀ (f : EBlock → Nat) (l : List (Nat × EBlock)) (b : Nat), leastBy f l = some b → ∃ e : EBlock, (b, e) ∈ l ∧ ∀ x ∈ l, f e ≤ f x.2) ∧
  (∀ (s : State) (b w : Nat), 200 < eraseSpread s → class3Runs s = true → cabFree s 5 = true → leastBy (fun e => e.erases) (closedBlocks s) = some b →
    leastBy (fun e => 2 ^ 64 - e.erases) (s.cab.blocks.filter (fun e => isTlc e.1 && !e.2.prog && !e.2.bad)) = some w →
    let s1 := { s with cab := { s.cab with units := s.cab.units.map (fun e =>
      (e.1, { e.2 with pieces := e.2.pieces.map (fun x => if x.1 = b then (w, x.2) else x) })) } }
    exec .staticWearLevelling s =
      .next (eraseBlock (setEblock s1 w { eblock s1 w with prog := true, reads := 0, valid := (eblock s1 b).valid }) b)) ∧
  (∀ s : State, (eraseSpread s ≤ 200 ∨ class3Runs s = false ∨ cabFree s 5 = false) → exec .staticWearLevelling s = .next s) ∧
  (∀ (b : Nat) (s : State),
    ((eblock s b).prog = true → 50000 ≤ (eblock s b).reads → cabFree s 2 = true →
      exec (.readDisturbRelocation b) s = .next (bump (eraseBlock (moveUnits s b none) b) (pgCab + 0x110) 0 16 1)) ∧
    (((eblock s b).prog = false ∨ (eblock s b).reads < 50000 ∨ cabFree s 2 = false) → exec (.readDisturbRelocation b) s = .next s)) ∧
  (∀ (s : State) (b : Nat), eblock (eraseBlock s b) b = { eblock s b with erases := (eblock s b).erases + 1, reads := 0, valid := 0, prog := false, failed := [] })) ∧
  ((∀ (c : Nat) (bad : Bool) (s : State), (class3Runs s = false ∨ s.cab.mounted = false ∨ cabFree s 6 = false) → exec (.patrolRead c bad) s = .next s) ∧
  (∀ (c : Nat) (s : State), class3Runs s = true → s.cab.mounted = true → cabFree s 6 = true →
    let page := patrolPage s s.cab.patrol
    let s0 := patrolSees s page
    (c ≤ 75 → exec (.patrolRead c false) s = .next (patrolNext s0)) ∧
    (75 < c → exec (.patrolRead c false) s = .next (patrolNext (moveUnits (bump s0 (pgCab + 0x110) 16 16 1) page.1 (some page.2)))) ∧
    (∀ s3 : State, s3 = moveUnits (bump (stripeRebuilt s0) (pgCab + 0x110) 16 16 1) page.1 (some page.2) →
      ((eblock s3 page.1).failed.contains page.2 = false → exec (.patrolRead c true) s =
        .next (patrolNext (setEblock s3 page.1 { eblock s3 page.1 with failed := (eblock s3 page.1).failed ++ [page.2] }))) ∧
      ((eblock s3 page.1).failed.contains page.2 = true → exec (.patrolRead c true) s = .next (patrolNext (markBad (moveUnits s3 page.1 none) page.1))))) ∧
  (∀ (s : State) (page : Nat × Nat), isTlc page.1 = true → s.cab.patrol ≠ 0 →
    patrolSees s page = setEblock s page.1 { eblock s page.1 with reads := (eblock s page.1).reads + 1 }) ∧
  (∀ s : State, (s.cab.patrol + 1 < patrolPages s → (patrolNext s).cab = { s.cab with patrol := s.cab.patrol + 1 }) ∧
    (patrolPages s ≤ s.cab.patrol + 1 → (patrolNext s).cab = { s.cab with patrol := 0, patrolMs := stewardMs s })) ∧
  (∀ (n : Nat) (e : BlockErrs) (s : State) (u : CabUnit), tget? s.cab.units n = some u →
    let again := raise (bump (countRead (countRead s n) n) (pgCab + 0x118) 0 16 1) pgCab 5 []
    (blockPasses s n u e.first = true → exec (.blockReadFail n e) s = .next (countRead s n)) ∧
    (blockPasses s n u e.first = false → blockPasses s n u e.second = true → exec (.blockReadFail n e) s = .next again) ∧
    (blockPasses s n u e.first = false → blockPasses s n u e.second = false →
      (u.vslot = none → exec (.blockReadFail n e) s = .next (blockLost again n u)) ∧
      (u.vslot ≠ none → exec (.blockReadFail n e) s = .next (recordLost again n)))) ∧
  (∀ (n : Nat) (e : BlockErrs) (s : State), tget? s.cab.units n = none → exec (.blockReadFail n e) s = .next s) ∧
  (∀ (s : State) (n : Nat) (u : CabUnit) (s1 : State), s1 = raise (bump s (pgCab + 0x118) 16 16 1) pgCab 4 [] →
    (retainedBy s1 n u = true → blockLost s n u = releaseRetained s1 n u) ∧
    (retainedBy s1 n u = false → coldReaders s1 u.shelf u.series u.idx = [] →
      s1.tiers.lifts.filter (fun l => decide (l.shelf = u.shelf) && decide (l.series = u.series) && decide (l.idx = u.idx)) = [] →
      blockLost s n u = damage s1 u.shelf (.inr n)) ∧
    recordLost s n = failRecord s1 n))

/-- R264-R271, R274, R275, R277, R276-R282: The stack reads through its lines. A line is read once more before it is declared uncorrectable. A correction
is counted and queues one write-back, and an uncorrectable line is poisoned, counted and raised; a reader then damages what the line held. The scrub
reads line after line, past retired pseudo-channels; after a pass the counts of the scrub period begin again. The storage of a damaged shelf is freed
once its dispatched runs have finished. Repair, retirement and the fence of a stack. The first row that is due in a bank with a spare, and that can be
held, is copied to the spare row, logged and counted, and the fourth spare of a bank raises `SPARE_LOW`. A row due in a bank without a spare, and
uncorrectable lines up to a threshold, mark the pseudo-channel retiring. One that is retiring gives up its drawers and is retired once nothing lies in
it; the sixteenth fences the stack. A fence ends the runs that read there, damages the shelves there, and puts back the lifts into it. Where the
condition of a command does not hold the state stays as it is (log entry 99). Commands whose next state it gives: `correctedWriteback`, `scrubRead`,
`damagedShelfFree`, `rowRepair`, `pcRetire`, `pcRetired`, `stackFence`. -/
def Obligations.StacksAreScrubbedAndRepaired : Prop :=
  ((∀ (k : Fin 16) (line : Nat) (s : State),
    ((s.hbmc k.val).fenced = false → (s.hbmc k.val).wb.contains line = true →
      exec (.correctedWriteback k line) s = .next (askLine (s.setHbm k.val (wroteLines (s.hbmc k.val) (fun l => decide (l = line)))) k.val line)) ∧
    (((s.hbmc k.val).fenced = true ∨ (s.hbmc k.val).wb.contains line = false) → exec (.correctedWriteback k line) s = .next s)) ∧
  (∀ (h : Hbm) (line : Nat), line ∉ (wroteLines h (fun l => decide (l = line))).wb ∧ tget? (wroteLines h (fun l => decide (l = line))).poison line = none ∧
    tget? (wroteLines h (fun l => decide (l = line))).upsets line = none ∧
    ∀ l : Nat, l ≠ line → (l ∈ (wroteLines h (fun l => decide (l = line))).wb ↔ l ∈ h.wb)) ∧
  (∀ (s : State) (k line : Nat),
    (tget? (s.hbmc k).poison line ≠ none → lineOut s k line = .poison) ∧
    (tget? (s.hbmc k).poison line = none → tget? (s.hbmc k).upsets line = none → lineOut s k line = .good) ∧
    (∀ u : Upset, tget? (s.hbmc k).poison line = none → tget? (s.hbmc k).upsets line = some u →
      ((wordOut s k line (u.bad ++ u.once)).bad = false → lineOut s k line = wordOut s k line (u.bad ++ u.once)) ∧
      ((wordOut s k line (u.bad ++ u.once)).bad = true → (wordOut s k line u.bad = .good ∨ wordOut s k line u.bad = .fixed) → lineOut s k line = .fixed) ∧
      ((wordOut s k line (u.bad ++ u.once)).bad = true → (wordOut s k line u.bad).bad = true → lineOut s k line = wordOut s k line u.bad)) ∧
    (lineOut s k line = .fixed → readLine s k line = (.fixed, lineCorrected (readOnce s k line) k line)) ∧
    (∀ o : LineOut, lineOut s k line = o → o.bad = true → readLine s k line = (o, lineUncorr s k line (decide (o = .tag)))) ∧
    (∀ o : LineOut, lineOut s k line = o → (o = .good ∨ o = .poison) → readLine s k line = (o, readOnce s k line)) ∧
    line ∈ ((lineCorrected s k line).hbmc k).wb ∧
    (∀ tag : Bool, (∀ l : Nat, tget? (s.hbmc k).uses line ≠ some (.dev l)) → lineKept s k line = true →
      tget? ((lineUncorr s k line tag).hbmc k).poison line = some 1)) ∧
  (∀ (s : State) (k line : Nat) (o : LineOut) (s1 : State), readLine (askLine s k line) k line = (o, s1) →
    ((o = .good ∨ o = .fixed) → meetLine s k line = (o, s1)) ∧
    (∀ (i : Nat) (d : Drawer), o ≠ .good → o ≠ .fixed → lineDrawer s k line = some (i, d) → meetLine s k line = (o, damage s1 i (.inl (k, line)))) ∧
    (o ≠ .good → o ≠ .fixed → lineDrawer s k line = none → lineKept s k line = false →
      meetLine s k line = (o, s1.setHbm k (wroteLines (s1.hbmc k) (fun l => decide (l = line))))) ∧
    (∀ u : LineUse, o ≠ .good → o ≠ .fixed → lineDrawer s k line = none → lineKept s k line = true → tget? (s.hbmc k).uses line = some u →
      meetLine s k line = (o, lostCopy s1 k line u))) ∧
  (∀ (k : Fin 16) (stays once : List LineHit) (s s1 : State), (stays ++ once).all LineHit.wellFormed = true →
    s1 = once.foldl (fun s x => hitLine s k.val false x) (stays.foldl (fun s x => hitLine s k.val true x) s) →
    ((s.hbmc k.val).fenced = true → exec (.scrubRead k stays once) s = .next s) ∧
    (∀ line : Nat, (s.hbmc k.val).fenced = false → scrubFrom (s1.hbmc k.val) (s1.hbmc k.val).scrub = some line →
      exec (.scrubRead k stays once) s = .next (fenceIfDue (scrubNext (meetLine s1 k.val line).2 k.val) k.val)) ∧
    ((s.hbmc k.val).fenced = false → scrubFrom (s1.hbmc k.val) (s1.hbmc k.val).scrub = none →
      exec (.scrubRead k stays once) s = .next (fenceIfDue (scrubNext s1 k.val) k.val))) ∧
  (∀ (h : Hbm) (n line : Nat), scrubFrom h n = some line → n ≤ line ∧ h.retired.contains (line / linesPerPc) = false) ∧
  (∀ (s : State) (k : Nat), scrubFrom (s.hbmc k) ((s.hbmc k).scrub + 1) = none →
    ((scrubNext s k).hbmc k).rows = [] ∧ ((scrubNext s k).hbmc k).pcUnc = [] ∧ ((scrubNext s k).hbmc k).stUnc = 0) ∧
  (∀ (i : Nat) (s : State) (sh x : Shelf), s.shelf? i = some sh → sh.state = .lost → sh.damaged = true → shelfRunning s i = false → (freeAll s i).shelf? i = some x →
    exec (.damagedShelfFree i) s = .next ((freeAll s i).setShelf i { x with damaged := false })) ∧
  (∀ (i : Nat) (s : State), (s.shelf? i = none ∨ ∃ sh, s.shelf? i = some sh ∧ (sh.state ≠ .lost ∨ sh.damaged = false ∨ shelfRunning s i = true)) →
    exec (.damagedShelfFree i) s = .next s)) ∧
  ((∀ (k : Fin 16) (row : Nat) (s : State), (s.hbmc k.val).due.find? (fun r => decide (sparesUsed (s.hbmc k.val) (rowBank r) < 4) && bankFree s k.val (rowBank r)) = some row →
    ((s.hbmc k.val).fenced = false → logRoom s (s.hbmc k.val) = true → exec (.rowRepair k) s = .next (fenceIfDue (repairRow s k.val row) k.val)) ∧
    (((s.hbmc k.val).fenced = true ∨ logRoom s (s.hbmc k.val) = false) → exec (.rowRepair k) s = .next s)) ∧
  (∀ (k : Fin 16) (s : State), (s.hbmc k.val).due.find? (fun r => decide (sparesUsed (s.hbmc k.val) (rowBank r) < 4) && bankFree s k.val (rowBank r)) = none →
    exec (.rowRepair k) s = .next s) ∧
  (∀ (s : State) (k row : Nat),
    let s0 := (List.range 16).foldl (fun s n => copyLine s k (16 * row + n)) (closeRow s k (rowBank row))
    let h := s0.hbmc k
    let h1 : Hbm := { h with due := h.due.erase row, rows := h.rows.filter (fun e => decide (e.1 ≠ row)), log := h.log ++ [{ row := row, bank := rowBank row }],
                             unwritten := if rmRuns s then h.unwritten else h.unwritten + 1 }
    let s1 := raise (bump (s0.setHbm k h1) (pgHbm k + 0x110) 0 16 1) (pgHbm k) 3 []
    (sparesUsed h1 (rowBank row) = 4 → repairRow s k row = raise s1 (pgHbm k) 4 []) ∧ (sparesUsed h1 (rowBank row) ≠ 4 → repairRow s k row = s1)) ∧
  (∀ (h : Hbm) (row : Nat), h.due.contains row = false →
    (4 ≤ sparesUsed h (rowBank row) → rowDue h row = retireMark h (rowBank row / 64)) ∧
    (sparesUsed h (rowBank row) < 4 → rowDue h row = { h with due := h.due ++ [row] })) ∧
  (∀ (s : State) (k line : Nat) (h : Hbm), max 1 (rdf s (pgHbm k + 0x120) 16 8) ≤ tget 0 h.pcUnc (linePc line) + 1 → h.retired.contains (linePc line) = false →
    linePc line ∈ (countUnc s k h line).retiring) ∧
  (∀ (s : State) (k line : Nat) (h : Hbm), 8 * max 1 (rdf s (pgHbm k + 0x120) 24 8) ≤ h.stUnc + 1 → (countUnc s k h line).fenceDue = true) ∧
  (∀ (k : Fin 16) (pc : Fin 64) (s : State),
    let h := s.hbmc k.val
    (h.retiring.contains pc.val = false → h.retired.contains pc.val = false → h.fenced = false →
      exec (.pcRetire k pc) s = .next (leavePc (s.setHbm k.val { h with retiring := h.retiring ++ [pc.val] }) k.val pc.val)) ∧
    ((h.retiring.contains pc.val = true ∨ h.retired.contains pc.val = true ∨ h.fenced = true) → exec (.pcRetire k pc) s = .next s) ∧
    (h.retiring.contains pc.val = false → exec (.pcRetired k pc) s = .next s) ∧
    (h.retiring.contains pc.val = true → drawersIn s k.val pc.val = [] → segmentIn s k.val pc.val = false →
      exec (.pcRetired k pc) s = .next (fenceIfDue (retirePc s k.val pc.val) k.val) ∧
      pc.val ∈ ((retirePc s k.val pc.val).hbmc k.val).retired ∧ tget? (retirePc s k.val pc.val).pcOwner (64 * k.val + pc.val) = none ∧
      (isFront k.val = true → ∀ i : Nat, i < 8 → ((retirePc s k.val pc.val).booth (boothNo k.val (pairBooth pc.val i))).disabled = true)) ∧
    (h.retiring.contains pc.val = true → drawersIn s k.val pc.val = [] → segmentIn s k.val pc.val = true → exec (.pcRetired k pc) s = .next s) ∧
    (h.retiring.contains pc.val = true → drawersIn s k.val pc.val ≠ [] → exec (.pcRetired k pc) s = .next (leavePc s k.val pc.val))) ∧
  (∀ (s : State) (k pc : Nat) (s1 : State), s1 = backToRoom s (fun q => decide (q.stack = k) && decide (q.pc = pc)) →
    leavePc s k pc = (drawersIn s1 k pc).foldl moveOut s1) ∧
  (∀ (s : State) (k : Nat), ((s.hbmc k).fenceDue = true ∨ 16 ≤ (s.hbmc k).retired.length) → fenceIfDue s k = fenceStack s k) ∧
  (∀ (s : State) (k : Nat), (s.hbmc k).fenceDue = false → (s.hbmc k).retired.length < 16 → fenceIfDue s k = s) ∧
  (∀ (k : Fin 16) (s : State), (s.hbmc k.val).fenced = true → exec (.stackFence k) s = .next s) ∧
  (∀ (k : Fin 16) (s : State), (s.hbmc k.val).fenced = false → ∃ (t s1 s4 : State) (lost : List (Nat × Nat)) (homes : List Nat), exec (.stackFence k) s = .next t ∧
    s1 = raise (s.setHbm k.val { s.hbmc k.val with fenced := true, fenceDue := false, wb := [], due := [], upsets := [] }) (pgHbm k.val) 6 [] ∧
    (s1.hbmc k.val).fenced = true ∧ (s1.hbmc k.val).wb = [] ∧
    (∀ (i : Nat) (sh : Shelf) (d : Drawer) (q : Place), (i, sh) ∈ s.dir.shelves → d ∈ sh.drawers → locPlace d.loc = some q → q.stack = k.val → ∃ l, (i, l) ∈ lost) ∧
    s4 = fenceCopies (lost.foldl (fun s e => damage s e.1 (.inl (k.val, e.2)))
      (let s2 := fenceSegments (fenceReaders s1 k.val) k.val
       { s2 with dir := { s2.dir with shelves := s2.dir.shelves.map (fun e => (e.1, fencedShelf (homes.contains e.1) k.val e.2)) } })) k.val ∧
    t = backToRoom (fenceUnits { s4 with vidx := s4.vidx.map (fun e => (e.1, fenceIndex s s4 k.val e.2)) } k.val) (fun q => decide (q.stack = k.val)) ∧
    ∀ l ∈ t.tiers.lifts, ∀ q : Place, l.phase = .reading q → q.stack ≠ k.val))

/-- R312-R316: A lookup takes the action of the matching entry with the lowest index, and counts a win of its slice; where none matches, the default
action, and counts that. -/
def Obligations.RuleLookupTakesTheFirstMatch : Prop :=
  ∀ (s : State) (key : Nat),
    (∀ (i : Nat) (r : Rule), tsorted s.rules.entries = true → (i, r) ∈ s.rules.entries → r.valid = true → key &&& r.care = r.value →
      (∀ (j : Nat) (q : Rule), (j, q) ∈ s.rules.entries → q.valid = true → key &&& q.care = q.value → i ≤ j) →
      ruleLookup s key = (r.action, bump s (pgRule (i / 16384) + 0x104) 0 32 1)) ∧
    ((∀ (i : Nat) (r : Rule), (i, r) ∈ s.rules.entries → r.valid = false ∨ key &&& r.care ≠ r.value) →
      ruleLookup s key = (s.rules.deflt, bump s (pgRule 0 + 0x110) 0 32 1))

/-- R313-R315, R321-R325, R545, R324, R326-R329: The commands of the rule table. An insertion takes the place that its band and priority give it, or is
refused; a removal clears an entry's valid bit; a modification replaces its action; a read fills the staging registers; new band sizes are taken where
no entry moves group. What changes is written to the shadow copies too. Each answers in `RESULT`, 1 where the ringmaster takes no work. The default
action is checked as a pair. A band that waits is rebalanced while the ringmaster takes class 3; the comparison with the shadows restores an entry
that differs from a good copy, counts it and raises its event, and with no good copy writes both copies anew from the entry; a copy is lost where a
line of it is, or is found, uncorrectable; the sweep goes on to the next entry. The order of errors of a modification follows log entry 22. Where the
condition of a command does not hold the state stays as it is (log entry 99). Commands whose next state it gives: `ruleInsert`, `ruleRemove`,
`ruleModify`, `ruleRead`, `ruleApplyBands`, `ruleDefLoWrite`, `ruleDefHiWrite`, `rebalance`, `shadowCompare`. -/
def Obligations.RuleCommandsAndUpkeep : Prop :=
  ((∀ s : State, HostMay s (pgRule 0) → RmTakes s 1 →
    let value := staged160 s 0x200
    let care := staged160 s 0x214
    let v : Rule := { valid := true, value := value, care := care, action := stagedAction s, prio := rdf s (ruleReg 0x230) 16 16 }
    let band := rdf s (ruleReg 0x230) 0 4
    let i := rdf s (ruleReg 0x234) 0 16
    let e := ruleAt s.rules.entries i
    ((actionOk (stagedAction s) && valueOk value care) = false → exec .ruleInsert s = .next (ruleResult s 2)) ∧
    ((actionOk (stagedAction s) && valueOk value care) = true →
      (insPlan s.rules band v.prio = .bandFull → exec .ruleInsert s = .next (ruleResult s 4)) ∧
      (∀ g : Nat, insPlan s.rules band v.prio = .groupFull g → exec .ruleInsert s =
        .next (ruleResult (raise { s with rules := queueRebal s.rules band } (pgRule (32 * g / 16384)) 3 []) 3)) ∧
      (∀ g t n : Nat, ∀ r : Rules, insPlan s.rules band v.prio = .done g t → insWrite s.rules g t v = (r, n) → exec .ruleInsert s =
        .next (ruleResult (wrf (setRules s (if groupCount r.entries g ≥ 31 then queueRebal r band else r)) (ruleReg 0x234) 0 16 n) 0))) ∧
    (e.valid = true → exec .ruleRemove s = .next (ruleResult (setRules s (putRule s.rules i { e with valid := false })) 0)) ∧
    (e.valid = false → exec .ruleRemove s = .next (ruleResult s 5) ∧ exec .ruleModify s = .next (ruleResult s 5)) ∧
    (e.valid = true → actionOk (stagedAction s) = false → exec .ruleModify s = .next (ruleResult s 2)) ∧
    (e.valid = true → actionOk (stagedAction s) = true →
      exec .ruleModify s = .next (ruleResult (setRules s (putRule s.rules i { e with action := stagedAction s })) 0)) ∧
    (bandsOk s.rules (stagedBands s) = true → exec .ruleApplyBands s = .next (ruleResult { s with rules := { s.rules with bands := stagedBands s } } 0)) ∧
    (bandsOk s.rules (stagedBands s) = false → exec .ruleApplyBands s = .next (ruleResult s 6)) ∧
    (∃ t : State, exec .ruleRead s = .next t ∧ t.rules = s.rules ∧ stagedAction t = e.action % 2 ^ 64 ∧ rdf t (ruleReg 0x23C) 4 1 = (if e.valid then 1 else 0) ∧
      rdf t (ruleReg 0x23C) 1 3 = 0 ∧ ∀ k : Nat, k < 5 → rd t (ruleReg (0x200 + 4 * k)) = bits e.value (32 * k) 32 ∧ rd t (ruleReg (0x214 + 4 * k)) = bits e.care (32 * k) 32)) ∧
  (∀ (s : State) (r : Rules), (setRules s r).rules = r ∧ (setRules s r).dir = s.dir ∧ (setRules s r).regs = s.regs) ∧
  (∀ s : State, HostMay s (pgRule 0) → s.stw.rm ≠ .running →
    exec .ruleInsert s = .next (ruleResult s 1) ∧ exec .ruleRemove s = .next (ruleResult s 1) ∧ exec .ruleModify s = .next (ruleResult s 1) ∧
    exec .ruleRead s = .next (ruleResult s 1) ∧ exec .ruleApplyBands s = .next (ruleResult s 1)) ∧
  (∀ (v : Word) (s : State), HostMay s (pgRule 0) →
    exec (.ruleDefLoWrite v) s = .next { s with rules := { s.rules with heldLo := some v.toNat } } ∧
    (let a := s.rules.heldLo.getD (s.rules.deflt % 2 ^ 32) + v.toNat * 2 ^ 32
     exec (.ruleDefHiWrite v) s = .next { s with rules := { s.rules with heldLo := none, deflt := if actionOk a then a else s.rules.deflt } }))) ∧
  ((∀ (b : Fin 16) (s : State),
    (s.rules.rebal.contains b.val = true → s.stw.rm = .running → deferred s 3 = false → exec (.rebalance b) s = .next (setRules s (rebalanced s.rules b.val))) ∧
    ((s.rules.rebal.contains b.val = false ∨ s.stw.rm ≠ .running ∨ deferred s 3 = true) → exec (.rebalance b) s = .next s)) ∧
  (∀ (n : Fin 4) (badA badB lostA lostB : Bool) (s s1 s2 : State),
    let loc := s.rules.sweep.getD n.val 0
    let i := 16384 * n.val + loc
    readShadow s n.val 0 i badA = (lostA, s1) → readShadow s1 n.val 1 i badB = (lostB, s2) →
    let e := ruleAt s2.rules.entries i
    let a := ruleAt s2.rules.shadowA i
    let b := ruleAt s2.rules.shadowB i
    let g := if lostA then b else a
    (lostA = true → lostB = true → exec (.shadowCompare n badA badB) s = .next (sweepNext (raise (bump (wr (writeShadows s2 i e) (pgRule n.val + 0x108) (2 ^ 31 + loc))
      (pgRule n.val + 0x10C) 16 16 1) (pgRule n.val) 1 (leBytes 2 i)) n.val)) ∧
    ((lostA && lostB) = false → (lostA = true ∨ lostB = true ∨ a = b) →
      (e = g → exec (.shadowCompare n badA badB) s = .next (sweepNext (writeShadows s2 i e) n.val)) ∧
      (e ≠ g → exec (.shadowCompare n badA badB) s = .next (sweepNext (raise (bump (wr (writeShadows s2 i g) (pgRule n.val + 0x108) (2 ^ 31 + loc))
        (pgRule n.val + 0x10C) 0 16 1) (pgRule n.val) 0 (leBytes 2 i)) n.val))) ∧
    (lostA = false → lostB = false → a ≠ b → exec (.shadowCompare n badA badB) s = .next (sweepNext s2 n.val))) ∧
  (∀ (s : State) (die copy i : Nat),
    (useNoted s (fun u => decide (u = .shadow i copy)) = [] → readShadow s die copy i false = (false, s)) ∧
    (readShadow s die copy i true).1 = true) ∧
  (∀ (s : State) (i : Nat) (e : Rule), (writeShadows s i e).rules = putRule s.rules i e) ∧
  (∀ (s : State) (n : Nat), s.rules.sweep.getD n 0 + 1 < 16384 →
    sweepNext s n = { s with rules := { s.rules with sweep := modAt (fun _ => s.rules.sweep.getD n 0 + 1) n s.rules.sweep } }))

/-- R332, R337, R354, R358, R361-R365, R367, R368: A port's link, its shapers, policers and gates, its time, and the timers of its queue pairs. A port
that comes up takes `SEAL_REQ`; one that goes down gives up its session. Tokens grow by the rate up to the burst, and rates as last written come into
force with a refill; a gate list is taken over at its switch time; an offset above 1 µs is stepped; a slewed portion and the rate are free (log entry
56). After a trip the clock of a port stands still. Where the condition of a command does not hold the state stays as it is (log entry 99). Commands
whose next state it gives: `portLinkUp`, `portLinkDown`, `ackTimeout`, `ccTimerExpiry`, `shaperRefill`, `policerRefill`, `gateIntervalEnd`,
`gclCommit`, `gclSwitch`, `ptpSync`, `ptpTimeout`, `netTimeNsRead`, `rnrTimerExpiry`. -/
def Obligations.PortsKeepTimeAndRates : Prop :=
  (∀ (p : Fin 4) (s : State), hostReach s = true →
    ((s.port p.val).up = false → exec (.portLinkUp p) s = .next (raise (s.setPort p.val { s.port p.val with
      up := true, sealReq := decide (rdf s (pgNet p.val + 0x100) 0 1 = 1), sealed := false, hs := {} }) (pgNet p.val) 0 [])) ∧
    ((s.port p.val).up = true → exec (.portLinkUp p) s = .next s) ∧
    exec (.shaperRefill p) s = .next (s.setPort p.val { s.port p.val with shRate := (List.range 16).map (fun q => rdf s (pgShp p.val 0 + 0x100 + 4 * q) 0 20), tokens := (List.range 16).map (fun q =>
      min ((s.port p.val).tokens.getD q 0 + 128 * (rdf s (pgShp p.val 0 + 0x100 + 4 * q) 0 20 : Nat)) ((rdf s (pgShp p.val 0 + 0x140 + 4 * q) 0 12 * 1024000 : Nat) : Int)) }) ∧
    (∃ (pol : Tab Int) (rate : Tab Nat), exec (.policerRefill p) s = .next (s.setPort p.val { s.port p.val with polRate := rate, pol := pol }) ∧
      (∀ i : Nat, i < 256 → tget 0 rate i = rdf s (pgShp p.val 1 + 0x100 + 8 * i) 0 20) ∧ ∀ i : Nat, i < 256 → tget 0 pol i =
      min (tget 0 (s.port p.val).pol i + 128 * (rdf s (pgShp p.val 1 + 0x100 + 8 * i) 0 20 : Nat)) ((rdf s (pgShp p.val 1 + 0x104 + 8 * i) 0 12 * 1024000 : Nat) : Int)) ∧
    ((rdf s (pgShp p.val 0 + 0x180) 0 1 = 0 ∨ (s.port p.val).gcl.entries = []) → exec (.gateIntervalEnd p) s = .next s) ∧
    (rdf s (pgShp p.val 0 + 0x180) 0 1 ≠ 0 → (s.port p.val).gcl.entries ≠ [] → exec (.gateIntervalEnd p) s = .next (s.setPort p.val { s.port p.val with
      gcl := { (s.port p.val).gcl with cur := ((s.port p.val).gcl.cur + 1) % (s.port p.val).gcl.entries.length, since := portTime s p.val } })) ∧
    ((s.port p.val).nextGcl = none → exec (.gclSwitch p) s = .next s) ∧
    (∀ (g : Gcl) (t : Nat), (s.port p.val).nextGcl = some (g, t) → exec (.gclSwitch p) s = .next (raise (wrf (s.setPort p.val { s.port p.val with
      gcl := { g with cur := 0, since := t }, nextGcl := none }) (pgShp p.val 0 + 0x180) 31 1 0) (pgShp p.val 0) 0 [])) ∧
    exec (.ptpTimeout p) s = .next (raise (s.setPort p.val { s.port p.val with ptpLock := false, ptpGood := 0 }) (pgNet p.val) 3 []) ∧
    (∀ d : Int, d.natAbs ≤ 1000 → ∃ moved rate : Int, moved.natAbs ≤ d.natAbs ∧ 0 ≤ moved * d ∧
      let good := if (d - moved).natAbs < 100 then min 16 ((s.port p.val).ptpGood + 1) else 0
      exec (.ptpSync p d) s = .next ({ s with free := s.free + 2 }.setPort p.val { s.port p.val with
        ptpStep := (s.port p.val).ptpStep + rateGain s p.val - moved, ptpRate := rate, ptpAt := portCount s p.val, ptpGood := good,
        ptpLock := (s.port p.val).ptpLock || decide (good ≥ 16) })) ∧
    (∀ d : Int, 1000 < d.natAbs → ∃ t : State, exec (.ptpSync p d) s = .next t ∧
      (t.port p.val).ptpStep = (s.port p.val).ptpStep + rateGain s p.val - d ∧ (t.port p.val).ptpAt = portCount s p.val ∧ (t.port p.val).ptpGood = min 16 ((s.port p.val).ptpGood + 1) ∧
      (t.port p.val).gcl.entries = (s.port p.val).gcl.entries ∧ t.regs = s.regs ∧ t.qps = s.qps)) ∧
  (∀ (p : Fin 4) (s : State),
    exec (.portLinkDown p) s = .next (if (s.port p.val).up = true then raise (s.setPort p.val { s.port p.val with up := false, sealed := false, hs := {} }) (pgNet p.val) 1 [] else s)) ∧
  (∀ (p : Fin 4) (s : State), HostMay s (pgShp p.val 0) →
    ((s.port p.val).nextGcl.isSome = true → exec (.gclCommit p) s = .next s) ∧
    ((s.port p.val).nextGcl = none → ∃ t : Nat, portTime s p.val ≤ t ∧
      (gclCycle (adminGcl s p.val) ≠ 0 → t < portTime s p.val + gclCycle (adminGcl s p.val) ∧ ((t : Int) - (adminGcl s p.val).base) % (gclCycle (adminGcl s p.val)) = 0) ∧
      exec (.gclCommit p) s = .next (wrf (s.setPort p.val { s.port p.val with nextGcl := some (adminGcl s p.val, t) }) (pgShp p.val 0 + 0x180) 31 1 1))) ∧
  (∀ (p : Fin 4) (s : State), HostMay s (pgNet p.val) → exec (.netTimeNsRead p) s =
    .next (emit (s.setPort p.val { s.port p.val with secLatch := portTime s p.val / 1000000000 % 2 ^ 48 }) (.read (pgNet p.val + 0x300) 4 (portTime s p.val % 1000000000)))) ∧
  (∀ (q : Nat) (s : State), (hostReach s = false ∨ tget? s.qps q = none) →
    exec (.ccTimerExpiry q) s = .next s ∧ exec (.ackTimeout q) s = .next s ∧ exec (.rnrTimerExpiry q) s = .next s) ∧
  (∀ (q : Nat) (s : State) (x : Qp), hostReach s = true → tget? s.qps q = some x →
    exec (.rnrTimerExpiry q) s = .next (s.setQp q { x with rnrWait := false }) ∧
    (x.cnpSeen = true → exec (.ccTimerExpiry q) s = .next (s.setQp q { x with cnpSeen := false })) ∧
    (x.cnpSeen = false → ∃ rt : Rat, rt = (if x.calm < 5 then x.rt else x.rt + (rdf s (pgNet x.port + 0x130) 16 16 : Nat)) ∧
      exec (.ccTimerExpiry q) s = .next (s.setQp q { x with
        a := (1 - (rdf s (pgNet x.port + 0x130) 0 8 : Nat) / 1024) * x.a, rt := rt, rc := max 100 (min 800000 ((x.rc + rt) / 2)), calm := min 5 (x.calm + 1) })) ∧
    (∀ f : Nat, oldestPsn x = some f → x.err = false → x.rnrWait = false → x.retries < qpRetry x →
      exec (.ackTimeout q) s = .next (s.setQp q (resendFrom { x with retries := x.retries + 1 } f))) ∧
    (∀ f : Nat, oldestPsn x = some f → x.err = false → x.rnrWait = false → qpRetry x ≤ x.retries → exec (.ackTimeout q) s = .next (qpError s q 1)) ∧
    ((oldestPsn x = none ∨ x.err = true ∨ x.rnrWait = true) → exec (.ackTimeout q) s = .next s))

/-- R333-R341, R345-R349, R353, R354, R357-R362, R366, R367: Packets. What a port that is down, sealed or told of a bad check sum receives; a queue pair
whose state is absent is fetched and its packet held; a WRITE in sequence that passes its key check is placed and acknowledged; a CNP slows its queue
pair; a refused key puts the queue pair in the error state. A sealed frame passes with a new packet number of one of the two latest associations. A
packet that may leave, and whose turn it is, leaves and charges its shaper, and waits otherwise: queues 0 to 3 go first. AETH codes, and what is
dropped and where it is counted, are the model's (log entries 60, 61 and 136). Where the condition of a command does not hold the state stays as it is
(log entry 99). Commands whose next state it gives: `packetReceive`, `qpFetchDone`, `resultBlockSend`. -/
def Obligations.PacketsAreReceivedAndSent : Prop :=
  (∀ (p : Fin 4) (k : Packet) (s : State), (hostReach s = false ∨ (s.port p.val).up = false ∨ 4352 < k.frameLen) → exec (.packetReceive p k) s = .next s) ∧
  (∀ (p : Fin 4) (k : Packet) (s : State), hostReach s = true → (s.port p.val).up = true → k.frameLen ≤ 4352 →
    let q := s.port p.val
    let first := q.hs.init && decide (q.hs.phase = .confirmSent)
    (q.sealReq = true → (k.sealed = false ∨ (q.sealed = false ∧ first = false)) → exec (.packetReceive p k) s = .next (bump s (pgNet p.val + 0x128) 16 16 1)) ∧
    (q.sealReq = true → k.sealed = true → (q.sealed = true ∨ first = true) → unsealed q.hs k = none → exec (.packetReceive p k) s = .next s) ∧
    (∀ h : Seal, q.sealReq = true → k.sealed = true → unsealed q.hs k = some h →
      (q.sealed = true → exec (.packetReceive p k) s = .next (receiveFrame (s.setPort p.val { q with sealed := true, hs := h }) p.val k)) ∧
      (q.sealed = false → first = true → exec (.packetReceive p k) s = .next (receiveFrame (s.setPort p.val { q with sealed := true, hs := { h with phase := .done } }) p.val k))) ∧
    (q.sealReq = false → k.sealed = true → exec (.packetReceive p k) s = .next s) ∧
    (q.sealReq = false → k.sealed = false → exec (.packetReceive p k) s = .next (receiveFrame s p.val k))) ∧
  (∀ (h : Seal) (k : Packet),
    (k.icvOk = true → k.an = h.keyIdx % 4 → h.rxPn < k.pn → unsealed h k = some { h with rxPn := k.pn }) ∧
    (k.icvOk = true → 1 ≤ h.keyIdx → k.an = (h.keyIdx - 1) % 4 → h.rxOld < k.pn → unsealed h k = some { h with rxOld := k.pn }) ∧
    ((k.icvOk = false ∨ (k.an = h.keyIdx % 4 ∧ k.pn ≤ h.rxPn) ∨ (k.an ≠ h.keyIdx % 4 ∧ (h.keyIdx = 0 ∨ k.an ≠ (h.keyIdx - 1) % 4 ∨ k.pn ≤ h.rxOld))) → unsealed h k = none)) ∧
  (∀ (n : Nat) (k : Packet) (s : State),
    (k.kind = .pause → receiveFrame s n k = bump s (pgNet n + 0x128) 0 16 1) ∧
    (k.kind = .vlan ∨ k.kind = .unsupported → receiveFrame s n k = s) ∧
    (k.kind = .roce → k.icrcOk = false → receiveFrame s n k = bump s (pgNet n + 0x124) 16 16 1) ∧
    (k.kind = .roce → k.icrcOk = true → supported k.opcode = false →
      receiveFrame s n k = if otherTransport k.opcode then bump s (pgNet n + 0x124) 0 16 1 else s) ∧
    (k.kind = .roce → k.icrcOk = true → supported k.opcode = true → tget? s.qps k.qpn = none → receiveFrame s n k = bump s (pgNet n + 0x124) 0 16 1) ∧
    (∀ x : Qp, k.kind = .roce → k.icrcOk = true → supported k.opcode = true → tget? s.qps k.qpn = some x → x.port = n → bit (le x.attr 0x10 2) 8 = false →
      x.err = false → (s.port n).refusals = [] →
      let s1 := meterPort s x.part n k.frameLen false
      ((s.port n).cache.contains k.qpn = false → receiveFrame s n k = holdPkt (askFetch s1 n k.qpn) n { pkt := k }) ∧
      ((s.port n).cache.contains k.qpn = true → (s.port n).held = [] →
        (k.opcode = 0x81 → receiveFrame s n k = recvCnp (useQp s1 n k.qpn) k.qpn x) ∧
        (k.opcode = 0x11 → receiveFrame s n k = recvAck (useQp s1 n k.qpn) k.qpn x k) ∧
        (k.opcode = 0x0A → k.ce = false → k.psn = x.rqPsn → k.psn < 2 ^ 24 → x.placing = none → x.refused = none → x.gapNak = false → k.dlen ≠ 0 → k.payload.length = k.dlen →
          let s2 := (useQp s1 n k.qpn).setQp k.qpn x
          (∀ (i : Nat) (g : Region), keyCheck s2 x k.rkey k.va k.dlen true = some (i, g) →
            receiveFrame s n k = ackMsg ((issueWrite (refWrite s2 x.part (g.base + k.va) k.payload) (.placed i g.gen)).setQp k.qpn { x with rqPsn := (k.psn + 1) % 2 ^ 24, placing := some { firstPsn := k.psn, isWrite := true, region := some (i, g.gen), ref := g.base + k.va + k.dlen, left := 0 } }) k.qpn k.psn) ∧
          (keyCheck s2 x k.rkey k.va k.dlen true = none →
            receiveFrame s n k = qpError (sendCtl (bump s2 (pgNet n + 0x11C) 0 16 1) k.qpn x 0x11 k.psn synAccess) k.qpn 2))))) ∧
  (∀ (s : State) (q : Nat) (x : Qp), recvCnp s q x = bump (s.setQp q { x with rt := x.rc, rc := ccClamp (x.rc * (1 - x.a / 2)), a := (1 - ccG s x.port) * x.a + ccG s x.port, calm := 0, cnpSeen := true }) (pgNet x.port + 0x120) 16 16 1) ∧
  (∀ (p : Fin 4) (q : Nat) (s s1 : State), hostReach s = true → (s.port p.val).fetch.contains q = true → (spillHost s && ideHold s) = false → cachePlace s p.val = some s1 →
    let s2 := bump (s1.setPort p.val { s1.port p.val with fetch := (s1.port p.val).fetch.erase q, cache := (s1.port p.val).cache ++ [q] }) (pgNet p.val + 0x10C) 0 32 1
    ∀ (b : Bool) (s3 : State), readSpill s2 q = (b, s3) →
      exec (.qpFetchDone p q) s = .next (processHeld (if b then s3 else qpError s3 q 4) p.val q ((s3.port p.val).held.length + 1))) ∧
  (∀ (p : Fin 4) (q : Nat) (s : State), (hostReach s = false ∨ (s.port p.val).fetch.contains q = false ∨ (spillHost s && ideHold s) = true ∨ cachePlace s p.val = none) →
    exec (.qpFetchDone p q) s = .next s) ∧
  (∀ (p : Fin 4) (q i : Nat) (s : State) (x : Qp) (m : OutMsg) (pk : Packet) (gate : GateSays) (p0 : Port), hostReach s = true → tget? s.qps q = some x → x.port = p.val →
    sendable s q = some (x, i, m, pk, gate) → nextSend s p.val = some (q, p0) →
    let p1 := if p0.shRate.getD m.tclass 0 = 0 then p0 else { p0 with tokens := modAt (fun t => t - (1000 * pk.frameLen : Nat)) m.tclass p0.tokens }
    let s1 := useQp ((s.setPort p.val p1).setQp q { sentMsg x i m with pace := max (portCount s p.val : Rat) x.pace + (8000 * pk.frameLen : Nat) / x.rc }) p.val q
    let s2 := meterPort (transmit s1 p.val q (classDscp s1 p.val m.tclass) pk) x.part p.val pk.frameLen true
    exec (.resultBlockSend p q) s = .next (if gate = .over then raise (bump s2 (pgShp p.val 0 + 0x190) 0 16 1) (pgShp p.val 0) 1 [] else s2)) ∧
  (∀ (s : State) (q : Nat) (y : Qp × Nat × OutMsg × Packet × GateSays), sendable s q = some y → ∃ x : Qp, tget? s.qps q = some x ∧ y.1 = x ∧ x.err = false ∧
    portOpen (s.port x.port) = true ∧ (s.port x.port).cache.contains q = true ∧ y.2.2.2.2 ≠ .wait ∧ x.pace ≤ (portCount s x.port : Rat) ∧
    ((s.port x.port).shRate.getD y.2.2.1.tclass 0 ≠ 0 → 0 < (s.port x.port).tokens.getD y.2.2.1.tclass 0)) ∧
  (∀ (s : State) (p q : Nat) (p0 : Port) (c : Nat) (h : Nat × Nat × Nat), nextSend s p = some (q, p0) → c < 4 → queueHead s p c = some h →
    (∀ d : Nat, d < c → queueHead s p d = none) → q = h.1 ∧ p0 = s.port p) ∧
  (∀ (p : Fin 4) (q : Nat) (s : State), (hostReach s = false ∨ tget? s.qps q = none ∨ ∃ x : Qp, tget? s.qps q = some x ∧ (x.port ≠ p.val ∨
    ((s.port p.val).cache.contains q = true ∧ (sendable s q = none ∨ ∀ p0 : Port, nextSend s p.val ≠ some (q, p0))))) → exec (.resultBlockSend p q) s = .next s)

/-- R436-R441: Link sealing. A `HELLO` is answered with a `REPLY` where its form and its sender's key are good, unless a handshake stands that goes before
it; a `REPLY` is answered with a `CONFIRM` where its signature is good; a good `CONFIRM` makes sealing active; a `REKEY` must name the next key index,
with which packet numbers begin anew while the key before it is kept for what is still under way. What fails is answered with `ABORT` and its reason:
1 unknown key, 2 signature, 3 form, 4 key index. An `ABORT` and a wait of 5 s end the handshake. The algorithms stand as opaque functions (log entry
62). Where the condition of a command does not hold the state stays as it is (log entry 99). Commands whose next state it gives: `hello`, `reply`,
`confirm`, `rekey`, `abort`, `helloRepeat`, `handshakeTimeout`, `rekeyPeriod`. -/
def Obligations.LinksAreSealed : Prop :=
  (∀ (p : Fin 4) (m : List Byte) (s : State), (hostReach s = false ∨ hsOpen s p.val = false) →
    exec (.hello p m) s = .next s ∧ exec (.reply p m) s = .next s ∧ exec (.confirm p m) s = .next s ∧ exec (.rekey p m) s = .next s ∧
    exec (.abort p m) s = .next s ∧ exec (.helloRepeat p) s = .next s ∧ exec (.rekeyPeriod p) s = .next s) ∧
  (∀ (p : Fin 4) (m : List Byte) (s : State), hostReach s = true → hsOpen s p.val = true →
    let x := s.port p.val
    let h := x.hs
    (h.phase = .helloSent → exec (.helloRepeat p) s = .next (sendHs s p.val h.hello)) ∧
    ((h.phase = .none ∨ h.phase = .failed) → ∃ (nonce : List Byte) (eph : Nat), nonce.length = 32 ∧
      exec (.helloRepeat p) s = .next (sendHs ({ s with free := s.free + 2 }.setPort p.val { x with hs := { phase := .helloSent, init := true, hello := hsMsg 1 0 (nonce ++ ownDigest ++ kemPub (leBytes 64 eph)), eph := eph } }) p.val (hsMsg 1 0 (nonce ++ ownDigest ++ kemPub (leBytes 64 eph))))) ∧
    ((h.phase = .replySent ∨ h.phase = .confirmSent ∨ h.phase = .done) → exec (.helloRepeat p) s = .next s) ∧
    ((h.phase = .confirmSent ∨ h.phase = .done) → exec (.hello p m) s = .next s) ∧
    (h.phase = .helloSent → hsOk m 1 0 = true → leNat ownDigest < leNat (bslice m 48 32) → exec (.hello p m) s = .next s) ∧
    ((h.phase = .none ∨ h.phase = .failed ∨ h.phase = .replySent ∨ (h.phase = .helloSent ∧ leNat (bslice m 48 32) ≤ leNat ownDigest)) →
      (hsOk m 1 0 = false → exec (.hello p m) s = .next (sealAbort s p.val 3)) ∧
      (hsOk m 1 0 = true → trustKey s (bslice m 48 32) = none → exec (.hello p m) s = .next (sealAbort s p.val 1)) ∧
      (∀ k : List Byte, hsOk m 1 0 = true → trustKey s (bslice m 48 32) = some k → ∃ (r secret : List Byte),
        exec (.hello p m) s = .next (sendHs ({ s with free := s.free + 2 }.setPort p.val { x with hs := { phase := .replySent, init := false, hello := m, reply := r, peer := bslice m 48 32, secret := secret } }) p.val r))) ∧
    (h.phase ≠ .helloSent → exec (.reply p m) s = .next s) ∧
    (h.phase = .helloSent →
      (hsOk m 2 0 = false → exec (.reply p m) s = .next (sealAbort s p.val 3)) ∧
      (hsOk m 2 0 = true → trustKey s (bslice m 48 32) = none → exec (.reply p m) s = .next (sealAbort s p.val 1)) ∧
      (∀ k : List Byte, hsOk m 2 0 = true → trustKey s (bslice m 48 32) = some k →
        (dsaVerify k (sha3 (h.hello ++ m.take 1168)) (bslice m 1168 2420) "XCN3-HS-R" = false → exec (.reply p m) s = .next (sealAbort s p.val 2)) ∧
        (dsaVerify k (sha3 (h.hello ++ m.take 1168)) (bslice m 1168 2420) "XCN3-HS-R" = true → exec (.reply p m) s =
          .next (sendHs (s.setPort p.val { x with hs := { h with phase := .confirmSent, reply := m, peer := bslice m 48 32, eph := 0, keyIdx := 0, secret := derive (leBytes 32 (Config.mlkemOpen (leBytes 64 h.eph) (bslice m 80 1088))) (sha3 (h.hello ++ m)) "XCN3-SESS" } })
            p.val (hsMsg 3 0 (dsaSign idSeed (sha3 (h.hello ++ m)) "XCN3-HS-I")))))) ∧
    (h.phase ≠ .replySent → exec (.confirm p m) s = .next s) ∧
    (h.phase = .replySent →
      (hsOk m 3 0 = false → exec (.confirm p m) s = .next (sealAbort s p.val 3)) ∧
      (hsOk m 3 0 = true → trustKey s h.peer = none → exec (.confirm p m) s = .next (sealAbort s p.val 1)) ∧
      (∀ k : List Byte, hsOk m 3 0 = true → trustKey s h.peer = some k →
        (dsaVerify k (sha3 (h.hello ++ h.reply)) (bslice m 16 2420) "XCN3-HS-I" = false → exec (.confirm p m) s = .next (sealAbort s p.val 2)) ∧
        (dsaVerify k (sha3 (h.hello ++ h.reply)) (bslice m 16 2420) "XCN3-HS-I" = true →
          exec (.confirm p m) s = .next (s.setPort p.val { x with hs := { h with phase := .done, keyIdx := 0 }, sealed := true })))) ∧
    (x.sealed = false → exec (.rekey p m) s = .next s ∧ exec (.rekeyPeriod p) s = .next s) ∧
    (x.sealed = true →
      (hsOk m 4 0 = false → exec (.rekey p m) s = .next (sealAbort s p.val 3)) ∧
      (hsOk m 4 0 = true → le m 16 4 ≠ h.keyIdx + 1 → exec (.rekey p m) s = .next (sealAbort s p.val 4)) ∧
      (hsOk m 4 0 = true → le m 16 4 = h.keyIdx + 1 → exec (.rekey p m) s = .next (s.setPort p.val { x with hs := nextKey h })) ∧
      exec (.rekeyPeriod p) s = .next (sendHs (s.setPort p.val { x with hs := nextKey h }) p.val (hsMsg 4 0 (leBytes 4 (h.keyIdx + 1))))) ∧
    (hsOk m 5 0 = true → h.phase ≠ .none → h.phase ≠ .failed → exec (.abort p m) s = .next (sealFail s p.val)) ∧
    ((hsOk m 5 0 = false ∨ h.phase = .none ∨ h.phase = .failed) → exec (.abort p m) s = .next s)) ∧
  (∀ (p : Fin 4) (s : State),
    ((hostReach s = false ∨ (s.port p.val).hs.phase = .none ∨ (s.port p.val).hs.phase = .done ∨ (s.port p.val).hs.phase = .failed) → exec (.handshakeTimeout p) s = .next s) ∧
    (hostReach s = true → ((s.port p.val).hs.phase = .helloSent ∨ (s.port p.val).hs.phase = .replySent ∨ (s.port p.val).hs.phase = .confirmSent) →
      exec (.handshakeTimeout p) s = .next (sealFail s p.val))) ∧
  (∀ h : Seal, (nextKey h).keyIdx = h.keyIdx + 1 ∧ (nextKey h).txPn = 0 ∧ (nextKey h).rxPn = 0 ∧ (nextKey h).rxOld = h.rxPn ∧ (nextKey h).secret = h.secret)

/-- R336, R337, R338, R343-R346, R355, R540: Queue pairs. One is created as the staged block says where the block is allowed, its number is free and the
spill table is enabled; destroyed with all it holds; read with its state. Each command ends in `RESULT`: 1 no work is taken, 2 the block, 3 the
number, 4 no spill table. Registered regions. A registration takes the staged block under the index's next generation; re-registration changes base
and length, or keeps them, and deregistration removes the region; both wait for packets checked under the old generation. A key check passes for the
region's own key, partition, access and range. The two fields of a read of an absent queue pair are the model's reading (log entry 52). Where the
condition of a command does not hold the state stays as it is (log entry 99). Commands whose next state it gives: `qpCreate`, `qpDestroy`, `qpRead`,
`regionRegister`, `regionReregisterNew`, `regionReregisterKeep`, `regionDeregister`, `regionRead`, `regionCommandDrain`. -/
def Obligations.QueuePairsAndRegions : Prop :=
  (∀ (p : Fin 4) (s : State), HostMay s (pgNet p.val) →
    (s.stw.rm ≠ .running → exec (.qpCreate p) s = .next (qpResult s p.val 1) ∧ exec (.qpDestroy p) s = .next (qpResult s p.val 1) ∧
      exec (.qpRead p) s = .next (qpResult s p.val 1)) ∧
    (RmTakes s 1 →
      let a := stagedAttr s p.val
      let q := le a 0 4
      (attrOk s a = false → exec (.qpCreate p) s = .next (qpResult s p.val 2)) ∧
      (attrOk s a = true → tget? s.qps q ≠ none → exec (.qpCreate p) s = .next (qpResult s p.val 3)) ∧
      (attrOk s a = true → tget? s.qps q = none → rdf s (pgNet 0 + 0x2B8) 0 1 = 0 → exec (.qpCreate p) s = .next (qpResult s p.val 4)) ∧
      (attrOk s a = true → tget? s.qps q = none → rdf s (pgNet 0 + 0x2B8) 0 1 = 1 → exec (.qpCreate p) s = .next (qpResult
        (writeBack (s.setQp q { port := p.val, part := le a 4 1, attr := a, sqPsn := le a 0x14 4, rqPsn := le a 0x18 4, rnrLeft := bits (le a 0x0E 1) 4 3 }) q) p.val 0)) ∧
      (stagedQp s p.val = none → exec (.qpDestroy p) s = .next (qpResult s p.val 3) ∧
        exec (.qpRead p) s = .next (qpResult (wrf (wrf s (pgNet p.val + 0x244) 4 2 0) (pgNet p.val + 0x244) 6 1 0) p.val 3)) ∧
      (∀ (n : Nat) (x : Qp), stagedQp s p.val = some (n, x) →
        exec (.qpDestroy p) s = .next (qpResult (removeQp s n) p.val 0) ∧ tget? (removeQp s n).qps n = none ∧
        exec (.qpRead p) s = .next (qpResult (wrf (wrf s (pgNet p.val + 0x244) 4 2 (if x.err then 2 else 1)) (pgNet p.val + 0x244) 6 1
          (if (s.port p.val).cache.contains n then 1 else 0)) p.val 0)))) ∧
  ((∀ s : State, HostMay s (pgNet 0) → s.regionBusy = none → s.stw.rm ≠ .running →
    let t := wrf s (pgNet 0 + 0x2A4) 1 3 1
    exec .regionRegister s = .next t ∧ exec .regionReregisterNew s = .next t ∧ exec .regionReregisterKeep s = .next t ∧ exec .regionDeregister s = .next t ∧
    exec .regionRead s = .next t) ∧
  (∀ s : State, HostMay s (pgNet 0) → s.regionBusy ≠ none →
    exec .regionRegister s = .next s ∧ exec .regionReregisterNew s = .next s ∧ exec .regionReregisterKeep s = .next s ∧ exec .regionDeregister s = .next s ∧
    exec .regionRead s = .next s) ∧
  (∀ s : State, HostMay s (pgNet 0) → s.regionBusy = none → RmTakes s 1 →
    let b := stagedRegion s
    let i := le b 0 4
    (∀ ok : Bool, ok = (decide (i < 65536) && decide (le b 4 1 < 32) && decide (le b 5 1 < 8) && !(bit (le b 5 1) 2 && bit (le b 5 1) 1) && decide (le b 6 2 = 0) &&
        decide (le b 0x18 8 = 0) && partOpen s (le b 4 1) && spanOk s (le b 4 1) (le b 5 1) (le b 8 8) (le b 0x10 8)) →
      (ok = false → exec .regionRegister s = .next (regionResult s (i % 65536) 2)) ∧
      (ok = true → tget? s.regions i ≠ none → exec .regionRegister s = .next (regionResult s i 3)) ∧
      (ok = true → tget? s.regions i = none → exec .regionRegister s = .next (regionResult { s with
        regions := tput s.regions i { part := le b 4 1, acc := le b 5 1, base := le b 8 8, len := le b 0x10 8, gen := tget 0 s.regionGen i },
        regionGen := tset 0 s.regionGen i ((tget 0 s.regionGen i + 1) % 256) } i 0))) ∧
    (65536 ≤ i → exec .regionDeregister s = .next (regionResult s (i % 65536) 2) ∧ exec .regionRead s = .next (regionResult s (i % 65536) 2)) ∧
    (i < 65536 → tget? s.regions i = none → exec .regionDeregister s = .next (regionResult s i 3) ∧ exec .regionRead s = .next (regionResult s i 3) ∧
      exec .regionReregisterKeep s = .next (regionResult s i 3) ∧ exec .regionReregisterNew s = .next (regionResult s i 3)) ∧
    (∀ g : Region, i < 65536 → tget? s.regions i = some g →
      exec .regionDeregister s = .next (regionWait (regionResult { s with regions := tdel s.regions i } i 0) i g) ∧
      (partOpen s g.part = true → exec .regionReregisterKeep s = .next (reregister s i g g.base g.len)) ∧
      (partOpen s g.part = false → exec .regionReregisterKeep s = .next (regionResult s i 2) ∧ exec .regionReregisterNew s = .next (regionResult s i 2)) ∧
      (partOpen s g.part = true → spanOk s g.part g.acc (le b 8 8) (le b 0x10 8) = true → exec .regionReregisterNew s = .next (reregister s i g (le b 8 8) (le b 0x10 8))) ∧
      (partOpen s g.part = true → spanOk s g.part g.acc (le b 8 8) (le b 0x10 8) = false → exec .regionReregisterNew s = .next (regionResult s i 2)) ∧
      (∃ t : State, exec .regionRead s = .next (regionResult t i 0) ∧ t.regions = s.regions ∧ t.qps = s.qps ∧
        ∀ j : Nat, j < 8 → rd t (pgNet 0 + 0x280 + 4 * j) = le (leBytes 4 i ++ leBytes 1 g.part ++ leBytes 1 g.acc ++ leBytes 2 0 ++ leBytes 8 g.base ++ leBytes 8 g.len ++ leBytes 8 0) (4 * j) 4))) ∧
  (∀ (s : State) (i : Nat) (g : Region) (base len : Nat), ∃ t : State, reregister s i g base len = regionWait t i g ∧
    tget? t.regions i = some { g with base := base, len := len, gen := (g.gen + 1) % 256 }) ∧
  (∀ s : State,
    (s.regionBusy = none → exec .regionCommandDrain s = .next s) ∧
    (∀ w : RegionWait, s.regionBusy = some w →
      (regionInUse s w.index w.old.gen = true → exec .regionCommandDrain s = .next s) ∧
      (regionInUse s w.index w.old.gen = false → exec .regionCommandDrain s = .next (wrf { s with regionBusy := none } (pgNet 0 + 0x2A4) 0 1 0)))) ∧
  (∀ (s : State) (i gen : Nat), s.cxl.wq.contains (.placed i gen) = true → regionInUse s i gen = true) ∧
  (∀ (s : State) (x : Qp) (g : Region) (i va len : Nat) (write : Bool), i < 65536 → tget? s.regions i = some g → g.gen < 256 →
    (keyCheck s x (regionKey i g) va len write = some (i, g) ↔
      g.part = x.part ∧ bit g.acc (if write then 1 else 0) = true ∧ va + len ≤ (if bit g.acc 2 = true then 2 ^ 62 else g.len))))

/-- R268, R371, R372, R377, R382-R387: The CXL link and CXL.mem. The link trains as the first row that its partner offers, or is held down. A read of an
accepted extent returns its line, and a poisoned or absent one poison; a narrow write to a poisoned line is dropped and counted. An answered
back-invalidate lets the writes behind it land; a snooped line is given up. A failed IDE check ends both streams (log entry 74). Narrow poisoned
writes and snooped spill lines follow log entries 75 and 76. Where the condition of a command does not hold the state stays as it is (log entry 99).
Commands whose next state it gives: `cxlLinkUp`, `cxlMemRead`, `cxlMemWrite`, `hostSnoop`, `birsp`, `ideFail`, `cxlLinkRecovery`. -/
def Obligations.CxlMemoryAccesses : Prop :=
  (∀ (speed width : Nat) (f c m : Bool) (s : State), (hostReach s = false ∨ s.cxl.speed ≠ 0) → exec (.cxlLinkUp speed width f c m) s = .next s) ∧
  (∀ (speed width : Nat) (f c m : Bool) (s : State), hostReach s = true → s.cxl.speed = 0 →
    let row := fun (n : Nat) => { s with cxl := { s.cxl with speed := n, width := widthCode width, flit256 := decide (n = 2), cacheEn := true } }
    ((widthCode width = 0 ∨ c = false ∨ speed < 32) → exec (.cxlLinkUp speed width f c m) s = .next (raise s pgCxl 3 [])) ∧
    (width = 16 → c = true → 64 ≤ speed → f = true → m = true → exec (.cxlLinkUp speed width f c m) s = .next (raise (row 2) pgCxl 0 [])) ∧
    (width = 16 → c = true → 32 ≤ speed → (speed < 64 ∨ f = false ∨ m = false) → exec (.cxlLinkUp speed width f c m) s = .next (raise (row 1) pgCxl 0 [])) ∧
    ((width = 8 ∨ width = 4) → c = true → 64 ≤ speed → f = true → m = true → exec (.cxlLinkUp speed width f c m) s = .next (raise (raise (row 2) pgCxl 0 []) pgCxl 2 []))) ∧
  (∀ s : State, exec .cxlLinkRecovery s = .next s) ∧
  (∀ s : State, (s.cxl.ideIo = true ∨ s.cxl.ideCm = true) →
    exec .ideFail s = .next (raise { s with cxl := { s.cxl with ideIo := false, ideCm := false, ide := {} } } pgCxl 4 [])) ∧
  (∀ s : State, s.cxl.ideIo = false → s.cxl.ideCm = false → exec .ideFail s = .next s) ∧
  (∀ (a : Nat) (b : List Byte) (bad : Bool) (line : Nat) (s : State), hostReach s = false →
    exec (.cxlMemRead a) s = .next s ∧ exec (.cxlMemWrite a b bad) s = .next s ∧ exec (.hostSnoop line) s = .next s ∧ exec (.birsp line) s = .next s) ∧
  (∀ (a : Nat) (s : State), hostReach s = true → a < 2 ^ 39 →
    (memOn s = false → exec (.cxlMemRead a) s = .next (emit s (.unsupported a))) ∧
    (memOn s = true → ideHold s = true → exec (.cxlMemRead a) s = .next (emit s (.cxlDrop a))) ∧
    (memOn s = true → ideHold s = false → dpaOpen s a = false → exec (.cxlMemRead a) s = .next (emit s (.cxlData (a / 64 * 64) true (List.replicate 64 0)))) ∧
    (∀ s1 : State, memOn s = true → ideHold s = false → dpaOpen s a = true → readDev s (a / 64) = (true, s1) →
      exec (.cxlMemRead a) s = .next (emit s1 (.cxlData (a / 64 * 64) true (List.replicate 64 0)))) ∧
    (∀ s1 : State, memOn s = true → ideHold s = false → dpaOpen s a = true → readDev s (a / 64) = (false, s1) →
      exec (.cxlMemRead a) s = .next (emit (trackLine s1 (a / 64)) (.cxlData (a / 64 * 64) false (mread s1.devMem (a / 64 * 64) 64))))) ∧
  (∀ (s : State) (l : Nat),
    ((dpaAnswers s (l * 64) = false ∨ tget? s.devBad l ≠ none) → readDev s l = (true, s)) ∧
    (∀ k : Nat, dpaAnswers s (l * 64) = true → tget? s.devBad l = none → dpaStack s (l * 64) = some k → (∀ e ∈ (s.hbmc k).uses, e.2 ≠ .dev l) → readDev s l = (false, s))) ∧
  (∀ (a : Nat) (b : List Byte) (bad : Bool) (s : State), hostReach s = true → a < 2 ^ 39 → b ≠ [] → a % 64 + b.length ≤ 64 →
    (memOn s = false → exec (.cxlMemWrite a b bad) s = .next (emit s (.unsupported a))) ∧
    (memOn s = true → (ideHold s = true ∨ dpaOpen s a = false) → exec (.cxlMemWrite a b bad) s = .next (emit s (.cxlDrop a))) ∧
    (memOn s = true → ideHold s = false → dpaOpen s a = true →
      exec (.cxlMemWrite a b false) s = .next (devPutLine s a b) ∧
      (b.length = 64 → exec (.cxlMemWrite a b true) s = .next (wroteDev s (a / 64) (some 3))) ∧
      (∀ s1 : State, b.length < 64 → readDev s (a / 64) = (true, s1) → exec (.cxlMemWrite a b true) s = .next (dropNarrow s1 a)) ∧
      (∀ s1 : State, b.length < 64 → readDev s (a / 64) = (false, s1) → exec (.cxlMemWrite a b true) s = .next (wroteDev s1 (a / 64) (some 3))))) ∧
  (∀ (s : State) (a : Nat) (b : List Byte),
    (b.length = 64 → (devPutLine s a b).devMem = mwrite s.devMem a b ∧ tget? (devPutLine s a b).devBad (a / 64) = none) ∧
    (∀ s1 : State, b.length ≠ 64 → readDev s (a / 64) = (true, s1) → devPutLine s a b = dropNarrow s1 a) ∧
    (∀ s1 : State, b.length ≠ 64 → readDev s (a / 64) = (false, s1) → devPutLine s a b = { s1 with devMem := mwrite s1.devMem a b }) ∧
    (∀ c : Nat, tget? (wroteDev s (a / 64) (some c)).devBad (a / 64) = some c) ∧
    (∀ k : Nat, dpaStack s a = some k → dropNarrow s a = raise (s.setHbm k { s.hbmc k with dropped := sat 32 ((s.hbmc k).dropped + 1) }) (pgHbm k) 7 [])) ∧
  (∀ (line : Nat) (s : State), hostReach s = true →
    (s.cxl.bisnp.contains line = false → exec (.birsp line) s = .next s) ∧
    (s.cxl.bisnp.contains line = true →
      let s1 := { s with cxl := { s.cxl with bisnp := s.cxl.bisnp.erase line, filter := modAt (fun f => f.erase line) (dpaDie (line * 64)) s.cxl.filter } }
      exec (.birsp line) s = .next (drainWrites s1 (2 * s.cxl.wq.length + 3))) ∧
    (tget? s.cxl.cache line = none → exec (.hostSnoop line) s = .next (emit s (.snoopAns line false false))) ∧
    (tget? s.cxl.cache line = some false → exec (.hostSnoop line) s = .next (emit { s with cxl := { s.cxl with cache := tdel s.cxl.cache line } } (.snoopAns line true false))) ∧
    (tget? s.cxl.cache line = some true → ∃ b : List Byte, b.length = 64 ∧ exec (.hostSnoop line) s =
      .next (emit (hostPut { s with cxl := { s.cxl with cache := tdel s.cxl.cache line }, free := s.free + 1 } (line * 64) b) (.snoopAns line true true))))

/-- R369, R370, R379-R381, R535: Dynamic capacity. An extent is added, offered, accepted, released, zeroed and free again; the staged command reports 1 no
work taken, 2 offset or partition or absence, 3 in use, 4 no room, 5 no CXL.mem. Where the condition of a command does not hold the state stays as it
is (log entry 99). Commands whose next state it gives: `dcAdd`, `dcRelease`, `dcRead`, `extentUnused`, `extentZeroed`. -/
def Obligations.ExtentsGoTheirWay : Prop :=
  (∀ s : State, HostMay s pgCxl → s.stw.rm ≠ .running →
    exec .dcAdd s = .next (dcResult s 1) ∧ exec .dcRelease s = .next (dcResult s 1) ∧ exec .dcRead s = .next (dcResult s 1)) ∧
  (∀ (e p off : Nat) (offer : Bool) (s : State), HostMay s pgCxl → RmTakes s 1 → stagedExt s = (e, p, off, offer) →
    let x := tget {} s.cxl.ext e
    let clash := (extentAt s p (off * 2 ^ 30)).isSome = true ∨ (offer = true ∧ (s.part p).sealed = true) ∨ partOpen s p = false
    (x.state ≠ .free → exec .dcAdd s = .next (dcResult s 3)) ∧
    (x.state = .free → clash → exec .dcAdd s = .next (dcResult s 2)) ∧
    (x.state = .free → ¬clash → extFits s p (extPcs s p (e / 64)) = false → exec .dcAdd s = .next (dcResult s 4)) ∧
    (x.state = .free → ¬clash → extFits s p (extPcs s p (e / 64)) = true → offer = true → memOn s = false → exec .dcAdd s = .next (dcResult s 5)) ∧
    (x.state = .free → ¬clash → extFits s p (extPcs s p (e / 64)) = true → offer = false → exec .dcAdd s =
      .next (dcResult (setExt s e { state := .alloc, part := p, poff := off, order := s.cxl.dcHandle, pcs := extPcs s p (e / 64) }) 0)) ∧
    (x.state = .free → ¬clash → extFits s p (extPcs s p (e / 64)) = true → offer = true → memOn s = true → exec .dcAdd s =
      .next (dcResult (postDc (setExt (zeroExt s e) e { state := .offered, part := p, poff := off, order := s.cxl.dcHandle, pcs := extPcs s p (e / 64) }) false e) 0)) ∧
    (x.state = .free → exec .dcRelease s = .next (dcResult s 2)) ∧
    ((x.state = .releasing ∨ x.state = .zeroing) → exec .dcRelease s = .next (dcResult s 0)) ∧
    ((x.state = .alloc ∨ x.state = .offered ∨ x.state = .accepted) → extInUse s x.part x.poff = true → exec .dcRelease s = .next (dcResult s 3)) ∧
    ((x.state = .alloc ∨ x.state = .offered) → extInUse s x.part x.poff = false → exec .dcRelease s = .next (dcResult (setExt s e { x with state := .releasing }) 0)) ∧
    (x.state = .accepted → x.relReq = false → extInUse s x.part x.poff = false →
      exec .dcRelease s = .next (dcResult (postDc (setExt s e { x with relReq := true }) true e) 0)) ∧
    (let a := pgCxl + 0x118
     exec .dcRead s = .next (dcResult (wrf (wrf (wrf (wrf s a 4 3 (extCode x.state)) a 7 5 x.part) a 12 9 x.poff) a 21 1 (if x.relReq then 1 else 0)) 0))) ∧
  (∀ (e : Fin 512) (s : State),
    let x := tget {} s.cxl.ext e.val
    (x.state = .zeroing → exec (.extentZeroed e) s = .next (setExt (zeroExt s e.val) e.val {})) ∧
    (x.state ≠ .zeroing → exec (.extentZeroed e) s = .next s) ∧
    (x.state ≠ .releasing → exec (.extentUnused e) s = .next s) ∧
    (x.state = .releasing → (∀ k ∈ s.reqs, k.2.part = x.part → ∀ a ∈ reqRanges s k.2, refOverlaps a.1 a.2 x.poff = false) →
      exec (.extentUnused e) s = .next (setExt s e.val { x with state := .zeroing })) ∧
    (x.state = .releasing → (∃ k ∈ s.reqs, k.2.part = x.part ∧ ∃ a ∈ reqRanges s k.2, refOverlaps a.1 a.2 x.poff = true) → exec (.extentUnused e) s = .next s))

/-- R369, R370, R381, R386, R535: The mailbox of the memory device; its codes and payloads are those of the CXL standard (log entry 73). It answers
Unsupported without Dynamic Capacity or for a command it does not have, and Busy while the ringmaster takes no work. Extents named are accepted, or
given back; the earliest offer is declined by an empty list. Where the condition of a command does not hold the state stays as it is (log entry 99).
Commands whose next state it gives: `addDynamicCapacityResponse`, `releaseDynamicCapacity`, `identifyMemoryDevice`, `getDynamicCapacityConfiguration`,
`getDynamicCapacityExtentList`, `getEventRecords`, `clearEventRecords`, `unsupportedMailboxCommand`. -/
def Obligations.MailboxCommands : Prop :=
  (∀ (c : Instr) (code : Nat) (s : State),
    ((∃ l, c = .addDynamicCapacityResponse l ∧ code = 0x4802) ∨ (∃ l, c = .releaseDynamicCapacity l ∧ code = 0x4803) ∨ (c = .identifyMemoryDevice ∧ code = 0x4000) ∨
      (c = .getDynamicCapacityConfiguration ∧ code = 0x4800) ∨ (c = .getDynamicCapacityExtentList ∧ code = 0x4801) ∨ (∃ l, c = .getEventRecords l ∧ code = 0x0100) ∨
      (∃ l h, c = .clearEventRecords l h ∧ code = 0x0101) ∨ c = .unsupportedMailboxCommand code) →
    (hostReach s = false → exec c s = .next s) ∧
    (hostReach s = true → ideHold s = true → exec c s = .next (emit s (.unsupported code)))) ∧
  (∀ (code : Nat) (s : State), hostReach s = true → ideHold s = false → exec (.unsupportedMailboxCommand code) s = .next (mbReply s code 3 [])) ∧
  (∀ (l : List (Nat × Nat)) (s : State), hostReach s = true → ideHold s = false → s.chip.dcCap = false →
    exec (.addDynamicCapacityResponse l) s = .next (mbReply s 0x4802 3 []) ∧ exec (.releaseDynamicCapacity l) s = .next (mbReply s 0x4803 3 []) ∧
    exec .getDynamicCapacityConfiguration s = .next (mbReply s 0x4800 3 []) ∧ exec .getDynamicCapacityExtentList s = .next (mbReply s 0x4801 3 [])) ∧
  (∀ s : State, hostReach s = true → ideHold s = false → s.stw.rm ≠ .running → s.chip.dcCap = true →
    exec .identifyMemoryDevice s = .next (mbReply s 0x4000 6 []) ∧ exec .getDynamicCapacityExtentList s = .next (mbReply s 0x4801 6 [])) ∧
  (∀ s : State, hostReach s = true → ideHold s = false → RmTakes s 1 →
    (∃ b : List Byte, b.length = 69 ∧ exec .identifyMemoryDevice s = .next (mbReply { s with free := s.free + 1 } 0x4000 0 b)) ∧
    (∀ n : Nat, 4 < n → exec (.getEventRecords n) s = .next (mbReply s 0x0100 2 []) ∧ ∀ h : List Nat, exec (.clearEventRecords n h) s = .next (mbReply s 0x0101 2 [])) ∧
    (∀ n : Nat, n < 4 → exec (.getEventRecords n) s = .next (mbReply s 0x0100 0 (leBytes 2 0))) ∧
    exec (.getEventRecords 4) s = .next (mbReply s 0x0100 0 (leBytes 2 s.cxl.dcLog.length ++ s.cxl.dcLog.flatMap (fun e =>
      leBytes 2 e.handle ++ leBytes 1 (if e.release then 1 else 0) ++ extBytes e.ext e.part))) ∧
    (∀ h : List Nat, (∀ k ∈ h, ∃ e ∈ s.cxl.dcLog, e.handle = k) → exec (.clearEventRecords 4 h) s =
      .next (mbReply { s with cxl := { s.cxl with dcLog := s.cxl.dcLog.filter (fun e => !h.contains e.handle) } } 0x0101 0 [])) ∧
    (∀ h : List Nat, (∃ k ∈ h, ∀ e ∈ s.cxl.dcLog, e.handle ≠ k) → exec (.clearEventRecords 4 h) s = .next (mbReply s 0x0101 0x0E [])) ∧
    (s.chip.dcCap = true →
      (∃ b : List Byte, b.length = 328 ∧ le b 0 8 = 8 ∧ (∀ r : Nat, r < 8 → le b (8 + 40 * r) 8 = r * 2 ^ 36 ∧ le b (24 + 40 * r) 8 = 2 ^ 36 ∧ le b (32 + 40 * r) 8 = 2 ^ 30) ∧
        exec .getDynamicCapacityConfiguration s = .next (mbReply { s with free := s.free + 1 } 0x4800 0 b)) ∧
      (let l := s.cxl.ext.filter (fun e => decide (e.2.state = .accepted))
       exec .getDynamicCapacityExtentList s = .next (mbReply s 0x4801 0 (leBytes 4 l.length ++ leBytes 4 l.length ++ leBytes 8 0 ++ l.flatMap (fun e => extBytes e.1 e.2.part)))) ∧
      (∀ a l, extsNamed s .offered (a :: l) = none → exec (.addDynamicCapacityResponse (a :: l)) s = .next (mbReply s 0x4802 0x0F [])) ∧
      (∀ a l es, extsNamed s .offered (a :: l) = some es → exec (.addDynamicCapacityResponse (a :: l)) s =
        .next (mbReply (es.foldl (fun s e => setExt s e { tget {} s.cxl.ext e with state := .accepted }) s) 0x4802 0 [])) ∧
      ((∀ e ∈ s.cxl.ext, e.2.state ≠ .offered) → exec (.addDynamicCapacityResponse []) s = .next (mbReply s 0x4802 0 [])) ∧
      (∀ (e : Nat) (x : Extent), s.cxl.ext.filter (fun e => decide (e.2.state = .offered)) = [(e, x)] →
        exec (.addDynamicCapacityResponse []) s = .next (mbReply (setExt s e { x with state := .alloc }) 0x4802 0 [])) ∧
      (∀ l, extsNamed s .accepted l = none → exec (.releaseDynamicCapacity l) s = .next (mbReply s 0x4803 0x0F [])) ∧
      (∀ a e, extsNamed s .accepted [a] = some [e] →
        let x := tget {} s.cxl.ext e
        let s1 := setExt s e { x with state := if x.relReq then .releasing else .alloc, relReq := false }
        exec (.releaseDynamicCapacity [a]) s = .next (mbReply { s1 with cxl := { s1.cxl with filter := s1.cxl.filter.map (fun f => f.filter (fun l => !decide (l / 2 ^ 24 = e))) } } 0x4803 0 []))))

/-- R427, R435, R436, R440-R449: The security block. While a window change is under way its commands do nothing. A report and a certificate are left in
the buffer, signed; a fence key is installed once; the trust list takes and gives up keys, and a link whose session used a key that goes is taken
down; the host's IDE messages are answered, or end the handshake with `RESULT` 5; a window that removes bytes in use is refused with 4. A debug token
is accepted or counted as a failure. RESULT 2 of the buffer commands and what ends an IDE session follow log entries 78 and 79. Where the condition of
a command does not hold the state stays as it is (log entry 99). Commands whose next state it gives: `report`, `readCertificate`, `installFenceKey`,
`addTrustKey`, `removeTrustKey`, `ideHandshakeMessage`, `applyWindow`, `windowChangeDone`, `debugToken`. -/
def Obligations.SecurityCommands : Prop :=
  (∀ (p : Fin 32) (b : Bool) (i : Fin 16) (s : State), HostMay s pgSec → secBusy s = true →
    exec (.report p b) s = .next s ∧ exec (.readCertificate i) s = .next s ∧ exec .installFenceKey s = .next s ∧ exec .addTrustKey s = .next s ∧
    exec (.removeTrustKey i) s = .next s ∧ exec .ideHandshakeMessage s = .next s ∧ exec .applyWindow s = .next s) ∧
  (∀ (p : Fin 32) (b : Bool) (i : Fin 16) (s : State), HostMay s pgSec → secBusy s = false →
    (let r := reportBody s p.val b
     exec (.report p b) s = .next (raise (secResult (mbPut { s with sec := { s.sec with reports := s.sec.reports + 1 } } (r ++ dsaSign (alias2 s) r "XCN3-RPT")) 0) pgSec 4 [])) ∧
    (i.val ≤ 2 → exec (.readCertificate i) s = .next (raise (secResult (mbPut s (certificate s i.val)) 0) pgSec 4 [])) ∧
    (2 < i.val → exec (.readCertificate i) s = .next (secResult s 2)) ∧
    (s.sec.fenceKey ≠ none → exec .installFenceKey s = .next (secResult s 1)) ∧
    (s.sec.fenceKey = none → mbLen s ≠ 1312 → exec .installFenceKey s = .next (secResult s 2)) ∧
    (s.sec.fenceKey = none → mbLen s = 1312 → exec .installFenceKey s = .next (secResult { s with sec := { s.sec with fenceKey := some (mread s.sec.mb 0 1312) } } 0)) ∧
    (trustFree s = none → exec .addTrustKey s = .next (secResult s 3)) ∧
    (∀ n : Nat, trustFree s = some n → mbLen s = 1312 →
      exec .addTrustKey s = .next (raise (secResult { s with sec := { s.sec with trust := tput s.sec.trust n (mread s.sec.mb 0 1312) } } 0) pgSec 3 [])) ∧
    (∀ n : Nat, trustFree s = some n → mbLen s ≠ 1312 → exec .addTrustKey s = .next (secResult s 2)) ∧
    (tget? s.sec.trust i.val = none → exec (.removeTrustKey i) s = .next (secResult s 3)) ∧
    (∀ k : List Byte, tget? s.sec.trust i.val = some k → exec (.removeTrustKey i) s = .next (raise (secResult
      ((List.range 4).foldl (fun s n => if (s.port n).sealed && decide ((s.port n).hs.peer = sha3 k) then linkDown s n else s)
        { s with sec := { s.sec with trust := tdel s.sec.trust i.val } }) 0) pgSec 3 [])) ∧
    (∀ k : List Byte, tget? s.sec.trust i.val = some k → (∀ n : Nat, n < 4 → (s.port n).sealed = false ∨ (s.port n).hs.peer ≠ sha3 k) →
      exec (.removeTrustKey i) s = .next (raise (secResult { s with sec := { s.sec with trust := tdel s.sec.trust i.val } } 0) pgSec 3 [])) ∧
    (let m := mbMsg s
     (hsOk m 1 1 = true → trustKey s (bslice m 48 32) = none → exec .ideHandshakeMessage s = .next (ideAbort s (some 1) false)) ∧
     (∀ k : List Byte, hsOk m 1 1 = true → trustKey s (bslice m 48 32) = some k → ∃ r secret : List Byte, exec .ideHandshakeMessage s =
        .next (secResult (mbPut { s with free := s.free + 2, cxl := { s.cxl with ide := { phase := .replySent, init := false, hello := m, reply := r, peer := bslice m 48 32, secret := secret } } } r) 0)) ∧
     (∀ h : Seal, le m 3 1 = 3 → s.cxl.ide.phase = .replySent → confirmed s s.cxl.ide m 1 = .ok h → exec .ideHandshakeMessage s =
        .next (drainWrites (secResult { s with cxl := { s.cxl with ide := h, ideIo := true, ideCm := true, keyset := 0 } } 0) (2 * s.cxl.wq.length + 3))) ∧
     (∀ n : Nat, le m 3 1 = 3 → s.cxl.ide.phase = .replySent → confirmed s s.cxl.ide m 1 = .error n → exec .ideHandshakeMessage s = .next (ideAbort s (some n) false)) ∧
     (hsOk m 4 1 = true → s.cxl.ide.phase = .done → le m 16 4 = s.cxl.ide.keyIdx + 1 → exec .ideHandshakeMessage s = .next (secResult (bump
        { s with cxl := { s.cxl with ide := nextKey s.cxl.ide, keyset := (s.cxl.ide.keyIdx + 1) % 4 } } (pgCxl + 0x134) 16 16 1) 0)) ∧
     (hsOk m 4 1 = true → s.cxl.ide.phase = .done → le m 16 4 ≠ s.cxl.ide.keyIdx + 1 → exec .ideHandshakeMessage s = .next (ideAbort s (some 4) true)) ∧
     (hsOk m 1 1 = false → le m 3 1 = 1 → exec .ideHandshakeMessage s = .next (ideAbort s (some 3) false)) ∧
     (le m 3 1 ≠ 1 → (le m 3 1 ≠ 3 ∨ s.cxl.ide.phase ≠ .replySent) → (le m 3 1 ≠ 4 ∨ s.cxl.ide.phase ≠ .done) → hsOk m 5 1 = false →
        exec .ideHandshakeMessage s = .next (ideAbort s (some 3) false)) ∧
     (hsOk m 5 1 = true → exec .ideHandshakeMessage s = .next (ideAbort s none true))) ∧
    (let w := rdf s (pgSec + 0x120) 0 4
     let q := rdf s (pgSec + 0x120) 4 5
     let base := rd64 s (pgSec + 0x124) / 4096 * 4096
     let len := rd64 s (pgSec + 0x12C) / 4096 * 4096
     (∀ ob ol : Nat, len ≠ 0 → tget? (s.part q).windows w = some (ob, ol) →
       let used : Nat → Nat → Bool := fun a b => decide (a < b) && hostInUse s q a b
       let older := (s.reqs.filter (fun e => decide (e.2.part = q))).map (·.1)
       ((used ob (min (ob + ol) base) || used (max ob (base + len)) (ob + ol)) = true → exec .applyWindow s = .next (secResult s 4)) ∧
       ((used ob (min (ob + ol) base) || used (max ob (base + len)) (ob + ol)) = false → exec .applyWindow s = .next (secResult (s.setPart q { s.part q with
         windows := tput (s.part q).windows w (base, len),
         winWait := if (decide (ob < min (ob + ol) base) || decide (max ob (base + len) < ob + ol)) && !older.isEmpty then some { win := w, older := older } else none }) 0))) ∧
     (len ≠ 0 → tget? (s.part q).windows w = none →
       exec .applyWindow s = .next (secResult (s.setPart q { s.part q with windows := tput (s.part q).windows w (base, len), winWait := none }) 0)) ∧
     (∀ ob ol : Nat, len = 0 → tget? (s.part q).windows w = some (ob, ol) → 0 < ol →
       (hostInUse s q ob (ob + ol) = true → exec .applyWindow s = .next (secResult s 4)) ∧
       (hostInUse s q ob (ob + ol) = false → exec .applyWindow s = .next (secResult (s.setPart q { s.part q with windows := tdel (s.part q).windows w, winWait := if ((s.reqs.filter (fun e => decide (e.2.part = q))).map (·.1)).isEmpty then none else some { win := w, older := (s.reqs.filter (fun e => decide (e.2.part = q))).map (·.1) } }) 0))))) ∧
  (∀ (p : Fin 32) (s : State),
    ((s.part p.val).winWait = none → exec (.windowChangeDone p) s = .next s) ∧
    (∀ w : WinWait, (s.part p.val).winWait = some w →
      ((∃ i ∈ w.older, tget? s.reqs i ≠ none) → exec (.windowChangeDone p) s = .next s) ∧
      ((∀ i ∈ w.older, tget? s.reqs i = none) → exec (.windowChangeDone p) s = .next (s.setPart p.val { s.part p.val with winWait := none })))) ∧
  (∀ (b : List Byte) (s : State),
    (8 ≤ s.sec.fails → exec (.debugToken b) s = .next s) ∧
    (s.sec.fails < 8 → tokenGood s b = false → ∃ ch : List Byte, ch.length = 32 ∧ exec (.debugToken b) s = .next (emit (raise
      { s with free := s.free + 1, sec := { s.sec with challenge := ch, fails := s.sec.fails + 1 } } pgSec 1 []) (.debug false))) ∧
    (s.sec.fails < 8 → tokenGood s b = true → ∃ t : State, exec (.debugToken b) s = .next (emit (raise t pgSec 0 [BitVec.ofNat 8 (le b 5 1)]) (.debug true)) ∧
      t.sec.level = max s.sec.level (le b 5 1) ∧ t.sec.fails = s.sec.fails ∧ t.sec.since1 = true ∧ (le b 5 1 = 2 → t.sec.since2 = true ∧ t.sec.debugByte = 2) ∧
      (le b 5 1 ≠ 2 → t.sec.since2 = s.sec.since2 ∧ t.sec.debugByte = s.sec.debugByte) ∧ t.regs = s.regs ∧ t.parts = s.parts))

/-- R457-R465, R468, R470: Firmware. A stream begins where the file passes the checks and no trial is on, ends with the blocks in the slot, and leaves the
slot empty when a block fails or it is aborted; a slot is verified as an image is good; a trial is set on the verified inactive slot, cancelled,
committed by command or by time; the security version rises to that of the committed image. Results: 1 no work taken, 5 version, 6 not verified or
digest, 8 trial, 9 read. Commands without a trial follow log entry 81. Where the condition of a command does not hold the state stays as it is (log
entry 99). Commands whose next state it gives: `fwStream`, `fwDone`, `fwAbort`, `fwVerify`, `fwVerifyDone`, `activateTrial`, `commit`,
`raiseSecurityVersion`, `cancelTrial`, `trialCommitTimer`. -/
def Obligations.FirmwareCommands : Prop :=
  (∀ (k : Fin 2) (s : State), HostMay s pgStw → s.stw.fw ≠ none →
    exec .fwStream s = .next s ∧ exec (.fwVerify k) s = .next s ∧ exec .activateTrial s = .next s ∧ exec .commit s = .next s ∧ exec .raiseSecurityVersion s = .next s ∧ exec .cancelTrial s = .next s) ∧
  (∀ (k : Fin 2) (s : State), HostMay s pgStw → s.stw.fw = none → s.stw.rm ≠ .running →
    exec .fwStream s = .next (fwEnd s 1) ∧ exec (.fwVerify k) s = .next (fwEnd s 1) ∧ exec .activateTrial s = .next (fwEnd s 1) ∧ exec .commit s = .next (fwEnd s 1) ∧
    exec .raiseSecurityVersion s = .next (fwEnd s 1) ∧ exec .cancelTrial s = .next (fwEnd s 1)) ∧
  (∀ (k : Fin 2) (s : State), HostMay s pgStw → s.stw.fw = none → RmTakes s 2 →
    let r := bootRec s
    exec (.fwVerify k) s = .next { s with stw := { s.stw with fw := some { slot := k.val }, fwDone := 0 } } ∧
    (trialOn s = true → exec .fwStream s = .next (fwEnd s 8) ∧ exec .raiseSecurityVersion s = .next (fwEnd s 8)) ∧
    (∀ (img : Image) (caps : Nat), trialOn s = false →
      fileCheck s (some (rd s (pgStw + 0x148))) (fun o n => hostPeek s (rd64 s (pgStw + 0x140) + o) n) = (0, img, caps) → headerForm img.header = true →
      let s1 := bump s (pgCxl + 0x128) 0 32 (lineCount (rd64 s (pgStw + 0x140)) (capsAt img.header + 16 + 1152 * caps))
      let s2 := setSlotImage (markSlot s1 (1 - r.active) 0) (1 - r.active) (some img)
      exec .fwStream s = .next { s2 with stw := { s2.stw with fw := some { stream := true, slot := 1 - r.active, base := rd64 s (pgStw + 0x140) + blocksAt img.header caps }, fwDone := 0 } }) ∧
    (∀ (img : Image) (code caps : Nat), trialOn s = false →
      fileCheck s (some (rd s (pgStw + 0x148))) (fun o n => hostPeek s (rd64 s (pgStw + 0x140) + o) n) = (code, img, caps) → code ≠ 0 →
      let size := if headerForm img.header then capsAt img.header + 16 + 1152 * caps else 4096
      let s1 := bump s (pgCxl + 0x128) 0 32 (lineCount (rd64 s (pgStw + 0x140)) size)
      (code = 9 → exec .fwStream s = .next (fwEnd (poisonRcvd s1 (badLines s.hostBad (rd64 s (pgStw + 0x140)) size)) 9)) ∧
      (code ≠ 9 → exec .fwStream s = .next (fwEnd s1 code))) ∧
    (slotCode r (1 - r.active) ≠ 2 → exec .activateTrial s = .next (fwEnd s 6)) ∧
    (slotCode r (1 - r.active) = 2 → exec .activateTrial s = .next (fwEnd (putBoot s { r with pending := true, trial := 1 - r.active }) 0)) ∧
    (r.started = true → exec .commit s = .next (fwEnd (commitTrial s) 0)) ∧
    (r.started = false → exec .commit s = .next (fwEnd s 0)) ∧
    (r.pending = true → exec .cancelTrial s = .next (fwEnd (putBoot s { r with pending := false }) 0)) ∧
    (r.pending = false → exec .cancelTrial s = .next (fwEnd s 0)) ∧
    (∀ m : Image, trialOn s = false → slotImage s r.active = some m →
      (ihSvn m.header ≤ s.sec.svn → exec .raiseSecurityVersion s = .next (fwEnd s 5)) ∧
      (s.sec.svn < ihSvn m.header → exec .raiseSecurityVersion s = .next (fwEnd { s with sec := { s.sec with svn := ihSvn m.header } } 0)))) ∧
  (∀ s : State, HostMay s pgStw → RmTakes s 2 →
    (s.stw.fw = none → exec .fwAbort s = .next s) ∧
    (∀ j : FwJob, s.stw.fw = some j → (j.stream = true → exec .fwAbort s = .next (fwEnd (setSlotImage (markSlot s j.slot 0) j.slot none) 0)) ∧
      (j.stream = false → exec .fwAbort s = .next s))) ∧
  (∀ s : State, HostMay s pgStw → s.stw.rm ≠ .running → exec .fwAbort s = .next { s with stw := { s.stw with fwResult := 1 } }) ∧
  (∀ s : State, (s.stw.fw = none ∨ s.stw.rm ≠ .running) → exec .fwDone s = .next s ∧ exec .fwVerifyDone s = .next s) ∧
  (∀ (s : State) (j : FwJob), s.stw.fw = some j → s.stw.rm = .running → j.stream = true →
    exec .fwVerifyDone s = .next s ∧ (ideHold s = true → exec .fwDone s = .next s) ∧
    (∀ (m : Image) (l : List (List Byte)), ideHold s = false → slotImage s j.slot = some m → streamBlocks s m.table j.base 0 (ihNblk m.header) = .ok l →
      let s2 := markSlot (setSlotImage (bump s (pgCxl + 0x128) 0 32 (1024 * ihNblk m.header)) j.slot (some { m with blocks := l })) j.slot 1
      exec .fwDone s = .next (raise (fwEnd { s2 with stw := { s2.stw with fwDone := 1000 } } 0) pgStw 3 [])) ∧
    (∀ m : Image, ideHold s = false → slotImage s j.slot = some m → streamBlocks s m.table j.base 0 (ihNblk m.header) = .error 6 →
      exec .fwDone s = .next (stopStream (bump s (pgCxl + 0x128) 0 32 (1024 * ihNblk m.header)) j.slot 6)) ∧
    (∀ m : Image, ideHold s = false → slotImage s j.slot = some m → streamBlocks s m.table j.base 0 (ihNblk m.header) = .error 9 →
      exec .fwDone s = .next (stopStream (poisonRcvd (bump s (pgCxl + 0x128) 0 32 (1024 * ihNblk m.header)) (badLines s.hostBad j.base (65536 * ihNblk m.header))) j.slot 9)) ∧
    (ideHold s = false → slotImage s j.slot = none → exec .fwDone s = .next (stopStream s j.slot 9))) ∧
  (∀ (s : State) (j : FwJob), s.stw.fw = some j → s.stw.rm = .running → j.stream = false →
    exec .fwDone s = .next s ∧
    (slotImage s j.slot = none ∨ slotCode (bootRec s) j.slot = 0 → exec .fwVerifyDone s = .next (fwEnd { s with stw := { s.stw with fwDone := 1000 } } 6)) ∧
    (∀ m : Image, slotImage s j.slot = some m → slotCode (bootRec s) j.slot ≠ 0 →
      (imageGood s m = true → exec .fwVerifyDone s = .next (fwEnd (markSlot { s with stw := { s.stw with fwDone := 1000 } } j.slot 2) 0)) ∧
      (imageGood s m = false → exec .fwVerifyDone s = .next (fwEnd { s with stw := { s.stw with fwDone := 1000 } } 6)))) ∧
  (∀ s : State,
    (inService s = true → (bootRec s).started = true → s.stw.rm = .running → exec .trialCommitTimer s = .next (commitTrial s)) ∧
    ((inService s = false ∨ (bootRec s).started = false ∨ s.stw.rm ≠ .running) → exec .trialCommitTimer s = .next s)) ∧
  (∀ (s : State) (r : BootRec), s.stw.recA.valid = true ∨ s.stw.recB.valid = true → (bootRec s).gen + 1 < 2 ^ 32 →
    bootRec (putBoot s r) = { r with valid := true, gen := (bootRec s).gen + 1 })

/-- R467, R469, R472, R477, R483, R511, R513, R514: The way through `BOOT`. The loader of the active slot, or of a pending trial's, starts where the image
is good, and a trial that was started has ended; with no slot to try the device waits for a recovery image, which becomes slot A; the loader's runtime
starts `TRAIN` and makes the boot record the first of an empty log; training ends in `READY` with the cabinet mounted and the pages open. That the
boot record is the first record follows log entry 83. Where the condition of a command does not hold the state stays as it is (log entry 99). Commands
whose next state it gives: `bootRom`, `loaderStart`, `runtimeStart`, `trainDone`, `recoveryImageData`, `recoveryStatusRequest`,
`recoveryReenumeration`. -/
def Obligations.BootGoesItsWay : Prop :=
  (∀ s : State, (s.dev.state ≠ .boot ∨ s.dev.bootStep ≠ 0 ∨ s.stw.recovery = true) → exec .bootRom s = .next s) ∧
  (∀ s : State, s.dev.state = .boot → s.dev.bootStep = 0 → s.stw.recovery = false → (bootRec s).pending = false → (bootRec s).started = false →
    (slotCode (bootRec s) 0 = 0 ∨ slotCode (bootRec s) 0 = 3) → (slotCode (bootRec s) 1 = 0 ∨ slotCode (bootRec s) 1 = 3) →
    ∃ t : State, exec .bootRom s = .next t ∧ t.stw.recovery = true ∧ t.stw.recBytes = [] ∧ t.dev.state = .boot ∧ t.pwr.sbAlert = s.pwr.sbAlert ||| 1 ∧ t.dev.alertN = false) ∧
  (∀ (s : State) (m : Image) (key loader : List Byte), s.dev.state = .boot → s.dev.bootStep = 0 → s.stw.recovery = false → (bootRec s).pending = false → (bootRec s).started = false →
    (bootRec s).active ≤ 1 → (slotCode (bootRec s) (bootRec s).active = 1 ∨ slotCode (bootRec s) (bootRec s).active = 2) → slotImage s (bootRec s).active = some m → romCheck s m = some (key, loader) →
    ∃ t : State, exec .bootRom s = .next t ∧ t.dev.bootStep = 1 ∧ t.dev.state = .boot ∧ t.stw.runSlot = (bootRec s).active ∧
      t.sec.m1 = sha3 (m.header.take 0x580 ++ loader) ∧ t.sec.svnUsed = s.sec.svn ∧ t.sec.svn = s.sec.svn) ∧
  (∀ (s : State) (m : Image) (key loader : List Byte), s.dev.state = .boot → s.dev.bootStep = 0 → s.stw.recovery = false → (bootRec s).pending = true →
    (slotCode (bootRec s) (bootRec s).trial = 1 ∨ slotCode (bootRec s) (bootRec s).trial = 2) → slotImage s (bootRec s).trial = some m → romCheck s m = some (key, loader) →
    ∃ t : State, exec .bootRom s = .next t ∧ t.dev.bootStep = 1 ∧ t.dev.state = .boot ∧ t.stw.runSlot = (bootRec s).trial ∧ t.stw.trialEnded = s.stw.trialEnded ∧
      t.sec.m1 = sha3 (m.header.take 0x580 ++ loader)) ∧
  (∀ s : State, s.dev.state = .boot → s.dev.bootStep = 0 → s.stw.recovery = false → (bootRec s).pending = false → (bootRec s).started = true →
    ∃ t : State, exec .bootRom s = .next t ∧ t.stw.trialEnded = true) ∧
  (∀ s : State, (s.dev.state ≠ .boot ∨ s.dev.bootStep ≠ 1) → exec .loaderStart s = .next s) ∧
  (∀ (s : State) (m : Image) (k run res : List Byte), s.dev.state = .boot → s.dev.bootStep = 1 → slotImage s s.stw.runSlot = some m → contentKey m.capsule = some k → loaderCheck m k = some (run, res) →
    exec .loaderStart s = .next { s with sec := { s.sec with m2 := sha3 (run ++ res) }, dev := { s.dev with bootStep := 2 } }) ∧
  (∀ (s : State) (m : Image) (k : List Byte), s.dev.state = .boot → s.dev.bootStep = 1 → slotImage s s.stw.runSlot = some m → contentKey m.capsule = some k → loaderCheck m k = none →
    exec .loaderStart s = .next { markSlot s s.stw.runSlot 3 with dev := { (markSlot s s.stw.runSlot 3).dev with bootStep := 0 } }) ∧
  (∀ s : State, (s.dev.state ≠ .boot ∨ s.dev.bootStep ≠ 2) → exec .runtimeStart s = .next s) ∧
  (∀ s : State, s.dev.state = .boot → s.dev.bootStep = 2 → ∃ t : State, exec .runtimeStart s = .next t ∧ t.dev.state = .train ∧ t.dev.bootStep = 0 ∧ t.dev.pagesOpen = s.dev.pagesOpen ∧
    ∃ (r : List Byte) (l : List (List Byte)), t.evr.log = r :: l ∧ le r 0x0F 1 = 0x20 ∧ le r 0 4 = 0 ∧ bslice r 0x10 7 =
      leBytes 1 s.dev.bootCause ++ leBytes 4 (bootRec s).boots ++ leBytes 1 s.stw.runSlot ++ leBytes 1 (if s.stw.trialEnded then 1 else 0)) ∧
  (∀ s : State, s.dev.state ≠ .train → exec .trainDone s = .next s) ∧
  (∀ s : State, s.dev.state = .train → ∃ t : State, exec .trainDone s = .next t ∧ t.dev.state = .ready ∧ t.dev.pagesOpen = true ∧ t.cxl.memActive = true ∧ t.cab.mounted = true ∧
    (dumpHeld s = false → t.regs = s.regs ∧ t.evr = s.evr) ∧ (dumpHeld s = true → bit (rd t (pgEvr + 0x10)) 2 = true)) ∧
  (∀ (b : List Byte) (s : State), (s.stw.recovery = false ∨ s.stw.recWait = true) → exec (.recoveryImageData b) s = .next s) ∧
  (∀ (b : List Byte) (s : State), s.stw.recovery = true → s.stw.recWait = false → (s.stw.recBytes ++ b).length < 4096 →
    exec (.recoveryImageData b) s = .next { s with stw := { s.stw with recBytes := s.stw.recBytes ++ b } }) ∧
  (∀ (b : List Byte) (s : State), s.stw.recovery = true → s.stw.recWait = false → 4096 ≤ (s.stw.recBytes ++ b).length → headerForm ((s.stw.recBytes ++ b).take 4096) = false →
    exec (.recoveryImageData b) s = .next { s with stw := { s.stw with recBytes := s.stw.recBytes ++ b, recResult := 2, recWait := true } }) ∧
  (∀ (b : List Byte) (s : State) (img : Image) (caps : Nat), s.stw.recovery = true → s.stw.recWait = false →
    let l := s.stw.recBytes ++ b
    let s1 := { s with stw := { s.stw with recBytes := l } }
    let n := ihNblk img.header
    let blocks := (List.range n).map (fun i => bslice l (blocksAt img.header caps + 65536 * i) 65536)
    let m := { img with blocks := blocks }
    fileCheck s1 none (recGet l) = (0, img, caps) → n ≤ (l.length - blocksAt img.header caps) / 65536 → (∀ e ∈ blocks.zip (List.range blocks.length), digestOk img.table e.2 e.1 = true) →
    (∀ key loader : List Byte, romCheck s1 m = some (key, loader) → imageGood s1 m = true →
      let s2 := putBoot (setSlotImage s1 0 (some m)) { bootRec s1 with active := 0, slotA := 2, pending := false, started := false }
      exec (.recoveryImageData b) s = .next (startLoader { s2 with stw := { s2.stw with recovery := false, recResult := 0, recBytes := [] } } 0 m loader)) ∧
    (imageGood s1 m = false → exec (.recoveryImageData b) s = .next (recRefuse (setSlotImage (markSlot s1 0 0) 0 none) 6))) ∧
  (∀ s : State,
    (s.stw.recovery = true → exec .recoveryStatusRequest s = .next (emit s (.usb (leBytes 4 s.stw.recBytes.length ++ leBytes 1 s.stw.recResult ++ [0, 0, 0])))) ∧
    (s.stw.recovery = false → exec .recoveryStatusRequest s = .next s) ∧
    (s.stw.recovery = true → s.stw.recWait = true → exec .recoveryReenumeration s = .next { s with stw := { s.stw with recBytes := [], recResult := 0xFF, recWait := false } }) ∧
    ((s.stw.recovery = false ∨ s.stw.recWait = false) → exec .recoveryReenumeration s = .next s))

/-- R452-R456, R468: The ringmaster. The fourth watchdog expiry in ten minutes holds it in reset, any earlier one restarts it, as the host's command does;
a restart drops the work in progress, a firmware command and a re-registration among it; at its end the repairs kept for the ringmaster are written,
the table commands that waited run and the merges still queued are taken up. Windows of load defer classes 3 and then 2, and three calm windows end
the deferral. Where the condition of a command does not hold the state stays as it is (log entry 99). Commands whose next state it gives:
`watchdogExpiry`, `restart`, `restartDone`, `loadWindow`. -/
def Obligations.RingmasterRestartsAndDefers : Prop :=
  (∀ s : State, (s.stw.rm ≠ .running ∨ s.dev.state = .off ∨ s.dev.state = .boot) → exec .watchdogExpiry s = .next s ∧ (HostMay s pgStw → exec .restart s = .next s)) ∧
  (∀ s : State, s.stw.rm = .running → s.dev.state ≠ .off → s.dev.state ≠ .boot →
    (HostMay s pgStw → exec .restart s = .next (rmRestart s true)) ∧
    (let recent := s.stw.expiries.filter (fun t => decide (stewardMs s < t + 600000))
     let s1 := expireTrial { s with stw := { s.stw with expiries := recent ++ [stewardMs s] } }
     (recent.length < 3 → exec .watchdogExpiry s = .next (rmRestart s1 false)) ∧
     (3 ≤ recent.length → exec .watchdogExpiry s = .next (setSbAlert (raise (dropWork { s1 with stw := { s1.stw with rm := .held } }) pgStw 1 []) 2)))) ∧
  (∀ (s : State) (op : Bool), rmRestart s op = raise (dropWork (bump { s with stw := { s.stw with rm := .restarting, lastOp := op } } (pgStw + 0x124) 0 16 1)) pgStw 0 []) ∧
  (∀ s : State, (dropWork s).stw.fw = none ∧ (dropWork s).regionBusy = none) ∧
  (∀ s : State,
    (s.stw.rm = .restarting →
      let s1 := { s with stw := { s.stw with rm := .running }, hbm := s.hbm.map (fun (e : Nat × Hbm) => (e.1, { e.2 with unwritten := 0 })) }
      exec .restartDone s = .next (s1.vidx.foldl (fun s (e : Nat × VIndex) => if e.2.building.isNone then nextMerge s e.2.part e.2.handle else s) (tblResume s1))) ∧
    (s.stw.rm ≠ .restarting → exec .restartDone s = .next s)) ∧
  (∀ (load : Nat) (s : State), load ≤ 100 → s.stw.rm ≠ .running → exec (.loadWindow load) s = .next s) ∧
  (∀ (load : Nat) (s : State), load ≤ 100 → s.stw.rm = .running → ∃ t : State, exec (.loadWindow load) s = .next t ∧ t.stw.load = load ∧
    (70 ≤ load → t.stw.defer3 = true) ∧ (85 ≤ load → t.stw.defer23 = true) ∧ (load < 70 → s.stw.defer3 = false → t.stw.defer3 = false) ∧ (load < 85 → s.stw.defer23 = false → t.stw.defer23 = false) ∧
    (s.stw.defer3 = true → load < 70 → (t.stw.defer3 = false ↔ load ≤ 50 ∧ 2 ≤ s.stw.calm3)) ∧ (s.stw.defer23 = true → load < 85 → (t.stw.defer23 = false ↔ load ≤ 65 ∧ 2 ≤ s.stw.calm23)) ∧
    (load ≤ 50 → t.stw.calm3 = min (s.stw.calm3 + 1) 3) ∧ (50 < load → t.stw.calm3 = 0) ∧ t.reqs = s.reqs ∧ t.hostMem = s.hostMem)

/-- R478-R484, R499, R489-R492: The recorder as the host uses it. Reading the window raises `REC_BAD` once for each present record with a bad check sum;
capture settings are checked, and only `EN` changes while it is 1; `SNAP` latches the metering counters. An event of one record that repeats the last
record raises its repeat count; any other becomes the newest records, a group of several kept together, or counts as an overflow where it finds no
room. Replay. It starts in a suitable partition while the ringmaster runs, takes one entry at a time, each after the request of the one before has
ended, passes over what is no entry, skips an entry with the verdict SKIPPED or runs it with the substitutions, ends at the end of the entries or
where one cannot be read, and stops on command. What is passed over is the model's choice (log entry 89). How a replay starts, and what ends it,
follow log entries 87 and 89. Where the condition of a command does not hold the state stays as it is (log entry 99). Commands whose next state it
gives: `evrWstatRead`, `captCfgWrite`, `replayStart`, `replayStop`, `replayEntry`, `snap`. -/
def Obligations.RecorderCaptureAndReplay : Prop :=
  ((∀ s : State, HostMay s pgEvr → exec .evrWstatRead s =
    .next (recBad (emit s (.read (pgEvr + 0x114) 4 (windowStat s (rdf s (pgEvr + 0x110) 0 15)))) (badInWindow s (rdf s (pgEvr + 0x110) 0 15)))) ∧
  (∀ (s : State) (e : Ev), ∃ b : State, b = bump s (pgEvr + 0x10C) 0 32 1 ∧
    (∀ (d l : List Byte), e.datas = [d] → s.evr.log.getLast? = some l → s.evr.inGroup = false → recRepeat l < 0xFFFF →
      recKey l = recKey (mkRecord (s.evr.nextSeq % 2 ^ 32) (islandTime s e.island) e.island e.sev e.blk e.inst e.code d) →
      accept1 s e = { b with evr := { s.evr with log := modAt (fun r => recSetRepeat r (recRepeat r + 1)) (s.evr.log.length - 1) s.evr.log } }) ∧
    ((∀ (d l : List Byte), e.datas = [d] → s.evr.log.getLast? = some l → s.evr.inGroup = true ∨ 0xFFFF ≤ recRepeat l ∨
        recKey l ≠ recKey (mkRecord (s.evr.nextSeq % 2 ^ 32) (islandTime s e.island) e.island e.sev e.blk e.inst e.code d)) →
      (s.evr.log.length + e.datas.length ≤ 32768 → accept1 s e = { b with evr := { s.evr with
        log := s.evr.log ++ evRecords s.evr.nextSeq (islandTime s e.island) e, nextSeq := (s.evr.nextSeq + e.datas.length) % 2 ^ 32, inGroup := decide (1 < e.datas.length) } }) ∧
      (32768 < s.evr.log.length + e.datas.length → accept1 s e = { b with evr := { s.evr with overflow := min (s.evr.overflow + 1) (2 ^ 32 - 1) } }))) ∧
  (∀ (p : Fin 32) (v : Word) (s : State), HostMay s (pgCapt p.val) →
    (captEn s p.val = true → exec (.captCfgWrite p v) s = .next (wrf s (pgCapt p.val + 0x100) 0 1 (bits v.toNat 0 1))) ∧
    (captEn s p.val = false → ((bit v.toNat 0 = true ∧ captBaseOk s p.val (bits v.toNat 8 4) = false) ∨ ((bit v.toNat 1 = true ∨ bit v.toNat 2 = true) ∧ (s.part p.val).sealed = true)) →
      exec (.captCfgWrite p v) s = .next (raise s (pgCapt p.val) 1 [])) ∧
    (captEn s p.val = false → (bit v.toNat 0 = false ∨ captBaseOk s p.val (bits v.toNat 8 4) = true) → ((bit v.toNat 1 = false ∧ bit v.toNat 2 = false) ∨ (s.part p.val).sealed = false) →
      exec (.captCfgWrite p v) s = .next (wr s (pgCapt p.val + 0x100) (bits v.toNat 0 3 + bits v.toNat 8 4 * 2 ^ 8 + bits v.toNat 16 5 * 2 ^ 16)))) ∧
  (∀ (p : Fin 32) (s : State), HostMay s (pgMtr p.val) → exec (.snap p) s = .next (s.setPart p.val { s.part p.val with
    latch := { now := stewardUs s, start := (s.part p.val).pstart, pseq := (s.part p.val).pseq, m := (s.part p.val).meter } }))) ∧
  ((∀ (p : Fin 32) (d : Fin 4) (s : State), HostMay s (pgCapt p.val) →
    let x := tget {} s.replay p.val
    let put := fun (y : Replay) => { s with replay := tset {} s.replay p.val y }
    ((x.busy = true ∨ s.chip.replayCap = false) → exec (.replayStart p d) s = .next s) ∧
    (x.busy = false → s.chip.replayCap = true →
      (s.stw.rm ≠ .running → exec (.replayStart p d) s = .next (put { x with result := 1 })) ∧
      (s.stw.rm = .running → replayTarget s p.val = false → exec (.replayStart p d) s = .next (put { x with result := 2 })) ∧
      (s.stw.rm = .running → replayTarget s p.val = true → exec (.replayStart p d) s =
        .next (if rd s (pgCapt p.val + 0x148) = 0 then endReplay (put { busy := true, die := d.val }) p.val else put { busy := true, die := d.val }))) ∧
    (s.chip.replayCap = true → exec (.replayStop p) s = .next (stopReplay s p.val)) ∧
    (s.chip.replayCap = false → exec (.replayStop p) s = .next s)) ∧
  (∀ (p : Fin 32) (s : State),
    let x := tget {} s.replay p.val
    let ref := rd64 s (pgCapt p.val + 0x140) + x.pos
    let len := rd s (pgCapt p.val + 0x148)
    ((x.busy = false ∨ tget? s.reqs x.cur ≠ none ∨ fetching s = false) → exec (.replayEntry p) s = .next s) ∧
    (∀ s1 : State, x.busy = true → tget? s.reqs x.cur = none → fetching s = true → refRead s p.val ref 64 = (none, s1) → exec (.replayEntry p) s = .next (endReplay s1 p.val)) ∧
    (∀ (s1 : State) (h : List Byte), x.busy = true → tget? s.reqs x.cur = none → fetching s = true → refRead s p.val ref 64 = (some h, s1) →
      ((len < x.pos + 64 ∨ le h 0 2 ≠ 0xCA97 ∨ le h 2 1 ≠ 1 ∨ le h 4 4 < 64 ∨ le h 4 4 % 64 ≠ 0 ∨ len < x.pos + le h 4 4) → exec (.replayEntry p) s = .next (endReplay s1 p.val)) ∧
      (x.pos + 64 ≤ len → le h 0 2 = 0xCA97 → le h 2 1 = 1 → 64 ≤ le h 4 4 → le h 4 4 % 64 = 0 → x.pos + le h 4 4 ≤ len → (le h 3 1 ≠ 1 ∨ le h 4 4 < 256) →
        let s2 := { s1 with replay := tset {} s1.replay p.val { x with pos := x.pos + le h 4 4 } }
        (len ≤ x.pos + le h 4 4 → exec (.replayEntry p) s = .next (endReplay s2 p.val)) ∧ (x.pos + le h 4 4 < len → exec (.replayEntry p) s = .next s2)) ∧
      (∀ s2 : State, x.pos + 64 ≤ len → le h 0 2 = 0xCA97 → le h 2 1 = 1 → 256 ≤ le h 4 4 → le h 4 4 % 64 = 0 → x.pos + le h 4 4 ≤ len → le h 3 1 = 1 →
        refRead s1 p.val ref (le h 4 4) = (none, s2) → exec (.replayEntry p) s = .next (endReplay s2 p.val)) ∧
      (x.pos + 64 ≤ len → le h 0 2 = 0xCA97 → le h 2 1 = 1 → 256 ≤ le h 4 4 → le h 4 4 % 64 = 0 → x.pos + le h 4 4 ≤ len → le h 3 1 = 1 →
        ∀ (s2 : State) (e : List Byte), refRead s1 p.val ref (le h 4 4) = (some e, s2) →
          let y := { x with pos := x.pos + le h 4 4 }
          (enSkipped s2 e x.prev = true → exec (.replayEntry p) s =
            .next (putVerdict { s2 with replay := tset {} s2.replay p.val y } p.val (enSeq e) (enStatus e) 0 { code := 3 })) ∧
          (enSkipped s2 e x.prev = false → exec (.replayEntry p) s =
            .next (replayAdmit { (newId s2).2 with replay := tset {} (newId s2).2.replay p.val { y with cur := (newId s2).1 } } (newId s2).1
              { ring := 1024 * x.die, desc := replayDesc (newId s2).2 p.val ref e, part := p.val, replay := true, route := replayRoute, entry := e }))))))

/-- R493-R497, R513, R521: The fatal dump. It begins where the device is in `DUMP`, in the empty, else the (older) released, else the newest slot, its
header first; a dump that the ringmaster does not finish is reduced; a complete one leads to `HALT`. The host copies it out of its slot and releases
it. When a copy fails follows log entry 91. Where the condition of a command does not hold the state stays as it is (log entry 99). Commands whose
next state it gives: `dumpStart`, `dumpComplete`, `dumpTimeout`, `dumpCopy`, `dumpRelease`. -/
def Obligations.DumpsAreWritten : Prop :=
  (∀ s : State, (s.dev.state ≠ .dump ∨ s.evr.active ≠ none ∨ s.stw.rm = .restarting) → exec .dumpStart s = .next s) ∧
  (∀ s : State, s.dev.state = .dump → s.evr.active = none →
    (s.stw.rm = .running → exec .dumpStart s = .next (beginDump s false)) ∧ (s.stw.rm = .held → exec .dumpStart s = .next (beginDump s true)) ∧
    exec .dumpTimeout s = .next (beginDump s true)) ∧
  (∀ s : State, s.dev.state ≠ .dump → exec .dumpTimeout s = .next s ∧ exec .dumpComplete s = .next s) ∧
  (∀ (s : State) (n : Nat), s.dev.state = .dump → s.evr.active = some n →
    ((dumpSlot s n).reduced = true → exec .dumpTimeout s = .next s) ∧
    ((dumpSlot s n).reduced = false → exec .dumpTimeout s = .next (reduceDump s)) ∧
    (s.stw.rm ≠ .running → (dumpSlot s n).reduced = false → exec .dumpComplete s = .next s) ∧
    ((s.stw.rm = .running ∨ (dumpSlot s n).reduced = true) → ∃ t : State, exec .dumpComplete s = .next t ∧ t.dev.state = .halt ∧ t.evr.active = none ∧ t.evr.cause = none ∧
      t.dev.alertN = false ∧ (t.dev.tripN = true ↔ s.dev.tripN = true ∧ s.dev.tripped = false) ∧ t.hostMem = s.hostMem ∧
      (n ≤ 1 → (dumpSlot t n).state = .unreleased ∧ (dumpSlot t n).no = (dumpSlot s n).no))) ∧
  (∀ s : State, s.evr.active = none → exec .dumpComplete s = .next s) ∧
  (∀ s : State, (s.evr.dump0.state = .empty → dumpChoice s = 0) ∧ (s.evr.dump0.state ≠ .empty → s.evr.dump1.state = .empty → dumpChoice s = 1) ∧
    (s.evr.dump0.state = .released → s.evr.dump1.state = .unreleased → dumpChoice s = 0) ∧ (s.evr.dump0.state = .unreleased → s.evr.dump1.state = .released → dumpChoice s = 1) ∧
    (s.evr.dump0.state = .unreleased → s.evr.dump1.state = .unreleased → s.evr.dump0.header = true → s.evr.dump1.header = true → s.evr.dump0.no ≠ s.evr.dump1.no →
      dumpChoice s = (if s.evr.dump1.no < s.evr.dump0.no then 0 else 1)) ∧
    (s.evr.dump0.state = .released → s.evr.dump1.state = .released → s.evr.dump0.no ≠ s.evr.dump1.no → dumpChoice s = (if s.evr.dump0.no < s.evr.dump1.no then 0 else 1))) ∧
  (∀ (s : State) (red : Bool), ∃ t : State, beginDump s red = t ∧ t.evr.active = some (dumpChoice s) ∧ t.evr.dumpNo = s.evr.dumpNo + 1 ∧
    (dumpSlot t (dumpChoice s)).state = .incomplete ∧ (dumpSlot t (dumpChoice s)).no = s.evr.dumpNo + 1 ∧ (dumpSlot t (dumpChoice s)).reduced = red ∧
    (dumpSlot t (dumpChoice s)).bytes = mwrite [] 0 (dumpHeader s red false (s.evr.dumpNo + 1) (s.evr.cause.getD []) (sectTable s red 7 1 4096))) ∧
  (∀ (s : State) (n : Nat), s.evr.active = some n → n ≤ 1 → dumpSlot (reduceDump s) n = { dumpSlot s n with reduced := true, bytes := mwrite [] 0 (dumpHeader s true false (dumpSlot s n).no (s.evr.cause.getD []) (sectTable s true 7 1 4096)) }) ∧
  (∀ s : State, HostMay s pgEvr →
    let n := rdf s (pgEvr + 0x144) 0 1
    let d := dumpSlot s n
    (d.state = .empty → exec .dumpCopy s = .next { s with evr := { s.evr with result := 1 } } ∧ exec .dumpRelease s = .next { s with evr := { s.evr with result := 1 } }) ∧
    (d.state ≠ .empty → s.cxl.cacheEn = false → exec .dumpCopy s = .next { s with evr := { s.evr with result := 2 } }) ∧
    (d.state ≠ .empty → s.cxl.cacheEn = true → rd s (pgEvr + 0x158) ≠ 0 → ∃ t : State,
      t = issueWrite s (.host (rd64 s (pgEvr + 0x150)) (mread d.bytes (rd64 s (pgEvr + 0x148)) (rd s (pgEvr + 0x158)))) ∧
      exec .dumpCopy s = .next { t with evr := { t.evr with result := 0 } }) ∧
    (d.state ≠ .empty → exec .dumpRelease s = .next { putDump s n { d with state := .released } with evr := { (putDump s n { d with state := .released }).evr with result := 0 } }))

/-- R505-R510, R513, R386, R387, R505, R523, R524: Power and resets. Without power the module is `OFF`; with good rails and `PWR_EN` it starts in `BOOT`;
each reset passes through `BOOT` with its cause and keeps what fuses, cabinet, stacks and host memory hold. An input out of range raises its event and
alert; the status block clears the alert bits; a lost oscillator leads to `DUMP`. The record of a lost oscillator is free (log entry 94). Where the
condition of a command does not hold the state stays as it is (log entry 99). Commands whose next state it gives: `conventionalReset`, `pwrEn`,
`pwrGood`, `inputLoss`, `inputFault`, `resetN`, `smbusBlockRead`, `referenceOscillatorLoss`, `pwrEnLow`. -/
def Obligations.PowerAndResets : Prop :=
  (∀ s : State, exec .pwrEn s = .next { s with dev := { s.dev with pwrEn := true } }) ∧
  (∀ s : State,
    (s.dev.state = .off → s.dev.pwrEn = true → exec .pwrGood s = .next { s with dev := { s.dev with state := .boot, pwrGood := true, bootCause := 1 } }) ∧
    ((s.dev.state ≠ .off ∨ s.dev.pwrEn = false) → exec .pwrGood s = .next s)) ∧
  (∀ s : State, ∃ t : State, exec .inputLoss s = .next t ∧ t.dev.state = .off ∧ t.dev.pwrGood = false ∧ t.dev.alertN = true ∧ t.dev.tripN = true ∧ t.dev.pagesOpen = false ∧
    t.hostMem = s.hostMem ∧ t.sec.svn = s.sec.svn ∧ t.rings = [] ∧ t.parts = [] ∧ t.reqs = [] ∧ t.qps = [] ∧ t.regs = []) ∧
  (∀ s : State, ∃ t : State, exec .pwrEnLow s = .next t ∧ t.dev.state = .off ∧ t.dev.pwrEn = false ∧ t.hostMem = s.hostMem ∧ t.sec.svn = s.sec.svn ∧ t.dir = {} ∧ t.regs = []) ∧
  (∀ (mv : Nat) (s : State),
    ((s.dev.state = .off ∨ (48000 ≤ mv ∧ mv ≤ 58000)) → exec (.inputFault mv) s = .next s) ∧
    (s.dev.state ≠ .off → (mv < 48000 ∨ 58000 < mv) →
      exec (.inputFault mv) s = .next (setSbAlert (raise { s with pwr := { s.pwr with vin := mv, inBad := true } } pgPwr 2 []) 8))) ∧
  (∀ s : State, s.dev.state = .off → exec .resetN s = .next s ∧ exec .conventionalReset s = .next s) ∧
  (∀ s : State, s.dev.state ≠ .off → ∃ t u : State, exec .resetN s = .next t ∧ exec .conventionalReset s = .next u ∧
    t.dev.state = .boot ∧ t.dev.bootCause = 2 ∧ t.dev.bootStep = 0 ∧ t.dev.pagesOpen = false ∧ t.hostMem = s.hostMem ∧ t.sec.svn = s.sec.svn ∧ t.rings = [] ∧ t.parts = [] ∧ t.reqs = [] ∧ t.regs = [] ∧
    (tsorted s.cab.blocks = true → ∀ b : Nat, (eblock t b).erases = (eblock s b).erases ∧ (eblock t b).bad = (eblock s b).bad) ∧
    (tsorted s.hbm = true → ∀ k : Nat, (t.hbmc k).retired = (s.hbmc k).retired ∧ (t.hbmc k).log = (s.hbmc k).log) ∧
    u.dev.state = .boot ∧ u.dev.bootCause = 3 ∧ u.dev.bootStep = 0 ∧ u.rings = [] ∧ u.parts = [] ∧ u.sec.svn = s.sec.svn ∧ u.dev.pagesOpen = false ∧ rdf u (pgCxl + 0x104) 0 1 = rdf s (pgCxl + 0x104) 0 1 ∧
    u.cxl.ideReq = decide (rdf s (pgCxl + 0x104) 0 1 = 1)) ∧
  (∀ s : State, (s.dev.state = .off ∨ s.dev.state = .boot) → exec .referenceOscillatorLoss s = .next s) ∧
  (∀ s : State, s.dev.state ≠ .off → s.dev.state ≠ .boot → ∃ (code : Nat) (data : List Byte), 0x26 ≤ code ∧ code ≤ 0xFF ∧
    exec .referenceOscillatorLoss s = .next (record { s with free := s.free + 1 } 0x00 3 0x090 0 code data)) ∧
  (∀ (s : State) (sev island blk inst code : Nat) (d : List Byte), sev = 3 → (s.dev.state = .train ∨ s.dev.state = .ready ∨ s.dev.state = .serve ∨ s.dev.state = .drain) →
    (record s island sev blk inst code d).dev.state = .dump ∧ (record s island sev blk inst code d).dev.alertN = false ∧ (record s island sev blk inst code d).pwr.sbAlert = s.pwr.sbAlert ||| 1) ∧
  (∀ s : State, s.dev.state ≠ .off →
    exec (.smbusBlockRead 0x10) s = .next { emit s (.smbus (statusBlock s)) with pwr := { s.pwr with sbAlert := 0 }, dev := { s.dev with alertN := true } }) ∧
  (∀ (code : Nat) (s : State), code ≤ 255 → (code ≠ 0x10 ∨ s.dev.state = .off) → exec (.smbusBlockRead code) s = .next s)

/-- R504, R505, R515-R522: Power, temperature and drain. A measurement takes the written mode, enters the averages and moves the power step; locked clocks
apply it, to a die of booths where every running one is at a step end, the others being asked to stop there; a source's step follows its temperature,
and three readings above the limit trip the device; a written mode within its range waits; `DRAIN` and `SERVE` change the state they apply to. How the
average of the power step is formed follows log entry 116. Where the condition of a command does not hold the state stays as it is (log entry 99).
Commands whose next state it gives: `powerMeasurement`, `pwrModeWrite`, `pllLocked`, `sensorReading`, `drain`, `serve`. -/
def Obligations.PowerThermalAndDrain : Prop :=
  (∀ (mv ca w : Nat) (s : State), s.dev.state = .off → exec (.powerMeasurement mv ca w) s = .next s) ∧
  (∀ (mv ca w : Nat) (s : State), s.dev.state ≠ .off → ∃ t : State, exec (.powerMeasurement mv ca w) s = .next t ∧
    let hist := (w :: s.pwr.hist).take 1000
    let m := s.pwr.nextMode.getD (s.pwr.mode, s.pwr.cap)
    let low := if m.1 = 1 then 4 else 0
    t.pwr.vin = mv ∧ t.pwr.iin = ca ∧ t.pwr.hist = hist ∧ t.pwr.p1s = hist.sum / hist.length ∧ t.pwr.energyMj = s.pwr.energyMj + w ∧ t.pwr.mode = m.1 ∧ t.pwr.cap = m.2 ∧ t.pwr.nextMode = none ∧
    t.pwr.peak = max s.pwr.peak (meanOf hist 10) ∧
    (2100 < meanOf hist 10 → t.pwr.step = min 7 (max low s.pwr.step + 2)) ∧
    (meanOf hist 10 ≤ 2100 → modeLimit m.1 m.2 < meanOf hist 1000 → 9 ≤ s.pwr.since → t.pwr.step = min 7 (max low s.pwr.step + 1)) ∧
    (meanOf hist 10 ≤ 2100 → meanOf hist 1000 * 100 < modeLimit m.1 m.2 * 95 → 99 ≤ s.pwr.under → t.pwr.step = max low (s.pwr.step - 1)) ∧
    (meanOf hist 10 ≤ 2100 → meanOf hist 1000 ≤ modeLimit m.1 m.2 → (modeLimit m.1 m.2 * 95 ≤ meanOf hist 1000 * 100 ∨ s.pwr.under < 99) → t.pwr.step = max low s.pwr.step)) ∧
  (∀ (v : Word) (s : State), HostMay s pgPwr →
    (bits v.toNat 0 2 = 3 ∨ bits v.toNat 4 12 < 900 ∨ 1950 < bits v.toNat 4 12 → exec (.pwrModeWrite v) s = .next s) ∧
    (bits v.toNat 0 2 ≠ 3 → 900 ≤ bits v.toNat 4 12 → bits v.toNat 4 12 ≤ 1950 →
      exec (.pwrModeWrite v) s = .next { s with pwr := { s.pwr with nextMode := some (bits v.toNat 0 2, bits v.toNat 4 12) } })) ∧
  (∀ s : State, (s.dev.state = .off ∨ noService s = true) → exec .pllLocked s = .next s) ∧
  (∀ s : State, s.dev.state ≠ .off → noService s = false → ∃ t : State, exec .pllLocked s = .next t ∧ t.pwr.step = s.pwr.step ∧
    (∀ c : Nat, c < 16 → tget 0 t.pwr.appliedT c = clusterStep s c) ∧
    (∀ f die : Nat, f < 8 → die < 16 →
      let late := fun q => running (s.booth (boothNo f (32 * die + q))) = true ∧ (s.booth (boothNo f (32 * die + q))).atEnd = false
      ((∀ q : Nat, q < 32 → ¬ late q) → tget 0 t.pwr.appliedB (16 * f + die) = boothStep s f) ∧
      (tget 0 s.pwr.appliedB (16 * f + die) ≠ boothStep s f → (∃ q : Nat, q < 32 ∧ late q) →
        tget 0 t.pwr.appliedB (16 * f + die) = tget 0 s.pwr.appliedB (16 * f + die) ∧ (∀ q : Nat, q < 32 → late q → (t.booth (boothNo f (32 * die + q))).askPark = true)))) ∧
  (∀ (l : List Int) (s : State), l.length = 22 → s.dev.state = .off → exec (.sensorReading l) s = .next s) ∧
  (∀ (l : List Int) (s : State), l.length = 22 → s.dev.state ≠ .off → ∃ t : State, exec (.sensorReading l) s = .next t ∧ t.pwr.inlet = l.getD 20 0 ∧ t.pwr.outlet = l.getD 21 0 ∧
    (l.getD 20 0 ≤ 640 → t.pwr.inletHot = 0) ∧ (640 < l.getD 20 0 → t.pwr.inletHot = min 100 (s.pwr.inletHot + 1)) ∧
    (∀ i : Nat, i < 16 → tget {} t.pwr.therm (0x30 + i) = thermRead (0x30 + i) (l.getD (4 + i) 0) (tget {} s.pwr.therm (0x30 + i))) ∧ (∀ i : Nat, i < 4 → tget {} t.pwr.therm (0x10 + i) = thermRead (0x10 + i) (l.getD i 0) (tget {} s.pwr.therm (0x10 + i)))) ∧
  (∀ (src : Nat) (t : Int) (x : Therm),
    (t ≤ 16 * tripAbove src → (thermRead src t x).hot = 0) ∧ (16 * tripAbove src < t → (thermRead src t x).hot = min 3 (x.hot + 1)) ∧
    (x.step < 7 → 16 * enterAt src (x.step + 1) ≤ t → (thermRead src t x).step = x.step + 1) ∧
    (0 < x.step → t ≤ 16 * (enterAt src x.step - 3) → (thermRead src t x).step = (if 999 ≤ x.cool then x.step - 1 else x.step)) ∧
    (16 * (enterAt src x.step - 3) < t → t < 16 * enterAt src (x.step + 1) → (thermRead src t x).step = x.step)) ∧
  (∀ (s : State) (src : Nat) (t : Int),
    let x := tget {} s.pwr.therm src
    let y := thermRead src t x
    let s1 := { s with pwr := { s.pwr with therm := tset {} s.pwr.therm src y } }
    (y.step = x.step → y.hot < 3 → readSource s src t = s1) ∧
    (y.step = x.step → y.hot = 3 → s.dev.tripped = false → readSource s src t = trip s1 src t) ∧
    (y.step ≠ x.step → y.hot < 3 → (y.step < 5 ∨ 5 ≤ x.step) → readSource s src t =
      record (raise (bump s1 (pgPwr + 0x128) 0 16 1) pgPwr 0 []) 0x00 (if x.step < y.step then 1 else 0) 0x090 0 0x22 (thermData src y.step x.step t))) ∧
  (∀ (s : State) (src : Nat) (t : Int), s.dev.state = .boot → (trip s src t).dev.tripped = true ∧ (trip s src t).dev.tripN = false) ∧
  (∀ (s : State) (src : Nat) (t : Int), (s.dev.state = .ready ∨ s.dev.state = .serve ∨ s.dev.state = .train ∨ s.dev.state = .drain) →
    (trip s src t).dev.tripped = true ∧ (trip s src t).dev.state = .dump ∧ (trip s src t).dev.alertN = false) ∧
  (∀ s : State, HostMay s pgPwr →
    (s.dev.state = .serve → exec .drain s = .next (drainCheck (pwrResult { s with dev := { s.dev with state := .drain, drained := false } } 0)) ∧ exec .serve s = .next (pwrResult s 1)) ∧
    (s.dev.state = .drain → exec .serve s = .next (serveUpdate (pwrResult { s with dev := { s.dev with state := .serve, drained := false } } 0)) ∧ exec .drain s = .next (pwrResult s 1)) ∧
    (s.dev.state ≠ .serve → s.dev.state ≠ .drain → exec .serve s = .next (pwrResult s 1) ∧ exec .drain s = .next (pwrResult s 1)))

/-- R6-R11, R525-R531, R7, R106, R545: A page's event registers and the registers' accesses. A 1 written to `PG_EVT` clears its bit; the enables and the
control register take their fields; a write that leaves `ALERT` at 1 sends the page's message, and so does a forced event that raises `ALERT`. A
vector that is unmasked sends its pending message. An aligned read of 4 or 8 bytes returns the registers and clears their RC fields, any other read
returns the bytes and clears nothing; a page that does not answer reads 0; a write of another width or place, or to such a page, has no effect. A
write to a command register is the command of its code, and an unused code does nothing; the fields of a plain register take the value. Narrow and
unaligned accesses follow log entry 103. Where the condition of a command does not hold the state stays as it is (log entry 99). Commands whose next
state it gives: `pgEvtWrite`, `pgEvtEnWrite`, `pgCtrlWrite`, `pgEvtForce`, `msixUnmask`, `rcRead`, `registerWrite`. -/
def Obligations.RegistersAndCommandRegisters : Prop :=
  ((∀ (pg : Nat) (v : Word) (s : State), HostMay s (4096 * pg) →
    (hasHeader pg = false → exec (.pgEvtWrite pg v) s = .next s ∧ exec (.pgEvtEnWrite pg v) s = .next s ∧ exec (.pgCtrlWrite pg v) s = .next s ∧ exec (.pgEvtForce pg v) s = .next s) ∧
    (hasHeader pg = true →
      exec (.pgEvtWrite pg v) s = .next (afterWrite (wr s (4096 * pg + 0x10) (rd s (4096 * pg + 0x10) - (rd s (4096 * pg + 0x10) &&& (v.toNat &&& evtMask pg)))) (4096 * pg)) ∧
      (partHeld s pg = false → exec (.pgEvtEnWrite pg v) s = .next (afterWrite (wr s (4096 * pg + 0x14) (v.toNat &&& evtMask pg)) (4096 * pg)) ∧
        exec (.pgCtrlWrite pg v) s = .next (afterWrite (wr s (4096 * pg + 0x08) (bits v.toNat 0 11 + bits v.toNat 15 1 * 2 ^ 15)) (4096 * pg))) ∧
      (partHeld s pg = true → exec (.pgEvtEnWrite pg v) s = .next s ∧ exec (.pgCtrlWrite pg v) s = .next s) ∧
      exec (.pgEvtForce pg v) s = .next ((List.range 32).foldl (fun s i => if bit (v.toNat &&& evtMask pg) i then raiseForced s (4096 * pg) i else s) s))) ∧
  (∀ (s : State) (pg : Nat),
    (rd s (pg + 0x10) &&& rd s (pg + 0x14) = 0 → afterWrite s pg = s) ∧
    (rd s (pg + 0x10) &&& rd s (pg + 0x14) ≠ 0 → rdf s (pg + 0x08) 15 1 = 1 → afterWrite s pg = sendVector s (rdf s (pg + 0x08) 0 11)) ∧
    (rd s (pg + 0x10) &&& rd s (pg + 0x14) ≠ 0 → rdf s (pg + 0x08) 15 1 = 0 → afterWrite s pg = s)) ∧
  (∀ (s : State) (pg b : Nat), let s1 := bump (wr s (pg + 0x10) (rd s (pg + 0x10) ||| 2 ^ b)) (pg + 0x1C) 0 32 1
    (alert s pg = false → alert s1 pg = true → setEvt s pg b = signalPage s1 pg) ∧ (alert s pg = true ∨ alert s1 pg = false → setEvt s pg b = s1) ∧
    (∀ (k : Kind) (n : Nat), pageKind (pg / 4096) = some (k, n) → raiseForced s pg b =
      accept (setEvt s pg b) { island := evtIsland k n, sev := evtSev k b + 4, blk := blockType k, inst := (pageInst k n).1, code := b, datas := [[]] })) ∧
  (∀ (s : State) (v : Nat), let e := tget (0, 0, true) s.msix.entries v
    (s.msix.enable = true → s.msix.fmask = false → e.2.2 = false → sendVector s v = emit s (.msix v e.1 e.2.1)) ∧
    ((s.msix.enable = false ∨ s.msix.fmask = true ∨ e.2.2 = true) → ∃ t : State, sendVector s v = t ∧ v ∈ t.msix.pend ∧ t.out = s.out ∧ t.regs = s.regs)) ∧
  (∀ (s : State), (hostReach s = false → exec (.msixUnmask none) s = .next s) ∧
    (hostReach s = true → exec (.msixUnmask none) s = .next (fireAll { s with msix := { s.msix with enable := true, fmask := false } }))) ∧
  (∀ (n : Nat) (s : State), n < 2048 → HostMay s 4096 → let e := tget (0, 0, true) s.msix.entries n
    exec (.msixUnmask (some n)) s = .next (firePending { s with msix := { s.msix with entries := tset (0, 0, true) s.msix.entries n (e.1, e.2.1, false) } } n)) ∧
  (∀ (a w : Nat) (s : State), accessFits a w = true →
    (hostReach s = false → exec (.rcRead a w) s = .next s) ∧
    (hostReach s = true → ideHold s = true → exec (.rcRead a w) s = .next (emit s (.refusedIo a))) ∧
    (hostReach s = true → ideHold s = false → pageOpen s (a / 4096) = false → 4 ≤ w → a % w = 0 → exec (.rcRead a w) s = .next (emit s (.read a w 0))) ∧
    (hostReach s = true → ideHold s = false → (w < 4 ∨ a % w ≠ 0) → exec (.rcRead a w) s =
      .next (emit s (.read a w (((List.range w).map (fun i => readByte s (a + i) * 256 ^ i)).sum)))) ∧
    (HostMay s (a / 4096 * 4096) → w = 4 → a % 4 = 0 → exec (.rcRead a w) s = .next (emit (readEffect s a).2 (.read a 4 (readWord s a)))) ∧
    (HostMay s (a / 4096 * 4096) → w = 8 → a % 8 = 0 → ∃ s1 : State, s1 = (readEffect s a).2 ∧ exec (.rcRead a w) s =
      .next (emit (readEffect s1 (a + 4)).2 (.read a 8 (readWord s a + (readEffect s1 (a + 4)).1 * 2 ^ 32))))) ∧
  (∀ (s : State) (a : Nat), pageOpen s (a / 4096) = false → readByte s a = 0) ∧
  (∀ (a w : Nat) (v : BitVec 64) (s : State), accessFits a w = true →
    (hostReach s = false → exec (.registerWrite a w v) s = .next s) ∧
    (hostReach s = true → ideHold s = true → exec (.registerWrite a w v) s = .next (emit s (.refusedIo (a / 4096 * 4096)))) ∧
    (HostMay s (a / 4096 * 4096) → (w < 4 ∨ a % w ≠ 0) → exec (.registerWrite a w v) s = .next s) ∧
    (HostMay s (a / 4096 * 4096) → w = 4 → a % 4 = 0 → ∃ t : State, exec (.registerWrite a w v) s = .next t ∧ writeWord s a (BitVec.ofNat 32 v.toNat) = .next t) ∧
    (HostMay s (a / 4096 * 4096) → w = 8 → a % 8 = 0 → ∃ t u : State, writeWord s a (BitVec.ofNat 32 v.toNat) = .next t ∧
      writeWord t (a + 4) (BitVec.ofNat 32 (v.toNat / 2 ^ 32)) = .next u ∧ exec (.registerWrite a w v) s = .next u)) ∧
  (∀ (s : State) (a v : Nat) (i : Nat), i < 32 → (bit (rd (storeRw s a v) a) i = true ↔
    (bit (accMask (fieldsAt a) .rw) i = true ∧ bit v i = true) ∨ (bit (accMask (fieldsAt a) .rw) i = false ∧ bit (rd s a) i = true)))) ∧
  (∀ (s : State) (v : Word) (p : Fin 32) (q d : Fin 4),
    (writeBlock s .part p.val 0x100 v = (match bits v.toNat 0 3 with | 1 => exec (.partCreate p) s | 2 => exec (.partDestroy p) s | 3 => exec (.partReset p) s | 4 => exec (.partApplyMaps p) s | _ => .next s)) ∧
    (writeBlock s .asch d.val 0x118 v = (match bits v.toNat 0 2 with | 1 => exec (.ringCreate d) s | 2 => exec (.ringDestroy d) s | _ => .next s)) ∧
    (writeBlock s .net q.val 0x240 v = (match bits v.toNat 0 2 with | 1 => exec (.qpCreate q) s | 2 => exec (.qpDestroy q) s | 3 => exec (.qpRead q) s | _ => .next s)) ∧
    (writeBlock s .net 0 0x2A0 v = (match bits v.toNat 0 3 with | 1 => exec .regionRegister s | 2 => exec .regionReregisterNew s | 3 => exec .regionReregisterKeep s | 4 => exec .regionDeregister s | 5 => exec .regionRead s | _ => .next s)) ∧
    (writeBlock s .rule 0 0x238 v = (match bits v.toNat 0 3 with | 1 => exec .ruleInsert s | 2 => exec .ruleRemove s | 3 => exec .ruleModify s | 4 => exec .ruleRead s | 5 => exec .ruleApplyBands s | _ => .next s)) ∧
    (writeBlock s .cxl 0 0x114 v = (match bits v.toNat 0 2 with | 1 => exec .dcAdd s | 2 => exec .dcRelease s | 3 => exec .dcRead s | _ => .next s)) ∧
    (writeBlock s .cab 0 0x130 v = (match bits v.toNat 0 2 with | 1 => exec (.cabTblInstall (bits v.toNat 8 6)) s | 2 => exec (.cabTblRetire (bits v.toNat 8 6)) s | _ => .next s)) ∧
    (writeBlock s .stw 0 0x14C v = (match bits v.toNat 0 3 with | 1 => exec .fwStream s | 2 => exec .fwAbort s | 3 => exec (.fwVerify (Fin.ofNat 2 (bits v.toNat 3 1))) s | 4 => exec .activateTrial s | 5 => exec .commit s | 6 => exec .raiseSecurityVersion s | 7 => exec .cancelTrial s | _ => .next s)) ∧
    (writeBlock s .pwr 0 0x12C v = (match bits v.toNat 0 2 with | 1 => exec .drain s | 2 => exec .serve s | _ => .next s)) ∧
    (writeBlock s .evr 0 0x15C v = (match bits v.toNat 0 2 with | 1 => exec .dumpCopy s | 2 => exec .dumpRelease s | _ => .next s)) ∧
    (writeBlock s .capt p.val 0x154 v = (match bits v.toNat 0 2 with | 1 => exec (.replayStart p (Fin.ofNat 4 (bits v.toNat 2 2))) s | 2 => exec (.replayStop p) s | _ => .next s)))

/-- R89: A trim of a ring shelf is refused with `BAD_DESCRIPTOR`, at the field that names the form. -/
def Obligations.RingShelfRefusesTrim : Prop :=
  ∀ (ring : Fin 4096) (id i : Nat) (s s1 : State) (r : Req) (sh : Shelf), Admits s ring.val 0x04 id r s1 → Found s1 (dKey r.desc) i sh →
    sh.copy = false → isRing sh.prof = true → exec (.trimKv ring) s = .next (failReq s1 id r { status := 0x32, detail := 0x1C })

/-- R482: Command 1 of `EVR_CMD` clears the log only where the count, and the repeat count of the last record if there is one, are those that the host has
seen; otherwise `RESULT` alone changes. A clear empties the log, the counts and `LOG_FULL`, and `EVR_NEXTSEQ` runs on. Commands whose next state it
gives: `evrClear`. -/
def Obligations.LogIsClearedOnlyAsSeen : Prop :=
  ∀ s : State, HostMay s pgEvr →
    (s.evr.log.length ≠ rdf s (pgEvr + 0x118) 0 16 → exec .evrClear s = .next { s with evr := { s.evr with clrResult := 1 } }) ∧
    (∀ r : List Byte, s.evr.log.length = rdf s (pgEvr + 0x118) 0 16 → s.evr.log.getLast? = some r → recRepeat r ≠ rdf s (pgEvr + 0x118) 16 16 →
      exec .evrClear s = .next { s with evr := { s.evr with clrResult := 2 } }) ∧
    (s.evr.log.length = rdf s (pgEvr + 0x118) 0 16 → (∀ r : List Byte, s.evr.log.getLast? = some r → recRepeat r = rdf s (pgEvr + 0x118) 16 16) →
      exec .evrClear s = .next (wrf { s with evr := { s.evr with log := [], overflow := 0, inGroup := false, clrResult := 0 } } (pgEvr + 0x10) 0 1 0))

/-- R470: Command 6 raises the security version counter to `IH_SVN` of the committed image, whose version is at most 63; it is refused with 8 while a
trial is on and with 5 where the version is not higher. No command lowers the counter, and an image with a lower version then fails the header check
of the stream and of the boot ROM. Commands whose next state it gives: `raiseSecurityVersion`. -/
def Obligations.SecurityVersionOnlyRises : Prop :=
  (∀ (s : State) (m : Image), HostMay s pgStw → s.stw.fw = none → RmTakes s 2 → slotImage s (bootRec s).active = some m →
    (trialOn s = true → exec .raiseSecurityVersion s = .next (fwEnd s 8)) ∧
    (trialOn s = false → ihSvn m.header ≤ s.sec.svn → exec .raiseSecurityVersion s = .next (fwEnd s 5)) ∧
    (trialOn s = false → s.sec.svn < ihSvn m.header → exec .raiseSecurityVersion s = .next (fwEnd { s with sec := { s.sec with svn := ihSvn m.header } } 0)) ∧
    (trialOn s = false → headerForm m.header = true → s.sec.svn = 63 → exec .raiseSecurityVersion s = .next (fwEnd s 5))) ∧
  (∀ (c : Instr) (s t : State), exec c s = .next t → s.sec.svn ≤ t.sec.svn) ∧
  (∀ (s : State) (m : Image), ihSvn m.header < s.sec.svn → headerCheck s m.header ≠ 0 ∧ romCheck s m = none)

/-- R464: A slot whose stream stops, is aborted by command 2, or is cut by a restart or a loss of power is marked empty, and the boot ROM never starts an
empty slot. The boot record's generation has not reached its last value. -/
def Obligations.CutStreamsLeaveTheSlotEmpty : Prop :=
  (∀ (s t : State) (j : FwJob), s.stw.fw = some j → j.stream = true → j.slot ≤ 1 → (bootRec s).gen + 1 < 2 ^ 32 →
    (exec .fwDone s = .next t → t.stw.fw = none → t.stw.fwResult ≠ 0 → slotCode (bootRec t) j.slot = 0) ∧
    (HostMay s pgStw → RmTakes s 2 → exec .fwAbort s = .next t → slotCode (bootRec t) j.slot = 0) ∧
    ((∃ op : Bool, t = rmRestart s op) ∨ exec .inputLoss s = .next t ∨ exec .resetN s = .next t ∨ exec .conventionalReset s = .next t ∨ exec .pwrEnLow s = .next t → s.dev.state ≠ .off →
      slotCode (bootRec t) j.slot = 0 ∧ slotImage t j.slot = none)) ∧
  (∀ s t : State, exec .bootRom s = .next t → s.dev.bootStep = 0 → t.dev.bootStep = 1 → (bootRec s).gen + 3 < 2 ^ 32 → slotCode (bootRec s) t.stw.runSlot ≠ 0)
end

