-- ==== Sys2Proof/Laws/Blocks.lean ====
section
/-! SUPPORT. A stored block that nothing has changed passes the check of its tag, and one whose tag has changed does not. -/
namespace Sys2Proof.Laws

open Sys2Proof.Machine

/-! ### Lengths -/

theorem leBytes_length (n v : Nat) : (leBytes n v).length = n := by
  induction n generalizing v with
  | zero => rfl
  | succ n ih => simp [leBytes, ih]

theorem xorBytes_length (a b : List Nat) : (xorBytes a b).length = min a.length b.length := by simp [xorBytes]

theorem keccakRound_length (a : List Nat) (rc : Nat) : (keccakRound a rc).length = 25 := by simp [keccakRound]

theorem foldl_keccakRound_length (l : List Nat) (a : List Nat) (h : a.length = 25) : (l.foldl keccakRound a).length = 25 := by
  induction l generalizing a with
  | nil => exact h
  | cons x l ih => exact ih _ (keccakRound_length a x)

theorem toLanes_length (n : Nat) (b : List Byte) : (toLanes n b).length = n := by
  induction n generalizing b with
  | zero => rfl
  | succ n ih => simp [toLanes, ih]

theorem absorb_length (a : List Nat) (b : List Byte) (h : a.length = 25) : (absorb a b).length = 25 := by
  unfold absorb keccakF
  exact foldl_keccakRound_length _ _ (by simp [toLanes_length, h])

theorem absorbAll_length (rate n : Nat) (a : List Nat) (m : List Byte) (h : a.length = 25) : (absorbAll rate n a m).length = 25 := by
  induction n generalizing a m with
  | zero => simpa [absorbAll] using h
  | succ n ih =>
    cases m with
    | nil => simpa [absorbAll] using h
    | cons x m => simpa [absorbAll] using ih _ _ (absorb_length _ _ h)

theorem sponge_length (rate suffix : Nat) (m : List Byte) (out : Nat) (h : out ≤ 200) : (sponge rate suffix m out).length = out := by
  have hf : ∀ l : List Nat, (l.flatMap (leBytes 8)).length = 8 * l.length := by
    intro l
    induction l with
    | nil => rfl
    | cons x l ih => simp only [List.flatMap_cons, List.length_append, leBytes_length, ih, List.length_cons]; omega
  simp only [sponge, List.length_take, hf, absorbAll_length _ _ _ _ (List.length_replicate ..)]
  omega

theorem kmac128_length (key input : List Byte) (cust : String) : (kmac128 key input 32 cust).length = 32 := sponge_length _ _ _ _ (by omega)

theorem getD_length {l : List (List Nat)} {n i : Nat} (h : ∀ w ∈ l, w.length = n) (hi : i < l.length) : (l.getD i []).length = n := by
  rw [List.getD_eq_getElem?_getD, List.getElem?_eq_getElem hi]
  exact h _ (List.getElem_mem _)

/-- Every word of the key schedule has four bytes, and each step adds one. -/
theorem aesExpand_words (n i : Nat) (ws : List (List Nat)) (h : ∀ w ∈ ws, w.length = 4) (h8 : 8 ≤ ws.length) :
    (∀ w ∈ aesExpand n i ws, w.length = 4) ∧ (aesExpand n i ws).length = ws.length + n := by
  induction n generalizing i ws with
  | zero => exact ⟨h, rfl⟩
  | succ n ih =>
    have hd : (ws.headD []).length = 4 := by
      cases ws with
      | nil => simp at h8
      | cons x l => exact h x (by simp)
    have hnew : ∀ w ∈ xorBytes (ws.getD 7 []) (if i % 8 = 0 then xorBytes (((ws.headD []).drop 1 ++ (ws.headD []).take 1).map aesSub)
        [gfPow 0x11B 2 (i / 8 - 1), 0, 0, 0] else if i % 8 = 4 then (ws.headD []).map aesSub else ws.headD []) :: ws, w.length = 4 := by
      intro w hw
      rcases List.mem_cons.mp hw with rfl | hw
      · rw [xorBytes_length, getD_length h (by omega)]
        split
        · simp only [xorBytes_length, List.length_map, List.length_append, List.length_drop, List.length_take, hd, List.length_cons, List.length_nil]
          omega
        · split
          · rw [List.length_map, hd]; rfl
          · rw [hd]; rfl
      · exact h w hw
    have hr := ih (i + 1) _ hnew (by simp only [List.length_cons]; omega)
    refine ⟨hr.1, ?_⟩
    simp only [aesExpand]
    rw [hr.2, List.length_cons]
    omega

theorem flatten_length_four (l : List (List Nat)) (h : ∀ w ∈ l, w.length = 4) : l.flatten.length = 4 * l.length := by
  induction l with
  | nil => rfl
  | cons x l ih =>
    simp only [List.flatten_cons, List.length_append, h x (by simp), ih (fun w hw => h w (by simp [hw])), List.length_cons]
    omega

theorem aesKeys_length (key : List Nat) (h : key.length = 32) : (∀ k ∈ aesKeys key, k.length = 16) ∧ (aesKeys key).length = 15 := by
  refine ⟨?_, by simp [aesKeys]⟩
  have hw := aesExpand_words 52 8 ((List.range 8).map (fun i => (key.drop (4 * i)).take 4)).reverse
    (by
      intro w hw
      simp only [List.mem_reverse, List.mem_map, List.mem_range] at hw
      obtain ⟨i, hi, rfl⟩ := hw
      simp only [List.length_take, List.length_drop, h]
      omega)
    (by simp)
  intro k hk
  simp only [aesKeys, List.mem_map, List.mem_range] at hk
  obtain ⟨r, hr, rfl⟩ := hk
  rw [flatten_length_four]
  · simp only [List.length_take, List.length_drop, List.length_reverse, hw.2, List.length_map, List.length_range]
    omega
  · intro w h1
    exact hw.1 w (List.mem_reverse.mp (List.mem_of_mem_drop (List.mem_of_mem_take h1)))

theorem aesBlock_length (keys : List (List Nat)) (b : List Nat) (h : (keys.getD 14 []).length = 16) : (aesBlock keys b).length = 16 := by
  simp only [aesBlock, xorBytes_length, h]
  simp [aesShift]

theorem xtsNext_length (t : List Nat) : (xtsNext t).length = 16 := by simp [xtsNext, leBytes_length]

theorem xtsBlocks_length (keys : List (List Nat)) (h : (keys.getD 14 []).length = 16) (n : Nat) (t b : List Nat) (ht : t.length = 16) :
    (xtsBlocks keys n t b).length = 16 * n := by
  induction n generalizing t b with
  | zero => rfl
  | succ n ih =>
    simp only [xtsBlocks, List.length_append, xorBytes_length, aesBlock_length _ _ h, ht, ih _ _ (xtsNext_length t)]
    omega

/-- A data unit keeps its length. -/
theorem xtsEncrypt_length (key : List Byte) (h : key.length = 64) (tweak n : Nat) (b : List Byte) : (xtsEncrypt key tweak n b).length = 16 * n := by
  have hk : ∀ k : List Nat, k.length = 32 → ((aesKeys k).getD 14 []).length = 16 := by
    intro k h1
    exact getD_length (aesKeys_length k h1).1 (by rw [(aesKeys_length k h1).2]; omega)
  simp only [xtsEncrypt, List.length_map]
  exact xtsBlocks_length _ (hk _ (by simp [h])) _ _ _ (aesBlock_length _ _ (hk _ (by simp [h])))

/-! ### The check of a stored block (R262) -/

theorem modAt_append {α : Type} (f : α → α) (a b : List α) : modAt f a.length (a ++ b) = a ++ modAt f 0 b := by
  induction a with
  | nil => rfl
  | cons x a ih => simp only [List.length_cons, List.cons_append, modAt, ih]

/-- What the tag check of a block sees: `head` is its header, which gives the length of the body, and `t` the bytes in the tag's place. -/
theorem tagHolds_parts (keys : Nat) (head c t rest : List Byte) (h32 : head.length = 32) (ht : t.length = 6)
    (hn : (if le head 0 2 = 0xCB03 then le head 8 4 else le head 4 4) = c.length) :
    tagHolds keys (head ++ c ++ t ++ rest) = decide (t = (kmac128 (tagKey keys) (head ++ c) 32 "").take 6) := by
  have hle : ∀ o n : Nat, o + n ≤ 32 → le (head ++ c ++ t ++ rest) o n = le head o n := by
    intro o n h
    simp only [le, bslice, List.append_assoc]
    rw [List.drop_append_of_le_length (by omega), List.take_append_of_le_length (by simp; omega)]
  have hl : (head ++ c).length = 32 + c.length := by simp [h32]
  simp only [tagHolds, hle 0 2 (by omega), hle 8 4 (by omega), hle 4 4 (by omega), hn]
  rw [← hl]
  simp only [bslice, List.append_assoc (head ++ c), List.drop_left, List.take_left]
  rw [List.take_append_of_le_length (by omega), List.take_of_length_le (by omega)]

/-- R262: the bytes of a stored block as they were written pass; with the first byte of the tag changed they do not. -/
theorem sealedBytes_check (keys tweak size : Nat) (head plain : List Byte) (h32 : head.length = 32) (h16 : plain.length / 16 * 16 = plain.length)
    (hn : (if le head 0 2 = 0xCB03 then le head 8 4 else le head 4 4) = plain.length) :
    tagHolds keys (changedBytes (sealedBytes keys tweak size head plain) []) = true ∧
    tagHolds keys (changedBytes (sealedBytes keys tweak size head plain) [(32 + plain.length, 1)]) = false := by
  let c := xtsEncrypt (dataKey keys) tweak (plain.length / 16) plain
  have hc : c.length = plain.length := by
    rw [show c.length = 16 * (plain.length / 16) from xtsEncrypt_length _ (leBytes_length _ _) _ _ _]
    omega
  let t := (kmac128 (tagKey keys) (head ++ c) 32 "").take 6
  have ht : t.length = 6 := by simp [t, kmac128_length]
  obtain ⟨r, hr⟩ : ∃ r, sealedBytes keys tweak size head plain = head ++ c ++ t ++ r := ⟨_, rfl⟩
  constructor
  · rw [changedBytes, List.foldl_nil, hr, tagHolds_parts _ _ _ _ _ h32 ht (by rw [hn, hc])]
    simp [t]
  · obtain ⟨x, y, hxy⟩ : ∃ x y, t = x :: y := by
      cases h0 : t with
      | nil => simp [h0] at ht
      | cons x y => exact ⟨x, y, rfl⟩
    have hm : changedBytes (head ++ c ++ t ++ r) [(32 + plain.length, 1)] = head ++ c ++ ((x ^^^ 1#8) :: y) ++ r := by
      rw [changedBytes, List.foldl_cons, List.foldl_nil, List.append_assoc (head ++ c), show 32 + plain.length = (head ++ c).length by simp [h32, hc],
        modAt_append, hxy, List.append_assoc (head ++ c)]
      rfl
    rw [hr, hm, tagHolds_parts _ _ _ _ _ h32 (by rw [hxy] at ht; simpa using ht) (by rw [hn, hc]), decide_eq_false_iff_not]
    intro h
    have h1 : (x ^^^ 1#8) :: y = t := h
    rw [hxy] at h1
    have h2 : x ^^^ 1#8 = x := (List.cons.inj h1).1
    revert h2
    generalize x = b
    revert b
    decide

end Sys2Proof.Laws
end

