-- ==== Sys2Proof/Laws/Memory.lean ====
section
/-! SUPPORT. Sparse tables stay sorted, and every operation on a memory keeps its canonical form. -/
namespace Sys2Proof.Laws

open Sys2Proof.Machine

/-! ### Tables -/

theorem tsorted_cons {α : Type} {k : Nat} {v : α} {t : Tab α} :
    tsorted ((k, v) :: t) = true ↔ (∀ e ∈ t, k < e.1) ∧ tsorted t = true := by
  induction t generalizing k v with
  | nil => simp [tsorted]
  | cons e t ih =>
    obtain ⟨k', v'⟩ := e
    simp only [tsorted, Bool.and_eq_true, decide_eq_true_eq, List.mem_cons, forall_eq_or_imp]
    constructor
    · rintro ⟨h1, h2⟩
      exact ⟨⟨h1, fun e he => Nat.lt_trans h1 ((ih.mp h2).1 e he)⟩, h2⟩
    · rintro ⟨⟨h1, _⟩, h2⟩
      exact ⟨h1, h2⟩

theorem mem_tput {α : Type} {t : Tab α} {k : Nat} {v : α} {e : Nat × α} (h : e ∈ tput t k v) : e = (k, v) ∨ e ∈ t := by
  induction t with
  | nil => simpa [tput] using h
  | cons x t ih =>
    obtain ⟨k', v'⟩ := x
    simp only [tput] at h
    split at h
    · rcases List.mem_cons.mp h with h | h
      · exact .inr (by simp [h])
      · rcases ih h with h | h
        · exact .inl h
        · exact .inr (List.mem_cons_of_mem _ h)
    · split at h
      · rcases List.mem_cons.mp h with h | h
        · exact .inl h
        · exact .inr (List.mem_cons_of_mem _ h)
      · rcases List.mem_cons.mp h with h | h
        · exact .inl h
        · exact .inr h

theorem tput_sorted {α : Type} {t : Tab α} (k : Nat) (v : α) (h : tsorted t = true) : tsorted (tput t k v) = true := by
  induction t with
  | nil => rfl
  | cons x t ih =>
    obtain ⟨k', v'⟩ := x
    have h' := tsorted_cons.mp h
    simp only [tput]
    split
    · rename_i lt
      refine tsorted_cons.mpr ⟨fun e he => ?_, ih h'.2⟩
      rcases mem_tput he with he | he
      · simpa [he] using lt
      · exact h'.1 e he
    · split
      · rename_i eq
        subst eq
        exact tsorted_cons.mpr h'
      · rename_i a b
        refine tsorted_cons.mpr ⟨fun e he => ?_, h⟩
        have hk : k < k' := by omega
        rcases List.mem_cons.mp he with he | he
        · simpa [he] using hk
        · exact Nat.lt_trans hk (h'.1 e he)

theorem tsorted_filter {α : Type} {t : Tab α} (p : Nat × α → Bool) (h : tsorted t = true) : tsorted (t.filter p) = true := by
  induction t with
  | nil => rfl
  | cons x t ih =>
    obtain ⟨k, v⟩ := x
    have h' := tsorted_cons.mp h
    simp only [List.filter_cons]
    split
    · exact tsorted_cons.mpr ⟨fun e he => h'.1 e (List.mem_filter.mp he).1, ih h'.2⟩
    · exact ih h'.2

/-! ### Memory -/

theorem memory_wf_iff {m : Tab Byte} : Memory.wf m = true ↔ tsorted m = true ∧ ∀ e ∈ m, e.2 ≠ 0 := by
  simp [Memory.wf]

/-- Writing one byte keeps the canonical form of a memory. -/
theorem mset_wf {m : Tab Byte} (a : Nat) (b : Byte) (h : Memory.wf m = true) : Memory.wf (mset m a b) = true := by
  obtain ⟨h1, h2⟩ := memory_wf_iff.mp h
  unfold mset tset
  split
  · exact memory_wf_iff.mpr ⟨tsorted_filter _ h1, fun e he => h2 e (List.mem_filter.mp he).1⟩
  · rename_i nz
    refine memory_wf_iff.mpr ⟨tput_sorted _ _ h1, fun e he => ?_⟩
    rcases mem_tput he with he | he
    · simpa [he] using nz
    · exact h2 e he

/-- Writing bytes keeps the canonical form of a memory. -/
theorem mwrite_wf {m : Tab Byte} (a : Nat) (l : List Byte) (h : Memory.wf m = true) : Memory.wf (mwrite m a l) = true := by
  induction l generalizing m a with
  | nil => exact h
  | cons b l ih => exact ih (a + 1) (mset_wf a b h)

/-- Dropping entries keeps the canonical form of a memory. -/
theorem filter_wf {m : Tab Byte} (p : Nat × Byte → Bool) (h : Memory.wf m = true) : Memory.wf (m.filter p) = true := by
  obtain ⟨h1, h2⟩ := memory_wf_iff.mp h
  exact memory_wf_iff.mpr ⟨tsorted_filter _ h1, fun e he => h2 e (List.mem_filter.mp he).1⟩

end Sys2Proof.Laws
end

