-- ==== Sys2Proof/Laws/Keeps.lean ====
section
/-! SUPPORT. What every operation of the machine keeps, and the rules that carry it through the operations. -/
namespace Sys2Proof.Laws

open Sys2Proof.Machine Sys2Proof.Safety

/-- The bit of a part of the state in a mask of parts. -/
def fieldIdx : Field → Nat
  | .dev => 0
  | .fabric => 1
  | .time => 2
  | .wayOwner => 3
  | .tileOwner => 4
  | .pcOwner => 5
  | .tileTag => 6
  | .sched => 7
  | .dir => 8
  | .rings => 9
  | .armed => 10
  | .objects => 11
  | .reqs => 12
  | .nextId => 13
  | .hostMem => 14
  | .hostBad => 15
  | .devMem => 16
  | .devBad => 17
  | .booths => 18
  | .fstacks => 19
  | .tiers => 20
  | .cab => 21
  | .hbm => 22
  | .vidx => 23
  | .rules => 24
  | .ports => 25
  | .qps => 26
  | .regions => 27
  | .regionGen => 28
  | .regionBusy => 29
  | .cxl => 30
  | .parts => 31
  | .links => 32
  | .pulls => 33
  | .sub => 34
  | .sec => 35
  | .stw => 36
  | .evr => 37
  | .replay => 38
  | .pwr => 39
  | .regs => 40
  | .msix => 41
  | .free => 42
  | .out => 43

theorem same_refl (f : Field) (s : State) : f.Same s s := by cases f <;> rfl

theorem same_trans {f : Field} {s t u : State} (a : f.Same s t) (b : f.Same t u) : f.Same s u := by
  cases f <;> exact Eq.trans b a

/-- Every part of the mask `a` is in the mask `m`. -/
def Sub (a m : Nat) : Prop := a ||| m = m

theorem Sub.refl (a : Nat) : Sub a a := Nat.or_self a

theorem Sub.of {a b m : Nat} (h : Sub b m) (e : a ||| b = b) : Sub a m := by
  unfold Sub at *
  rw [← h, ← Nat.or_assoc, e]

theorem Sub.bit {a m i : Nat} (h : Sub a m) (e : m.testBit i = false) : a.testBit i = false := by
  unfold Sub at h
  rw [← h, Nat.testBit_or, Bool.or_eq_false_iff] at e
  exact e.1

/-- What every operation keeps, and the parts of the state, those outside the mask `m`, that it does not change. -/
structure Keeps (m : Nat) (s t : State) : Prop where
  chip  : t.chip = s.chip
  queue : t.pending = s.pending
  free  : s.free ≤ t.free
  ids   : s.nextId ≤ t.nextId
  host  : Memory.wf s.hostMem = true → Memory.wf t.hostMem = true
  dev   : Memory.wf s.devMem = true → Memory.wf t.devMem = true
  svn   : s.sec.svn ≤ t.sec.svn
  alert : s.dev.alertN = decide (s.pwr.sbAlert = 0) → t.dev.alertN = decide (t.pwr.sbAlert = 0)
  frame : ∀ f : Field, m.testBit (fieldIdx f) = false → f.Same s t

theorem Keeps.refl {m : Nat} (s : State) : Keeps m s s :=
  ⟨rfl, rfl, Nat.le_refl _, Nat.le_refl _, id, id, Nat.le_refl _, id, fun f _ => same_refl f s⟩

theorem Keeps.trans {m : Nat} {s t u : State} (a : Keeps m s t) (b : Keeps m t u) : Keeps m s u :=
  ⟨b.chip.trans a.chip, b.queue.trans a.queue, Nat.le_trans a.free b.free, Nat.le_trans a.ids b.ids,
   fun h => b.host (a.host h), fun h => b.dev (a.dev h), Nat.le_trans a.svn b.svn, fun h => b.alert (a.alert h),
   fun f h => same_trans (a.frame f h) (b.frame f h)⟩

theorem keeps_foldl {m : Nat} {α : Type} {s i : State} {f : State → α → State} {l : List α} (hf : ∀ a x, Keeps m s a → Keeps m s (f a x)) (h : Keeps m s i) :
    Keeps m s (l.foldl f i) := by
  induction l generalizing i with
  | nil => exact h
  | cons x l ih => exact ih (hf i x h)

theorem keeps_foldl2 {m : Nat} {α β : Type} {s : State} {i : β × State} {f : β × State → α → β × State} {l : List α}
    (hf : ∀ a x, Keeps m s a.2 → Keeps m s (f a x).2) (h : Keeps m s i.2) : Keeps m s (l.foldl f i).2 := by
  induction l generalizing i with
  | nil => exact h
  | cons x l ih => exact ih (hf i x h)

theorem keeps_of_pair {m : Nat} {α : Type} {s t : State} {v : α} {x : α × State} (e : x = (v, t)) (h : Keeps m s x.2) : Keeps m s t := by
  subst e; exact h

theorem keeps_of_triple {m : Nat} {α β : Type} {s t : State} {v : α} {w : β} {x : α × β × State} (e : x = (v, w, t)) (h : Keeps m s x.2.2) : Keeps m s t := by
  subst e; exact h

theorem keeps_of_fst {m : Nat} {α : Type} {s t : State} {v : α} {x : State × α} (e : x = (t, v)) (h : Keeps m s x.1) : Keeps m s t := by
  subst e; exact h

/-- `Keeps` for the states that an operation may answer. -/
def KeepsO (m : Nat) (s : State) (o : Option State) : Prop := ∀ t, o = some t → Keeps m s t
/-- `Keeps` for the state of an operation that succeeds. -/
def KeepsE {α : Type} (m : Nat) (s : State) (o : Except α State) : Prop := ∀ t, o = .ok t → Keeps m s t
/-- `Keeps` for the state of an operation that may wait, fail or succeed. -/
def KeepsOE {α : Type} (m : Nat) (s : State) (o : Option (Except α State)) : Prop := ∀ t, o = some (.ok t) → Keeps m s t
theorem KeepsO.some {m : Nat} {s t : State} (h : Keeps m s t) : KeepsO m s (some t) := by intro u e; cases e; exact h
theorem KeepsO.none {m : Nat} {s : State} : KeepsO m s none := by intro u e; cases e
theorem KeepsE.ok {m : Nat} {α : Type} {s t : State} (h : Keeps m s t) : KeepsE (α := α) m s (.ok t) := by intro u e; cases e; exact h
theorem KeepsE.error {m : Nat} {α : Type} {s : State} {a : α} : KeepsE m s (.error a) := by intro u e; cases e
theorem KeepsOE.ok {m : Nat} {α : Type} {s t : State} (h : Keeps m s t) : KeepsOE (α := α) m s (some (.ok t)) := by intro u e; cases e; exact h
theorem KeepsOE.error {m : Nat} {α : Type} {s : State} {a : α} : KeepsOE m s (some (.error a)) := by intro u e; cases e
theorem KeepsOE.none {m : Nat} {α : Type} {s : State} : KeepsOE (α := α) m s none := by intro u e; cases e
theorem KeepsOE.ofE {m : Nat} {α : Type} {s : State} {o : Except α State} (h : KeepsE m s o) : KeepsOE m s (some o) := by
  intro u e; exact h u (Option.some.inj e)
theorem keeps_foldlOE {m : Nat} {α β : Type} {s : State} {f : Option (Except β State) → α → Option (Except β State)} {l : List α} {i : Option (Except β State)}
    (hf : ∀ a x, KeepsOE m s a → KeepsOE m s (f a x)) (h : KeepsOE m s i) : KeepsOE m s (l.foldl f i) := by
  induction l generalizing i with
  | nil => exact h
  | cons x l ih => exact ih (hf i x h)
theorem keeps_of_opt {m : Nat} {s t : State} {o : Option State} (e : o = some t) (h : KeepsO m s o) : Keeps m s t := h t e
theorem keeps_of_ok {m : Nat} {α : Type} {s t : State} {o : Except α State} (e : o = .ok t) (h : KeepsE m s o) : Keeps m s t := h t e
theorem keeps_of_okopt {m : Nat} {α : Type} {s t : State} {o : Option (Except α State)} (e : o = some (.ok t)) (h : KeepsOE m s o) : Keeps m s t := h t e

/-- The outcome of a command is no next state that fails `Keeps`. -/
def KeepsR (m : Nat) (s : State) (r : Res) : Prop := ∀ t, r = .next t → Keeps m s t

theorem KeepsR.next {m : Nat} {s t : State} (h : Keeps m s t) : KeepsR m s (.next t) := by
  intro u e; cases e; exact h

theorem KeepsR.fault {m : Nat} {s : State} {f : Fault} : KeepsR m s (.fault f) := by
  intro u e; cases e


theorem keeps_of_res {m : Nat} {s t : State} {r : Res} (e : r = .next t) (h : KeepsR m s r) : Keeps m s t := h t e


theorem Keeps.upd_armed {msk : Nat} {s e : State} {v_armed : List Armed} (h : Keeps msk s e) (hm : Sub 0x400 msk) :
    Keeps msk s { e with armed := v_armed } :=
  h.trans ⟨rfl, rfl, Nat.le_refl _, Nat.le_refl _, id, id, Nat.le_refl _, id,
    fun f hf => by have h2 := hm.bit hf; cases f <;> first | rfl | exact absurd h2 (by decide)⟩

theorem Keeps.upd_booths {msk : Nat} {s e : State} {v_booths : Tab Booth} (h : Keeps msk s e) (hm : Sub 0x40000 msk) :
    Keeps msk s { e with booths := v_booths } :=
  h.trans ⟨rfl, rfl, Nat.le_refl _, Nat.le_refl _, id, id, Nat.le_refl _, id,
    fun f hf => by have h2 := hm.bit hf; cases f <;> first | rfl | exact absurd h2 (by decide)⟩

theorem Keeps.upd_cab {msk : Nat} {s e : State} {v_cab : Cab} (h : Keeps msk s e) (hm : Sub 0x200000 msk) :
    Keeps msk s { e with cab := v_cab } :=
  h.trans ⟨rfl, rfl, Nat.le_refl _, Nat.le_refl _, id, id, Nat.le_refl _, id,
    fun f hf => by have h2 := hm.bit hf; cases f <;> first | rfl | exact absurd h2 (by decide)⟩

theorem Keeps.upd_cxl {msk : Nat} {s e : State} {v_cxl : Cxl} (h : Keeps msk s e) (hm : Sub 0x40000000 msk) :
    Keeps msk s { e with cxl := v_cxl } :=
  h.trans ⟨rfl, rfl, Nat.le_refl _, Nat.le_refl _, id, id, Nat.le_refl _, id,
    fun f hf => by have h2 := hm.bit hf; cases f <;> first | rfl | exact absurd h2 (by decide)⟩

theorem Keeps.upd_dev {msk : Nat} {s e : State} {v_dev : Dev} (h : Keeps msk s e) (hm : Sub 0x1 msk) (hd : Dev.alertN v_dev = e.dev.alertN) :
    Keeps msk s { e with dev := v_dev } :=
  h.trans ⟨rfl, rfl, Nat.le_refl _, Nat.le_refl _, id, id, Nat.le_refl _, fun x => by simp only [hd]; exact x,
    fun f hf => by have h2 := hm.bit hf; cases f <;> first | rfl | exact absurd h2 (by decide)⟩

theorem Keeps.upd_dev_cab_cxl {msk : Nat} {s e : State} {v_dev : Dev} {v_cab : Cab} {v_cxl : Cxl} (h : Keeps msk s e) (hm : Sub 0x40200001 msk) (hd : Dev.alertN v_dev = e.dev.alertN) :
    Keeps msk s { e with dev := v_dev, cab := v_cab, cxl := v_cxl } :=
  h.trans ⟨rfl, rfl, Nat.le_refl _, Nat.le_refl _, id, id, Nat.le_refl _, fun x => by simp only [hd]; exact x,
    fun f hf => by have h2 := hm.bit hf; cases f <;> first | rfl | exact absurd h2 (by decide)⟩

theorem Keeps.upd_dev_evr {msk : Nat} {s e : State} {v_dev : Dev} {v_evr : Evr} (h : Keeps msk s e) (hm : Sub 0x2000000001 msk) (hd : Dev.alertN v_dev = e.dev.alertN) :
    Keeps msk s { e with dev := v_dev, evr := v_evr } :=
  h.trans ⟨rfl, rfl, Nat.le_refl _, Nat.le_refl _, id, id, Nat.le_refl _, fun x => by simp only [hd]; exact x,
    fun f hf => by have h2 := hm.bit hf; cases f <;> first | rfl | exact absurd h2 (by decide)⟩

theorem Keeps.upd_dev_sec {msk : Nat} {s e : State} {v_dev : Dev} {v_sec : Sec} (h : Keeps msk s e) (hm : Sub 0x800000001 msk) (hd : Dev.alertN v_dev = e.dev.alertN) (hv : Sec.svn v_sec = e.sec.svn) :
    Keeps msk s { e with dev := v_dev, sec := v_sec } :=
  h.trans ⟨rfl, rfl, Nat.le_refl _, Nat.le_refl _, id, id, Nat.le_of_eq hv.symm, fun x => by simp only [hd]; exact x,
    fun f hf => by have h2 := hm.bit hf; cases f <;> first | rfl | exact absurd h2 (by decide)⟩

theorem Keeps.upd_dev_sec_stw {msk : Nat} {s e : State} {v_dev : Dev} {v_sec : Sec} {v_stw : Stw} (h : Keeps msk s e) (hm : Sub 0x1800000001 msk) (hd : Dev.alertN v_dev = e.dev.alertN) (hv : Sec.svn v_sec = e.sec.svn) :
    Keeps msk s { e with dev := v_dev, sec := v_sec, stw := v_stw } :=
  h.trans ⟨rfl, rfl, Nat.le_refl _, Nat.le_refl _, id, id, Nat.le_of_eq hv.symm, fun x => by simp only [hd]; exact x,
    fun f hf => by have h2 := hm.bit hf; cases f <;> first | rfl | exact absurd h2 (by decide)⟩

theorem Keeps.upd_dev_stw_evr {msk : Nat} {s e : State} {v_dev : Dev} {v_stw : Stw} {v_evr : Evr} (h : Keeps msk s e) (hm : Sub 0x3000000001 msk) (hd : Dev.alertN v_dev = e.dev.alertN) :
    Keeps msk s { e with dev := v_dev, stw := v_stw, evr := v_evr } :=
  h.trans ⟨rfl, rfl, Nat.le_refl _, Nat.le_refl _, id, id, Nat.le_refl _, fun x => by simp only [hd]; exact x,
    fun f hf => by have h2 := hm.bit hf; cases f <;> first | rfl | exact absurd h2 (by decide)⟩

theorem Keeps.upd_devBad {msk : Nat} {s e : State} {v_devBad : Tab Nat} (h : Keeps msk s e) (hm : Sub 0x20000 msk) :
    Keeps msk s { e with devBad := v_devBad } :=
  h.trans ⟨rfl, rfl, Nat.le_refl _, Nat.le_refl _, id, id, Nat.le_refl _, id,
    fun f hf => by have h2 := hm.bit hf; cases f <;> first | rfl | exact absurd h2 (by decide)⟩

theorem Keeps.upd_devMem {msk : Nat} {s e : State}  {da : Nat} {db : List Byte} (h : Keeps msk s e) (hm : Sub 0x10000 msk) :
    Keeps msk s { e with devMem := mwrite e.devMem da db } :=
  h.trans ⟨rfl, rfl, Nat.le_refl _, Nat.le_refl _, id, fun w => mwrite_wf _ _ w, Nat.le_refl _, id,
    fun f hf => by have h2 := hm.bit hf; cases f <;> first | rfl | exact absurd h2 (by decide)⟩

theorem Keeps.upd_dir {msk : Nat} {s e : State} {v_dir : Dir} (h : Keeps msk s e) (hm : Sub 0x100 msk) :
    Keeps msk s { e with dir := v_dir } :=
  h.trans ⟨rfl, rfl, Nat.le_refl _, Nat.le_refl _, id, id, Nat.le_refl _, id,
    fun f hf => by have h2 := hm.bit hf; cases f <;> first | rfl | exact absurd h2 (by decide)⟩

theorem Keeps.upd_dir_free {msk : Nat} {s e : State} {v_dir : Dir} {k : Nat} (h : Keeps msk s e) (hm : Sub 0x40000000100 msk) :
    Keeps msk s { e with dir := v_dir, free := e.free + k } :=
  h.trans ⟨rfl, rfl, Nat.le_add_right _ _, Nat.le_refl _, id, id, Nat.le_refl _, id,
    fun f hf => by have h2 := hm.bit hf; cases f <;> first | rfl | exact absurd h2 (by decide)⟩

theorem Keeps.upd_dir_links {msk : Nat} {s e : State} {v_dir : Dir} {v_links : Tab Link} (h : Keeps msk s e) (hm : Sub 0x100000100 msk) :
    Keeps msk s { e with dir := v_dir, links := v_links } :=
  h.trans ⟨rfl, rfl, Nat.le_refl _, Nat.le_refl _, id, id, Nat.le_refl _, id,
    fun f hf => by have h2 := hm.bit hf; cases f <;> first | rfl | exact absurd h2 (by decide)⟩

theorem Keeps.upd_dir_objects_tiers_vidx_links_pulls_sub {msk : Nat} {s e : State} {v_dir : Dir} {v_objects : Tab Obj} {v_tiers : Tiers} {v_vidx : Tab VIndex} {v_links : Tab Link} {v_pulls : Tab PullJob} {v_sub : Tab SubInbox} (h : Keeps msk s e) (hm : Sub 0x700900900 msk) :
    Keeps msk s { e with dir := v_dir, objects := v_objects, tiers := v_tiers, vidx := v_vidx, links := v_links, pulls := v_pulls, sub := v_sub } :=
  h.trans ⟨rfl, rfl, Nat.le_refl _, Nat.le_refl _, id, id, Nat.le_refl _, id,
    fun f hf => by have h2 := hm.bit hf; cases f <;> first | rfl | exact absurd h2 (by decide)⟩

theorem Keeps.upd_dir_objects_tiers_vidx_regions_links_pulls_sub {msk : Nat} {s e : State} {v_dir : Dir} {v_objects : Tab Obj} {v_tiers : Tiers} {v_vidx : Tab VIndex} {v_regions : Tab Region} {v_links : Tab Link} {v_pulls : Tab PullJob} {v_sub : Tab SubInbox} (h : Keeps msk s e) (hm : Sub 0x708900900 msk) :
    Keeps msk s { e with dir := v_dir, objects := v_objects, tiers := v_tiers, vidx := v_vidx, regions := v_regions, links := v_links, pulls := v_pulls, sub := v_sub } :=
  h.trans ⟨rfl, rfl, Nat.le_refl _, Nat.le_refl _, id, id, Nat.le_refl _, id,
    fun f hf => by have h2 := hm.bit hf; cases f <;> first | rfl | exact absurd h2 (by decide)⟩

theorem Keeps.upd_dir_qps {msk : Nat} {s e : State} {v_dir : Dir} {v_qps : Tab Qp} (h : Keeps msk s e) (hm : Sub 0x4000100 msk) :
    Keeps msk s { e with dir := v_dir, qps := v_qps } :=
  h.trans ⟨rfl, rfl, Nat.le_refl _, Nat.le_refl _, id, id, Nat.le_refl _, id,
    fun f hf => by have h2 := hm.bit hf; cases f <;> first | rfl | exact absurd h2 (by decide)⟩

theorem Keeps.upd_dir_sec {msk : Nat} {s e : State} {v_dir : Dir} {v_sec : Sec} (h : Keeps msk s e) (hm : Sub 0x800000100 msk) (hv : Sec.svn v_sec = e.sec.svn) :
    Keeps msk s { e with dir := v_dir, sec := v_sec } :=
  h.trans ⟨rfl, rfl, Nat.le_refl _, Nat.le_refl _, id, id, Nat.le_of_eq hv.symm, id,
    fun f hf => by have h2 := hm.bit hf; cases f <;> first | rfl | exact absurd h2 (by decide)⟩

theorem Keeps.upd_dir_tiers {msk : Nat} {s e : State} {v_dir : Dir} {v_tiers : Tiers} (h : Keeps msk s e) (hm : Sub 0x100100 msk) :
    Keeps msk s { e with dir := v_dir, tiers := v_tiers } :=
  h.trans ⟨rfl, rfl, Nat.le_refl _, Nat.le_refl _, id, id, Nat.le_refl _, id,
    fun f hf => by have h2 := hm.bit hf; cases f <;> first | rfl | exact absurd h2 (by decide)⟩

theorem Keeps.upd_dir_vidx {msk : Nat} {s e : State} {v_dir : Dir} {v_vidx : Tab VIndex} (h : Keeps msk s e) (hm : Sub 0x800100 msk) :
    Keeps msk s { e with dir := v_dir, vidx := v_vidx } :=
  h.trans ⟨rfl, rfl, Nat.le_refl _, Nat.le_refl _, id, id, Nat.le_refl _, id,
    fun f hf => by have h2 := hm.bit hf; cases f <;> first | rfl | exact absurd h2 (by decide)⟩

theorem Keeps.upd_evr {msk : Nat} {s e : State} {v_evr : Evr} (h : Keeps msk s e) (hm : Sub 0x2000000000 msk) :
    Keeps msk s { e with evr := v_evr } :=
  h.trans ⟨rfl, rfl, Nat.le_refl _, Nat.le_refl _, id, id, Nat.le_refl _, id,
    fun f hf => by have h2 := hm.bit hf; cases f <;> first | rfl | exact absurd h2 (by decide)⟩

theorem Keeps.upd_fabric {msk : Nat} {s e : State} {v_fabric : Fabric} (h : Keeps msk s e) (hm : Sub 0x2 msk) :
    Keeps msk s { e with fabric := v_fabric } :=
  h.trans ⟨rfl, rfl, Nat.le_refl _, Nat.le_refl _, id, id, Nat.le_refl _, id,
    fun f hf => by have h2 := hm.bit hf; cases f <;> first | rfl | exact absurd h2 (by decide)⟩

theorem Keeps.upd_free {msk : Nat} {s e : State}  {k : Nat} (h : Keeps msk s e) (hm : Sub 0x40000000000 msk) :
    Keeps msk s { e with free := e.free + k } :=
  h.trans ⟨rfl, rfl, Nat.le_add_right _ _, Nat.le_refl _, id, id, Nat.le_refl _, id,
    fun f hf => by have h2 := hm.bit hf; cases f <;> first | rfl | exact absurd h2 (by decide)⟩

theorem Keeps.upd_fstacks {msk : Nat} {s e : State} {v_fstacks : Tab FStack} (h : Keeps msk s e) (hm : Sub 0x80000 msk) :
    Keeps msk s { e with fstacks := v_fstacks } :=
  h.trans ⟨rfl, rfl, Nat.le_refl _, Nat.le_refl _, id, id, Nat.le_refl _, id,
    fun f hf => by have h2 := hm.bit hf; cases f <;> first | rfl | exact absurd h2 (by decide)⟩

theorem Keeps.upd_hbm {msk : Nat} {s e : State} {v_hbm : Tab Hbm} (h : Keeps msk s e) (hm : Sub 0x400000 msk) :
    Keeps msk s { e with hbm := v_hbm } :=
  h.trans ⟨rfl, rfl, Nat.le_refl _, Nat.le_refl _, id, id, Nat.le_refl _, id,
    fun f hf => by have h2 := hm.bit hf; cases f <;> first | rfl | exact absurd h2 (by decide)⟩

theorem Keeps.upd_hbm_stw {msk : Nat} {s e : State} {v_hbm : Tab Hbm} {v_stw : Stw} (h : Keeps msk s e) (hm : Sub 0x1000400000 msk) :
    Keeps msk s { e with hbm := v_hbm, stw := v_stw } :=
  h.trans ⟨rfl, rfl, Nat.le_refl _, Nat.le_refl _, id, id, Nat.le_refl _, id,
    fun f hf => by have h2 := hm.bit hf; cases f <;> first | rfl | exact absurd h2 (by decide)⟩

theorem Keeps.upd_hostBad {msk : Nat} {s e : State} {v_hostBad : List Nat} (h : Keeps msk s e) (hm : Sub 0x8000 msk) :
    Keeps msk s { e with hostBad := v_hostBad } :=
  h.trans ⟨rfl, rfl, Nat.le_refl _, Nat.le_refl _, id, id, Nat.le_refl _, id,
    fun f hf => by have h2 := hm.bit hf; cases f <;> first | rfl | exact absurd h2 (by decide)⟩

theorem Keeps.upd_hostMem {msk : Nat} {s e : State}  {ha : Nat} {hb : List Byte} (h : Keeps msk s e) (hm : Sub 0x4000 msk) :
    Keeps msk s { e with hostMem := mwrite e.hostMem ha hb } :=
  h.trans ⟨rfl, rfl, Nat.le_refl _, Nat.le_refl _, fun w => mwrite_wf _ _ w, id, Nat.le_refl _, id,
    fun f hf => by have h2 := hm.bit hf; cases f <;> first | rfl | exact absurd h2 (by decide)⟩

theorem Keeps.upd_hostMem_hostBad {msk : Nat} {s e : State} {v_hostBad : List Nat} {ha : Nat} {hb : List Byte} (h : Keeps msk s e) (hm : Sub 0xC000 msk) :
    Keeps msk s { e with hostMem := mwrite e.hostMem ha hb, hostBad := v_hostBad } :=
  h.trans ⟨rfl, rfl, Nat.le_refl _, Nat.le_refl _, fun w => mwrite_wf _ _ w, id, Nat.le_refl _, id,
    fun f hf => by have h2 := hm.bit hf; cases f <;> first | rfl | exact absurd h2 (by decide)⟩

theorem Keeps.upd_links {msk : Nat} {s e : State} {v_links : Tab Link} (h : Keeps msk s e) (hm : Sub 0x100000000 msk) :
    Keeps msk s { e with links := v_links } :=
  h.trans ⟨rfl, rfl, Nat.le_refl _, Nat.le_refl _, id, id, Nat.le_refl _, id,
    fun f hf => by have h2 := hm.bit hf; cases f <;> first | rfl | exact absurd h2 (by decide)⟩

theorem Keeps.upd_msix {msk : Nat} {s e : State} {v_msix : Msix} (h : Keeps msk s e) (hm : Sub 0x20000000000 msk) :
    Keeps msk s { e with msix := v_msix } :=
  h.trans ⟨rfl, rfl, Nat.le_refl _, Nat.le_refl _, id, id, Nat.le_refl _, id,
    fun f hf => by have h2 := hm.bit hf; cases f <;> first | rfl | exact absurd h2 (by decide)⟩

theorem Keeps.upd_objects {msk : Nat} {s e : State} {v_objects : Tab Obj} (h : Keeps msk s e) (hm : Sub 0x800 msk) :
    Keeps msk s { e with objects := v_objects } :=
  h.trans ⟨rfl, rfl, Nat.le_refl _, Nat.le_refl _, id, id, Nat.le_refl _, id,
    fun f hf => by have h2 := hm.bit hf; cases f <;> first | rfl | exact absurd h2 (by decide)⟩

theorem Keeps.upd_objects_vidx {msk : Nat} {s e : State} {v_objects : Tab Obj} {v_vidx : Tab VIndex} (h : Keeps msk s e) (hm : Sub 0x800800 msk) :
    Keeps msk s { e with objects := v_objects, vidx := v_vidx } :=
  h.trans ⟨rfl, rfl, Nat.le_refl _, Nat.le_refl _, id, id, Nat.le_refl _, id,
    fun f hf => by have h2 := hm.bit hf; cases f <;> first | rfl | exact absurd h2 (by decide)⟩

theorem Keeps.upd_out {msk : Nat} {s e : State} {v_out : List Out} (h : Keeps msk s e) (hm : Sub 0x80000000000 msk) :
    Keeps msk s { e with out := v_out } :=
  h.trans ⟨rfl, rfl, Nat.le_refl _, Nat.le_refl _, id, id, Nat.le_refl _, id,
    fun f hf => by have h2 := hm.bit hf; cases f <;> first | rfl | exact absurd h2 (by decide)⟩

theorem Keeps.upd_parts {msk : Nat} {s e : State} {v_parts : Tab Part} (h : Keeps msk s e) (hm : Sub 0x80000000 msk) :
    Keeps msk s { e with parts := v_parts } :=
  h.trans ⟨rfl, rfl, Nat.le_refl _, Nat.le_refl _, id, id, Nat.le_refl _, id,
    fun f hf => by have h2 := hm.bit hf; cases f <;> first | rfl | exact absurd h2 (by decide)⟩

theorem Keeps.upd_pcOwner {msk : Nat} {s e : State} {v_pcOwner : Tab Nat} (h : Keeps msk s e) (hm : Sub 0x20 msk) :
    Keeps msk s { e with pcOwner := v_pcOwner } :=
  h.trans ⟨rfl, rfl, Nat.le_refl _, Nat.le_refl _, id, id, Nat.le_refl _, id,
    fun f hf => by have h2 := hm.bit hf; cases f <;> first | rfl | exact absurd h2 (by decide)⟩

theorem Keeps.upd_ports {msk : Nat} {s e : State} {v_ports : Tab Port} (h : Keeps msk s e) (hm : Sub 0x2000000 msk) :
    Keeps msk s { e with ports := v_ports } :=
  h.trans ⟨rfl, rfl, Nat.le_refl _, Nat.le_refl _, id, id, Nat.le_refl _, id,
    fun f hf => by have h2 := hm.bit hf; cases f <;> first | rfl | exact absurd h2 (by decide)⟩

theorem Keeps.upd_pulls {msk : Nat} {s e : State} {v_pulls : Tab PullJob} (h : Keeps msk s e) (hm : Sub 0x200000000 msk) :
    Keeps msk s { e with pulls := v_pulls } :=
  h.trans ⟨rfl, rfl, Nat.le_refl _, Nat.le_refl _, id, id, Nat.le_refl _, id,
    fun f hf => by have h2 := hm.bit hf; cases f <;> first | rfl | exact absurd h2 (by decide)⟩

theorem Keeps.upd_pwr {msk : Nat} {s e : State} {v_pwr : Pwr} (h : Keeps msk s e) (hm : Sub 0x8000000000 msk) (hp : Pwr.sbAlert v_pwr = e.pwr.sbAlert) :
    Keeps msk s { e with pwr := v_pwr } :=
  h.trans ⟨rfl, rfl, Nat.le_refl _, Nat.le_refl _, id, id, Nat.le_refl _, fun x => by simp only [hp]; exact x,
    fun f hf => by have h2 := hm.bit hf; cases f <;> first | rfl | exact absurd h2 (by decide)⟩

theorem Keeps.upd_qps {msk : Nat} {s e : State} {v_qps : Tab Qp} (h : Keeps msk s e) (hm : Sub 0x4000000 msk) :
    Keeps msk s { e with qps := v_qps } :=
  h.trans ⟨rfl, rfl, Nat.le_refl _, Nat.le_refl _, id, id, Nat.le_refl _, id,
    fun f hf => by have h2 := hm.bit hf; cases f <;> first | rfl | exact absurd h2 (by decide)⟩

theorem Keeps.upd_regionBusy {msk : Nat} {s e : State} {v_regionBusy : Option RegionWait} (h : Keeps msk s e) (hm : Sub 0x20000000 msk) :
    Keeps msk s { e with regionBusy := v_regionBusy } :=
  h.trans ⟨rfl, rfl, Nat.le_refl _, Nat.le_refl _, id, id, Nat.le_refl _, id,
    fun f hf => by have h2 := hm.bit hf; cases f <;> first | rfl | exact absurd h2 (by decide)⟩

theorem Keeps.upd_regions {msk : Nat} {s e : State} {v_regions : Tab Region} (h : Keeps msk s e) (hm : Sub 0x8000000 msk) :
    Keeps msk s { e with regions := v_regions } :=
  h.trans ⟨rfl, rfl, Nat.le_refl _, Nat.le_refl _, id, id, Nat.le_refl _, id,
    fun f hf => by have h2 := hm.bit hf; cases f <;> first | rfl | exact absurd h2 (by decide)⟩

theorem Keeps.upd_regions_regionBusy {msk : Nat} {s e : State} {v_regions : Tab Region} {v_regionBusy : Option RegionWait} (h : Keeps msk s e) (hm : Sub 0x28000000 msk) :
    Keeps msk s { e with regions := v_regions, regionBusy := v_regionBusy } :=
  h.trans ⟨rfl, rfl, Nat.le_refl _, Nat.le_refl _, id, id, Nat.le_refl _, id,
    fun f hf => by have h2 := hm.bit hf; cases f <;> first | rfl | exact absurd h2 (by decide)⟩

theorem Keeps.upd_regions_regionGen {msk : Nat} {s e : State} {v_regions : Tab Region} {v_regionGen : Tab Nat} (h : Keeps msk s e) (hm : Sub 0x18000000 msk) :
    Keeps msk s { e with regions := v_regions, regionGen := v_regionGen } :=
  h.trans ⟨rfl, rfl, Nat.le_refl _, Nat.le_refl _, id, id, Nat.le_refl _, id,
    fun f hf => by have h2 := hm.bit hf; cases f <;> first | rfl | exact absurd h2 (by decide)⟩

theorem Keeps.upd_regs {msk : Nat} {s e : State} {v_regs : Tab Word} (h : Keeps msk s e) (hm : Sub 0x10000000000 msk) :
    Keeps msk s { e with regs := v_regs } :=
  h.trans ⟨rfl, rfl, Nat.le_refl _, Nat.le_refl _, id, id, Nat.le_refl _, id,
    fun f hf => by have h2 := hm.bit hf; cases f <;> first | rfl | exact absurd h2 (by decide)⟩

theorem Keeps.upd_replay {msk : Nat} {s e : State} {v_replay : Tab Replay} (h : Keeps msk s e) (hm : Sub 0x4000000000 msk) :
    Keeps msk s { e with replay := v_replay } :=
  h.trans ⟨rfl, rfl, Nat.le_refl _, Nat.le_refl _, id, id, Nat.le_refl _, id,
    fun f hf => by have h2 := hm.bit hf; cases f <;> first | rfl | exact absurd h2 (by decide)⟩

theorem Keeps.upd_reqs {msk : Nat} {s e : State} {v_reqs : Tab Req} (h : Keeps msk s e) (hm : Sub 0x1000 msk) :
    Keeps msk s { e with reqs := v_reqs } :=
  h.trans ⟨rfl, rfl, Nat.le_refl _, Nat.le_refl _, id, id, Nat.le_refl _, id,
    fun f hf => by have h2 := hm.bit hf; cases f <;> first | rfl | exact absurd h2 (by decide)⟩

theorem Keeps.upd_reqs_vidx {msk : Nat} {s e : State} {v_reqs : Tab Req} {v_vidx : Tab VIndex} (h : Keeps msk s e) (hm : Sub 0x801000 msk) :
    Keeps msk s { e with reqs := v_reqs, vidx := v_vidx } :=
  h.trans ⟨rfl, rfl, Nat.le_refl _, Nat.le_refl _, id, id, Nat.le_refl _, id,
    fun f hf => by have h2 := hm.bit hf; cases f <;> first | rfl | exact absurd h2 (by decide)⟩

theorem Keeps.upd_rings {msk : Nat} {s e : State} {v_rings : Tab Ring} (h : Keeps msk s e) (hm : Sub 0x200 msk) :
    Keeps msk s { e with rings := v_rings } :=
  h.trans ⟨rfl, rfl, Nat.le_refl _, Nat.le_refl _, id, id, Nat.le_refl _, id,
    fun f hf => by have h2 := hm.bit hf; cases f <;> first | rfl | exact absurd h2 (by decide)⟩

theorem Keeps.upd_rules {msk : Nat} {s e : State} {v_rules : Rules} (h : Keeps msk s e) (hm : Sub 0x1000000 msk) :
    Keeps msk s { e with rules := v_rules } :=
  h.trans ⟨rfl, rfl, Nat.le_refl _, Nat.le_refl _, id, id, Nat.le_refl _, id,
    fun f hf => by have h2 := hm.bit hf; cases f <;> first | rfl | exact absurd h2 (by decide)⟩

theorem Keeps.upd_sched {msk : Nat} {s e : State} {v_sched : Tab Sched} (h : Keeps msk s e) (hm : Sub 0x80 msk) :
    Keeps msk s { e with sched := v_sched } :=
  h.trans ⟨rfl, rfl, Nat.le_refl _, Nat.le_refl _, id, id, Nat.le_refl _, id,
    fun f hf => by have h2 := hm.bit hf; cases f <;> first | rfl | exact absurd h2 (by decide)⟩

theorem Keeps.upd_sec {msk : Nat} {s e : State} {v_sec : Sec} (h : Keeps msk s e) (hm : Sub 0x800000000 msk) (hv : Sec.svn v_sec = e.sec.svn) :
    Keeps msk s { e with sec := v_sec } :=
  h.trans ⟨rfl, rfl, Nat.le_refl _, Nat.le_refl _, id, id, Nat.le_of_eq hv.symm, id,
    fun f hf => by have h2 := hm.bit hf; cases f <;> first | rfl | exact absurd h2 (by decide)⟩

theorem Keeps.upd_stw {msk : Nat} {s e : State} {v_stw : Stw} (h : Keeps msk s e) (hm : Sub 0x1000000000 msk) :
    Keeps msk s { e with stw := v_stw } :=
  h.trans ⟨rfl, rfl, Nat.le_refl _, Nat.le_refl _, id, id, Nat.le_refl _, id,
    fun f hf => by have h2 := hm.bit hf; cases f <;> first | rfl | exact absurd h2 (by decide)⟩

theorem Keeps.upd_sub {msk : Nat} {s e : State} {v_sub : Tab SubInbox} (h : Keeps msk s e) (hm : Sub 0x400000000 msk) :
    Keeps msk s { e with sub := v_sub } :=
  h.trans ⟨rfl, rfl, Nat.le_refl _, Nat.le_refl _, id, id, Nat.le_refl _, id,
    fun f hf => by have h2 := hm.bit hf; cases f <;> first | rfl | exact absurd h2 (by decide)⟩

theorem Keeps.upd_tiers {msk : Nat} {s e : State} {v_tiers : Tiers} (h : Keeps msk s e) (hm : Sub 0x100000 msk) :
    Keeps msk s { e with tiers := v_tiers } :=
  h.trans ⟨rfl, rfl, Nat.le_refl _, Nat.le_refl _, id, id, Nat.le_refl _, id,
    fun f hf => by have h2 := hm.bit hf; cases f <;> first | rfl | exact absurd h2 (by decide)⟩

theorem Keeps.upd_tileTag {msk : Nat} {s e : State} {v_tileTag : Tab Nat} (h : Keeps msk s e) (hm : Sub 0x40 msk) :
    Keeps msk s { e with tileTag := v_tileTag } :=
  h.trans ⟨rfl, rfl, Nat.le_refl _, Nat.le_refl _, id, id, Nat.le_refl _, id,
    fun f hf => by have h2 := hm.bit hf; cases f <;> first | rfl | exact absurd h2 (by decide)⟩

theorem Keeps.upd_time {msk : Nat} {s e : State} {v_time : Time} (h : Keeps msk s e) (hm : Sub 0x4 msk) :
    Keeps msk s { e with time := v_time } :=
  h.trans ⟨rfl, rfl, Nat.le_refl _, Nat.le_refl _, id, id, Nat.le_refl _, id,
    fun f hf => by have h2 := hm.bit hf; cases f <;> first | rfl | exact absurd h2 (by decide)⟩

theorem Keeps.upd_time_parts_stw {msk : Nat} {s e : State} {v_time : Time} {v_parts : Tab Part} {v_stw : Stw} (h : Keeps msk s e) (hm : Sub 0x1080000004 msk) :
    Keeps msk s { e with time := v_time, parts := v_parts, stw := v_stw } :=
  h.trans ⟨rfl, rfl, Nat.le_refl _, Nat.le_refl _, id, id, Nat.le_refl _, id,
    fun f hf => by have h2 := hm.bit hf; cases f <;> first | rfl | exact absurd h2 (by decide)⟩

theorem Keeps.upd_vidx {msk : Nat} {s e : State} {v_vidx : Tab VIndex} (h : Keeps msk s e) (hm : Sub 0x800000 msk) :
    Keeps msk s { e with vidx := v_vidx } :=
  h.trans ⟨rfl, rfl, Nat.le_refl _, Nat.le_refl _, id, id, Nat.le_refl _, id,
    fun f hf => by have h2 := hm.bit hf; cases f <;> first | rfl | exact absurd h2 (by decide)⟩

theorem Keeps.upd_wayOwner_tileOwner {msk : Nat} {s e : State} {v_wayOwner : Tab Nat} {v_tileOwner : Tab Nat} (h : Keeps msk s e) (hm : Sub 0x18 msk) :
    Keeps msk s { e with wayOwner := v_wayOwner, tileOwner := v_tileOwner } :=
  h.trans ⟨rfl, rfl, Nat.le_refl _, Nat.le_refl _, id, id, Nat.le_refl _, id,
    fun f hf => by have h2 := hm.bit hf; cases f <;> first | rfl | exact absurd h2 (by decide)⟩

theorem Keeps.upd_wayOwner_tileOwner_parts_replay_regs {msk : Nat} {s e : State} {v_wayOwner : Tab Nat} {v_tileOwner : Tab Nat} {v_parts : Tab Part} {v_replay : Tab Replay} {v_regs : Tab Word} (h : Keeps msk s e) (hm : Sub 0x14080000018 msk) :
    Keeps msk s { e with wayOwner := v_wayOwner, tileOwner := v_tileOwner, parts := v_parts, replay := v_replay, regs := v_regs } :=
  h.trans ⟨rfl, rfl, Nat.le_refl _, Nat.le_refl _, id, id, Nat.le_refl _, id,
    fun f hf => by have h2 := hm.bit hf; cases f <;> first | rfl | exact absurd h2 (by decide)⟩

theorem Keeps.upd_wayOwner_tileOwner_pcOwner {msk : Nat} {s e : State} {v_wayOwner : Tab Nat} {v_tileOwner : Tab Nat} {v_pcOwner : Tab Nat} (h : Keeps msk s e) (hm : Sub 0x38 msk) :
    Keeps msk s { e with wayOwner := v_wayOwner, tileOwner := v_tileOwner, pcOwner := v_pcOwner } :=
  h.trans ⟨rfl, rfl, Nat.le_refl _, Nat.le_refl _, id, id, Nat.le_refl _, id,
    fun f hf => by have h2 := hm.bit hf; cases f <;> first | rfl | exact absurd h2 (by decide)⟩

/-- The security version counter is only raised (R470). -/
theorem Keeps.raiseSvn {m : Nat} {s e : State} {v : Nat} (h : Keeps m s e) (hv : ¬v ≤ e.sec.svn) (hm : Sub 0x800000000 m) :
    Keeps m s { e with sec := { e.sec with svn := v } } :=
  h.trans ⟨rfl, rfl, Nat.le_refl _, Nat.le_refl _, id, id, Nat.le_of_lt (Nat.lt_of_not_le hv), id,
    fun f hf => by have h2 := hm.bit hf; cases f <;> first | rfl | exact absurd h2 (by decide)⟩

end Sys2Proof.Laws
end

