-- ==== Sys2Proof/Laws/KeepsCore.lean ====
section
/-! SUPPORT. `Keeps` for the operations that every command shares, and the commands of rings, rules and objects. -/
namespace Sys2Proof.Laws

open Sys2Proof.Machine Sys2Proof.Safety

set_option maxRecDepth 4000

theorem keeps_draw {msk : Nat} {s₀ : State} (s : State) (hk : Keeps msk s₀ s) (hm : Sub 0x40000000000 msk) : Keeps msk s₀ (draw s).2 := by
  unfold draw
  repeat' first
    | with_reducible first | exact Keeps.refl _ | assumption | exact Sub.of hm rfl
    | dsimp only
    | with_reducible refine Keeps.upd_free ?_ (Sub.of hm rfl); first
        | exact Keeps.refl _ | assumption
    | split

theorem keeps_drawBytes {msk : Nat} {s₀ : State} (s : State) (n : Nat) (hk : Keeps msk s₀ s) (hm : Sub 0x40000000000 msk) : Keeps msk s₀ (drawBytes s n).2 := by
  unfold drawBytes
  repeat' first
    | with_reducible first | exact Keeps.refl _ | assumption | exact Sub.of hm rfl
    | dsimp only
    | with_reducible refine Keeps.upd_free ?_ (Sub.of hm rfl); first
        | exact Keeps.refl _ | assumption
    | split

theorem keeps_wr {msk : Nat} {s₀ : State} (s : State) (a : Nat) (v : Nat) (hk : Keeps msk s₀ s) (hm : Sub 0x10000000000 msk) : Keeps msk s₀ (wr s a v) := by
  unfold wr
  repeat' first
    | with_reducible first | exact Keeps.refl _ | assumption | exact Sub.of hm rfl
    | dsimp only
    | with_reducible refine Keeps.upd_regs ?_ (Sub.of hm rfl); first
        | exact Keeps.refl _ | assumption
    | split

theorem keeps_wrf {msk : Nat} {s₀ : State} (s : State) (a : Nat) (lo : Nat) (n : Nat) (v : Nat) (hk : Keeps msk s₀ s) (hm : Sub 0x10000000000 msk) : Keeps msk s₀ (wrf s a lo n v) := by
  unfold wrf
  repeat' first
    | with_reducible first | exact Keeps.refl _ | assumption | exact Sub.of hm rfl
    | dsimp only
    | with_reducible first
      | apply keeps_wr
    | split

theorem keeps_bump {msk : Nat} {s₀ : State} (s : State) (a : Nat) (lo : Nat) (n : Nat) (k : Nat) (hk : Keeps msk s₀ s) (hm : Sub 0x10000000000 msk) : Keeps msk s₀ (bump s a lo n k) := by
  unfold bump
  repeat' first
    | with_reducible first | exact Keeps.refl _ | assumption | exact Sub.of hm rfl
    | dsimp only
    | with_reducible first
      | apply keeps_wrf
    | split

theorem keeps_wr64 {msk : Nat} {s₀ : State} (s : State) (a : Nat) (v : Nat) (hk : Keeps msk s₀ s) (hm : Sub 0x10000000000 msk) : Keeps msk s₀ (wr64 s a v) := by
  unfold wr64
  repeat' first
    | with_reducible first | exact Keeps.refl _ | assumption | exact Sub.of hm rfl
    | dsimp only
    | with_reducible first
      | apply keeps_wr
    | split

theorem keeps_setPort {msk : Nat} {s₀ : State} (s : State) (p : Nat) (v : Port) (hk : Keeps msk s₀ s) (hm : Sub 0x2000000 msk) : Keeps msk s₀ (State.setPort s p v) := by
  unfold State.setPort
  repeat' first
    | with_reducible first | exact Keeps.refl _ | assumption | exact Sub.of hm rfl
    | dsimp only
    | with_reducible refine Keeps.upd_ports ?_ (Sub.of hm rfl); first
        | exact Keeps.refl _ | assumption
    | split

theorem keeps_setPart {msk : Nat} {s₀ : State} (s : State) (p : Nat) (v : Part) (hk : Keeps msk s₀ s) (hm : Sub 0x80000000 msk) : Keeps msk s₀ (State.setPart s p v) := by
  unfold State.setPart
  repeat' first
    | with_reducible first | exact Keeps.refl _ | assumption | exact Sub.of hm rfl
    | dsimp only
    | with_reducible refine Keeps.upd_parts ?_ (Sub.of hm rfl); first
        | exact Keeps.refl _ | assumption
    | split

theorem keeps_setHbm {msk : Nat} {s₀ : State} (s : State) (k : Nat) (v : Hbm) (hk : Keeps msk s₀ s) (hm : Sub 0x400000 msk) : Keeps msk s₀ (State.setHbm s k v) := by
  unfold State.setHbm
  repeat' first
    | with_reducible first | exact Keeps.refl _ | assumption | exact Sub.of hm rfl
    | dsimp only
    | with_reducible refine Keeps.upd_hbm ?_ (Sub.of hm rfl); first
        | exact Keeps.refl _ | assumption
    | split

theorem keeps_setBooth {msk : Nat} {s₀ : State} (s : State) (b : Nat) (v : Booth) (hk : Keeps msk s₀ s) (hm : Sub 0x40000 msk) : Keeps msk s₀ (State.setBooth s b v) := by
  unfold State.setBooth
  repeat' first
    | with_reducible first | exact Keeps.refl _ | assumption | exact Sub.of hm rfl
    | dsimp only
    | with_reducible refine Keeps.upd_booths ?_ (Sub.of hm rfl); first
        | exact Keeps.refl _ | assumption
    | split

theorem keeps_setFstack {msk : Nat} {s₀ : State} (s : State) (f : Nat) (v : FStack) (hk : Keeps msk s₀ s) (hm : Sub 0x80000 msk) : Keeps msk s₀ (State.setFstack s f v) := by
  unfold State.setFstack
  repeat' first
    | with_reducible first | exact Keeps.refl _ | assumption | exact Sub.of hm rfl
    | dsimp only
    | with_reducible refine Keeps.upd_fstacks ?_ (Sub.of hm rfl); first
        | exact Keeps.refl _ | assumption
    | split

theorem keeps_setRing {msk : Nat} {s₀ : State} (s : State) (r : Nat) (v : Ring) (hk : Keeps msk s₀ s) (hm : Sub 0x200 msk) : Keeps msk s₀ (State.setRing s r v) := by
  unfold State.setRing
  repeat' first
    | with_reducible first | exact Keeps.refl _ | assumption | exact Sub.of hm rfl
    | dsimp only
    | with_reducible refine Keeps.upd_rings ?_ (Sub.of hm rfl); first
        | exact Keeps.refl _ | assumption
    | split

theorem keeps_setReq {msk : Nat} {s₀ : State} (s : State) (i : Nat) (v : Req) (hk : Keeps msk s₀ s) (hm : Sub 0x1000 msk) : Keeps msk s₀ (State.setReq s i v) := by
  unfold State.setReq
  repeat' first
    | with_reducible first | exact Keeps.refl _ | assumption | exact Sub.of hm rfl
    | dsimp only
    | with_reducible refine Keeps.upd_reqs ?_ (Sub.of hm rfl); first
        | exact Keeps.refl _ | assumption
    | split

theorem keeps_setQp {msk : Nat} {s₀ : State} (s : State) (q : Nat) (v : Qp) (hk : Keeps msk s₀ s) (hm : Sub 0x4000000 msk) : Keeps msk s₀ (State.setQp s q v) := by
  unfold State.setQp
  repeat' first
    | with_reducible first | exact Keeps.refl _ | assumption | exact Sub.of hm rfl
    | dsimp only
    | with_reducible refine Keeps.upd_qps ?_ (Sub.of hm rfl); first
        | exact Keeps.refl _ | assumption
    | split

theorem keeps_setShelf {msk : Nat} {s₀ : State} (s : State) (i : Nat) (v : Shelf) (hk : Keeps msk s₀ s) (hm : Sub 0x100 msk) : Keeps msk s₀ (State.setShelf s i v) := by
  unfold State.setShelf
  repeat' first
    | with_reducible first | exact Keeps.refl _ | assumption | exact Sub.of hm rfl
    | dsimp only
    | with_reducible refine Keeps.upd_dir ?_ (Sub.of hm rfl); first
        | exact Keeps.refl _ | assumption
    | split

theorem keeps_emit {msk : Nat} {s₀ : State} (s : State) (o : Out) (hk : Keeps msk s₀ s) (hm : Sub 0x80000000000 msk) : Keeps msk s₀ (emit s o) := by
  unfold emit
  repeat' first
    | with_reducible first | exact Keeps.refl _ | assumption | exact Sub.of hm rfl
    | dsimp only
    | with_reducible refine Keeps.upd_out ?_ (Sub.of hm rfl); first
        | exact Keeps.refl _ | assumption
    | split

theorem keeps_sendVector {msk : Nat} {s₀ : State} (s : State) (v : Nat) (hk : Keeps msk s₀ s) (hm : Sub 0xA0000000000 msk) : Keeps msk s₀ (sendVector s v) := by
  unfold sendVector
  repeat' first
    | with_reducible first | exact Keeps.refl _ | assumption | exact Sub.of hm rfl
    | dsimp only
    | with_reducible first
      | apply keeps_emit
    | with_reducible refine Keeps.upd_msix ?_ (Sub.of hm rfl); first
        | exact Keeps.refl _ | assumption | apply keeps_emit
    | split

theorem keeps_signalPage {msk : Nat} {s₀ : State} (s : State) (pg : Nat) (hk : Keeps msk s₀ s) (hm : Sub 0xA0000000000 msk) : Keeps msk s₀ (signalPage s pg) := by
  unfold signalPage
  repeat' first
    | with_reducible first | exact Keeps.refl _ | assumption | exact Sub.of hm rfl
    | dsimp only
    | with_reducible first
      | apply keeps_sendVector
    | split

theorem keeps_setEvt {msk : Nat} {s₀ : State} (s : State) (pg : Nat) (bitNo : Nat) (hk : Keeps msk s₀ s) (hm : Sub 0xB0000000000 msk) : Keeps msk s₀ (setEvt s pg bitNo) := by
  unfold setEvt
  repeat' first
    | with_reducible first | exact Keeps.refl _ | assumption | exact Sub.of hm rfl
    | dsimp only
    | with_reducible first
      | apply keeps_wr | apply keeps_bump | apply keeps_signalPage
    | split

theorem keeps_accept1 {msk : Nat} {s₀ : State} (s : State) (e : Ev) (hk : Keeps msk s₀ s) (hm : Sub 0x12000000000 msk) : Keeps msk s₀ (accept1 s e) := by
  unfold accept1
  repeat' first
    | with_reducible first | exact Keeps.refl _ | assumption | exact Sub.of hm rfl
    | dsimp only
    | with_reducible first
      | apply keeps_bump
    | with_reducible refine Keeps.upd_evr ?_ (Sub.of hm rfl); first
        | exact Keeps.refl _ | assumption | apply keeps_bump
    | split

theorem keeps_accept {msk : Nat} {s₀ : State} (s : State) (e : Ev) (hk : Keeps msk s₀ s) (hm : Sub 0xB2000000000 msk) : Keeps msk s₀ (accept s e) := by
  unfold accept
  repeat' first
    | with_reducible first | exact Keeps.refl _ | assumption | exact Sub.of hm rfl
    | dsimp only
    | with_reducible first
      | apply keeps_setEvt | apply keeps_accept1
    | split

theorem keeps_setSbAlert {msk : Nat} {s₀ : State} (s : State) (mask : Nat) (hk : Keeps msk s₀ s) (hm : Sub 0x8000000001 msk) : Keeps msk s₀ (setSbAlert s mask) :=
  hk.trans ⟨rfl, rfl, Nat.le_refl _, Nat.le_refl _, id, id, Nat.le_refl _, fun h => by
    simp only [setSbAlert, h]
    by_cases z : s.pwr.sbAlert ||| mask = 0
    · have : s.pwr.sbAlert = 0 := (Nat.or_eq_zero_iff.mp z).1
      simp [this]
    · simp [z],
    fun f hf => by have h2 := hm.bit hf; cases f <;> first | rfl | exact absurd h2 (by decide)⟩

theorem keeps_enterDump {msk : Nat} {s₀ : State} (s : State) (cause : List Byte) (hk : Keeps msk s₀ s) (hm : Sub 0x1A000040001 msk) : Keeps msk s₀ (enterDump s cause) := by
  unfold enterDump
  repeat' first
    | with_reducible first | exact Keeps.refl _ | assumption | exact Sub.of hm rfl
    | dsimp only
    | with_reducible first
      | apply keeps_setSbAlert | apply keeps_serve
    | with_reducible refine Keeps.upd_dev_evr ?_ (Sub.of hm rfl) rfl; first
        | exact Keeps.refl _ | assumption | apply keeps_setSbAlert | apply keeps_serve
    | split

theorem keeps_raiseG {msk : Nat} {s₀ : State} (s : State) (pg : Nat) (b : Nat) (datas : List (List Byte)) (hk : Keeps msk s₀ s) (hm : Sub 0xB2000000000 msk) : Keeps msk s₀ (raiseG s pg b datas) := by
  unfold raiseG
  repeat' first
    | with_reducible first | exact Keeps.refl _ | assumption | exact Sub.of hm rfl
    | dsimp only
    | with_reducible first
      | apply keeps_setEvt | apply keeps_accept
    | split

theorem keeps_raise {msk : Nat} {s₀ : State} (s : State) (pg : Nat) (b : Nat) (data : List Byte) (hk : Keeps msk s₀ s) (hm : Sub 0xB2000000000 msk) : Keeps msk s₀ (raise s pg b data) := by
  unfold raise
  repeat' first
    | with_reducible first | exact Keeps.refl _ | assumption | exact Sub.of hm rfl
    | dsimp only
    | with_reducible first
      | apply keeps_raiseG
    | split

theorem keeps_raiseForced {msk : Nat} {s₀ : State} (s : State) (pg : Nat) (b : Nat) (hk : Keeps msk s₀ s) (hm : Sub 0xB2000000000 msk) : Keeps msk s₀ (raiseForced s pg b) := by
  unfold raiseForced
  repeat' first
    | with_reducible first | exact Keeps.refl _ | assumption | exact Sub.of hm rfl
    | dsimp only
    | with_reducible first
      | apply keeps_setEvt | apply keeps_accept
    | split

theorem keeps_record {msk : Nat} {s₀ : State} (s : State) (island : Nat) (sev : Nat) (blk : Nat) (inst : Nat) (code : Nat) (data : List Byte) (hk : Keeps msk s₀ s) (hm : Sub 0xBA000040001 msk) : Keeps msk s₀ (record s island sev blk inst code data) := by
  unfold record
  repeat' first
    | with_reducible first | exact Keeps.refl _ | assumption | exact Sub.of hm rfl
    | dsimp only
    | with_reducible first
      | apply keeps_accept | apply keeps_enterDump
    | split

theorem keeps_hostWr {msk : Nat} {s₀ s : State} {pg : Nat} {r : Res} (hk : Keeps msk s₀ s) (h : KeepsR msk s₀ r) (hm : Sub 0x80000000000 msk) : KeepsR msk s₀ (hostWr s pg r) := by
  unfold hostWr
  repeat' first
    | with_reducible first | exact Keeps.refl _ | assumption | exact Sub.of hm rfl
    | with_reducible first | apply KeepsR.next | apply keeps_emit
    | split

theorem keeps_hostIo {msk : Nat} {s₀ s : State} {addr : Nat} {r : Res} (hk : Keeps msk s₀ s) (h : KeepsR msk s₀ r) (hm : Sub 0x80000000000 msk) : KeepsR msk s₀ (hostIo s addr r) := by
  unfold hostIo
  repeat' first
    | with_reducible first | exact Keeps.refl _ | assumption | exact Sub.of hm rfl
    | with_reducible first | apply KeepsR.next | apply keeps_emit
    | split

theorem keeps_hostRd {msk : Nat} {s₀ s : State} {addr width : Nat} {r : Res} (hk : Keeps msk s₀ s) (h : KeepsR msk s₀ r) (hm : Sub 0x80000000000 msk) : KeepsR msk s₀ (hostRd s addr width r) := by
  unfold hostRd
  repeat' first
    | with_reducible first | exact Keeps.refl _ | assumption | exact Sub.of hm rfl
    | with_reducible first | apply KeepsR.next | apply keeps_emit | apply keeps_hostIo
    | split

theorem keeps_askAccess {msk : Nat} {s₀ : State} (s : State) (b : Nat) (banks : List Nat) (hk : Keeps msk s₀ s) (hm : Sub 0x40000 msk) : Keeps msk s₀ (askAccess s b banks) := by
  unfold askAccess
  repeat' first
    | with_reducible first | exact Keeps.refl _ | assumption | exact Sub.of hm rfl
    | dsimp only
    | with_reducible first
      | apply keeps_setBooth
    | split

theorem keeps_dropUnit {msk : Nat} {s₀ : State} (s : State) (u : Nat) (hk : Keeps msk s₀ s) (hm : Sub 0x200000 msk) : Keeps msk s₀ (dropUnit s u) := by
  unfold dropUnit
  repeat' first
    | with_reducible first | exact Keeps.refl _ | assumption | exact Sub.of hm rfl
    | dsimp only
    | with_reducible refine Keeps.upd_cab ?_ (Sub.of hm rfl); first
        | exact Keeps.refl _ | assumption
    | split

theorem keeps_releaseRetained {msk : Nat} {s₀ : State} (s : State) (n : Nat) (u : CabUnit) (hk : Keeps msk s₀ s) (hm : Sub 0x200100 msk) : Keeps msk s₀ (releaseRetained s n u) := by
  unfold releaseRetained
  repeat' first
    | with_reducible first | exact Keeps.refl _ | assumption | exact Sub.of hm rfl
    | dsimp only
    | with_reducible first
      | apply keeps_setShelf | apply keeps_dropUnit
    | split

theorem keeps_dropLift {msk : Nat} {s₀ : State} (s : State) (l : Lift) (hk : Keeps msk s₀ s) (hm : Sub 0x100000 msk) : Keeps msk s₀ (dropLift s l) := by
  unfold dropLift
  repeat' first
    | with_reducible first | exact Keeps.refl _ | assumption | exact Sub.of hm rfl
    | dsimp only
    | with_reducible refine Keeps.upd_tiers ?_ (Sub.of hm rfl); first
        | exact Keeps.refl _ | assumption
    | split

theorem keeps_skipLifts {msk : Nat} {s₀ : State} (s : State) (f : Lift → Bool) (hk : Keeps msk s₀ s) (hm : Sub 0x10000100000 msk) : Keeps msk s₀ (skipLifts s f) := by
  unfold skipLifts
  repeat' first
    | with_reducible first | exact Keeps.refl _ | assumption | exact Sub.of hm rfl
    | dsimp only
    | with_reducible first
      | apply keeps_bump | apply keeps_dropLift | (apply keeps_foldl; intro _ _ _) | (apply keeps_foldl2; intro _ _ _)
    | split

theorem keeps_askPlace {msk : Nat} {s₀ : State} (s : State) (q : Place) (hk : Keeps msk s₀ s) (hm : Sub 0x40000 msk) : Keeps msk s₀ (askPlace s q) := by
  unfold askPlace
  repeat' first
    | with_reducible first | exact Keeps.refl _ | assumption | exact Sub.of hm rfl
    | dsimp only
    | with_reducible first
      | apply keeps_askAccess
    | split

theorem keeps_wipePlace {msk : Nat} {s₀ : State} (s : State) (q : Place) (hk : Keeps msk s₀ s) (hm : Sub 0x400000 msk) : Keeps msk s₀ (wipePlace s q) := by
  unfold wipePlace
  repeat' first
    | with_reducible first | exact Keeps.refl _ | assumption | exact Sub.of hm rfl
    | dsimp only
    | with_reducible first
      | apply keeps_setHbm
    | split

theorem keeps_freeDrawer {msk : Nat} {s₀ : State} (s : State) (i : Nat) (d : Drawer) (hk : Keeps msk s₀ s) (hm : Sub 0x10000700100 msk) : Keeps msk s₀ (freeDrawer s i d) := by
  unfold freeDrawer
  repeat' first
    | with_reducible first | exact Keeps.refl _ | assumption | exact Sub.of hm rfl
    | dsimp only
    | with_reducible first
      | apply keeps_setShelf | apply keeps_dropUnit | apply keeps_skipLifts | apply keeps_wipePlace
    | split

theorem keeps_freeAll {msk : Nat} {s₀ : State} (s : State) (i : Nat) (hk : Keeps msk s₀ s) (hm : Sub 0x10000700100 msk) : Keeps msk s₀ (freeAll s i) := by
  unfold freeAll
  repeat' first
    | with_reducible first | exact Keeps.refl _ | assumption | exact Sub.of hm rfl
    | dsimp only
    | with_reducible first
      | apply keeps_freeDrawer | (apply keeps_foldl; intro _ _ _) | (apply keeps_foldl2; intro _ _ _)
    | split

theorem keeps_discardShelf {msk : Nat} {s₀ : State} (s : State) (p : Nat) (i : Nat) (hk : Keeps msk s₀ s) (hm : Sub 0x10000700100 msk) : Keeps msk s₀ (discardShelf s p i) := by
  unfold discardShelf
  repeat' first
    | with_reducible first | exact Keeps.refl _ | assumption | exact Sub.of hm rfl
    | dsimp only
    | with_reducible first
      | apply keeps_bump | apply keeps_setShelf | apply keeps_freeAll
    | split

theorem keeps_discardUntil {msk : Nat} {s₀ : State} (ok : State → Bool) (p : Nat) (own : Option Nat) (n : Nat) (s : State) (hk : Keeps msk s₀ s)
    (hm : Sub 0x10000700100 msk) : Keeps msk s₀ (discardUntil ok p own n s) := by
  induction n generalizing s with
  | zero => unfold discardUntil; exact hk
  | succ n ih =>
    unfold discardUntil
    repeat' first
      | with_reducible first | assumption | exact Sub.of hm rfl | apply ih | apply keeps_discardShelf
      | split

theorem keeps_takeCharge {msk : Nat} {s₀ : State} (s : State) (p : Nat) (extra : Nat) (own : Option Nat) (hk : Keeps msk s₀ s) (hm : Sub 0x10000700100 msk) : Keeps msk s₀ (takeCharge s p extra own).2 := by
  unfold takeCharge
  repeat' first
    | with_reducible first | exact Keeps.refl _ | assumption | exact Sub.of hm rfl
    | dsimp only
    | with_reducible first
      | apply keeps_discardUntil
    | split

theorem keeps_takeShare {msk : Nat} {s₀ : State} (s : State) (p : Nat) (n : Nat) (own : Option Nat) (hk : Keeps msk s₀ s) (hm : Sub 0x10000700100 msk) : Keeps msk s₀ (takeShare s p n own).2 := by
  unfold takeShare
  repeat' first
    | with_reducible first | exact Keeps.refl _ | assumption | exact Sub.of hm rfl
    | dsimp only
    | with_reducible first
      | apply keeps_discardUntil
    | split

theorem keeps_askLine {msk : Nat} {s₀ : State} (s : State) (k : Nat) (line : Nat) (hk : Keeps msk s₀ s) (hm : Sub 0x40000 msk) : Keeps msk s₀ (askLine s k line) := by
  unfold askLine
  repeat' first
    | with_reducible first | exact Keeps.refl _ | assumption | exact Sub.of hm rfl
    | dsimp only
    | with_reducible first
      | apply keeps_askAccess
    | split

theorem keeps_lineCorrected {msk : Nat} {s₀ : State} (s : State) (k : Nat) (line : Nat) (hk : Keeps msk s₀ s) (hm : Sub 0x10000400000 msk) : Keeps msk s₀ (lineCorrected s k line) := by
  unfold lineCorrected
  repeat' first
    | with_reducible first | exact Keeps.refl _ | assumption | exact Sub.of hm rfl
    | dsimp only
    | with_reducible first
      | apply keeps_bump | apply keeps_setHbm
    | split

theorem keeps_lineUncorr {msk : Nat} {s₀ : State} (s : State) (k : Nat) (line : Nat) (tag : Bool) (hk : Keeps msk s₀ s) (hm : Sub 0xB2000420000 msk) : Keeps msk s₀ (lineUncorr s k line tag) := by
  unfold lineUncorr
  repeat' first
    | with_reducible first | exact Keeps.refl _ | assumption | exact Sub.of hm rfl
    | dsimp only
    | with_reducible first
      | apply keeps_bump | apply keeps_setHbm | apply keeps_raise
    | with_reducible refine Keeps.upd_devBad ?_ (Sub.of hm rfl); first
        | exact Keeps.refl _ | assumption | apply keeps_bump | apply keeps_setHbm | apply keeps_raise
    | split

theorem keeps_readOnce {msk : Nat} {s₀ : State} (s : State) (k : Nat) (line : Nat) (hk : Keeps msk s₀ s) (hm : Sub 0x400000 msk) : Keeps msk s₀ (readOnce s k line) := by
  unfold readOnce
  repeat' first
    | with_reducible first | exact Keeps.refl _ | assumption | exact Sub.of hm rfl
    | dsimp only
    | with_reducible first
      | apply keeps_setHbm
    | split

theorem keeps_readLine {msk : Nat} {s₀ : State} (s : State) (k : Nat) (line : Nat) (hk : Keeps msk s₀ s) (hm : Sub 0xB2000420000 msk) : Keeps msk s₀ (readLine s k line).2 := by
  unfold readLine
  repeat' first
    | with_reducible first | exact Keeps.refl _ | assumption | exact Sub.of hm rfl
    | dsimp only
    | with_reducible first
      | apply keeps_lineCorrected | apply keeps_lineUncorr | apply keeps_readOnce
    | split

theorem keeps_hitLine {msk : Nat} {s₀ : State} (s : State) (k : Nat) (stays : Bool) (x : LineHit) (hk : Keeps msk s₀ s) (hm : Sub 0x400000 msk) : Keeps msk s₀ (hitLine s k stays x) := by
  unfold hitLine
  repeat' first
    | with_reducible first | exact Keeps.refl _ | assumption | exact Sub.of hm rfl
    | dsimp only
    | with_reducible first
      | apply keeps_setHbm
    | split

theorem keeps_readPlace {msk : Nat} {s₀ : State} (s0 : State) (q : Place) (hk : Keeps msk s₀ s0) (hm : Sub 0xB2000460000 msk) : Keeps msk s₀ (readPlace s0 q).2 := by
  unfold readPlace
  repeat' first
    | with_reducible first | exact Keeps.refl _ | assumption | exact Sub.of hm rfl
    | dsimp only
    | with_reducible first
      | apply keeps_askPlace | apply keeps_readLine | (apply keeps_foldl; intro _ _ _) | (apply keeps_foldl2; intro _ _ _)
      | refine keeps_of_pair (by assumption) ?_
    | split

theorem keeps_readDrawer {msk : Nat} {s₀ : State} (s : State) (d : Drawer) (hk : Keeps msk s₀ s) (hm : Sub 0xB2000460000 msk) : Keeps msk s₀ (readDrawer s d).2 := by
  unfold readDrawer
  repeat' first
    | with_reducible first | exact Keeps.refl _ | assumption | exact Sub.of hm rfl
    | dsimp only
    | with_reducible first
      | apply keeps_readPlace | refine keeps_of_pair (by assumption) ?_
    | split

theorem keeps_wroteSpan {msk : Nat} {s₀ : State} (s0 : State) (q : Place) (x : Nat) (n : Nat) (hk : Keeps msk s₀ s0) (hm : Sub 0xB2000460000 msk) : Keeps msk s₀ (wroteSpan s0 q x n).2 := by
  unfold wroteSpan
  repeat' first
    | with_reducible first | exact Keeps.refl _ | assumption | exact Sub.of hm rfl
    | dsimp only
    | with_reducible first
      | apply keeps_setHbm | apply keeps_raise | apply keeps_askPlace | apply keeps_readLine | (apply keeps_foldl; intro _ _ _)
      | (apply keeps_foldl2; intro _ _ _) | refine keeps_of_pair (by assumption) ?_
    | split

theorem keeps_readDrawers {msk : Nat} {s₀ : State} (s : State) (ds : List Drawer) (hk : Keeps msk s₀ s) (hm : Sub 0xB2000460000 msk) : Keeps msk s₀ (readDrawers s ds).2 := by
  unfold readDrawers
  repeat' first
    | with_reducible first | exact Keeps.refl _ | assumption | exact Sub.of hm rfl
    | dsimp only
    | with_reducible first
      | apply keeps_readDrawer | (apply keeps_foldl; intro _ _ _) | (apply keeps_foldl2; intro _ _ _) | refine keeps_of_pair (by assumption) ?_
    | split

theorem keeps_wroteUse {msk : Nat} {s₀ : State} (s : State) (f : LineUse → Bool) (hk : Keeps msk s₀ s) (hm : Sub 0x400000 msk) : Keeps msk s₀ (wroteUse s f) := by
  unfold wroteUse
  repeat' first
    | with_reducible first | exact Keeps.refl _ | assumption | exact Sub.of hm rfl
    | dsimp only
    | with_reducible refine Keeps.upd_hbm ?_ (Sub.of hm rfl); first
        | exact Keeps.refl _ | assumption
    | split

theorem keeps_readDev {msk : Nat} {s₀ : State} (s : State) (l : Nat) (hk : Keeps msk s₀ s) (hm : Sub 0xB2000420000 msk) : Keeps msk s₀ (readDev s l).2 := by
  unfold readDev
  repeat' first
    | with_reducible first | exact Keeps.refl _ | assumption | exact Sub.of hm rfl
    | dsimp only
    | with_reducible first
      | apply keeps_readLine | refine keeps_of_pair (by assumption) ?_
    | split

theorem keeps_readDevs {msk : Nat} {s₀ : State} (s : State) (ls : List Nat) (hk : Keeps msk s₀ s) (hm : Sub 0xB2000420000 msk) : Keeps msk s₀ (readDevs s ls).2 := by
  unfold readDevs
  repeat' first
    | with_reducible first | exact Keeps.refl _ | assumption | exact Sub.of hm rfl
    | dsimp only
    | with_reducible first
      | apply keeps_readDev | (apply keeps_foldl; intro _ _ _) | (apply keeps_foldl2; intro _ _ _) | refine keeps_of_pair (by assumption) ?_
    | split

theorem keeps_wroteDev {msk : Nat} {s₀ : State} (s : State) (l : Nat) (cause : Option Nat) (hk : Keeps msk s₀ s) (hm : Sub 0x420000 msk) : Keeps msk s₀ (wroteDev s l cause) := by
  unfold wroteDev
  repeat' first
    | with_reducible first | exact Keeps.refl _ | assumption | exact Sub.of hm rfl
    | dsimp only
    | with_reducible first
      | apply keeps_wroteUse
    | with_reducible refine Keeps.upd_devBad ?_ (Sub.of hm rfl); first
        | exact Keeps.refl _ | assumption | apply keeps_wroteUse
    | split

theorem keeps_dropNarrow {msk : Nat} {s₀ : State} (s : State) (dpa : Nat) (hk : Keeps msk s₀ s) (hm : Sub 0xB2000400000 msk) : Keeps msk s₀ (dropNarrow s dpa) := by
  unfold dropNarrow
  repeat' first
    | with_reducible first | exact Keeps.refl _ | assumption | exact Sub.of hm rfl
    | dsimp only
    | with_reducible first
      | apply keeps_setHbm | apply keeps_raise
    | split

theorem keeps_devPutLine {msk : Nat} {s₀ : State} (s : State) (a : Nat) (b : List Byte) (hk : Keeps msk s₀ s) (hm : Sub 0xB2000430000 msk) : Keeps msk s₀ (devPutLine s a b) := by
  unfold devPutLine
  repeat' first
    | with_reducible first | exact Keeps.refl _ | assumption | exact Sub.of hm rfl
    | dsimp only
    | with_reducible first
      | apply keeps_readDev | apply keeps_wroteDev | apply keeps_dropNarrow | refine keeps_of_pair (by assumption) ?_
    | with_reducible refine Keeps.upd_devMem ?_ (Sub.of hm rfl); first
        | exact Keeps.refl _ | assumption | apply keeps_readDev | apply keeps_wroteDev | apply keeps_dropNarrow
        | refine keeps_of_pair (by assumption) ?_
    | split

theorem keeps_devPut {msk : Nat} {s₀ : State} (s : State) (a : Nat) (b : List Byte) (hk : Keeps msk s₀ s) (hm : Sub 0xB2000430000 msk) : Keeps msk s₀ (devPut s a b) := by
  unfold devPut
  repeat' first
    | with_reducible first | exact Keeps.refl _ | assumption | exact Sub.of hm rfl
    | dsimp only
    | with_reducible first
      | apply keeps_devPutLine | (apply keeps_foldl; intro _ _ _) | (apply keeps_foldl2; intro _ _ _)
    | split

theorem keeps_rmGate {msk : Nat} {s₀ : State} (s : State) (c : Nat) (hk : Keeps msk s₀ s) (hm : Sub 0x10000000000 msk) : Keeps msk s₀ (rmGate s c).2 := by
  unfold rmGate
  repeat' first
    | with_reducible first | exact Keeps.refl _ | assumption | exact Sub.of hm rfl
    | dsimp only
    | with_reducible first
      | apply keeps_bump
    | split

theorem keeps_ruleLookup {msk : Nat} {s₀ : State} (s : State) (key : Nat) (hk : Keeps msk s₀ s) (hm : Sub 0x10000000000 msk) : Keeps msk s₀ (ruleLookup s key).2 := by
  unfold ruleLookup
  repeat' first
    | with_reducible first | exact Keeps.refl _ | assumption | exact Sub.of hm rfl
    | dsimp only
    | with_reducible first
      | apply keeps_bump
    | split

theorem keeps_setRules {msk : Nat} {s₀ : State} (s : State) (r : Rules) (hk : Keeps msk s₀ s) (hm : Sub 0x1400000 msk) : Keeps msk s₀ (setRules s r) := by
  unfold setRules
  repeat' first
    | with_reducible first | exact Keeps.refl _ | assumption | exact Sub.of hm rfl
    | dsimp only
    | with_reducible first
      | apply keeps_wroteUse
    | with_reducible refine Keeps.upd_rules ?_ (Sub.of hm rfl); first
        | exact Keeps.refl _ | assumption | apply keeps_wroteUse
    | split

theorem keeps_ruleResult {msk : Nat} {s₀ : State} (s : State) (n : Nat) (hk : Keeps msk s₀ s) (hm : Sub 0x10000000000 msk) : Keeps msk s₀ (ruleResult s n) := by
  unfold ruleResult
  repeat' first
    | with_reducible first | exact Keeps.refl _ | assumption | exact Sub.of hm rfl
    | dsimp only
    | with_reducible first
      | apply keeps_wrf
    | split

theorem keeps_execRuleInsert {msk : Nat} {s₀ : State} (s : State) (hk : Keeps msk s₀ s) (hm : Sub 0xB2001400000 msk) : KeepsR msk s₀ (execRuleInsert s) := by
  unfold execRuleInsert
  repeat' first
    | with_reducible first | exact Keeps.refl _ | assumption | exact Sub.of hm rfl
    | dsimp only
    | with_reducible first
      | apply KeepsR.next | apply keeps_wrf | apply keeps_raise | apply keeps_hostWr | apply keeps_rmGate | apply keeps_setRules
      | apply keeps_ruleResult | refine keeps_of_pair (by assumption) ?_
    | with_reducible refine Keeps.upd_rules ?_ (Sub.of hm rfl); first
        | exact Keeps.refl _ | assumption | apply keeps_wrf | apply keeps_raise | apply keeps_rmGate | apply keeps_setRules
        | apply keeps_ruleResult | refine keeps_of_pair (by assumption) ?_
    | split

theorem keeps_execRuleRemove {msk : Nat} {s₀ : State} (s : State) (hk : Keeps msk s₀ s) (hm : Sub 0x90001400000 msk) : KeepsR msk s₀ (execRuleRemove s) := by
  unfold execRuleRemove
  repeat' first
    | with_reducible first | exact Keeps.refl _ | assumption | exact Sub.of hm rfl
    | dsimp only
    | with_reducible first
      | apply KeepsR.next | apply keeps_hostWr | apply keeps_rmGate | apply keeps_setRules | apply keeps_ruleResult
      | refine keeps_of_pair (by assumption) ?_
    | split

theorem keeps_execRuleModify {msk : Nat} {s₀ : State} (s : State) (hk : Keeps msk s₀ s) (hm : Sub 0x90001400000 msk) : KeepsR msk s₀ (execRuleModify s) := by
  unfold execRuleModify
  repeat' first
    | with_reducible first | exact Keeps.refl _ | assumption | exact Sub.of hm rfl
    | dsimp only
    | with_reducible first
      | apply KeepsR.next | apply keeps_hostWr | apply keeps_rmGate | apply keeps_setRules | apply keeps_ruleResult
      | refine keeps_of_pair (by assumption) ?_
    | split

theorem keeps_execRuleRead {msk : Nat} {s₀ : State} (s : State) (hk : Keeps msk s₀ s) (hm : Sub 0x90000000000 msk) : KeepsR msk s₀ (execRuleRead s) := by
  unfold execRuleRead
  repeat' first
    | with_reducible first | exact Keeps.refl _ | assumption | exact Sub.of hm rfl
    | dsimp only
    | with_reducible first
      | apply KeepsR.next | apply keeps_wr | apply keeps_wrf | apply keeps_wr64 | apply keeps_hostWr | apply keeps_rmGate | apply keeps_ruleResult
      | (apply keeps_foldl; intro _ _ _) | (apply keeps_foldl2; intro _ _ _) | refine keeps_of_pair (by assumption) ?_
    | split

theorem keeps_execRuleApplyBands {msk : Nat} {s₀ : State} (s : State) (hk : Keeps msk s₀ s) (hm : Sub 0x90001000000 msk) : KeepsR msk s₀ (execRuleApplyBands s) := by
  unfold execRuleApplyBands
  repeat' first
    | with_reducible first | exact Keeps.refl _ | assumption | exact Sub.of hm rfl
    | dsimp only
    | with_reducible first
      | apply KeepsR.next | apply keeps_hostWr | apply keeps_rmGate | apply keeps_ruleResult | refine keeps_of_pair (by assumption) ?_
    | with_reducible refine Keeps.upd_rules ?_ (Sub.of hm rfl); first
        | exact Keeps.refl _ | assumption | apply keeps_rmGate | apply keeps_ruleResult | refine keeps_of_pair (by assumption) ?_
    | split

theorem keeps_execRuleDefLoWrite {msk : Nat} {s₀ : State} (value : Word) (s : State) (hk : Keeps msk s₀ s) (hm : Sub 0x80001000000 msk) : KeepsR msk s₀ (execRuleDefLoWrite value s) := by
  unfold execRuleDefLoWrite
  repeat' first
    | with_reducible first | exact Keeps.refl _ | assumption | exact Sub.of hm rfl
    | dsimp only
    | with_reducible first
      | apply KeepsR.next | apply keeps_hostWr
    | with_reducible refine Keeps.upd_rules ?_ (Sub.of hm rfl); first
        | exact Keeps.refl _ | assumption
    | split

theorem keeps_execRuleDefHiWrite {msk : Nat} {s₀ : State} (value : Word) (s : State) (hk : Keeps msk s₀ s) (hm : Sub 0x80001000000 msk) : KeepsR msk s₀ (execRuleDefHiWrite value s) := by
  unfold execRuleDefHiWrite
  repeat' first
    | with_reducible first | exact Keeps.refl _ | assumption | exact Sub.of hm rfl
    | dsimp only
    | with_reducible first
      | apply KeepsR.next | apply keeps_hostWr
    | with_reducible refine Keeps.upd_rules ?_ (Sub.of hm rfl); first
        | exact Keeps.refl _ | assumption
    | split

theorem keeps_execRebalance {msk : Nat} {s₀ : State} (band : Fin 16) (s : State) (hk : Keeps msk s₀ s) (hm : Sub 0x1400000 msk) : KeepsR msk s₀ (execRebalance band s) := by
  unfold execRebalance
  repeat' first
    | with_reducible first | exact Keeps.refl _ | assumption | exact Sub.of hm rfl
    | dsimp only
    | with_reducible first
      | apply KeepsR.next | apply keeps_setRules
    | split

theorem keeps_poisonRcvd {msk : Nat} {s₀ : State} (s : State) (n : Nat) (hk : Keeps msk s₀ s) (hm : Sub 0xB2000000000 msk) : Keeps msk s₀ (poisonRcvd s n) := by
  unfold poisonRcvd
  repeat' first
    | with_reducible first | exact Keeps.refl _ | assumption | exact Sub.of hm rfl
    | dsimp only
    | with_reducible first
      | apply keeps_bump | apply keeps_raise
    | split

theorem keeps_hostRead {msk : Nat} {s₀ : State} (s : State) (a : Nat) (n : Nat) (hk : Keeps msk s₀ s) (hm : Sub 0xB2000000000 msk) : Keeps msk s₀ (hostRead s a n).2 := by
  unfold hostRead
  repeat' first
    | with_reducible first | exact Keeps.refl _ | assumption | exact Sub.of hm rfl
    | dsimp only
    | with_reducible first
      | apply keeps_bump | apply keeps_poisonRcvd
    | split

theorem keeps_devRead {msk : Nat} {s₀ : State} (s : State) (p : Nat) (off : Nat) (n : Nat) (hk : Keeps msk s₀ s) (hm : Sub 0xB2000420000 msk) : Keeps msk s₀ (devRead s p off n).2 := by
  unfold devRead
  repeat' first
    | with_reducible first | exact Keeps.refl _ | assumption | exact Sub.of hm rfl
    | dsimp only
    | with_reducible first
      | apply keeps_readDevs | refine keeps_of_pair (by assumption) ?_
    | split

theorem keeps_refRead {msk : Nat} {s₀ : State} (s : State) (p : Nat) (r : Nat) (n : Nat) (hk : Keeps msk s₀ s) (hm : Sub 0xB2000420000 msk) : Keeps msk s₀ (refRead s p r n).2 := by
  unfold refRead
  repeat' first
    | with_reducible first | exact Keeps.refl _ | assumption | exact Sub.of hm rfl
    | dsimp only
    | with_reducible first
      | apply keeps_hostRead | apply keeps_devRead | refine keeps_of_pair (by assumption) ?_
    | split

theorem keeps_sendBisnp {msk : Nat} {s₀ : State} (s : State) (line : Nat) (hk : Keeps msk s₀ s) (hm : Sub 0x90040000000 msk) : Keeps msk s₀ (sendBisnp s line) := by
  unfold sendBisnp
  repeat' first
    | with_reducible first | exact Keeps.refl _ | assumption | exact Sub.of hm rfl
    | dsimp only
    | with_reducible first
      | apply keeps_bump | apply keeps_emit
    | with_reducible refine Keeps.upd_cxl ?_ (Sub.of hm rfl); first
        | exact Keeps.refl _ | assumption | apply keeps_bump | apply keeps_emit
    | split

theorem keeps_hostPut {msk : Nat} {s₀ : State} (s : State) (a : Nat) (b : List Byte) (hk : Keeps msk s₀ s) (hm : Sub 0x1000000C000 msk) : Keeps msk s₀ (hostPut s a b) := by
  unfold hostPut
  repeat' first
    | with_reducible first | exact Keeps.refl _ | assumption | exact Sub.of hm rfl
    | dsimp only
    | with_reducible first
      | apply keeps_bump
    | with_reducible refine Keeps.upd_hostMem_hostBad ?_ (Sub.of hm rfl); first
        | exact Keeps.refl _ | assumption | apply keeps_bump
    | split

theorem keeps_putRec {msk : Nat} {s₀ : State} (s : State) (ring : Nat) (r : Ring) (c : Rec) (held : Bool) (hk : Keeps msk s₀ s) (hm : Sub 0xB200043C200 msk) : Keeps msk s₀ (putRec s ring r c held) := by
  unfold putRec
  repeat' first
    | with_reducible first | exact Keeps.refl _ | assumption | exact Sub.of hm rfl
    | dsimp only
    | with_reducible first
      | apply keeps_setRing | apply keeps_devPut | apply keeps_hostPut
    | split

theorem keeps_advancePi {msk : Nat} {s₀ : State} (s : State) (ring : Nat) (src : Nat) (g : Ring) (value : Word) (hk : Keeps msk s₀ s) (hm : Sub 0xB2000000200 msk) : Keeps msk s₀ (advancePi s ring src g value) := by
  unfold advancePi
  repeat' first
    | with_reducible first | exact Keeps.refl _ | assumption | exact Sub.of hm rfl
    | dsimp only
    | with_reducible first
      | apply keeps_setRing | apply keeps_raise
    | split

theorem keeps_trigMiss {msk : Nat} {s₀ : State} (s : State) (ring : Nat) (key : Nat) (hk : Keeps msk s₀ s) (hm : Sub 0xBA040040201 msk) : Keeps msk s₀ (trigMiss s ring key) := by
  unfold trigMiss
  repeat' first
    | with_reducible first | exact Keeps.refl _ | assumption | exact Sub.of hm rfl
    | dsimp only
    | with_reducible first
      | apply keeps_setRing | apply keeps_raise | apply keeps_record
    | with_reducible refine Keeps.upd_cxl ?_ (Sub.of hm rfl); first
        | exact Keeps.refl _ | assumption | apply keeps_setRing | apply keeps_raise | apply keeps_record
    | split

theorem keeps_presentTrigger {msk : Nat} {s₀ : State} (s : State) (port : Nat) (part : Nat) (value : Nat) (hk : Keeps msk s₀ s) (hm : Sub 0xBA040040601 msk) : Keeps msk s₀ (presentTrigger s port part value) := by
  unfold presentTrigger
  repeat' first
    | with_reducible first | exact Keeps.refl _ | assumption | exact Sub.of hm rfl
    | dsimp only
    | with_reducible first
      | apply keeps_bump | apply keeps_trigMiss
    | with_reducible refine Keeps.upd_armed ?_ (Sub.of hm rfl); first
        | exact Keeps.refl _ | assumption | apply keeps_bump | apply keeps_trigMiss
    | split

theorem keeps_sendRekey {msk : Nat} {s₀ : State} (s : State) (port : Nat) (hk : Keeps msk s₀ s) (hm : Sub 0x80002000000 msk) : Keeps msk s₀ (sendRekey s port) := by
  unfold sendRekey
  repeat' first
    | with_reducible first | exact Keeps.refl _ | assumption | exact Sub.of hm rfl
    | dsimp only
    | with_reducible first
      | apply keeps_setPort | apply keeps_emit
    | split

theorem keeps_transmit {msk : Nat} {s₀ : State} (s : State) (port : Nat) (q : Nat) (dscp : Nat) (k : Packet) (hk : Keeps msk s₀ s) (hm : Sub 0x80002000000 msk) : Keeps msk s₀ (transmit s port q dscp k) := by
  unfold transmit
  repeat' first
    | with_reducible first | exact Keeps.refl _ | assumption | exact Sub.of hm rfl
    | dsimp only
    | with_reducible first
      | apply keeps_setPort | apply keeps_emit | apply keeps_sendRekey
    | split

theorem keeps_meterPort {msk : Nat} {s₀ : State} (s : State) (p : Nat) (port : Nat) (n : Nat) (tx : Bool) (hk : Keeps msk s₀ s) (hm : Sub 0x80000000 msk) : Keeps msk s₀ (meterPort s p port n tx) := by
  unfold meterPort
  repeat' first
    | with_reducible first | exact Keeps.refl _ | assumption | exact Sub.of hm rfl
    | dsimp only
    | with_reducible first
      | apply keeps_setPart
    | split

theorem keeps_sendNow {msk : Nat} {s₀ : State} (s : State) (port : Nat) (q : Nat) (k : Packet) (hk : Keeps msk s₀ s) (hm : Sub 0x80082000000 msk) : Keeps msk s₀ (sendNow s port q k) := by
  unfold sendNow
  repeat' first
    | with_reducible first | exact Keeps.refl _ | assumption | exact Sub.of hm rfl
    | dsimp only
    | with_reducible first
      | apply keeps_transmit | apply keeps_meterPort
    | split

theorem keeps_landWrite {msk : Nat} {s₀ : State} (s : State) (w : DevWrite) (hk : Keeps msk s₀ s) (hm : Sub 0xBA0C247C601 msk) : Keeps msk s₀ (landWrite s w) := by
  unfold landWrite
  repeat' first
    | with_reducible first | exact Keeps.refl _ | assumption | exact Sub.of hm rfl
    | dsimp only
    | with_reducible first
      | apply keeps_record | apply keeps_devPut | apply keeps_hostPut | apply keeps_putRec | apply keeps_advancePi | apply keeps_presentTrigger
      | apply keeps_sendNow
    | split

theorem keeps_drainWrites {msk : Nat} {s₀ : State} (s : State) (n : Nat) (hk : Keeps msk s₀ s) (hm : Sub 0xBA0C247C601 msk) : Keeps msk s₀ (drainWrites s n) := by
  induction n generalizing s with
  | zero => unfold drainWrites; exact hk
  | succ n ih =>
    unfold drainWrites
    repeat' first
      | with_reducible first | exact Keeps.refl _ | assumption | exact Sub.of hm rfl
      | dsimp only
      | with_reducible first
        | apply ih | apply keeps_sendBisnp | apply keeps_landWrite | (apply keeps_foldl; intro _ _ _) | (apply keeps_foldl2; intro _ _ _)
      | with_reducible refine Keeps.upd_cxl ?_ (Sub.of hm rfl); first
          | exact Keeps.refl _ | assumption | apply ih | apply keeps_sendBisnp | apply keeps_landWrite | (apply keeps_foldl; intro _ _ _)
          | (apply keeps_foldl2; intro _ _ _)
      | split

theorem keeps_issueWrite {msk : Nat} {s₀ : State} (s : State) (w : DevWrite) (hk : Keeps msk s₀ s) (hm : Sub 0xBA0C247C601 msk) : Keeps msk s₀ (issueWrite s w) := by
  unfold issueWrite
  repeat' first
    | with_reducible first | exact Keeps.refl _ | assumption | exact Sub.of hm rfl
    | dsimp only
    | with_reducible first
      | apply keeps_drainWrites
    | with_reducible refine Keeps.upd_cxl ?_ (Sub.of hm rfl); first
        | exact Keeps.refl _ | assumption | apply keeps_drainWrites
    | split

theorem keeps_refWrite {msk : Nat} {s₀ : State} (s : State) (p : Nat) (r : Nat) (b : List Byte) (hk : Keeps msk s₀ s) (hm : Sub 0xBA0C247C601 msk) : Keeps msk s₀ (refWrite s p r b) := by
  unfold refWrite
  repeat' first
    | with_reducible first | exact Keeps.refl _ | assumption | exact Sub.of hm rfl
    | dsimp only
    | with_reducible first
      | apply keeps_issueWrite | (apply keeps_foldl; intro _ _ _) | (apply keeps_foldl2; intro _ _ _)
    | split

theorem keeps_flushRecords {msk : Nat} {s₀ : State} (s : State) (ring : Nat) (n : Nat) (hk : Keeps msk s₀ s) (hm : Sub 0xBA0C247C601 msk) : Keeps msk s₀ (flushRecords s ring n) := by
  induction n generalizing s with
  | zero => unfold flushRecords; exact hk
  | succ n ih =>
    unfold flushRecords
    repeat' first
      | with_reducible first | exact Keeps.refl _ | assumption | exact Sub.of hm rfl
      | dsimp only
      | with_reducible first
        | apply ih | apply keeps_setRing | apply keeps_record | apply keeps_issueWrite
      | split

theorem keeps_writeRec {msk : Nat} {s₀ : State} (s : State) (ring : Nat) (c : Rec) (hk : Keeps msk s₀ s) (hm : Sub 0xBA0C247C601 msk) : Keeps msk s₀ (writeRec s ring c) := by
  unfold writeRec
  repeat' first
    | with_reducible first | exact Keeps.refl _ | assumption | exact Sub.of hm rfl
    | dsimp only
    | with_reducible first
      | apply keeps_record | apply keeps_issueWrite
    | split

theorem keeps_queueRec {msk : Nat} {s₀ : State} (s : State) (ring : Nat) (c : Rec) (hk : Keeps msk s₀ s) (hm : Sub 0xBA0C247C601 msk) : Keeps msk s₀ (queueRec s ring c) := by
  unfold queueRec
  repeat' first
    | with_reducible first | exact Keeps.refl _ | assumption | exact Sub.of hm rfl
    | dsimp only
    | with_reducible first
      | apply keeps_setRing | apply keeps_flushRecords
    | split

theorem keeps_releaseSlot {msk : Nat} {s₀ : State} (s : State) (ring : Nat) (hk : Keeps msk s₀ s) (hm : Sub 0xBA0C247C601 msk) : Keeps msk s₀ (releaseSlot s ring) := by
  unfold releaseSlot
  repeat' first
    | with_reducible first | exact Keeps.refl _ | assumption | exact Sub.of hm rfl
    | dsimp only
    | with_reducible first
      | apply keeps_setRing | apply keeps_flushRecords
    | split

theorem keeps_postMsg {msk : Nat} {s₀ : State} (s : State) (q : Nat) (m : OutMsg) (hk : Keeps msk s₀ s) (hm : Sub 0x6000000 msk) : Keeps msk s₀ (postMsg s q m) := by
  unfold postMsg
  repeat' first
    | with_reducible first | exact Keeps.refl _ | assumption | exact Sub.of hm rfl
    | dsimp only
    | with_reducible first
      | apply keeps_setPort | apply keeps_setQp
    | split

theorem keeps_captPut {msk : Nat} {s₀ : State} (s : State) (p : Nat) (b : List Byte) (hk : Keeps msk s₀ s) (hm : Sub 0xBA0C247C601 msk) : Keeps msk s₀ (captPut s p b) := by
  unfold captPut
  repeat' first
    | with_reducible first | exact Keeps.refl _ | assumption | exact Sub.of hm rfl
    | dsimp only
    | with_reducible first
      | apply keeps_wr64 | apply keeps_refWrite
    | split

theorem keeps_captDrop {msk : Nat} {s₀ : State} (s : State) (p : Nat) (hk : Keeps msk s₀ s) (hm : Sub 0xB2080000000 msk) : Keeps msk s₀ (captDrop s p) := by
  unfold captDrop
  repeat' first
    | with_reducible first | exact Keeps.refl _ | assumption | exact Sub.of hm rfl
    | dsimp only
    | with_reducible first
      | apply keeps_bump | apply keeps_setPart | apply keeps_raise
    | split

theorem keeps_captComplete {msk : Nat} {s₀ : State} (s : State) (r : Req) (c : Rec) (out : List Byte) (hk : Keeps msk s₀ s) (hm : Sub 0xBA0C247C601 msk) : Keeps msk s₀ (captComplete s r c out) := by
  unfold captComplete
  repeat' first
    | with_reducible first | exact Keeps.refl _ | assumption | exact Sub.of hm rfl
    | dsimp only
    | with_reducible first
      | apply keeps_bump | apply keeps_setPart | apply keeps_raise | apply keeps_captPut | apply keeps_captDrop
    | split

theorem keeps_captScores {msk : Nat} {s₀ : State} (s : State) (r : Req) (head : Nat) (l : Nat) (g : Nat) (round : Nat) (first : Nat) (t : Nat) (plane : List Byte) (hk : Keeps msk s₀ s) (hm : Sub 0xBA0C247C601 msk) : Keeps msk s₀ (captScores s r head l g round first t plane).2 := by
  unfold captScores
  repeat' first
    | with_reducible first | exact Keeps.refl _ | assumption | exact Sub.of hm rfl
    | dsimp only
    | with_reducible first
      | apply keeps_captPut | apply keeps_captDrop
    | split

theorem keeps_drainCheck {msk : Nat} {s₀ : State} (s : State) (hk : Keeps msk s₀ s) (hm : Sub 0xB2000000001 msk) : Keeps msk s₀ (drainCheck s) := by
  unfold drainCheck
  repeat' first
    | with_reducible first | exact Keeps.refl _ | assumption | exact Sub.of hm rfl
    | dsimp only
    | with_reducible first
      | apply keeps_raise
    | with_reducible refine Keeps.upd_dev ?_ (Sub.of hm rfl) rfl; first
        | exact Keeps.refl _ | assumption | apply keeps_raise
    | split

theorem keeps_sendNotice {msk : Nat} {s₀ : State} (s : State) (r : Req) (c : Rec) (hk : Keeps msk s₀ s) (hm : Sub 0x6000000 msk) : Keeps msk s₀ (sendNotice s r c) := by
  unfold sendNotice
  repeat' first
    | with_reducible first | exact Keeps.refl _ | assumption | exact Sub.of hm rfl
    | dsimp only
    | with_reducible first
      | apply keeps_postMsg
    | split

theorem keeps_meterAdd {msk : Nat} {s₀ : State} (s : State) (p : Nat) (f : Meter → Meter) (hk : Keeps msk s₀ s) (hm : Sub 0x80000000 msk) : Keeps msk s₀ (meterAdd s p f) := by
  unfold meterAdd
  repeat' first
    | with_reducible first | exact Keeps.refl _ | assumption | exact Sub.of hm rfl
    | dsimp only
    | with_reducible first
      | apply keeps_setPart
    | split

theorem keeps_putVerdict {msk : Nat} {s₀ : State} (s : State) (p : Nat) (seq : Nat) (capSt : Nat) (repSt : Nat) (v : Verdict) (hk : Keeps msk s₀ s) (hm : Sub 0xBE0C247C601 msk) : Keeps msk s₀ (putVerdict s p seq capSt repSt v) := by
  unfold putVerdict
  repeat' first
    | with_reducible first | exact Keeps.refl _ | assumption | exact Sub.of hm rfl
    | dsimp only
    | with_reducible first
      | apply keeps_raise | apply keeps_refWrite
    | with_reducible refine Keeps.upd_replay ?_ (Sub.of hm rfl); first
        | exact Keeps.refl _ | assumption | apply keeps_raise | apply keeps_refWrite
    | split

theorem keeps_stopReplay {msk : Nat} {s₀ : State} (s : State) (p : Nat) (hk : Keeps msk s₀ s) (hm : Sub 0xB6000000000 msk) : Keeps msk s₀ (stopReplay s p) := by
  unfold stopReplay
  repeat' first
    | with_reducible first | exact Keeps.refl _ | assumption | exact Sub.of hm rfl
    | dsimp only
    | with_reducible first
      | apply keeps_raise
    | with_reducible refine Keeps.upd_replay ?_ (Sub.of hm rfl); first
        | exact Keeps.refl _ | assumption | apply keeps_raise
    | split

theorem keeps_replayDone {msk : Nat} {s₀ : State} (s : State) (id : Nat) (r : Req) (c : Rec) (out : List Byte) (hk : Keeps msk s₀ s) (hm : Sub 0xBE0C247C601 msk) : Keeps msk s₀ (replayDone s id r c out) := by
  unfold replayDone
  repeat' first
    | with_reducible first | exact Keeps.refl _ | assumption | exact Sub.of hm rfl
    | dsimp only
    | with_reducible first
      | apply keeps_putVerdict
    | split

theorem keeps_complete {msk : Nat} {s₀ : State} (s : State) (id : Nat) (r : Req) (status : Nat) (detail : Nat) (i0 : Nat) (i1 : Nat) (i2 : Nat) (i3 : Nat) (out : List Byte) (hk : Keeps msk s₀ s) (hm : Sub 0xBE0C647D601 msk) : Keeps msk s₀ (complete s id r status detail i0 i1 i2 i3 out) := by
  unfold complete
  repeat' first
    | with_reducible first | exact Keeps.refl _ | assumption | exact Sub.of hm rfl
    | dsimp only
    | with_reducible first
      | apply keeps_bump | apply keeps_writeRec | apply keeps_releaseSlot | apply keeps_captComplete | apply keeps_drainCheck
      | apply keeps_sendNotice | apply keeps_meterAdd | apply keeps_replayDone
    | with_reducible refine Keeps.upd_reqs ?_ (Sub.of hm rfl); first
        | exact Keeps.refl _ | assumption | apply keeps_bump | apply keeps_writeRec | apply keeps_releaseSlot | apply keeps_captComplete
        | apply keeps_drainCheck | apply keeps_sendNotice | apply keeps_meterAdd | apply keeps_replayDone
    | split

theorem keeps_numberReq {msk : Nat} {s₀ : State} (s : State) (r : Req) (hk : Keeps msk s₀ s) (hm : Sub 0x80000000 msk) : Keeps msk s₀ (numberReq s r).2 := by
  unfold numberReq
  repeat' first
    | with_reducible first | exact Keeps.refl _ | assumption | exact Sub.of hm rfl
    | dsimp only
    | with_reducible first
      | apply keeps_setPart
    | split

theorem keeps_passStep2 {msk : Nat} {s₀ : State} (s : State) (r : Req) (hk : Keeps msk s₀ s) (hm : Sub 0x80000000 msk) : Keeps msk s₀ (passStep2 s r).2 := by
  unfold passStep2
  repeat' first
    | with_reducible first | exact Keeps.refl _ | assumption | exact Sub.of hm rfl
    | dsimp only
    | with_reducible first
      | apply keeps_meterAdd | apply keeps_numberReq | refine keeps_of_pair (by assumption) ?_
    | split

theorem keeps_movedFail {msk : Nat} {s₀ : State} (s : State) (r : Req) (hk : Keeps msk s₀ s) (hm : Sub 0x10000000000 msk) : Keeps msk s₀ (movedFail s r).2 := by
  unfold movedFail
  repeat' first
    | with_reducible first | exact Keeps.refl _ | assumption | exact Sub.of hm rfl
    | dsimp only
    | with_reducible first
      | apply keeps_ruleLookup | refine keeps_of_pair (by assumption) ?_
    | split

theorem keeps_step6 {msk : Nat} {s₀ : State} (s : State) (r : Req) (hk : Keeps msk s₀ s) (hm : Sub 0x10000000000 msk) : Keeps msk s₀ (step6 s r).2.2 := by
  unfold step6
  repeat' first
    | with_reducible first | exact Keeps.refl _ | assumption | exact Sub.of hm rfl
    | dsimp only
    | with_reducible first
      | apply keeps_bump | apply keeps_movedFail | refine keeps_of_pair (by assumption) ?_
    | split

theorem keeps_step7 {msk : Nat} {s₀ : State} (s : State) (r : Req) (hk : Keeps msk s₀ s) (hm : Sub 0x10000000000 msk) : Keeps msk s₀ (step7 s r).2.2 := by
  unfold step7
  repeat' first
    | with_reducible first | exact Keeps.refl _ | assumption | exact Sub.of hm rfl
    | dsimp only
    | with_reducible first
      | apply keeps_ruleLookup | refine keeps_of_pair (by assumption) ?_
    | split

theorem keeps_step9 {msk : Nat} {s₀ : State} (s : State) (r : Req) (hk : Keeps msk s₀ s) (hm : Sub 0x10000000000 msk) : Keeps msk s₀ (step9 s r).2 := by
  unfold step9
  repeat' first
    | with_reducible first | exact Keeps.refl _ | assumption | exact Sub.of hm rfl
    | dsimp only
    | with_reducible first
      | apply keeps_rmGate | refine keeps_of_pair (by assumption) ?_
    | split

theorem keeps_steps69 {msk : Nat} {s₀ : State} (s : State) (r : Req) (hk : Keeps msk s₀ s) (hm : Sub 0x10000000000 msk) : Keeps msk s₀ (steps69 s r).2.2 := by
  unfold steps69
  repeat' first
    | with_reducible first | exact Keeps.refl _ | assumption | exact Sub.of hm rfl
    | dsimp only
    | with_reducible first
      | apply keeps_step6 | apply keeps_step7 | apply keeps_step9 | refine keeps_of_pair (by assumption) ?_
      | refine keeps_of_triple (by assumption) ?_
    | split

theorem keeps_newId {msk : Nat} {s₀ : State} (s : State) (hk : Keeps msk s₀ s) (hm : Sub 0x2000 msk) : Keeps msk s₀ (newId s).2 :=
  hk.trans ⟨rfl, rfl, Nat.le_refl _, Nat.le_succ _, id, id, Nat.le_refl _, id, fun f hf => by have h2 := hm.bit hf; cases f <;> first | rfl | exact absurd h2 (by decide)⟩

theorem keeps_failReq {msk : Nat} {s₀ : State} (s : State) (id : Nat) (r : Req) (f : Fail) (hk : Keeps msk s₀ s) (hm : Sub 0xBE0C647D601 msk) : Keeps msk s₀ (failReq s id r f) := by
  unfold failReq
  repeat' first
    | with_reducible first | exact Keeps.refl _ | assumption | exact Sub.of hm rfl
    | dsimp only
    | with_reducible first
      | apply keeps_complete
    | split

theorem keeps_steps24 {msk : Nat} {s₀ : State} (s : State) (ring : Nat) (src : Nat) (g : Ring) (d : List Byte) (hk : Keeps msk s₀ s) (hm : Sub 0xBE0C647F601 msk) : Keeps msk s₀ (steps24 s ring src g d).2 := by
  unfold steps24
  repeat' first
    | with_reducible first | exact Keeps.refl _ | assumption | exact Sub.of hm rfl
    | dsimp only
    | with_reducible first
      | apply keeps_setRing | apply keeps_passStep2 | apply keeps_newId | apply keeps_failReq | refine keeps_of_pair (by assumption) ?_
    | split

theorem keeps_admitOp {msk : Nat} {s₀ : State} (s : State) (ring : Nat) (op : Nat) (k : State → Nat → Req → State) (h_k : ∀ a x0 x1, Keeps msk s₀ a → Keeps msk s₀ (k a x0 x1)) (hk : Keeps msk s₀ s) (hm : Sub 0xBE0C647F601 msk) : Keeps msk s₀ (admitOp s ring op k) := by
  unfold admitOp
  repeat' first
    | with_reducible first | exact Keeps.refl _ | assumption | exact Sub.of hm rfl
    | dsimp only
    | with_reducible first
      | apply h_k | apply keeps_steps69 | apply keeps_failReq | apply keeps_steps24 | refine keeps_of_pair (by assumption) ?_
      | refine keeps_of_triple (by assumption) ?_
    | split

theorem keeps_hostStore {msk : Nat} {s₀ : State} (s : State) (w : Nat × Option (List Byte)) (hk : Keeps msk s₀ s) (hm : Sub 0xC000 msk) : Keeps msk s₀ (hostStore s w) := by
  unfold hostStore
  repeat' first
    | with_reducible first | exact Keeps.refl _ | assumption | exact Sub.of hm rfl
    | dsimp only
    | with_reducible refine Keeps.upd_hostBad ?_ (Sub.of hm rfl); first
        | exact Keeps.refl _ | assumption
    | with_reducible refine Keeps.upd_hostMem_hostBad ?_ (Sub.of hm rfl); first
        | exact Keeps.refl _ | assumption
    | split

theorem keeps_execRingPi {msk : Nat} {s₀ : State} (ring : Fin 4096) (value : Word) (stores : List (Nat × Option (List Byte))) (s : State) (hk : Keeps msk s₀ s) (hm : Sub 0xB200000C200 msk) : KeepsR msk s₀ (execRingPi ring value stores s) := by
  unfold execRingPi
  repeat' first
    | with_reducible first | exact Keeps.refl _ | assumption | exact Sub.of hm rfl
    | dsimp only
    | with_reducible first
      | apply KeepsR.next | apply keeps_bump | apply keeps_raise | apply keeps_hostWr | apply keeps_advancePi | apply keeps_hostStore
      | (apply keeps_foldl; intro _ _ _) | (apply keeps_foldl2; intro _ _ _)
    | split

theorem keeps_execCqCi {msk : Nat} {s₀ : State} (ring : Fin 4096) (value : Word) (s : State) (hk : Keeps msk s₀ s) (hm : Sub 0xBA0C247C601 msk) : KeepsR msk s₀ (execCqCi ring value s) := by
  unfold execCqCi
  repeat' first
    | with_reducible first | exact Keeps.refl _ | assumption | exact Sub.of hm rfl
    | dsimp only
    | with_reducible first
      | apply KeepsR.next | apply keeps_setRing | apply keeps_hostWr | apply keeps_flushRecords
    | split

theorem keeps_readSlot {msk : Nat} {s₀ : State} (s : State) (g : Ring) (hk : Keeps msk s₀ s) (hm : Sub 0xB2000420000 msk) : Keeps msk s₀ (readSlot s g).2 := by
  unfold readSlot
  repeat' first
    | with_reducible first | exact Keeps.refl _ | assumption | exact Sub.of hm rfl
    | dsimp only
    | with_reducible first
      | apply keeps_hostRead | apply keeps_devRead | refine keeps_of_pair (by assumption) ?_
    | split

theorem keeps_takeDesc {msk : Nat} {s₀ : State} (s : State) (ring : Nat) (g : Ring) (d : List Byte) (hk : Keeps msk s₀ s) (hm : Sub 0xBE0C647F601 msk) : Keeps msk s₀ (takeDesc s ring g d) := by
  unfold takeDesc
  repeat' first
    | with_reducible first | exact Keeps.refl _ | assumption | exact Sub.of hm rfl
    | dsimp only
    | with_reducible first
      | apply keeps_bump | apply keeps_setRing | apply keeps_newId | apply keeps_failReq | refine keeps_of_pair (by assumption) ?_
    | split

theorem keeps_fetchN {msk : Nat} {s₀ : State} (s : State) (ring : Nat) (n : Nat) (hk : Keeps msk s₀ s) (hm : Sub 0xBE0C647F601 msk) : Keeps msk s₀ (fetchN s ring n) := by
  induction n generalizing s with
  | zero => unfold fetchN; exact hk
  | succ n ih =>
    unfold fetchN
    repeat' first
      | with_reducible first | exact Keeps.refl _ | assumption | exact Sub.of hm rfl
      | dsimp only
      | with_reducible first
        | apply ih | apply keeps_setRing | apply keeps_raise | apply keeps_readSlot | apply keeps_takeDesc
        | refine keeps_of_pair (by assumption) ?_
      | split

theorem keeps_execDescriptorFetch {msk : Nat} {s₀ : State} (ring : Fin 4096) (count : Nat) (s : State) (hk : Keeps msk s₀ s) (hm : Sub 0xBE0C647F681 msk) : KeepsR msk s₀ (execDescriptorFetch ring count s) := by
  unfold execDescriptorFetch
  repeat' first
    | with_reducible first | exact Keeps.refl _ | assumption | exact Sub.of hm rfl
    | dsimp only
    | with_reducible first
      | apply KeepsR.next | apply KeepsR.fault | apply keeps_fetchN
    | with_reducible refine Keeps.upd_sched ?_ (Sub.of hm rfl); first
        | exact Keeps.refl _ | assumption | apply keeps_fetchN
    | split

theorem keeps_captArming {msk : Nat} {s₀ : State} (s : State) (r : Req) (hk : Keeps msk s₀ s) (hm : Sub 0xFA0C247C601 msk) : Keeps msk s₀ (captArming s r) := by
  unfold captArming
  repeat' first
    | with_reducible first | exact Keeps.refl _ | assumption | exact Sub.of hm rfl
    | dsimp only
    | with_reducible first
      | apply keeps_draw | apply keeps_captComplete | refine keeps_of_pair (by assumption) ?_
    | split

theorem keeps_execArm {msk : Nat} {s₀ : State} (ring : Fin 4096) (s : State) (hk : Keeps msk s₀ s) (hm : Sub 0xFE0C647F601 msk) : KeepsR msk s₀ (execArm ring s) := by
  unfold execArm
  repeat' first
    | with_reducible first | exact Keeps.refl _ | assumption | exact Sub.of hm rfl
    | dsimp only
    | with_reducible first
      | apply KeepsR.next | apply keeps_raise | apply keeps_releaseSlot | apply keeps_drainCheck | apply keeps_failReq | apply keeps_steps24
      | apply keeps_captArming | refine keeps_of_pair (by assumption) ?_
    | with_reducible refine Keeps.upd_armed ?_ (Sub.of hm rfl); first
        | exact Keeps.refl _ | assumption | apply keeps_raise | apply keeps_releaseSlot | apply keeps_drainCheck | apply keeps_failReq
        | apply keeps_steps24 | apply keeps_captArming | refine keeps_of_pair (by assumption) ?_
    | split

theorem keeps_endArmed {msk : Nat} {s₀ : State} (s : State) (a : Armed) (status : Nat) (hk : Keeps msk s₀ s) (hm : Sub 0xBA0C647C601 msk) : Keeps msk s₀ (endArmed s a status) := by
  unfold endArmed
  repeat' first
    | with_reducible first | exact Keeps.refl _ | assumption | exact Sub.of hm rfl
    | dsimp only
    | with_reducible first
      | apply keeps_queueRec | apply keeps_sendNotice
    | with_reducible refine Keeps.upd_armed ?_ (Sub.of hm rfl); first
        | exact Keeps.refl _ | assumption | apply keeps_queueRec | apply keeps_sendNotice
    | split

theorem keeps_execDisarm {msk : Nat} {s₀ : State} (ring : Fin 4096) (s : State) (hk : Keeps msk s₀ s) (hm : Sub 0xBE0C647F601 msk) : KeepsR msk s₀ (execDisarm ring s) := by
  unfold execDisarm
  repeat' first
    | with_reducible first | exact Keeps.refl _ | assumption | exact Sub.of hm rfl
    | dsimp only
    | with_reducible first
      | apply KeepsR.next | apply keeps_complete | apply keeps_failReq | apply keeps_steps24 | apply keeps_endArmed
      | refine keeps_of_pair (by assumption) ?_
    | split

theorem keeps_execTrigger {msk : Nat} {s₀ : State} (port : Fin 4) (value : Word) (qpn : Nat) (s : State) (hk : Keeps msk s₀ s) (hm : Sub 0xBA0C247C601 msk) : KeepsR msk s₀ (execTrigger port value qpn s) := by
  unfold execTrigger
  repeat' first
    | with_reducible first | exact Keeps.refl _ | assumption | exact Sub.of hm rfl
    | dsimp only
    | with_reducible first
      | apply KeepsR.next | apply keeps_issueWrite
    | split

theorem keeps_aschResult {msk : Nat} {s₀ : State} (s : State) (n : Nat) (r : Nat) (hk : Keeps msk s₀ s) (hm : Sub 0x10000000000 msk) : Keeps msk s₀ (aschResult s n r) := by
  unfold aschResult
  repeat' first
    | with_reducible first | exact Keeps.refl _ | assumption | exact Sub.of hm rfl
    | dsimp only
    | with_reducible first
      | apply keeps_wrf
    | split

theorem keeps_execRingCreate {msk : Nat} {s₀ : State} (die : Fin 4) (s : State) (hk : Keeps msk s₀ s) (hm : Sub 0x90000000200 msk) : KeepsR msk s₀ (execRingCreate die s) := by
  unfold execRingCreate
  repeat' first
    | with_reducible first | exact Keeps.refl _ | assumption | exact Sub.of hm rfl
    | dsimp only
    | with_reducible first
      | apply KeepsR.next | apply keeps_setRing | apply keeps_hostWr | apply keeps_aschResult
    | split

theorem keeps_endArmedOf {msk : Nat} {s₀ : State} (s : State) (ring : Nat) (status : Nat) (hk : Keeps msk s₀ s) (hm : Sub 0xBA0C647C601 msk) : Keeps msk s₀ (endArmedOf s ring status) := by
  unfold endArmedOf
  repeat' first
    | with_reducible first | exact Keeps.refl _ | assumption | exact Sub.of hm rfl
    | dsimp only
    | with_reducible first
      | apply keeps_endArmed | (apply keeps_foldl; intro _ _ _) | (apply keeps_foldl2; intro _ _ _)
    | split

theorem keeps_execRingDestroy {msk : Nat} {s₀ : State} (die : Fin 4) (s : State) (hk : Keeps msk s₀ s) (hm : Sub 0xBA0C647C601 msk) : KeepsR msk s₀ (execRingDestroy die s) := by
  unfold execRingDestroy
  repeat' first
    | with_reducible first | exact Keeps.refl _ | assumption | exact Sub.of hm rfl
    | dsimp only
    | with_reducible first
      | apply KeepsR.next | apply keeps_setRing | apply keeps_hostWr | apply keeps_aschResult | apply keeps_endArmedOf
    | split

theorem keeps_execRingDestroyDone {msk : Nat} {s₀ : State} (ring : Fin 4096) (s : State) (hk : Keeps msk s₀ s) (hm : Sub 0x200 msk) : KeepsR msk s₀ (execRingDestroyDone ring s) := by
  unfold execRingDestroyDone
  repeat' first
    | with_reducible first | exact Keeps.refl _ | assumption | exact Sub.of hm rfl
    | dsimp only
    | with_reducible first
      | apply KeepsR.next
    | with_reducible refine Keeps.upd_rings ?_ (Sub.of hm rfl); first
        | exact Keeps.refl _ | assumption
    | split

theorem keeps_indexTables {msk : Nat} {s₀ : State} (s : State) (p : Nat) (b : List Byte) (hk : Keeps msk s₀ s) (hm : Sub 0xB2000420000 msk) : Keeps msk s₀ (indexTables s p b).2 := by
  unfold indexTables
  repeat' first
    | with_reducible first | exact Keeps.refl _ | assumption | exact Sub.of hm rfl
    | dsimp only
    | with_reducible first
      | apply keeps_refRead | refine keeps_of_pair (by assumption) ?_
    | split

theorem keeps_contentCheck {msk : Nat} {s₀ : State} (s : State) (p : Nat) (kind : Nat) (b : List Byte) (hk : Keeps msk s₀ s) (hm : Sub 0xB2000420000 msk) : Keeps msk s₀ (contentCheck s p kind b).2 := by
  unfold contentCheck
  repeat' first
    | with_reducible first | exact Keeps.refl _ | assumption | exact Sub.of hm rfl
    | dsimp only
    | with_reducible first
      | apply keeps_indexTables | refine keeps_of_pair (by assumption) ?_
    | split

theorem keeps_loadObject {msk : Nat} {s₀ : State} (s : State) (p : Nat) (kind : Nat) (handle : Nat) (b : List Byte) (hk : Keeps msk s₀ s) (hm : Sub 0xB2080F20900 msk) : Keeps msk s₀ (loadObject s p kind handle b).2 := by
  unfold loadObject
  repeat' first
    | with_reducible first | exact Keeps.refl _ | assumption | exact Sub.of hm rfl
    | dsimp only
    | with_reducible first
      | apply keeps_setPart | apply keeps_takeCharge | apply keeps_contentCheck | refine keeps_of_pair (by assumption) ?_
    | with_reducible refine Keeps.upd_objects_vidx ?_ (Sub.of hm rfl); first
        | exact Keeps.refl _ | assumption | apply keeps_setPart | apply keeps_takeCharge | apply keeps_contentCheck
        | refine keeps_of_pair (by assumption) ?_
    | split

theorem keeps_doLoad {msk : Nat} {s₀ : State} (s : State) (id : Nat) (r : Req) (hk : Keeps msk s₀ s) (hm : Sub 0xBE0C6F7DF01 msk) : Keeps msk s₀ (doLoad s id r) := by
  unfold doLoad
  repeat' first
    | with_reducible first | exact Keeps.refl _ | assumption | exact Sub.of hm rfl
    | dsimp only
    | with_reducible first
      | apply keeps_refRead | apply keeps_complete | apply keeps_failReq | apply keeps_loadObject | refine keeps_of_pair (by assumption) ?_
    | split

theorem keeps_execLoad {msk : Nat} {s₀ : State} (ring : Fin 4096) (s : State) (hk : Keeps msk s₀ s) (hm : Sub 0xBE0C6F7FF01 msk) : KeepsR msk s₀ (execLoad ring s) := by
  unfold execLoad
  repeat' first
    | with_reducible first | exact Keeps.refl _ | assumption | exact Sub.of hm rfl
    | dsimp only
    | with_reducible first
      | apply KeepsR.next | refine keeps_admitOp _ _ _ _ (fun _ _ _ _ => ?_) ?_ (Sub.of hm rfl) | apply keeps_doLoad
    | split

theorem keeps_doUnload {msk : Nat} {s₀ : State} (s : State) (id : Nat) (r : Req) (hk : Keeps msk s₀ s) (hm : Sub 0xBE0C647DE01 msk) : Keeps msk s₀ (doUnload s id r) := by
  unfold doUnload
  repeat' first
    | with_reducible first | exact Keeps.refl _ | assumption | exact Sub.of hm rfl
    | dsimp only
    | with_reducible first
      | apply keeps_complete | apply keeps_failReq
    | with_reducible refine Keeps.upd_objects ?_ (Sub.of hm rfl); first
        | exact Keeps.refl _ | assumption | apply keeps_complete | apply keeps_failReq
    | split

theorem keeps_execUnload {msk : Nat} {s₀ : State} (ring : Fin 4096) (s : State) (hk : Keeps msk s₀ s) (hm : Sub 0xBE0C647FE01 msk) : KeepsR msk s₀ (execUnload ring s) := by
  unfold execUnload
  repeat' first
    | with_reducible first | exact Keeps.refl _ | assumption | exact Sub.of hm rfl
    | dsimp only
    | with_reducible first
      | apply KeepsR.next | refine keeps_admitOp _ _ _ _ (fun _ _ _ _ => ?_) ?_ (Sub.of hm rfl) | apply keeps_doUnload
    | split

theorem keeps_execObjectFree {msk : Nat} {s₀ : State} (part : Fin 32) (handle : Nat) (s : State) (hk : Keeps msk s₀ s) (hm : Sub 0xA00800 msk) : KeepsR msk s₀ (execObjectFree part handle s) := by
  unfold execObjectFree
  repeat' first
    | with_reducible first | exact Keeps.refl _ | assumption | exact Sub.of hm rfl
    | dsimp only
    | with_reducible first
      | apply KeepsR.next | apply KeepsR.fault | apply keeps_dropUnit | (apply keeps_foldl; intro _ _ _) | (apply keeps_foldl2; intro _ _ _)
    | with_reducible refine Keeps.upd_objects_vidx ?_ (Sub.of hm rfl); first
        | exact Keeps.refl _ | assumption | apply keeps_dropUnit | (apply keeps_foldl; intro _ _ _) | (apply keeps_foldl2; intro _ _ _)
    | split

theorem keeps_createShelf {msk : Nat} {s₀ : State} (s : State) (sh0 : Shelf) (hk : Keeps msk s₀ s) (hm : Sub 0xF2000702100 msk) : Keeps msk s₀ (createShelf s sh0).2 := by
  unfold createShelf
  repeat' first
    | with_reducible first | exact Keeps.refl _ | assumption | exact Sub.of hm rfl
    | dsimp only
    | with_reducible first
      | apply keeps_draw | apply keeps_wrf | apply keeps_bump | apply keeps_raise | apply keeps_takeCharge | apply keeps_newId
      | refine keeps_of_pair (by assumption) ?_
    | with_reducible refine Keeps.upd_dir ?_ (Sub.of hm rfl); first
        | exact Keeps.refl _ | assumption | apply keeps_draw | apply keeps_wrf | apply keeps_bump | apply keeps_raise | apply keeps_takeCharge
        | apply keeps_newId | refine keeps_of_pair (by assumption) ?_
    | with_reducible refine Keeps.upd_free ?_ (Sub.of hm rfl); first
        | exact Keeps.refl _ | assumption | apply keeps_draw | apply keeps_wrf | apply keeps_bump | apply keeps_raise | apply keeps_takeCharge
        | apply keeps_newId | refine keeps_of_pair (by assumption) ?_
    | with_reducible refine Keeps.upd_dir_free ?_ (Sub.of hm rfl); first
        | exact Keeps.refl _ | assumption | apply keeps_draw | apply keeps_wrf | apply keeps_bump | apply keeps_raise | apply keeps_takeCharge
        | apply keeps_newId | refine keeps_of_pair (by assumption) ?_
    | split

theorem keeps_dropEntry {msk : Nat} {s₀ : State} (s : State) (i : Nat) (hk : Keeps msk s₀ s) (hm : Sub 0x100 msk) : Keeps msk s₀ (dropEntry s i) := by
  unfold dropEntry
  repeat' first
    | with_reducible first | exact Keeps.refl _ | assumption | exact Sub.of hm rfl
    | dsimp only
    | with_reducible refine Keeps.upd_dir ?_ (Sub.of hm rfl); first
        | exact Keeps.refl _ | assumption
    | split

theorem keeps_pullEntry {msk : Nat} {s₀ : State} (s : State) (p : Nat) (i : Nat) (hk : Keeps msk s₀ s) (hm : Sub 0xB2000420000 msk) : Keeps msk s₀ (pullEntry s p i).2 := by
  unfold pullEntry
  repeat' first
    | with_reducible first | exact Keeps.refl _ | assumption | exact Sub.of hm rfl
    | dsimp only
    | with_reducible first
      | apply keeps_devRead | refine keeps_of_pair (by assumption) ?_
    | split

theorem keeps_pullBisect {msk : Nat} {s₀ : State} (p want : Nat) (s : State) (lo hi : Nat) (n : Nat) (hk : Keeps msk s₀ s) (hm : Sub 0xB2000420000 msk) : Keeps msk s₀ (pullBisect p want n s lo hi).2 := by
  induction n generalizing s lo hi with
  | zero => unfold pullBisect; exact hk
  | succ n ih =>
    unfold pullBisect
    repeat' first
      | with_reducible first | exact Keeps.refl _ | assumption | exact Sub.of hm rfl
      | dsimp only
      | with_reducible first
        | apply ih | apply keeps_pullEntry | refine keeps_of_pair (by assumption) ?_
      | split

theorem keeps_pullFind {msk : Nat} {s₀ : State} (s : State) (k : ShelfKey) (hk : Keeps msk s₀ s) (hm : Sub 0xB2000420000 msk) : Keeps msk s₀ (pullFind s k).2 := by
  unfold pullFind
  repeat' first
    | with_reducible first | exact Keeps.refl _ | assumption | exact Sub.of hm rfl
    | dsimp only
    | with_reducible first
      | apply keeps_pullBisect | refine keeps_of_pair (by assumption) ?_
    | split

theorem keeps_setSub {msk : Nat} {s₀ : State} (s : State) (p : Nat) (peer : Nat) (v : SubInbox) (hk : Keeps msk s₀ s) (hm : Sub 0x400000000 msk) : Keeps msk s₀ (State.setSub s p peer v) := by
  unfold State.setSub
  repeat' first
    | with_reducible first | exact Keeps.refl _ | assumption | exact Sub.of hm rfl
    | dsimp only
    | with_reducible refine Keeps.upd_sub ?_ (Sub.of hm rfl); first
        | exact Keeps.refl _ | assumption
    | split

theorem keeps_inboxWrite {msk : Nat} {s₀ : State} (s : State) (p : Nat) (peer : Nat) (off : Nat) (b : List Byte) (hk : Keeps msk s₀ s) (hm : Sub 0x6000000 msk) : Keeps msk s₀ (inboxWrite s p peer off b) := by
  unfold inboxWrite
  repeat' first
    | with_reducible first | exact Keeps.refl _ | assumption | exact Sub.of hm rfl
    | dsimp only
    | with_reducible first
      | apply keeps_postMsg
    | split

theorem keeps_sendEntry {msk : Nat} {s₀ : State} (s : State) (p : Nat) (peer : Nat) (b : List Byte) (hk : Keeps msk s₀ s) (hm : Sub 0x406000000 msk) : KeepsO msk s₀ (sendEntry s p peer b) := by
  unfold sendEntry
  repeat' first
    | with_reducible first | exact Keeps.refl _ | assumption | exact Sub.of hm rfl
    | dsimp only
    | with_reducible first
      | apply KeepsO.some | apply KeepsO.none | apply keeps_setSub | apply keeps_inboxWrite
    | split

theorem keeps_drainLink {msk : Nat} {s₀ : State} (s : State) (l : Nat) (n : Nat) (hk : Keeps msk s₀ s) (hm : Sub 0x506000000 msk) : Keeps msk s₀ (drainLink s l n) := by
  induction n generalizing s with
  | zero => unfold drainLink; exact hk
  | succ n ih =>
    unfold drainLink
    repeat' first
      | with_reducible first | exact Keeps.refl _ | assumption | exact Sub.of hm rfl
      | dsimp only
      | with_reducible first
        | apply ih | apply keeps_sendEntry | refine keeps_of_opt (by assumption) ?_
      | with_reducible refine Keeps.upd_links ?_ (Sub.of hm rfl); first
          | exact Keeps.refl _ | assumption | apply ih | apply keeps_sendEntry | refine keeps_of_opt (by assumption) ?_
      | split

theorem keeps_cutLink {msk : Nat} {s₀ : State} (s : State) (l : Nat) (degrade : Bool) (hk : Keeps msk s₀ s) (hm : Sub 0x100000100 msk) : Keeps msk s₀ (cutLink s l degrade) := by
  unfold cutLink
  repeat' first
    | with_reducible first | exact Keeps.refl _ | assumption | exact Sub.of hm rfl
    | dsimp only
    | with_reducible first
      | apply keeps_setShelf
    | with_reducible refine Keeps.upd_links ?_ (Sub.of hm rfl); first
        | exact Keeps.refl _ | assumption | apply keeps_setShelf
    | split

theorem keeps_pushEntry {msk : Nat} {s₀ : State} (s : State) (l : Nat) (kind : Nat) (flags : Nat) (k : ShelfKey) (pos : Nat) (arg : Nat) (body : List Byte) (hk : Keeps msk s₀ s) (hm : Sub 0xB2506000100 msk) : Keeps msk s₀ (pushEntry s l kind flags k pos arg body) := by
  unfold pushEntry
  repeat' first
    | with_reducible first | exact Keeps.refl _ | assumption | exact Sub.of hm rfl
    | dsimp only
    | with_reducible first
      | apply keeps_raise | apply keeps_drainLink | apply keeps_cutLink
    | with_reducible refine Keeps.upd_links ?_ (Sub.of hm rfl); first
        | exact Keeps.refl _ | assumption | apply keeps_raise | apply keeps_drainLink | apply keeps_cutLink
    | split

theorem keeps_pushRecords {msk : Nat} {s₀ : State} (s : State) (l : Nat) (sh : Shelf) (last : Bool) (pos m : Nat) (n : Nat) (hk : Keeps msk s₀ s) (hm : Sub 0xB2506000100 msk) : Keeps msk s₀ (pushRecords s l sh last n pos m) := by
  induction n generalizing s pos m with
  | zero => unfold pushRecords; exact hk
  | succ n ih =>
    unfold pushRecords
    repeat' first
      | with_reducible first | exact Keeps.refl _ | assumption | exact Sub.of hm rfl
      | dsimp only
      | with_reducible first
        | apply ih | apply keeps_pushEntry
      | split

theorem keeps_mirrorAppend {msk : Nat} {s₀ : State} (s : State) (sh : Shelf) (pos : Nat) (n : Nat) (hk : Keeps msk s₀ s) (hm : Sub 0xB2506000100 msk) : Keeps msk s₀ (mirrorAppend s sh pos n).2 := by
  unfold mirrorAppend
  repeat' first
    | with_reducible first | exact Keeps.refl _ | assumption | exact Sub.of hm rfl
    | dsimp only
    | with_reducible first
      | apply keeps_pushRecords
    | split

theorem keeps_mirrorTrim {msk : Nat} {s₀ : State} (s : State) (sh : Shelf) (p : Nat) (form : Nat) (hk : Keeps msk s₀ s) (hm : Sub 0xB2506000100 msk) : Keeps msk s₀ (mirrorTrim s sh p form).2 := by
  unfold mirrorTrim
  repeat' first
    | with_reducible first | exact Keeps.refl _ | assumption | exact Sub.of hm rfl
    | dsimp only
    | with_reducible first
      | apply keeps_pushEntry
    | split

theorem keeps_mirrorDrop {msk : Nat} {s₀ : State} (s : State) (sh : Shelf) (hk : Keeps msk s₀ s) (hm : Sub 0xB2506000100 msk) : Keeps msk s₀ (mirrorDrop s sh) := by
  unfold mirrorDrop
  repeat' first
    | with_reducible first | exact Keeps.refl _ | assumption | exact Sub.of hm rfl
    | dsimp only
    | with_reducible first
      | apply keeps_pushEntry
    | split

theorem keeps_endShelfOps {msk : Nat} {s₀ : State} (s : State) (i : Nat) (hk : Keeps msk s₀ s) (hm : Sub 0xBE0C647D701 msk) : Keeps msk s₀ (endShelfOps s i) := by
  unfold endShelfOps
  repeat' first
    | with_reducible first | exact Keeps.refl _ | assumption | exact Sub.of hm rfl
    | dsimp only
    | with_reducible first
      | apply keeps_setShelf | apply keeps_complete | (apply keeps_foldl; intro _ _ _) | (apply keeps_foldl2; intro _ _ _)
    | split

theorem keeps_unlink {msk : Nat} {s₀ : State} (s : State) (i : Nat) (hk : Keeps msk s₀ s) (hm : Sub 0x100000100 msk) : Keeps msk s₀ (unlink s i) := by
  unfold unlink
  repeat' first
    | with_reducible first | exact Keeps.refl _ | assumption | exact Sub.of hm rfl
    | dsimp only
    | with_reducible first
      | apply keeps_setShelf
    | with_reducible refine Keeps.upd_links ?_ (Sub.of hm rfl); first
        | exact Keeps.refl _ | assumption | apply keeps_setShelf
    | split

theorem keeps_markLost {msk : Nat} {s₀ : State} (s : State) (i : Nat) (hk : Keeps msk s₀ s) (hm : Sub 0xBE1C647D701 msk) : Keeps msk s₀ (markLost s i) := by
  unfold markLost
  repeat' first
    | with_reducible first | exact Keeps.refl _ | assumption | exact Sub.of hm rfl
    | dsimp only
    | with_reducible first
      | apply keeps_setShelf | apply keeps_endShelfOps | apply keeps_unlink
    | split

theorem keeps_damage {msk : Nat} {s₀ : State} (s : State) (i : Nat) (where_ : Nat × Nat ⊕ Nat) (hk : Keeps msk s₀ s) (hm : Sub 0xBE1C647D701 msk) : Keeps msk s₀ (damage s i where_) := by
  unfold damage
  repeat' first
    | with_reducible first | exact Keeps.refl _ | assumption | exact Sub.of hm rfl
    | dsimp only
    | with_reducible first
      | apply keeps_setShelf | apply keeps_raiseG | apply keeps_markLost
    | split

theorem keeps_freeSlots {msk : Nat} {s₀ : State} (s : State) (f : Nat) (hk : Keeps msk s₀ s) (hm : Sub 0x80000 msk) : Keeps msk s₀ (freeSlots s f) := by
  unfold freeSlots
  repeat' first
    | with_reducible first | exact Keeps.refl _ | assumption | exact Sub.of hm rfl
    | dsimp only
    | with_reducible first
      | apply keeps_setFstack
    | split

theorem keeps_dropJobs {msk : Nat} {s₀ : State} (s : State) (gone : Nat → Job → Bool) (hk : Keeps msk s₀ s) (hm : Sub 0xC0000 msk) : Keeps msk s₀ (dropJobs s gone) := by
  unfold dropJobs
  repeat' first
    | with_reducible first | exact Keeps.refl _ | assumption | exact Sub.of hm rfl
    | dsimp only
    | with_reducible first
      | apply keeps_freeSlots | (apply keeps_foldl; intro _ _ _) | (apply keeps_foldl2; intro _ _ _)
    | with_reducible refine Keeps.upd_booths ?_ (Sub.of hm rfl); first
        | exact Keeps.refl _ | assumption | apply keeps_freeSlots | (apply keeps_foldl; intro _ _ _) | (apply keeps_foldl2; intro _ _ _)
    | split

theorem keeps_dropReqJobs {msk : Nat} {s₀ : State} (s : State) (id : Nat) (hk : Keeps msk s₀ s) (hm : Sub 0xC0000 msk) : Keeps msk s₀ (dropReqJobs s id) := by
  unfold dropReqJobs
  repeat' first
    | with_reducible first | exact Keeps.refl _ | assumption | exact Sub.of hm rfl
    | dsimp only
    | with_reducible first
      | apply keeps_dropJobs
    | split

theorem keeps_endAttend {msk : Nat} {s₀ : State} (s : State) (id : Nat) (r : Req) (f : Fail) (hk : Keeps msk s₀ s) (hm : Sub 0xBE0C64FD601 msk) : Keeps msk s₀ (endAttend s id r f) := by
  unfold endAttend
  repeat' first
    | with_reducible first | exact Keeps.refl _ | assumption | exact Sub.of hm rfl
    | dsimp only
    | with_reducible first
      | apply keeps_failReq | apply keeps_dropReqJobs
    | split

theorem keeps_loseEntry {msk : Nat} {s₀ : State} (s : State) (die : Nat) (idx : Nat) (hk : Keeps msk s₀ s) (hm : Sub 0xBE0C64FD701 msk) : Keeps msk s₀ (loseEntry s die idx) := by
  unfold loseEntry
  repeat' first
    | with_reducible first | exact Keeps.refl _ | assumption | exact Sub.of hm rfl
    | dsimp only
    | with_reducible first
      | apply keeps_endShelfOps | apply keeps_endAttend | (apply keeps_foldl; intro _ _ _) | (apply keeps_foldl2; intro _ _ _)
    | with_reducible refine Keeps.upd_dir ?_ (Sub.of hm rfl); first
        | exact Keeps.refl _ | assumption | apply keeps_endShelfOps | apply keeps_endAttend | (apply keeps_foldl; intro _ _ _)
        | (apply keeps_foldl2; intro _ _ _)
    | split

theorem keeps_failRecord {msk : Nat} {s₀ : State} (s : State) (n : Nat) (hk : Keeps msk s₀ s) (hm : Sub 0x801000 msk) : Keeps msk s₀ (failRecord s n) := by
  unfold failRecord
  repeat' first
    | with_reducible first | exact Keeps.refl _ | assumption | exact Sub.of hm rfl
    | dsimp only
    | with_reducible refine Keeps.upd_reqs_vidx ?_ (Sub.of hm rfl); first
        | exact Keeps.refl _ | assumption
    | split

theorem keeps_loseUnit {msk : Nat} {s₀ : State} (s : State) (e : Nat × CabUnit) (hk : Keeps msk s₀ s) (hm : Sub 0xA01100 msk) : Keeps msk s₀ (loseUnit s e) := by
  unfold loseUnit
  repeat' first
    | with_reducible first | exact Keeps.refl _ | assumption | exact Sub.of hm rfl
    | dsimp only
    | with_reducible first
      | apply keeps_dropUnit | apply keeps_releaseRetained | apply keeps_failRecord
    | split

theorem keeps_loseUse {msk : Nat} {s₀ : State} (s : State) (k : Nat) (line : Nat) (u : LineUse) (hk : Keeps msk s₀ s) (hm : Sub 0xBE1C6EFD701 msk) : Keeps msk s₀ (loseUse s k line u) := by
  unfold loseUse
  repeat' first
    | with_reducible first | exact Keeps.refl _ | assumption | exact Sub.of hm rfl
    | dsimp only
    | with_reducible first
      | apply keeps_setHbm | apply keeps_setShelf | apply keeps_raise | apply keeps_damage | apply keeps_loseEntry | apply keeps_loseUnit
      | (apply keeps_foldl; intro _ _ _) | (apply keeps_foldl2; intro _ _ _)
    | with_reducible refine Keeps.upd_vidx ?_ (Sub.of hm rfl); first
        | exact Keeps.refl _ | assumption | apply keeps_setHbm | apply keeps_setShelf | apply keeps_raise | apply keeps_damage
        | apply keeps_loseEntry | apply keeps_loseUnit | (apply keeps_foldl; intro _ _ _) | (apply keeps_foldl2; intro _ _ _)
    | split

theorem keeps_lostCopy {msk : Nat} {s₀ : State} (s : State) (k : Nat) (line : Nat) (u : LineUse) (hk : Keeps msk s₀ s) (hm : Sub 0xBE1C6EFD701 msk) : Keeps msk s₀ (lostCopy s k line u) := by
  unfold lostCopy
  repeat' first
    | with_reducible first | exact Keeps.refl _ | assumption | exact Sub.of hm rfl
    | dsimp only
    | with_reducible first
      | apply keeps_setHbm | apply keeps_readLine | apply keeps_loseUse | refine keeps_of_pair (by assumption) ?_
    | split

theorem keeps_readUsed {msk : Nat} {s₀ : State} (acc : Bool × State) (e : Nat × Nat × LineUse) (hk : Keeps msk s₀ acc.2) (hm : Sub 0xBE1C6EFD701 msk) : Keeps msk s₀ (readUsed acc e).2 := by
  unfold readUsed
  repeat' first
    | with_reducible first | exact Keeps.refl _ | assumption | exact Sub.of hm rfl
    | dsimp only
    | with_reducible first
      | apply keeps_readLine | apply keeps_lostCopy | refine keeps_of_pair (by assumption) ?_
    | split

theorem keeps_readUse {msk : Nat} {s₀ : State} (s : State) (f : LineUse → Bool) (hk : Keeps msk s₀ s) (hm : Sub 0xBE1C6EFD701 msk) : Keeps msk s₀ (readUse s f).2 := by
  unfold readUse
  repeat' first
    | with_reducible first | exact Keeps.refl _ | assumption | exact Sub.of hm rfl
    | dsimp only
    | with_reducible first
      | apply keeps_readUsed | (apply keeps_foldl; intro _ _ _) | (apply keeps_foldl2; intro _ _ _) | refine keeps_of_pair (by assumption) ?_
    | split

theorem keeps_readDir {msk : Nat} {s₀ : State} (s : State) (k : ShelfKey) (hk : Keeps msk s₀ s) (hm : Sub 0xBE1C6EFD701 msk) : Keeps msk s₀ (readDir s k) := by
  unfold readDir
  repeat' first
    | with_reducible first | exact Keeps.refl _ | assumption | exact Sub.of hm rfl
    | dsimp only
    | with_reducible first
      | apply keeps_readUse | refine keeps_of_pair (by assumption) ?_
    | split

end Sys2Proof.Laws
end

