-- ==== Sys2Proof/Laws/KeepsKv.lean ====
section
/-! SUPPORT. `Keeps` for the commands of shelves, attention, booths and memory tiers. -/
namespace Sys2Proof.Laws

open Sys2Proof.Machine Sys2Proof.Safety

set_option maxRecDepth 4000

theorem keeps_setEblock {msk : Nat} {s₀ : State} (s : State) (b : Nat) (v : EBlock) (hk : Keeps msk s₀ s) (hm : Sub 0x200000 msk) : Keeps msk s₀ (setEblock s b v) := by
  unfold setEblock
  repeat' first
    | with_reducible first | exact Keeps.refl _ | assumption | exact Sub.of hm rfl
    | dsimp only
    | with_reducible refine Keeps.upd_cab ?_ (Sub.of hm rfl); first
        | exact Keeps.refl _ | assumption
    | split

theorem keeps_openStripes {msk : Nat} {s₀ : State} (s : State) (hk : Keeps msk s₀ s) (hm : Sub 0x200000 msk) : Keeps msk s₀ (openStripes s) := by
  unfold openStripes
  repeat' first
    | with_reducible first | exact Keeps.refl _ | assumption | exact Sub.of hm rfl
    | dsimp only
    | with_reducible first
      | apply keeps_setEblock | (apply keeps_foldl; intro _ _ _) | (apply keeps_foldl2; intro _ _ _)
    | with_reducible refine Keeps.upd_cab ?_ (Sub.of hm rfl); first
        | exact Keeps.refl _ | assumption | apply keeps_setEblock | (apply keeps_foldl; intro _ _ _) | (apply keeps_foldl2; intro _ _ _)
    | split

theorem keeps_placePart {msk : Nat} {s₀ : State} (s : State) (e : Nat × Nat × Nat) (hk : Keeps msk s₀ s) (hm : Sub 0x200000 msk) : Keeps msk s₀ (placePart s e) := by
  unfold placePart
  repeat' first
    | with_reducible first | exact Keeps.refl _ | assumption | exact Sub.of hm rfl
    | dsimp only
    | with_reducible first
      | apply keeps_setEblock | (apply keeps_foldl; intro _ _ _) | (apply keeps_foldl2; intro _ _ _)
    | with_reducible refine Keeps.upd_cab ?_ (Sub.of hm rfl); first
        | exact Keeps.refl _ | assumption | apply keeps_setEblock | (apply keeps_foldl; intro _ _ _) | (apply keeps_foldl2; intro _ _ _)
    | split

theorem keeps_programStripe {msk : Nat} {s₀ : State} (s : State) (hk : Keeps msk s₀ s) (hm : Sub 0x200000 msk) : Keeps msk s₀ (programStripe s) := by
  unfold programStripe
  repeat' first
    | with_reducible first | exact Keeps.refl _ | assumption | exact Sub.of hm rfl
    | dsimp only
    | with_reducible first
      | apply keeps_openStripes | apply keeps_placePart | (apply keeps_foldl; intro _ _ _) | (apply keeps_foldl2; intro _ _ _)
    | with_reducible refine Keeps.upd_cab ?_ (Sub.of hm rfl); first
        | exact Keeps.refl _ | assumption | apply keeps_openStripes | apply keeps_placePart | (apply keeps_foldl; intro _ _ _)
        | (apply keeps_foldl2; intro _ _ _)
    | split

theorem keeps_stageUnit {msk : Nat} {s₀ : State} (s : State) (n : Nat) (u : CabUnit) (hk : Keeps msk s₀ s) (hm : Sub 0x200000 msk) : Keeps msk s₀ (stageUnit s n u) := by
  unfold stageUnit
  repeat' first
    | with_reducible first | exact Keeps.refl _ | assumption | exact Sub.of hm rfl
    | dsimp only
    | with_reducible first
      | apply keeps_programStripe
    | with_reducible refine Keeps.upd_cab ?_ (Sub.of hm rfl); first
        | exact Keeps.refl _ | assumption | apply keeps_programStripe
    | split

theorem keeps_countRead {msk : Nat} {s₀ : State} (s : State) (n : Nat) (hk : Keeps msk s₀ s) (hm : Sub 0x200000 msk) : Keeps msk s₀ (countRead s n) := by
  unfold countRead
  repeat' first
    | with_reducible first | exact Keeps.refl _ | assumption | exact Sub.of hm rfl
    | dsimp only
    | with_reducible first
      | apply keeps_setEblock | (apply keeps_foldl; intro _ _ _) | (apply keeps_foldl2; intro _ _ _)
    | split

theorem keeps_storeDrawer {msk : Nat} {s₀ : State} (s : State) (i : Nat) (sh : Shelf) (d : Drawer) (hk : Keeps msk s₀ s) (hm : Sub 0x200000 msk) : Keeps msk s₀ (storeDrawer s i sh d).2 := by
  unfold storeDrawer
  repeat' first
    | with_reducible first | exact Keeps.refl _ | assumption | exact Sub.of hm rfl
    | dsimp only
    | with_reducible first
      | apply keeps_stageUnit
    | with_reducible refine Keeps.upd_cab ?_ (Sub.of hm rfl); first
        | exact Keeps.refl _ | assumption | apply keeps_stageUnit
    | split

theorem keeps_relocate {msk : Nat} {s₀ : State} (s : State) (i : Nat) (series : Nat) (idx : Nat) (l : Loc) (hk : Keeps msk s₀ s) (hm : Sub 0x440100 msk) : Keeps msk s₀ (relocate s i series idx l) := by
  unfold relocate
  repeat' first
    | with_reducible first | exact Keeps.refl _ | assumption | exact Sub.of hm rfl
    | dsimp only
    | with_reducible first
      | apply keeps_setShelf | apply keeps_askPlace | apply keeps_wipePlace
    | split

theorem keeps_touch {msk : Nat} {s₀ : State} (s : State) (i : Nat) (series : Nat) (idx : Nat) (hk : Keeps msk s₀ s) (hm : Sub 0x100 msk) : Keeps msk s₀ (touch s i series idx) := by
  unfold touch
  repeat' first
    | with_reducible first | exact Keeps.refl _ | assumption | exact Sub.of hm rfl
    | dsimp only
    | with_reducible first
      | apply keeps_setShelf
    | split

theorem keeps_t2Ready {msk : Nat} {s₀ : State} (s : State) (p : Nat) (own : Option Nat) (want : State → Bool) (hk : Keeps msk s₀ s) (hm : Sub 0x10000700100 msk) : Keeps msk s₀ (t2Ready s p own want).2 := by
  unfold t2Ready
  repeat' first
    | with_reducible first | exact Keeps.refl _ | assumption | exact Sub.of hm rfl
    | dsimp only
    | with_reducible first
      | apply keeps_discardUntil
    | split

theorem keeps_toT2 {msk : Nat} {s₀ : State} (s : State) (p : Nat) (own : Option Nat) (want : State → Bool) (i : Nat) (series : Nat) (idx : Nat) (hk : Keeps msk s₀ s) (hm : Sub 0xBE1C677D701 msk) : Keeps msk s₀ (toT2 s p own want i series idx).2 := by
  unfold toT2
  repeat' first
    | with_reducible first | exact Keeps.refl _ | assumption | exact Sub.of hm rfl
    | dsimp only
    | with_reducible first
      | apply keeps_bump | apply keeps_readDrawer | apply keeps_damage | apply keeps_storeDrawer | apply keeps_relocate | apply keeps_t2Ready
      | refine keeps_of_pair (by assumption) ?_
    | split

theorem keeps_toT1 {msk : Nat} {s₀ : State} (s : State) (p : Nat) (i : Nat) (series : Nat) (idx : Nat) (k : Nat) (hk : Keeps msk s₀ s) (hm : Sub 0xBE1C647D701 msk) : Keeps msk s₀ (toT1 s p i series idx k).2 := by
  unfold toT1
  repeat' first
    | with_reducible first | exact Keeps.refl _ | assumption | exact Sub.of hm rfl
    | dsimp only
    | with_reducible first
      | apply keeps_bump | apply keeps_readDrawer | apply keeps_damage | apply keeps_relocate | refine keeps_of_pair (by assumption) ?_
    | split

theorem keeps_sinkT1 {msk : Nat} {s₀ : State} (s : State) (p : Nat) (own : Option Nat) (want : State → Bool) (c : Option (Nat × Nat × Nat × Nat)) (hk : Keeps msk s₀ s) (hm : Sub 0xBE1C677D701 msk) : Keeps msk s₀ (sinkT1 s p own want c).2 := by
  unfold sinkT1
  repeat' first
    | with_reducible first | exact Keeps.refl _ | assumption | exact Sub.of hm rfl
    | dsimp only
    | with_reducible first
      | apply keeps_toT2 | refine keeps_of_pair (by assumption) ?_
    | split

theorem keeps_tryT1 {msk : Nat} {s₀ : State} (s : State) (p : Nat) (age : Nat) (own : Option Nat) (want : State → Bool) (hk : Keeps msk s₀ s) (hm : Sub 0xFE1C677D701 msk) : Keeps msk s₀ (tryT1 s p age own want).2 := by
  unfold tryT1
  repeat' first
    | with_reducible first | exact Keeps.refl _ | assumption | exact Sub.of hm rfl
    | dsimp only
    | with_reducible first
      | apply keeps_draw | apply keeps_sinkT1 | refine keeps_of_pair (by assumption) ?_
    | split

theorem keeps_freeT1 {msk : Nat} {s₀ : State} (s : State) (p age : Nat) (own : Option Nat) (want : State → Bool) (n : Nat) (hk : Keeps msk s₀ s) (hm : Sub 0xFE1C677D701 msk) : Keeps msk s₀ (freeT1 s p age own want n).2 := by
  induction n generalizing s with
  | zero => unfold freeT1; exact hk
  | succ n ih =>
    unfold freeT1
    repeat' first
      | with_reducible first | exact Keeps.refl _ | assumption | exact Sub.of hm rfl
      | dsimp only
      | with_reducible first
        | apply ih | apply keeps_tryT1 | refine keeps_of_pair (by assumption) ?_
      | split

theorem keeps_lowerT0 {msk : Nat} {s₀ : State} (s : State) (p : Nat) (i : Nat) (series : Nat) (idx : Nat) (hk : Keeps msk s₀ s) (hm : Sub 0xBE1C647D701 msk) : Keeps msk s₀ (lowerT0 s p i series idx).2 := by
  unfold lowerT0
  repeat' first
    | with_reducible first | exact Keeps.refl _ | assumption | exact Sub.of hm rfl
    | dsimp only
    | with_reducible first
      | apply keeps_toT1 | refine keeps_of_pair (by assumption) ?_
    | split

theorem keeps_lowerAgain {msk : Nat} {s₀ : State} (s : State) (p : Nat) (i : Nat) (series : Nat) (idx : Nat) (want : State → Bool) (hk : Keeps msk s₀ s) (hm : Sub 0xBE1C647D701 msk) : Keeps msk s₀ (lowerAgain s p i series idx want).2 := by
  unfold lowerAgain
  repeat' first
    | with_reducible first | exact Keeps.refl _ | assumption | exact Sub.of hm rfl
    | dsimp only
    | with_reducible first
      | apply keeps_lowerT0 | refine keeps_of_pair (by assumption) ?_
    | split

theorem keeps_sinkT0 {msk : Nat} {s₀ : State} (s : State) (p : Nat) (age : Nat) (fuel : Nat) (own : Option Nat) (want : State → Bool) (c : Option (Nat × Nat × Nat × Nat)) (hk : Keeps msk s₀ s) (hm : Sub 0xFE1C677D701 msk) : Keeps msk s₀ (sinkT0 s p age fuel own want c).2 := by
  unfold sinkT0
  repeat' first
    | with_reducible first | exact Keeps.refl _ | assumption | exact Sub.of hm rfl
    | dsimp only
    | with_reducible first
      | apply keeps_freeT1 | apply keeps_lowerT0 | apply keeps_lowerAgain | refine keeps_of_pair (by assumption) ?_
    | split

theorem keeps_tryT0 {msk : Nat} {s₀ : State} (s : State) (p : Nat) (age : Nat) (fuel : Nat) (own : Option Nat) (want : State → Bool) (hk : Keeps msk s₀ s) (hm : Sub 0xFE1C677D701 msk) : Keeps msk s₀ (tryT0 s p age fuel own want).2 := by
  unfold tryT0
  repeat' first
    | with_reducible first | exact Keeps.refl _ | assumption | exact Sub.of hm rfl
    | dsimp only
    | with_reducible first
      | apply keeps_draw | apply keeps_sinkT0 | refine keeps_of_pair (by assumption) ?_
    | split

theorem keeps_freeT0 {msk : Nat} {s₀ : State} (s : State) (p age : Nat) (own : Option Nat) (want : State → Bool) (n : Nat) (hk : Keeps msk s₀ s) (hm : Sub 0xFE1C677D701 msk) : Keeps msk s₀ (freeT0 s p age own want n).2 := by
  induction n generalizing s with
  | zero => unfold freeT0; exact hk
  | succ n ih =>
    unfold freeT0
    repeat' first
      | with_reducible first | exact Keeps.refl _ | assumption | exact Sub.of hm rfl
      | dsimp only
      | with_reducible first
        | apply ih | apply keeps_tryT0 | refine keeps_of_pair (by assumption) ?_
      | split

theorem keeps_freeTierPlace {msk : Nat} {s₀ : State} (s : State) (p : Nat) (t0 : Bool) (own : Nat) (want : State → Bool) (age : Nat) (hk : Keeps msk s₀ s) (hm : Sub 0xFE1C677D701 msk) : Keeps msk s₀ (freeTierPlace s p t0 own want age).2 := by
  unfold freeTierPlace
  repeat' first
    | with_reducible first | exact Keeps.refl _ | assumption | exact Sub.of hm rfl
    | dsimp only
    | with_reducible first
      | apply keeps_freeT1 | apply keeps_freeT0 | refine keeps_of_pair (by assumption) ?_
    | split

theorem keeps_postRead {msk : Nat} {s₀ : State} (s : State) (p : Nat) (peer : Nat) (rkey : Nat) (off : Nat) (hk : Keeps msk s₀ s) (hm : Sub 0x6000000 msk) : Keeps msk s₀ (postRead s p peer rkey off) := by
  unfold postRead
  repeat' first
    | with_reducible first | exact Keeps.refl _ | assumption | exact Sub.of hm rfl
    | dsimp only
    | with_reducible first
      | apply keeps_postMsg
    | split

theorem keeps_peerStall {msk : Nat} {s₀ : State} (s : State) (p : Nat) (peer : Nat) (hk : Keeps msk s₀ s) (hm : Sub 0xB2000000000 msk) : Keeps msk s₀ (peerStall s p peer) := by
  unfold peerStall
  repeat' first
    | with_reducible first | exact Keeps.refl _ | assumption | exact Sub.of hm rfl
    | dsimp only
    | with_reducible first
      | apply keeps_raise
    | split

theorem keeps_startPull {msk : Nat} {s₀ : State} (s : State) (j : PullJob) (hk : Keeps msk s₀ s) (hm : Sub 0xF2206002000 msk) : Keeps msk s₀ (startPull s j).2 := by
  unfold startPull
  repeat' first
    | with_reducible first | exact Keeps.refl _ | assumption | exact Sub.of hm rfl
    | dsimp only
    | with_reducible first
      | apply keeps_draw | apply keeps_newId | apply keeps_postRead | apply keeps_peerStall | refine keeps_of_pair (by assumption) ?_
    | with_reducible refine Keeps.upd_pulls ?_ (Sub.of hm rfl); first
        | exact Keeps.refl _ | assumption | apply keeps_draw | apply keeps_newId | apply keeps_postRead | apply keeps_peerStall
        | refine keeps_of_pair (by assumption) ?_
    | split

theorem keeps_waitForPull {msk : Nat} {s₀ : State} (s : State) (id : Nat) (r : Req) (n : Nat) (hk : Keeps msk s₀ s) (hm : Sub 0x1000 msk) : Keeps msk s₀ (waitForPull s id r n) := by
  unfold waitForPull
  repeat' first
    | with_reducible first | exact Keeps.refl _ | assumption | exact Sub.of hm rfl
    | dsimp only
    | with_reducible first
      | apply keeps_setReq
    | split

theorem keeps_failMoved {msk : Nat} {s₀ : State} (s : State) (id : Nat) (r : Req) (hk : Keeps msk s₀ s) (hm : Sub 0xBE0C647D601 msk) : Keeps msk s₀ (failMoved s id r) := by
  unfold failMoved
  repeat' first
    | with_reducible first | exact Keeps.refl _ | assumption | exact Sub.of hm rfl
    | dsimp only
    | with_reducible first
      | apply keeps_movedFail | apply keeps_failReq | refine keeps_of_pair (by assumption) ?_
    | split

theorem keeps_withShelf {msk : Nat} {s₀ : State} (s0 : State) (id : Nat) (r : Req) (k : ShelfKey) (found : State → Nat → Shelf → State) (absent : State → State) (h_found : ∀ a x0 x1, Keeps msk s₀ a → Keeps msk s₀ (found a x0 x1)) (h_absent : ∀ a, Keeps msk s₀ a → Keeps msk s₀ (absent a )) (hk : Keeps msk s₀ s0) (hm : Sub 0xFE3C6EFF701 msk) : Keeps msk s₀ (withShelf s0 id r k found absent) := by
  unfold withShelf
  repeat' first
    | with_reducible first | exact Keeps.refl _ | assumption | exact Sub.of hm rfl
    | dsimp only
    | with_reducible first
      | apply h_found | apply h_absent | apply keeps_failReq | apply keeps_pullFind | apply keeps_readDir | apply keeps_startPull
      | apply keeps_waitForPull | apply keeps_failMoved | refine keeps_of_pair (by assumption) ?_
    | split

theorem keeps_addWait {msk : Nat} {s₀ : State} (s : State) (w : AllocWait) (hk : Keeps msk s₀ s) (hm : Sub 0x100000 msk) : Keeps msk s₀ (addWait s w) := by
  unfold addWait
  repeat' first
    | with_reducible first | exact Keeps.refl _ | assumption | exact Sub.of hm rfl
    | dsimp only
    | with_reducible refine Keeps.upd_tiers ?_ (Sub.of hm rfl); first
        | exact Keeps.refl _ | assumption
    | split

theorem keeps_placeOrWait {msk : Nat} {s₀ : State} (s : State) (sh : Shelf) (i : Nat) (series : Nat) (idx : Nat) (hk : Keeps msk s₀ s) (hm : Sub 0x500000 msk) : Keeps msk s₀ (placeOrWait s sh i series idx).2 := by
  unfold placeOrWait
  repeat' first
    | with_reducible first | exact Keeps.refl _ | assumption | exact Sub.of hm rfl
    | dsimp only
    | with_reducible first
      | apply keeps_wipePlace | apply keeps_addWait
    | split

theorem keeps_releaseCopy {msk : Nat} {s₀ : State} (s : State) (l : Loc) (hk : Keeps msk s₀ s) (hm : Sub 0x200000 msk) : Keeps msk s₀ (releaseCopy s l) := by
  unfold releaseCopy
  repeat' first
    | with_reducible first | exact Keeps.refl _ | assumption | exact Sub.of hm rfl
    | dsimp only
    | with_reducible first
      | apply keeps_dropUnit
    | split

theorem keeps_readyDrawer {msk : Nat} {s₀ : State} (reuse : Bool) (i : Nat) (own : Nat) (acc : Bool × State) (k : Nat × Nat) (hk : Keeps msk s₀ acc.2) (hm : Sub 0xBE1C677D701 msk) : Keeps msk s₀ (readyDrawer reuse i own acc k).2 := by
  unfold readyDrawer
  repeat' first
    | with_reducible first | exact Keeps.refl _ | assumption | exact Sub.of hm rfl
    | dsimp only
    | with_reducible first
      | apply keeps_setShelf | apply keeps_dropUnit | apply keeps_wipePlace | apply keeps_damage | apply keeps_countRead | apply keeps_placeOrWait
      | refine keeps_of_pair (by assumption) ?_
    | split

theorem keeps_recordsIn {msk : Nat} {s₀ : State} (s : State) (i : Nat) (lo : Nat) (hi : Nat) (sh : Shelf) (d : Drawer) (new : List (List Byte)) (hk : Keeps msk s₀ s) (hm : Sub 0x200100 msk) : Keeps msk s₀ (recordsIn s i lo hi sh d new) := by
  unfold recordsIn
  repeat' first
    | with_reducible first | exact Keeps.refl _ | assumption | exact Sub.of hm rfl
    | dsimp only
    | with_reducible first
      | apply keeps_setShelf | apply keeps_dropUnit
    | split

theorem keeps_readSummary {msk : Nat} {s₀ : State} (s : State) (i : Nat) (k : Nat × Nat) (hk : Keeps msk s₀ s) (hm : Sub 0xBE1C6EFD701 msk) : Keeps msk s₀ (readSummary s i k) := by
  unfold readSummary
  repeat' first
    | with_reducible first | exact Keeps.refl _ | assumption | exact Sub.of hm rfl
    | dsimp only
    | with_reducible first
      | apply keeps_readUse | refine keeps_of_pair (by assumption) ?_
    | split

theorem keeps_putRecords {msk : Nat} {s₀ : State} (s0 : State) (i : Nat) (lo : Nat) (hi : Nat) (k : Nat × Nat) (new : List (List Byte)) (hk : Keeps msk s₀ s0) (hm : Sub 0xBE1C6EFD701 msk) : Keeps msk s₀ (putRecords s0 i lo hi k new) := by
  unfold putRecords
  repeat' first
    | with_reducible first | exact Keeps.refl _ | assumption | exact Sub.of hm rfl
    | dsimp only
    | with_reducible first
      | apply keeps_wroteSpan | apply keeps_damage | apply keeps_recordsIn | apply keeps_readSummary | refine keeps_of_pair (by assumption) ?_
    | split

theorem keeps_setAppend {msk : Nat} {s₀ : State} (s : State) (i : Nat) (n : Nat) (f : Append → Append) (hk : Keeps msk s₀ s) (hm : Sub 0x100 msk) : Keeps msk s₀ (setAppend s i n f) := by
  unfold setAppend
  repeat' first
    | with_reducible first | exact Keeps.refl _ | assumption | exact Sub.of hm rfl
    | dsimp only
    | with_reducible first
      | apply keeps_setShelf
    | split

theorem keeps_fillNext {msk : Nat} {s₀ : State} (reuse : Bool) (i : Nat) (n : Nat) (fmt : Nat) (src : List Byte) (acc : Bool × State) (k : Nat × Nat) (hk : Keeps msk s₀ acc.2) (hm : Sub 0xBE1C6FFD701 msk) : Keeps msk s₀ (fillNext reuse i n fmt src acc k).2 := by
  unfold fillNext
  repeat' first
    | with_reducible first | exact Keeps.refl _ | assumption | exact Sub.of hm rfl
    | dsimp only
    | with_reducible first
      | apply keeps_readyDrawer | apply keeps_putRecords | apply keeps_setAppend | refine keeps_of_pair (by assumption) ?_
    | split

theorem keeps_writeAppend {msk : Nat} {s₀ : State} (s : State) (i : Nat) (n : Nat) (reuse : Bool) (sh : Shelf) (a : Append) (r : Req) (hk : Keeps msk s₀ s) (hm : Sub 0xBE5C6FFD701 msk) : Keeps msk s₀ (writeAppend s i n reuse sh a r).2 := by
  unfold writeAppend
  repeat' first
    | with_reducible first | exact Keeps.refl _ | assumption | exact Sub.of hm rfl
    | dsimp only
    | with_reducible first
      | apply keeps_setReq | apply keeps_refRead | apply keeps_mirrorAppend | apply keeps_setAppend | apply keeps_fillNext
      | (apply keeps_foldl; intro _ _ _) | (apply keeps_foldl2; intro _ _ _) | refine keeps_of_pair (by assumption) ?_
    | split

theorem keeps_writeAppends {msk : Nat} {s₀ : State} (s : State) (i : Nat) (reuse : Bool) (n : Nat) (hk : Keeps msk s₀ s) (hm : Sub 0xBE5C6FFD701 msk) : Keeps msk s₀ (writeAppends s i reuse n) := by
  induction n generalizing s with
  | zero => unfold writeAppends; exact hk
  | succ n ih =>
    unfold writeAppends
    repeat' first
      | with_reducible first | exact Keeps.refl _ | assumption | exact Sub.of hm rfl
      | dsimp only
      | with_reducible first
        | apply ih | apply keeps_readyDrawer | apply keeps_writeAppend | refine keeps_of_pair (by assumption) ?_
      | split

theorem keeps_retryAppends {msk : Nat} {s₀ : State} (s : State) (i : Nat) (reuse : Bool) (hk : Keeps msk s₀ s) (hm : Sub 0xBE5C6FFD701 msk) : Keeps msk s₀ (retryAppends s i reuse) := by
  unfold retryAppends
  repeat' first
    | with_reducible first | exact Keeps.refl _ | assumption | exact Sub.of hm rfl
    | dsimp only
    | with_reducible first
      | apply keeps_writeAppends
    | split

theorem keeps_judgeAppend {msk : Nat} {s₀ : State} (made : Bool) (s : State) (id : Nat) (r : Req) (i : Nat) (sh : Shelf) (hk : Keeps msk s₀ s) (hm : Sub 0xBE5C6FFD701 msk) : Keeps msk s₀ (judgeAppend made s id r i sh) := by
  unfold judgeAppend
  repeat' first
    | with_reducible first | exact Keeps.refl _ | assumption | exact Sub.of hm rfl
    | dsimp only
    | with_reducible first
      | apply keeps_setReq | apply keeps_setShelf | apply keeps_takeCharge | apply keeps_complete | apply keeps_failReq | apply keeps_retryAppends
      | refine keeps_of_pair (by assumption) ?_
    | split

theorem keeps_appendFound {msk : Nat} {s₀ : State} (s : State) (id : Nat) (r : Req) (i : Nat) (sh : Shelf) (hk : Keeps msk s₀ s) (hm : Sub 0xBE5C6FFD701 msk) : Keeps msk s₀ (appendFound s id r i sh) := by
  unfold appendFound
  repeat' first
    | with_reducible first | exact Keeps.refl _ | assumption | exact Sub.of hm rfl
    | dsimp only
    | with_reducible first
      | apply keeps_setReq | apply keeps_setShelf | apply keeps_failReq | apply keeps_judgeAppend
    | split

theorem keeps_appendAbsent {msk : Nat} {s₀ : State} (s : State) (id : Nat) (r : Req) (hk : Keeps msk s₀ s) (hm : Sub 0xFE5C6FFF701 msk) : Keeps msk s₀ (appendAbsent s id r) := by
  unfold appendAbsent
  repeat' first
    | with_reducible first | exact Keeps.refl _ | assumption | exact Sub.of hm rfl
    | dsimp only
    | with_reducible first
      | apply keeps_takeCharge | apply keeps_failReq | apply keeps_createShelf | apply keeps_judgeAppend | refine keeps_of_pair (by assumption) ?_
    | split

theorem keeps_doAppend {msk : Nat} {s₀ : State} (s : State) (id : Nat) (r : Req) (hk : Keeps msk s₀ s) (hm : Sub 0xFE7C6FFF701 msk) : Keeps msk s₀ (doAppend s id r) := by
  unfold doAppend
  repeat' first
    | with_reducible first | exact Keeps.refl _ | assumption | exact Sub.of hm rfl
    | dsimp only
    | with_reducible first
      | apply keeps_failReq | refine keeps_withShelf _ _ _ _ _ _ (fun _ _ _ _ => ?_) (fun _ _ => ?_) ?_ (Sub.of hm rfl) | apply keeps_appendFound
      | apply keeps_appendAbsent
    | split

theorem keeps_execAppendKv {msk : Nat} {s₀ : State} (ring : Fin 4096) (s : State) (hk : Keeps msk s₀ s) (hm : Sub 0xFE7C6FFF701 msk) : KeepsR msk s₀ (execAppendKv ring s) := by
  unfold execAppendKv
  repeat' first
    | with_reducible first | exact Keeps.refl _ | assumption | exact Sub.of hm rfl
    | dsimp only
    | with_reducible first
      | apply KeepsR.next | refine keeps_admitOp _ _ _ _ (fun _ _ _ _ => ?_) ?_ (Sub.of hm rfl) | apply keeps_doAppend
    | split

theorem keeps_execRingSlotReuse {msk : Nat} {s₀ : State} (shelf : Nat) (s : State) (hk : Keeps msk s₀ s) (hm : Sub 0xBE5C6FFD701 msk) : KeepsR msk s₀ (execRingSlotReuse shelf s) := by
  unfold execRingSlotReuse
  repeat' first
    | with_reducible first | exact Keeps.refl _ | assumption | exact Sub.of hm rfl
    | dsimp only
    | with_reducible first
      | apply KeepsR.next | apply keeps_retryAppends
    | split

theorem keeps_execVisibleAdvance {msk : Nat} {s₀ : State} (shelf : Nat) (s : State) (hk : Keeps msk s₀ s) (hm : Sub 0xBE0C647D701 msk) : KeepsR msk s₀ (execVisibleAdvance shelf s) := by
  unfold execVisibleAdvance
  repeat' first
    | with_reducible first | exact Keeps.refl _ | assumption | exact Sub.of hm rfl
    | dsimp only
    | with_reducible first
      | apply KeepsR.next | apply keeps_setShelf | apply keeps_complete
    | split

theorem keeps_cutRecords {msk : Nat} {s₀ : State} (s : State) (i : Nat) (p : Nat) (mend : Bool) (hk : Keeps msk s₀ s) (hm : Sub 0x10000700100 msk) : Keeps msk s₀ (cutRecords s i p mend) := by
  unfold cutRecords
  repeat' first
    | with_reducible first | exact Keeps.refl _ | assumption | exact Sub.of hm rfl
    | dsimp only
    | with_reducible first
      | apply keeps_setShelf | apply keeps_dropUnit | apply keeps_freeDrawer | (apply keeps_foldl; intro _ _ _) | (apply keeps_foldl2; intro _ _ _)
    | split

theorem keeps_judgeTrim {msk : Nat} {s₀ : State} (s : State) (id : Nat) (r : Req) (i : Nat) (sh : Shelf) (hk : Keeps msk s₀ s) (hm : Sub 0xBE5C647D701 msk) : Keeps msk s₀ (judgeTrim s id r i sh) := by
  unfold judgeTrim
  repeat' first
    | with_reducible first | exact Keeps.refl _ | assumption | exact Sub.of hm rfl
    | dsimp only
    | with_reducible first
      | apply keeps_setReq | apply keeps_setShelf | apply keeps_complete | apply keeps_failReq | apply keeps_mirrorTrim
      | refine keeps_of_pair (by assumption) ?_
    | split

theorem keeps_trimFound {msk : Nat} {s₀ : State} (s : State) (id : Nat) (r : Req) (i : Nat) (sh : Shelf) (hk : Keeps msk s₀ s) (hm : Sub 0xBE5C647D701 msk) : Keeps msk s₀ (trimFound s id r i sh) := by
  unfold trimFound
  repeat' first
    | with_reducible first | exact Keeps.refl _ | assumption | exact Sub.of hm rfl
    | dsimp only
    | with_reducible first
      | apply keeps_setReq | apply keeps_setShelf | apply keeps_failReq | apply keeps_judgeTrim
    | split

theorem keeps_doTrim {msk : Nat} {s₀ : State} (s : State) (id : Nat) (r : Req) (hk : Keeps msk s₀ s) (hm : Sub 0xFE7C6EFF701 msk) : Keeps msk s₀ (doTrim s id r) := by
  unfold doTrim
  repeat' first
    | with_reducible first | exact Keeps.refl _ | assumption | exact Sub.of hm rfl
    | dsimp only
    | with_reducible first
      | apply keeps_failReq | refine keeps_withShelf _ _ _ _ _ _ (fun _ _ _ _ => ?_) (fun _ _ => ?_) ?_ (Sub.of hm rfl) | apply keeps_trimFound
    | split

theorem keeps_execTrimKv {msk : Nat} {s₀ : State} (ring : Fin 4096) (s : State) (hk : Keeps msk s₀ s) (hm : Sub 0xFE7C6EFF701 msk) : KeepsR msk s₀ (execTrimKv ring s) := by
  unfold execTrimKv
  repeat' first
    | with_reducible first | exact Keeps.refl _ | assumption | exact Sub.of hm rfl
    | dsimp only
    | with_reducible first
      | apply KeepsR.next | refine keeps_admitOp _ _ _ _ (fun _ _ _ _ => ?_) ?_ (Sub.of hm rfl) | apply keeps_doTrim
    | split

theorem keeps_releaseHeld {msk : Nat} {s₀ : State} (s : State) (i : Nat) (n : Nat) (hk : Keeps msk s₀ s) (hm : Sub 0xBE5C6FFD701 msk) : Keeps msk s₀ (releaseHeld s i n) := by
  induction n generalizing s with
  | zero => unfold releaseHeld; exact hk
  | succ n ih =>
    unfold releaseHeld
    repeat' first
      | with_reducible first | exact Keeps.refl _ | assumption | exact Sub.of hm rfl
      | dsimp only
      | with_reducible first
        | apply ih | apply keeps_setShelf | apply keeps_judgeAppend | apply keeps_judgeTrim
      | split

theorem keeps_execTrimSetEnd {msk : Nat} {s₀ : State} (shelf : Nat) (s : State) (hk : Keeps msk s₀ s) (hm : Sub 0xBE5C6FFD701 msk) : KeepsR msk s₀ (execTrimSetEnd shelf s) := by
  unfold execTrimSetEnd
  repeat' first
    | with_reducible first | exact Keeps.refl _ | assumption | exact Sub.of hm rfl
    | dsimp only
    | with_reducible first
      | apply KeepsR.next | apply keeps_setShelf | apply keeps_failReq | apply keeps_mirrorTrim | apply keeps_releaseHeld
      | refine keeps_of_pair (by assumption) ?_
    | split

theorem keeps_trimCab {msk : Nat} {s₀ : State} (i : Nat) (p : Nat) (acc : Bool × State) (k : Nat × Nat) (hk : Keeps msk s₀ acc.2) (hm : Sub 0xFE1C677D701 msk) : Keeps msk s₀ (trimCab i p acc k).2 := by
  unfold trimCab
  repeat' first
    | with_reducible first | exact Keeps.refl _ | assumption | exact Sub.of hm rfl
    | dsimp only
    | with_reducible first
      | apply keeps_dropUnit | apply keeps_damage | apply keeps_countRead | apply keeps_storeDrawer | apply keeps_relocate | apply keeps_touch
      | apply keeps_freeTierPlace | refine keeps_of_pair (by assumption) ?_
    | split

theorem keeps_execTrimTailComplete {msk : Nat} {s₀ : State} (shelf : Nat) (s : State) (hk : Keeps msk s₀ s) (hm : Sub 0xFE5C6FFD701 msk) : KeepsR msk s₀ (execTrimTailComplete shelf s) := by
  unfold execTrimTailComplete
  repeat' first
    | with_reducible first | exact Keeps.refl _ | assumption | exact Sub.of hm rfl
    | dsimp only
    | with_reducible first
      | apply KeepsR.next | apply keeps_setShelf | apply keeps_complete | apply keeps_retryAppends | apply keeps_cutRecords | apply keeps_trimCab
      | (apply keeps_foldl; intro _ _ _) | (apply keeps_foldl2; intro _ _ _) | refine keeps_of_pair (by assumption) ?_
    | split

theorem keeps_execHeadTrimFree {msk : Nat} {s₀ : State} (shelf : Nat) (s : State) (hk : Keeps msk s₀ s) (hm : Sub 0x10000700100 msk) : KeepsR msk s₀ (execHeadTrimFree shelf s) := by
  unfold execHeadTrimFree
  repeat' first
    | with_reducible first | exact Keeps.refl _ | assumption | exact Sub.of hm rfl
    | dsimp only
    | with_reducible first
      | apply KeepsR.next | apply keeps_setShelf | apply keeps_freeDrawer | (apply keeps_foldl; intro _ _ _) | (apply keeps_foldl2; intro _ _ _)
    | split

theorem keeps_dropOne {msk : Nat} {s₀ : State} (s : State) (i : Nat) (hk : Keeps msk s₀ s) (hm : Sub 0xBE5C657D701 msk) : Keeps msk s₀ (dropOne s i) := by
  unfold dropOne
  repeat' first
    | with_reducible first | exact Keeps.refl _ | assumption | exact Sub.of hm rfl
    | dsimp only
    | with_reducible first
      | apply keeps_setShelf | apply keeps_skipLifts | apply keeps_dropEntry | apply keeps_mirrorDrop | apply keeps_endShelfOps
    | split

theorem keeps_undoAppend {msk : Nat} {s₀ : State} (s : State) (i : Nat) (a : Append) (hk : Keeps msk s₀ s) (hm : Sub 0xBE5C677D701 msk) : Keeps msk s₀ (undoAppend s i a) := by
  unfold undoAppend
  repeat' first
    | with_reducible first | exact Keeps.refl _ | assumption | exact Sub.of hm rfl
    | dsimp only
    | with_reducible first
      | apply keeps_cutRecords | apply keeps_dropOne
    | split

theorem keeps_execFailedAppend {msk : Nat} {s₀ : State} (shelf : Nat) (s : State) (hk : Keeps msk s₀ s) (hm : Sub 0xBE5C677D701 msk) : KeepsR msk s₀ (execFailedAppend shelf s) := by
  unfold execFailedAppend
  repeat' first
    | with_reducible first | exact Keeps.refl _ | assumption | exact Sub.of hm rfl
    | dsimp only
    | with_reducible first
      | apply KeepsR.next | apply keeps_setShelf | apply keeps_failReq | apply keeps_undoAppend | (apply keeps_foldl; intro _ _ _)
      | (apply keeps_foldl2; intro _ _ _)
    | split

theorem keeps_doDrop {msk : Nat} {s₀ : State} (s : State) (id : Nat) (r : Req) (hk : Keeps msk s₀ s) (hm : Sub 0xBE5C6FFD701 msk) : Keeps msk s₀ (doDrop s id r) := by
  unfold doDrop
  repeat' first
    | with_reducible first | exact Keeps.refl _ | assumption | exact Sub.of hm rfl
    | dsimp only
    | with_reducible first
      | apply keeps_complete | apply keeps_failReq | apply keeps_endShelfOps | apply keeps_readDir | apply keeps_dropOne
      | (apply keeps_foldl; intro _ _ _) | (apply keeps_foldl2; intro _ _ _)
    | with_reducible refine Keeps.upd_dir_tiers ?_ (Sub.of hm rfl); first
        | exact Keeps.refl _ | assumption | apply keeps_complete | apply keeps_failReq | apply keeps_endShelfOps | apply keeps_readDir
        | apply keeps_dropOne | (apply keeps_foldl; intro _ _ _) | (apply keeps_foldl2; intro _ _ _)
    | split

theorem keeps_execDropShelf {msk : Nat} {s₀ : State} (ring : Fin 4096) (s : State) (hk : Keeps msk s₀ s) (hm : Sub 0xBE5C6FFF701 msk) : KeepsR msk s₀ (execDropShelf ring s) := by
  unfold execDropShelf
  repeat' first
    | with_reducible first | exact Keeps.refl _ | assumption | exact Sub.of hm rfl
    | dsimp only
    | with_reducible first
      | apply KeepsR.next | refine keeps_admitOp _ _ _ _ (fun _ _ _ _ => ?_) ?_ (Sub.of hm rfl) | apply keeps_doDrop
    | split

theorem keeps_execDropFree {msk : Nat} {s₀ : State} (shelf : Nat) (s : State) (hk : Keeps msk s₀ s) (hm : Sub 0x10000700100 msk) : KeepsR msk s₀ (execDropFree shelf s) := by
  unfold execDropFree
  repeat' first
    | with_reducible first | exact Keeps.refl _ | assumption | exact Sub.of hm rfl
    | dsimp only
    | with_reducible first
      | apply KeepsR.next | apply keeps_freeAll | apply keeps_dropEntry
    | split

theorem keeps_execConvScanEnd {msk : Nat} {s₀ : State} (die : Fin 4) (mark : Nat) (s : State) (hk : Keeps msk s₀ s) (hm : Sub 0xBE5C657D701 msk) : KeepsR msk s₀ (execConvScanEnd die mark s) := by
  unfold execConvScanEnd
  repeat' first
    | with_reducible first | exact Keeps.refl _ | assumption | exact Sub.of hm rfl
    | dsimp only
    | with_reducible first
      | apply KeepsR.next | apply keeps_dropOne | (apply keeps_foldl; intro _ _ _) | (apply keeps_foldl2; intro _ _ _)
    | with_reducible refine Keeps.upd_dir ?_ (Sub.of hm rfl); first
        | exact Keeps.refl _ | assumption | apply keeps_dropOne | (apply keeps_foldl; intro _ _ _) | (apply keeps_foldl2; intro _ _ _)
    | split

theorem keeps_deliver {msk : Nat} {s₀ : State} (s : State) (id : Nat) (r : Req) (status : Nat) (i0 : Nat) (i1 : Nat) (i2 : Nat) (i3 : Nat) (roff : Nat) (imm : Nat) (block : List Byte) (hk : Keeps msk s₀ s) (hm : Sub 0xBE0C647D601 msk) : Keeps msk s₀ (deliver s id r status i0 i1 i2 i3 roff imm block) := by
  unfold deliver
  repeat' first
    | with_reducible first | exact Keeps.refl _ | assumption | exact Sub.of hm rfl
    | dsimp only
    | with_reducible first
      | apply keeps_refWrite | apply keeps_postMsg | apply keeps_complete
    | split

theorem keeps_queueLift {msk : Nat} {s₀ : State} (s : State) (l : Lift) (hk : Keeps msk s₀ s) (hm : Sub 0x10000100000 msk) : Keeps msk s₀ (queueLift s l) := by
  unfold queueLift
  repeat' first
    | with_reducible first | exact Keeps.refl _ | assumption | exact Sub.of hm rfl
    | dsimp only
    | with_reducible first
      | apply keeps_bump
    | with_reducible refine Keeps.upd_tiers ?_ (Sub.of hm rfl); first
        | exact Keeps.refl _ | assumption | apply keeps_bump
    | split

theorem keeps_prefetch {msk : Nat} {s₀ : State} (s : State) (die : Nat) (k : ShelfKey) (hk : Keeps msk s₀ s) (hm : Sub 0x10000100000 msk) : Keeps msk s₀ (prefetch s die k) := by
  unfold prefetch
  repeat' first
    | with_reducible first | exact Keeps.refl _ | assumption | exact Sub.of hm rfl
    | dsimp only
    | with_reducible first
      | apply keeps_queueLift | (apply keeps_foldl; intro _ _ _) | (apply keeps_foldl2; intro _ _ _)
    | with_reducible refine Keeps.upd_tiers ?_ (Sub.of hm rfl); first
        | exact Keeps.refl _ | assumption | apply keeps_queueLift | (apply keeps_foldl; intro _ _ _) | (apply keeps_foldl2; intro _ _ _)
    | split

theorem keeps_finishAttend {msk : Nat} {s₀ : State} (s : State) (id : Nat) (r : Req) (i : Nat) (sh : Shelf) (status : Nat) (order : Nat) (eps : List F32) (hk : Keeps msk s₀ s) (hm : Sub 0xBE0C647D701 msk) : Keeps msk s₀ (finishAttend s id r i sh status order eps) := by
  unfold finishAttend
  repeat' first
    | with_reducible first | exact Keeps.refl _ | assumption | exact Sub.of hm rfl
    | dsimp only
    | with_reducible first
      | apply keeps_setShelf | apply keeps_deliver
    | split

theorem keeps_readSums {msk : Nat} {s₀ : State} (s : State) (i : Nat) (hk : Keeps msk s₀ s) (hm : Sub 0xBE1C6EFD701 msk) : Keeps msk s₀ (readSums s i) := by
  unfold readSums
  repeat' first
    | with_reducible first | exact Keeps.refl _ | assumption | exact Sub.of hm rfl
    | dsimp only
    | with_reducible first
      | apply keeps_readUse | refine keeps_of_pair (by assumption) ?_
    | split

theorem keeps_attendFound {msk : Nat} {s₀ : State} (s : State) (id : Nat) (r0 : Req) (i : Nat) (sh : Shelf) (hk : Keeps msk s₀ s) (hm : Sub 0xBE1C6FFD701 msk) : Keeps msk s₀ (attendFound s id r0 i sh) := by
  unfold attendFound
  repeat' first
    | with_reducible first | exact Keeps.refl _ | assumption | exact Sub.of hm rfl
    | dsimp only
    | with_reducible first
      | apply keeps_setReq | apply keeps_refRead | apply keeps_failReq | apply keeps_prefetch | apply keeps_finishAttend | apply keeps_readSums
      | refine keeps_of_pair (by assumption) ?_
    | split

theorem keeps_doAttend {msk : Nat} {s₀ : State} (s : State) (id : Nat) (r : Req) (hk : Keeps msk s₀ s) (hm : Sub 0xFE3C6FFF701 msk) : Keeps msk s₀ (doAttend s id r) := by
  unfold doAttend
  repeat' first
    | with_reducible first | exact Keeps.refl _ | assumption | exact Sub.of hm rfl
    | dsimp only
    | with_reducible first
      | apply keeps_failReq | refine keeps_withShelf _ _ _ _ _ _ (fun _ _ _ _ => ?_) (fun _ _ => ?_) ?_ (Sub.of hm rfl) | apply keeps_attendFound
    | split

theorem keeps_execAttend {msk : Nat} {s₀ : State} (ring : Fin 4096) (s : State) (hk : Keeps msk s₀ s) (hm : Sub 0xFE3C6FFF701 msk) : KeepsR msk s₀ (execAttend ring s) := by
  unfold execAttend
  repeat' first
    | with_reducible first | exact Keeps.refl _ | assumption | exact Sub.of hm rfl
    | dsimp only
    | with_reducible first
      | apply KeepsR.next | refine keeps_admitOp _ _ _ _ (fun _ _ _ _ => ?_) ?_ (Sub.of hm rfl) | apply keeps_doAttend
    | split

theorem keeps_yieldThread {msk : Nat} {s₀ : State} (s : State) (tile : Nat) (hk : Keeps msk s₀ s) (hm : Sub 0x1000 msk) : Keeps msk s₀ (yieldThread s tile) := by
  unfold yieldThread
  repeat' first
    | with_reducible first | exact Keeps.refl _ | assumption | exact Sub.of hm rfl
    | dsimp only
    | with_reducible first
      | apply keeps_setReq
    | split

theorem keeps_reformSummary {msk : Nat} {s₀ : State} (s : State) (i : Nat) (series : Nat) (idx : Nat) (lo : Nat) (snap : Nat) (hk : Keeps msk s₀ s) (hm : Sub 0x400100 msk) : Keeps msk s₀ (reformSummary s i series idx lo snap) := by
  unfold reformSummary
  repeat' first
    | with_reducible first | exact Keeps.refl _ | assumption | exact Sub.of hm rfl
    | dsimp only
    | with_reducible first
      | apply keeps_setShelf | apply keeps_wroteUse
    | split

theorem keeps_runIntegrity {msk : Nat} {s₀ : State} (s : State) (id : Nat) (r : Req) (i : Nat) (tile : Nat) (where_ : Nat × Nat ⊕ Nat) (hk : Keeps msk s₀ s) (hm : Sub 0xBE1C64FD701 msk) : Keeps msk s₀ (runIntegrity s id r i tile where_) := by
  unfold runIntegrity
  repeat' first
    | with_reducible first | exact Keeps.refl _ | assumption | exact Sub.of hm rfl
    | dsimp only
    | with_reducible first
      | apply keeps_raise | apply keeps_damage | apply keeps_endAttend
    | split

theorem keeps_demandRead {msk : Nat} {s₀ : State} (s : State) (i : Nat) (k : Nat × Nat) (hk : Keeps msk s₀ s) (hm : Sub 0xB2006000100 msk) : Keeps msk s₀ (demandRead s i k) := by
  unfold demandRead
  repeat' first
    | with_reducible first | exact Keeps.refl _ | assumption | exact Sub.of hm rfl
    | dsimp only
    | with_reducible first
      | apply keeps_setShelf | apply keeps_postRead | apply keeps_peerStall
    | split

theorem keeps_startTiles {msk : Nat} {s₀ : State} (s : State) (id : Nat) (r : Req) (i : Nat) (sh : Shelf) (n : Nat) (x0 : Run) (hk : Keeps msk s₀ s) (hm : Sub 0xBE1C64FD701 msk) : Keeps msk s₀ (startTiles s id r i sh n x0) := by
  unfold startTiles
  repeat' first
    | with_reducible first | exact Keeps.refl _ | assumption | exact Sub.of hm rfl
    | dsimp only
    | with_reducible first
      | apply keeps_setReq | apply keeps_readDrawers | apply keeps_touch | apply keeps_reformSummary | apply keeps_runIntegrity
      | apply keeps_demandRead | (apply keeps_foldl; intro _ _ _) | (apply keeps_foldl2; intro _ _ _) | refine keeps_of_pair (by assumption) ?_
    | split

theorem keeps_drawSeg {msk : Nat} {s₀ : State} (s : State) (p : Nat) (k : Nat) (hk : Keeps msk s₀ s) (hm : Sub 0x40000000000 msk) : Keeps msk s₀ (drawSeg s p k).2 := by
  unfold drawSeg
  repeat' first
    | with_reducible first | exact Keeps.refl _ | assumption | exact Sub.of hm rfl
    | dsimp only
    | with_reducible first
      | apply keeps_draw | refine keeps_of_pair (by assumption) ?_
    | split

theorem keeps_startBooths {msk : Nat} {s₀ : State} (s : State) (id : Nat) (r : Req) (i : Nat) (sh : Shelf) (n : Nat) (x0 : Run) (f : Nat) (script : Nat) (slot : Nat) (have_ : Bool) (hk : Keeps msk s₀ s) (hm : Sub 0xB20060C1100 msk) : Keeps msk s₀ (startBooths s id r i sh n x0 f script slot have_) := by
  unfold startBooths
  repeat' first
    | with_reducible first | exact Keeps.refl _ | assumption | exact Sub.of hm rfl
    | dsimp only
    | with_reducible first
      | apply keeps_setBooth | apply keeps_setFstack | apply keeps_setReq | apply keeps_touch | apply keeps_demandRead
      | (apply keeps_foldl; intro _ _ _) | (apply keeps_foldl2; intro _ _ _)
    | split

theorem keeps_passTurn {msk : Nat} {s₀ : State} (s : State) (p : Nat) (die : Nat) (b : Nat) (urgent : Bool) (hk : Keeps msk s₀ s) (hm : Sub 0x80 msk) : Keeps msk s₀ (passTurn s p die b urgent) := by
  unfold passTurn
  repeat' first
    | with_reducible first | exact Keeps.refl _ | assumption | exact Sub.of hm rfl
    | dsimp only
    | with_reducible refine Keeps.upd_sched ?_ (Sub.of hm rfl); first
        | exact Keeps.refl _ | assumption
    | split

theorem keeps_handOver {msk : Nat} {s₀ : State} (s : State) (id : Nat) (r : Req) (run : Nat) (die : Nat) (hk : Keeps msk s₀ s) (hm : Sub 0x1080 msk) : Keeps msk s₀ (handOver s id r run die) := by
  unfold handOver
  repeat' first
    | with_reducible first | exact Keeps.refl _ | assumption | exact Sub.of hm rfl
    | dsimp only
    | with_reducible first
      | apply keeps_setReq
    | with_reducible refine Keeps.upd_sched ?_ (Sub.of hm rfl); first
        | exact Keeps.refl _ | assumption | apply keeps_setReq
    | split

theorem keeps_startRun {msk : Nat} {s₀ : State} (s : State) (req : Nat) (r : Req) (i : Nat) (sh : Shelf) (run : Nat) (x : Run) (b : Nat) (tile : Nat) (hk : Keeps msk s₀ s) (hm : Sub 0xFE1C64FD7C1 msk) : Keeps msk s₀ (startRun s req r i sh run x b tile) := by
  unfold startRun
  repeat' first
    | with_reducible first | exact Keeps.refl _ | assumption | exact Sub.of hm rfl
    | dsimp only
    | with_reducible first
      | apply keeps_bump | apply keeps_yieldThread | apply keeps_startTiles | apply keeps_drawSeg | apply keeps_startBooths | apply keeps_passTurn
      | refine keeps_of_pair (by assumption) ?_
    | with_reducible refine Keeps.upd_tileTag ?_ (Sub.of hm rfl); first
        | exact Keeps.refl _ | assumption | apply keeps_bump | apply keeps_yieldThread | apply keeps_startTiles | apply keeps_drawSeg
        | apply keeps_startBooths | apply keeps_passTurn | refine keeps_of_pair (by assumption) ?_
    | split

theorem keeps_dispatchRun {msk : Nat} {s₀ : State} (s : State) (req : Nat) (r : Req) (run : Nat) (tile : Nat) (hk : Keeps msk s₀ s) (hm : Sub 0xFE1C64FD7C1 msk) : Keeps msk s₀ (dispatchRun s req r run tile) := by
  unfold dispatchRun
  repeat' first
    | with_reducible first | exact Keeps.refl _ | assumption | exact Sub.of hm rfl
    | dsimp only
    | with_reducible first
      | apply keeps_endAttend | apply keeps_passTurn | apply keeps_handOver | apply keeps_startRun
    | split

theorem keeps_execBucketWaitExceeded {msk : Nat} {s₀ : State} (req : Nat) (s : State) (hk : Keeps msk s₀ s) (hm : Sub 0x1000 msk) : KeepsR msk s₀ (execBucketWaitExceeded req s) := by
  unfold execBucketWaitExceeded
  repeat' first
    | with_reducible first | exact Keeps.refl _ | assumption | exact Sub.of hm rfl
    | dsimp only
    | with_reducible first
      | apply KeepsR.next | apply keeps_setReq
    | split

theorem keeps_sheetFailure {msk : Nat} {s₀ : State} (s : State) (id : Nat) (r : Req) (cluster : Nat) (hk : Keeps msk s₀ s) (hm : Sub 0xBE0C64FD601 msk) : Keeps msk s₀ (sheetFailure s id r cluster) := by
  unfold sheetFailure
  repeat' first
    | with_reducible first | exact Keeps.refl _ | assumption | exact Sub.of hm rfl
    | dsimp only
    | with_reducible first
      | apply keeps_bump | apply keeps_setReq | apply keeps_raise | apply keeps_failReq | apply keeps_dropReqJobs
    | split

theorem keeps_execScoreSheetFailure {msk : Nat} {s₀ : State} (req : Nat) (s : State) (hk : Keeps msk s₀ s) (hm : Sub 0xFE0C64FD601 msk) : KeepsR msk s₀ (execScoreSheetFailure req s) := by
  unfold execScoreSheetFailure
  repeat' first
    | with_reducible first | exact Keeps.refl _ | assumption | exact Sub.of hm rfl
    | dsimp only
    | with_reducible first
      | apply KeepsR.next | apply keeps_draw | apply keeps_sheetFailure | refine keeps_of_pair (by assumption) ?_
    | split

theorem keeps_readSegment {msk : Nat} {s₀ : State} (s : State) (req : Nat) (run : Nat) (x : Run) (hk : Keeps msk s₀ s) (hm : Sub 0xBE1C6EFD701 msk) : Keeps msk s₀ (readSegment s req run x).2 := by
  unfold readSegment
  repeat' first
    | with_reducible first | exact Keeps.refl _ | assumption | exact Sub.of hm rfl
    | dsimp only
    | with_reducible first
      | apply keeps_readUse | refine keeps_of_pair (by assumption) ?_
    | split

theorem keeps_execPassN {msk : Nat} {s₀ : State} (req : Nat) (it : RunAt) (s : State) (hk : Keeps msk s₀ s) (hm : Sub 0xBE1C6EFD701 msk) : KeepsR msk s₀ (execPassN req it s) := by
  unfold execPassN
  repeat' first
    | with_reducible first | exact Keeps.refl _ | assumption | exact Sub.of hm rfl
    | dsimp only
    | with_reducible first
      | apply KeepsR.next | apply keeps_setReq | apply keeps_endAttend | apply keeps_sheetFailure | apply keeps_readSegment
      | refine keeps_of_pair (by assumption) ?_
    | split

theorem keeps_passVDone {msk : Nat} {s₀ : State} (s : State) (req : Nat) (run : Nat) (r : Req) (i : Nat) (sh : Shelf) (x : Run) (vs : List Drawer) (hk : Keeps msk s₀ s) (hm : Sub 0xBA0C247D701 msk) : Keeps msk s₀ (passVDone s req run r i sh x vs) := by
  unfold passVDone
  repeat' first
    | with_reducible first | exact Keeps.refl _ | assumption | exact Sub.of hm rfl
    | dsimp only
    | with_reducible first
      | apply keeps_bump | apply keeps_setReq | apply keeps_captScores | apply keeps_touch | (apply keeps_foldl; intro _ _ _)
      | (apply keeps_foldl2; intro _ _ _) | refine keeps_of_pair (by assumption) ?_
    | split

theorem keeps_execPassV {msk : Nat} {s₀ : State} (req : Nat) (it : RunAt) (s : State) (hk : Keeps msk s₀ s) (hm : Sub 0xBE1C6EFD701 msk) : KeepsR msk s₀ (execPassV req it s) := by
  unfold execPassV
  repeat' first
    | with_reducible first | exact Keeps.refl _ | assumption | exact Sub.of hm rfl
    | dsimp only
    | with_reducible first
      | apply KeepsR.next | apply keeps_readDrawers | apply keeps_endAttend | apply keeps_runIntegrity | apply keeps_sheetFailure
      | apply keeps_readSegment | apply keeps_passVDone | refine keeps_of_pair (by assumption) ?_
    | split

theorem keeps_execNetLoopCheck {msk : Nat} {s₀ : State} (req : Nat) (s : State) (hk : Keeps msk s₀ s) (hm : Sub 0xFE1C6EFD701 msk) : KeepsR msk s₀ (execNetLoopCheck req s) := by
  unfold execNetLoopCheck
  repeat' first
    | with_reducible first | exact Keeps.refl _ | assumption | exact Sub.of hm rfl
    | dsimp only
    | with_reducible first
      | apply KeepsR.next | apply keeps_draw | apply keeps_setReq | apply keeps_readSums | (apply keeps_foldl; intro _ _ _)
      | (apply keeps_foldl2; intro _ _ _) | refine keeps_of_pair (by assumption) ?_
    | split

theorem keeps_execCombine {msk : Nat} {s₀ : State} (req : Nat) (s : State) (hk : Keeps msk s₀ s) (hm : Sub 0xFE0C647D701 msk) : KeepsR msk s₀ (execCombine req s) := by
  unfold execCombine
  repeat' first
    | with_reducible first | exact Keeps.refl _ | assumption | exact Sub.of hm rfl
    | dsimp only
    | with_reducible first
      | apply KeepsR.next | apply keeps_draw | apply keeps_finishAttend | refine keeps_of_pair (by assumption) ?_
    | split

theorem keeps_mergeInputs {msk : Nat} {s₀ : State} (s : State) (r : Req) (n : Nat) (hk : Keeps msk s₀ s) (hm : Sub 0xB2000420000 msk) : Keeps msk s₀ (mergeInputs s r n).2 := by
  induction n generalizing s with
  | zero => unfold mergeInputs; exact hk
  | succ n ih =>
    unfold mergeInputs
    repeat' first
      | with_reducible first | exact Keeps.refl _ | assumption | exact Sub.of hm rfl
      | dsimp only
      | with_reducible first
        | apply ih | apply keeps_refRead | refine keeps_of_pair (by assumption) ?_
      | split

theorem keeps_doMerge {msk : Nat} {s₀ : State} (s : State) (id : Nat) (r : Req) (hk : Keeps msk s₀ s) (hm : Sub 0xFE0C647D601 msk) : Keeps msk s₀ (doMerge s id r) := by
  unfold doMerge
  repeat' first
    | with_reducible first | exact Keeps.refl _ | assumption | exact Sub.of hm rfl
    | dsimp only
    | with_reducible first
      | apply keeps_draw | apply keeps_failReq | apply keeps_deliver | apply keeps_mergeInputs | refine keeps_of_pair (by assumption) ?_
    | split

theorem keeps_execMerge {msk : Nat} {s₀ : State} (ring : Fin 4096) (s : State) (hk : Keeps msk s₀ s) (hm : Sub 0xFE0C647F601 msk) : KeepsR msk s₀ (execMerge ring s) := by
  unfold execMerge
  repeat' first
    | with_reducible first | exact Keeps.refl _ | assumption | exact Sub.of hm rfl
    | dsimp only
    | with_reducible first
      | apply KeepsR.next | refine keeps_admitOp _ _ _ _ (fun _ _ _ _ => ?_) ?_ (Sub.of hm rfl) | apply keeps_doMerge
    | split

theorem keeps_execBoothJobStart {msk : Nat} {s₀ : State} (booth : Fin 4096) (s : State) (hk : Keeps msk s₀ s) (hm : Sub 0x40000 msk) : KeepsR msk s₀ (execBoothJobStart booth s) := by
  unfold execBoothJobStart
  repeat' first
    | with_reducible first | exact Keeps.refl _ | assumption | exact Sub.of hm rfl
    | dsimp only
    | with_reducible first
      | apply KeepsR.next | apply keeps_setBooth
    | split

theorem keeps_issueRefresh {msk : Nat} {s₀ : State} (s : State) (f : Nat) (die : Nat) (hk : Keeps msk s₀ s) (hm : Sub 0x80000 msk) : Keeps msk s₀ (issueRefresh s f die) := by
  unfold issueRefresh
  repeat' first
    | with_reducible first | exact Keeps.refl _ | assumption | exact Sub.of hm rfl
    | dsimp only
    | with_reducible first
      | apply keeps_setFstack
    | split

theorem keeps_putBooth {msk : Nat} {s₀ : State} (s : State) (b : Nat) (y : Booth) (hk : Keeps msk s₀ s) (hm : Sub 0xC0000 msk) : Keeps msk s₀ (putBooth s b y) := by
  unfold putBooth
  repeat' first
    | with_reducible first | exact Keeps.refl _ | assumption | exact Sub.of hm rfl
    | dsimp only
    | with_reducible first
      | apply keeps_setBooth | apply keeps_freeSlots | apply keeps_issueRefresh
    | split

theorem keeps_uop {msk : Nat} {s₀ : State} (op : Nat) (b : Nat) (s : State) (k : State → Booth → Job → Nat → State) (h_k : ∀ a x0 x1 x2, Keeps msk s₀ a → Keeps msk s₀ (k a x0 x1 x2)) (hk : Keeps msk s₀ s) (_hm : Sub 0x0 msk) : Keeps msk s₀ (uop op b s k) := by
  unfold uop
  repeat' first
    | with_reducible first | exact Keeps.refl _ | assumption | exact Sub.of hm rfl
    | dsimp only
    | with_reducible first
      | apply h_k
    | split

theorem keeps_execUopNop {msk : Nat} {s₀ : State} (booth : Fin 4096) (s : State) (hk : Keeps msk s₀ s) (hm : Sub 0xC0000 msk) : KeepsR msk s₀ (execUopNop booth s) := by
  unfold execUopNop
  repeat' first
    | with_reducible first | exact Keeps.refl _ | assumption | exact Sub.of hm rfl
    | dsimp only
    | with_reducible first
      | apply KeepsR.next | apply keeps_putBooth | refine keeps_uop _ _ _ _ (fun _ _ _ _ _ => ?_) ?_ (Sub.of hm rfl)
    | split

theorem keeps_execUopAct {msk : Nat} {s₀ : State} (booth : Fin 4096) (s : State) (hk : Keeps msk s₀ s) (hm : Sub 0xC0000 msk) : KeepsR msk s₀ (execUopAct booth s) := by
  unfold execUopAct
  repeat' first
    | with_reducible first | exact Keeps.refl _ | assumption | exact Sub.of hm rfl
    | dsimp only
    | with_reducible first
      | apply KeepsR.next | apply keeps_putBooth | refine keeps_uop _ _ _ _ (fun _ _ _ _ _ => ?_) ?_ (Sub.of hm rfl)
    | split

theorem keeps_columnUnit {msk : Nat} {s₀ : State} (s : State) (q : Place) (u : Nat) (hk : Keeps msk s₀ s) (hm : Sub 0x40000000000 msk) : Keeps msk s₀ (columnUnit s q u).2 := by
  unfold columnUnit
  repeat' first
    | with_reducible first | exact Keeps.refl _ | assumption | exact Sub.of hm rfl
    | dsimp only
    | with_reducible first
      | apply keeps_drawBytes | refine keeps_of_pair (by assumption) ?_
    | split

theorem keeps_keyUncorr {msk : Nat} {s₀ : State} (s : State) (b : Nat) (y : Booth) (j : Job) (line : Nat) (hk : Keeps msk s₀ s) (hm : Sub 0xBE1C64FD701 msk) : Keeps msk s₀ (keyUncorr s b y j line) := by
  unfold keyUncorr
  repeat' first
    | with_reducible first | exact Keeps.refl _ | assumption | exact Sub.of hm rfl
    | dsimp only
    | with_reducible first
      | apply keeps_bump | apply keeps_raise | apply keeps_damage | apply keeps_dropJobs | apply keeps_runIntegrity | apply keeps_putBooth
    | split

theorem keeps_boothLine {msk : Nat} {s₀ : State} (s : State) (f : Nat) (line : Nat) (hk : Keeps msk s₀ s) (hm : Sub 0xB2000420000 msk) : Keeps msk s₀ (boothLine s f line).2 := by
  unfold boothLine
  repeat' first
    | with_reducible first | exact Keeps.refl _ | assumption | exact Sub.of hm rfl
    | dsimp only
    | with_reducible first
      | apply keeps_bump | apply keeps_lineUncorr | apply keeps_readOnce | apply keeps_readLine | refine keeps_of_pair (by assumption) ?_
    | split

theorem keeps_execUopRd {msk : Nat} {s₀ : State} (booth : Fin 4096) (s : State) (hk : Keeps msk s₀ s) (hm : Sub 0xFE1C64FD701 msk) : KeepsR msk s₀ (execUopRd booth s) := by
  unfold execUopRd
  repeat' first
    | with_reducible first | exact Keeps.refl _ | assumption | exact Sub.of hm rfl
    | dsimp only
    | with_reducible first
      | apply KeepsR.next | apply keeps_putBooth | refine keeps_uop _ _ _ _ (fun _ _ _ _ _ => ?_) ?_ (Sub.of hm rfl) | apply keeps_columnUnit
      | apply keeps_keyUncorr | apply keeps_boothLine | refine keeps_of_pair (by assumption) ?_
    | split

theorem keeps_execUopExp {msk : Nat} {s₀ : State} (booth : Fin 4096) (s : State) (hk : Keeps msk s₀ s) (hm : Sub 0xB20000C0000 msk) : KeepsR msk s₀ (execUopExp booth s) := by
  unfold execUopExp
  repeat' first
    | with_reducible first | exact Keeps.refl _ | assumption | exact Sub.of hm rfl
    | dsimp only
    | with_reducible first
      | apply KeepsR.next | apply keeps_raise | apply keeps_putBooth | refine keeps_uop _ _ _ _ (fun _ _ _ _ _ => ?_) ?_ (Sub.of hm rfl)
    | split

theorem keeps_execUopDotg {msk : Nat} {s₀ : State} (booth : Fin 4096) (s : State) (hk : Keeps msk s₀ s) (hm : Sub 0xC0000 msk) : KeepsR msk s₀ (execUopDotg booth s) := by
  unfold execUopDotg
  repeat' first
    | with_reducible first | exact Keeps.refl _ | assumption | exact Sub.of hm rfl
    | dsimp only
    | with_reducible first
      | apply KeepsR.next | apply keeps_putBooth | refine keeps_uop _ _ _ _ (fun _ _ _ _ _ => ?_) ?_ (Sub.of hm rfl)
    | split

theorem keeps_execUopGsc {msk : Nat} {s₀ : State} (booth : Fin 4096) (s : State) (hk : Keeps msk s₀ s) (hm : Sub 0xC0000 msk) : KeepsR msk s₀ (execUopGsc booth s) := by
  unfold execUopGsc
  repeat' first
    | with_reducible first | exact Keeps.refl _ | assumption | exact Sub.of hm rfl
    | dsimp only
    | with_reducible first
      | apply KeepsR.next | apply keeps_putBooth | refine keeps_uop _ _ _ _ (fun _ _ _ _ _ => ?_) ?_ (Sub.of hm rfl)
    | split

theorem keeps_collect {msk : Nat} {s₀ : State} (s : State) (j : Job) (rec : Nat) (scores : List F32) (hk : Keeps msk s₀ s) (hm : Sub 0x1000 msk) : Keeps msk s₀ (collect s j rec scores) := by
  unfold collect
  repeat' first
    | with_reducible first | exact Keeps.refl _ | assumption | exact Sub.of hm rfl
    | dsimp only
    | with_reducible first
      | apply keeps_setReq | (apply keeps_foldl; intro _ _ _) | (apply keeps_foldl2; intro _ _ _)
    | split

theorem keeps_execUopSst {msk : Nat} {s₀ : State} (booth : Fin 4096) (s : State) (hk : Keeps msk s₀ s) (hm : Sub 0xC1000 msk) : KeepsR msk s₀ (execUopSst booth s) := by
  unfold execUopSst
  repeat' first
    | with_reducible first | exact Keeps.refl _ | assumption | exact Sub.of hm rfl
    | dsimp only
    | with_reducible first
      | apply KeepsR.next | apply keeps_putBooth | refine keeps_uop _ _ _ _ (fun _ _ _ _ _ => ?_) ?_ (Sub.of hm rfl) | apply keeps_collect
    | split

theorem keeps_execUopSeti {msk : Nat} {s₀ : State} (booth : Fin 4096) (s : State) (hk : Keeps msk s₀ s) (hm : Sub 0xC0000 msk) : KeepsR msk s₀ (execUopSeti booth s) := by
  unfold execUopSeti
  repeat' first
    | with_reducible first | exact Keeps.refl _ | assumption | exact Sub.of hm rfl
    | dsimp only
    | with_reducible first
      | apply KeepsR.next | apply keeps_putBooth | refine keeps_uop _ _ _ _ (fun _ _ _ _ _ => ?_) ?_ (Sub.of hm rfl)
    | split

theorem keeps_execUopAddi {msk : Nat} {s₀ : State} (booth : Fin 4096) (s : State) (hk : Keeps msk s₀ s) (hm : Sub 0xC0000 msk) : KeepsR msk s₀ (execUopAddi booth s) := by
  unfold execUopAddi
  repeat' first
    | with_reducible first | exact Keeps.refl _ | assumption | exact Sub.of hm rfl
    | dsimp only
    | with_reducible first
      | apply KeepsR.next | apply keeps_putBooth | refine keeps_uop _ _ _ _ (fun _ _ _ _ _ => ?_) ?_ (Sub.of hm rfl)
    | split

theorem keeps_execUopLoop {msk : Nat} {s₀ : State} (booth : Fin 4096) (s : State) (hk : Keeps msk s₀ s) (hm : Sub 0xC0000 msk) : KeepsR msk s₀ (execUopLoop booth s) := by
  unfold execUopLoop
  repeat' first
    | with_reducible first | exact Keeps.refl _ | assumption | exact Sub.of hm rfl
    | dsimp only
    | with_reducible first
      | apply KeepsR.next | apply keeps_putBooth | refine keeps_uop _ _ _ _ (fun _ _ _ _ _ => ?_) ?_ (Sub.of hm rfl)
    | split

theorem keeps_execUopEnd {msk : Nat} {s₀ : State} (booth : Fin 4096) (s : State) (hk : Keeps msk s₀ s) (hm : Sub 0x100000C0000 msk) : KeepsR msk s₀ (execUopEnd booth s) := by
  unfold execUopEnd
  repeat' first
    | with_reducible first | exact Keeps.refl _ | assumption | exact Sub.of hm rfl
    | dsimp only
    | with_reducible first
      | apply KeepsR.next | apply keeps_bump | apply keeps_putBooth | refine keeps_uop _ _ _ _ (fun _ _ _ _ _ => ?_) ?_ (Sub.of hm rfl)
    | split

theorem keeps_jobDone {msk : Nat} {s₀ : State} (s : State) (j : Job) (poison : Bool) (hk : Keeps msk s₀ s) (hm : Sub 0x1000 msk) : Keeps msk s₀ (jobDone s j poison) := by
  unfold jobDone
  repeat' first
    | with_reducible first | exact Keeps.refl _ | assumption | exact Sub.of hm rfl
    | dsimp only
    | with_reducible first
      | apply keeps_setReq
    | split

theorem keeps_execCollectorJobDone {msk : Nat} {s₀ : State} (booth : Fin 4096) (s : State) (hk : Keeps msk s₀ s) (hm : Sub 0x4C1100 msk) : KeepsR msk s₀ (execCollectorJobDone booth s) := by
  unfold execCollectorJobDone
  repeat' first
    | with_reducible first | exact Keeps.refl _ | assumption | exact Sub.of hm rfl
    | dsimp only
    | with_reducible first
      | apply KeepsR.next | apply keeps_askLine | apply keeps_reformSummary | apply keeps_putBooth | apply keeps_jobDone
    | split

theorem keeps_noteLag {msk : Nat} {s₀ : State} (s : State) (f : Nat) (n : Nat) (hk : Keeps msk s₀ s) (hm : Sub 0x10000000000 msk) : Keeps msk s₀ (noteLag s f n) := by
  unfold noteLag
  repeat' first
    | with_reducible first | exact Keeps.refl _ | assumption | exact Sub.of hm rfl
    | dsimp only
    | with_reducible first
      | apply keeps_wrf
    | split

theorem keeps_setOwed {msk : Nat} {s₀ : State} (s : State) (b : Nat) (bank : Nat) (n : Nat) (hk : Keeps msk s₀ s) (hm : Sub 0x80000 msk) : Keeps msk s₀ (setOwed s b bank n) := by
  unfold setOwed
  repeat' first
    | with_reducible first | exact Keeps.refl _ | assumption | exact Sub.of hm rfl
    | dsimp only
    | with_reducible first
      | apply keeps_setFstack
    | split

theorem keeps_forceRefresh {msk : Nat} {s₀ : State} (s : State) (b : Nat) (bank : Nat) (hk : Keeps msk s₀ s) (hm : Sub 0xB2000080000 msk) : Keeps msk s₀ (forceRefresh s b bank) := by
  unfold forceRefresh
  repeat' first
    | with_reducible first | exact Keeps.refl _ | assumption | exact Sub.of hm rfl
    | dsimp only
    | with_reducible first
      | apply keeps_bump | apply keeps_raise | apply keeps_noteLag | apply keeps_setOwed
    | split

theorem keeps_serve {msk : Nat} {s₀ : State} (s : State) (b : Nat) (y : Booth) (hk : Keeps msk s₀ s) (hm : Sub 0x10000040000 msk) : Keeps msk s₀ (serve s b y) := by
  unfold serve
  repeat' first
    | with_reducible first | exact Keeps.refl _ | assumption | exact Sub.of hm rfl
    | dsimp only
    | with_reducible first
      | apply keeps_bump | apply keeps_setBooth
    | split

theorem keeps_execBoothPark {msk : Nat} {s₀ : State} (booth : Fin 4096) (s : State) (hk : Keeps msk s₀ s) (hm : Sub 0xB20000C0000 msk) : KeepsR msk s₀ (execBoothPark booth s) := by
  unfold execBoothPark
  repeat' first
    | with_reducible first | exact Keeps.refl _ | assumption | exact Sub.of hm rfl
    | dsimp only
    | with_reducible first
      | apply KeepsR.next | apply keeps_bump | apply keeps_setBooth | apply keeps_issueRefresh | apply keeps_forceRefresh | apply keeps_serve
      | (apply keeps_foldl; intro _ _ _) | (apply keeps_foldl2; intro _ _ _)
    | split

theorem keeps_execPerBankRefresh {msk : Nat} {s₀ : State} (booth : Fin 4096) (bank : Fin 8) (s : State) (hk : Keeps msk s₀ s) (hm : Sub 0xB20000C0000 msk) : KeepsR msk s₀ (execPerBankRefresh booth bank s) := by
  unfold execPerBankRefresh
  repeat' first
    | with_reducible first | exact Keeps.refl _ | assumption | exact Sub.of hm rfl
    | dsimp only
    | with_reducible first
      | apply KeepsR.next | apply keeps_setBooth | apply keeps_noteLag | apply keeps_setOwed | apply keeps_forceRefresh
    | split

theorem keeps_execAllBankRefresh {msk : Nat} {s₀ : State} (stack : Fin 8) (die : Fin 16) (s : State) (hk : Keeps msk s₀ s) (hm : Sub 0xC0000 msk) : KeepsR msk s₀ (execAllBankRefresh stack die s) := by
  unfold execAllBankRefresh
  repeat' first
    | with_reducible first | exact Keeps.refl _ | assumption | exact Sub.of hm rfl
    | dsimp only
    | with_reducible first
      | apply KeepsR.next | apply keeps_setBooth | apply keeps_setFstack | apply keeps_issueRefresh | (apply keeps_foldl; intro _ _ _)
      | (apply keeps_foldl2; intro _ _ _)
    | split

theorem keeps_execRefreshComplete {msk : Nat} {s₀ : State} (stack : Fin 8) (die : Fin 16) (s : State) (hk : Keeps msk s₀ s) (hm : Sub 0xC0000 msk) : KeepsR msk s₀ (execRefreshComplete stack die s) := by
  unfold execRefreshComplete
  repeat' first
    | with_reducible first | exact Keeps.refl _ | assumption | exact Sub.of hm rfl
    | dsimp only
    | with_reducible first
      | apply KeepsR.next | apply keeps_setBooth | apply keeps_setFstack | (apply keeps_foldl; intro _ _ _) | (apply keeps_foldl2; intro _ _ _)
    | split

theorem keeps_poisonScores {msk : Nat} {s₀ : State} (s : State) (f : Nat) (j : Job) (hk : Keeps msk s₀ s) (hm : Sub 0x400000 msk) : Keeps msk s₀ (poisonScores s f j) := by
  unfold poisonScores
  repeat' first
    | with_reducible first | exact Keeps.refl _ | assumption | exact Sub.of hm rfl
    | dsimp only
    | with_reducible first
      | apply keeps_setHbm | (apply keeps_foldl; intro _ _ _) | (apply keeps_foldl2; intro _ _ _)
    | split

theorem keeps_disableBooth {msk : Nat} {s₀ : State} (s : State) (b : Nat) (hk : Keeps msk s₀ s) (hm : Sub 0xB20004C1000 msk) : Keeps msk s₀ (disableBooth s b) := by
  unfold disableBooth
  repeat' first
    | with_reducible first | exact Keeps.refl _ | assumption | exact Sub.of hm rfl
    | dsimp only
    | with_reducible first
      | apply keeps_setBooth | apply keeps_raise | apply keeps_freeSlots | apply keeps_issueRefresh | apply keeps_jobDone
      | apply keeps_poisonScores | (apply keeps_foldl; intro _ _ _) | (apply keeps_foldl2; intro _ _ _)
    | split

theorem keeps_execBoothRestart {msk : Nat} {s₀ : State} (booth : Fin 4096) (s : State) (hk : Keeps msk s₀ s) (hm : Sub 0xB20004C1000 msk) : KeepsR msk s₀ (execBoothRestart booth s) := by
  unfold execBoothRestart
  repeat' first
    | with_reducible first | exact Keeps.refl _ | assumption | exact Sub.of hm rfl
    | dsimp only
    | with_reducible first
      | apply KeepsR.next | apply keeps_setBooth | apply keeps_raise | apply keeps_disableBooth
    | split

theorem keeps_execBoothJobTimeout {msk : Nat} {s₀ : State} (booth : Fin 4096) (s : State) (hk : Keeps msk s₀ s) (hm : Sub 0xB20004C1000 msk) : KeepsR msk s₀ (execBoothJobTimeout booth s) := by
  unfold execBoothJobTimeout
  repeat' first
    | with_reducible first | exact Keeps.refl _ | assumption | exact Sub.of hm rfl
    | dsimp only
    | with_reducible first
      | apply KeepsR.next | apply keeps_disableBooth
    | split

theorem keeps_execScriptWindowWrite {msk : Nat} {s₀ : State} (stack : Fin 8) (entry : Fin 64) (value : Word) (s : State) (hk : Keeps msk s₀ s) (hm : Sub 0x80000 msk) : KeepsR msk s₀ (execScriptWindowWrite stack entry value s) := by
  unfold execScriptWindowWrite
  repeat' first
    | with_reducible first | exact Keeps.refl _ | assumption | exact Sub.of hm rfl
    | dsimp only
    | with_reducible first
      | apply KeepsR.next | apply keeps_setFstack
    | split

theorem keeps_execScriptDescriptorWrite {msk : Nat} {s₀ : State} (stack : Fin 8) (index : Fin 8) (value : List Byte) (s : State) (hk : Keeps msk s₀ s) (hm : Sub 0xB2000080000 msk) : KeepsR msk s₀ (execScriptDescriptorWrite stack index value s) := by
  unfold execScriptDescriptorWrite
  repeat' first
    | with_reducible first | exact Keeps.refl _ | assumption | exact Sub.of hm rfl
    | dsimp only
    | with_reducible first
      | apply KeepsR.next | apply KeepsR.fault | apply keeps_setFstack | apply keeps_raise
    | split

theorem keeps_doPlan {msk : Nat} {s₀ : State} (s : State) (id : Nat) (r : Req) (hk : Keeps msk s₀ s) (hm : Sub 0xFE3C6FFF701 msk) : Keeps msk s₀ (doPlan s id r) := by
  unfold doPlan
  repeat' first
    | with_reducible first | exact Keeps.refl _ | assumption | exact Sub.of hm rfl
    | dsimp only
    | with_reducible first
      | apply keeps_complete | apply keeps_failReq | apply keeps_pullFind | apply keeps_readDir | apply keeps_startPull | apply keeps_waitForPull
      | refine keeps_of_pair (by assumption) ?_
    | with_reducible refine Keeps.upd_tiers ?_ (Sub.of hm rfl); first
        | exact Keeps.refl _ | assumption | apply keeps_complete | apply keeps_failReq | apply keeps_pullFind | apply keeps_readDir
        | apply keeps_startPull | apply keeps_waitForPull | refine keeps_of_pair (by assumption) ?_
    | split

theorem keeps_execPlan {msk : Nat} {s₀ : State} (ring : Fin 4096) (s : State) (hk : Keeps msk s₀ s) (hm : Sub 0xFE3C6FFF701 msk) : KeepsR msk s₀ (execPlan ring s) := by
  unfold execPlan
  repeat' first
    | with_reducible first | exact Keeps.refl _ | assumption | exact Sub.of hm rfl
    | dsimp only
    | with_reducible first
      | apply KeepsR.next | refine keeps_admitOp _ _ _ _ (fun _ _ _ _ => ?_) ?_ (Sub.of hm rfl) | apply keeps_doPlan
    | split

theorem keeps_putDrawer {msk : Nat} {s₀ : State} (s : State) (i : Nat) (d : Drawer) (hk : Keeps msk s₀ s) (hm : Sub 0x100 msk) : Keeps msk s₀ (putDrawer s i d) := by
  unfold putDrawer
  repeat' first
    | with_reducible first | exact Keeps.refl _ | assumption | exact Sub.of hm rfl
    | dsimp only
    | with_reducible first
      | apply keeps_setShelf
    | split

theorem keeps_pinWork {msk : Nat} {s₀ : State} (s : State) (i : Nat) (die : Nat) (req : Nat) (hk : Keeps msk s₀ s) (hm : Sub 0x10000100100 msk) : Keeps msk s₀ (pinWork s i die req) := by
  unfold pinWork
  repeat' first
    | with_reducible first | exact Keeps.refl _ | assumption | exact Sub.of hm rfl
    | dsimp only
    | with_reducible first
      | apply keeps_addWait | apply keeps_queueLift | apply keeps_putDrawer | (apply keeps_foldl; intro _ _ _) | (apply keeps_foldl2; intro _ _ _)
    | split

theorem keeps_pinCheck {msk : Nat} {s₀ : State} (s : State) (i : Nat) (hk : Keeps msk s₀ s) (hm : Sub 0xBE0C647D601 msk) : Keeps msk s₀ (pinCheck s i) := by
  unfold pinCheck
  repeat' first
    | with_reducible first | exact Keeps.refl _ | assumption | exact Sub.of hm rfl
    | dsimp only
    | with_reducible first
      | apply keeps_complete | (apply keeps_foldl; intro _ _ _) | (apply keeps_foldl2; intro _ _ _)
    | split

theorem keeps_pinFail {msk : Nat} {s₀ : State} (s : State) (i : Nat) (e : Nat × Req) (detail : Nat) (hk : Keeps msk s₀ s) (hm : Sub 0xBE0C657D701 msk) : Keeps msk s₀ (pinFail s i e detail) := by
  unfold pinFail
  repeat' first
    | with_reducible first | exact Keeps.refl _ | assumption | exact Sub.of hm rfl
    | dsimp only
    | with_reducible first
      | apply keeps_setShelf | apply keeps_failReq
    | with_reducible refine Keeps.upd_tiers ?_ (Sub.of hm rfl); first
        | exact Keeps.refl _ | assumption | apply keeps_setShelf | apply keeps_failReq
    | split

theorem keeps_pinFound {msk : Nat} {s₀ : State} (s : State) (id : Nat) (r : Req) (i : Nat) (sh : Shelf) (hk : Keeps msk s₀ s) (hm : Sub 0xBE0C657D701 msk) : Keeps msk s₀ (pinFound s id r i sh) := by
  unfold pinFound
  repeat' first
    | with_reducible first | exact Keeps.refl _ | assumption | exact Sub.of hm rfl
    | dsimp only
    | with_reducible first
      | apply keeps_setReq | apply keeps_setShelf | apply keeps_complete | apply keeps_failReq | apply keeps_pinWork | apply keeps_pinCheck
    | split

theorem keeps_doPin {msk : Nat} {s₀ : State} (s : State) (id : Nat) (r : Req) (hk : Keeps msk s₀ s) (hm : Sub 0xFE3C6FFF701 msk) : Keeps msk s₀ (doPin s id r) := by
  unfold doPin
  repeat' first
    | with_reducible first | exact Keeps.refl _ | assumption | exact Sub.of hm rfl
    | dsimp only
    | with_reducible first
      | apply keeps_failReq | refine keeps_withShelf _ _ _ _ _ _ (fun _ _ _ _ => ?_) (fun _ _ => ?_) ?_ (Sub.of hm rfl) | apply keeps_pinFound
    | split

theorem keeps_execPin {msk : Nat} {s₀ : State} (ring : Fin 4096) (s : State) (hk : Keeps msk s₀ s) (hm : Sub 0xFE3C6FFF701 msk) : KeepsR msk s₀ (execPin ring s) := by
  unfold execPin
  repeat' first
    | with_reducible first | exact Keeps.refl _ | assumption | exact Sub.of hm rfl
    | dsimp only
    | with_reducible first
      | apply KeepsR.next | refine keeps_admitOp _ _ _ _ (fun _ _ _ _ => ?_) ?_ (Sub.of hm rfl) | apply keeps_doPin
    | split

theorem keeps_startDemotion {msk : Nat} {s₀ : State} (s : State) (p : Nat) (i : Nat) (series : Nat) (idx : Nat) (t0 : Bool) (hk : Keeps msk s₀ s) (hm : Sub 0x10000700100 msk) : Keeps msk s₀ (startDemotion s p i series idx t0) := by
  unfold startDemotion
  repeat' first
    | with_reducible first | exact Keeps.refl _ | assumption | exact Sub.of hm rfl
    | dsimp only
    | with_reducible first
      | apply keeps_t2Ready | apply keeps_putDrawer | refine keeps_of_pair (by assumption) ?_
    | split

theorem keeps_execDemotion {msk : Nat} {s₀ : State} (part : Fin 32) (t0 : Bool) (s : State) (hk : Keeps msk s₀ s) (hm : Sub 0x50000700100 msk) : KeepsR msk s₀ (execDemotion part t0 s) := by
  unfold execDemotion
  repeat' first
    | with_reducible first | exact Keeps.refl _ | assumption | exact Sub.of hm rfl
    | dsimp only
    | with_reducible first
      | apply KeepsR.next | apply keeps_draw | apply keeps_startDemotion | refine keeps_of_pair (by assumption) ?_
    | with_reducible refine Keeps.upd_tiers ?_ (Sub.of hm rfl); first
        | exact Keeps.refl _ | assumption | apply keeps_draw | apply keeps_startDemotion | refine keeps_of_pair (by assumption) ?_
    | split

theorem keeps_settled {msk : Nat} {s₀ : State} (s : State) (i : Nat) (hk : Keeps msk s₀ s) (hm : Sub 0xBE5C6FFD701 msk) : Keeps msk s₀ (settled s i) := by
  unfold settled
  repeat' first
    | with_reducible first | exact Keeps.refl _ | assumption | exact Sub.of hm rfl
    | dsimp only
    | with_reducible first
      | apply keeps_retryAppends | apply keeps_pinWork | apply keeps_pinCheck
    | split

theorem keeps_endHbmMove {msk : Nat} {s₀ : State} (s : State) (i : Nat) (sh : Shelf) (d : Drawer) (l : Loc) (hk : Keeps msk s₀ s) (hm : Sub 0x10000440100 msk) : Keeps msk s₀ (endHbmMove s i sh d l) := by
  unfold endHbmMove
  repeat' first
    | with_reducible first | exact Keeps.refl _ | assumption | exact Sub.of hm rfl
    | dsimp only
    | with_reducible first
      | apply keeps_bump | apply keeps_relocate | apply keeps_touch
    | split

theorem keeps_execMoveEnd {msk : Nat} {s₀ : State} (shelf : Nat) (series : Nat) (idx : Nat) (s : State) (hk : Keeps msk s₀ s) (hm : Sub 0xBE5C6FFD701 msk) : KeepsR msk s₀ (execMoveEnd shelf series idx s) := by
  unfold execMoveEnd
  repeat' first
    | with_reducible first | exact Keeps.refl _ | assumption | exact Sub.of hm rfl
    | dsimp only
    | with_reducible first
      | apply KeepsR.next | apply keeps_bump | apply keeps_readDrawer | apply keeps_damage | apply keeps_storeDrawer | apply keeps_relocate
      | apply keeps_putDrawer | apply keeps_settled | apply keeps_endHbmMove | refine keeps_of_pair (by assumption) ?_
    | split

theorem keeps_execTierVisit {msk : Nat} {s₀ : State} (shelf : Nat) (series : Nat) (idx : Nat) (s : State) (hk : Keeps msk s₀ s) (hm : Sub 0xBE0C657D701 msk) : KeepsR msk s₀ (execTierVisit shelf series idx s) := by
  unfold execTierVisit
  repeat' first
    | with_reducible first | exact Keeps.refl _ | assumption | exact Sub.of hm rfl
    | dsimp only
    | with_reducible first
      | apply KeepsR.next | apply keeps_putDrawer | apply keeps_pinWork | apply keeps_pinCheck
    | split

theorem keeps_remoteFull {msk : Nat} {s₀ : State} (s : State) (i : Nat) (sh : Shelf) (series : Nat) (idx : Nat) (detail : Nat) (hk : Keeps msk s₀ s) (hm : Sub 0xBE0C647D701 msk) : Keeps msk s₀ (remoteFull s i sh series idx detail) := by
  unfold remoteFull
  repeat' first
    | with_reducible first | exact Keeps.refl _ | assumption | exact Sub.of hm rfl
    | dsimp only
    | with_reducible first
      | apply keeps_failReq | apply keeps_setAppend | apply keeps_putDrawer
    | split

theorem keeps_pullOver {msk : Nat} {s₀ : State} (s : State) (i : Nat) (hk : Keeps msk s₀ s) (hm : Sub 0xBE0C647D701 msk) : Keeps msk s₀ (pullOver s i) := by
  unfold pullOver
  repeat' first
    | with_reducible first | exact Keeps.refl _ | assumption | exact Sub.of hm rfl
    | dsimp only
    | with_reducible first
      | apply keeps_setShelf | apply keeps_complete
    | split

theorem keeps_placeRemote {msk : Nat} {s₀ : State} (s : State) (i : Nat) (series : Nat) (idx : Nat) (hk : Keeps msk s₀ s) (hm : Sub 0xBE0C677D701 msk) : Keeps msk s₀ (placeRemote s i series idx) := by
  unfold placeRemote
  repeat' first
    | with_reducible first | exact Keeps.refl _ | assumption | exact Sub.of hm rfl
    | dsimp only
    | with_reducible first
      | apply keeps_takeCharge | apply keeps_placeOrWait | apply keeps_putDrawer | apply keeps_remoteFull | apply keeps_pullOver
      | refine keeps_of_pair (by assumption) ?_
    | split

theorem keeps_allocFail {msk : Nat} {s₀ : State} (s : State) (sh : Shelf) (w : AllocWait) (detail : Nat) (hk : Keeps msk s₀ s) (hm : Sub 0xBE0C657D701 msk) : Keeps msk s₀ (allocFail s sh w detail) := by
  unfold allocFail
  repeat' first
    | with_reducible first | exact Keeps.refl _ | assumption | exact Sub.of hm rfl
    | dsimp only
    | with_reducible first
      | apply keeps_setAppend | apply keeps_pinFail | apply keeps_remoteFull | (apply keeps_foldl; intro _ _ _) | (apply keeps_foldl2; intro _ _ _)
    | split

theorem keeps_allocGo {msk : Nat} {s₀ : State} (s : State) (sh : Shelf) (w : AllocWait) (hk : Keeps msk s₀ s) (hm : Sub 0xBE5C6FFD701 msk) : Keeps msk s₀ (allocGo s sh w) := by
  unfold allocGo
  repeat' first
    | with_reducible first | exact Keeps.refl _ | assumption | exact Sub.of hm rfl
    | dsimp only
    | with_reducible first
      | apply keeps_retryAppends | apply keeps_pinWork | apply keeps_pinCheck | apply keeps_placeRemote
    | split

theorem keeps_execAllocationPlaceFreed {msk : Nat} {s₀ : State} (part : Fin 32) (s : State) (hk : Keeps msk s₀ s) (hm : Sub 0xFE5C6FFD701 msk) : KeepsR msk s₀ (execAllocationPlaceFreed part s) := by
  unfold execAllocationPlaceFreed
  repeat' first
    | with_reducible first | exact Keeps.refl _ | assumption | exact Sub.of hm rfl
    | dsimp only
    | with_reducible first
      | apply KeepsR.next | apply keeps_freeTierPlace | apply keeps_allocFail | apply keeps_allocGo | refine keeps_of_pair (by assumption) ?_
    | with_reducible refine Keeps.upd_tiers ?_ (Sub.of hm rfl); first
        | exact Keeps.refl _ | assumption | apply keeps_freeTierPlace | apply keeps_allocFail | apply keeps_allocGo
        | refine keeps_of_pair (by assumption) ?_
    | split

theorem keeps_arrivedScore {msk : Nat} {s₀ : State} (s : State) (req : Nat) (run : Nat) (i : Nat) (sh : Shelf) (r : Req) (x : Run) (k : Nat × Nat) (hk : Keeps msk s₀ s) (hm : Sub 0x401100 msk) : Keeps msk s₀ (arrivedScore s req run i sh r x k) := by
  unfold arrivedScore
  repeat' first
    | with_reducible first | exact Keeps.refl _ | assumption | exact Sub.of hm rfl
    | dsimp only
    | with_reducible first
      | apply keeps_setReq | apply keeps_touch | apply keeps_reformSummary
    | split

theorem keeps_coldArrived {msk : Nat} {s₀ : State} (s : State) (req : Nat) (run : Nat) (i : Nat) (sh : Shelf) (r : Req) (x : Run) (k : Nat × Nat) (hk : Keeps msk s₀ s) (hm : Sub 0x10080401100 msk) : Keeps msk s₀ (coldArrived s req run i sh r x k) := by
  unfold coldArrived
  repeat' first
    | with_reducible first | exact Keeps.refl _ | assumption | exact Sub.of hm rfl
    | dsimp only
    | with_reducible first
      | apply keeps_bump | apply keeps_meterAdd | apply keeps_arrivedScore
    | split

theorem keeps_liftOnRead {msk : Nat} {s₀ : State} (s : State) (i : Nat) (series : Nat) (idx : Nat) (hk : Keeps msk s₀ s) (hm : Sub 0x10000540100 msk) : Keeps msk s₀ (liftOnRead s i series idx) := by
  unfold liftOnRead
  repeat' first
    | with_reducible first | exact Keeps.refl _ | assumption | exact Sub.of hm rfl
    | dsimp only
    | with_reducible first
      | apply keeps_bump | apply keeps_dropLift | apply keeps_relocate | apply keeps_touch
    | split

theorem keeps_execColdReadDone {msk : Nat} {s₀ : State} (req : Nat) (run : Nat) (series : Nat) (got : ColdAt) (s : State) (hk : Keeps msk s₀ s) (hm : Sub 0xBE1C67FD701 msk) : KeepsR msk s₀ (execColdReadDone req run series got s) := by
  unfold execColdReadDone
  repeat' first
    | with_reducible first | exact Keeps.refl _ | assumption | exact Sub.of hm rfl
    | dsimp only
    | with_reducible first
      | apply KeepsR.next | apply KeepsR.fault | apply keeps_readDrawer | apply keeps_endAttend | apply keeps_countRead | apply keeps_runIntegrity
      | apply keeps_pinCheck | apply keeps_coldArrived | apply keeps_liftOnRead | refine keeps_of_pair (by assumption) ?_
    | split

theorem keeps_liftBack {msk : Nat} {s₀ : State} (s : State) (l : Lift) (hk : Keeps msk s₀ s) (hm : Sub 0x100000 msk) : Keeps msk s₀ (liftBack s l) := by
  unfold liftBack
  repeat' first
    | with_reducible first | exact Keeps.refl _ | assumption | exact Sub.of hm rfl
    | dsimp only
    | with_reducible refine Keeps.upd_tiers ?_ (Sub.of hm rfl); first
        | exact Keeps.refl _ | assumption
    | split

theorem keeps_setLift {msk : Nat} {s₀ : State} (s : State) (l : Lift) (p : LiftPhase) (hk : Keeps msk s₀ s) (hm : Sub 0x100000 msk) : Keeps msk s₀ (setLift s l p) := by
  unfold setLift
  repeat' first
    | with_reducible first | exact Keeps.refl _ | assumption | exact Sub.of hm rfl
    | dsimp only
    | with_reducible refine Keeps.upd_tiers ?_ (Sub.of hm rfl); first
        | exact Keeps.refl _ | assumption
    | split

theorem keeps_liftSkipped {msk : Nat} {s₀ : State} (s : State) (l : Lift) (detail : Nat) (hk : Keeps msk s₀ s) (hm : Sub 0xBE0C657D701 msk) : Keeps msk s₀ (liftSkipped s l detail) := by
  unfold liftSkipped
  repeat' first
    | with_reducible first | exact Keeps.refl _ | assumption | exact Sub.of hm rfl
    | dsimp only
    | with_reducible first
      | apply keeps_bump | apply keeps_dropLift | apply keeps_pinFail
    | split

theorem keeps_execLiftTaken {msk : Nat} {s₀ : State} (die : Fin 4) (s : State) (hk : Keeps msk s₀ s) (hm : Sub 0xBE0C657D701 msk) : KeepsR msk s₀ (execLiftTaken die s) := by
  unfold execLiftTaken
  repeat' first
    | with_reducible first | exact Keeps.refl _ | assumption | exact Sub.of hm rfl
    | dsimp only
    | with_reducible first
      | apply KeepsR.next | apply keeps_dropLift | apply keeps_pinCheck | apply keeps_setLift | apply keeps_liftSkipped
    | with_reducible refine Keeps.upd_tiers ?_ (Sub.of hm rfl); first
        | exact Keeps.refl _ | assumption | apply keeps_dropLift | apply keeps_pinCheck | apply keeps_setLift | apply keeps_liftSkipped
    | split

theorem keeps_execLiftRoom {msk : Nat} {s₀ : State} (die : Fin 4) (s : State) (hk : Keeps msk s₀ s) (hm : Sub 0xFE1C677D701 msk) : KeepsR msk s₀ (execLiftRoom die s) := by
  unfold execLiftRoom
  repeat' first
    | with_reducible first | exact Keeps.refl _ | assumption | exact Sub.of hm rfl
    | dsimp only
    | with_reducible first
      | apply KeepsR.next | apply keeps_freeTierPlace | apply keeps_liftBack | apply keeps_setLift | apply keeps_liftSkipped
      | refine keeps_of_pair (by assumption) ?_
    | split

theorem keeps_execPartTierWrite {msk : Nat} {s₀ : State} (part : Fin 32) (value : Word) (s : State) (hk : Keeps msk s₀ s) (hm : Sub 0x90080000000 msk) : KeepsR msk s₀ (execPartTierWrite part value s) := by
  unfold execPartTierWrite
  repeat' first
    | with_reducible first | exact Keeps.refl _ | assumption | exact Sub.of hm rfl
    | dsimp only
    | with_reducible first
      | apply KeepsR.next | apply keeps_wrf | apply keeps_setPart | apply keeps_hostWr
    | split

theorem keeps_execPartCabshareWrite {msk : Nat} {s₀ : State} (part : Fin 32) (value : Word) (s : State) (hk : Keeps msk s₀ s) (hm : Sub 0x90000000000 msk) : KeepsR msk s₀ (execPartCabshareWrite part value s) := by
  unfold execPartCabshareWrite
  repeat' first
    | with_reducible first | exact Keeps.refl _ | assumption | exact Sub.of hm rfl
    | dsimp only
    | with_reducible first
      | apply KeepsR.next | apply keeps_wrf | apply keeps_hostWr
    | split

end Sys2Proof.Laws
end

