-- ==== Sys2Proof/Laws/KeepsNet.lean ====
section
/-! SUPPORT. `Keeps` for the commands of the network ports, memory regions, mirrors and pulls, CXL, and the fabric. -/
namespace Sys2Proof.Laws

open Sys2Proof.Machine Sys2Proof.Safety

set_option maxRecDepth 4000

theorem keeps_execGateIntervalEnd {msk : Nat} {s₀ : State} (port : Fin 4) (s : State) (hk : Keeps msk s₀ s) (hm : Sub 0x2000000 msk) : KeepsR msk s₀ (execGateIntervalEnd port s) := by
  unfold execGateIntervalEnd
  repeat' first
    | with_reducible first | exact Keeps.refl _ | assumption | exact Sub.of hm rfl
    | dsimp only
    | with_reducible first
      | apply KeepsR.next | apply keeps_setPort
    | split

theorem keeps_execGclCommit {msk : Nat} {s₀ : State} (port : Fin 4) (s : State) (hk : Keeps msk s₀ s) (hm : Sub 0x90002000000 msk) : KeepsR msk s₀ (execGclCommit port s) := by
  unfold execGclCommit
  repeat' first
    | with_reducible first | exact Keeps.refl _ | assumption | exact Sub.of hm rfl
    | dsimp only
    | with_reducible first
      | apply KeepsR.next | apply keeps_wrf | apply keeps_setPort | apply keeps_hostWr
    | split

theorem keeps_execGclSwitch {msk : Nat} {s₀ : State} (port : Fin 4) (s : State) (hk : Keeps msk s₀ s) (hm : Sub 0xB2002000000 msk) : KeepsR msk s₀ (execGclSwitch port s) := by
  unfold execGclSwitch
  repeat' first
    | with_reducible first | exact Keeps.refl _ | assumption | exact Sub.of hm rfl
    | dsimp only
    | with_reducible first
      | apply KeepsR.next | apply keeps_wrf | apply keeps_setPort | apply keeps_raise
    | split

theorem keeps_execPtpSync {msk : Nat} {s₀ : State} (port : Fin 4) (offset : Int) (s : State) (hk : Keeps msk s₀ s) (hm : Sub 0x40002000000 msk) : KeepsR msk s₀ (execPtpSync port offset s) := by
  unfold execPtpSync
  repeat' first
    | with_reducible first | exact Keeps.refl _ | assumption | exact Sub.of hm rfl
    | dsimp only
    | with_reducible first
      | apply KeepsR.next | apply keeps_draw | apply keeps_setPort | refine keeps_of_pair (by assumption) ?_
    | split

theorem keeps_execPtpTimeout {msk : Nat} {s₀ : State} (port : Fin 4) (s : State) (hk : Keeps msk s₀ s) (hm : Sub 0xB2002000000 msk) : KeepsR msk s₀ (execPtpTimeout port s) := by
  unfold execPtpTimeout
  repeat' first
    | with_reducible first | exact Keeps.refl _ | assumption | exact Sub.of hm rfl
    | dsimp only
    | with_reducible first
      | apply KeepsR.next | apply keeps_setPort | apply keeps_raise
    | split

theorem keeps_execNetTimeNsRead {msk : Nat} {s₀ : State} (port : Fin 4) (s : State) (hk : Keeps msk s₀ s) (hm : Sub 0x80002000000 msk) : KeepsR msk s₀ (execNetTimeNsRead port s) := by
  unfold execNetTimeNsRead
  repeat' first
    | with_reducible first | exact Keeps.refl _ | assumption | exact Sub.of hm rfl
    | dsimp only
    | with_reducible first
      | apply KeepsR.next | apply keeps_setPort | apply keeps_emit | apply keeps_hostRd
    | split

theorem keeps_execShaperRefill {msk : Nat} {s₀ : State} (port : Fin 4) (s : State) (hk : Keeps msk s₀ s) (hm : Sub 0x2000000 msk) : KeepsR msk s₀ (execShaperRefill port s) := by
  unfold execShaperRefill
  repeat' first
    | with_reducible first | exact Keeps.refl _ | assumption | exact Sub.of hm rfl
    | dsimp only
    | with_reducible first
      | apply KeepsR.next | apply keeps_setPort
    | split

theorem keeps_execPolicerRefill {msk : Nat} {s₀ : State} (port : Fin 4) (s : State) (hk : Keeps msk s₀ s) (hm : Sub 0x2000000 msk) : KeepsR msk s₀ (execPolicerRefill port s) := by
  unfold execPolicerRefill
  repeat' first
    | with_reducible first | exact Keeps.refl _ | assumption | exact Sub.of hm rfl
    | dsimp only
    | with_reducible first
      | apply KeepsR.next | apply keeps_setPort | (apply keeps_foldl; intro _ _ _) | (apply keeps_foldl2; intro _ _ _)
    | split

theorem keeps_sendCtl {msk : Nat} {s₀ : State} (s : State) (q : Nat) (x : Qp) (opcode : Nat) (psn : Nat) (syndrome : Nat) (hk : Keeps msk s₀ s) (hm : Sub 0xBA0C247C601 msk) : Keeps msk s₀ (sendCtl s q x opcode psn syndrome) := by
  unfold sendCtl
  repeat' first
    | with_reducible first | exact Keeps.refl _ | assumption | exact Sub.of hm rfl
    | dsimp only
    | with_reducible first
      | apply keeps_issueWrite
    | split

theorem keeps_qpError {msk : Nat} {s₀ : State} (s : State) (q : Nat) (cause : Nat) (hk : Keeps msk s₀ s) (hm : Sub 0xB2004000000 msk) : Keeps msk s₀ (qpError s q cause) := by
  unfold qpError
  repeat' first
    | with_reducible first | exact Keeps.refl _ | assumption | exact Sub.of hm rfl
    | dsimp only
    | with_reducible first
      | apply keeps_setQp | apply keeps_raise
    | split

theorem keeps_lineBack {msk : Nat} {s₀ : State} (s : State) (line : Nat) (hk : Keeps msk s₀ s) (hm : Sub 0x5000000C000 msk) : Keeps msk s₀ (lineBack s line) := by
  unfold lineBack
  repeat' first
    | with_reducible first | exact Keeps.refl _ | assumption | exact Sub.of hm rfl
    | dsimp only
    | with_reducible first
      | apply keeps_drawBytes | apply keeps_hostPut | refine keeps_of_pair (by assumption) ?_
    | split

theorem keeps_cachePut {msk : Nat} {s₀ : State} (s : State) (line : Nat) (dirty : Bool) (hk : Keeps msk s₀ s) (hm : Sub 0x5004000C000 msk) : Keeps msk s₀ (cachePut s line dirty) := by
  unfold cachePut
  repeat' first
    | with_reducible first | exact Keeps.refl _ | assumption | exact Sub.of hm rfl
    | dsimp only
    | with_reducible first
      | apply keeps_draw | apply keeps_lineBack | refine keeps_of_pair (by assumption) ?_
    | with_reducible refine Keeps.upd_cxl ?_ (Sub.of hm rfl); first
        | exact Keeps.refl _ | assumption | apply keeps_draw | apply keeps_lineBack | refine keeps_of_pair (by assumption) ?_
    | split

theorem keeps_ownLine {msk : Nat} {s₀ : State} (s : State) (line : Nat) (hk : Keeps msk s₀ s) (hm : Sub 0xF204000C000 msk) : Keeps msk s₀ (ownLine s line).2 := by
  unfold ownLine
  repeat' first
    | with_reducible first | exact Keeps.refl _ | assumption | exact Sub.of hm rfl
    | dsimp only
    | with_reducible first
      | apply keeps_hostRead | apply keeps_cachePut | refine keeps_of_pair (by assumption) ?_
    | split

theorem keeps_writeBack {msk : Nat} {s₀ : State} (s : State) (q : Nat) (hk : Keeps msk s₀ s) (hm : Sub 0xF204040C000 msk) : Keeps msk s₀ (writeBack s q) := by
  unfold writeBack
  repeat' first
    | with_reducible first | exact Keeps.refl _ | assumption | exact Sub.of hm rfl
    | dsimp only
    | with_reducible first
      | apply keeps_wroteUse | apply keeps_cachePut | apply keeps_ownLine | (apply keeps_foldl; intro _ _ _) | (apply keeps_foldl2; intro _ _ _)
      | refine keeps_of_pair (by assumption) ?_
    | split

theorem keeps_useQp {msk : Nat} {s₀ : State} (s : State) (port : Nat) (q : Nat) (hk : Keeps msk s₀ s) (hm : Sub 0x2000000 msk) : Keeps msk s₀ (useQp s port q) := by
  unfold useQp
  repeat' first
    | with_reducible first | exact Keeps.refl _ | assumption | exact Sub.of hm rfl
    | dsimp only
    | with_reducible first
      | apply keeps_setPort
    | split

theorem keeps_askFetch {msk : Nat} {s₀ : State} (s : State) (port : Nat) (q : Nat) (hk : Keeps msk s₀ s) (hm : Sub 0x2000000 msk) : Keeps msk s₀ (askFetch s port q) := by
  unfold askFetch
  repeat' first
    | with_reducible first | exact Keeps.refl _ | assumption | exact Sub.of hm rfl
    | dsimp only
    | with_reducible first
      | apply keeps_setPort
    | split

theorem keeps_execResultBlockSend {msk : Nat} {s₀ : State} (port : Fin 4) (qpn : Nat) (s : State) (hk : Keeps msk s₀ s) (hm : Sub 0xB2086000000 msk) : KeepsR msk s₀ (execResultBlockSend port qpn s) := by
  unfold execResultBlockSend
  repeat' first
    | with_reducible first | exact Keeps.refl _ | assumption | exact Sub.of hm rfl
    | dsimp only
    | with_reducible first
      | apply KeepsR.next | apply keeps_bump | apply keeps_setPort | apply keeps_setQp | apply keeps_raise | apply keeps_transmit
      | apply keeps_meterPort | apply keeps_useQp | apply keeps_askFetch
    | split

theorem keeps_retryFrom {msk : Nat} {s₀ : State} (s : State) (q : Nat) (x : Qp) (psn : Nat) (hk : Keeps msk s₀ s) (hm : Sub 0xB2004000000 msk) : Keeps msk s₀ (retryFrom s q x psn) := by
  unfold retryFrom
  repeat' first
    | with_reducible first | exact Keeps.refl _ | assumption | exact Sub.of hm rfl
    | dsimp only
    | with_reducible first
      | apply keeps_setQp | apply keeps_qpError
    | split

theorem keeps_execAckTimeout {msk : Nat} {s₀ : State} (qpn : Nat) (s : State) (hk : Keeps msk s₀ s) (hm : Sub 0xB2004000000 msk) : KeepsR msk s₀ (execAckTimeout qpn s) := by
  unfold execAckTimeout
  repeat' first
    | with_reducible first | exact Keeps.refl _ | assumption | exact Sub.of hm rfl
    | dsimp only
    | with_reducible first
      | apply KeepsR.next | apply keeps_retryFrom
    | split

theorem keeps_execRnrTimerExpiry {msk : Nat} {s₀ : State} (qpn : Nat) (s : State) (hk : Keeps msk s₀ s) (hm : Sub 0x4000000 msk) : KeepsR msk s₀ (execRnrTimerExpiry qpn s) := by
  unfold execRnrTimerExpiry
  repeat' first
    | with_reducible first | exact Keeps.refl _ | assumption | exact Sub.of hm rfl
    | dsimp only
    | with_reducible first
      | apply KeepsR.next | apply keeps_setQp
    | split

theorem keeps_recvCnp {msk : Nat} {s₀ : State} (s : State) (q : Nat) (x : Qp) (hk : Keeps msk s₀ s) (hm : Sub 0x10004000000 msk) : Keeps msk s₀ (recvCnp s q x) := by
  unfold recvCnp
  repeat' first
    | with_reducible first | exact Keeps.refl _ | assumption | exact Sub.of hm rfl
    | dsimp only
    | with_reducible first
      | apply keeps_bump | apply keeps_setQp
    | split

theorem keeps_execCcTimerExpiry {msk : Nat} {s₀ : State} (qpn : Nat) (s : State) (hk : Keeps msk s₀ s) (hm : Sub 0x4000000 msk) : KeepsR msk s₀ (execCcTimerExpiry qpn s) := by
  unfold execCcTimerExpiry
  repeat' first
    | with_reducible first | exact Keeps.refl _ | assumption | exact Sub.of hm rfl
    | dsimp only
    | with_reducible first
      | apply KeepsR.next | apply keeps_setQp
    | split

theorem keeps_sendCnp {msk : Nat} {s₀ : State} (s : State) (q : Nat) (x : Qp) (hk : Keeps msk s₀ s) (hm : Sub 0xBA0C647C601 msk) : Keeps msk s₀ (sendCnp s q x).2 := by
  unfold sendCnp
  repeat' first
    | with_reducible first | exact Keeps.refl _ | assumption | exact Sub.of hm rfl
    | dsimp only
    | with_reducible first
      | apply keeps_bump | apply keeps_setQp | apply keeps_sendCtl
    | split

theorem keeps_qpResult {msk : Nat} {s₀ : State} (s : State) (p : Nat) (r : Nat) (hk : Keeps msk s₀ s) (hm : Sub 0x10000000000 msk) : Keeps msk s₀ (qpResult s p r) := by
  unfold qpResult
  repeat' first
    | with_reducible first | exact Keeps.refl _ | assumption | exact Sub.of hm rfl
    | dsimp only
    | with_reducible first
      | apply keeps_wrf
    | split

theorem keeps_execQpCreate {msk : Nat} {s₀ : State} (port : Fin 4) (s : State) (hk : Keeps msk s₀ s) (hm : Sub 0xF204440C000 msk) : KeepsR msk s₀ (execQpCreate port s) := by
  unfold execQpCreate
  repeat' first
    | with_reducible first | exact Keeps.refl _ | assumption | exact Sub.of hm rfl
    | dsimp only
    | with_reducible first
      | apply KeepsR.next | apply keeps_setQp | apply keeps_hostWr | apply keeps_rmGate | apply keeps_writeBack | apply keeps_qpResult
      | refine keeps_of_pair (by assumption) ?_
    | split

theorem keeps_removeQp {msk : Nat} {s₀ : State} (s : State) (q : Nat) (hk : Keeps msk s₀ s) (hm : Sub 0x6000100 msk) : Keeps msk s₀ (removeQp s q) := by
  unfold removeQp
  repeat' first
    | with_reducible first | exact Keeps.refl _ | assumption | exact Sub.of hm rfl
    | dsimp only
    | with_reducible first
      | apply keeps_setPort
    | with_reducible refine Keeps.upd_dir_qps ?_ (Sub.of hm rfl); first
        | exact Keeps.refl _ | assumption | apply keeps_setPort
    | split

theorem keeps_execQpDestroy {msk : Nat} {s₀ : State} (port : Fin 4) (s : State) (hk : Keeps msk s₀ s) (hm : Sub 0x90006000100 msk) : KeepsR msk s₀ (execQpDestroy port s) := by
  unfold execQpDestroy
  repeat' first
    | with_reducible first | exact Keeps.refl _ | assumption | exact Sub.of hm rfl
    | dsimp only
    | with_reducible first
      | apply KeepsR.next | apply keeps_hostWr | apply keeps_rmGate | apply keeps_qpResult | apply keeps_removeQp
      | refine keeps_of_pair (by assumption) ?_
    | split

theorem keeps_execQpRead {msk : Nat} {s₀ : State} (port : Fin 4) (s : State) (hk : Keeps msk s₀ s) (hm : Sub 0x90000000000 msk) : KeepsR msk s₀ (execQpRead port s) := by
  unfold execQpRead
  repeat' first
    | with_reducible first | exact Keeps.refl _ | assumption | exact Sub.of hm rfl
    | dsimp only
    | with_reducible first
      | apply KeepsR.next | apply keeps_wrf | apply keeps_hostWr | apply keeps_rmGate | apply keeps_qpResult
      | refine keeps_of_pair (by assumption) ?_
    | split

theorem keeps_regionResult {msk : Nat} {s₀ : State} (s : State) (i : Nat) (r : Nat) (hk : Keeps msk s₀ s) (hm : Sub 0x50000000000 msk) : Keeps msk s₀ (regionResult s i r) := by
  unfold regionResult
  repeat' first
    | with_reducible first | exact Keeps.refl _ | assumption | exact Sub.of hm rfl
    | dsimp only
    | with_reducible first
      | apply keeps_draw | apply keeps_wr | apply keeps_wrf | refine keeps_of_pair (by assumption) ?_
    | split

theorem keeps_execRegionRegister {msk : Nat} {s₀ : State} (s : State) (hk : Keeps msk s₀ s) (hm : Sub 0xD0018000000 msk) : KeepsR msk s₀ (execRegionRegister s) := by
  unfold execRegionRegister
  repeat' first
    | with_reducible first | exact Keeps.refl _ | assumption | exact Sub.of hm rfl
    | dsimp only
    | with_reducible first
      | apply KeepsR.next | apply keeps_wrf | apply keeps_hostWr | apply keeps_rmGate | apply keeps_regionResult
      | refine keeps_of_pair (by assumption) ?_
    | with_reducible refine Keeps.upd_regions_regionGen ?_ (Sub.of hm rfl); first
        | exact Keeps.refl _ | assumption | apply keeps_wrf | apply keeps_rmGate | apply keeps_regionResult
        | refine keeps_of_pair (by assumption) ?_
    | split

theorem keeps_regionWait {msk : Nat} {s₀ : State} (s : State) (i : Nat) (g : Region) (hk : Keeps msk s₀ s) (hm : Sub 0x10020000000 msk) : Keeps msk s₀ (regionWait s i g) := by
  unfold regionWait
  repeat' first
    | with_reducible first | exact Keeps.refl _ | assumption | exact Sub.of hm rfl
    | dsimp only
    | with_reducible first
      | apply keeps_wrf
    | with_reducible refine Keeps.upd_regionBusy ?_ (Sub.of hm rfl); first
        | exact Keeps.refl _ | assumption | apply keeps_wrf
    | split

theorem keeps_reregister {msk : Nat} {s₀ : State} (s : State) (i : Nat) (g : Region) (base : Nat) (len : Nat) (hk : Keeps msk s₀ s) (hm : Sub 0x50038000000 msk) : Keeps msk s₀ (reregister s i g base len) := by
  unfold reregister
  repeat' first
    | with_reducible first | exact Keeps.refl _ | assumption | exact Sub.of hm rfl
    | dsimp only
    | with_reducible first
      | apply keeps_regionResult | apply keeps_regionWait
    | with_reducible refine Keeps.upd_regions_regionGen ?_ (Sub.of hm rfl); first
        | exact Keeps.refl _ | assumption | apply keeps_regionResult | apply keeps_regionWait
    | split

theorem keeps_onRegion {msk : Nat} {s₀ : State} (s : State) (k : State → Nat → Region → State) (h_k : ∀ a x0 x1, Keeps msk s₀ a → Keeps msk s₀ (k a x0 x1)) (hk : Keeps msk s₀ s) (hm : Sub 0x50000000000 msk) : KeepsR msk s₀ (onRegion s k) := by
  unfold onRegion
  repeat' first
    | with_reducible first | exact Keeps.refl _ | assumption | exact Sub.of hm rfl
    | dsimp only
    | with_reducible first
      | apply KeepsR.next | apply h_k | apply keeps_wrf | apply keeps_rmGate | apply keeps_regionResult | refine keeps_of_pair (by assumption) ?_
    | split

theorem keeps_execRegionReregisterNew {msk : Nat} {s₀ : State} (s : State) (hk : Keeps msk s₀ s) (hm : Sub 0xD0038000000 msk) : KeepsR msk s₀ (execRegionReregisterNew s) := by
  unfold execRegionReregisterNew
  repeat' first
    | with_reducible first | exact Keeps.refl _ | assumption | exact Sub.of hm rfl
    | dsimp only
    | with_reducible first
      | apply KeepsR.next | apply keeps_hostWr | apply keeps_regionResult | apply keeps_reregister
      | refine keeps_onRegion _ _ (fun _ _ _ _ => ?_) ?_ (Sub.of hm rfl)
    | split

theorem keeps_execRegionReregisterKeep {msk : Nat} {s₀ : State} (s : State) (hk : Keeps msk s₀ s) (hm : Sub 0xD0038000000 msk) : KeepsR msk s₀ (execRegionReregisterKeep s) := by
  unfold execRegionReregisterKeep
  repeat' first
    | with_reducible first | exact Keeps.refl _ | assumption | exact Sub.of hm rfl
    | dsimp only
    | with_reducible first
      | apply KeepsR.next | apply keeps_hostWr | apply keeps_regionResult | apply keeps_reregister
      | refine keeps_onRegion _ _ (fun _ _ _ _ => ?_) ?_ (Sub.of hm rfl)
    | split

theorem keeps_execRegionDeregister {msk : Nat} {s₀ : State} (s : State) (hk : Keeps msk s₀ s) (hm : Sub 0xD0028000000 msk) : KeepsR msk s₀ (execRegionDeregister s) := by
  unfold execRegionDeregister
  repeat' first
    | with_reducible first | exact Keeps.refl _ | assumption | exact Sub.of hm rfl
    | dsimp only
    | with_reducible first
      | apply KeepsR.next | apply keeps_hostWr | apply keeps_regionResult | apply keeps_regionWait
      | refine keeps_onRegion _ _ (fun _ _ _ _ => ?_) ?_ (Sub.of hm rfl)
    | with_reducible refine Keeps.upd_regions ?_ (Sub.of hm rfl); first
        | exact Keeps.refl _ | assumption | apply keeps_regionResult | apply keeps_regionWait
        | refine keeps_onRegion _ _ (fun _ _ _ _ => ?_) ?_ (Sub.of hm rfl)
    | split

theorem keeps_execRegionRead {msk : Nat} {s₀ : State} (s : State) (hk : Keeps msk s₀ s) (hm : Sub 0xD0000000000 msk) : KeepsR msk s₀ (execRegionRead s) := by
  unfold execRegionRead
  repeat' first
    | with_reducible first | exact Keeps.refl _ | assumption | exact Sub.of hm rfl
    | dsimp only
    | with_reducible first
      | apply KeepsR.next | apply keeps_wr | apply keeps_hostWr | apply keeps_regionResult
      | refine keeps_onRegion _ _ (fun _ _ _ _ => ?_) ?_ (Sub.of hm rfl) | (apply keeps_foldl; intro _ _ _) | (apply keeps_foldl2; intro _ _ _)
    | split

theorem keeps_execRegionCommandDrain {msk : Nat} {s₀ : State} (s : State) (hk : Keeps msk s₀ s) (hm : Sub 0x10020000000 msk) : KeepsR msk s₀ (execRegionCommandDrain s) := by
  unfold execRegionCommandDrain
  repeat' first
    | with_reducible first | exact Keeps.refl _ | assumption | exact Sub.of hm rfl
    | dsimp only
    | with_reducible first
      | apply KeepsR.next | apply keeps_wrf
    | with_reducible refine Keeps.upd_regionBusy ?_ (Sub.of hm rfl); first
        | exact Keeps.refl _ | assumption | apply keeps_wrf
    | split

theorem keeps_firstBadDrawer {msk : Nat} {s₀ : State} (s : State) (sh : Shelf) (ks : List (Nat × Nat)) (hk : Keeps msk s₀ s) (hm : Sub 0xB2000460000 msk) : Keeps msk s₀ (firstBadDrawer s sh ks).2 := by
  unfold firstBadDrawer
  repeat' first
    | with_reducible first | exact Keeps.refl _ | assumption | exact Sub.of hm rfl
    | dsimp only
    | with_reducible first
      | apply keeps_readDrawers | refine keeps_of_pair (by assumption) ?_
    | split

theorem keeps_rnrNak {msk : Nat} {s₀ : State} (s : State) (q : Nat) (x : Qp) (psn : Nat) (hk : Keeps msk s₀ s) (hm : Sub 0xBA0C647C601 msk) : Keeps msk s₀ (rnrNak s q x psn) := by
  unfold rnrNak
  repeat' first
    | with_reducible first | exact Keeps.refl _ | assumption | exact Sub.of hm rfl
    | dsimp only
    | with_reducible first
      | apply keeps_bump | apply keeps_setQp | apply keeps_sendCtl
    | split

theorem keeps_answerRefusal {msk : Nat} {s₀ : State} (s : State) (port : Nat) (q : Nat) (hk : Keeps msk s₀ s) (hm : Sub 0xBA0C647C601 msk) : Keeps msk s₀ (answerRefusal s port q) := by
  unfold answerRefusal
  repeat' first
    | with_reducible first | exact Keeps.refl _ | assumption | exact Sub.of hm rfl
    | dsimp only
    | with_reducible first
      | apply keeps_setPort | apply keeps_rnrNak
    | split

theorem keeps_refusePkt {msk : Nat} {s₀ : State} (s : State) (port : Nat) (k : Packet) (hk : Keeps msk s₀ s) (hm : Sub 0xBA0C647C601 msk) : Keeps msk s₀ (refusePkt s port k) := by
  unfold refusePkt
  repeat' first
    | with_reducible first | exact Keeps.refl _ | assumption | exact Sub.of hm rfl
    | dsimp only
    | with_reducible first
      | apply keeps_setPort | apply keeps_raise | apply keeps_answerRefusal
    | split

theorem keeps_holdPkt {msk : Nat} {s₀ : State} (s : State) (port : Nat) (h : Held) (hk : Keeps msk s₀ s) (hm : Sub 0xBA0C647C601 msk) : Keeps msk s₀ (holdPkt s port h) := by
  unfold holdPkt
  repeat' first
    | with_reducible first | exact Keeps.refl _ | assumption | exact Sub.of hm rfl
    | dsimp only
    | with_reducible first
      | apply keeps_setPort | apply keeps_refusePkt
    | split

theorem keeps_ackMsg {msk : Nat} {s₀ : State} (s : State) (q : Nat) (psn : Nat) (hk : Keeps msk s₀ s) (hm : Sub 0xBA0C647C601 msk) : Keeps msk s₀ (ackMsg s q psn) := by
  unfold ackMsg
  repeat' first
    | with_reducible first | exact Keeps.refl _ | assumption | exact Sub.of hm rfl
    | dsimp only
    | with_reducible first
      | apply keeps_setQp | apply keeps_sendCtl
    | split

theorem keeps_denyMsg {msk : Nat} {s₀ : State} (s : State) (q : Nat) (x : Qp) (psn : Nat) (syn : Nat) (cause : Nat) (hk : Keeps msk s₀ s) (hm : Sub 0xBA0C647C601 msk) : Keeps msk s₀ (denyMsg s q x psn syn cause) := by
  unfold denyMsg
  repeat' first
    | with_reducible first | exact Keeps.refl _ | assumption | exact Sub.of hm rfl
    | dsimp only
    | with_reducible first
      | apply keeps_sendCtl | apply keeps_qpError
    | split

theorem keeps_denyKey {msk : Nat} {s₀ : State} (s : State) (q : Nat) (x : Qp) (psn : Nat) (hk : Keeps msk s₀ s) (hm : Sub 0xBA0C647C601 msk) : Keeps msk s₀ (denyKey s q x psn) := by
  unfold denyKey
  repeat' first
    | with_reducible first | exact Keeps.refl _ | assumption | exact Sub.of hm rfl
    | dsimp only
    | with_reducible first
      | apply keeps_bump | apply keeps_denyMsg
    | split

theorem keeps_badFrame {msk : Nat} {s₀ : State} (s : State) (q : Nat) (x : Qp) (psn : Nat) (ring : Option (Nat × Ring)) (hk : Keeps msk s₀ s) (hm : Sub 0xBA0C647C601 msk) : Keeps msk s₀ (badFrame s q x psn ring) := by
  unfold badFrame
  repeat' first
    | with_reducible first | exact Keeps.refl _ | assumption | exact Sub.of hm rfl
    | dsimp only
    | with_reducible first
      | apply keeps_bump | apply keeps_setRing | apply keeps_record | apply keeps_issueWrite | apply keeps_ackMsg
    | split

theorem keeps_deliverFrame {msk : Nat} {s₀ : State} (s : State) (q : Nat) (x : Qp) (b : List Byte) (imm : Option Nat) (firstPsn : Nat) (psn : Nat) (hk : Keeps msk s₀ s) (hm : Sub 0xBA0C647C601 msk) : Keeps msk s₀ (deliverFrame s q x b imm firstPsn psn) := by
  unfold deliverFrame
  repeat' first
    | with_reducible first | exact Keeps.refl _ | assumption | exact Sub.of hm rfl
    | dsimp only
    | with_reducible first
      | apply keeps_raise | apply keeps_issueWrite | apply keeps_refWrite | apply keeps_rnrNak | apply keeps_ackMsg | apply keeps_badFrame
      | (apply keeps_foldl; intro _ _ _) | (apply keeps_foldl2; intro _ _ _)
    | split

theorem keeps_behindWrites {msk : Nat} {s₀ : State} (s : State) (hk : Keeps msk s₀ s) (hm : Sub 0x14000 msk) : Keeps msk s₀ (behindWrites s) := by
  unfold behindWrites
  repeat' first
    | with_reducible first | exact Keeps.refl _ | assumption | exact Sub.of hm rfl
    | dsimp only
    | with_reducible first
      | (apply keeps_foldl; intro _ _ _) | (apply keeps_foldl2; intro _ _ _)
    | with_reducible refine Keeps.upd_devMem ?_ (Sub.of hm rfl); first
        | exact Keeps.refl _ | assumption | (apply keeps_foldl; intro _ _ _) | (apply keeps_foldl2; intro _ _ _)
    | with_reducible refine Keeps.upd_hostMem ?_ (Sub.of hm rfl); first
        | exact Keeps.refl _ | assumption | (apply keeps_foldl; intro _ _ _) | (apply keeps_foldl2; intro _ _ _)
    | split

theorem keeps_regionBytes {msk : Nat} {s₀ : State} (s : State) (g : Region) (va : Nat) (len : Nat) (hk : Keeps msk s₀ s) (hm : Sub 0xB2000434000 msk) :
    Keeps msk s₀ (regionBytes s g va len).2 := by
  have h := keeps_refRead (msk := msk) (s₀ := s₀) (behindWrites s) g.part (g.base + va) len (keeps_behindWrites s hk (Sub.of hm rfl)) (Sub.of hm rfl)
  exact ⟨h.chip, h.queue, h.free, h.ids, hk.host, hk.dev, h.svn, h.alert,
    fun f hf => by cases f <;> first | exact h.frame _ hf | exact hk.frame .hostMem hf | exact hk.frame .devMem hf⟩

theorem keeps_postResp {msk : Nat} {s₀ : State} (s : State) (q : Nat) (x : Qp) (psn : Nat) (b : List Byte) (hk : Keeps msk s₀ s) (hm : Sub 0x6000000 msk) : Keeps msk s₀ (postResp s q x psn b) := by
  unfold postResp
  repeat' first
    | with_reducible first | exact Keeps.refl _ | assumption | exact Sub.of hm rfl
    | dsimp only
    | with_reducible first
      | apply keeps_postMsg
    | split

theorem keeps_readRegion {msk : Nat} {s₀ : State} (s : State) (q : Nat) (x : Qp) (k : Packet) (i : Nat) (g : Region) (hk : Keeps msk s₀ s) (hm : Sub 0xBE1C657D701 msk) : Keeps msk s₀ (readRegion s q x k i g).1 := by
  unfold readRegion
  repeat' first
    | with_reducible first | exact Keeps.refl _ | assumption | exact Sub.of hm rfl
    | dsimp only
    | with_reducible first
      | apply keeps_damage | apply keeps_firstBadDrawer | apply keeps_regionBytes | apply keeps_postResp | refine keeps_of_pair (by assumption) ?_
    | with_reducible refine Keeps.upd_tiers ?_ (Sub.of hm rfl); first
        | exact Keeps.refl _ | assumption | apply keeps_damage | apply keeps_firstBadDrawer | apply keeps_regionBytes | apply keeps_postResp
        | refine keeps_of_pair (by assumption) ?_
    | split

theorem keeps_doRead {msk : Nat} {s₀ : State} (s : State) (q : Nat) (x : Qp) (k : Packet) (held : Option (Nat × Region)) (hk : Keeps msk s₀ s) (hm : Sub 0xBE1C657D701 msk) : Keeps msk s₀ (doRead s q x k held).1 := by
  unfold doRead
  repeat' first
    | with_reducible first | exact Keeps.refl _ | assumption | exact Sub.of hm rfl
    | dsimp only
    | with_reducible first
      | apply keeps_denyKey | apply keeps_postResp | apply keeps_readRegion | refine keeps_of_fst (by assumption) ?_
    | split

theorem keeps_startPlacing {msk : Nat} {s₀ : State} (s : State) (q : Nat) (x : Qp) (k : Packet) (write : Bool) (hk : Keeps msk s₀ s) (hm : Sub 0xBA0C647C601 msk) : Keeps msk s₀ (startPlacing s q x k write).2 := by
  unfold startPlacing
  repeat' first
    | with_reducible first | exact Keeps.refl _ | assumption | exact Sub.of hm rfl
    | dsimp only
    | with_reducible first
      | apply keeps_denyMsg | apply keeps_denyKey
    | split

theorem keeps_placePkt {msk : Nat} {s₀ : State} (s0 : State) (q : Nat) (x : Qp) (k : Packet) (hk : Keeps msk s₀ s0) (hm : Sub 0xBA0C647C601 msk) : Keeps msk s₀ (placePkt s0 q x k) := by
  unfold placePkt
  repeat' first
    | with_reducible first | exact Keeps.refl _ | assumption | exact Sub.of hm rfl
    | dsimp only
    | with_reducible first
      | apply keeps_setQp | apply keeps_issueWrite | apply keeps_refWrite | apply keeps_ackMsg | apply keeps_deliverFrame
      | apply keeps_startPlacing | refine keeps_of_pair (by assumption) ?_
    | split

theorem keeps_duplicate {msk : Nat} {s₀ : State} (s : State) (q : Nat) (x : Qp) (k : Packet) (held : Option (Nat × Region)) (hk : Keeps msk s₀ s) (hm : Sub 0xBE1C657D701 msk) : Keeps msk s₀ (duplicate s q x k held).1 := by
  unfold duplicate
  repeat' first
    | with_reducible first | exact Keeps.refl _ | assumption | exact Sub.of hm rfl
    | dsimp only
    | with_reducible first
      | apply keeps_bump | apply keeps_sendCtl | apply keeps_doRead | refine keeps_of_fst (by assumption) ?_
    | split

theorem keeps_recvRequest {msk : Nat} {s₀ : State} (s0 : State) (q : Nat) (x0 : Qp) (k : Packet) (held : Option (Nat × Region)) (hk : Keeps msk s₀ s0) (hm : Sub 0xBE1C657D701 msk) : Keeps msk s₀ (recvRequest s0 q x0 k held).1 := by
  unfold recvRequest
  repeat' first
    | with_reducible first | exact Keeps.refl _ | assumption | exact Sub.of hm rfl
    | dsimp only
    | with_reducible first
      | apply keeps_bump | apply keeps_setQp | apply keeps_sendCtl | apply keeps_sendCnp | apply keeps_denyMsg | apply keeps_doRead
      | apply keeps_placePkt | apply keeps_duplicate | refine keeps_of_pair (by assumption) ?_ | refine keeps_of_fst (by assumption) ?_
    | split

theorem keeps_recvAck {msk : Nat} {s₀ : State} (s : State) (q : Nat) (x : Qp) (k : Packet) (hk : Keeps msk s₀ s) (hm : Sub 0xB2004000000 msk) : Keeps msk s₀ (recvAck s q x k) := by
  unfold recvAck
  repeat' first
    | with_reducible first | exact Keeps.refl _ | assumption | exact Sub.of hm rfl
    | dsimp only
    | with_reducible first
      | apply keeps_bump | apply keeps_setQp | apply keeps_qpError | apply keeps_retryFrom
    | split

theorem keeps_recvResp {msk : Nat} {s₀ : State} (s : State) (q : Nat) (x : Qp) (k : Packet) (hk : Keeps msk s₀ s) (hm : Sub 0x4000000 msk) : Keeps msk s₀ (recvResp s q x k) := by
  unfold recvResp
  repeat' first
    | with_reducible first | exact Keeps.refl _ | assumption | exact Sub.of hm rfl
    | dsimp only
    | with_reducible first
      | apply keeps_setQp
    | split

theorem keeps_processPkt {msk : Nat} {s₀ : State} (s0 : State) (port : Nat) (k : Packet) (held : Option (Nat × Region)) (hk : Keeps msk s₀ s0) (hm : Sub 0xBE1C657D701 msk) : Keeps msk s₀ (processPkt s0 port k held).1 := by
  unfold processPkt
  repeat' first
    | with_reducible first | exact Keeps.refl _ | assumption | exact Sub.of hm rfl
    | dsimp only
    | with_reducible first
      | apply keeps_useQp | apply keeps_recvCnp | apply keeps_recvRequest | apply keeps_recvAck | apply keeps_recvResp
      | refine keeps_of_fst (by assumption) ?_
    | split

theorem keeps_faultHold {msk : Nat} {s₀ : State} (s : State) (port : Nat) (k : Packet) (g : Nat × Region) (again : Bool) (hk : Keeps msk s₀ s) (hm : Sub 0x10000000000 msk) : Keeps msk s₀ (faultHold s port k g again).2 := by
  unfold faultHold
  repeat' first
    | with_reducible first | exact Keeps.refl _ | assumption | exact Sub.of hm rfl
    | dsimp only
    | with_reducible first
      | apply keeps_bump
    | split

theorem keeps_processHeld {msk : Nat} {s₀ : State} (s : State) (port q : Nat) (n : Nat) (hk : Keeps msk s₀ s) (hm : Sub 0xBE1C657D701 msk) : Keeps msk s₀ (processHeld s port q n) := by
  induction n generalizing s with
  | zero => unfold processHeld; exact hk
  | succ n ih =>
    unfold processHeld
    repeat' first
      | with_reducible first | exact Keeps.refl _ | assumption | exact Sub.of hm rfl
      | dsimp only
      | with_reducible first
        | apply ih | apply keeps_setPort | apply keeps_answerRefusal | apply keeps_processPkt | apply keeps_faultHold
        | refine keeps_of_pair (by assumption) ?_ | refine keeps_of_fst (by assumption) ?_
      | split

theorem keeps_police {msk : Nat} {s₀ : State} (s : State) (port : Nat) (x : Qp) (k : Packet) (hk : Keeps msk s₀ s) (hm : Sub 0x2000000 msk) : Keeps msk s₀ (police s port x k).2 := by
  unfold police
  repeat' first
    | with_reducible first | exact Keeps.refl _ | assumption | exact Sub.of hm rfl
    | dsimp only
    | with_reducible first
      | apply keeps_setPort
    | split

theorem keeps_receiveQp {msk : Nat} {s₀ : State} (s0 : State) (port : Nat) (x : Qp) (k : Packet) (hk : Keeps msk s₀ s0) (hm : Sub 0xBE1C657D701 msk) : Keeps msk s₀ (receiveQp s0 port x k) := by
  unfold receiveQp
  repeat' first
    | with_reducible first | exact Keeps.refl _ | assumption | exact Sub.of hm rfl
    | dsimp only
    | with_reducible first
      | apply keeps_meterPort | apply keeps_askFetch | apply keeps_holdPkt | apply keeps_processPkt | apply keeps_faultHold | apply keeps_police
      | refine keeps_of_pair (by assumption) ?_ | refine keeps_of_fst (by assumption) ?_
    | split

theorem keeps_receiveFrame {msk : Nat} {s₀ : State} (s : State) (port : Nat) (k : Packet) (hk : Keeps msk s₀ s) (hm : Sub 0xBE1C657D701 msk) : Keeps msk s₀ (receiveFrame s port k) := by
  unfold receiveFrame
  repeat' first
    | with_reducible first | exact Keeps.refl _ | assumption | exact Sub.of hm rfl
    | dsimp only
    | with_reducible first
      | apply keeps_bump | apply keeps_receiveQp
    | split

theorem keeps_execPacketReceive {msk : Nat} {s₀ : State} (port : Fin 4) (pkt : Packet) (s : State) (hk : Keeps msk s₀ s) (hm : Sub 0xBE1C657D701 msk) : KeepsR msk s₀ (execPacketReceive port pkt s) := by
  unfold execPacketReceive
  repeat' first
    | with_reducible first | exact Keeps.refl _ | assumption | exact Sub.of hm rfl
    | dsimp only
    | with_reducible first
      | apply KeepsR.next | apply keeps_bump | apply keeps_setPort | apply keeps_receiveFrame
    | split

theorem keeps_cachePlace {msk : Nat} {s₀ : State} (s : State) (port : Nat) (hk : Keeps msk s₀ s) (hm : Sub 0xF204240C000 msk) : KeepsO msk s₀ (cachePlace s port) := by
  unfold cachePlace
  repeat' first
    | with_reducible first | exact Keeps.refl _ | assumption | exact Sub.of hm rfl
    | dsimp only
    | with_reducible first
      | apply KeepsO.some | apply KeepsO.none | apply keeps_setPort | apply keeps_writeBack
    | split

theorem keeps_readSpill {msk : Nat} {s₀ : State} (s : State) (q : Nat) (hk : Keeps msk s₀ s) (hm : Sub 0xFE1C6EFD701 msk) : Keeps msk s₀ (readSpill s q).2 := by
  unfold readSpill
  repeat' first
    | with_reducible first | exact Keeps.refl _ | assumption | exact Sub.of hm rfl
    | dsimp only
    | with_reducible first
      | apply keeps_readUse | apply keeps_ownLine | (apply keeps_foldl; intro _ _ _) | (apply keeps_foldl2; intro _ _ _)
      | refine keeps_of_pair (by assumption) ?_
    | split

theorem keeps_execQpFetchDone {msk : Nat} {s₀ : State} (port : Fin 4) (qpn : Nat) (s : State) (hk : Keeps msk s₀ s) (hm : Sub 0xFE1C6FFD701 msk) : KeepsR msk s₀ (execQpFetchDone port qpn s) := by
  unfold execQpFetchDone
  repeat' first
    | with_reducible first | exact Keeps.refl _ | assumption | exact Sub.of hm rfl
    | dsimp only
    | with_reducible first
      | apply KeepsR.next | apply keeps_bump | apply keeps_setPort | apply keeps_qpError | apply keeps_processHeld | apply keeps_cachePlace
      | refine keeps_of_opt (by assumption) ?_ | apply keeps_readSpill | refine keeps_of_pair (by assumption) ?_
    | split

theorem keeps_resumeFaults {msk : Nat} {s₀ : State} (s : State) (hk : Keeps msk s₀ s) (hm : Sub 0xBE1C657D701 msk) : Keeps msk s₀ (resumeFaults s) := by
  unfold resumeFaults
  repeat' first
    | with_reducible first | exact Keeps.refl _ | assumption | exact Sub.of hm rfl
    | dsimp only
    | with_reducible first
      | apply keeps_processHeld | (apply keeps_foldl; intro _ _ _) | (apply keeps_foldl2; intro _ _ _)
    | split

theorem keeps_endDemand {msk : Nat} {s₀ : State} (s : State) (l : Lift) (hk : Keeps msk s₀ s) (hm : Sub 0xBE1C657D701 msk) : Keeps msk s₀ (endDemand s l) := by
  unfold endDemand
  repeat' first
    | with_reducible first | exact Keeps.refl _ | assumption | exact Sub.of hm rfl
    | dsimp only
    | with_reducible first
      | apply keeps_resumeFaults
    | with_reducible refine Keeps.upd_tiers ?_ (Sub.of hm rfl); first
        | exact Keeps.refl _ | assumption | apply keeps_resumeFaults
    | split

theorem keeps_execLiftPlaced {msk : Nat} {s₀ : State} (die : Fin 4) (shelf : Nat) (series : Nat) (idx : Nat) (s : State) (hk : Keeps msk s₀ s) (hm : Sub 0xBE1C677D701 msk) : KeepsR msk s₀ (execLiftPlaced die shelf series idx s) := by
  unfold execLiftPlaced
  repeat' first
    | with_reducible first | exact Keeps.refl _ | assumption | exact Sub.of hm rfl
    | dsimp only
    | with_reducible first
      | apply KeepsR.next | apply keeps_bump | apply keeps_damage | apply keeps_countRead | apply keeps_relocate | apply keeps_touch
      | apply keeps_pinCheck | apply keeps_liftSkipped | apply keeps_endDemand
    | with_reducible refine Keeps.upd_tiers ?_ (Sub.of hm rfl); first
        | exact Keeps.refl _ | assumption | apply keeps_bump | apply keeps_damage | apply keeps_countRead | apply keeps_relocate
        | apply keeps_touch | apply keeps_pinCheck | apply keeps_liftSkipped | apply keeps_endDemand
    | split

theorem keeps_pullFailed {msk : Nat} {s₀ : State} (s : State) (n : Nat) (status : Nat) (detail : Nat) (hk : Keeps msk s₀ s) (hm : Sub 0xBE2C647D601 msk) : Keeps msk s₀ (pullFailed s n status detail) := by
  unfold pullFailed
  repeat' first
    | with_reducible first | exact Keeps.refl _ | assumption | exact Sub.of hm rfl
    | dsimp only
    | with_reducible first
      | apply keeps_raise | apply keeps_failReq | (apply keeps_foldl; intro _ _ _) | (apply keeps_foldl2; intro _ _ _)
    | with_reducible refine Keeps.upd_pulls ?_ (Sub.of hm rfl); first
        | exact Keeps.refl _ | assumption | apply keeps_raise | apply keeps_failReq | (apply keeps_foldl; intro _ _ _)
        | (apply keeps_foldl2; intro _ _ _)
    | split

theorem keeps_pulledShelfFailed {msk : Nat} {s₀ : State} (s : State) (i : Nat) (misfit : Bool) (hk : Keeps msk s₀ s) (hm : Sub 0xBE5C65FD701 msk) : Keeps msk s₀ (pulledShelfFailed s i misfit) := by
  unfold pulledShelfFailed
  repeat' first
    | with_reducible first | exact Keeps.refl _ | assumption | exact Sub.of hm rfl
    | dsimp only
    | with_reducible first
      | apply keeps_setShelf | apply keeps_raise | apply keeps_failReq | apply keeps_markLost | apply keeps_endAttend | apply keeps_dropOne
      | (apply keeps_foldl; intro _ _ _) | (apply keeps_foldl2; intro _ _ _)
    | split

theorem keeps_failPulls {msk : Nat} {s₀ : State} (s : State) (p : Nat) (f : Nat → Bool) (hk : Keeps msk s₀ s) (hm : Sub 0xBE7C65FD701 msk) : Keeps msk s₀ (failPulls s p f) := by
  unfold failPulls
  repeat' first
    | with_reducible first | exact Keeps.refl _ | assumption | exact Sub.of hm rfl
    | dsimp only
    | with_reducible first
      | apply keeps_pullFailed | apply keeps_pulledShelfFailed | (apply keeps_foldl; intro _ _ _) | (apply keeps_foldl2; intro _ _ _)
    | split

theorem keeps_endSeed {msk : Nat} {s₀ : State} (s : State) (l : Nat) (f : Fail) (hk : Keeps msk s₀ s) (hm : Sub 0xBE1C647D601 msk) : Keeps msk s₀ (endSeed s l f) := by
  unfold endSeed
  repeat' first
    | with_reducible first | exact Keeps.refl _ | assumption | exact Sub.of hm rfl
    | dsimp only
    | with_reducible first
      | apply keeps_failReq
    | with_reducible refine Keeps.upd_links ?_ (Sub.of hm rfl); first
        | exact Keeps.refl _ | assumption | apply keeps_failReq
    | split

theorem keeps_seedAppends {msk : Nat} {s₀ : State} (s : State) (i : Nat) (l : Nat) (hk : Keeps msk s₀ s) (hm : Sub 0xB2506000100 msk) : Keeps msk s₀ (seedAppends s i l) := by
  unfold seedAppends
  repeat' first
    | with_reducible first | exact Keeps.refl _ | assumption | exact Sub.of hm rfl
    | dsimp only
    | with_reducible first
      | apply keeps_pushRecords | apply keeps_setAppend | (apply keeps_foldl; intro _ _ _) | (apply keeps_foldl2; intro _ _ _)
    | split

theorem keeps_seedLink {msk : Nat} {s₀ : State} (s : State) (id : Nat) (r : Req) (i : Nat) (sh : Shelf) (peer : Nat) (sync : Bool) (hk : Keeps msk s₀ s) (hm : Sub 0xF2506003100 msk) : Keeps msk s₀ (seedLink s id r i sh peer sync) := by
  unfold seedLink
  repeat' first
    | with_reducible first | exact Keeps.refl _ | assumption | exact Sub.of hm rfl
    | dsimp only
    | with_reducible first
      | apply keeps_draw | apply keeps_setReq | apply keeps_setShelf | apply keeps_newId | apply keeps_pushEntry | apply keeps_pushRecords
      | apply keeps_seedAppends | refine keeps_of_pair (by assumption) ?_
    | with_reducible refine Keeps.upd_links ?_ (Sub.of hm rfl); first
        | exact Keeps.refl _ | assumption | apply keeps_draw | apply keeps_setReq | apply keeps_setShelf | apply keeps_newId
        | apply keeps_pushEntry | apply keeps_pushRecords | apply keeps_seedAppends | refine keeps_of_pair (by assumption) ?_
    | split

theorem keeps_readShelf {msk : Nat} {s₀ : State} (s : State) (sh : Shelf) (hk : Keeps msk s₀ s) (hm : Sub 0xB2000660000 msk) : Keeps msk s₀ (readShelf s sh).2 := by
  unfold readShelf
  repeat' first
    | with_reducible first | exact Keeps.refl _ | assumption | exact Sub.of hm rfl
    | dsimp only
    | with_reducible first
      | apply keeps_readDrawer | apply keeps_countRead | (apply keeps_foldl; intro _ _ _) | (apply keeps_foldl2; intro _ _ _)
      | refine keeps_of_pair (by assumption) ?_
    | split

theorem keeps_startLink {msk : Nat} {s₀ : State} (s : State) (id : Nat) (r : Req) (i : Nat) (sh : Shelf) (peer : Nat) (sync : Bool) (hk : Keeps msk s₀ s) (hm : Sub 0xFE5C667F701 msk) : Keeps msk s₀ (startLink s id r i sh peer sync) := by
  unfold startLink
  repeat' first
    | with_reducible first | exact Keeps.refl _ | assumption | exact Sub.of hm rfl
    | dsimp only
    | with_reducible first
      | apply keeps_setReq | apply keeps_damage | apply keeps_seedLink | apply keeps_readShelf | refine keeps_of_pair (by assumption) ?_
    | split

theorem keeps_mirrorFound {msk : Nat} {s₀ : State} (s : State) (id : Nat) (r : Req) (i : Nat) (sh : Shelf) (hk : Keeps msk s₀ s) (hm : Sub 0xFE5C667F701 msk) : Keeps msk s₀ (mirrorFound s id r i sh) := by
  unfold mirrorFound
  repeat' first
    | with_reducible first | exact Keeps.refl _ | assumption | exact Sub.of hm rfl
    | dsimp only
    | with_reducible first
      | apply keeps_setReq | apply keeps_setShelf | apply keeps_complete | apply keeps_failReq | apply keeps_cutLink | apply keeps_endSeed
      | apply keeps_startLink
    | split

theorem keeps_doMirrorSet {msk : Nat} {s₀ : State} (s : State) (id : Nat) (r : Req) (hk : Keeps msk s₀ s) (hm : Sub 0xFE5C667F701 msk) : Keeps msk s₀ (doMirrorSet s id r) := by
  unfold doMirrorSet
  repeat' first
    | with_reducible first | exact Keeps.refl _ | assumption | exact Sub.of hm rfl
    | dsimp only
    | with_reducible first
      | apply keeps_failReq | apply keeps_mirrorFound
    | split

theorem keeps_execMirrorSet {msk : Nat} {s₀ : State} (ring : Fin 4096) (s : State) (hk : Keeps msk s₀ s) (hm : Sub 0xFE5C667F701 msk) : KeepsR msk s₀ (execMirrorSet ring s) := by
  unfold execMirrorSet
  repeat' first
    | with_reducible first | exact Keeps.refl _ | assumption | exact Sub.of hm rfl
    | dsimp only
    | with_reducible first
      | apply KeepsR.next | refine keeps_admitOp _ _ _ _ (fun _ _ _ _ => ?_) ?_ (Sub.of hm rfl) | apply keeps_doMirrorSet
    | split

theorem keeps_doMovePull {msk : Nat} {s₀ : State} (s0 : State) (id : Nat) (r : Req) (hk : Keeps msk s₀ s0) (hm : Sub 0xFE2C647F601 msk) : Keeps msk s₀ (doMovePull s0 id r) := by
  unfold doMovePull
  repeat' first
    | with_reducible first | exact Keeps.refl _ | assumption | exact Sub.of hm rfl
    | dsimp only
    | with_reducible first
      | apply keeps_failReq | apply keeps_pullFind | apply keeps_startPull | apply keeps_waitForPull | refine keeps_of_pair (by assumption) ?_
    | split

theorem keeps_execMovePull {msk : Nat} {s₀ : State} (ring : Fin 4096) (s : State) (hk : Keeps msk s₀ s) (hm : Sub 0xFE2C647F601 msk) : KeepsR msk s₀ (execMovePull ring s) := by
  unfold execMovePull
  repeat' first
    | with_reducible first | exact Keeps.refl _ | assumption | exact Sub.of hm rfl
    | dsimp only
    | with_reducible first
      | apply KeepsR.next | refine keeps_admitOp _ _ _ _ (fun _ _ _ _ => ?_) ?_ (Sub.of hm rfl) | apply keeps_doMovePull
    | split

theorem keeps_rerun {msk : Nat} {s₀ : State} (s : State) (id : Nat) (r0 : Req) (hk : Keeps msk s₀ s) (hm : Sub 0xFE7C6FFF701 msk) : Keeps msk s₀ (rerun s id r0) := by
  unfold rerun
  repeat' first
    | with_reducible first | exact Keeps.refl _ | assumption | exact Sub.of hm rfl
    | dsimp only
    | with_reducible first
      | apply keeps_doAppend | apply keeps_doTrim | apply keeps_doAttend | apply keeps_doPlan | apply keeps_doPin | apply keeps_doMirrorSet
      | apply keeps_doMovePull
    | split

theorem keeps_rerunAll {msk : Nat} {s₀ : State} (s : State) (n : Nat) (hk : Keeps msk s₀ s) (hm : Sub 0xFE7C6FFF701 msk) : Keeps msk s₀ (rerunAll s n) := by
  unfold rerunAll
  repeat' first
    | with_reducible first | exact Keeps.refl _ | assumption | exact Sub.of hm rfl
    | dsimp only
    | with_reducible first
      | apply keeps_rerun | (apply keeps_foldl; intro _ _ _) | (apply keeps_foldl2; intro _ _ _)
    | split

theorem keeps_pullCreated {msk : Nat} {s₀ : State} (s : State) (n : Nat) (i : Nat) (j : PullJob) (hk : Keeps msk s₀ s) (hm : Sub 0xFE7C6FFF701 msk) : Keeps msk s₀ (pullCreated s n i j) := by
  unfold pullCreated
  repeat' first
    | with_reducible first | exact Keeps.refl _ | assumption | exact Sub.of hm rfl
    | dsimp only
    | with_reducible first
      | apply keeps_setReq | apply keeps_setShelf | apply keeps_rerunAll
    | with_reducible refine Keeps.upd_pulls ?_ (Sub.of hm rfl); first
        | exact Keeps.refl _ | assumption | apply keeps_setReq | apply keeps_setShelf | apply keeps_rerunAll
    | split

theorem keeps_execPullCheck {msk : Nat} {s₀ : State} (shelf : Nat) (drawers : List (List Byte)) (s : State) (hk : Keeps msk s₀ s) (hm : Sub 0xFE7C6FFF701 msk) : KeepsR msk s₀ (execPullCheck shelf drawers s) := by
  unfold execPullCheck
  repeat' first
    | with_reducible first | exact Keeps.refl _ | assumption | exact Sub.of hm rfl
    | dsimp only
    | with_reducible first
      | apply KeepsR.next | apply KeepsR.fault | apply keeps_failReq | apply keeps_createShelf | apply keeps_pullFailed | apply keeps_pullCreated
      | (apply keeps_foldl; intro _ _ _) | (apply keeps_foldl2; intro _ _ _) | refine keeps_of_pair (by assumption) ?_
    | with_reducible refine Keeps.upd_pulls ?_ (Sub.of hm rfl); first
        | exact Keeps.refl _ | assumption | apply keeps_failReq | apply keeps_createShelf | apply keeps_pullFailed | apply keeps_pullCreated
        | (apply keeps_foldl; intro _ _ _) | (apply keeps_foldl2; intro _ _ _) | refine keeps_of_pair (by assumption) ?_
    | split

theorem keeps_serveRun {msk : Nat} {s₀ : State} (i : Nat) (k : Nat × Nat) (s : State) (e : Nat × Nat) (hk : Keeps msk s₀ s) (hm : Sub 0x401100 msk) : Keeps msk s₀ (serveRun i k s e) := by
  unfold serveRun
  repeat' first
    | with_reducible first | exact Keeps.refl _ | assumption | exact Sub.of hm rfl
    | dsimp only
    | with_reducible first
      | apply keeps_arrivedScore
    | split

theorem keeps_execRemoteDrawerRead {msk : Nat} {s₀ : State} (shelf : Nat) (series : Nat) (idx : Nat) (data : List Byte) (s : State) (hk : Keeps msk s₀ s) (hm : Sub 0xFE7C6FFF701 msk) : KeepsR msk s₀ (execRemoteDrawerRead shelf series idx data s) := by
  unfold execRemoteDrawerRead
  repeat' first
    | with_reducible first | exact Keeps.refl _ | assumption | exact Sub.of hm rfl
    | dsimp only
    | with_reducible first
      | apply KeepsR.next | apply KeepsR.fault | apply keeps_setShelf | apply keeps_retryAppends | apply keeps_placeRemote
      | apply keeps_pulledShelfFailed | apply keeps_rerunAll | apply keeps_serveRun | (apply keeps_foldl; intro _ _ _)
      | (apply keeps_foldl2; intro _ _ _)
    | split

theorem keeps_execPullSweep {msk : Nat} {s₀ : State} (die : Fin 4) (s : State) (hk : Keeps msk s₀ s) (hm : Sub 0xBE0C647D701 msk) : KeepsR msk s₀ (execPullSweep die s) := by
  unfold execPullSweep
  repeat' first
    | with_reducible first | exact Keeps.refl _ | assumption | exact Sub.of hm rfl
    | dsimp only
    | with_reducible first
      | apply KeepsR.next | apply keeps_demandRead | apply keeps_pullOver | (apply keeps_foldl; intro _ _ _) | (apply keeps_foldl2; intro _ _ _)
    | split

theorem keeps_refuseTrim {msk : Nat} {s₀ : State} (s : State) (i : Nat) (t : TailTrim) (status : Nat) (hk : Keeps msk s₀ s) (hm : Sub 0xBE0C647D701 msk) : Keeps msk s₀ (refuseTrim s i t status) := by
  unfold refuseTrim
  repeat' first
    | with_reducible first | exact Keeps.refl _ | assumption | exact Sub.of hm rfl
    | dsimp only
    | with_reducible first
      | apply keeps_setShelf | apply keeps_failReq | (apply keeps_foldl; intro _ _ _) | (apply keeps_foldl2; intro _ _ _)
    | split

theorem keeps_linkRefused {msk : Nat} {s₀ : State} (s : State) (l : Nat) (seq : Nat) (status : Nat) (hk : Keeps msk s₀ s) (hm : Sub 0xBE1C647D701 msk) : Keeps msk s₀ (linkRefused s l seq status) := by
  unfold linkRefused
  repeat' first
    | with_reducible first | exact Keeps.refl _ | assumption | exact Sub.of hm rfl
    | dsimp only
    | with_reducible first
      | apply keeps_raise | apply keeps_cutLink | apply keeps_setAppend | apply keeps_endSeed | apply keeps_refuseTrim
    | split

theorem keeps_ackLink {msk : Nat} {s₀ : State} (seq : Nat) (ci : Nat) (s : State) (l : Nat) (hk : Keeps msk s₀ s) (hm : Sub 0xBE1C647D701 msk) : Keeps msk s₀ (ackLink seq ci s l) := by
  unfold ackLink
  repeat' first
    | with_reducible first | exact Keeps.refl _ | assumption | exact Sub.of hm rfl
    | dsimp only
    | with_reducible first
      | apply keeps_setShelf | apply keeps_complete | (apply keeps_foldl; intro _ _ _) | (apply keeps_foldl2; intro _ _ _)
    | with_reducible refine Keeps.upd_links ?_ (Sub.of hm rfl); first
        | exact Keeps.refl _ | assumption | apply keeps_setShelf | apply keeps_complete | (apply keeps_foldl; intro _ _ _)
        | (apply keeps_foldl2; intro _ _ _)
    | split

theorem keeps_reapLink {msk : Nat} {s₀ : State} (s : State) (l : Nat) (hk : Keeps msk s₀ s) (hm : Sub 0x100000100 msk) : Keeps msk s₀ (reapLink s l) := by
  unfold reapLink
  repeat' first
    | with_reducible first | exact Keeps.refl _ | assumption | exact Sub.of hm rfl
    | dsimp only
    | with_reducible first
      | apply keeps_unlink
    | with_reducible refine Keeps.upd_links ?_ (Sub.of hm rfl); first
        | exact Keeps.refl _ | assumption | apply keeps_unlink
    | split

theorem keeps_execMirrorAck {msk : Nat} {s₀ : State} (part : Fin 32) (peer : Fin 64) (s : State) (hk : Keeps msk s₀ s) (hm : Sub 0xBE5C647D701 msk) : KeepsR msk s₀ (execMirrorAck part peer s) := by
  unfold execMirrorAck
  repeat' first
    | with_reducible first | exact Keeps.refl _ | assumption | exact Sub.of hm rfl
    | dsimp only
    | with_reducible first
      | apply KeepsR.next | apply keeps_devRead | apply keeps_setSub | apply keeps_drainLink | apply keeps_ackLink | apply keeps_reapLink
      | (apply keeps_foldl; intro _ _ _) | (apply keeps_foldl2; intro _ _ _) | refine keeps_of_pair (by assumption) ?_
    | split

theorem keeps_execMirrorStall {msk : Nat} {s₀ : State} (link : Nat) (s : State) (hk : Keeps msk s₀ s) (hm : Sub 0xB2100000000 msk) : KeepsR msk s₀ (execMirrorStall link s) := by
  unfold execMirrorStall
  repeat' first
    | with_reducible first | exact Keeps.refl _ | assumption | exact Sub.of hm rfl
    | dsimp only
    | with_reducible first
      | apply KeepsR.next | apply keeps_raise
    | with_reducible refine Keeps.upd_links ?_ (Sub.of hm rfl); first
        | exact Keeps.refl _ | assumption | apply keeps_raise
    | split

theorem keeps_sendAck {msk : Nat} {s₀ : State} (s : State) (p : Nat) (peer : Nat) (seq : Nat) (hk : Keeps msk s₀ s) (hm : Sub 0x6000000 msk) : Keeps msk s₀ (sendAck s p peer seq) := by
  unfold sendAck
  repeat' first
    | with_reducible first | exact Keeps.refl _ | assumption | exact Sub.of hm rfl
    | dsimp only
    | with_reducible first
      | apply keeps_inboxWrite
    | split

theorem keeps_consumed {msk : Nat} {s₀ : State} (s : State) (p : Nat) (peer : Nat) (len : Nat) (hk : Keeps msk s₀ s) (hm : Sub 0x400000000 msk) : Keeps msk s₀ (consumed s p peer len) := by
  unfold consumed
  repeat' first
    | with_reducible first | exact Keeps.refl _ | assumption | exact Sub.of hm rfl
    | dsimp only
    | with_reducible first
      | apply keeps_setSub
    | split

theorem keeps_refuseEntry {msk : Nat} {s₀ : State} (s : State) (p : Nat) (peer : Nat) (b : List Byte) (status : Nat) (hk : Keeps msk s₀ s) (hm : Sub 0x406000000 msk) : Keeps msk s₀ (refuseEntry s p peer b status) := by
  unfold refuseEntry
  repeat' first
    | with_reducible first | exact Keeps.refl _ | assumption | exact Sub.of hm rfl
    | dsimp only
    | with_reducible first
      | apply keeps_sendEntry | refine keeps_of_opt (by assumption) ?_ | apply keeps_sendAck | apply keeps_consumed
    | split

theorem keeps_applySeed {msk : Nat} {s₀ : State} (s : State) (p : Nat) (peer : Nat) (b : List Byte) (hk : Keeps msk s₀ s) (hm : Sub 0xFE5C677F701 msk) : KeepsE msk s₀ (applySeed s p peer b) := by
  unfold applySeed
  repeat' first
    | with_reducible first | exact Keeps.refl _ | assumption | exact Sub.of hm rfl
    | dsimp only
    | with_reducible first
      | apply KeepsE.ok | apply KeepsE.error | apply keeps_draw | apply keeps_setShelf | apply keeps_createShelf | apply keeps_dropOne
      | refine keeps_of_pair (by assumption) ?_
    | split

theorem keeps_copyRoom {msk : Nat} {s₀ : State} (i : Nat) (acc : Bool × State) (k : Nat × Nat) (hk : Keeps msk s₀ acc.2) (hm : Sub 0xFE1C677D701 msk) : Keeps msk s₀ (copyRoom i acc k).2 := by
  unfold copyRoom
  repeat' first
    | with_reducible first | exact Keeps.refl _ | assumption | exact Sub.of hm rfl
    | dsimp only
    | with_reducible first
      | apply keeps_freeTierPlace | refine keeps_of_pair (by assumption) ?_
    | split

theorem keeps_copyDrawer {msk : Nat} {s₀ : State} (i : Nat) (sh : Shelf) (b : List Byte) (acc : Option (Except Nat State)) (k : Nat × Nat)
    (hk : KeepsOE msk s₀ acc) (hm : Sub 0xFE1C6FFD701 msk) : KeepsOE msk s₀ (copyDrawer i sh b acc k) := by
  unfold copyDrawer
  repeat' first
    | with_reducible first | exact Sub.of hm rfl | apply KeepsOE.ok | apply KeepsOE.none | apply KeepsOE.error | apply keeps_putRecords
      | refine keeps_of_pair (by assumption) ?_ | apply keeps_readyDrawer | apply keeps_copyRoom
    | exact hk _ rfl
    | dsimp only
    | split

theorem keeps_applyRecords {msk : Nat} {s₀ : State} (s : State) (i : Nat) (sh : Shelf) (b : List Byte) (hk : Keeps msk s₀ s) (hm : Sub 0xFE1C6FFD701 msk) : KeepsOE msk s₀ (applyRecords s i sh b) := by
  unfold applyRecords
  repeat' first
    | with_reducible first | exact Keeps.refl _ | assumption | exact Sub.of hm rfl
    | dsimp only
    | with_reducible first
      | apply keeps_copyDrawer | apply KeepsOE.ok | apply KeepsOE.error | apply KeepsOE.none | (apply keeps_foldlOE; intro _ _ _)
      | apply KeepsOE.ofE | refine keeps_of_okopt (by assumption) ?_ | apply keeps_setShelf | apply keeps_takeCharge | apply keeps_copyDrawer
      | refine keeps_of_okopt (by assumption) ?_ | (apply keeps_foldl; intro _ _ _) | (apply keeps_foldl2; intro _ _ _)
      | refine keeps_of_pair (by assumption) ?_
    | split

theorem keeps_applyTrim {msk : Nat} {s₀ : State} (s : State) (i : Nat) (sh : Shelf) (b : List Byte) (hk : Keeps msk s₀ s) (hm : Sub 0x100 msk) : Keeps msk s₀ (applyTrim s i sh b) := by
  unfold applyTrim
  repeat' first
    | with_reducible first | exact Keeps.refl _ | assumption | exact Sub.of hm rfl
    | dsimp only
    | with_reducible first
      | apply keeps_setShelf
    | split

theorem keeps_applyToCopy {msk : Nat} {s₀ : State} (s : State) (p : Nat) (peer : Nat) (b : List Byte) (hk : Keeps msk s₀ s) (hm : Sub 0xFE5C6FFD701 msk) : KeepsOE msk s₀ (applyToCopy s p peer b) := by
  unfold applyToCopy
  repeat' first
    | with_reducible first | exact Keeps.refl _ | assumption | exact Sub.of hm rfl
    | dsimp only
    | with_reducible first
      | apply KeepsOE.ok | apply KeepsOE.error | apply KeepsOE.none | (apply keeps_foldlOE; intro _ _ _) | apply KeepsOE.ofE
      | refine keeps_of_okopt (by assumption) ?_ | apply keeps_setShelf | apply keeps_dropOne | apply keeps_applyRecords
      | refine keeps_of_okopt (by assumption) ?_ | apply keeps_applyTrim
    | split

theorem keeps_mirrorApply {msk : Nat} {s₀ : State} (s : State) (p : Nat) (peer : Nat) (b : List Byte) (hk : Keeps msk s₀ s) (hm : Sub 0xFE5C6FFF701 msk) : Keeps msk s₀ (mirrorApply s p peer b) := by
  unfold mirrorApply
  repeat' first
    | with_reducible first | exact Keeps.refl _ | assumption | exact Sub.of hm rfl
    | dsimp only
    | with_reducible first
      | apply KeepsOE.ofE | apply keeps_linkRefused | apply keeps_sendAck | apply keeps_consumed | apply keeps_refuseEntry | apply keeps_applySeed
      | refine keeps_of_ok (by assumption) ?_ | apply keeps_applyToCopy | refine keeps_of_okopt (by assumption) ?_
      | refine keeps_of_pair (by assumption) ?_
    | split

theorem keeps_execMirrorEntry {msk : Nat} {s₀ : State} (part : Fin 32) (peer : Fin 64) (entry : List Byte) (s : State) (hk : Keeps msk s₀ s) (hm : Sub 0xFE5C6FFF701 msk) : KeepsR msk s₀ (execMirrorEntry part peer entry s) := by
  unfold execMirrorEntry
  repeat' first
    | with_reducible first | exact Keeps.refl _ | assumption | exact Sub.of hm rfl
    | dsimp only
    | with_reducible first
      | apply KeepsR.next | apply KeepsR.fault | apply keeps_mirrorApply
    | split

theorem keeps_execCxlLinkUp {msk : Nat} {s₀ : State} (speed : Nat) (width : Nat) (flit256 : Bool) (cacheOk : Bool) (memOk : Bool) (s : State) (hk : Keeps msk s₀ s) (hm : Sub 0xB2040000000 msk) : KeepsR msk s₀ (execCxlLinkUp speed width flit256 cacheOk memOk s) := by
  unfold execCxlLinkUp
  repeat' first
    | with_reducible first | exact Keeps.refl _ | assumption | exact Sub.of hm rfl
    | dsimp only
    | with_reducible first
      | apply KeepsR.next | apply keeps_raise
    | with_reducible refine Keeps.upd_cxl ?_ (Sub.of hm rfl); first
        | exact Keeps.refl _ | assumption | apply keeps_raise
    | split

theorem keeps_execCxlLinkRecovery {msk : Nat} {s₀ : State} (s : State) (hk : Keeps msk s₀ s) (_hm : Sub 0x0 msk) : KeepsR msk s₀ (execCxlLinkRecovery s) := by
  unfold execCxlLinkRecovery
  repeat' first
    | with_reducible first | exact Keeps.refl _ | assumption | exact Sub.of hm rfl
    | dsimp only
    | with_reducible first
      | apply KeepsR.next
    | split

theorem keeps_execIdeFail {msk : Nat} {s₀ : State} (s : State) (hk : Keeps msk s₀ s) (hm : Sub 0xB2040000000 msk) : KeepsR msk s₀ (execIdeFail s) := by
  unfold execIdeFail
  repeat' first
    | with_reducible first | exact Keeps.refl _ | assumption | exact Sub.of hm rfl
    | dsimp only
    | with_reducible first
      | apply KeepsR.next | apply keeps_raise
    | with_reducible refine Keeps.upd_cxl ?_ (Sub.of hm rfl); first
        | exact Keeps.refl _ | assumption | apply keeps_raise
    | split

theorem keeps_trackLine {msk : Nat} {s₀ : State} (s : State) (line : Nat) (hk : Keeps msk s₀ s) (hm : Sub 0x90040000000 msk) : Keeps msk s₀ (trackLine s line) := by
  unfold trackLine
  repeat' first
    | with_reducible first | exact Keeps.refl _ | assumption | exact Sub.of hm rfl
    | dsimp only
    | with_reducible first
      | apply keeps_sendBisnp
    | with_reducible refine Keeps.upd_cxl ?_ (Sub.of hm rfl); first
        | exact Keeps.refl _ | assumption | apply keeps_sendBisnp
    | split

theorem keeps_execCxlMemRead {msk : Nat} {s₀ : State} (dpa : Nat) (s : State) (hk : Keeps msk s₀ s) (hm : Sub 0xB2040420000 msk) : KeepsR msk s₀ (execCxlMemRead dpa s) := by
  unfold execCxlMemRead
  repeat' first
    | with_reducible first | exact Keeps.refl _ | assumption | exact Sub.of hm rfl
    | dsimp only
    | with_reducible first
      | apply KeepsR.next | apply KeepsR.fault | apply keeps_emit | apply keeps_readDev | apply keeps_trackLine
      | refine keeps_of_pair (by assumption) ?_
    | split

theorem keeps_execCxlMemWrite {msk : Nat} {s₀ : State} (dpa : Nat) (bytes : List Byte) (poison : Bool) (s : State) (hk : Keeps msk s₀ s) (hm : Sub 0xB2000430000 msk) : KeepsR msk s₀ (execCxlMemWrite dpa bytes poison s) := by
  unfold execCxlMemWrite
  repeat' first
    | with_reducible first | exact Keeps.refl _ | assumption | exact Sub.of hm rfl
    | dsimp only
    | with_reducible first
      | apply KeepsR.next | apply KeepsR.fault | apply keeps_emit | apply keeps_readDev | apply keeps_wroteDev | apply keeps_dropNarrow
      | apply keeps_devPutLine | refine keeps_of_pair (by assumption) ?_
    | split

theorem keeps_execBirsp {msk : Nat} {s₀ : State} (line : Nat) (s : State) (hk : Keeps msk s₀ s) (hm : Sub 0xBA0C247C601 msk) : KeepsR msk s₀ (execBirsp line s) := by
  unfold execBirsp
  repeat' first
    | with_reducible first | exact Keeps.refl _ | assumption | exact Sub.of hm rfl
    | dsimp only
    | with_reducible first
      | apply KeepsR.next | apply keeps_drainWrites
    | with_reducible refine Keeps.upd_cxl ?_ (Sub.of hm rfl); first
        | exact Keeps.refl _ | assumption | apply keeps_drainWrites
    | split

theorem keeps_execHostSnoop {msk : Nat} {s₀ : State} (line : Nat) (s : State) (hk : Keeps msk s₀ s) (hm : Sub 0xD004000C000 msk) : KeepsR msk s₀ (execHostSnoop line s) := by
  unfold execHostSnoop
  repeat' first
    | with_reducible first | exact Keeps.refl _ | assumption | exact Sub.of hm rfl
    | dsimp only
    | with_reducible first
      | apply KeepsR.next | apply keeps_drawBytes | apply keeps_emit | apply keeps_hostPut | refine keeps_of_pair (by assumption) ?_
    | with_reducible refine Keeps.upd_cxl ?_ (Sub.of hm rfl); first
        | exact Keeps.refl _ | assumption | apply keeps_drawBytes | apply keeps_emit | apply keeps_hostPut
        | refine keeps_of_pair (by assumption) ?_
    | split

theorem keeps_dcResult {msk : Nat} {s₀ : State} (s : State) (n : Nat) (hk : Keeps msk s₀ s) (hm : Sub 0x10000000000 msk) : Keeps msk s₀ (dcResult s n) := by
  unfold dcResult
  repeat' first
    | with_reducible first | exact Keeps.refl _ | assumption | exact Sub.of hm rfl
    | dsimp only
    | with_reducible first
      | apply keeps_wrf
    | split

theorem keeps_setExt {msk : Nat} {s₀ : State} (s : State) (e : Nat) (x : Extent) (hk : Keeps msk s₀ s) (hm : Sub 0xB2040000000 msk) : Keeps msk s₀ (setExt s e x) := by
  unfold setExt
  repeat' first
    | with_reducible first | exact Keeps.refl _ | assumption | exact Sub.of hm rfl
    | dsimp only
    | with_reducible first
      | apply keeps_raise
    | with_reducible refine Keeps.upd_cxl ?_ (Sub.of hm rfl); first
        | exact Keeps.refl _ | assumption | apply keeps_raise
    | split

theorem keeps_postDc {msk : Nat} {s₀ : State} (s : State) (release : Bool) (e : Nat) (hk : Keeps msk s₀ s) (hm : Sub 0x40000000 msk) : Keeps msk s₀ (postDc s release e) := by
  unfold postDc
  repeat' first
    | with_reducible first | exact Keeps.refl _ | assumption | exact Sub.of hm rfl
    | dsimp only
    | with_reducible refine Keeps.upd_cxl ?_ (Sub.of hm rfl); first
        | exact Keeps.refl _ | assumption
    | split

theorem keeps_zeroExt {msk : Nat} {s₀ : State} (s : State) (e : Nat) (hk : Keeps msk s₀ s) (hm : Sub 0x430000 msk) : Keeps msk s₀ (zeroExt s e) :=
  hk.trans ⟨rfl, rfl, Nat.le_refl _, Nat.le_refl _, id, fun w => filter_wf _ w, Nat.le_refl _, id,
    fun f hf => by have h2 := hm.bit hf; cases f <;> first | rfl | exact absurd h2 (by decide)⟩

theorem keeps_execDcAdd {msk : Nat} {s₀ : State} (s : State) (hk : Keeps msk s₀ s) (hm : Sub 0xB2040430000 msk) : KeepsR msk s₀ (execDcAdd s) := by
  unfold execDcAdd
  repeat' first
    | with_reducible first | exact Keeps.refl _ | assumption | exact Sub.of hm rfl
    | dsimp only
    | with_reducible first
      | apply KeepsR.next | apply keeps_hostWr | apply keeps_rmGate | apply keeps_dcResult | apply keeps_setExt | apply keeps_postDc
      | apply keeps_zeroExt | refine keeps_of_pair (by assumption) ?_
    | split

theorem keeps_releaseExt {msk : Nat} {s₀ : State} (s : State) (e : Nat) (hk : Keeps msk s₀ s) (hm : Sub 0xB2040000000 msk) : Keeps msk s₀ (releaseExt s e) := by
  unfold releaseExt
  repeat' first
    | with_reducible first | exact Keeps.refl _ | assumption | exact Sub.of hm rfl
    | dsimp only
    | with_reducible first
      | apply keeps_setExt | apply keeps_postDc
    | split

theorem keeps_execDcRelease {msk : Nat} {s₀ : State} (s : State) (hk : Keeps msk s₀ s) (hm : Sub 0xB2040000000 msk) : KeepsR msk s₀ (execDcRelease s) := by
  unfold execDcRelease
  repeat' first
    | with_reducible first | exact Keeps.refl _ | assumption | exact Sub.of hm rfl
    | dsimp only
    | with_reducible first
      | apply KeepsR.next | apply keeps_hostWr | apply keeps_rmGate | apply keeps_dcResult | apply keeps_releaseExt
      | refine keeps_of_pair (by assumption) ?_
    | split

theorem keeps_execDcRead {msk : Nat} {s₀ : State} (s : State) (hk : Keeps msk s₀ s) (hm : Sub 0x90000000000 msk) : KeepsR msk s₀ (execDcRead s) := by
  unfold execDcRead
  repeat' first
    | with_reducible first | exact Keeps.refl _ | assumption | exact Sub.of hm rfl
    | dsimp only
    | with_reducible first
      | apply KeepsR.next | apply keeps_wrf | apply keeps_hostWr | apply keeps_rmGate | apply keeps_dcResult
      | refine keeps_of_pair (by assumption) ?_
    | split

theorem keeps_execExtentUnused {msk : Nat} {s₀ : State} (ext : Fin 512) (s : State) (hk : Keeps msk s₀ s) (hm : Sub 0xB2040000000 msk) : KeepsR msk s₀ (execExtentUnused ext s) := by
  unfold execExtentUnused
  repeat' first
    | with_reducible first | exact Keeps.refl _ | assumption | exact Sub.of hm rfl
    | dsimp only
    | with_reducible first
      | apply KeepsR.next | apply keeps_setExt
    | split

theorem keeps_execExtentZeroed {msk : Nat} {s₀ : State} (ext : Fin 512) (s : State) (hk : Keeps msk s₀ s) (hm : Sub 0xB2040430000 msk) : KeepsR msk s₀ (execExtentZeroed ext s) := by
  unfold execExtentZeroed
  repeat' first
    | with_reducible first | exact Keeps.refl _ | assumption | exact Sub.of hm rfl
    | dsimp only
    | with_reducible first
      | apply KeepsR.next | apply keeps_setExt | apply keeps_zeroExt
    | split

theorem keeps_mbReply {msk : Nat} {s₀ : State} (s : State) (code : Nat) (ret : Nat) (b : List Byte) (hk : Keeps msk s₀ s) (hm : Sub 0x90000000000 msk) : Keeps msk s₀ (mbReply s code ret b) := by
  unfold mbReply
  repeat' first
    | with_reducible first | exact Keeps.refl _ | assumption | exact Sub.of hm rfl
    | dsimp only
    | with_reducible first
      | apply keeps_emit | refine keeps_mailbox _ _ _ _ (fun _ _ => ?_) ?_ (Sub.of hm rfl)
    | split

theorem keeps_mailboxIo {msk : Nat} {s₀ s : State} {code : Nat} {r : Res} (hk : Keeps msk s₀ s) (h : KeepsR msk s₀ r) (hm : Sub 0x80000000000 msk) : KeepsR msk s₀ (mailboxIo code s r) := by
  unfold mailboxIo
  repeat' first
    | with_reducible first | exact Keeps.refl _ | assumption | exact Sub.of hm rfl
    | with_reducible first | apply KeepsR.next | apply keeps_emit
    | split

theorem keeps_mailbox {msk : Nat} {s₀ : State} (code : Nat) (dc : Bool) (s : State) (k : State → State) (h_k : ∀ a, Keeps msk s₀ a → Keeps msk s₀ (k a )) (hk : Keeps msk s₀ s) (hm : Sub 0x90000000000 msk) : KeepsR msk s₀ (mailbox code dc s k) := by
  unfold mailbox
  repeat' first
    | with_reducible first | exact Keeps.refl _ | assumption | exact Sub.of hm rfl
    | dsimp only
    | with_reducible first
      | apply KeepsR.next | apply h_k | apply keeps_rmGate | apply keeps_mbReply | apply keeps_mailboxIo | refine keeps_of_pair (by assumption) ?_
    | split

theorem keeps_execAddDynamicCapacityResponse {msk : Nat} {s₀ : State} (exts : List (Nat × Nat)) (s : State) (hk : Keeps msk s₀ s) (hm : Sub 0xB2040000000 msk) : KeepsR msk s₀ (execAddDynamicCapacityResponse exts s) := by
  unfold execAddDynamicCapacityResponse
  repeat' first
    | with_reducible first | exact Keeps.refl _ | assumption | exact Sub.of hm rfl
    | dsimp only
    | with_reducible first
      | apply KeepsR.next | apply keeps_setExt | apply keeps_mbReply | refine keeps_mailbox _ _ _ _ (fun _ _ => ?_) ?_ (Sub.of hm rfl)
      | (apply keeps_foldl; intro _ _ _) | (apply keeps_foldl2; intro _ _ _)
    | split

theorem keeps_execReleaseDynamicCapacity {msk : Nat} {s₀ : State} (exts : List (Nat × Nat)) (s : State) (hk : Keeps msk s₀ s) (hm : Sub 0xB2040000000 msk) : KeepsR msk s₀ (execReleaseDynamicCapacity exts s) := by
  unfold execReleaseDynamicCapacity
  repeat' first
    | with_reducible first | exact Keeps.refl _ | assumption | exact Sub.of hm rfl
    | dsimp only
    | with_reducible first
      | apply KeepsR.next | apply keeps_setExt | apply keeps_mbReply | refine keeps_mailbox _ _ _ _ (fun _ _ => ?_) ?_ (Sub.of hm rfl)
      | (apply keeps_foldl; intro _ _ _) | (apply keeps_foldl2; intro _ _ _)
    | with_reducible refine Keeps.upd_cxl ?_ (Sub.of hm rfl); first
        | exact Keeps.refl _ | assumption | apply keeps_setExt | apply keeps_mbReply
        | refine keeps_mailbox _ _ _ _ (fun _ _ => ?_) ?_ (Sub.of hm rfl) | (apply keeps_foldl; intro _ _ _) | (apply keeps_foldl2; intro _ _ _)
    | split

theorem keeps_execIdentifyMemoryDevice {msk : Nat} {s₀ : State} (s : State) (hk : Keeps msk s₀ s) (hm : Sub 0xD0000000000 msk) : KeepsR msk s₀ (execIdentifyMemoryDevice s) := by
  unfold execIdentifyMemoryDevice
  repeat' first
    | with_reducible first | exact Keeps.refl _ | assumption | exact Sub.of hm rfl
    | dsimp only
    | with_reducible first
      | apply KeepsR.next | apply keeps_drawBytes | apply keeps_mbReply | refine keeps_mailbox _ _ _ _ (fun _ _ => ?_) ?_ (Sub.of hm rfl)
      | refine keeps_of_pair (by assumption) ?_
    | split

theorem keeps_execGetDynamicCapacityConfiguration {msk : Nat} {s₀ : State} (s : State) (hk : Keeps msk s₀ s) (hm : Sub 0xD0000000000 msk) : KeepsR msk s₀ (execGetDynamicCapacityConfiguration s) := by
  unfold execGetDynamicCapacityConfiguration
  repeat' first
    | with_reducible first | exact Keeps.refl _ | assumption | exact Sub.of hm rfl
    | dsimp only
    | with_reducible first
      | apply KeepsR.next | apply keeps_draw | apply keeps_mbReply | refine keeps_mailbox _ _ _ _ (fun _ _ => ?_) ?_ (Sub.of hm rfl)
      | refine keeps_of_pair (by assumption) ?_
    | split

theorem keeps_execGetDynamicCapacityExtentList {msk : Nat} {s₀ : State} (s : State) (hk : Keeps msk s₀ s) (hm : Sub 0x90000000000 msk) : KeepsR msk s₀ (execGetDynamicCapacityExtentList s) := by
  unfold execGetDynamicCapacityExtentList
  repeat' first
    | with_reducible first | exact Keeps.refl _ | assumption | exact Sub.of hm rfl
    | dsimp only
    | with_reducible first
      | apply KeepsR.next | apply keeps_mbReply | refine keeps_mailbox _ _ _ _ (fun _ _ => ?_) ?_ (Sub.of hm rfl)
    | split

theorem keeps_execGetEventRecords {msk : Nat} {s₀ : State} (log : Nat) (s : State) (hk : Keeps msk s₀ s) (hm : Sub 0x90000000000 msk) : KeepsR msk s₀ (execGetEventRecords log s) := by
  unfold execGetEventRecords
  repeat' first
    | with_reducible first | exact Keeps.refl _ | assumption | exact Sub.of hm rfl
    | dsimp only
    | with_reducible first
      | apply KeepsR.next | apply keeps_mbReply | apply keeps_mailboxIo | refine keeps_mailbox _ _ _ _ (fun _ _ => ?_) ?_ (Sub.of hm rfl)
    | split

theorem keeps_execClearEventRecords {msk : Nat} {s₀ : State} (log : Nat) (handles : List Nat) (s : State) (hk : Keeps msk s₀ s) (hm : Sub 0x90040000000 msk) : KeepsR msk s₀ (execClearEventRecords log handles s) := by
  unfold execClearEventRecords
  repeat' first
    | with_reducible first | exact Keeps.refl _ | assumption | exact Sub.of hm rfl
    | dsimp only
    | with_reducible first
      | apply KeepsR.next | apply keeps_mbReply | apply keeps_mailboxIo | refine keeps_mailbox _ _ _ _ (fun _ _ => ?_) ?_ (Sub.of hm rfl)
    | with_reducible refine Keeps.upd_cxl ?_ (Sub.of hm rfl); first
        | exact Keeps.refl _ | assumption | apply keeps_mbReply | apply keeps_mailboxIo
        | refine keeps_mailbox _ _ _ _ (fun _ _ => ?_) ?_ (Sub.of hm rfl)
    | split

theorem keeps_execUnsupportedMailboxCommand {msk : Nat} {s₀ : State} (code : Nat) (s : State) (hk : Keeps msk s₀ s) (hm : Sub 0x90000000000 msk) : KeepsR msk s₀ (execUnsupportedMailboxCommand code s) := by
  unfold execUnsupportedMailboxCommand
  repeat' first
    | with_reducible first | exact Keeps.refl _ | assumption | exact Sub.of hm rfl
    | dsimp only
    | with_reducible first
      | apply KeepsR.next | apply keeps_mbReply | apply keeps_mailboxIo
    | split

theorem keeps_pick {msk : Nat} {s₀ : State} (s : State) (l : List Nat) (d : Nat) (hk : Keeps msk s₀ s) (hm : Sub 0x40000000000 msk) : Keeps msk s₀ (pick s l d).2 := by
  unfold pick
  repeat' first
    | with_reducible first | exact Keeps.refl _ | assumption | exact Sub.of hm rfl
    | dsimp only
    | with_reducible first
      | apply keeps_draw | refine keeps_of_pair (by assumption) ?_
    | split

theorem keeps_execLinkCrcFail {msk : Nat} {s₀ : State} (link : Fin 20) (retrained : Bool) (s : State) (hk : Keeps msk s₀ s) (hm : Sub 0xFA000040003 msk) : KeepsR msk s₀ (execLinkCrcFail link retrained s) := by
  unfold execLinkCrcFail
  repeat' first
    | with_reducible first | exact Keeps.refl _ | assumption | exact Sub.of hm rfl
    | dsimp only
    | with_reducible first
      | apply KeepsR.next | apply keeps_draw | apply keeps_record | apply keeps_pick | refine keeps_of_pair (by assumption) ?_
    | with_reducible refine Keeps.upd_fabric ?_ (Sub.of hm rfl); first
        | exact Keeps.refl _ | assumption | apply keeps_draw | apply keeps_record | apply keeps_pick | refine keeps_of_pair (by assumption) ?_
    | split

theorem keeps_execReroute {msk : Nat} {s₀ : State} (n : Fin 5) (src : Fin 7) (dst : Fin 7) (s : State) (hk : Keeps msk s₀ s) (hm : Sub 0x2 msk) : KeepsR msk s₀ (execReroute n src dst s) := by
  unfold execReroute
  repeat' first
    | with_reducible first | exact Keeps.refl _ | assumption | exact Sub.of hm rfl
    | dsimp only
    | with_reducible first
      | apply KeepsR.next
    | with_reducible refine Keeps.upd_fabric ?_ (Sub.of hm rfl); first
        | exact Keeps.refl _ | assumption
    | split

theorem keeps_execCounterWrap {msk : Nat} {s₀ : State} (island : Fin 175) (s : State) (hk : Keeps msk s₀ s) (hm : Sub 0xFA000040005 msk) : KeepsR msk s₀ (execCounterWrap island s) := by
  unfold execCounterWrap
  repeat' first
    | with_reducible first | exact Keeps.refl _ | assumption | exact Sub.of hm rfl
    | dsimp only
    | with_reducible first
      | apply KeepsR.next | apply keeps_draw | apply keeps_record | refine keeps_of_pair (by assumption) ?_
    | with_reducible refine Keeps.upd_time ?_ (Sub.of hm rfl); first
        | exact Keeps.refl _ | assumption | apply keeps_draw | apply keeps_record | refine keeps_of_pair (by assumption) ?_
    | split

end Sys2Proof.Laws
end

