-- ==== Sys2Proof/Laws/KeepsSys.lean ====
section
/-! SUPPORT. `Keeps` for the commands of the cabinet, protection, search, security, steward, observation, power and the registers. -/
namespace Sys2Proof.Laws

open Sys2Proof.Machine Sys2Proof.Safety

set_option maxRecDepth 4000

theorem keeps_nameUnit {msk : Nat} {s₀ : State} (v : VIndex) (acc : Tab Nat × State) (u : Nat) (hk : Keeps msk s₀ acc.2) (hm : Sub 0x200000 msk) : Keeps msk s₀ (nameUnit v acc u).2 := by
  unfold nameUnit
  repeat' first
    | with_reducible first | exact Keeps.refl _ | assumption | exact Sub.of hm rfl
    | dsimp only
    | with_reducible refine Keeps.upd_cab ?_ (Sub.of hm rfl); first
        | exact Keeps.refl _ | assumption
    | split

theorem keeps_putIndex {msk : Nat} {s₀ : State} (s : State) (k : Nat) (v : VIndex) (hk : Keeps msk s₀ s) (hm : Sub 0xA00000 msk) : Keeps msk s₀ (putIndex s k v) := by
  unfold putIndex
  repeat' first
    | with_reducible first | exact Keeps.refl _ | assumption | exact Sub.of hm rfl
    | dsimp only
    | with_reducible first
      | apply keeps_dropUnit | apply keeps_nameUnit | (apply keeps_foldl; intro _ _ _) | (apply keeps_foldl2; intro _ _ _)
      | refine keeps_of_pair (by assumption) ?_
    | with_reducible refine Keeps.upd_vidx ?_ (Sub.of hm rfl); first
        | exact Keeps.refl _ | assumption | apply keeps_dropUnit | apply keeps_nameUnit | (apply keeps_foldl; intro _ _ _)
        | (apply keeps_foldl2; intro _ _ _) | refine keeps_of_pair (by assumption) ?_
    | split

theorem keeps_stageRecord {msk : Nat} {s₀ : State} (k : Nat) (s : State) (it : Item) (hk : Keeps msk s₀ s) (hm : Sub 0x200000 msk) : Keeps msk s₀ (stageRecord k s it) := by
  unfold stageRecord
  repeat' first
    | with_reducible first | exact Keeps.refl _ | assumption | exact Sub.of hm rfl
    | dsimp only
    | with_reducible first
      | apply keeps_stageUnit
    | split

theorem keeps_readTables {msk : Nat} {s₀ : State} (s : State) (k : Nat) (hk : Keeps msk s₀ s) (hm : Sub 0xBE1C6EFD701 msk) : Keeps msk s₀ (readTables s k).2 := by
  unfold readTables
  repeat' first
    | with_reducible first | exact Keeps.refl _ | assumption | exact Sub.of hm rfl
    | dsimp only
    | with_reducible first
      | apply keeps_readUse | refine keeps_of_pair (by assumption) ?_
    | split

theorem keeps_readIds {msk : Nat} {s₀ : State} (s : State) (k : Nat) (ids : List Nat) (hk : Keeps msk s₀ s) (hm : Sub 0xBE1C6EFD701 msk) : Keeps msk s₀ (readIds s k ids) := by
  unfold readIds
  repeat' first
    | with_reducible first | exact Keeps.refl _ | assumption | exact Sub.of hm rfl
    | dsimp only
    | with_reducible first
      | apply keeps_readUse | refine keeps_of_pair (by assumption) ?_
    | split

theorem keeps_vinsertFail {msk : Nat} {s₀ : State} (s : State) (id : Nat) (r : Req) (k : Nat) (n : Nat) (f : Fail) (hk : Keeps msk s₀ s) (hm : Sub 0xBE0C6C7D601 msk) : Keeps msk s₀ (vinsertFail s id r k n f) := by
  unfold vinsertFail
  repeat' first
    | with_reducible first | exact Keeps.refl _ | assumption | exact Sub.of hm rfl
    | dsimp only
    | with_reducible first
      | apply keeps_failReq
    | with_reducible refine Keeps.upd_vidx ?_ (Sub.of hm rfl); first
        | exact Keeps.refl _ | assumption | apply keeps_failReq
    | split

theorem keeps_vinsertItems {msk : Nat} {s₀ : State} (s : State) (id : Nat) (r : Req) (k : Nat) (fmt : Nat) (recs : List (List Byte)) (hk : Keeps msk s₀ s) (hm : Sub 0xBE0C6F7D701 msk) : Keeps msk s₀ (vinsertItems s id r k fmt recs) := by
  unfold vinsertItems
  repeat' first
    | with_reducible first | exact Keeps.refl _ | assumption | exact Sub.of hm rfl
    | dsimp only
    | with_reducible first
      | apply keeps_takeCharge | apply keeps_takeShare | apply keeps_complete | apply keeps_putIndex | apply keeps_stageRecord
      | apply keeps_vinsertFail | (apply keeps_foldl; intro _ _ _) | (apply keeps_foldl2; intro _ _ _) | refine keeps_of_pair (by assumption) ?_
    | split

theorem keeps_doVinsert {msk : Nat} {s₀ : State} (s : State) (id : Nat) (r : Req) (hk : Keeps msk s₀ s) (hm : Sub 0xBE1C6FFD701 msk) : Keeps msk s₀ (doVinsert s id r) := by
  unfold doVinsert
  repeat' first
    | with_reducible first | exact Keeps.refl _ | assumption | exact Sub.of hm rfl
    | dsimp only
    | with_reducible first
      | apply keeps_refRead | apply keeps_failReq | apply keeps_readTables | apply keeps_readIds | apply keeps_vinsertFail
      | apply keeps_vinsertItems | refine keeps_of_pair (by assumption) ?_
    | split

theorem keeps_execVinsert {msk : Nat} {s₀ : State} (ring : Fin 4096) (s : State) (hk : Keeps msk s₀ s) (hm : Sub 0xBE1C6FFF701 msk) : KeepsR msk s₀ (execVinsert ring s) := by
  unfold execVinsert
  repeat' first
    | with_reducible first | exact Keeps.refl _ | assumption | exact Sub.of hm rfl
    | dsimp only
    | with_reducible first
      | apply KeepsR.next | refine keeps_admitOp _ _ _ _ (fun _ _ _ _ => ?_) ?_ (Sub.of hm rfl) | apply keeps_doVinsert
    | split

theorem keeps_doVdelete {msk : Nat} {s₀ : State} (s : State) (id : Nat) (r : Req) (hk : Keeps msk s₀ s) (hm : Sub 0xBE1C6FFD701 msk) : Keeps msk s₀ (doVdelete s id r) := by
  unfold doVdelete
  repeat' first
    | with_reducible first | exact Keeps.refl _ | assumption | exact Sub.of hm rfl
    | dsimp only
    | with_reducible first
      | apply keeps_takeCharge | apply keeps_refRead | apply keeps_complete | apply keeps_failReq | apply keeps_putIndex | apply keeps_readIds
      | refine keeps_of_pair (by assumption) ?_
    | with_reducible refine Keeps.upd_vidx ?_ (Sub.of hm rfl); first
        | exact Keeps.refl _ | assumption | apply keeps_takeCharge | apply keeps_refRead | apply keeps_complete | apply keeps_failReq
        | apply keeps_putIndex | apply keeps_readIds | refine keeps_of_pair (by assumption) ?_
    | split

theorem keeps_execVdelete {msk : Nat} {s₀ : State} (ring : Fin 4096) (s : State) (hk : Keeps msk s₀ s) (hm : Sub 0xBE1C6FFF701 msk) : KeepsR msk s₀ (execVdelete ring s) := by
  unfold execVdelete
  repeat' first
    | with_reducible first | exact Keeps.refl _ | assumption | exact Sub.of hm rfl
    | dsimp only
    | with_reducible first
      | apply KeepsR.next | refine keeps_admitOp _ _ _ _ (fun _ _ _ _ => ?_) ?_ (Sub.of hm rfl) | apply keeps_doVdelete
    | split

theorem keeps_searchEnded {msk : Nat} {s₀ : State} (s : State) (r : Req) (x : Srch) (hk : Keeps msk s₀ s) (hm : Sub 0xA00000 msk) : Keeps msk s₀ (searchEnded s r x) := by
  unfold searchEnded
  repeat' first
    | with_reducible first | exact Keeps.refl _ | assumption | exact Sub.of hm rfl
    | dsimp only
    | with_reducible first
      | apply keeps_putIndex
    | with_reducible refine Keeps.upd_vidx ?_ (Sub.of hm rfl); first
        | exact Keeps.refl _ | assumption | apply keeps_putIndex
    | split

theorem keeps_failSearch {msk : Nat} {s₀ : State} (s : State) (id : Nat) (r : Req) (x : Srch) (f : Fail) (hk : Keeps msk s₀ s) (hm : Sub 0xBE0C6E7D601 msk) : Keeps msk s₀ (failSearch s id r x f) := by
  unfold failSearch
  repeat' first
    | with_reducible first | exact Keeps.refl _ | assumption | exact Sub.of hm rfl
    | dsimp only
    | with_reducible first
      | apply keeps_failReq | apply keeps_searchEnded
    | split

theorem keeps_startStep {msk : Nat} {s₀ : State} (s : State) (id : Nat) (r : Req) (x : Srch) (step : SearchStep) (n : Nat) (hk : Keeps msk s₀ s) (hm : Sub 0x1000 msk) : Keeps msk s₀ (startStep s id r x step n) := by
  unfold startStep
  repeat' first
    | with_reducible first | exact Keeps.refl _ | assumption | exact Sub.of hm rfl
    | dsimp only
    | with_reducible first
      | apply keeps_setReq
    | split

theorem keeps_endRank {msk : Nat} {s₀ : State} (s : State) (id : Nat) (r : Req) (x : Srch) (hk : Keeps msk s₀ s) (hm : Sub 0xBE0C6E7D601 msk) : Keeps msk s₀ (endRank s id r x) := by
  unfold endRank
  repeat' first
    | with_reducible first | exact Keeps.refl _ | assumption | exact Sub.of hm rfl
    | dsimp only
    | with_reducible first
      | apply keeps_deliver | apply keeps_searchEnded | apply keeps_startStep
    | split

theorem keeps_startRank {msk : Nat} {s₀ : State} (s : State) (id : Nat) (r : Req) (x : Srch) (step : SearchStep) (hk : Keeps msk s₀ s) (hm : Sub 0xBE0C6E7D601 msk) : Keeps msk s₀ (startRank s id r x step) := by
  unfold startRank
  repeat' first
    | with_reducible first | exact Keeps.refl _ | assumption | exact Sub.of hm rfl
    | dsimp only
    | with_reducible first
      | apply keeps_startStep | apply keeps_endRank
    | split

theorem keeps_endScan {msk : Nat} {s₀ : State} (s : State) (id : Nat) (r : Req) (x : Srch) (hk : Keeps msk s₀ s) (hm : Sub 0xBE0C6E7D601 msk) : Keeps msk s₀ (endScan s id r x) := by
  unfold endScan
  repeat' first
    | with_reducible first | exact Keeps.refl _ | assumption | exact Sub.of hm rfl
    | dsimp only
    | with_reducible first
      | apply keeps_startRank
    | split

theorem keeps_endCoarse {msk : Nat} {s₀ : State} (s : State) (id : Nat) (r : Req) (x : Srch) (hk : Keeps msk s₀ s) (hm : Sub 0x1000 msk) : Keeps msk s₀ (endCoarse s id r x) := by
  unfold endCoarse
  repeat' first
    | with_reducible first | exact Keeps.refl _ | assumption | exact Sub.of hm rfl
    | dsimp only
    | with_reducible first
      | apply keeps_startStep
    | split

theorem keeps_readRecord {msk : Nat} {s₀ : State} (k : Nat) (acc : Srch × State) (loc : Nat) (hk : Keeps msk s₀ acc.2) (hm : Sub 0xA00000 msk) : Keeps msk s₀ (readRecord k acc loc).2 := by
  unfold readRecord
  repeat' first
    | with_reducible first | exact Keeps.refl _ | assumption | exact Sub.of hm rfl
    | dsimp only
    | with_reducible first
      | apply keeps_countRead
    | with_reducible refine Keeps.upd_vidx ?_ (Sub.of hm rfl); first
        | exact Keeps.refl _ | assumption | apply keeps_countRead
    | split

theorem keeps_endTask {msk : Nat} {s₀ : State} (s : State) (id : Nat) (r : Req) (x : Srch) (hk : Keeps msk s₀ s) (hm : Sub 0xBE0C6E7D601 msk) : Keeps msk s₀ (endTask s id r x) := by
  unfold endTask
  repeat' first
    | with_reducible first | exact Keeps.refl _ | assumption | exact Sub.of hm rfl
    | dsimp only
    | with_reducible first
      | apply keeps_setReq | apply keeps_endRank | apply keeps_endScan | apply keeps_endCoarse
    | split

theorem keeps_runTask {msk : Nat} {s₀ : State} (s : State) (id : Nat) (r : Req) (x0 : Srch) (run : Nat) (tile : Nat) (hk : Keeps msk s₀ s) (hm : Sub 0xBE1C6EFD7C1 msk) : Keeps msk s₀ (runTask s id r x0 run tile) := by
  unfold runTask
  repeat' first
    | with_reducible first | exact Keeps.refl _ | assumption | exact Sub.of hm rfl
    | dsimp only
    | with_reducible first
      | apply keeps_readUse | apply keeps_passTurn | apply keeps_readTables | apply keeps_failSearch | apply keeps_readRecord | apply keeps_endTask
      | (apply keeps_foldl; intro _ _ _) | (apply keeps_foldl2; intro _ _ _) | refine keeps_of_pair (by assumption) ?_
    | with_reducible refine Keeps.upd_tileTag ?_ (Sub.of hm rfl); first
        | exact Keeps.refl _ | assumption | apply keeps_readUse | apply keeps_passTurn | apply keeps_readTables | apply keeps_failSearch
        | apply keeps_readRecord | apply keeps_endTask | (apply keeps_foldl; intro _ _ _) | (apply keeps_foldl2; intro _ _ _)
        | refine keeps_of_pair (by assumption) ?_
    | split

theorem keeps_dispatchTask {msk : Nat} {s₀ : State} (s : State) (id : Nat) (r : Req) (x : Srch) (run : Nat) (tile : Nat) (hk : Keeps msk s₀ s) (hm : Sub 0xBE1C6EFD7C1 msk) : Keeps msk s₀ (dispatchTask s id r x run tile) := by
  unfold dispatchTask
  repeat' first
    | with_reducible first | exact Keeps.refl _ | assumption | exact Sub.of hm rfl
    | dsimp only
    | with_reducible first
      | apply keeps_runTask
    | split

theorem keeps_execRunDispatch {msk : Nat} {s₀ : State} (req : Nat) (run : Nat) (tile : Option (Fin 192)) (s : State) (hk : Keeps msk s₀ s) (hm : Sub 0xFE1C6EFD7C1 msk) : KeepsR msk s₀ (execRunDispatch req run tile s) := by
  unfold execRunDispatch
  repeat' first
    | with_reducible first | exact Keeps.refl _ | assumption | exact Sub.of hm rfl
    | dsimp only
    | with_reducible first
      | apply KeepsR.next | apply keeps_endAttend | apply keeps_dispatchRun | apply keeps_failSearch | apply keeps_dispatchTask
    | split

theorem keeps_doSearch {msk : Nat} {s₀ : State} (s : State) (id : Nat) (r : Req) (hk : Keeps msk s₀ s) (hm : Sub 0xBE0C6E7D601 msk) : Keeps msk s₀ (doSearch s id r) := by
  unfold doSearch
  repeat' first
    | with_reducible first | exact Keeps.refl _ | assumption | exact Sub.of hm rfl
    | dsimp only
    | with_reducible first
      | apply keeps_refRead | apply keeps_failReq | apply keeps_failSearch | apply keeps_startStep | refine keeps_of_pair (by assumption) ?_
    | split

theorem keeps_execSearch {msk : Nat} {s₀ : State} (ring : Fin 4096) (s : State) (hk : Keeps msk s₀ s) (hm : Sub 0xBE0C6E7F601 msk) : KeepsR msk s₀ (execSearch ring s) := by
  unfold execSearch
  repeat' first
    | with_reducible first | exact Keeps.refl _ | assumption | exact Sub.of hm rfl
    | dsimp only
    | with_reducible first
      | apply KeepsR.next | refine keeps_admitOp _ _ _ _ (fun _ _ _ _ => ?_) ?_ (Sub.of hm rfl) | apply keeps_doSearch
    | split

theorem keeps_startMerge {msk : Nat} {s₀ : State} (s : State) (id : Nat) (r : Req) (hk : Keeps msk s₀ s) (hm : Sub 0xBE0C6F7D701 msk) : Keeps msk s₀ (startMerge s id r) := by
  unfold startMerge
  repeat' first
    | with_reducible first | exact Keeps.refl _ | assumption | exact Sub.of hm rfl
    | dsimp only
    | with_reducible first
      | apply keeps_setReq | apply keeps_takeCharge | apply keeps_failReq | apply keeps_putIndex | refine keeps_of_pair (by assumption) ?_
    | with_reducible refine Keeps.upd_vidx ?_ (Sub.of hm rfl); first
        | exact Keeps.refl _ | assumption | apply keeps_setReq | apply keeps_takeCharge | apply keeps_failReq | apply keeps_putIndex
        | refine keeps_of_pair (by assumption) ?_
    | split

theorem keeps_doVmerge {msk : Nat} {s₀ : State} (s : State) (id : Nat) (r : Req) (hk : Keeps msk s₀ s) (hm : Sub 0xBE0C6F7D701 msk) : Keeps msk s₀ (doVmerge s id r) := by
  unfold doVmerge
  repeat' first
    | with_reducible first | exact Keeps.refl _ | assumption | exact Sub.of hm rfl
    | dsimp only
    | with_reducible first
      | apply keeps_setReq | apply keeps_failReq | apply keeps_startMerge
    | split

theorem keeps_execVmerge {msk : Nat} {s₀ : State} (ring : Fin 4096) (s : State) (hk : Keeps msk s₀ s) (hm : Sub 0xBE0C6F7F701 msk) : KeepsR msk s₀ (execVmerge ring s) := by
  unfold execVmerge
  repeat' first
    | with_reducible first | exact Keeps.refl _ | assumption | exact Sub.of hm rfl
    | dsimp only
    | with_reducible first
      | apply KeepsR.next | refine keeps_admitOp _ _ _ _ (fun _ _ _ _ => ?_) ?_ (Sub.of hm rfl) | apply keeps_doVmerge
    | split

theorem keeps_nextMerge {msk : Nat} {s₀ : State} (s : State) (p : Nat) (h : Nat) (hk : Keeps msk s₀ s) (hm : Sub 0xBE0C6F7D701 msk) : Keeps msk s₀ (nextMerge s p h) := by
  unfold nextMerge
  repeat' first
    | with_reducible first | exact Keeps.refl _ | assumption | exact Sub.of hm rfl
    | dsimp only
    | with_reducible first
      | apply keeps_startMerge | (apply keeps_foldl; intro _ _ _) | (apply keeps_foldl2; intro _ _ _)
    | split

theorem keeps_repairItems {msk : Nat} {s₀ : State} (s : State) (k : Nat) (v : VIndex) (lists : Option Nat) (hk : Keeps msk s₀ s) (hm : Sub 0x200000 msk) : Keeps msk s₀ (repairItems s k v lists).2 := by
  unfold repairItems
  repeat' first
    | with_reducible first | exact Keeps.refl _ | assumption | exact Sub.of hm rfl
    | dsimp only
    | with_reducible first
      | apply keeps_countRead | (apply keeps_foldl; intro _ _ _) | (apply keeps_foldl2; intro _ _ _)
    | split

theorem keeps_keepOld {msk : Nat} {s₀ : State} (s : State) (k : Nat) (v : VIndex) (hk : Keeps msk s₀ s) (hm : Sub 0x1000 msk) : Keeps msk s₀ (keepOld s k v) := by
  unfold keepOld
  repeat' first
    | with_reducible first | exact Keeps.refl _ | assumption | exact Sub.of hm rfl
    | dsimp only
    | with_reducible refine Keeps.upd_reqs ?_ (Sub.of hm rfl); first
        | exact Keeps.refl _ | assumption
    | split

theorem keeps_execVmergeSwitch {msk : Nat} {s₀ : State} (part : Fin 32) (handle : Nat) (s : State) (hk : Keeps msk s₀ s) (hm : Sub 0xBE0C6F7D701 msk) : KeepsR msk s₀ (execVmergeSwitch part handle s) := by
  unfold execVmergeSwitch
  repeat' first
    | with_reducible first | exact Keeps.refl _ | assumption | exact Sub.of hm rfl
    | dsimp only
    | with_reducible first
      | apply KeepsR.next | apply keeps_complete | apply keeps_putIndex | apply keeps_nextMerge | apply keeps_repairItems | apply keeps_keepOld
      | refine keeps_of_pair (by assumption) ?_
    | split

theorem keeps_execStatusRecordWrite {msk : Nat} {s₀ : State} (part : Fin 32) (handle : Nat) (s : State) (hk : Keeps msk s₀ s) (hm : Sub 0xBA0C2C7C601 msk) : KeepsR msk s₀ (execStatusRecordWrite part handle s) := by
  unfold execStatusRecordWrite
  repeat' first
    | with_reducible first | exact Keeps.refl _ | assumption | exact Sub.of hm rfl
    | dsimp only
    | with_reducible first
      | apply KeepsR.next | apply keeps_refWrite
    | with_reducible refine Keeps.upd_vidx ?_ (Sub.of hm rfl); first
        | exact Keeps.refl _ | assumption | apply keeps_refWrite
    | split

theorem keeps_flashFlags {msk : Nat} {s₀ : State} (old : Nat) (s : State) (hk : Keeps msk s₀ s) (hm : Sub 0xB2000200000 msk) : Keeps msk s₀ (flashFlags old s) := by
  unfold flashFlags
  repeat' first
    | with_reducible first | exact Keeps.refl _ | assumption | exact Sub.of hm rfl
    | dsimp only
    | with_reducible first
      | apply keeps_raise
    | with_reducible refine Keeps.upd_cab ?_ (Sub.of hm rfl); first
        | exact Keeps.refl _ | assumption | apply keeps_raise
    | split

theorem keeps_eraseBlock {msk : Nat} {s₀ : State} (s : State) (b : Nat) (hk : Keeps msk s₀ s) (hm : Sub 0xB2000200000 msk) : Keeps msk s₀ (eraseBlock s b) := by
  unfold eraseBlock
  repeat' first
    | with_reducible first | exact Keeps.refl _ | assumption | exact Sub.of hm rfl
    | dsimp only
    | with_reducible first
      | apply keeps_setEblock | apply keeps_flashFlags
    | split

theorem keeps_markBad {msk : Nat} {s₀ : State} (s : State) (b : Nat) (hk : Keeps msk s₀ s) (hm : Sub 0xB2000200000 msk) : Keeps msk s₀ (markBad s b) := by
  unfold markBad
  repeat' first
    | with_reducible first | exact Keeps.refl _ | assumption | exact Sub.of hm rfl
    | dsimp only
    | with_reducible first
      | apply keeps_raise | apply keeps_setEblock
    | with_reducible refine Keeps.upd_cab ?_ (Sub.of hm rfl); first
        | exact Keeps.refl _ | assumption | apply keeps_raise | apply keeps_setEblock
    | split

theorem keeps_restage {msk : Nat} {s₀ : State} (s : State) (e : Nat × CabUnit) (hk : Keeps msk s₀ s) (hm : Sub 0x200000 msk) : Keeps msk s₀ (restage s e) := by
  unfold restage
  repeat' first
    | with_reducible first | exact Keeps.refl _ | assumption | exact Sub.of hm rfl
    | dsimp only
    | with_reducible first
      | apply keeps_stageUnit | apply keeps_countRead
    | with_reducible refine Keeps.upd_cab ?_ (Sub.of hm rfl); first
        | exact Keeps.refl _ | assumption | apply keeps_stageUnit | apply keeps_countRead
    | split

theorem keeps_moveUnits {msk : Nat} {s₀ : State} (s : State) (b : Nat) (page : Option Nat) (hk : Keeps msk s₀ s) (hm : Sub 0x200000 msk) : Keeps msk s₀ (moveUnits s b page) := by
  unfold moveUnits
  repeat' first
    | with_reducible first | exact Keeps.refl _ | assumption | exact Sub.of hm rfl
    | dsimp only
    | with_reducible first
      | apply keeps_restage | (apply keeps_foldl; intro _ _ _) | (apply keeps_foldl2; intro _ _ _)
    | with_reducible refine Keeps.upd_cab ?_ (Sub.of hm rfl); first
        | exact Keeps.refl _ | assumption | apply keeps_restage | (apply keeps_foldl; intro _ _ _) | (apply keeps_foldl2; intro _ _ _)
    | split

theorem keeps_execGarbageCollection {msk : Nat} {s₀ : State} (s : State) (hk : Keeps msk s₀ s) (hm : Sub 0xB2000200100 msk) : KeepsR msk s₀ (execGarbageCollection s) := by
  unfold execGarbageCollection
  repeat' first
    | with_reducible first | exact Keeps.refl _ | assumption | exact Sub.of hm rfl
    | dsimp only
    | with_reducible first
      | apply KeepsR.next | apply keeps_releaseRetained | apply keeps_flashFlags | apply keeps_eraseBlock | apply keeps_moveUnits
      | (apply keeps_foldl; intro _ _ _) | (apply keeps_foldl2; intro _ _ _)
    | split

theorem keeps_execStaticWearLevelling {msk : Nat} {s₀ : State} (s : State) (hk : Keeps msk s₀ s) (hm : Sub 0xB2000200000 msk) : KeepsR msk s₀ (execStaticWearLevelling s) := by
  unfold execStaticWearLevelling
  repeat' first
    | with_reducible first | exact Keeps.refl _ | assumption | exact Sub.of hm rfl
    | dsimp only
    | with_reducible first
      | apply KeepsR.next | apply keeps_setEblock | apply keeps_eraseBlock
    | with_reducible refine Keeps.upd_cab ?_ (Sub.of hm rfl); first
        | exact Keeps.refl _ | assumption | apply keeps_setEblock | apply keeps_eraseBlock
    | split

theorem keeps_execReadDisturbRelocation {msk : Nat} {s₀ : State} (block : Nat) (s : State) (hk : Keeps msk s₀ s) (hm : Sub 0xB2000200000 msk) : KeepsR msk s₀ (execReadDisturbRelocation block s) := by
  unfold execReadDisturbRelocation
  repeat' first
    | with_reducible first | exact Keeps.refl _ | assumption | exact Sub.of hm rfl
    | dsimp only
    | with_reducible first
      | apply KeepsR.next | apply keeps_bump | apply keeps_eraseBlock | apply keeps_moveUnits
    | split

theorem keeps_patrolNext {msk : Nat} {s₀ : State} (s : State) (hk : Keeps msk s₀ s) (hm : Sub 0xB2000200000 msk) : Keeps msk s₀ (patrolNext s) := by
  unfold patrolNext
  repeat' first
    | with_reducible first | exact Keeps.refl _ | assumption | exact Sub.of hm rfl
    | dsimp only
    | with_reducible first
      | apply keeps_wrf | apply keeps_raise
    | with_reducible refine Keeps.upd_cab ?_ (Sub.of hm rfl); first
        | exact Keeps.refl _ | assumption | apply keeps_wrf | apply keeps_raise
    | split

theorem keeps_stripeRebuilt {msk : Nat} {s₀ : State} (s : State) (hk : Keeps msk s₀ s) (hm : Sub 0xB2000000000 msk) : Keeps msk s₀ (stripeRebuilt s) := by
  unfold stripeRebuilt
  repeat' first
    | with_reducible first | exact Keeps.refl _ | assumption | exact Sub.of hm rfl
    | dsimp only
    | with_reducible first
      | apply keeps_bump | apply keeps_raise
    | split

theorem keeps_patrolSees {msk : Nat} {s₀ : State} (s : State) (page : Nat × Nat) (hk : Keeps msk s₀ s) (hm : Sub 0xBE1C667D701 msk) : Keeps msk s₀ (patrolSees s page) := by
  unfold patrolSees
  repeat' first
    | with_reducible first | exact Keeps.refl _ | assumption | exact Sub.of hm rfl
    | dsimp only
    | with_reducible first
      | apply keeps_damage | apply keeps_setEblock | (apply keeps_foldl; intro _ _ _) | (apply keeps_foldl2; intro _ _ _)
    | split

theorem keeps_execPatrolRead {msk : Nat} {s₀ : State} (corrected : Nat) (bad : Bool) (s : State) (hk : Keeps msk s₀ s) (hm : Sub 0xBE1C667D701 msk) : KeepsR msk s₀ (execPatrolRead corrected bad s) := by
  unfold execPatrolRead
  repeat' first
    | with_reducible first | exact Keeps.refl _ | assumption | exact Sub.of hm rfl
    | dsimp only
    | with_reducible first
      | apply KeepsR.next | apply keeps_bump | apply keeps_setEblock | apply keeps_markBad | apply keeps_moveUnits | apply keeps_patrolNext
      | apply keeps_stripeRebuilt | apply keeps_patrolSees
    | split

theorem keeps_blockLost {msk : Nat} {s₀ : State} (s : State) (n : Nat) (u : CabUnit) (hk : Keeps msk s₀ s) (hm : Sub 0xBE1C67FD701 msk) : Keeps msk s₀ (blockLost s n u) := by
  unfold blockLost
  repeat' first
    | with_reducible first | exact Keeps.refl _ | assumption | exact Sub.of hm rfl
    | dsimp only
    | with_reducible first
      | apply keeps_bump | apply keeps_raise | apply keeps_releaseRetained | apply keeps_damage | apply keeps_runIntegrity
      | apply keeps_liftSkipped | (apply keeps_foldl; intro _ _ _) | (apply keeps_foldl2; intro _ _ _)
    | split

theorem keeps_recordLost {msk : Nat} {s₀ : State} (s : State) (unit : Nat) (hk : Keeps msk s₀ s) (hm : Sub 0xB2000801000 msk) : Keeps msk s₀ (recordLost s unit) := by
  unfold recordLost
  repeat' first
    | with_reducible first | exact Keeps.refl _ | assumption | exact Sub.of hm rfl
    | dsimp only
    | with_reducible first
      | apply keeps_bump | apply keeps_raise | apply keeps_failRecord
    | split

theorem keeps_execBlockReadFail {msk : Nat} {s₀ : State} (unit : Nat) (errs : BlockErrs) (s : State) (hk : Keeps msk s₀ s) (hm : Sub 0xBE1C6FFD701 msk) : KeepsR msk s₀ (execBlockReadFail unit errs s) := by
  unfold execBlockReadFail
  repeat' first
    | with_reducible first | exact Keeps.refl _ | assumption | exact Sub.of hm rfl
    | dsimp only
    | with_reducible first
      | apply KeepsR.next | apply keeps_countRead | apply keeps_stripeRebuilt | apply keeps_blockLost | apply keeps_recordLost
    | split

theorem keeps_tblResult {msk : Nat} {s₀ : State} (s : State) (r : Nat) (hk : Keeps msk s₀ s) (hm : Sub 0x10000000000 msk) : Keeps msk s₀ (tblResult s r) := by
  unfold tblResult
  repeat' first
    | with_reducible first | exact Keeps.refl _ | assumption | exact Sub.of hm rfl
    | dsimp only
    | with_reducible first
      | apply keeps_wrf
    | split

theorem keeps_tblInstall {msk : Nat} {s₀ : State} (s : State) (id : Nat) (hk : Keeps msk s₀ s) (hm : Sub 0x10000200000 msk) : Keeps msk s₀ (tblInstall s id) := by
  unfold tblInstall
  repeat' first
    | with_reducible first | exact Keeps.refl _ | assumption | exact Sub.of hm rfl
    | dsimp only
    | with_reducible first
      | apply keeps_tblResult
    | with_reducible refine Keeps.upd_cab ?_ (Sub.of hm rfl); first
        | exact Keeps.refl _ | assumption | apply keeps_tblResult
    | split

theorem keeps_tblRetire {msk : Nat} {s₀ : State} (s : State) (id : Nat) (hk : Keeps msk s₀ s) (hm : Sub 0x10000200000 msk) : Keeps msk s₀ (tblRetire s id) := by
  unfold tblRetire
  repeat' first
    | with_reducible first | exact Keeps.refl _ | assumption | exact Sub.of hm rfl
    | dsimp only
    | with_reducible first
      | apply keeps_tblResult
    | with_reducible refine Keeps.upd_cab ?_ (Sub.of hm rfl); first
        | exact Keeps.refl _ | assumption | apply keeps_tblResult
    | split

theorem keeps_tblRun {msk : Nat} {s₀ : State} (s : State) (c : Bool × Nat) (hk : Keeps msk s₀ s) (hm : Sub 0x50000200000 msk) : Keeps msk s₀ (tblRun s c) := by
  unfold tblRun
  repeat' first
    | with_reducible first | exact Keeps.refl _ | assumption | exact Sub.of hm rfl
    | dsimp only
    | with_reducible first
      | apply keeps_draw | apply keeps_tblResult | apply keeps_tblInstall | apply keeps_tblRetire | refine keeps_of_pair (by assumption) ?_
    | split

theorem keeps_tblCommand {msk : Nat} {s₀ : State} (s : State) (install : Bool) (id : Nat) (hk : Keeps msk s₀ s) (hm : Sub 0x50000200000 msk) : KeepsR msk s₀ (tblCommand s install id) := by
  unfold tblCommand
  repeat' first
    | with_reducible first | exact Keeps.refl _ | assumption | exact Sub.of hm rfl
    | dsimp only
    | with_reducible first
      | apply KeepsR.next | apply KeepsR.fault | apply keeps_rmGate | apply keeps_tblResult | apply keeps_tblRun
      | refine keeps_of_pair (by assumption) ?_
    | with_reducible refine Keeps.upd_cab ?_ (Sub.of hm rfl); first
        | exact Keeps.refl _ | assumption | apply keeps_rmGate | apply keeps_tblResult | apply keeps_tblRun
        | refine keeps_of_pair (by assumption) ?_
    | split

theorem keeps_tblResume {msk : Nat} {s₀ : State} (s : State) (hk : Keeps msk s₀ s) (hm : Sub 0x50000200000 msk) : Keeps msk s₀ (tblResume s) := by
  unfold tblResume
  repeat' first
    | with_reducible first | exact Keeps.refl _ | assumption | exact Sub.of hm rfl
    | dsimp only
    | with_reducible first
      | apply keeps_tblRun | (apply keeps_foldl; intro _ _ _) | (apply keeps_foldl2; intro _ _ _)
    | with_reducible refine Keeps.upd_cab ?_ (Sub.of hm rfl); first
        | exact Keeps.refl _ | assumption | apply keeps_tblRun | (apply keeps_foldl; intro _ _ _) | (apply keeps_foldl2; intro _ _ _)
    | split

theorem keeps_execCabTblInstall {msk : Nat} {s₀ : State} (id : Nat) (s : State) (hk : Keeps msk s₀ s) (hm : Sub 0xD0000200000 msk) : KeepsR msk s₀ (execCabTblInstall id s) := by
  unfold execCabTblInstall
  repeat' first
    | with_reducible first | exact Keeps.refl _ | assumption | exact Sub.of hm rfl
    | dsimp only
    | with_reducible first
      | apply KeepsR.next | apply keeps_hostWr | apply keeps_tblCommand
    | split

theorem keeps_execCabTblRetire {msk : Nat} {s₀ : State} (id : Nat) (s : State) (hk : Keeps msk s₀ s) (hm : Sub 0xD0000200000 msk) : KeepsR msk s₀ (execCabTblRetire id s) := by
  unfold execCabTblRetire
  repeat' first
    | with_reducible first | exact Keeps.refl _ | assumption | exact Sub.of hm rfl
    | dsimp only
    | with_reducible first
      | apply KeepsR.next | apply keeps_hostWr | apply keeps_tblCommand
    | split

theorem keeps_execCorrectedWriteback {msk : Nat} {s₀ : State} (stack : Fin 16) (line : Nat) (s : State) (hk : Keeps msk s₀ s) (hm : Sub 0x440000 msk) : KeepsR msk s₀ (execCorrectedWriteback stack line s) := by
  unfold execCorrectedWriteback
  repeat' first
    | with_reducible first | exact Keeps.refl _ | assumption | exact Sub.of hm rfl
    | dsimp only
    | with_reducible first
      | apply KeepsR.next | apply keeps_setHbm | apply keeps_askLine
    | split

theorem keeps_meetLine {msk : Nat} {s₀ : State} (s : State) (k : Nat) (line : Nat) (hk : Keeps msk s₀ s) (hm : Sub 0xBE1C6EFD701 msk) : Keeps msk s₀ (meetLine s k line).2 := by
  unfold meetLine
  repeat' first
    | with_reducible first | exact Keeps.refl _ | assumption | exact Sub.of hm rfl
    | dsimp only
    | with_reducible first
      | apply keeps_setHbm | apply keeps_askLine | apply keeps_readLine | apply keeps_damage | apply keeps_lostCopy
      | refine keeps_of_pair (by assumption) ?_
    | split

theorem keeps_scrubNext {msk : Nat} {s₀ : State} (s : State) (k : Nat) (hk : Keeps msk s₀ s) (hm : Sub 0x400000 msk) : Keeps msk s₀ (scrubNext s k) := by
  unfold scrubNext
  repeat' first
    | with_reducible first | exact Keeps.refl _ | assumption | exact Sub.of hm rfl
    | dsimp only
    | with_reducible first
      | apply keeps_setHbm
    | split

theorem keeps_execDamagedShelfFree {msk : Nat} {s₀ : State} (shelf : Nat) (s : State) (hk : Keeps msk s₀ s) (hm : Sub 0x10000700100 msk) : KeepsR msk s₀ (execDamagedShelfFree shelf s) := by
  unfold execDamagedShelfFree
  repeat' first
    | with_reducible first | exact Keeps.refl _ | assumption | exact Sub.of hm rfl
    | dsimp only
    | with_reducible first
      | apply KeepsR.next | apply keeps_setShelf | apply keeps_freeAll
    | split

theorem keeps_closeRow {msk : Nat} {s₀ : State} (s : State) (k : Nat) (bank : Nat) (hk : Keeps msk s₀ s) (hm : Sub 0x10000040000 msk) : Keeps msk s₀ (closeRow s k bank) := by
  unfold closeRow
  repeat' first
    | with_reducible first | exact Keeps.refl _ | assumption | exact Sub.of hm rfl
    | dsimp only
    | with_reducible first
      | apply keeps_bump | apply keeps_setBooth
    | split

theorem keeps_copyLine {msk : Nat} {s₀ : State} (s : State) (k : Nat) (line : Nat) (hk : Keeps msk s₀ s) (hm : Sub 0xBE1C6EFD701 msk) : Keeps msk s₀ (copyLine s k line) := by
  unfold copyLine
  repeat' first
    | with_reducible first | exact Keeps.refl _ | assumption | exact Sub.of hm rfl
    | dsimp only
    | with_reducible first
      | apply keeps_setHbm | apply keeps_meetLine | refine keeps_of_pair (by assumption) ?_
    | with_reducible refine Keeps.upd_devBad ?_ (Sub.of hm rfl); first
        | exact Keeps.refl _ | assumption | apply keeps_setHbm | apply keeps_meetLine | refine keeps_of_pair (by assumption) ?_
    | split

theorem keeps_repairRow {msk : Nat} {s₀ : State} (s : State) (k : Nat) (row : Nat) (hk : Keeps msk s₀ s) (hm : Sub 0xBE1C6EFD701 msk) : Keeps msk s₀ (repairRow s k row) := by
  unfold repairRow
  repeat' first
    | with_reducible first | exact Keeps.refl _ | assumption | exact Sub.of hm rfl
    | dsimp only
    | with_reducible first
      | apply keeps_bump | apply keeps_setHbm | apply keeps_raise | apply keeps_closeRow | apply keeps_copyLine | (apply keeps_foldl; intro _ _ _)
      | (apply keeps_foldl2; intro _ _ _)
    | split

theorem keeps_outTo {msk : Nat} {s₀ : State} (s : State) (i : Nat) (d : Drawer) (hk : Keeps msk s₀ s) (hm : Sub 0x100 msk) : Keeps msk s₀ (outTo s i d) := by
  unfold outTo
  repeat' first
    | with_reducible first | exact Keeps.refl _ | assumption | exact Sub.of hm rfl
    | dsimp only
    | with_reducible first
      | apply keeps_putDrawer
    | split

theorem keeps_moveOut {msk : Nat} {s₀ : State} (s : State) (e : Nat × Drawer) (hk : Keeps msk s₀ s) (hm : Sub 0x10000700100 msk) : Keeps msk s₀ (moveOut s e) := by
  unfold moveOut
  repeat' first
    | with_reducible first | exact Keeps.refl _ | assumption | exact Sub.of hm rfl
    | dsimp only
    | with_reducible first
      | apply keeps_t2Ready | apply keeps_putDrawer | apply keeps_outTo | refine keeps_of_pair (by assumption) ?_
    | split

theorem keeps_backToRoom {msk : Nat} {s₀ : State} (s : State) (f : Place → Bool) (hk : Keeps msk s₀ s) (hm : Sub 0x100000 msk) : Keeps msk s₀ (backToRoom s f) := by
  unfold backToRoom
  repeat' first
    | with_reducible first | exact Keeps.refl _ | assumption | exact Sub.of hm rfl
    | dsimp only
    | with_reducible refine Keeps.upd_tiers ?_ (Sub.of hm rfl); first
        | exact Keeps.refl _ | assumption
    | split

theorem keeps_leavePc {msk : Nat} {s₀ : State} (s : State) (k : Nat) (pc : Nat) (hk : Keeps msk s₀ s) (hm : Sub 0x10000700100 msk) : Keeps msk s₀ (leavePc s k pc) := by
  unfold leavePc
  repeat' first
    | with_reducible first | exact Keeps.refl _ | assumption | exact Sub.of hm rfl
    | dsimp only
    | with_reducible first
      | apply keeps_moveOut | apply keeps_backToRoom | (apply keeps_foldl; intro _ _ _) | (apply keeps_foldl2; intro _ _ _)
    | split

theorem keeps_execPcRetire {msk : Nat} {s₀ : State} (stack : Fin 16) (pc : Fin 64) (s : State) (hk : Keeps msk s₀ s) (hm : Sub 0x10000700100 msk) : KeepsR msk s₀ (execPcRetire stack pc s) := by
  unfold execPcRetire
  repeat' first
    | with_reducible first | exact Keeps.refl _ | assumption | exact Sub.of hm rfl
    | dsimp only
    | with_reducible first
      | apply KeepsR.next | apply keeps_setHbm | apply keeps_leavePc
    | split

theorem keeps_clearPc {msk : Nat} {s₀ : State} (s : State) (k : Nat) (pc : Nat) (hk : Keeps msk s₀ s) (hm : Sub 0x4C0000 msk) : Keeps msk s₀ (clearPc s k pc) := by
  unfold clearPc
  repeat' first
    | with_reducible first | exact Keeps.refl _ | assumption | exact Sub.of hm rfl
    | dsimp only
    | with_reducible first
      | apply keeps_setHbm | apply keeps_setBooth | apply keeps_freeSlots | (apply keeps_foldl; intro _ _ _) | (apply keeps_foldl2; intro _ _ _)
    | split

theorem keeps_moveData {msk : Nat} {s₀ : State} (s : State) (k : Nat) (pc : Nat) (hk : Keeps msk s₀ s) (hm : Sub 0xBE1C6EFD701 msk) : Keeps msk s₀ (moveData s k pc) := by
  unfold moveData
  repeat' first
    | with_reducible first | exact Keeps.refl _ | assumption | exact Sub.of hm rfl
    | dsimp only
    | with_reducible first
      | apply keeps_setHbm | apply keeps_copyLine | (apply keeps_foldl; intro _ _ _) | (apply keeps_foldl2; intro _ _ _)
    | with_reducible refine Keeps.upd_cxl ?_ (Sub.of hm rfl); first
        | exact Keeps.refl _ | assumption | apply keeps_setHbm | apply keeps_copyLine | (apply keeps_foldl; intro _ _ _)
        | (apply keeps_foldl2; intro _ _ _)
    | split

theorem keeps_fenceReaders {msk : Nat} {s₀ : State} (s : State) (k : Nat) (hk : Keeps msk s₀ s) (hm : Sub 0xBE0C64FD601 msk) : Keeps msk s₀ (fenceReaders s k) := by
  unfold fenceReaders
  repeat' first
    | with_reducible first | exact Keeps.refl _ | assumption | exact Sub.of hm rfl
    | dsimp only
    | with_reducible first
      | apply keeps_endAttend | (apply keeps_foldl; intro _ _ _) | (apply keeps_foldl2; intro _ _ _)
    | split

theorem keeps_fenceSegments {msk : Nat} {s₀ : State} (s : State) (k : Nat) (hk : Keeps msk s₀ s) (hm : Sub 0xBE0C64FD601 msk) : Keeps msk s₀ (fenceSegments s k) := by
  unfold fenceSegments
  repeat' first
    | with_reducible first | exact Keeps.refl _ | assumption | exact Sub.of hm rfl
    | dsimp only
    | with_reducible first
      | apply keeps_sheetFailure | (apply keeps_foldl; intro _ _ _) | (apply keeps_foldl2; intro _ _ _)
    | split

theorem keeps_fenceCopies {msk : Nat} {s₀ : State} (s : State) (k : Nat) (hk : Keeps msk s₀ s) (hm : Sub 0xBE1C6EFD701 msk) : Keeps msk s₀ (fenceCopies s k) := by
  unfold fenceCopies
  repeat' first
    | with_reducible first | exact Keeps.refl _ | assumption | exact Sub.of hm rfl
    | dsimp only
    | with_reducible first
      | apply keeps_readLine | apply keeps_loseUse | (apply keeps_foldl; intro _ _ _) | (apply keeps_foldl2; intro _ _ _)
      | refine keeps_of_pair (by assumption) ?_
    | split

theorem keeps_fenceUnits {msk : Nat} {s₀ : State} (s : State) (k : Nat) (hk : Keeps msk s₀ s) (hm : Sub 0x40000A01100 msk) : Keeps msk s₀ (fenceUnits s k) := by
  unfold fenceUnits
  repeat' first
    | with_reducible first | exact Keeps.refl _ | assumption | exact Sub.of hm rfl
    | dsimp only
    | with_reducible first
      | apply keeps_draw | apply keeps_loseUnit | (apply keeps_foldl; intro _ _ _) | (apply keeps_foldl2; intro _ _ _)
      | refine keeps_of_pair (by assumption) ?_
    | split

theorem keeps_fenceStack {msk : Nat} {s₀ : State} (s : State) (k : Nat) (hk : Keeps msk s₀ s) (hm : Sub 0xFE1C6FFD701 msk) : Keeps msk s₀ (fenceStack s k) := by
  unfold fenceStack
  repeat' first
    | with_reducible first | exact Keeps.refl _ | assumption | exact Sub.of hm rfl
    | dsimp only
    | with_reducible first
      | apply keeps_setHbm | apply keeps_raise | apply keeps_damage | apply keeps_backToRoom | apply keeps_fenceReaders | apply keeps_fenceSegments
      | apply keeps_fenceCopies | apply keeps_fenceUnits | (apply keeps_foldl; intro _ _ _) | (apply keeps_foldl2; intro _ _ _)
    | with_reducible refine Keeps.upd_dir ?_ (Sub.of hm rfl); first
        | exact Keeps.refl _ | assumption | apply keeps_setHbm | apply keeps_raise | apply keeps_damage | apply keeps_backToRoom
        | apply keeps_fenceReaders | apply keeps_fenceSegments | apply keeps_fenceCopies | apply keeps_fenceUnits
        | (apply keeps_foldl; intro _ _ _) | (apply keeps_foldl2; intro _ _ _)
    | with_reducible refine Keeps.upd_vidx ?_ (Sub.of hm rfl); first
        | exact Keeps.refl _ | assumption | apply keeps_setHbm | apply keeps_raise | apply keeps_damage | apply keeps_backToRoom
        | apply keeps_fenceReaders | apply keeps_fenceSegments | apply keeps_fenceCopies | apply keeps_fenceUnits
        | (apply keeps_foldl; intro _ _ _) | (apply keeps_foldl2; intro _ _ _)
    | with_reducible refine Keeps.upd_dir_vidx ?_ (Sub.of hm rfl); first
        | exact Keeps.refl _ | assumption | apply keeps_setHbm | apply keeps_raise | apply keeps_damage | apply keeps_backToRoom
        | apply keeps_fenceReaders | apply keeps_fenceSegments | apply keeps_fenceCopies | apply keeps_fenceUnits
        | (apply keeps_foldl; intro _ _ _) | (apply keeps_foldl2; intro _ _ _)
    | split

theorem keeps_execStackFence {msk : Nat} {s₀ : State} (stack : Fin 16) (s : State) (hk : Keeps msk s₀ s) (hm : Sub 0xFE1C6FFD701 msk) : KeepsR msk s₀ (execStackFence stack s) := by
  unfold execStackFence
  repeat' first
    | with_reducible first | exact Keeps.refl _ | assumption | exact Sub.of hm rfl
    | dsimp only
    | with_reducible first
      | apply KeepsR.next | apply keeps_fenceStack
    | split

theorem keeps_fenceIfDue {msk : Nat} {s₀ : State} (s : State) (k : Nat) (hk : Keeps msk s₀ s) (hm : Sub 0xFE1C6FFD701 msk) : Keeps msk s₀ (fenceIfDue s k) := by
  unfold fenceIfDue
  repeat' first
    | with_reducible first | exact Keeps.refl _ | assumption | exact Sub.of hm rfl
    | dsimp only
    | with_reducible first
      | apply keeps_fenceStack
    | split

theorem keeps_execScrubRead {msk : Nat} {s₀ : State} (stack : Fin 16) (stays : List LineHit) (once : List LineHit) (s : State) (hk : Keeps msk s₀ s) (hm : Sub 0xFE1C6FFD701 msk) : KeepsR msk s₀ (execScrubRead stack stays once s) := by
  unfold execScrubRead
  repeat' first
    | with_reducible first | exact Keeps.refl _ | assumption | exact Sub.of hm rfl
    | dsimp only
    | with_reducible first
      | apply KeepsR.next | apply KeepsR.fault | apply keeps_hitLine | apply keeps_meetLine | apply keeps_scrubNext | apply keeps_fenceIfDue
      | (apply keeps_foldl; intro _ _ _) | (apply keeps_foldl2; intro _ _ _) | refine keeps_of_pair (by assumption) ?_
    | split

theorem keeps_execRowRepair {msk : Nat} {s₀ : State} (stack : Fin 16) (s : State) (hk : Keeps msk s₀ s) (hm : Sub 0xFE1C6FFD701 msk) : KeepsR msk s₀ (execRowRepair stack s) := by
  unfold execRowRepair
  repeat' first
    | with_reducible first | exact Keeps.refl _ | assumption | exact Sub.of hm rfl
    | dsimp only
    | with_reducible first
      | apply KeepsR.next | apply keeps_repairRow | apply keeps_fenceIfDue
    | split

theorem keeps_retirePc {msk : Nat} {s₀ : State} (s : State) (k : Nat) (pc : Nat) (hk : Keeps msk s₀ s) (hm : Sub 0xBE1C6EFD721 msk) : Keeps msk s₀ (retirePc s k pc) := by
  unfold retirePc
  repeat' first
    | with_reducible first | exact Keeps.refl _ | assumption | exact Sub.of hm rfl
    | dsimp only
    | with_reducible first
      | apply keeps_setHbm | apply keeps_setBooth | apply keeps_raise | apply keeps_clearPc | apply keeps_moveData
      | (apply keeps_foldl; intro _ _ _) | (apply keeps_foldl2; intro _ _ _)
    | with_reducible refine Keeps.upd_pcOwner ?_ (Sub.of hm rfl); first
        | exact Keeps.refl _ | assumption | apply keeps_setHbm | apply keeps_setBooth | apply keeps_raise | apply keeps_clearPc
        | apply keeps_moveData | (apply keeps_foldl; intro _ _ _) | (apply keeps_foldl2; intro _ _ _)
    | split

theorem keeps_execPcRetired {msk : Nat} {s₀ : State} (stack : Fin 16) (pc : Fin 64) (s : State) (hk : Keeps msk s₀ s) (hm : Sub 0xFE1C6FFD721 msk) : KeepsR msk s₀ (execPcRetired stack pc s) := by
  unfold execPcRetired
  repeat' first
    | with_reducible first | exact Keeps.refl _ | assumption | exact Sub.of hm rfl
    | dsimp only
    | with_reducible first
      | apply KeepsR.next | apply keeps_leavePc | apply keeps_fenceIfDue | apply keeps_retirePc
    | split

theorem keeps_idleTick {msk : Nat} {s₀ : State} (s : State) (hk : Keeps msk s₀ s) (hm : Sub 0x1080000004 msk) : Keeps msk s₀ (idleTick s) := by
  unfold idleTick
  repeat' first
    | with_reducible first | exact Keeps.refl _ | assumption | exact Sub.of hm rfl
    | dsimp only
    | with_reducible refine Keeps.upd_parts ?_ (Sub.of hm rfl); first
        | exact Keeps.refl _ | assumption
    | with_reducible refine Keeps.upd_stw ?_ (Sub.of hm rfl); first
        | exact Keeps.refl _ | assumption
    | with_reducible refine Keeps.upd_time ?_ (Sub.of hm rfl); first
        | exact Keeps.refl _ | assumption
    | with_reducible refine Keeps.upd_time_parts_stw ?_ (Sub.of hm rfl); first
        | exact Keeps.refl _ | assumption
    | split

theorem keeps_respond {msk : Nat} {s₀ : State} (s : State) (m : List Byte) (stream : Nat) (hk : Keeps msk s₀ s) (hm : Sub 0x40000000000 msk) : Keeps msk s₀ (respond s m stream).2 := by
  unfold respond
  repeat' first
    | with_reducible first | exact Keeps.refl _ | assumption | exact Sub.of hm rfl
    | dsimp only
    | with_reducible first
      | apply keeps_draw | apply keeps_drawBytes | refine keeps_of_pair (by assumption) ?_
    | split

theorem keeps_sendHs {msk : Nat} {s₀ : State} (s : State) (p : Nat) (m : List Byte) (hk : Keeps msk s₀ s) (hm : Sub 0x80000000000 msk) : Keeps msk s₀ (sendHs s p m) := by
  unfold sendHs
  repeat' first
    | with_reducible first | exact Keeps.refl _ | assumption | exact Sub.of hm rfl
    | dsimp only
    | with_reducible first
      | apply keeps_emit
    | split

theorem keeps_sealFail {msk : Nat} {s₀ : State} (s : State) (p : Nat) (hk : Keeps msk s₀ s) (hm : Sub 0xB2002000000 msk) : Keeps msk s₀ (sealFail s p) := by
  unfold sealFail
  repeat' first
    | with_reducible first | exact Keeps.refl _ | assumption | exact Sub.of hm rfl
    | dsimp only
    | with_reducible first
      | apply keeps_setPort | apply keeps_raise
    | split

theorem keeps_sealAbort {msk : Nat} {s₀ : State} (s : State) (p : Nat) (reason : Nat) (hk : Keeps msk s₀ s) (hm : Sub 0xB2002000000 msk) : Keeps msk s₀ (sealAbort s p reason) := by
  unfold sealAbort
  repeat' first
    | with_reducible first | exact Keeps.refl _ | assumption | exact Sub.of hm rfl
    | dsimp only
    | with_reducible first
      | apply keeps_sendHs | apply keeps_sealFail
    | split

theorem keeps_execHelloRepeat {msk : Nat} {s₀ : State} (port : Fin 4) (s : State) (hk : Keeps msk s₀ s) (hm : Sub 0xC0002000000 msk) : KeepsR msk s₀ (execHelloRepeat port s) := by
  unfold execHelloRepeat
  repeat' first
    | with_reducible first | exact Keeps.refl _ | assumption | exact Sub.of hm rfl
    | dsimp only
    | with_reducible first
      | apply KeepsR.next | apply keeps_draw | apply keeps_drawBytes | apply keeps_setPort | apply keeps_sendHs
      | refine keeps_of_pair (by assumption) ?_
    | split

theorem keeps_execHello {msk : Nat} {s₀ : State} (port : Fin 4) (msg : List Byte) (s : State) (hk : Keeps msk s₀ s) (hm : Sub 0xF2002000000 msk) : KeepsR msk s₀ (execHello port msg s) := by
  unfold execHello
  repeat' first
    | with_reducible first | exact Keeps.refl _ | assumption | exact Sub.of hm rfl
    | dsimp only
    | with_reducible first
      | apply KeepsR.next | apply keeps_setPort | apply keeps_respond | apply keeps_sendHs | apply keeps_sealAbort
      | refine keeps_of_pair (by assumption) ?_
    | split

theorem keeps_execReply {msk : Nat} {s₀ : State} (port : Fin 4) (msg : List Byte) (s : State) (hk : Keeps msk s₀ s) (hm : Sub 0xB2002000000 msk) : KeepsR msk s₀ (execReply port msg s) := by
  unfold execReply
  repeat' first
    | with_reducible first | exact Keeps.refl _ | assumption | exact Sub.of hm rfl
    | dsimp only
    | with_reducible first
      | apply KeepsR.next | apply keeps_setPort | apply keeps_sendHs | apply keeps_sealAbort
    | split

theorem keeps_execConfirm {msk : Nat} {s₀ : State} (port : Fin 4) (msg : List Byte) (s : State) (hk : Keeps msk s₀ s) (hm : Sub 0xB2002000000 msk) : KeepsR msk s₀ (execConfirm port msg s) := by
  unfold execConfirm
  repeat' first
    | with_reducible first | exact Keeps.refl _ | assumption | exact Sub.of hm rfl
    | dsimp only
    | with_reducible first
      | apply KeepsR.next | apply keeps_setPort | apply keeps_sealAbort
    | split

theorem keeps_execRekey {msk : Nat} {s₀ : State} (port : Fin 4) (msg : List Byte) (s : State) (hk : Keeps msk s₀ s) (hm : Sub 0xB2002000000 msk) : KeepsR msk s₀ (execRekey port msg s) := by
  unfold execRekey
  repeat' first
    | with_reducible first | exact Keeps.refl _ | assumption | exact Sub.of hm rfl
    | dsimp only
    | with_reducible first
      | apply KeepsR.next | apply keeps_setPort | apply keeps_sealAbort
    | split

theorem keeps_execRekeyPeriod {msk : Nat} {s₀ : State} (port : Fin 4) (s : State) (hk : Keeps msk s₀ s) (hm : Sub 0x80002000000 msk) : KeepsR msk s₀ (execRekeyPeriod port s) := by
  unfold execRekeyPeriod
  repeat' first
    | with_reducible first | exact Keeps.refl _ | assumption | exact Sub.of hm rfl
    | dsimp only
    | with_reducible first
      | apply KeepsR.next | apply keeps_sendRekey
    | split

theorem keeps_execAbort {msk : Nat} {s₀ : State} (port : Fin 4) (msg : List Byte) (s : State) (hk : Keeps msk s₀ s) (hm : Sub 0xB2002000000 msk) : KeepsR msk s₀ (execAbort port msg s) := by
  unfold execAbort
  repeat' first
    | with_reducible first | exact Keeps.refl _ | assumption | exact Sub.of hm rfl
    | dsimp only
    | with_reducible first
      | apply KeepsR.next | apply keeps_sealFail
    | split

theorem keeps_execHandshakeTimeout {msk : Nat} {s₀ : State} (port : Fin 4) (s : State) (hk : Keeps msk s₀ s) (hm : Sub 0xB2002000000 msk) : KeepsR msk s₀ (execHandshakeTimeout port s) := by
  unfold execHandshakeTimeout
  repeat' first
    | with_reducible first | exact Keeps.refl _ | assumption | exact Sub.of hm rfl
    | dsimp only
    | with_reducible first
      | apply KeepsR.next | apply keeps_sealFail
    | split

theorem keeps_execPortLinkUp {msk : Nat} {s₀ : State} (port : Fin 4) (s : State) (hk : Keeps msk s₀ s) (hm : Sub 0xB2002000000 msk) : KeepsR msk s₀ (execPortLinkUp port s) := by
  unfold execPortLinkUp
  repeat' first
    | with_reducible first | exact Keeps.refl _ | assumption | exact Sub.of hm rfl
    | dsimp only
    | with_reducible first
      | apply KeepsR.next | apply keeps_setPort | apply keeps_raise
    | split

theorem keeps_linkDown {msk : Nat} {s₀ : State} (s : State) (n : Nat) (hk : Keeps msk s₀ s) (hm : Sub 0xB2002000000 msk) : Keeps msk s₀ (linkDown s n) := by
  unfold linkDown
  repeat' first
    | with_reducible first | exact Keeps.refl _ | assumption | exact Sub.of hm rfl
    | dsimp only
    | with_reducible first
      | apply keeps_setPort | apply keeps_raise
    | split

theorem keeps_execPortLinkDown {msk : Nat} {s₀ : State} (port : Fin 4) (s : State) (hk : Keeps msk s₀ s) (hm : Sub 0xB2002000000 msk) : KeepsR msk s₀ (execPortLinkDown port s) := by
  unfold execPortLinkDown
  repeat' first
    | with_reducible first | exact Keeps.refl _ | assumption | exact Sub.of hm rfl
    | dsimp only
    | with_reducible first
      | apply KeepsR.next | apply keeps_linkDown
    | split

theorem keeps_partResult {msk : Nat} {s₀ : State} (s : State) (p : Nat) (n : Nat) (hk : Keeps msk s₀ s) (hm : Sub 0x10000000000 msk) : Keeps msk s₀ (partResult s p n) := by
  unfold partResult
  repeat' first
    | with_reducible first | exact Keeps.refl _ | assumption | exact Sub.of hm rfl
    | dsimp only
    | with_reducible first
      | apply keeps_wrf
    | split

theorem keeps_serveUpdate {msk : Nat} {s₀ : State} (s : State) (hk : Keeps msk s₀ s) (hm : Sub 0x10000040001 msk) : Keeps msk s₀ (serveUpdate s) := by
  unfold serveUpdate
  repeat' first
    | with_reducible first | exact Keeps.refl _ | assumption | exact Sub.of hm rfl
    | dsimp only
    | with_reducible first
      | apply keeps_serve
    | with_reducible refine Keeps.upd_dev ?_ (Sub.of hm rfl) rfl; first
        | exact Keeps.refl _ | assumption | apply keeps_serve
    | split

theorem keeps_partCmd {msk : Nat} {s₀ : State} (s : State) (p : Nat) (k : State → State) (h_k : ∀ a, Keeps msk s₀ a → Keeps msk s₀ (k a )) (hk : Keeps msk s₀ s) (hm : Sub 0x10000000000 msk) : KeepsR msk s₀ (partCmd s p k) := by
  unfold partCmd
  repeat' first
    | with_reducible first | exact Keeps.refl _ | assumption | exact Sub.of hm rfl
    | dsimp only
    | with_reducible first
      | apply KeepsR.next | apply h_k | apply keeps_rmGate | apply keeps_partResult | refine keeps_of_pair (by assumption) ?_
    | split

theorem keeps_closePeriod {msk : Nat} {s₀ : State} (s : State) (p : Nat) (why : Nat) (hk : Keeps msk s₀ s) (hm : Sub 0xBA0C247C601 msk) : Keeps msk s₀ (closePeriod s p why) := by
  unfold closePeriod
  repeat' first
    | with_reducible first | exact Keeps.refl _ | assumption | exact Sub.of hm rfl
    | dsimp only
    | with_reducible first
      | apply keeps_wr | apply keeps_setPart | apply keeps_raise | apply keeps_refWrite
    | split

theorem keeps_firstEpoch {msk : Nat} {s₀ : State} (s : State) (p : Nat) (hk : Keeps msk s₀ s) (hm : Sub 0x80000000 msk) : Keeps msk s₀ (firstEpoch s p) := by
  unfold firstEpoch
  repeat' first
    | with_reducible first | exact Keeps.refl _ | assumption | exact Sub.of hm rfl
    | dsimp only
    | with_reducible first
      | apply keeps_setPart
    | split

theorem keeps_execMeteringHour {msk : Nat} {s₀ : State} (part : Fin 32) (s : State) (hk : Keeps msk s₀ s) (hm : Sub 0xBA0C247C601 msk) : KeepsR msk s₀ (execMeteringHour part s) := by
  unfold execMeteringHour
  repeat' first
    | with_reducible first | exact Keeps.refl _ | assumption | exact Sub.of hm rfl
    | dsimp only
    | with_reducible first
      | apply KeepsR.next | apply keeps_closePeriod | apply keeps_firstEpoch
    | split

theorem keeps_takeMaps {msk : Nat} {s₀ : State} (s : State) (p : Nat) (hk : Keeps msk s₀ s) (hm : Sub 0x38 msk) : Keeps msk s₀ (takeMaps s p) := by
  unfold takeMaps
  repeat' first
    | with_reducible first | exact Keeps.refl _ | assumption | exact Sub.of hm rfl
    | dsimp only
    | with_reducible first
      | (apply keeps_foldl; intro _ _ _) | (apply keeps_foldl2; intro _ _ _)
    | with_reducible refine Keeps.upd_wayOwner_tileOwner_pcOwner ?_ (Sub.of hm rfl); first
        | exact Keeps.refl _ | assumption | (apply keeps_foldl; intro _ _ _) | (apply keeps_foldl2; intro _ _ _)
    | split

theorem keeps_execPartCreate {msk : Nat} {s₀ : State} (part : Fin 32) (s : State) (hk : Keeps msk s₀ s) (hm : Sub 0xD0080040039 msk) : KeepsR msk s₀ (execPartCreate part s) := by
  unfold execPartCreate
  repeat' first
    | with_reducible first | exact Keeps.refl _ | assumption | exact Sub.of hm rfl
    | dsimp only
    | with_reducible first
      | apply KeepsR.next | apply keeps_draw | apply keeps_wr | apply keeps_setPart | apply keeps_hostWr | apply keeps_partResult
      | apply keeps_serveUpdate | refine keeps_partCmd _ _ _ (fun _ _ => ?_) ?_ (Sub.of hm rfl) | apply keeps_takeMaps
      | refine keeps_of_pair (by assumption) ?_
    | split

theorem keeps_execPartApplyMaps {msk : Nat} {s₀ : State} (part : Fin 32) (s : State) (hk : Keeps msk s₀ s) (hm : Sub 0x90080700138 msk) : KeepsR msk s₀ (execPartApplyMaps part s) := by
  unfold execPartApplyMaps
  repeat' first
    | with_reducible first | exact Keeps.refl _ | assumption | exact Sub.of hm rfl
    | dsimp only
    | with_reducible first
      | apply KeepsR.next | apply keeps_setPart | apply keeps_hostWr | apply keeps_moveOut | apply keeps_backToRoom | apply keeps_partResult
      | refine keeps_partCmd _ _ _ (fun _ _ => ?_) ?_ (Sub.of hm rfl) | apply keeps_takeMaps | (apply keeps_foldl; intro _ _ _)
      | (apply keeps_foldl2; intro _ _ _)
    | split

theorem keeps_freePc {msk : Nat} {s₀ : State} (s : State) (k : Nat) (hk : Keeps msk s₀ s) (hm : Sub 0x4C0020 msk) : Keeps msk s₀ (freePc s k) := by
  unfold freePc
  repeat' first
    | with_reducible first | exact Keeps.refl _ | assumption | exact Sub.of hm rfl
    | dsimp only
    | with_reducible first
      | apply keeps_clearPc
    | with_reducible refine Keeps.upd_pcOwner ?_ (Sub.of hm rfl); first
        | exact Keeps.refl _ | assumption | apply keeps_clearPc
    | split

theorem keeps_execMapRemovalDone {msk : Nat} {s₀ : State} (part : Fin 32) (s : State) (hk : Keeps msk s₀ s) (hm : Sub 0xBE1C6FFD739 msk) : KeepsR msk s₀ (execMapRemovalDone part s) := by
  unfold execMapRemovalDone
  repeat' first
    | with_reducible first | exact Keeps.refl _ | assumption | exact Sub.of hm rfl
    | dsimp only
    | with_reducible first
      | apply KeepsR.next | apply keeps_setPart | apply keeps_moveOut | apply keeps_moveData | apply keeps_freePc
      | (apply keeps_foldl; intro _ _ _) | (apply keeps_foldl2; intro _ _ _)
    | with_reducible refine Keeps.upd_wayOwner_tileOwner ?_ (Sub.of hm rfl); first
        | exact Keeps.refl _ | assumption | apply keeps_setPart | apply keeps_moveOut | apply keeps_moveData | apply keeps_freePc
        | (apply keeps_foldl; intro _ _ _) | (apply keeps_foldl2; intro _ _ _)
    | split

theorem keeps_endFires {msk : Nat} {s₀ : State} (s : State) (a : Armed) (status : Nat) (hk : Keeps msk s₀ s) (hm : Sub 0xBA0C247C601 msk) : Keeps msk s₀ (endFires s a status) := by
  unfold endFires
  repeat' first
    | with_reducible first | exact Keeps.refl _ | assumption | exact Sub.of hm rfl
    | dsimp only
    | with_reducible first
      | apply keeps_queueRec | (apply keeps_foldl; intro _ _ _) | (apply keeps_foldl2; intro _ _ _)
    | split

theorem keeps_endArmedPart {msk : Nat} {s₀ : State} (s : State) (p : Nat) (status : Nat) (fires : Bool) (hk : Keeps msk s₀ s) (hm : Sub 0xBA0C647C601 msk) : Keeps msk s₀ (endArmedPart s p status fires) := by
  unfold endArmedPart
  repeat' first
    | with_reducible first | exact Keeps.refl _ | assumption | exact Sub.of hm rfl
    | dsimp only
    | with_reducible first
      | apply keeps_endArmed | apply keeps_endFires | (apply keeps_foldl; intro _ _ _) | (apply keeps_foldl2; intro _ _ _)
    | with_reducible refine Keeps.upd_armed ?_ (Sub.of hm rfl); first
        | exact Keeps.refl _ | assumption | apply keeps_endArmed | apply keeps_endFires | (apply keeps_foldl; intro _ _ _)
        | (apply keeps_foldl2; intro _ _ _)
    | split

theorem keeps_flushTaken {msk : Nat} {s₀ : State} (s : State) (ring : Nat) (n : Nat) (hk : Keeps msk s₀ s) (hm : Sub 0xBE0C647F601 msk) : Keeps msk s₀ (flushTaken s ring n) := by
  induction n generalizing s with
  | zero => unfold flushTaken; exact hk
  | succ n ih =>
    unfold flushTaken
    repeat' first
      | with_reducible first | exact Keeps.refl _ | assumption | exact Sub.of hm rfl
      | dsimp only
      | with_reducible first
        | apply ih | apply keeps_steps24 | refine keeps_of_pair (by assumption) ?_
      | split

theorem keeps_abortShelf {msk : Nat} {s₀ : State} (s : State) (i : Nat) (hk : Keeps msk s₀ s) (hm : Sub 0xBE5C677D701 msk) : Keeps msk s₀ (abortShelf s i) := by
  unfold abortShelf
  repeat' first
    | with_reducible first | exact Keeps.refl _ | assumption | exact Sub.of hm rfl
    | dsimp only
    | with_reducible first
      | apply keeps_setShelf | apply keeps_undoAppend
    | split

theorem keeps_abortPart {msk : Nat} {s₀ : State} (s : State) (p : Nat) (hk : Keeps msk s₀ s) (hm : Sub 0xBE5C6FFF701 msk) : Keeps msk s₀ (abortPart s p) := by
  unfold abortPart
  repeat' first
    | with_reducible first | exact Keeps.refl _ | assumption | exact Sub.of hm rfl
    | dsimp only
    | with_reducible first
      | apply keeps_setPart | apply keeps_setShelf | apply keeps_skipLifts | apply keeps_drainCheck | apply keeps_stopReplay
      | apply keeps_endAttend | apply keeps_putIndex | apply keeps_endArmedPart | apply keeps_flushTaken | apply keeps_abortShelf
      | (apply keeps_foldl; intro _ _ _) | (apply keeps_foldl2; intro _ _ _)
    | split

theorem keeps_execPartReset {msk : Nat} {s₀ : State} (part : Fin 32) (s : State) (hk : Keeps msk s₀ s) (hm : Sub 0xBE5C6FFF701 msk) : KeepsR msk s₀ (execPartReset part s) := by
  unfold execPartReset
  repeat' first
    | with_reducible first | exact Keeps.refl _ | assumption | exact Sub.of hm rfl
    | dsimp only
    | with_reducible first
      | apply KeepsR.next | apply keeps_setPart | apply keeps_hostWr | apply keeps_partResult
      | refine keeps_partCmd _ _ _ (fun _ _ => ?_) ?_ (Sub.of hm rfl) | apply keeps_abortPart
    | split

theorem keeps_execPartResetDone {msk : Nat} {s₀ : State} (part : Fin 32) (s : State) (hk : Keeps msk s₀ s) (hm : Sub 0x10080000200 msk) : KeepsR msk s₀ (execPartResetDone part s) := by
  unfold execPartResetDone
  repeat' first
    | with_reducible first | exact Keeps.refl _ | assumption | exact Sub.of hm rfl
    | dsimp only
    | with_reducible first
      | apply KeepsR.next | apply keeps_setPart | apply keeps_partResult
    | with_reducible refine Keeps.upd_rings ?_ (Sub.of hm rfl); first
        | exact Keeps.refl _ | assumption | apply keeps_setPart | apply keeps_partResult
    | split

theorem keeps_execPartDestroy {msk : Nat} {s₀ : State} (part : Fin 32) (s : State) (hk : Keeps msk s₀ s) (hm : Sub 0xBE5C6FFF701 msk) : KeepsR msk s₀ (execPartDestroy part s) := by
  unfold execPartDestroy
  repeat' first
    | with_reducible first | exact Keeps.refl _ | assumption | exact Sub.of hm rfl
    | dsimp only
    | with_reducible first
      | apply KeepsR.next | apply keeps_setPart | apply keeps_hostWr | apply keeps_mirrorDrop | apply keeps_partResult
      | refine keeps_partCmd _ _ _ (fun _ _ => ?_) ?_ (Sub.of hm rfl) | apply keeps_abortPart | (apply keeps_foldl; intro _ _ _)
      | (apply keeps_foldl2; intro _ _ _)
    | with_reducible refine Keeps.upd_rings ?_ (Sub.of hm rfl); first
        | exact Keeps.refl _ | assumption | apply keeps_setPart | apply keeps_mirrorDrop | apply keeps_partResult
        | refine keeps_partCmd _ _ _ (fun _ _ => ?_) ?_ (Sub.of hm rfl) | apply keeps_abortPart | (apply keeps_foldl; intro _ _ _)
        | (apply keeps_foldl2; intro _ _ _)
    | split

theorem keeps_destroyObjects {msk : Nat} {s₀ : State} (s : State) (p : Nat) (hk : Keeps msk s₀ s) (hm : Sub 0xBA7CEF7CF01 msk) : Keeps msk s₀ (destroyObjects s p) := by
  unfold destroyObjects
  repeat' first
    | with_reducible first | exact Keeps.refl _ | assumption | exact Sub.of hm rfl
    | dsimp only
    | with_reducible first
      | apply keeps_dropUnit | apply keeps_freeAll | apply keeps_dropEntry | apply keeps_removeQp | apply keeps_releaseExt
      | apply keeps_closePeriod | (apply keeps_foldl; intro _ _ _) | (apply keeps_foldl2; intro _ _ _)
    | with_reducible refine Keeps.upd_dir_objects_tiers_vidx_links_pulls_sub ?_ (Sub.of hm rfl); first
        | exact Keeps.refl _ | assumption | apply keeps_dropUnit | apply keeps_freeAll | apply keeps_dropEntry | apply keeps_removeQp
        | apply keeps_releaseExt | apply keeps_closePeriod | (apply keeps_foldl; intro _ _ _) | (apply keeps_foldl2; intro _ _ _)
    | with_reducible refine Keeps.upd_regions ?_ (Sub.of hm rfl); first
        | exact Keeps.refl _ | assumption | apply keeps_dropUnit | apply keeps_freeAll | apply keeps_dropEntry | apply keeps_removeQp
        | apply keeps_releaseExt | apply keeps_closePeriod | (apply keeps_foldl; intro _ _ _) | (apply keeps_foldl2; intro _ _ _)
    | with_reducible refine Keeps.upd_dir_objects_tiers_vidx_regions_links_pulls_sub ?_ (Sub.of hm rfl); first
        | exact Keeps.refl _ | assumption | apply keeps_dropUnit | apply keeps_freeAll | apply keeps_dropEntry | apply keeps_removeQp
        | apply keeps_releaseExt | apply keeps_closePeriod | (apply keeps_foldl; intro _ _ _) | (apply keeps_foldl2; intro _ _ _)
    | split

theorem keeps_destroyEnd {msk : Nat} {s₀ : State} (s : State) (p : Nat) (hk : Keeps msk s₀ s) (hm : Sub 0xB60804C0039 msk) : Keeps msk s₀ (destroyEnd s p) := by
  unfold destroyEnd
  repeat' first
    | with_reducible first | exact Keeps.refl _ | assumption | exact Sub.of hm rfl
    | dsimp only
    | with_reducible first
      | apply keeps_raise | apply keeps_partResult | apply keeps_serveUpdate | apply keeps_freePc | (apply keeps_foldl; intro _ _ _)
      | (apply keeps_foldl2; intro _ _ _)
    | with_reducible refine Keeps.upd_wayOwner_tileOwner_parts_replay_regs ?_ (Sub.of hm rfl); first
        | exact Keeps.refl _ | assumption | apply keeps_raise | apply keeps_partResult | apply keeps_serveUpdate | apply keeps_freePc
        | (apply keeps_foldl; intro _ _ _) | (apply keeps_foldl2; intro _ _ _)
    | split

theorem keeps_execPartDestroyDone {msk : Nat} {s₀ : State} (part : Fin 32) (s : State) (hk : Keeps msk s₀ s) (hm : Sub 0xBE7CEFFCF39 msk) : KeepsR msk s₀ (execPartDestroyDone part s) := by
  unfold execPartDestroyDone
  repeat' first
    | with_reducible first | exact Keeps.refl _ | assumption | exact Sub.of hm rfl
    | dsimp only
    | with_reducible first
      | apply KeepsR.next | apply keeps_setPart | apply keeps_destroyObjects | apply keeps_destroyEnd | (apply keeps_foldl; intro _ _ _)
      | (apply keeps_foldl2; intro _ _ _)
    | with_reducible refine Keeps.upd_rings ?_ (Sub.of hm rfl); first
        | exact Keeps.refl _ | assumption | apply keeps_setPart | apply keeps_destroyObjects | apply keeps_destroyEnd
        | (apply keeps_foldl; intro _ _ _) | (apply keeps_foldl2; intro _ _ _)
    | split

theorem keeps_failWaiting {msk : Nat} {s₀ : State} (s : State) (i : Nat) (status : Nat) (hk : Keeps msk s₀ s) (hm : Sub 0x100 msk) : Keeps msk s₀ (failWaiting s i status) := by
  unfold failWaiting
  repeat' first
    | with_reducible first | exact Keeps.refl _ | assumption | exact Sub.of hm rfl
    | dsimp only
    | with_reducible first
      | apply keeps_setAppend
    | split

theorem keeps_cutLinks {msk : Nat} {s₀ : State} (s : State) (p : Nat) (status : Nat) (f : Nat → Bool) (hk : Keeps msk s₀ s) (hm : Sub 0xBE1C647D701 msk) : Keeps msk s₀ (cutLinks s p status f) := by
  unfold cutLinks
  repeat' first
    | with_reducible first | exact Keeps.refl _ | assumption | exact Sub.of hm rfl
    | dsimp only
    | with_reducible first
      | apply keeps_cutLink | apply keeps_endSeed | (apply keeps_foldl; intro _ _ _) | (apply keeps_foldl2; intro _ _ _)
    | split

theorem keeps_applyExit {msk : Nat} {s₀ : State} (s : State) (p : Nat) (hk : Keeps msk s₀ s) (hm : Sub 0xBE7C65FD701 msk) : Keeps msk s₀ (applyExit s p) := by
  unfold applyExit
  repeat' first
    | with_reducible first | exact Keeps.refl _ | assumption | exact Sub.of hm rfl
    | dsimp only
    | with_reducible first
      | apply keeps_setPart | apply keeps_failPulls | apply keeps_endArmedPart | apply keeps_failWaiting | apply keeps_cutLinks
      | (apply keeps_foldl; intro _ _ _) | (apply keeps_foldl2; intro _ _ _)
    | split

theorem keeps_applyExclude {msk : Nat} {s₀ : State} (s : State) (p : Nat) (nodes : List Nat) (hk : Keeps msk s₀ s) (hm : Sub 0xBE7C65FD701 msk) : Keeps msk s₀ (applyExclude s p nodes) := by
  unfold applyExclude
  repeat' first
    | with_reducible first | exact Keeps.refl _ | assumption | exact Sub.of hm rfl
    | dsimp only
    | with_reducible first
      | apply keeps_setPart | apply keeps_failPulls | apply keeps_cutLinks
    | with_reducible refine Keeps.upd_dir ?_ (Sub.of hm rfl); first
        | exact Keeps.refl _ | assumption | apply keeps_setPart | apply keeps_failPulls | apply keeps_cutLinks
    | split

theorem keeps_applyRejoin {msk : Nat} {s₀ : State} (s : State) (p : Nat) (hk : Keeps msk s₀ s) (hm : Sub 0x180000100 msk) : Keeps msk s₀ (applyRejoin s p) := by
  unfold applyRejoin
  repeat' first
    | with_reducible first | exact Keeps.refl _ | assumption | exact Sub.of hm rfl
    | dsimp only
    | with_reducible first
      | apply keeps_setPart
    | with_reducible refine Keeps.upd_dir_links ?_ (Sub.of hm rfl); first
        | exact Keeps.refl _ | assumption | apply keeps_setPart
    | split

theorem keeps_applyFence {msk : Nat} {s₀ : State} (s : State) (p : Nat) (b : List Byte) (hk : Keeps msk s₀ s) (hm : Sub 0xBE7C65FD701 msk) : Keeps msk s₀ (applyFence s p b) := by
  unfold applyFence
  repeat' first
    | with_reducible first | exact Keeps.refl _ | assumption | exact Sub.of hm rfl
    | dsimp only
    | with_reducible first
      | apply keeps_wr | apply keeps_setPart | apply keeps_raise | apply keeps_closePeriod | apply keeps_firstEpoch | apply keeps_applyExit
      | apply keeps_applyExclude | apply keeps_applyRejoin
    | split

theorem keeps_doFence {msk : Nat} {s₀ : State} (s : State) (id : Nat) (r : Req) (hk : Keeps msk s₀ s) (hm : Sub 0xBE7C65FD701 msk) : Keeps msk s₀ (doFence s id r) := by
  unfold doFence
  repeat' first
    | with_reducible first | exact Keeps.refl _ | assumption | exact Sub.of hm rfl
    | dsimp only
    | with_reducible first
      | apply keeps_setPart | apply keeps_setReq | apply keeps_refRead | apply keeps_complete | apply keeps_failReq | apply keeps_applyFence
      | refine keeps_of_pair (by assumption) ?_
    | split

theorem keeps_execFence {msk : Nat} {s₀ : State} (ring : Fin 4096) (s : State) (hk : Keeps msk s₀ s) (hm : Sub 0xBE7C65FF701 msk) : KeepsR msk s₀ (execFence ring s) := by
  unfold execFence
  repeat' first
    | with_reducible first | exact Keeps.refl _ | assumption | exact Sub.of hm rfl
    | dsimp only
    | with_reducible first
      | apply KeepsR.next | refine keeps_admitOp _ _ _ _ (fun _ _ _ _ => ?_) ?_ (Sub.of hm rfl) | apply keeps_doFence
    | split

theorem keeps_execFenceComplete {msk : Nat} {s₀ : State} (part : Fin 32) (s : State) (hk : Keeps msk s₀ s) (hm : Sub 0xBE0C647D601 msk) : KeepsR msk s₀ (execFenceComplete part s) := by
  unfold execFenceComplete
  repeat' first
    | with_reducible first | exact Keeps.refl _ | assumption | exact Sub.of hm rfl
    | dsimp only
    | with_reducible first
      | apply KeepsR.next | apply keeps_setPart | apply keeps_complete
    | split

theorem keeps_execGraceWindowClose {msk : Nat} {s₀ : State} (part : Fin 32) (s : State) (hk : Keeps msk s₀ s) (hm : Sub 0x80000000 msk) : KeepsR msk s₀ (execGraceWindowClose part s) := by
  unfold execGraceWindowClose
  repeat' first
    | with_reducible first | exact Keeps.refl _ | assumption | exact Sub.of hm rfl
    | dsimp only
    | with_reducible first
      | apply KeepsR.next | apply keeps_setPart
    | split

theorem keeps_execLeaseExpiry {msk : Nat} {s₀ : State} (s : State) (hk : Keeps msk s₀ s) (hm : Sub 0xBE7C65FD701 msk) : KeepsR msk s₀ (execLeaseExpiry s) := by
  unfold execLeaseExpiry
  repeat' first
    | with_reducible first | exact Keeps.refl _ | assumption | exact Sub.of hm rfl
    | dsimp only
    | with_reducible first
      | apply KeepsR.next | apply keeps_setPart | apply keeps_raise | apply keeps_closePeriod | apply keeps_firstEpoch | apply keeps_applyExit
      | (apply keeps_foldl; intro _ _ _) | (apply keeps_foldl2; intro _ _ _)
    | split

theorem keeps_doOp {msk : Nat} {s₀ : State} (s : State) (id : Nat) (r : Req) (hk : Keeps msk s₀ s) (hm : Sub 0xFE7C6FFFF01 msk) : Keeps msk s₀ (doOp s id r) := by
  unfold doOp
  repeat' first
    | with_reducible first | exact Keeps.refl _ | assumption | exact Sub.of hm rfl
    | dsimp only
    | with_reducible first
      | apply keeps_doLoad | apply keeps_doUnload | apply keeps_doAppend | apply keeps_doTrim | apply keeps_doDrop | apply keeps_doAttend
      | apply keeps_doMerge | apply keeps_doPlan | apply keeps_doPin | apply keeps_doMirrorSet | apply keeps_doMovePull | apply keeps_doVinsert
      | apply keeps_doVdelete | apply keeps_doSearch | apply keeps_doVmerge | apply keeps_doFence
    | split

theorem keeps_takeFire {msk : Nat} {s₀ : State} (s : State) (a : Armed) (hk : Keeps msk s₀ s) (hm : Sub 0x400 msk) : Keeps msk s₀ (takeFire s a) := by
  unfold takeFire
  repeat' first
    | with_reducible first | exact Keeps.refl _ | assumption | exact Sub.of hm rfl
    | dsimp only
    | with_reducible refine Keeps.upd_armed ?_ (Sub.of hm rfl); first
        | exact Keeps.refl _ | assumption
    | split

theorem keeps_execFire {msk : Nat} {s₀ : State} (ring : Fin 4096) (key : Nat) (s : State) (hk : Keeps msk s₀ s) (hm : Sub 0xFE7C6FFFF01 msk) : KeepsR msk s₀ (execFire ring key s) := by
  unfold execFire
  repeat' first
    | with_reducible first | exact Keeps.refl _ | assumption | exact Sub.of hm rfl
    | dsimp only
    | with_reducible first
      | apply KeepsR.next | apply keeps_setRing | apply keeps_numberReq | apply keeps_steps69 | apply keeps_newId | apply keeps_failReq
      | apply keeps_doOp | apply keeps_takeFire | refine keeps_of_pair (by assumption) ?_ | refine keeps_of_triple (by assumption) ?_
    | split

theorem keeps_secResult {msk : Nat} {s₀ : State} (s : State) (n : Nat) (hk : Keeps msk s₀ s) (hm : Sub 0x800000000 msk) : Keeps msk s₀ (secResult s n) := by
  unfold secResult
  repeat' first
    | with_reducible first | exact Keeps.refl _ | assumption | exact Sub.of hm rfl
    | dsimp only
    | with_reducible refine Keeps.upd_sec ?_ (Sub.of hm rfl) rfl; first
        | exact Keeps.refl _ | assumption
    | split

theorem keeps_mbPut {msk : Nat} {s₀ : State} (s : State) (b : List Byte) (hk : Keeps msk s₀ s) (hm : Sub 0x10800000000 msk) : Keeps msk s₀ (mbPut s b) := by
  unfold mbPut
  repeat' first
    | with_reducible first | exact Keeps.refl _ | assumption | exact Sub.of hm rfl
    | dsimp only
    | with_reducible first
      | apply keeps_wr
    | with_reducible refine Keeps.upd_sec ?_ (Sub.of hm rfl) rfl; first
        | exact Keeps.refl _ | assumption | apply keeps_wr
    | split

theorem keeps_execReadCertificate {msk : Nat} {s₀ : State} (index : Fin 16) (s : State) (hk : Keeps msk s₀ s) (hm : Sub 0xB2800000000 msk) : KeepsR msk s₀ (execReadCertificate index s) := by
  unfold execReadCertificate
  repeat' first
    | with_reducible first | exact Keeps.refl _ | assumption | exact Sub.of hm rfl
    | dsimp only
    | with_reducible first
      | apply KeepsR.next | apply keeps_raise | apply keeps_hostWr | apply keeps_secResult | apply keeps_mbPut
    | split

theorem keeps_execReport {msk : Nat} {s₀ : State} (part : Fin 32) (psect : Bool) (s : State) (hk : Keeps msk s₀ s) (hm : Sub 0xB2800000000 msk) : KeepsR msk s₀ (execReport part psect s) := by
  unfold execReport
  repeat' first
    | with_reducible first | exact Keeps.refl _ | assumption | exact Sub.of hm rfl
    | dsimp only
    | with_reducible first
      | apply KeepsR.next | apply keeps_raise | apply keeps_hostWr | apply keeps_secResult | apply keeps_mbPut
    | with_reducible refine Keeps.upd_sec ?_ (Sub.of hm rfl) rfl; first
        | exact Keeps.refl _ | assumption | apply keeps_raise | apply keeps_secResult | apply keeps_mbPut
    | split

theorem keeps_execInstallFenceKey {msk : Nat} {s₀ : State} (s : State) (hk : Keeps msk s₀ s) (hm : Sub 0x80800000000 msk) : KeepsR msk s₀ (execInstallFenceKey s) := by
  unfold execInstallFenceKey
  repeat' first
    | with_reducible first | exact Keeps.refl _ | assumption | exact Sub.of hm rfl
    | dsimp only
    | with_reducible first
      | apply KeepsR.next | apply keeps_hostWr | apply keeps_secResult
    | with_reducible refine Keeps.upd_sec ?_ (Sub.of hm rfl) rfl; first
        | exact Keeps.refl _ | assumption | apply keeps_secResult
    | split

theorem keeps_execAddTrustKey {msk : Nat} {s₀ : State} (s : State) (hk : Keeps msk s₀ s) (hm : Sub 0xB2800000000 msk) : KeepsR msk s₀ (execAddTrustKey s) := by
  unfold execAddTrustKey
  repeat' first
    | with_reducible first | exact Keeps.refl _ | assumption | exact Sub.of hm rfl
    | dsimp only
    | with_reducible first
      | apply KeepsR.next | apply keeps_raise | apply keeps_hostWr | apply keeps_secResult
    | with_reducible refine Keeps.upd_sec ?_ (Sub.of hm rfl) rfl; first
        | exact Keeps.refl _ | assumption | apply keeps_raise | apply keeps_secResult
    | split

theorem keeps_execRemoveTrustKey {msk : Nat} {s₀ : State} (index : Fin 16) (s : State) (hk : Keeps msk s₀ s) (hm : Sub 0xB2802000000 msk) : KeepsR msk s₀ (execRemoveTrustKey index s) := by
  unfold execRemoveTrustKey
  repeat' first
    | with_reducible first | exact Keeps.refl _ | assumption | exact Sub.of hm rfl
    | dsimp only
    | with_reducible first
      | apply KeepsR.next | apply keeps_raise | apply keeps_hostWr | apply keeps_linkDown | apply keeps_secResult
      | (apply keeps_foldl; intro _ _ _) | (apply keeps_foldl2; intro _ _ _)
    | with_reducible refine Keeps.upd_sec ?_ (Sub.of hm rfl) rfl; first
        | exact Keeps.refl _ | assumption | apply keeps_raise | apply keeps_linkDown | apply keeps_secResult | (apply keeps_foldl; intro _ _ _)
        | (apply keeps_foldl2; intro _ _ _)
    | split

theorem keeps_ideAbort {msk : Nat} {s₀ : State} (s : State) (reason : Option Nat) (ends : Bool) (hk : Keeps msk s₀ s) (hm : Sub 0xB2840000000 msk) : Keeps msk s₀ (ideAbort s reason ends) := by
  unfold ideAbort
  repeat' first
    | with_reducible first | exact Keeps.refl _ | assumption | exact Sub.of hm rfl
    | dsimp only
    | with_reducible first
      | apply keeps_raise | apply keeps_secResult | apply keeps_mbPut
    | with_reducible refine Keeps.upd_cxl ?_ (Sub.of hm rfl); first
        | exact Keeps.refl _ | assumption | apply keeps_raise | apply keeps_secResult | apply keeps_mbPut
    | split

theorem keeps_execIdeHandshakeMessage {msk : Nat} {s₀ : State} (s : State) (hk : Keeps msk s₀ s) (hm : Sub 0xFA8C247C601 msk) : KeepsR msk s₀ (execIdeHandshakeMessage s) := by
  unfold execIdeHandshakeMessage
  repeat' first
    | with_reducible first | exact Keeps.refl _ | assumption | exact Sub.of hm rfl
    | dsimp only
    | with_reducible first
      | apply KeepsR.next | apply keeps_bump | apply keeps_hostWr | apply keeps_drainWrites | apply keeps_respond | apply keeps_secResult
      | apply keeps_mbPut | apply keeps_ideAbort | refine keeps_of_pair (by assumption) ?_
    | with_reducible refine Keeps.upd_cxl ?_ (Sub.of hm rfl); first
        | exact Keeps.refl _ | assumption | apply keeps_bump | apply keeps_drainWrites | apply keeps_respond | apply keeps_secResult
        | apply keeps_mbPut | apply keeps_ideAbort | refine keeps_of_pair (by assumption) ?_
    | split

theorem keeps_execApplyWindow {msk : Nat} {s₀ : State} (s : State) (hk : Keeps msk s₀ s) (hm : Sub 0x80880000000 msk) : KeepsR msk s₀ (execApplyWindow s) := by
  unfold execApplyWindow
  repeat' first
    | with_reducible first | exact Keeps.refl _ | assumption | exact Sub.of hm rfl
    | dsimp only
    | with_reducible first
      | apply KeepsR.next | apply keeps_setPart | apply keeps_hostWr | apply keeps_secResult
    | split

theorem keeps_execWindowChangeDone {msk : Nat} {s₀ : State} (part : Fin 32) (s : State) (hk : Keeps msk s₀ s) (hm : Sub 0x80000000 msk) : KeepsR msk s₀ (execWindowChangeDone part s) := by
  unfold execWindowChangeDone
  repeat' first
    | with_reducible first | exact Keeps.refl _ | assumption | exact Sub.of hm rfl
    | dsimp only
    | with_reducible first
      | apply KeepsR.next | apply keeps_setPart
    | split

theorem keeps_execDebugToken {msk : Nat} {s₀ : State} (token : List Byte) (s : State) (hk : Keeps msk s₀ s) (hm : Sub 0xF2800000000 msk) : KeepsR msk s₀ (execDebugToken token s) := by
  unfold execDebugToken
  repeat' first
    | with_reducible first | exact Keeps.refl _ | assumption | exact Sub.of hm rfl
    | dsimp only
    | with_reducible first
      | apply KeepsR.next | apply keeps_drawBytes | apply keeps_emit | apply keeps_raise | refine keeps_of_pair (by assumption) ?_
    | with_reducible refine Keeps.upd_sec ?_ (Sub.of hm rfl) rfl; first
        | exact Keeps.refl _ | assumption | apply keeps_drawBytes | apply keeps_emit | apply keeps_raise | refine keeps_of_pair (by assumption) ?_
    | split

theorem keeps_putBoot {msk : Nat} {s₀ : State} (s : State) (r : BootRec) (hk : Keeps msk s₀ s) (hm : Sub 0x1000000000 msk) : Keeps msk s₀ (putBoot s r) := by
  unfold putBoot
  repeat' first
    | with_reducible first | exact Keeps.refl _ | assumption | exact Sub.of hm rfl
    | dsimp only
    | with_reducible refine Keeps.upd_stw ?_ (Sub.of hm rfl); first
        | exact Keeps.refl _ | assumption
    | split

theorem keeps_setSlotImage {msk : Nat} {s₀ : State} (s : State) (slot : Nat) (i : Option Image) (hk : Keeps msk s₀ s) (hm : Sub 0x1000000000 msk) : Keeps msk s₀ (setSlotImage s slot i) := by
  unfold setSlotImage
  repeat' first
    | with_reducible first | exact Keeps.refl _ | assumption | exact Sub.of hm rfl
    | dsimp only
    | with_reducible refine Keeps.upd_stw ?_ (Sub.of hm rfl); first
        | exact Keeps.refl _ | assumption
    | split

theorem keeps_markSlot {msk : Nat} {s₀ : State} (s : State) (slot : Nat) (c : Nat) (hk : Keeps msk s₀ s) (hm : Sub 0x1000000000 msk) : Keeps msk s₀ (markSlot s slot c) := by
  unfold markSlot
  repeat' first
    | with_reducible first | exact Keeps.refl _ | assumption | exact Sub.of hm rfl
    | dsimp only
    | with_reducible first
      | apply keeps_putBoot
    | split

theorem keeps_fwEnd {msk : Nat} {s₀ : State} (s : State) (n : Nat) (hk : Keeps msk s₀ s) (hm : Sub 0xB3000000000 msk) : Keeps msk s₀ (fwEnd s n) := by
  unfold fwEnd
  repeat' first
    | with_reducible first | exact Keeps.refl _ | assumption | exact Sub.of hm rfl
    | dsimp only
    | with_reducible first
      | apply keeps_raise
    | with_reducible refine Keeps.upd_stw ?_ (Sub.of hm rfl); first
        | exact Keeps.refl _ | assumption | apply keeps_raise
    | split

theorem keeps_fwCmd {msk : Nat} {s₀ : State} (s : State) (k : State → State) (h_k : ∀ a, Keeps msk s₀ a → Keeps msk s₀ (k a )) (hk : Keeps msk s₀ s) (hm : Sub 0xB3000000000 msk) : KeepsR msk s₀ (fwCmd s k) := by
  unfold fwCmd
  repeat' first
    | with_reducible first | exact Keeps.refl _ | assumption | exact Sub.of hm rfl
    | dsimp only
    | with_reducible first
      | apply KeepsR.next | apply h_k | apply keeps_rmGate | apply keeps_fwEnd | refine keeps_of_pair (by assumption) ?_
    | split

theorem keeps_execFwStream {msk : Nat} {s₀ : State} (s : State) (hk : Keeps msk s₀ s) (hm : Sub 0xB3000000000 msk) : KeepsR msk s₀ (execFwStream s) := by
  unfold execFwStream
  repeat' first
    | with_reducible first | exact Keeps.refl _ | assumption | exact Sub.of hm rfl
    | dsimp only
    | with_reducible first
      | apply KeepsR.next | apply keeps_bump | apply keeps_hostWr | apply keeps_poisonRcvd | apply keeps_setSlotImage | apply keeps_markSlot
      | apply keeps_fwEnd | refine keeps_fwCmd _ _ (fun _ _ => ?_) ?_ (Sub.of hm rfl)
    | with_reducible refine Keeps.upd_stw ?_ (Sub.of hm rfl); first
        | exact Keeps.refl _ | assumption | apply keeps_bump | apply keeps_poisonRcvd | apply keeps_setSlotImage | apply keeps_markSlot
        | apply keeps_fwEnd | refine keeps_fwCmd _ _ (fun _ _ => ?_) ?_ (Sub.of hm rfl)
    | split

theorem keeps_stopStream {msk : Nat} {s₀ : State} (s : State) (slot : Nat) (n : Nat) (hk : Keeps msk s₀ s) (hm : Sub 0xB3000000000 msk) : Keeps msk s₀ (stopStream s slot n) := by
  unfold stopStream
  repeat' first
    | with_reducible first | exact Keeps.refl _ | assumption | exact Sub.of hm rfl
    | dsimp only
    | with_reducible first
      | apply keeps_setSlotImage | apply keeps_markSlot | apply keeps_fwEnd
    | split

theorem keeps_execFwDone {msk : Nat} {s₀ : State} (s : State) (hk : Keeps msk s₀ s) (hm : Sub 0xB3000000000 msk) : KeepsR msk s₀ (execFwDone s) := by
  unfold execFwDone
  repeat' first
    | with_reducible first | exact Keeps.refl _ | assumption | exact Sub.of hm rfl
    | dsimp only
    | with_reducible first
      | apply KeepsR.next | apply keeps_bump | apply keeps_raise | apply keeps_poisonRcvd | apply keeps_setSlotImage | apply keeps_markSlot
      | apply keeps_fwEnd | apply keeps_stopStream
    | with_reducible refine Keeps.upd_stw ?_ (Sub.of hm rfl); first
        | exact Keeps.refl _ | assumption | apply keeps_bump | apply keeps_raise | apply keeps_poisonRcvd | apply keeps_setSlotImage
        | apply keeps_markSlot | apply keeps_fwEnd | apply keeps_stopStream
    | split

theorem keeps_execFwAbort {msk : Nat} {s₀ : State} (s : State) (hk : Keeps msk s₀ s) (hm : Sub 0xB3000000000 msk) : KeepsR msk s₀ (execFwAbort s) := by
  unfold execFwAbort
  repeat' first
    | with_reducible first | exact Keeps.refl _ | assumption | exact Sub.of hm rfl
    | dsimp only
    | with_reducible first
      | apply KeepsR.next | apply keeps_hostWr | apply keeps_rmGate | apply keeps_stopStream | refine keeps_of_pair (by assumption) ?_
    | with_reducible refine Keeps.upd_stw ?_ (Sub.of hm rfl); first
        | exact Keeps.refl _ | assumption | apply keeps_rmGate | apply keeps_stopStream | refine keeps_of_pair (by assumption) ?_
    | split

theorem keeps_execFwVerify {msk : Nat} {s₀ : State} (slot : Fin 2) (s : State) (hk : Keeps msk s₀ s) (hm : Sub 0xB3000000000 msk) : KeepsR msk s₀ (execFwVerify slot s) := by
  unfold execFwVerify
  repeat' first
    | with_reducible first | exact Keeps.refl _ | assumption | exact Sub.of hm rfl
    | dsimp only
    | with_reducible first
      | apply KeepsR.next | apply keeps_hostWr | refine keeps_fwCmd _ _ (fun _ _ => ?_) ?_ (Sub.of hm rfl)
    | with_reducible refine Keeps.upd_stw ?_ (Sub.of hm rfl); first
        | exact Keeps.refl _ | assumption | refine keeps_fwCmd _ _ (fun _ _ => ?_) ?_ (Sub.of hm rfl)
    | split

theorem keeps_execFwVerifyDone {msk : Nat} {s₀ : State} (s : State) (hk : Keeps msk s₀ s) (hm : Sub 0xB3000000000 msk) : KeepsR msk s₀ (execFwVerifyDone s) := by
  unfold execFwVerifyDone
  repeat' first
    | with_reducible first | exact Keeps.refl _ | assumption | exact Sub.of hm rfl
    | dsimp only
    | with_reducible first
      | apply KeepsR.next | apply keeps_markSlot | apply keeps_fwEnd
    | with_reducible refine Keeps.upd_stw ?_ (Sub.of hm rfl); first
        | exact Keeps.refl _ | assumption | apply keeps_markSlot | apply keeps_fwEnd
    | split

theorem keeps_execActivateTrial {msk : Nat} {s₀ : State} (s : State) (hk : Keeps msk s₀ s) (hm : Sub 0xB3000000000 msk) : KeepsR msk s₀ (execActivateTrial s) := by
  unfold execActivateTrial
  repeat' first
    | with_reducible first | exact Keeps.refl _ | assumption | exact Sub.of hm rfl
    | dsimp only
    | with_reducible first
      | apply KeepsR.next | apply keeps_hostWr | apply keeps_putBoot | apply keeps_fwEnd
      | refine keeps_fwCmd _ _ (fun _ _ => ?_) ?_ (Sub.of hm rfl)
    | split

theorem keeps_commitTrial {msk : Nat} {s₀ : State} (s : State) (hk : Keeps msk s₀ s) (hm : Sub 0xB3000000000 msk) : Keeps msk s₀ (commitTrial s) := by
  unfold commitTrial
  repeat' first
    | with_reducible first | exact Keeps.refl _ | assumption | exact Sub.of hm rfl
    | dsimp only
    | with_reducible first
      | apply keeps_raise | apply keeps_putBoot
    | split

theorem keeps_execCommit {msk : Nat} {s₀ : State} (s : State) (hk : Keeps msk s₀ s) (hm : Sub 0xB3000000000 msk) : KeepsR msk s₀ (execCommit s) := by
  unfold execCommit
  repeat' first
    | with_reducible first | exact Keeps.refl _ | assumption | exact Sub.of hm rfl
    | dsimp only
    | with_reducible first
      | apply KeepsR.next | apply keeps_hostWr | apply keeps_fwEnd | refine keeps_fwCmd _ _ (fun _ _ => ?_) ?_ (Sub.of hm rfl)
      | apply keeps_commitTrial
    | split

theorem keeps_execRaiseSecurityVersion {msk : Nat} {s₀ : State} (s : State) (hk : Keeps msk s₀ s) (hm : Sub 0xB3800000000 msk) : KeepsR msk s₀ (execRaiseSecurityVersion s) := by
  unfold execRaiseSecurityVersion
  repeat' first
    | with_reducible first | exact Keeps.refl _ | assumption | exact Sub.of hm rfl
    | dsimp only
    | with_reducible first
      | apply KeepsR.next | refine Keeps.raiseSvn ?_ (by assumption) (Sub.of hm rfl) | apply keeps_hostWr | apply keeps_fwEnd
      | refine keeps_fwCmd _ _ (fun _ _ => ?_) ?_ (Sub.of hm rfl) | refine keeps_of_pair (by assumption) ?_
    | with_reducible refine Keeps.upd_sec ?_ (Sub.of hm rfl) rfl; first
        | exact Keeps.refl _ | assumption | refine Keeps.raiseSvn ?_ (by assumption) (Sub.of hm rfl) | apply keeps_fwEnd
        | refine keeps_fwCmd _ _ (fun _ _ => ?_) ?_ (Sub.of hm rfl) | refine keeps_of_pair (by assumption) ?_
    | split

theorem keeps_execCancelTrial {msk : Nat} {s₀ : State} (s : State) (hk : Keeps msk s₀ s) (hm : Sub 0xB3000000000 msk) : KeepsR msk s₀ (execCancelTrial s) := by
  unfold execCancelTrial
  repeat' first
    | with_reducible first | exact Keeps.refl _ | assumption | exact Sub.of hm rfl
    | dsimp only
    | with_reducible first
      | apply KeepsR.next | apply keeps_hostWr | apply keeps_putBoot | apply keeps_fwEnd
      | refine keeps_fwCmd _ _ (fun _ _ => ?_) ?_ (Sub.of hm rfl)
    | split

theorem keeps_execTrialCommitTimer {msk : Nat} {s₀ : State} (s : State) (hk : Keeps msk s₀ s) (hm : Sub 0xB3000000000 msk) : KeepsR msk s₀ (execTrialCommitTimer s) := by
  unfold execTrialCommitTimer
  repeat' first
    | with_reducible first | exact Keeps.refl _ | assumption | exact Sub.of hm rfl
    | dsimp only
    | with_reducible first
      | apply KeepsR.next | apply keeps_commitTrial
    | split

theorem keeps_reverseMaps {msk : Nat} {s₀ : State} (s : State) (p : Nat) (hk : Keeps msk s₀ s) (hm : Sub 0x10080000038 msk) : Keeps msk s₀ (reverseMaps s p) := by
  unfold reverseMaps
  repeat' first
    | with_reducible first | exact Keeps.refl _ | assumption | exact Sub.of hm rfl
    | dsimp only
    | with_reducible first
      | apply keeps_setPart | apply keeps_partResult | (apply keeps_foldl; intro _ _ _) | (apply keeps_foldl2; intro _ _ _)
    | with_reducible refine Keeps.upd_wayOwner_tileOwner_pcOwner ?_ (Sub.of hm rfl); first
        | exact Keeps.refl _ | assumption | apply keeps_setPart | apply keeps_partResult | (apply keeps_foldl; intro _ _ _)
        | (apply keeps_foldl2; intro _ _ _)
    | split

theorem keeps_dropWork {msk : Nat} {s₀ : State} (s : State) (hk : Keeps msk s₀ s) (hm : Sub 0xBF1EEE7D739 msk) : Keeps msk s₀ (dropWork s) := by
  unfold dropWork
  repeat' first
    | with_reducible first | exact Keeps.refl _ | assumption | exact Sub.of hm rfl
    | dsimp only
    | with_reducible first
      | apply keeps_wrf | apply keeps_failReq | apply keeps_cutLink | apply keeps_endSeed | apply keeps_putIndex | apply keeps_fwEnd
      | apply keeps_stopStream | apply keeps_reverseMaps | (apply keeps_foldl; intro _ _ _) | (apply keeps_foldl2; intro _ _ _)
    | with_reducible refine Keeps.upd_regions_regionBusy ?_ (Sub.of hm rfl); first
        | exact Keeps.refl _ | assumption | apply keeps_wrf | apply keeps_failReq | apply keeps_cutLink | apply keeps_endSeed
        | apply keeps_putIndex | apply keeps_fwEnd | apply keeps_stopStream | apply keeps_reverseMaps | (apply keeps_foldl; intro _ _ _)
        | (apply keeps_foldl2; intro _ _ _)
    | split

theorem keeps_rmRestart {msk : Nat} {s₀ : State} (s : State) (op : Bool) (hk : Keeps msk s₀ s) (hm : Sub 0xBF1EEE7D739 msk) : Keeps msk s₀ (rmRestart s op) := by
  unfold rmRestart
  repeat' first
    | with_reducible first | exact Keeps.refl _ | assumption | exact Sub.of hm rfl
    | dsimp only
    | with_reducible first
      | apply keeps_bump | apply keeps_raise | apply keeps_dropWork
    | with_reducible refine Keeps.upd_stw ?_ (Sub.of hm rfl); first
        | exact Keeps.refl _ | assumption | apply keeps_bump | apply keeps_raise | apply keeps_dropWork
    | split

theorem keeps_expireTrial {msk : Nat} {s₀ : State} (s : State) (hk : Keeps msk s₀ s) (hm : Sub 0xB3000000000 msk) : Keeps msk s₀ (expireTrial s) := by
  unfold expireTrial
  repeat' first
    | with_reducible first | exact Keeps.refl _ | assumption | exact Sub.of hm rfl
    | dsimp only
    | with_reducible first
      | apply keeps_raise | apply keeps_putBoot
    | split

theorem keeps_execWatchdogExpiry {msk : Nat} {s₀ : State} (s : State) (hk : Keeps msk s₀ s) (hm : Sub 0xBF1EEE7D739 msk) : KeepsR msk s₀ (execWatchdogExpiry s) := by
  unfold execWatchdogExpiry
  repeat' first
    | with_reducible first | exact Keeps.refl _ | assumption | exact Sub.of hm rfl
    | dsimp only
    | with_reducible first
      | apply KeepsR.next | apply keeps_setSbAlert | apply keeps_raise | apply keeps_dropWork | apply keeps_rmRestart | apply keeps_expireTrial
    | with_reducible refine Keeps.upd_stw ?_ (Sub.of hm rfl); first
        | exact Keeps.refl _ | assumption | apply keeps_setSbAlert | apply keeps_raise | apply keeps_dropWork | apply keeps_rmRestart
        | apply keeps_expireTrial
    | split

theorem keeps_execRestart {msk : Nat} {s₀ : State} (s : State) (hk : Keeps msk s₀ s) (hm : Sub 0xBF1EEE7D739 msk) : KeepsR msk s₀ (execRestart s) := by
  unfold execRestart
  repeat' first
    | with_reducible first | exact Keeps.refl _ | assumption | exact Sub.of hm rfl
    | dsimp only
    | with_reducible first
      | apply KeepsR.next | apply keeps_hostWr | apply keeps_rmRestart
    | split

theorem keeps_execRestartDone {msk : Nat} {s₀ : State} (s : State) (hk : Keeps msk s₀ s) (hm : Sub 0xFF0C6F7D701 msk) : KeepsR msk s₀ (execRestartDone s) := by
  unfold execRestartDone
  repeat' first
    | with_reducible first | exact Keeps.refl _ | assumption | exact Sub.of hm rfl
    | dsimp only
    | with_reducible first
      | apply KeepsR.next | apply keeps_nextMerge | apply keeps_tblResume | (apply keeps_foldl; intro _ _ _) | (apply keeps_foldl2; intro _ _ _)
    | with_reducible refine Keeps.upd_hbm_stw ?_ (Sub.of hm rfl); first
        | exact Keeps.refl _ | assumption | apply keeps_nextMerge | apply keeps_tblResume | (apply keeps_foldl; intro _ _ _)
        | (apply keeps_foldl2; intro _ _ _)
    | split

theorem keeps_execLoadWindow {msk : Nat} {s₀ : State} (load : Nat) (s : State) (hk : Keeps msk s₀ s) (hm : Sub 0xB3000000000 msk) : KeepsR msk s₀ (execLoadWindow load s) := by
  unfold execLoadWindow
  repeat' first
    | with_reducible first | exact Keeps.refl _ | assumption | exact Sub.of hm rfl
    | dsimp only
    | with_reducible first
      | apply KeepsR.next | apply KeepsR.fault | apply keeps_raise
    | with_reducible refine Keeps.upd_stw ?_ (Sub.of hm rfl); first
        | exact Keeps.refl _ | assumption | apply keeps_raise
    | split

theorem keeps_startLoader {msk : Nat} {s₀ : State} (s : State) (slot : Nat) (m : Image) (loader : List Byte) (hk : Keeps msk s₀ s) (hm : Sub 0x1800000001 msk) : Keeps msk s₀ (startLoader s slot m loader) := by
  unfold startLoader
  repeat' first
    | with_reducible first | exact Keeps.refl _ | assumption | exact Sub.of hm rfl
    | dsimp only
    | with_reducible refine Keeps.upd_dev_sec_stw ?_ (Sub.of hm rfl) rfl rfl; first
        | exact Keeps.refl _ | assumption
    | split

theorem keeps_trySlot {msk : Nat} {s₀ : State} (s : State) (slot : Nat) (hk : Keeps msk s₀ s) (hm : Sub 0x1800000001 msk) : Keeps msk s₀ (trySlot s slot).2 := by
  unfold trySlot
  repeat' first
    | with_reducible first | exact Keeps.refl _ | assumption | exact Sub.of hm rfl
    | dsimp only
    | with_reducible first
      | apply keeps_markSlot | apply keeps_startLoader
    | split

theorem keeps_bootKeys {msk : Nat} {s₀ : State} (s : State) (hk : Keeps msk s₀ s) (hm : Sub 0x40800000100 msk) : Keeps msk s₀ (bootKeys s) := by
  unfold bootKeys
  repeat' first
    | with_reducible first | exact Keeps.refl _ | assumption | exact Sub.of hm rfl
    | dsimp only
    | with_reducible first
      | apply keeps_draw | apply keeps_drawBytes | refine keeps_of_pair (by assumption) ?_
    | with_reducible refine Keeps.upd_dir_sec ?_ (Sub.of hm rfl) rfl; first
        | exact Keeps.refl _ | assumption | apply keeps_draw | apply keeps_drawBytes | refine keeps_of_pair (by assumption) ?_
    | split

theorem keeps_execBootRom {msk : Nat} {s₀ : State} (s : State) (hk : Keeps msk s₀ s) (hm : Sub 0x49800000101 msk) : KeepsR msk s₀ (execBootRom s) := by
  unfold execBootRom
  repeat' first
    | with_reducible first | exact Keeps.refl _ | assumption | exact Sub.of hm rfl
    | dsimp only
    | with_reducible first
      | apply KeepsR.next | apply keeps_setSbAlert | apply keeps_putBoot | apply keeps_trySlot | apply keeps_bootKeys
      | refine keeps_of_pair (by assumption) ?_
    | with_reducible refine Keeps.upd_stw ?_ (Sub.of hm rfl); first
        | exact Keeps.refl _ | assumption | apply keeps_setSbAlert | apply keeps_putBoot | apply keeps_trySlot | apply keeps_bootKeys
        | refine keeps_of_pair (by assumption) ?_
    | split

theorem keeps_execLoaderStart {msk : Nat} {s₀ : State} (s : State) (hk : Keeps msk s₀ s) (hm : Sub 0x1800000001 msk) : KeepsR msk s₀ (execLoaderStart s) := by
  unfold execLoaderStart
  repeat' first
    | with_reducible first | exact Keeps.refl _ | assumption | exact Sub.of hm rfl
    | dsimp only
    | with_reducible first
      | apply KeepsR.next | apply keeps_markSlot
    | with_reducible refine Keeps.upd_dev ?_ (Sub.of hm rfl) rfl; first
        | exact Keeps.refl _ | assumption | apply keeps_markSlot
    | with_reducible refine Keeps.upd_dev_sec ?_ (Sub.of hm rfl) rfl rfl; first
        | exact Keeps.refl _ | assumption | apply keeps_markSlot
    | split

theorem keeps_chooseSettings {msk : Nat} {s₀ : State} (s : State) (ver : Nat) (hk : Keeps msk s₀ s) (hm : Sub 0xB3000000000 msk) : Keeps msk s₀ (chooseSettings s ver) := by
  unfold chooseSettings
  repeat' first
    | with_reducible first | exact Keeps.refl _ | assumption | exact Sub.of hm rfl
    | dsimp only
    | with_reducible first
      | apply keeps_raise | apply keeps_putBoot
    | with_reducible refine Keeps.upd_stw ?_ (Sub.of hm rfl); first
        | exact Keeps.refl _ | assumption | apply keeps_raise | apply keeps_putBoot
    | split

theorem keeps_execRuntimeStart {msk : Nat} {s₀ : State} (s : State) (hk : Keeps msk s₀ s) (hm : Sub 0xBB000040001 msk) : KeepsR msk s₀ (execRuntimeStart s) := by
  unfold execRuntimeStart
  repeat' first
    | with_reducible first | exact Keeps.refl _ | assumption | exact Sub.of hm rfl
    | dsimp only
    | with_reducible first
      | apply KeepsR.next | apply keeps_raise | apply keeps_record | apply keeps_chooseSettings
    | with_reducible refine Keeps.upd_dev_stw_evr ?_ (Sub.of hm rfl) rfl; first
        | exact Keeps.refl _ | assumption | apply keeps_raise | apply keeps_record | apply keeps_chooseSettings
    | split

theorem keeps_replayRepairs {msk : Nat} {s₀ : State} (s : State) (k : Nat) (hk : Keeps msk s₀ s) (hm : Sub 0x40000440000 msk) : Keeps msk s₀ (replayRepairs s k) := by
  unfold replayRepairs
  repeat' first
    | with_reducible first | exact Keeps.refl _ | assumption | exact Sub.of hm rfl
    | dsimp only
    | with_reducible first
      | apply keeps_draw | apply keeps_setHbm | apply keeps_setBooth | (apply keeps_foldl; intro _ _ _) | (apply keeps_foldl2; intro _ _ _)
      | refine keeps_of_pair (by assumption) ?_
    | split

theorem keeps_execTrainDone {msk : Nat} {s₀ : State} (s : State) (hk : Keeps msk s₀ s) (hm : Sub 0xF2040640001 msk) : KeepsR msk s₀ (execTrainDone s) := by
  unfold execTrainDone
  repeat' first
    | with_reducible first | exact Keeps.refl _ | assumption | exact Sub.of hm rfl
    | dsimp only
    | with_reducible first
      | apply KeepsR.next | apply keeps_raise | apply keeps_replayRepairs | (apply keeps_foldl; intro _ _ _) | (apply keeps_foldl2; intro _ _ _)
    | with_reducible refine Keeps.upd_dev_cab_cxl ?_ (Sub.of hm rfl) rfl; first
        | exact Keeps.refl _ | assumption | apply keeps_raise | apply keeps_replayRepairs | (apply keeps_foldl; intro _ _ _)
        | (apply keeps_foldl2; intro _ _ _)
    | split

theorem keeps_recRefuse {msk : Nat} {s₀ : State} (s : State) (n : Nat) (hk : Keeps msk s₀ s) (hm : Sub 0x1000000000 msk) : Keeps msk s₀ (recRefuse s n) := by
  unfold recRefuse
  repeat' first
    | with_reducible first | exact Keeps.refl _ | assumption | exact Sub.of hm rfl
    | dsimp only
    | with_reducible refine Keeps.upd_stw ?_ (Sub.of hm rfl); first
        | exact Keeps.refl _ | assumption
    | split

theorem keeps_execRecoveryImageData {msk : Nat} {s₀ : State} (data : List Byte) (s : State) (hk : Keeps msk s₀ s) (hm : Sub 0x1800000001 msk) : KeepsR msk s₀ (execRecoveryImageData data s) := by
  unfold execRecoveryImageData
  repeat' first
    | with_reducible first | exact Keeps.refl _ | assumption | exact Sub.of hm rfl
    | dsimp only
    | with_reducible first
      | apply KeepsR.next | apply keeps_putBoot | apply keeps_setSlotImage | apply keeps_markSlot | apply keeps_startLoader | apply keeps_recRefuse
    | with_reducible refine Keeps.upd_stw ?_ (Sub.of hm rfl); first
        | exact Keeps.refl _ | assumption | apply keeps_putBoot | apply keeps_setSlotImage | apply keeps_markSlot | apply keeps_startLoader
        | apply keeps_recRefuse
    | split

theorem keeps_execRecoveryStatusRequest {msk : Nat} {s₀ : State} (s : State) (hk : Keeps msk s₀ s) (hm : Sub 0x80000000000 msk) : KeepsR msk s₀ (execRecoveryStatusRequest s) := by
  unfold execRecoveryStatusRequest
  repeat' first
    | with_reducible first | exact Keeps.refl _ | assumption | exact Sub.of hm rfl
    | dsimp only
    | with_reducible first
      | apply KeepsR.next | apply keeps_emit
    | split

theorem keeps_execRecoveryReenumeration {msk : Nat} {s₀ : State} (s : State) (hk : Keeps msk s₀ s) (hm : Sub 0x1000000000 msk) : KeepsR msk s₀ (execRecoveryReenumeration s) := by
  unfold execRecoveryReenumeration
  repeat' first
    | with_reducible first | exact Keeps.refl _ | assumption | exact Sub.of hm rfl
    | dsimp only
    | with_reducible first
      | apply KeepsR.next
    | with_reducible refine Keeps.upd_stw ?_ (Sub.of hm rfl); first
        | exact Keeps.refl _ | assumption
    | split

theorem keeps_recBad {msk : Nat} {s₀ : State} (s : State) (n : Nat) (hk : Keeps msk s₀ s) (hm : Sub 0xB2000000000 msk) : Keeps msk s₀ (recBad s n) := by
  induction n generalizing s with
  | zero => unfold recBad; exact hk
  | succ n ih =>
    unfold recBad
    repeat' first
      | with_reducible first | exact Keeps.refl _ | assumption | exact Sub.of hm rfl
      | dsimp only
      | with_reducible first
        | apply ih | apply keeps_bump | apply keeps_raise
      | split

theorem keeps_execEvrWstatRead {msk : Nat} {s₀ : State} (s : State) (hk : Keeps msk s₀ s) (hm : Sub 0xB2000000000 msk) : KeepsR msk s₀ (execEvrWstatRead s) := by
  unfold execEvrWstatRead
  repeat' first
    | with_reducible first | exact Keeps.refl _ | assumption | exact Sub.of hm rfl
    | dsimp only
    | with_reducible first
      | apply KeepsR.next | apply keeps_emit | apply keeps_hostRd | apply keeps_recBad
    | split

theorem keeps_execEvrClear {msk : Nat} {s₀ : State} (s : State) (hk : Keeps msk s₀ s) (hm : Sub 0x92000000000 msk) : KeepsR msk s₀ (execEvrClear s) := by
  unfold execEvrClear
  repeat' first
    | with_reducible first | exact Keeps.refl _ | assumption | exact Sub.of hm rfl
    | dsimp only
    | with_reducible first
      | apply KeepsR.next | apply keeps_wrf | apply keeps_hostWr
    | with_reducible refine Keeps.upd_evr ?_ (Sub.of hm rfl); first
        | exact Keeps.refl _ | assumption | apply keeps_wrf
    | split

theorem keeps_execCaptCfgWrite {msk : Nat} {s₀ : State} (part : Fin 32) (value : Word) (s : State) (hk : Keeps msk s₀ s) (hm : Sub 0xB2000000000 msk) : KeepsR msk s₀ (execCaptCfgWrite part value s) := by
  unfold execCaptCfgWrite
  repeat' first
    | with_reducible first | exact Keeps.refl _ | assumption | exact Sub.of hm rfl
    | dsimp only
    | with_reducible first
      | apply KeepsR.next | apply keeps_wr | apply keeps_wrf | apply keeps_raise | apply keeps_hostWr
    | split

theorem keeps_endReplay {msk : Nat} {s₀ : State} (s : State) (p : Nat) (hk : Keeps msk s₀ s) (hm : Sub 0xB6000000000 msk) : Keeps msk s₀ (endReplay s p) := by
  unfold endReplay
  repeat' first
    | with_reducible first | exact Keeps.refl _ | assumption | exact Sub.of hm rfl
    | dsimp only
    | with_reducible first
      | apply keeps_raise
    | with_reducible refine Keeps.upd_replay ?_ (Sub.of hm rfl); first
        | exact Keeps.refl _ | assumption | apply keeps_raise
    | split

theorem keeps_execReplayStart {msk : Nat} {s₀ : State} (part : Fin 32) (die : Fin 4) (s : State) (hk : Keeps msk s₀ s) (hm : Sub 0xB6000000000 msk) : KeepsR msk s₀ (execReplayStart part die s) := by
  unfold execReplayStart
  repeat' first
    | with_reducible first | exact Keeps.refl _ | assumption | exact Sub.of hm rfl
    | dsimp only
    | with_reducible first
      | apply KeepsR.next | apply keeps_hostWr | apply keeps_endReplay
    | with_reducible refine Keeps.upd_replay ?_ (Sub.of hm rfl); first
        | exact Keeps.refl _ | assumption | apply keeps_endReplay
    | split

theorem keeps_execReplayStop {msk : Nat} {s₀ : State} (part : Fin 32) (s : State) (hk : Keeps msk s₀ s) (hm : Sub 0xB6000000000 msk) : KeepsR msk s₀ (execReplayStop part s) := by
  unfold execReplayStop
  repeat' first
    | with_reducible first | exact Keeps.refl _ | assumption | exact Sub.of hm rfl
    | dsimp only
    | with_reducible first
      | apply KeepsR.next | apply keeps_hostWr | apply keeps_stopReplay
    | split

theorem keeps_replayAdmit {msk : Nat} {s₀ : State} (s : State) (id : Nat) (r0 : Req) (hk : Keeps msk s₀ s) (hm : Sub 0xFE7C6FFFF01 msk) : Keeps msk s₀ (replayAdmit s id r0) := by
  unfold replayAdmit
  repeat' first
    | with_reducible first | exact Keeps.refl _ | assumption | exact Sub.of hm rfl
    | dsimp only
    | with_reducible first
      | apply keeps_passStep2 | apply keeps_step9 | apply keeps_failReq | apply keeps_doOp | refine keeps_of_pair (by assumption) ?_
    | split

theorem keeps_playEntry {msk : Nat} {s₀ : State} (s : State) (p : Nat) (x : Replay) (y : Replay) (at_ : Nat) (e : List Byte) (hk : Keeps msk s₀ s) (hm : Sub 0xFE7C6FFFF01 msk) : Keeps msk s₀ (playEntry s p x y at_ e) := by
  unfold playEntry
  repeat' first
    | with_reducible first | exact Keeps.refl _ | assumption | exact Sub.of hm rfl
    | dsimp only
    | with_reducible first
      | apply keeps_putVerdict | apply keeps_newId | apply keeps_replayAdmit | refine keeps_of_pair (by assumption) ?_
    | with_reducible refine Keeps.upd_replay ?_ (Sub.of hm rfl); first
        | exact Keeps.refl _ | assumption | apply keeps_putVerdict | apply keeps_newId | apply keeps_replayAdmit
        | refine keeps_of_pair (by assumption) ?_
    | split

theorem keeps_replayHead {msk : Nat} {s₀ : State} (s : State) (p : Nat) (x : Replay) (at_ : Nat) (len : Nat) (h : List Byte) (hk : Keeps msk s₀ s) (hm : Sub 0xFE7C6FFFF01 msk) : Keeps msk s₀ (replayHead s p x at_ len h) := by
  unfold replayHead
  repeat' first
    | with_reducible first | exact Keeps.refl _ | assumption | exact Sub.of hm rfl
    | dsimp only
    | with_reducible first
      | apply keeps_refRead | apply keeps_endReplay | apply keeps_playEntry | refine keeps_of_pair (by assumption) ?_
    | with_reducible refine Keeps.upd_replay ?_ (Sub.of hm rfl); first
        | exact Keeps.refl _ | assumption | apply keeps_refRead | apply keeps_endReplay | apply keeps_playEntry
        | refine keeps_of_pair (by assumption) ?_
    | split

theorem keeps_execReplayEntry {msk : Nat} {s₀ : State} (part : Fin 32) (s : State) (hk : Keeps msk s₀ s) (hm : Sub 0xFE7C6FFFF01 msk) : KeepsR msk s₀ (execReplayEntry part s) := by
  unfold execReplayEntry
  repeat' first
    | with_reducible first | exact Keeps.refl _ | assumption | exact Sub.of hm rfl
    | dsimp only
    | with_reducible first
      | apply KeepsR.next | apply keeps_refRead | apply keeps_endReplay | apply keeps_replayHead | refine keeps_of_pair (by assumption) ?_
    | split

theorem keeps_putDump {msk : Nat} {s₀ : State} (s : State) (n : Nat) (d : DumpSlot) (hk : Keeps msk s₀ s) (hm : Sub 0x2000000000 msk) : Keeps msk s₀ (putDump s n d) := by
  unfold putDump
  repeat' first
    | with_reducible first | exact Keeps.refl _ | assumption | exact Sub.of hm rfl
    | dsimp only
    | with_reducible refine Keeps.upd_evr ?_ (Sub.of hm rfl); first
        | exact Keeps.refl _ | assumption
    | split

theorem keeps_sectBytes {msk : Nat} {s₀ : State} (s : State) (n : Nat) (off : Nat) (m : Tab Byte) (hk : Keeps msk s₀ s) (hm : Sub 0x40000000000 msk) : Keeps msk s₀ (sectBytes s n off m).2 := by
  unfold sectBytes
  repeat' first
    | with_reducible first | exact Keeps.refl _ | assumption | exact Sub.of hm rfl
    | dsimp only
    | with_reducible first
      | apply keeps_draw | apply keeps_drawBytes | (apply keeps_foldl; intro _ _ _) | (apply keeps_foldl2; intro _ _ _)
      | refine keeps_of_pair (by assumption) ?_
    | split

theorem keeps_beginDump {msk : Nat} {s₀ : State} (s : State) (reduced : Bool) (hk : Keeps msk s₀ s) (hm : Sub 0xBA000040001 msk) : Keeps msk s₀ (beginDump s reduced) := by
  unfold beginDump
  repeat' first
    | with_reducible first | exact Keeps.refl _ | assumption | exact Sub.of hm rfl
    | dsimp only
    | with_reducible first
      | apply keeps_record | apply keeps_putDump
    | with_reducible refine Keeps.upd_evr ?_ (Sub.of hm rfl); first
        | exact Keeps.refl _ | assumption | apply keeps_record | apply keeps_putDump
    | split

theorem keeps_reduceDump {msk : Nat} {s₀ : State} (s : State) (hk : Keeps msk s₀ s) (hm : Sub 0xBA000040001 msk) : Keeps msk s₀ (reduceDump s) := by
  unfold reduceDump
  repeat' first
    | with_reducible first | exact Keeps.refl _ | assumption | exact Sub.of hm rfl
    | dsimp only
    | with_reducible first
      | apply keeps_putDump | apply keeps_beginDump
    | split

theorem keeps_execDumpStart {msk : Nat} {s₀ : State} (s : State) (hk : Keeps msk s₀ s) (hm : Sub 0xBA000040001 msk) : KeepsR msk s₀ (execDumpStart s) := by
  unfold execDumpStart
  repeat' first
    | with_reducible first | exact Keeps.refl _ | assumption | exact Sub.of hm rfl
    | dsimp only
    | with_reducible first
      | apply KeepsR.next | apply keeps_beginDump
    | split

theorem keeps_execDumpTimeout {msk : Nat} {s₀ : State} (s : State) (hk : Keeps msk s₀ s) (hm : Sub 0xBA000040001 msk) : KeepsR msk s₀ (execDumpTimeout s) := by
  unfold execDumpTimeout
  repeat' first
    | with_reducible first | exact Keeps.refl _ | assumption | exact Sub.of hm rfl
    | dsimp only
    | with_reducible first
      | apply KeepsR.next | apply keeps_reduceDump
    | split

theorem keeps_writeDump {msk : Nat} {s₀ : State} (s : State) (n : Nat) (hk : Keeps msk s₀ s) (hm : Sub 0x42000000000 msk) : Keeps msk s₀ (writeDump s n) := by
  unfold writeDump
  repeat' first
    | with_reducible first | exact Keeps.refl _ | assumption | exact Sub.of hm rfl
    | dsimp only
    | with_reducible first
      | apply keeps_putDump | apply keeps_sectBytes | (apply keeps_foldl; intro _ _ _) | (apply keeps_foldl2; intro _ _ _)
      | refine keeps_of_pair (by assumption) ?_
    | split

theorem keeps_execDumpComplete {msk : Nat} {s₀ : State} (s : State) (hk : Keeps msk s₀ s) (hm : Sub 0x4A000000001 msk) : KeepsR msk s₀ (execDumpComplete s) := by
  unfold execDumpComplete
  repeat' first
    | with_reducible first | exact Keeps.refl _ | assumption | exact Sub.of hm rfl
    | dsimp only
    | with_reducible first
      | apply KeepsR.next | apply keeps_setSbAlert | apply keeps_writeDump
    | with_reducible refine Keeps.upd_dev_evr ?_ (Sub.of hm rfl) rfl; first
        | exact Keeps.refl _ | assumption | apply keeps_setSbAlert | apply keeps_writeDump
    | split

theorem keeps_execDumpCopy {msk : Nat} {s₀ : State} (s : State) (hk : Keeps msk s₀ s) (hm : Sub 0xBA0C247C601 msk) : KeepsR msk s₀ (execDumpCopy s) := by
  unfold execDumpCopy
  repeat' first
    | with_reducible first | exact Keeps.refl _ | assumption | exact Sub.of hm rfl
    | dsimp only
    | with_reducible first
      | apply KeepsR.next | apply keeps_hostWr | apply keeps_issueWrite
    | with_reducible refine Keeps.upd_evr ?_ (Sub.of hm rfl); first
        | exact Keeps.refl _ | assumption | apply keeps_issueWrite
    | split

theorem keeps_execDumpRelease {msk : Nat} {s₀ : State} (s : State) (hk : Keeps msk s₀ s) (hm : Sub 0x82000000000 msk) : KeepsR msk s₀ (execDumpRelease s) := by
  unfold execDumpRelease
  repeat' first
    | with_reducible first | exact Keeps.refl _ | assumption | exact Sub.of hm rfl
    | dsimp only
    | with_reducible first
      | apply KeepsR.next | apply keeps_hostWr | apply keeps_putDump
    | with_reducible refine Keeps.upd_evr ?_ (Sub.of hm rfl); first
        | exact Keeps.refl _ | assumption | apply keeps_putDump
    | split

theorem keeps_execSnap {msk : Nat} {s₀ : State} (part : Fin 32) (s : State) (hk : Keeps msk s₀ s) (hm : Sub 0x80080000000 msk) : KeepsR msk s₀ (execSnap part s) := by
  unfold execSnap
  repeat' first
    | with_reducible first | exact Keeps.refl _ | assumption | exact Sub.of hm rfl
    | dsimp only
    | with_reducible first
      | apply KeepsR.next | apply keeps_setPart | apply keeps_hostWr
    | split

theorem keeps_cutStream {msk : Nat} {s₀ : State} (s : State) (hk : Keeps msk s₀ s) (hm : Sub 0x1000000000 msk) : Keeps msk s₀ (cutStream s) := by
  unfold cutStream
  repeat' first
    | with_reducible first | exact Keeps.refl _ | assumption | exact Sub.of hm rfl
    | dsimp only
    | with_reducible first
      | apply keeps_setSlotImage | apply keeps_markSlot
    | split

theorem keeps_moduleReset {msk : Nat} {s₀ : State} (s0 : State) (hk : Keeps msk s₀ s0) (hm : Sub 0xFFFFFFFFFFF msk) : Keeps msk s₀ (moduleReset s0) := by
  have h := keeps_cutStream s0 hk (Sub.of hm rfl)
  exact ⟨h.chip, h.queue, h.free, h.ids, h.host, fun _ => rfl, h.svn, fun _ => rfl,
    fun f hf => by have h2 := hm.bit hf; cases f <;> first | exact absurd h2 (by decide) | exact h.frame _ hf⟩

theorem keeps_throughBoot {msk : Nat} {s₀ : State} (s : State) (cause : Nat) (hk : Keeps msk s₀ s) (hm : Sub 0xFFFFFFFFFFF msk) : Keeps msk s₀ (throughBoot s cause) := by
  unfold throughBoot
  repeat' first
    | with_reducible first | exact Keeps.refl _ | assumption | exact Sub.of hm rfl
    | dsimp only
    | with_reducible first
      | apply keeps_moduleReset
    | with_reducible refine Keeps.upd_dev ?_ (Sub.of hm rfl) rfl; first
        | exact Keeps.refl _ | assumption | apply keeps_moduleReset
    | split

theorem keeps_railsOff {msk : Nat} {s₀ : State} (s : State) (hk : Keeps msk s₀ s) (hm : Sub 0xFFFFFFFFFFF msk) : Keeps msk s₀ (railsOff s) := by
  have h := keeps_moduleReset s hk (Sub.of hm rfl)
  exact ⟨h.chip, h.queue, h.free, h.ids, h.host, h.dev, h.svn, fun _ => rfl,
    fun f hf => by have h2 := hm.bit hf; cases f <;> first | exact absurd h2 (by decide) | exact h.frame _ hf⟩

theorem keeps_execPwrEn {msk : Nat} {s₀ : State} (s : State) (hk : Keeps msk s₀ s) (hm : Sub 0x1 msk) : KeepsR msk s₀ (execPwrEn s) := by
  unfold execPwrEn
  repeat' first
    | with_reducible first | exact Keeps.refl _ | assumption | exact Sub.of hm rfl
    | dsimp only
    | with_reducible first
      | apply KeepsR.next
    | with_reducible refine Keeps.upd_dev ?_ (Sub.of hm rfl) rfl; first
        | exact Keeps.refl _ | assumption
    | split

theorem keeps_execPwrGood {msk : Nat} {s₀ : State} (s : State) (hk : Keeps msk s₀ s) (hm : Sub 0x1 msk) : KeepsR msk s₀ (execPwrGood s) := by
  unfold execPwrGood
  repeat' first
    | with_reducible first | exact Keeps.refl _ | assumption | exact Sub.of hm rfl
    | dsimp only
    | with_reducible first
      | apply KeepsR.next
    | with_reducible refine Keeps.upd_dev ?_ (Sub.of hm rfl) rfl; first
        | exact Keeps.refl _ | assumption
    | split

theorem keeps_execInputLoss {msk : Nat} {s₀ : State} (s : State) (hk : Keeps msk s₀ s) (hm : Sub 0xFFFFFFFFFFF msk) : KeepsR msk s₀ (execInputLoss s) := by
  unfold execInputLoss
  repeat' first
    | with_reducible first | exact Keeps.refl _ | assumption | exact Sub.of hm rfl
    | dsimp only
    | with_reducible first
      | apply KeepsR.next | apply keeps_railsOff
    | split

theorem keeps_execPwrEnLow {msk : Nat} {s₀ : State} (s : State) (hk : Keeps msk s₀ s) (hm : Sub 0xFFFFFFFFFFF msk) : KeepsR msk s₀ (execPwrEnLow s) := by
  unfold execPwrEnLow
  repeat' first
    | with_reducible first | exact Keeps.refl _ | assumption | exact Sub.of hm rfl
    | dsimp only
    | with_reducible first
      | apply KeepsR.next | apply keeps_railsOff
    | with_reducible refine Keeps.upd_dev ?_ (Sub.of hm rfl) rfl; first
        | exact Keeps.refl _ | assumption | apply keeps_railsOff
    | split

theorem keeps_execInputFault {msk : Nat} {s₀ : State} (mv : Nat) (s : State) (hk : Keeps msk s₀ s) (hm : Sub 0xBA000000001 msk) : KeepsR msk s₀ (execInputFault mv s) := by
  unfold execInputFault
  repeat' first
    | with_reducible first | exact Keeps.refl _ | assumption | exact Sub.of hm rfl
    | dsimp only
    | with_reducible first
      | apply KeepsR.next | apply keeps_setSbAlert | apply keeps_raise
    | with_reducible refine Keeps.upd_pwr ?_ (Sub.of hm rfl) rfl; first
        | exact Keeps.refl _ | assumption | apply keeps_setSbAlert | apply keeps_raise
    | split

theorem keeps_execResetN {msk : Nat} {s₀ : State} (s : State) (hk : Keeps msk s₀ s) (hm : Sub 0xFFFFFFFFFFF msk) : KeepsR msk s₀ (execResetN s) := by
  unfold execResetN
  repeat' first
    | with_reducible first | exact Keeps.refl _ | assumption | exact Sub.of hm rfl
    | dsimp only
    | with_reducible first
      | apply KeepsR.next | apply keeps_throughBoot
    | split

theorem keeps_cacheWriteBack {msk : Nat} {s₀ : State} (s : State) (hk : Keeps msk s₀ s) (hm : Sub 0x5000000C000 msk) : Keeps msk s₀ (cacheWriteBack s) := by
  unfold cacheWriteBack
  repeat' first
    | with_reducible first | exact Keeps.refl _ | assumption | exact Sub.of hm rfl
    | dsimp only
    | with_reducible first
      | apply keeps_lineBack | (apply keeps_foldl; intro _ _ _) | (apply keeps_foldl2; intro _ _ _)
    | split

theorem keeps_execConventionalReset {msk : Nat} {s₀ : State} (s : State) (hk : Keeps msk s₀ s) (hm : Sub 0xFFFFFFFFFFF msk) : KeepsR msk s₀ (execConventionalReset s) := by
  unfold execConventionalReset
  repeat' first
    | with_reducible first | exact Keeps.refl _ | assumption | exact Sub.of hm rfl
    | dsimp only
    | with_reducible first
      | apply KeepsR.next | apply keeps_wrf | apply keeps_throughBoot | apply keeps_cacheWriteBack
    | with_reducible refine Keeps.upd_cxl ?_ (Sub.of hm rfl); first
        | exact Keeps.refl _ | assumption | apply keeps_wrf | apply keeps_throughBoot | apply keeps_cacheWriteBack
    | split

theorem keeps_execReferenceOscillatorLoss {msk : Nat} {s₀ : State} (s : State) (hk : Keeps msk s₀ s) (hm : Sub 0xFA000040001 msk) : KeepsR msk s₀ (execReferenceOscillatorLoss s) := by
  unfold execReferenceOscillatorLoss
  repeat' first
    | with_reducible first | exact Keeps.refl _ | assumption | exact Sub.of hm rfl
    | dsimp only
    | with_reducible first
      | apply KeepsR.next | apply keeps_draw | apply keeps_record | refine keeps_of_pair (by assumption) ?_
    | split

theorem keeps_execSmbusBlockRead {msk : Nat} {s₀ : State} (code : Nat) (s : State) (hk : Keeps msk s₀ s) (hm : Sub 0x88000000001 msk) :
    KeepsR msk s₀ (execSmbusBlockRead code s) := by
  unfold execSmbusBlockRead
  split
  · exact KeepsR.fault
  · split
    · exact KeepsR.next hk
    · have h := keeps_emit s (.smbus (statusBlock s)) hk (Sub.of hm rfl)
      exact KeepsR.next ⟨h.chip, h.queue, h.free, h.ids, h.host, h.dev, h.svn, fun _ => rfl,
        fun f hf => by have h2 := hm.bit hf; cases f <;> first | exact absurd h2 (by decide) | exact h.frame _ hf⟩

theorem keeps_stepChange {msk : Nat} {s₀ : State} (s : State) (old : Nat) (hk : Keeps msk s₀ s) (hm : Sub 0xBA000040001 msk) : Keeps msk s₀ (stepChange s old) := by
  unfold stepChange
  repeat' first
    | with_reducible first | exact Keeps.refl _ | assumption | exact Sub.of hm rfl
    | dsimp only
    | with_reducible first
      | apply keeps_bump | apply keeps_raise | apply keeps_record
    | split

theorem keeps_execPowerMeasurement {msk : Nat} {s₀ : State} (mv : Nat) (ca : Nat) (watts : Nat) (s : State) (hk : Keeps msk s₀ s) (hm : Sub 0xBA000040001 msk) : KeepsR msk s₀ (execPowerMeasurement mv ca watts s) := by
  unfold execPowerMeasurement
  repeat' first
    | with_reducible first | exact Keeps.refl _ | assumption | exact Sub.of hm rfl
    | dsimp only
    | with_reducible first
      | apply KeepsR.next | apply keeps_raise | apply keeps_stepChange
    | with_reducible refine Keeps.upd_pwr ?_ (Sub.of hm rfl) rfl; first
        | exact Keeps.refl _ | assumption | apply keeps_raise | apply keeps_stepChange
    | split

theorem keeps_execPwrModeWrite {msk : Nat} {s₀ : State} (value : Word) (s : State) (hk : Keeps msk s₀ s) (hm : Sub 0x88000000000 msk) : KeepsR msk s₀ (execPwrModeWrite value s) := by
  unfold execPwrModeWrite
  repeat' first
    | with_reducible first | exact Keeps.refl _ | assumption | exact Sub.of hm rfl
    | dsimp only
    | with_reducible first
      | apply KeepsR.next | apply keeps_hostWr
    | with_reducible refine Keeps.upd_pwr ?_ (Sub.of hm rfl) rfl; first
        | exact Keeps.refl _ | assumption
    | split

theorem keeps_dieClock {msk : Nat} {s₀ : State} (s : State) (f : Nat) (die : Nat) (hk : Keeps msk s₀ s) (hm : Sub 0x8000040000 msk) : Keeps msk s₀ (dieClock s f die) := by
  unfold dieClock
  repeat' first
    | with_reducible first | exact Keeps.refl _ | assumption | exact Sub.of hm rfl
    | dsimp only
    | with_reducible first
      | apply keeps_setBooth | (apply keeps_foldl; intro _ _ _) | (apply keeps_foldl2; intro _ _ _)
    | with_reducible refine Keeps.upd_pwr ?_ (Sub.of hm rfl) rfl; first
        | exact Keeps.refl _ | assumption | apply keeps_setBooth | (apply keeps_foldl; intro _ _ _) | (apply keeps_foldl2; intro _ _ _)
    | split

theorem keeps_execPllLocked {msk : Nat} {s₀ : State} (s : State) (hk : Keeps msk s₀ s) (hm : Sub 0x8000040000 msk) : KeepsR msk s₀ (execPllLocked s) := by
  unfold execPllLocked
  repeat' first
    | with_reducible first | exact Keeps.refl _ | assumption | exact Sub.of hm rfl
    | dsimp only
    | with_reducible first
      | apply KeepsR.next | apply keeps_dieClock | (apply keeps_foldl; intro _ _ _) | (apply keeps_foldl2; intro _ _ _)
    | with_reducible refine Keeps.upd_pwr ?_ (Sub.of hm rfl) rfl; first
        | exact Keeps.refl _ | assumption | apply keeps_dieClock | (apply keeps_foldl; intro _ _ _) | (apply keeps_foldl2; intro _ _ _)
    | split

theorem keeps_trip {msk : Nat} {s₀ : State} (s : State) (src : Nat) (t : Int) (hk : Keeps msk s₀ s) (hm : Sub 0xBA000040001 msk) : Keeps msk s₀ (trip s src t) := by
  unfold trip
  repeat' first
    | with_reducible first | exact Keeps.refl _ | assumption | exact Sub.of hm rfl
    | dsimp only
    | with_reducible first
      | apply keeps_record | apply keeps_reduceDump
    | with_reducible refine Keeps.upd_dev ?_ (Sub.of hm rfl) rfl; first
        | exact Keeps.refl _ | assumption | apply keeps_record | apply keeps_reduceDump
    | split

theorem keeps_readSource {msk : Nat} {s₀ : State} (s : State) (src : Nat) (t : Int) (hk : Keeps msk s₀ s) (hm : Sub 0xBA000040001 msk) : Keeps msk s₀ (readSource s src t) := by
  unfold readSource
  repeat' first
    | with_reducible first | exact Keeps.refl _ | assumption | exact Sub.of hm rfl
    | dsimp only
    | with_reducible first
      | apply keeps_bump | apply keeps_setSbAlert | apply keeps_raise | apply keeps_record | apply keeps_trip
    | with_reducible refine Keeps.upd_pwr ?_ (Sub.of hm rfl) rfl; first
        | exact Keeps.refl _ | assumption | apply keeps_bump | apply keeps_setSbAlert | apply keeps_raise | apply keeps_record | apply keeps_trip
    | split

theorem keeps_execSensorReading {msk : Nat} {s₀ : State} (temps : List Int) (s : State) (hk : Keeps msk s₀ s) (hm : Sub 0xBA000040001 msk) : KeepsR msk s₀ (execSensorReading temps s) := by
  unfold execSensorReading
  repeat' first
    | with_reducible first | exact Keeps.refl _ | assumption | exact Sub.of hm rfl
    | dsimp only
    | with_reducible first
      | apply KeepsR.next | apply KeepsR.fault | apply keeps_setSbAlert | apply keeps_raise | apply keeps_readSource
      | (apply keeps_foldl; intro _ _ _) | (apply keeps_foldl2; intro _ _ _)
    | with_reducible refine Keeps.upd_pwr ?_ (Sub.of hm rfl) rfl; first
        | exact Keeps.refl _ | assumption | apply keeps_setSbAlert | apply keeps_raise | apply keeps_readSource | (apply keeps_foldl; intro _ _ _)
        | (apply keeps_foldl2; intro _ _ _)
    | split

theorem keeps_pwrResult {msk : Nat} {s₀ : State} (s : State) (n : Nat) (hk : Keeps msk s₀ s) (hm : Sub 0x8000000000 msk) : Keeps msk s₀ (pwrResult s n) := by
  unfold pwrResult
  repeat' first
    | with_reducible first | exact Keeps.refl _ | assumption | exact Sub.of hm rfl
    | dsimp only
    | with_reducible refine Keeps.upd_pwr ?_ (Sub.of hm rfl) rfl; first
        | exact Keeps.refl _ | assumption
    | split

theorem keeps_execDrain {msk : Nat} {s₀ : State} (s : State) (hk : Keeps msk s₀ s) (hm : Sub 0xBA000040001 msk) : KeepsR msk s₀ (execDrain s) := by
  unfold execDrain
  repeat' first
    | with_reducible first | exact Keeps.refl _ | assumption | exact Sub.of hm rfl
    | dsimp only
    | with_reducible first
      | apply KeepsR.next | apply keeps_hostWr | apply keeps_drainCheck | apply keeps_serve | apply keeps_pwrResult
    | with_reducible refine Keeps.upd_dev ?_ (Sub.of hm rfl) rfl; first
        | exact Keeps.refl _ | assumption | apply keeps_drainCheck | apply keeps_serve | apply keeps_pwrResult
    | split

theorem keeps_execServe {msk : Nat} {s₀ : State} (s : State) (hk : Keeps msk s₀ s) (hm : Sub 0x98000040001 msk) : KeepsR msk s₀ (execServe s) := by
  unfold execServe
  repeat' first
    | with_reducible first | exact Keeps.refl _ | assumption | exact Sub.of hm rfl
    | dsimp only
    | with_reducible first
      | apply KeepsR.next | apply keeps_hostWr | apply keeps_serve | apply keeps_serveUpdate | apply keeps_pwrResult
    | with_reducible refine Keeps.upd_dev ?_ (Sub.of hm rfl) rfl; first
        | exact Keeps.refl _ | assumption | apply keeps_serve | apply keeps_serveUpdate | apply keeps_pwrResult
    | split

theorem keeps_afterWrite {msk : Nat} {s₀ : State} (s : State) (pg : Nat) (hk : Keeps msk s₀ s) (hm : Sub 0xA0000000000 msk) : Keeps msk s₀ (afterWrite s pg) := by
  unfold afterWrite
  repeat' first
    | with_reducible first | exact Keeps.refl _ | assumption | exact Sub.of hm rfl
    | dsimp only
    | with_reducible first
      | apply keeps_signalPage
    | split

theorem keeps_execPgEvtWrite {msk : Nat} {s₀ : State} (page : Nat) (value : Word) (s : State) (hk : Keeps msk s₀ s) (hm : Sub 0xB0000000000 msk) : KeepsR msk s₀ (execPgEvtWrite page value s) := by
  unfold execPgEvtWrite
  repeat' first
    | with_reducible first | exact Keeps.refl _ | assumption | exact Sub.of hm rfl
    | dsimp only
    | with_reducible first
      | apply KeepsR.next | apply keeps_wr | apply keeps_hostWr | apply keeps_afterWrite
    | split

theorem keeps_execPgEvtEnWrite {msk : Nat} {s₀ : State} (page : Nat) (value : Word) (s : State) (hk : Keeps msk s₀ s) (hm : Sub 0xB0000000000 msk) : KeepsR msk s₀ (execPgEvtEnWrite page value s) := by
  unfold execPgEvtEnWrite
  repeat' first
    | with_reducible first | exact Keeps.refl _ | assumption | exact Sub.of hm rfl
    | dsimp only
    | with_reducible first
      | apply KeepsR.next | apply keeps_wr | apply keeps_hostWr | apply keeps_afterWrite
    | split

theorem keeps_execPgCtrlWrite {msk : Nat} {s₀ : State} (page : Nat) (value : Word) (s : State) (hk : Keeps msk s₀ s) (hm : Sub 0xB0000000000 msk) : KeepsR msk s₀ (execPgCtrlWrite page value s) := by
  unfold execPgCtrlWrite
  repeat' first
    | with_reducible first | exact Keeps.refl _ | assumption | exact Sub.of hm rfl
    | dsimp only
    | with_reducible first
      | apply KeepsR.next | apply keeps_wr | apply keeps_hostWr | apply keeps_afterWrite
    | split

theorem keeps_execPgEvtForce {msk : Nat} {s₀ : State} (page : Nat) (value : Word) (s : State) (hk : Keeps msk s₀ s) (hm : Sub 0xB2000000000 msk) : KeepsR msk s₀ (execPgEvtForce page value s) := by
  unfold execPgEvtForce
  repeat' first
    | with_reducible first | exact Keeps.refl _ | assumption | exact Sub.of hm rfl
    | dsimp only
    | with_reducible first
      | apply KeepsR.next | apply keeps_raiseForced | apply keeps_hostWr | (apply keeps_foldl; intro _ _ _) | (apply keeps_foldl2; intro _ _ _)
    | split

theorem keeps_firePending {msk : Nat} {s₀ : State} (s : State) (v : Nat) (hk : Keeps msk s₀ s) (hm : Sub 0xA0000000000 msk) : Keeps msk s₀ (firePending s v) := by
  unfold firePending
  repeat' first
    | with_reducible first | exact Keeps.refl _ | assumption | exact Sub.of hm rfl
    | dsimp only
    | with_reducible first
      | apply keeps_sendVector
    | with_reducible refine Keeps.upd_msix ?_ (Sub.of hm rfl); first
        | exact Keeps.refl _ | assumption | apply keeps_sendVector
    | split

theorem keeps_fireAll {msk : Nat} {s₀ : State} (s : State) (hk : Keeps msk s₀ s) (hm : Sub 0xA0000000000 msk) : Keeps msk s₀ (fireAll s) := by
  unfold fireAll
  repeat' first
    | with_reducible first | exact Keeps.refl _ | assumption | exact Sub.of hm rfl
    | dsimp only
    | with_reducible first
      | apply keeps_firePending | (apply keeps_foldl; intro _ _ _) | (apply keeps_foldl2; intro _ _ _)
    | split

theorem keeps_execMsixUnmask {msk : Nat} {s₀ : State} (vector : Option Nat) (s : State) (hk : Keeps msk s₀ s) (hm : Sub 0xA0000000000 msk) : KeepsR msk s₀ (execMsixUnmask vector s) := by
  unfold execMsixUnmask
  repeat' first
    | with_reducible first | exact Keeps.refl _ | assumption | exact Sub.of hm rfl
    | dsimp only
    | with_reducible first
      | apply KeepsR.next | apply KeepsR.fault | apply keeps_hostWr | apply keeps_firePending | apply keeps_fireAll
    | with_reducible refine Keeps.upd_msix ?_ (Sub.of hm rfl); first
        | exact Keeps.refl _ | assumption | apply keeps_firePending | apply keeps_fireAll
    | split

theorem keeps_msixWrite {msk : Nat} {s₀ : State} (s : State) (page : Nat) (off : Nat) (v : Nat) (hk : Keeps msk s₀ s) (hm : Sub 0xA0000000000 msk) : Keeps msk s₀ (msixWrite s page off v) := by
  unfold msixWrite
  repeat' first
    | with_reducible first | exact Keeps.refl _ | assumption | exact Sub.of hm rfl
    | dsimp only
    | with_reducible first
      | apply keeps_firePending
    | with_reducible refine Keeps.upd_msix ?_ (Sub.of hm rfl); first
        | exact Keeps.refl _ | assumption | apply keeps_firePending
    | split

theorem keeps_clearRc {msk : Nat} {s₀ : State} (s : State) (addr : Nat) (hk : Keeps msk s₀ s) (hm : Sub 0x18002000000 msk) : Keeps msk s₀ (clearRc s addr) := by
  unfold clearRc
  repeat' first
    | with_reducible first | exact Keeps.refl _ | assumption | exact Sub.of hm rfl
    | dsimp only
    | with_reducible first
      | apply keeps_wr | apply keeps_setPort
    | with_reducible refine Keeps.upd_pwr ?_ (Sub.of hm rfl) rfl; first
        | exact Keeps.refl _ | assumption | apply keeps_wr | apply keeps_setPort
    | split

theorem keeps_readEffect {msk : Nat} {s₀ : State} (s : State) (addr : Nat) (hk : Keeps msk s₀ s) (hm : Sub 0xBA002000000 msk) : Keeps msk s₀ (readEffect s addr).2 := by
  unfold readEffect
  repeat' first
    | with_reducible first | exact Keeps.refl _ | assumption | exact Sub.of hm rfl
    | dsimp only
    | with_reducible first
      | apply keeps_setPort | apply keeps_recBad | apply keeps_clearRc
    | split

theorem keeps_execRcRead {msk : Nat} {s₀ : State} (addr : Nat) (width : Nat) (s : State) (hk : Keeps msk s₀ s) (hm : Sub 0xBA002000000 msk) : KeepsR msk s₀ (execRcRead addr width s) := by
  unfold execRcRead
  repeat' first
    | with_reducible first | exact Keeps.refl _ | assumption | exact Sub.of hm rfl
    | dsimp only
    | with_reducible first
      | apply KeepsR.next | apply KeepsR.fault | apply keeps_emit | apply keeps_hostIo | apply keeps_readEffect
      | refine keeps_of_pair (by assumption) ?_
    | split

theorem keeps_storeRw {msk : Nat} {s₀ : State} (s : State) (addr : Nat) (v : Nat) (hk : Keeps msk s₀ s) (hm : Sub 0x10000000000 msk) : Keeps msk s₀ (storeRw s addr v) := by
  unfold storeRw
  repeat' first
    | with_reducible first | exact Keeps.refl _ | assumption | exact Sub.of hm rfl
    | dsimp only
    | with_reducible first
      | apply keeps_wr
    | split

theorem keeps_partWrite {msk : Nat} {s₀ : State} (s : State) (p : Nat) (off : Nat) (v : Nat) (hk : Keeps msk s₀ s) (hm : Sub 0x10000000000 msk) : Keeps msk s₀ (partWrite s p off v) := by
  unfold partWrite
  repeat' first
    | with_reducible first | exact Keeps.refl _ | assumption | exact Sub.of hm rfl
    | dsimp only
    | with_reducible first
      | apply keeps_wrf | apply keeps_storeRw
    | split

theorem keeps_captWrite {msk : Nat} {s₀ : State} (s : State) (p : Nat) (off : Nat) (v : Nat) (hk : Keeps msk s₀ s) (hm : Sub 0x10000000000 msk) : Keeps msk s₀ (captWrite s p off v) := by
  unfold captWrite
  repeat' first
    | with_reducible first | exact Keeps.refl _ | assumption | exact Sub.of hm rfl
    | dsimp only
    | with_reducible first
      | apply keeps_storeRw
    | split

theorem keeps_netWrite {msk : Nat} {s₀ : State} (s : State) (p : Nat) (off : Nat) (v : Nat) (hk : Keeps msk s₀ s) (hm : Sub 0x10000000000 msk) : Keeps msk s₀ (netWrite s p off v) := by
  unfold netWrite
  repeat' first
    | with_reducible first | exact Keeps.refl _ | assumption | exact Sub.of hm rfl
    | dsimp only
    | with_reducible first
      | apply keeps_storeRw
    | split

theorem keeps_shpWrite {msk : Nat} {s₀ : State} (s : State) (p : Nat) (off : Nat) (v : Nat) (hk : Keeps msk s₀ s) (hm : Sub 0x10002000000 msk) : Keeps msk s₀ (shpWrite s p off v) := by
  unfold shpWrite
  repeat' first
    | with_reducible first | exact Keeps.refl _ | assumption | exact Sub.of hm rfl
    | dsimp only
    | with_reducible first
      | apply keeps_wrf | apply keeps_setPort | apply keeps_storeRw
    | split

theorem keeps_secWrite {msk : Nat} {s₀ : State} (s : State) (off : Nat) (v : Nat) (hk : Keeps msk s₀ s) (hm : Sub 0x10800000000 msk) : Keeps msk s₀ (secWrite s off v) := by
  unfold secWrite
  repeat' first
    | with_reducible first | exact Keeps.refl _ | assumption | exact Sub.of hm rfl
    | dsimp only
    | with_reducible first
      | apply keeps_wr64 | apply keeps_storeRw
    | with_reducible refine Keeps.upd_sec ?_ (Sub.of hm rfl) rfl; first
        | exact Keeps.refl _ | assumption | apply keeps_wr64 | apply keeps_storeRw
    | split

theorem keeps_partCommand {msk : Nat} {s₀ : State} (s : State) (p : Fin 32) (v : Nat) (hk : Keeps msk s₀ s) (hm : Sub 0xFE5C6FFF739 msk) : KeepsR msk s₀ (partCommand s p v) := by
  unfold partCommand
  repeat' first
    | with_reducible first | exact Keeps.refl _ | assumption | exact Sub.of hm rfl
    | dsimp only
    | with_reducible first
      | apply KeepsR.next | apply keeps_execPartCreate | apply keeps_execPartApplyMaps | apply keeps_execPartReset | apply keeps_execPartDestroy
    | split

theorem keeps_aschCommand {msk : Nat} {s₀ : State} (s : State) (n : Fin 4) (v : Nat) (hk : Keeps msk s₀ s) (hm : Sub 0xBA0C647C601 msk) : KeepsR msk s₀ (aschCommand s n v) := by
  unfold aschCommand
  repeat' first
    | with_reducible first | exact Keeps.refl _ | assumption | exact Sub.of hm rfl
    | dsimp only
    | with_reducible first
      | apply KeepsR.next | apply keeps_execRingCreate | apply keeps_execRingDestroy
    | split

theorem keeps_qpCommand {msk : Nat} {s₀ : State} (s : State) (p : Fin 4) (v : Nat) (hk : Keeps msk s₀ s) (hm : Sub 0xF204640C100 msk) : KeepsR msk s₀ (qpCommand s p v) := by
  unfold qpCommand
  repeat' first
    | with_reducible first | exact Keeps.refl _ | assumption | exact Sub.of hm rfl
    | dsimp only
    | with_reducible first
      | apply KeepsR.next | apply keeps_execQpCreate | apply keeps_execQpDestroy | apply keeps_execQpRead
    | split

theorem keeps_regionCommand {msk : Nat} {s₀ : State} (s : State) (v : Nat) (hk : Keeps msk s₀ s) (hm : Sub 0xD0038000000 msk) : KeepsR msk s₀ (regionCommand s v) := by
  unfold regionCommand
  repeat' first
    | with_reducible first | exact Keeps.refl _ | assumption | exact Sub.of hm rfl
    | dsimp only
    | with_reducible first
      | apply KeepsR.next | apply keeps_execRegionRegister | apply keeps_execRegionReregisterNew | apply keeps_execRegionReregisterKeep
      | apply keeps_execRegionDeregister | apply keeps_execRegionRead
    | split

theorem keeps_ruleCommand {msk : Nat} {s₀ : State} (s : State) (v : Nat) (hk : Keeps msk s₀ s) (hm : Sub 0xB2001400000 msk) : KeepsR msk s₀ (ruleCommand s v) := by
  unfold ruleCommand
  repeat' first
    | with_reducible first | exact Keeps.refl _ | assumption | exact Sub.of hm rfl
    | dsimp only
    | with_reducible first
      | apply KeepsR.next | apply keeps_execRuleInsert | apply keeps_execRuleRemove | apply keeps_execRuleModify | apply keeps_execRuleRead
      | apply keeps_execRuleApplyBands
    | split

theorem keeps_dcCommand {msk : Nat} {s₀ : State} (s : State) (v : Nat) (hk : Keeps msk s₀ s) (hm : Sub 0xB2040430000 msk) : KeepsR msk s₀ (dcCommand s v) := by
  unfold dcCommand
  repeat' first
    | with_reducible first | exact Keeps.refl _ | assumption | exact Sub.of hm rfl
    | dsimp only
    | with_reducible first
      | apply KeepsR.next | apply keeps_execDcAdd | apply keeps_execDcRelease | apply keeps_execDcRead
    | split

theorem keeps_cabCommand {msk : Nat} {s₀ : State} (s : State) (v : Nat) (hk : Keeps msk s₀ s) (hm : Sub 0xD0000200000 msk) : KeepsR msk s₀ (cabCommand s v) := by
  unfold cabCommand
  repeat' first
    | with_reducible first | exact Keeps.refl _ | assumption | exact Sub.of hm rfl
    | dsimp only
    | with_reducible first
      | apply KeepsR.next | apply keeps_execCabTblInstall | apply keeps_execCabTblRetire
    | split

theorem keeps_fwCommand {msk : Nat} {s₀ : State} (s : State) (v : Nat) (hk : Keeps msk s₀ s) (hm : Sub 0xB3800000000 msk) : KeepsR msk s₀ (fwCommand s v) := by
  unfold fwCommand
  repeat' first
    | with_reducible first | exact Keeps.refl _ | assumption | exact Sub.of hm rfl
    | dsimp only
    | with_reducible first
      | apply KeepsR.next | apply keeps_execFwStream | apply keeps_execFwAbort | apply keeps_execFwVerify | apply keeps_execActivateTrial
      | apply keeps_execCommit | apply keeps_execRaiseSecurityVersion | apply keeps_execCancelTrial
    | split

theorem keeps_secCommand {msk : Nat} {s₀ : State} (s : State) (v : Nat) (hk : Keeps msk s₀ s) (hm : Sub 0xFA8C247C601 msk) : KeepsR msk s₀ (secCommand s v) := by
  unfold secCommand
  repeat' first
    | with_reducible first | exact Keeps.refl _ | assumption | exact Sub.of hm rfl
    | dsimp only
    | with_reducible first
      | apply KeepsR.next | apply keeps_execReadCertificate | apply keeps_execReport | apply keeps_execInstallFenceKey
      | apply keeps_execAddTrustKey | apply keeps_execRemoveTrustKey | apply keeps_execIdeHandshakeMessage | apply keeps_execApplyWindow
    | split

theorem keeps_replayCommand {msk : Nat} {s₀ : State} (s : State) (p : Fin 32) (v : Nat) (hk : Keeps msk s₀ s) (hm : Sub 0xB6000000000 msk) : KeepsR msk s₀ (replayCommand s p v) := by
  unfold replayCommand
  repeat' first
    | with_reducible first | exact Keeps.refl _ | assumption | exact Sub.of hm rfl
    | dsimp only
    | with_reducible first
      | apply KeepsR.next | apply keeps_execReplayStart | apply keeps_execReplayStop
    | split

theorem keeps_dumpCommand {msk : Nat} {s₀ : State} (s : State) (v : Nat) (hk : Keeps msk s₀ s) (hm : Sub 0xBA0C247C601 msk) : KeepsR msk s₀ (dumpCommand s v) := by
  unfold dumpCommand
  repeat' first
    | with_reducible first | exact Keeps.refl _ | assumption | exact Sub.of hm rfl
    | dsimp only
    | with_reducible first
      | apply KeepsR.next | apply keeps_execDumpCopy | apply keeps_execDumpRelease
    | split

theorem keeps_pwrCommand {msk : Nat} {s₀ : State} (s : State) (v : Nat) (hk : Keeps msk s₀ s) (hm : Sub 0xBA000040001 msk) : KeepsR msk s₀ (pwrCommand s v) := by
  unfold pwrCommand
  repeat' first
    | with_reducible first | exact Keeps.refl _ | assumption | exact Sub.of hm rfl
    | dsimp only
    | with_reducible first
      | apply KeepsR.next | apply keeps_execDrain | apply keeps_execServe
    | split

theorem keeps_writeBlock {msk : Nat} {s₀ : State} (s : State) (k : Kind) (n : Nat) (off : Nat) (value : Word) (hk : Keeps msk s₀ s) (hm : Sub 0xFFDFFFFF739 msk) : KeepsR msk s₀ (writeBlock s k n off value) := by
  unfold writeBlock
  repeat' first
    | with_reducible first | exact Keeps.refl _ | assumption | exact Sub.of hm rfl
    | dsimp only
    | with_reducible first
      | apply KeepsR.next | apply keeps_execRuleDefLoWrite | apply keeps_execRuleDefHiWrite | apply keeps_execRingPi | apply keeps_execCqCi
      | apply keeps_execPartTierWrite | apply keeps_execPartCabshareWrite | apply keeps_execGclCommit | apply keeps_execRestart
      | apply keeps_execEvrClear | apply keeps_execCaptCfgWrite | apply keeps_execSnap | apply keeps_execPwrModeWrite | apply keeps_storeRw
      | apply keeps_partWrite | apply keeps_captWrite | apply keeps_netWrite | apply keeps_shpWrite | apply keeps_secWrite
      | apply keeps_partCommand | apply keeps_aschCommand | apply keeps_qpCommand | apply keeps_regionCommand | apply keeps_ruleCommand
      | apply keeps_dcCommand | apply keeps_cabCommand | apply keeps_fwCommand | apply keeps_secCommand | apply keeps_replayCommand
      | apply keeps_dumpCommand | apply keeps_pwrCommand
    | with_reducible refine Keeps.upd_cab ?_ (Sub.of hm rfl); first
        | exact Keeps.refl _ | assumption | apply keeps_execRuleDefLoWrite | apply keeps_execRuleDefHiWrite | apply keeps_execRingPi
        | apply keeps_execCqCi | apply keeps_execPartTierWrite | apply keeps_execPartCabshareWrite | apply keeps_execGclCommit
        | apply keeps_execRestart | apply keeps_execEvrClear | apply keeps_execCaptCfgWrite | apply keeps_execSnap | apply keeps_execPwrModeWrite
        | apply keeps_storeRw | apply keeps_partWrite | apply keeps_captWrite | apply keeps_netWrite | apply keeps_shpWrite | apply keeps_secWrite
        | apply keeps_partCommand | apply keeps_aschCommand | apply keeps_qpCommand | apply keeps_regionCommand | apply keeps_ruleCommand
        | apply keeps_dcCommand | apply keeps_cabCommand | apply keeps_fwCommand | apply keeps_secCommand | apply keeps_replayCommand
        | apply keeps_dumpCommand | apply keeps_pwrCommand
    | split

theorem keeps_writeWord {msk : Nat} {s₀ : State} (s : State) (addr : Nat) (value : Word) (hk : Keeps msk s₀ s) (hm : Sub 0xFFDFFFFF739 msk) : KeepsR msk s₀ (writeWord s addr value) := by
  unfold writeWord
  repeat' first
    | with_reducible first | exact Keeps.refl _ | assumption | exact Sub.of hm rfl
    | dsimp only
    | with_reducible first
      | apply KeepsR.next | apply keeps_execPgEvtWrite | apply keeps_execPgEvtEnWrite | apply keeps_execPgCtrlWrite | apply keeps_execPgEvtForce
      | apply keeps_msixWrite | apply keeps_writeBlock
    | split

theorem keeps_execRegisterWrite {msk : Nat} {s₀ : State} (addr : Nat) (width : Nat) (value : BitVec 64) (s : State) (hk : Keeps msk s₀ s) (hm : Sub 0xFFDFFFFF739 msk) : KeepsR msk s₀ (execRegisterWrite addr width value s) := by
  unfold execRegisterWrite
  repeat' first
    | with_reducible first | exact Keeps.refl _ | assumption | exact Sub.of hm rfl
    | dsimp only
    | with_reducible first
      | apply KeepsR.next | apply KeepsR.fault | refine keeps_of_res (by assumption) ?_ | apply keeps_hostWr | apply keeps_writeWord
      | refine keeps_of_pair (by assumption) ?_
    | split

theorem keeps_sweepNext {msk : Nat} {s₀ : State} (s : State) (n : Nat) (hk : Keeps msk s₀ s) (hm : Sub 0xB2001000000 msk) : Keeps msk s₀ (sweepNext s n) := by
  unfold sweepNext
  repeat' first
    | with_reducible first | exact Keeps.refl _ | assumption | exact Sub.of hm rfl
    | dsimp only
    | with_reducible first
      | apply keeps_wrf | apply keeps_raise
    | with_reducible refine Keeps.upd_rules ?_ (Sub.of hm rfl); first
        | exact Keeps.refl _ | assumption | apply keeps_wrf | apply keeps_raise
    | split

theorem keeps_readShadow {msk : Nat} {s₀ : State} (s : State) (die : Nat) (copy : Nat) (i : Nat) (bad : Bool) (hk : Keeps msk s₀ s) (hm : Sub 0xFE1C6EFD701 msk) : Keeps msk s₀ (readShadow s die copy i bad).2 := by
  unfold readShadow
  repeat' first
    | with_reducible first | exact Keeps.refl _ | assumption | exact Sub.of hm rfl
    | dsimp only
    | with_reducible first
      | apply keeps_draw | apply keeps_setHbm | apply keeps_lineUncorr | apply keeps_readUse | refine keeps_of_pair (by assumption) ?_
    | split

theorem keeps_writeShadows {msk : Nat} {s₀ : State} (s : State) (i : Nat) (e : Rule) (hk : Keeps msk s₀ s) (hm : Sub 0x1400000 msk) : Keeps msk s₀ (writeShadows s i e) := by
  unfold writeShadows
  repeat' first
    | with_reducible first | exact Keeps.refl _ | assumption | exact Sub.of hm rfl
    | dsimp only
    | with_reducible first
      | apply keeps_wroteUse
    | with_reducible refine Keeps.upd_rules ?_ (Sub.of hm rfl); first
        | exact Keeps.refl _ | assumption | apply keeps_wroteUse
    | split

theorem keeps_execShadowCompare {msk : Nat} {s₀ : State} (die : Fin 4) (badA : Bool) (badB : Bool) (s : State) (hk : Keeps msk s₀ s) (hm : Sub 0xFE1C7EFD701 msk) : KeepsR msk s₀ (execShadowCompare die badA badB s) := by
  unfold execShadowCompare
  repeat' first
    | with_reducible first | exact Keeps.refl _ | assumption | exact Sub.of hm rfl
    | dsimp only
    | with_reducible first
      | apply KeepsR.next | apply keeps_wr | apply keeps_bump | apply keeps_raise | apply keeps_sweepNext | apply keeps_readShadow
      | apply keeps_writeShadows | refine keeps_of_pair (by assumption) ?_
    | split

end Sys2Proof.Laws
end

