-- ==== Sys2Proof/Laws/State.lean ====
section
/-! SUPPORT. What is read after an update of the state: of a table, a register, a memory, a keyed part; and what each update leaves alone. -/
namespace Sys2Proof.Laws

open Sys2Proof.Machine

/-! ### Tables -/

@[simp] theorem tget_tput {α : Type} (t : Tab α) (k j : Nat) (v : α) : tget? (tput t k v) j = if k = j then some v else tget? t j := by
  induction t with
  | nil => simp [tput, tget?]
  | cons e t ih =>
    obtain ⟨k', v'⟩ := e
    simp only [tput]
    split
    · rename_i lt
      simp only [tget?, ih]
      by_cases h : k' = j
      · simp [h, show ¬k = j by omega]
      · simp [h]
    · split
      · rename_i eq
        subst eq
        by_cases h : k' = j <;> simp [tget?, h]
      · by_cases h : k = j <;> simp [tget?, h]

@[simp] theorem tget_tdel {α : Type} (t : Tab α) (k j : Nat) : tget? (tdel t k) j = if k = j then none else tget? t j := by
  induction t with
  | nil => simp [tdel, tget?]
  | cons e t ih =>
    obtain ⟨k', v'⟩ := e
    by_cases h : k' = k
    · subst h
      have e : tdel ((k', v') :: t) k' = tdel t k' := by simp [tdel]
      rw [e, ih]
      by_cases g : k' = j <;> simp [tget?, g]
    · have e : tdel ((k', v') :: t) k = (k', v') :: tdel t k := by simp [tdel, h]
      rw [e]
      simp only [tget?, ih]
      by_cases g : k' = j
      · simp [g, show ¬k = j by omega]
      · simp [g]

@[simp] theorem tgetd_tset {α : Type} [DecidableEq α] (d : α) (t : Tab α) (k j : Nat) (v : α) :
    tget d (tset d t k v) j = if k = j then v else tget d t j := by
  unfold tget tset
  split
  · rename_i h
    rw [tget_tdel]
    split <;> simp [h]
  · rw [tget_tput]
    split <;> simp

/-! ### Registers -/

/-- A register reads what was written to it, and every other register reads as before. -/
theorem rd_wr (s : State) (a v b : Nat) : rd (wr s a v) b = if a = b then v % 2 ^ 32 else rd s b := by
  unfold rd wr
  by_cases h : a = b
  · subst h; simp
  · rw [if_neg h]
    unfold tset
    split
    · have := tget_tdel s.regs a b
      simp only [tget, this, h, if_false]
    · have := tget_tput s.regs a b (BitVec.ofNat 32 v)
      simp only [tget, this, h, if_false]

/-! ### Memory -/

/-- A byte reads what was written to it, and every other byte reads as before. -/
theorem mget_mset (m : Tab Byte) (a x : Nat) (b : Byte) : mget (mset m a b) x = if a = x then b else mget m x := tgetd_tset 0 m a x b

/-- After a write of bytes, the bytes of its range read the new data and every other byte reads as before. -/
theorem mget_mwrite (m : Tab Byte) (a x : Nat) (l : List Byte) :
    mget (mwrite m a l) x = if a ≤ x ∧ x < a + l.length then l.getD (x - a) 0 else mget m x := by
  induction l generalizing m a with
  | nil => simp [mwrite, show ¬(a ≤ x ∧ x < a) by omega]
  | cons b l ih =>
    simp only [mwrite, ih, mget_mset, List.length_cons]
    by_cases h : a = x
    · subst h
      rw [if_neg (by omega), if_pos rfl, if_pos (by omega)]
      simp
    · by_cases g : a + 1 ≤ x ∧ x < a + 1 + l.length
      · rw [if_pos g, if_pos (by omega), show x - a = (x - (a + 1)) + 1 by omega, List.getD_cons_succ]
      · rw [if_neg g, if_neg h, if_neg (by omega)]

/-! ### Keyed parts of the state -/

@[simp] theorem port_setPort (s : State) (i j : Nat) (v : Port) : (s.setPort i v).port j = if i = j then v else s.port j := tgetd_tset _ _ i j v

@[simp] theorem part_setPart (s : State) (i j : Nat) (v : Part) : (s.setPart i v).part j = if i = j then v else s.part j := tgetd_tset _ _ i j v

@[simp] theorem hbmc_setHbm (s : State) (i j : Nat) (v : Hbm) : (s.setHbm i v).hbmc j = if i = j then v else s.hbmc j := tgetd_tset _ _ i j v

@[simp] theorem booth_setBooth (s : State) (i j : Nat) (v : Booth) : (s.setBooth i v).booth j = if i = j then v else s.booth j := tgetd_tset _ _ i j v

@[simp] theorem fstack_setFstack (s : State) (i j : Nat) (v : FStack) : (s.setFstack i v).fstack j = if i = j then v else s.fstack j := tgetd_tset _ _ i j v

@[simp] theorem shelf_setShelf (s : State) (i j : Nat) (v : Shelf) : (s.setShelf i v).shelf? j = if i = j then some v else s.shelf? j := tget_tput _ i j v

@[simp] theorem get_setRing (s : State) (i j : Nat) (v : Ring) : tget? (s.setRing i v).rings j = if i = j then some v else tget? s.rings j := tget_tput _ i j v

@[simp] theorem get_setReq (s : State) (i j : Nat) (v : Req) : tget? (s.setReq i v).reqs j = if i = j then some v else tget? s.reqs j := tget_tput _ i j v

@[simp] theorem get_setQp (s : State) (i j : Nat) (v : Qp) : tget? (s.setQp i v).qps j = if i = j then some v else tget? s.qps j := tget_tput _ i j v

/-! ### What an update leaves alone -/

@[simp] theorem setPort_same (s : State) (p : Nat) (v : Port) :
    (s.setPort p v).dev = s.dev ∧ (s.setPort p v).fabric = s.fabric ∧ (s.setPort p v).time = s.time ∧ (s.setPort p v).wayOwner = s.wayOwner ∧
    (s.setPort p v).tileOwner = s.tileOwner ∧ (s.setPort p v).pcOwner = s.pcOwner ∧ (s.setPort p v).tileTag = s.tileTag ∧
    (s.setPort p v).sched = s.sched ∧ (s.setPort p v).dir = s.dir ∧ (s.setPort p v).rings = s.rings ∧ (s.setPort p v).armed = s.armed ∧
    (s.setPort p v).objects = s.objects ∧ (s.setPort p v).reqs = s.reqs ∧ (s.setPort p v).nextId = s.nextId ∧ (s.setPort p v).hostMem = s.hostMem ∧
    (s.setPort p v).hostBad = s.hostBad ∧ (s.setPort p v).devMem = s.devMem ∧ (s.setPort p v).devBad = s.devBad ∧
    (s.setPort p v).booths = s.booths ∧ (s.setPort p v).fstacks = s.fstacks ∧ (s.setPort p v).tiers = s.tiers ∧ (s.setPort p v).cab = s.cab ∧
    (s.setPort p v).hbm = s.hbm ∧ (s.setPort p v).vidx = s.vidx ∧ (s.setPort p v).rules = s.rules ∧ (s.setPort p v).qps = s.qps ∧
    (s.setPort p v).regions = s.regions ∧ (s.setPort p v).regionGen = s.regionGen ∧ (s.setPort p v).regionBusy = s.regionBusy ∧
    (s.setPort p v).cxl = s.cxl ∧ (s.setPort p v).parts = s.parts ∧ (s.setPort p v).links = s.links ∧ (s.setPort p v).pulls = s.pulls ∧
    (s.setPort p v).sub = s.sub ∧ (s.setPort p v).sec = s.sec ∧ (s.setPort p v).stw = s.stw ∧ (s.setPort p v).evr = s.evr ∧
    (s.setPort p v).replay = s.replay ∧ (s.setPort p v).pwr = s.pwr ∧ (s.setPort p v).regs = s.regs ∧ (s.setPort p v).msix = s.msix ∧
    (s.setPort p v).free = s.free ∧ (s.setPort p v).out = s.out ∧ (s.setPort p v).chip = s.chip ∧ (s.setPort p v).pending = s.pending :=
  ⟨rfl, rfl, rfl, rfl, rfl, rfl, rfl, rfl, rfl, rfl, rfl, rfl, rfl, rfl, rfl, rfl, rfl, rfl, rfl, rfl, rfl, rfl, rfl, rfl, rfl, rfl, rfl, rfl, rfl, rfl, rfl, rfl, rfl, rfl, rfl, rfl, rfl, rfl, rfl, rfl, rfl, rfl, rfl, rfl, rfl⟩

@[simp] theorem setPart_same (s : State) (p : Nat) (v : Part) :
    (s.setPart p v).dev = s.dev ∧ (s.setPart p v).fabric = s.fabric ∧ (s.setPart p v).time = s.time ∧ (s.setPart p v).wayOwner = s.wayOwner ∧
    (s.setPart p v).tileOwner = s.tileOwner ∧ (s.setPart p v).pcOwner = s.pcOwner ∧ (s.setPart p v).tileTag = s.tileTag ∧
    (s.setPart p v).sched = s.sched ∧ (s.setPart p v).dir = s.dir ∧ (s.setPart p v).rings = s.rings ∧ (s.setPart p v).armed = s.armed ∧
    (s.setPart p v).objects = s.objects ∧ (s.setPart p v).reqs = s.reqs ∧ (s.setPart p v).nextId = s.nextId ∧ (s.setPart p v).hostMem = s.hostMem ∧
    (s.setPart p v).hostBad = s.hostBad ∧ (s.setPart p v).devMem = s.devMem ∧ (s.setPart p v).devBad = s.devBad ∧
    (s.setPart p v).booths = s.booths ∧ (s.setPart p v).fstacks = s.fstacks ∧ (s.setPart p v).tiers = s.tiers ∧ (s.setPart p v).cab = s.cab ∧
    (s.setPart p v).hbm = s.hbm ∧ (s.setPart p v).vidx = s.vidx ∧ (s.setPart p v).rules = s.rules ∧ (s.setPart p v).ports = s.ports ∧
    (s.setPart p v).qps = s.qps ∧ (s.setPart p v).regions = s.regions ∧ (s.setPart p v).regionGen = s.regionGen ∧
    (s.setPart p v).regionBusy = s.regionBusy ∧ (s.setPart p v).cxl = s.cxl ∧ (s.setPart p v).links = s.links ∧ (s.setPart p v).pulls = s.pulls ∧
    (s.setPart p v).sub = s.sub ∧ (s.setPart p v).sec = s.sec ∧ (s.setPart p v).stw = s.stw ∧ (s.setPart p v).evr = s.evr ∧
    (s.setPart p v).replay = s.replay ∧ (s.setPart p v).pwr = s.pwr ∧ (s.setPart p v).regs = s.regs ∧ (s.setPart p v).msix = s.msix ∧
    (s.setPart p v).free = s.free ∧ (s.setPart p v).out = s.out ∧ (s.setPart p v).chip = s.chip ∧ (s.setPart p v).pending = s.pending :=
  ⟨rfl, rfl, rfl, rfl, rfl, rfl, rfl, rfl, rfl, rfl, rfl, rfl, rfl, rfl, rfl, rfl, rfl, rfl, rfl, rfl, rfl, rfl, rfl, rfl, rfl, rfl, rfl, rfl, rfl, rfl, rfl, rfl, rfl, rfl, rfl, rfl, rfl, rfl, rfl, rfl, rfl, rfl, rfl, rfl, rfl⟩

@[simp] theorem setHbm_same (s : State) (k : Nat) (v : Hbm) :
    (s.setHbm k v).dev = s.dev ∧ (s.setHbm k v).fabric = s.fabric ∧ (s.setHbm k v).time = s.time ∧ (s.setHbm k v).wayOwner = s.wayOwner ∧
    (s.setHbm k v).tileOwner = s.tileOwner ∧ (s.setHbm k v).pcOwner = s.pcOwner ∧ (s.setHbm k v).tileTag = s.tileTag ∧
    (s.setHbm k v).sched = s.sched ∧ (s.setHbm k v).dir = s.dir ∧ (s.setHbm k v).rings = s.rings ∧ (s.setHbm k v).armed = s.armed ∧
    (s.setHbm k v).objects = s.objects ∧ (s.setHbm k v).reqs = s.reqs ∧ (s.setHbm k v).nextId = s.nextId ∧ (s.setHbm k v).hostMem = s.hostMem ∧
    (s.setHbm k v).hostBad = s.hostBad ∧ (s.setHbm k v).devMem = s.devMem ∧ (s.setHbm k v).devBad = s.devBad ∧ (s.setHbm k v).booths = s.booths ∧
    (s.setHbm k v).fstacks = s.fstacks ∧ (s.setHbm k v).tiers = s.tiers ∧ (s.setHbm k v).cab = s.cab ∧ (s.setHbm k v).vidx = s.vidx ∧
    (s.setHbm k v).rules = s.rules ∧ (s.setHbm k v).ports = s.ports ∧ (s.setHbm k v).qps = s.qps ∧ (s.setHbm k v).regions = s.regions ∧
    (s.setHbm k v).regionGen = s.regionGen ∧ (s.setHbm k v).regionBusy = s.regionBusy ∧ (s.setHbm k v).cxl = s.cxl ∧
    (s.setHbm k v).parts = s.parts ∧ (s.setHbm k v).links = s.links ∧ (s.setHbm k v).pulls = s.pulls ∧ (s.setHbm k v).sub = s.sub ∧
    (s.setHbm k v).sec = s.sec ∧ (s.setHbm k v).stw = s.stw ∧ (s.setHbm k v).evr = s.evr ∧ (s.setHbm k v).replay = s.replay ∧
    (s.setHbm k v).pwr = s.pwr ∧ (s.setHbm k v).regs = s.regs ∧ (s.setHbm k v).msix = s.msix ∧ (s.setHbm k v).free = s.free ∧
    (s.setHbm k v).out = s.out ∧ (s.setHbm k v).chip = s.chip ∧ (s.setHbm k v).pending = s.pending :=
  ⟨rfl, rfl, rfl, rfl, rfl, rfl, rfl, rfl, rfl, rfl, rfl, rfl, rfl, rfl, rfl, rfl, rfl, rfl, rfl, rfl, rfl, rfl, rfl, rfl, rfl, rfl, rfl, rfl, rfl, rfl, rfl, rfl, rfl, rfl, rfl, rfl, rfl, rfl, rfl, rfl, rfl, rfl, rfl, rfl, rfl⟩

@[simp] theorem setBooth_same (s : State) (b : Nat) (v : Booth) :
    (s.setBooth b v).dev = s.dev ∧ (s.setBooth b v).fabric = s.fabric ∧ (s.setBooth b v).time = s.time ∧ (s.setBooth b v).wayOwner = s.wayOwner ∧
    (s.setBooth b v).tileOwner = s.tileOwner ∧ (s.setBooth b v).pcOwner = s.pcOwner ∧ (s.setBooth b v).tileTag = s.tileTag ∧
    (s.setBooth b v).sched = s.sched ∧ (s.setBooth b v).dir = s.dir ∧ (s.setBooth b v).rings = s.rings ∧ (s.setBooth b v).armed = s.armed ∧
    (s.setBooth b v).objects = s.objects ∧ (s.setBooth b v).reqs = s.reqs ∧ (s.setBooth b v).nextId = s.nextId ∧
    (s.setBooth b v).hostMem = s.hostMem ∧ (s.setBooth b v).hostBad = s.hostBad ∧ (s.setBooth b v).devMem = s.devMem ∧
    (s.setBooth b v).devBad = s.devBad ∧ (s.setBooth b v).fstacks = s.fstacks ∧ (s.setBooth b v).tiers = s.tiers ∧ (s.setBooth b v).cab = s.cab ∧
    (s.setBooth b v).hbm = s.hbm ∧ (s.setBooth b v).vidx = s.vidx ∧ (s.setBooth b v).rules = s.rules ∧ (s.setBooth b v).ports = s.ports ∧
    (s.setBooth b v).qps = s.qps ∧ (s.setBooth b v).regions = s.regions ∧ (s.setBooth b v).regionGen = s.regionGen ∧
    (s.setBooth b v).regionBusy = s.regionBusy ∧ (s.setBooth b v).cxl = s.cxl ∧ (s.setBooth b v).parts = s.parts ∧
    (s.setBooth b v).links = s.links ∧ (s.setBooth b v).pulls = s.pulls ∧ (s.setBooth b v).sub = s.sub ∧ (s.setBooth b v).sec = s.sec ∧
    (s.setBooth b v).stw = s.stw ∧ (s.setBooth b v).evr = s.evr ∧ (s.setBooth b v).replay = s.replay ∧ (s.setBooth b v).pwr = s.pwr ∧
    (s.setBooth b v).regs = s.regs ∧ (s.setBooth b v).msix = s.msix ∧ (s.setBooth b v).free = s.free ∧ (s.setBooth b v).out = s.out ∧
    (s.setBooth b v).chip = s.chip ∧ (s.setBooth b v).pending = s.pending :=
  ⟨rfl, rfl, rfl, rfl, rfl, rfl, rfl, rfl, rfl, rfl, rfl, rfl, rfl, rfl, rfl, rfl, rfl, rfl, rfl, rfl, rfl, rfl, rfl, rfl, rfl, rfl, rfl, rfl, rfl, rfl, rfl, rfl, rfl, rfl, rfl, rfl, rfl, rfl, rfl, rfl, rfl, rfl, rfl, rfl, rfl⟩

@[simp] theorem setFstack_same (s : State) (f : Nat) (v : FStack) :
    (s.setFstack f v).dev = s.dev ∧ (s.setFstack f v).fabric = s.fabric ∧ (s.setFstack f v).time = s.time ∧
    (s.setFstack f v).wayOwner = s.wayOwner ∧ (s.setFstack f v).tileOwner = s.tileOwner ∧ (s.setFstack f v).pcOwner = s.pcOwner ∧
    (s.setFstack f v).tileTag = s.tileTag ∧ (s.setFstack f v).sched = s.sched ∧ (s.setFstack f v).dir = s.dir ∧ (s.setFstack f v).rings = s.rings ∧
    (s.setFstack f v).armed = s.armed ∧ (s.setFstack f v).objects = s.objects ∧ (s.setFstack f v).reqs = s.reqs ∧
    (s.setFstack f v).nextId = s.nextId ∧ (s.setFstack f v).hostMem = s.hostMem ∧ (s.setFstack f v).hostBad = s.hostBad ∧
    (s.setFstack f v).devMem = s.devMem ∧ (s.setFstack f v).devBad = s.devBad ∧ (s.setFstack f v).booths = s.booths ∧
    (s.setFstack f v).tiers = s.tiers ∧ (s.setFstack f v).cab = s.cab ∧ (s.setFstack f v).hbm = s.hbm ∧ (s.setFstack f v).vidx = s.vidx ∧
    (s.setFstack f v).rules = s.rules ∧ (s.setFstack f v).ports = s.ports ∧ (s.setFstack f v).qps = s.qps ∧ (s.setFstack f v).regions = s.regions ∧
    (s.setFstack f v).regionGen = s.regionGen ∧ (s.setFstack f v).regionBusy = s.regionBusy ∧ (s.setFstack f v).cxl = s.cxl ∧
    (s.setFstack f v).parts = s.parts ∧ (s.setFstack f v).links = s.links ∧ (s.setFstack f v).pulls = s.pulls ∧ (s.setFstack f v).sub = s.sub ∧
    (s.setFstack f v).sec = s.sec ∧ (s.setFstack f v).stw = s.stw ∧ (s.setFstack f v).evr = s.evr ∧ (s.setFstack f v).replay = s.replay ∧
    (s.setFstack f v).pwr = s.pwr ∧ (s.setFstack f v).regs = s.regs ∧ (s.setFstack f v).msix = s.msix ∧ (s.setFstack f v).free = s.free ∧
    (s.setFstack f v).out = s.out ∧ (s.setFstack f v).chip = s.chip ∧ (s.setFstack f v).pending = s.pending :=
  ⟨rfl, rfl, rfl, rfl, rfl, rfl, rfl, rfl, rfl, rfl, rfl, rfl, rfl, rfl, rfl, rfl, rfl, rfl, rfl, rfl, rfl, rfl, rfl, rfl, rfl, rfl, rfl, rfl, rfl, rfl, rfl, rfl, rfl, rfl, rfl, rfl, rfl, rfl, rfl, rfl, rfl, rfl, rfl, rfl, rfl⟩

@[simp] theorem setRing_same (s : State) (r : Nat) (v : Ring) :
    (s.setRing r v).dev = s.dev ∧ (s.setRing r v).fabric = s.fabric ∧ (s.setRing r v).time = s.time ∧ (s.setRing r v).wayOwner = s.wayOwner ∧
    (s.setRing r v).tileOwner = s.tileOwner ∧ (s.setRing r v).pcOwner = s.pcOwner ∧ (s.setRing r v).tileTag = s.tileTag ∧
    (s.setRing r v).sched = s.sched ∧ (s.setRing r v).dir = s.dir ∧ (s.setRing r v).armed = s.armed ∧ (s.setRing r v).objects = s.objects ∧
    (s.setRing r v).reqs = s.reqs ∧ (s.setRing r v).nextId = s.nextId ∧ (s.setRing r v).hostMem = s.hostMem ∧ (s.setRing r v).hostBad = s.hostBad ∧
    (s.setRing r v).devMem = s.devMem ∧ (s.setRing r v).devBad = s.devBad ∧ (s.setRing r v).booths = s.booths ∧
    (s.setRing r v).fstacks = s.fstacks ∧ (s.setRing r v).tiers = s.tiers ∧ (s.setRing r v).cab = s.cab ∧ (s.setRing r v).hbm = s.hbm ∧
    (s.setRing r v).vidx = s.vidx ∧ (s.setRing r v).rules = s.rules ∧ (s.setRing r v).ports = s.ports ∧ (s.setRing r v).qps = s.qps ∧
    (s.setRing r v).regions = s.regions ∧ (s.setRing r v).regionGen = s.regionGen ∧ (s.setRing r v).regionBusy = s.regionBusy ∧
    (s.setRing r v).cxl = s.cxl ∧ (s.setRing r v).parts = s.parts ∧ (s.setRing r v).links = s.links ∧ (s.setRing r v).pulls = s.pulls ∧
    (s.setRing r v).sub = s.sub ∧ (s.setRing r v).sec = s.sec ∧ (s.setRing r v).stw = s.stw ∧ (s.setRing r v).evr = s.evr ∧
    (s.setRing r v).replay = s.replay ∧ (s.setRing r v).pwr = s.pwr ∧ (s.setRing r v).regs = s.regs ∧ (s.setRing r v).msix = s.msix ∧
    (s.setRing r v).free = s.free ∧ (s.setRing r v).out = s.out ∧ (s.setRing r v).chip = s.chip ∧ (s.setRing r v).pending = s.pending :=
  ⟨rfl, rfl, rfl, rfl, rfl, rfl, rfl, rfl, rfl, rfl, rfl, rfl, rfl, rfl, rfl, rfl, rfl, rfl, rfl, rfl, rfl, rfl, rfl, rfl, rfl, rfl, rfl, rfl, rfl, rfl, rfl, rfl, rfl, rfl, rfl, rfl, rfl, rfl, rfl, rfl, rfl, rfl, rfl, rfl, rfl⟩

@[simp] theorem setReq_same (s : State) (i : Nat) (v : Req) :
    (s.setReq i v).dev = s.dev ∧ (s.setReq i v).fabric = s.fabric ∧ (s.setReq i v).time = s.time ∧ (s.setReq i v).wayOwner = s.wayOwner ∧
    (s.setReq i v).tileOwner = s.tileOwner ∧ (s.setReq i v).pcOwner = s.pcOwner ∧ (s.setReq i v).tileTag = s.tileTag ∧
    (s.setReq i v).sched = s.sched ∧ (s.setReq i v).dir = s.dir ∧ (s.setReq i v).rings = s.rings ∧ (s.setReq i v).armed = s.armed ∧
    (s.setReq i v).objects = s.objects ∧ (s.setReq i v).nextId = s.nextId ∧ (s.setReq i v).hostMem = s.hostMem ∧
    (s.setReq i v).hostBad = s.hostBad ∧ (s.setReq i v).devMem = s.devMem ∧ (s.setReq i v).devBad = s.devBad ∧ (s.setReq i v).booths = s.booths ∧
    (s.setReq i v).fstacks = s.fstacks ∧ (s.setReq i v).tiers = s.tiers ∧ (s.setReq i v).cab = s.cab ∧ (s.setReq i v).hbm = s.hbm ∧
    (s.setReq i v).vidx = s.vidx ∧ (s.setReq i v).rules = s.rules ∧ (s.setReq i v).ports = s.ports ∧ (s.setReq i v).qps = s.qps ∧
    (s.setReq i v).regions = s.regions ∧ (s.setReq i v).regionGen = s.regionGen ∧ (s.setReq i v).regionBusy = s.regionBusy ∧
    (s.setReq i v).cxl = s.cxl ∧ (s.setReq i v).parts = s.parts ∧ (s.setReq i v).links = s.links ∧ (s.setReq i v).pulls = s.pulls ∧
    (s.setReq i v).sub = s.sub ∧ (s.setReq i v).sec = s.sec ∧ (s.setReq i v).stw = s.stw ∧ (s.setReq i v).evr = s.evr ∧
    (s.setReq i v).replay = s.replay ∧ (s.setReq i v).pwr = s.pwr ∧ (s.setReq i v).regs = s.regs ∧ (s.setReq i v).msix = s.msix ∧
    (s.setReq i v).free = s.free ∧ (s.setReq i v).out = s.out ∧ (s.setReq i v).chip = s.chip ∧ (s.setReq i v).pending = s.pending :=
  ⟨rfl, rfl, rfl, rfl, rfl, rfl, rfl, rfl, rfl, rfl, rfl, rfl, rfl, rfl, rfl, rfl, rfl, rfl, rfl, rfl, rfl, rfl, rfl, rfl, rfl, rfl, rfl, rfl, rfl, rfl, rfl, rfl, rfl, rfl, rfl, rfl, rfl, rfl, rfl, rfl, rfl, rfl, rfl, rfl, rfl⟩

@[simp] theorem setQp_same (s : State) (q : Nat) (v : Qp) :
    (s.setQp q v).dev = s.dev ∧ (s.setQp q v).fabric = s.fabric ∧ (s.setQp q v).time = s.time ∧ (s.setQp q v).wayOwner = s.wayOwner ∧
    (s.setQp q v).tileOwner = s.tileOwner ∧ (s.setQp q v).pcOwner = s.pcOwner ∧ (s.setQp q v).tileTag = s.tileTag ∧ (s.setQp q v).sched = s.sched ∧
    (s.setQp q v).dir = s.dir ∧ (s.setQp q v).rings = s.rings ∧ (s.setQp q v).armed = s.armed ∧ (s.setQp q v).objects = s.objects ∧
    (s.setQp q v).reqs = s.reqs ∧ (s.setQp q v).nextId = s.nextId ∧ (s.setQp q v).hostMem = s.hostMem ∧ (s.setQp q v).hostBad = s.hostBad ∧
    (s.setQp q v).devMem = s.devMem ∧ (s.setQp q v).devBad = s.devBad ∧ (s.setQp q v).booths = s.booths ∧ (s.setQp q v).fstacks = s.fstacks ∧
    (s.setQp q v).tiers = s.tiers ∧ (s.setQp q v).cab = s.cab ∧ (s.setQp q v).hbm = s.hbm ∧ (s.setQp q v).vidx = s.vidx ∧
    (s.setQp q v).rules = s.rules ∧ (s.setQp q v).ports = s.ports ∧ (s.setQp q v).regions = s.regions ∧ (s.setQp q v).regionGen = s.regionGen ∧
    (s.setQp q v).regionBusy = s.regionBusy ∧ (s.setQp q v).cxl = s.cxl ∧ (s.setQp q v).parts = s.parts ∧ (s.setQp q v).links = s.links ∧
    (s.setQp q v).pulls = s.pulls ∧ (s.setQp q v).sub = s.sub ∧ (s.setQp q v).sec = s.sec ∧ (s.setQp q v).stw = s.stw ∧ (s.setQp q v).evr = s.evr ∧
    (s.setQp q v).replay = s.replay ∧ (s.setQp q v).pwr = s.pwr ∧ (s.setQp q v).regs = s.regs ∧ (s.setQp q v).msix = s.msix ∧
    (s.setQp q v).free = s.free ∧ (s.setQp q v).out = s.out ∧ (s.setQp q v).chip = s.chip ∧ (s.setQp q v).pending = s.pending :=
  ⟨rfl, rfl, rfl, rfl, rfl, rfl, rfl, rfl, rfl, rfl, rfl, rfl, rfl, rfl, rfl, rfl, rfl, rfl, rfl, rfl, rfl, rfl, rfl, rfl, rfl, rfl, rfl, rfl, rfl, rfl, rfl, rfl, rfl, rfl, rfl, rfl, rfl, rfl, rfl, rfl, rfl, rfl, rfl, rfl, rfl⟩

@[simp] theorem setShelf_same (s : State) (i : Nat) (v : Shelf) :
    (s.setShelf i v).dev = s.dev ∧ (s.setShelf i v).fabric = s.fabric ∧ (s.setShelf i v).time = s.time ∧ (s.setShelf i v).wayOwner = s.wayOwner ∧
    (s.setShelf i v).tileOwner = s.tileOwner ∧ (s.setShelf i v).pcOwner = s.pcOwner ∧ (s.setShelf i v).tileTag = s.tileTag ∧
    (s.setShelf i v).sched = s.sched ∧ (s.setShelf i v).rings = s.rings ∧ (s.setShelf i v).armed = s.armed ∧ (s.setShelf i v).objects = s.objects ∧
    (s.setShelf i v).reqs = s.reqs ∧ (s.setShelf i v).nextId = s.nextId ∧ (s.setShelf i v).hostMem = s.hostMem ∧
    (s.setShelf i v).hostBad = s.hostBad ∧ (s.setShelf i v).devMem = s.devMem ∧ (s.setShelf i v).devBad = s.devBad ∧
    (s.setShelf i v).booths = s.booths ∧ (s.setShelf i v).fstacks = s.fstacks ∧ (s.setShelf i v).tiers = s.tiers ∧ (s.setShelf i v).cab = s.cab ∧
    (s.setShelf i v).hbm = s.hbm ∧ (s.setShelf i v).vidx = s.vidx ∧ (s.setShelf i v).rules = s.rules ∧ (s.setShelf i v).ports = s.ports ∧
    (s.setShelf i v).qps = s.qps ∧ (s.setShelf i v).regions = s.regions ∧ (s.setShelf i v).regionGen = s.regionGen ∧
    (s.setShelf i v).regionBusy = s.regionBusy ∧ (s.setShelf i v).cxl = s.cxl ∧ (s.setShelf i v).parts = s.parts ∧
    (s.setShelf i v).links = s.links ∧ (s.setShelf i v).pulls = s.pulls ∧ (s.setShelf i v).sub = s.sub ∧ (s.setShelf i v).sec = s.sec ∧
    (s.setShelf i v).stw = s.stw ∧ (s.setShelf i v).evr = s.evr ∧ (s.setShelf i v).replay = s.replay ∧ (s.setShelf i v).pwr = s.pwr ∧
    (s.setShelf i v).regs = s.regs ∧ (s.setShelf i v).msix = s.msix ∧ (s.setShelf i v).free = s.free ∧ (s.setShelf i v).out = s.out ∧
    (s.setShelf i v).chip = s.chip ∧ (s.setShelf i v).pending = s.pending :=
  ⟨rfl, rfl, rfl, rfl, rfl, rfl, rfl, rfl, rfl, rfl, rfl, rfl, rfl, rfl, rfl, rfl, rfl, rfl, rfl, rfl, rfl, rfl, rfl, rfl, rfl, rfl, rfl, rfl, rfl, rfl, rfl, rfl, rfl, rfl, rfl, rfl, rfl, rfl, rfl, rfl, rfl, rfl, rfl, rfl, rfl⟩

@[simp] theorem emit_same (s : State) (o : Out) :
    (emit s o).dev = s.dev ∧ (emit s o).fabric = s.fabric ∧ (emit s o).time = s.time ∧ (emit s o).wayOwner = s.wayOwner ∧
    (emit s o).tileOwner = s.tileOwner ∧ (emit s o).pcOwner = s.pcOwner ∧ (emit s o).tileTag = s.tileTag ∧ (emit s o).sched = s.sched ∧
    (emit s o).dir = s.dir ∧ (emit s o).rings = s.rings ∧ (emit s o).armed = s.armed ∧ (emit s o).objects = s.objects ∧ (emit s o).reqs = s.reqs ∧
    (emit s o).nextId = s.nextId ∧ (emit s o).hostMem = s.hostMem ∧ (emit s o).hostBad = s.hostBad ∧ (emit s o).devMem = s.devMem ∧
    (emit s o).devBad = s.devBad ∧ (emit s o).booths = s.booths ∧ (emit s o).fstacks = s.fstacks ∧ (emit s o).tiers = s.tiers ∧
    (emit s o).cab = s.cab ∧ (emit s o).hbm = s.hbm ∧ (emit s o).vidx = s.vidx ∧ (emit s o).rules = s.rules ∧ (emit s o).ports = s.ports ∧
    (emit s o).qps = s.qps ∧ (emit s o).regions = s.regions ∧ (emit s o).regionGen = s.regionGen ∧ (emit s o).regionBusy = s.regionBusy ∧
    (emit s o).cxl = s.cxl ∧ (emit s o).parts = s.parts ∧ (emit s o).links = s.links ∧ (emit s o).pulls = s.pulls ∧ (emit s o).sub = s.sub ∧
    (emit s o).sec = s.sec ∧ (emit s o).stw = s.stw ∧ (emit s o).evr = s.evr ∧ (emit s o).replay = s.replay ∧ (emit s o).pwr = s.pwr ∧
    (emit s o).regs = s.regs ∧ (emit s o).msix = s.msix ∧ (emit s o).free = s.free ∧ (emit s o).chip = s.chip ∧ (emit s o).pending = s.pending :=
  ⟨rfl, rfl, rfl, rfl, rfl, rfl, rfl, rfl, rfl, rfl, rfl, rfl, rfl, rfl, rfl, rfl, rfl, rfl, rfl, rfl, rfl, rfl, rfl, rfl, rfl, rfl, rfl, rfl, rfl, rfl, rfl, rfl, rfl, rfl, rfl, rfl, rfl, rfl, rfl, rfl, rfl, rfl, rfl, rfl, rfl⟩

@[simp] theorem wr_same (s : State) (a v : Nat) :
    (wr s a v).dev = s.dev ∧ (wr s a v).fabric = s.fabric ∧ (wr s a v).time = s.time ∧ (wr s a v).wayOwner = s.wayOwner ∧
    (wr s a v).tileOwner = s.tileOwner ∧ (wr s a v).pcOwner = s.pcOwner ∧ (wr s a v).tileTag = s.tileTag ∧ (wr s a v).sched = s.sched ∧
    (wr s a v).dir = s.dir ∧ (wr s a v).rings = s.rings ∧ (wr s a v).armed = s.armed ∧ (wr s a v).objects = s.objects ∧ (wr s a v).reqs = s.reqs ∧
    (wr s a v).nextId = s.nextId ∧ (wr s a v).hostMem = s.hostMem ∧ (wr s a v).hostBad = s.hostBad ∧ (wr s a v).devMem = s.devMem ∧
    (wr s a v).devBad = s.devBad ∧ (wr s a v).booths = s.booths ∧ (wr s a v).fstacks = s.fstacks ∧ (wr s a v).tiers = s.tiers ∧
    (wr s a v).cab = s.cab ∧ (wr s a v).hbm = s.hbm ∧ (wr s a v).vidx = s.vidx ∧ (wr s a v).rules = s.rules ∧ (wr s a v).ports = s.ports ∧
    (wr s a v).qps = s.qps ∧ (wr s a v).regions = s.regions ∧ (wr s a v).regionGen = s.regionGen ∧ (wr s a v).regionBusy = s.regionBusy ∧
    (wr s a v).cxl = s.cxl ∧ (wr s a v).parts = s.parts ∧ (wr s a v).links = s.links ∧ (wr s a v).pulls = s.pulls ∧ (wr s a v).sub = s.sub ∧
    (wr s a v).sec = s.sec ∧ (wr s a v).stw = s.stw ∧ (wr s a v).evr = s.evr ∧ (wr s a v).replay = s.replay ∧ (wr s a v).pwr = s.pwr ∧
    (wr s a v).msix = s.msix ∧ (wr s a v).free = s.free ∧ (wr s a v).out = s.out ∧ (wr s a v).chip = s.chip ∧ (wr s a v).pending = s.pending :=
  ⟨rfl, rfl, rfl, rfl, rfl, rfl, rfl, rfl, rfl, rfl, rfl, rfl, rfl, rfl, rfl, rfl, rfl, rfl, rfl, rfl, rfl, rfl, rfl, rfl, rfl, rfl, rfl, rfl, rfl, rfl, rfl, rfl, rfl, rfl, rfl, rfl, rfl, rfl, rfl, rfl, rfl, rfl, rfl, rfl, rfl⟩

@[simp] theorem wrf_same (s : State) (a lo n v : Nat) :
    (wrf s a lo n v).dev = s.dev ∧ (wrf s a lo n v).fabric = s.fabric ∧ (wrf s a lo n v).time = s.time ∧ (wrf s a lo n v).wayOwner = s.wayOwner ∧
    (wrf s a lo n v).tileOwner = s.tileOwner ∧ (wrf s a lo n v).pcOwner = s.pcOwner ∧ (wrf s a lo n v).tileTag = s.tileTag ∧
    (wrf s a lo n v).sched = s.sched ∧ (wrf s a lo n v).dir = s.dir ∧ (wrf s a lo n v).rings = s.rings ∧ (wrf s a lo n v).armed = s.armed ∧
    (wrf s a lo n v).objects = s.objects ∧ (wrf s a lo n v).reqs = s.reqs ∧ (wrf s a lo n v).nextId = s.nextId ∧
    (wrf s a lo n v).hostMem = s.hostMem ∧ (wrf s a lo n v).hostBad = s.hostBad ∧ (wrf s a lo n v).devMem = s.devMem ∧
    (wrf s a lo n v).devBad = s.devBad ∧ (wrf s a lo n v).booths = s.booths ∧ (wrf s a lo n v).fstacks = s.fstacks ∧
    (wrf s a lo n v).tiers = s.tiers ∧ (wrf s a lo n v).cab = s.cab ∧ (wrf s a lo n v).hbm = s.hbm ∧ (wrf s a lo n v).vidx = s.vidx ∧
    (wrf s a lo n v).rules = s.rules ∧ (wrf s a lo n v).ports = s.ports ∧ (wrf s a lo n v).qps = s.qps ∧ (wrf s a lo n v).regions = s.regions ∧
    (wrf s a lo n v).regionGen = s.regionGen ∧ (wrf s a lo n v).regionBusy = s.regionBusy ∧ (wrf s a lo n v).cxl = s.cxl ∧
    (wrf s a lo n v).parts = s.parts ∧ (wrf s a lo n v).links = s.links ∧ (wrf s a lo n v).pulls = s.pulls ∧ (wrf s a lo n v).sub = s.sub ∧
    (wrf s a lo n v).sec = s.sec ∧ (wrf s a lo n v).stw = s.stw ∧ (wrf s a lo n v).evr = s.evr ∧ (wrf s a lo n v).replay = s.replay ∧
    (wrf s a lo n v).pwr = s.pwr ∧ (wrf s a lo n v).msix = s.msix ∧ (wrf s a lo n v).free = s.free ∧ (wrf s a lo n v).out = s.out ∧
    (wrf s a lo n v).chip = s.chip ∧ (wrf s a lo n v).pending = s.pending :=
  ⟨rfl, rfl, rfl, rfl, rfl, rfl, rfl, rfl, rfl, rfl, rfl, rfl, rfl, rfl, rfl, rfl, rfl, rfl, rfl, rfl, rfl, rfl, rfl, rfl, rfl, rfl, rfl, rfl, rfl, rfl, rfl, rfl, rfl, rfl, rfl, rfl, rfl, rfl, rfl, rfl, rfl, rfl, rfl, rfl, rfl⟩

@[simp] theorem bump_same (s : State) (a lo n k : Nat) :
    (bump s a lo n k).dev = s.dev ∧ (bump s a lo n k).fabric = s.fabric ∧ (bump s a lo n k).time = s.time ∧
    (bump s a lo n k).wayOwner = s.wayOwner ∧ (bump s a lo n k).tileOwner = s.tileOwner ∧ (bump s a lo n k).pcOwner = s.pcOwner ∧
    (bump s a lo n k).tileTag = s.tileTag ∧ (bump s a lo n k).sched = s.sched ∧ (bump s a lo n k).dir = s.dir ∧ (bump s a lo n k).rings = s.rings ∧
    (bump s a lo n k).armed = s.armed ∧ (bump s a lo n k).objects = s.objects ∧ (bump s a lo n k).reqs = s.reqs ∧
    (bump s a lo n k).nextId = s.nextId ∧ (bump s a lo n k).hostMem = s.hostMem ∧ (bump s a lo n k).hostBad = s.hostBad ∧
    (bump s a lo n k).devMem = s.devMem ∧ (bump s a lo n k).devBad = s.devBad ∧ (bump s a lo n k).booths = s.booths ∧
    (bump s a lo n k).fstacks = s.fstacks ∧ (bump s a lo n k).tiers = s.tiers ∧ (bump s a lo n k).cab = s.cab ∧ (bump s a lo n k).hbm = s.hbm ∧
    (bump s a lo n k).vidx = s.vidx ∧ (bump s a lo n k).rules = s.rules ∧ (bump s a lo n k).ports = s.ports ∧ (bump s a lo n k).qps = s.qps ∧
    (bump s a lo n k).regions = s.regions ∧ (bump s a lo n k).regionGen = s.regionGen ∧ (bump s a lo n k).regionBusy = s.regionBusy ∧
    (bump s a lo n k).cxl = s.cxl ∧ (bump s a lo n k).parts = s.parts ∧ (bump s a lo n k).links = s.links ∧ (bump s a lo n k).pulls = s.pulls ∧
    (bump s a lo n k).sub = s.sub ∧ (bump s a lo n k).sec = s.sec ∧ (bump s a lo n k).stw = s.stw ∧ (bump s a lo n k).evr = s.evr ∧
    (bump s a lo n k).replay = s.replay ∧ (bump s a lo n k).pwr = s.pwr ∧ (bump s a lo n k).msix = s.msix ∧ (bump s a lo n k).free = s.free ∧
    (bump s a lo n k).out = s.out ∧ (bump s a lo n k).chip = s.chip ∧ (bump s a lo n k).pending = s.pending :=
  ⟨rfl, rfl, rfl, rfl, rfl, rfl, rfl, rfl, rfl, rfl, rfl, rfl, rfl, rfl, rfl, rfl, rfl, rfl, rfl, rfl, rfl, rfl, rfl, rfl, rfl, rfl, rfl, rfl, rfl, rfl, rfl, rfl, rfl, rfl, rfl, rfl, rfl, rfl, rfl, rfl, rfl, rfl, rfl, rfl, rfl⟩

@[simp] theorem wr64_same (s : State) (a v : Nat) :
    (wr64 s a v).dev = s.dev ∧ (wr64 s a v).fabric = s.fabric ∧ (wr64 s a v).time = s.time ∧ (wr64 s a v).wayOwner = s.wayOwner ∧
    (wr64 s a v).tileOwner = s.tileOwner ∧ (wr64 s a v).pcOwner = s.pcOwner ∧ (wr64 s a v).tileTag = s.tileTag ∧ (wr64 s a v).sched = s.sched ∧
    (wr64 s a v).dir = s.dir ∧ (wr64 s a v).rings = s.rings ∧ (wr64 s a v).armed = s.armed ∧ (wr64 s a v).objects = s.objects ∧
    (wr64 s a v).reqs = s.reqs ∧ (wr64 s a v).nextId = s.nextId ∧ (wr64 s a v).hostMem = s.hostMem ∧ (wr64 s a v).hostBad = s.hostBad ∧
    (wr64 s a v).devMem = s.devMem ∧ (wr64 s a v).devBad = s.devBad ∧ (wr64 s a v).booths = s.booths ∧ (wr64 s a v).fstacks = s.fstacks ∧
    (wr64 s a v).tiers = s.tiers ∧ (wr64 s a v).cab = s.cab ∧ (wr64 s a v).hbm = s.hbm ∧ (wr64 s a v).vidx = s.vidx ∧
    (wr64 s a v).rules = s.rules ∧ (wr64 s a v).ports = s.ports ∧ (wr64 s a v).qps = s.qps ∧ (wr64 s a v).regions = s.regions ∧
    (wr64 s a v).regionGen = s.regionGen ∧ (wr64 s a v).regionBusy = s.regionBusy ∧ (wr64 s a v).cxl = s.cxl ∧ (wr64 s a v).parts = s.parts ∧
    (wr64 s a v).links = s.links ∧ (wr64 s a v).pulls = s.pulls ∧ (wr64 s a v).sub = s.sub ∧ (wr64 s a v).sec = s.sec ∧ (wr64 s a v).stw = s.stw ∧
    (wr64 s a v).evr = s.evr ∧ (wr64 s a v).replay = s.replay ∧ (wr64 s a v).pwr = s.pwr ∧ (wr64 s a v).msix = s.msix ∧
    (wr64 s a v).free = s.free ∧ (wr64 s a v).out = s.out ∧ (wr64 s a v).chip = s.chip ∧ (wr64 s a v).pending = s.pending :=
  ⟨rfl, rfl, rfl, rfl, rfl, rfl, rfl, rfl, rfl, rfl, rfl, rfl, rfl, rfl, rfl, rfl, rfl, rfl, rfl, rfl, rfl, rfl, rfl, rfl, rfl, rfl, rfl, rfl, rfl, rfl, rfl, rfl, rfl, rfl, rfl, rfl, rfl, rfl, rfl, rfl, rfl, rfl, rfl, rfl, rfl⟩

end Sys2Proof.Laws
end

