-- ==== Sys2Proof/Tests/Slice0.lean ====
section
/-! SUPPORT. The model's own tests: an ill-formed command for every check, states that meet the hypotheses of the statements, and single steps whose
results are read off the spec. -/
set_option Elab.async false
namespace Sys2Proof.Tests
open Sys2Proof.Machine Sys2Proof.Safety

/-! ### Commands that no event carries -/

theorem test_illformed_descriptorFetch : Instr.wellFormed (.descriptorFetch 0 17) = false := by decide
theorem test_illformed_objectFree : Instr.wellFormed (.objectFree 0 0) = false := by decide
theorem test_illformed_scriptDescriptorWrite : Instr.wellFormed (.scriptDescriptorWrite 0 0 [1]) = false := by decide
theorem test_illformed_cabTblInstall : Instr.wellFormed (.cabTblInstall 64) = false := by decide
theorem test_illformed_cabTblRetire : Instr.wellFormed (.cabTblRetire 64) = false := by decide
theorem test_illformed_scrubRead : Instr.wellFormed (.scrubRead 0 [{ line := 1342177280 }] []) = false ∧ Instr.wellFormed (.scrubRead 0 [] [{ errs := [(76, 1)] }]) = false ∧
    Instr.wellFormed (.scrubRead 0 [{ errs := [(75, 0)] }] []) = false ∧ Instr.wellFormed (.scrubRead 0 [{ errs := [(75, 256)] }] []) = false := by decide
theorem test_illformed_coldReadDone : Instr.wellFormed (.coldReadDone 0 0 0 { upsets := 3 }) = false := by decide
theorem test_illformed_cxlMemRead : Instr.wellFormed (.cxlMemRead (2 ^ 39)) = false := by decide
theorem test_illformed_cxlMemWrite : Instr.wellFormed (.cxlMemWrite 63 [1, 2] false) = false := by decide
theorem test_illformed_pullCheck : Instr.wellFormed (.pullCheck 1 []) = false := by decide
theorem test_illformed_remoteDrawerRead : Instr.wellFormed (.remoteDrawerRead 0 0 0 []) = false := by decide
theorem test_illformed_mirrorEntry : Instr.wellFormed (.mirrorEntry 0 0 []) = false := by decide
theorem test_illformed_loadWindow : Instr.wellFormed (.loadWindow 101) = false := by decide
theorem test_illformed_smbusBlockRead : Instr.wellFormed (.smbusBlockRead 256) = false := by decide
theorem test_illformed_sensorReading : Instr.wellFormed (.sensorReading [0]) = false := by decide
theorem test_illformed_msixUnmask : Instr.wellFormed (.msixUnmask (some 2048)) = false := by decide
theorem test_illformed_rcRead : Instr.wellFormed (.rcRead (2 ^ 26) 4) = false := by decide
theorem test_illformed_registerWrite : Instr.wellFormed (.registerWrite 0 3 0) = false := by decide
theorem test_wellformed_limits : ([.descriptorFetch 0 16, .objectFree 0 65535, .scrubRead 0 [{ line := 1342177279, errs := [(75, 255)] }] [{}], .coldReadDone 0 0 0 { upsets := 2 }, .cxlMemRead (2 ^ 39 - 1), .cxlMemWrite 62 [1, 2] false,
  .loadWindow 100, .msixUnmask (some 2047), .rcRead (2 ^ 26 - 4) 4] : List Instr).all Instr.wellFormed = true := by decide

/-! ### Helpers -/

/-- The next state of a command, where it has one, passes a check. -/
def after (c : Instr) (s : State) (p : State → Bool) : Bool :=
  match exec c s with
  | .next t => p t
  | .fault _ => false
  | .refused _ => false

/-- A descriptor of 64 bytes with fields (offset, bytes, value). -/
def dsc (op part : Nat) (fs : List (Nat × Nat × Nat)) : List Byte :=
  ([(0, 1, op), (2, 2, part), (8, 4, 0x77)] ++ fs).foldl (fun (d : List Byte) (f : Nat × Nat × Nat) => d.take f.1 ++ leBytes f.2.1 f.2.2 ++ d.drop (f.1 + f.2.1)) (List.replicate 64 0)

/-- A device in `SERVE` with partition 1 live, its host window open, and ring 5 of it with the descriptors `ds` taken. -/
def srv (ds : List (List Byte)) : State :=
  { dev := { state := .serve, pagesOpen := true }, cab := { mounted := true }, nextId := 9,
    parts := [(1, { state := .live, keys := some 0, windows := [(0, (0, 2 ^ 40))] })],
    rings := [(5, { part := 1, rbase := 0x10000, cbase := 0x20000, inflight := ds.length, taken := ds.map (fun d => (4, d)) })] }

/-- What a command that admits a descriptor takes, when it passes. -/
def adm (s : State) (ring op : Nat) : Option (Nat × Req × State) :=
  match frontDesc s ring (fun d => decide (dOpcode d = op) && !dArm d) with
  | none => none
  | some (src, d, g) =>
    match steps24 s ring src g d with
    | (none, _) => none
    | (some (id, r), s1) =>
      match steps69 s1 r with
      | (some _, _, _) => none
      | (none, r2, s2) => some (id, r2, s2)

theorem admits_of_adm {s s1 : State} {ring op id : Nat} {r : Req} (h : adm s ring op = some (id, r, s1)) : Admits s ring op id r s1 := by
  unfold adm at h
  split at h <;> try cases h
  rename_i src d g h1
  split at h <;> try cases h
  rename_i id' r' s' h2
  split at h <;> try cases h
  rename_i r2 s2 h3
  exact ⟨d, r', s', ⟨src, g, h1, h2⟩, h3⟩

theorem admits_some {s : State} {ring op : Nat} {P : Nat → Req → State → Bool} (h : (adm s ring op).any (fun x => P x.1 x.2.1 x.2.2) = true) :
    ∃ (id : Nat) (r : Req) (s1 : State), Admits s ring op id r s1 ∧ P id r s1 = true := by
  cases h0 : adm s ring op with
  | none => simp [h0] at h
  | some x =>
    obtain ⟨id, r, s1⟩ := x
    simp only [h0, Option.any_some] at h
    exact ⟨id, r, s1, admits_of_adm h0, h⟩

/-- The live shelf of a key, as `Found` says. -/
def fnd (s : State) (k : ShelfKey) : Option (Nat × Shelf) :=
  match lookup s k with
  | some (i, sh) => if sh.state = .live ∧ (shelfReqs s i).length < 65535 then some (i, sh) else none
  | none => none

theorem looks_some {s : State} {ring op : Nat} {P : Nat → Req → State → Bool}
    (h : (adm s ring op).any (fun x => P x.1 x.2.1 (readDir x.2.2 (dKey x.2.1.desc))) = true) :
    ∃ (id : Nat) (r : Req) (s1 : State), Looks s ring op id r s1 ∧ P id r s1 = true := by
  obtain ⟨id, r, s0, h1, h2⟩ := admits_some (P := fun id r s0 => P id r (readDir s0 (dKey r.desc))) h
  exact ⟨id, r, _, ⟨s0, h1, rfl⟩, h2⟩

theorem looks_found {s : State} {ring op : Nat} {P : Nat → Req → State → Nat → Shelf → Bool}
    (h : (adm s ring op).any (fun x => let s1 := readDir x.2.2 (dKey x.2.1.desc)
      (fnd s1 (dKey x.2.1.desc)).any (fun y => P x.1 x.2.1 s1 y.1 y.2)) = true) :
    ∃ (id : Nat) (r : Req) (s1 : State) (i : Nat) (sh : Shelf), Looks s ring op id r s1 ∧ Found s1 (dKey r.desc) i sh ∧ P id r s1 i sh = true := by
  obtain ⟨id, r, s1, h1, h2⟩ := looks_some (P := fun id r s1 => (fnd s1 (dKey r.desc)).any (fun y => P id r s1 y.1 y.2)) h
  cases h0 : fnd s1 (dKey r.desc) with
  | none => simp [h0] at h2
  | some y =>
    obtain ⟨i, sh⟩ := y
    simp only [h0, Option.any_some] at h2
    refine ⟨id, r, s1, i, sh, h1, ?_, h2⟩
    unfold fnd at h0
    split at h0 <;> try cases h0
    rename_i i' sh' h3
    split at h0 <;> cases h0
    rename_i h4
    exact ⟨h3, h4⟩

/-- Shelf 0 of partition 1: one head of 16 dimensions in BF16, six tokens of which five are visible, nothing stored. -/
def shf : Shelf := { key := { part := 1, conv := 7 }, prof := { kfmt := 1, vfmt := 1 }, endPos := 6, visible := 5, start := 1 }

/-- The device with shelf 0. -/
def kv (sh : Shelf) (ds : List (List Byte)) : State := { srv ds with dir := { (srv ds).dir with shelves := [(0, sh)] } }

/-- The first descriptor of a ring after steps 2 to 4. -/
def chk (s : State) (ring : Nat) (p : List Byte → Bool) : Option (List Byte × Nat × Req × State) :=
  match frontDesc s ring p with
  | none => none
  | some (src, d, g) =>
    match steps24 s ring src g d with
    | (none, _) => none
    | (some (id, r), s1) => some (d, id, r, s1)

theorem checked_some {s : State} {ring : Nat} {p : List Byte → Bool} {P : List Byte → Nat → Req → State → Bool}
    (h : (chk s ring p).any (fun x => P x.1 x.2.1 x.2.2.1 x.2.2.2) = true) :
    ∃ (d : List Byte) (id : Nat) (r : Req) (s1 : State), Checked s ring p d id r s1 ∧ P d id r s1 = true := by
  unfold chk at h
  split at h <;> try simp at h
  rename_i src d g h1
  split at h <;> try simp at h
  rename_i id r s1 h2
  exact ⟨d, id, r, s1, ⟨src, g, h1, h2⟩, h⟩

theorem hostMay_of {s : State} {pg : Nat} (h : (hostReach s && !ideHold s && pageOpen s (pg / 4096)) = true) : HostMay s pg := by
  simp only [Bool.and_eq_true, Bool.not_eq_true'] at h
  exact ⟨h.1.1, h.1.2, h.2⟩

theorem rmTakes_of {s : State} {c : Nat} (h : decide (s.stw.rm = .running) && !deferred s c && decide (s.stw.queues.getD c 0 < classQueue c) = true) : RmTakes s c := by
  simp only [Bool.and_eq_true, Bool.not_eq_true', decide_eq_true_eq] at h
  exact ⟨h.1.1, h.1.2, h.2⟩

theorem issues_of {s : State} {b op : Nat} {j : Job} {w : Nat}
    (h : (!noService s && decide ((s.booth b).job = some j) && issues (s.booth b) && decide (uopWord s b (s.booth b) = w) && decide (w / 2 ^ 27 = op)) = true) :
    Issues s b op j w := by
  simp only [Bool.and_eq_true, Bool.not_eq_true', decide_eq_true_eq] at h
  obtain ⟨⟨⟨⟨a, b⟩, c⟩, d⟩, e⟩ := h
  exact ⟨a, b, c, d, e⟩

/-! ### States that meet the hypotheses of the statements, with what follows -/

theorem test_step_front : (match step { srv [] with pending := [.snap 1, .drain] } with | .next t => decide (t.pending = [.drain]) | _ => false) = true := by decide +kernel
theorem test_invariant_serve : Inv (srv []) := ⟨by decide, by decide, by decide, by decide⟩
theorem test_alert_low : (srv []).dev.alertN = decide ((srv []).pwr.sbAlert = 0) := by decide
/-- R510: an input out of range sets bit 3 of the alert bits and drives the pin low. -/
theorem test_inputFault : after (.inputFault 59000) (srv []) (fun t => decide (t.pwr.sbAlert = 8 ∧ t.dev.alertN = false)) = true := by decide +kernel
theorem test_memory_write : mget (mwrite [(4, 9)] 3 [1, 0]) 3 = 1 ∧ mget (mwrite [(4, 9)] 3 [1, 0]) 4 = 0 ∧ Memory.wf [(4, 9)] = true := by decide
theorem test_host_off : hostPage .serve = some pgPwr ∧ hostReach { srv [] with dev := { state := .off } } = false := by decide
theorem test_host_ide : hostReach { srv [] with cxl := { ideReq := true } } = true ∧ ideHold { srv [] with cxl := { ideReq := true } } = true := by decide
theorem test_host_closed : hostReach State.reset = true ∧ ideHold State.reset = false ∧ pageOpen State.reset (pgPwr / 4096) = false := by decide
theorem test_stop_front : descOp (.plan 5) = some (5, 0x06) ∧ frontDesc (srv []) 5 (fun d => decide (dOpcode d = 0x06) && !dArm d) = none := by decide +kernel
/-- R103, step 2: a descriptor of another partition is denied. -/
theorem test_stop_step2 : (match frontDesc (srv [dsc 6 2 []]) 5 (fun d => decide (dOpcode d = 0x06) && !dArm d) with
    | some (src, d, g) => (steps24 (srv [dsc 6 2 []]) 5 src g d).1.isNone | none => false) = true := by decide +kernel
/-- R395: an epoch above C is to be retried. -/
theorem test_stop_step6 : ∃ (d : List Byte) (id : Nat) (r : Req) (s1 : State),
    Checked (srv [dsc 6 1 [(4, 4, 3)]]) 5 (fun d => decide (dOpcode d = 0x06) && !dArm d) d id r s1 ∧
    (steps69 s1 r).1.any (fun f => decide (f.status = 0x40)) = true := checked_some (by decide +kernel)
theorem test_noService : noService { srv [] with dev := { state := .halt } } = true := by decide
theorem test_linkCrcFail : (srv []).fabric.down.contains (3 : Fin 20).val = false ∧
    after (.linkCrcFail 3 false) (srv []) (fun t => decide (t.fabric.down.contains 3 = true ∧ t.evr.log.length = 1)) = true := by decide +kernel
theorem test_reroute : tget? ({ switching := [(8, 2)] } : Fabric).switching (routeKey (0, 1, 0)) = some 2 ∧
    after (.reroute 0 1 0) { srv [] with fabric := { switching := [(8, 2)] } } (fun t => decide (t.fabric.via = [(8, 2)] ∧ t.fabric.switching = [])) = true := by decide +kernel
theorem test_counterWrap : after (.counterWrap 2) { srv [] with time := { ctr := [0, 0, 2 ^ 48 - 1] } }
    (fun t => decide (t.time.ctr = [0, 0, 0] ∧ t.evr.log.length = 1)) = true := by decide +kernel
/-- The ring of the tests alone. -/
def rng (n : Nat) : Ring := { part := 1, rbase := 0x10000, cbase := 0x20000, pi := BitVec.ofNat 32 n }

theorem test_ringPi : HostMay (srv []) (pgRing (5 : Fin 4096).val) ∧ (tget? (srv []).rings 5).any (fun g => !g.destroying) = true ∧ ringFed (srv []) 5 = false ∧
    after (.ringPi 5 64 []) (srv []) (fun t => (tget? t.rings 5).any (fun g => decide (g.pi = 64) && !g.stopped)) = true :=
  ⟨hostMay_of (by decide), by decide, by decide, by decide +kernel⟩
/-- R109: one slot more than the ring holds stops the ring. -/
theorem test_ringPi_stops : after (.ringPi 5 65 []) (srv []) (fun t => (tget? t.rings 5).any (fun g => g.stopped)) = true := by decide +kernel
theorem test_cqCi : after (.cqCi 5 3) (srv []) (fun t => (tget? t.rings 5).any (fun g => decide (g.cqCi = 3))) = true := by decide +kernel
theorem test_fetch_good : fetching (srv []) = true ∧ slotFree (rng 1) = true ∧ firstBad (dsc 6 1 []) = none ∧
    (readSlot { srv [] with hostMem := mwrite [] 0x10000 (dsc 6 1 []) } (rng 1)).1 = some (dsc 6 1 []) ∧
    after (.descriptorFetch 5 1) { srv [] with hostMem := mwrite [] 0x10000 (dsc 6 1 []), rings := [(5, rng 1)] }
      (fun t => (tget? t.rings 5).any (fun g => decide (g.ci = 1 ∧ g.taken = [(4, dsc 6 1 [])] ∧ g.inflight = 1))) = true := by
  refine ⟨by decide, by decide, by decide +kernel, by decide +kernel, by decide +kernel⟩
/-- R376: poison in the slot stops the ring with `RING_CI` where it is. -/
theorem test_fetch_poison : (readSlot { srv [] with hostBad := [0x400] } (rng 1)).1 = none ∧
    after (.descriptorFetch 5 16) { srv [] with hostBad := [0x400], rings := [(5, rng 1)] }
      (fun t => (tget? t.rings 5).any (fun g => decide (g.ci = 0) && g.stopped)) = true := by decide +kernel
/-- R121: the ring after the last served has the turn; a second ring of the partition waits. -/
theorem test_fetch_turn : (fetchTurn { srv [] with rings := [(5, rng 1), (6, rng 1)], sched := [(0, { part := 1, left := 1, rings := [(1, 5)] })] } 0).any (fun x => decide (x.1 = 6)) = true ∧
    after (.descriptorFetch 5 1) { srv [] with rings := [(5, rng 1), (6, rng 1)], sched := [(0, { part := 1, left := 1, rings := [(1, 5)] })] }
      (fun t => (tget? t.rings 5).any (fun g => decide (g.ci = 0))) = true := by decide +kernel
/-- R111: a slot with a bad opcode ends at its offset. -/
theorem test_fetch_bad : let s := { srv [] with hostMem := mwrite [] 0x10000 (dsc 0x1F 1 []), rings := [(5, rng 1)] }
    (readSlot { s with sched := tset {} s.sched 0 ((fetchTurn s 0).getD (0, {})).2 } (rng 1)).1 = some (dsc 0x1F 1 []) ∧ (firstBad (dsc 0x1F 1 [])).isSome = true := by decide +kernel
theorem test_fetch_drain : fetching { srv [] with dev := { state := .drain } } = false := by decide
theorem test_arm : ∃ (d : List Byte) (id : Nat) (r : Req) (s1 : State),
    Checked (srv [dsc 6 1 [(1, 1, 1)]]) (5 : Fin 4096).val (fun d => dArm d && !dDisarm d) d id r s1 ∧ (armedOn s1 0).isEmpty = true := checked_some (by decide +kernel)
/-- R111: an armed descriptor gives its completion slot back. -/
theorem test_arm_slot : after (.arm 5) (srv [dsc 6 1 [(1, 1, 1)]])
    (fun t => decide (t.armed.length = 1) && (tget? t.rings 5).any (fun g => decide (g.inflight = 0))) = true := by decide +kernel
/-- The armed descriptor of the tests. -/
def arm1 : Armed := { ring := 5, key := 0x77, desc := dsc 6 1 [(1, 1, 1)] }
theorem test_disarm : ∃ (d : List Byte) (id : Nat) (r : Req) (s1 : State),
    Checked { srv [dsc 6 1 [(1, 1, 5)]] with armed := [arm1] } (5 : Fin 4096).val (fun d => dArm d && dDisarm d) d id r s1 ∧
    (s1.armed.find? (fun a => decide (a.ring = 5) && decide (a.key = trigKey d) && !a.gone) == some arm1) = true := checked_some (by decide +kernel)
theorem test_disarm_gone : after (.disarm 5) { srv [dsc 6 1 [(1, 1, 5)]] with armed := [arm1] } (fun t => decide (t.armed = [])) = true := by decide +kernel
theorem test_trigger_write : tget? ({ srv [] with qps := [(3, { part := 1 })] } : State).qps 3 = some { part := 1 } := by decide
/-- R127: a one-shot descriptor fires at its first trigger; R126: another partition's trigger is dropped. -/
theorem test_trigger_fires : presentTrigger { srv [] with armed := [arm1] } 2 1 (5 * 2 ^ 20 + 0x77) =
      { srv [] with armed := [{ arm1 with fires := [2], gone := true }] } ∧
    rdf (presentTrigger { srv [] with armed := [arm1] } 2 3 (5 * 2 ^ 20 + 0x77)) (pgNet 2 + 0x118) 0 16 = 1 := by decide +kernel
theorem test_fire : let s := { srv [] with armed := [{ arm1 with fires := [2], gone := true }] }
    (s.armed.find? (fun a => decide (a.ring = 5) && decide (a.key = 0x77) && !a.fires.isEmpty)).isSome = true ∧ (tget? s.rings 5).any slotFree = true ∧
    noService s = false ∧ after (.fire 5 0x77) s (fun t => decide (t.armed = [])) = true := by decide +kernel
/-- R102: a fired descriptor with `ORDERED` waits for an earlier one of its ring. -/
theorem test_fire_ordered : inOrder { srv [] with reqs := [(4, { ring := 5, order := 4 })] } 5 7 (dsc 6 1 [(1, 1, 9)]) = false ∧
    inOrder { srv [] with reqs := [(8, { ring := 5, order := 8 })] } 5 7 (dsc 6 1 [(1, 1, 9)]) = true := by decide +kernel
/-- The staging registers of a ring of partition 1 at the bases 0x100000 and 0x200000. -/
def stg (s : State) : State := wr (wr (wr (wr s (pgAsch 0 + 0x100) 9) (pgAsch 0 + 0x104) 0x100) (pgAsch 0 + 0x108) 0x100000) (pgAsch 0 + 0x110) 0x200000
theorem test_ringCreate : HostMay (stg (srv [])) (pgAsch (0 : Fin 4).val) ∧ aschBusy (stg (srv [])) 0 = false ∧
    ringStagedOk (stg (srv [])) (stagedRing (stg (srv [])) 0).2 = true ∧ tget? (stg (srv [])).rings (stagedRing (stg (srv [])) 0).1 = none ∧
    after (.ringCreate 0) (stg (srv [])) (fun t => decide (t.rings.length = 2)) = true :=
  ⟨hostMay_of (by decide), by decide +kernel, by decide +kernel, by decide +kernel, by decide +kernel⟩
theorem test_ringDestroy : let s := wr (stg (srv [])) (pgAsch 0 + 0x100) 5
    (tget? s.rings (stagedRing s 0).1).any (fun g => !g.destroying) = true ∧
    after (.ringDestroy 0) s (fun t => (tget? t.rings 5).any (fun g => g.destroying)) = true := by decide +kernel
theorem test_ringDestroyDone : ringQuiet (srv []) 5 { rng 0 with destroying := true } = true ∧
    after (.ringDestroyDone 5) { srv [] with rings := [(5, { rng 0 with destroying := true })] } (fun t => decide (t.rings = [])) = true := by decide +kernel
/-- A route to host memory at 0x80000. -/
def route0 : State → State := fun s => { s with objects := [(65537, { kind := 6, bytes := leBytes 8 0 ++ leBytes 8 0x80000 ++ leBytes 4 0 ++ leBytes 4 0x10000 ++ List.replicate 40 0 })] }
/-- An `ATTEND` in F32 of one head, dense, with its query at 0x40000 and route 1. -/
def att : List Byte := dsc 1 1 [(0x10, 8, 7), (0x18, 8, 0x40000), (0x20, 2, 1)]

theorem test_attend : ∃ (id : Nat) (r : Req) (s1 : State) (i : Nat) (sh : Shelf),
    Looks (route0 (kv shf [att])) (5 : Fin 4096).val 0x01 id r s1 ∧ Found s1 (dKey r.desc) i sh ∧
    (!isRing sh.prof && !r.replay && decide (attendFail s1 { r with lo := sh.start, snap := sh.visible } sh = none) && decide (sh.start < sh.visible) &&
      (refRead s1 r.part (le r.desc 0x18 8) 64).1.any (fun b => (srcElems 0 16 b).all srcOk)) = true := looks_found (by decide +kernel)
theorem test_attend_snapshot : after (.attend 5) (route0 (kv shf [att]))
    (fun t => (tget? t.reqs 9).any (fun q => decide (q.snap = 5 ∧ q.lo = 1 ∧ q.shelf = some 0))) = true := by decide +kernel
/-- Two tokens appended at `pos`, their source at 0x40000. -/
def app (pos n : Nat) : List Byte := dsc 2 1 [(0x10, 8, 7), (0x18, 8, 0x40000), (0x20, 4, pos), (0x24, 2, n)]
/-- A partition with a quota of 1,024 MiB and pseudo-channel 0 of every stack. -/
def roomy (s : State) : State := { wr s (pgPart 1 + 0x200) 1024 with pcOwner := (List.range 16).map (fun k => (64 * k, 1)) }
theorem test_append_end : ∃ (id : Nat) (r : Req) (s1 : State) (i : Nat) (sh : Shelf),
    Looks (roomy (kv shf [app 6 2])) (5 : Fin 4096).val 0x02 id r s1 ∧ Found s1 (dKey r.desc) i sh ∧
    (!sh.copy && decide (refFail s1 r.part r.desc 0x18 (appendBytes sh.prof r.desc) = none) && sh.trim.isNone && decide (le r.desc 0x20 4 = sh.endPos) &&
      lengthOk sh (sh.endPos + le r.desc 0x24 2) && (takeCharge s1 r.part (appendCharge sh (le r.desc 0x24 2)) (some i)).1) = true := looks_found (by decide +kernel)
theorem test_append_grows : after (.appendKv 5) (roomy (kv shf [app 6 2])) (fun t => (t.shelf? 0).any (fun x => decide (x.endPos = 8 ∧ x.visible = 5 ∧ x.appends.length = 1))) = true := by
  decide +kernel
/-- R229: without quota the append is refused and `END` stays. -/
theorem test_append_full : ∃ (id : Nat) (r : Req) (s1 : State) (i : Nat) (sh : Shelf),
    Looks (kv { shf with endPos := 0, visible := 0, start := 0 } [app 0 1]) (5 : Fin 4096).val 0x02 id r s1 ∧ Found s1 (dKey r.desc) i sh ∧
    (!(takeCharge s1 r.part (appendCharge sh (le r.desc 0x24 2)) (some i)).1) = true := looks_found (by decide +kernel)
theorem test_append_already : ∃ (id : Nat) (r : Req) (s1 : State) (i : Nat) (sh : Shelf),
    Looks (kv shf [app 1 5]) (5 : Fin 4096).val 0x02 id r s1 ∧ Found s1 (dKey r.desc) i sh ∧
    (decide (sh.start ≤ le r.desc 0x20 4 ∧ le r.desc 0x20 4 + le r.desc 0x24 2 = sh.endPos)) = true := looks_found (by decide +kernel)
theorem test_append_gap : ∃ (id : Nat) (r : Req) (s1 : State) (i : Nat) (sh : Shelf),
    Looks (kv shf [app 7 1]) (5 : Fin 4096).val 0x02 id r s1 ∧ Found s1 (dKey r.desc) i sh ∧ (decide (sh.endPos < le r.desc 0x20 4)) = true := looks_found (by decide +kernel)
theorem test_append_absent : ∃ (id : Nat) (r : Req) (s1 : State), Looks (srv [app 0 1]) (5 : Fin 4096).val 0x02 id r s1 ∧
    (decide (lookup s1 (dKey r.desc) = none ∧ pullOf s1 (dKey r.desc) = none) && (pullFind s1 (dKey r.desc)).1.isNone && !r.grace && !bit (le r.desc 0x26 1) 2) = true := looks_some (by decide +kernel)
theorem test_append_too_many : ∃ (id : Nat) (r : Req) (s1 : State), Admits (srv [app 0 4097]) (5 : Fin 4096).val 0x02 id r s1 ∧
    (decide (4096 < le r.desc 0x24 2)) = true := admits_some (by decide +kernel)
/-- R81: an append behind a tail trim that waits is held. -/
theorem test_append_held : ∃ (id : Nat) (r : Req) (s1 : State) (i : Nat) (sh : Shelf),
    Looks (roomy (kv { shf with trim := some { pos := 3 } } [app 6 2])) (5 : Fin 4096).val 0x02 id r s1 ∧ Found s1 (dKey r.desc) i sh ∧
    (!sh.copy && decide (refFail s1 r.part r.desc 0x18 (appendBytes sh.prof r.desc) = none) && sh.trim.isSome) = true := looks_found (by decide +kernel)
/-- An append with `CREATE` of one token, its profile object 1. -/
def appC : List Byte := dsc 2 1 [(0x10, 8, 7), (0x18, 8, 0x40000), (0x20, 4, 3), (0x24, 2, 1), (0x26, 1, 4), (0x28, 2, 1)]
theorem test_append_create : ∃ (id : Nat) (r : Req) (s1 : State),
    Looks { wr (roomy (srv [appC])) (pgPart 1 + 0x10C) 4 with objects := [(65537, { kind := 1, bytes := [1, 1] ++ List.replicate 14 0 })] } (5 : Fin 4096).val 0x02 id r s1 ∧
    (let s2 := (pullFind s1 (dKey r.desc)).2
     let sh := freshShelf s2 (dKey r.desc) (le r.desc 0x28 2) (le r.desc 0x20 4)
     decide (lookup s1 (dKey r.desc) = none ∧ pullOf s1 (dKey r.desc) = none) && (pullFind s1 (dKey r.desc)).1.isNone && !r.grace && bit (le r.desc 0x26 1) 2 &&
     decide (refFail s2 r.part r.desc 0x18 (appendBytes sh.prof r.desc) = none) && lengthOk sh (le r.desc 0x20 4 + le r.desc 0x24 2) &&
     decide (shelfCount s2 r.part < rdf s2 (pgPart r.part + 0x10C) 0 25) &&
     (match takeCharge s2 r.part (shelfCharge sh + appendCharge sh (le r.desc 0x24 2)) none with
      | (true, s3) => (match createShelf s3 sh with
        | (.ok i, s4) => (s4.shelf? i).any (fun x => decide (x.endPos = le r.desc 0x20 4) && lengthOk x (le r.desc 0x20 4 + le r.desc 0x24 2) &&
            (takeCharge s4 r.part (appendCharge x (le r.desc 0x24 2)) (some i)).1 &&
            ((takeCharge s4 r.part (appendCharge x (le r.desc 0x24 2)) (some i)).2.shelf? i).isSome)
        | _ => false)
      | _ => false)) = true := looks_some (by decide +kernel)
/-- Request 4, of partition 1 and ring 5, with shelf 0. -/
def withReq (s : State) (d : List Byte) : State := { s with reqs := [(4, { ring := 5, desc := d, part := 1, shelf := some 0 })] }
/-- R82: `VISIBLE` moves past the earliest written append. -/
theorem test_visibleAdvance : after (.visibleAdvance 0) (withReq (kv { shf with endPos := 8, appends := [{ req := 4, pos := 5, n := 3, written := true }] } []) (app 5 3))
    (fun t => (t.shelf? 0).any (fun x => decide (x.visible = 8 ∧ x.appends = [])) && decide (t.reqs = [])) = true := by decide +kernel
/-- R83: the failed append ends and `END` falls back. -/
theorem test_failedAppend : after (.failedAppend 0) (withReq (kv { shf with endPos := 8, appends := [{ req := 4, pos := 6, n := 2, failed := some 0x22 }] } []) (app 6 2))
    (fun t => (t.shelf? 0).any (fun x => decide (x.endPos = 6 ∧ x.appends = [])) && decide (t.reqs = [])) = true := by decide +kernel
/-- R138: the shelf that a failed append has created goes with it. -/
theorem test_failedAppend_created : after (.failedAppend 0) (withReq (kv { shf with endPos := 8, appends := [{ req := 4, pos := 6, n := 2, failed := some 0x22, created := true }] } []) (app 6 2))
    (fun t => (lookup t { part := 1, conv := 7 }).isNone) = true := by decide +kernel
/-- The ring shelf of 64 tokens in one slot, whose first drawer is full. -/
def rful : Shelf := { shf with prof := { kfmt := 1, vfmt := 1, ringW := 64 }, drawers := [{ loc := .hbm {}, count := 64 }] }
/-- R88: the slot of drawer 0 of a ring takes the drawer after the ring's last slot, once no window covers it. -/
theorem test_ringSlot_ready : let j := ringSlots rful.prof 0
    getDrawer rful 0 j = none ∧ isRing rful.prof = true ∧ (getDrawer rful 0 (j - ringSlots rful.prof 0)).isSome = true ∧ drawerPos rful 0 0 < 4096 ∧
    windowHas (kv rful []) 0 rful 0 0 = false ∧ windowHas { kv rful [] with reqs := [(4, { shelf := some 0, lo := 0, snap := 1 })] } 0 rful 0 0 = true := by decide +kernel
theorem test_ringSlotReuse : (kv { shf with appends := [{ req := 4, written := true }] } []).shelf? 0 = some { shf with appends := [{ req := 4, written := true }] } := by decide
theorem test_putRecords : let d : Drawer := { loc := .hbm {}, count := 1, data := List.replicate 32 1 }
    (match (putRecords (kv { shf with drawers := [d] } []) 0 1 2 (0, 0) [List.replicate 32 2]).shelf? 0 with
     | some x => (getDrawer x 0 0).any (fun e => decide (e.count = 2 ∧ e.data = List.replicate 32 1 ++ List.replicate 32 2)) | none => false) = true := by decide +kernel

/-- R268: a poisoned line of the place takes no narrow write, a clear one takes it. -/
theorem test_putRecords_poison : (wroteSpan (kv shf []) {} 32 32).1 = none ∧
    (wroteSpan { kv shf [] with hbm := [(0, { poison := [((placeLines {}).1, 1)] })] } {} 32 32).1 = some (placeLines {}).1 := by decide +kernel

/-- A trim of shelf 0 to a position, of the head or the tail. -/
def trm (pos tail : Nat) : List Byte := dsc 4 1 [(0x10, 8, 7), (0x18, 4, pos), (0x1C, 1, tail)]
theorem test_trim_head : ∃ (id : Nat) (r : Req) (s1 : State) (i : Nat) (sh : Shelf),
    Looks (kv shf [trm 5 0]) (5 : Fin 4096).val 0x04 id r s1 ∧ Found s1 (dKey r.desc) i sh ∧
    (!sh.copy && !isRing sh.prof && sh.trim.isNone && decide (le r.desc 0x1C 1 = 0 ∧ sh.start ≤ le r.desc 0x18 4 ∧ le r.desc 0x18 4 = sh.visible)) = true :=
  looks_found (by decide +kernel)
theorem test_trim_tail : ∃ (id : Nat) (r : Req) (s1 : State) (i : Nat) (sh : Shelf),
    Looks (kv shf [trm 1 1]) (5 : Fin 4096).val 0x04 id r s1 ∧ Found s1 (dKey r.desc) i sh ∧
    (decide (le r.desc 0x1C 1 ≠ 0 ∧ le r.desc 0x18 4 = sh.start ∧ le r.desc 0x18 4 ≤ sh.endPos)) = true := looks_found (by decide +kernel)
theorem test_trim_copy : ∃ (id : Nat) (r : Req) (s1 : State) (i : Nat) (sh : Shelf),
    Looks (kv { shf with copy := true } [trm 5 0]) (5 : Fin 4096).val 0x04 id r s1 ∧ Found s1 (dKey r.desc) i sh ∧ sh.copy = true := looks_found (by decide +kernel)
/-- The shelf as a ring of 64 tokens. -/
def rshf : Shelf := { shf with prof := { kfmt := 1, vfmt := 1, ringW := 64 } }
theorem test_trim_ring : ∃ (id : Nat) (r : Req) (s1 : State) (i : Nat) (sh : Shelf),
    Looks (kv rshf [trm 5 0]) (5 : Fin 4096).val 0x04 id r s1 ∧ Found s1 (dKey r.desc) i sh ∧ (!sh.copy && isRing sh.prof) = true := looks_found (by decide +kernel)
theorem test_trimSetEnd : after (.trimSetEnd 0) (kv { shf with trim := some { req := 4, pos := 3 } } [])
    (fun t => (t.shelf? 0).any (fun x => decide (x.endPos = 3 ∧ x.visible = 3 ∧ x.tails.length = 1))) = true := by decide +kernel
theorem test_trimTailComplete : after (.trimTailComplete 0) (withReq (kv { shf with tails := [{ req := 4, pos := 3 }] } []) (trm 3 1))
    (fun t => (t.shelf? 0).any (fun x => decide (x.tails = [])) && decide (t.reqs = [])) = true := by decide +kernel
theorem test_headTrimFree : allDone (kv shf []) [] = true ∧ after (.headTrimFree 0) (kv { shf with headTrims := [{ pos := 3 }] } [])
    (fun t => (t.shelf? 0).any (fun x => decide (x.headTrims = []))) = true := by decide +kernel
/-- A drop of shelf 0 or of its conversation. -/
def drp (conv : Nat) : List Byte := dsc 5 1 [(0x10, 8, 7), (0x18, 1, conv)]
theorem test_drop_one : ∃ (id : Nat) (r : Req) (s1 : State) (i : Nat) (sh : Shelf),
    Looks (kv shf [drp 0]) (5 : Fin 4096).val 0x05 id r s1 ∧ Found s1 (dKey r.desc) i sh ∧ (!bit (le r.desc 0x18 1) 0) = true := looks_found (by decide +kernel)
theorem test_drop_absent : ∃ (id : Nat) (r : Req) (s1 : State), Looks (srv [drp 0]) (5 : Fin 4096).val 0x05 id r s1 ∧
    (decide (lookup s1 (dKey r.desc) = none)) = true := looks_some (by decide +kernel)
theorem test_drop_conv : ∃ (id : Nat) (r : Req) (s1 : State), Admits (kv shf [drp 1]) (5 : Fin 4096).val 0x05 id r s1 ∧
    (bit (le r.desc 0x18 1) 0 && decide (s1.dir.marks.length < 64)) = true := admits_some (by decide +kernel)
/-- R93: a conversation drop beyond 64 marks is to be retried. -/
theorem test_drop_marks : ∃ (id : Nat) (r : Req) (s1 : State), Admits { kv shf [drp 1] with dir := { marks := List.replicate 64 {} } } (5 : Fin 4096).val 0x05 id r s1 ∧
    (decide (s1.dir.marks.length = 64)) = true := admits_some (by decide +kernel)
theorem test_dropFree : after (.dropFree 0) (kv { shf with state := .dropping } []) (fun t => decide (t.dir.shelves = [])) = true := by decide +kernel
theorem test_convScanEnd : (markedShelves { srv [] with dir := { marks := [{ part := 1 }] } } { part := 1 }) = [] ∧
    after (.convScanEnd 3 0) { srv [] with dir := { marks := [{ part := 1, done := [0, 1, 2] }] } } (fun t => decide (t.dir.marks = [])) = true := by decide +kernel
/-- A block with one head of 16 dimensions over two keys: its maximum is `m` and its sum 1. -/
def blk (m : BitVec 32) : List Byte := blockBytes 16 false false 0 0x77 0 2 5 0 1 [{ m := m, l := 0x3F800000, eps := 0, o := List.replicate 16 0x40000000 }]
/-- A merge of one block at 0x40000. -/
def mrg : List Byte := dsc 3 1 [(0x0C, 8, 0x40000), (0x14, 4, 192), (0x18, 2, 1), (0x1A, 1, 1), (0x1C, 2, 1)]
def mrgS : State := { route0 (srv [mrg]) with hostMem := mwrite [] 0x40000 (blk 0x40000000) }
theorem test_merge : ∃ (id : Nat) (r : Req) (s1 : State), Admits mrgS (5 : Fin 4096).val 0x03 id r s1 ∧
    (decide (mergeFail s1 r = none) && (match (mergeInputs s1 r (mgN r.desc)).1 with | .ok bs => decide (bs.length = 1) | .error _ => false)) = true := admits_some (by decide +kernel)
theorem test_merge_field : ∃ (id : Nat) (r : Req) (s1 : State), Admits (route0 (srv [dsc 3 1 [(0x18, 2, 1)]])) (5 : Fin 4096).val 0x03 id r s1 ∧
    (mergeFail s1 r).isSome = true := admits_some (by decide +kernel)
theorem test_merge_input : ∃ (id : Nat) (r : Req) (s1 : State), Admits { route0 (srv [mrg]) with hostMem := mwrite [] 0x40000 [1] } (5 : Fin 4096).val 0x03 id r s1 ∧
    (decide (mergeFail s1 r = none) && (match (mergeInputs s1 r (mgN r.desc)).1 with | .ok _ => false | .error f => decide (f.status = 0x32))) = true := admits_some (by decide +kernel)
theorem test_merge_eps : ([{ m := 0, l := 0x3F800000, eps := posInf, o := [] }] : List HeadIn).any (fun h => decide (h.eps = posInf)) = true := by decide +kernel
theorem test_route_dead : rtKind (leBytes 1 1) ≠ 0 ∧ qpDead (srv []) (rtQpn (leBytes 1 1)) = true := by decide
/-- A queue pair of port 2 and partition 1. -/
def qp1 : Qp := { port := 2, part := 1, attr := List.replicate 64 0 }
theorem test_route_net : rtKind (leBytes 1 1 ++ [0, 0, 0] ++ leBytes 4 3) ≠ 0 ∧ qpDead { srv [] with qps := [(3, qp1)] } (rtQpn (leBytes 1 1 ++ [0, 0, 0] ++ leBytes 4 3)) = false := by decide
theorem test_route_mem : rtKind (leBytes 1 0) = 0 := by decide

/-- A plan of the conversation, with a handle and a depth. -/
def pln (h d : Nat) : List Byte := dsc 6 1 [(0x10, 8, 7), (0x18, 2, h), (0x1A, 1, d)]
def withPlan (s : State) : State := { s with objects := [(65538, { kind := 5 })] }
theorem test_plan : ∃ (id : Nat) (r : Req) (s1 : State), Looks (withPlan (kv shf [pln 2 8])) (5 : Fin 4096).val 0x06 id r s1 ∧
    (decide (lookup s1 (dKey r.desc) ≠ none ∧ le r.desc 0x18 2 ≠ 0 ∧ le r.desc 0x1A 1 = 8)) = true := looks_some (by decide +kernel)
theorem test_plan_attached : after (.plan 5) (withPlan (kv shf [pln 2 1])) (fun t => decide (t.tiers.plans = [{ part := 1, conv := 7, plan := 2, depth := 1 }])) = true := by decide +kernel
theorem test_plan_removed : after (.plan 5) { kv shf [pln 0 0] with tiers := { plans := [{ part := 1, conv := 7, plan := 2 }] } } (fun t => decide (t.tiers.plans = [])) = true := by
  decide +kernel
theorem test_plan_depth : ∃ (id : Nat) (r : Req) (s1 : State), Looks (withPlan (kv shf [pln 2 9])) (5 : Fin 4096).val 0x06 id r s1 ∧
    (decide (8 < le r.desc 0x1A 1)) = true := looks_some (by decide +kernel)
/-- A pin of positions 0 to 9, or its removal. -/
def pn (f : Nat) : List Byte := dsc 7 1 [(0x10, 8, 7), (0x1C, 4, 10), (0x20, 1, f)]
theorem test_pin : ∃ (id : Nat) (r : Req) (s1 : State) (i : Nat) (sh : Shelf),
    Looks (kv shf [pn 0]) (5 : Fin 4096).val 0x07 id r s1 ∧ Found s1 (dKey r.desc) i sh ∧
    (!bit (le r.desc 0x20 1) 7 && decide (sh.pins.length < 4) && decide (sh.drawers = []) && (pendingPins s1 i).isEmpty && s1.reqs.isEmpty) = true := looks_found (by decide +kernel)
theorem test_pin_held : after (.pin 5) (kv shf [pn 0]) (fun t => (t.shelf? 0).any (fun x => decide (x.pins = [{ first := 0, endp := 10 }]))) = true := by decide +kernel
theorem test_unpin : after (.pin 5) (kv { shf with pins := [{ first := 0, endp := 10 }] } [pn 0x80]) (fun t => (t.shelf? 0).any (fun x => decide (x.pins = []))) = true := by decide +kernel
theorem test_pin_full : ∃ (id : Nat) (r : Req) (s1 : State) (i : Nat) (sh : Shelf),
    Looks (kv { shf with pins := List.replicate 4 {} } [pn 0]) (5 : Fin 4096).val 0x07 id r s1 ∧ Found s1 (dKey r.desc) i sh ∧ (decide (sh.pins.length = 4)) = true :=
  looks_found (by decide +kernel)

/-! #### Vector indexes -/

/-- Index 3 of partition 1: 16 dimensions in BF16, one list, its tables zero. -/
def vix : VIndex := { part := 1, handle := 3, nprobe := 1, cand := 4, cents := List.replicate 16 0, subs := List.replicate 4096 0 }
/-- The device with the index, route 1 and a quota. -/
def vs (v : VIndex) (ds : List (List Byte)) : State :=
  let s := route0 (srv ds)
  { wr (wr s (pgPart 1 + 0x200) 1024) (pgPart 1 + 0x208) 16 with objects := s.objects ++ [(65539, { kind := 7 })], vidx := [(65539, v)] }
/-- A search for the best 2 with its query at 0x40000. -/
def sch : List Byte := dsc 0x10 1 [(0x0C, 2, 3), (0x0E, 2, 2), (0x10, 8, 0x40000), (0x18, 2, 1)]
theorem test_search : ∃ (id : Nat) (r : Req) (s1 : State), Admits (vs vix [sch]) (5 : Fin 4096).val 0x10 id r s1 ∧
    (!r.replay && decide (searchFail s1 r (indexOf s1 r.part 3).2 = none) && (refRead s1 r.part 0x40000 64).1.any (fun b => (srcElems 0 16 b).all srcOk) &&
      !(indexOf s1 r.part 3).2.tblBad) = true := admits_some (by decide +kernel)
/-- R301: a search of an empty index is short. -/
theorem test_search_short : (searchFound vix { desc := sch, query := List.replicate 16 0 } {}).short = true := by decide +kernel
theorem test_search_damaged : (vs { vix with tblBad := true } []).vidx.all (fun e => e.2.tblBad && !e.2.benchBad) = true ∧
    (vs { vix with benchBad := true } []).vidx.all (fun e => e.2.benchBad) = true := by decide +kernel
/-- A search of index 3 under way, whose coarse task waits on die 0. -/
def srq : Req := { part := 1, ring := 5, desc := sch, query := List.replicate 16 0, bucket := some 7, runs := [{ sched := some 0 }], srch := some { np := 1, cand := 4 } }
def sq : State := { vs vix [] with reqs := [(4, srq)], tileOwner := [(2, 1)], wayOwner := [(0, 1)] }
/-- R307: the task goes to a tile of `HOME`. -/
theorem test_runDispatch_search : hasTurn sq 4 srq 0 = true ∧ taskOk sq 4 srq { np := 1, cand := 4 } 2 = true ∧ noService sq = false ∧
    taskOk { sq with tileOwner := [(50, 1)], wayOwner := [(48, 1)] } 4 srq { np := 1, cand := 4 } 50 = false ∧
    after (.runDispatch 4 0 (some 2)) sq (fun t => decide (tget? t.tileTag 2 = some 7)) = true := by decide +kernel
theorem test_search_field : ∃ (id : Nat) (r : Req) (s1 : State), Admits (vs vix [dsc 0x10 1 [(0x0C, 2, 3), (0x18, 2, 1)]]) (5 : Fin 4096).val 0x10 id r s1 ∧
    (searchFail s1 r (indexOf s1 r.part 3).2).isSome = true := admits_some (by decide +kernel)
/-- An insertion of one item in F32, its record at 0x40000. -/
def vin (n : Nat) : List Byte := dsc 0x11 1 [(0x0C, 2, 3), (0x0E, 2, n), (0x10, 8, 0x40000)]
theorem test_vinsert : ∃ (id : Nat) (r : Req) (s1 : State), Admits (vs vix [vin 1]) (5 : Fin 4096).val 0x11 id r s1 ∧
    (let v := (indexOf s1 r.part 3).2
     decide (refFail s1 r.part r.desc 0x10 (itemBytes v 0) = none) && !v.tblBad && s1.chip.cabCap && !s1.cab.readOnly) = true := admits_some (by decide +kernel)
theorem test_vinsert_number : after (.vinsert 5) (vs vix [vin 1]) (fun t => (tget? t.vidx 65539).any (fun v => decide (v.seq = 1 ∧ v.vis = 1 ∧ v.items.length = 1))) = true := by
  decide +kernel
theorem test_vinsert_none : ∃ (id : Nat) (r : Req) (s1 : State), Admits (vs vix [vin 0]) (5 : Fin 4096).val 0x11 id r s1 ∧ (decide (le r.desc 0x0E 2 = 0)) = true :=
  admits_some (by decide +kernel)
/-- R293: a delete of an ID that is not there takes its number and counts a miss. -/
theorem test_vdelete : after (.vdelete 5) (vs vix [dsc 0x12 1 [(0x0C, 2, 3), (0x0E, 2, 2), (0x10, 8, 0x40000)]])
    (fun t => (tget? t.vidx 65539).any (fun v => decide (v.seq = 2 ∧ v.vis = 2 ∧ v.delMiss = 2))) = true := by decide +kernel
theorem test_vmerge : ∃ (id : Nat) (r : Req) (s1 : State), Admits (vs vix [dsc 0x13 1 [(0x0C, 2, 3), (0x10, 4, 0xFFFFFFFF)]]) (5 : Fin 4096).val 0x13 id r s1 ∧
    (decide ((indexOf s1 r.part 3).2.building = none ∧ le r.desc 0x10 4 = 0xFFFFFFFF) && (takeCharge s1 r.part 0 none).1) = true := admits_some (by decide +kernel)
theorem test_vmerge_list : ∃ (id : Nat) (r : Req) (s1 : State), Admits (vs vix [dsc 0x13 1 [(0x0C, 2, 3), (0x10, 4, 1)]]) (5 : Fin 4096).val 0x13 id r s1 ∧
    (decide ((indexOf s1 r.part 3).2.nlist = le r.desc 0x10 4)) = true := admits_some (by decide +kernel)
theorem test_vmergeSwitch : after (.vmergeSwitch 1 3) (withReq (vs { vix with seq := 1, vis := 1, items := [{ id := 8, seq := 1 }], building := some { req := 4, b := 1 } } [])
    (dsc 0x13 1 [])) (fun t => (tget? t.vidx 65539).any (fun v => decide (v.lastMerge = 1 ∧ v.building = none) && v.items.all (fun i => i.merged)) && decide (t.reqs = [])) = true := by
  decide +kernel
theorem test_statusRecordWrite : after (.statusRecordWrite 1 3) (vs { vix with statDue := true, statRef := 0x90000, seq := 5, vis := 5 } [])
    (fun t => (tget? t.vidx 65539).any (fun v => !v.statDue) && decide (t.hostMem ≠ [])) = true := by decide +kernel
/-! #### Composition -/

/-- Peer 2 of partition 1: node 9, queue pair 0x100003. -/
def peered (s : State) : State :=
  { wr (wr s (pgPart 1 + 0x400 + 32) 9) (pgPart 1 + 0x400 + 36) (2 ^ 31 + 3) with qps := [(0x100003, qp1)] }
/-- A pull table of one entry at device offset 0: conversation 7, peer 2, profile 1, positions 0 to 9; extent 0 holds the table. -/
def pulled (s : State) : State :=
  { wr (wr (peered s) (pgPart 1 + 0x138) 1) (pgPart 1 + 0x134) (2 ^ 30) with
    devMem := mwrite [] 0 (leBytes 8 7 ++ leBytes 4 0 ++ [2, 0] ++ leBytes 2 1 ++ leBytes 4 0 ++ leBytes 4 0 ++ leBytes 4 10 ++ leBytes 4 0),
    cxl := { ext := [(0, { state := .alloc, part := 1, poff := 0 })] },
    objects := [(65537, { kind := 1, bytes := [1, 1] ++ List.replicate 14 0 })] }
/-- A `MOVE_PULL` of positions up to an end. -/
def mvp (endp : Nat) : List Byte := dsc 0x20 1 [(0x10, 8, 7), (0x18, 4, 9), (0x20, 4, endp), (0x24, 2, 1)]
theorem test_movePull : ∃ (id : Nat) (r : Req) (s1 : State), Admits (pulled (srv [mvp 10])) (5 : Fin 4096).val 0x20 id r s1 ∧
    ((pullFind s1 (dKey r.desc)).1.any (fun e => decide (peerNode s1 (dPart r.desc) (le e 0x0C 1 % 64) = le r.desc 0x18 4 ∧ le r.desc 0x20 4 = le e 0x18 4)) &&
      (lookup s1 (dKey r.desc)).isNone && (pullOf s1 (dKey r.desc)).isNone) = true := admits_some (by decide +kernel)
theorem test_movePull_range : ∃ (id : Nat) (r : Req) (s1 : State), Admits (pulled (srv [mvp 11])) (5 : Fin 4096).val 0x20 id r s1 ∧
    ((pullFind s1 (dKey r.desc)).1.any (fun e => decide (le e 0x18 4 < le r.desc 0x20 4))) = true := admits_some (by decide +kernel)
theorem test_movePull_none : ∃ (id : Nat) (r : Req) (s1 : State), Admits { pulled (srv [mvp 10]) with devMem := [] } (5 : Fin 4096).val 0x20 id r s1 ∧
    (pullFind s1 (dKey r.desc)).1.isNone = true := admits_some (by decide +kernel)
theorem test_startPull : (tget? (peered (srv [])).qps (peerQpn (peered (srv [])) 1 2)).any (fun x => !x.err) = true := by decide +kernel
/-- The first bytes of a drawer as the peer sends it, up to its digest. -/
def drw (kind seq first count : Nat) : List Byte :=
  leBytes 4 0x334E4358 ++ [0, BitVec.ofNat 8 kind, 0, 0] ++ leBytes 6 0 ++ leBytes 2 count ++ leBytes 8 0 ++ leBytes 4 first ++ leBytes 4 seq ++ leBytes 4 3 ++ leBytes 4 0
theorem test_pullCheck_misfit : let s := { pulled (srv []) with pulls := [(9, { key := { part := 1, conv := 7 }, peer := 2, profH := 1, endp := 10 })] }
    (drw 0 0 0 10 ++ List.replicate 32984 0).length = 33024 ∧ peerExcluded s 1 2 = false ∧ le (drw 0 0 0 10) 0 4 = 0x334E4358 ∧ liveObj s 1 1 1 ≠ none ∧
    fDigest (drw 0 0 0 10) ≠ (digestOfHandle s 1 1).take 16 := by
  refine ⟨by rw [List.length_append, List.length_replicate, (by decide +kernel : (drw 0 0 0 10).length = 40)], by decide +kernel, by decide +kernel, by decide +kernel, by decide +kernel⟩
theorem test_pullCheck_fits : let s := { pulled (srv []) with pulls := [(9, { key := { part := 1, conv := 7 }, peer := 2, profH := 1, endp := 10 })] }
    let a := drw 0 0 0 10 ++ (digestOfHandle s 1 1).take 16
    fDigest a = (digestOfHandle s 1 1).take 16 ∧ fFirst a + fCount a = 10 ∧ fFirst a - fSeq a * serT (parseProfile (objBytes s 1 1)) 0 = 0 := by decide +kernel
/-- A pulled shelf with one remote drawer whose READ is in flight. -/
def rsh : Shelf := { shf with pull := some { peer := 2, inFlight := [(0, 0)] }, drawers := [{ loc := .remote }], digest := List.replicate 32 5 }
theorem test_remoteDrawerRead : hostReach (kv rsh []) = true ∧ (getDrawer rsh 0 0).any (fun d => decide (d.loc = .remote)) = true ∧
    (let f := drw 0 0 0 6 ++ List.replicate 16 5
     fKind f = 0 ∧ fHead f = 0 ∧ fSeq f = 0 ∧ fDigest f = rsh.digest.take 16 ∧ (arrivedDrawer (kv rsh []) rsh { loc := .remote } f).count = 6 ∧
       (arrivedDrawer (kv rsh []) rsh { loc := .remote } f).gen = 3) := by decide +kernel
theorem test_pullSweep : sweepFlight (kv { rsh with pull := some { peer := 2 } } []) 0 < 64 ∧
    (sweepList { peered (kv { rsh with pull := some { peer := 2 } } []) with qps := [(0x100003, qp1)] } (shelfDie rsh)).head? = some (0, (0, 0)) := by decide +kernel

/-- A `MIRROR_SET` to node 9 in a mode. -/
def mset1 (m : Nat) : List Byte := dsc 0x21 1 [(0x10, 8, 7), (0x18, 4, 9), (0x1C, 1, m)]
theorem test_mirrorSet_off : ∃ (id : Nat) (r : Req) (s1 : State), Admits (kv shf [mset1 0]) (5 : Fin 4096).val 0x21 id r s1 ∧
    ((lookup s1 (dKey r.desc)).any (fun e => decide (e.2.state ≠ .lost) && !e.2.copy && e.2.link.isNone) && decide (le r.desc 0x1C 1 = 0)) = true := admits_some (by decide +kernel)
theorem test_mirrorSet_sync : ∃ (id : Nat) (r : Req) (s1 : State), Admits (wr (peered (kv shf [mset1 1])) (pgPart 1 + 0x148) 0x10) (5 : Fin 4096).val 0x21 id r s1 ∧
    (inboxOn s1 r.part && decide (peerOf s1 r.part (le r.desc 0x18 4) = some 2)) = true := admits_some (by decide +kernel)
theorem test_mirrorSet_no_inbox : ∃ (id : Nat) (r : Req) (s1 : State), Admits (kv shf [mset1 2]) (5 : Fin 4096).val 0x21 id r s1 ∧
    (!inboxOn s1 r.part) = true := admits_some (by decide +kernel)
/-- An entry of R413 of a kind, number 5, for the shelf. -/
def ent (kind pos : Nat) : List Byte := meEntry kind 0 5 { part := 1, conv := 7 } pos 0 []
def copied : State := wr (peered (kv { shf with copy := true, copyPeer := 2 } [])) (pgPart 1 + 0x148) 0x10
theorem test_mirrorEntry : hostReach copied = true ∧ (ent 3 2).length = 64 ∧ le (ent 3 2) 4 4 = 64 ∧ le (ent 3 2) 0 1 = 3 ∧ inboxOn copied 1 = true ∧
    peerValid copied 1 2 = true ∧ partOpen copied 1 = true ∧ (copied.part 1).state ≠ .fenced ∧ peerExcluded copied 1 2 = false ∧
    (lookup copied (meKey 1 (ent 3 2))).any (fun e => decide (e.2.state = .live) && e.2.copy && decide (e.2.copyPeer = 2)) = true := by decide +kernel
theorem test_mirrorEntry_trim : after (.mirrorEntry 1 2 (ent 3 2)) copied (fun t => (t.shelf? 0).any (fun x => decide (x.start = 2))) = true := by decide +kernel
theorem test_mirrorEntry_lost : (lookup copied (meKey 1 (meEntry 3 0 5 { part := 1, conv := 8 } 2 0 []))) = none := by decide +kernel
theorem test_mirrorAck : let s := { wr (pulled (srv [])) (pgPart 1 + 0x148) 0x10 with links := [(7, { part := 1, peer := 2, sent := [(5, 64)] })] }
    (devRead s 1 (refAddr (rd64 s (pgPart 1 + 0x140)) + 2 * inboxBytes s 1 + 8) 12).1.isSome = true ∧ linksTo s 1 2 = [7] := by decide +kernel
theorem test_mirrorStall : after (.mirrorStall 7) { srv [] with time := { ns := 100000000 }, links := [(7, { part := 1, sent := [(5, 64)], since := some 0 })] }
    (fun t => (tget? t.links 7).any (fun x => x.stalled) && bit (rd t (pgPart 1 + 0x10)) 3) = true := by decide +kernel

/-- A load of a seed (kind 3), its eight bytes at 0x40000. -/
def ldd (h : Nat) : List Byte := dsc 0x30 1 [(0x0C, 1, 3), (0x0E, 2, h), (0x10, 8, 0x40000), (0x18, 4, 8)]
def quoted (s : State) : State := wr s (pgPart 1 + 0x200) 1024
theorem test_load : ∃ (id : Nat) (r : Req) (s1 : State), Admits (quoted (srv [ldd 0])) (5 : Fin 4096).val 0x30 id r s1 ∧
    (lenRange (le r.desc 0x0C 1) (le r.desc 0x18 4) && decide (le r.desc 0x0E 2 = 0)) = true := admits_some (by decide +kernel)
/-- R131: an object goes under the lowest free handle, and counts in the chain. -/
theorem test_load_handle : after (.load 5) (quoted { srv [ldd 0] with objects := [(65537, { kind := 5 })] })
    (fun t => (tget? t.objects 65538).any (fun o => decide (o.kind = 3 ∧ o.bytes.length = 8)) && decide ((t.part 1).nload = 1)) = true := by decide +kernel
theorem test_load_taken : ∃ (id : Nat) (r : Req) (s1 : State), Admits (quoted { srv [ldd 1] with objects := [(65537, { kind := 5 })] }) (5 : Fin 4096).val 0x30 id r s1 ∧
    (tget? s1.objects (65536 * r.part + le r.desc 0x0E 2)).isSome = true := admits_some (by decide +kernel)
def unl (h : Nat) : List Byte := dsc 0x31 1 [(0x0C, 2, h)]
theorem test_unload : after (.unload 5) { srv [unl 1] with objects := [(65537, { kind := 5 })] } (fun t => (tget? t.objects 65537).any (fun o => o.unloading)) = true := by decide +kernel
/-- R119: step 4 refuses an `UNLOAD` of a handle that no object has, or of one that is marked already. -/
theorem test_unload_none : ([[], [(65537, { kind := 5, unloading := true })]] : List (Tab Obj)).all (fun o =>
    (frontDesc { srv [unl 1] with objects := o } 5 (fun d => decide (dOpcode d = 0x31) && !dArm d)).any (fun x =>
      let s := { srv [unl 1] with objects := o }.setRing 5 x.2.2
      let q := passStep2 (newId s).2 { ring := 5, desc := x.2.1, order := (newId s).1, part := x.2.2.part, src := x.1 }
      decide (le x.2.1 2 2 = x.2.2.part ∧ q.1.desc = x.2.1 ∧ dOpcode x.2.1 = 0x31 ∧ stateFail q.2 q.1 = none) &&
        ((tget? q.2.objects (65536 * q.1.part + le x.2.1 0x0C 2)).isNone || (tget? q.2.objects (65536 * q.1.part + le x.2.1 0x0C 2)).any (fun y => y.unloading)))) = true := by
  decide +kernel
theorem test_objectFree : objRefs (srv []) 1 1 = 0 ∧ after (.objectFree 1 1) { srv [] with objects := [(65537, { kind := 5, unloading := true })] } (fun t => decide (t.objects = [])) = true := by
  decide +kernel

/-- A fence token of 64 bytes that announces a signature of 2,420, read from 0x40000. -/
def fnc : List Byte := dsc 0x3F 1 [(0x0C, 4, 1), (0x10, 8, 0x40000), (0x18, 2, 2484)]
theorem test_fence : ∃ (id : Nat) (r : Req) (s1 : State), Admits (srv [fnc]) (5 : Fin 4096).val 0x3F id r s1 ∧
    (decide (refFail s1 r.part r.desc 0x10 (le r.desc 0x18 2) = none) && (refRead s1 r.part (le r.desc 0x10 8) 64).1.isSome) = true := admits_some (by decide +kernel)
/-- R400: a token of kind 0 with its fields is well formed; with another magic number it is refused at its reference, and with no fence key it does not verify. -/
theorem test_fence_token : let b := leBytes 4 0x4B544E46 ++ [1, 0, 0, 1] ++ leBytes 4 0 ++ leBytes 4 1 ++ List.replicate 2468 0
    tokenBad fnc b 1 = none ∧ tokenBad fnc (0 :: b.drop 1) 1 = some 0x10 ∧ tkEpoch b = 1 ∧ tkKind b = 0 ∧ tokenOk (srv []) 1 b = false := by
  decide +kernel
theorem test_fenceComplete : after (.fenceComplete 1) { srv [] with parts := [(1, { state := .live, fences := [{ req := 4 }] })], reqs := [(4, { ring := 5, desc := fnc, part := 1 })] }
    (fun t => decide (t.reqs = [] ∧ (t.part 1).fences = [])) = true := by decide +kernel
theorem test_rejoin : ((applyRejoin { srv [] with parts := [(1, { state := .fenced, graceEnd := some 3 })] } 1).part 1).state = .live := by decide +kernel
theorem test_graceWindowClose : after (.graceWindowClose 1) { srv [] with parts := [(1, { state := .live, graceEnd := some 0 })] } (fun t => decide ((t.part 1).graceEnd = none)) = true := by
  decide +kernel
theorem test_graceWindowClose_early : stewardMs { srv [] with parts := [(1, { state := .live, graceEnd := some 1 })] } < 1 := by decide +kernel
/-- R419: a lease of 10 ms has run out, and the partition is fenced. -/
theorem test_leaseExpiry : after .leaseExpiry { wr (srv []) (pgPart 1 + 0x120) 10 with time := { ns := 11000000 } }
    (fun t => decide ((t.part 1).state = .fenced) && (t.part 1).leaseFenced) = true := by decide +kernel
theorem test_leaseExpiry_up : anyPortUp { srv [] with ports := [(0, { up := true })] } = true := by decide
theorem test_meteringHour : after (.meteringHour 1) (wr (wr (srv []) (pgPart 1 + 0x168) 0x10) (pgPart 1 + 0x160) 0x70000)
    (fun t => decide ((t.part 1).pseq = 1 ∧ rd t (pgPart 1 + 0x16C) = 1)) = true := by decide +kernel
theorem test_meteringHour_held : rdf (srv []) (pgPart 1 + 0x168) 4 1 = 0 ∧ after (.meteringHour 1) (srv []) (fun t => (t.part 1).mtrHeld) = true := by decide +kernel

/-- Partition 2 with a tile, a way and a pseudo-channel staged, its `PART_CFG` word, and a quota in MiB. -/
def staged (v q : Nat) : State := wr (wr (wr (wr (wr (srv []) (pgPart 2 + 0x180) 1) (pgPart 2 + 0x198) 2) (pgPart 2 + 0x300) 4) (pgPart 2 + 0x108) v) (pgPart 2 + 0x200) q
theorem test_partCreate : HostMay (staged 0 64) (pgPart (2 : Fin 32).val) ∧ ((staged 0 64).part 2).busy = false ∧ RmTakes (staged 0 64) 0 ∧
    mapsEmpty (staged 0 64) 2 = false ∧ mapsTaken (staged 0 64) 2 = false ∧ partCharge (takeMaps (staged 0 64) 2) 2 ≤ quotaBytes (takeMaps (staged 0 64) 2) 2 :=
  ⟨hostMay_of (by decide), by decide, rmTakes_of (by decide), by decide +kernel, by decide +kernel, by decide +kernel⟩
theorem test_partCreate_live : after (.partCreate 2) (staged 0 64) (fun t => decide ((t.part 2).state = .live ∧ tget? t.tileOwner 0 = some 2)) = true := by decide +kernel
/-- R391: the refusals of a creation. -/
theorem test_partCreate_refused : after (.partCreate 1) (srv []) (fun t => decide (rdf t (pgPart 1 + 0x104) 4 4 = 5)) = true ∧ mapsEmpty (srv []) 2 = true ∧
    mapsTaken { staged 0 64 with tileOwner := [(0, 1)] } 2 = true ∧ quotaBytes (takeMaps (staged 0 0) 2) 2 < partCharge (takeMaps (staged 0 0) 2) 2 := by decide +kernel
theorem test_partApplyMaps : let s := { staged 0 64 with parts := [(2, { state := .live })], tileOwner := [(0, 2), (5, 2)] }
    mapsEmpty s 2 = false ∧ mapsTaken s 2 = false ∧ after (.partApplyMaps 2) s (fun t => decide ((t.part 2).rmTiles = [5] ∧ (t.part 2).busy = true)) = true := by decide +kernel
theorem test_mapRemovalDone : after (.mapRemovalDone 2) { srv [] with parts := [(2, { state := .live, rmTiles := [5], busy := true })], tileOwner := [(0, 2), (5, 2)] }
    (fun t => decide ((t.part 2).rmTiles = [] ∧ t.tileOwner = [(0, 2)] ∧ (t.part 2).busy = false)) = true := by decide +kernel
theorem test_partReset : after (.partReset 1) (srv []) (fun t => decide ((t.part 1).state = .resetting ∧ (t.part 1).busy = true)) = true := by decide +kernel
theorem test_partResetDone : let s := { srv [] with parts := [(1, { state := .resetting, busy := true })], rings := [(5, rng 3)] }
    partQuiet s 1 = true ∧ after (.partResetDone 1) s (fun t => decide ((t.part 1).state = .live) && (tget? t.rings 5).any (fun g => decide (g.ci = 3))) = true := by decide +kernel
theorem test_partDestroy : after (.partDestroy 1) (srv []) (fun t => decide ((t.part 1).state = .destroying) && (tget? t.rings 5).any (fun g => g.destroying)) = true := by decide +kernel
theorem test_partDestroyDone : let s := { srv [] with rings := [], parts := [(1, { state := .destroying, step := 2 })], tileOwner := [(5, 1)] }
    ringsOf s 1 = [] ∧ after (.partDestroyDone 1) s (fun t => decide ((t.part 1).state = .free ∧ t.tileOwner = [])) = true := by decide +kernel
/-! #### Runs, passes and the score sheet -/

/-- Shelf 0 with one K and one V drawer of head 0 in a stack, two records each. -/
def drs (k : Nat) : Shelf := { shf with
  drawers := [{ series := 0, count := 2, data := List.replicate 64 0, loc := .hbm { stack := k } }, { series := 1, count := 2, data := List.replicate 64 0, loc := .hbm { stack := k, pc := 1 } }],
  base := 1, start := 1, visible := 3, endPos := 3 }
/-- A run over the two drawers in a phase. -/
def rn (ph : RunPhase) : Run := { drawers := [0], vs := [(0, 2)], stack := some 8, phase := ph }
/-- An `ATTEND` of a mode. -/
def atm (m : Nat) : List Byte := dsc 1 1 [(0x10, 8, 7), (0x18, 8, 0x40000), (0x20, 2, 1), (0x25, 1, 16 * m)]
/-- Request 4 on shelf 0 over positions 1 and 2 with one run; tile 0, way 0 and pseudo-channel 0 of every stack are the partition's. -/
def running1 (k m : Nat) (f : Req → Req) (x : Run) : State := { kv (drs k) [] with
  tileOwner := [(0, 1)], wayOwner := [(0, 1)], pcOwner := (List.range 16).map (fun k => (64 * k, 1)),
  reqs := [(4, f { ring := 5, desc := atm m, part := 1, shelf := some 0, lo := 1, snap := 3, query := List.replicate 16 0, cfmt := 1, bucket := some 0, runs := [x] })] }
theorem test_runDispatch : let s := running1 8 0 id (rn .queued)
    noService s = false ∧ (tget? s.reqs 4).any (fun r => hasTurn s 4 r (queueDie r (rn .queued)) && tileOk s r.part 4 0 0 (0 : Fin 192).val && tileBest s (drs 8) r.part 4 0 0 (rn .queued) 0) = true ∧
      (runDrawers (rn .queued)).any (unreachable s (drs 8)) = false ∧ tileSeg s 1 (0 / 48) (segBytes (drs 8) 1 (rn .queued)) = some 8 := by decide +kernel
/-- R147: the run starts on its tile, thread 0, with every key of its range scored. -/
theorem test_runDispatch_scores : after (.runDispatch 4 0 (some 0)) (running1 8 0 id (rn .queued))
    (fun t => (tget? t.reqs 4).any (fun r => r.runs.any (fun x => decide (x.phase = .scoring ∧ x.tile = 0 ∧ x.thread = 0 ∧ x.scores.length = 2)))) = true := by decide +kernel
/-- The run in a front stack whose booths are enabled and hold a script for the shelf: one micro-op, `END`. -/
def onBooths : State := { wr (running1 0 0 (fun r => { r with boothOk := true }) { rn .queued with stack := some 0 }) (pgBth 0 0 + 0x100) 1 with
  fstacks := [(0, { script := [0x0B * 2 ^ 27], desc := [[0, 1, 1, 1, 0, 0x80, 1, 0]] })] }
theorem test_runDispatch_booths : let x := { rn .queued with stack := some 0 }
    (tget? onBooths.reqs 4).any (fun r => hasTurn onBooths 4 r (queueDie r x) && tileOk onBooths r.part 4 0 0 0 && tileBest onBooths (drs 0) r.part 4 0 0 x 0 &&
      decide (acceptRun onBooths 4 r (drs 0) x 0 = some (0, 0, false))) = true ∧
    segFits onBooths 1 0 (segBytes (drs 0) 1 x) = true ∧ x.drawers.all (fun j => decide (kStack (drs 0) x.head j = some 0)) = true := by decide +kernel
theorem test_runDispatch_jobs : after (.runDispatch 4 0 (some 0)) onBooths (fun t => decide (((t.booth 0).queue.map (fun j => (j.count, j.first, j.lower, j.snap))) = [(2, 1, 1, 3)])) = true := by
  decide +kernel
/-- A run of another die's scheduler is handed to it (R141), one that lies behind a disabled stack is lost, an upset of the scheduler ends the request (R284), and
a bucket that is not next waits. -/
theorem test_runDispatch_other : let s := { running1 8 0 id (rn .queued) with tileOwner := [(50, 1)], wayOwner := [(48, 1)] }
    (tget? s.reqs 4).any (fun r => hasTurn s 4 r 0 && tileOk s r.part 4 0 0 50 && tileBest s (drs 8) r.part 4 0 0 (rn .queued) 50) = true ∧
    after (.runDispatch 4 0 (some 50)) s (fun t => (tget? t.reqs 4).any (fun r => r.runs.all (fun x => decide (x.sched = some 1 ∧ x.phase = .queued)))) = true ∧
    after (.runDispatch 4 0 none) s (fun t => decide (t.reqs = [])) = true := by decide +kernel
theorem test_runDispatch_lost : let s := { running1 8 0 id (rn .queued) with hbm := [(8, { fenced := true })] }
    (runDrawers (rn .queued)).any (unreachable s (drs 8)) = true ∧
    (tget? s.reqs 4).any (fun r => hasTurn s 4 r 0 && tileOk s r.part 4 0 0 0 && tileBest s (drs 8) r.part 4 0 0 (rn .queued) 0) = true := by decide +kernel
theorem test_runDispatch_refused : let x := { rn .queued with stack := some 0 }
    (tget? (running1 0 0 (fun r => { r with boothOk := true }) x).reqs 4).any (fun r =>
      decide (acceptRun (running1 0 0 (fun r => { r with boothOk := true }) x) 4 r (drs 0) x 0 = none)) = true ∧
    tileSeg (running1 0 0 (fun r => { r with boothOk := true }) x) 1 0 (segBytes (drs 0) 1 x) ≠ none := by decide +kernel
theorem test_bucketWait : after (.bucketWaitExceeded 4) { running1 8 0 id (rn .queued) with time := { ns := 100001 } }
    (fun t => (tget? t.reqs 4).any (fun r => r.urgent)) = true ∧ inBucket { runs := [rn .queued] } = true := by decide +kernel
/-- R154: over zero keys both scores are 0: m is 0, and two positions were seen. -/
theorem test_passN : after (.passN 4 { run := 0 }) (running1 8 0 id { rn .scoring with scores := [(0, 0), (1, 0)] })
    (fun t => (tget? t.reqs 4).any (fun r => r.runs.any (fun x => decide (x.phase = .normed ∧ x.m = [0] ∧ x.n = 2)))) = true := by decide +kernel
theorem test_passN_poisoned : scored { rn .scoring with poisoned := true } = true := by decide
theorem test_passV : let s := running1 8 0 id { rn .normed with scores := [(0, 0), (1, 0)], probs := [(0, 0x3F80), (1, 0x3F80)] }
    (readDrawers s ((runV (rn .normed)).filterMap (fun v => getDrawer (drs 8) 1 v))).1 = none ∧ (readSegment s 4 0 (rn .normed)).1 = true ∧
    (runV (rn .normed)).any (fun v => unreachable s (drs 8) (1, v)) = false ∧
    after (.passV 4 { run := 0 }) s (fun t => (tget? t.reqs 4).any (fun r => r.runs.any (fun x => decide (x.phase = .done ∧ x.o.length = 1 ∧ x.segStack = none)))) = true := by
  decide +kernel
theorem test_passV_damaged : (readDrawers { running1 8 0 id (rn .normed) with hbm := [(8, { poison := [((placeLines { stack := 8, pc := 1 }).1, 0)] })] }
    ((runV (rn .normed)).filterMap (fun v => getDrawer (drs 8) 1 v))).1 = some (8, (placeLines { stack := 8, pc := 1 }).1) := by decide +kernel
/-- R284: an upset of the tile store ends the request; R167: a poisoned segment starts it anew. -/
theorem test_pass_upset : after (.passV 4 { run := 0, upset := true }) (running1 8 0 id (rn .normed)) (fun t => decide (t.reqs = [])) = true ∧
    after (.passN 4 { run := 0, upset := true }) (running1 8 0 id { rn .scoring with scores := [(0, 0), (1, 0)] }) (fun t => decide (t.reqs = [])) = true ∧
    (readSegment { srv [] with hbm := [(8, { poison := [(77, 1)], uses := [(77, .segment 4 0)] })] } 4 0 (rn .normed)).1 = false := by decide +kernel
theorem test_combine : (route0 (running1 8 0 id { rn .done with m := [0], l := [0x40000000], o := [List.replicate 16 0], n := 2 })).reqs.all
    (fun e => decide (dOpcode e.2.desc = 1 ∧ e.2.bucket ≠ none ∧ reqMode e.2.desc = 0) && e.2.runs.all (fun x => decide (x.phase = .done))) = true := by decide +kernel
theorem test_combine_topm : reqMode (atm 1) = 1 ∧ reqMode (atm 2) = 2 := by decide +kernel
theorem test_netLoop : let r : Req := { desc := atm 2, runs := [rn .normed], bucket := some 0 }
    roundsNormed r = true ∧ r.sel.stopped = none ∧ (epsHats (drs 8) r 0).all (fun e => !flt (reqEps r.desc) e) = true := by decide +kernel
/-- A candidate drawer left out whose bound is not known keeps the loop going: nothing may be chosen, and it stops. -/
theorem test_netLoop_open : let r : Req := { desc := atm 2, runs := [rn .normed], bucket := some 0, sel := { omitted := [{}], e := [0x3F800000], bref := [0] } }
    (epsHats (drs 8) r 0).all (fun e => !flt (reqEps r.desc) e) = false := by decide +kernel
theorem test_scoreSheet : let x := { rn .scoring with segStack := some 8 }
    segRuns (running1 8 0 id x) { runs := [x] } = [x] ∧ segRuns (running1 8 0 id x) { runs := [x, x] } = [x, x] := by decide
/-- R168: the first score-sheet failure starts the request's rounds again, marked as retried and without booths. -/
theorem test_sheetFailure_first : (match tget? (sheetFailure (running1 8 0 id (rn .scoring)) 4 ({ ring := 5, desc := atm 0, part := 1, shelf := some 0, lo := 1, snap := 3 }) 0).reqs 4 with
    | some q => decide (q.fails = 1 ∧ q.retried = true ∧ q.booth = false) | none => false) = true := by decide +kernel
theorem test_sheetFailure_second : (sheetFailure (running1 8 0 id (rn .scoring)) 4 { ring := 5, desc := atm 0, part := 1, shelf := some 0, fails := 1 } 0).reqs = [] := by decide +kernel

/-! #### Booths -/

/-- Booth 0 with a job of request 4, at entry 0 of a script of one word. -/
def bth (w : Nat) (y : Booth) : State := { running1 0 0 id { rn .scoring with booth := true, jobsLeft := 1 } with
  booths := [(0, { y with job := some { runLen := 1, count := 2, first := 1, lower := 1, snap := 3, t := 1024, req := 4 } })],
  fstacks := [(0, { script := [BitVec.ofNat 32 w], desc := [[0, 1, 1, 1, 0, 0x80, 1, 0]],
                    slots := [(0, { req := 4, part := 1, cfmt := 1, g := 1, d := 16, cd := 0x3E800000, query := List.replicate 16 0x3F80 })] })] }
/-- The next state of a micro-op of booth 0 passes a check of the booth. -/
def upon (c : Instr) (w : Nat) (y : Booth) (p : Booth → Bool) : Bool := after c (bth w y) (fun t => p (t.booth 0))
/-- The running job. -/
def jb : Job := { runLen := 1, count := 2, first := 1, lower := 1, snap := 3, t := 1024, req := 4 }
theorem test_issues : Issues (bth (0x00 * 2 ^ 27) {}) (0 : Fin 4096).val 0x00 jb (0x00 * 2 ^ 27) := issues_of (by decide)
theorem test_issues_end : Issues (bth (0x0B * 2 ^ 27) {}) (0 : Fin 4096).val 0x0B jb (0x0B * 2 ^ 27) ∧ (({} : Booth).stopReq = false) := ⟨issues_of (by decide), by decide⟩
theorem test_uopNop : upon (.uopNop 0) 0 {} (fun y => decide (y.entry = 1)) = true := by decide +kernel
/-- R196: a second row of the same bank closes the first. -/
theorem test_uopAct : upon (.uopAct 0) (0x01 * 2 ^ 27 + 8 * 1024) { rows := [0, 1] } (fun y => decide (y.rows = [1, 8])) = true := by decide +kernel
theorem test_uopRd : upon (.uopRd 0) (0x02 * 2 ^ 27 + 32) { rows := [0], winHi := some 0 } (fun y => decide (y.winLo = some 0 ∧ y.winHi = some 1 ∧ y.entry = 1)) = true := by decide +kernel
/-- It waits for its row. -/
theorem test_uopRd_waits : upon (.uopRd 0) (0x02 * 2 ^ 27 + 32) {} (fun y => decide (y.entry = 0)) = true := by decide +kernel
/-- R221: an uncorrectable key line ends the request. -/
theorem test_uopRd_uncorrectable : after (.uopRd 0) { bth (0x02 * 2 ^ 27) { rows := [0] } with hbm := [(0, { poison := [((placeLines (jobPlace 0 jb)).1, 0)] })] }
    (fun t => decide (t.reqs = [] ∧ (t.booth 0).job = none) && (t.shelf? 0).any (fun x => x.damaged)) = true := by decide +kernel
/-- R220: a good key line is read; a line of a fenced place with changed symbols is another matter (`test_scrub_fixed`). -/
theorem test_boothLine_good : lineOut (bth 0 {}) 0 (placeLines (jobPlace 0 jb)).1 = .good ∧
    lineOut { bth 0 {} with hbm := [(0, { poison := [(5, 1)] })] } 0 5 = .poison ∧
    (drawerAt (bth 0 {}) (jobPlace 0 jb)).isSome = true := by decide +kernel
theorem test_uopSeti : upon (.uopSeti 0) (0x08 * 2 ^ 27 + 3 * 2 ^ 20 + 0xFFFF) {} (fun y => decide (y.sc.getD 3 0 = 0xFFFF)) = true := by decide +kernel
/-- R202: the immediate of ADDI is signed. -/
theorem test_uopAddi : upon (.uopAddi 0) (0x09 * 2 ^ 27 + 3 * 2 ^ 20 + 0xFFFF) {} (fun y => decide (y.sc.getD 3 0 = 0xFFFFFFFF)) = true := by decide +kernel
theorem test_uopLoop : upon (.uopLoop 0) (0x0A * 2 ^ 27 + 1 * 2 ^ 20 + 7) { sc := [0, 2, 0, 0, 0, 0, 0, 0] } (fun y => decide (y.entry = 7 ∧ y.sc.getD 1 0 = 1)) = true ∧
    upon (.uopLoop 0) (0x0A * 2 ^ 27 + 1 * 2 ^ 20 + 7) { sc := [0, 1, 0, 0, 0, 0, 0, 0] } (fun y => decide (y.entry = 1)) = true := by decide +kernel
theorem test_uopExp : upon (.uopExp 0) (0x03 * 2 ^ 27 + 2 * 2 ^ 23) { win := List.replicate 64 0x40, winHi := some 0 }
    (fun y => decide (y.v.getD 2 [] = List.replicate 16 0x4040)) = true := by decide +kernel
theorem test_uopExp_group : upon (.uopExp 0) (0x03 * 2 ^ 27 + 2 ^ 19) { win := List.replicate 32 0 ++ [0x80, 0x3F, 0xFF, 0] ++ List.replicate 28 0, winHi := some 0 }
    (fun y => decide (y.sc.getD 6 0 = 0x3F800000 ∧ y.sc.getD 7 0 = 0xBF800000)) = true := by decide +kernel
/-- R195: sixteen products of 1 by 1 add up to 16. -/
theorem test_uopDotg : upon (.uopDotg 0) (0x04 * 2 ^ 27 + 1 * 2 ^ 24) { v := List.replicate 8 (List.replicate 16 0x3F80) }
    (fun y => decide ((y.a.getD 1 []).getD 0 0 = 0x41800000 ∧ (y.a.getD 1 []).getD 1 0 = 0)) = true := by decide +kernel
theorem test_uopGsc : upon (.uopGsc 0) (0x05 * 2 ^ 27 + 1 * 2 ^ 24) { a := List.replicate 4 (List.replicate 16 0x40000000), sc := [0, 0, 0, 0, 0, 0, 0x3F800000, 0] }
    (fun y => decide ((y.a.getD 1 []).getD 0 0 = 0x40800000 ∧ y.a.getD 0 [] = List.replicate 16 0)) = true := by decide +kernel
/-- R207: a score in the seen range goes into the score plane, scaled by c_d. -/
theorem test_uopSst : after (.uopSst 0) (bth (0x06 * 2 ^ 27 + 1) { a := List.replicate 4 (List.replicate 16 0x41800000) })
    (fun t => (tget? t.reqs 4).any (fun r => r.runs.any (fun x => decide (x.scores = [(1, 0x40800000)])))) = true := by decide +kernel
theorem test_uopEnd : upon (.uopEnd 0) (0x0B * 2 ^ 27) {} (fun y => y.ended) = true := by decide +kernel
theorem test_boothJobStart : let s := { bth 0 {} with booths := [(0, { queue := [jb] })] }
    noService s = false ∧ (s.booth (0 : Fin 4096).val).job = none ∧ (s.booth 0).park = .no ∧ dieRefresh s 0 = none ∧ bthPart s 0 = some (jobSlot s 0 jb).part ∧
    after (.boothJobStart 0) s (fun t => decide ((t.booth 0).job = some jb ∧ (t.booth 0).sc.getD 1 0 = 2)) = true := by decide +kernel
theorem test_collectorJobDone : after (.collectorJobDone 0) (bth 0 { ended := true }) (fun t => decide ((t.booth 0).job = none) &&
    (tget? t.reqs 4).any (fun r => r.runs.all (fun x => decide (x.jobsLeft = 0)))) = true := by decide +kernel
theorem test_collectorJobDone_gone : let s := { bth 0 { ended := true } with reqs := [] }
    tget? (jobDone (putBooth s 0 { s.booth 0 with job := none, ended := false, rows := [], stopReq := false }) jb false).reqs 4 = none := by decide +kernel
theorem test_boothRestart : after (.boothRestart 0) (bth 0 {}) (fun t => decide ((t.booth 0).restarted = true)) = true ∧
    after (.boothRestart 0) (bth 0 { restarted := true }) (fun t => (t.booth 0).disabled) = true := by decide +kernel
theorem test_boothJobTimeout : after (.boothJobTimeout 0) (bth 0 {}) (fun t => (t.booth 0).disabled && (tget? t.reqs 4).any (fun r => r.runs.all (fun x => x.poisoned))) = true := by
  decide +kernel
theorem test_jobReq : jobReq (bth 0 {}) jb ≠ none ∧ jobReq (bth 0 {}) { jb with try_ := 1 } = none ∧ (scoreLines (bth 0 {}) 0 { jb with seg := 64 * 40128 * 516 }).head? = some (40128 * 516) ∧
    lineDrawer (bth 0 {}) 0 (40128 * 516) = none := by decide +kernel
/-- R223: a booth that fails its self-check in `TRAIN` is disabled. -/
theorem test_boothJobTimeout_train : after (.boothJobTimeout 0) { srv [] with dev := { state := .train } } (fun t => (t.booth 0).disabled) = true := by decide +kernel
theorem test_scriptWindowWrite : entryHeld (srv []) (1 : Fin 8).val (63 : Fin 64).val = false ∧
    after (.scriptWindowWrite 1 63 5) (srv []) (fun t => decide ((t.fstack 1).script.getD 63 0 = 5)) = true ∧
    entryHeld { srv [] with fstacks := [(0, { desc := [[0, 1, 1, 1, 0, 0x80, 1, 0]] })] } 0 0 = true := by decide +kernel
theorem test_scriptDescriptor : scriptOk [0x0B * 2 ^ 27] [0, 1, 1, 1, 0, 0x80, 1, 0] = true ∧ scriptOk [0x0C * 2 ^ 27] [0, 1, 1, 1, 0, 0x80, 1, 0] = false ∧
    scriptBusy (bth 0 {}) 0 0 = true ∧ scriptBusy (bth 0 {}) 0 1 = false := by decide +kernel
/-- R214: a bank without an open row is refreshed at once; an open one is postponed, and the third interval asks the booth to park. -/
theorem test_perBankRefresh : after (.perBankRefresh 0 3) { bth 0 {} with fstacks := [(0, { owed := [(3, 2)] })] } (fun t => decide (owed t 0 3 = 0)) = true ∧
    after (.perBankRefresh 0 3) { bth 0 { rows := [3], atEnd := false } with fstacks := [(0, { owed := [(3, 2)] })] } (fun t => decide (owed t 0 3 = 3) && (t.booth 0).askPark) = true ∧
    after (.perBankRefresh 0 3) (bth 0 { rows := [3] }) (fun t => decide (owed t 0 3 = 1)) = true := by decide +kernel
/-- The third postponed interval at a step end is served at once. -/
theorem test_perBankRefresh_forced : after (.perBankRefresh 0 3) { bth 0 { rows := [3] } with fstacks := [(0, { owed := [(3, 2)] })] } (fun t => decide (owed t 0 3 = 0)) = true := by
  decide +kernel
theorem test_allBankRefresh : (match exec (.allBankRefresh 2 15) (srv []) with | .next t => decide (tget? (t.fstack 2).abr 15 = some .issued) | _ => false) = true := by decide +kernel
theorem test_allBankRefresh_quiet : ∀ q : Nat, q < 32 → running ((srv []).booth (boothNo 2 (32 * 15 + q))) = false := fun _ _ => rfl
theorem test_refreshComplete : after (.refreshComplete 2 15) { srv [] with fstacks := [(2, { abr := [(15, .issued)] })] } (fun t => decide (tget? (t.fstack 2).abr 15 = none)) = true := by
  decide +kernel
theorem test_boothPark : after (.boothPark 0) { bth 0 {} with fstacks := [(0, { abr := [(0, .due)] })] } (fun t => decide ((t.booth 0).park = .refresh ∧ tget? (t.fstack 0).abr 0 = some .issued)) = true ∧
    after (.boothPark 0) { bth 0 { rows := [3], askPark := true } with fstacks := [(0, { owed := [(3, 3)] })] } (fun t => decide (owed t 0 3 = 0)) = true ∧
    after (.boothPark 0) (bth 0 { waits := [3], rows := [3, 12] }) (fun t => decide ((t.booth 0).serviced ∧ (t.booth 0).waits = [] ∧ (t.booth 0).rows = [12] ∧ (t.booth 0).park = .access)) = true := by
  decide +kernel

/-! #### Tiers -/

/-- Partition 1 with pseudo-channel 0 of back stack 8, of which its scratch reserve leaves no place free. -/
def tight (s : State) (n : Nat) : State := { s with pcOwner := [(512, 1)], parts := [(1, { (s.part 1) with scratch := n })] }
theorem test_demotion_start : let s := tight (kv (drs 8) []) 1270
    tierTotal s (1 : Fin 32).val false = 40128 ∧ tierFree s 1 false = 0 ∧ s.tiers.active.contains (1, false) = false ∧ eligibles s 1 false = [] := by decide +kernel
theorem test_demotion_rest : let s := tight (kv (drs 8) []) 16
    tierFree s 1 false * 64 ≥ tierTotal s 1 false ∧ after (.demotion 1 false) { s with tiers := { active := [(1, false)] } } (fun t => decide (t.tiers.active = [])) = true := by decide +kernel
/-- A drawer that is not its series' open one is eligible. -/
theorem test_demotion_drawer : let d : Drawer := { count := 1024, data := [], loc := .hbm { stack := 8 } }
    (oldest (eligibles (tight (kv { shf with drawers := [d] } []) 1270) 1 false) 5) = some (0, 0, 0, 0) := by decide +kernel
/-- Shelf 0 with its K drawer moving to a place. -/
def mv (l : Loc) : Shelf := { drs 8 with drawers := [{ count := 2, data := List.replicate 64 0, loc := .hbm { stack := 8 }, moving := some l }] }
theorem test_moveEnd_hbm : beingRead (kv (mv (.hbm { stack := 9 })) []) 0 0 0 = false ∧ (readDrawer (kv (mv (.hbm { stack := 9 })) []) { loc := .hbm { stack := 8 } }).1 = none ∧
    after (.moveEnd 0 0 0) (kv (mv (.hbm { stack := 9 })) []) (fun t => (t.shelf? 0).any (fun x => (getDrawer x 0 0).any (fun d => decide (d.loc = .hbm { stack := 9 } ∧ d.moving = none)))) = true := by
  decide +kernel
theorem test_moveEnd_cab : after (.moveEnd 0 0 0) (kv (mv (.cab 0)) [])
    (fun t => (t.shelf? 0).any (fun x => (getDrawer x 0 0).any (fun d => decide (d.loc = .cab 0))) && decide (t.cab.units.length = 1)) = true := by decide +kernel
theorem test_moveEnd_readOnly : after (.moveEnd 0 0 0) { kv (mv (.cab 0)) [] with cab := { readOnly := true } }
    (fun t => (t.shelf? 0).any (fun x => (getDrawer x 0 0).any (fun d => decide (d.loc = .hbm { stack := 8 } ∧ d.moving = none)))) = true := by decide +kernel
theorem test_moveEnd_damaged : after (.moveEnd 0 0 0) { kv (mv (.cab 0)) [] with hbm := [(8, { poison := [(0, 1)] })] } (fun t => (t.shelf? 0).any (fun x => x.damaged)) = true := by
  decide +kernel
theorem test_moveEnd_clean : after (.moveEnd 0 0 0) (kv { mv (.cab 0) with drawers := [{ count := 2, loc := .clean { stack := 8 } 3, moving := some (.cab 0) }] } [])
    (fun t => (t.shelf? 0).any (fun x => (getDrawer x 0 0).any (fun d => decide (d.loc = .cab 3)))) = true := by decide +kernel
theorem test_moveEnd_poison : (readDrawer { kv (mv (.cab 0)) [] with hbm := [(8, { poison := [(3, 1)] })] } { loc := .hbm { stack := 8 } }).1 = some (8, 3) := by decide +kernel
theorem test_tierVisit : let s := { kv (drs 8) [] with time := { ns := 32768 * 1000000 } }
    ageOf s 0 = 32768 ∧ after (.tierVisit 0 0 0) s (fun t => (t.shelf? 0).any (fun x => (getDrawer x 0 0).any (fun d => decide (d.stamp = 0)))) = true := by decide +kernel
/-- A remote drawer whose data have come, with no place yet. -/
def rem : Shelf := { drs 8 with drawers := [{ count := 2, data := List.replicate 64 0, loc := .remote }], pull := some { peer := 2 } }
def wait0 (s : State) : State := { s with tiers := { waits := [{ part := 1, shelf := 0, series := 0, idx := 0 }] } }
theorem test_allocation_live : waitLive rem { part := 1 } = true ∧ waitLive (drs 8) { part := 1 } = false := by decide +kernel
/-- A drawer that is not there yet, for an append. -/
theorem test_allocation_room : let sh : Shelf := { drs 8 with drawers := [], appends := [{ req := 4, pos := 1, n := 2 }] }
    waitLive sh { part := 1 } = true ∧ getDrawer sh 0 0 = none ∧ findPlace (tight (kv sh []) 16) sh 0 0 ≠ none ∧ findPlace (tight (kv sh []) 1270) sh 0 0 = none ∧
    (∀ v : Nat, oldest (agedFrom 0 (eligibles (tight (kv sh []) 1270) 1 false)) v = none) :=
  ⟨by decide +kernel, by decide +kernel, by decide +kernel, by decide +kernel, fun v => by
    rw [(by decide +kernel : agedFrom 0 (eligibles _ 1 false) = [])]; rfl⟩
/-- A run that awaits its K drawer, which lies in the cabinet. -/
def cold (l : Loc) : State := { kv { drs 8 with drawers := [{ count := 2, data := List.replicate 64 0, loc := l }] } [] with
  reqs := [(4, { ring := 5, desc := atm 0, part := 1, shelf := some 0, lo := 1, snap := 3, query := List.replicate 16 0, cfmt := 1, bucket := some 0,
                 runs := [{ rn .scoring with coldLeft := [(0, 0)] }] })], cab := { units := [(3, {})] } }
theorem test_coldRead : after (.coldReadDone 4 0 0 {}) (cold (.cab 3)) (fun t => (tget? t.reqs 4).any (fun r => decide (r.coldN = 1) && r.cold &&
    r.runs.any (fun x => decide (x.coldLeft = [] ∧ x.scores.length = 2)))) = true := by decide +kernel
theorem test_coldRead_lost : after (.coldReadDone 4 0 0 {}) (cold (.cab 4)) (fun t => decide (t.reqs = []) && (t.shelf? 0).any (fun x => x.damaged)) = true := by decide +kernel
/-- R284: one error of the staging SRAM has the drawer read again, a second ends the request. -/
theorem test_coldRead_upset : after (.coldReadDone 4 0 0 { upsets := 1 }) (cold (.cab 3)) (fun t => (tget? t.reqs 4).any (fun r => decide (r.coldN = 1))) = true ∧
    after (.coldReadDone 4 0 0 { upsets := 2 }) (cold (.cab 3)) (fun t => decide (t.reqs = [])) = true ∧
    (coldFlight { drs 8 with drawers := [{ count := 2, loc := .cab 3 }] } { rn .scoring with coldLeft := [(0, 0)] }).contains (0, 0) = true ∧ inFlight (rn .scoring) = true := by decide +kernel
theorem test_coldRead_inPlace : after (.coldReadDone 4 0 0 {}) (cold (.clean { stack := 8 } 3)) (fun t => (tget? t.reqs 4).any (fun r => decide (r.coldN = 1))) = true := by decide +kernel
/-- A lift of the cold drawer in a phase. -/
def lift (ph : LiftPhase) (l : Loc) (s : State) : State := { s with dir := (kv { drs 8 with drawers := [{ count := 2, data := List.replicate 64 0, loc := l }] } []).dir,
                                                                     tiers := { lifts := [{ die := 0, shelf := 0, series := 0, idx := 0, phase := ph }] }, cab := { units := [(3, {})] } }
theorem test_liftTaken : after (.liftTaken 0) (lift .queued (.cab 3) (srv [])) (fun t => decide (t.tiers.lifts.map (·.phase) = [.room])) = true ∧
    after (.liftTaken 0) (lift .queued (.hbm {}) (srv [])) (fun t => decide (t.tiers.lifts = [])) = true ∧
    after (.liftTaken 0) (lift .queued .remote (srv [])) (fun t => decide (t.tiers.lifts = [])) = true := by decide +kernel
/-- R248: a demand lift goes ahead of one queued before it, and any other waits for a cold read. -/
theorem test_lift_turn : let l : Lift := { die := 0, shelf := 0, series := 0, idx := 0, phase := .queued }
    let s := { lift .queued (.cab 3) (srv []) with tiers := { lifts := [l, { l with demand := true }] } }
    (nextLift s 0).any (fun x => x.demand) = true ∧ liftNeeded s { l with demand := true } = true ∧
    cabFree (lift .queued (.cab 3) (srv [])) 4 = true ∧ cabFree { lift .queued (.cab 3) (srv []) with cab := { units := [(3, {})] }, reqs := (cold (.cab 3)).reqs } 4 = false ∧
    firstLift (srv []) 0 (fun p => decide (p = .room)) = none := by decide +kernel
theorem test_liftRoom : after (.liftRoom 0) (tight (lift .room (.cab 3) (srv [])) 16) (fun t => decide (t.tiers.lifts.map (·.phase) = [.reading { stack := 8 }])) = true := by decide +kernel
theorem test_liftRoom_full : let s := tight (lift .room (.cab 3) (srv [])) 1270
    (s.shelf? 0).any (fun sh => (findPlace s sh 0 0).isNone && asksT0 s 1 0) = true ∧ ∀ v : Nat, oldest (agedFrom 0 (eligibles s 1 true)) v = none :=
  ⟨by decide +kernel, fun v => by rw [(by decide +kernel : agedFrom 0 (eligibles _ 1 true) = [])]; rfl⟩
theorem test_liftPlaced : after (.liftPlaced 0 0 0 0) (lift (.reading { stack := 8 }) (.cab 3) (srv []))
    (fun t => decide (t.tiers.lifts = []) && (t.shelf? 0).any (fun x => (getDrawer x 0 0).any (fun d => decide (d.loc = .clean { stack := 8 } 3)))) = true := by decide +kernel
theorem test_liftPlaced_lost : after (.liftPlaced 0 0 0 0) (lift (.reading { stack := 8 }) (.cab 4) (srv [])) (fun t => (t.shelf? 0).any (fun x => x.damaged)) = true := by decide +kernel

/-! #### Tier registers and tables -/

theorem test_partTier : let s := wr (srv []) (pgPart 1 + 0x200) 1024
    HostMay s (pgPart (1 : Fin 32).val) ∧ (s.part 1).busy = false ∧
    after (.partTierWrite 1 (8 * 16)) s (fun t => decide ((t.part 1).scratch = 8)) = true ∧ after (.partTierWrite 1 (7 * 16)) s (fun t => decide ((t.part 1).scratch = 16)) = true ∧
    after (.partTierWrite 1 (1024 * 16)) s (fun t => decide ((t.part 1).scratch = 1024)) = true ∧ after (.partTierWrite 1 (1025 * 16)) s (fun t => decide ((t.part 1).scratch = 16)) = true :=
  ⟨hostMay_of (by decide), by decide, by decide +kernel, by decide +kernel, by decide +kernel, by decide +kernel⟩
/-- R231: a raise that the quota cannot hold sets `SCRATCH_REFUSED`. -/
theorem test_partTier_refused : after (.partTierWrite 1 (17 * 16)) (tight (srv []) 16) (fun t => decide (rdf t (pgPart 1 + 0x210) 1 1 = 1 ∧ (t.part 1).scratch = 16)) = true := by decide +kernel
theorem test_partCabshare : after (.partCabshareWrite 1 6519) (srv []) (fun t => decide (rd t (pgPart 1 + 0x208) = 6519)) = true ∧
    after (.partCabshareWrite 1 6520) (srv []) (fun t => decide (rd t (pgPart 1 + 0x208) = 2 ^ 31)) = true := by decide +kernel
theorem test_partCabshare_busy : HostMay { srv [] with parts := [(1, { busy := true })] } (pgPart 1) := hostMay_of (by decide)
/-- A compression table of one context: symbol 0 has all the frequency. -/
def tbl : List Byte := leBytes 4 0x54424346 ++ [1, 1, 5, 0] ++ leBytes 8 0 ++ leBytes 2 4096 ++ List.replicate 510 0
theorem test_cabTbl : RmTakes (srv []) 1 ∧ HostMay (srv []) pgCab ∧ tblOk (padTo tbl 2304) = true ∧ tblOk (mread (srv []).cab.window 0 16) = false :=
  ⟨rmTakes_of (by decide), hostMay_of (by decide), by decide +kernel, by decide +kernel⟩
theorem test_cabTbl_retire : after (.cabTblRetire 63) { srv [] with cab := { tables := [(63, tbl)], active := [(5, 63)] } } (fun t => decide (t.cab.tables = [] ∧ t.cab.active = [])) = true ∧
    after (.cabTblRetire 1) (srv []) (fun t => decide (rdf t (pgCab + 0x134) 1 3 = 4)) = true ∧
    after (.cabTblRetire 1) { srv [] with cab := { tables := [(1, tbl)], units := [(0, { table := 1 })] } } (fun t => decide (rdf t (pgCab + 0x134) 1 3 = 3)) = true ∧
    after (.cabTblInstall 1) { srv [] with stw := { rm := .held } } (fun t => decide (rdf t (pgCab + 0x134) 1 3 = 1)) = true := by decide +kernel

/-! #### Flash -/

/-- The cabinet with some erase blocks and units. -/
def fl (bs : Tab EBlock) (us : Tab CabUnit) : State := { kv { drs 8 with drawers := [{ loc := .clean { stack := 8 } 3 }] } [] with cab := { mounted := true, blocks := bs, units := us } }
theorem test_gc_empty : (closedBlocks (fl [(7, { prog := true })] [])).find? (fun e => decide (e.2.valid = 0)) = some (7, { prog := true }) ∧
    after .garbageCollection (fl [(7, { prog := true })] []) (fun t => decide ((eblock t 7).erases = 1 ∧ (eblock t 7).prog = false)) = true := by decide +kernel
theorem test_gc_retained : (fl [(7, { prog := true, valid := 64 })] [(3, {})]).cab.units.filter (fun e => retainedBy (fl [(7, { prog := true, valid := 64 })] [(3, {})]) e.1 e.2) = [(3, {})] ∧
    after .garbageCollection (fl [(7, { prog := true, valid := 64 })] [(3, {})]) (fun t => decide (t.cab.units = [])) = true := by decide +kernel
theorem test_gc_least : leastBy (fun e => e.valid) (closedBlocks (fl [(7, { prog := true, valid := 128 }), (8, { prog := true, valid := 64 })] [])) = some 8 := by decide +kernel
theorem test_wear : let s := fl [(7, { prog := true }), (8, { erases := 201 })] []
    eraseSpread s = 201 ∧ class3Runs s = true ∧ leastBy (fun e => e.erases) (closedBlocks s) = some 7 ∧
    leastBy (fun e => 2 ^ 64 - e.erases) (s.cab.blocks.filter (fun e => !e.2.prog && !e.2.bad)) = some 8 := by decide +kernel
theorem test_readDisturb : after (.readDisturbRelocation 7) (fl [(7, { prog := true, reads := 50000 })] []) (fun t => decide ((eblock t 7).erases = 1)) = true ∧
    after (.readDisturbRelocation 7) (fl [(7, { prog := true, reads := 49999 })] []) (fun t => decide ((eblock t 7).erases = 0)) = true := by decide +kernel
theorem test_patrol : class3Runs (fl [(7, { prog := true })] []) = true ∧ (progBlocks (fl [(7, { prog := true })] []))[(0 : Nat) / 1024]? = some 7 ∧
    after (.patrolRead 76 false) (fl [(7, { prog := true })] [(3, { pieces := [(7, 0, 64)] })]) (fun t => decide ((tget? t.cab.units 3).any (fun u => u.pieces.all (fun x => decide (x.1 ≠ 7))) ∧ t.cab.patrol = 1 ∧ (eblock t 7).reads = 2)) = true := by
  decide +kernel
theorem test_patrol_bad : after (.patrolRead 0 true) (fl [(7, { prog := true })] []) (fun t => decide ((eblock t 7).failed = [0])) = true ∧
    after (.patrolRead 0 true) (fl [(7, { prog := true, failed := [0] })] []) (fun t => (eblock t 7).bad) = true := by decide +kernel
theorem test_patrol_end : patrolPages (srv []) = 4194304 := by decide +kernel
/-- Item 8 of the index with its record in slot 2, and the unit that holds it. -/
def itm : Item := { id := 8, seq := 1, loc := 2 }
def recU : CabUnit := { part := 1, vslot := some (5, 2, 128) }
def recS : State := { vs { vix with items := [itm] } [] with cab := { mounted := true, units := [(vecUnit 65539 2, recU)] } }
/-- The header of its record, and the plaintext behind it. -/
def recHead : List Byte := leBytes 2 0xCB0A ++ [1, 1] ++ leBytes 4 16 ++ leBytes 8 5 ++ leBytes 4 0 ++ leBytes 2 2 ++ List.replicate 10 0
def recPlain : List Byte := pad16 (leBytes 8 8 ++ leBytes 4 (crc32c (leBytes 8 8)))
theorem rec_stored : storedBlock recS (vecUnit 65539 2) recU = sealedBytes (keyBits recS (some 1)) (5 + 2 ^ 64 * (2 ^ 32 * 2)) (recordSize { vix with items := [itm] }) recHead recPlain := rfl
/-- R262, R288: the record passes as it was written, and does not with a byte of its tag changed. -/
theorem test_blockReadFail_passes : tget? recS.cab.units (vecUnit 65539 2) = some recU ∧ blockPasses recS (vecUnit 65539 2) recU [] = true ∧
    blockPasses recS (vecUnit 65539 2) recU [(48, 1)] = false := by
  have h := Laws.sealedBytes_check (keyBits recS (some 1)) (5 + 2 ^ 64 * (2 ^ 32 * 2)) (recordSize { vix with items := [itm] }) recHead recPlain
    (by decide +kernel) (by decide +kernel) (by decide +kernel)
  rw [show 32 + recPlain.length = 48 by decide +kernel] at h
  refine ⟨by decide +kernel, ?_, ?_⟩
  · rw [blockPasses, rec_stored]; exact h.1
  · rw [blockPasses, rec_stored]; exact h.2
/-- A block that is lost: a retained copy is released, the shelf of a drawer in `CAB` is damaged, and the item of a record fails. -/
theorem test_blockLost : retainedBy (fl [] [(3, {})]) 3 {} = true ∧ retainedBy { kv { drs 8 with drawers := [{ loc := .cab 3 }] } [] with cab := { units := [(3, {})] } } 3 {} = false ∧
    (tget? (recordLost recS (vecUnit 65539 2)).vidx 65539).any (fun v => v.items.all (fun i => i.failing)) = true := by decide +kernel

/-! #### Stacks of HBM -/

/-- The device with stack 8 in a state. -/
def hb (h : Hbm) (sh : Shelf) : State := { kv sh [] with hbm := [(8, h)] }
theorem test_writeback : after (.correctedWriteback 8 5) (hb { wb := [4, 5] } shf) (fun t => decide ((t.hbmc 8).wb = [4])) = true := by decide +kernel
/-- R275: the scrub reads a clear line and goes on, past a retired pseudo-channel, from the last of whose lines the pass begins anew. -/
theorem test_scrub : after (.scrubRead 8 [] []) (hb {} shf) (fun t => decide ((t.hbmc 8).scrub = 1)) = true ∧
    scrubFrom { retired := [0] } 0 = some linesPerPc ∧ scrubFrom { retired := [63] } (63 * linesPerPc) = none ∧
    after (.scrubRead 8 [] []) (hb { scrub := 64 * linesPerPc - 1, stUnc := 3 } shf) (fun t => decide ((t.hbmc 8).scrub = 0 ∧ (t.hbmc 8).stUnc = 0)) = true := by decide +kernel
/-- R269, R271: a poisoned line of a drawer's place damages its shelf. -/
theorem test_scrub_poisoned : lineOut (hb { poison := [(0, 1)] } (drs 8)) 8 0 = .poison ∧ (lineDrawer (hb { poison := [(0, 1)] } (drs 8)) 8 0).isSome = true ∧
    after (.scrubRead 8 [] []) (hb { poison := [(0, 1)] } (drs 8)) (fun t => (t.shelf? 0).any (fun x => x.damaged && decide (x.state = .lost))) = true := by decide +kernel
theorem test_scrub_structure : lineDrawer (hb {} shf) 8 0 = none ∧ after (.scrubRead 8 [] []) (hb { poison := [(0, 1)], uses := [(0, .summary 0 0 0)] } { drs 0 with hash := 0 })
    (fun t => (t.shelf? 0).any (fun x => (getDrawer x 0 0).any (fun d => d.sumLost))) = true := by decide +kernel
/-- The K drawer of shelf 0 in stack 0, whose lines are stored as they are (R224); a symbol of its first line has changed. -/
def soft : State := { kv (drs 0) [] with pcOwner := [(0, 1)], hbm := [(0, { upsets := [(0, { bad := [(5, 1)] })] })] }
/-- R265, R274: one changed symbol is put right, counted, and the line is to be written back. -/
theorem test_scrub_fixed : lineOut soft 0 0 = .fixed := by decide +kernel
/-- R265: three changed symbols are more than the code corrects; R269: the line is poisoned, counted and raised. -/
theorem test_scrub_uncorr : ((lineUncorr (hb {} (drs 8)) 8 0 false).hbmc 8).poison = [(0, 1)] ∧ rd (lineUncorr (hb {} (drs 8)) 8 0 true) (pgHbm 8 + 0x104) = 1 ∧ rdf (lineUncorr (hb {} (drs 8)) 8 0 false) (pgHbm 8 + 0x100) 16 16 = 1 ∧
    lineKept (hb {} (drs 8)) 8 0 = true ∧ tget? (hb {} (drs 8)).hbm 9 = none := by decide +kernel
theorem test_scrub_corrected : ((lineCorrected (hb {} (drs 8)) 8 5).hbmc 8).wb = [5] ∧ rdf (lineCorrected (hb {} (drs 8)) 8 5) (pgHbm 8 + 0x100) 0 16 = 1 := by decide +kernel
theorem test_damagedFree : let s := kv { drs 8 with state := .lost, damaged := true } []
    shelfRunning s 0 = false ∧ ((freeAll s 0).shelf? 0).isSome = true ∧ after (.damagedShelfFree 0) s (fun t => (t.shelf? 0).any (fun x => decide (x.drawers = []) && !x.damaged)) = true := by
  decide +kernel
theorem test_rowRepair : let h : Hbm := { due := [3], log := [{ bank := 3 }, { bank := 3 }, { bank := 3 }] }
    h.due.find? (fun r => decide (sparesUsed h (rowBank r) < 4) && bankFree (hb h shf) 8 (rowBank r)) = some 3 ∧
    after (.rowRepair 8) (hb h shf) (fun t => decide ((t.hbmc 8).due = [] ∧ (t.hbmc 8).log.length = 4 ∧ t.evr.log.length = 2)) = true := by decide +kernel
/-- R280: a row due in a bank without a spare retires its pseudo-channel, and so does the last uncorrectable line below the threshold; R281: the stack likewise. -/
theorem test_retire_due : (rowDue { log := List.replicate 4 { bank := 3 } } 3).retiring = [0] ∧ (rowDue {} 3).due = [3] ∧
    logRoom (hb {} shf) { unwritten := 64 } = true ∧ logRoom { hb {} shf with stw := { rm := .restarting } } { unwritten := 64 } = false ∧
    linePc 0 ∈ (countUnc (hb {} shf) 8 { pcUnc := [(0, 15)] } 0).retiring ∧ (countUnc (hb {} shf) 8 { pcUnc := [(0, 14)] } 0).retiring = [] ∧
    (countUnc (hb {} shf) 8 { stUnc := 255 } 0).fenceDue = true ∧ (countUnc (hb {} shf) 8 { stUnc := 254 } 0).fenceDue = false := by decide +kernel
theorem test_fenceIfDue : (fenceIfDue (hb { retired := List.range 16 } shf) 8).hbm = (fenceStack (hb { retired := List.range 16 } shf) 8).hbm ∧
    (((fenceIfDue (hb { retired := List.range 15 } shf) 8).hbmc 8).fenced = false) ∧ (((fenceIfDue (hb { fenceDue := true } shf) 8).hbmc 8).fenced = true) := by decide +kernel
theorem test_rowRepair_none : let h : Hbm := { due := [3], log := List.replicate 4 { bank := 3 } }
    h.due.find? (fun r => decide (sparesUsed h (rowBank r) < 4) && bankFree (hb h shf) 8 (rowBank r)) = none := by decide +kernel
theorem test_pcRetire : after (.pcRetire 8 63) (hb {} shf) (fun t => decide ((t.hbmc 8).retiring = [63])) = true := by decide +kernel
theorem test_pcRetired : drawersIn (hb { retiring := [63] } (drs 8)) 8 63 = [] ∧ drawersIn (hb { retiring := [0] } (drs 8)) 8 0 ≠ [] ∧
    after (.pcRetired 8 63) { hb { retiring := [63] } shf with pcOwner := [(8 * 64 + 63, 1)] } (fun t => decide ((t.hbmc 8).retired = [63] ∧ t.pcOwner = [])) = true := by decide +kernel
theorem test_stackFence : ((hb {} shf).hbmc (8 : Fin 16).val).fenced = false ∧ ((hb { fenced := true } shf).hbmc 8).fenced = true := by decide +kernel
/-- R282: the fence damages the shelf of a drawer that lies there. -/
theorem test_stackFence_front : after (.stackFence 0) (kv (drs 0) []) (fun t => (t.hbmc 0).fenced && (t.shelf? 0).any (fun x => decide (x.state = .lost))) = true := by decide +kernel

/-! #### Rules -/

/-- The device with some rules and one band of one group. -/
def rl (es : Tab Rule) : State := { srv [] with rules := { entries := es, shadowA := es, shadowB := es, bands := 1 :: List.replicate 15 0 } }
theorem test_rule_first : ruleLookup (rl [(3, { valid := true, value := 1, care := 1, action := 7 }), (4, { valid := true, action := 8 })]) 5 =
    (7, bump (rl [(3, { valid := true, value := 1, care := 1, action := 7 }), (4, { valid := true, action := 8 })]) (pgRule 0 + 0x104) 0 32 1) := by decide +kernel
theorem test_rule_sorted : tsorted (rl [(3, { valid := true, value := 1, care := 1 }), (4, { valid := true })]).rules.entries = true ∧ (5 : Nat) &&& 1 = 1 := by decide
theorem test_rule_default : (ruleLookup (rl [(3, { valid := false })]) 5).1 = 0 := by decide +kernel
theorem test_ruleInsert : HostMay (rl []) (pgRule 0) ∧ RmTakes (rl []) 1 ∧ (actionOk (stagedAction (rl [])) && valueOk 0 0) = true ∧ insPlan (rl []).rules 0 0 = .done 0 0 ∧
    insPlan (srv []).rules 0 0 = .bandFull ∧ after .ruleInsert (rl []) (fun t => decide ((ruleAt t.rules.entries 0).valid = true)) = true :=
  ⟨hostMay_of (by decide), rmTakes_of (by decide), by decide +kernel, by decide +kernel, by decide +kernel, by decide +kernel⟩
/-- A group of 31 entries is full for an insertion that the next group cannot take. -/
theorem test_ruleInsert_group : insPlan { (rl ((List.range 31).map (fun i => (i, ({ valid := true, prio := 5 } : Rule))))).rules with bands := 2 :: List.replicate 15 0 } 0 4 =
    .groupFull 0 := by decide +kernel
theorem test_ruleInsert_bad : (actionOk 8 && valueOk 0 0) = false := by decide +kernel
theorem test_ruleRemove : after .ruleRemove (rl [(0, { valid := true })]) (fun t => decide ((ruleAt t.rules.entries 0).valid = false)) = true ∧
    after .ruleRemove (rl []) (fun t => decide (rdf t (ruleReg 0x23C) 1 3 = 5)) = true := by decide +kernel
theorem test_ruleModify : after .ruleModify (rl [(0, { valid := true, action := 8 })]) (fun t => decide ((ruleAt t.rules.entries 0).action = 0)) = true ∧
    after .ruleModify (wr (rl [(0, { valid := true })]) (ruleReg 0x228) 8) (fun t => decide (rdf t (ruleReg 0x23C) 1 3 = 2)) = true := by decide +kernel
theorem test_ruleRead : after .ruleRead (rl [(0, { valid := true, value := 2 ^ 32, care := 2 ^ 32 })]) (fun t => decide (rd t (ruleReg 0x204) = 1 ∧ rdf t (ruleReg 0x23C) 4 1 = 1)) = true := by
  decide +kernel
theorem test_ruleBands : bandsOk (srv []).rules (List.replicate 16 0) = true ∧ bandsOk (rl [(0, { valid := true })]).rules (List.replicate 16 0) = false := by decide +kernel
theorem test_rule_held : HostMay { rl [] with stw := { rm := .held } } (pgRule 0) ∧ after .ruleRead { rl [] with stw := { rm := .held } } (fun t => decide (rdf t (ruleReg 0x23C) 1 3 = 1)) = true :=
  ⟨hostMay_of (by decide), by decide +kernel⟩
theorem test_ruleDef : after (.ruleDefLoWrite 0x10) (srv []) (fun t => decide (t.rules.heldLo = some 0x10)) = true ∧
    after (.ruleDefHiWrite 0) { srv [] with rules := { heldLo := some 0x10 } } (fun t => decide (t.rules.deflt = 0x10 ∧ t.rules.heldLo = none)) = true ∧
    after (.ruleDefHiWrite 0) { srv [] with rules := { heldLo := some 8 } } (fun t => decide (t.rules.deflt = 0)) = true := by decide +kernel
theorem test_rebalance : let s := { rl [(5, { valid := true })] with rules := { (rl [(5, { valid := true })]).rules with rebal := [0] } }
    deferred s 3 = false ∧ after (.rebalance 0) s (fun t => decide (t.rules.rebal = [] ∧ (ruleAt t.rules.entries 0).valid = true)) = true := by decide +kernel
/-- R329: an entry that differs from a good shadow is restored and counted; with no good shadow the shadows are written anew. -/
theorem test_shadowCompare : let s := { rl [(0, { valid := true })] with rules := { (rl [(0, { valid := true })]).rules with entries := [] } }
    after (.shadowCompare 0 false false) s (fun t => decide ((ruleAt t.rules.entries 0).valid = true ∧ rd t (pgRule 0 + 0x10C) = 1)) = true ∧
    after (.shadowCompare 0 false false) { s with hbm := [(8, { poison := [(7, 1)], uses := [(7, .shadow 0 0)] }), (9, { poison := [(7, 1)], uses := [(7, .shadow 0 1)] })] }
      (fun t => decide ((ruleAt t.rules.shadowA 0).valid = false ∧ rd t (pgRule 0 + 0x10C) = 2 ^ 16)) = true ∧
    after (.shadowCompare 0 false false) (rl []) (fun t => decide (t.rules.sweep = [1, 0, 0, 0])) = true := by
  refine ⟨by decide +kernel, by decide +kernel, by decide +kernel⟩

/-! #### Ports -/

/-- Port 2 in a state, with queue pairs. -/
def prt (p : Port) (qs : Tab Qp) : State := { srv [] with ports := [(2, p)], qps := qs }
theorem test_portLinkUp : hostReach (prt {} []) = true ∧ after (.portLinkUp 2) (wr (prt {} []) (pgNet 2 + 0x100) 1) (fun t => (t.port 2).up && (t.port 2).sealReq) = true := by decide +kernel
theorem test_portLinkDown : after (.portLinkDown 2) (prt { up := true, sealed := true } []) (fun t => !(t.port 2).up && !(t.port 2).sealed) = true := by decide +kernel
/-- R361: a rate of 1,000 Mb/s gives 128 bytes each 1.024 µs, up to the burst. -/
theorem test_shaperRefill : after (.shaperRefill 2) (wr (wr (prt {} []) (pgShp 2 0 + 0x100) 1000) (pgShp 2 0 + 0x140) 1) (fun t => decide ((t.port 2).tokens.getD 0 0 = 128000)) = true := by
  decide +kernel
theorem test_policerRefill : after (.policerRefill 2) (wr (wr (prt {} []) (pgShp 2 1 + 0x100 + 8 * 255) 1000) (pgShp 2 1 + 0x104 + 8 * 255) 1) (fun t => decide ((t.port 2).pol = [(255, 128000)])) = true := by
  decide +kernel
theorem test_gateIntervalEnd : after (.gateIntervalEnd 2) (wr (prt { gcl := { entries := [(1, 10), (2, 20)], cur := 1 } } []) (pgShp 2 0 + 0x180) 1) (fun t => decide ((t.port 2).gcl.cur = 0)) = true ∧
    rdf (prt {} []) (pgShp 2 0 + 0x180) 0 1 = 0 := by decide +kernel
theorem test_gclCommit : HostMay (prt {} []) (pgShp (2 : Fin 4).val 0) ∧ after (.gclCommit 2) (prt {} []) (fun t => (t.port 2).nextGcl.isSome) = true :=
  ⟨hostMay_of (by decide), by decide +kernel⟩
theorem test_gclSwitch : after (.gclSwitch 2) (prt { nextGcl := some ({ entries := [(5, 7)] }, 30) } []) (fun t => decide ((t.port 2).gcl.entries = [(5, 7)] ∧ (t.port 2).gcl.since = 30)) = true := by
  decide +kernel
theorem test_ptp : ((1000 : Int).natAbs ≤ 1000 ∧ 1000 < (-1001 : Int).natAbs) ∧ after (.ptpTimeout 2) (prt { ptpLock := true } []) (fun t => !(t.port 2).ptpLock) = true := by decide +kernel
/-- R363: reading the nanoseconds latches the seconds. -/
theorem test_netTime : after (.netTimeNsRead 2) (prt { ptpStep := 2000000005 } []) (fun t => decide ((t.port 2).secLatch = 2 ∧ t.out = [.read (pgNet 2 + 0x300) 4 5])) = true := by decide +kernel
/-- A queue pair with one `WRITE` sent and one retry allowed. -/
def qpo : Qp := { qp1 with attr := leBytes 14 0 ++ [1] ++ List.replicate 49 0, out := [{ bytes := [1], psn := some 0, next := 1 }] }
theorem test_ackTimeout : oldestPsn qpo = some 0 ∧ after (.ackTimeout 3) (prt {} [(3, qpo)]) (fun t => (tget? t.qps 3).any (fun x => decide (x.retries = 1 ∧ x.out.map (·.next) = [0]))) = true ∧
    after (.ackTimeout 3) (prt {} [(3, { qpo with retries := 1 })]) (fun t => (tget? t.qps 3).any (fun x => x.err)) = true := by decide +kernel
theorem test_rnrTimer : after (.rnrTimerExpiry 3) (prt {} [(3, { qp1 with rnrWait := true })]) (fun t => (tget? t.qps 3).any (fun x => !x.rnrWait)) = true := by decide +kernel
/-- R358: after a period without a CNP the rate goes half way to its target. -/
theorem test_ccTimer : after (.ccTimerExpiry 3) (prt {} [(3, { qp1 with rc := 400000 })]) (fun t => (tget? t.qps 3).any (fun x => decide (x.rc = 600000 ∧ x.calm = 1))) = true ∧
    after (.ccTimerExpiry 3) (prt {} [(3, { qp1 with cnpSeen := true })]) (fun t => (tget? t.qps 3).any (fun x => !x.cnpSeen)) = true := by decide +kernel

/-! #### Packets -/

/-- Port 2 is up with queue pair 3 cached, and host window 0 is open. -/
def net (p : Port) (x : Qp) : State := prt { p with up := true, cache := [3] } [(3, x)]
theorem test_receive_unsealed : after (.packetReceive 2 {}) (prt { up := true, sealReq := true } []) (fun t => decide (rd t (pgNet 2 + 0x128) = 2 ^ 16)) = true := by decide +kernel
theorem test_receive_sealed : (let p := (prt { up := true, sealReq := true, sealed := true } []).port 2; p.up && p.sealReq && p.sealed && decide (p.hs.phase ≠ .confirmSent)) = true := by decide
/-- R366: an association of the latest two takes each packet number once and no earlier one; another is refused. -/
theorem test_unsealed : (unsealed { keyIdx := 4, rxPn := 6 } { an := 0, pn := 7 }).any (fun h => decide (h.rxPn = 7)) = true ∧ unsealed { keyIdx := 4, rxPn := 6 } { an := 0, pn := 6 } = none ∧
    (unsealed { keyIdx := 4, rxOld := 2 } { an := 3, pn := 3 }).any (fun h => decide (h.rxOld = 3)) = true ∧ unsealed { keyIdx := 4 } { an := 2, pn := 3 } = none ∧
    unsealed { keyIdx := 4 } { an := 0, pn := 7, icvOk := false } = none := by decide +kernel
/-- R333: a frame of 4,352 bytes is taken, a longer one is not. -/
theorem test_receive_long : after (.packetReceive 2 { kind := .pause, frameLen := 4352 }) (net {} qp1) (fun t => decide (rd t (pgNet 2 + 0x128) = 1)) = true ∧
    after (.packetReceive 2 { kind := .pause, frameLen := 4353 }) (net {} qp1) (fun t => decide (rd t (pgNet 2 + 0x128) = 0)) = true := by decide +kernel
theorem test_receive_kinds : supported 0x0A = true ∧ supported 0x12 = false ∧ after (.packetReceive 2 { kind := .pause }) (net {} qp1) (fun t => decide (rd t (pgNet 2 + 0x128) = 1)) = true ∧
    after (.packetReceive 2 { icrcOk := false }) (net {} qp1) (fun t => decide (rd t (pgNet 2 + 0x124) = 2 ^ 16)) = true ∧
    after (.packetReceive 2 { qpn := 4 }) (net {} qp1) (fun t => decide (rd t (pgNet 2 + 0x124) = 1)) = true ∧
    after (.packetReceive 2 { qpn := 3, opcode := 0x64 }) (net {} qp1) (fun t => decide (rd t (pgNet 2 + 0x124) = 1)) = true := by decide +kernel
/-- R340: the state of a queue pair that is not cached is fetched, and the packet held. -/
theorem test_receive_held : after (.packetReceive 2 { qpn := 3, frameLen := 100 }) (prt { up := true } [(3, qp1)]) (fun t => decide ((t.port 2).fetch = [3] ∧ (t.port 2).held.length = 1)) = true := by
  decide +kernel
/-- R358: a CNP halves the rate where a is 1. -/
theorem test_receive_cnp : bit (le qp1.attr 0x10 2) 8 = false ∧ after (.packetReceive 2 { qpn := 3, opcode := 0x81 }) (net {} qp1) (fun t => (tget? t.qps 3).any (fun x => decide (x.rc = 400000))) = true := by
  decide +kernel
/-- Region 5 of partition 1: 64 writable bytes at 0x40000. -/
def reg5 (s : State) : State := { s with regions := [(5, { part := 1, acc := 3, base := 0x40000, len := 64 })] }
theorem test_receive_write : let s := reg5 (net {} qp1)
    keyCheck ((useQp (meterPort s 1 2 0 false) 2 3).setQp 3 qp1) qp1 (2 ^ 24 + 5 * 256) 62 2 true = some (5, { part := 1, acc := 3, base := 0x40000, len := 64 }) ∧
    keyCheck ((useQp (meterPort s 1 2 0 false) 2 3).setQp 3 qp1) qp1 (2 ^ 24 + 5 * 256) 63 2 true = none ∧
    after (.packetReceive 2 { qpn := 3, opcode := 0x0A, va := 62, rkey := 2 ^ 24 + 5 * 256, dlen := 2, payload := [7, 8] }) s
      (fun t => (tget? t.qps 3).any (fun x => decide (x.rqPsn = 1 ∧ x.msn = 1))) = true := by decide +kernel
/-- R345: a key that does not pass is refused, and the queue pair is in error. -/
theorem test_receive_denied : after (.packetReceive 2 { qpn := 3, opcode := 0x0A, va := 63, rkey := 2 ^ 24 + 5 * 256, dlen := 2, payload := [7, 8] }) (reg5 (net {} qp1))
    (fun t => (tget? t.qps 3).any (fun x => x.err) && decide (rd t (pgNet 2 + 0x11C) = 1)) = true := by decide +kernel
theorem test_qpFetchDone : let s := prt { up := true, fetch := [3] } [(3, qp1)]
    spillHost s = true ∧ ideHold s = false ∧ (cachePlace s (2 : Fin 4).val).isSome = true ∧ (readSpill s 3).1 = true ∧
    after (.qpFetchDone 2 3) s (fun t => decide ((t.port 2).cache = [3] ∧ (t.port 2).fetch = [])) = true := by decide +kernel
theorem test_send : (sendable (net {} { qp1 with out := [{ bytes := [1, 2] }] }) 3).any (fun e => decide (e.2.1 = 0 ∧ e.2.2.2.1.opcode = 0x0B ∧ e.2.2.2.2 = .go)) = true ∧
    (nextSend (net {} { qp1 with out := [{ bytes := [1, 2] }] }) (2 : Fin 4).val).any (fun e => decide (e.1 = 3)) = true ∧
    after (.resultBlockSend 2 3) (net {} { qp1 with out := [{ bytes := [1, 2] }] }) (fun t => decide (t.out.length = 1) && (tget? t.qps 3).any (fun x => decide (x.sqPsn = 1))) = true := by
  decide +kernel
/-- R358: a queue pair whose pacing does not let it send yet waits; R360: a message of queue 1 goes ahead of an older one of queue 2, and of two in one queue
the older goes first. -/
theorem test_send_paced : (sendable (net {} { qp1 with out := [{ bytes := [1, 2] }], pace := 1 }) 3).isNone = true ∧ portCount (net {} qp1) 2 = 0 := by decide +kernel
def two (a b : OutMsg) : State := prt { up := true, cache := [3, 4] } [(3, { qp1 with out := [a] }), (4, { qp1 with out := [b] })]
theorem test_send_order : (nextSend (two { bytes := [1], tclass := 2, seq := 0 } { bytes := [1], tclass := 1, seq := 1 }) 2).any (fun e => decide (e.1 = 4)) = true ∧
    (nextSend (two { bytes := [1], tclass := 9, seq := 1 } { bytes := [1], tclass := 9, seq := 0 }) 2).any (fun e => decide (e.1 = 4 ∧ e.2.drrNew = false)) = true := by decide +kernel
/-- R361: without tokens a shaped queue does not send, and an unshaped one does. -/
theorem test_send_shaped : (sendable (net { shRate := [1000] } { qp1 with out := [{ bytes := [1, 2] }] }) 3).isNone = true ∧
    (sendable (net { shRate := [1000], tokens := [1] } { qp1 with out := [{ bytes := [1, 2] }] }) 3).isSome = true := by decide +kernel
theorem test_send_nothing : sendable (net {} qp1) 3 = none ∧ (net {} qp1).qps = [(3, qp1)] := by decide +kernel

/-! #### Sealing -/

/-- Port 2 up with sealing required and a handshake in a phase; the listed key is `K`. -/
def K : List Byte := [1]
def sld (h : Seal) : State := { prt { up := true, sealReq := true, hs := h } [] with sec := { trust := [(0, K)] } }
/-- A message of a type from the listed peer. -/
def hsFrom (t : Nat) : List Byte := hsMsg t 0 (List.replicate 32 0 ++ sha3 K)
theorem test_hsOpen : hostReach (sld {}) = true ∧ hsOpen (sld {}) (2 : Fin 4).val = true := by decide
theorem test_hsOk : hsOk (hsFrom 1) 1 0 = true ∧ hsOk (hsFrom 2) 2 0 = true ∧ hsOk (hsMsg 3 0 []) 3 0 = true ∧ hsOk (hsFrom 1) 2 0 = false := by decide +kernel
theorem test_trustKey : trustKey (sld {}) (bslice (hsFrom 1) 48 32) = some K ∧ trustKey (sld {}) (bslice (hsMsg 1 0 []) 48 32) = none := by decide +kernel
/-- A `HELLO` whose sender's digest is 0 does not go before our own. -/
theorem test_hello_stays : leNat (bslice (hsMsg 1 0 []) 48 32) ≤ leNat ownDigest := by
  rw [(by decide +kernel : leNat (bslice (hsMsg 1 0 []) 48 32) = 0)]; exact Nat.zero_le _
theorem test_hello_unknown : after (.hello 2 (hsMsg 1 0 [])) (sld {}) (fun t => decide ((t.port 2).hs.phase = .failed ∧ t.out.head? = some (.hs 2 (hsAbort 0 1)))) = true := by decide +kernel
theorem test_hello_form : after (.hello 2 [1]) (sld {}) (fun t => decide (t.out.head? = some (.hs 2 (hsAbort 0 3)))) = true := by decide +kernel
theorem test_helloRepeat : after (.helloRepeat 2) (sld { phase := .helloSent, hello := [9] }) (fun t => decide (t.out = [.hs 2 [9]])) = true := by decide +kernel
theorem test_reply_unknown : after (.reply 2 (hsMsg 2 0 [])) (sld { phase := .helloSent }) (fun t => decide ((t.port 2).hs.phase = .failed)) = true := by decide +kernel
theorem test_confirm_form : after (.confirm 2 [1]) (sld { phase := .replySent }) (fun t => decide ((t.port 2).hs.phase = .failed)) = true ∧
    trustKey (sld { phase := .replySent, peer := sha3 K }) (sha3 K) = some K := by decide +kernel
/-- R441: the next key index is taken, another ends the session. -/
theorem test_rekey : let s := { sld { phase := .done, keyIdx := 4 } with ports := [(2, { up := true, sealReq := true, sealed := true, hs := { phase := .done, keyIdx := 4 } })] }
    after (.rekey 2 (hsMsg 4 0 (leBytes 4 5))) s (fun t => decide ((t.port 2).hs.keyIdx = 5)) = true ∧ after (.rekey 2 (hsMsg 4 0 (leBytes 4 6))) s (fun t => !(t.port 2).sealed) = true ∧
    after (.rekeyPeriod 2) s (fun t => decide ((t.port 2).hs.keyIdx = 5 ∧ t.out.length = 1)) = true := by decide +kernel
theorem test_nextKey : nextKey { keyIdx := 4, rxPn := 6, txPn := 9 } = { keyIdx := 5, rxOld := 6 } := by decide
theorem test_abort : after (.abort 2 (hsAbort 0 2)) (sld { phase := .replySent }) (fun t => decide ((t.port 2).hs.phase = .failed)) = true := by decide +kernel
theorem test_handshakeTimeout : after (.handshakeTimeout 2) (sld { phase := .helloSent }) (fun t => decide ((t.port 2).hs.phase = .failed)) = true := by decide +kernel

/-! #### Queue pairs and regions -/

/-- The staged block of queue pair 0x100003 on port 2. -/
def stq (f : State → State) : State :=
  let w : State → Nat → Nat → State := fun s i v => wr s (pgNet 2 + 0x200 + 4 * i) v
  f (w (w (w (srv []) 0 0x100003) 1 1) 3 0x0101)
theorem test_qpCreate : let s := stq (fun s => wr s (pgNet 0 + 0x2B8) 3)
    HostMay s (pgNet (2 : Fin 4).val) ∧ RmTakes s 1 ∧ attrOk s (stagedAttr s 2) = true ∧ tget? s.qps 0x100003 = none ∧ rdf s (pgNet 0 + 0x2B8) 0 1 = 1 ∧
    after (.qpCreate 2) s (fun t => (tget? t.qps 0x100003).any (fun x => decide (x.port = 2 ∧ x.part = 1))) = true :=
  ⟨hostMay_of (by decide), rmTakes_of (by decide), by decide +kernel, by decide +kernel, by decide +kernel, by decide +kernel⟩
/-- R336: the results of a creation that is refused. -/
theorem test_qpCreate_refused : after (.qpCreate 2) (srv []) (fun t => decide (rdf t (pgNet 2 + 0x244) 1 3 = 2)) = true ∧
    after (.qpCreate 2) (stq (fun s => { s with qps := [(0x100003, qp1)] })) (fun t => decide (rdf t (pgNet 2 + 0x244) 1 3 = 3)) = true ∧
    after (.qpCreate 2) (stq id) (fun t => decide (rdf t (pgNet 2 + 0x244) 1 3 = 4)) = true ∧
    after (.qpCreate 2) { stq id with stw := { rm := .held } } (fun t => decide (rdf t (pgNet 2 + 0x244) 1 3 = 1)) = true := by decide +kernel
theorem test_qpDestroy : let s := stq (fun s => { s with qps := [(0x100003, qp1)] })
    stagedQp s 2 = some (0x100003, qp1) ∧ after (.qpDestroy 2) s (fun t => decide (t.qps = [])) = true ∧ after (.qpDestroy 2) (stq id) (fun t => decide (rdf t (pgNet 2 + 0x244) 1 3 = 3)) = true := by
  decide +kernel
theorem test_qpRead : after (.qpRead 2) (stq (fun s => { s with qps := [(0x100003, { qp1 with err := true })] })) (fun t => decide (rdf t (pgNet 2 + 0x244) 4 2 = 2)) = true := by decide +kernel
/-- Region 0 staged: 4,096 bytes of host memory of partition 1 at 0x40000. -/
def rst (s : State) : State := wr (wr (wr s (pgNet 0 + 0x284) 0x0301) (pgNet 0 + 0x288) 0x40000) (pgNet 0 + 0x290) 4096
theorem test_regionRegister : HostMay (rst (srv [])) (pgNet 0) ∧ after .regionRegister (rst (srv []))
    (fun t => decide (t.regions = [(0, { part := 1, acc := 3, base := 0x40000, len := 4096 })] ∧ rd t (pgNet 0 + 0x2A8) = 2 ^ 24)) = true := ⟨hostMay_of (by decide), by decide +kernel⟩
theorem test_regionRegister_refused : after .regionRegister (rst { srv [] with regions := [(0, {})] }) (fun t => decide (rdf t (pgNet 0 + 0x2A4) 1 3 = 3)) = true ∧
    (let b := stagedRegion (wr (rst (srv [])) (pgNet 0 + 0x284) 0x0601); bit (le b 5 1) 2 && bit (le b 5 1) 1) = true ∧
    after .regionRegister { rst (srv []) with stw := { rm := .restarting } } (fun t => decide (rdf t (pgNet 0 + 0x2A4) 1 3 = 1)) = true := by decide +kernel
def r0 (s : State) : State := rst { s with regions := [(0, { part := 1, acc := 3, base := 0x50000, len := 64, gen := 255 })] }
/-- R346: the generation moves on past 255 to 0. -/
theorem test_reregister : after .regionReregisterNew (r0 (srv [])) (fun t => decide (t.regions = [(0, { part := 1, acc := 3, base := 0x40000, len := 4096 })])) = true ∧
    after .regionReregisterKeep (r0 (srv [])) (fun t => decide (t.regions = [(0, { part := 1, acc := 3, base := 0x50000, len := 64 })])) = true ∧
    spanOk (srv []) 1 3 0x40000 4096 = true ∧ spanOk (srv []) 1 3 (2 ^ 62 - 1) 2 = false := by decide +kernel
theorem test_deregister : after .regionDeregister (r0 (srv [])) (fun t => decide (t.regions = [] ∧ t.regionBusy = none)) = true := by decide +kernel
theorem test_deregister_range : 65536 ≤ le (stagedRegion (wr (srv []) (pgNet 0 + 0x280) 65536)) 0 4 := by decide +kernel
theorem test_regionRead : after .regionRead (r0 (srv [])) (fun t => decide (rd t (pgNet 0 + 0x288) = 0x50000 ∧ rd t (pgNet 0 + 0x290) = 64)) = true := by decide +kernel
/-- The command waits for a packet that is being placed under the old generation. -/
theorem test_regionDrain : let busy : Region := { part := 1, acc := 3, base := 0x50000, len := 64, gen := 255 }
    after .regionDeregister (r0 { srv [] with qps := [(3, { qp1 with placing := some { region := some (0, 255) } })] }) (fun t => t.regionBusy.isSome) = true ∧
    after .regionCommandDrain { srv [] with regionBusy := some { old := busy } } (fun t => t.regionBusy.isNone) = true ∧
    regionInUse { srv [] with qps := [(3, { qp1 with placing := some { region := some (0, 255) } })] } 0 255 = true := by decide +kernel


/-! #### CXL -/

/-- The device on a link that carries CXL.mem. -/
def cx (f : Cxl → Cxl) : State := { srv [] with cxl := f { speed := 2, width := 3, flit256 := true, cacheEn := true } }
def ex1 (st : ExtState) : Extent := { state := st, part := 1, poff := 2, order := 1 }
/-- Extent 3 in a state. -/
def cxe (st : ExtState) : State := cx (fun c => { c with ext := [(3, ex1 st)] })
/-- R371: the rows of the table. -/
theorem test_cxlLinkUp : hostReach (srv []) = true ∧ (srv []).cxl.speed = 0 ∧
    after (.cxlLinkUp 64 16 true true true) (srv []) (fun t => decide (t.cxl.speed = 2 ∧ t.cxl.flit256 = true)) = true ∧
    after (.cxlLinkUp 32 16 true true true) (srv []) (fun t => decide (t.cxl.speed = 1 ∧ t.cxl.flit256 = false)) = true ∧
    after (.cxlLinkUp 64 8 true true true) (srv []) (fun t => decide (t.cxl.speed = 2 ∧ t.cxl.width = 2)) = true := by decide +kernel
theorem test_cxlLinkUp_held : after (.cxlLinkUp 64 16 true false true) (srv []) (fun t => decide (t.cxl.speed = 0)) = true ∧ (cx id).cxl.speed ≠ 0 := by decide +kernel
theorem test_ideFail : after .ideFail (cx (fun c => { c with ideIo := true })) (fun t => !t.cxl.ideIo) = true ∧ (cx id).cxl.ideIo = false ∧ (cx id).cxl.ideCm = false := by decide +kernel
theorem test_cxlMemRead : hostReach (cxe .accepted) = true ∧ memOn (cxe .accepted) = true ∧ ideHold (cxe .accepted) = false ∧ dpaOpen (cxe .accepted) (3 * 2 ^ 30 + 70) = true ∧
    after (.cxlMemRead (3 * 2 ^ 30 + 70)) { cxe .accepted with devMem := [(3 * 2 ^ 30 + 64, 9)] }
      (fun t => decide (t.out = [.cxlData (3 * 2 ^ 30 + 64) false (9 :: List.replicate 63 0)] ∧ t.cxl.filter.flatten = [3 * 2 ^ 24 + 1])) = true := by decide +kernel
theorem test_cxlMemRead_not : memOn (srv []) = false ∧ ideHold (cx (fun c => { c with ideReq := true })) = true ∧ memOn (cx (fun c => { c with ideReq := true })) = true ∧
    dpaOpen (cxe .alloc) (3 * 2 ^ 30) = false ∧ memOn (cxe .alloc) = true ∧ ideHold (cxe .alloc) = false ∧
    after (.cxlMemRead (3 * 2 ^ 30)) { cxe .accepted with devBad := [(3 * 2 ^ 24, 1)] } (fun t => decide (t.out = [.cxlData (3 * 2 ^ 30) true (List.replicate 64 0)])) = true ∧
    hostReach { srv [] with dev := { state := .off } } = false := by decide +kernel
theorem test_cxlMemWrite : after (.cxlMemWrite (3 * 2 ^ 30 + 62) [7, 8] false) (cxe .accepted) (fun t => decide (t.devMem = [(3 * 2 ^ 30 + 62, 7), (3 * 2 ^ 30 + 63, 8)])) = true ∧
    after (.cxlMemWrite (3 * 2 ^ 30) (List.replicate 64 0) false) { cxe .accepted with devBad := [(3 * 2 ^ 24, 1)] } (fun t => decide (t.devBad = [])) = true := by decide +kernel
/-- R268: a narrow write to a line that a read finds poisoned is dropped and counted; a line with nothing noted is good. -/
theorem test_readDev : let s := { cxe .accepted with cxl := { (cxe .accepted).cxl with ext := [(3, { ex1 .accepted with pcs := [(8, 0)] })] } }
    (readDev { s with devBad := [(3 * 2 ^ 24, 1)] } (3 * 2 ^ 24)).1 = true ∧ (readDev s (3 * 2 ^ 24)).1 = false ∧ dpaAnswers s (3 * 2 ^ 30) = true ∧
    dpaStack s (3 * 2 ^ 30) = some 8 ∧ (∀ e ∈ (s.hbmc 8).uses, e.2 ≠ .dev (3 * 2 ^ 24)) ∧
    after (.cxlMemWrite (3 * 2 ^ 30) [1] true) { s with devBad := [(3 * 2 ^ 24, 1)] } (fun t => decide ((t.hbmc 8).dropped = 1)) = true := by decide +kernel
theorem test_cxlMemWrite_poison : tget? (cxe .accepted).devBad (3 * 2 ^ 30 / 64) = none ∧ after (.cxlMemWrite (3 * 2 ^ 30) (List.replicate 64 0) true) (cxe .accepted) (fun t => decide (t.devBad = [(3 * 2 ^ 24, 3)])) = true ∧
    after (.cxlMemWrite (3 * 2 ^ 30) [1] false) { cxe .accepted with devBad := [(3 * 2 ^ 24, 1)] } (fun t => decide (t.devMem = [])) = true := by decide +kernel
/-- R384: the write that waited for the line goes on. -/
theorem test_birsp : let s := cx (fun c => { c with bisnp := [5], filter := [[5], [], [], []] })
    s.cxl.bisnp.contains 5 = true ∧ after (.birsp 5) s (fun t => decide (t.cxl.bisnp = [] ∧ t.cxl.filter = [[], [], [], []])) = true ∧ (cx id).cxl.bisnp.contains 5 = false := by decide +kernel
theorem test_hostSnoop : after (.hostSnoop 5) (cx (fun c => { c with cache := [(5, false)] })) (fun t => decide (t.cxl.cache = [] ∧ t.out = [.snoopAns 5 true false])) = true ∧
    tget? (cx id).cxl.cache 5 = none ∧ after (.hostSnoop 5) (cx (fun c => { c with cache := [(5, true)] })) (fun t => decide (t.cxl.cache = [] ∧ rd t (pgCxl + 0x12C) = 1)) = true := by decide +kernel

/-! #### Extents -/

/-- The staged extent 3 of region 0, at 2 GiB of partition 1, offered or not. -/
def dcs (o : Nat) (s : State) : State := wr s (pgCxl + 0x110) (3 * 2 ^ 4 + 8 * o + 1 * 2 ^ 10 + 2 * 2 ^ 16)
/-- Partition 1 holds every pseudo-channel of stack 8. -/
def pcs8 (s : State) : State := { s with pcOwner := (List.range 64).map (fun pc => (512 + pc, 1)) }
def res (t : State) : Nat := rdf t (pgCxl + 0x118) 1 3
theorem test_staged : stagedExt (dcs 1 (cx id)) = (3, 1, 2, true) ∧ stagedExt (dcs 0 (cx id)) = (3, 1, 2, false) := by decide +kernel
theorem test_dcAdd : HostMay (dcs 0 (pcs8 (cx id))) pgCxl ∧ RmTakes (dcs 0 (pcs8 (cx id))) 1 ∧ extFits (dcs 0 (pcs8 (cx id))) 1 (extPcs (dcs 0 (pcs8 (cx id))) 1 0) = true ∧
    after .dcAdd (dcs 0 (pcs8 (cx id))) (fun t => decide (res t = 0 ∧ (tget {} t.cxl.ext 3).state = .alloc)) = true ∧
    after .dcAdd (dcs 1 (pcs8 (cx id))) (fun t => decide (res t = 0 ∧ (tget {} t.cxl.ext 3).state = .offered ∧ t.cxl.dcLog.length = 1)) = true :=
  ⟨hostMay_of (by decide +kernel), rmTakes_of (by decide +kernel), by decide +kernel, by decide +kernel, by decide +kernel⟩
/-- R380: the refusals. -/
theorem test_dcAdd_refused : after .dcAdd (dcs 0 (cxe .alloc)) (fun t => decide (res t = 3)) = true ∧ after .dcAdd (dcs 0 { cx id with parts := [] }) (fun t => decide (res t = 2)) = true ∧
    after .dcAdd (dcs 0 (cx id)) (fun t => decide (res t = 4)) = true ∧ after .dcAdd (dcs 1 (pcs8 (srv []))) (fun t => decide (res t = 5)) = true ∧
    after .dcAdd { cx id with stw := { rm := .held } } (fun t => decide (res t = 1)) = true := by decide +kernel
theorem test_dcRelease : after .dcRelease (dcs 0 (cxe .alloc)) (fun t => decide ((tget {} t.cxl.ext 3).state = .releasing ∧ res t = 0)) = true ∧
    after .dcRelease (dcs 0 (cxe .accepted)) (fun t => (tget {} t.cxl.ext 3).relReq) = true ∧ after .dcRelease (dcs 0 (cx id)) (fun t => decide (res t = 2)) = true ∧
    after .dcRelease (dcs 0 (cxe .zeroing)) (fun t => decide (res t = 0)) = true := by decide +kernel
theorem test_dcRelease_used : extInUse { cxe .alloc with rings := [(5, { part := 1, rbase := 2 ^ 62 + 2 * 2 ^ 30 })] } 1 2 = true ∧
    after .dcRelease (dcs 0 { cxe .alloc with rings := [(5, { part := 1, rbase := 2 ^ 62 + 2 * 2 ^ 30 })] }) (fun t => decide (res t = 3)) = true := by decide +kernel
theorem test_dcRead : after .dcRead (dcs 0 (cxe .accepted)) (fun t => decide (rdf t (pgCxl + 0x118) 4 3 = 3 ∧ rdf t (pgCxl + 0x118) 7 5 = 1 ∧ rdf t (pgCxl + 0x118) 12 9 = 2)) = true := by decide +kernel
theorem test_extentUnused : after (.extentUnused 3) (cxe .releasing) (fun t => decide ((tget {} t.cxl.ext 3).state = .zeroing)) = true ∧ (tget {} (cx id).cxl.ext 3).state ≠ .releasing := by decide +kernel
def mref : List Byte := dsc 3 1 [(0x0C, 8, 2 ^ 62 + 2 * 2 ^ 30 + 64), (0x14, 4, 192)]
theorem test_extentUnused_held : after (.extentUnused 3) { cxe .releasing with reqs := [(4, { ring := 9, desc := mref, part := 1, replay := true })] }
    (fun t => decide ((tget {} t.cxl.ext 3).state = .releasing)) = true := by decide +kernel
theorem test_extentZeroed : after (.extentZeroed 3) { cxe .zeroing with devMem := [(3 * 2 ^ 30, 9)], devBad := [(3 * 2 ^ 24 + 5, 1)] } (fun t => decide ((tget {} t.cxl.ext 3).state = .free ∧ t.devMem = [] ∧ t.devBad = [])) = true ∧
    (tget {} (cx id).cxl.ext 3).state ≠ .zeroing := by decide +kernel

/-! #### The mailbox -/

def mb3 (t : State) (code ret : Nat) : Bool := t.out.any (fun o => match o with | .mailbox c r _ => decide (c = code ∧ r = ret) | _ => false)
theorem test_mailbox : hostReach (cx id) = true ∧ ideHold (cx id) = false ∧ (cx id).chip.dcCap = true ∧ RmTakes (cx id) 1 ∧ after (.unsupportedMailboxCommand 0x4300) (cx id) (fun t => mb3 t 0x4300 3) = true ∧
    ideHold (cx (fun c => { c with ideReq := true })) = true ∧ hostReach (cx (fun c => { c with ideReq := true })) = true := ⟨by decide, by decide, by decide, rmTakes_of (by decide), by decide +kernel, by decide, by decide⟩
theorem test_identify : after .identifyMemoryDevice (cx id) (fun t => decide (t.out.length = 1)) = true ∧ after .identifyMemoryDevice { cx id with stw := { rm := .restarting } } (fun t => mb3 t 0x4000 6) = true := by decide +kernel
theorem test_dcConfiguration : after .getDynamicCapacityConfiguration (cx id) (fun t => decide (t.out.length = 1 ∧ t.free = 1)) = true ∧
    (let s := { cx id with chip := { (cx id).chip with dcCap := false } }; hostReach s = true ∧ ideHold s = false ∧ after .getDynamicCapacityConfiguration s (fun t => mb3 t 0x4800 3) = true) := by decide +kernel
theorem test_extentList : after .getDynamicCapacityExtentList (cxe .accepted) (fun t => t.out.any (fun o => match o with | .mailbox _ 0 b => decide (b.length = 56 ∧ le b 0 4 = 1 ∧ le b 16 8 = 3 * 2 ^ 30) | _ => false)) = true := by decide +kernel
theorem test_addResponse : after (.addDynamicCapacityResponse [(3 * 2 ^ 30, 2 ^ 30)]) (cxe .offered) (fun t => decide ((tget {} t.cxl.ext 3).state = .accepted)) = true ∧
    after (.addDynamicCapacityResponse []) (cxe .offered) (fun t => decide ((tget {} t.cxl.ext 3).state = .alloc)) = true := by decide +kernel
theorem test_addResponse_bad : extsNamed (cxe .offered) .offered [(64, 2 ^ 30)] = none ∧ after (.addDynamicCapacityResponse [(4 * 2 ^ 30, 2 ^ 30)]) (cxe .offered) (fun t => mb3 t 0x4802 0x0F) = true ∧
    (cxe .offered).cxl.ext.filter (fun e => decide (e.2.state = .offered)) = [(3, ex1 .offered)] ∧ (∀ e ∈ (cx id).cxl.ext, e.2.state ≠ .offered) := by decide +kernel
theorem test_release : extsNamed (cxe .accepted) .accepted [(3 * 2 ^ 30, 2 ^ 30)] = some [3] ∧ after (.releaseDynamicCapacity [(3 * 2 ^ 30, 2 ^ 30)]) (cxe .accepted) (fun t => decide ((tget {} t.cxl.ext 3).state = .alloc)) = true ∧
    extsNamed (cxe .alloc) .accepted [(3 * 2 ^ 30, 2 ^ 30)] = none := by decide +kernel
def logged : State := cx (fun c => { c with ext := [(3, ex1 .offered)], dcLog := [{ ext := 3, handle := 7 }] })
theorem test_getEvents : after (.getEventRecords 4) logged (fun t => t.out.any (fun o => match o with | .mailbox _ 0 b => decide (le b 0 2 = 1 ∧ le b 2 2 = 7 ∧ b.length = 45) | _ => false)) = true ∧
    after (.getEventRecords 5) logged (fun t => mb3 t 0x0100 2) = true := by decide +kernel
theorem test_clearEvents : after (.clearEventRecords 4 [7]) logged (fun t => decide (t.cxl.dcLog = [])) = true ∧ after (.clearEventRecords 4 [7, 8]) logged (fun t => mb3 t 0x0101 0x0E) = true ∧
    (∀ k ∈ [7], ∃ e ∈ logged.cxl.dcLog, e.handle = k) := by decide +kernel


/-! #### The security block -/

/-- A message in the buffer. -/
def msg (m : List Byte) (s : State) : State := wr { s with sec := { s.sec with mb := mwrite [] 0 m } } (pgSec + 0x10C) m.length
/-- A change of the security block. -/
def sx (f : Sec → Sec) : State := { srv [] with sec := f {} }
theorem test_secMay : HostMay (srv []) pgSec ∧ secBusy (srv []) = false ∧ secBusy { srv [] with parts := [(1, { winWait := some {} })] } = true :=
  ⟨hostMay_of (by decide), by decide, by decide⟩
theorem test_report : after (.report 1 true) (srv []) (fun t => decide (t.sec.result = 0 ∧ t.sec.reports = 1)) = true ∧ (layoutEntry (srv []) 1).length = 32 := by decide +kernel
theorem test_readCertificate : after (.readCertificate 1) (srv []) (fun t => decide (t.sec.result = 0)) = true := by decide +kernel
theorem test_readCertificate_index : after (.readCertificate 3) (srv []) (fun t => decide (t.sec.result = 2)) = true := by decide +kernel
theorem test_installFenceKey : after .installFenceKey (wr (srv []) (pgSec + 0x10C) 1312) (fun t => decide (t.sec.fenceKey.isSome ∧ t.sec.result = 0)) = true ∧
    after .installFenceKey (sx (fun x => { x with fenceKey := some [] })) (fun t => decide (t.sec.result = 1)) = true ∧ after .installFenceKey (srv []) (fun t => decide (t.sec.result = 2)) = true := by
  decide +kernel
theorem test_addTrustKey : after .addTrustKey (wr (srv []) (pgSec + 0x10C) 1312) (fun t => decide (t.sec.trust.map (·.1) = [0] ∧ t.sec.result = 0)) = true ∧
    after .addTrustKey (sx (fun x => { x with trust := (List.range 16).map (fun i => (i, K)) })) (fun t => decide (t.sec.result = 3)) = true := by decide +kernel
theorem test_removeTrustKey : after (.removeTrustKey 0) (sx (fun x => { x with trust := [(0, K)] })) (fun t => decide (t.sec.trust = [])) = true ∧
    after (.removeTrustKey 1) (sx (fun x => { x with trust := [(0, K)] })) (fun t => decide (t.sec.result = 3)) = true ∧ (∀ n : Fin 4, ((srv []).port n).sealed = false) := by decide +kernel
/-- R436: a link whose peer used the key goes down. -/
theorem test_removeTrustKey_link : after (.removeTrustKey 0) { sld { phase := .done, peer := sha3 K } with ports := [(2, { up := true, sealed := true, hs := { phase := .done, peer := sha3 K } })] }
    (fun t => !(t.port 2).up) = true := by decide +kernel
/-- The stream's messages from the listed host. -/
def ideM (t : Nat) (b : List Byte) : List Byte := hsMsg t 1 b
def ided (h : Seal) (m : List Byte) : State := msg m { cx (fun c => { c with ide := h, ideIo := true, ideCm := true }) with sec := { trust := [(0, K)] } }
/-- The SHA3-256 digest of the byte 1 (FIPS 202), the key of the tests. -/
def kd : List Byte := [39, 103, 241, 92, 138, 242, 242, 199, 34, 93, 82, 115, 253, 214, 131, 237, 199, 20, 17, 10, 152, 125, 16, 84, 105, 124, 52, 138, 237, 78, 108, 199]
theorem test_sha3 : sha3 K = kd := by decide +kernel
/-- A `HELLO` for the IDE streams in the buffer, from the sender of a digest. -/
def ideHello (d : List Byte) : State :=
  wr { cx id with sec := { trust := [(0, K)], mb := [(0, 0xEA), (1, 0xC5), (2, 1), (3, 1), (4, 0xF0), (5, 4), (6, 1)] ++ ((List.range 32).map (· + 48)).zip d } } (pgSec + 0x10C) 1264
theorem test_ide_hello : hsOk (mbMsg (ideHello [])) 1 1 = true ∧ trustKey (ideHello []) (bslice (mbMsg (ideHello [])) 48 32) = none := by decide +kernel
theorem test_ide_hello_listed : hsOk (mbMsg (ideHello kd)) 1 1 = true ∧ trustKey (ideHello kd) (bslice (mbMsg (ideHello kd)) 48 32) = some K := by decide +kernel
/-- A `CONFIRM` that is too short is malformed; one of the form wanted comes to the check of its signature. -/
theorem test_ide_confirm : let s := ided { phase := .replySent, peer := sha3 K } [0, 0, 0, 3]
    le (mbMsg s) 3 1 = 3 ∧ s.cxl.ide.phase = .replySent ∧ hsOk (mbMsg s) 3 1 = false ∧ trustKey s s.cxl.ide.peer = some K ∧ hsOk (ideM 3 []) 3 1 = true ∧
    after .ideHandshakeMessage s (fun t => decide (t.sec.result = 5)) = true := by decide +kernel
theorem test_ide_confirm_error : confirmed (ided {} []) { phase := .replySent } [0, 0, 0, 3] 1 = .error 3 := by
  simp only [confirmed, (by decide +kernel : hsOk [0, 0, 0, 3] 3 1 = false)]; rfl
theorem test_ide_rekey : after .ideHandshakeMessage (ided { phase := .done, keyIdx := 6 } (ideM 4 (leBytes 4 7))) (fun t => decide (t.cxl.ide.keyIdx = 7 ∧ t.cxl.keyset = 3 ∧ t.sec.result = 0)) = true ∧
    after .ideHandshakeMessage (ided { phase := .done, keyIdx := 6 } (ideM 4 (leBytes 4 9))) (fun t => decide (t.sec.result = 5 ∧ t.cxl.ideIo = false)) = true := by decide +kernel
theorem test_ide_abort : hsOk (mbMsg (ided { phase := .done } (hsAbort 1 2))) 5 1 = true ∧ after .ideHandshakeMessage (ided { phase := .done } (hsAbort 1 2)) (fun t => !t.cxl.ideIo && !t.cxl.ideCm) = true := by decide +kernel
/-- Window `w` of partition 1 staged. -/
def win (w base len : Nat) (s : State) : State := wr (wr (wr s (pgSec + 0x120) (16 + w)) (pgSec + 0x124) base) (pgSec + 0x12C) len
theorem test_applyWindow : after .applyWindow (win 1 0x5000 0x2000 (srv [])) (fun t => decide ((t.part 1).windows = [(0, (0, 2 ^ 40)), (1, (0x5000, 0x2000))] ∧ t.sec.result = 0)) = true ∧
    hostInUse (srv []) 1 0 (2 ^ 40) = true ∧ after .applyWindow (win 0 0 0 (srv [])) (fun t => decide (t.sec.result = 4)) = true := by decide +kernel
theorem test_applyWindow_removed : after .applyWindow (win 0 0 0 { srv [] with rings := [] }) (fun t => decide ((t.part 1).windows = [])) = true ∧
    after .applyWindow (win 0 0 0 { srv [] with rings := [], reqs := [(4, { part := 1 })] }) (fun t => decide (((t.part 1).winWait).map (·.older) = some [4])) = true := by decide +kernel
def wwt : State := { srv [] with parts := [(1, { state := .live, winWait := some { win := 0, older := [4] } })] }
theorem test_windowChangeDone : after (.windowChangeDone 1) wwt (fun t => decide ((t.part 1).winWait = none)) = true ∧
    after (.windowChangeDone 1) { wwt with reqs := [(4, { part := 1 })] } (fun t => (t.part 1).winWait.isSome) = true ∧ ((srv []).part 1).winWait = none := by decide +kernel
theorem test_debugToken : tokenGood (srv []) [1] = false ∧ after (.debugToken [1]) (srv []) (fun t => decide (t.sec.fails = 1)) = true ∧
    after (.debugToken [1]) (sx (fun x => { x with fails := 8 })) (fun t => decide (t.sec.fails = 8 ∧ t.out = [])) = true := by decide +kernel

/-! #### Firmware -/

/-- The boot record `r` in force. -/
def br (r : BootRec) : State := { srv [] with stw := { recA := { r with valid := true } } }
def fwr (t : State) : Nat := t.stw.fwResult
theorem test_fwMay : HostMay (srv []) pgStw ∧ (srv []).stw.fw = none ∧ RmTakes (srv []) 2 ∧ trialOn (srv []) = false := ⟨hostMay_of (by decide), by decide, rmTakes_of (by decide), by decide⟩
theorem test_fw_busy : after (.fwVerify 1) { srv [] with stw := { fw := some {} } } (fun t => decide (t.stw.fw = some {})) = true ∧
    after (.fwVerify 1) { srv [] with stw := { rm := .held } } (fun t => decide (fwr t = 1)) = true := by decide +kernel
theorem test_fwStream_trial : trialOn (br { pending := true }) = true ∧ after .fwStream (br { pending := true }) (fun t => decide (fwr t = 8)) = true ∧
    after .raiseSecurityVersion (br { started := true }) (fun t => decide (fwr t = 8)) = true := by decide +kernel
/-- The first fields of a header: security version 5, two blocks. -/
def hdr : List Byte := leBytes 4 0x4D494258 ++ [1, 0, 0, 0] ++ leBytes 4 1 ++ List.replicate 12 0 ++ leBytes 4 5 ++ [16, 0, 0, 0] ++ leBytes 4 2
theorem test_header : ihSvn hdr = 5 ∧ ihNblk hdr = 2 ∧ blocksAt hdr 1 = 65536 ∧ headerForm hdr = false := by decide +kernel
theorem test_fwVerify : after (.fwVerify 1) (srv []) (fun t => decide (t.stw.fw = some { slot := 1 })) = true := by decide +kernel
theorem test_activateTrial : after .activateTrial (br { slotB := 2 }) (fun t => decide (fwr t = 0 ∧ (bootRec t).pending = true ∧ (bootRec t).trial = 1)) = true ∧
    after .activateTrial (br { slotB := 1 }) (fun t => decide (fwr t = 6)) = true := by decide +kernel
theorem test_commit : after .commit (br { started := true, trial := 1 }) (fun t => decide ((bootRec t).active = 1 ∧ (bootRec t).started = false)) = true ∧
    after .commit (br {}) (fun t => decide ((bootRec t).gen = 0)) = true := by decide +kernel
theorem test_cancelTrial : after .cancelTrial (br { pending := true }) (fun t => decide ((bootRec t).pending = false ∧ (bootRec t).gen = 1)) = true ∧
    after .cancelTrial (br {}) (fun t => decide ((bootRec t).gen = 0 ∧ fwr t = 0)) = true := by decide +kernel
/-- R470: the counter rises to the committed image's. -/
theorem test_raiseSecurityVersion : let s := { br {} with stw := { recA := { valid := true }, slotA := some { header := hdr } } }
    slotImage s (bootRec s).active = some { header := hdr } ∧ after .raiseSecurityVersion s (fun t => decide (t.sec.svn = 5 ∧ fwr t = 0)) = true ∧
    after .raiseSecurityVersion { s with sec := { svn := 5 } } (fun t => decide (t.sec.svn = 5 ∧ fwr t = 5)) = true := by decide +kernel
/-- A firmware command under way. -/
def fwj (j : FwJob) (m : Image) : State := { srv [] with stw := { fw := some j, slotB := some m, recA := { valid := true, slotB := 1 } } }
theorem test_fwAbort : after .fwAbort (fwj { stream := true, slot := 1 } {}) (fun t => decide (t.stw.fw = none ∧ t.stw.slotB = none)) = true ∧
    after .fwAbort (fwj { slot := 1 } {}) (fun t => t.stw.fw.isSome) = true := by decide +kernel
theorem test_fwDone : let s := fwj { stream := true, slot := 1 } { header := List.replicate 64 0 }
    ideHold s = false ∧ slotImage s 1 = some { header := List.replicate 64 0 } ∧
    after .fwDone s (fun t => decide (fwr t = 0 ∧ slotCode (bootRec t) 1 = 1 ∧ t.stw.fwDone = 1000)) = true := by decide +kernel
theorem test_fwDone_stream : streamBlocks (srv []) [] 0 0 (ihNblk (List.replicate 64 0)) = .ok [] := by
  have h : ihNblk (List.replicate 64 0) = 0 := by decide +kernel
  rw [h]; rfl
theorem test_fwVerifyDone : let s := fwj { slot := 1 } {}
    imageGood s {} = false ∧ slotCode (bootRec s) 1 ≠ 0 ∧ after .fwVerifyDone s (fun t => decide (fwr t = 6 ∧ slotCode (bootRec t) 1 = 1)) = true := by decide +kernel
theorem test_trialCommitTimer : inService (br { started := true }) = true ∧ after .trialCommitTimer (br { started := true, trial := 1 }) (fun t => decide ((bootRec t).active = 1)) = true ∧
    (bootRec (br {})).started = false ∧ (bootRec (br {})).gen + 1 < 2 ^ 32 := by decide +kernel


/-! #### Boot and the ringmaster -/

/-- The device in `BOOT` at a step. -/
def bt (n : Nat) (f : Stw → Stw) : State := { State.reset with dev := { State.reset.dev with state := .boot, bootStep := n, bootCause := 1 }, stw := f {} }
/-- R469: with both slots empty the device waits for a recovery image. -/
theorem test_bootRom_empty : slotCode (bootRec (bt 0 id)) 0 = 0 ∧ slotCode (bootRec (bt 0 id)) 1 = 0 ∧
    after .bootRom (bt 0 id) (fun t => t.stw.recovery && decide (t.pwr.sbAlert = 1) && !t.dev.alertN) = true := by decide +kernel
theorem test_bootRom_not : (srv []).dev.state ≠ .boot ∧ (bootRec (bt 0 id)).pending = false ∧ (bootRec (bt 0 id)).started = false := by decide +kernel
/-- R467: a slot whose image is not good is marked bad, and a trial that could not start has ended. -/
theorem test_bootRom_bad : after .bootRom (bt 0 (fun w => { w with recA := { valid := true, slotA := 2, slotB := 1, pending := true, trial := 1 }, slotA := some {}, slotB := some {} }))
    (fun t => decide (slotCode (bootRec t) 0 = 3 ∧ slotCode (bootRec t) 1 = 3 ∧ (bootRec t).started = false) && t.stw.trialEnded) = true := by decide +kernel
theorem test_loaderStart : after .loaderStart (bt 1 (fun w => { w with recA := { valid := true, slotA := 2 } })) (fun t => decide (t.dev.bootStep = 0 ∧ slotCode (bootRec t) 0 = 3)) = true ∧
    (bt 0 id).dev.bootStep ≠ 1 := by decide +kernel
/-- R477: the boot record is the first of the log. -/
theorem test_runtimeStart : after .runtimeStart (bt 2 (fun w => { w with recA := { valid := true, boots := 7 }, runSlot := 1 }))
    (fun t => decide (t.dev.state = .train ∧ (t.evr.log.head?.map (fun r => bslice r 0x0F 8)) = some [0x20, 1, 7, 0, 0, 0, 1, 0])) = true ∧ (bt 0 id).dev.bootStep ≠ 2 := by decide +kernel
theorem test_trainDone : after .trainDone { srv [] with dev := { state := .train } } (fun t => decide (t.dev.state = .ready) && t.dev.pagesOpen && t.cab.mounted) = true ∧
    after .trainDone { srv [] with dev := { state := .train }, evr := { dump0 := { state := .unreleased } } } (fun t => bit (rd t (pgEvr + 0x10)) 2) = true ∧ (srv []).dev.state ≠ .train := by
  decide +kernel
def rcv (w : Bool) : State := bt 0 (fun x => { x with recovery := true, recWait := w, recBytes := [1, 2], recResult := if w then 2 else 0xFF })
theorem test_recoveryImageData : after (.recoveryImageData [3]) (rcv false) (fun t => decide (t.stw.recBytes = [1, 2, 3] ∧ t.stw.recWait = false)) = true ∧
    after (.recoveryImageData [3]) (rcv true) (fun t => decide (t.stw.recBytes = [1, 2])) = true := by decide +kernel
theorem test_recoveryStatus : after .recoveryStatusRequest (rcv true) (fun t => decide (t.out = [.usb [2, 0, 0, 0, 2, 0, 0, 0]])) = true ∧
    after .recoveryReenumeration (rcv true) (fun t => decide (t.stw.recBytes = [] ∧ t.stw.recResult = 0xFF ∧ t.stw.recWait = false)) = true ∧ (bt 0 id).stw.recovery = false := by decide +kernel
/-- R456: the fourth expiry within ten minutes. -/
theorem test_watchdog : after .watchdogExpiry (srv []) (fun t => decide (t.stw.rm = .restarting ∧ t.stw.expiries = [0] ∧ rdf t (pgStw + 0x124) 0 16 = 1)) = true ∧
    after .watchdogExpiry { srv [] with stw := { expiries := [0, 0, 0] } } (fun t => decide (t.stw.rm = .held ∧ t.pwr.sbAlert = 2)) = true ∧ (bt 0 id).dev.state = .boot := by decide +kernel
theorem test_restart : HostMay (srv []) pgStw ∧ after .restart (srv []) (fun t => decide (t.stw.rm = .restarting) && t.stw.lastOp) = true ∧
    after .restartDone { srv [] with stw := { rm := .restarting } } (fun t => decide (t.stw.rm = .running)) = true ∧ (srv []).stw.rm ≠ .restarting := ⟨hostMay_of (by decide), by decide +kernel, by decide +kernel, by decide⟩
/-- R452: three windows at or below 50 % end the deferral of class 3. -/
theorem test_loadWindow : after (.loadWindow 70) (srv []) (fun t => t.stw.defer3 && !t.stw.defer23) = true ∧ after (.loadWindow 50) { srv [] with stw := { defer3 := true, calm3 := 2 } } (fun t => !t.stw.defer3) = true ∧
    after (.loadWindow 51) { srv [] with stw := { defer3 := true, calm3 := 2 } } (fun t => t.stw.defer3 && decide (t.stw.calm3 = 0)) = true ∧ after (.loadWindow 85) (srv []) (fun t => t.stw.defer23) = true := by
  decide +kernel
theorem test_loadWindow_held : after (.loadWindow 85) { srv [] with stw := { rm := .held } } (fun t => !t.stw.defer23) = true := by decide +kernel

/-! #### Recorder, capture, replay -/

theorem test_evrWstatRead : HostMay (srv []) pgEvr ∧ badInWindow { srv [] with evr := { log := [List.replicate 32 1] } } 0 = 1 ∧
    after .evrWstatRead { srv [] with evr := { log := [List.replicate 32 1] } } (fun t => decide (rd t (pgEvr + 0x124) = 1) && bit (rd t (pgEvr + 0x10)) 1) = true := ⟨hostMay_of (by decide), by decide +kernel, by decide +kernel⟩
def evA : Ev := { island := 0, sev := 0, blk := 0x070, inst := 0, code := 0x21, datas := [[1]] }
/-- R478, R479: a repeated record counts up, another one is appended. -/
theorem test_accept : ((accept1 (srv []) evA).evr.log.map (fun r => le r 0x0F 1)) = [0x21] ∧ (accept1 (accept1 (srv []) evA) evA).evr.log.map recRepeat = [1] ∧
    (accept1 (accept1 (srv []) evA) { evA with datas := [[2]] }).evr.log.length = 2 := by decide +kernel
theorem test_evrClear : after .evrClear { srv [] with evr := { log := [List.replicate 32 1] } } (fun t => decide (t.evr.clrResult = 1 ∧ t.evr.log.length = 1)) = true ∧
    after .evrClear (wr { srv [] with evr := { log := [mkRecord 0 0 0 0 0x070 0 0x21 [1]] } } (pgEvr + 0x118) 1) (fun t => decide (t.evr.clrResult = 0 ∧ t.evr.log = [])) = true ∧
    after .evrClear (wr { srv [] with evr := { log := [recSetRepeat (mkRecord 0 0 0 0 0x070 0 0x21 [1]) 3] } } (pgEvr + 0x118) 1) (fun t => decide (t.evr.clrResult = 2)) = true := by decide +kernel
/-- A capture ring in extent 3. -/
def cap (s : State) : State := wr (wr s (pgCapt 1 + 0x104) (2 * 2 ^ 30)) (pgCapt 1 + 0x108) (2 ^ 30)
theorem test_captCfg : HostMay (cap (cxe .accepted)) (pgCapt (1 : Fin 32).val) ∧ captBaseOk (cap (cxe .accepted)) 1 0 = true ∧
    after (.captCfgWrite 1 1) (cap (cxe .accepted)) (fun t => captEn t 1) = true ∧ captEn (srv []) 1 = false := ⟨hostMay_of (by decide +kernel), by decide +kernel, by decide +kernel, by decide +kernel⟩
theorem test_captCfg_refused : captBaseOk (srv []) 1 0 = false ∧ after (.captCfgWrite 1 1) (srv []) (fun t => !captEn t 1) = true ∧
    after (.captCfgWrite 1 0x100) (wr (srv []) (pgCapt 1 + 0x100) 1) (fun t => decide (rd t (pgCapt 1 + 0x100) = 0)) = true := by decide +kernel
theorem test_snap : HostMay (srv []) (pgMtr (1 : Fin 32).val) ∧ after (.snap 1) { srv [] with parts := [(1, { meter := { keys := 7 }, pseq := 3 })] } (fun t => decide ((t.part 1).latch.m.keys = 7 ∧ (t.part 1).latch.pseq = 3)) = true :=
  ⟨hostMay_of (by decide), by decide +kernel⟩
/-- Partition 1 as a target, with `n` bytes of entries at 0x40000. -/
def rpl (n : Nat) (x : Replay) (b : List Byte) : State := wr (wr { srv [] with rings := [], replay := [(1, x)], hostMem := mwrite [] 0x40000 b } (pgCapt 1 + 0x140) 0x40000) (pgCapt 1 + 0x148) n
theorem test_replayStart : HostMay (rpl 64 {} []) (pgCapt (1 : Fin 32).val) ∧ replayTarget (rpl 64 {} []) 1 = true ∧ replayTarget (srv []) 1 = false ∧ (srv []).chip.replayCap = true ∧
    after (.replayStart 1 2) (rpl 64 {} []) (fun t => decide (tget {} t.replay 1 = { busy := true, die := 2 })) = true ∧
    after (.replayStart 1 2) (srv []) (fun t => decide ((tget {} t.replay 1).result = 2)) = true := ⟨hostMay_of (by decide +kernel), by decide +kernel, by decide +kernel, by decide, by decide +kernel, by decide +kernel⟩
theorem test_replayStop : after (.replayStop 1) (rpl 64 { busy := true } []) (fun t => !(tget {} t.replay 1).busy) = true ∧
    after (.replayStart 1 0) { rpl 64 {} [] with stw := { rm := .held } } (fun t => decide ((tget {} t.replay 1).result = 1)) = true := by decide +kernel
/-- An entry of 256 bytes with flags and a descriptor. -/
def entry (flags : Nat) (d : List Byte) : List Byte :=
  leBytes 2 0xCA97 ++ [1, 1] ++ leBytes 4 256 ++ leBytes 8 5 ++ List.replicate 7 0 ++ leBytes 1 flags ++ List.replicate 104 0 ++ d ++ List.replicate 64 0
theorem test_replayEntry_skip : enSkipped (rpl 256 {} []) (entry 0 (dsc 6 1 [])) none = true ∧
    after (.replayEntry 1) (rpl 256 { busy := true, cur := 99 } (entry 0 (dsc 6 1 []))) (fun t => decide ((tget {} t.replay 1).skip = 1)) = true := by decide +kernel
theorem test_replayEntry_run : enSkipped (rpl 256 {} []) (entry 1 (dsc 6 1 [])) none = false ∧ fetching (rpl 256 { busy := true } []) = true ∧ tget? (rpl 256 { busy := true } []).reqs 0 = none ∧
    (refRead (rpl 256 { busy := true } (entry 1 (dsc 6 1 []))) 1 0x40000 256).1 = some (entry 1 (dsc 6 1 [])) := by decide +kernel
theorem test_replayEntry_end : after (.replayEntry 1) (rpl 256 { busy := true, cur := 99 } []) (fun t => !(tget {} t.replay 1).busy) = true ∧
    (refRead { rpl 256 { busy := true } [] with hostBad := [0x1000] } 1 0x40000 64).1 = none ∧ (tget {} (rpl 64 {} []).replay 1).busy = false := by decide +kernel

/-! #### The fatal dump -/

def dmp (f : Evr → Evr) : State := { srv [] with dev := { state := .dump, pagesOpen := true }, evr := f {} }
theorem test_dumpStart : after .dumpStart (dmp id) (fun t => decide (t.evr.active = some 0 ∧ t.evr.dump0.state = .incomplete ∧ t.evr.dump0.reduced = false)) = true ∧
    after .dumpStart { dmp id with stw := { rm := .held } } (fun t => t.evr.dump0.reduced) = true ∧ after .dumpStart { dmp id with stw := { rm := .restarting } } (fun t => t.evr.active.isNone) = true := by decide +kernel
theorem test_dumpTimeout : after .dumpTimeout (dmp id) (fun t => t.evr.dump0.reduced) = true ∧
    after .dumpTimeout (dmp (fun e => { e with active := some 1, dump1 := { state := .incomplete } })) (fun t => t.evr.dump1.reduced) = true ∧ (srv []).dev.state ≠ .dump := by decide +kernel
theorem test_dumpComplete : after .dumpComplete (dmp (fun e => { e with active := some 1, dump1 := { state := .incomplete, no := 4, reduced := true } }))
    (fun t => decide (t.dev.state = .halt ∧ t.evr.dump1.state = .unreleased ∧ t.evr.dump1.no = 4 ∧ t.pwr.sbAlert = 1)) = true ∧ (dmp id).evr.active = none := by decide +kernel
/-- R494: the slot that a new dump takes. -/
theorem test_dumpChoice : dumpChoice (srv []) = 0 ∧ dumpChoice (dmp (fun e => { e with dump0 := { state := .unreleased } })) = 1 ∧
    dumpChoice (dmp (fun e => { e with dump0 := { state := .unreleased, no := 3, header := true }, dump1 := { state := .unreleased, no := 4, header := true } })) = 1 ∧
    dumpChoice (dmp (fun e => { e with dump0 := { state := .unreleased, no := 3 }, dump1 := { state := .released, no := 4 } })) = 1 := by decide +kernel
def dumped : State := { cx id with evr := { dump0 := { state := .unreleased, no := 1, bytes := [(4, 9)] } } }
theorem test_dumpCopy : HostMay dumped pgEvr ∧ after .dumpCopy (wr (wr dumped (pgEvr + 0x150) 0x40000) (pgEvr + 0x158) 8) (fun t => decide (t.hostMem = [(0x40004, 9)] ∧ t.evr.result = 0)) = true ∧
    after .dumpCopy (srv []) (fun t => decide (t.evr.result = 1)) = true ∧ after .dumpCopy { dumped with cxl := {} } (fun t => decide (t.evr.result = 2)) = true :=
  ⟨hostMay_of (by decide), by decide +kernel, by decide +kernel, by decide +kernel⟩
theorem test_dumpRelease : after .dumpRelease dumped (fun t => decide (t.evr.dump0.state = .released)) = true := by decide +kernel


/-! #### Power, temperature, drain -/

def off : State := { State.reset with dev := { State.reset.dev with state := .off } }
theorem test_pwr : after .pwrEn off (fun t => t.dev.pwrEn) = true ∧ after .pwrGood { off with dev := { off.dev with pwrEn := true } } (fun t => decide (t.dev.state = .boot ∧ t.dev.bootCause = 1)) = true ∧
    (srv []).dev.state ≠ .off := by decide +kernel
theorem test_inputLoss : after .inputLoss { srv [] with hostMem := [(4, 9)], sec := { svn := 5 } } (fun t => decide (t.dev.state = .off ∧ t.hostMem = [(4, 9)] ∧ t.sec.svn = 5 ∧ t.parts = [])) = true ∧
    after .pwrEnLow (srv []) (fun t => decide (t.dev.state = .off) && !t.dev.pwrEn) = true := by decide +kernel
theorem test_inputFault_within : (48000 ≤ 54000 ∧ 54000 ≤ 58000) ∧ (47999 < 48000 ∨ 58000 < 47999) ∧ after (.inputFault 58000) (srv []) (fun t => decide (t.pwr.sbAlert = 0)) = true ∧
    after (.inputFault 58001) (srv []) (fun t => t.pwr.inBad) = true := by decide +kernel
/-- R280: the retired pseudo-channels of a stack stay over a reset. -/
theorem test_resetN : let s := { srv [] with hbm := [(3, { retired := [7] })], cab := { blocks := [(5, { erases := 9 })] } }
    tsorted s.hbm = true ∧ tsorted s.cab.blocks = true ∧ after .resetN s (fun t => decide (t.dev.state = .boot ∧ t.dev.bootCause = 2 ∧ (t.hbmc 3).retired = [7] ∧ (eblock t 5).erases = 9 ∧ t.rings = [])) = true := by
  decide +kernel
/-- R386: `IDE_REQ` takes effect at the reset. -/
theorem test_conventionalReset : after .conventionalReset (wr (srv []) (pgCxl + 0x104) 1) (fun t => decide (t.dev.bootCause = 3 ∧ rd t (pgCxl + 0x104) = 1) && t.cxl.ideReq) = true ∧ off.dev.state = .off := by decide +kernel
theorem test_oscillator : after .referenceOscillatorLoss (srv []) (fun t => decide (t.dev.state = .dump ∧ t.pwr.sbAlert = 1)) = true ∧ (bt 0 id).dev.state = .boot := by decide +kernel
theorem test_fatal : (record (srv []) 0 3 0x090 0 0x22 []).dev.state = .dump ∧ (record (srv []) 0 3 0x090 0 0x22 []).dev.alertN = false := by decide +kernel
theorem test_smbus : after (.smbusBlockRead 0x10) { srv [] with pwr := { sbAlert := 5, vin := 54000 }, dev := { (srv []).dev with alertN := false } }
    (fun t => decide (t.pwr.sbAlert = 0 ∧ t.out = [.smbus [4, 0, 0, 0, 0, 0, 0xF0, 0xD2, 0, 0, 0, 0, 5, 0, 0, 0]]) && t.dev.alertN) = true ∧ after (.smbusBlockRead 0x11) (srv []) (fun t => decide (t.out = [])) = true := by
  decide +kernel
/-- R517: above 2,100 W the step rises by two; above the limit by one; a written mode takes effect. -/
theorem test_power : after (.powerMeasurement 54000 4000 2200) (srv []) (fun t => decide (t.pwr.step = 2 ∧ t.pwr.energyMj = 2200)) = true ∧
    after (.powerMeasurement 54000 4000 2000) (srv []) (fun t => decide (t.pwr.step = 1)) = true ∧
    after (.powerMeasurement 54000 4000 1000) { srv [] with pwr := { nextMode := some (1, 1000) } } (fun t => decide (t.pwr.step = 4 ∧ t.pwr.mode = 1 ∧ t.pwr.nextMode = none)) = true := by decide +kernel
theorem test_power_down : after (.powerMeasurement 54000 4000 1000) { srv [] with pwr := { step := 3, under := 99 } } (fun t => decide (t.pwr.step = 2)) = true ∧
    after (.powerMeasurement 54000 4000 1900) { srv [] with pwr := { step := 3, under := 99 } } (fun t => decide (t.pwr.step = 3)) = true := by decide +kernel
theorem test_pwrMode : HostMay (srv []) pgPwr ∧ after (.pwrModeWrite (BitVec.ofNat 32 (2 + 900 * 16))) (srv []) (fun t => decide (t.pwr.nextMode = some (2, 900))) = true ∧
    after (.pwrModeWrite (BitVec.ofNat 32 (2 + 899 * 16))) (srv []) (fun t => decide (t.pwr.nextMode = none)) = true := ⟨hostMay_of (by decide), by decide +kernel, by decide +kernel⟩
theorem test_pllLocked : noService (srv []) = false ∧ after .pllLocked { srv [] with pwr := { step := 3 } } (fun t => decide (tget 0 t.pwr.appliedT 5 = 3)) = true := by decide +kernel
/-- R520: a die enters step 1 at 97 °C, leaves it 3 °C lower after 1,000 readings, and trips above 105 °C. -/
theorem test_thermRead : (thermRead 0x10 (16 * 97) {}).step = 1 ∧ (thermRead 0x10 (16 * 97 - 1) {}).step = 0 ∧ (thermRead 0x10 (16 * 94) { step := 1, cool := 999 }).step = 0 ∧
    (thermRead 0x10 (16 * 94) { step := 1, cool := 998 }).step = 1 ∧ (thermRead 0x10 (16 * 105 + 1) { hot := 2 }).hot = 3 ∧ (thermRead 0x10 (16 * 105) { hot := 2 }).hot = 0 ∧
    (thermRead 0x30 (16 * 88) {}).step = 1 ∧ (thermRead 0x10 (16 * 95) { step := 1, cool := 9 }).step = 1 := by decide +kernel
theorem test_sensorReading : after (.sensorReading (List.replicate 20 0 ++ [641, 700])) { srv [] with pwr := { inletHot := 99 } } (fun t => decide (t.pwr.inlet = 641 ∧ t.pwr.outlet = 700 ∧ t.pwr.sbAlert = 16)) = true ∧
    (List.replicate 20 (0 : Int) ++ [641, 700]).length = 22 := by decide +kernel
theorem test_trip : (trip (srv []) 0x10 1700).dev.state = .dump ∧ (trip (bt 0 id) 0x10 1700).dev.tripN = false := by decide +kernel
theorem test_drain : after .drain (srv []) (fun t => decide (t.dev.state = .drain ∧ t.pwr.result = 0)) = true ∧ after .serve (srv []) (fun t => decide (t.pwr.result = 1)) = true ∧
    after .serve { srv [] with dev := { (srv []).dev with state := .drain } } (fun t => decide (t.dev.state = .serve)) = true := by decide +kernel
theorem test_drain_not : after .drain { srv [] with dev := { (srv []).dev with state := .ready } } (fun t => decide (t.dev.state = .ready ∧ t.pwr.result = 1)) = true := by decide +kernel

/-! #### Registers -/

theorem test_pgEvt : HostMay (srv []) (4096 * (pgPwr / 4096)) ∧ hasHeader (pgPwr / 4096) = true ∧ partHeld (srv []) (pgPwr / 4096) = false ∧
    after (.pgEvtWrite (pgPwr / 4096) 2) (wr (srv []) (pgPwr + 0x10) 3) (fun t => decide (rd t (pgPwr + 0x10) = 1)) = true ∧
    after (.pgEvtEnWrite (pgPwr / 4096) 2) (srv []) (fun t => decide (rd t (pgPwr + 0x14) = 2)) = true := ⟨hostMay_of (by decide), by decide, by decide, by decide +kernel, by decide +kernel⟩
theorem test_pgCtrl : after (.pgCtrlWrite (pgPwr / 4096) 0x8805) (srv []) (fun t => decide (rd t (pgPwr + 0x08) = 0x8005)) = true ∧ hasHeader 1 = false ∧
    after (.pgEvtForce (pgPwr / 4096) 1) (srv []) (fun t => decide (rd t (pgPwr + 0x10) = 1)) = true := by decide +kernel
theorem test_partHeld : partHeld { srv [] with parts := [(1, { state := .live, busy := true })] } (pgPart 1 / 4096) = true ∧ hasHeader (pgPart 1 / 4096) = true := by decide +kernel
/-- The interrupts of the device on: a page's message leaves when its alert stands. -/
def irq (m : Bool) : State := wr (wr { srv [] with msix := { enable := true, entries := [(5, (0x1000, 7, m))] } } (pgPwr + 0x08) 0x8005) (pgPwr + 0x14) 1
theorem test_alertMessage : after (.pgEvtForce (pgPwr / 4096) 1) (irq false) (fun t => decide (t.out = [.msix 5 0x1000 7])) = true ∧
    after (.pgEvtForce (pgPwr / 4096) 1) (irq true) (fun t => decide (t.out = [] ∧ t.msix.pend = [5])) = true := by decide +kernel
theorem test_msixUnmask : HostMay (irq true) 4096 ∧ after (.msixUnmask (some 5)) { irq true with msix := { (irq true).msix with pend := [5] } } (fun t => decide (t.out = [.msix 5 0x1000 7] ∧ t.msix.pend = [])) = true ∧
    after (.msixUnmask none) (srv []) (fun t => t.msix.enable && !t.msix.fmask) = true := ⟨hostMay_of (by decide), by decide +kernel, by decide +kernel⟩
/-- R106: the fields of a register that are cleared by a read. -/
theorem test_rcRead : HostMay (srv []) ((pgCxl + 0x124) / 4096 * 4096) ∧ accessFits (pgCxl + 0x124) 4 = true ∧
    after (.rcRead (pgCxl + 0x124) 4) (wr (srv []) (pgCxl + 0x124) 9) (fun t => decide (t.out = [.read (pgCxl + 0x124) 4 9] ∧ rd t (pgCxl + 0x124) = 0)) = true ∧
    after (.rcRead (pgCxl + 0x124) 2) (wr (srv []) (pgCxl + 0x124) 9) (fun t => decide (rd t (pgCxl + 0x124) = 9)) = true := ⟨hostMay_of (by decide), by decide, by decide +kernel, by decide +kernel⟩
theorem test_rcRead_not : pageOpen (bt 0 id) (pgPwr / 4096) = false ∧ hostReach (bt 0 id) = true ∧ ideHold (bt 0 id) = false ∧
    after (.rcRead pgPwr 4) (bt 0 id) (fun t => decide (t.out = [.read pgPwr 4 0])) = true ∧ accessFits (pgPwr + 8) 8 = true := by decide +kernel
theorem test_registerWrite : HostMay (srv []) ((pgStw + 0x140) / 4096 * 4096) ∧ after (.registerWrite (pgStw + 0x140) 8 0x500006000) (srv []) (fun t => decide (rd t (pgStw + 0x140) = 0x6000 ∧ rd t (pgStw + 0x144) = 5)) = true ∧
    after (.registerWrite (pgStw + 0x140) 2 0x6000) (srv []) (fun t => decide (rd t (pgStw + 0x140) = 0)) = true := ⟨hostMay_of (by decide), by decide +kernel, by decide +kernel⟩
theorem test_registerWrite_ide : ideHold (cx (fun c => { c with ideReq := true })) = true ∧ after (.registerWrite pgPwr 4 0) (cx (fun c => { c with ideReq := true })) (fun t => decide (t.out = [.refusedIo pgPwr])) = true := by
  decide +kernel
/-- A command register runs the command of its code. -/
theorem test_commandRegister : after (.registerWrite (pgPwr + 0x12C) 4 1) (srv []) (fun t => decide (t.dev.state = .drain)) = true ∧
    after (.registerWrite (pgPart 1 + 0x100) 4 3) (srv []) (fun t => decide ((t.part 1).state = .resetting)) = true ∧ after (.registerWrite (pgPwr + 0x12C) 4 0) (srv []) (fun t => decide (t.dev.state = .serve)) = true := by
  decide +kernel

/-! #### The rules that are stated word for word -/

theorem test_svn_low : ihSvn [] < (sx (fun x => { x with svn := 5 })).sec.svn ∧ slotImage (br {}) 0 = none := by decide +kernel
theorem test_cut : let s := { br { slotB := 1 } with stw := { recA := { valid := true, slotB := 1 }, slotB := some {}, fw := some { stream := true, slot := 1 } } }
    (bootRec s).gen + 1 < 2 ^ 32 ∧ after .resetN s (fun t => decide (slotCode (bootRec t) 1 = 0 ∧ slotImage t 1 = none)) = true ∧
    after .restart s (fun t => decide (slotCode (bootRec t) 1 = 0 ∧ slotImage t 1 = none)) = true := by decide +kernel


/-! #### Clauses with a case of their own -/

/-- R463: a header that cannot be read ends the stream with 9. -/
theorem test_fileCheck_poison : trialOn (br {}) = false ∧ HostMay { br {} with hostBad := [0] } pgStw ∧
    (fileCheck { br {} with hostBad := [0] } (some 0) (fun o n => hostPeek { br {} with hostBad := [0] } (0 + o) n)).1 = 9 := ⟨by decide +kernel, hostMay_of (by decide), by decide +kernel⟩
/-- R462: a header of another form is refused with 2. -/
theorem test_fileCheck_form : (fileCheck (br {}) (some 0) (fun o n => hostPeek (br {}) (0 + o) n)).1 = 2 := by decide +kernel
theorem test_streamBlocks_poison : streamBlocks { srv [] with hostBad := [0] } [] 0 0 1 = .error 9 := by
  simp only [streamBlocks, (by decide +kernel : hostPeek { srv [] with hostBad := [0] } (0 + 65536 * 0) 65536 = none)]
/-- R463: a stream whose slot holds no image stops. -/
theorem test_fwDone_none : let s := { srv [] with stw := { fw := some { stream := true, slot := 1 }, recA := { valid := true } } }
    ideHold s = false ∧ slotImage s 1 = none ∧ after .fwDone s (fun t => decide (fwr t = 9 ∧ t.stw.fw = none)) = true := by decide +kernel
theorem test_fwVerifyDone_none : let s := { srv [] with stw := { fw := some { slot := 1 }, recA := { valid := true } } }
    slotImage s 1 = none ∧ after .fwVerifyDone s (fun t => decide (fwr t = 6 ∧ t.stw.fwDone = 1000)) = true := by decide +kernel
/-- R467: a trial that was started and not committed has ended at the next boot. -/
theorem test_bootRom_ended : let s := bt 0 (fun w => { w with recA := { valid := true, slotA := 2, slotB := 1, started := true, trial := 1 } })
    (bootRec s).pending = false ∧ (bootRec s).started = true ∧ after .bootRom s (fun t => t.stw.trialEnded) = true := by decide +kernel
/-- The same boot record with the trial waiting: its slot holds an image. -/
theorem test_bootRom_trial : let s := bt 0 (fun w => { w with recA := { valid := true, slotA := 2, slotB := 1, pending := true, trial := 1 }, slotB := some {} })
    (bootRec s).pending = true ∧ slotCode (bootRec s) (bootRec s).trial = 1 ∧ slotImage s (bootRec s).trial = some {} := by decide +kernel
/-- R278, R261: at the end of a restart the repairs kept are written and the table commands that waited run. -/
theorem test_restartDone_waits : after .restartDone { srv [] with stw := { rm := .restarting }, hbm := [(3, { unwritten := 4 })], cab := { tblWait := [(true, 9)] } }
    (fun t => decide ((t.hbmc 3).unwritten = 0 ∧ t.cab.tblWait = [] ∧ t.stw.rm = .running)) = true := by decide +kernel
theorem test_tblWait : after (.cabTblInstall 9) { srv [] with stw := { rm := .restarting } } (fun t => decide (t.cab.tblWait = [(true, 9)])) = true := by decide +kernel
/-- R479: a group of records stays together, and nothing is merged into its last. -/
theorem test_accept_group : let t := accept1 (srv []) { evA with datas := [[1], [2]] }
    t.evr.log.length = 2 ∧ t.evr.inGroup = true ∧ t.evr.nextSeq = (srv []).evr.nextSeq + 2 ∧ (accept1 t { evA with datas := [[2]] }).evr.log.length = 3 := by decide +kernel
theorem test_accept_full : 32768 < (List.replicate 32768 ([] : List Byte)).length + (evA.datas).length := by
  simp only [List.length_replicate]; decide
/-- R489: an entry of another kind is passed over. -/
theorem test_replayEntry_other : after (.replayEntry 1) (rpl 512 { busy := true, cur := 99 } (leBytes 2 0xCA97 ++ [1, 2] ++ leBytes 4 64 ++ List.replicate 448 0))
    (fun t => decide ((tget {} t.replay 1).pos = 64) && (tget {} t.replay 1).busy) = true := by decide +kernel
/-- R489: a header that reads and an entry that does not end the replay. -/
theorem test_replayEntry_unread : let s := { rpl 256 { busy := true, cur := 99 } (entry 1 (dsc 6 1 [])) with hostBad := [0x1001] }
    (refRead s 1 0x40000 64).1 = some (bslice (entry 1 (dsc 6 1 [])) 0 64) ∧ (refRead s 1 0x40000 256).1 = none ∧
    after (.replayEntry 1) s (fun t => !(tget {} t.replay 1).busy) = true := by decide +kernel
/-- R494: with both slots released the older is taken. -/
theorem test_dumpChoice_released : dumpChoice (dmp (fun e => { e with dump0 := { state := .released, no := 3 }, dump1 := { state := .released, no := 4 } })) = 0 ∧
    dumpChoice (dmp (fun e => { e with dump0 := { state := .released, no := 3 }, dump1 := { state := .unreleased, no := 4 } })) = 0 ∧
    dumpChoice (dmp (fun e => { e with dump0 := { state := .unreleased, no := 5, header := true }, dump1 := { state := .unreleased, no := 4, header := true } })) = 0 := by decide +kernel
/-- R219: a die with a booth in the middle of a step keeps its clock, and the booth is asked to stop. -/
theorem test_pllLocked_late : let s := { srv [] with pwr := { step := 3 }, booths := [(boothNo 0 5, { job := some {}, atEnd := false })] }
    running (s.booth (boothNo 0 5)) = true ∧ tget 0 s.pwr.appliedB (16 * 0 + 0) ≠ boothStep s 0 ∧
    after .pllLocked s (fun t => decide (tget 0 t.pwr.appliedB 0 = 0 ∧ tget 0 t.pwr.appliedB 1 = boothStep s 0) && (t.booth (boothNo 0 5)).askPark) = true := by decide +kernel
/-- R520: the stacks are sources too. -/
theorem test_sensor_stack : after (.sensorReading (List.replicate 4 0 ++ [16 * 88] ++ List.replicate 15 0 ++ [0, 0])) (srv []) (fun t => decide ((tget {} t.pwr.therm 0x30).step = 1)) = true := by decide +kernel
theorem test_readSource : (readSource (srv []) 0x10 (16 * 97)).evr.log.length = 2 ∧ (readSource (srv []) 0x10 0).evr.log.length = 0 ∧
    (readSource { srv [] with pwr := { therm := [(0x10, { step := 7, hot := 2 })] } } 0x10 (16 * 106)).dev.tripped = true := by decide +kernel
/-- R6: bytes of a word that do not answer to a read of their own read as they stand; a page that is closed reads 0. -/
theorem test_rcRead_bytes : after (.rcRead 0xFFFE 4) (wr (srv []) 0x10000 0xABCD) (fun t => decide (t.out = [.read 0xFFFE 4 ((readByte (srv []) 0xFFFE) + 256 * readByte (srv []) 0xFFFF + 65536 * (readByte (srv []) 0x10000 + 256 * readByte (srv []) 0x10001))])) = true ∧
    accessFits 0xFFFE 4 = true ∧ pageOpen (bt 0 id) (pgPwr / 4096) = false ∧ readByte (bt 0 id) pgPwr = 0 := by decide +kernel
theorem test_setEvt : alert (irq false) pgPwr = false ∧ alert (bump (wr (irq false) (pgPwr + 0x10) 1) (pgPwr + 0x1C) 0 32 1) pgPwr = true ∧
    (setEvt (irq false) pgPwr 0).out = [.msix 5 0x1000 7] ∧ (pageKind (pgPwr / 4096)).isSome = true ∧ (raiseForced (irq false) pgPwr 0).evr.log.length = 1 := by decide +kernel

end Sys2Proof.Tests
end

section
/-! PROOF. O57: a trim of a ring shelf (R89) whose drawer table has been lost (R272). -/
namespace Sys2Proof.Proofs.RingTrim
open Sys2Proof.Machine Sys2Proof.Safety

/-! ### From admission to the effect of a descriptor -/

/-- A descriptor that has passed steps 2 to 9 of R119 goes on to step 10 of its operation. -/
theorem admitOp_of_admits {s s1 : State} {ring op id : Nat} {r : Req} (k : State → Nat → Req → State) (h : Admits s ring op id r s1) :
    admitOp s ring op k = k s1 id r := by
  obtain ⟨d, r0, s0, ⟨src, g, hfront, hearly⟩, hlate⟩ := h
  simp only [admitOp, hfront, hearly, hlate]

theorem exec_trimKv_of_admits {ring : Fin 4096} {s s1 : State} {id : Nat} {r : Req} (h : Admits s ring.val 0x04 id r s1) :
    exec (.trimKv ring) s = .next (doTrim s1 id r) :=
  congrArg Host.Outcome.next (admitOp_of_admits doTrim h)

/-! ### Step 10: the shelf as the directory shows it once its lines have been read -/

section
variable {s : State} {k : ShelfKey} {i : Nat} {sh : Shelf} {id : Nat} {r : Req} {found : State → Nat → Shelf → State} {absent : State → State}

theorem withShelf_of_found (h : Found (readDir s k) k i sh) : withShelf s id r k found absent = found (readDir s k) i sh := by
  obtain ⟨hlook, hlive, hroom⟩ := h
  simp [withShelf, hlook, hlive, Nat.not_le.mpr hroom]

theorem withShelf_of_lost (hlook : lookup (readDir s k) k = some (i, sh)) (hlost : sh.state = .lost) (hgrace : r.grace = false) :
    withShelf s id r k found absent = failReq (readDir s k) id r { status := stLost } := by
  simp [withShelf, hlook, hlost, hgrace]

end

/-- R89 where the directory lines have been read already: a ring shelf that is still there and live then takes no trim. -/
theorem trimKv_ring_refused_of_looks {ring : Fin 4096} {id i : Nat} {s s1 : State} {r : Req} {sh : Shelf} (h : Looks s ring.val 0x04 id r s1)
    (hf : Found s1 (dKey r.desc) i sh) (hcopy : sh.copy = false) (hring : isRing sh.prof = true) :
    exec (.trimKv ring) s = .next (failReq s1 id r { status := stBadDescriptor, detail := 0x1C }) := by
  obtain ⟨s0, hadm, rfl⟩ := h
  rw [exec_trimKv_of_admits hadm, doTrim, withShelf_of_found hf]
  simp [trimFound, hcopy, hring]

/-! ### A live ring shelf whose drawer table is lost

The lookup of step 10 reads the drawer table of the shelf. Both of its copies are poisoned here, so this read marks the shelf lost, which was live when
the descriptor passed step 9. -/

def ringShelf : Shelf := { key := { part := 1, conv := 7 }, prof := { kfmt := 1, vfmt := 1, ringW := 64 }, endPos := 6, visible := 5 }

/-- `TRIM_KV` of partition 1, conversation 7, at position 5, form `HEAD`. -/
def trimDesc : List Byte := [4, 0, 1] ++ List.replicate 13 0 ++ [7] ++ List.replicate 7 0 ++ [5] ++ List.replicate 39 0

/-- A back stack whose line 0 is poisoned and holds a copy of the drawer table of shelf 0. -/
def tableStack (copy : Nat) : Hbm := { poison := [(0, 1)], uses := [(0, .table 0 copy)] }

/-- The device with the trim at the front of ring 5, and the drawer table of the shelf poisoned in both back stacks of die 0. -/
def beforeTrim : State :=
  { dev := { state := .serve, pagesOpen := true }, dir := { shelves := [(0, ringShelf)] }, hbm := [(8, tableStack 0), (9, tableStack 1)],
    parts := [(1, { state := .live, keys := some 0 })], rings := [(5, { part := 1, cbase := 0x20000, inflight := 1, taken := [(4, trimDesc)] })] }

def trimReq : Req := { ring := 5, desc := trimDesc, order := 1, part := 1, tclass := some 0 }

/-- The same device once the trim has passed step 9: it has its number, and is counted for its partition and for the default action of the rule table. -/
def afterChecks : State :=
  { beforeTrim with
    nextId := 2, parts := [(1, { state := .live, keys := some 0, meter := { admitN := 1 } })],
    rings := [(5, { part := 1, cbase := 0x20000, inflight := 1 })], regs := [(0x28110, 1)] }

theorem beforeTrim_admits : Admits beforeTrim (5 : Fin 4096).val 0x04 1 trimReq afterChecks :=
  ⟨trimDesc, { trimReq with tclass := none }, { afterChecks with regs := [] },
    ⟨4, { part := 1, cbase := 0x20000, inflight := 1 }, by decide +kernel, by decide +kernel⟩, by decide +kernel⟩

theorem afterChecks_found : Found afterChecks (dKey trimReq.desc) 0 ringShelf := by
  refine ⟨?_, rfl, ?_⟩ <;> decide +kernel

theorem afterChecks_readDir_loses_shelf : lookup (readDir afterChecks (dKey trimReq.desc)) (dKey trimReq.desc) =
    some (0, { ringShelf with state := .lost, damaged := true }) := by decide +kernel

theorem doTrim_lost : doTrim afterChecks 1 trimReq = failReq (readDir afterChecks (dKey trimReq.desc)) 1 trimReq { status := stLost } :=
  withShelf_of_lost afterChecks_readDir_loses_shelf rfl rfl

/-- The status byte of the first completion record of ring 5. -/
def recordStatus (s : State) : Byte := mget s.hostMem (0x20000 + 5)

theorem recordStatus_lost :
    recordStatus (failReq (readDir afterChecks (dKey trimReq.desc)) 1 trimReq { status := stLost }) = BitVec.ofNat 8 stLost := by decide +kernel

theorem recordStatus_badDescriptor :
    recordStatus (failReq afterChecks 1 trimReq { status := 0x32, detail := 0x1C }) = 0x32 := by decide +kernel

/-- Refutes O57: the statement takes the shelf as it is before the lookup of step 10 has read its directory lines. Where that read finds both copies of
the drawer table bad, the shelf is lost (R272), and the trim completes with `LOST` instead of `BAD_DESCRIPTOR`. -/
theorem not_ringShelfRefusesTrim : ¬ Obligations.RingShelfRefusesTrim := by
  unfold Obligations.RingShelfRefusesTrim
  intro h
  have hnext := h 5 1 0 beforeTrim afterChecks trimReq ringShelf beforeTrim_admits afterChecks_found rfl rfl
  rw [exec_trimKv_of_admits beforeTrim_admits, doTrim_lost] at hnext
  have hstatus := congrArg recordStatus (Host.Outcome.next.inj hnext)
  rw [recordStatus_lost, recordStatus_badDescriptor] at hstatus
  exact absurd hstatus (by decide)

end Sys2Proof.Proofs.RingTrim
end

section
/-! PROOF. What every command keeps, from what each keeps. -/
namespace Sys2Proof.Proofs.Commands
open Sys2Proof.Machine Sys2Proof.Laws

/-- The mask of all parts of the state. -/
def everyPart : Nat := 0xFFFFFFFFFFF

/-- Every command keeps what `Keeps` asks of all operations: the chip, the queue, the canonical memories, the rising counters and the alert pin. -/
theorem exec_keeps (s : State) : ∀ c : Instr, KeepsR everyPart s (exec c s)
  | .linkCrcFail _ _ => keeps_execLinkCrcFail _ _ s (.refl s) rfl
  | .reroute _ _ _ => keeps_execReroute _ _ _ s (.refl s) rfl
  | .counterWrap _ => keeps_execCounterWrap _ s (.refl s) rfl
  | .ringPi _ _ _ => keeps_execRingPi _ _ _ s (.refl s) rfl
  | .cqCi _ _ => keeps_execCqCi _ _ s (.refl s) rfl
  | .descriptorFetch _ _ => keeps_execDescriptorFetch _ _ s (.refl s) rfl
  | .attend _ => keeps_execAttend _ s (.refl s) rfl
  | .appendKv _ => keeps_execAppendKv _ s (.refl s) rfl
  | .visibleAdvance _ => keeps_execVisibleAdvance _ s (.refl s) rfl
  | .failedAppend _ => keeps_execFailedAppend _ s (.refl s) rfl
  | .ringSlotReuse _ => keeps_execRingSlotReuse _ s (.refl s) rfl
  | .merge _ => keeps_execMerge _ s (.refl s) rfl
  | .trimKv _ => keeps_execTrimKv _ s (.refl s) rfl
  | .trimSetEnd _ => keeps_execTrimSetEnd _ s (.refl s) rfl
  | .trimTailComplete _ => keeps_execTrimTailComplete _ s (.refl s) rfl
  | .headTrimFree _ => keeps_execHeadTrimFree _ s (.refl s) rfl
  | .dropShelf _ => keeps_execDropShelf _ s (.refl s) rfl
  | .dropFree _ => keeps_execDropFree _ s (.refl s) rfl
  | .convScanEnd _ _ => keeps_execConvScanEnd _ _ s (.refl s) rfl
  | .plan _ => keeps_execPlan _ s (.refl s) rfl
  | .pin _ => keeps_execPin _ s (.refl s) rfl
  | .search _ => keeps_execSearch _ s (.refl s) rfl
  | .vinsert _ => keeps_execVinsert _ s (.refl s) rfl
  | .vdelete _ => keeps_execVdelete _ s (.refl s) rfl
  | .vmerge _ => keeps_execVmerge _ s (.refl s) rfl
  | .vmergeSwitch _ _ => keeps_execVmergeSwitch _ _ s (.refl s) rfl
  | .statusRecordWrite _ _ => keeps_execStatusRecordWrite _ _ s (.refl s) rfl
  | .movePull _ => keeps_execMovePull _ s (.refl s) rfl
  | .mirrorSet _ => keeps_execMirrorSet _ s (.refl s) rfl
  | .load _ => keeps_execLoad _ s (.refl s) rfl
  | .unload _ => keeps_execUnload _ s (.refl s) rfl
  | .objectFree _ _ => keeps_execObjectFree _ _ s (.refl s) rfl
  | .fence _ => keeps_execFence _ s (.refl s) rfl
  | .fenceComplete _ => keeps_execFenceComplete _ s (.refl s) rfl
  | .graceWindowClose _ => keeps_execGraceWindowClose _ s (.refl s) rfl
  | .arm _ => keeps_execArm _ s (.refl s) rfl
  | .disarm _ => keeps_execDisarm _ s (.refl s) rfl
  | .trigger _ _ _ => keeps_execTrigger _ _ _ s (.refl s) rfl
  | .fire _ _ => keeps_execFire _ _ s (.refl s) rfl
  | .ringCreate _ => keeps_execRingCreate _ s (.refl s) rfl
  | .ringDestroy _ => keeps_execRingDestroy _ s (.refl s) rfl
  | .ringDestroyDone _ => keeps_execRingDestroyDone _ s (.refl s) rfl
  | .bucketWaitExceeded _ => keeps_execBucketWaitExceeded _ s (.refl s) rfl
  | .runDispatch _ _ _ => keeps_execRunDispatch _ _ _ s (.refl s) rfl
  | .passN _ _ => keeps_execPassN _ _ s (.refl s) rfl
  | .passV _ _ => keeps_execPassV _ _ s (.refl s) rfl
  | .combine _ => keeps_execCombine _ s (.refl s) rfl
  | .netLoopCheck _ => keeps_execNetLoopCheck _ s (.refl s) rfl
  | .scoreSheetFailure _ => keeps_execScoreSheetFailure _ s (.refl s) rfl
  | .boothJobStart _ => keeps_execBoothJobStart _ s (.refl s) rfl
  | .uopNop _ => keeps_execUopNop _ s (.refl s) rfl
  | .uopAct _ => keeps_execUopAct _ s (.refl s) rfl
  | .uopRd _ => keeps_execUopRd _ s (.refl s) rfl
  | .uopExp _ => keeps_execUopExp _ s (.refl s) rfl
  | .uopDotg _ => keeps_execUopDotg _ s (.refl s) rfl
  | .uopGsc _ => keeps_execUopGsc _ s (.refl s) rfl
  | .uopSst _ => keeps_execUopSst _ s (.refl s) rfl
  | .uopSeti _ => keeps_execUopSeti _ s (.refl s) rfl
  | .uopAddi _ => keeps_execUopAddi _ s (.refl s) rfl
  | .uopLoop _ => keeps_execUopLoop _ s (.refl s) rfl
  | .uopEnd _ => keeps_execUopEnd _ s (.refl s) rfl
  | .collectorJobDone _ => keeps_execCollectorJobDone _ s (.refl s) rfl
  | .boothPark _ => keeps_execBoothPark _ s (.refl s) rfl
  | .perBankRefresh _ _ => keeps_execPerBankRefresh _ _ s (.refl s) rfl
  | .allBankRefresh _ _ => keeps_execAllBankRefresh _ _ s (.refl s) rfl
  | .refreshComplete _ _ => keeps_execRefreshComplete _ _ s (.refl s) rfl
  | .boothRestart _ => keeps_execBoothRestart _ s (.refl s) rfl
  | .boothJobTimeout _ => keeps_execBoothJobTimeout _ s (.refl s) rfl
  | .scriptWindowWrite _ _ _ => keeps_execScriptWindowWrite _ _ _ s (.refl s) rfl
  | .scriptDescriptorWrite _ _ _ => keeps_execScriptDescriptorWrite _ _ _ s (.refl s) rfl
  | .demotion _ _ => keeps_execDemotion _ _ s (.refl s) rfl
  | .moveEnd _ _ _ => keeps_execMoveEnd _ _ _ s (.refl s) rfl
  | .tierVisit _ _ _ => keeps_execTierVisit _ _ _ s (.refl s) rfl
  | .allocationPlaceFreed _ => keeps_execAllocationPlaceFreed _ s (.refl s) rfl
  | .coldReadDone _ _ _ _ => keeps_execColdReadDone _ _ _ _ s (.refl s) rfl
  | .liftTaken _ => keeps_execLiftTaken _ s (.refl s) rfl
  | .liftRoom _ => keeps_execLiftRoom _ s (.refl s) rfl
  | .liftPlaced _ _ _ _ => keeps_execLiftPlaced _ _ _ _ s (.refl s) rfl
  | .garbageCollection => keeps_execGarbageCollection s (.refl s) rfl
  | .staticWearLevelling => keeps_execStaticWearLevelling s (.refl s) rfl
  | .readDisturbRelocation _ => keeps_execReadDisturbRelocation _ s (.refl s) rfl
  | .patrolRead _ _ => keeps_execPatrolRead _ _ s (.refl s) rfl
  | .blockReadFail _ _ => keeps_execBlockReadFail _ _ s (.refl s) rfl
  | .cabTblInstall _ => keeps_execCabTblInstall _ s (.refl s) rfl
  | .cabTblRetire _ => keeps_execCabTblRetire _ s (.refl s) rfl
  | .partTierWrite _ _ => keeps_execPartTierWrite _ _ s (.refl s) rfl
  | .partCabshareWrite _ _ => keeps_execPartCabshareWrite _ _ s (.refl s) rfl
  | .correctedWriteback _ _ => keeps_execCorrectedWriteback _ _ s (.refl s) rfl
  | .scrubRead _ _ _ => keeps_execScrubRead _ _ _ s (.refl s) rfl
  | .damagedShelfFree _ => keeps_execDamagedShelfFree _ s (.refl s) rfl
  | .rowRepair _ => keeps_execRowRepair _ s (.refl s) rfl
  | .pcRetire _ _ => keeps_execPcRetire _ _ s (.refl s) rfl
  | .pcRetired _ _ => keeps_execPcRetired _ _ s (.refl s) rfl
  | .stackFence _ => keeps_execStackFence _ s (.refl s) rfl
  | .ruleInsert => keeps_execRuleInsert s (.refl s) rfl
  | .ruleRemove => keeps_execRuleRemove s (.refl s) rfl
  | .ruleModify => keeps_execRuleModify s (.refl s) rfl
  | .ruleRead => keeps_execRuleRead s (.refl s) rfl
  | .ruleApplyBands => keeps_execRuleApplyBands s (.refl s) rfl
  | .ruleDefLoWrite _ => keeps_execRuleDefLoWrite _ s (.refl s) rfl
  | .ruleDefHiWrite _ => keeps_execRuleDefHiWrite _ s (.refl s) rfl
  | .rebalance _ => keeps_execRebalance _ s (.refl s) rfl
  | .shadowCompare _ _ _ => keeps_execShadowCompare _ _ _ s (.refl s) rfl
  | .portLinkUp _ => keeps_execPortLinkUp _ s (.refl s) rfl
  | .portLinkDown _ => keeps_execPortLinkDown _ s (.refl s) rfl
  | .packetReceive _ _ => keeps_execPacketReceive _ _ s (.refl s) rfl
  | .qpFetchDone _ _ => keeps_execQpFetchDone _ _ s (.refl s) rfl
  | .resultBlockSend _ _ => keeps_execResultBlockSend _ _ s (.refl s) rfl
  | .ackTimeout _ => keeps_execAckTimeout _ s (.refl s) rfl
  | .ccTimerExpiry _ => keeps_execCcTimerExpiry _ s (.refl s) rfl
  | .shaperRefill _ => keeps_execShaperRefill _ s (.refl s) rfl
  | .policerRefill _ => keeps_execPolicerRefill _ s (.refl s) rfl
  | .gateIntervalEnd _ => keeps_execGateIntervalEnd _ s (.refl s) rfl
  | .gclCommit _ => keeps_execGclCommit _ s (.refl s) rfl
  | .gclSwitch _ => keeps_execGclSwitch _ s (.refl s) rfl
  | .ptpSync _ _ => keeps_execPtpSync _ _ s (.refl s) rfl
  | .ptpTimeout _ => keeps_execPtpTimeout _ s (.refl s) rfl
  | .netTimeNsRead _ => keeps_execNetTimeNsRead _ s (.refl s) rfl
  | .hello _ _ => keeps_execHello _ _ s (.refl s) rfl
  | .reply _ _ => keeps_execReply _ _ s (.refl s) rfl
  | .confirm _ _ => keeps_execConfirm _ _ s (.refl s) rfl
  | .rekey _ _ => keeps_execRekey _ _ s (.refl s) rfl
  | .abort _ _ => keeps_execAbort _ _ s (.refl s) rfl
  | .helloRepeat _ => keeps_execHelloRepeat _ s (.refl s) rfl
  | .handshakeTimeout _ => keeps_execHandshakeTimeout _ s (.refl s) rfl
  | .rekeyPeriod _ => keeps_execRekeyPeriod _ s (.refl s) rfl
  | .qpCreate _ => keeps_execQpCreate _ s (.refl s) rfl
  | .qpDestroy _ => keeps_execQpDestroy _ s (.refl s) rfl
  | .qpRead _ => keeps_execQpRead _ s (.refl s) rfl
  | .regionRegister => keeps_execRegionRegister s (.refl s) rfl
  | .regionReregisterNew => keeps_execRegionReregisterNew s (.refl s) rfl
  | .regionReregisterKeep => keeps_execRegionReregisterKeep s (.refl s) rfl
  | .regionDeregister => keeps_execRegionDeregister s (.refl s) rfl
  | .regionRead => keeps_execRegionRead s (.refl s) rfl
  | .regionCommandDrain => keeps_execRegionCommandDrain s (.refl s) rfl
  | .conventionalReset => keeps_execConventionalReset s (.refl s) rfl
  | .cxlLinkUp _ _ _ _ _ => keeps_execCxlLinkUp _ _ _ _ _ s (.refl s) rfl
  | .cxlMemRead _ => keeps_execCxlMemRead _ s (.refl s) rfl
  | .cxlMemWrite _ _ _ => keeps_execCxlMemWrite _ _ _ s (.refl s) rfl
  | .hostSnoop _ => keeps_execHostSnoop _ s (.refl s) rfl
  | .birsp _ => keeps_execBirsp _ s (.refl s) rfl
  | .ideFail => keeps_execIdeFail s (.refl s) rfl
  | .dcAdd => keeps_execDcAdd s (.refl s) rfl
  | .dcRelease => keeps_execDcRelease s (.refl s) rfl
  | .dcRead => keeps_execDcRead s (.refl s) rfl
  | .extentUnused _ => keeps_execExtentUnused _ s (.refl s) rfl
  | .extentZeroed _ => keeps_execExtentZeroed _ s (.refl s) rfl
  | .addDynamicCapacityResponse _ => keeps_execAddDynamicCapacityResponse _ s (.refl s) rfl
  | .releaseDynamicCapacity _ => keeps_execReleaseDynamicCapacity _ s (.refl s) rfl
  | .identifyMemoryDevice => keeps_execIdentifyMemoryDevice s (.refl s) rfl
  | .getDynamicCapacityConfiguration => keeps_execGetDynamicCapacityConfiguration s (.refl s) rfl
  | .getDynamicCapacityExtentList => keeps_execGetDynamicCapacityExtentList s (.refl s) rfl
  | .getEventRecords _ => keeps_execGetEventRecords _ s (.refl s) rfl
  | .clearEventRecords _ _ => keeps_execClearEventRecords _ _ s (.refl s) rfl
  | .partCreate _ => keeps_execPartCreate _ s (.refl s) rfl
  | .partDestroy _ => keeps_execPartDestroy _ s (.refl s) rfl
  | .partDestroyDone _ => keeps_execPartDestroyDone _ s (.refl s) rfl
  | .partReset _ => keeps_execPartReset _ s (.refl s) rfl
  | .partResetDone _ => keeps_execPartResetDone _ s (.refl s) rfl
  | .partApplyMaps _ => keeps_execPartApplyMaps _ s (.refl s) rfl
  | .mapRemovalDone _ => keeps_execMapRemovalDone _ s (.refl s) rfl
  | .pullCheck _ _ => keeps_execPullCheck _ _ s (.refl s) rfl
  | .remoteDrawerRead _ _ _ _ => keeps_execRemoteDrawerRead _ _ _ _ s (.refl s) rfl
  | .pullSweep _ => keeps_execPullSweep _ s (.refl s) rfl
  | .mirrorEntry _ _ _ => keeps_execMirrorEntry _ _ _ s (.refl s) rfl
  | .mirrorAck _ _ => keeps_execMirrorAck _ _ s (.refl s) rfl
  | .mirrorStall _ => keeps_execMirrorStall _ s (.refl s) rfl
  | .leaseExpiry => keeps_execLeaseExpiry s (.refl s) rfl
  | .meteringHour _ => keeps_execMeteringHour _ s (.refl s) rfl
  | .report _ _ => keeps_execReport _ _ s (.refl s) rfl
  | .readCertificate _ => keeps_execReadCertificate _ s (.refl s) rfl
  | .installFenceKey => keeps_execInstallFenceKey s (.refl s) rfl
  | .addTrustKey => keeps_execAddTrustKey s (.refl s) rfl
  | .removeTrustKey _ => keeps_execRemoveTrustKey _ s (.refl s) rfl
  | .ideHandshakeMessage => keeps_execIdeHandshakeMessage s (.refl s) rfl
  | .applyWindow => keeps_execApplyWindow s (.refl s) rfl
  | .windowChangeDone _ => keeps_execWindowChangeDone _ s (.refl s) rfl
  | .debugToken _ => keeps_execDebugToken _ s (.refl s) rfl
  | .watchdogExpiry => keeps_execWatchdogExpiry s (.refl s) rfl
  | .restart => keeps_execRestart s (.refl s) rfl
  | .restartDone => keeps_execRestartDone s (.refl s) rfl
  | .loadWindow _ => keeps_execLoadWindow _ s (.refl s) rfl
  | .fwStream => keeps_execFwStream s (.refl s) rfl
  | .fwDone => keeps_execFwDone s (.refl s) rfl
  | .fwAbort => keeps_execFwAbort s (.refl s) rfl
  | .fwVerify _ => keeps_execFwVerify _ s (.refl s) rfl
  | .fwVerifyDone => keeps_execFwVerifyDone s (.refl s) rfl
  | .activateTrial => keeps_execActivateTrial s (.refl s) rfl
  | .commit => keeps_execCommit s (.refl s) rfl
  | .raiseSecurityVersion => keeps_execRaiseSecurityVersion s (.refl s) rfl
  | .cancelTrial => keeps_execCancelTrial s (.refl s) rfl
  | .trialCommitTimer => keeps_execTrialCommitTimer s (.refl s) rfl
  | .bootRom => keeps_execBootRom s (.refl s) rfl
  | .loaderStart => keeps_execLoaderStart s (.refl s) rfl
  | .runtimeStart => keeps_execRuntimeStart s (.refl s) rfl
  | .trainDone => keeps_execTrainDone s (.refl s) rfl
  | .recoveryImageData _ => keeps_execRecoveryImageData _ s (.refl s) rfl
  | .recoveryStatusRequest => keeps_execRecoveryStatusRequest s (.refl s) rfl
  | .evrWstatRead => keeps_execEvrWstatRead s (.refl s) rfl
  | .evrClear => keeps_execEvrClear s (.refl s) rfl
  | .captCfgWrite _ _ => keeps_execCaptCfgWrite _ _ s (.refl s) rfl
  | .replayStart _ _ => keeps_execReplayStart _ _ s (.refl s) rfl
  | .replayStop _ => keeps_execReplayStop _ s (.refl s) rfl
  | .replayEntry _ => keeps_execReplayEntry _ s (.refl s) rfl
  | .dumpStart => keeps_execDumpStart s (.refl s) rfl
  | .dumpComplete => keeps_execDumpComplete s (.refl s) rfl
  | .dumpTimeout => keeps_execDumpTimeout s (.refl s) rfl
  | .dumpCopy => keeps_execDumpCopy s (.refl s) rfl
  | .dumpRelease => keeps_execDumpRelease s (.refl s) rfl
  | .snap _ => keeps_execSnap _ s (.refl s) rfl
  | .pwrEn => keeps_execPwrEn s (.refl s) rfl
  | .pwrGood => keeps_execPwrGood s (.refl s) rfl
  | .inputLoss => keeps_execInputLoss s (.refl s) rfl
  | .inputFault _ => keeps_execInputFault _ s (.refl s) rfl
  | .resetN => keeps_execResetN s (.refl s) rfl
  | .smbusBlockRead _ => keeps_execSmbusBlockRead _ s (.refl s) rfl
  | .powerMeasurement _ _ _ => keeps_execPowerMeasurement _ _ _ s (.refl s) rfl
  | .pwrModeWrite _ => keeps_execPwrModeWrite _ s (.refl s) rfl
  | .pllLocked => keeps_execPllLocked s (.refl s) rfl
  | .sensorReading _ => keeps_execSensorReading _ s (.refl s) rfl
  | .drain => keeps_execDrain s (.refl s) rfl
  | .serve => keeps_execServe s (.refl s) rfl
  | .pgEvtWrite _ _ => keeps_execPgEvtWrite _ _ s (.refl s) rfl
  | .pgEvtEnWrite _ _ => keeps_execPgEvtEnWrite _ _ s (.refl s) rfl
  | .pgCtrlWrite _ _ => keeps_execPgCtrlWrite _ _ s (.refl s) rfl
  | .pgEvtForce _ _ => keeps_execPgEvtForce _ _ s (.refl s) rfl
  | .msixUnmask _ => keeps_execMsixUnmask _ s (.refl s) rfl
  | .rcRead _ _ => keeps_execRcRead _ _ s (.refl s) rfl
  | .registerWrite _ _ _ => keeps_execRegisterWrite _ _ _ s (.refl s) rfl
  | .referenceOscillatorLoss => keeps_execReferenceOscillatorLoss s (.refl s) rfl
  | .pwrEnLow => keeps_execPwrEnLow s (.refl s) rfl
  | .rnrTimerExpiry _ => keeps_execRnrTimerExpiry _ s (.refl s) rfl
  | .cxlLinkRecovery => keeps_execCxlLinkRecovery s (.refl s) rfl
  | .unsupportedMailboxCommand _ => keeps_execUnsupportedMailboxCommand _ s (.refl s) rfl
  | .recoveryReenumeration => keeps_execRecoveryReenumeration s (.refl s) rfl

end Sys2Proof.Proofs.Commands
end

section
/-! PROOF. The rules of the steward's firmware state that O59 and O60 rest on: the boot record, the slots, the end of a firmware command, and when a
command of the host is taken. -/
namespace Sys2Proof.Proofs.Firmware
open Sys2Proof.Machine Sys2Proof.Safety Sys2Proof.Laws

/-! ### When a firmware command is taken -/

theorem hostWr_of_hostMay {s : State} {pg : Nat} (h : HostMay s pg) (r : Res) : hostWr s pg r = r := by
  obtain ⟨hreach, hide, hopen⟩ := h
  simp [hostWr, hreach, hide, hopen]

theorem rmGate_of_rmTakes {s : State} {c : Nat} (h : RmTakes s c) : rmGate s c = (none, s) := by
  obtain ⟨hrun, hdefer, hroom⟩ := h
  simp only [rmGate, hrun, hdefer, Bool.false_eq_true, false_or]
  exact if_neg (Nat.not_le.mpr hroom)

theorem fwCmd_of_rmTakes {s : State} (hfw : s.stw.fw = none) (h : RmTakes s 2) (k : State → State) : fwCmd s k = .next (k s) := by
  simp [fwCmd, hfw, rmGate_of_rmTakes h]

/-! ### Operations that leave the steward alone -/

theorem stw_of_keeps {m : Nat} {s t : State} (h : Keeps m s t) (hm : m.testBit 36 = false) : t.stw = s.stw := h.frame .stw hm

@[simp] theorem raise_stw (s : State) (pg b : Nat) (d : List Byte) : (raise s pg b d).stw = s.stw :=
  stw_of_keeps (keeps_raise s pg b d (.refl s) (Sub.refl _)) rfl

@[simp] theorem poisonRcvd_stw (s : State) (n : Nat) : (poisonRcvd s n).stw = s.stw :=
  stw_of_keeps (keeps_poisonRcvd s n (.refl s) (Sub.refl _)) rfl

@[simp] theorem cacheWriteBack_stw (s : State) : (cacheWriteBack s).stw = s.stw :=
  stw_of_keeps (keeps_cacheWriteBack s (.refl s) (Sub.refl _)) rfl

@[simp] theorem bootKeys_stw (s : State) : (bootKeys s).stw = s.stw :=
  stw_of_keeps (keeps_bootKeys s (.refl s) (Sub.refl _)) rfl

@[simp] theorem bootKeys_dev (s : State) : (bootKeys s).dev = s.dev :=
  (keeps_bootKeys s (.refl s) (Sub.refl _)).frame .dev rfl

@[simp] theorem fwEnd_stw (s : State) (n : Nat) : (fwEnd s n).stw = { s.stw with fw := none, fwResult := n } := by
  unfold fwEnd
  split
  · exact raise_stw ..
  · rfl

/-! ### The boot record (R466) -/

theorem bootRec_of_stw {s t : State} (h : t.stw = s.stw) : bootRec t = bootRec s := by
  simp only [bootRec, h]

theorem bootRec_eq_recA {s : State} (hvalid : s.stw.recA.valid = true) (hnew : s.stw.recB.valid = true → s.stw.recB.gen ≤ s.stw.recA.gen) :
    bootRec s = s.stw.recA := by
  cases hB : s.stw.recB.valid
  · simp [bootRec, hvalid, hB]
  · simp [bootRec, hvalid, hB, hnew hB]

theorem bootRec_eq_recB {s : State} (hvalid : s.stw.recB.valid = true) (hnew : s.stw.recA.valid = true → s.stw.recA.gen < s.stw.recB.gen) :
    bootRec s = s.stw.recB := by
  cases hA : s.stw.recA.valid
  · simp [bootRec, hvalid, hA]
  · simp [bootRec, hvalid, hA, Nat.not_le.mpr (hnew hA)]

/-- The newest copy is the second one where that is valid and the first is not the newest valid one. -/
theorem bootRec_eq_recB_of_ne {s : State} (hvalid : s.stw.recB.valid = true) (hne : s.stw.recA.valid = true → s.stw.recA ≠ bootRec s) :
    bootRec s = s.stw.recB :=
  bootRec_eq_recB hvalid fun hA => Nat.lt_of_not_le fun hle => hne hA (bootRec_eq_recA hA fun _ => hle).symm

/-- The boot record just written is the newest one, until the generation has reached its last value. -/
theorem bootRec_putBoot {s : State} {r : BootRec} (h : (bootRec s).gen + 1 < 2 ^ 32) :
    bootRec (putBoot s r) = { r with valid := true, gen := (bootRec s).gen + 1 } := by
  have hgen : ((bootRec s).gen + 1) % 2 ^ 32 = (bootRec s).gen + 1 := Nat.mod_eq_of_lt h
  unfold putBoot
  simp only [hgen]
  split
  · next hA =>
    simp only [Bool.and_eq_true, decide_eq_true_eq] at hA
    obtain ⟨-, hold⟩ := hA
    have hlt : s.stw.recA.gen < (bootRec s).gen + 1 := hold ▸ Nat.lt_succ_self _
    exact bootRec_eq_recB rfl fun _ => hlt
  · next hA =>
    simp only [Bool.and_eq_true, decide_eq_true_eq, not_and] at hA
    have hle (hB : s.stw.recB.valid = true) : s.stw.recB.gen ≤ (bootRec s).gen + 1 :=
      bootRec_eq_recB_of_ne hB hA ▸ Nat.le_succ _
    exact bootRec_eq_recA rfl hle

@[simp] theorem putBoot_dev (s : State) (r : BootRec) : (putBoot s r).dev = s.dev := by
  unfold putBoot
  dsimp only
  split <;> rfl

/-! ### The slots -/

theorem slotCode_setSlotCode (r : BootRec) (slot c : Nat) : slotCode (setSlotCode r slot c) slot = c := by
  unfold slotCode setSlotCode
  split <;> rfl

theorem slotCode_setSlotCode_other (r : BootRec) (slot c : Nat) : slotCode (setSlotCode r slot c) (1 - slot) = slotCode r (1 - slot) := by
  unfold slotCode setSlotCode
  by_cases h : slot = 0
  · simp [h]
  · simp [h, show 1 - slot = 0 by omega]

theorem slotImage_setSlotImage (s : State) (slot : Nat) (i : Option Image) : slotImage (setSlotImage s slot i) slot = i := by
  unfold slotImage setSlotImage
  split <;> rfl

theorem bootRec_setSlotImage (s : State) (slot : Nat) (i : Option Image) : bootRec (setSlotImage s slot i) = bootRec s := by
  unfold setSlotImage
  split <;> rfl

theorem slotCode_markSlot {s : State} (h : (bootRec s).gen + 1 < 2 ^ 32) (slot c : Nat) : slotCode (bootRec (markSlot s slot c)) slot = c := by
  rw [markSlot, bootRec_putBoot h]
  exact slotCode_setSlotCode (bootRec s) slot c

/-! ### Security versions (R457, R462, R467) -/

theorem ihSvn_le_of_headerForm {h : List Byte} (hf : headerForm h = true) : ihSvn h ≤ 63 := by
  simp only [headerForm, Bool.and_eq_true, decide_eq_true_eq] at hf
  omega

theorem headerCheck_ne_zero_of_svn_lt {s : State} {h : List Byte} (hlow : ihSvn h < s.sec.svn) : headerCheck s h ≠ 0 := by
  rw [headerCheck, if_pos hlow]
  split
  · decide
  · split
    · decide
    · split <;> decide

theorem romCheck_eq_none {s : State} {m : Image} (h : headerCheck s m.header ≠ 0) : romCheck s m = none :=
  if_pos (.inl h)

end Sys2Proof.Proofs.Firmware
end

section
/-! PROOF. O59: the security version (R470). -/
namespace Sys2Proof.Proofs.Firmware
open Sys2Proof.Machine Sys2Proof.Safety Sys2Proof.Laws

/-- R470: What command 6 answers once it is taken. -/
theorem exec_raiseSecurityVersion {s : State} {m : Image} (hmay : HostMay s pgStw) (hfw : s.stw.fw = none) (htakes : RmTakes s 2)
    (himg : slotImage s (bootRec s).active = some m) :
    exec .raiseSecurityVersion s = .next (if trialOn s then fwEnd s 8 else if ihSvn m.header ≤ s.sec.svn then fwEnd s 5
      else fwEnd { s with sec := { s.sec with svn := ihSvn m.header } } 0) := by
  simp only [exec, execRaiseSecurityVersion, hostWr_of_hostMay hmay, fwCmd_of_rmTakes hfw htakes, himg]

theorem exec_svn_le {c : Instr} {s t : State} (h : exec c s = .next t) : s.sec.svn ≤ t.sec.svn := (Commands.exec_keeps s c t h).svn

/-- Settles O59: the four answers of command 6 from the case split of its meaning, and the counter that no command lowers from what every command keeps. -/
theorem securityVersionOnlyRises : Obligations.SecurityVersionOnlyRises := by
  refine ⟨fun s m hmay hfw htakes himg => ?_, fun c s t h => exec_svn_le h, fun s m hlow => ?_⟩
  · rw [exec_raiseSecurityVersion hmay hfw htakes himg]
    refine ⟨fun htrial => ?_, fun htrial hle => ?_, fun htrial hlt => ?_, fun htrial hform hmax => ?_⟩
    · simp [htrial]
    · simp [htrial, hle]
    · simp [htrial, Nat.not_le.mpr hlt]
    · have hle : ihSvn m.header ≤ s.sec.svn := hmax ▸ ihSvn_le_of_headerForm hform
      simp [htrial, hle]
  · have hcheck := headerCheck_ne_zero_of_svn_lt hlow
    exact ⟨hcheck, romCheck_eq_none hcheck⟩

end Sys2Proof.Proofs.Firmware
end

section
/-! PROOF. O60: a stream that stops or is cut (R464), and the slot that the boot ROM starts (R467). -/
namespace Sys2Proof.Proofs.Firmware
open Sys2Proof.Machine Sys2Proof.Safety Sys2Proof.Laws

/-! ### An empty slot -/

/-- A slot is marked empty and holds no image. -/
def EmptySlot (s : State) (slot : Nat) : Prop := slotCode (bootRec s) slot = 0 ∧ slotImage s slot = none

theorem EmptySlot.of_firmware {s t : State} {slot : Nat} (h : EmptySlot s slot) (hA : t.stw.slotA = s.stw.slotA) (hB : t.stw.slotB = s.stw.slotB)
    (hrA : t.stw.recA = s.stw.recA) (hrB : t.stw.recB = s.stw.recB) : EmptySlot t slot := by
  simpa only [EmptySlot, bootRec, slotImage, hA, hB, hrA, hrB] using h

theorem EmptySlot.fwEnd {s : State} {slot : Nat} (h : EmptySlot s slot) (n : Nat) : EmptySlot (fwEnd s n) slot := by
  apply h.of_firmware <;> rw [fwEnd_stw]

theorem EmptySlot.raise {s : State} {slot : Nat} (h : EmptySlot s slot) (pg b : Nat) (d : List Byte) : EmptySlot (raise s pg b d) slot := by
  apply h.of_firmware <;> rw [raise_stw]

/-- R464: A slot that is marked empty and erased. -/
theorem emptySlot_erased {s : State} (hgen : (bootRec s).gen + 1 < 2 ^ 32) (slot : Nat) : EmptySlot (setSlotImage (markSlot s slot 0) slot none) slot := by
  refine ⟨?_, slotImage_setSlotImage ..⟩
  rw [bootRec_setSlotImage]
  exact slotCode_markSlot hgen slot 0

theorem emptySlot_stopStream {s : State} (hgen : (bootRec s).gen + 1 < 2 ^ 32) (slot n : Nat) : EmptySlot (stopStream s slot n) slot :=
  (emptySlot_erased hgen slot).fwEnd n

/-- A stop that follows steps which leave the steward alone. -/
theorem emptySlot_stopStream_of_stw {s t : State} (hstw : t.stw = s.stw) (hgen : (bootRec s).gen + 1 < 2 ^ 32) (slot n : Nat) :
    EmptySlot (stopStream t slot n) slot :=
  emptySlot_stopStream (bootRec_of_stw hstw ▸ hgen) slot n

/-! ### A stream that stops -/

section
variable {s t : State} {j : FwJob}

/-- R463: What the end of a stream can do. It waits, it stops the stream with a `RESULT`, or it loads the slot with `RESULT` 0. -/
theorem exec_fwDone_cases (hfw : s.stw.fw = some j) (h : exec .fwDone s = .next t) :
    t = s ∨ (∃ (u : State) (e : Nat), u.stw = s.stw ∧ t = stopStream u j.slot e) ∨ t.stw.fwResult = 0 := by
  simp only [exec, execFwDone, hfw] at h
  split at h
  · exact .inl (Host.Outcome.next.inj h).symm
  · split at h
    · exact .inr (.inl ⟨s, 9, rfl, (Host.Outcome.next.inj h).symm⟩)
    · split at h
      · refine .inr (.inl ⟨_, _, ?_, (Host.Outcome.next.inj h).symm⟩)
        split
        · rw [poisonRcvd_stw]
          rfl
        · rfl
      · right; right
        rw [← Host.Outcome.next.inj h, raise_stw, fwEnd_stw]

/-- R464: Command 2 stops a stream. -/
theorem exec_fwAbort_of_stream (hmay : HostMay s pgStw) (htakes : RmTakes s 2) (hfw : s.stw.fw = some j) (hj : j.stream = true) :
    exec .fwAbort s = .next (stopStream s j.slot 0) := by
  simp only [exec, execFwAbort, hostWr_of_hostMay hmay, rmGate_of_rmTakes htakes, hfw, hj, if_true]

end

/-! ### A stream that is cut -/

/-- The mask of all parts of the state but the steward. -/
def notSteward : Nat := 0xFEFFFFFFFFF

/-- A restart drops the work of other units first, which leaves the steward alone, and then stops the stream (R455). -/
theorem dropWork_of_stream {s : State} {j : FwJob} (hfw : s.stw.fw = some j) (hj : j.stream = true) :
    ∃ u : State, u.stw = s.stw ∧ dropWork s = stopStream u j.slot 1 := by
  unfold dropWork
  extract_lets late s1 s2 s3 s4
  have h1 : Keeps notSteward s s1 := keeps_foldl (fun u p h => keeps_reverseMaps u p h rfl) (.refl s)
  have h2 : Keeps notSteward s s2 := keeps_foldl (fun u e h => keeps_cutLink _ _ _ (keeps_endSeed u _ _ h rfl) rfl) h1
  have h3 : Keeps notSteward s s3 := by
    refine keeps_foldl (fun u e h => ?_) h2
    split
    · exact h
    · dsimp only
      have hput := keeps_putIndex u e.1 { e.2 with building := none } h rfl
      split
      · exact keeps_failReq _ _ _ _ hput rfl
      · exact hput
  have h4 : Keeps notSteward s s4 := by
    unfold s4
    split
    · exact h3
    · exact keeps_wrf _ _ _ _ _ (keeps_wrf _ _ _ _ _ (h3.upd_regions_regionBusy rfl) rfl) rfl
  have hstw : s4.stw = s.stw := stw_of_keeps h4 rfl
  exact ⟨s4, hstw, by simp only [hstw, hfw, hj, if_true]⟩

theorem emptySlot_rmRestart {s : State} {j : FwJob} (hfw : s.stw.fw = some j) (hj : j.stream = true) (hgen : (bootRec s).gen + 1 < 2 ^ 32) (op : Bool) :
    EmptySlot (rmRestart s op) j.slot := by
  obtain ⟨u, hstw, hdrop⟩ := dropWork_of_stream (s := bump { s with stw := { s.stw with rm := .restarting, lastOp := op } } (pgStw + 0x124) 0 16 1) hfw hj
  rw [rmRestart, hdrop]
  exact (emptySlot_stopStream_of_stw hstw hgen j.slot 1).raise ..

/-- A reset of the whole module cuts a stream. -/
theorem emptySlot_moduleReset {s : State} {j : FwJob} (hfw : s.stw.fw = some j) (hj : j.stream = true) (hgen : (bootRec s).gen + 1 < 2 ^ 32) :
    EmptySlot (moduleReset s) j.slot := by
  have hcut : cutStream s = setSlotImage (markSlot s j.slot 0) j.slot none := by simp only [cutStream, hfw, hj, if_true]
  have hempty : EmptySlot (cutStream s) j.slot := hcut ▸ emptySlot_erased hgen j.slot
  exact hempty.of_firmware rfl rfl rfl rfl

/-- R464: Every way in which a restart or a loss of power cuts a stream leaves its slot empty. -/
theorem emptySlot_of_cut {s t : State} {j : FwJob} (hfw : s.stw.fw = some j) (hj : j.stream = true) (hgen : (bootRec s).gen + 1 < 2 ^ 32)
    (hon : s.dev.state ≠ .off) (h : (∃ op : Bool, t = rmRestart s op) ∨ exec .inputLoss s = .next t ∨ exec .resetN s = .next t ∨
      exec .conventionalReset s = .next t ∨ exec .pwrEnLow s = .next t) : EmptySlot t j.slot := by
  have hreset := emptySlot_moduleReset hfw hj hgen
  obtain ⟨op, rfl⟩ | hloss | hpin | hconv | hlow := h
  · exact emptySlot_rmRestart hfw hj hgen op
  · rw [← Host.Outcome.next.inj hloss]
    exact hreset.of_firmware rfl rfl rfl rfl
  · simp only [exec, execResetN, if_neg hon] at hpin
    rw [← Host.Outcome.next.inj hpin]
    exact hreset.of_firmware rfl rfl rfl rfl
  · simp only [exec, execConventionalReset, if_neg hon] at hconv
    rw [← Host.Outcome.next.inj hconv]
    have hstw := cacheWriteBack_stw s
    have hback := emptySlot_moduleReset (s := cacheWriteBack s) (hstw ▸ hfw) hj (bootRec_of_stw hstw ▸ hgen)
    exact hback.of_firmware rfl rfl rfl rfl
  · rw [← Host.Outcome.next.inj hlow]
    exact hreset.of_firmware rfl rfl rfl rfl

/-! ### The slot that the boot ROM starts -/

/-- A slot is started only where it is not marked empty. -/
theorem trySlot_starts {s t : State} {slot : Nat} (h : trySlot s slot = (true, t)) : slotCode (bootRec s) slot ≠ 0 ∧ t.stw.runSlot = slot := by
  unfold trySlot at h
  dsimp only at h
  split at h
  · simp at h
  · next hcode =>
    refine ⟨fun h0 => hcode (.inl h0), ?_⟩
    split at h
    · obtain rfl : _ = t := congrArg Prod.snd h
      rfl
    · simp at h

/-- A slot that does not start is passed over or marked bad. -/
theorem trySlot_fails {s t : State} {slot : Nat} (h : trySlot s slot = (false, t)) : t = s ∨ t = markSlot s slot 3 := by
  unfold trySlot at h
  dsimp only at h
  split at h
  · exact .inl (congrArg Prod.snd h).symm
  · split at h
    · simp at h
    · exact .inr (congrArg Prod.snd h).symm

theorem trySlot_fails_dev {s t : State} {slot : Nat} (h : trySlot s slot = (false, t)) : t.dev = s.dev := by
  obtain rfl | rfl := trySlot_fails h
  · rfl
  · exact putBoot_dev ..

/-- On its way from `s` to `t` the boot ROM has left the mark of a slot alone, started no loader, and written at most `k` boot records. -/
structure PassesOver (slot k : Nat) (s t : State) : Prop where
  code : slotCode (bootRec t) slot = slotCode (bootRec s) slot
  gen  : (bootRec t).gen ≤ (bootRec s).gen + k
  dev  : t.dev = s.dev

theorem PassesOver.refl (slot k : Nat) (s : State) : PassesOver slot k s s := ⟨rfl, Nat.le_add_right .., rfl⟩

theorem PassesOver.trans {slot k l : Nat} {s t u : State} (a : PassesOver slot k s t) (b : PassesOver slot l t u) : PassesOver slot (k + l) s u :=
  ⟨b.code.trans a.code, by have := a.gen; have := b.gen; omega, b.dev.trans a.dev⟩

theorem passesOver_putBoot {s : State} {r : BootRec} {slot : Nat} (hgen : (bootRec s).gen + 1 < 2 ^ 32)
    (hcode : slotCode r slot = slotCode (bootRec s) slot) : PassesOver slot 1 s (putBoot s r) := by
  have hnew := bootRec_putBoot (r := r) hgen
  exact ⟨(congrArg (slotCode · slot) hnew).trans hcode, Nat.le_of_eq (congrArg BootRec.gen hnew), putBoot_dev ..⟩

theorem passesOver_trySlot {s t : State} {slot : Nat} (hgen : (bootRec s).gen + 1 < 2 ^ 32) (h : trySlot s slot = (false, t)) :
    PassesOver (1 - slot) 1 s t := by
  obtain rfl | rfl := trySlot_fails h
  · exact .refl ..
  · exact passesOver_putBoot hgen (slotCode_setSlotCode_other ..)

/-- R467, R469: The boot ROM starts no loader, or it starts the slot that it tries after having passed over its mark. -/
theorem exec_bootRom_cases {s t : State} (h : exec .bootRom s = .next t) (hgen : (bootRec s).gen + 3 < 2 ^ 32) :
    t.dev.bootStep = s.dev.bootStep ∨ ∃ (u : State) (slot k : Nat), PassesOver slot k s u ∧ trySlot u slot = (true, t) := by
  change execBootRom s = .next t at h
  unfold execBootRom at h
  split at h
  · exact .inl (congrArg (·.dev.bootStep) (Host.Outcome.next.inj h).symm)
  extract_lets s0 r r1 at h
  split at h
  next slot r2 ended hchoice =>
  extract_lets s1 w1 s2 at h
  have hr : bootRec s0 = bootRec s := bootRec_of_stw (bootKeys_stw s)
  have hmarks (x : Nat) : slotCode r2 x = slotCode r x := by
    split at hchoice
    · cases hchoice; rfl
    · split at hchoice
      all_goals cases hchoice; rfl
  have hfirst (x : Nat) : PassesOver x 1 s s2 := by
    obtain ⟨hcode, hle, hdev⟩ := passesOver_putBoot (by rw [hr]; omega) (hmarks x)
    exact ⟨hcode.trans (congrArg (slotCode · x) hr), hr ▸ hle, hdev.trans (bootKeys_dev s)⟩
  have hgen2 := (hfirst slot).gen
  split at h
  · next s3 htry =>
    obtain rfl := Host.Outcome.next.inj h
    exact .inr ⟨s2, slot, 1, hfirst slot, htry⟩
  · next s3 htry =>
    have hsecond : PassesOver (1 - slot) 2 s s3 := (hfirst _).trans (passesOver_trySlot (by omega) htry)
    have hgen3 := hsecond.gen
    extract_lets r3 s4 w4 s5 at h
    have hwritten : PassesOver (1 - slot) 1 s3 s4 := passesOver_putBoot (by omega) rfl
    have hended : PassesOver (1 - slot) 1 s3 s5 := by
      unfold s5
      split
      · exact ⟨hwritten.code, hwritten.gen, hwritten.dev⟩
      · exact .refl ..
    have hthird : PassesOver (1 - slot) 3 s s5 := hsecond.trans hended
    split at h
    · next s6 hother =>
      obtain rfl := Host.Outcome.next.inj h
      exact .inr ⟨s5, 1 - slot, 3, hthird, hother⟩
    · next s6 hother =>
      obtain rfl := Host.Outcome.next.inj h
      have hstep : s6.dev.bootStep = s.dev.bootStep := by rw [trySlot_fails_dev hother, hthird.dev]
      exact .inl hstep

/-- R464: The slot whose loader the boot ROM starts was not marked empty when it began. -/
theorem exec_bootRom_starts {s t : State} (h : exec .bootRom s = .next t) (hgen : (bootRec s).gen + 3 < 2 ^ 32)
    (hstart : t.dev.bootStep ≠ s.dev.bootStep) : slotCode (bootRec s) t.stw.runSlot ≠ 0 := by
  obtain hsame | ⟨u, slot, k, hpass, htry⟩ := exec_bootRom_cases h hgen
  · exact absurd hsame hstart
  · obtain ⟨hcode, hrun⟩ := trySlot_starts htry
    rwa [hrun, ← hpass.code]

/-- Settles O60: a stream that stops, is aborted or is cut goes through the erasure of its slot, and the boot ROM passes over an empty slot. -/
theorem cutStreamsLeaveTheSlotEmpty : Obligations.CutStreamsLeaveTheSlotEmpty := by
  refine ⟨fun s t j hfw hj _ hgen => ⟨fun h hfree hresult => ?_, fun hmay htakes h => ?_, fun h hon => ?_⟩,
    fun s t h hrom hstart hgen => exec_bootRom_starts h hgen (by rw [hrom, hstart]; decide)⟩
  · obtain rfl | ⟨u, e, hstw, rfl⟩ | hloaded := exec_fwDone_cases hfw h
    · simp [hfw] at hfree
    · exact (emptySlot_stopStream_of_stw hstw hgen j.slot e).1
    · exact absurd hloaded hresult
  · rw [exec_fwAbort_of_stream hmay htakes hfw hj] at h
    obtain rfl := Host.Outcome.next.inj h
    exact (emptySlot_stopStream hgen j.slot 0).1
  · exact emptySlot_of_cut hfw hj hgen hon h

end Sys2Proof.Proofs.Firmware
end

section
/-! PROOF. The clear of the event log (R482), by the three things that its checks can find. -/
namespace Sys2Proof.Proofs.EventLog
open Sys2Proof.Machine Sys2Proof.Safety Sys2Proof.Proofs.Firmware

variable {s : State}

/-- R482: A count that is not `COUNT_TO` is refused with 1, whatever the records hold. -/
theorem exec_evrClear_of_count_ne (hmay : HostMay s pgEvr) (hcount : s.evr.log.length ≠ rdf s (pgEvr + 0x118) 0 16) :
    exec .evrClear s = .next { s with evr := { s.evr with clrResult := 1 } } := by
  simp [exec, execEvrClear, hostWr_of_hostMay hmay, hcount]

/-- R482: A last record whose repeat count is not `REPEAT_TO` is refused with 2. -/
theorem exec_evrClear_of_repeat_ne {r : List Byte} (hmay : HostMay s pgEvr) (hcount : s.evr.log.length = rdf s (pgEvr + 0x118) 0 16)
    (hlast : s.evr.log.getLast? = some r) (hrepeat : recRepeat r ≠ rdf s (pgEvr + 0x118) 16 16) :
    exec .evrClear s = .next { s with evr := { s.evr with clrResult := 2 } } := by
  simp [exec, execEvrClear, hostWr_of_hostMay hmay, hcount, hlast, hrepeat]

/-- R482: The log is cleared where its count and the repeat count of its last record, if it has one, are those that the host has seen. -/
theorem exec_evrClear_of_seen (hmay : HostMay s pgEvr) (hcount : s.evr.log.length = rdf s (pgEvr + 0x118) 0 16)
    (hrepeat : ∀ r : List Byte, s.evr.log.getLast? = some r → recRepeat r = rdf s (pgEvr + 0x118) 16 16) :
    exec .evrClear s =
      .next (wrf { s with evr := { s.evr with log := [], overflow := 0, inGroup := false, clrResult := 0 } } (pgEvr + 0x10) 0 1 0) := by
  cases hlast : s.evr.log.getLast? with
  | none => simp [exec, execEvrClear, hostWr_of_hostMay hmay, hcount, hlast]
  | some r => simp [exec, execEvrClear, hostWr_of_hostMay hmay, hcount, hlast, hrepeat r hlast]

/-- Settles O58: the two refusals in the order of the checks, and the clear where both checks pass. -/
theorem logIsClearedOnlyAsSeen : Obligations.LogIsClearedOnlyAsSeen := fun _ hmay =>
  ⟨exec_evrClear_of_count_ne hmay, fun _ => exec_evrClear_of_repeat_ne hmay, exec_evrClear_of_seen hmay⟩

end Sys2Proof.Proofs.EventLog
end

section
/-! PROOF. Every command answers: with a next state, or with the fault `operand` where no event can carry the command (log entry 133). -/
namespace Sys2Proof.Proofs.Commands
open Sys2Proof.Machine Sys2Proof.Safety

/-- What a command can answer: a next state, and the fault `operand` only where no event can carry the command (`ok` is false). -/
inductive Answers (ok : Bool) : Res → Prop
  | next (t : State) : Answers ok (.next t)
  | fault (what : String) (h : ok = false) : Answers ok (.fault (.operand what))

variable {ok : Bool}

theorem answers_ite {p : Prop} [Decidable p] {a b : Res} (ha : p → Answers ok a) (hb : ¬p → Answers ok b) : Answers ok (if p then a else b) := by
  split
  · next h => exact ha h
  · next h => exact hb h

theorem answers_hostWr {s : State} {pg : Nat} {r : Res} (h : Answers ok r) : Answers ok (hostWr s pg r) :=
  answers_ite (fun _ => .next _) fun _ => answers_ite (fun _ => .next _) fun _ => answers_ite (fun _ => .next _) fun _ => h

theorem answers_hostIo {s : State} {a : Nat} {r : Res} (h : Answers ok r) : Answers ok (hostIo s a r) :=
  answers_ite (fun _ => .next _) fun _ => answers_ite (fun _ => .next _) fun _ => h

theorem answers_hostRd {s : State} {a w : Nat} {r : Res} (h : Answers ok r) : Answers ok (hostRd s a w r) :=
  answers_hostIo (answers_ite (fun _ => .next _) fun _ => h)

theorem answers_mailboxIo {s : State} {code : Nat} {r : Res} (h : Answers ok r) : Answers ok (mailboxIo code s r) :=
  answers_ite (fun _ => .next _) fun _ => answers_ite (fun _ => .next _) fun _ => h

theorem answers_mailbox (code : Nat) (dc : Bool) (s : State) (k : State → State) : Answers ok (mailbox code dc s k) := by
  refine answers_mailboxIo (answers_ite (fun _ => .next _) fun _ => ?_)
  cases h : rmGate s 1 with
  | mk why s1 => cases why <;> exact .next _

theorem answers_onRegion (s : State) (k : State → Nat → Region → State) : Answers ok (onRegion s k) := by
  refine answers_ite (fun _ => .next _) fun _ => ?_
  rcases rmGate s 1 with ⟨_ | _, s1⟩
  · refine answers_ite (fun _ => .next _) fun _ => ?_
    split <;> exact .next _
  · exact .next _

theorem answers_partCmd (s : State) (p : Nat) (k : State → State) : Answers ok (partCmd s p k) := by
  refine answers_ite (fun _ => .next _) fun _ => ?_
  rcases rmGate s 0 with ⟨_ | _, s1⟩ <;> exact .next _

theorem answers_fwCmd (s : State) (k : State → State) : Answers ok (fwCmd s k) := by
  refine answers_ite (fun _ => .next _) fun _ => ?_
  rcases rmGate s 2 with ⟨_ | _, s1⟩ <;> exact .next _

theorem Answers.of_true {r : Res} (h : Answers true r) : Answers ok r := by
  cases h with
  | next t => exact .next t
  | fault what h => cases h

theorem answers_tblCommand (s : State) (install : Bool) (id : Nat) : Answers (decide (id ≤ 63)) (tblCommand s install id) := by
  refine answers_ite (fun h => .fault _ (by simpa using h)) fun _ => answers_ite (fun _ => .next _) fun _ => ?_
  rcases rmGate s 1 with ⟨_ | _, s1⟩ <;> exact .next _

/-- The commands that are host writes of a page's command register or of a register with an effect. -/
theorem exec_answers_of_hostPage {c : Instr} (h : hostPage c ≠ none) (s : State) : Answers c.wellFormed (exec c s) := by
  cases c
  case
      dcAdd | dcRelease | dcRead | gclCommit | qpCreate | qpDestroy | qpRead | evrClear | dumpCopy | dumpRelease | captCfgWrite | replayStart |
      replayStop | snap | partCreate | partApplyMaps | partReset | partDestroy | partTierWrite | partCabshareWrite | pwrModeWrite | drain |
      serve | regionRegister | regionReregisterNew | regionReregisterKeep | regionDeregister | regionRead | pgEvtWrite | pgEvtEnWrite |
      pgCtrlWrite | pgEvtForce | cqCi | ringCreate | ringDestroy | ruleInsert | ruleRemove | ruleModify | ruleRead | ruleApplyBands |
      ruleDefLoWrite | ruleDefHiWrite | report | readCertificate | installFenceKey | addTrustKey | removeTrustKey | ideHandshakeMessage |
      applyWindow | fwStream | fwAbort | fwVerify | activateTrial | commit | raiseSecurityVersion | cancelTrial | restart =>
    delta exec
      execDcAdd  execDcRelease  execDcRead  execGclCommit  execQpCreate  execQpDestroy  execQpRead  execEvrClear  execDumpCopy  execDumpRelease
      execCaptCfgWrite  execReplayStart  execReplayStop  execSnap  execPartCreate  execPartApplyMaps  execPartReset  execPartDestroy
      execPartTierWrite  execPartCabshareWrite  execPwrModeWrite  execDrain  execServe  execRegionRegister  execRegionReregisterNew
      execRegionReregisterKeep  execRegionDeregister  execRegionRead  execPgEvtWrite  execPgEvtEnWrite  execPgCtrlWrite  execPgEvtForce
      execCqCi  execRingCreate  execRingDestroy  execRuleInsert  execRuleRemove  execRuleModify  execRuleRead  execRuleApplyBands
      execRuleDefLoWrite  execRuleDefHiWrite  execReport  execReadCertificate  execInstallFenceKey  execAddTrustKey  execRemoveTrustKey
      execIdeHandshakeMessage  execApplyWindow  execFwStream  execFwAbort  execFwVerify  execActivateTrial  execCommit  execRaiseSecurityVersion
      execCancelTrial  execRestart
    repeat' first
      | with_reducible exact .next _
      | with_reducible apply answers_hostWr
      | with_reducible exact answers_fwCmd ..
      | with_reducible exact answers_partCmd ..
      | with_reducible exact answers_onRegion ..
      | dsimp only
      | split
  case cabTblInstall id => exact answers_hostWr (answers_tblCommand s true id)
  case cabTblRetire id => exact answers_hostWr (answers_tblCommand s false id)
  all_goals exact absurd rfl h

/-! ### Commands with many branches -/

theorem answers_execRecoveryImageData (data : List Byte) (s : State) : Answers ok (execRecoveryImageData data s) := by
  unfold execRecoveryImageData
  repeat' first
    | with_reducible exact .next _
    | dsimp only
    | split

theorem answers_execCxlLinkUp (speed width : Nat) (flit256 cacheOk memOk : Bool) (s : State) :
    Answers ok (execCxlLinkUp speed width flit256 cacheOk memOk s) := by
  unfold execCxlLinkUp
  repeat' first
    | with_reducible exact .next _
    | dsimp only
    | split

theorem answers_execResultBlockSend (port : Fin 4) (qpn : Nat) (s : State) : Answers ok (execResultBlockSend port qpn s) := by
  unfold execResultBlockSend
  repeat' first
    | with_reducible exact .next _
    | dsimp only
    | split

theorem answers_execNetLoopCheck (req : Nat) (s : State) : Answers ok (execNetLoopCheck req s) := by
  unfold execNetLoopCheck
  repeat' first
    | with_reducible exact .next _
    | dsimp only
    | split

theorem answers_execAllocationPlaceFreed (part : Fin 32) (s : State) : Answers ok (execAllocationPlaceFreed part s) := by
  unfold execAllocationPlaceFreed
  repeat' first
    | with_reducible exact .next _
    | dsimp only
    | split

theorem answers_execPatrolRead (corrected : Nat) (bad : Bool) (s : State) : Answers ok (execPatrolRead corrected bad s) := by
  unfold execPatrolRead
  repeat' first
    | with_reducible exact .next _
    | dsimp only
    | split

theorem answers_execPacketReceive (port : Fin 4) (pkt : Packet) (s : State) : Answers ok (execPacketReceive port pkt s) := by
  unfold execPacketReceive
  repeat' first
    | with_reducible exact .next _
    | dsimp only
    | split

theorem answers_execRingPi (ring : Fin 4096) (value : Word) (stores : List (Nat × Option (List Byte))) (s : State) :
    Answers ok (execRingPi ring value stores s) := by
  refine answers_hostWr ?_
  split
  · exact .next _
  · exact answers_ite (fun _ => .next _) fun _ => answers_ite (fun _ => .next _) fun _ => .next _

/-! ### Commands with operands that no event can carry -/

theorem exec_answers_descriptorFetch (ring : Fin 4096) (count : Nat) (s : State) :
    Answers (Instr.descriptorFetch ring count).wellFormed (execDescriptorFetch ring count s) := by
  refine answers_ite (fun h => .fault _ (decide_eq_false (by simpa using h))) fun _ => ?_
  repeat' first
    | with_reducible exact .next _
    | dsimp only
    | split

theorem exec_answers_objectFree (part : Fin 32) (handle : Nat) (s : State) :
    Answers (Instr.objectFree part handle).wellFormed (execObjectFree part handle s) := by
  refine answers_ite (fun h => .fault _ (decide_eq_false (by omega))) fun _ => ?_
  repeat' first
    | with_reducible exact .next _
    | dsimp only
    | split

theorem exec_answers_scriptDescriptorWrite (stack : Fin 8) (index : Fin 8) (value : List Byte) (s : State) :
    Answers (Instr.scriptDescriptorWrite stack index value).wellFormed (execScriptDescriptorWrite stack index value s) := by
  refine answers_ite (fun h => .fault _ (decide_eq_false (by simpa using h))) fun _ => ?_
  repeat' first
    | with_reducible exact .next _
    | dsimp only
    | split

theorem exec_answers_coldReadDone (req run series : Nat) (got : ColdAt) (s : State) :
    Answers (Instr.coldReadDone req run series got).wellFormed (execColdReadDone req run series got s) := by
  refine answers_ite (fun h => .fault _ (decide_eq_false (by simpa using h))) fun _ => ?_
  repeat' first
    | with_reducible exact .next _
    | dsimp only
    | split

theorem exec_answers_scrubRead (stack : Fin 16) (stays once : List LineHit) (s : State) :
    Answers (Instr.scrubRead stack stays once).wellFormed (execScrubRead stack stays once s) := by
  refine answers_ite (fun h => .fault _ ((Bool.not_eq_true' _).mp h)) fun _ => ?_
  repeat' first
    | with_reducible exact .next _
    | dsimp only
    | split

theorem exec_answers_loadWindow (load : Nat) (s : State) : Answers (Instr.loadWindow load).wellFormed (execLoadWindow load s) := by
  refine answers_ite (fun h => .fault _ (decide_eq_false (by simpa using h))) fun _ => ?_
  repeat' first
    | with_reducible exact .next _
    | dsimp only
    | split

theorem exec_answers_smbusBlockRead (code : Nat) (s : State) : Answers (Instr.smbusBlockRead code).wellFormed (execSmbusBlockRead code s) := by
  refine answers_ite (fun h => .fault _ (decide_eq_false (by simpa using h))) fun _ => ?_
  repeat' first
    | with_reducible exact .next _
    | dsimp only
    | split

theorem exec_answers_sensorReading (temps : List Int) (s : State) : Answers (Instr.sensorReading temps).wellFormed (execSensorReading temps s) := by
  refine answers_ite (fun h => .fault _ (decide_eq_false (by simpa using h))) fun _ => ?_
  repeat' first
    | with_reducible exact .next _
    | dsimp only
    | split

theorem exec_answers_cxlMemRead (dpa : Nat) (s : State) : Answers (Instr.cxlMemRead dpa).wellFormed (execCxlMemRead dpa s) := by
  refine answers_ite (fun _ => .next _) fun _ => answers_ite (fun h => .fault _ (decide_eq_false (by simpa using h))) fun _ => ?_
  repeat' first
    | with_reducible exact .next _
    | dsimp only
    | split

theorem exec_answers_cxlMemWrite (dpa : Nat) (bytes : List Byte) (poison : Bool) (s : State) :
    Answers (Instr.cxlMemWrite dpa bytes poison).wellFormed (execCxlMemWrite dpa bytes poison s) := by
  refine answers_ite (fun _ => .next _) fun _ =>
    answers_ite (fun h => .fault _ (decide_eq_false fun ⟨hlow, hsome, hline⟩ => by simp [hsome] at h; omega)) fun _ => ?_
  repeat' first
    | with_reducible exact .next _
    | dsimp only
    | split

theorem exec_answers_remoteDrawerRead (shelf series idx : Nat) (data : List Byte) (s : State) :
    Answers (Instr.remoteDrawerRead shelf series idx data).wellFormed (execRemoteDrawerRead shelf series idx data s) := by
  refine answers_ite (fun _ => .next _) fun _ => answers_ite (fun h => .fault _ (decide_eq_false (by simpa using h))) fun _ => ?_
  repeat' first
    | with_reducible exact .next _
    | dsimp only
    | split

theorem exec_answers_mirrorEntry (part : Fin 32) (peer : Fin 64) (entry : List Byte) (s : State) :
    Answers (Instr.mirrorEntry part peer entry).wellFormed (execMirrorEntry part peer entry s) := by
  refine answers_ite (fun _ => .next _) fun _ => answers_ite (fun h => .fault _ (decide_eq_false (by omega))) fun _ => ?_
  repeat' first
    | with_reducible exact .next _
    | dsimp only
    | split

/-- A command register runs host commands that an event can carry. -/
theorem answers_hostCommand {c : Instr} (s : State) (hpage : hostPage c ≠ none) (hform : c.wellFormed = true) :
    Answers true (exec c s) := hform ▸ exec_answers_of_hostPage hpage s

theorem answers_partCommand (s : State) (p : Fin 32) (v : Nat) : Answers true (partCommand s p v) := by
  unfold partCommand
  split
  · exact answers_hostCommand (c := .partCreate p) s (Option.some_ne_none _) rfl
  · exact answers_hostCommand (c := .partDestroy p) s (Option.some_ne_none _) rfl
  · exact answers_hostCommand (c := .partReset p) s (Option.some_ne_none _) rfl
  · exact answers_hostCommand (c := .partApplyMaps p) s (Option.some_ne_none _) rfl
  · exact .next _

theorem answers_aschCommand (s : State) (n : Fin 4) (v : Nat) : Answers true (aschCommand s n v) := by
  unfold aschCommand
  split
  · exact answers_hostCommand (c := .ringCreate n) s (Option.some_ne_none _) rfl
  · exact answers_hostCommand (c := .ringDestroy n) s (Option.some_ne_none _) rfl
  · exact .next _

theorem answers_qpCommand (s : State) (p : Fin 4) (v : Nat) : Answers true (qpCommand s p v) := by
  unfold qpCommand
  split
  · exact answers_hostCommand (c := .qpCreate p) s (Option.some_ne_none _) rfl
  · exact answers_hostCommand (c := .qpDestroy p) s (Option.some_ne_none _) rfl
  · exact answers_hostCommand (c := .qpRead p) s (Option.some_ne_none _) rfl
  · exact .next _

theorem answers_regionCommand (s : State) (v : Nat) : Answers true (regionCommand s v) := by
  unfold regionCommand
  split
  · exact answers_hostCommand (c := .regionRegister) s (Option.some_ne_none _) rfl
  · exact answers_hostCommand (c := .regionReregisterNew) s (Option.some_ne_none _) rfl
  · exact answers_hostCommand (c := .regionReregisterKeep) s (Option.some_ne_none _) rfl
  · exact answers_hostCommand (c := .regionDeregister) s (Option.some_ne_none _) rfl
  · exact answers_hostCommand (c := .regionRead) s (Option.some_ne_none _) rfl
  · exact .next _

theorem answers_ruleCommand (s : State) (v : Nat) : Answers true (ruleCommand s v) := by
  unfold ruleCommand
  split
  · exact answers_hostCommand (c := .ruleInsert) s (Option.some_ne_none _) rfl
  · exact answers_hostCommand (c := .ruleRemove) s (Option.some_ne_none _) rfl
  · exact answers_hostCommand (c := .ruleModify) s (Option.some_ne_none _) rfl
  · exact answers_hostCommand (c := .ruleRead) s (Option.some_ne_none _) rfl
  · exact answers_hostCommand (c := .ruleApplyBands) s (Option.some_ne_none _) rfl
  · exact .next _

theorem answers_dcCommand (s : State) (v : Nat) : Answers true (dcCommand s v) := by
  unfold dcCommand
  split
  · exact answers_hostCommand (c := .dcAdd) s (Option.some_ne_none _) rfl
  · exact answers_hostCommand (c := .dcRelease) s (Option.some_ne_none _) rfl
  · exact answers_hostCommand (c := .dcRead) s (Option.some_ne_none _) rfl
  · exact .next _

theorem answers_cabCommand (s : State) (v : Nat) : Answers true (cabCommand s v) := by
  unfold cabCommand
  split
  · exact answers_hostCommand (c := .cabTblInstall (bits v 8 6)) s (Option.some_ne_none _) (decide_eq_true (Nat.le_of_lt_succ (Nat.mod_lt _ (by decide))))
  · exact answers_hostCommand (c := .cabTblRetire (bits v 8 6)) s (Option.some_ne_none _) (decide_eq_true (Nat.le_of_lt_succ (Nat.mod_lt _ (by decide))))
  · exact .next _

theorem answers_fwCommand (s : State) (v : Nat) : Answers true (fwCommand s v) := by
  unfold fwCommand
  split
  · exact answers_hostCommand (c := .fwStream) s (Option.some_ne_none _) rfl
  · exact answers_hostCommand (c := .fwAbort) s (Option.some_ne_none _) rfl
  · exact answers_hostCommand (c := .fwVerify (Fin.ofNat 2 (bits v 3 1))) s (Option.some_ne_none _) rfl
  · exact answers_hostCommand (c := .activateTrial) s (Option.some_ne_none _) rfl
  · exact answers_hostCommand (c := .commit) s (Option.some_ne_none _) rfl
  · exact answers_hostCommand (c := .raiseSecurityVersion) s (Option.some_ne_none _) rfl
  · exact answers_hostCommand (c := .cancelTrial) s (Option.some_ne_none _) rfl
  · exact .next _

theorem answers_secCommand (s : State) (v : Nat) : Answers true (secCommand s v) := by
  unfold secCommand
  split
  · exact answers_hostCommand (c := .report (Fin.ofNat 32 (bits v 4 5)) (bit v 9)) s (Option.some_ne_none _) rfl
  · exact answers_hostCommand (c := .readCertificate (Fin.ofNat 16 (bits v 10 4))) s (Option.some_ne_none _) rfl
  · exact answers_hostCommand (c := .installFenceKey) s (Option.some_ne_none _) rfl
  · exact answers_hostCommand (c := .addTrustKey) s (Option.some_ne_none _) rfl
  · exact answers_hostCommand (c := .removeTrustKey (Fin.ofNat 16 (bits v 10 4))) s (Option.some_ne_none _) rfl
  · exact answers_hostCommand (c := .ideHandshakeMessage) s (Option.some_ne_none _) rfl
  · exact answers_hostCommand (c := .applyWindow) s (Option.some_ne_none _) rfl
  · exact .next _

theorem answers_replayCommand (s : State) (p : Fin 32) (v : Nat) : Answers true (replayCommand s p v) := by
  unfold replayCommand
  split
  · exact answers_hostCommand (c := .replayStart p (Fin.ofNat 4 (bits v 2 2))) s (Option.some_ne_none _) rfl
  · exact answers_hostCommand (c := .replayStop p) s (Option.some_ne_none _) rfl
  · exact .next _

theorem answers_dumpCommand (s : State) (v : Nat) : Answers true (dumpCommand s v) := by
  unfold dumpCommand
  split
  · exact answers_hostCommand (c := .dumpCopy) s (Option.some_ne_none _) rfl
  · exact answers_hostCommand (c := .dumpRelease) s (Option.some_ne_none _) rfl
  · exact .next _

theorem answers_pwrCommand (s : State) (v : Nat) : Answers true (pwrCommand s v) := by
  unfold pwrCommand
  split
  · exact answers_hostCommand (c := .drain) s (Option.some_ne_none _) rfl
  · exact answers_hostCommand (c := .serve) s (Option.some_ne_none _) rfl
  · exact .next _

/-- An aligned write past the header of a page: a plain register takes its value, and the others are host commands. -/
theorem answers_writeBlock (s : State) (k : Kind) (n off : Nat) (value : Word) : Answers true (writeBlock s k n off value) := by
  cases k
  case root | msix | pba | tcl | dir | bth0 | bth1 | shp1 => exact .next _
  case asch => exact answers_ite (fun _ => answers_aschCommand ..) fun _ => .next _
  case ring =>
    exact answers_ite (fun _ => answers_execRingPi ..) fun _ =>
      answers_ite (fun _ => answers_hostCommand (c := .cqCi (Fin.ofNat 4096 n) value) s (Option.some_ne_none _) rfl) fun _ => .next _
  case rule =>
    exact answers_ite (fun _ => .next _) fun _ => answers_ite (fun _ => answers_ruleCommand ..) fun _ =>
      answers_ite (fun _ => answers_hostCommand (c := .ruleDefLoWrite value) s (Option.some_ne_none _) rfl) fun _ =>
      answers_ite (fun _ => answers_hostCommand (c := .ruleDefHiWrite value) s (Option.some_ne_none _) rfl) fun _ => .next _
  case hbm => exact answers_ite (fun _ => .next _) fun _ => .next _
  case net =>
    exact answers_ite (fun _ => answers_qpCommand ..) fun _ => answers_ite (fun _ => answers_regionCommand ..) fun _ => .next _
  case shp0 => exact answers_ite (fun _ => answers_hostCommand (c := .gclCommit (Fin.ofNat 4 n)) _ (Option.some_ne_none _) rfl) fun _ => .next _
  case cxl => exact answers_ite (fun _ => answers_dcCommand ..) fun _ => .next _
  case cab => exact answers_ite (fun _ => answers_cabCommand ..) fun _ => answers_ite (fun _ => .next _) fun _ => .next _
  case stw =>
    exact answers_ite (fun _ => answers_fwCommand ..) fun _ =>
      answers_ite (fun _ => answers_ite (fun _ => answers_hostCommand (c := .restart) _ (Option.some_ne_none _) rfl) fun _ => .next _) fun _ => .next _
  case evr =>
    exact answers_ite (fun _ => answers_ite (fun _ => answers_hostCommand (c := .evrClear) s (Option.some_ne_none _) rfl) fun _ => .next _) fun _ =>
      answers_ite (fun _ => answers_dumpCommand ..) fun _ => .next _
  case sec => exact answers_ite (fun _ => answers_secCommand ..) fun _ => .next _
  case pwr =>
    exact answers_ite (fun _ => answers_hostCommand (c := .pwrModeWrite value) s (Option.some_ne_none _) rfl) fun _ =>
      answers_ite (fun _ => answers_pwrCommand ..) fun _ => .next _
  case part =>
    exact answers_ite (fun _ => answers_partCommand ..) fun _ => answers_ite (fun _ => .next _) fun _ =>
      answers_ite (fun _ => answers_hostCommand (c := .partCabshareWrite (Fin.ofNat 32 n) value) s (Option.some_ne_none _) rfl) fun _ =>
      answers_ite (fun _ => answers_hostCommand (c := .partTierWrite (Fin.ofNat 32 n) value) s (Option.some_ne_none _) rfl) fun _ => .next _
  case capt =>
    exact answers_ite (fun _ => answers_hostCommand (c := .captCfgWrite (Fin.ofNat 32 n) value) s (Option.some_ne_none _) rfl) fun _ =>
      answers_ite (fun _ => answers_replayCommand ..) fun _ => .next _
  case mtr => exact answers_ite (fun _ => answers_hostCommand (c := .snap (Fin.ofNat 32 n)) s (Option.some_ne_none _) rfl) fun _ => .next _

theorem answers_writeWord (s : State) (addr : Nat) (value : Word) : Answers true (writeWord s addr value) := by
  refine answers_ite (fun _ => .next _) fun _ => ?_
  split
  · exact .next _
  · exact answers_ite (fun _ => .next _) fun _ => answers_ite (fun _ => answers_hostCommand (c := .pgCtrlWrite _ value) s (Option.some_ne_none _) rfl) fun _ =>
      answers_ite (fun _ => answers_hostCommand (c := .pgEvtWrite _ value) s (Option.some_ne_none _) rfl) fun _ =>
      answers_ite (fun _ => answers_hostCommand (c := .pgEvtEnWrite _ value) s (Option.some_ne_none _) rfl) fun _ =>
      answers_ite (fun _ => answers_hostCommand (c := .pgEvtForce _ value) s (Option.some_ne_none _) rfl) fun _ =>
      answers_ite (fun _ => .next _) fun _ => answers_writeBlock ..

theorem exec_answers_registerWrite (addr width : Nat) (value : BitVec 64) (s : State) :
    Answers (Instr.registerWrite addr width value).wellFormed (execRegisterWrite addr width value s) := by
  refine answers_ite (fun h => .fault _ ((Bool.not_eq_true' _).mp h)) fun _ => answers_hostWr ?_
  refine answers_ite (fun _ => .next _) fun _ => answers_ite (fun _ => (answers_writeWord ..).of_true) fun _ => ?_
  have hlow := answers_writeWord s addr (BitVec.ofNat 32 value.toNat)
  cases hres : writeWord s addr (BitVec.ofNat 32 value.toNat) with
  | next s1 => exact (answers_writeWord ..).of_true
  | fault e => rw [hres] at hlow; exact hlow.of_true
  | refused e => rw [hres] at hlow; exact hlow.of_true

theorem exec_answers_msixUnmask (vector : Option Nat) (s : State) : Answers (Instr.msixUnmask vector).wellFormed (execMsixUnmask vector s) := by
  cases vector with
  | none => exact answers_ite (fun _ => .next _) fun _ => .next _
  | some v => exact answers_ite (fun h => .fault _ (decide_eq_false (by simpa using h))) fun _ => answers_hostWr (.next _)

theorem exists_pair_of_length {α : Type} {l : List α} (h : l.length = 2) : ∃ a b, l = [a, b] :=
  match l, h with
  | [a, b], _ => ⟨a, b, rfl⟩

theorem exec_answers_pullCheck (shelf : Nat) (drawers : List (List Byte)) (s : State) :
    Answers (Instr.pullCheck shelf drawers).wellFormed (execPullCheck shelf drawers s) := by
  have hform (what : String) (h : ¬(drawers.length = 2 ∧ drawers.all (fun b => decide (b.length = 33024)) = true)) :
      Answers (Instr.pullCheck shelf drawers).wellFormed (.fault (.operand what)) := .fault what (decide_eq_false h)
  unfold execPullCheck
  split
  · exact .next _
  · split
    · refine answers_ite (fun h => hform _ (by simp; omega)) fun _ => ?_
      repeat' first
        | with_reducible exact .next _
        | dsimp only
        | split
    · refine hform _ fun ⟨hlen, _⟩ => ?_
      obtain ⟨a, b, rfl⟩ := exists_pair_of_length hlen
      simp_all

theorem exec_answers_rcRead (addr width : Nat) (s : State) : Answers (Instr.rcRead addr width).wellFormed (execRcRead addr width s) := by
  refine answers_ite (fun h => .fault _ ((Bool.not_eq_true' _).mp h)) fun _ => answers_hostIo ?_
  repeat' first
    | with_reducible exact .next _
    | dsimp only
    | split

/-! ### Every command -/

/-! The table is taken in four parts, which are lemmas of their own only for their size. -/

theorem exec_answers_of_index_0_50 {c : Instr} (h : 0 ≤ c.ctorIdx ∧ c.ctorIdx < 50) (s : State) : Answers c.wellFormed (exec c s) := by
  cases c
  case
      cqCi | ringCreate | ringDestroy =>
    refine exec_answers_of_hostPage ?_ s
    exact Option.some_ne_none _
  case
      attend | appendKv | ringSlotReuse | merge | trimKv | dropShelf | plan | pin | search | vinsert | vdelete | vmerge | movePull | mirrorSet |
      load | unload | fence => exact .next _
  case netLoopCheck => exact answers_execNetLoopCheck ..
  case ringPi => exact answers_execRingPi ..
  case descriptorFetch => exact exec_answers_descriptorFetch ..
  case objectFree => exact exec_answers_objectFree ..
  case
      linkCrcFail | reroute | counterWrap | visibleAdvance | failedAppend | trimSetEnd | trimTailComplete | headTrimFree | dropFree |
      convScanEnd | vmergeSwitch | statusRecordWrite | fenceComplete | graceWindowClose | arm | disarm | trigger | fire | ringDestroyDone |
      bucketWaitExceeded | runDispatch | passN | passV | combine | scoreSheetFailure | boothJobStart =>
    delta exec
      execLinkCrcFail  execReroute  execCounterWrap  execVisibleAdvance  execFailedAppend  execTrimSetEnd  execTrimTailComplete
      execHeadTrimFree  execDropFree  execConvScanEnd  execVmergeSwitch  execStatusRecordWrite  execFenceComplete  execGraceWindowClose  execArm
      execDisarm  execTrigger  execFire  execRingDestroyDone  execBucketWaitExceeded  execRunDispatch  execPassN  execPassV  execCombine
      execScoreSheetFailure  execBoothJobStart
    repeat' first
      | with_reducible exact .next _
      | dsimp only
      | split
  all_goals exact absurd h (of_decide_eq_false rfl)

theorem exec_answers_of_index_50_110 {c : Instr} (h : 50 ≤ c.ctorIdx ∧ c.ctorIdx < 110) (s : State) : Answers c.wellFormed (exec c s) := by
  cases c
  case
      cabTblInstall | cabTblRetire | partTierWrite | partCabshareWrite | ruleInsert | ruleRemove | ruleModify | ruleRead | ruleApplyBands |
      ruleDefLoWrite | ruleDefHiWrite =>
    refine exec_answers_of_hostPage ?_ s
    exact Option.some_ne_none _
  case
      uopNop | uopAct | uopRd | uopExp | uopDotg | uopGsc | uopSst | uopSeti | uopAddi | uopLoop | uopEnd | stackFence | portLinkDown => exact .next _
  case resultBlockSend => exact answers_execResultBlockSend ..
  case allocationPlaceFreed => exact answers_execAllocationPlaceFreed ..
  case patrolRead => exact answers_execPatrolRead ..
  case packetReceive => exact answers_execPacketReceive ..
  case scriptDescriptorWrite => exact exec_answers_scriptDescriptorWrite ..
  case coldReadDone => exact exec_answers_coldReadDone ..
  case scrubRead => exact exec_answers_scrubRead ..
  case
      collectorJobDone | boothPark | perBankRefresh | allBankRefresh | refreshComplete | boothRestart | boothJobTimeout | scriptWindowWrite |
      demotion | moveEnd | tierVisit | liftTaken | liftRoom | liftPlaced | garbageCollection | staticWearLevelling | readDisturbRelocation |
      blockReadFail | correctedWriteback | damagedShelfFree | rowRepair | pcRetire | pcRetired | rebalance | shadowCompare | portLinkUp |
      qpFetchDone | ackTimeout | ccTimerExpiry =>
    delta exec
      execCollectorJobDone  execBoothPark  execPerBankRefresh  execAllBankRefresh  execRefreshComplete  execBoothRestart  execBoothJobTimeout
      execScriptWindowWrite  execDemotion  execMoveEnd  execTierVisit  execLiftTaken  execLiftRoom  execLiftPlaced  execGarbageCollection
      execStaticWearLevelling  execReadDisturbRelocation  execBlockReadFail  execCorrectedWriteback  execDamagedShelfFree  execRowRepair
      execPcRetire  execPcRetired  execRebalance  execShadowCompare  execPortLinkUp  execQpFetchDone  execAckTimeout  execCcTimerExpiry
    repeat' first
      | with_reducible exact .next _
      | dsimp only
      | split
  all_goals exact absurd h (of_decide_eq_false rfl)

theorem exec_answers_of_index_110_165 {c : Instr} (h : 110 ≤ c.ctorIdx ∧ c.ctorIdx < 165) (s : State) : Answers c.wellFormed (exec c s) := by
  cases c
  case
      dcAdd | dcRelease | dcRead | gclCommit | qpCreate | qpDestroy | qpRead | partCreate | partApplyMaps | partReset | partDestroy |
      regionRegister | regionReregisterNew | regionReregisterKeep | regionDeregister | regionRead =>
    refine exec_answers_of_hostPage ?_ s
    exact Option.some_ne_none _
  case cxlLinkUp => exact answers_execCxlLinkUp ..
  case cxlMemRead => exact exec_answers_cxlMemRead ..
  case cxlMemWrite => exact exec_answers_cxlMemWrite ..
  case remoteDrawerRead => exact exec_answers_remoteDrawerRead ..
  case mirrorEntry => exact exec_answers_mirrorEntry ..
  case pullCheck => exact exec_answers_pullCheck ..
  case
      netTimeNsRead | addDynamicCapacityResponse | releaseDynamicCapacity | identifyMemoryDevice | getDynamicCapacityConfiguration |
      getDynamicCapacityExtentList | getEventRecords | clearEventRecords =>
    delta exec
      execNetTimeNsRead  execAddDynamicCapacityResponse  execReleaseDynamicCapacity  execIdentifyMemoryDevice
      execGetDynamicCapacityConfiguration  execGetDynamicCapacityExtentList  execGetEventRecords  execClearEventRecords
    repeat' first
      | with_reducible exact .next _
      | with_reducible apply answers_hostWr
      | with_reducible apply answers_hostRd
      | with_reducible exact answers_mailbox ..
      | with_reducible apply answers_mailboxIo
      | dsimp only
      | split
  case
      shaperRefill | policerRefill | gateIntervalEnd | gclSwitch | ptpSync | ptpTimeout | hello | reply | confirm | rekey | abort | helloRepeat |
      handshakeTimeout | rekeyPeriod | regionCommandDrain | conventionalReset | hostSnoop | birsp | ideFail | extentUnused | extentZeroed |
      partDestroyDone | partResetDone | mapRemovalDone | pullSweep =>
    delta exec
      execShaperRefill  execPolicerRefill  execGateIntervalEnd  execGclSwitch  execPtpSync  execPtpTimeout  execHello  execReply  execConfirm
      execRekey  execAbort  execHelloRepeat  execHandshakeTimeout  execRekeyPeriod  execRegionCommandDrain  execConventionalReset  execHostSnoop
      execBirsp  execIdeFail  execExtentUnused  execExtentZeroed  execPartDestroyDone  execPartResetDone  execMapRemovalDone  execPullSweep
    repeat' first
      | with_reducible exact .next _
      | dsimp only
      | split
  all_goals exact absurd h (of_decide_eq_false rfl)

theorem exec_answers_of_index_165_235 {c : Instr} (h : 165 ≤ c.ctorIdx ∧ c.ctorIdx < 235) (s : State) : Answers c.wellFormed (exec c s) := by
  cases c
  case
      evrClear | dumpCopy | dumpRelease | captCfgWrite | replayStart | replayStop | snap | pwrModeWrite | drain | serve | pgEvtWrite |
      pgEvtEnWrite | pgCtrlWrite | pgEvtForce | report | readCertificate | installFenceKey | addTrustKey | removeTrustKey | ideHandshakeMessage |
      applyWindow | fwStream | fwAbort | fwVerify | activateTrial | commit | raiseSecurityVersion | cancelTrial | restart =>
    refine exec_answers_of_hostPage ?_ s
    exact Option.some_ne_none _
  case
      pwrEn | inputLoss | cxlLinkRecovery => exact .next _
  case recoveryImageData => exact answers_execRecoveryImageData ..
  case loadWindow => exact exec_answers_loadWindow ..
  case smbusBlockRead => exact exec_answers_smbusBlockRead ..
  case sensorReading => exact exec_answers_sensorReading ..
  case msixUnmask => exact exec_answers_msixUnmask ..
  case rcRead => exact exec_answers_rcRead ..
  case
      evrWstatRead | unsupportedMailboxCommand =>
    delta exec
      execEvrWstatRead  execUnsupportedMailboxCommand
    repeat' first
      | with_reducible exact .next _
      | with_reducible apply answers_hostWr
      | with_reducible apply answers_hostRd
      | with_reducible exact answers_mailbox ..
      | with_reducible apply answers_mailboxIo
  case
      mirrorAck | mirrorStall | leaseExpiry | meteringHour | windowChangeDone | debugToken | watchdogExpiry | restartDone | fwDone |
      fwVerifyDone | trialCommitTimer | bootRom | loaderStart | runtimeStart | trainDone | recoveryStatusRequest | replayEntry | dumpStart |
      dumpComplete | dumpTimeout | pwrGood | inputFault | resetN | powerMeasurement | pllLocked | referenceOscillatorLoss | pwrEnLow |
      rnrTimerExpiry | recoveryReenumeration =>
    delta exec
      execMirrorAck  execMirrorStall  execLeaseExpiry  execMeteringHour  execWindowChangeDone  execDebugToken  execWatchdogExpiry
      execRestartDone  execFwDone  execFwVerifyDone  execTrialCommitTimer  execBootRom  execLoaderStart  execRuntimeStart  execTrainDone
      execRecoveryStatusRequest  execReplayEntry  execDumpStart  execDumpComplete  execDumpTimeout  execPwrGood  execInputFault  execResetN
      execPowerMeasurement  execPllLocked  execReferenceOscillatorLoss  execPwrEnLow  execRnrTimerExpiry  execRecoveryReenumeration
    repeat' first
      | with_reducible exact .next _
      | dsimp only
      | split
  case registerWrite => exact exec_answers_registerWrite ..
  all_goals exact absurd h (of_decide_eq_false rfl)

theorem exec_answers (c : Instr) (s : State) : Answers c.wellFormed (exec c s) := by
  have hmax : c.ctorIdx < 235 := by cases c <;> exact Nat.le_of_ble_eq_true rfl
  by_cases h110 : c.ctorIdx < 110
  · by_cases h50 : c.ctorIdx < 50
    · exact exec_answers_of_index_0_50 ⟨Nat.zero_le _, h50⟩ s
    · exact exec_answers_of_index_50_110 ⟨Nat.not_lt.mp h50, h110⟩ s
  · by_cases h165 : c.ctorIdx < 165
    · exact exec_answers_of_index_110_165 ⟨Nat.not_lt.mp h110, h165⟩ s
    · exact exec_answers_of_index_165_235 ⟨Nat.not_lt.mp h165, hmax⟩ s

/-- Settles O4: `exec_answers` leaves a next state, and the fault `operand` for an ill-formed command alone. -/
theorem wellFormedCommandsRun : Obligations.WellFormedCommandsRun := by
  intro c s
  generalize hres : exec c s = res
  have hans : Answers c.wellFormed res := hres ▸ exec_answers c s
  cases hans with
  | next t => exact ⟨fun _ => ⟨t, rfl⟩, fun _ => .inl ⟨t, rfl⟩, fun _ => nofun⟩
  | fault what h => exact ⟨fun hform => by simp [h] at hform, fun _ => .inr ⟨what, rfl⟩, fun _ => nofun⟩

end Sys2Proof.Proofs.Commands
end

section
/-! PROOF. Which parts of the state a command leaves alone, and what every step keeps. -/
namespace Sys2Proof.Proofs.Commands
open Sys2Proof.Machine Sys2Proof.Laws Sys2Proof.Safety

/-- The mask of a list of parts of the state. -/
def maskOf : List Field → Nat
  | [] => 0
  | f :: l => 2 ^ fieldIdx f ||| maskOf l

theorem fieldIdx_injective {f g : Field} (h : fieldIdx f = fieldIdx g) : f = g := by
  cases f <;> cases g <;> first | rfl | cases h

theorem testBit_maskOf {f : Field} {l : List Field} (h : f ∉ l) : (maskOf l).testBit (fieldIdx f) = false := by
  induction l with
  | nil => simp [maskOf]
  | cons g l ih =>
    obtain ⟨hg, hl⟩ := not_or.mp fun e => h (List.mem_cons.mpr e)
    have hidx : fieldIdx g ≠ fieldIdx f := fun e => hg (fieldIdx_injective e).symm
    simp [maskOf, ih hl, Nat.testBit_two_pow_of_ne hidx]

/-- Every command changes only the parts of the state that `mayChange` lists for it. -/
theorem exec_keeps_mayChange (s : State) : ∀ c : Instr, KeepsR (maskOf (mayChange c)) s (exec c s)
  | .linkCrcFail _ _ => keeps_execLinkCrcFail _ _ s (.refl s) (Laws.Sub.refl _)
  | .reroute _ _ _ => keeps_execReroute _ _ _ s (.refl s) (Laws.Sub.refl _)
  | .counterWrap _ => keeps_execCounterWrap _ s (.refl s) (Laws.Sub.refl _)
  | .ringPi _ _ _ => keeps_execRingPi _ _ _ s (.refl s) (Laws.Sub.refl _)
  | .cqCi _ _ => keeps_execCqCi _ _ s (.refl s) (Laws.Sub.refl _)
  | .descriptorFetch _ _ => keeps_execDescriptorFetch _ _ s (.refl s) (Laws.Sub.refl _)
  | .attend _ => keeps_execAttend _ s (.refl s) (Laws.Sub.refl _)
  | .appendKv _ => keeps_execAppendKv _ s (.refl s) (Laws.Sub.refl _)
  | .visibleAdvance _ => keeps_execVisibleAdvance _ s (.refl s) (Laws.Sub.refl _)
  | .failedAppend _ => keeps_execFailedAppend _ s (.refl s) (Laws.Sub.refl _)
  | .ringSlotReuse _ => keeps_execRingSlotReuse _ s (.refl s) (Laws.Sub.refl _)
  | .merge _ => keeps_execMerge _ s (.refl s) (Laws.Sub.refl _)
  | .trimKv _ => keeps_execTrimKv _ s (.refl s) (Laws.Sub.refl _)
  | .trimSetEnd _ => keeps_execTrimSetEnd _ s (.refl s) (Laws.Sub.refl _)
  | .trimTailComplete _ => keeps_execTrimTailComplete _ s (.refl s) (Laws.Sub.refl _)
  | .headTrimFree _ => keeps_execHeadTrimFree _ s (.refl s) (Laws.Sub.refl _)
  | .dropShelf _ => keeps_execDropShelf _ s (.refl s) (Laws.Sub.refl _)
  | .dropFree _ => keeps_execDropFree _ s (.refl s) (Laws.Sub.refl _)
  | .convScanEnd _ _ => keeps_execConvScanEnd _ _ s (.refl s) (Laws.Sub.refl _)
  | .plan _ => keeps_execPlan _ s (.refl s) (Laws.Sub.refl _)
  | .pin _ => keeps_execPin _ s (.refl s) (Laws.Sub.refl _)
  | .search _ => keeps_execSearch _ s (.refl s) (Laws.Sub.refl _)
  | .vinsert _ => keeps_execVinsert _ s (.refl s) (Laws.Sub.refl _)
  | .vdelete _ => keeps_execVdelete _ s (.refl s) (Laws.Sub.refl _)
  | .vmerge _ => keeps_execVmerge _ s (.refl s) (Laws.Sub.refl _)
  | .vmergeSwitch _ _ => keeps_execVmergeSwitch _ _ s (.refl s) (Laws.Sub.refl _)
  | .statusRecordWrite _ _ => keeps_execStatusRecordWrite _ _ s (.refl s) (Laws.Sub.refl _)
  | .movePull _ => keeps_execMovePull _ s (.refl s) (Laws.Sub.refl _)
  | .mirrorSet _ => keeps_execMirrorSet _ s (.refl s) (Laws.Sub.refl _)
  | .load _ => keeps_execLoad _ s (.refl s) (Laws.Sub.refl _)
  | .unload _ => keeps_execUnload _ s (.refl s) (Laws.Sub.refl _)
  | .objectFree _ _ => keeps_execObjectFree _ _ s (.refl s) (Laws.Sub.refl _)
  | .fence _ => keeps_execFence _ s (.refl s) (Laws.Sub.refl _)
  | .fenceComplete _ => keeps_execFenceComplete _ s (.refl s) (Laws.Sub.refl _)
  | .graceWindowClose _ => keeps_execGraceWindowClose _ s (.refl s) (Laws.Sub.refl _)
  | .arm _ => keeps_execArm _ s (.refl s) (Laws.Sub.refl _)
  | .disarm _ => keeps_execDisarm _ s (.refl s) (Laws.Sub.refl _)
  | .trigger _ _ _ => keeps_execTrigger _ _ _ s (.refl s) (Laws.Sub.refl _)
  | .fire _ _ => keeps_execFire _ _ s (.refl s) (Laws.Sub.refl _)
  | .ringCreate _ => keeps_execRingCreate _ s (.refl s) (Laws.Sub.refl _)
  | .ringDestroy _ => keeps_execRingDestroy _ s (.refl s) (Laws.Sub.refl _)
  | .ringDestroyDone _ => keeps_execRingDestroyDone _ s (.refl s) (Laws.Sub.refl _)
  | .bucketWaitExceeded _ => keeps_execBucketWaitExceeded _ s (.refl s) (Laws.Sub.refl _)
  | .runDispatch _ _ _ => keeps_execRunDispatch _ _ _ s (.refl s) (Laws.Sub.refl _)
  | .passN _ _ => keeps_execPassN _ _ s (.refl s) (Laws.Sub.refl _)
  | .passV _ _ => keeps_execPassV _ _ s (.refl s) (Laws.Sub.refl _)
  | .combine _ => keeps_execCombine _ s (.refl s) (Laws.Sub.refl _)
  | .netLoopCheck _ => keeps_execNetLoopCheck _ s (.refl s) (Laws.Sub.refl _)
  | .scoreSheetFailure _ => keeps_execScoreSheetFailure _ s (.refl s) (Laws.Sub.refl _)
  | .boothJobStart _ => keeps_execBoothJobStart _ s (.refl s) (Laws.Sub.refl _)
  | .uopNop _ => keeps_execUopNop _ s (.refl s) (Laws.Sub.refl _)
  | .uopAct _ => keeps_execUopAct _ s (.refl s) (Laws.Sub.refl _)
  | .uopRd _ => keeps_execUopRd _ s (.refl s) (Laws.Sub.refl _)
  | .uopExp _ => keeps_execUopExp _ s (.refl s) (Laws.Sub.refl _)
  | .uopDotg _ => keeps_execUopDotg _ s (.refl s) (Laws.Sub.refl _)
  | .uopGsc _ => keeps_execUopGsc _ s (.refl s) (Laws.Sub.refl _)
  | .uopSst _ => keeps_execUopSst _ s (.refl s) (Laws.Sub.refl _)
  | .uopSeti _ => keeps_execUopSeti _ s (.refl s) (Laws.Sub.refl _)
  | .uopAddi _ => keeps_execUopAddi _ s (.refl s) (Laws.Sub.refl _)
  | .uopLoop _ => keeps_execUopLoop _ s (.refl s) (Laws.Sub.refl _)
  | .uopEnd _ => keeps_execUopEnd _ s (.refl s) (Laws.Sub.refl _)
  | .collectorJobDone _ => keeps_execCollectorJobDone _ s (.refl s) (Laws.Sub.refl _)
  | .boothPark _ => keeps_execBoothPark _ s (.refl s) (Laws.Sub.refl _)
  | .perBankRefresh _ _ => keeps_execPerBankRefresh _ _ s (.refl s) (Laws.Sub.refl _)
  | .allBankRefresh _ _ => keeps_execAllBankRefresh _ _ s (.refl s) (Laws.Sub.refl _)
  | .refreshComplete _ _ => keeps_execRefreshComplete _ _ s (.refl s) (Laws.Sub.refl _)
  | .boothRestart _ => keeps_execBoothRestart _ s (.refl s) (Laws.Sub.refl _)
  | .boothJobTimeout _ => keeps_execBoothJobTimeout _ s (.refl s) (Laws.Sub.refl _)
  | .scriptWindowWrite _ _ _ => keeps_execScriptWindowWrite _ _ _ s (.refl s) (Laws.Sub.refl _)
  | .scriptDescriptorWrite _ _ _ => keeps_execScriptDescriptorWrite _ _ _ s (.refl s) (Laws.Sub.refl _)
  | .demotion _ _ => keeps_execDemotion _ _ s (.refl s) (Laws.Sub.refl _)
  | .moveEnd _ _ _ => keeps_execMoveEnd _ _ _ s (.refl s) (Laws.Sub.refl _)
  | .tierVisit _ _ _ => keeps_execTierVisit _ _ _ s (.refl s) (Laws.Sub.refl _)
  | .allocationPlaceFreed _ => keeps_execAllocationPlaceFreed _ s (.refl s) (Laws.Sub.refl _)
  | .coldReadDone _ _ _ _ => keeps_execColdReadDone _ _ _ _ s (.refl s) (Laws.Sub.refl _)
  | .liftTaken _ => keeps_execLiftTaken _ s (.refl s) (Laws.Sub.refl _)
  | .liftRoom _ => keeps_execLiftRoom _ s (.refl s) (Laws.Sub.refl _)
  | .liftPlaced _ _ _ _ => keeps_execLiftPlaced _ _ _ _ s (.refl s) (Laws.Sub.refl _)
  | .garbageCollection => keeps_execGarbageCollection s (.refl s) (Laws.Sub.refl _)
  | .staticWearLevelling => keeps_execStaticWearLevelling s (.refl s) (Laws.Sub.refl _)
  | .readDisturbRelocation _ => keeps_execReadDisturbRelocation _ s (.refl s) (Laws.Sub.refl _)
  | .patrolRead _ _ => keeps_execPatrolRead _ _ s (.refl s) (Laws.Sub.refl _)
  | .blockReadFail _ _ => keeps_execBlockReadFail _ _ s (.refl s) (Laws.Sub.refl _)
  | .cabTblInstall _ => keeps_execCabTblInstall _ s (.refl s) (Laws.Sub.refl _)
  | .cabTblRetire _ => keeps_execCabTblRetire _ s (.refl s) (Laws.Sub.refl _)
  | .partTierWrite _ _ => keeps_execPartTierWrite _ _ s (.refl s) (Laws.Sub.refl _)
  | .partCabshareWrite _ _ => keeps_execPartCabshareWrite _ _ s (.refl s) (Laws.Sub.refl _)
  | .correctedWriteback _ _ => keeps_execCorrectedWriteback _ _ s (.refl s) (Laws.Sub.refl _)
  | .scrubRead _ _ _ => keeps_execScrubRead _ _ _ s (.refl s) (Laws.Sub.refl _)
  | .damagedShelfFree _ => keeps_execDamagedShelfFree _ s (.refl s) (Laws.Sub.refl _)
  | .rowRepair _ => keeps_execRowRepair _ s (.refl s) (Laws.Sub.refl _)
  | .pcRetire _ _ => keeps_execPcRetire _ _ s (.refl s) (Laws.Sub.refl _)
  | .pcRetired _ _ => keeps_execPcRetired _ _ s (.refl s) (Laws.Sub.refl _)
  | .stackFence _ => keeps_execStackFence _ s (.refl s) (Laws.Sub.refl _)
  | .ruleInsert => keeps_execRuleInsert s (.refl s) (Laws.Sub.refl _)
  | .ruleRemove => keeps_execRuleRemove s (.refl s) (Laws.Sub.refl _)
  | .ruleModify => keeps_execRuleModify s (.refl s) (Laws.Sub.refl _)
  | .ruleRead => keeps_execRuleRead s (.refl s) (Laws.Sub.refl _)
  | .ruleApplyBands => keeps_execRuleApplyBands s (.refl s) (Laws.Sub.refl _)
  | .ruleDefLoWrite _ => keeps_execRuleDefLoWrite _ s (.refl s) (Laws.Sub.refl _)
  | .ruleDefHiWrite _ => keeps_execRuleDefHiWrite _ s (.refl s) (Laws.Sub.refl _)
  | .rebalance _ => keeps_execRebalance _ s (.refl s) (Laws.Sub.refl _)
  | .shadowCompare _ _ _ => keeps_execShadowCompare _ _ _ s (.refl s) (Laws.Sub.refl _)
  | .portLinkUp _ => keeps_execPortLinkUp _ s (.refl s) (Laws.Sub.refl _)
  | .portLinkDown _ => keeps_execPortLinkDown _ s (.refl s) (Laws.Sub.refl _)
  | .packetReceive _ _ => keeps_execPacketReceive _ _ s (.refl s) (Laws.Sub.refl _)
  | .qpFetchDone _ _ => keeps_execQpFetchDone _ _ s (.refl s) (Laws.Sub.refl _)
  | .resultBlockSend _ _ => keeps_execResultBlockSend _ _ s (.refl s) (Laws.Sub.refl _)
  | .ackTimeout _ => keeps_execAckTimeout _ s (.refl s) (Laws.Sub.refl _)
  | .ccTimerExpiry _ => keeps_execCcTimerExpiry _ s (.refl s) (Laws.Sub.refl _)
  | .shaperRefill _ => keeps_execShaperRefill _ s (.refl s) (Laws.Sub.refl _)
  | .policerRefill _ => keeps_execPolicerRefill _ s (.refl s) (Laws.Sub.refl _)
  | .gateIntervalEnd _ => keeps_execGateIntervalEnd _ s (.refl s) (Laws.Sub.refl _)
  | .gclCommit _ => keeps_execGclCommit _ s (.refl s) (Laws.Sub.refl _)
  | .gclSwitch _ => keeps_execGclSwitch _ s (.refl s) (Laws.Sub.refl _)
  | .ptpSync _ _ => keeps_execPtpSync _ _ s (.refl s) (Laws.Sub.refl _)
  | .ptpTimeout _ => keeps_execPtpTimeout _ s (.refl s) (Laws.Sub.refl _)
  | .netTimeNsRead _ => keeps_execNetTimeNsRead _ s (.refl s) (Laws.Sub.refl _)
  | .hello _ _ => keeps_execHello _ _ s (.refl s) (Laws.Sub.refl _)
  | .reply _ _ => keeps_execReply _ _ s (.refl s) (Laws.Sub.refl _)
  | .confirm _ _ => keeps_execConfirm _ _ s (.refl s) (Laws.Sub.refl _)
  | .rekey _ _ => keeps_execRekey _ _ s (.refl s) (Laws.Sub.refl _)
  | .abort _ _ => keeps_execAbort _ _ s (.refl s) (Laws.Sub.refl _)
  | .helloRepeat _ => keeps_execHelloRepeat _ s (.refl s) (Laws.Sub.refl _)
  | .handshakeTimeout _ => keeps_execHandshakeTimeout _ s (.refl s) (Laws.Sub.refl _)
  | .rekeyPeriod _ => keeps_execRekeyPeriod _ s (.refl s) (Laws.Sub.refl _)
  | .qpCreate _ => keeps_execQpCreate _ s (.refl s) (Laws.Sub.refl _)
  | .qpDestroy _ => keeps_execQpDestroy _ s (.refl s) (Laws.Sub.refl _)
  | .qpRead _ => keeps_execQpRead _ s (.refl s) (Laws.Sub.refl _)
  | .regionRegister => keeps_execRegionRegister s (.refl s) (Laws.Sub.refl _)
  | .regionReregisterNew => keeps_execRegionReregisterNew s (.refl s) (Laws.Sub.refl _)
  | .regionReregisterKeep => keeps_execRegionReregisterKeep s (.refl s) (Laws.Sub.refl _)
  | .regionDeregister => keeps_execRegionDeregister s (.refl s) (Laws.Sub.refl _)
  | .regionRead => keeps_execRegionRead s (.refl s) (Laws.Sub.refl _)
  | .regionCommandDrain => keeps_execRegionCommandDrain s (.refl s) (Laws.Sub.refl _)
  | .conventionalReset => keeps_execConventionalReset s (.refl s) (Laws.Sub.refl _)
  | .cxlLinkUp _ _ _ _ _ => keeps_execCxlLinkUp _ _ _ _ _ s (.refl s) (Laws.Sub.refl _)
  | .cxlMemRead _ => keeps_execCxlMemRead _ s (.refl s) (Laws.Sub.refl _)
  | .cxlMemWrite _ _ _ => keeps_execCxlMemWrite _ _ _ s (.refl s) (Laws.Sub.refl _)
  | .hostSnoop _ => keeps_execHostSnoop _ s (.refl s) (Laws.Sub.refl _)
  | .birsp _ => keeps_execBirsp _ s (.refl s) (Laws.Sub.refl _)
  | .ideFail => keeps_execIdeFail s (.refl s) (Laws.Sub.refl _)
  | .dcAdd => keeps_execDcAdd s (.refl s) (Laws.Sub.refl _)
  | .dcRelease => keeps_execDcRelease s (.refl s) (Laws.Sub.refl _)
  | .dcRead => keeps_execDcRead s (.refl s) (Laws.Sub.refl _)
  | .extentUnused _ => keeps_execExtentUnused _ s (.refl s) (Laws.Sub.refl _)
  | .extentZeroed _ => keeps_execExtentZeroed _ s (.refl s) (Laws.Sub.refl _)
  | .addDynamicCapacityResponse _ => keeps_execAddDynamicCapacityResponse _ s (.refl s) (Laws.Sub.refl _)
  | .releaseDynamicCapacity _ => keeps_execReleaseDynamicCapacity _ s (.refl s) (Laws.Sub.refl _)
  | .identifyMemoryDevice => keeps_execIdentifyMemoryDevice s (.refl s) (Laws.Sub.refl _)
  | .getDynamicCapacityConfiguration => keeps_execGetDynamicCapacityConfiguration s (.refl s) (Laws.Sub.refl _)
  | .getDynamicCapacityExtentList => keeps_execGetDynamicCapacityExtentList s (.refl s) (Laws.Sub.refl _)
  | .getEventRecords _ => keeps_execGetEventRecords _ s (.refl s) (Laws.Sub.refl _)
  | .clearEventRecords _ _ => keeps_execClearEventRecords _ _ s (.refl s) (Laws.Sub.refl _)
  | .partCreate _ => keeps_execPartCreate _ s (.refl s) (Laws.Sub.refl _)
  | .partDestroy _ => keeps_execPartDestroy _ s (.refl s) (Laws.Sub.refl _)
  | .partDestroyDone _ => keeps_execPartDestroyDone _ s (.refl s) (Laws.Sub.refl _)
  | .partReset _ => keeps_execPartReset _ s (.refl s) (Laws.Sub.refl _)
  | .partResetDone _ => keeps_execPartResetDone _ s (.refl s) (Laws.Sub.refl _)
  | .partApplyMaps _ => keeps_execPartApplyMaps _ s (.refl s) (Laws.Sub.refl _)
  | .mapRemovalDone _ => keeps_execMapRemovalDone _ s (.refl s) (Laws.Sub.refl _)
  | .pullCheck _ _ => keeps_execPullCheck _ _ s (.refl s) (Laws.Sub.refl _)
  | .remoteDrawerRead _ _ _ _ => keeps_execRemoteDrawerRead _ _ _ _ s (.refl s) (Laws.Sub.refl _)
  | .pullSweep _ => keeps_execPullSweep _ s (.refl s) (Laws.Sub.refl _)
  | .mirrorEntry _ _ _ => keeps_execMirrorEntry _ _ _ s (.refl s) (Laws.Sub.refl _)
  | .mirrorAck _ _ => keeps_execMirrorAck _ _ s (.refl s) (Laws.Sub.refl _)
  | .mirrorStall _ => keeps_execMirrorStall _ s (.refl s) (Laws.Sub.refl _)
  | .leaseExpiry => keeps_execLeaseExpiry s (.refl s) (Laws.Sub.refl _)
  | .meteringHour _ => keeps_execMeteringHour _ s (.refl s) (Laws.Sub.refl _)
  | .report _ _ => keeps_execReport _ _ s (.refl s) (Laws.Sub.refl _)
  | .readCertificate _ => keeps_execReadCertificate _ s (.refl s) (Laws.Sub.refl _)
  | .installFenceKey => keeps_execInstallFenceKey s (.refl s) (Laws.Sub.refl _)
  | .addTrustKey => keeps_execAddTrustKey s (.refl s) (Laws.Sub.refl _)
  | .removeTrustKey _ => keeps_execRemoveTrustKey _ s (.refl s) (Laws.Sub.refl _)
  | .ideHandshakeMessage => keeps_execIdeHandshakeMessage s (.refl s) (Laws.Sub.refl _)
  | .applyWindow => keeps_execApplyWindow s (.refl s) (Laws.Sub.refl _)
  | .windowChangeDone _ => keeps_execWindowChangeDone _ s (.refl s) (Laws.Sub.refl _)
  | .debugToken _ => keeps_execDebugToken _ s (.refl s) (Laws.Sub.refl _)
  | .watchdogExpiry => keeps_execWatchdogExpiry s (.refl s) (Laws.Sub.refl _)
  | .restart => keeps_execRestart s (.refl s) (Laws.Sub.refl _)
  | .restartDone => keeps_execRestartDone s (.refl s) (Laws.Sub.refl _)
  | .loadWindow _ => keeps_execLoadWindow _ s (.refl s) (Laws.Sub.refl _)
  | .fwStream => keeps_execFwStream s (.refl s) (Laws.Sub.refl _)
  | .fwDone => keeps_execFwDone s (.refl s) (Laws.Sub.refl _)
  | .fwAbort => keeps_execFwAbort s (.refl s) (Laws.Sub.refl _)
  | .fwVerify _ => keeps_execFwVerify _ s (.refl s) (Laws.Sub.refl _)
  | .fwVerifyDone => keeps_execFwVerifyDone s (.refl s) (Laws.Sub.refl _)
  | .activateTrial => keeps_execActivateTrial s (.refl s) (Laws.Sub.refl _)
  | .commit => keeps_execCommit s (.refl s) (Laws.Sub.refl _)
  | .raiseSecurityVersion => keeps_execRaiseSecurityVersion s (.refl s) (Laws.Sub.refl _)
  | .cancelTrial => keeps_execCancelTrial s (.refl s) (Laws.Sub.refl _)
  | .trialCommitTimer => keeps_execTrialCommitTimer s (.refl s) (Laws.Sub.refl _)
  | .bootRom => keeps_execBootRom s (.refl s) (Laws.Sub.refl _)
  | .loaderStart => keeps_execLoaderStart s (.refl s) (Laws.Sub.refl _)
  | .runtimeStart => keeps_execRuntimeStart s (.refl s) (Laws.Sub.refl _)
  | .trainDone => keeps_execTrainDone s (.refl s) (Laws.Sub.refl _)
  | .recoveryImageData _ => keeps_execRecoveryImageData _ s (.refl s) (Laws.Sub.refl _)
  | .recoveryStatusRequest => keeps_execRecoveryStatusRequest s (.refl s) (Laws.Sub.refl _)
  | .evrWstatRead => keeps_execEvrWstatRead s (.refl s) (Laws.Sub.refl _)
  | .evrClear => keeps_execEvrClear s (.refl s) (Laws.Sub.refl _)
  | .captCfgWrite _ _ => keeps_execCaptCfgWrite _ _ s (.refl s) (Laws.Sub.refl _)
  | .replayStart _ _ => keeps_execReplayStart _ _ s (.refl s) (Laws.Sub.refl _)
  | .replayStop _ => keeps_execReplayStop _ s (.refl s) (Laws.Sub.refl _)
  | .replayEntry _ => keeps_execReplayEntry _ s (.refl s) (Laws.Sub.refl _)
  | .dumpStart => keeps_execDumpStart s (.refl s) (Laws.Sub.refl _)
  | .dumpComplete => keeps_execDumpComplete s (.refl s) (Laws.Sub.refl _)
  | .dumpTimeout => keeps_execDumpTimeout s (.refl s) (Laws.Sub.refl _)
  | .dumpCopy => keeps_execDumpCopy s (.refl s) (Laws.Sub.refl _)
  | .dumpRelease => keeps_execDumpRelease s (.refl s) (Laws.Sub.refl _)
  | .snap _ => keeps_execSnap _ s (.refl s) (Laws.Sub.refl _)
  | .pwrEn => keeps_execPwrEn s (.refl s) (Laws.Sub.refl _)
  | .pwrGood => keeps_execPwrGood s (.refl s) (Laws.Sub.refl _)
  | .inputLoss => keeps_execInputLoss s (.refl s) (Laws.Sub.refl _)
  | .inputFault _ => keeps_execInputFault _ s (.refl s) (Laws.Sub.refl _)
  | .resetN => keeps_execResetN s (.refl s) (Laws.Sub.refl _)
  | .smbusBlockRead _ => keeps_execSmbusBlockRead _ s (.refl s) (Laws.Sub.refl _)
  | .powerMeasurement _ _ _ => keeps_execPowerMeasurement _ _ _ s (.refl s) (Laws.Sub.refl _)
  | .pwrModeWrite _ => keeps_execPwrModeWrite _ s (.refl s) (Laws.Sub.refl _)
  | .pllLocked => keeps_execPllLocked s (.refl s) (Laws.Sub.refl _)
  | .sensorReading _ => keeps_execSensorReading _ s (.refl s) (Laws.Sub.refl _)
  | .drain => keeps_execDrain s (.refl s) (Laws.Sub.refl _)
  | .serve => keeps_execServe s (.refl s) (Laws.Sub.refl _)
  | .pgEvtWrite _ _ => keeps_execPgEvtWrite _ _ s (.refl s) (Laws.Sub.refl _)
  | .pgEvtEnWrite _ _ => keeps_execPgEvtEnWrite _ _ s (.refl s) (Laws.Sub.refl _)
  | .pgCtrlWrite _ _ => keeps_execPgCtrlWrite _ _ s (.refl s) (Laws.Sub.refl _)
  | .pgEvtForce _ _ => keeps_execPgEvtForce _ _ s (.refl s) (Laws.Sub.refl _)
  | .msixUnmask _ => keeps_execMsixUnmask _ s (.refl s) (Laws.Sub.refl _)
  | .rcRead _ _ => keeps_execRcRead _ _ s (.refl s) (Laws.Sub.refl _)
  | .registerWrite _ _ _ => keeps_execRegisterWrite _ _ _ s (.refl s) (Laws.Sub.refl _)
  | .referenceOscillatorLoss => keeps_execReferenceOscillatorLoss s (.refl s) (Laws.Sub.refl _)
  | .pwrEnLow => keeps_execPwrEnLow s (.refl s) (Laws.Sub.refl _)
  | .rnrTimerExpiry _ => keeps_execRnrTimerExpiry _ s (.refl s) (Laws.Sub.refl _)
  | .cxlLinkRecovery => keeps_execCxlLinkRecovery s (.refl s) (Laws.Sub.refl _)
  | .unsupportedMailboxCommand _ => keeps_execUnsupportedMailboxCommand _ s (.refl s) (Laws.Sub.refl _)
  | .recoveryReenumeration => keeps_execRecoveryReenumeration s (.refl s) (Laws.Sub.refl _)

/-- Settles O5: the frame of each command, read off its mask. -/
theorem commandsChangeOnlyTheirParts : Obligations.CommandsChangeOnlyTheirParts := fun c s t h =>
  have hkeeps := exec_keeps_mayChange s c t h
  ⟨hkeeps.chip, hkeeps.queue, fun f hf => hkeeps.frame f (testBit_maskOf hf)⟩

/-- Settles O6: the pin is among what every command keeps. -/
theorem alertPinFollowsAlertBits : Obligations.AlertPinFollowsAlertBits := fun c s t h => (exec_keeps s c t h).alert

/-- What `Keeps` asks of an operation carries the invariant over, as long as the commands that wait are well formed. -/
theorem inv_of_keeps {m : Nat} {s t : State} (h : Keeps m s t) (hinv : Inv s) : Inv t :=
  ⟨h.host hinv.host, h.dev hinv.dev, h.alert hinv.alert, h.queue ▸ hinv.pending⟩

/-- Settles O2: the front command is well formed, so it answers a next state (O4), and every command and the idle tick keep the invariant. -/
theorem stepKeepsInvariant : Obligations.StepKeepsInvariant := by
  intro s hinv
  cases hpend : s.pending with
  | nil => exact ⟨idleTick s, by simp [step, hpend], inv_of_keeps (keeps_idleTick s (.refl (m := everyPart) s) rfl) hinv⟩
  | cons c rest =>
    have hforms : c.wellFormed = true ∧ rest.all Instr.wellFormed = true := by simpa [hpend] using hinv.pending
    obtain ⟨hform, hrest⟩ := hforms
    obtain ⟨t, ht⟩ := (wellFormedCommandsRun c { s with pending := rest }).1 hform
    exact ⟨t, by simpa [step, hpend] using ht, inv_of_keeps (exec_keeps _ c t ht) ⟨hinv.host, hinv.dev, hinv.alert, hrest⟩⟩

/-- Settles O7: the two laws of memory. -/
theorem memoryReadsAfterWrites : Obligations.MemoryReadsAfterWrites := fun m a x l => ⟨mget_mwrite m a x l, mwrite_wf a l⟩

/-- Settles O1: both are what `step` says. -/
theorem stepRunsFrontCommand : Obligations.StepRunsFrontCommand := ⟨fun _ _ _ => rfl, fun _ => rfl⟩

/-- Settles O3: the reset state lists nothing, so that every part reads its default value. -/
theorem resetHoldsInvariant : Obligations.ResetHoldsInvariant := by
  unfold Obligations.ResetHoldsInvariant
  refine ⟨⟨rfl, rfl, rfl, rfl⟩, rfl, rfl, rfl, rfl, rfl, rfl, rfl, rfl, rfl, rfl, rfl, rfl, rfl, fun _ => rfl, fun _ => ⟨rfl, rfl⟩, fun _ => rfl, ?_⟩
  decide +kernel

end Sys2Proof.Proofs.Commands
end

section
/-! PROOF. When a command of the host, or of a descriptor, is not taken (R119, R373, R386, R505, R521, R527). -/
namespace Sys2Proof.Proofs.Commands
open Sys2Proof.Machine Sys2Proof.Safety

/-! ### Host commands -/

/-- A host command acts only behind the gate of its page. -/
theorem exec_eq_hostWr {c : Instr} {pg : Nat} (h : hostPage c = some pg) (s : State) : ∃ r : Res, exec c s = hostWr s pg r := by
  cases c <;> cases h <;> exact ⟨_, rfl⟩

/-- Settles O8: the three ways in which `hostWr` turns a command away. -/
theorem hostCommandsThatDoNotReach : Obligations.HostCommandsThatDoNotReach := by
  intro c pg s hpage
  obtain ⟨r, hr⟩ := exec_eq_hostWr hpage s
  rw [hr]
  exact ⟨fun hreach => by simp [hostWr, hreach], fun hreach hide => by simp [hostWr, hreach, hide],
    fun hreach hide hopen => by simp [hostWr, hreach, hide, hopen]⟩

/-! ### Descriptors -/

/-- A command of a descriptor goes through admission up to step 9. -/
theorem exec_eq_admitOp {c : Instr} {ring op : Nat} (h : descOp c = some (ring, op)) (s : State) :
    ∃ k : State → Nat → Req → State, exec c s = .next (admitOp s ring op k) := by
  cases c <;> cases h <;> exact ⟨_, rfl⟩

/-- In `HALT`, and from a trip on, no descriptor is taken from the front of a ring. -/
theorem frontDesc_of_noService {s : State} (h : noService s = true) (ring : Nat) (f : List Byte → Bool) : frontDesc s ring f = none := by
  have hmay : ∀ d : List Byte, mayAdmit s ring d = false := fun d => by simp [mayAdmit, h]
  unfold frontDesc
  split
  · rfl
  · split
    · rfl
    · simp [hmay]

/-- Settles O9: `admitOp` ends where one of its steps stops, and in `HALT` or after a trip it finds no descriptor at all. -/
theorem admissionStops : Obligations.AdmissionStops := by
  refine ⟨fun c ring op s hop => ?_, fun c s hno hc => ?_⟩
  · obtain ⟨k, hk⟩ := exec_eq_admitOp hop s
    rw [hk]
    refine ⟨fun hfront => by simp [admitOp, hfront], fun src d g s1 hfront hearly => by simp [admitOp, hfront, hearly], ?_⟩
    intro d id r0 r s0 s1 f ⟨src, g, hfront, hearly⟩ hlate
    simp [admitOp, hfront, hearly, hlate]
  · obtain ⟨ring, op, hop⟩ | ⟨ring, key, rfl⟩ | ⟨ring, rfl | rfl⟩ := hc
    · obtain ⟨k, hk⟩ := exec_eq_admitOp hop s
      simp [hk, admitOp, frontDesc_of_noService hno]
    · simp only [exec, execFire]
      split
      · simp [hno]
      · rfl
    · simp [exec, execArm, frontDesc_of_noService hno]
    · simp [exec, execDisarm, frontDesc_of_noService hno]

end Sys2Proof.Proofs.Commands
end

section
/-! PROOF. The fabric and the island counters (R22-R24, R31). -/
namespace Sys2Proof.Proofs.Fabric
open Sys2Proof.Machine Sys2Proof.Safety

/-- One of two values that the spec leaves open is picked. -/
theorem pick_of_two (s : State) (a b d : Nat) : (pick s [a, b] d).1 = a ∨ (pick s [a, b] d).1 = b := by
  have hlt : Config.freeNat s.free % 2 < 2 := Nat.mod_lt _ (by decide)
  obtain h | h : Config.freeNat s.free % 2 = 0 ∨ Config.freeNat s.free % 2 = 1 := by omega
  · exact .inl (by simp [pick, draw, h])
  · exact .inr (by simp [pick, draw, h])

/-- R22-R24: a link that does not train again is disabled, and one record says so; it is fatal where a die is then isolated. -/
theorem exec_linkCrcFail_of_up {link : Fin 20} {s : State} (h : s.fabric.down.contains link.val = false) :
    ∃ (n die blk : Nat) (data : List Byte),
      exec (.linkCrcFail link false) s = .next (record { s with fabric := disableLink s.fabric link.val, free := n } (0x10 + die)
        (if (List.range 7).any (isolated (disableLink s.fabric link.val)) then 3 else 1) blk die 0x21 data) ∧
      (blk = 0x011 ∨ blk = 0x012) := by
  simp only [exec, execLinkCrcFail, h]
  by_cases hcut : (List.range 7).any (isolated (disableLink s.fabric link.val)) = true
  · simp only [hcut, if_true]
    exact ⟨_, _, _, _, rfl, pick_of_two ..⟩
  · simp only [hcut]
    cases detour (disableLink s.fabric link.val) (linkEnds.getD link.val (0, 1)).1 (linkEnds.getD link.val (0, 1)).2 with
    | some v => exact ⟨_, _, _, _, rfl, pick_of_two ..⟩
    | none => exact ⟨_, _, _, _, rfl, pick_of_two ..⟩

/-- Settles O10: `LINK_CRC_FAIL`, `REROUTE` and `COUNTER_WRAP` branch by branch. -/
theorem fabricAndCounters : Obligations.FabricAndCounters := by
  refine ⟨fun link b s h => ?_, fun link s h => exec_linkCrcFail_of_up h, fun n src dst s v h => ?_, fun n src dst s h => ?_,
    fun i s h => ?_, fun i s h => ?_⟩
  · simp only [exec, execLinkCrcFail, if_pos h]
  · simp only [exec, execReroute, h]
  · simp only [exec, execReroute, h]
  · simp only [exec, execCounterWrap, if_pos h]
    exact ⟨_, _, _, rfl⟩
  · simp only [exec, execCounterWrap, if_neg h]

end Sys2Proof.Proofs.Fabric
end

section
/-! PROOF. What raising an event leaves alone. -/
namespace Sys2Proof.Proofs.Frames
open Sys2Proof.Machine Sys2Proof.Laws

@[simp] theorem raise_same (s : State) (pg b : Nat) (d : List Byte) :
    (raise s pg b d).dev = s.dev ∧ (raise s pg b d).fabric = s.fabric ∧ (raise s pg b d).time = s.time ∧ (raise s pg b d).wayOwner = s.wayOwner ∧
    (raise s pg b d).tileOwner = s.tileOwner ∧ (raise s pg b d).pcOwner = s.pcOwner ∧ (raise s pg b d).tileTag = s.tileTag ∧
    (raise s pg b d).sched = s.sched ∧ (raise s pg b d).dir = s.dir ∧ (raise s pg b d).rings = s.rings ∧ (raise s pg b d).armed = s.armed ∧
    (raise s pg b d).objects = s.objects ∧ (raise s pg b d).reqs = s.reqs ∧ (raise s pg b d).nextId = s.nextId ∧
    (raise s pg b d).hostMem = s.hostMem ∧ (raise s pg b d).hostBad = s.hostBad ∧ (raise s pg b d).devMem = s.devMem ∧
    (raise s pg b d).devBad = s.devBad ∧ (raise s pg b d).booths = s.booths ∧ (raise s pg b d).fstacks = s.fstacks ∧
    (raise s pg b d).tiers = s.tiers ∧ (raise s pg b d).cab = s.cab ∧ (raise s pg b d).hbm = s.hbm ∧ (raise s pg b d).vidx = s.vidx ∧
    (raise s pg b d).rules = s.rules ∧ (raise s pg b d).ports = s.ports ∧ (raise s pg b d).qps = s.qps ∧ (raise s pg b d).regions = s.regions ∧
    (raise s pg b d).regionGen = s.regionGen ∧ (raise s pg b d).regionBusy = s.regionBusy ∧ (raise s pg b d).cxl = s.cxl ∧
    (raise s pg b d).parts = s.parts ∧ (raise s pg b d).links = s.links ∧ (raise s pg b d).pulls = s.pulls ∧ (raise s pg b d).sub = s.sub ∧
    (raise s pg b d).sec = s.sec ∧ (raise s pg b d).stw = s.stw ∧ (raise s pg b d).replay = s.replay ∧ (raise s pg b d).pwr = s.pwr ∧
    (raise s pg b d).free = s.free ∧ (raise s pg b d).chip = s.chip ∧ (raise s pg b d).pending = s.pending :=
  have k := keeps_raise s pg b d (.refl s) (.refl _)
  ⟨k.frame .dev rfl, k.frame .fabric rfl, k.frame .time rfl, k.frame .wayOwner rfl, k.frame .tileOwner rfl, k.frame .pcOwner rfl,
    k.frame .tileTag rfl, k.frame .sched rfl, k.frame .dir rfl, k.frame .rings rfl, k.frame .armed rfl, k.frame .objects rfl, k.frame .reqs rfl,
    k.frame .nextId rfl, k.frame .hostMem rfl, k.frame .hostBad rfl, k.frame .devMem rfl, k.frame .devBad rfl, k.frame .booths rfl,
    k.frame .fstacks rfl, k.frame .tiers rfl, k.frame .cab rfl, k.frame .hbm rfl, k.frame .vidx rfl, k.frame .rules rfl, k.frame .ports rfl,
    k.frame .qps rfl, k.frame .regions rfl, k.frame .regionGen rfl, k.frame .regionBusy rfl, k.frame .cxl rfl, k.frame .parts rfl,
    k.frame .links rfl, k.frame .pulls rfl, k.frame .sub rfl, k.frame .sec rfl, k.frame .stw rfl, k.frame .replay rfl, k.frame .pwr rfl,
    k.frame .free rfl, k.chip, k.queue⟩

end Sys2Proof.Proofs.Frames
end

section
/-! PROOF. Ring indexes and the fetch of descriptors (R109-R111, R121, R375, R376). -/
namespace Sys2Proof.Proofs.Rings
open Sys2Proof.Machine Sys2Proof.Safety Sys2Proof.Laws Sys2Proof.Proofs.Frames Sys2Proof.Proofs.Firmware

/-! ### The producer index and the consumer index -/

/-- The host's stores reach host memory and its poisoned lines alone. -/
theorem keeps_hostStores (stores : List (Nat × Option (List Byte))) (s : State) : Keeps 0xC000 s (stores.foldl hostStore s) :=
  keeps_foldl (fun a w ha => keeps_hostStore a w ha (.refl _)) (.refl s)

theorem hostStores_rings (stores : List (Nat × Option (List Byte))) (s : State) : (stores.foldl hostStore s).rings = s.rings :=
  (keeps_hostStores stores s).frame .rings rfl

theorem ringFed_hostStores (stores : List (Nat × Option (List Byte))) (s : State) (ring : Nat) :
    ringFed (stores.foldl hostStore s) ring = ringFed s ring := by
  have hqps : (stores.foldl hostStore s).qps = s.qps := (keeps_hostStores stores s).frame .qps rfl
  simp [ringFed, hqps]

theorem get_raise_setRing (s : State) (ring : Nat) (g : Ring) (pg b : Nat) (d : List Byte) :
    tget? (raise (s.setRing ring g) pg b d).rings ring = some g := by simp

/-- A ring after its producer index has moved: it stops where it then holds more than its slots (R109). -/
theorem advancePi_ring (s : State) (ring src : Nat) (g : Ring) (v : Word) :
    ∃ g' : Ring, tget? (advancePi s ring src g v).rings ring = some g' ∧ g'.pi = v ∧ g'.ci = g.ci ∧
      (g'.stopped = true ↔ g.stopped = true ∨ rqSlots g < (v - g.ci).toNat) := by
  unfold advancePi
  split
  · next h =>
    refine ⟨_, get_raise_setRing .., rfl, rfl, ?_⟩
    exact ⟨fun _ => .inr h.1, fun _ => rfl⟩
  · next h =>
    refine ⟨_, (get_setRing ..).trans (if_pos rfl), rfl, rfl, ⟨.inl, ?_⟩⟩
    rintro (hstop | hmore)
    · exact hstop
    · exact (Bool.not_eq_false _).mp fun hrun => h ⟨hmore, hrun⟩

theorem advancePi_hostMem (s : State) (ring src : Nat) (g : Ring) (v : Word) : (advancePi s ring src g v).hostMem = s.hostMem := by
  unfold advancePi
  split <;> simp

theorem advancePi_other (s : State) (ring src : Nat) (g : Ring) (v : Word) {q : Nat} (h : q ≠ ring) :
    tget? (advancePi s ring src g v).rings q = tget? s.rings q := by
  unfold advancePi
  split <;> simp [h.symm]

theorem exec_ringPi_of_hostMay {ring : Fin 4096} {v : Word} {st : List (Nat × Option (List Byte))} {s : State} {g : Ring}
    (hmay : HostMay (st.foldl hostStore s) (pgRing ring.val)) (hring : tget? s.rings ring.val = some g) (hfed : ringFed s ring.val = false)
    (hlive : g.destroying = false) : exec (.ringPi ring v st) s = .next (advancePi (st.foldl hostStore s) ring.val 4 g v) := by
  simp [exec, execRingPi, hostWr_of_hostMay hmay, hostStores_rings, ringFed_hostStores, hring, hfed, hlive]

theorem exec_ringPi_of_fed {ring : Fin 4096} {v : Word} {st : List (Nat × Option (List Byte))} {s : State} {g : Ring}
    (hmay : HostMay (st.foldl hostStore s) (pgRing ring.val)) (hring : tget? s.rings ring.val = some g) (hfed : ringFed s ring.val = true) :
    exec (.ringPi ring v st) s = .next (raise (bump (st.foldl hostStore s) (pgCxl + 0x130) 16 16 1) pgCxl 6 []) := by
  simp [exec, execRingPi, hostWr_of_hostMay hmay, hostStores_rings, ringFed_hostStores, hring, hfed]

/-- R109: only the stores are left of a write for a ring that is absent or being destroyed, whether its page answers or not. -/
theorem exec_ringPi_ignored {ring : Fin 4096} {v : Word} {st : List (Nat × Option (List Byte))} {s : State}
    (hide : hostReach (st.foldl hostStore s) = true → ideHold (st.foldl hostStore s) = false)
    (hring : tget? s.rings ring.val = none ∨ ∃ g, tget? s.rings ring.val = some g ∧ ringFed s ring.val = false ∧ g.destroying = true) :
    exec (.ringPi ring v st) s = .next (st.foldl hostStore s) := by
  have hgate : ∀ t : State, (hostReach t = true → ideHold t = false) → hostWr t (pgRing ring.val) (.next t) = .next t := fun t ht => by
    cases hreach : hostReach t with
    | false => exact if_pos (by rw [hreach]; rfl)
    | true =>
      rw [hostWr, if_neg (by rw [hreach]; decide), if_neg (ne_true_of_eq_false (ht hreach))]
      exact ite_self _
  obtain hnone | ⟨g, hsome, hfed, hdest⟩ := hring
  · simp [exec, execRingPi, hostStores_rings, hnone, hgate _ hide]
  · simp [exec, execRingPi, hostStores_rings, ringFed_hostStores, hsome, hfed, hdest, hgate _ hide]

theorem exec_cqCi_of_hostMay {ring : Fin 4096} {v : Word} {s : State} {g : Ring} (hmay : HostMay s (pgRing ring.val))
    (hring : tget? s.rings ring.val = some g) (hlive : g.destroying = false) :
    exec (.cqCi ring v) s = .next (flushRecords (s.setRing ring.val { g with cqCi := v }) ring.val (g.records.length + 1)) := by
  simp [exec, execCqCi, hostWr_of_hostMay hmay, hring, hlive]

/-! ### The fetch -/

theorem exec_descriptorFetch_of_turn {ring : Fin 4096} {n : Nat} {s : State} {x : Sched} (hpos : 1 ≤ n) (hmax : n ≤ 16) (hfetch : fetching s = true)
    (hturn : fetchTurn s (ring.val / 1024) = some (ring.val, x)) :
    exec (.descriptorFetch ring n) s = .next (fetchN { s with sched := tset {} s.sched (ring.val / 1024) x } ring.val n) := by
  simp [exec, execDescriptorFetch, hturn, hfetch, Nat.not_lt.mpr hmax, Nat.one_le_iff_ne_zero.mp hpos]

theorem exec_descriptorFetch_idle {ring : Fin 4096} {n : Nat} {s : State} (hmax : n ≤ 16)
    (h : fetching s = false ∨ n = 0 ∨ ∀ x : Sched, fetchTurn s (ring.val / 1024) ≠ some (ring.val, x)) : exec (.descriptorFetch ring n) s = .next s := by
  simp only [exec, execDescriptorFetch, if_neg (Nat.not_lt.mpr hmax)]
  obtain hoff | rfl | hturn := h
  · simp [hoff]
  · simp
  · split
    · split
      · next r x hsome => rw [if_neg]; rintro rfl; exact hturn x hsome
      · rfl
    · rfl

/-- One slot of a ring from which a descriptor can be taken. -/
theorem fetchN_one {s : State} {ring : Nat} {g : Ring} (hring : tget? s.rings ring = some g) (hcan : fetchable s g = true) :
    fetchN s ring 1 = match readSlot s g with
      | (none, s1) => raise (s1.setRing ring { g with stopped := true }) (pgAsch (ring / 1024)) 0 (leBytes 2 ring ++ [2])
      | (some d, s1) => takeDesc s1 ring g d := by
  simp only [fetchN, hring, hcan]
  rcases readSlot s g with ⟨_ | d, s1⟩ <;> rfl

theorem takeDesc_of_good {s : State} {ring : Nat} {g : Ring} {d : List Byte} (h : firstBad d = none) :
    ∃ g' : Ring, tget? (takeDesc s ring g d).rings ring = some g' ∧ g'.ci = g.ci + 1 ∧ g'.inflight = g.inflight + 1 ∧
      g'.taken = g.taken ++ [((nextSrc g.srcs).1, d)] ∧ g'.pi = g.pi := by
  unfold takeDesc
  simp [h]

theorem takeDesc_frame {s : State} {ring : Nat} {g : Ring} {d : List Byte} (h : firstBad d = none) :
    (takeDesc s ring g d).hostMem = s.hostMem ∧ (takeDesc s ring g d).devMem = s.devMem ∧ (takeDesc s ring g d).reqs = s.reqs ∧
      ∀ q : Nat, q ≠ ring → tget? (takeDesc s ring g d).rings q = tget? s.rings q := by
  unfold takeDesc
  simp +contextual [h, eq_comm]

theorem takeDesc_of_bad {s : State} {ring : Nat} {g : Ring} {d : List Byte} {o : Nat} (h : firstBad d = some o) :
    ∃ (u : State) (id : Nat) (r : Req), takeDesc s ring g d = failReq u id r { status := 0x32, detail := o } ∧ r.desc = d ∧ r.ring = ring ∧
      ∃ g', tget? u.rings ring = some g' ∧ g'.ci = g.ci + 1 ∧ g'.taken = g.taken := by
  simp only [takeDesc, h]
  exact ⟨_, _, _, rfl, rfl, rfl, by simp [newId]⟩

/-- Settles O11: index writes, then the fetch of the slot at `RING_CI` by what reading it gives. -/
theorem ringIndexesAndFetch : Obligations.RingIndexesAndFetch := by
  refine ⟨⟨?_, fun ring v st s g hmay hring hfed => exec_ringPi_of_fed hmay hring hfed, fun ring v st s hide hring => exec_ringPi_ignored hide hring,
    ?_, fun ring v s g hmay hring hlive => exec_cqCi_of_hostMay hmay hring hlive, ?_⟩,
    fun ring n s x hpos hmax hfetch hturn => exec_descriptorFetch_of_turn hpos hmax hfetch hturn, ?_,
    fun ring n s hmax h => exec_descriptorFetch_idle hmax h⟩
  · intro ring v st s g hmay hring hfed hlive
    obtain ⟨g', hg', hpi, hci, hstop⟩ := advancePi_ring (st.foldl hostStore s) ring.val 4 g v
    exact ⟨_, g', exec_ringPi_of_hostMay hmay hring hfed hlive, hg', hpi, hci, hstop, advancePi_hostMem ..,
      fun q hq => by rw [advancePi_other _ _ _ _ _ hq, hostStores_rings]⟩
  · intro ring v s g hmay hring hlive hrec
    rw [exec_cqCi_of_hostMay hmay hring hlive]
    simp [flushRecords, hrec]
  · intro ring v s hmay hring
    obtain hnone | ⟨g, hsome, hdest⟩ := hring
    · simp [exec, execCqCi, hostWr_of_hostMay hmay, hnone]
    · simp [exec, execCqCi, hostWr_of_hostMay hmay, hsome, hdest]
  · intro ring s x g hfetch hturn hring hrun hlive hsome hfree hide s0
    have hcan : fetchable s0 g = true := by
      have hide0 : ideHold s0 = ideHold s := rfl
      simp [fetchable, hide0, hrun, hlive, hsome, hfree, hide]
    have hone := (exec_descriptorFetch_of_turn (Nat.le_refl 1) (by decide) hfetch hturn).trans
      (congrArg Host.Outcome.next (fetchN_one (s := s0) hring hcan))
    rw [hone]
    refine ⟨fun d s1 hread hgood => ?_, fun d s1 o hread hbad => ?_, fun s1 hread => ?_⟩
    · obtain ⟨g', hg', hci, hin, htaken, hpi⟩ := takeDesc_of_good (s := s1) (ring := ring.val) (g := g) hgood
      obtain ⟨hhost, hdev, hreqs, hother⟩ := takeDesc_frame (s := s1) (ring := ring.val) (g := g) hgood
      exact ⟨_, g', by rw [hread], hg', hci, hin, htaken, hpi, hhost, hdev, hreqs, hother⟩
    · obtain ⟨u, id, r, htake, hdesc, hr, hg'⟩ := takeDesc_of_bad (s := s1) (ring := ring.val) (g := g) hbad
      exact ⟨u, id, r, by rw [hread, ← htake], hdesc, hr, hg'⟩
    · rw [hread]

end Sys2Proof.Proofs.Rings
end

section
/-! PROOF. Arming, disarming, triggers and firing (R125-R128, R352). -/
namespace Sys2Proof.Proofs.Arming
open Sys2Proof.Machine Sys2Proof.Safety

section
variable {ring : Fin 4096} {s s1 : State} {d : List Byte} {id : Nat} {r : Req}

theorem exec_arm_of_checked (h : Checked s ring.val (fun d => dArm d && !dDisarm d) d id r s1) :
    exec (.arm ring) s =
      if (armedOn s1 (ring.val / 1024)).any (fun a => decide (a.ring = ring.val) && decide (a.key = trigKey d)) then
        .next (failReq s1 id r { status := 0x32, detail := 0x08 })
      else if (armedOn s1 (ring.val / 1024)).length ≥ 16384 ∨
          ((armedOn s1 (ring.val / 1024)).filter (fun a => decide (dPart a.desc = r.part))).length ≥ 4096 then
        .next (failReq (raise s1 (pgAsch (ring.val / 1024)) 2 []) id r { status := 0x41, detail := 0x04 })
      else
        .next (drainCheck (captArming (releaseSlot
          { s1 with armed := s1.armed ++ [{ ring := ring.val, key := trigKey d, order := id, desc := d }] } ring.val) r)) := by
  obtain ⟨src, g, hfront, hearly⟩ := h
  simp only [exec, execArm, hfront, hearly]
  rfl

theorem exec_disarm_of_checked (h : Checked s ring.val (fun d => dArm d && dDisarm d) d id r s1) :
    exec (.disarm ring) s =
      match s1.armed.find? (fun a => decide (a.ring = ring.val) && decide (a.key = trigKey d) && !a.gone) with
      | none => .next (failReq s1 id r { status := 0x32, detail := 0x08 })
      | some a => .next (complete (endArmed s1 a 0x70) id r 0x00 0 0 0 0 0) := by
  obtain ⟨src, g, hfront, hearly⟩ := h
  simp only [exec, execDisarm, hfront, hearly]
  rfl

end

/-- R126: a trigger of the ring's own partition counts for the descriptor that it names, which fires at the count that it needs. -/
theorem presentTrigger_counts {s : State} {port part v : Nat} {a : Armed} (hpart : (tget? s.rings (v / 2 ^ 20)).map (·.part) = some part)
    (hdrain : s.dev.state ≠ .drain)
    (hfind : s.armed.find? (fun a => decide (a.ring = v / 2 ^ 20) && decide (a.key = v % 2 ^ 20) && !a.gone) = some a) :
    presentTrigger s port part v = { s with armed := s.armed.map (fun b => if b = a then
      (if a.count + 1 < trigNeed a.desc then { a with count := a.count + 1 }
       else { a with count := 0, fires := a.fires ++ [port], gone := !dPersist a.desc }) else b) } := by
  simp only [presentTrigger, hpart, hfind, hdrain, if_false, ne_eq, not_true_eq_false]

theorem exec_fire_idle {ring : Fin 4096} {key : Nat} {s : State}
    (h : s.armed.find? (fun a => decide (a.ring = ring.val) && decide (a.key = key) && !a.fires.isEmpty) = none ∨ tget? s.rings ring.val = none ∨
      noService s = true ∨ (∃ g, tget? s.rings ring.val = some g ∧ slotFree g = false) ∨
      ∃ a, s.armed.find? (fun a => decide (a.ring = ring.val) && decide (a.key = key) && !a.fires.isEmpty) = some a ∧
        inOrder s ring.val a.order a.desc = false) :
    exec (.fire ring key) s = .next s := by
  simp only [exec, execFire]
  split
  · next a g hfind hring =>
    refine if_pos ?_
    obtain hnone | hnone | hno | ⟨g', hg', hfull⟩ | ⟨a', ha', horder⟩ := h
    · simp [hfind] at hnone
    · simp [hring] at hnone
    · exact .inr (.inl hno)
    · obtain rfl := Option.some.inj (hring.symm.trans hg')
      exact .inl hfull
    · obtain rfl := Option.some.inj (hfind.symm.trans ha')
      exact .inr (.inr (.inr horder))
  · rfl

/-- Settles O12: the branches of `ARM`, `DISARM`, `TRIGGER` and `FIRE`. -/
theorem armedDescriptorsFire : Obligations.ArmedDescriptorsFire := by
  refine ⟨⟨?_, ?_, ?_, ?_, ?_, fun port v qpn s x h => by simp only [exec, execTrigger, h], fun port v qpn s h => by simp only [exec, execTrigger, h]⟩,
    fun port part v s => ⟨fun hpart => if_pos hpart, fun a hpart hdrain hfind => ?_⟩, ?_, fun ring key s h => exec_fire_idle h⟩
  · intro ring s s1 d id r h hnew hroom hshare
    rw [exec_arm_of_checked h, if_neg (by simp [hnew]), if_neg (by omega)]
  · intro ring s s1 d id r h hold
    rw [exec_arm_of_checked h, if_pos hold]
  · intro ring s s1 d id r h hnew hfull
    rw [exec_arm_of_checked h, if_neg (by simp [hnew]), if_pos hfull]
  · intro ring s s1 d id r a h hfind
    rw [exec_disarm_of_checked h, hfind]
  · intro ring s s1 d id r h hfind
    rw [exec_disarm_of_checked h, hfind]
  · refine ⟨_, presentTrigger_counts hpart hdrain hfind, fun hless => if_pos hless, fun hall => if_neg (by omega)⟩
  · intro ring key id s s1 s2 s3 a g r r1 hfind hring hfree hserve hide horder hid hnum hrefs hlate
    simp only [exec, execFire, hfind, hring, hid, hnum, hrefs, hlate]
    simp [hfree, hserve, hide, horder]

end Sys2Proof.Proofs.Arming
end

section
/-! PROOF. The commands of rings (R107, R108, R540, R545). -/
namespace Sys2Proof.Proofs.Rings
open Sys2Proof.Machine Sys2Proof.Safety Sys2Proof.Proofs.Firmware

section
variable {die : Fin 4} {s : State} (hmay : HostMay s (pgAsch die.val)) (hidle : aschBusy s die.val = false)
include hmay hidle

/-- R107: the checks of a creation, in the order of log entry 27. -/
theorem exec_ringCreate_of_hostMay : exec (.ringCreate die) s =
    if ringStagedOk s (stagedRing s die.val).2 = false then .next (wrf s (pgAsch die.val + 0x11C) 2 2 2)
    else if (tget? s.rings (stagedRing s die.val).1).isSome then .next (wrf s (pgAsch die.val + 0x11C) 2 2 3)
    else if (s.rings.filter (fun e => decide (e.2.part = (stagedRing s die.val).2.part))).length ≥ 128 then
      .next (wrf s (pgAsch die.val + 0x11C) 2 2 1)
    else .next (wrf (s.setRing (stagedRing s die.val).1 (stagedRing s die.val).2) (pgAsch die.val + 0x11C) 2 2 0) := by
  simp only [exec, execRingCreate, hostWr_of_hostMay hmay, hidle, Bool.not_eq_true']
  rfl

theorem exec_ringDestroy_of_hostMay : exec (.ringDestroy die) s =
    match tget? s.rings (stagedRing s die.val).1 with
    | none => .next (wrf s (pgAsch die.val + 0x11C) 2 2 3)
    | some g =>
      if g.destroying then .next (wrf s (pgAsch die.val + 0x11C) 2 2 3)
      else .next (wrf (endArmedOf (s.setRing (stagedRing s die.val).1 { g with destroying := true, byCmd := true }) (stagedRing s die.val).1 0x70)
        (pgAsch die.val + 0x11C) 2 2 0) := by
  simp only [exec, execRingDestroy, hostWr_of_hostMay hmay, hidle]
  rfl

end

theorem exec_ringCommand_of_busy {die : Fin 4} {s : State} (hmay : HostMay s (pgAsch die.val)) (hbusy : aschBusy s die.val = true) :
    exec (.ringCreate die) s = .next s ∧ exec (.ringDestroy die) s = .next s := by
  simp [exec, execRingCreate, execRingDestroy, hostWr_of_hostMay hmay, hbusy]

/-- Settles O13: creation and destruction in the order of their checks, and the end of a destruction. -/
theorem ringCommands : Obligations.RingCommands := by
  refine ⟨?_, ?_, ?_, ?_, ?_, fun die s hmay hbusy => exec_ringCommand_of_busy hmay hbusy, ?_, ?_⟩
  · intro die s hmay hidle hok hnew hroom
    rw [exec_ringCreate_of_hostMay hmay hidle, if_neg (by simp [hok]), if_neg (by simp [hnew]), if_neg (by omega)]
  · intro die s hmay hidle hbad
    rw [exec_ringCreate_of_hostMay hmay hidle, if_pos hbad]
  · intro die s hmay hidle hok hold
    rw [exec_ringCreate_of_hostMay hmay hidle, if_neg (by simp [hok]), if_pos hold]
  · intro die s g hmay hidle hring hlive
    simp [exec_ringDestroy_of_hostMay hmay hidle, hring, hlive]
  · intro die s hmay hidle hnone
    simp [exec_ringDestroy_of_hostMay hmay hidle, hnone]
  · intro ring s g hring hdest hquiet
    simp [exec, execRingDestroyDone, hring, hdest, hquiet]
  · intro ring s g hring hnot
    simp [exec, execRingDestroyDone, hring, hnot]

end Sys2Proof.Proofs.Rings
end

section
/-! PROOF. `ATTEND` takes its snapshot, its lower limit and its query (R84, R115, R120). -/
namespace Sys2Proof.Proofs.Attend
open Sys2Proof.Machine Sys2Proof.Safety Sys2Proof.Proofs.Commands Sys2Proof.Proofs.RingTrim

/-! ### The first round -/

/-- The runs of the first round of a request. -/
def firstRuns (sh : Shelf) (r : Req) : List Run :=
  (List.range (profH sh.prof)).flatMap (fun k =>
    mkRuns sh r k 0 (((List.range (profH sh.prof)).map (round1 sh r)).getD k ([], [])).1)

/-- The first round gives a request its runs and its selection, and changes nothing else of it. -/
theorem startRounds_eq (sh : Shelf) (r : Req) : ∃ sel : Sel, startRounds sh r = { r with runs := firstRuns sh r, sel := sel } := by
  unfold startRounds
  dsimp only
  split <;> exact ⟨_, rfl⟩

theorem startRounds_runs (sh : Shelf) (r : Req) : (startRounds sh r).runs = firstRuns sh r := by
  obtain ⟨sel, h⟩ := startRounds_eq sh r
  rw [h]

/-! ### From admission to the snapshot -/

theorem exec_attend_of_looks {ring : Fin 4096} {id i : Nat} {s s1 : State} {r : Req} {sh : Shelf} (h : Looks s ring.val 0x01 id r s1)
    (hf : Found s1 (dKey r.desc) i sh) : exec (.attend ring) s = .next (attendFound s1 id r i sh) := by
  obtain ⟨s0, hadm, rfl⟩ := h
  exact congrArg Host.Outcome.next ((admitOp_of_admits doAttend hadm).trans (withShelf_of_found hf))

/-- The request of an `ATTEND` with its snapshot, its lower limit and its query, as its selection begins. -/
def queried (s1 : State) (r : Req) (i : Nat) (sh : Shelf) (b : List Byte) : Req :=
  let h := holdQuery sh r.desc (srcElems (bits (le r.desc 0x25 1) 0 2) (profH sh.prof * reqG r.desc * profD sh.prof) b)
  { r with lo := sh.start, snap := sh.visible, query := h.1, cfmt := h.2.1, boothOk := h.2.2.1, narrowed := h.2.2.2, shelf := some i,
           since := s1.time.ns, cap := r.cap.map (fun k => { k with input := b }) }

section
variable {id i : Nat} {s s1 : State} {r : Req} {sh : Shelf} {b : List Byte}
  (hring : isRing sh.prof = false) (hreplay : r.replay = false)
  (hfit : attendFail s { r with lo := sh.start, snap := sh.visible } sh = none)
  (hread : refRead s r.part (le r.desc 0x18 8) (profH sh.prof * reqG r.desc * profD sh.prof * srcSize (bits (le r.desc 0x25 1) 0 2)) = (some b, s1))
  (hok : (srcElems (bits (le r.desc 0x25 1) 0 2) (profH sh.prof * reqG r.desc * profD sh.prof) b).all srcOk = true)
include hring hreplay hfit hread hok

theorem attendFound_eq : ∃ dc : Nat, attendFound s id r i sh =
    if sh.visible ≤ sh.start then finishAttend (prefetch s1 (r.ring / 1024) (dKey r.desc)) id (queried s1 r i sh b) i sh 0x00 0 []
    else
      let u := if reqMode r.desc = 0 then prefetch s1 (r.ring / 1024) (dKey r.desc) else readSums (prefetch s1 (r.ring / 1024) (dKey r.desc)) i
      u.setReq id { startRounds ((u.shelf? i).getD sh) (queried s1 r i sh b) with bucket := some dc } := by
  have hlo : (if isRing sh.prof = true then max sh.start (sh.visible - sh.prof.ringW) else sh.start) = sh.start := if_neg (by simp [hring])
  unfold attendFound
  dsimp only
  rw [hlo, if_neg (by simp [hreplay]), hfit]
  dsimp only
  rw [hread]
  dsimp only
  rw [if_neg (by simp [hok])]
  exact ⟨_, rfl⟩

theorem attendFound_of_keys (hkeys : sh.start < sh.visible) :
    ∃ (q : Req) (u : State), (reqMode r.desc = 0 → u = prefetch s1 (r.ring / 1024) (dKey r.desc)) ∧
      (reqMode r.desc ≠ 0 → u = readSums (prefetch s1 (r.ring / 1024) (dKey r.desc)) i) ∧ attendFound s id r i sh = u.setReq id q ∧
      q.shelf = some i ∧ q.snap = sh.visible ∧ q.lo = sh.start ∧ q.desc = r.desc ∧ q.query = (holdQuery sh r.desc
        (srcElems (bits (le r.desc 0x25 1) 0 2) (profH sh.prof * reqG r.desc * profD sh.prof) b)).1 ∧
      q.runs = (startRounds ((u.shelf? i).getD sh) q).runs ∧ q.bucket.isSome = true := by
  obtain ⟨dc, hdc⟩ := attendFound_eq (id := id) (i := i) hring hreplay hfit hread hok
  rw [hdc, if_neg (Nat.not_le.mpr hkeys)]
  refine ⟨_, _, fun hmode => if_pos hmode, fun hmode => if_neg hmode, rfl, ?_⟩
  obtain ⟨sel, hstart⟩ := startRounds_eq _ _
  rw [hstart]
  exact ⟨rfl, rfl, rfl, rfl, rfl, by rw [startRounds_runs]; rfl, rfl⟩

theorem attendFound_of_no_key (hnone : sh.visible ≤ sh.start) :
    ∃ q : Req, attendFound s id r i sh = finishAttend (prefetch s1 (r.ring / 1024) (dKey r.desc)) id q i sh 0x00 0 [] ∧
      q.desc = r.desc ∧ q.runs = r.runs ∧ q.lo = sh.start ∧ q.snap = sh.visible := by
  obtain ⟨dc, hdc⟩ := attendFound_eq (id := id) (i := i) hring hreplay hfit hread hok
  rw [hdc, if_pos hnone]
  exact ⟨_, rfl, rfl, rfl, rfl, rfl⟩

end

/-- Settles O14: the two ends of `attendFound` on a shelf that is no ring, with keys in the range and without. -/
theorem attendTakesItsSnapshot : Obligations.AttendTakesItsSnapshot := by
  refine ⟨fun ring id i s s1 s2 r sh b hlook hf hring hreplay hfit hread hok hkeys => ?_,
    fun ring id i s s1 s2 r sh b hlook hf hring hreplay hfit hread hok hnone => ?_⟩
  · obtain ⟨q, u, hdense, hselect, hu, hq⟩ := attendFound_of_keys (id := id) (i := i) hring hreplay hfit hread hok hkeys
    exact ⟨q, u, hdense, hselect, by rw [exec_attend_of_looks hlook hf, hu], hq⟩
  · obtain ⟨q, hq, hsame⟩ := attendFound_of_no_key (id := id) (i := i) hring hreplay hfit hread hok hnone
    exact ⟨q, by rw [exec_attend_of_looks hlook hf, hq], hsame⟩

end Sys2Proof.Proofs.Attend
end

section
/-! PROOF. Appends are accepted at `END` and end in order (R80-R83, R87, R88, R138). -/
namespace Sys2Proof.Proofs.Append
open Sys2Proof.Machine Sys2Proof.Safety Sys2Proof.Proofs.RingTrim

/-! ### From admission to the shelf -/

theorem withShelf_of_absent {s s2 : State} {k : ShelfKey} {id : Nat} {r : Req} {found : State → Nat → Shelf → State} {absent : State → State}
    (h : Absent (readDir s k) k s2) (hgrace : r.grace = false) : withShelf s id r k found absent = absent s2 := by
  obtain ⟨hlook, hpull, htable⟩ := h
  simp [withShelf, hlook, hpull, htable, hgrace]

section
variable {ring : Fin 4096} {id i : Nat} {s s1 : State} {r : Req} {sh : Shelf}

theorem exec_appendKv_of_found (h : Looks s ring.val 0x02 id r s1) (hf : Found s1 (dKey r.desc) i sh) (hone : 1 ≤ le r.desc 0x24 2)
    (hmax : le r.desc 0x24 2 ≤ 4096) : exec (.appendKv ring) s = .next (appendFound s1 id r i sh) := by
  obtain ⟨s0, hadm, rfl⟩ := h
  have hop : exec (.appendKv ring) s = .next (doAppend s0 id r) := congrArg Host.Outcome.next (admitOp_of_admits doAppend hadm)
  rw [hop, doAppend, if_neg (by omega), withShelf_of_found hf]

theorem exec_appendKv_of_absent {s2 : State} (h : Looks s ring.val 0x02 id r s1) (ha : Absent s1 (dKey r.desc) s2) (hgrace : r.grace = false)
    (hone : 1 ≤ le r.desc 0x24 2) (hmax : le r.desc 0x24 2 ≤ 4096) : exec (.appendKv ring) s = .next (appendAbsent s2 id r) := by
  obtain ⟨s0, hadm, rfl⟩ := h
  have hop : exec (.appendKv ring) s = .next (doAppend s0 id r) := congrArg Host.Outcome.next (admitOp_of_admits doAppend hadm)
  rw [hop, doAppend, if_neg (by omega), withShelf_of_absent ha hgrace]

theorem exec_appendKv_of_count_bad (h : Admits s ring.val 0x02 id r s1) (hn : le r.desc 0x24 2 = 0 ∨ 4096 < le r.desc 0x24 2) :
    exec (.appendKv ring) s = .next (failReq s1 id r { status := 0x32, detail := 0x24 }) := by
  have hop : exec (.appendKv ring) s = .next (doAppend s1 id r) := congrArg Host.Outcome.next (admitOp_of_admits doAppend h)
  rw [hop, doAppend, if_pos hn]
  rfl

end

/-! ### The judgement at `END` -/

section
variable {s : State} {id i : Nat} {r : Req} {sh : Shelf}

/-- What `appendFound` asks before it looks at positions. -/
def Appendable (s : State) (r : Req) (sh : Shelf) : Prop :=
  sh.copy = false ∧ bit (le r.desc 0x26 1) 2 = false ∧ refFail s r.part r.desc 0x18 (appendBytes sh.prof r.desc) = none

theorem appendFound_of_appendable (h : Appendable s r sh) : appendFound s id r i sh =
    if sh.trim.isSome then (s.setReq id { r with shelf := some i }).setShelf i { sh with held := sh.held ++ [id] }
    else judgeAppend false s id r i sh := by
  obtain ⟨hcopy, hcreate, href⟩ := h
  simp [appendFound, hcopy, hcreate, href]

theorem judgeAppend_accepted {made : Bool} {s1 : State} {sh1 : Shelf} (hend : le r.desc 0x20 4 = sh.endPos)
    (hlen : lengthOk sh (le r.desc 0x20 4 + le r.desc 0x24 2) = true)
    (hcharge : takeCharge s r.part (appendCharge sh (le r.desc 0x24 2)) (some i) = (true, s1)) (hsh1 : s1.shelf? i = some sh1) :
    judgeAppend made s id r i sh = retryAppends ((s1.setReq id { r with shelf := some i }).setShelf i { sh1 with
      endPos := le r.desc 0x20 4 + le r.desc 0x24 2, appends := sh1.appends ++
        [{ req := id, pos := le r.desc 0x20 4, n := le r.desc 0x24 2, charge := appendCharge sh (le r.desc 0x24 2), created := made }] }) i := by
  rw [judgeAppend, if_pos ⟨hend, hlen⟩, hcharge]
  simp only [hsh1]

theorem judgeAppend_full {made : Bool} {s1 : State} (hend : le r.desc 0x20 4 = sh.endPos)
    (hlen : lengthOk sh (le r.desc 0x20 4 + le r.desc 0x24 2) = true)
    (hcharge : takeCharge s r.part (appendCharge sh (le r.desc 0x24 2)) (some i) = (false, s1)) :
    judgeAppend made s id r i sh = failReq s1 id r { status := 0x41, detail := 0x01 } := by
  rw [judgeAppend, if_pos ⟨hend, hlen⟩, hcharge]
  rfl

theorem judgeAppend_not_at_end {made : Bool} (hend : le r.desc 0x20 4 ≠ sh.endPos) : judgeAppend made s id r i sh =
    if sh.start ≤ le r.desc 0x20 4 ∧ le r.desc 0x20 4 + le r.desc 0x24 2 ≤ sh.endPos then
      complete s id { r with already := true } 0x00 0 sh.visible 0 0 0
    else failReq s id r { status := 0x32, detail := 0x20 } := by
  rw [judgeAppend, if_neg (fun h => hend h.1)]
  rfl

/-- R80, R138: with `CREATE`, an append that can be accepted makes its shelf. -/
theorem appendAbsent_creates {s1 s2 : State} {x : Shelf} (hcreate : bit (le r.desc 0x26 1) 2 = true)
    (hsh : sh = freshShelf s (dKey r.desc) (le r.desc 0x28 2) (le r.desc 0x20 4))
    (href : refFail s r.part r.desc 0x18 (appendBytes sh.prof r.desc) = none) (hlen : lengthOk sh (le r.desc 0x20 4 + le r.desc 0x24 2) = true)
    (hcount : shelfCount s r.part < rdf s (pgPart r.part + 0x10C) 0 25)
    (hcharge : takeCharge s r.part (shelfCharge sh + appendCharge sh (le r.desc 0x24 2)) none = (true, s1))
    (hmade : createShelf s1 sh = (.ok i, s2)) (hx : s2.shelf? i = some x) : appendAbsent s id r = judgeAppend true s2 id r i x := by
  subst hsh
  simp [appendAbsent, hcreate, href, hlen, Nat.not_le.mpr hcount, hcharge, hmade, hx]

end

/-! ### The end of an append -/

theorem exec_visibleAdvance_idle {shelf : Nat} {s : State} (h : s.shelf? shelf = none ∨ ∃ sh, s.shelf? shelf = some sh ∧ (sh.appends = [] ∨
      ∃ a rest, sh.appends = a :: rest ∧ (sh.state ≠ .live ∨ a.written = false ∨ a.failed ≠ none ∨ mirrorOk s sh a.waitSeq = false))) :
    exec (.visibleAdvance shelf) s = .next s := by
  simp only [exec, execVisibleAdvance]
  obtain hnone | ⟨sh, hsh, hnil | ⟨a, rest, happ, hnot⟩⟩ := h
  · rw [hnone]
  · simp only [hsh, hnil]
  · simp only [hsh, happ]
    refine if_neg fun ⟨hlive, hwritten, hgood, hmirror⟩ => ?_
    simp [hlive, hwritten, hgood, hmirror] at hnot

/-! ### The slots of a ring shelf -/

section
variable {s : State} {i own j se : Nat} {reuse : Bool} {sh : Shelf} {d : Drawer}
  (hsh : s.shelf? i = some sh) (hring : isRing sh.prof = true) (hnew : getDrawer sh se j = none) (hslot : ringSlots sh.prof se ≤ j)
  (hold : getDrawer sh se (j - ringSlots sh.prof se) = some d) (hpast : drawerPos sh se d.idx < own)
include hsh hring hnew hslot hold hpast

theorem readyDrawer_ring_waits (h : reuse = false ∨ windowHas s i sh se d.idx = true) :
    readyDrawer reuse i own (true, s) (se, j) = (false, s) := by
  simp only [readyDrawer, hsh, hnew, hring, hslot, hold]
  obtain rfl | hwin := h
  · simp [hpast]
  · simp [hpast, hwin]

omit hpast in
theorem readyDrawer_ring_reuses {q : Place} (hreuse : reuse = true) (hwin : windowHas s i sh se d.idx = false) (hstill : d.moving = none)
    (hloc : d.loc = .hbm q) :
    readyDrawer reuse i own (true, s) (se, j) = (true, (wipePlace s q).setShelf i { sh with drawers := sh.drawers.map (fun e =>
      if e.series = se ∧ e.idx = d.idx then { series := se, idx := j, gen := d.gen + 1, firstPos := drawerPos sh se j, loc := .hbm q } else e) }) := by
  simp [readyDrawer, hsh, hnew, hring, hslot, hold, hreuse, hwin, hstill, hloc]

end

theorem retryAppends_of_written {s : State} {i : Nat} {sh : Shelf} {reuse : Bool} (hsh : s.shelf? i = some sh)
    (hall : sh.appends.all (fun a => a.written) = true) : retryAppends s i reuse = s := by
  have hnone : sh.appends.findIdx? (fun a => !a.written) = none :=
    List.findIdx?_eq_none_iff.mpr fun a ha => by simp [List.all_eq_true.mp hall a ha]
  simp [retryAppends, writeAppends, hsh, hnone]

/-- Settles O15: the judgement of an append, the two ends of the append list, and the reuse of ring slots. -/
theorem appendsAreAcceptedAndEnd : Obligations.AppendsAreAcceptedAndEnd := by
  refine ⟨⟨?_, ?_, ?_, ?_, ?_, ?_, ?_, fun ring id s s1 r h hn => exec_appendKv_of_count_bad h hn⟩, ?_,
    fun shelf s h => exec_visibleAdvance_idle h, ?_, fun s shelf a h => by simp [undoAppend, h], fun s shelf a h => by simp [undoAppend, h], ?_,
    fun shelf s => rfl, ?_, fun shelf s sh hsh hall => congrArg Host.Outcome.next (retryAppends_of_written hsh hall)⟩
  · intro ring id i s s1 s2 r sh sh2 h hf hone hmax hcopy hcreate href htrim hend hlen hcharge hsh2
    rw [exec_appendKv_of_found h hf hone hmax, appendFound_of_appendable ⟨hcopy, hcreate, href⟩, if_neg (by simp [htrim]),
      judgeAppend_accepted hend (hend ▸ hlen) hcharge hsh2, hend]
  · intro ring id i s s1 s2 r sh h hf hone hmax hcopy hcreate href htrim hend hlen hcharge
    rw [exec_appendKv_of_found h hf hone hmax, appendFound_of_appendable ⟨hcopy, hcreate, href⟩, if_neg (by simp [htrim]),
      judgeAppend_full hend (hend ▸ hlen) hcharge]
  · intro ring id i s s1 r sh h hf hone hmax hcopy hcreate href htrim hstart hend
    rw [exec_appendKv_of_found h hf hone hmax, appendFound_of_appendable ⟨hcopy, hcreate, href⟩, if_neg (by simp [htrim]),
      judgeAppend_not_at_end (by omega), if_pos ⟨hstart, hend⟩]
  · intro ring id i s s1 r sh h hf hone hmax hcopy hcreate href htrim hend hout
    rw [exec_appendKv_of_found h hf hone hmax, appendFound_of_appendable ⟨hcopy, hcreate, href⟩, if_neg (by simp [htrim]),
      judgeAppend_not_at_end hend, if_neg (by omega)]
  · intro ring id s s1 s2 r h ha hgrace hone hmax hcreate
    rw [exec_appendKv_of_absent h ha hgrace hone hmax, appendAbsent, if_pos (by simp [hcreate])]
    rfl
  · intro ring id i s s1 s2 s3 s4 s5 r sh x y h ha hgrace hone hmax hcreate hsh href hlen hcount hcharge hmade hx hend hlen' hcharge' hy
    rw [exec_appendKv_of_absent h ha hgrace hone hmax, appendAbsent_creates hcreate hsh href hlen hcount hcharge hmade hx,
      judgeAppend_accepted hend.symm hlen' hcharge' hy]
  · intro ring id i s s1 r sh h hf hone hmax hcopy hcreate href htrim
    rw [exec_appendKv_of_found h hf hone hmax, appendFound_of_appendable ⟨hcopy, hcreate, href⟩, if_pos htrim]
  · intro shelf s sh a rest r hsh happ hlive hwritten hgood hmirror hr
    simp [exec, execVisibleAdvance, hsh, happ, hlive, hwritten, hgood, hmirror, hr, sat]
    rfl
  · intro shelf n s sh a r hsh hidx ha hr
    subst ha
    simp only [exec, execFailedAppend, hsh, hidx, Machine.State.setShelf, hr]
    rfl
  · intro shelf s h
    obtain hnone | ⟨sh, hsh, hidx⟩ := h
    · simp only [exec, execFailedAppend, hnone]
    · simp only [exec, execFailedAppend, hsh, hidx]
  · intro s i own j se reuse sh d hsh hring hnew hslot hold hpast
    exact ⟨fun h => readyDrawer_ring_waits hsh hring hnew hslot hold hpast h,
      fun q hreuse hwin hstill hloc => readyDrawer_ring_reuses hsh hring hnew hslot hold hreuse hwin hstill hloc⟩

end Sys2Proof.Proofs.Append
end

section
/-! PROOF. Records reach their drawer (R71, R72, R268, R271). -/
namespace Sys2Proof.Proofs.Append
open Sys2Proof.Machine Sys2Proof.Safety

theorem padTo_take_length (l : List Byte) (n : Nat) : (padTo (l.take n) n).length = n := by
  simp only [padTo, List.length_append, List.length_replicate, List.length_take]
  omega

/-- What records leave of their drawer: its bytes end with them, and it keeps its place. -/
theorem recordsIn_of_hbm {s : State} {i lo hi : Nat} {sh : Shelf} {d : Drawer} {new : List (List Byte)} {q : Place} (hloc : d.loc = .hbm q) :
    ∃ d' : Drawer, recordsIn s i lo hi sh d new = s.setShelf i (setDrawer sh d') ∧ d'.count = hi - drawerPos sh d.series d.idx ∧ d'.loc = d.loc ∧
      d'.data.drop ((lo - drawerPos sh d.series d.idx) * serB sh.prof d.series) = new.flatten ∧
      d'.stamp = s.time.ns / 1000000 % 65536 ∧ d'.series = d.series ∧ d'.idx = d.idx ∧ d'.gen = d.gen := by
  simp only [recordsIn, hloc]
  exact ⟨_, rfl, rfl, rfl, by simp [padTo_take_length], rfl, rfl, rfl, rfl⟩

/-- Settles O16: the two answers of the lines that take the records. -/
theorem recordsReachTheirDrawer : Obligations.RecordsReachTheirDrawer := by
  refine ⟨fun s s0 s1 i lo hi k new sh d q hs hsh hd hloc hpos hwrote => ?_, fun s s0 s1 i lo hi l k new sh d q hs hsh hd hloc hwrote => ?_⟩
  · obtain ⟨d', hd', hrest⟩ := recordsIn_of_hbm (s := s1) (i := i) (lo := lo) (hi := hi) (sh := sh) (new := new) hloc
    exact ⟨d', by simp only [putRecords, hs, hsh, hd, hloc, locPlace, hwrote, hd'], hrest⟩
  · simp only [putRecords, hs, hsh, hd, hloc, locPlace, hwrote]

end Sys2Proof.Proofs.Append
end

section
/-! PROOF. Trims move `START` and `END`, drops free shelves (R89, R92, R93, R95). -/
namespace Sys2Proof.Proofs.RingTrim
open Sys2Proof.Machine Sys2Proof.Safety

/-! ### `TRIM_KV` -/

section
variable {ring : Fin 4096} {id i : Nat} {s s1 : State} {r : Req} {sh : Shelf}

theorem exec_trimKv_of_found (h : Looks s ring.val 0x04 id r s1) (hf : Found s1 (dKey r.desc) i sh) :
    exec (.trimKv ring) s = .next (trimFound s1 id r i sh) := by
  obtain ⟨s0, hadm, rfl⟩ := h
  rw [exec_trimKv_of_admits hadm, doTrim, withShelf_of_found hf]

theorem trimFound_of_copy (hcopy : sh.copy = true) : trimFound s id r i sh = failReq s id r { status := 0x50 } := by
  rw [trimFound, if_pos hcopy]
  rfl

theorem trimFound_of_ring (hcopy : sh.copy = false) (hring : isRing sh.prof = true) :
    trimFound s id r i sh = failReq s id r { status := 0x32, detail := 0x1C } := by
  rw [trimFound, if_neg (by simp [hcopy]), if_pos hring]
  rfl

theorem trimFound_judges (hcopy : sh.copy = false) (hring : isRing sh.prof = false) (htrim : sh.trim = none) :
    trimFound s id r i sh = judgeTrim s id r i sh := by
  simp [trimFound, hcopy, hring, htrim]

theorem judgeTrim_head (hform : le r.desc 0x1C 1 = 0) (hlo : sh.start ≤ le r.desc 0x18 4) (hhi : le r.desc 0x18 4 ≤ sh.visible) :
    judgeTrim s id r i sh = complete (mirrorTrim (s.setShelf i { sh with
        start := le r.desc 0x18 4, headTrims := sh.headTrims ++ [{ pos := le r.desc 0x18 4, older := shelfReqs s i }] })
      sh (le r.desc 0x18 4) 0).2 id r 0x00 0 (le r.desc 0x18 4) 0 0 0 := by
  rw [judgeTrim, if_pos hform, if_pos ⟨hlo, hhi⟩]
  rfl

theorem judgeTrim_tail (hform : le r.desc 0x1C 1 ≠ 0) (hlo : sh.start ≤ le r.desc 0x18 4) (hhi : le r.desc 0x18 4 ≤ sh.endPos) :
    judgeTrim s id r i sh =
      (s.setReq id { r with shelf := some i }).setShelf i { sh with trim := some { req := id, pos := le r.desc 0x18 4 } } := by
  rw [judgeTrim, if_neg hform, if_pos ⟨hlo, hhi⟩]

end

/-! ### The steps of a trim -/

section
variable {shelf : Nat} {s : State} {sh : Shelf}

theorem releaseHeld_of_none (hsh : s.shelf? shelf = some sh) (hheld : sh.held = []) (fuel : Nat) : releaseHeld s shelf fuel = s := by
  cases fuel with
  | zero => rfl
  | succ fuel => simp only [releaseHeld, hsh, hheld]

theorem exec_trimSetEnd_sets {t : TailTrim} (hsh : s.shelf? shelf = some sh) (htrim : sh.trim = some t) (hlive : sh.state = .live)
    (happs : sh.appends = []) (hlink : sh.link = none) (hheld : sh.held = []) (hpos : t.pos ≤ sh.endPos) :
    exec (.trimSetEnd shelf) s = .next (s.setShelf shelf { sh with
      endPos := t.pos, visible := t.pos, trim := none, tails := sh.tails ++ [{ t with was := sh.endPos, older := shelfReaders s shelf, waitSeq := none }] }) := by
  have hmirror : mirrorTrim s sh t.pos 1 = (none, s) := by simp only [mirrorTrim, hlink]
  have hgo : ¬ (sh.state ≠ .live ∨ (!sh.appends.isEmpty) = true) := by simp [hlive, happs]
  simp only [exec, execTrimSetEnd, hsh, htrim, if_neg hgo, hmirror, if_neg (Nat.not_lt.mpr hpos)]
  refine congrArg Host.Outcome.next (releaseHeld_of_none ((Laws.shelf_setShelf ..).trans (if_pos rfl)) ?_ _)
  exact hheld

theorem exec_trimSetEnd_waits (h : s.shelf? shelf = none ∨ ∃ sh, s.shelf? shelf = some sh ∧ (sh.trim = none ∨ sh.state ≠ .live ∨ sh.appends ≠ [])) :
    exec (.trimSetEnd shelf) s = .next s := by
  obtain hno | ⟨sh, hsh, hwait⟩ := h
  · simp only [exec, execTrimSetEnd, hno]
  · simp only [exec, execTrimSetEnd, hsh]
    cases htrim : sh.trim with
    | none => rfl
    | some t => simp_all

theorem exec_trimTailComplete_waits {t : TailTrim} {rest : List TailTrim} (hsh : s.shelf? shelf = some sh) (htails : sh.tails = t :: rest)
    (hwait : (allDone s t.older && mirrorOk s sh t.waitSeq) = false) : exec (.trimTailComplete shelf) s = .next s := by
  have hnot : (!allDone s t.older || !mirrorOk s sh t.waitSeq) = true := by rw [← Bool.not_and, hwait]; rfl
  simp only [exec, execTrimTailComplete, hsh, htails, hnot, if_true]

theorem exec_trimTailComplete_completes {s1 : State} {x : Shelf} {t : TailTrim} {rest : List TailTrim} {r : Req}
    (hsh : s.shelf? shelf = some sh) (htails : sh.tails = t :: rest) (hdone : allDone s t.older = true) (hack : mirrorOk s sh t.waitSeq = true)
    (hcab : (straddlers sh t.pos).foldl (trimCab shelf t.pos) (true, s) = (true, s1))
    (hx : (cutRecords s1 shelf t.pos true).shelf? shelf = some x) (hr : tget? (cutRecords s1 shelf t.pos true).reqs t.req = some r) :
    exec (.trimTailComplete shelf) s = .next (retryAppends
      (complete ((cutRecords s1 shelf t.pos true).setShelf shelf { x with tails := x.tails.drop 1 }) t.req r 0x00 0 t.pos 0 0 0) shelf) := by
  have hr' : tget? ((cutRecords s1 shelf t.pos true).setShelf shelf { x with tails := x.tails.drop 1 }).reqs t.req = some r := hr
  simp only [exec, execTrimTailComplete, hsh, htails, hdone, hack, hcab, hx, hr']
  rfl

end

/-! ### Drops -/

section
variable {ring : Fin 4096} {id i : Nat} {s s1 : State} {r : Req} {sh : Shelf}

theorem exec_dropShelf_of_admits (h : Admits s ring.val 0x05 id r s1) : exec (.dropShelf ring) s = .next (doDrop s1 id r) :=
  congrArg Host.Outcome.next (admitOp_of_admits doDrop h)

theorem doDrop_found (hone : bit (le r.desc 0x18 1) 0 = false) (hf : Found (readDir s (dKey r.desc)) (dKey r.desc) i sh) :
    doDrop s id r = complete (dropOne (readDir s (dKey r.desc)) i) id r 0x00 0 0 0 0 0 := by
  obtain ⟨hlook, hlive, hroom⟩ := hf
  have hnot : ¬ (sh.state = .live ∧ (shelfReqs (readDir s (dKey r.desc)) i).length ≥ 65535) := fun h => absurd h.2 (Nat.not_le.mpr hroom)
  simp only [doDrop, hone, hlook, if_neg hnot]
  rfl

theorem doDrop_absent (hone : bit (le r.desc 0x18 1) 0 = false) (hlook : lookup (readDir s (dKey r.desc)) (dKey r.desc) = none) :
    doDrop s id r = complete (readDir s (dKey r.desc)) id r 0x00 0 0 0 0 0 := by
  simp only [doDrop, hone, hlook]
  rfl

theorem doDrop_marks_full (hconv : bit (le r.desc 0x18 1) 0 = true) (hfull : 64 ≤ s.dir.marks.length) :
    doDrop s id r = failReq s id r { status := 0x40, i0 := 50000 } := by
  rw [doDrop, if_pos hconv, if_pos hfull]
  rfl

/-- A drop of a conversation leaves its mark behind those that are there. -/
theorem doDrop_marks (hconv : bit (le r.desc 0x18 1) 0 = true) (hroom : s.dir.marks.length < 64) :
    ∃ (u : State) (m : Mark), doDrop s id r = complete u id r 0x00 0 0 0 0 0 ∧ u.dir.marks.getLast? = some m ∧ m.part = dPart r.desc ∧
      m.seqs = s.dir.createSeq := by
  rw [doDrop, if_pos hconv, if_neg (Nat.not_le.mpr hroom)]
  exact ⟨_, _, rfl, List.getLast?_concat, rfl, rfl⟩

end

theorem exec_dropFree_waits {shelf : Nat} {s : State}
    (h : s.shelf? shelf = none ∨ ∃ sh, s.shelf? shelf = some sh ∧ (sh.state ≠ .dropping ∨ allDone s sh.dropOlder = false)) :
    exec (.dropFree shelf) s = .next s := by
  obtain hno | ⟨sh, hsh, hwait⟩ := h
  · simp only [exec, execDropFree, hno]
  · have hnot : ¬ (sh.state = .dropping ∧ allDone s sh.dropOlder = true) := by
      rintro ⟨hdrop, hdone⟩
      simp_all
    simp only [exec, execDropFree, hsh, if_neg hnot]

theorem exec_convScanEnd_nothing_hidden {die : Fin 4} {mark : Nat} {s : State} {m : Mark} (hm : s.dir.marks[mark]? = some m)
    (hdone : m.done.contains die.val = false) (hnone : (markedShelves s m).filter (fun e => decide (shelfDie e.2 = die.val)) = []) :
    exec (.convScanEnd die mark) s = .next { s with dir := { s.dir with
      marks := if 4 ≤ m.done.length + 1 then s.dir.marks.eraseIdx mark else modAt (fun _ => { m with done := m.done ++ [die.val] }) mark s.dir.marks } } := by
  simp only [exec, execConvScanEnd, hm, hdone, hnone, List.length_append]
  rfl

theorem exec_convScanEnd_done {die : Fin 4} {mark : Nat} {s : State}
    (h : s.dir.marks[mark]? = none ∨ ∃ m, s.dir.marks[mark]? = some m ∧ m.done.contains die.val = true) :
    exec (.convScanEnd die mark) s = .next s := by
  obtain hno | ⟨m, hm, hdone⟩ := h
  · simp only [exec, execConvScanEnd, hno]
  · simp only [exec, execConvScanEnd, hm, hdone, if_true]

/-- Settles O17: the judgement of a trim, its steps, and the drops. -/
theorem trimsAndDrops : Obligations.TrimsAndDrops := by
  refine ⟨⟨?_, ?_, fun ring id i s s1 r sh h hf => ⟨fun hcopy => ?_, fun hcopy hring => ?_⟩, fun shelf s sh t => exec_trimSetEnd_sets,
      fun shelf s => exec_trimSetEnd_waits, fun shelf s s1 sh x t rest r => exec_trimTailComplete_completes,
      fun shelf s sh t rest => exec_trimTailComplete_waits, fun shelf s sh h hsh hfind => ?_, fun shelf s sh hsh hfind => ?_⟩,
    ?_, ?_, ?_, fun ring id s s1 r h hconv hroom => ?_, fun shelf s sh hsh hdrop hdone => ?_, fun shelf s => exec_dropFree_waits,
    fun die mark s m => exec_convScanEnd_nothing_hidden, fun die mark s => exec_convScanEnd_done⟩
  · intro ring id i s s1 r sh h hf hcopy hring htrim hform hlo hhi
    rw [exec_trimKv_of_found h hf, trimFound_judges hcopy hring htrim, judgeTrim_head hform hlo hhi]
  · intro ring id i s s1 r sh h hf hcopy hring htrim hform hlo hhi
    rw [exec_trimKv_of_found h hf, trimFound_judges hcopy hring htrim, judgeTrim_tail hform hlo hhi]
  · rw [exec_trimKv_of_found h hf, trimFound_of_copy hcopy]
  · rw [exec_trimKv_of_found h hf, trimFound_of_ring hcopy hring]
  · simp only [exec, execHeadTrimFree, hsh, hfind]
  · simp only [exec, execHeadTrimFree, hsh, hfind]
  · rintro ring id i s s1 r sh ⟨s0, hadm, rfl⟩ hone hf
    rw [exec_dropShelf_of_admits hadm, doDrop_found hone hf]
  · rintro ring id s s1 r ⟨s0, hadm, rfl⟩ hone hlook
    rw [exec_dropShelf_of_admits hadm, doDrop_absent hone hlook]
  · intro ring id s s1 r h hconv hfull
    rw [exec_dropShelf_of_admits h, doDrop_marks_full hconv hfull]
  · obtain ⟨u, m, hdrop, hlast, hpart, hseqs⟩ := doDrop_marks (id := id) hconv hroom
    exact ⟨u, _, m, by rw [exec_dropShelf_of_admits h, hdrop], rfl, hlast, hpart, hseqs⟩
  · simp only [exec, execDropFree, hsh, hdrop, hdone, and_self, if_true]

end Sys2Proof.Proofs.RingTrim
end

section
/-! PROOF. `MERGE` delivers its block, results follow their route (R120, R130, R136, R160, R163, R165). -/
namespace Sys2Proof.Proofs.Merge
open Sys2Proof.Machine Sys2Proof.Safety Sys2Proof.Proofs.RingTrim

/-! ### A merged head -/

theorem mergeHead_eps_of_inf {order free d : Nat} {hs : List HeadIn} (h : hs.any (fun h => decide (h.eps = posInf)) = true) :
    (mergeHead order free d hs).eps = posInf := by
  simp only [mergeHead, h, if_true]
  split
  · rfl
  · split <;> rfl

/-! ### The branches of a merge -/

section
variable {ring : Fin 4096} {id : Nat} {s s1 s2 : State} {r : Req} {f : Fail}

theorem exec_merge_of_admits (h : Admits s ring.val 0x03 id r s1) : exec (.merge ring) s = .next (doMerge s1 id r) :=
  congrArg Host.Outcome.next (admitOp_of_admits doMerge h)

theorem doMerge_field_bad (h : mergeFail s r = some f) : doMerge s id r = failReq s id r f := by
  simp only [doMerge, h]

theorem doMerge_input_bad (hok : mergeFail s r = none) (hin : mergeInputs s r (mgN r.desc) = (.error f, s2)) :
    doMerge s id r = failReq s2 id r f := by
  simp only [doMerge, hok, hin]

/-- The heads of a merged block, for the order of its sums and what is free. -/
def mergedHeads (order free : Nat) (r : Req) (bs : List (List Byte)) : List HeadOut :=
  (List.range (mgHeads r.desc)).map (fun j => mergeHead order (free / 2 ^ (32 * (mgDim r.desc + 3) * j)) (mgDim r.desc)
    (bs.map (fun b => blockHead b (mgInBf16 r.desc) (mgHeads r.desc) (mgDim r.desc) j)))

theorem mergedHeads_length {order free : Nat} {bs : List (List Byte)} : (mergedHeads order free r bs).length = mgHeads r.desc := by
  simp [mergedHeads]

theorem mergedHeads_get {order free j : Nat} {bs : List (List Byte)} (hj : j < mgHeads r.desc) : (mergedHeads order free r bs)[j]? =
    some (mergeHead order (free / 2 ^ (32 * (mgDim r.desc + 3) * j)) (mgDim r.desc)
      (bs.map (fun b => blockHead b (mgInBf16 r.desc) (mgHeads r.desc) (mgDim r.desc) j))) := by
  simp [mergedHeads, hj]

theorem doMerge_delivers {bs : List (List Byte)} (hok : mergeFail s r = none) (hin : mergeInputs s r (mgN r.desc) = (.ok bs, s2)) :
    ∃ (order free : Nat), doMerge s id r =
      deliver { s2 with free := s2.free + 2 } id { r with cap := r.cap.map (fun k => { k with input := bs.flatten }) } 0x00
        (bs.map (fun b => le b 0x14 4)).sum bs.length 0 0 (le r.desc 0x20 4) (le r.desc 0x24 4)
        (blockBytes (mgDim r.desc) (mgOutBf16 r.desc) true (if bs.any (fun b => decide (le b 5 1 = 2)) then 2 else 0) (dTag r.desc) (dEpoch r.desc)
          (bs.map (fun b => le b 0x14 4)).sum 0 0 (bs.map (fun b => le b 0x24 4)).sum (mergedHeads order free r bs)) := by
  simp only [doMerge, hok, hin]
  exact ⟨_, _, rfl⟩

end

/-! ### The route of a result -/

section
variable {s : State} {id roff imm status i0 i1 i2 i3 : Nat} {r : Req} {block : List Byte}

theorem deliver_memory (hreplay : r.replay = false) (hroute : rtKind r.route = 0) : deliver s id r status i0 i1 i2 i3 roff imm block =
    complete (refWrite s r.part (rtBase r.route + roff) block) id r status 0 i0 i1 i2 i3 block := by
  rw [deliver, if_neg (by simp [hreplay]), if_pos hroute]

theorem deliver_network_dead (hreplay : r.replay = false) (hroute : rtKind r.route ≠ 0) (hdead : qpDead s (rtQpn r.route) = true) :
    deliver s id r status i0 i1 i2 i3 roff imm block = complete s id r 0x70 0 0 0 0 0 := by
  rw [deliver, if_neg (by simp [hreplay]), if_neg hroute, if_pos hdead]
  rfl

/-- The message that carries a result to its network route. -/
def resultMsg (r : Req) (roff imm : Nat) (block : List Byte) : OutMsg :=
  { kind := .write, tclass := r.tclass.getD 0, va := (rtBase r.route + roff) % 2 ^ 64, rkey := rtKey r.route, imm := imm, bytes := block }

theorem deliver_network (hreplay : r.replay = false) (hroute : rtKind r.route ≠ 0) (hlive : qpDead s (rtQpn r.route) = false) :
    deliver s id r status i0 i1 i2 i3 roff imm block = complete (postMsg s (rtQpn r.route) (resultMsg r roff imm block)) id r status 0 i0 i1 i2 i3 block := by
  rw [deliver, if_neg (by simp [hreplay]), if_neg hroute, if_neg (by simp [hlive])]
  rfl

/-- A queue pair that takes messages holds what is posted to it at the end of its own; no other queue pair changes. -/
theorem postMsg_of_live {q : Nat} {m : OutMsg} (hlive : qpDead s q = false) :
    ∃ x, tget? s.qps q = some x ∧
      tget? (postMsg s q m).qps q = some { x with out := x.out ++ [{ m with seq := (s.port x.port).msgNo }] } ∧
      (∀ q' : Nat, q' ≠ q → tget? (postMsg s q m).qps q' = tget? s.qps q') ∧ (postMsg s q m).hostMem = s.hostMem ∧
      (postMsg s q m).devMem = s.devMem := by
  unfold qpDead at hlive
  cases hx : tget? s.qps q with
  | none => simp [hx] at hlive
  | some x =>
    have herr : x.err = false := by simpa [hx] using hlive
    have hpost : postMsg s q m = (s.setQp q { x with out := x.out ++ [{ m with seq := (s.port x.port).msgNo }] }).setPort x.port { s.port x.port with
        msgNo := (s.port x.port).msgNo + 1, fetch := if (s.port x.port).cache.contains q || (s.port x.port).fetch.contains q
          then (s.port x.port).fetch else (s.port x.port).fetch ++ [q] } := by
      simp only [postMsg, hx, herr]
      rfl
    rw [hpost]
    refine ⟨x, rfl, ?_, fun q' hq => ?_, rfl, rfl⟩
    · exact (Laws.tget_tput ..).trans (if_pos rfl)
    · exact (Laws.tget_tput ..).trans (if_neg (Ne.symm hq))

end

/-- Settles O18: the branches of a merge, and the three routes of a result. -/
theorem mergeDeliversAndResultsFollowTheirRoute : Obligations.MergeDeliversAndResultsFollowTheirRoute := by
  refine ⟨⟨fun ring id s s1 s2 r bs h hok hin => ?_, fun ring id s s1 r f h hbad => ?_, fun ring id s s1 s2 r f h hok hin => ?_,
      fun order free d hs => mergeHead_eps_of_inf⟩,
    fun s id r status i0 i1 i2 i3 roff imm block hreplay => ⟨deliver_memory hreplay, deliver_network_dead hreplay, fun hroute hlive => ?_⟩⟩
  · obtain ⟨order, free, hdo⟩ := doMerge_delivers (id := id) hok hin
    exact ⟨order, free, mergedHeads order free r bs, mergedHeads_length, fun j => mergedHeads_get, by rw [exec_merge_of_admits h, hdo]⟩
  · rw [exec_merge_of_admits h, doMerge_field_bad hbad]
  · rw [exec_merge_of_admits h, doMerge_input_bad hok hin]
  · obtain ⟨x, hx, hput, hothers, hhost, hdev⟩ := postMsg_of_live (m := resultMsg r roff imm block) hlive
    exact ⟨_, x, deliver_network hreplay hroute hlive, hx, hput, hothers, hhost, hdev⟩

end Sys2Proof.Proofs.Merge
end

section
/-! PROOF. What admission leaves of a descriptor: the opcode that was asked for. -/
namespace Sys2Proof.Proofs.RingTrim
open Sys2Proof.Machine Sys2Proof.Safety

theorem step6_desc (s : State) (r : Req) : (step6 s r).2.1.desc = r.desc := by
  simp only [step6, apply_ite (fun x : Option Fail × Req × State => x.2.1.desc), ite_self]

theorem step7_desc (s : State) (r : Req) : (step7 s r).2.1.desc = r.desc := by
  unfold step7
  dsimp only
  split <;> rfl

theorem steps69_desc {s s1 : State} {r r1 : Req} {f : Option Fail} (h : steps69 s r = (f, r1, s1)) : r1.desc = r.desc := by
  have hdesc : (steps69 s r).2.1.desc = r.desc := by
    unfold steps69
    have hsix : (if skips67 (dOpcode r.desc) then (none, r, s) else step6 s r).2.1.desc = r.desc := by
      split
      · rfl
      · exact step6_desc s r
    dsimp only
    generalize (if skips67 (dOpcode r.desc) then (none, r, s) else step6 s r) = x6 at hsix
    obtain ⟨f6, r6, s6⟩ := x6
    cases f6 with
    | some f => exact hsix
    | none =>
      have hseven : (if skips67 (dOpcode r.desc) then (none, r6, s6) else step7 s6 r6).2.1.desc = r.desc := by
        split
        · exact hsix
        · exact (step7_desc s6 r6).trans hsix
      dsimp only
      generalize (if skips67 (dOpcode r.desc) then (none, r6, s6) else step7 s6 r6) = x7 at hseven
      obtain ⟨f7, r7, s7⟩ := x7
      cases f7 with
      | some f => exact hseven
      | none =>
        dsimp only
        cases step8 r7 <;> exact hseven
  rw [h] at hdesc
  exact hdesc

theorem passStep2_desc (s : State) (r : Req) : (passStep2 s r).1.desc = r.desc := by
  unfold passStep2 numberReq
  cases captGroup (dOpcode r.desc) with
  | none => rfl
  | some g =>
    dsimp only
    split <;> rfl

theorem steps24_desc {s s1 : State} {ring src id : Nat} {g : Ring} {d : List Byte} {r : Req} (h : steps24 s ring src g d = (some (id, r), s1)) :
    r.desc = d := by
  simp only [steps24] at h
  split at h
  · simp at h
  · split at h
    · simp at h
    · split at h
      · simp at h
      · obtain ⟨⟨-, hr⟩, -⟩ := by simpa only [Prod.mk.injEq, Option.some.injEq] using h
        rw [← hr]
        exact passStep2_desc _ _

theorem frontDesc_passes {s : State} {ring src : Nat} {g : Ring} {d : List Byte} {p : List Byte → Bool} (h : frontDesc s ring p = some (src, d, g)) :
    p d = true := by
  simp only [frontDesc] at h
  split at h
  · simp at h
  · split at h
    · simp at h
    · split at h
      case isTrue hgo =>
        simp only [Option.some.injEq, Prod.mk.injEq] at h
        obtain ⟨-, rfl, -⟩ := h
        exact (Bool.and_eq_true_iff.mp hgo).1
      · simp at h

/-- A descriptor that a command admits has the opcode of that command. -/
theorem admits_opcode {s s1 : State} {ring op id : Nat} {r : Req} (h : Admits s ring op id r s1) : dOpcode r.desc = op := by
  obtain ⟨d, r0, s0, ⟨src, g, hfront, hearly⟩, hlate⟩ := h
  have hp := frontDesc_passes hfront
  simp only [Bool.and_eq_true, decide_eq_true_eq] at hp
  rw [steps69_desc hlate, steps24_desc hearly, hp.1]

end Sys2Proof.Proofs.RingTrim
end

section
/-! PROOF. Plans attach to conversations, pins hold ranges (R133, R244, R246). -/
namespace Sys2Proof.Proofs.PlanPin
open Sys2Proof.Machine Sys2Proof.Safety Sys2Proof.Proofs.RingTrim

/-! ### `PLAN` -/

section
variable {ring : Fin 4096} {id : Nat} {s s0 s1 : State} {r : Req}

/-- The attachment is of the conversation that a descriptor names. -/
def ofConv (k : ShelfKey) (a : PlanAt) : Bool := decide (a.part = k.part) && decide (a.tenant = k.tenant) && decide (a.conv = k.conv)

/-- The attachment that a `PLAN` makes. -/
def planAt (r : Req) : PlanAt :=
  { part := (dKey r.desc).part, tenant := (dKey r.desc).tenant, conv := (dKey r.desc).conv, plan := le r.desc 0x18 2, depth := le r.desc 0x1A 1 }

/-- What a `PLAN` does once the conversation is known to be here. -/
def attachPlan (s : State) (id : Nat) (r : Req) : State :=
  if le r.desc 0x18 2 = 0 then
    complete { s with tiers := { s.tiers with plans := s.tiers.plans.filter (fun a => !ofConv (dKey r.desc) a) } } id r 0x00 0 0 0 0 0
  else if le r.desc 0x1A 1 = 0 ∨ le r.desc 0x1A 1 > 8 then failReq s id r { status := 0x32, detail := 0x1A }
  else if s.tiers.plans.any (ofConv (dKey r.desc)) then
    complete { s with tiers := { s.tiers with plans := s.tiers.plans.map (fun a => if ofConv (dKey r.desc) a then planAt r else a) } } id r 0x00 0 0 0 0 0
  else if s.tiers.plans.length ≥ 262144 then failReq s id r { status := 0x41, detail := 0x09 }
  else complete { s with tiers := { s.tiers with plans := s.tiers.plans ++ [planAt r] } } id r 0x00 0 0 0 0 0

/-- A `PLAN` of a conversation whose shelf is here, or is neither here nor to be pulled, attaches. -/
theorem exec_plan_attaches (h : Looks s ring.val 0x06 id r s0)
    (hhere : lookup s0 (dKey r.desc) ≠ none ∧ s1 = s0 ∨ Absent s0 (dKey r.desc) s1) : exec (.plan ring) s = .next (attachPlan s1 id r) := by
  obtain ⟨sa, hadm, rfl⟩ := h
  have hop : exec (.plan ring) s = .next (doPlan sa id r) := congrArg Host.Outcome.next (admitOp_of_admits doPlan hadm)
  rw [hop]
  obtain ⟨hlook, rfl⟩ | ⟨hlook, hpull, htable⟩ := hhere
  · obtain ⟨x, hx⟩ := Option.ne_none_iff_exists'.mp hlook
    simp only [doPlan, hx]
    rfl
  · simp only [doPlan, hlook, hpull, htable]
    rfl

end

/-! ### `PIN` -/

section
variable {ring : Fin 4096} {id i : Nat} {s s1 : State} {r : Req} {sh : Shelf}

theorem exec_pin_of_found (h : Looks s ring.val 0x07 id r s1) (hf : Found s1 (dKey r.desc) i sh) :
    exec (.pin ring) s = .next (pinFound s1 id r i sh) := by
  obtain ⟨s0, hadm, rfl⟩ := h
  have hop : exec (.pin ring) s = .next (doPin s0 id r) := congrArg Host.Outcome.next (admitOp_of_admits doPin hadm)
  rw [hop, doPin, withShelf_of_found hf]

theorem pinFound_unpins {x : PinRange} (hun : bit (le r.desc 0x20 1) 7 = true)
    (hx : sh.pins.find? (fun x => decide (x.first = (pinRange r).first) && decide (x.endp = (pinRange r).endp)) = some x) :
    pinFound s id r i sh = complete (s.setShelf i { sh with pins := sh.pins.erase x }) id r 0x00 0 0 0 0 0 := by
  simp only [pinFound, hun, hx]
  rfl

theorem pinFound_unpins_nothing (hun : bit (le r.desc 0x20 1) 7 = true)
    (hx : sh.pins.find? (fun x => decide (x.first = (pinRange r).first) && decide (x.endp = (pinRange r).endp)) = none) :
    pinFound s id r i sh = failReq s id r { status := 0x32, detail := 0x18 } := by
  simp only [pinFound, hun, hx]
  rfl

theorem pinFound_full (hpin : bit (le r.desc 0x20 1) 7 = false) (hfull : 4 ≤ sh.pins.length ∨
      rd s (pgPart r.part + 0x214) * 2 ^ 20 < pinnedCount (s.setShelf i { sh with pins := sh.pins ++ [pinRange r] }) r.part * 33032) :
    pinFound s id r i sh = failReq s id r { status := 0x41, detail := 0x08 } := by
  rw [pinFound, if_neg (by simp [hpin]), if_pos hfull]
  rfl

theorem pinFound_pins (hpin : bit (le r.desc 0x20 1) 7 = false) (hfew : sh.pins.length < 4)
    (hshare : pinnedCount (s.setShelf i { sh with pins := sh.pins ++ [pinRange r] }) r.part * 33032 ≤ rd s (pgPart r.part + 0x214) * 2 ^ 20) :
    pinFound s id r i sh = pinCheck (pinWork ((s.setShelf i { sh with pins := sh.pins ++ [pinRange r] }).setReq id { r with shelf := some i })
      i (r.ring / 1024) id) i := by
  rw [pinFound, if_neg (by simp [hpin]), if_neg (not_or.mpr ⟨Nat.not_le.mpr hfew, Nat.not_lt.mpr hshare⟩)]

/-- What is put under a key above all that are there comes last. -/
theorem tput_above {α : Type} {t : Tab α} {k : Nat} {v : α} (h : ∀ e ∈ t, e.1 < k) : tput t k v = t ++ [(k, v)] := by
  induction t with
  | nil => rfl
  | cons e t ih =>
    obtain ⟨k', v'⟩ := e
    have hk : k' < k := h _ List.mem_cons_self
    have htail : ∀ e ∈ t, e.1 < k := fun e he => h e (List.mem_cons_of_mem _ he)
    simp only [tput, if_pos hk, ih htail, List.cons_append]

/-- On a shelf without drawers a pin has no work. -/
theorem pinWork_of_empty {die req : Nat} (hsh : s.shelf? i = some sh) (hnone : sh.drawers = []) : pinWork s i die req = s := by
  simp only [pinWork, hsh, hnone, List.filter_nil, List.foldl_nil, ite_self]

/-- The only `PIN` of a shelf without drawers completes. -/
theorem pinCheck_of_empty (hsh : s.shelf? i = some sh) (hnone : sh.drawers = []) (hpend : pendingPins s i = [(id, r)]) :
    pinCheck s i = complete s id r 0x00 0 0 0 0 0 := by
  simp only [pinCheck, hpend, List.foldl_cons, List.foldl_nil, hsh, hnone, List.all_nil, if_true]
  rfl

/-- A `PIN` on a shelf without pending ones is the only one there, once it is held. -/
theorem pendingPins_setReq (hop : dOpcode r.desc = 0x07) (hnone : pendingPins s i = []) (habove : ∀ e ∈ s.reqs, e.1 < id) :
    pendingPins (s.setReq id { r with shelf := some i }) i = [(id, { r with shelf := some i })] := by
  have hreqs : (s.setReq id { r with shelf := some i }).reqs = s.reqs ++ [(id, { r with shelf := some i })] := tput_above habove
  unfold pendingPins at hnone ⊢
  rw [hreqs, List.filter_append, hnone]
  simp [hop]

end

/-- Settles O19: the branches of `PLAN` and of `PIN`. -/
theorem plansAttachAndPinsHold : Obligations.PlansAttachAndPinsHold := by
  refine ⟨fun ring id s s0 s1 r h hhere => ?_, fun ring id i s s1 r sh h hf => ?_⟩
  · simp only [exec_plan_attaches h hhere, attachPlan]
    refine ⟨fun h0 => ?_, fun h0 h1 h8 hmine => ?_, fun h0 h1 h8 hmine hroom => ?_, fun h0 hbad => ?_, fun h0 h1 h8 hmine hfull => ?_⟩
    · rw [if_pos h0]
      rfl
    · rw [if_neg h0, if_neg (by omega), if_pos (by exact hmine)]
      rfl
    · rw [if_neg h0, if_neg (by omega), if_neg (by exact ne_true_of_eq_false hmine), if_neg (Nat.not_le.mpr hroom)]
      rfl
    · rw [if_neg h0, if_pos hbad]
    · rw [if_neg h0, if_neg (by omega), if_neg (by exact ne_true_of_eq_false hmine), if_pos hfull]
  · simp only [exec_pin_of_found h hf]
    refine ⟨fun x hun hx => congrArg _ (pinFound_unpins hun hx), fun hun hx => congrArg _ (pinFound_unpins_nothing hun hx),
      fun hpin hfull => congrArg _ (pinFound_full hpin hfull), fun hpin hfew hshare => congrArg _ (pinFound_pins hpin hfew hshare),
      fun hpin hfew hshare hempty hpend habove => congrArg _ ?_⟩
    obtain ⟨s0, hadm, -⟩ := h
    rw [pinFound_pins hpin hfew hshare]
    have hsh : (s1.setShelf i { sh with pins := sh.pins ++ [pinRange r] }).shelf? i = some { sh with pins := sh.pins ++ [pinRange r] } :=
      (Laws.shelf_setShelf ..).trans (if_pos rfl)
    refine Eq.trans (congrArg (pinCheck · i) (pinWork_of_empty hsh ?_)) (pinCheck_of_empty hsh ?_ (pendingPins_setReq (admits_opcode hadm) ?_ ?_))
    · exact hempty
    · exact hempty
    · exact hpend
    · exact habove

end Sys2Proof.Proofs.PlanPin
end

section
/-! PROOF. `SEARCH` delivers exact scores of visible items (R294-R301, R305, R307). -/
namespace Sys2Proof.Proofs.Search
open Sys2Proof.Machine Sys2Proof.Safety Sys2Proof.Proofs.RingTrim

/-! ### What a sort and a scan keep -/

theorem mem_insertBy {α : Type} {before : α → α → Bool} {a x : α} {l : List α} : x ∈ insertBy before a l ↔ x = a ∨ x ∈ l := by
  induction l with
  | nil => simp [insertBy]
  | cons b l ih =>
    rw [insertBy]
    split
    · simp
    · simp only [List.mem_cons, ih]
      exact or_left_comm

theorem mem_sortBy {α : Type} {before : α → α → Bool} {x : α} {l : List α} : x ∈ sortBy before l ↔ x ∈ l := by
  induction l with
  | nil => rfl
  | cons a l ih => rw [sortBy, mem_insertBy, ih, List.mem_cons]

theorem mem_of_mem_scanBest {v : VIndex} {q : List F32} {its : List Item} {n : Nat} {i : Item} (h : i ∈ scanBest v q its n) : i ∈ its := by
  obtain ⟨e, he, rfl⟩ := List.mem_map.mp h
  obtain ⟨j, hj, rfl⟩ := List.mem_map.mp (mem_sortBy.mp (List.mem_of_mem_take he))
  exact hj

theorem mem_ranked {v : VIndex} {q : List F32} {prog : List Byte} {farg : Nat} {its : List Item} {e : F32 × Nat} (h : e ∈ ranked v q prog farg its) :
    ∃ i ∈ its, e = (metricScore v.metric 11 q (itemVec v i), i.id) ∧ filterPass prog farg i.attr = true := by
  obtain ⟨i, hi, rfl⟩ := List.mem_map.mp (mem_sortBy.mp h)
  obtain ⟨hmem, hpass⟩ := List.mem_filter.mp hi
  exact ⟨i, hmem, rfl, hpass⟩

/-- What a search sees of an item. -/
def Seen (snap : Nat) (i : Item) : Prop := i.seq ≤ snap ∧ i.lost = false ∧ ∀ n : Nat, i.del = some n → snap < n

theorem seen_of_seenAt {snap : Nat} {i : Item} (h : seenAt snap i = true) : Seen snap i := by
  simp only [seenAt, Bool.and_eq_true, decide_eq_true_eq, Bool.not_eq_true'] at h
  obtain ⟨⟨hseq, hlost⟩, hdel⟩ := h
  refine ⟨hseq, hlost, fun n hn => ?_⟩
  simpa [hn] using hdel

theorem mem_items_of_mem_scanned {v : VIndex} {r : Req} {x : Srch} {i : Item} (h : i ∈ scanned v r x) : i ∈ v.items ∧ Seen r.snap i := by
  obtain ⟨hmem, hseen⟩ := List.mem_filter.mp h
  simp only [Bool.and_eq_true] at hseen
  exact ⟨hmem, seen_of_seenAt hseen.1.1⟩

/-- The end of a scan keeps its candidates and has only visible items read. -/
theorem endScan_reads_seen (s : State) (id : Nat) (r : Req) (x : Srch) : ∃ (kept todo : List Nat) (step : SearchStep),
    endScan s id r x = startRank s id r { x with kept := kept, todo := todo } step ∧ (∀ l ∈ x.kept, l ∈ kept) ∧
    ∀ l ∈ todo, ∃ i ∈ (searchIndex s r x).items, i.loc = l ∧ Seen r.snap i := by
  refine ⟨_, _, _, rfl, fun l hl => List.mem_append_left _ hl, fun l hl => ?_⟩
  rw [List.mem_eraseDups, List.mem_append] at hl
  obtain hnew | hsample := hl
  · obtain ⟨i, hi, rfl⟩ := List.mem_map.mp (List.mem_filter.mp hnew).1
    obtain ⟨hmem, hseen⟩ := mem_items_of_mem_scanned (mem_of_mem_scanBest hi)
    exact ⟨i, hmem, rfl, hseen⟩
  · split at hsample
    · obtain ⟨i, hi, rfl⟩ := List.mem_map.mp hsample
      obtain ⟨hmem, hseen⟩ := List.mem_filter.mp hi
      exact ⟨i, hmem, rfl, seen_of_seenAt (Bool.and_eq_true_iff.mp hseen).1⟩
    · exact absurd hsample List.not_mem_nil

/-! ### The results of a search -/

section
variable {v : VIndex} {r : Req} {x : Srch}

/-- The results are the first `TOPK` of a ranking of items whose records have been read. -/
theorem searchFound_res (v : VIndex) (r : Req) (x : Srch) : ∃ its : List Item, (∀ i ∈ its, i ∈ v.items ∧ i.loc ∈ x.read) ∧
    (searchFound v r x).res = (ranked v r.query r.sprog (le r.desc 0x2C 8) its).take (srTopk r.desc) ∧
    ((searchFound v r x).res.length < srTopk r.desc → (searchFound v r x).short = true) := by
  unfold searchFound
  dsimp only
  split
  · refine ⟨_, fun i hi => ?_, rfl, fun hshort => ?_⟩
    · obtain ⟨hmem, hread⟩ := List.mem_filter.mp hi
      exact ⟨hmem, List.contains_iff_mem.mp hread⟩
    · exact Bool.or_eq_true_iff.mpr (.inl (decide_eq_true hshort))
  · refine ⟨_, fun i hi => ?_, rfl, fun hshort => ?_⟩
    · obtain ⟨hmem, hread⟩ := List.mem_filter.mp hi
      exact ⟨hmem, List.contains_iff_mem.mp (Bool.and_eq_true_iff.mp hread).2⟩
    · refine decide_eq_true ?_
      dsimp only at hshort
      rw [List.length_take] at hshort
      omega

theorem searchFound_exact_scores {e : F32 × Nat} (h : e ∈ (searchFound v r x).res) :
    ∃ i ∈ v.items, e = (metricScore v.metric 11 r.query (itemVec v i), i.id) ∧ i.loc ∈ x.read ∧
      filterPass r.sprog (le r.desc 0x2C 8) i.attr = true := by
  obtain ⟨its, hits, hres, -⟩ := searchFound_res v r x
  obtain ⟨i, hi, heq, hpass⟩ := mem_ranked (List.mem_of_mem_take (hres ▸ h))
  exact ⟨i, (hits i hi).1, heq, (hits i hi).2, hpass⟩

theorem searchFound_length : (searchFound v r x).res.length ≤ srTopk r.desc := by
  obtain ⟨its, -, hres, -⟩ := searchFound_res v r x
  rw [hres]
  exact List.length_take_le _ _

end

/-! ### The command, its tasks and its end -/

section
variable {s s1 s2 : State} {id : Nat} {r : Req} {x : Srch} {b : List Byte}

theorem exec_search_of_admits {ring : Fin 4096} (h : Admits s ring.val 0x10 id r s1) : exec (.search ring) s = .next (doSearch s1 id r) :=
  congrArg Host.Outcome.next (admitOp_of_admits doSearch h)

theorem doSearch_field_bad {f : Fail} (h : searchFail s r (indexOf s r.part (le r.desc 0x0C 2)).2 = some f) : doSearch s id r = failReq s id r f := by
  simp only [doSearch, h]

/-- The search that a descriptor asks of an index. -/
def srchOf (r : Req) (v : VIndex) : Srch :=
  { home := v.home, np := if le r.desc 0x1C 2 = 0 then v.nprobe else le r.desc 0x1C 2, cand := if le r.desc 0x20 4 = 0 then v.cand else le r.desc 0x20 4 }

/-- The request of a search once its query has been read. -/
def searching (r : Req) (v : VIndex) (since : Nat) (b : List Byte) : Req :=
  { r with snap := v.vis, query := srcElems (bits (le r.desc 0x1E 1) 0 2) v.dims b, bucket := some 7, since := since, cap := r.cap.map (fun c => { c with input := b }) }

theorem doSearch_of_query {v : VIndex} (hv : (indexOf s r.part (le r.desc 0x0C 2)).2 = v) (hreplay : r.replay = false) (hok : searchFail s r v = none)
    (hread : refRead s r.part (le r.desc 0x10 8) (v.dims * srcSize (bits (le r.desc 0x1E 1) 0 2)) = (some b, s2))
    (hfinite : (srcElems (bits (le r.desc 0x1E 1) 0 2) v.dims b).all srcOk = true) : doSearch s id r =
      if (v.tblBad || v.benchBad) = true then failSearch s2 id (searching r v s2.time.ns b) (srchOf r v) { status := 0x22 }
      else startStep s2 id (searching r v s2.time.ns b) (srchOf r v) .coarse (ceilDiv v.nlist 65536) := by
  subst hv
  have hsnap : ∀ a b : Nat, (if r.replay = true then a else b) = b := fun a b => if_neg (by simp [hreplay])
  simp only [doSearch, hok, hread, hfinite, hsnap]
  rfl

theorem dispatchTask_runs {run tile : Nat} {t : Run} (ht : r.runs[run]? = some t) (hphase : t.phase = .queued) (hturn : hasTurn s id r x.home = true)
    (htile : taskOk s id r x tile = true) : dispatchTask s id r x run tile = runTask s id r x run tile := by
  simp [dispatchTask, ht, hphase, hturn, htile]

theorem endRank_ends (h : srWiden r.desc = false ∨ x.step ≠ .rank ∨ srTopk r.desc ≤ (rankedCands (searchIndex s r x) r x).length) :
    endRank s id r x = searchEnded (deliver s id r (if (searchFound (searchIndex s r x) r x).short then 0x01 else 0x00)
      (searchFound (searchIndex s r x) r x).res.length (searchFound (searchIndex s r x) r x).cands 0 0 (le r.desc 0x24 4) (le r.desc 0x28 4)
      (resultBlock r.desc r.snap (searchFound (searchIndex s r x) r x))) r x := by
  have hnot : ¬ (srWiden r.desc = true ∧ x.step = .rank ∧ (rankedCands (searchIndex s r x) r x).length < srTopk r.desc) := by
    rintro ⟨hwiden, hrank, hfew⟩
    obtain hno | hstep | hmany := h
    · exact Bool.noConfusion (hno.symm.trans hwiden)
    · exact hstep hrank
    · exact Nat.not_lt.mpr hmany hfew
  simp only [endRank, if_neg hnot]
  rfl

end

/-- Settles O20: the start of a search, its tasks, its scan and its results. -/
theorem searchDeliversItsResults : Obligations.SearchDeliversItsResults := by
  refine ⟨fun ring id s s1 s2 r b h hreplay => ?_, fun ring id s s1 r f h hbad => ?_, fun req run tile s r x t hserve hr hx ht hphase hturn htile => ?_,
    fun req run s r x hserve hr hx => ?_, endScan_reads_seen, fun s id r x => endRank_ends,
    fun v r x => ⟨searchFound_length, ?_, fun e => searchFound_exact_scores⟩⟩
  · intro v q x r1 hok hread hfinite
    rw [exec_search_of_admits h, doSearch_of_query rfl hreplay hok hread hfinite]
    refine ⟨fun htbl hbench => ?_, fun hbad => ?_⟩
    · rw [if_neg (by simp [v, htbl, hbench])]
      rfl
    · rw [if_pos (Bool.or_eq_true_iff.mpr hbad)]
      rfl
  · rw [exec_search_of_admits h, doSearch_field_bad hbad]
  · simp only [exec, execRunDispatch, hserve, hr, hx]
    exact congrArg Host.Outcome.next (dispatchTask_runs ht hphase hturn htile)
  · simp only [exec, execRunDispatch, hserve, hr, hx]
    rfl
  · obtain ⟨-, -, -, hshort⟩ := searchFound_res v r x
    exact hshort

end Sys2Proof.Proofs.Search
end

section
/-! PROOF. Index updates take numbers, merges switch at once (R290-R293, R303-R305, R308). -/
namespace Sys2Proof.Proofs.Search
open Sys2Proof.Machine Sys2Proof.Safety Sys2Proof.Proofs.RingTrim

/-! ### Numbers -/

theorem deleteItem_seq (v : VIndex) (id n : Nat) : (deleteItem v id n).seq = v.seq := by
  unfold deleteItem
  split <;> rfl

theorem insertItems_seq {held : List Nat} {fmt first : Nat} : ∀ {v : VIndex} {l : List (List Byte)} {i : Nat},
    (insertItems v held fmt first l i).seq = v.seq
  | _, [], _ => rfl
  | v, b :: l, i => by
    rw [insertItems, insertItems_seq]
    exact deleteItem_seq ..

theorem deleteAll_seq {first : Nat} : ∀ {v : VIndex} {l : List Nat} {i : Nat}, (deleteAll v first l i).seq = v.seq
  | _, [], _ => rfl
  | v, x :: l, i => by
    rw [deleteAll, deleteAll_seq]
    split
    · exact deleteItem_seq ..
    · rfl

/-! ### `VINSERT` and `VDELETE` -/

section
variable {ring : Fin 4096} {id k n fmt : Nat} {s s1 s2 s3 : State} {r : Req} {b : List Byte} {recs : List (List Byte)}

theorem exec_vinsert_of_admits (h : Admits s ring.val 0x11 id r s1) : exec (.vinsert ring) s = .next (doVinsert s1 id r) :=
  congrArg Host.Outcome.next (admitOp_of_admits doVinsert h)

theorem exec_vdelete_of_admits (h : Admits s ring.val 0x12 id r s1) : exec (.vdelete ring) s = .next (doVdelete s1 id r) :=
  congrArg Host.Outcome.next (admitOp_of_admits doVdelete h)

theorem doVinsert_count_bad (h : le r.desc 0x0E 2 = 0 ∨ 4096 < le r.desc 0x0E 2) : doVinsert s id r = failReq s id r { status := 0x32, detail := 0x0E } := by
  exact if_pos h

theorem doVdelete_count_bad (h : le r.desc 0x0E 2 = 0 ∨ 4096 < le r.desc 0x0E 2) : doVdelete s id r = failReq s id r { status := 0x32, detail := 0x0E } := by
  exact if_pos h

/-- A request with the input that it has read. -/
def withInput (r : Req) (b : List Byte) : Req := { r with cap := r.cap.map (fun c => { c with input := b }) }

/-- The records of a `VINSERT`'s source. -/
def sourceRecs (b : List Byte) (n size : Nat) : List (List Byte) := (List.range n).map (fun i => bslice b (i * size) size)

theorem doVinsert_of_source {v : VIndex} (hv : (indexOf s r.part (le r.desc 0x0C 2)).2 = v) (hk : (indexOf s r.part (le r.desc 0x0C 2)).1 = k)
    (hn : le r.desc 0x0E 2 = n) (hfmt : bits (le r.desc 0x18 1) 0 2 = fmt) (hone : 1 ≤ n) (hmax : n ≤ 4096)
    (href : refFail s r.part r.desc 0x10 (n * itemBytes v fmt) = none)
    (hread : refRead s r.part (le r.desc 0x10 8) (n * itemBytes v fmt) = (some b, s2)) (hrecs : sourceRecs b n (itemBytes v fmt) = recs)
    (hfinite : recs.all (fun x => (srcElems fmt v.dims (x.drop 32)).all srcOk) = true) : doVinsert s id r =
      match readTables (readIds s2 k (recs.map (fun x => le x 0 8))) k with
      | (false, s3) => vinsertFail s3 id (withInput r b) k n { status := 0x22 }
      | (true, s3) => vinsertItems s3 id (withInput r b) k fmt recs := by
  subst hv hk hn hfmt hrecs
  simp only [sourceRecs] at hfinite
  simp only [doVinsert, if_neg (show ¬ (le r.desc 0x0E 2 = 0 ∨ le r.desc 0x0E 2 > 4096) by omega), href, hread, hfinite] <;> rfl

theorem vinsertItems_inserts {v new : VIndex} {s4 s5 : State} (hv : tget {} s.vidx k = v) (hn : recs.length = n)
    (hnew : passNumbers (insertItems { v with seq := v.seq + n } (oldSlots s k) fmt (v.seq + 1) recs 0) = new) (hcab : s.chip.cabCap = true)
    (hwritable : s.cab.readOnly = false) (hcharge : takeCharge s r.part (indexCharge new - indexCharge v) none = (true, s4))
    (hshare : takeShare s4 r.part ((unitsHeld s4 k new).length - (unitsHeld s4 k v).length) none = (true, s5)) : vinsertItems s id r k fmt recs =
      complete ((new.items.filter (fun i => decide (i.seq ≥ v.seq + 1))).foldl (stageRecord k) (putIndex s5 k new)) id r
        0x00 0 ((v.seq + 1) % 2 ^ 32) ((v.seq + 1) / 2 ^ 32 % 2 ^ 32) 0 0 := by
  subst hv hn hnew
  simp only [vinsertItems, hcab, hwritable, hcharge, hshare]
  rfl

theorem doVdelete_deletes {v new : VIndex} {ids : List Nat} (hk : (indexOf s r.part (le r.desc 0x0C 2)).1 = k) (hn : le r.desc 0x0E 2 = n)
    (hone : 1 ≤ n) (hmax : n ≤ 4096)
    (href : refFail s r.part r.desc 0x10 (8 * n) = none) (hread : refRead s r.part (le r.desc 0x10 8) (8 * n) = (some b, s2))
    (hids : (List.range n).map (fun i => le b (8 * i) 8) = ids) (hv : tget {} (readIds s2 k ids).vidx k = v)
    (hnew : passNumbers (deleteAll { v with seq := v.seq + n } (v.seq + 1) ids 0) = new)
    (hcharge : takeCharge (readIds s2 k ids) r.part (indexCharge new - indexCharge v) none = (true, s3)) :
    doVdelete s id r = complete (putIndex s3 k new) id (withInput r b) 0x00 0 0 0 0 0 := by
  subst hk hn hids hv hnew
  simp only [doVdelete, if_neg (show ¬ (le r.desc 0x0E 2 = 0 ∨ le r.desc 0x0E 2 > 4096) by omega), href, hread, hcharge]
  rfl

end

/-! ### `VMERGE` and its switch -/

section
variable {ring : Fin 4096} {id : Nat} {s s1 s2 : State} {r : Req}

theorem exec_vmerge_of_admits (h : Admits s ring.val 0x13 id r s1) : exec (.vmerge ring) s = .next (doVmerge s1 id r) :=
  congrArg Host.Outcome.next (admitOp_of_admits doVmerge h)

theorem doVmerge_of_list_ok (h : le r.desc 0x10 4 < (indexOf s r.part (le r.desc 0x0C 2)).2.nlist ∨ le r.desc 0x10 4 = 0xFFFFFFFF) :
    doVmerge s id r = if (indexOf s r.part (le r.desc 0x0C 2)).2.building.isSome then s.setReq id r else startMerge s id r := by
  have hnot : ¬ (le r.desc 0x10 4 ≥ (indexOf s r.part (le r.desc 0x0C 2)).2.nlist ∧ le r.desc 0x10 4 ≠ 0xFFFFFFFF) := by omega
  simp only [doVmerge, if_neg hnot]

theorem doVmerge_list_bad (hno : (indexOf s r.part (le r.desc 0x0C 2)).2.nlist ≤ le r.desc 0x10 4) (hall : le r.desc 0x10 4 ≠ 0xFFFFFFFF) :
    doVmerge s id r = failReq s id r { status := 0x32, detail := 0x10 } := by
  simp only [doVmerge, if_pos (show _ ∧ _ from ⟨hno, hall⟩)]
  rfl

/-- The lists that a `VMERGE` names. -/
def mergeLists (r : Req) : Option Nat := if le r.desc 0x10 4 = 0xFFFFFFFF then none else some (le r.desc 0x10 4)

theorem startMerge_starts {k : Nat} {v : VIndex} (hkv : indexOf s r.part (le r.desc 0x0C 2) = (k, v))
    (hcharge : takeCharge s r.part (buildCharge v v.vis (mergeLists r)) none = (true, s2)) :
    startMerge s id r = putIndex (s2.setReq id r) k { v with building := some { req := id, b := v.vis, lists := mergeLists r } } := by
  have hcharge' : takeCharge s r.part (nowBuilding { v with building := some { req := id, b := v.vis, lists := mergeLists r } }) none = (true, s2) := hcharge
  unfold mergeLists at hcharge'
  simp only [startMerge, hkv, hcharge']
  rfl

theorem startMerge_full {k : Nat} {v : VIndex} (hkv : indexOf s r.part (le r.desc 0x0C 2) = (k, v))
    (hcharge : takeCharge s r.part (buildCharge v v.vis (mergeLists r)) none = (false, s2)) :
    startMerge s id r = failReq { s2 with vidx := tput s2.vidx k { v with statDue := v.statDue || decide (v.statRef ≠ 0) } } id r
      { status := 0x41, detail := 0x01 } := by
  have hcharge' : takeCharge s r.part (nowBuilding { v with building := some { req := id, b := v.vis, lists := mergeLists r } }) none = (false, s2) := hcharge
  unfold mergeLists at hcharge'
  simp only [startMerge, hkv, hcharge']
  rfl

end

/-- After a merge of every list up to B, what came up to B is merged, whole, and not deleted up to B. -/
theorem mergedItems_covered {v : VIndex} {b : Nat} {i : Item} (h : i ∈ (mergedItems v b none).items) (hseq : i.seq ≤ b) :
    i.merged = true ∧ i.lost = false ∧ ∀ n : Nat, i.del = some n → b < n := by
  obtain ⟨j, hj, rfl⟩ := List.mem_map.mp h
  obtain ⟨-, hkept⟩ := List.mem_filter.mp hj
  have hseq' : j.seq ≤ b := by
    rw [apply_ite Item.seq] at hseq
    simpa using hseq
  rw [if_pos ⟨rfl, hseq'⟩]
  simp only [Bool.true_and, Bool.not_eq_true', Bool.or_eq_false_iff, Bool.and_eq_false_iff, decide_eq_false_iff_not] at hkept
  obtain ⟨hcovered, hlost⟩ := hkept
  refine ⟨rfl, hlost.resolve_right (not_not_intro hseq'), fun n hn => ?_⟩
  rw [show j.del = some n from hn] at hcovered
  exact Nat.not_le.mp (of_decide_eq_false hcovered)

section
variable {part : Fin 32} {handle : Nat} {s u t : State} {v w : VIndex} {x : Building} {r : Req}

theorem exec_vmergeSwitch_switches (hv : tget? s.vidx (65536 * part.val + handle) = some v) (hx : v.building = some x) (hrm : s.stw.rm = .running)
    (hrepair : repairItems (keepOld s (65536 * part.val + handle) v) (65536 * part.val + handle) v x.lists = (w, u))
    (hput : putIndex u (65536 * part.val + handle) (passNumbers { mergedItems w x.b x.lists with seq := v.seq }) = t)
    (hr : tget? t.reqs x.req = some r) :
    exec (.vmergeSwitch part handle) s = .next (nextMerge (complete t x.req r 0x00 0 0 0 0 0) part.val handle) := by
  simp only [exec, execVmergeSwitch, hv, hx, hrm, hrepair, hput, hr]
  rfl

theorem exec_vmergeSwitch_waits (h : tget? s.vidx (65536 * part.val + handle) = none ∨ s.stw.rm ≠ .running ∨
    ∃ v, tget? s.vidx (65536 * part.val + handle) = some v ∧ v.building = none) : exec (.vmergeSwitch part handle) s = .next s := by
  simp only [exec, execVmergeSwitch]
  split
  · rfl
  · next v hv =>
    split
    · rfl
    · next x hx =>
      obtain hno | hrm | ⟨v', hv', hno⟩ := h
      · exact absurd (hno.symm.trans hv) nofun
      · rw [if_pos hrm]
      · obtain rfl : v' = v := Option.some.inj (hv'.symm.trans hv)
        exact absurd (hno.symm.trans hx) nofun

end

/-- Settles O21: the updates of an index, its merges and its status record. -/
theorem indexUpdatesAndMerges : Obligations.IndexUpdatesAndMerges := by
  refine ⟨⟨fun ring id s s1 s2 s3 s4 s5 r b h => ?_, fun ring id s s1 r h hbad => ?_, fun ring id s s1 s2 s3 r b h => ?_, fun ring id s s1 r h hbad => ?_⟩,
    fun ring id s s1 s2 r h => ?_, fun ring id s s1 r h hno hall => ?_, fun part handle s u t v w x r hv hx hrm hrepair hput hr => ?_,
    fun part handle s => exec_vmergeSwitch_waits, fun part handle s v hv => ?_, fun part handle s hno => ?_⟩
  · intro k v n fmt size recs r1 w new hone hmax href hread hfinite
    rw [exec_vinsert_of_admits h, doVinsert_of_source rfl rfl rfl rfl hone hmax href hread rfl hfinite]
    refine ⟨fun htables hcab hwritable hcharge hshare => ⟨insertItems_seq, insertItems_seq, ?_⟩, fun htables => ?_⟩
    · have hins := vinsertItems_inserts (id := id) (r := withInput r b) rfl (show recs.length = n by simp [recs]) rfl hcab hwritable hcharge hshare
      dsimp only [k, v, n, fmt, size, recs] at htables hins
      simp only [sourceRecs, htables, hins]
      rfl
    · dsimp only [k, v, n, fmt, size, recs] at htables
      simp only [sourceRecs, htables]
      rfl
  · rw [exec_vinsert_of_admits h, doVinsert_count_bad hbad]
  · intro k n ids u v new hone hmax href hread hcharge
    rw [exec_vdelete_of_admits h, doVdelete_deletes rfl rfl hone hmax href hread rfl rfl rfl hcharge]
    exact ⟨deleteAll_seq, deleteAll_seq, rfl⟩
  · rw [exec_vdelete_of_admits h, doVdelete_count_bad hbad]
  · intro k v lists v1 hok
    rw [exec_vmerge_of_admits h, doVmerge_of_list_ok hok]
    refine ⟨fun hfree hcharge => ?_, fun hfree hcharge => ?_, fun hbusy => ?_⟩
    · rw [if_neg (by simp [v, hfree]), startMerge_starts rfl hcharge]
      rfl
    · rw [if_neg (by simp [v, hfree]), startMerge_full rfl hcharge]
      rfl
    · rw [if_pos (Option.isSome_iff_ne_none.mpr hbusy)]
  · rw [exec_vmerge_of_admits h, doVmerge_list_bad hno hall]
  · exact ⟨exec_vmergeSwitch_switches hv hx hrm hrepair hput hr, rfl, rfl, fun i => mergedItems_covered⟩
  · simp only [exec, execStatusRecordWrite, hv]
    exact ⟨fun hdue => if_pos hdue, fun hdue => if_neg (by simp [hdue])⟩
  · simp only [exec, execStatusRecordWrite, hno]

end Sys2Proof.Proofs.Search
end

section
/-! PROOF. A pull posts its two READs one after another (R405-R409). -/
namespace Sys2Proof.Proofs.Pulls
open Sys2Proof.Machine Sys2Proof.Safety

/-! ### A pull on a live queue pair

The port numbers its messages in the order in which they are posted: the two READs of a pull have numbers that differ. -/

/-- `MOVE_PULL` of partition 1, conversation 7, with profile 1. -/
def pullDesc : List Byte := [0x20, 0, 1] ++ List.replicate 13 0 ++ [7] ++ List.replicate 19 0 ++ [1] ++ List.replicate 27 0

/-- The device with the `MOVE_PULL` at the front of ring 5, and its profile. -/
def beforePull : State :=
  { dev := { state := .serve, pagesOpen := true }, parts := [(1, { state := .live, keys := some 0 })], objects := [(65537, { kind := 1, bytes := [1, 1] ++ List.replicate 14 0 })],
    rings := [(5, { part := 1, cbase := 0x20000, inflight := 1, taken := [(4, pullDesc)] })] }

def pullReq : Req := { ring := 5, desc := pullDesc, order := 1, part := 1, tclass := some 0, objs := [1] }

/-- The same device once the `MOVE_PULL` has passed step 9. -/
def afterChecks : State :=
  { beforePull with
    nextId := 2, parts := [(1, { state := .live, keys := some 0, meter := { admitN := 1 } })],
    rings := [(5, { part := 1, cbase := 0x20000, inflight := 1 })], regs := [(0x28110, 1)] }

theorem beforePull_admits : Admits beforePull (5 : Fin 4096).val 0x20 1 pullReq afterChecks :=
  ⟨pullDesc, { pullReq with tclass := none }, { afterChecks with regs := [] },
    ⟨4, { part := 1, cbase := 0x20000, inflight := 1 }, by decide +kernel, by decide +kernel⟩, by decide +kernel⟩

/-- The device with one queue pair, that of peer 0 of partition 0, which has posted nothing yet. -/
def onePeer : State := { qps := [(0x100000, {})] }

/-- The numbers of the messages that a queue pair holds. -/
def messageNumbers (s : State) (q : Nat) : List Nat := ((tget? s.qps q).map (fun x => x.out.map (·.seq))).getD []

theorem messageNumbers_startPull : messageNumbers (startPull onePeer {}).2 (peerQpn onePeer 0 0) = [0, 1] := by decide +kernel

/-- Refutes O22: the statement gives both READs of a pull the number 0, but the port numbers the messages that it is given one after another. On a queue
pair that has posted nothing they are numbered 0 and 1. -/
theorem not_pullsBringShelves : ¬ Obligations.PullsBringShelves := by
  unfold Obligations.PullsBringShelves
  rintro ⟨hmove, -⟩
  obtain ⟨-, -, hstart⟩ := hmove 5 1 beforePull afterChecks afterChecks pullReq beforePull_admits
  obtain ⟨-, -, hposts⟩ := hstart onePeer {}
  obtain ⟨a, b, y, hy, hout⟩ := hposts {} (by decide +kernel) rfl
  have hnumbers : messageNumbers (startPull onePeer {}).2 (peerQpn onePeer 0 0) = [0, 0] := by
    simp [messageNumbers, show tget? (startPull onePeer {}).2.qps (peerQpn onePeer 0 0) = some y from hy, hout]
  rw [messageNumbers_startPull] at hnumbers
  exact absurd hnumbers (by decide)

end Sys2Proof.Proofs.Pulls
end

section
/-! PROOF. Mirrors are seeded, fed and acknowledged (R270, R411-R417). -/
namespace Sys2Proof.Proofs.Mirrors
open Sys2Proof.Machine Sys2Proof.Safety Sys2Proof.Proofs.RingTrim

/-! ### `MIRROR_SET` -/

section
variable {ring : Fin 4096} {id i : Nat} {s s1 : State} {r : Req} {sh : Shelf}

theorem exec_mirrorSet_of_admits (h : Admits s ring.val 0x21 id r s1) : exec (.mirrorSet ring) s = .next (doMirrorSet s1 id r) :=
  congrArg Host.Outcome.next (admitOp_of_admits doMirrorSet h)

theorem doMirrorSet_absent (hlook : lookup s (dKey r.desc) = none) : doMirrorSet s id r = failReq s id r { status := 0x32, detail := 0x18 } := by
  simp only [doMirrorSet, hlook]
  rfl

theorem doMirrorSet_lost (hlook : lookup s (dKey r.desc) = some (i, sh)) (hlost : sh.state = .lost) :
    doMirrorSet s id r = failReq s id r { status := 0x20 } := by
  simp only [doMirrorSet, hlook, if_pos hlost]
  rfl

theorem doMirrorSet_found (hlook : lookup s (dKey r.desc) = some (i, sh)) (hkept : sh.state ≠ .lost) :
    doMirrorSet s id r = mirrorFound s id r i sh := by
  simp only [doMirrorSet, hlook, if_neg hkept]

theorem mirrorFound_copy (hcopy : sh.copy = true) : mirrorFound s id r i sh = failReq s id r { status := 0x50 } := by
  exact if_pos hcopy

theorem mirrorFound_single (hcopy : sh.copy = false) (hlink : sh.link = none) (hsh : s.shelf? i = some sh) (hmode : le r.desc 0x1C 1 = 0) :
    mirrorFound s id r i sh = complete (s.setShelf i { sh with durab := .single }) id r 0x00 0 0 0 0 0 := by
  simp only [mirrorFound, if_neg (ne_true_of_eq_false hcopy), if_pos hmode, hlink, hsh]
  rfl

theorem mirrorFound_no_peer (hcopy : sh.copy = false) (hmode : le r.desc 0x1C 1 ≠ 0)
    (hno : inboxOn s r.part = false ∨ peerOf s r.part (le r.desc 0x18 4) = none) :
    mirrorFound s id r i sh = failReq s id r { status := 0x32, detail := 0x18 } := by
  simp only [mirrorFound, if_neg (ne_true_of_eq_false hcopy), if_neg hmode]
  split
  · rfl
  · next hinbox =>
    obtain hoff | hpeer := hno
    · exact absurd hoff (by simpa using hinbox)
    · simp only [hpeer]
      rfl

theorem mirrorFound_starts {peer : Nat} (hcopy : sh.copy = false) (hlink : sh.link = none) (hsh : s.shelf? i = some sh) (hmode : le r.desc 0x1C 1 ≠ 0)
    (hinbox : inboxOn s r.part = true) (hpeer : peerOf s r.part (le r.desc 0x18 4) = some peer)
    (hhere : sh.drawers.any (fun d => decide (d.loc = .remote)) = false) :
    mirrorFound s id r i sh = startLink s id r i sh peer (decide (le r.desc 0x1C 1 = 1)) := by
  simp only [mirrorFound, if_neg (ne_true_of_eq_false hcopy), if_neg hmode, hinbox, hpeer, hhere, hlink, hsh]
  rfl

end

/-! ### Entries of a sub-inbox -/

section
variable {s : State} {p peer : Nat} {b : List Byte}

theorem exec_mirrorEntry_applies {part : Fin 32} {peer : Fin 64} (hreach : hostReach s = true) (hmin : 32 ≤ b.length)
    (hline : b.length % 64 = 0) (hmax : b.length ≤ 262144) (hlen : le b 4 4 = b.length) (hkind : le b 0 1 ≤ 6) (hinbox : inboxOn s part.val = true)
    (hpeer : peerValid s part.val peer.val = true) (hopen : partOpen s part.val = true) :
    exec (.mirrorEntry part peer b) s = .next (mirrorApply s part.val peer.val b) := by
  have hform : ¬ (b.length < 32 ∨ b.length % 64 ≠ 0 ∨ b.length > 262144 ∨ le b 4 4 ≠ b.length ∨ le b 0 1 > 6) := by omega
  simp only [exec, execMirrorEntry, hreach, if_neg hform, hinbox, hpeer, hopen]
  rfl

theorem mirrorApply_pad (hkind : le b 0 1 = 0) : mirrorApply s p peer b = consumed s p peer b.length := if_pos hkind

theorem mirrorApply_refuse (hkind : le b 0 1 = 5) : mirrorApply s p peer b =
    match linkOfKey (consumed s p peer b.length) p peer (meKey p b) with
    | some l => linkRefused (consumed s p peer b.length) l (le b 0x18 4) (le b 0x1C 4 % 256)
    | none => consumed s p peer b.length := by
  simp only [mirrorApply, hkind] <;> rfl

section
variable (hpad : le b 0 1 ≠ 0) (hrefuse : le b 0 1 ≠ 5)
include hpad hrefuse

theorem mirrorApply_fenced (hfenced : (s.part p).state = .fenced) : mirrorApply s p peer b = refuseEntry s p peer b 0x12 := by
  rw [mirrorApply, if_neg hpad, if_neg hrefuse, if_pos hfenced]
  rfl

theorem mirrorApply_excluded (hserves : (s.part p).state ≠ .fenced) (hout : peerExcluded s p peer = true) :
    mirrorApply s p peer b = refuseEntry s p peer b 0x11 := by
  rw [mirrorApply, if_neg hpad, if_neg hrefuse, if_neg hserves, if_pos hout]
  rfl

/-- An entry that is neither padding nor a refusal, from a peer that may send it. -/
theorem mirrorApply_of_allowed (hserves : (s.part p).state ≠ .fenced) (hin : peerExcluded s p peer = false) : mirrorApply s p peer b =
    match if le b 0 1 = 1 then some (applySeed s p peer b) else applyToCopy s p peer b with
    | none => s
    | some (.error st) => refuseEntry s p peer b st
    | some (.ok s1) => if acksEntry b then sendAck (consumed s1 p peer b.length) p peer (meSeq b) else consumed s1 p peer b.length := by
  rw [mirrorApply, if_neg hpad, if_neg hrefuse, if_neg hserves, if_neg (ne_true_of_eq_false hin)] <;> rfl

end

theorem acksEntry_records (hkind : le b 0 1 = 2) : acksEntry b = bit (le b 1 1) 0 := by simp [acksEntry, hkind]
theorem acksEntry_seed (hkind : le b 0 1 = 1) : acksEntry b = false := by simp [acksEntry, hkind]
theorem acksEntry_told (hkind : le b 0 1 = 3 ∨ le b 0 1 = 4 ∨ le b 0 1 = 6) : acksEntry b = true := by
  obtain h | h | h := hkind <;> simp [acksEntry, h]

theorem applyToCopy_absent (hlook : lookup s (meKey p b) = none) : applyToCopy s p peer b = some (.error 0x20) := by
  simp only [applyToCopy, hlook]
  rfl

/-- What an entry does to a live copy of its sender's shelf, by its kind. -/
theorem applyToCopy_of_copy {i : Nat} {sh : Shelf} (hlook : lookup s (meKey p b) = some (i, sh)) (hlive : sh.state = .live) (hcopy : sh.copy = true)
    (hfrom : sh.copyPeer = peer) : applyToCopy s p peer b = match le b 0 1 with
      | 2 => if sh.tails.isEmpty then applyRecords s i sh b else none
      | 3 => some (.ok (applyTrim s i sh b))
      | 4 => some (.ok (dropOne s i))
      | _ => some (.ok (s.setShelf i { sh with endPos := copyEnd sh, visible := copyEnd sh, start := ringStart sh (copyEnd sh) })) := by
  have hok : ¬ (sh.state ≠ .live ∨ sh.copy = false ∨ sh.copyPeer ≠ peer) := by simp [hlive, hcopy, hfrom]
  simp only [applyToCopy, hlook, if_neg hok] <;> rfl

end

/-! ### Acknowledgements and stalls -/

section
variable {part : Fin 32} {peer : Fin 64} {s s0 s1 : State} {b : List Byte}

/-- What `MIRROR_ACK` does with the control line that it reads. -/
theorem exec_mirrorAck_reads (hreach : hostReach s = true) (hinbox : inboxOn s part.val = true)
    (hread : devRead s part.val (refAddr (rd64 s (pgPart part.val + 0x140)) + peer.val * inboxBytes s part.val + 8) 12 = (some b, s0))
    (hs1 : s0.setSub part.val peer.val { s0.subIn part.val peer.val with ackd := max (s0.subIn part.val peer.val).ackd (le b 0 8) } = s1) :
    exec (.mirrorAck part peer) s = .next ((linksTo s1 part.val peer.val).foldl reapLink
      ((linksTo s1 part.val peer.val).foldl (fun s l => match tget? s.links l with | some x => drainLink s l (x.backlog.length + 1) | none => s)
        ((linksTo s1 part.val peer.val).foldl (ackLink (le b 8 4) (le b 0 8)) s1))) := by
  subst hs1
  simp only [exec, execMirrorAck, hreach, hinbox, hread]
  rfl

theorem exec_mirrorStall_waits {link : Nat} (h : tget? s.links link = none ∨ ∃ x, tget? s.links link = some x ∧ (x.sent = [] ∨ x.stalled = true ∨
    ∀ t : Nat, x.since = some t → stewardMs s < t + 100)) : exec (.mirrorStall link) s = .next s := by
  obtain hno | ⟨x, hx, hwhy⟩ := h
  · simp only [exec, execMirrorStall, hno]
  · simp only [exec, execMirrorStall, hx]
    refine if_pos ?_
    obtain hsent | hstalled | hearly := hwhy
    · simp [hsent]
    · simp [hstalled]
    · cases ht : x.since with
      | none => simp
      | some t => simp [hearly t ht]

theorem exec_mirrorStall_raises {link t : Nat} {x : Link} (hx : tget? s.links link = some x) (hsent : x.sent ≠ []) (hfirst : x.stalled = false)
    (ht : x.since = some t) (hlate : t + 100 ≤ stewardMs s) :
    exec (.mirrorStall link) s = .next (raise { s with links := tput s.links link { x with stalled := true } } (pgPart x.part) 3 []) := by
  simp only [exec, execMirrorStall, hx]
  exact if_neg (by simp [hsent, hfirst, ht, hlate])

end

/-- Settles O23: `MIRROR_SET`, the kinds of entries, the acknowledgement and the stall. -/
theorem mirrorsAreKept : Obligations.MirrorsAreKept := by
  refine ⟨fun ring id s s1 r h => ⟨fun hlook => ?_, fun i sh hlook => ⟨fun hlost => ?_, fun hkept hcopy => ?_, fun hkept hcopy hlink hsh =>
      ⟨fun hmode => ?_, fun hmode hno => ?_, fun peer hmode hinbox hpeer hhere => ⟨fun s2 hread => ?_, fun w s2 hread => ?_⟩⟩⟩⟩,
    fun part peer b s => exec_mirrorEntry_applies, fun s p peer b => mirrorApply_pad, fun s p peer b hpad hrefuse =>
      ⟨mirrorApply_fenced hpad hrefuse, mirrorApply_excluded hpad hrefuse, fun hserves hin hseed => ⟨fun hlook => ?_, fun i sh hlook hlive hcopy hfrom => ?_⟩⟩,
      fun s p peer b hkind => ⟨fun hno => ?_, fun l hl => ?_⟩, fun s p peer b hkind hserves hin => ⟨fun st hst => ?_, fun s1 hs1 => ?_⟩,
      fun part peer s s0 b hreach hinbox hread => ?_,
    fun link t s x => exec_mirrorStall_raises, fun link s => exec_mirrorStall_waits⟩
  · rw [exec_mirrorSet_of_admits h, doMirrorSet_absent hlook]
  · rw [exec_mirrorSet_of_admits h, doMirrorSet_lost hlook hlost]
  · rw [exec_mirrorSet_of_admits h, doMirrorSet_found hlook hkept, mirrorFound_copy hcopy]
  · rw [exec_mirrorSet_of_admits h, doMirrorSet_found hlook hkept, mirrorFound_single hcopy hlink hsh hmode]
  · rw [exec_mirrorSet_of_admits h, doMirrorSet_found hlook hkept, mirrorFound_no_peer hcopy hmode hno]
  · rw [exec_mirrorSet_of_admits h, doMirrorSet_found hlook hkept, mirrorFound_starts hcopy hlink hsh hmode hinbox hpeer hhere]
    simp only [startLink, hread]
  · rw [exec_mirrorSet_of_admits h, doMirrorSet_found hlook hkept, mirrorFound_starts hcopy hlink hsh hmode hinbox hpeer hhere]
    simp only [startLink, hread]
  · rw [mirrorApply_of_allowed hpad hrefuse hserves hin, if_neg hseed, applyToCopy_absent hlook]
  · rw [mirrorApply_of_allowed hpad hrefuse hserves hin, if_neg hseed, applyToCopy_of_copy hlook hlive hcopy hfrom]
    refine ⟨fun st hkind htails hst => ?_, fun hkind hwait => ?_, fun s1 hkind htails hs1 => ?_, fun hkind => ?_, fun hkind => ?_, fun hkind => ?_⟩
    · simp only [hkind, htails, hst, List.isEmpty_nil, if_true]
    · have hnone : (if sh.tails.isEmpty then applyRecords s i sh b else none) = none := by
        obtain htails | hrecs := hwait
        · exact if_neg (by simpa using htails)
        · rw [hrecs, ite_self]
      simp only [hkind, hnone]
    · simp only [acksEntry_records hkind, hkind, htails, hs1, List.isEmpty_nil, if_true]
    · simp only [acksEntry_told (.inl hkind), hkind, if_true]
    · simp only [acksEntry_told (.inr (.inl hkind)), hkind, if_true]
    · simp only [acksEntry_told (.inr (.inr hkind)), hkind, if_true]
  · simp only [mirrorApply_refuse hkind, hno]
  · simp only [mirrorApply_refuse hkind, hl]
  · rw [mirrorApply_of_allowed (by omega) (by omega) hserves hin, if_pos hkind, hst]
  · rw [mirrorApply_of_allowed (by omega) (by omega) hserves hin, if_pos hkind, hs1]
    simp only [acksEntry_seed hkind]
    rfl
  · intro s1
    have hack := exec_mirrorAck_reads hreach hinbox hread (s1 := s1) rfl
    rw [show linksTo s1 part.val peer.val = linksTo s0 part.val peer.val from rfl] at hack
    refine ⟨fun hno => by rw [hack, hno]; rfl, fun l x hone hx => ?_⟩
    rw [hack, hone]
    simp only [List.foldl_cons, List.foldl_nil, hx]

end Sys2Proof.Proofs.Mirrors
end

section
/-! PROOF. Objects are loaded, unloaded and freed (R129-R134, R287). -/
namespace Sys2Proof.Proofs.Objects
open Sys2Proof.Machine Sys2Proof.Safety Sys2Proof.Laws Sys2Proof.Proofs.RingTrim

/-! ### `LOAD` -/

section
variable {s s1 s2 s3 : State} {p kind handle h : Nat} {b dig : List Byte}

/-- The object that a `LOAD` installs. -/
def loadedObj (kind : Nat) (b : List Byte) : Obj := { kind := kind, bytes := b, f16x := decide (kind = 2) && f16Exact (bf16s b) }

/-- A `LOAD` that passes its checks installs its object and extends the chain of its partition by it. -/
theorem loadObject_ok (h0 : loadObject s p kind handle b = (.ok (h, dig), s3)) :
    tget? s3.objects (65536 * p + h) = some (loadedObj kind b) ∧ (handle ≠ 0 → h = handle) ∧ (handle = 0 → freeHandle s p = some h) ∧
      (kind ≠ 7 → dig = sha3 b) ∧ (s3.part p).chain = sha3 (padTo (s.part p).chain 32 ++ leBytes 1 kind ++ leBytes 2 h ++ dig) ∧
      (s3.part p).nload = (s.part p).nload + 1 := by
  unfold loadObject at h0
  split at h0
  · simp at h0
  split at h0
  · simp at h0
  next t s1 hcheck =>
    have hkeep := keeps_contentCheck s p kind b (.refl s) (.refl _)
    rw [hcheck] at hkeep
    have hparts : s1.parts = s.parts := hkeep.frame .parts rfl
    have hobjects : s1.objects = s.objects := hkeep.frame .objects rfl
    split at h0
    · simp at h0
    next h' hhandle =>
      dsimp only at h0
      split at h0
      · simp at h0
      next s2 hcharge =>
        have hkeep2 := keeps_takeCharge s1 p (up64 b.length + (if kind = 7 then (newIndex p h' b t).charge else 0)) none (.refl s1) (.refl _)
        rw [hcharge] at hkeep2
        have hparts2 : s2.parts = s.parts := (hkeep2.frame .parts rfl).trans hparts
        simp only [Prod.mk.injEq, Except.ok.injEq] at h0
        obtain ⟨⟨rfl, rfl⟩, rfl⟩ := h0
        have hpart : s2.part p = s.part p := by rw [State.part, hparts2]; rfl
        refine ⟨(tget_tput ..).trans (if_pos rfl), fun hne => ?_, fun hzero => ?_, fun hkind => ?_, ?_, ?_⟩
        · rw [if_neg hne] at hhandle
          exact (Option.some.inj hhandle).symm
        · rw [if_pos hzero] at hhandle
          rw [← hhandle, freeHandle, freeHandle, hobjects]
        · rw [loadDigestBytes, if_neg hkind]
        · rw [← hpart]
          exact congrArg Part.chain ((part_setPart ..).trans (if_pos rfl))
        · rw [← hpart]
          exact congrArg Part.nload ((part_setPart ..).trans (if_pos rfl))

end

section
variable {ring : Fin 4096} {id : Nat} {s s1 s2 : State} {r : Req} {b : List Byte}

theorem exec_load_of_admits (h : Admits s ring.val 0x30 id r s1) : exec (.load ring) s = .next (doLoad s1 id r) :=
  congrArg Host.Outcome.next (admitOp_of_admits doLoad h)

theorem doLoad_handle_taken (hne : le r.desc 0x0E 2 ≠ 0) (htaken : tget? s.objects (65536 * r.part + le r.desc 0x0E 2) ≠ none) :
    doLoad s id r = failReq s id r { status := 0x32, detail := 0x0E } :=
  if_pos ⟨hne, Option.isSome_iff_ne_none.mpr htaken⟩

/-- A `LOAD` whose handle is free and whose length is in its kind's range does what the check of its bytes says. -/
theorem doLoad_of_bytes (hfree : le r.desc 0x0E 2 = 0 ∨ tget? s.objects (65536 * r.part + le r.desc 0x0E 2) = none)
    (hlen : lenRange (le r.desc 0x0C 1) (le r.desc 0x18 4) = true)
    (hread : refRead s r.part (le r.desc 0x10 8) (le r.desc 0x18 4) = (some b, s2)) : doLoad s id r =
      match loadObject s2 r.part (le r.desc 0x0C 1) (le r.desc 0x0E 2) b with
      | (.error f, s3) => failReq s3 id { r with cap := r.cap.map (fun k => { k with input := b }) } f
      | (.ok (h, dig), s3) => complete s3 id { r with cap := r.cap.map (fun k => { k with input := b }) } 0x00 0 h (le dig 0 4) (le dig 4 4) 0 := by
  have hnot : ¬ (le r.desc 0x0E 2 ≠ 0 ∧ (tget? s.objects (65536 * r.part + le r.desc 0x0E 2)).isSome = true) := by
    rintro ⟨hne, htaken⟩
    obtain hzero | hnone := hfree
    · exact hne hzero
    · simp [hnone] at htaken
  simp only [doLoad, if_neg hnot, hlen, hread] <;> rfl

end

/-! ### `UNLOAD` -/

section
variable {ring : Fin 4096} {id : Nat} {s s1 s2 : State} {r : Req}

theorem exec_unload_of_admits (h : Admits s ring.val 0x31 id r s1) : exec (.unload ring) s = .next (doUnload s1 id r) :=
  congrArg Host.Outcome.next (admitOp_of_admits doUnload h)

theorem doUnload_marks {o : Obj} (ho : tget? s.objects (65536 * r.part + le r.desc 0x0C 2) = some o) (hfirst : o.unloading = false) :
    doUnload s id r = complete { s with objects := tput s.objects (65536 * r.part + le r.desc 0x0C 2) { o with unloading := true } } id r 0x00 0
      (objRefs s r.part (le r.desc 0x0C 2)) 0 0 0 := by
  simp only [doUnload, ho, if_neg (ne_true_of_eq_false hfirst)]
  rfl

/-- An `UNLOAD` names one handle and no data: step 4 refuses it where that handle has no live object. -/
theorem step4_unload {d : List Byte} (hdesc : r.desc = d) (hop : dOpcode d = 0x31)
    (hno : tget? s.objects (65536 * r.part + le d 0x0C 2) = none ∨ ∃ o : Obj, tget? s.objects (65536 * r.part + le d 0x0C 2) = some o ∧ o.unloading = true) :
    step4 s r = some (0x0C, { status := 0x32, detail := 0x0C }) := by
  subst hdesc
  have hdead : liveObj s r.part (le r.desc 0x0C 2) 0 = none := by
    obtain hnone | ⟨o, ho, hgoing⟩ := hno
    · simp [liveObj, hnone]
    · simp [liveObj, ho, hgoing]
  have hrefs : refsFail s r.part r.desc = none := by simp [refsFail, refFields, hop]
  have hhandle : badHandle s r.part r.desc = some 0x0C := by simp [badHandle, handleFields, hop, hdead]
  simp only [step4, hrefs, hhandle]
  rfl

theorem exec_unload_absent {src : Nat} {d : List Byte} {g : Ring}
    (hfront : frontDesc s ring.val (fun d => decide (dOpcode d = 0x31) && !dArm d) = some (src, d, g)) (hpart : le d 2 2 = g.part)
    (hcount : passStep2 (newId (s.setRing ring.val g)).2
      { ring := ring.val, desc := d, order := (newId (s.setRing ring.val g)).1, part := g.part, src := src } = (r, s2))
    (hdesc : r.desc = d) (hop : dOpcode d = 0x31) (hstate : stateFail s2 r = none)
    (hno : tget? s2.objects (65536 * r.part + le d 0x0C 2) = none ∨
      ∃ o : Obj, tget? s2.objects (65536 * r.part + le d 0x0C 2) = some o ∧ o.unloading = true) :
    exec (.unload ring) s = .next (failReq s2 (newId (s.setRing ring.val g)).1 r { status := 0x32, detail := 0x0C }) := by
  have hroute : routeSeen s2 r 0x0C = r := by simp [routeSeen, routeOffset, hdesc, hop]
  have hearly : steps24 s ring.val src g d = (none, failReq s2 (newId (s.setRing ring.val g)).1 r { status := 0x32, detail := 0x0C }) := by
    simp only [steps24, if_neg (not_not_intro hpart), hcount, hstate, step4_unload hdesc hop hno, hroute]
  simp only [exec, execUnload, admitOp, hfront, hearly]

end

/-! ### Freeing -/

section
variable {part : Fin 32} {h : Nat} {s : State} {o : Obj} (hmin : 1 ≤ h) (hmax : h ≤ 65535)
include hmin hmax

theorem exec_objectFree_of_object (ho : tget? s.objects (65536 * part.val + h) = some o) : exec (.objectFree part h) s =
    if (o.unloading && decide (objRefs s part.val h = 0)) = true then .next
      { (if o.kind = 7 then (recordsOf s (65536 * part.val + h)).foldl dropUnit s else s) with
        objects := tdel (if o.kind = 7 then (recordsOf s (65536 * part.val + h)).foldl dropUnit s else s).objects (65536 * part.val + h)
        vidx := if o.kind = 7 then tdel (if o.kind = 7 then (recordsOf s (65536 * part.val + h)).foldl dropUnit s else s).vidx (65536 * part.val + h)
          else (if o.kind = 7 then (recordsOf s (65536 * part.val + h)).foldl dropUnit s else s).vidx }
    else .next s := by
  simp only [exec, execObjectFree, if_neg (show ¬ (h = 0 ∨ h > 65535) by omega), ho]

theorem exec_objectFree_absent (ho : tget? s.objects (65536 * part.val + h) = none) : exec (.objectFree part h) s = .next s := by
  simp only [exec, execObjectFree, if_neg (show ¬ (h = 0 ∨ h > 65535) by omega), ho]

end

/-- Settles O24: the outcomes of `LOAD`, of `UNLOAD`, and of `OBJECT_FREE`. -/
theorem objectsComeAndGo : Obligations.ObjectsComeAndGo := by
  refine ⟨fun ring id h s s1 s2 s3 r b dig hadm hfree hlen hread hload => ?_, fun ring id s s1 r hadm hne htaken => ?_,
    fun ring id s s1 s2 s3 r b f hadm hfree hlen hread hload => ?_, fun ring id s s1 r o hadm ho hfirst => ?_,
    fun ring src d s s2 g r => exec_unload_absent, fun part h s o hmin hmax ho => ⟨fun hgoing hrefs hkind => ?_, fun hgoing hrefs hkind => ?_, fun hkept => ?_⟩,
    fun part h s => exec_objectFree_absent⟩
  · refine ⟨?_, loadObject_ok hload⟩
    rw [exec_load_of_admits hadm, doLoad_of_bytes hfree hlen hread, hload]
  · rw [exec_load_of_admits hadm, doLoad_handle_taken hne htaken]
  · rw [exec_load_of_admits hadm, doLoad_of_bytes hfree hlen hread, hload]
  · rw [exec_unload_of_admits hadm, doUnload_marks ho hfirst]
  · rw [exec_objectFree_of_object hmin hmax ho, if_pos (by simp [hgoing, hrefs])]
    simp only [if_neg hkind]
  · rw [exec_objectFree_of_object hmin hmax ho, if_pos (by simp [hgoing, hrefs])]
    simp only [if_pos hkind]
  · rw [exec_objectFree_of_object hmin hmax ho, if_neg]
    simpa using fun hgoing => hkept.resolve_left (by simp [hgoing])

end Sys2Proof.Proofs.Objects
end

section
/-! PROOF. Fences move the epoch and the state of a partition (R396, R399-R402, R416, R419, R455). -/
namespace Sys2Proof.Proofs.Fences
open Sys2Proof.Machine Sys2Proof.Safety Sys2Proof.Laws Sys2Proof.Proofs.RingTrim

/-! ### `FENCE` -/

section
variable {ring : Fin 4096} {id : Nat} {s s1 s2 : State} {r : Req} {b : List Byte}

/-- A failed fence carries C. -/
def fenceFail (s : State) (id : Nat) (r : Req) (c status detail : Nat) : State := failReq s id r { status := status, detail := detail, i0 := c }

/-- The requests of the partition that a fence may wait for. -/
def olderThanFence (s : State) (id p : Nat) : List Nat := (s.reqs.filter (fun e => decide (e.2.part = p) && decide (e.1 ≠ id))).map (·.1)

/-- What a fence that is well formed, verifies and is newer than C does. -/
def fenceNewer (s : State) (id : Nat) (r : Req) (b : List Byte) (c : Nat) : State :=
  if tkKind b = 3 ∧ (s.part r.part).state ≠ .fenced then fenceFail s id r c 0x32 0x10
  else if tkKind b ≠ 3 ∧ (s.part r.part).state ≠ .live then fenceFail s id r c 0x12 0
  else if tkKind b = 0 ∨ tkKind b = 3 then complete (applyFence (s.setReq id r) r.part b) id r 0x00 0 (tkEpoch b) 0 0 0
  else (applyFence (s.setReq id r) r.part b).setPart r.part { (applyFence (s.setReq id r) r.part b).part r.part with
    fences := ((applyFence (s.setReq id r) r.part b).part r.part).fences ++ [{ req := id, older := olderThanFence s id r.part }] }

/-- What a fence that is well formed does. -/
def fenceFormed (s : State) (id : Nat) (r : Req) (b : List Byte) (c : Nat) : State :=
  if (!tokenOk s r.part b) = true then fenceFail s id r c 0x50 0
  else if tkEpoch b < c then fenceFail s id r c 0x11 0
  else if tkEpoch b = c then complete s id r 0x00 0 c 0 0 0
  else fenceNewer s id r b c

theorem exec_fence_of_token (h : Admits s ring.val 0x3F id r s1) (href : refFail s1 r.part r.desc 0x10 (le r.desc 0x18 2) = none)
    (hread : refRead s1 r.part (le r.desc 0x10 8) (le r.desc 0x18 2) = (some b, s2)) : exec (.fence ring) s =
      .next (match tokenBad r.desc b r.part with
        | some o => fenceFail s2 id r (partC s1 r.part) 0x32 o
        | none => fenceFormed s2 id r b (partC s1 r.part)) := by
  have hop : exec (.fence ring) s = .next (doFence s1 id r) := congrArg Host.Outcome.next (admitOp_of_admits doFence h)
  rw [hop]
  refine congrArg Host.Outcome.next ?_
  simp only [doFence, href, hread] <;> rfl

theorem exec_fenceComplete_completes {part : Fin 32} {f : FenceWait} {rest : List FenceWait} (hfences : (s.part part.val).fences = f :: rest)
    (hrm : s.stw.rm = .running) (hdone : allDone s f.older = true) (hr : tget? s.reqs f.req = some r) : exec (.fenceComplete part) s =
      .next (complete (s.setPart part.val { s.part part.val with fences := rest }) f.req r 0x00 0 (le r.desc 0x0C 4) 0 0 0) := by
  have hr' : tget? (s.setPart part.val { s.part part.val with fences := rest }).reqs f.req = some r := hr
  have hgo : ¬ (s.stw.rm ≠ .running ∨ allDone s f.older = false) := by simp [hrm, hdone]
  simp only [exec, execFenceComplete, hfences, if_neg hgo, hr']
  rfl

theorem exec_fenceComplete_waits {part : Fin 32} (h : (s.part part.val).fences = [] ∨ s.stw.rm ≠ .running ∨
    ∃ f rest, (s.part part.val).fences = f :: rest ∧ allDone s f.older = false) : exec (.fenceComplete part) s = .next s := by
  simp only [exec, execFenceComplete]
  split
  · rfl
  · next f rest hfences =>
    refine if_pos ?_
    obtain hnone | hrm | ⟨f', rest', hfences', hopen⟩ := h
    · exact absurd (hnone.symm.trans hfences) nofun
    · exact .inl hrm
    · obtain ⟨rfl, rfl⟩ := List.cons.inj (hfences'.symm.trans hfences)
      exact .inr hopen

end

/-! ### The effects of the kinds -/

/-- A partition once its period has closed and C and F have changed. -/
def fencedEpoch (s : State) (p : Nat) (b : List Byte) : State :=
  firstEpoch (wr (wr (closePeriod s p 1) (pgPart p + 0x114) (tkEpoch b)) (pgPart p + 0x118)
    (if tkKind b = 0 then max (partF s p) (tkFloor b) else tkEpoch b)) p

theorem applyFence_advance {s : State} {p : Nat} {b : List Byte} (h : tkKind b = 0) : applyFence s p b =
    raise ((fencedEpoch s p b).setPart p { (fencedEpoch s p b).part p with
      graceEnd := some (stewardMs (fencedEpoch s p b) + rdf (fencedEpoch s p b) (pgPart p + 0x11C) 0 14) }) (pgPart p) 0 [] := by
  simp only [applyFence, fencedEpoch, h]

theorem applyFence_exclude {s : State} {p : Nat} {b : List Byte} (h : tkKind b = 1) :
    applyFence s p b = raise (applyExclude (fencedEpoch s p b) p (tkNodes b)) (pgPart p) 0 [] := by
  simp only [applyFence, fencedEpoch, h]

theorem applyFence_exit {s : State} {p : Nat} {b : List Byte} (h : tkKind b = 2) :
    applyFence s p b = raise (applyExit (fencedEpoch s p b) p) (pgPart p) 0 [] := by
  simp only [applyFence, fencedEpoch, h]

theorem applyFence_rejoin {s : State} {p : Nat} {b : List Byte} (h : tkKind b = 3) :
    applyFence s p b = raise (applyRejoin (fencedEpoch s p b) p) (pgPart p) 0 [] := by
  simp only [applyFence, fencedEpoch, h]

section
variable (s : State) (p : Nat) (nodes : List Nat)

/-- A copy that an excluded node fed is promoted; any other shelf stays as it is. -/
def promote (p : Nat) (hit : Nat → Bool) (e : Nat × Shelf) : Nat × Shelf :=
  if e.2.key.part = p ∧ e.2.copy = true ∧ hit e.2.copyPeer = true then (e.1, { e.2 with copy := false, durab := .single, degraded := e.2.copyAsync }) else e

theorem promote_of_copy {hit : Nat → Bool} {e : Nat × Shelf} (hpart : (promote p hit e).2.key.part = p) (hcopy : (promote p hit e).2.copy = true) :
    hit (promote p hit e).2.copyPeer = false := by
  unfold promote at hpart hcopy ⊢
  split at hcopy
  · exact absurd hcopy (by simp)
  · next hnot =>
    rw [if_neg hnot] at hpart ⊢
    exact eq_false_of_ne_true fun hhit => hnot ⟨hpart, hcopy, hhit⟩

theorem promote_keeps_records (hit : Nat → Bool) (e : Nat × Shelf) : ((promote p hit e).1, (promote p hit e).2.drawers, (promote p hit e).2.endPos,
    (promote p hit e).2.visible) = (e.1, e.2.drawers, e.2.endPos, e.2.visible) := by
  unfold promote
  split <;> rfl

/-- `EXCLUDE` cuts the links to the nodes, promotes the copies that they fed, and fails the pulls from them. -/
theorem applyExclude_steps : ∃ (u v : State) (hit : Nat → Bool),
    u = cutLinks (s.setPart p { s.part p with graceEnd := none, excluded := ((s.part p).excluded ++ nodes).eraseDups }) p 0x70 hit ∧
    (∀ peer : Nat, hit peer = nodes.contains (peerNode s p peer)) ∧ applyExclude s p nodes = failPulls v p hit ∧ v = { u with dir := v.dir } ∧
    v.dir.shelves = u.dir.shelves.map (promote p hit) :=
  ⟨_, { cutLinks (s.setPart p { s.part p with graceEnd := none, excluded := ((s.part p).excluded ++ nodes).eraseDups }) p 0x70
      (fun peer => nodes.contains (peerNode s p peer)) with
        dir := { (cutLinks (s.setPart p { s.part p with graceEnd := none, excluded := ((s.part p).excluded ++ nodes).eraseDups }) p 0x70
          (fun peer => nodes.contains (peerNode s p peer))).dir with
            shelves := (cutLinks (s.setPart p { s.part p with graceEnd := none, excluded := ((s.part p).excluded ++ nodes).eraseDups }) p 0x70
              (fun peer => nodes.contains (peerNode s p peer))).dir.shelves.map (promote p (fun peer => nodes.contains (peerNode s p peer))) } },
    fun peer => nodes.contains (peerNode s p peer), rfl, fun _ => rfl, rfl, rfl, rfl⟩

/-- A partition as `REJOIN` leaves it. -/
def rejoined (t : Part) : Part := { t with state := .live, graceEnd := none, excluded := [], leaseFenced := false }

/-- After `REJOIN` the partition is live without a window and without excluded nodes, and has no link. -/
theorem applyRejoin_part : ((applyRejoin s p).part p).state = .live ∧ ((applyRejoin s p).part p).graceEnd = none ∧
    ((applyRejoin s p).part p).excluded = [] := by
  have hparts : (applyRejoin s p).parts = tset {} s.parts p (rejoined (s.part p)) := rfl
  have hpart : (applyRejoin s p).part p = rejoined (s.part p) := by rw [State.part, hparts, tgetd_tset, if_pos rfl]
  rw [hpart]
  exact ⟨rfl, rfl, rfl⟩

theorem applyRejoin_links : ∀ e ∈ (applyRejoin s p).links, e.2.part ≠ p := fun _ he => of_decide_eq_true (List.mem_filter.mp he).2

theorem applyRejoin_shelves : ∀ e ∈ (applyRejoin s p).dir.shelves, e.2.key.part = p →
    e.2.link = none ∧ e.2.copy = false ∧ e.2.durab = .single ∧ e.2.degraded = false := by
  intro e he hpart
  obtain ⟨x, -, rfl⟩ := List.mem_map.mp he
  split at hpart
  · next hmine =>
    rw [if_pos hmine]
    exact ⟨rfl, rfl, rfl, rfl⟩
  · next hnot => exact absurd hpart hnot

end

/-- Settles O25: the answers of a fence, and the effects of its kinds. -/
theorem fencesMoveEpochAndPartition : Obligations.FencesMoveEpochAndPartition := by
  refine ⟨⟨fun ring id s s1 s2 r b h href hread => ?_, fun part s f rest r => exec_fenceComplete_completes, fun part s => exec_fenceComplete_waits⟩,
    fun s p b => ⟨applyFence_advance, applyFence_exclude, applyFence_exit, applyFence_rejoin⟩, fun s p nodes => ?_,
    fun s p => ⟨_, _, rfl, rfl, rfl⟩, fun s p => ?_, fun part s e he => ⟨fun hdue => ?_, fun hopen => ?_⟩, fun part s hnone => ?_⟩
  · intro c older t
    simp only [exec_fence_of_token h href hread]
    refine ⟨fun o ho => by rw [ho]; rfl, fun hformed => ?_⟩
    simp only [hformed, fenceFormed]
    refine ⟨fun hbad => by rw [if_pos (by simp [hbad])]; rfl, fun hok => ?_⟩
    rw [if_neg (by simp [hok])]
    refine ⟨fun hold => by rw [if_pos hold]; rfl, fun hsame => by rw [if_neg (by omega), if_pos hsame], fun hnew => ?_⟩
    rw [if_neg (show ¬ tkEpoch b < partC s1 r.part by omega), if_neg (show ¬ tkEpoch b = partC s1 r.part by omega), fenceNewer]
    refine ⟨fun hkind hstate => by rw [if_pos ⟨hkind, hstate⟩]; rfl, fun hkind hstate => ?_, fun hgo => ?_, fun hzero hthree hlive => ?_⟩
    · rw [if_neg (fun hboth => hkind hboth.1), if_pos ⟨hkind, hstate⟩]
      rfl
    · obtain ⟨hkind, hstate⟩ | ⟨hkind, hstate⟩ := hgo
      · rw [if_neg (by simp [hkind]), if_neg (by simp [hstate]), if_pos (.inl hkind)]
      · rw [if_neg (by simp [hstate]), if_neg (by simp [hkind]), if_pos (.inr hkind)]
    · rw [if_neg (by simp [hthree]), if_neg (by simp [hlive]), if_neg (by simp [hzero, hthree])]
      rfl
  · obtain ⟨u, v, hit, hu, hhit, happly, hframe, hshelves⟩ := applyExclude_steps s p nodes
    refine ⟨u, v, hit, hu, hhit, happly, hframe, fun e he => ?_, ?_⟩
    · obtain ⟨x, -, rfl⟩ := List.mem_map.mp (hshelves ▸ he)
      exact promote_of_copy p
    · rw [hshelves, List.map_map]
      exact List.map_congr_left fun e _ => promote_keeps_records p hit e
  · obtain ⟨hstate, hgrace, hexcluded⟩ := applyRejoin_part s p
    exact ⟨hstate, hgrace, hexcluded, applyRejoin_links s p, applyRejoin_shelves s p⟩
  · simp only [exec, execGraceWindowClose, he]
    exact if_pos hdue
  · simp only [exec, execGraceWindowClose, he]
    exact if_neg (Nat.not_le.mpr hopen)
  · simp only [exec, execGraceWindowClose, hnone]

end Sys2Proof.Proofs.Fences
end

section
/-! PROOF. Leases expire and metering periods close (R419, R421, R422). -/
namespace Sys2Proof.Proofs.Metering
open Sys2Proof.Machine Sys2Proof.Safety

/-! ### A lease -/

/-- The lease of a live partition has run out since a port was last up. -/
def leaseDue (s : State) (p : Nat) : Bool :=
  decide ((s.part p).state = .live) && decide (rdf s (pgPart p + 0x120) 0 16 > 0) && decide (stewardMs s - s.stw.lastUp > rdf s (pgPart p + 0x120) 0 16)

/-- A partition whose lease has run out is fenced, after its period has closed. -/
def leaseFence (s : State) (p : Nat) : State :=
  raise ((applyExit (firstEpoch (closePeriod s p 4) p) p).setPart p { (applyExit (firstEpoch (closePeriod s p 4) p) p).part p with leaseFenced := true })
    (pgPart p) 1 []

theorem exec_leaseExpiry_without_lease {s : State} (h : anyPortUp s = true ∨ s.chip.leaseCap = false) : exec .leaseExpiry s = .next s :=
  if_pos (by simpa using h)

theorem exec_leaseExpiry_fences {s : State} (hdown : anyPortUp s = false) (hcap : s.chip.leaseCap = true) :
    exec .leaseExpiry s = .next (((List.range 32).filter (leaseDue s)).foldl leaseFence s) :=
  if_neg (by simp [hdown, hcap])

theorem filter_range_eq_single (k : Fin 32) : (List.range 32).filter (fun p => decide (p = k.val)) = [k.val] := by
  decide +revert

theorem leaseDue_iff {s : State} {p : Nat} : leaseDue s p = true ↔ (s.part p).state = .live ∧ 0 < rdf s (pgPart p + 0x120) 0 16 ∧
    rdf s (pgPart p + 0x120) 0 16 < stewardMs s - s.stw.lastUp := by
  simp [leaseDue, and_assoc]

/-! ### The close of a period -/

section
variable {s : State} {p why : Nat}

theorem closePeriod_held (h : ¬ (rdf s (pgPart p + 0x168) 4 1 = 1 ∧
    (rd s (pgPart p + 0x16C) + 2 ^ 32 - rd s (pgPart p + 0x170)) % 2 ^ 32 < 2 ^ (4 + rdf s (pgPart p + 0x168) 0 4))) :
    closePeriod s p why = raise (s.setPart p { s.part p with mtrHeld := true }) (pgPart p) 5 [] := if_neg h

theorem closePeriod_records (hon : rdf s (pgPart p + 0x168) 4 1 = 1)
    (hroom : (rd s (pgPart p + 0x16C) + 2 ^ 32 - rd s (pgPart p + 0x170)) % 2 ^ 32 < 2 ^ (4 + rdf s (pgPart p + 0x168) 0 4)) :
    closePeriod s p why = wr
      ((refWrite s p (rd64 s (pgPart p + 0x160) + 128 * (rd s (pgPart p + 0x16C) % 2 ^ (4 + rdf s (pgPart p + 0x168) 0 4))) (meterRecord s p why)).setPart p
        { s.part p with meter := {}, pseq := ((s.part p).pseq + 1) % 2 ^ 32, pstart := stewardUs s, mtrHeld := false })
      (pgPart p + 0x16C) ((rd s (pgPart p + 0x16C) + 1) % 2 ^ 32) := if_pos ⟨hon, hroom⟩

end

/-- Settles O26: the lease, the hour, and where a period closes. -/
theorem leasesAndMeteringPeriods : Obligations.LeasesAndMeteringPeriods := by
  refine ⟨fun s => exec_leaseExpiry_without_lease, fun s part hdown hcap hdue => ?_, fun part s hthere => if_neg hthere, fun part s hfree => if_pos hfree,
    fun s p why => ⟨fun hoff => closePeriod_held (by simp [hoff]), fun hon hfull => closePeriod_held fun h => absurd h.2 (Nat.not_lt.mpr hfull),
      closePeriod_records⟩⟩
  have honly : (List.range 32).filter (leaseDue s) = [part.val] := by
    rw [← filter_range_eq_single part]
    refine List.filter_congr fun p hp => ?_
    rw [Bool.eq_iff_iff, leaseDue_iff, decide_eq_true_eq]
    exact hdue p (List.mem_range.mp hp)
  rw [exec_leaseExpiry_fences hdown hcap, honly]
  rfl

end Sys2Proof.Proofs.Metering
end

section
/-! PROOF. Fields of registers: what a field reads after it, or another register, has been written. -/
namespace Sys2Proof.Proofs.Frames
open Sys2Proof.Machine Sys2Proof.Laws

theorem bits_setBits (v lo n x : Nat) : bits (setBits v lo n x) lo n = x % 2 ^ n := by
  have hlo : 0 < 2 ^ lo := Nat.two_pow_pos lo
  have hn : 0 < 2 ^ n := Nat.two_pow_pos n
  have hset : setBits v lo n x = 2 ^ lo * (2 ^ n * (v / 2 ^ lo / 2 ^ n) + x % 2 ^ n) + v % 2 ^ lo := by
    have houter := Nat.div_add_mod v (2 ^ lo)
    have hinner := Nat.div_add_mod (v / 2 ^ lo) (2 ^ n)
    have hsplit : v = 2 ^ lo * (2 ^ n * (v / 2 ^ lo / 2 ^ n)) + v / 2 ^ lo % 2 ^ n * 2 ^ lo + v % 2 ^ lo := by
      calc v = 2 ^ lo * (2 ^ n * (v / 2 ^ lo / 2 ^ n) + v / 2 ^ lo % 2 ^ n) + v % 2 ^ lo := by rw [hinner, houter]
        _ = _ := by rw [Nat.mul_add, Nat.mul_comm (2 ^ lo) (v / 2 ^ lo % 2 ^ n)]
    unfold setBits bits
    rw [Nat.mul_add, Nat.mul_comm (2 ^ lo) (x % 2 ^ n)]
    omega
  rw [bits, hset, Nat.mul_add_div hlo, Nat.div_eq_of_lt (Nat.mod_lt v hlo), Nat.add_zero, Nat.mul_add_mod, Nat.mod_mod]

theorem bits_mod_word {v lo n : Nat} (h : lo + n ≤ 32) : bits (v % 2 ^ 32) lo n = bits v lo n := by
  have hword : 2 ^ 32 = 2 ^ lo * 2 ^ (32 - lo) := by rw [← Nat.pow_add]; congr 1; omega
  rw [bits, bits, hword, Nat.mod_mul_right_div_self, Nat.mod_mod_of_dvd _ (Nat.pow_dvd_pow 2 (by omega))]

/-- A field that has been written reads what was written, cut to its width. -/
theorem rdf_wrf_same {s : State} {a lo n v : Nat} (h : lo + n ≤ 32) : rdf (wrf s a lo n v) a lo n = v % 2 ^ n := by
  rw [rdf, wrf, rd_wr, if_pos rfl, bits_mod_word h, bits_setBits]

/-- The fields of another register read as before. -/
theorem rdf_wrf_other {s : State} {a b lo n lo' n' v : Nat} (h : a ≠ b) : rdf (wrf s a lo n v) b lo' n' = rdf s b lo' n' := by
  rw [rdf, wrf, rd_wr, if_neg h, rdf]

end Sys2Proof.Proofs.Frames
end

section
/-! PROOF. Partitions are created, mapped, reset and destroyed (R108, R226, R231, R391-R394, R430, R431, R535). -/
namespace Sys2Proof.Proofs.Parts
open Sys2Proof.Machine Sys2Proof.Safety Sys2Proof.Laws Sys2Proof.Proofs.Frames Sys2Proof.Proofs.Firmware

/-! ### Partition commands -/

theorem partCmd_of_takes {s : State} {p : Nat} {k : State → State} (hidle : (s.part p).busy = false) (htakes : RmTakes s 0) :
    partCmd s p k = .next (k s) := by
  rw [partCmd, if_neg (by simp [hidle]), rmGate_of_rmTakes htakes]

theorem partCmd_of_held {s : State} {p : Nat} {k : State → State} (hidle : (s.part p).busy = false) (hrm : s.stw.rm ≠ .running) :
    partCmd s p k = .next (partResult s p 1) := by
  have hgate : ∃ w, rmGate s 0 = (some w, s) := by
    unfold rmGate
    split
    · exact ⟨_, rfl⟩
    · exact ⟨_, rfl⟩
    · next hrun => exact absurd hrun hrm
  obtain ⟨w, hw⟩ := hgate
  rw [partCmd, if_neg (by simp [hidle]), hw]

theorem partCmd_of_busy {s : State} {p : Nat} {k : State → State} (hbusy : (s.part p).busy = true) : partCmd s p k = .next s := if_pos hbusy

/-- What each of the four partition commands does once it is taken. -/
def createPart (p : Nat) (s : State) : State :=
  if (s.part p).state ≠ .free then partResult s p 5
  else if rdf s (pgPart p + 0x108) 8 1 = 1 ∧ (s.chip.sealedCap = false ∨ s.sec.level = 2) then partResult s p 2
  else if mapsEmpty s p then partResult s p 2
  else if mapsTaken s p then partResult s p 3
  else if partCharge (takeMaps s p) p > quotaBytes (takeMaps s p) p then partResult s p 6
  else serveUpdate (partResult (wr ({ takeMaps s p with free := (takeMaps s p).free + 1 }.setPart p { s.part p with
    state := .live, sealed := rdf s (pgPart p + 0x108) 8 1 = 1, keys := some (draw (takeMaps s p)).1, chain := List.replicate 32 0,
    pstart := stewardUs s, pfirst := partC s p }) (pgPart p + 0x118) (partC s p)) p 0)

def lostTiles (s : State) (p : Nat) : List Nat := (partTiles s p).filter (fun k => !(stagedTiles s p).contains k)
def lostWays (s : State) (p : Nat) : List Nat := (partWays s p).filter (fun k => !(stagedWays s p).contains k)
def lostPcs (s : State) (p : Nat) : List Nat := (partPcKeys s p).filter (fun k => !(stagedPcs s p).contains k)

/-- A partition with its added resources, and the removed ones on their way out. -/
def remapped (s : State) (p : Nat) : State :=
  (takeMaps s p).setPart p { s.part p with
    rmTiles := lostTiles s p, rmWays := lostWays s p, rmPcs := lostPcs s p,
    busy := !((lostTiles s p).isEmpty && (lostWays s p).isEmpty && (lostPcs s p).isEmpty),
    before := some (partTiles s p, partWays s p, partPcKeys s p) }

def applyMaps (p : Nat) (s : State) : State :=
  if (s.part p).state ≠ .live ∧ (s.part p).state ≠ .fenced then partResult s p 5
  else if mapsEmpty s p then partResult s p 2
  else if mapsTaken s p then partResult s p 3
  else if ((partStacks (takeMaps s p) p).any (fun k => !(partStacks s p).contains k) &&
      decide (partCharge (takeMaps s p) p > quotaBytes (takeMaps s p) p)) = true then partResult s p 6
  else if (!canMoveOut (remapped s p) p) = true then partResult s p 4
  else partResult (((lostPcs s p).flatMap (fun k => drawersIn (backToRoom (remapped s p) (fun q => (lostPcs s p).contains (64 * q.stack + q.pc)))
    (k / 64) (k % 64))).foldl moveOut (backToRoom (remapped s p) (fun q => (lostPcs s p).contains (64 * q.stack + q.pc)))) p 0

def resetPart (p : Nat) (s : State) : State :=
  if (s.part p).state ≠ .live ∧ (s.part p).state ≠ .fenced then partResult s p 5
  else abortPart (s.setPart p { s.part p with state := .resetting, wasFenced := decide ((s.part p).state = .fenced), busy := true }) p

/-- A partition whose destruction begins: its requests have ended and its rings take no more. -/
def destroyBegun (s : State) (p : Nat) : State :=
  { abortPart (s.setPart p { s.part p with state := .destroying, busy := true, step := 1 }) p with
    rings := (abortPart (s.setPart p { s.part p with state := .destroying, busy := true, step := 1 }) p).rings.map
      (fun (e : Nat × Ring) => if e.2.part = p then (e.1, { e.2 with destroying := true }) else e) }

def destroyPart (p : Nat) (s : State) : State :=
  if (s.part p).state = .free ∨ (s.part p).state = .destroying then partResult s p 5
  else ((destroyBegun s p).dir.shelves.filter (fun e => decide (e.2.key.part = p) && decide (e.2.state = .live))).foldl
    (fun s e => mirrorDrop s e.2) (destroyBegun s p)

section
variable {part : Fin 32} {s : State} (hmay : HostMay s (pgPart part.val))
include hmay

theorem exec_partCreate_of_hostMay : exec (.partCreate part) s = partCmd s part.val (createPart part.val) := hostWr_of_hostMay hmay _
theorem exec_partApplyMaps_of_hostMay : exec (.partApplyMaps part) s = partCmd s part.val (applyMaps part.val) := hostWr_of_hostMay hmay _
theorem exec_partReset_of_hostMay : exec (.partReset part) s = partCmd s part.val (resetPart part.val) := hostWr_of_hostMay hmay _
theorem exec_partDestroy_of_hostMay : exec (.partDestroy part) s = partCmd s part.val (destroyPart part.val) := hostWr_of_hostMay hmay _

end

/-! ### Creation and maps -/

/-- Staged resources become the partition's, and no other resource changes hands. -/
theorem tget_takeAll {t : Tab Nat} {l : List Nat} {p k : Nat} :
    tget? (l.foldl (fun t k => tput t k p) t) k = if k ∈ l then some p else tget? t k := by
  induction l generalizing t with
  | nil => rfl
  | cons j l ih =>
    rw [List.foldl_cons, ih, tget_tput]
    by_cases hmem : k ∈ l
    · rw [if_pos hmem, if_pos (List.mem_cons_of_mem _ hmem)]
    · by_cases hjk : j = k
      · rw [if_neg hmem, if_pos hjk, if_pos (by rw [hjk]; exact List.mem_cons_self)]
      · rw [if_neg hmem, if_neg hjk, if_neg (by simp [hmem, Ne.symm hjk])]

section
variable {s : State} {p : Nat}

/-- A partition that is to be created may be had as its `SEALED` asks. -/
theorem sealed_ok (h : decide (rdf s (pgPart p + 0x108) 8 1 = 1) = false ∨ s.chip.sealedCap = true ∧ s.sec.level ≠ 2) :
    ¬ (rdf s (pgPart p + 0x108) 8 1 = 1 ∧ (s.chip.sealedCap = false ∨ s.sec.level = 2)) := by
  rintro ⟨hwants, hno⟩
  obtain hplain | ⟨hcap, hlevel⟩ := h
  · exact of_decide_eq_false hplain hwants
  · obtain hcap' | hlevel' := hno
    · exact Bool.noConfusion (hcap.symm.trans hcap')
    · exact hlevel hlevel'

end

/-- Settles O27: the refusals of `PART_CREATE` and `PART_APPLY_MAPS` in their order, and their effects. -/
theorem partitionsAreCreatedAndMapped : Obligations.PartitionsAreCreatedAndMapped := by
  refine ⟨⟨fun part s hmay hidle htakes => ?_, fun part s hmay hidle hrm => ?_, fun part s hmay hbusy => ?_, fun s p k => tget_takeAll⟩,
    fun part s hmay hidle htakes => ?_, fun part s hstate => if_neg fun hnot => hstate.elim hnot.1 hnot.2,
    fun part s hlive hfenced => if_pos ⟨hlive, hfenced⟩⟩
  · simp only [exec_partCreate_of_hostMay hmay, partCmd_of_takes hidle htakes, createPart]
    refine ⟨fun hthere => by rw [if_pos hthere], fun hfree => ?_⟩
    rw [if_neg (not_not_intro hfree)]
    refine ⟨fun hwants hno => by rw [if_pos ⟨of_decide_eq_true hwants, hno⟩], fun hok => ?_⟩
    rw [if_neg (sealed_ok hok)]
    refine ⟨fun hempty => by rw [if_pos hempty], fun hmaps htaken => ?_, fun hmaps htaken hfull => ?_, fun hmaps htaken hroom => ?_⟩
    · rw [if_neg (ne_true_of_eq_false hmaps), if_pos htaken]
    · rw [if_neg (ne_true_of_eq_false hmaps), if_neg (ne_true_of_eq_false htaken), if_pos hfull]
    · rw [if_neg (ne_true_of_eq_false hmaps), if_neg (ne_true_of_eq_false htaken), if_neg (Nat.not_lt.mpr hroom)]
      exact ⟨_, _, rfl⟩
  · rw [exec_partCreate_of_hostMay hmay, exec_partApplyMaps_of_hostMay hmay, exec_partReset_of_hostMay hmay, exec_partDestroy_of_hostMay hmay]
    simp only [partCmd_of_held hidle hrm, and_self]
  · rw [exec_partCreate_of_hostMay hmay, exec_partApplyMaps_of_hostMay hmay, exec_partReset_of_hostMay hmay, exec_partDestroy_of_hostMay hmay]
    simp only [partCmd_of_busy hbusy, and_self]
  · simp only [exec_partApplyMaps_of_hostMay hmay, partCmd_of_takes hidle htakes, applyMaps]
    refine ⟨fun hlive hfenced => by rw [if_pos ⟨hlive, hfenced⟩], fun hstate => ?_⟩
    rw [if_neg (fun hnot => hstate.elim hnot.1 hnot.2)]
    refine ⟨fun hempty => by rw [if_pos hempty], fun hmaps htaken => ?_, fun hmaps htaken hgains hfull => ?_, fun hmaps htaken hok => ?_⟩
    · rw [if_neg (ne_true_of_eq_false hmaps), if_pos htaken]
    · rw [if_neg (ne_true_of_eq_false hmaps), if_neg (ne_true_of_eq_false htaken), if_pos (by simp only [hgains, Bool.true_and]; exact decide_eq_true hfull)]
    · rw [if_neg (ne_true_of_eq_false hmaps), if_neg (ne_true_of_eq_false htaken), if_neg]
      · refine ⟨fun hout => ?_, fun hstuck => ?_⟩
        · rw [if_neg]
          · rfl
          · exact ne_true_of_eq_false (congrArg (!·) hout)
        · rw [if_pos]
          exact congrArg (!·) hstuck
      · rw [Bool.and_eq_true, decide_eq_true_eq]
        rintro ⟨hgains, hfull⟩
        obtain hno | hroom := hok
        · exact Bool.noConfusion (hno.symm.trans hgains)
        · exact absurd hfull (Nat.not_lt.mpr hroom)

end Sys2Proof.Proofs.Parts
end

section
/-! PROOF. Partitions are reset and destroyed (R108, R393, R394, R430). -/
namespace Sys2Proof.Proofs.Parts
open Sys2Proof.Machine Sys2Proof.Safety Sys2Proof.Laws Sys2Proof.Proofs.Frames Sys2Proof.Proofs.Firmware

theorem tget_map_entries {α : Type} (f : Nat × α → Nat × α) (g : α → α) (hf : ∀ e, f e = (e.1, g e.2)) (t : Tab α) (k : Nat) :
    tget? (t.map f) k = (tget? t k).map g := by
  induction t with
  | nil => rfl
  | cons e t ih =>
    obtain ⟨j, v⟩ := e
    rw [List.map_cons, hf]
    simp only [tget?, ih]
    split <;> rfl

theorem of_mem_filtered {α : Type} {P : α → Prop} [DecidablePred P] {l m : List α} (h : l = m.filter (fun e => decide (P e))) :
    ∀ e ∈ l, P e := by
  intro e he
  rw [h] at he
  exact of_decide_eq_true (List.mem_filter.mp he).2

/-! ### Reset -/

section
variable {part : Fin 32} {s : State}

/-- The rings of a partition after its reset: `RING_CI` stands at `RING_PI`. -/
def resetRing (p : Nat) (g : Ring) : Ring := if g.part = p then { g with ci := g.pi, srcs := [] } else g

/-- A partition after its reset. -/
def resetDone (s : State) (p : Nat) : State :=
  partResult (({ s with rings := s.rings.map (fun (e : Nat × Ring) => if e.2.part = p then (e.1, { e.2 with ci := e.2.pi, srcs := [] }) else e) }).setPart p
    { s.part p with state := if (s.part p).wasFenced then .fenced else .live, busy := false }) p 0

theorem exec_partResetDone_done (hstate : (s.part part.val).state = .resetting) (hquiet : partQuiet s part.val = true) :
    exec (.partResetDone part) s = .next (resetDone s part.val) := if_neg (by simp [hstate, hquiet])

theorem exec_partResetDone_waits (h : (s.part part.val).state ≠ .resetting ∨ partQuiet s part.val = false) :
    exec (.partResetDone part) s = .next s := if_pos h

theorem resetDone_part (p : Nat) : (resetDone s p).part p =
    { s.part p with state := if (s.part p).wasFenced then .fenced else .live, busy := false } := (part_setPart s p p _).trans (if_pos rfl)

theorem resetDone_rings (p r : Nat) : tget? (resetDone s p).rings r = (tget? s.rings r).map (resetRing p) := by
  refine tget_map_entries _ (resetRing p) (fun e => ?_) s.rings r
  unfold resetRing
  split <;> rfl

theorem resetDone_result (p : Nat) : rdf (resetDone s p) (pgPart p + 0x104) 4 3 = 0 := rdf_wrf_same (by decide)

/-! ### Destruction -/

theorem exec_partDestroyDone_of_not_destroying (h : (s.part part.val).state ≠ .destroying) : exec (.partDestroyDone part) s = .next s := if_pos h

/-- Without rings left, the destruction goes on with its step. -/
theorem exec_partDestroyDone_of_no_rings (hstate : (s.part part.val).state = .destroying) (hrings : ringsOf s part.val = []) {u : State}
    (hu : (if (s.part part.val).step = 1 ∧ (partQuiet s part.val && dropsSent s part.val) = true
      then destroyObjects (s.setPart part.val { s.part part.val with step := 2 }) part.val else s) = u) :
    exec (.partDestroyDone part) s = if (u.part part.val).step = 2 ∧
      u.cxl.ext.any (fun e => decide (e.2.part = part.val) && decide (e.2.state ≠ .free)) = false
      then .next (destroyEnd u part.val) else .next u := by
  have hgone : (s.rings.filter (fun e => decide (e.2.part = part.val) && ringQuiet s e.1 e.2)).map (·.1) = [] := by
    have hmine : s.rings.filter (fun e => decide (e.2.part = part.val)) = [] := List.map_eq_nil_iff.mp hrings
    rw [List.map_eq_nil_iff, List.filter_eq_nil_iff]
    exact fun e he hboth => List.filter_eq_nil_iff.mp hmine e he (Bool.and_eq_true_iff.mp hboth).1
  simp only [exec, execPartDestroyDone, if_neg (not_not_intro hstate), hgone, List.foldl_nil, hrings, List.isEmpty_nil, Bool.and_true]
  rw [hu]

end

/-- The tables of a partition's objects, links, pulls and indexes are cut to those of the others, and what follows adds nothing to them. -/
theorem destroyObjects_filters (s : State) (p : Nat) : ∃ u : State,
    (destroyObjects s p).objects = u.objects.filter (fun e => decide (e.1 / 65536 ≠ p)) ∧
    (destroyObjects s p).links = u.links.filter (fun e => decide (e.2.part ≠ p)) ∧
    (destroyObjects s p).pulls = u.pulls.filter (fun e => decide (e.2.key.part ≠ p)) ∧
    (destroyObjects s p).vidx = u.vidx.filter (fun e => decide (e.2.part ≠ p)) := by
  have hrelease : ∀ (l : List (Nat × Extent)) (s : State), Keeps 0xB2040000000 s (l.foldl (fun s e => releaseExt s e.1) s) :=
    fun l s => keeps_foldl (fun a e ha => keeps_releaseExt a e.1 ha (.refl _)) (.refl s)
  have hclose : ∀ s : State, Keeps 0xBA0C247C601 s (closePeriod s p 8) := fun s => keeps_closePeriod s p 8 (.refl s) (.refl _)
  exact ⟨_, ((hclose _).frame .objects rfl).trans ((hrelease _ _).frame .objects rfl),
    ((hclose _).frame .links rfl).trans ((hrelease _ _).frame .links rfl), ((hclose _).frame .pulls rfl).trans ((hrelease _ _).frame .pulls rfl),
    ((hclose _).frame .vidx rfl).trans ((hrelease _ _).frame .vidx rfl)⟩

/-- At the end of its destruction a partition is as at reset, and owns no tile and no way. -/
theorem destroyEnd_frees (s : State) (p : Nat) : (destroyEnd s p).part p = {} ∧ (∀ e ∈ (destroyEnd s p).tileOwner, e.2 ≠ p) ∧
    (∀ e ∈ (destroyEnd s p).wayOwner, e.2 ≠ p) := by
  have hserve : ∀ s : State, Keeps 0x10000040001 s (serveUpdate s) := fun s => keeps_serveUpdate s (.refl s) (.refl _)
  have hraise : ∀ s : State, Keeps 0xB2000000000 s (raise s pgSec 2 []) := fun s => keeps_raise s pgSec 2 [] (.refl s) (.refl _)
  obtain ⟨u, hparts, htiles, hways⟩ : ∃ u : State, (destroyEnd s p).parts = tdel u.parts p ∧
      (destroyEnd s p).tileOwner = u.tileOwner.filter (fun e => decide (e.2 ≠ p)) ∧
      (destroyEnd s p).wayOwner = u.wayOwner.filter (fun e => decide (e.2 ≠ p)) :=
    ⟨_, ((hserve _).frame .parts rfl).trans ((hraise _).frame .parts rfl), ((hserve _).frame .tileOwner rfl).trans ((hraise _).frame .tileOwner rfl),
      ((hserve _).frame .wayOwner rfl).trans ((hraise _).frame .wayOwner rfl)⟩
  refine ⟨?_, of_mem_filtered htiles, of_mem_filtered hways⟩
  rw [State.part, hparts, tget, tget_tdel, if_pos rfl]
  rfl

/-- Settles O28: a reset and its end, and the steps of a destruction. -/
theorem partitionsAreResetAndDestroyed : Obligations.PartitionsAreResetAndDestroyed := by
  refine ⟨⟨fun part s hmay hidle htakes => ⟨fun hstate => ?_, fun hlive hfenced => ?_⟩, fun part s hstate hquiet => ?_,
      fun part s => exec_partResetDone_waits⟩,
    fun part s hmay hidle htakes => ⟨fun hno => ?_, fun hfree hdestroying => ?_⟩, fun part s => exec_partDestroyDone_of_not_destroying,
    fun part s hstate hstep hrings hheld => ?_, fun part s hstate hstep hrings hquiet hdrops => ?_, fun s p => ?_, destroyEnd_frees⟩
  · rw [exec_partReset_of_hostMay hmay, partCmd_of_takes hidle htakes, resetPart, if_neg (fun hnot => hstate.elim hnot.1 hnot.2)]
  · rw [exec_partReset_of_hostMay hmay, partCmd_of_takes hidle htakes, resetPart, if_pos ⟨hlive, hfenced⟩]
  · refine ⟨_, exec_partResetDone_done hstate hquiet, ?_, ?_, resetDone_result _, resetDone_rings _, rfl, rfl⟩ <;> rw [resetDone_part]
  · rw [exec_partDestroy_of_hostMay hmay, partCmd_of_takes hidle htakes, destroyPart, if_pos hno]
  · rw [exec_partDestroy_of_hostMay hmay, partCmd_of_takes hidle htakes, destroyPart, if_neg (not_or.mpr ⟨hfree, hdestroying⟩)]
    rfl
  · rw [exec_partDestroyDone_of_no_rings hstate hrings (if_neg (by simp [hstep])), if_pos ⟨hstep, hheld⟩]
  · rw [exec_partDestroyDone_of_no_rings hstate hrings (if_pos (by simp [hstep, hquiet, hdrops]))]
    exact (apply_ite Host.Outcome.next _ _ _).symm
  · obtain ⟨u, hobjects, hlinks, hpulls, hvidx⟩ := destroyObjects_filters s p
    exact ⟨of_mem_filtered hobjects, of_mem_filtered hlinks, of_mem_filtered hpulls, of_mem_filtered hvidx⟩

end Sys2Proof.Proofs.Parts
end

section
/-! PROOF. Runs are dispatched and go through their passes (R124, R140-R149, R154-R156, R167, R208, R284). -/
namespace Sys2Proof.Proofs.Runs
open Sys2Proof.Machine Sys2Proof.Safety Sys2Proof.Laws

theorem getElem?_modAt {α : Type} (f : α → α) : ∀ (n : Nat) (l : List α), (modAt f n l)[n]? = (l[n]?).map f
  | 0, [] => rfl
  | _ + 1, [] => rfl
  | 0, _ :: _ => rfl
  | n + 1, _ :: l => getElem?_modAt f n l

/-! ### Dispatch -/

section
variable {req run : Nat} {tile : Fin 192} {s : State} {r : Req}

theorem exec_runDispatch_idle {tile : Option (Fin 192)} (h : noService s = true ∨ tget? s.reqs req = none) : exec (.runDispatch req run tile) s = .next s := by
  simp only [exec, execRunDispatch]
  split
  · rfl
  · next hserve =>
    rw [h.resolve_left hserve]

theorem exec_runDispatch_of_attend (hserve : noService s = false) (hr : tget? s.reqs req = some r) (hsrch : r.srch = none) :
    exec (.runDispatch req run (some tile)) s = .next (dispatchRun s req r run tile.val) := by
  simp only [exec, execRunDispatch, hserve, hr, hsrch]
  rfl

theorem exec_runDispatch_upset (hserve : noService s = false) (hr : tget? s.reqs req = some r) (hsrch : r.srch = none)
    (hop : dOpcode r.desc = 0x01) : exec (.runDispatch req run none) s = .next (endAttend s req r { status := 0x22 }) := by
  simp only [exec, execRunDispatch, hserve, hr, hsrch, hop]
  rfl

theorem dispatchRun_of_turn {x : Run} {i b t : Nat} {sh : Shelf} (hx : r.runs[run]? = some x) (hi : r.shelf = some i) (hsh : s.shelf? i = some sh)
    (hb : r.bucket = some b) (hqueued : x.phase = .queued) (hturn : hasTurn s req r (queueDie r x) = true)
    (hok : tileOk s r.part req (queueDie r x) b t = true) (hbest : tileBest s sh r.part req (queueDie r x) b x t = true) :
    dispatchRun s req r run t =
      if (runDrawers x).any (unreachable s sh) then endAttend s req r { status := 0x20 }
      else if t / 48 ≠ queueDie r x then handOver (passTurn s r.part (queueDie r x) b r.urgent) req r run (t / 48)
      else startRun s req r i sh run x b t := by
  have hgo : ¬ (x.phase ≠ .queued ∨ (!hasTurn s req r (queueDie r x)) = true ∨ (!tileOk s r.part req (queueDie r x) b t) = true ∨
      (!tileBest s sh r.part req (queueDie r x) b x t) = true) := by simp [hqueued, hturn, hok, hbest]
  simp only [dispatchRun, hx, hi, hb, Option.bind_some, hsh, Option.map_some, if_neg hgo]
  rfl

end

/-! ### The start of a run -/

section
variable (s : State) (req i run b tile : Nat) (r : Req) (sh : Shelf) (x : Run)

/-- The state in which a run starts: its tile has its bucket, and the visit of the scheduler has gone on. -/
def startState : State := passTurn { yieldThread s tile with tileTag := tput s.tileTag tile b } r.part (queueDie r x) b r.urgent

/-- The request as it then stands, and its run on its thread. -/
def startReq : Req := (tget? (startState s b tile r x).reqs req).getD r
def startedRun : Run := { x with phase := .scoring, tile := tile, thread := freeThread (startState s b tile r x) tile }

/-- The front stack on whose booths a run may start. -/
def boothStack : Option Nat := if r.boothOk ∧ (s.part r.part).sealed = false ∧ s.chip.boothCap = true then x.stack.filter isFront else none

/-- What the controller of a front stack makes of a run. -/
def boothTakes (f : Nat) : Option (Nat × Nat × Bool) :=
  if segFits s r.part f (segBytes sh (reqG r.desc) x) && x.drawers.all (fun j => decide (kStack sh x.head j = some f)) then acceptRun s req r sh x f else none

/-- A run starts on tiles where a segment is at hand. -/
def startByTile (s0 : State) : State :=
  match tileSeg s r.part (tile / 48) (segBytes sh (reqG r.desc) x) with
  | none => s
  | some k => startTiles (drawSeg s0 r.part k).2 req (startReq s req b tile r x) i sh run
      { startedRun s b tile r x with segStack := some k, seg := (drawSeg s0 r.part k).1 }

theorem startRun_eq : startRun s req r i sh run x b tile =
    match boothStack s r x with
    | none => startByTile s req i run b tile r sh x (startState s b tile r x)
    | some f =>
      match boothTakes s req r sh x f with
      | some (sc, sl, h) => startBooths (drawSeg (startState s b tile r x) r.part f).2 req (startReq s req b tile r x) i sh run
          { startedRun s b tile r x with segStack := some f, seg := (drawSeg (startState s b tile r x) r.part f).1 } f sc sl h
      | none => startByTile s req i run b tile r sh x (bump (startState s b tile r x) (pgBth f 0 + 0x118) 0 32 1) := by
  rfl

end

section
variable {s : State} {r : Req} {x : Run}

theorem boothStack_of_tiles (h : r.boothOk = false ∨ (s.part r.part).sealed = true ∨ s.chip.boothCap = false ∨ x.stack.filter isFront = none) :
    boothStack s r x = none := by
  unfold boothStack
  split
  · next hbooths =>
    obtain ⟨hok, hopen, hcap⟩ := hbooths
    obtain hno | hsealed | hnocap | hnone := h
    · exact Bool.noConfusion (hno.symm.trans hok)
    · exact Bool.noConfusion (hopen.symm.trans hsealed)
    · exact Bool.noConfusion (hnocap.symm.trans hcap)
    · exact hnone
  · rfl

theorem boothStack_of_booths {f : Nat}
    (h : ¬ (r.boothOk = false ∨ (s.part r.part).sealed = true ∨ s.chip.boothCap = false ∨ x.stack.filter isFront = none))
    (hf : x.stack.filter isFront = some f) : boothStack s r x = some f := by
  simp only [not_or, Bool.not_eq_false, Bool.not_eq_true] at h
  obtain ⟨hok, hopen, hcap, -⟩ := h
  rw [boothStack, if_pos ⟨hok, hopen, hcap⟩, hf]

end

/-! ### Pass N and Pass V -/

section
variable {req i : Nat} {a : RunAt} {s : State} {r : Req} {x : Run} {sh : Shelf}

theorem exec_passes_idle (h : noService s = true ∨ tget? s.reqs req = none) : exec (.passN req a) s = .next s ∧ exec (.passV req a) s = .next s := by
  simp only [exec, execPassN, execPassV]
  split
  · exact ⟨rfl, rfl⟩
  · next hserve =>
    rw [h.resolve_left hserve]
    exact ⟨rfl, rfl⟩

/-- What Pass N does with a run of a shelf that is there. -/
theorem exec_passN_of_run (hserve : noService s = false) (hr : tget? s.reqs req = some r) (hx : r.runs[a.run]? = some x) (hi : r.shelf = some i)
    (hsh : s.shelf? i = some sh) : exec (.passN req a) s =
      if x.phase ≠ .scoring ∨ (!scored x) = true then .next s
      else if a.upset = true then .next (endAttend s req r { status := 0x22 })
      else match readSegment s req a.run x with
        | (false, s1) => .next (sheetFailure s1 req r (x.tile / 12))
        | (true, s1) => .next (s1.setReq req (setRun r a.run (passNRun sh r x))) := by
  have hreq : reqShelf s r = some sh := by rw [reqShelf, hi, Option.bind_some, hsh]
  simp only [exec, execPassN, hserve, hr, hx, hreq] <;> rfl

/-- The V drawers of a run that lie in HBM. -/
def warmV (sh : Shelf) (x : Run) : List Drawer :=
  ((runV x).filterMap (fun v => getDrawer sh (2 * x.head + 1) v)).filter (fun d => !x.coldRead.contains (d.series, d.idx))

/-- What Pass V does with a run of a shelf that is there. -/
theorem exec_passV_of_run (hserve : noService s = false) (hr : tget? s.reqs req = some r) (hx : r.runs[a.run]? = some x) (hi : r.shelf = some i)
    (hsh : s.shelf? i = some sh) : exec (.passV req a) s =
      if x.phase ≠ .normed ∨ (!x.coldLeft.isEmpty) = true then .next s
      else if a.upset = true then .next (endAttend s req r { status := 0x22 })
      else match readDrawers s (warmV sh x) with
        | (some w, s0) => .next (runIntegrity s0 req r i x.tile (.inl w))
        | (none, s0) =>
          if (runV x).any (fun v => unreachable s0 sh (2 * x.head + 1, v)) then .next (endAttend s0 req r { status := 0x20 })
          else match readSegment s0 req a.run x with
            | (false, s1) => .next (sheetFailure s1 req r (x.tile / 12))
            | (true, s1) => .next (passVDone s1 req a.run r i sh x (warmV sh x)) := by
  simp only [exec, execPassV, hserve, hr, hx, hi, Option.bind_some, hsh, Option.map_some] <;> rfl

theorem passNRun_head {j : Nat} (hj : j < reqG r.desc) :
    (passNRun sh r x).m[j]? = some ((progScores sh r x j).foldl (fun a e => fmax a e.2) negInf) := by
  simp [passNRun, hj]

/-- Capture leaves a request's runs, descriptor and selection. -/
theorem captScores_req (s : State) (r : Req) (head l g round first t : Nat) (plane : List Byte) :
    (captScores s r head l g round first t plane).1.runs = r.runs ∧ (captScores s r head l g round first t plane).1.desc = r.desc ∧
      (captScores s r head l g round first t plane).1.sel = r.sel := by
  unfold captScores
  split
  · exact ⟨rfl, rfl, rfl⟩
  · dsimp only
    repeat' split
    all_goals exact ⟨rfl, rfl, rfl⟩

/-- A run that has gone through Pass V. -/
def doneRun (sh : Shelf) (r : Req) (x : Run) : Run := { x with phase := .done, o := passVRun sh r x, segStack := none, scores := [], probs := [] }

/-- The run of a request once its Pass V is done. -/
theorem passVDone_run {run : Nat} {vs : List Drawer} (hx : r.runs[run]? = some x) :
    ∃ (q : Req) (y : Run), tget? (passVDone s req run r i sh x vs).reqs req = some q ∧ q.runs[run]? = some y ∧ y.phase = .done ∧ y.o = passVRun sh r x ∧
      y.segStack = none ∧ y.m = x.m ∧ y.l = x.l ∧ q.desc = r.desc ∧ q.sel = r.sel := by
  have htouch : ∀ s1 : State, (vs.foldl (fun s d => touch s i d.series d.idx) s1).reqs = s1.reqs := fun s1 =>
    (keeps_foldl (m := 0x100) (fun a d ha => keeps_touch a i d.series d.idx ha (.refl _)) (.refl s1)).frame .reqs rfl
  obtain ⟨r1, s1, hcapt⟩ : ∃ r1 s1, captScores s r x.head x.drawers.length (reqG r.desc) x.round (x.drawers.headD 0) (serT sh.prof (2 * x.head))
      (planeBytes sh (reqG r.desc) x) = (r1, s1) := ⟨_, _, rfl⟩
  obtain ⟨hruns, hdesc, hsel⟩ := captScores_req s r x.head x.drawers.length (reqG r.desc) x.round (x.drawers.headD 0) (serT sh.prof (2 * x.head))
      (planeBytes sh (reqG r.desc) x)
  rw [hcapt] at hruns hdesc hsel
  have hreqs : (passVDone s req run r i sh x vs).reqs = tput s1.reqs req (setRun r1 run (doneRun sh r x)) := by
    have hcount : ∀ (s : State) (a lo n k : Nat), (bump s a lo n k).reqs = s.reqs := fun _ _ _ _ _ => rfl
    simp only [passVDone, hcapt, apply_ite State.reqs, hcount, htouch, ite_self]
    rfl
  refine ⟨setRun r1 run (doneRun sh r x), doneRun sh r x, by rw [hreqs, tget_tput, if_pos rfl], ?_, rfl, rfl, rfl, rfl, rfl, hdesc, hsel⟩
  rw [setRun, getElem?_modAt, hruns, hx]
  rfl

end

/-- Settles O29: the dispatch of a run, its start, and its passes. -/
theorem runsGoThroughTheirPasses : Obligations.RunsGoThroughTheirPasses := by
  refine ⟨⟨fun req run tile s r x i b sh hserve hr hsrch hx hi hsh hb hqueued hturn hok hbest => ?_, fun s req i run b tile r sh x => ?_,
      fun req run s r hserve hr hsrch hop => exec_runDispatch_upset hserve hr hsrch hop, fun req run tile s h => exec_runDispatch_idle h,
      fun req s r hr => ?_⟩,
    fun req a s r x i sh hserve hr hx hi hsh => ?_, fun req a s h => exec_passes_idle h, fun sh r x j hj => ⟨passNRun_head hj, rfl, rfl⟩,
    fun s req run i r sh x vs hx => passVDone_run hx⟩
  · rw [exec_runDispatch_of_attend hserve hr hsrch, dispatchRun_of_turn hx hi hsh hb hqueued hturn hok hbest]
    refine ⟨fun hgone => by rw [if_pos hgone], fun hthere hother => ?_, fun hthere hsame => ?_⟩
    · rw [if_neg (ne_true_of_eq_false hthere), if_pos hother]
    · rw [if_neg (ne_true_of_eq_false hthere), if_neg (not_not_intro hsame)]
  · intro n s0 r0 x0 onTile takes
    simp only [startRun_eq]
    refine ⟨fun k seg s1 htile hseg hdraw => ?_, fun htile hseg => ?_, fun f sc sl seg h s1 hbooth hf htakes hdraw => ?_,
      fun f k seg s1 hbooth hf htakes hseg hdraw => ?_⟩
    · simp only [boothStack_of_tiles htile, startByTile]
      simp only [n] at hseg
      simp only [hseg, show drawSeg (startState s b tile r x) r.part k = (seg, s1) from hdraw]
      rfl
    · simp only [boothStack_of_tiles htile, startByTile]
      simp only [n] at hseg
      simp only [hseg]
    · simp only [boothStack_of_booths hbooth hf, show boothTakes s req r sh x f = some (sc, sl, h) from htakes,
        show drawSeg (startState s b tile r x) r.part f = (seg, s1) from hdraw]
      rfl
    · simp only [boothStack_of_booths hbooth hf, show boothTakes s req r sh x f = none from htakes, startByTile]
      simp only [n] at hseg
      simp only [hseg, show drawSeg (bump (startState s b tile r x) (pgBth f 0 + 0x118) 0 32 1) r.part k = (seg, s1) from hdraw]
      rfl
  · simp only [exec, execBucketWaitExceeded, hr]
    refine ⟨fun hin hlate => if_pos ⟨hin, hlate⟩, fun hwait => if_neg ?_⟩
    rintro ⟨hin, hlate⟩
    obtain hout | hsoon := hwait
    · exact Bool.noConfusion (hout.symm.trans hin)
    · exact absurd hlate (Nat.not_lt.mpr hsoon)
  · rw [exec_passN_of_run hserve hr hx hi hsh, exec_passV_of_run hserve hr hx hi hsh]
    refine ⟨fun hphase hscored hupset => ?_, fun s1 hphase hscored hupset hread => ?_, fun s1 hphase hscored hupset hread => ?_, fun hwait => ?_,
      fun hphase hcold hupset => ?_, fun hphase hcold hupset => ?_, fun hwait => ?_⟩
    · rw [if_neg (by simp [hphase, hscored]), if_pos hupset]
    · rw [if_neg (by simp [hphase, hscored]), if_neg (ne_true_of_eq_false hupset), hread]
    · rw [if_neg (by simp [hphase, hscored]), if_neg (ne_true_of_eq_false hupset), hread]
    · rw [if_pos (by simpa using hwait)]
    · rw [if_neg (by simp [hphase, hcold]), if_pos hupset]
    · intro vs
      rw [if_neg (by simp [hphase, hcold]), if_neg (ne_true_of_eq_false hupset)]
      refine ⟨fun w s0 hread => by rw [show readDrawers s (warmV sh x) = (some w, s0) from hread], fun s0 hread => ?_⟩
      rw [show readDrawers s (warmV sh x) = (none, s0) from hread]
      refine ⟨fun hgone => if_pos hgone, fun s1 hthere => ⟨fun hseg => ?_, fun hseg => ?_⟩⟩
      · simp only [if_neg (ne_true_of_eq_false hthere), hseg]
      · simp only [if_neg (ne_true_of_eq_false hthere), hseg]
        rfl
    · rw [if_pos (by simpa using hwait)]

end Sys2Proof.Proofs.Runs
end

section
/-! PROOF. An ATTEND finishes, rescores, or retries after a score-sheet failure (R157, R167, R168, R181-R188). -/
namespace Sys2Proof.Proofs.Runs
open Sys2Proof.Machine Sys2Proof.Safety Sys2Proof.Laws

/-! ### Combining -/

section
variable {req i : Nat} {s : State} {r : Req} {sh : Shelf}

theorem exec_combine_of_done (hserve : noService s = false) (hr : tget? s.reqs req = some r) (hi : r.shelf = some i) (hsh : s.shelf? i = some sh)
    (hop : dOpcode r.desc = 0x01) (hbucket : r.bucket ≠ none) (hdone : r.runs.all (fun x => decide (x.phase = .done)) = true) :
    exec (.combine req) s = match reqMode r.desc with
      | 0 => .next (finishAttend (draw s).2 req r i sh 0x00 (draw s).1 [])
      | 1 => .next (finishAttend (draw s).2 req r i sh 0x00 (draw s).1 (epsHats sh r (draw s).1))
      | _ => match r.sel.stopped with
        | none => .next s
        | some st => .next (finishAttend s req r i sh st r.sel.pairing r.sel.eps) := by
  have hgo : ¬ (dOpcode r.desc ≠ 0x01 ∨ r.bucket.isNone = true ∨ (!r.runs.all (fun x => decide (x.phase = .done))) = true) := by
    simp [hop, hbucket, hdone]
  simp only [exec, execCombine, hserve, hr, hi, Option.bind_some, hsh, Option.map_some, if_neg hgo] <;> rfl

theorem exec_combine_waits (h : noService s = true ∨ tget? s.reqs req = none ∨
    ∃ r, tget? s.reqs req = some r ∧ r.runs.all (fun x => decide (x.phase = .done)) = false) : exec (.combine req) s = .next s := by
  simp only [exec, execCombine]
  split
  · rfl
  next hserve =>
    obtain hno | ⟨r, hr, hopen⟩ := h.resolve_left hserve
    · rw [hno]
    · simp only [hr, hopen]
      split
      · rfl
      · exact if_pos (.inr (.inr rfl))

end

/-! ### The safety-net loop -/

/-- What refills and choices leave of a selection. -/
def SameLoop (a b : Sel) : Prop := b.eps = a.eps ∧ b.pairing = a.pairing ∧ b.stopped = a.stopped ∧ b.round = a.round

theorem SameLoop.trans {a b c : Sel} (h : SameLoop a b) (h' : SameLoop b c) : SameLoop a c := by
  obtain ⟨heps, hpair, hstop, hround⟩ := h
  obtain ⟨heps', hpair', hstop', hround'⟩ := h'
  exact ⟨heps'.trans heps, hpair'.trans hpair, hstop'.trans hstop, hround'.trans hround⟩

theorem sameLoop_foldl {α : Type} {f : Sel → α → Sel} (hf : ∀ a x, SameLoop a (f a x)) (l : List α) (a : Sel) : SameLoop a (l.foldl f a) := by
  induction l generalizing a with
  | nil => exact ⟨rfl, rfl, rfl, rfl⟩
  | cons x l ih => exact (hf a x).trans (ih _)

/-- One head's turn in a refill: its candidates' bounds anew, and the best of them on the list. -/
def refillStep (sh : Shelf) (order : Nat) (needy : List Nat) (room : Nat) (r : Req) (k : Nat) : Req :=
  if room = 0 ∨ r.sel.list.any (fun e => decide (e.1 = k)) then r
  else
    let om := r.sel.omitted.map (fun c => if c.head = k then { c with fresh := candBounds sh r k c.idx } else c)
    let mine := sortBy keyBefore ((om.filter (fun c => decide (c.head = k))).map (fun c => (candKey sh r order needy c, c)))
    let take := (mine.take (min room (1024 - r.sel.list.length))).map (fun e => (k, e.2.idx))
    { r with sel := { r.sel with omitted := om, list := r.sel.list ++ take } }

theorem sameLoop_refillStep (sh : Shelf) (order : Nat) (needy : List Nat) (room : Nat) (r : Req) (k : Nat) :
    SameLoop r.sel (refillStep sh order needy room r k).sel := by
  unfold refillStep
  split <;> exact ⟨rfl, rfl, rfl, rfl⟩

theorem sameLoop_foldl_refillStep (sh : Shelf) (order : Nat) (needy : List Nat) (room : Nat) (l : List Nat) (r : Req) :
    SameLoop r.sel (l.foldl (refillStep sh order needy room) r).sel := by
  induction l generalizing r with
  | nil => exact ⟨rfl, rfl, rfl, rfl⟩
  | cons k l ih => exact (sameLoop_refillStep sh order needy room r k).trans (ih _)

theorem sameLoop_refill (sh : Shelf) (r : Req) (order : Nat) (needy : List Nat) (room : Nat) : SameLoop r.sel (refill sh r order needy room).sel :=
  sameLoop_foldl_refillStep sh order needy room _ r

theorem sameLoop_takeCand (g : Nat) (a : Sel) (c : Cand) : SameLoop a (takeCand g a c) := ⟨rfl, rfl, rfl, rfl⟩

/-- No head is needy exactly where every omission bound is within the request's. -/
theorem needy_isEmpty (want : F32) (eps : List F32) :
    ((List.range eps.length).filter (fun j => flt want (eps.getD j 0))).isEmpty = eps.all (fun e => !flt want e) := by
  rw [Bool.eq_iff_iff, List.isEmpty_iff, List.filter_eq_nil_iff, List.all_eq_true]
  constructor
  · intro h e he
    obtain ⟨j, hj, rfl⟩ := List.mem_iff_getElem.mp he
    simpa [List.getD_eq_getElem?_getD, hj] using h j (List.mem_range.mpr hj)
  · intro h j hj
    have hlt := List.mem_range.mp hj
    simpa [List.getD_eq_getElem?_getD, hlt] using h _ (List.getElem_mem hlt)

section
variable {req i : Nat} {s : State} {r : Req} {sh x : Shelf}

/-- The request with the bounds of this check. -/
def bounded (x : Shelf) (r : Req) (order : Nat) : Req := { r with sel := { r.sel with eps := epsHats x r order, pairing := order } }

theorem exec_netLoopCheck_of_normed (hserve : noService s = false) (hr : tget? s.reqs req = some r) (hi : r.shelf = some i) (hsh : s.shelf? i = some sh)
    (hop : dOpcode r.desc = 0x01) (hmode : reqMode r.desc = 2) (hbucket : r.bucket ≠ none) (hgoing : r.sel.stopped = none)
    (hnormed : roundsNormed r = true) (hx : (readSums s i).shelf? i = some x) :
    ∃ (order n : Nat) (q : Req), exec (.netLoopCheck req) s = .next ({ readSums s i with free := n }.setReq req q) ∧
      q.sel.eps = epsHats x r order ∧ q.sel.pairing = order ∧
      ((epsHats x r order).all (fun e => !flt (reqEps r.desc) e) = true → q = { r with sel := { r.sel with
        eps := epsHats x r order, pairing := order, stopped := some 0x00 } }) ∧
      ((epsHats x r order).all (fun e => !flt (reqEps r.desc) e) = false →
        q.sel.stopped = some 0x02 ∨ (q.sel.stopped = none ∧ q.sel.round = r.sel.round + 1)) := by
  have hgo : ¬ (dOpcode r.desc ≠ 0x01 ∨ reqMode r.desc ≠ 2 ∨ r.bucket.isNone = true ∨ r.sel.stopped.isSome = true ∨ (!roundsNormed r) = true) := by
    simp [hop, hmode, hbucket, hgoing, hnormed]
  have hfound : r.shelf.bind (fun i => (s.shelf? i).map (fun sh => (i, sh))) = some (i, sh) := by
    simp only [hi, Option.bind_some, hsh, Option.map_some]
  simp only [exec, execNetLoopCheck, hserve, hr, hfound, if_neg hgo, hx, Option.getD_some, draw, needy_isEmpty]
  refine ⟨Config.freeNat (readSums s i).free, (readSums s i).free + 1, ?_⟩
  generalize Config.freeNat (readSums s i).free = order
  simp only [Bool.false_eq_true, if_false]
  split
  · next hall => exact ⟨_, rfl, rfl, rfl, fun _ => rfl, fun hno => Bool.noConfusion (hall.symm.trans hno)⟩
  · next hneedy =>
    generalize (List.range (epsHats x r order).length).filter (fun j => flt (reqEps r.desc) ((epsHats x r order).getD j 0)) = needy
    generalize reqBudget r.desc - r.sel.scored = room
    obtain ⟨heps, hpair, hstop, hround⟩ := sameLoop_refill x (bounded x r order) order needy room
    unfold bounded at heps hpair hstop hround
    split
    · exact ⟨_, rfl, heps, hpair, fun hall => absurd hall hneedy, fun _ => .inl rfl⟩
    · generalize choose x (refill x _ order needy room) order needy room = add
      obtain ⟨heps', hpair', hstop', hround'⟩ := sameLoop_foldl (sameLoop_takeCand (reqG r.desc)) add (refill x (bounded x r order) order needy room).sel
      exact ⟨_, rfl, heps'.trans heps, hpair'.trans hpair, fun hall => absurd hall hneedy,
        fun _ => .inr ⟨(hstop'.trans hstop).trans hgoing, congrArg (· + 1) hround⟩⟩

theorem exec_netLoopCheck_idle (h : noService s = true ∨ tget? s.reqs req = none) : exec (.netLoopCheck req) s = .next s := by
  simp only [exec, execNetLoopCheck]
  split
  · rfl
  · next hserve => rw [h.resolve_left hserve]

end

/-! ### Score-sheet failures -/

section
variable {req id c : Nat} {s : State} {r : Req} {x : Run}

theorem exec_scoreSheetFailure_of_runs {l : List Run} (hserve : noService s = false) (hr : tget? s.reqs req = some r) (hruns : segRuns s r = x :: l) :
    exec (.scoreSheetFailure req) s = .next (sheetFailure { s with free := s.free + 1 } req r
      (((x :: l).getD (Config.freeNat s.free % (l.length + 1)) x).tile / 12)) := by
  simp only [exec, execScoreSheetFailure, hserve, hr, hruns]
  rfl

theorem exec_scoreSheetFailure_idle (h : noService s = true ∨ tget? s.reqs req = none ∨ ∃ r, tget? s.reqs req = some r ∧ segRuns s r = []) :
    exec (.scoreSheetFailure req) s = .next s := by
  simp only [exec, execScoreSheetFailure]
  split
  · rfl
  · next hserve =>
    obtain hno | ⟨r, hr, hruns⟩ := h.resolve_left hserve
    · rw [hno]
    · simp only [hr, hruns]

theorem sheetFailure_second (h : 1 ≤ r.fails) : ∃ u : State, sheetFailure s id r c = failReq u id r { status := 0x21 } := ⟨_, if_pos h⟩

theorem startRounds_keeps (sh : Shelf) (r : Req) : (startRounds sh r).fails = r.fails ∧ (startRounds sh r).retried = r.retried ∧
    (startRounds sh r).booth = r.booth ∧ (startRounds sh r).desc = r.desc ∧ (startRounds sh r).snap = r.snap ∧ (startRounds sh r).lo = r.lo := by
  unfold startRounds
  dsimp only
  split <;> exact ⟨rfl, rfl, rfl, rfl, rfl, rfl⟩

/-- The first failure of a request starts its rounds again, without booths and marked as retried. -/
theorem sheetFailure_first {sh : Shelf} (hfirst : r.fails = 0) (hsh : reqShelf (dropReqJobs (raise s (pgTcl c) 0 []) id) r = some sh) :
    ∃ (u : State) (q : Req), q.fails = 1 ∧ q.retried = true ∧ q.booth = false ∧ q.desc = r.desc ∧ q.snap = r.snap ∧ q.lo = r.lo ∧
      (sheetFailure s id r c = u.setReq id q ∨ sheetFailure s id r c = failReq u id q { status := 0x20 }) := by
  obtain ⟨hfails, hretried, hbooth, hdesc, hsnap, hlo⟩ := startRounds_keeps sh { r with
    fails := 1, retried := true, booth := false, cold := false, coldN := 0, runs := [], sel := {} }
  refine ⟨bump (dropReqJobs (raise s (pgTcl c) 0 []) id) (pgTcl c + 0x110) 0 16 1, _, hfails, hretried, hbooth, hdesc, hsnap, hlo, ?_⟩
  simp only [sheetFailure, if_neg (show ¬ r.fails ≥ 1 by omega), hsh]
  split
  · exact .inr rfl
  · exact .inl rfl

end

/-- Settles O30: the end of an `ATTEND`, its safety-net loop, and what follows a score-sheet failure. -/
theorem attendsFinishOrRetry : Obligations.AttendsFinishOrRetry := by
  refine ⟨⟨fun req s r i sh hserve hr hi hsh hop hbucket hdone => ?_, fun req s => exec_combine_waits,
      fun req s r i sh x => exec_netLoopCheck_of_normed, fun req s => exec_netLoopCheck_idle⟩,
    fun req s r x hserve hr hruns => ?_, fun req s r x y l hserve hr hruns => ?_, fun req s => exec_scoreSheetFailure_idle,
    fun s id c r => sheetFailure_second, fun s id c r sh => sheetFailure_first⟩
  · rw [exec_combine_of_done hserve hr hi hsh hop hbucket hdone]
    refine ⟨fun hmode => ⟨_, _, by rw [hmode]; rfl⟩, fun hmode => ⟨_, _, by rw [hmode]; rfl⟩, fun st hmode hst => ?_, fun hmode hst => ?_⟩
    · obtain ⟨m, hm⟩ := Nat.exists_eq_add_of_le' hmode
      simp only [hm, hst]
    · obtain ⟨m, hm⟩ := Nat.exists_eq_add_of_le' hmode
      simp only [hm, hst]
  · rw [exec_scoreSheetFailure_of_runs hserve hr hruns]
    simp [Nat.mod_one]
  · refine ⟨_, ?_, exec_scoreSheetFailure_of_runs hserve hr hruns⟩
    have hlt : Config.freeNat s.free % ((y :: l).length + 1) < (x :: y :: l).length := Nat.mod_lt _ (Nat.succ_pos _)
    rw [hruns, List.getD_eq_getElem?_getD, List.getElem?_eq_getElem hlt, Option.getD_some]
    exact List.getElem_mem hlt

end Sys2Proof.Proofs.Runs
end

section
/-! PROOF. The micro-ops of a booth (R194-R202, R219-R221). -/
namespace Sys2Proof.Proofs.MicroOps
open Sys2Proof.Machine Sys2Proof.Safety Sys2Proof.Laws

/-! ### A micro-op runs where its booth is about to issue it -/

section
variable {s : State} {b op w : Nat} {j : Job} {k : State → Booth → Job → Nat → State}

theorem uop_of_issues (h : Issues s b op j w) : uop op b s k = k s (resume (s.booth b)) j w := by
  obtain ⟨hserve, hjob, hissues, rfl, hop⟩ := h
  have hjob' : (resume (s.booth b)).job = some j := hjob
  have hword : uopWord s b (resume (s.booth b)) = uopWord s b (s.booth b) := rfl
  simp only [uop, hjob', hserve, hissues, hword, hop, Bool.not_false, Bool.and_self, decide_true, if_true]

theorem uop_idle (h : ∀ (j : Job) (w : Nat), ¬ Issues s b op j w) : uop op b s k = s := by
  unfold uop
  have hjob : (resume (s.booth b)).job = (s.booth b).job := rfl
  dsimp only
  rw [hjob]
  cases hj : (s.booth b).job with
  | none => rfl
  | some j =>
    refine if_neg fun hgo => h j _ ⟨?_, hj, ?_, rfl, ?_⟩ <;> simp_all [uopWord, resume]

end

/-! ### Rows and lines -/

theorem mem_actRows (rows : List Nat) (k : Nat) : k ∈ actRows rows k := by
  unfold actRows
  split
  · next h => exact List.contains_iff_mem.mp h
  · dsimp only
    split <;> exact List.mem_append_right _ (List.mem_singleton_self k)

/-- A row newly opened stands beside at most one other, in another bank (R196). -/
theorem actRows_of_not_mem {rows : List Nat} {k : Nat} (h : k ∉ rows) :
    (actRows rows k).length ≤ 2 ∧ ∀ x ∈ actRows rows k, x ≠ k → x % 8 ≠ k % 8 := by
  have hbank : ∀ x ∈ rows.filter (fun x => decide (x % 8 ≠ k % 8)), x % 8 ≠ k % 8 := fun x hx => of_decide_eq_true (List.mem_filter.mp hx).2
  unfold actRows
  rw [if_neg (by simpa using h)]
  dsimp only
  generalize rows.filter (fun x => decide (x % 8 ≠ k % 8)) = r at hbank ⊢
  split
  · refine ⟨by simp; omega, fun x hx hne => ?_⟩
    exact hbank x (List.mem_of_mem_drop ((List.mem_append.mp hx).resolve_right (by simpa using hne)))
  · refine ⟨by simp; omega, fun x hx hne => ?_⟩
    exact hbank x ((List.mem_append.mp hx).resolve_right (by simpa using hne))

theorem boothLine_of_good {s : State} {f line : Nat} (h : lineOut s f line = .good) : boothLine s f line = (.good, readOnce s f line) := by
  simp only [boothLine, h]

theorem boothLine_of_fixed {s : State} {f line : Nat} (h : lineOut s f line = .fixed) :
    boothLine s f line = (.fixed, (readLine (bump (readOnce s f line) (pgBth f 0 + 0x11C) 0 16 1) f line).2) := by
  simp only [boothLine, h]

theorem boothLine_of_poison {s : State} {f line : Nat} (h : lineOut s f line = .poison) : boothLine s f line = (.poison, s) := by
  simp only [boothLine, h]

theorem boothLine_of_uncorr {s : State} {f line : Nat} {o : LineOut} (h : lineOut s f line = o) (hgood : o ≠ .good) (hfixed : o ≠ .fixed)
    (hpoison : o ≠ .poison) : boothLine s f line = (o, lineUncorr s f line (decide (o = .tag))) := by
  unfold boothLine
  rw [h]
  cases o with
  | good => exact absurd rfl hgood
  | fixed => exact absurd rfl hfixed
  | poison => exact absurd rfl hpoison
  | code => rfl
  | tag => rfl

theorem resume_rows_of_not_held {y : Booth} (h : y.held = []) : (resume y).rows = y.rows := by
  simp [resume, h]

theorem resume_reopens (y : Booth) : (resume y).park = .no ∧ (resume y).held = [] ∧ (∀ k, k ∈ y.held → k ∈ (resume y).rows) ∧
    (y.held = [] → (resume y).rows = y.rows) :=
  ⟨rfl, rfl, fun _ hk => List.mem_append_left _ hk, resume_rows_of_not_held⟩

/-! ### Reads -/

section
variable {b : Fin 4096} {s : State} {j : Job} {w : Nat}

theorem exec_uopAct_beyond (h : Issues s b.val 0x01 j w) (ha : 32768 ≤ uAddr (resume (s.booth b.val)) w) :
    exec (.uopAct b) s = .next (putBooth s b.val (stepNext (resume (s.booth b.val)) w)) := by
  simp only [exec, execUopAct, uop_of_issues h, ge_iff_le, if_pos ha]

theorem exec_uopAct_within (h : Issues s b.val 0x01 j w) (ha : uAddr (resume (s.booth b.val)) w < 32768) :
    exec (.uopAct b) s = .next (putBooth s b.val (stepNext
      { resume (s.booth b.val) with rows := actRows (resume (s.booth b.val)).rows (uAddr (resume (s.booth b.val)) w / 1024) } w)) := by
  simp only [exec, execUopAct, uop_of_issues h, ge_iff_le, if_neg (Nat.not_le.mpr ha)]

theorem exec_uopRd_beyond (h : Issues s b.val 0x02 j w) (ha : 32768 ≤ uAddr (resume (s.booth b.val)) w) : exec (.uopRd b) s =
    .next (putBooth s b.val (stepNext (pushWindow (resume (s.booth b.val)) (uAddr (resume (s.booth b.val)) w / 32) (List.replicate 32 0)) w)) := by
  simp only [exec, execUopRd, uop_of_issues h, ge_iff_le, if_pos ha]

theorem exec_uopRd_waits (h : Issues s b.val 0x02 j w) (ha : uAddr (resume (s.booth b.val)) w < 32768)
    (hrow : (resume (s.booth b.val)).rows.contains (uAddr (resume (s.booth b.val)) w / 1024) = false) : exec (.uopRd b) s = .next s := by
  simp only [exec, execUopRd, uop_of_issues h, ge_iff_le, if_neg (Nat.not_le.mpr ha), hrow, Bool.not_false, if_true]

/-- A read whose row is open turns on what its line reads as. -/
theorem exec_uopRd_of_row {o : LineOut} {s1 : State} (h : Issues s b.val 0x02 j w) (ha : uAddr (resume (s.booth b.val)) w < 32768)
    (hrow : (resume (s.booth b.val)).rows.contains (uAddr (resume (s.booth b.val)) w / 1024) = true)
    (hline : boothLine s (bthStack b.val) ((placeLines (jobPlace b.val j)).1 + uAddr (resume (s.booth b.val)) w / 32 / 2) = (o, s1)) :
    exec (.uopRd b) s = if o = .good ∨ o = .fixed then
      .next (putBooth (columnUnit s1 (jobPlace b.val j) (uAddr (resume (s.booth b.val)) w / 32)).2 b.val (stepNext
        (pushWindow (resume (s.booth b.val)) (uAddr (resume (s.booth b.val)) w / 32)
          (columnUnit s1 (jobPlace b.val j) (uAddr (resume (s.booth b.val)) w / 32)).1) w))
    else .next (keyUncorr s1 b.val (resume (s.booth b.val)) j ((placeLines (jobPlace b.val j)).1 + uAddr (resume (s.booth b.val)) w / 32 / 2)) := by
  have hstack : (jobPlace b.val j).stack = bthStack b.val := rfl
  simp only [exec, execUopRd, uop_of_issues h, ge_iff_le, if_neg (Nat.not_le.mpr ha), hrow, Bool.not_true, Bool.false_eq_true, if_false, hstack, hline]
  split <;> rfl

theorem columnUnit_of_drawer {q : Place} {i u : Nat} {d : Drawer} (h : drawerAt s q = some (i, d)) :
    columnUnit s q u = (padTo (bslice d.data (32 * u) 32) 32, s) := by
  simp only [columnUnit, h]

/-! ### Computing -/

theorem exec_uopExp_scale (h : Issues s b.val 0x03 j w) (hscale : bit w 19 = true) : exec (.uopExp b) s = .next (putBooth s b.val (stepNext
    { resume (s.booth b.val) with
      sc := modAt (fun _ => ofInt (ofTwos 8 (leNat (winBytes (resume (s.booth b.val)) (uAddr (resume (s.booth b.val)) w) 4) / 0x10000 % 256))) 7
        (modAt (fun _ => ofBf16 (BitVec.ofNat 16 (leNat (winBytes (resume (s.booth b.val)) (uAddr (resume (s.booth b.val)) w) 4) % 0x10000))) 6
          (resume (s.booth b.val)).sc) } w)) := by
  simp only [exec, execUopExp, uop_of_issues h, hscale, if_true]

theorem exec_uopExp_elements {x : List (BitVec 16) × Bool} (h : Issues s b.val 0x03 j w) (helems : bit w 19 = false)
    (hx : expand (le (jobDesc s b.val j) 2 1) (jobSlot s b.val j).cfmt (resume (s.booth b.val)).cb (resume (s.booth b.val)) (uAddr (resume (s.booth b.val)) w) = x) :
    exec (.uopExp b) s = .next (putBooth (if x.2 then raise s (pgBth (bthStack b.val) 0) 4 [] else s) b.val
      (stepNext { resume (s.booth b.val) with v := modAt (fun _ => x.1) (bits w 23 3) (resume (s.booth b.val)).v } w)) := by
  simp only [exec, execUopExp, uop_of_issues h, helems, Bool.false_eq_true, if_false, hx]

theorem getElem?_map_range {α : Type} (f : Nat → α) {n h : Nat} (hlt : h < n) : ((List.range n).map f)[h]? = some (f h) := by
  simp [hlt]

/-- An `END` with no stop asked for leaves the job in its booth, ended. -/
theorem exec_uopEnd_of_issues (h : Issues s b.val 0x0B j w) (hstop : (resume (s.booth b.val)).stopReq = false) :
    exec (.uopEnd b) s = .next (bump (putBooth s b.val { stepTo (resume (s.booth b.val)) w (resume (s.booth b.val)).entry true with ended := true })
      (pgBth (bthStack b.val) 0 + 0x110) 0 32 1) := by
  obtain ⟨-, hjob, -⟩ := id h
  have hstays : (stepTo (resume (s.booth b.val)) w (resume (s.booth b.val)).entry true).job = some j := by
    simp only [stepTo, hstop, Bool.and_false, Bool.false_eq_true, if_false]
    exact hjob
  simp only [exec, execUopEnd, uop_of_issues h, hstays, Option.isSome_some, if_true]

end

/-- A booth that is not about to issue a micro-op does not run it. -/
theorem exec_uop_idle {s : State} {c : Instr} {b : Fin 4096} {op : Nat}
    (hc : (c, op) ∈ [(Instr.uopNop b, 0x00), (.uopAct b, 0x01), (.uopRd b, 0x02), (.uopExp b, 0x03), (.uopDotg b, 0x04), (.uopGsc b, 0x05),
      (.uopSst b, 0x06), (.uopSeti b, 0x08), (.uopAddi b, 0x09), (.uopLoop b, 0x0A), (.uopEnd b, 0x0B)])
    (h : ∀ (j : Job) (w : Nat), ¬ Issues s b.val op j w) : exec c s = .next s := by
  simp only [List.mem_cons, Prod.mk.injEq, List.not_mem_nil, or_false] at hc
  obtain ⟨rfl, rfl⟩ | ⟨rfl, rfl⟩ | ⟨rfl, rfl⟩ | ⟨rfl, rfl⟩ | ⟨rfl, rfl⟩ | ⟨rfl, rfl⟩ | ⟨rfl, rfl⟩ | ⟨rfl, rfl⟩ | ⟨rfl, rfl⟩ | ⟨rfl, rfl⟩ | ⟨rfl, rfl⟩ := hc <;>
    exact congrArg Host.Outcome.next (uop_idle h)

/-- Settles O31: each micro-op's effect on its booth, and that a booth runs none that it does not issue. -/
theorem microOpsRun : Obligations.MicroOpsRun := by
  refine ⟨⟨fun b s j w h => congrArg Host.Outcome.next (uop_of_issues h), fun b s j w h => ⟨exec_uopAct_within h, exec_uopAct_beyond h⟩,
    fun rows k => ⟨mem_actRows rows k, actRows_of_not_mem⟩,
    fun b s j w h => ⟨exec_uopRd_beyond h, exec_uopRd_waits h, fun ha hrow hgood hfixed => ?_, fun i d o s1 ha hrow hline ho hd => ?_⟩,
    fun s f line => ⟨boothLine_of_good, boothLine_of_fixed, boothLine_of_poison, fun o => boothLine_of_uncorr⟩, resume_reopens,
    fun b s j w h => congrArg Host.Outcome.next (uop_of_issues h), fun b s j w h => congrArg Host.Outcome.next (uop_of_issues h),
    fun b s j w h => congrArg Host.Outcome.next (uop_of_issues h)⟩, fun b s j w h => ⟨exec_uopExp_scale h, fun hb => exec_uopExp_elements h hb rfl⟩,
    fun b s j w h => ⟨_, congrArg Host.Outcome.next (uop_of_issues h), fun n hn => getElem?_map_range _ hn⟩,
    fun b s j w h => ⟨_, congrArg Host.Outcome.next (uop_of_issues h), fun n hn => getElem?_map_range _ hn⟩,
    fun b s j w h => congrArg Host.Outcome.next (uop_of_issues h), fun b s j w => exec_uopEnd_of_issues, fun s c b op => exec_uop_idle⟩
  · rw [exec_uopRd_of_row h ha hrow (Prod.eta _).symm, if_neg (not_or.mpr ⟨hgood, hfixed⟩)]
  · rw [exec_uopRd_of_row h ha hrow hline, if_pos ho, columnUnit_of_drawer hd]

end Sys2Proof.Proofs.MicroOps
end

section
/-! PROOF. Booth jobs, faults, and the script store (R199, R207, R222-R226). -/
namespace Sys2Proof.Proofs.BoothJobs
open Sys2Proof.Machine Sys2Proof.Safety Sys2Proof.Laws

/-! ### Jobs start and end -/

section
variable {b : Fin 4096} {s : State} {j : Job} {rest : List Job}

/-- A booth that has started its next job. -/
def started (s : State) (b : Nat) (j : Job) (rest : List Job) : Booth :=
  { freshJob s b (s.booth b) j with queue := rest, restarted := false, stopReq := false }

theorem exec_boothJobStart_of_idle (hq : (s.booth b.val).queue = j :: rest) (hserve : noService s = false) (hon : (s.booth b.val).disabled = false)
    (hidle : (s.booth b.val).job = none) (hpark : (s.booth b.val).park = .no) (href : dieRefresh s b.val = none)
    (hpart : bthPart s b.val = some (jobSlot s b.val j).part) : exec (.boothJobStart b) s = .next (s.setBooth b.val (started s b.val j rest)) := by
  simp only [exec, execBoothJobStart, hserve, hq, Bool.false_eq_true, if_false]
  refine if_neg ?_
  simp [hon, hidle, hpark, href, hpart]

theorem exec_boothJobStart_waits (hq : (s.booth b.val).queue = j :: rest) (h : noService s = true ∨ (s.booth b.val).disabled = true ∨
    (s.booth b.val).job ≠ none ∨ (s.booth b.val).park ≠ .no ∨ dieRefresh s b.val ≠ none ∨ bthPart s b.val ≠ some (jobSlot s b.val j).part) :
    exec (.boothJobStart b) s = .next s := by
  simp only [exec, execBoothJobStart, hq]
  split
  · rfl
  · next hserve => exact if_pos (by simpa [Option.isSome_iff_ne_none] using h.resolve_left hserve)

theorem exec_boothJobStart_of_empty (h : (s.booth b.val).queue = []) : exec (.boothJobStart b) s = .next s := by
  simp only [exec, execBoothJobStart, h, ite_self]

/-- The state once the collector has reported a booth's job. -/
def collected (s : State) (b : Nat) (j : Job) : State := jobDone (putBooth (askLine s (bthStack b) (j.seg / 64)) b (noJob (s.booth b))) j false

theorem exec_collectorJobDone_stale (hjob : (s.booth b.val).job = some j) (hserve : noService s = false) (hended : (s.booth b.val).ended = true)
    (hstale : jobReq (collected s b.val j) j = none) : exec (.collectorJobDone b) s = .next (collected s b.val j) := by
  unfold collected at hstale ⊢
  simp only [exec, execCollectorJobDone, hserve, hjob, hended, hstale, Bool.not_true, Bool.false_eq_true, if_false]

theorem exec_collectorJobDone_of_run {r : Req} {i : Nat} {x : Run} (hjob : (s.booth b.val).job = some j) (hserve : noService s = false)
    (hended : (s.booth b.val).ended = true) (hreq : jobReq (collected s b.val j) j = some r) (hi : r.shelf = some i) (hx : r.runs[j.run]? = some x) :
    exec (.collectorJobDone b) s = .next (reformSummary (collected s b.val j) i (2 * x.head) (x.drawers.getD j.place 0) r.lo r.snap) := by
  unfold collected at hreq ⊢
  simp only [exec, execCollectorJobDone, hserve, hjob, hended, hreq, hi, hx, Bool.not_true, Bool.false_eq_true, if_false]

theorem exec_collectorJobDone_waits (h : noService s = true ∨ (s.booth b.val).job = none ∨ (s.booth b.val).ended = false) :
    exec (.collectorJobDone b) s = .next s := by
  simp only [exec, execCollectorJobDone]
  split
  · rfl
  · next hserve =>
    cases hjob : (s.booth b.val).job with
    | none => rfl
    | some j =>
      have hgoing := (h.resolve_left hserve).resolve_left (by simp [hjob])
      exact if_pos (by rw [hgoing]; rfl)

/-! ### Faults of booths -/

theorem exec_boothRestart_first (hserve : noService s = false) (hjob : (s.booth b.val).job = some j) (hon : (s.booth b.val).disabled = false)
    (hfirst : (s.booth b.val).restarted = false) : exec (.boothRestart b) s =
      .next (raise (s.setBooth b.val { freshJob s b.val (s.booth b.val) j with restarted := true }) (pgBth (bthStack b.val) 0) 1 []) := by
  simp only [exec, execBoothRestart, hserve, hjob, hon, hfirst, Bool.false_eq_true, if_false]

theorem exec_boothRestart_second (hserve : noService s = false) (hjob : (s.booth b.val).job = some j) (hon : (s.booth b.val).disabled = false)
    (hagain : (s.booth b.val).restarted = true) : exec (.boothRestart b) s = .next (disableBooth s b.val) := by
  simp only [exec, execBoothRestart, hserve, hjob, hon, hagain, Bool.false_eq_true, if_false, if_true]

theorem exec_boothRestart_idle (h : noService s = true ∨ (s.booth b.val).job = none) : exec (.boothRestart b) s = .next s := by
  simp only [exec, execBoothRestart]
  split
  · rfl
  · next hserve => rw [h.resolve_left hserve]

theorem exec_boothJobTimeout_train (h : s.dev.state = .train) : exec (.boothJobTimeout b) s = .next (disableBooth s b.val) := if_pos h

theorem exec_boothJobTimeout_of_job (hserve : noService s = false) (hjob : (s.booth b.val).job = some j) :
    exec (.boothJobTimeout b) s = .next (disableBooth s b.val) := by
  simp only [exec, execBoothJobTimeout, hserve, hjob, Option.isSome_some, Bool.false_eq_true, if_false, if_true, ite_self]

theorem exec_boothJobTimeout_idle (h : noService s = true ∨ (s.booth b.val).job = none) (hstate : s.dev.state ≠ .train) :
    exec (.boothJobTimeout b) s = .next s := by
  simp only [exec, execBoothJobTimeout, if_neg hstate]
  split
  · rfl
  · next hserve => rw [h.resolve_left hserve]; rfl

end

theorem jobDone_of_stale {s : State} {j : Job} {bad : Bool} (h : jobReq s j = none) : jobDone s j bad = s := by
  simp only [jobDone, h]

theorem jobDone_of_run {s : State} {j : Job} {bad : Bool} {r : Req} {x : Run} (hr : jobReq s j = some r) (hx : r.runs[j.run]? = some x) :
    jobDone s j bad = s.setReq j.req (setRun r j.run { x with jobsLeft := x.jobsLeft - 1, poisoned := x.poisoned || bad }) := by
  simp only [jobDone, hr, hx]

/-- What follows once a booth is marked disabled touches no booth. -/
theorem disableBooth_booths {s : State} {b : Nat} (h : (s.booth b).disabled = false) :
    (disableBooth s b).booths = (s.setBooth b { noJob (s.booth b) with disabled := true, queue := [] }).booths := by
  unfold disableBooth
  dsimp only
  rw [h]
  refine (keeps_issueRefresh (msk := 0xB2000481000) _ _ _ (keeps_freeSlots _ _ (keeps_raise _ _ _ _ (keeps_foldl (fun a x hk => ?_) (.refl _)) rfl) rfl) rfl).frame .booths rfl
  exact keeps_jobDone _ _ _ (keeps_poisonScores _ _ _ hk rfl) rfl

theorem disableBooth_booth {s : State} {b : Nat} (h : (s.booth b).disabled = false) :
    (disableBooth s b).booth b = { noJob (s.booth b) with disabled := true, queue := [] } := by
  have hbooth : (disableBooth s b).booth b = (s.setBooth b { noJob (s.booth b) with disabled := true, queue := [] }).booth b :=
    congrArg (fun t : Tab Booth => tget ({} : Booth) t b) (disableBooth_booths h)
  rw [hbooth, booth_setBooth, if_pos rfl]

/-- A table that takes one value at every key of a list holds it at each of them. -/
theorem tget_foldl_tput_const {α : Type} (v : α) (ls : List Nat) (t : Tab α) (k : Nat) :
    tget? (ls.foldl (fun t l => tput t l v) t) k = if k ∈ ls then some v else tget? t k := by
  induction ls generalizing t with
  | nil => rfl
  | cons l ls ih =>
    rw [List.foldl_cons, ih, tget_tput]
    by_cases hk : k ∈ ls
    · simp [hk]
    · by_cases hl : l = k
      · simp [hl]
      · simp [hk, hl, Ne.symm hl]

/-- The score lines that hold no drawer are poisoned (R223). -/
theorem poisonScores_poison {s : State} {f line : Nat} {j : Job} (hline : line ∈ scoreLines s f j) (hfree : lineDrawer s f line = none) :
    tget? (((poisonScores s f j).hbmc f).poison) line = some 2 := by
  simp only [poisonScores, hbmc_setHbm, if_true]
  rw [tget_foldl_tput_const]
  exact if_pos (List.mem_filter.mpr ⟨hline, by rw [hfree]; rfl⟩)

/-! ### The script store -/

section
variable {f i : Fin 8} {e : Fin 64} {v : List Byte} {s : State}

theorem rmRuns_iff {s : State} : rmRuns s = true ↔ s.stw.rm = .running := decide_eq_true_iff

theorem exec_scriptWindowWrite_of_free {w : Word} (hrm : s.stw.rm = .running) (hfree : entryHeld s f.val e.val = false) :
    exec (.scriptWindowWrite f e w) s = .next (s.setFstack f.val { s.fstack f.val with script := modAt (fun _ => w) e.val (s.fstack f.val).script }) := by
  simp only [exec, execScriptWindowWrite, rmRuns_iff.mpr hrm, hfree, Bool.not_true, Bool.false_eq_true, or_self, if_false]

theorem exec_scriptWindowWrite_held {w : Word} (h : s.stw.rm ≠ .running ∨ entryHeld s f.val e.val = true) : exec (.scriptWindowWrite f e w) s = .next s := by
  refine if_pos (h.imp_left fun hrm => ?_)
  rw [Bool.eq_false_iff.mpr (fun hruns => hrm (rmRuns_iff.mp hruns))]
  rfl

theorem exec_scriptDescriptorWrite_held (hv : v.length = 8) (hrm : s.stw.rm ≠ .running) : exec (.scriptDescriptorWrite f i v) s = .next s := by
  have hruns : rmRuns s = false := Bool.eq_false_iff.mpr (fun hruns => hrm (rmRuns_iff.mp hruns))
  simp only [exec, execScriptDescriptorWrite, hv, hruns, ne_eq, not_true_eq_false, if_false, Bool.not_false, if_true]

/-- A store that holds a descriptor. -/
def putDesc (s : State) (f i : Nat) (x : List Byte) : State := s.setFstack f { s.fstack f with desc := modAt (fun _ => x) i (s.fstack f).desc }

/-- A descriptor written while the ringmaster runs: with `VALID`, on a script that is not busy and as its rules allow; without it, the busy script
only loses its own `VALID` (R224-R226). -/
theorem exec_scriptDescriptorWrite_of_running (hv : v.length = 8) (hrm : s.stw.rm = .running) : exec (.scriptDescriptorWrite f i v) s =
    if bit (le v 5 1) 7 = true then
      if scriptBusy s f.val i.val = true then .next s
      else if scriptOk (s.fstack f.val).script v = true then .next (putDesc s f.val i.val v) else .next (raise s (pgBth f.val 0) 5 [])
    else .next (putDesc s f.val i.val (if scriptBusy s f.val i.val = true then
      ((s.fstack f.val).desc.getD i.val []).take 5 ++ leBytes 1 (le ((s.fstack f.val).desc.getD i.val []) 5 1 % 128) ++ ((s.fstack f.val).desc.getD i.val []).drop 6
      else v)) := by
  simp only [exec, execScriptDescriptorWrite, hv, rmRuns_iff.mpr hrm, ne_eq, not_true_eq_false, if_false, Bool.not_true, Bool.false_eq_true]
  cases bit (le v 5 1) 7 <;> rfl

end

/-- Settles O32: booth jobs from start to report, faults of booths, and the loading of scripts. -/
theorem boothJobsAndScripts : Obligations.BoothJobsAndScripts := by
  refine ⟨⟨fun b s j rest hq => ⟨fun hserve hon hidle hpark href hpart => ⟨_, exec_boothJobStart_of_idle hq hserve hon hidle hpark href hpart,
        rfl, rfl, rfl, rfl, rfl, rfl⟩, exec_boothJobStart_waits hq⟩, fun b s => exec_boothJobStart_of_empty,
      fun b s j hjob hserve hended => ⟨exec_collectorJobDone_stale hjob hserve hended, fun r i x => exec_collectorJobDone_of_run hjob hserve hended⟩,
      fun b s => exec_collectorJobDone_waits,
      fun b s j hserve hjob hon => ⟨exec_boothRestart_first hserve hjob hon, exec_boothRestart_second hserve hjob hon, exec_boothJobTimeout_of_job hserve hjob⟩,
      fun b s h => ⟨exec_boothRestart_idle h, exec_boothJobTimeout_idle h⟩, fun b s => exec_boothJobTimeout_train,
      fun s b h => ?_, fun s b h => if_pos h, fun s j bad r x => jobDone_of_run, fun s f j line => poisonScores_poison, fun s j bad => jobDone_of_stale⟩,
    fun f e v s => exec_scriptWindowWrite_of_free, fun f e v s => exec_scriptWindowWrite_held, fun f i v s hv hrm => ?_,
    fun f i v s => exec_scriptDescriptorWrite_held⟩
  · rw [disableBooth_booth h]
    exact ⟨rfl, rfl, rfl⟩
  · rw [exec_scriptDescriptorWrite_of_running hv hrm]
    refine ⟨fun hvalid hbusy hok => ?_, fun hvalid hbusy hbad => ?_, fun hvalid hbusy => ?_, fun hvalid hbusy => ?_, fun hvalid hbusy => ?_⟩
    · rw [if_pos hvalid, hbusy, if_neg Bool.false_ne_true, if_pos hok]; rfl
    · rw [if_pos hvalid, hbusy, hbad]; rfl
    · rw [if_pos hvalid, if_pos hbusy]
    · rw [hvalid, hbusy]; rfl
    · rw [hvalid, hbusy]; rfl

end Sys2Proof.Proofs.BoothJobs
end

section
/-! PROOF. Booths park for refresh and for accesses (R197, R213-R219). -/
namespace Sys2Proof.Proofs.Parking
open Sys2Proof.Machine Sys2Proof.Safety Sys2Proof.Laws

/-! ### Per-bank refresh -/

section
variable {b : Fin 4096} {bank : Fin 8} {s : State}

theorem exec_perBankRefresh_closed (h : running (s.booth b.val) = false ∨ bankOpen (s.booth b.val) bank.val = false) :
    exec (.perBankRefresh b bank) s = .next (setOwed (noteLag s (bthStack b.val) (owed s b.val bank.val)) b.val bank.val 0) := by
  refine if_pos ?_
  obtain h | h := h <;> simp [h]

/-- An open bank owes one interval more; at three the refresh is forced at once or at the next step end (R214). -/
theorem exec_perBankRefresh_open (hrun : running (s.booth b.val) = true) (hopen : bankOpen (s.booth b.val) bank.val = true) :
    exec (.perBankRefresh b bank) s =
      if min 4 (owed s b.val bank.val + 1) < 3 then .next (setOwed s b.val bank.val (min 4 (owed s b.val bank.val + 1)))
      else if (s.booth b.val).atEnd = true ∧ (s.booth b.val).park = .no then
        .next (forceRefresh (setOwed s b.val bank.val (min 4 (owed s b.val bank.val + 1))) b.val bank.val)
      else .next ((setOwed s b.val bank.val (min 4 (owed s b.val bank.val + 1))).setBooth b.val { s.booth b.val with askPark := true }) := by
  refine if_neg ?_
  simp [hrun, hopen]

end

/-! ### All-bank refresh -/

theorem issueRefresh_of_idle {s : State} {f die : Nat} (hdue : tget? (s.fstack f).abr die = some .due)
    (hidle : ∀ q : Nat, q < 32 → running (s.booth (boothNo f (32 * die + q))) = false) :
    issueRefresh s f die = s.setFstack f { s.fstack f with abr := tput (s.fstack f).abr die .issued } := by
  refine if_pos ⟨hdue, List.all_eq_true.mpr fun q hq => ?_⟩
  simp [hidle q (List.mem_range.mp hq)]

theorem foldl_fixed {α β : Type} {f : β → α → β} {l : List α} {x : β} (h : ∀ a ∈ l, f x a = x) : l.foldl f x = x := by
  induction l with
  | nil => rfl
  | cons a l ih =>
    rw [List.foldl_cons, h a (List.mem_cons_self ..)]
    exact ih fun c hc => h c (List.mem_cons_of_mem a hc)

section
variable {f : Fin 8} {die : Fin 16} {s : State}

theorem exec_allBankRefresh_again (h : tget? (s.fstack f.val).abr die.val ≠ none) : exec (.allBankRefresh f die) s = .next s :=
  if_pos (Option.isSome_iff_ne_none.mpr h)

/-- A die on which no booth runs issues its refresh as it falls due. -/
theorem exec_allBankRefresh_of_idle (hnone : tget? (s.fstack f.val).abr die.val = none)
    (hidle : ∀ q : Nat, q < 32 → running (s.booth (boothNo f.val (32 * die.val + q))) = false) :
    ∃ t : State, exec (.allBankRefresh f die) s = .next t ∧ t.booths = s.booths ∧ tget? (t.fstack f.val).abr die.val = some .issued := by
  have hask : (List.range 32).foldl (fun s q => if running (s.booth (boothNo f.val (32 * die.val + q))) then
        s.setBooth (boothNo f.val (32 * die.val + q)) { s.booth (boothNo f.val (32 * die.val + q)) with askPark := true } else s)
      (s.setFstack f.val { s.fstack f.val with abr := tput (s.fstack f.val).abr die.val .due }) =
      s.setFstack f.val { s.fstack f.val with abr := tput (s.fstack f.val).abr die.val .due } :=
    foldl_fixed fun q hq => if_neg (Bool.eq_false_iff.mp (hidle q (List.mem_range.mp hq)))
  refine ⟨issueRefresh (s.setFstack f.val { s.fstack f.val with abr := tput (s.fstack f.val).abr die.val .due }) f.val die.val, ?_, ?_, ?_⟩
  · simp only [exec, execAllBankRefresh, hnone, hask, Option.isSome_none, Bool.false_eq_true, if_false]
  · exact (keeps_issueRefresh (msk := 0x80000) _ _ _ (.refl _) rfl).frame .booths rfl
  · have hdue : tget? ((s.setFstack f.val { s.fstack f.val with abr := tput (s.fstack f.val).abr die.val .due }).fstack f.val).abr die.val = some .due := by
      simp
    rw [issueRefresh_of_idle hdue hidle]
    simp

theorem exec_refreshComplete_unissued (h : tget? (s.fstack f.val).abr die.val ≠ some .issued) : exec (.refreshComplete f die) s = .next s := if_pos h

/-- A booth of a die whose refresh is over resumes. -/
def letGo (f die : Nat) (s : State) (q : Nat) : State :=
  let b := boothNo f (32 * die + q)
  let y := s.booth b
  if y.park = .refresh then s.setBooth b { resume y with askPark := !(forcedBanks s b (resume y)).isEmpty } else s

theorem letGo_fstacks (f die : Nat) (s : State) (q : Nat) : (letGo f die s q).fstacks = s.fstacks := by
  unfold letGo
  dsimp only
  split <;> rfl

theorem letGo_unparks (f die : Nat) (s : State) (q : Nat) : ((letGo f die s q).booth (boothNo f (32 * die + q))).park ≠ .refresh := by
  unfold letGo
  dsimp only
  split
  · rw [booth_setBooth, if_pos rfl]
    exact Park.noConfusion
  · next h => exact h

theorem letGo_keeps_unparked {f die : Nat} {s : State} {q b : Nat} (h : (s.booth b).park ≠ .refresh) : ((letGo f die s q).booth b).park ≠ .refresh := by
  unfold letGo
  dsimp only
  split
  · rw [booth_setBooth]
    split
    · exact Park.noConfusion
    · exact h
  · exact h

theorem foldl_letGo_fstacks (f die : Nat) (l : List Nat) (s : State) : (l.foldl (letGo f die) s).fstacks = s.fstacks := by
  induction l generalizing s with
  | nil => rfl
  | cons q l ih => exact (ih _).trans (letGo_fstacks f die s q)

theorem foldl_letGo_keeps_unparked {f die b : Nat} (l : List Nat) {s : State} (h : (s.booth b).park ≠ .refresh) :
    ((l.foldl (letGo f die) s).booth b).park ≠ .refresh := by
  induction l generalizing s with
  | nil => exact h
  | cons q l ih => exact ih (letGo_keeps_unparked h)

theorem foldl_letGo_unparks {f die q : Nat} {l : List Nat} (hq : q ∈ l) (s : State) :
    ((l.foldl (letGo f die) s).booth (boothNo f (32 * die + q))).park ≠ .refresh := by
  induction l generalizing s with
  | nil => exact absurd hq List.not_mem_nil
  | cons a l ih =>
    obtain rfl | hq := List.mem_cons.mp hq
    · exact foldl_letGo_keeps_unparked l (letGo_unparks f die s q)
    · exact ih hq _

theorem exec_refreshComplete_issued (h : tget? (s.fstack f.val).abr die.val = some .issued) :
    ∃ t : State, exec (.refreshComplete f die) s = .next t ∧ tget? (t.fstack f.val).abr die.val = none ∧
      (∀ q : Nat, q < 32 → (t.booth (boothNo f.val (32 * die.val + q))).park ≠ .refresh) := by
  refine ⟨(List.range 32).foldl (letGo f.val die.val) (s.setFstack f.val { s.fstack f.val with abr := tdel (s.fstack f.val).abr die.val }),
    if_neg (not_not_intro h), ?_, fun q hq => foldl_letGo_unparks (List.mem_range.mpr hq) _⟩
  have hstacks := congrArg (fun t : Tab FStack => tget ({} : FStack) t f.val) (foldl_letGo_fstacks f.val die.val (List.range 32)
    (s.setFstack f.val { s.fstack f.val with abr := tdel (s.fstack f.val).abr die.val }))
  refine (congrArg (fun t : FStack => tget? t.abr die.val) hstacks).trans ?_
  change tget? ((s.setFstack f.val { s.fstack f.val with abr := tdel (s.fstack f.val).abr die.val }).fstack f.val).abr die.val = none
  simp

end

/-! ### Parking at a step end -/

section
variable {b : Fin 4096} {s s1 : State} {y : Booth}

/-- A booth at a step end serves what waits, then parks for a due refresh of its die, else forces what its banks owe. -/
theorem exec_boothPark_of_stepEnd (hrun : running (s.booth b.val) = true) (hend : (s.booth b.val).atEnd = true) (hpark : (s.booth b.val).park ≠ .refresh)
    (hs1 : s1 = if (s.booth b.val).waits ≠ [] ∧ (s.booth b.val).serviced = false then serve s b.val (s.booth b.val) else s) (hy : s1.booth b.val = y) :
    exec (.boothPark b) s = if dieRefresh s b.val = some .due then
        .next (issueRefresh (bump (s1.setBooth b.val { parkFor y .refresh (fun _ => true) with askPark := false })
          (pgBth (bthStack b.val) 0 + 0x114) 0 16 1) (bthStack b.val) (bthDie b.val))
      else if y.askPark = true then .next ((forcedBanks s1 b.val y).foldl (fun s k => forceRefresh s b.val k) (s1.setBooth b.val { y with askPark := false }))
      else .next s1 := by
  have hserved : (if (!(s.booth b.val).waits.isEmpty && !(s.booth b.val).serviced) = true then serve s b.val (s.booth b.val) else s) = s1 := by
    have hiff : ((!(s.booth b.val).waits.isEmpty && !(s.booth b.val).serviced) = true) = ((s.booth b.val).waits ≠ [] ∧ (s.booth b.val).serviced = false) :=
      propext (by cases (s.booth b.val).waits <;> simp)
    rw [hs1]
    simp only [hiff]
  have hgo : ¬ ((!running (s.booth b.val)) = true ∨ (!(s.booth b.val).atEnd) = true ∨ (s.booth b.val).park = .refresh) := by
    simp [hrun, hend, hpark]
  simp only [exec, execBoothPark, if_neg hgo, hserved, hy, decide_eq_true_eq]

theorem exec_boothPark_waits (h : running (s.booth b.val) = false ∨ (s.booth b.val).atEnd = false ∨ (s.booth b.val).park = .refresh) :
    exec (.boothPark b) s = .next s := by
  refine if_pos ?_
  obtain h | h | h := h <;> simp [h]

theorem serve_booth (s : State) (b : Nat) (y : Booth) :
    (serve s b y).booth b = { parkFor y .access (fun k => y.waits.contains (k % 8)) with waits := [], serviced := true } := by
  have hbump : (serve s b y).booth b =
      (s.setBooth b { parkFor y .access (fun k => y.waits.contains (k % 8)) with waits := [], serviced := true }).booth b := rfl
  rw [hbump, booth_setBooth, if_pos rfl]

end

/-- Settles O33: refresh of one bank and of all, its completion, and a booth that parks at a step end. -/
theorem boothsParkForRefresh : Obligations.BoothsParkForRefresh := by
  refine ⟨fun b bank s => exec_perBankRefresh_closed, fun b bank s hrun hopen => ?_,
    fun f die s => ⟨exec_allBankRefresh_again, exec_allBankRefresh_of_idle, exec_refreshComplete_unissued, exec_refreshComplete_issued⟩,
    fun b s s1 y hrun hend hpark hs1 hy => ?_, fun b s => ?_, fun b s => exec_boothPark_waits⟩
  · rw [exec_perBankRefresh_open hrun hopen]
    exact ⟨fun hn => if_pos hn, fun hn hend hpark => by rw [if_neg (Nat.not_lt.mpr hn), if_pos ⟨hend, hpark⟩], fun hn hnot => by
      rw [if_neg (Nat.not_lt.mpr hn), if_neg (fun ⟨hend, hpark⟩ => hnot.elim (fun h => Bool.noConfusion (h.symm.trans hend)) (fun h => h hpark))]⟩
  · rw [exec_boothPark_of_stepEnd hrun hend hpark hs1 hy]
    exact ⟨fun hdue => if_pos hdue, fun hdue hask => by rw [if_neg hdue, if_pos hask], fun hdue hask => by rw [if_neg hdue, hask]; rfl⟩
  · rw [serve_booth]
    exact ⟨rfl, rfl, rfl, fun k => by simp [parkFor]⟩

end Sys2Proof.Proofs.Parking
end

section
/-! PROOF. Demotion, the end of a move, and visits (R229-R245). -/
namespace Sys2Proof.Proofs.TierMoves
open Sys2Proof.Machine Sys2Proof.Safety Sys2Proof.Laws

/-! ### Demotion -/

section
variable {part : Fin 32} {t0 : Bool} {s : State}

/-- The state with the demotion of a tier under way. -/
def demoting (s : State) (p : Nat) (t0 : Bool) : State :=
  if s.tiers.active.contains (p, t0) then s else { s with tiers := { s.tiers with active := s.tiers.active ++ [(p, t0)] } }

theorem exec_demotion_stops (hrun : s.tiers.active.contains (part.val, t0) = true) (henough : tierTotal s part.val t0 ≤ tierFree s part.val t0 * 32) :
    exec (.demotion part t0) s = .next { s with tiers := { s.tiers with active := s.tiers.active.filter (fun a => decide (a ≠ (part.val, t0))) } } := by
  refine if_pos ?_
  simp only [hrun, Bool.true_and]
  exact decide_eq_true henough

/-- A tier whose demotion does not stop here. -/
def Wanting (s : State) (p : Nat) (t0 : Bool) : Prop :=
  s.tiers.active.contains (p, t0) = true ∧ tierFree s p t0 * 32 < tierTotal s p t0 ∨
    s.tiers.active.contains (p, t0) = false ∧ tierFree s p t0 * 64 < tierTotal s p t0

theorem not_stops_of_wanting (h : Wanting s part.val t0) :
    ¬ (s.tiers.active.contains (part.val, t0) && decide (tierFree s part.val t0 * 32 ≥ tierTotal s part.val t0)) = true := by
  rw [Bool.and_eq_true, decide_eq_true_eq]
  rintro ⟨hrun, henough⟩
  obtain ⟨-, hlow⟩ | ⟨hno, -⟩ := h
  · omega
  · exact Bool.noConfusion (hrun.symm.trans hno)

theorem exec_demotion_starts_not (hrun : s.tiers.active.contains (part.val, t0) = false) (henough : tierTotal s part.val t0 ≤ tierFree s part.val t0 * 64) :
    exec (.demotion part t0) s = .next s := by
  have hgo : ¬ (s.tiers.active.contains (part.val, t0) && decide (tierFree s part.val t0 * 32 ≥ tierTotal s part.val t0)) = true := by
    rw [hrun, Bool.false_and]
    exact Bool.false_ne_true
  refine (if_neg hgo).trans (if_pos ?_)
  rw [hrun, decide_eq_true henough]
  rfl

theorem exec_demotion_waits (h : Wanting s part.val t0) (ht0 : t0 = false) (hbusy : cabFree s 5 = false) : exec (.demotion part t0) s = .next s := by
  refine (if_neg (not_stops_of_wanting h)).trans (if_pos ?_)
  rw [ht0, hbusy]
  exact Bool.or_true _

/-- The oldest eligible drawer of a tier is demoted, where there is one. -/
theorem exec_demotion_of_wanting (h : Wanting s part.val t0) (hfree : t0 = true ∨ cabFree s 5 = true) : exec (.demotion part t0) s =
    match oldest (eligibles { demoting s part.val t0 with free := s.free + 1 } part.val t0) (Config.freeNat s.free) with
    | none => .next (demoting s part.val t0)
    | some (i, series, idx, _) => .next (startDemotion { demoting s part.val t0 with free := s.free + 1 } part.val i series idx t0) := by
  have hgo : ¬ (((!s.tiers.active.contains (part.val, t0)) && decide (tierFree s part.val t0 * 64 ≥ tierTotal s part.val t0)) ||
      (!t0 && !cabFree s 5)) = true := by
    rw [Bool.or_eq_true, Bool.and_eq_true, Bool.and_eq_true, decide_eq_true_eq]
    rintro (⟨hno, henough⟩ | ⟨hcold, hbusy⟩)
    · obtain ⟨hrun, -⟩ | ⟨-, hlow⟩ := h
      · rw [hrun] at hno; exact Bool.noConfusion hno
      · omega
    · obtain rfl | hcab := hfree
      · exact Bool.noConfusion hcold
      · rw [hcab] at hbusy; exact Bool.noConfusion hbusy
  have hdraw : draw (demoting s part.val t0) = (Config.freeNat s.free, { demoting s part.val t0 with free := s.free + 1 }) := by
    unfold demoting
    split <;> rfl
  refine ((if_neg (not_stops_of_wanting h)).trans (if_neg hgo)).trans ?_
  change (match oldest (eligibles (draw (demoting s part.val t0)).2 part.val t0) (draw (demoting s part.val t0)).1 with
    | none => Host.Outcome.next (demoting s part.val t0)
    | some (i, series, idx, _) => .next (startDemotion (draw (demoting s part.val t0)).2 part.val i series idx t0)) = _
  rw [hdraw] <;> rfl

end

/-! ### The end of a move -/

section
variable {shelf series idx : Nat} {s s0 : State} {sh : Shelf} {d : Drawer} {l : Loc}

theorem exec_moveEnd_read (hsh : s.shelf? shelf = some sh) (hd : getDrawer sh series idx = some d) (hl : d.moving = some l)
    (hread : beingRead s shelf series idx = true) : exec (.moveEnd shelf series idx) s = .next s := by
  simp only [exec, execMoveEnd, hsh, hd, hl, hread, if_true]

theorem exec_moveEnd_damaged {w : Nat × Nat} (hsh : s.shelf? shelf = some sh) (hd : getDrawer sh series idx = some d) (hl : d.moving = some l)
    (hread : beingRead s shelf series idx = false) (hbad : readDrawer s d = (some w, s0)) :
    exec (.moveEnd shelf series idx) s = .next (damage (putDrawer s0 shelf { d with moving := none }) shelf (.inl w)) := by
  simp only [exec, execMoveEnd, hsh, hd, hl, hread, hbad, Bool.false_eq_true, if_false]

theorem exec_moveEnd_hbm (hsh : s.shelf? shelf = some sh) (hd : getDrawer sh series idx = some d) (hl : d.moving = some l)
    (hread : beingRead s shelf series idx = false) (hgood : readDrawer s d = (none, s0)) (hto : ∀ n, l ≠ .cab n) :
    exec (.moveEnd shelf series idx) s = .next (settled (endHbmMove s0 shelf sh d l) shelf) := by
  simp only [exec, execMoveEnd, hsh, hd, hl, hread, hgood, Bool.false_eq_true, if_false]

theorem exec_moveEnd_stored {n u : Nat} {q : Place} {s1 : State} (hsh : s.shelf? shelf = some sh) (hd : getDrawer sh series idx = some d)
    (hl : d.moving = some (.cab n)) (hread : beingRead s shelf series idx = false) (hgood : readDrawer s d = (none, s0)) (hloc : d.loc = .hbm q)
    (hrw : s0.cab.readOnly = false) (hstore : storeDrawer s0 shelf sh d = (u, s1)) : exec (.moveEnd shelf series idx) s =
      .next (settled (bump (relocate s1 shelf series idx (.cab u)) (pgPart sh.key.part + 0x220) 16 16 1) shelf) := by
  simp only [exec, execMoveEnd, hsh, hd, hl, hread, hgood, hloc, hrw, hstore, Bool.false_eq_true, if_false]

theorem exec_moveEnd_readOnly {n : Nat} {q : Place} (hsh : s.shelf? shelf = some sh) (hd : getDrawer sh series idx = some d)
    (hl : d.moving = some (.cab n)) (hread : beingRead s shelf series idx = false) (hgood : readDrawer s d = (none, s0)) (hloc : d.loc = .hbm q)
    (hro : s0.cab.readOnly = true) : exec (.moveEnd shelf series idx) s = .next (settled (putDrawer s0 shelf { d with moving := none }) shelf) := by
  simp only [exec, execMoveEnd, hsh, hd, hl, hread, hgood, hloc, hro, Bool.false_eq_true, if_false, if_true]

theorem exec_moveEnd_clean {n u : Nat} {q : Place} (hsh : s.shelf? shelf = some sh) (hd : getDrawer sh series idx = some d)
    (hl : d.moving = some (.cab n)) (hread : beingRead s shelf series idx = false) (hgood : readDrawer s d = (none, s0)) (hloc : d.loc = .clean q u) :
    exec (.moveEnd shelf series idx) s = .next (settled (bump (relocate s0 shelf series idx (.cab u)) (pgPart sh.key.part + 0x220) 16 16 1) shelf) := by
  simp only [exec, execMoveEnd, hsh, hd, hl, hread, hgood, hloc, Bool.false_eq_true, if_false]

theorem exec_moveEnd_idle (h : s.shelf? shelf = none ∨ ∃ sh, s.shelf? shelf = some sh ∧ (getDrawer sh series idx = none ∨
    ∃ d, getDrawer sh series idx = some d ∧ d.moving = none)) : exec (.moveEnd shelf series idx) s = .next s := by
  obtain hno | ⟨sh, hsh, hnod | ⟨d, hd, hstill⟩⟩ := h
  · simp only [exec, execMoveEnd, hno]
  · simp only [exec, execMoveEnd, hsh, hnod]
  · simp only [exec, execMoveEnd, hsh, hd, hstill]

/-! ### Visits -/

theorem exec_tierVisit_of_drawer (hsh : s.shelf? shelf = some sh) (hd : getDrawer sh series idx = some d) : exec (.tierVisit shelf series idx) s =
    .next (pinCheck (pinWork (if 32768 ≤ ageOf s d.stamp then putDrawer s shelf { d with stamp := (stampNow s + 32768) % 65536 } else s) shelf (shelfDie sh) 0)
      shelf) := by
  simp only [exec, execTierVisit, hsh, hd, ge_iff_le]

theorem exec_tierVisit_idle (h : s.shelf? shelf = none ∨ ∃ sh, s.shelf? shelf = some sh ∧ getDrawer sh series idx = none) :
    exec (.tierVisit shelf series idx) s = .next s := by
  obtain hno | ⟨sh, hsh, hnod⟩ := h
  · simp only [exec, execTierVisit, hno]
  · simp only [exec, execTierVisit, hsh, hnod]

end

/-- Settles O34: demotion of a tier, the end of a drawer's move, and a tier visit. -/
theorem drawersMoveBetweenTiers : Obligations.DrawersMoveBetweenTiers := by
  refine ⟨fun part t0 s => ⟨exec_demotion_stops, exec_demotion_starts_not, exec_demotion_waits, fun h hfree => ⟨Config.freeNat s.free, ?_, ?_⟩⟩,
    fun shelf series idx s sh d l hsh hd hl => ⟨exec_moveEnd_read hsh hd hl, fun hread => ⟨fun w s0 => exec_moveEnd_damaged hsh hd hl hread,
      fun s0 hgood => ⟨fun q hq => exec_moveEnd_hbm hsh hd hl hread hgood ?_, ?_, ?_, ?_⟩⟩⟩, fun shelf series idx s => exec_moveEnd_idle,
    fun shelf series idx s sh d hsh hd => ?_, fun shelf series idx s => exec_tierVisit_idle⟩
  · intro i series idx age hold
    have hold' : oldest (eligibles { demoting s part.val t0 with free := s.free + 1 } part.val t0) (Config.freeNat s.free) = some (i, series, idx, age) := hold
    rw [exec_demotion_of_wanting h hfree, hold'] <;> rfl
  · intro hold
    have hold' : oldest (eligibles { demoting s part.val t0 with free := s.free + 1 } part.val t0) (Config.freeNat s.free) = none := hold
    rw [exec_demotion_of_wanting h hfree, hold'] <;> rfl
  · rintro n rfl
    obtain hq | ⟨u, hq⟩ := hq <;> exact Loc.noConfusion hq
  · rintro n u q s1 rfl hloc hrw hstore
    exact exec_moveEnd_stored hsh hd hl hread hgood hloc hrw hstore
  · rintro n q rfl hloc hro
    exact exec_moveEnd_readOnly hsh hd hl hread hgood hloc hro
  · rintro n u q rfl hloc
    exact exec_moveEnd_clean hsh hd hl hread hgood hloc
  · rw [exec_tierVisit_of_drawer hsh hd]
    exact ⟨fun hold => by rw [if_pos hold], fun hyoung => by rw [if_neg (Nat.not_le.mpr hyoung)]⟩

end Sys2Proof.Proofs.TierMoves
end

section
/-! PROOF. Waiting allocations, cold reads and lifts (R236-R248). -/
namespace Sys2Proof.Proofs.Lifts
open Sys2Proof.Machine Sys2Proof.Safety Sys2Proof.Laws

/-! ### Waiting allocations -/

section
variable {part : Fin 32} {s s1 : State} {w : AllocWait} {sh : Shelf}

/-- The state in which a wait is taken up. -/
def unwaited (s : State) (w : AllocWait) : State := { s with tiers := { s.tiers with waits := s.tiers.waits.erase w } }

/-- A wait is for a pin where its drawer lies in a front stack already. -/
def pinWait (sh : Shelf) (w : AllocWait) : Bool := match getDrawer sh w.series w.idx with | some d => (locPlace d.loc).isSome | none => false

/-- The place that a wait would take. -/
def waitPlace (sh : Shelf) (w : AllocWait) (u : State) (x : Shelf) : Option Place :=
  if pinWait sh w then frontPlace u x w.series w.idx else findPlace u x w.series w.idx

def waitRoom (sh : Shelf) (w : AllocWait) (u : State) : Bool := match u.shelf? w.shelf with | some x => (waitPlace sh w u x).isSome | none => false

theorem exec_allocationPlaceFreed_idle (h : s.tiers.waits.find? (fun w => decide (w.part = part.val)) = none) :
    exec (.allocationPlaceFreed part) s = .next s := by
  simp only [exec, execAllocationPlaceFreed, h]

theorem exec_allocationPlaceFreed_gone (hw : s.tiers.waits.find? (fun w => decide (w.part = part.val)) = some w) (hsh : s.shelf? w.shelf = none) :
    exec (.allocationPlaceFreed part) s = .next (unwaited s w) := by
  have hsh0 : (unwaited s w).shelf? w.shelf = none := hsh
  unfold unwaited at hsh0 ⊢
  simp only [exec, execAllocationPlaceFreed, hw, hsh0]

theorem exec_allocationPlaceFreed_over (hw : s.tiers.waits.find? (fun w => decide (w.part = part.val)) = some w) (hsh : s.shelf? w.shelf = some sh)
    (hlive : waitLive sh w = false) : exec (.allocationPlaceFreed part) s = .next (unwaited s w) := by
  have hsh0 : (unwaited s w).shelf? w.shelf = some sh := hsh
  unfold unwaited at hsh0 ⊢
  simp only [exec, execAllocationPlaceFreed, hw, hsh0, hlive, Bool.not_false, if_true]

/-- The earliest wait goes on where its place is free or can be made free, and fails where it cannot. -/
theorem exec_allocationPlaceFreed_live (hw : s.tiers.waits.find? (fun w => decide (w.part = part.val)) = some w) (hsh : s.shelf? w.shelf = some sh)
    (hlive : waitLive sh w = true) : exec (.allocationPlaceFreed part) s =
      if (waitPlace sh w (unwaited s w) sh).isSome = true then .next (allocGo (unwaited s w) sh w)
      else match freeTierPlace (unwaited s w) part.val w.t0 w.shelf (waitRoom sh w) with
        | (none, s1) => .next (allocGo s1 sh w)
        | (some e, s1) => match s1.shelf? w.shelf with
          | some x => .next (allocFail s1 x w e)
          | none => .next s1 := by
  have hroom : waitRoom sh w = fun s : State => match s.shelf? w.shelf with
      | some x => if pinWait sh w then (frontPlace s x w.series w.idx).isSome else (findPlace s x w.series w.idx).isSome
      | none => false := by
    funext u
    unfold waitRoom waitPlace
    cases u.shelf? w.shelf with
    | none => rfl
    | some x => cases pinWait sh w <;> rfl
  have hhere : (waitPlace sh w (unwaited s w) sh).isSome =
      if pinWait sh w then (frontPlace (unwaited s w) sh w.series w.idx).isSome else (findPlace (unwaited s w) sh w.series w.idx).isSome := by
    unfold waitPlace
    cases pinWait sh w <;> rfl
  have hsh0 : (unwaited s w).shelf? w.shelf = some sh := hsh
  unfold unwaited at hsh0 hhere ⊢
  rw [hroom, hhere]
  simp only [exec, execAllocationPlaceFreed, hw, hsh0, hlive, Bool.not_true, Bool.false_eq_true, if_false]
  rfl

end

/-! ### Cold reads -/

section
variable {req run series i : Nat} {got : ColdAt} {s s1 : State} {r : Req} {x : Run} {sh : Shelf} {d : Drawer}

/-- A drawer in flight for a run arrives as its location says. -/
theorem exec_coldReadDone_of_flight (hup : got.upsets ≤ 2) (hserve : noService s = false) (hr : tget? s.reqs req = some r) (hx : r.runs[run]? = some x)
    (hi : r.shelf = some i) (hsh : s.shelf? i = some sh) (hd : getDrawer sh series got.idx = some d) (hin : inFlight x = true)
    (hfly : (coldFlight sh x).contains (series, got.idx) = true) : exec (.coldReadDone req run series got) s = match d.loc with
      | .cab u =>
        if (tget? s.cab.units u).isNone then .next (runIntegrity s req r i x.tile (.inr u))
        else if got.upsets = 2 then .next (endAttend (countRead (countRead s u) u) req r { status := 0x22 })
        else .next (pinCheck (liftOnRead (coldArrived (if got.upsets = 1 then countRead (countRead s u) u else countRead s u) req run i sh r x (series, got.idx))
          i series got.idx) i)
      | .clean _ _ | .hbm _ =>
        match readDrawer s d with
        | (some w, s1) => .next (runIntegrity s1 req r i x.tile (.inl w))
        | (none, s1) => .next (coldArrived s1 req run i sh r x (series, got.idx))
      | _ => .next s := by
  have hfound : r.shelf.bind (fun i => (s.shelf? i).map (fun sh => (i, sh))) = some (i, sh) := by simp only [hi, Option.bind_some, hsh, Option.map_some]
  simp only [exec, execColdReadDone, if_neg (Nat.not_lt.mpr hup), gt_iff_lt, hserve, hr, hx, hfound, hin, hfly, hd, Bool.not_true, Bool.or_self, Bool.false_eq_true,
    if_false] <;> rfl

theorem exec_coldReadDone_idle (hup : got.upsets ≤ 2) (h : noService s = true ∨ tget? s.reqs req = none) : exec (.coldReadDone req run series got) s = .next s := by
  simp only [exec, execColdReadDone, gt_iff_lt, if_neg (Nat.not_lt.mpr hup)]
  split
  · rfl
  · next hserve => rw [h.resolve_left hserve]

theorem coldFlight_le (sh : Shelf) (x : Run) : (coldFlight sh x).length ≤ 16 ∧ ∀ k ∈ coldFlight sh x, k ∈ x.coldLeft :=
  ⟨List.length_take_le _ _, fun _ hk => (List.mem_filter.mp (List.mem_of_mem_take hk)).1⟩

end

/-! ### Lifts -/

section
variable {die : Fin 4} {s s1 : State} {l : Lift} {sh : Shelf} {d : Drawer}

theorem exec_liftTaken_none (h : nextLift s die.val = none) : exec (.liftTaken die) s = .next s := by
  simp only [exec, execLiftTaken, h]

theorem exec_liftRoom_none (h : firstLift s die.val (fun p => decide (p = .room)) = none) : exec (.liftRoom die) s = .next s := by
  simp only [exec, execLiftRoom, h]

/-- The next lift of a die is one of its queued lifts, and a demand read where one is still needed. -/
theorem nextLift_mem {n : Nat} (h : nextLift s n = some l) : l ∈ s.tiers.lifts ∧ l.die = n ∧ l.phase = .queued ∧
    (l.demand = false → ∀ x ∈ s.tiers.lifts, x.die = n → x.phase = .queued → x.demand = true → liftNeeded s x = false) := by
  unfold nextLift at h
  dsimp only at h
  obtain ⟨p, -, hfind⟩ := List.exists_of_findSome?_eq_some h
  have hmem := List.mem_of_find?_eq_some hfind
  split at hmem
  · obtain ⟨hq, hdemand⟩ := List.mem_filter.mp hmem
    obtain ⟨hin, hcond⟩ := List.mem_filter.mp hq
    simp only [Bool.and_eq_true, decide_eq_true_eq] at hcond
    exact ⟨hin, hcond.1.1, hcond.1.2, fun hno => Bool.noConfusion (hno.symm.trans hdemand)⟩
  · next hnone =>
    obtain ⟨hin, hcond⟩ := List.mem_filter.mp hmem
    simp only [Bool.and_eq_true, decide_eq_true_eq] at hcond
    refine ⟨hin, hcond.1.1, hcond.1.2, fun _ x hx hdie hphase hdemand => Bool.eq_false_iff.mpr fun hneeded => hnone ?_⟩
    exact List.any_eq_true.mpr ⟨x, List.mem_filter.mpr ⟨hx, by simp [hdie, hphase, hneeded]⟩, hdemand⟩

theorem exec_liftTaken_of_drawer (hsh : s.shelf? l.shelf = some sh) (hd : getDrawer sh l.series l.idx = some d) (hl : nextLift s die.val = some l) :
    exec (.liftTaken die) s = match d.loc with
      | .cab _ => if (l.demand || cabFree s 4) = true then .next (setLift { s with tiers := { s.tiers with turn := sh.key.part } } l .room) else .next s
      | .hbm _ | .clean _ _ => .next (pinCheck (dropLift s l) l.shelf)
      | _ => .next (liftSkipped s l) := by
  have hpart : liftPart s l = sh.key.part := by simp only [liftPart, hsh]
  have hloc : ((s.shelf? l.shelf).bind (fun sh => getDrawer sh l.series l.idx)).map Drawer.loc = some d.loc := by
    rw [hsh, Option.bind_some, hd, Option.map_some]
  simp only [exec, execLiftTaken, hl, hloc, hpart]
  cases d.loc <;> rfl

section
variable (hsh : s.shelf? l.shelf = some sh) (hl : firstLift s die.val (fun p => decide (p = .room)) = some l)
include hsh hl

theorem exec_liftRoom_found {q : Place} (hq : findPlace s sh l.series l.idx = some q) : exec (.liftRoom die) s = .next (setLift s l (.reading q)) := by
  simp only [exec, execLiftRoom, hl, hsh, hq]

theorem exec_liftRoom_made {x : Shelf} {q : Place} (hno : findPlace s sh l.series l.idx = none)
    (hmade : freeTierPlace s sh.key.part (asksT0 s sh.key.part l.series) l.shelf (roomFor l.shelf l.series l.idx)
      (if l.demand then 0 else 16 * rdf s (pgPart sh.key.part + 0x210) 15 8) = (none, s1))
    (hx : s1.shelf? l.shelf = some x) (hq : findPlace s1 x l.series l.idx = some q) : exec (.liftRoom die) s = .next (setLift s1 l (.reading q)) := by
  simp only [exec, execLiftRoom, hl, hsh, hno, hmade, hx, Option.bind_some, hq]

theorem exec_liftRoom_noRoom {e : Nat} (hno : findPlace s sh l.series l.idx = none)
    (hmade : freeTierPlace s sh.key.part (asksT0 s sh.key.part l.series) l.shelf (roomFor l.shelf l.series l.idx)
      (if l.demand then 0 else 16 * rdf s (pgPart sh.key.part + 0x210) 15 8) = (some e, s1)) :
    exec (.liftRoom die) s = .next (if l.demand then liftBack s1 l else liftSkipped s1 l e) := by
  simp only [exec, execLiftRoom, hl, hsh, hno, hmade]

end

/-- The lift that a placement ends: one whose drawer is being read, or a demand read that is not needed. -/
def placing (s : State) (die shelf series idx : Nat) (l : Lift) : Bool :=
  decide (l.die = die) && decide (l.shelf = shelf) && decide (l.series = series) && decide (l.idx = idx) &&
    (match l.phase with | .reading _ => true | _ => l.demand && !liftNeeded s l)

/-- The state with a lifted drawer placed as a clean copy. -/
def placed (s : State) (l : Lift) (shelf series idx u : Nat) (q : Place) : State :=
  touch (relocate (countRead { s with tiers := { s.tiers with lifts := s.tiers.lifts.erase l } } u) shelf series idx (.clean q u)) shelf series idx

theorem exec_liftPlaced_of_cab {shelf series idx u : Nat} {q : Place} (hsh : s.shelf? shelf = some sh) (hd : getDrawer sh series idx = some d)
    (hloc : d.loc = .cab u) (hphase : l.phase = .reading q) (hl : s.tiers.lifts.find? (placing s die.val shelf series idx) = some l) :
    exec (.liftPlaced die shelf series idx) s =
      if beingRead s shelf series idx = true then .next s
      else if (tget? s.cab.units u).isNone = true then
        .next (if l.demand then endDemand (damage s shelf (.inr u)) l else damage (liftSkipped s l) shelf (.inr u))
      else .next (if l.demand then pinCheck (endDemand (placed s l shelf series idx u q) l) shelf
        else pinCheck (bump (placed s l shelf series idx u q) (pgPart sh.key.part + 0x228) 0 16 1) shelf) := by
  have hdrawer : (s.shelf? shelf).bind (fun sh => (getDrawer sh series idx).map (fun d => (sh, d))) = some (sh, d) := by
    rw [hsh, Option.bind_some, hd, Option.map_some]
  change (match s.tiers.lifts.find? (placing s die.val shelf series idx) with | none => _ | some l => _) = _
  rw [hl]
  dsimp only
  rw [hphase, hdrawer]
  dsimp only
  rw [hloc] <;> rfl

end

/-- Settles O35: waiting allocations, cold reads, and lifts from taken to placed. -/
theorem allocationsColdReadsAndLifts : Obligations.AllocationsColdReadsAndLifts := by
  refine ⟨fun part s => ⟨exec_allocationPlaceFreed_idle, fun w hw => ⟨exec_allocationPlaceFreed_gone hw, fun sh hsh =>
      ⟨exec_allocationPlaceFreed_over hw hsh, fun hlive => ⟨fun hplace => ?_, fun hnone => ⟨fun s1 hmade => ?_, fun e s1 x hmade hx => ?_⟩⟩⟩⟩⟩,
    ⟨fun req run series i got s r x sh d hup hserve hr hx hi hsh hd hin hfly => ⟨fun u c hloc hc => ?_, fun u hloc hc => ?_, fun q u hloc => ?_⟩,
      fun req run series got s => exec_coldReadDone_idle, coldFlight_le, fun die s => ⟨exec_liftTaken_none, exec_liftRoom_none⟩,
      fun s die l => nextLift_mem, fun die s l sh d hsh hd => ⟨fun hl => ?_, fun hl => ⟨fun q => exec_liftRoom_found hsh hl,
        fun s1 x q => exec_liftRoom_made hsh hl, fun e s1 hno hmade => ?_⟩⟩,
      fun die shelf series idx u s l sh d q c hsh hd hloc hphase hl => ?_⟩⟩
  · rw [exec_allocationPlaceFreed_live hw hsh hlive]
    exact if_pos (Option.isSome_iff_ne_none.mpr hplace)
  · have hno : waitPlace sh w (unwaited s w) sh = none := hnone
    have hmade' : freeTierPlace (unwaited s w) part.val w.t0 w.shelf (waitRoom sh w) = (none, s1) := hmade
    rw [exec_allocationPlaceFreed_live hw hsh hlive, hno, hmade'] <;> rfl
  · have hno : waitPlace sh w (unwaited s w) sh = none := hnone
    have hmade' : freeTierPlace (unwaited s w) part.val w.t0 w.shelf (waitRoom sh w) = (some e, s1) := hmade
    rw [exec_allocationPlaceFreed_live hw hsh hlive, hno, hmade']
    simp only [Option.isSome_none, Bool.false_eq_true, if_false, hx]
  · rw [exec_coldReadDone_of_flight hup hserve hr hx hi hsh hd hin hfly, hloc]
    dsimp only
    rw [hc]
    exact ⟨fun h => by rw [h]; rfl, fun h => by rw [h]; rfl, fun h => by rw [h]; rfl⟩
  · rw [exec_coldReadDone_of_flight hup hserve hr hx hi hsh hd hin hfly, hloc]
    dsimp only
    rw [hc] <;> rfl
  · rw [exec_coldReadDone_of_flight hup hserve hr hx hi hsh hd hin hfly]
    refine ⟨fun s1 hgood => ?_, fun w s1 hbad => ?_⟩
    · rw [hgood]
      obtain hloc | hloc := hloc <;> rw [hloc]
    · rw [hbad]
      obtain hloc | hloc := hloc <;> rw [hloc]
  · rw [exec_liftTaken_of_drawer hsh hd hl]
    refine ⟨fun u hloc hfree => ?_, fun u hloc hdemand hbusy => ?_, fun q u hloc => ?_, fun hloc => ?_⟩
    · rw [hloc]
      exact if_pos (by rw [Bool.or_eq_true]; exact hfree)
    · rw [hloc, hdemand, hbusy] <;> rfl
    · obtain hloc | hloc := hloc <;> rw [hloc]
    · rw [hloc]
  · rw [exec_liftRoom_noRoom hsh hl hno hmade]
    exact ⟨fun hdemand => by rw [hdemand]; rfl, fun hdemand => by rw [hdemand]; rfl⟩
  · rw [exec_liftPlaced_of_cab hsh hd hloc hphase hl]
    exact ⟨fun hread => if_pos hread, fun hread hnone => by rw [hread, hnone]; rfl, fun hread hc => by rw [hread, hc]; rfl⟩

end Sys2Proof.Proofs.Lifts
end

section
/-! PROOF. The tier registers of a partition and the compression tables (R235, R257, R261-R263). -/
namespace Sys2Proof.Proofs.TierRegs
open Sys2Proof.Machine Sys2Proof.Safety Sys2Proof.Laws Sys2Proof.Proofs.Firmware

/-! ### The tier registers -/

section
variable {part : Fin 32} {v : Word} {s : State}

/-- The fields of `PART_TIER` beside the scratch reserve. -/
def tierRest (p : Nat) (v : Word) (s : State) : State := wrf (wrf s (pgPart p + 0x210) 0 1 (bits v.toNat 0 1)) (pgPart p + 0x210) 15 8 (bits v.toNat 15 8)

/-- A partition with a new scratch reserve. -/
def reserved (s : State) (p new : Nat) : State := s.setPart p { s.part p with scratch := new, scratchOld := max new (s.part p).scratchOld }

/-- A partition whose scratch reserve is lowered keeps its old one until it is given up. -/
def lowered (s : State) (p new : Nat) : State := s.setPart p { s.part p with scratch := new, scratchOld := max (s.part p).scratch (s.part p).scratchOld }

theorem exec_partTierWrite_of_hostMay (hmay : HostMay s (pgPart part.val)) (hidle : (s.part part.val).busy = false) : exec (.partTierWrite part v) s =
    if bits v.toNat 4 11 < 8 ∨ bits v.toNat 4 11 > 1024 then .next (tierRest part.val v s)
    else if bits v.toNat 4 11 > (s.part part.val).scratch then
      if partCharge (reserved s part.val (bits v.toNat 4 11)) part.val ≤ quotaBytes s part.val then
        .next (wrf (tierRest part.val v (wrf (reserved s part.val (bits v.toNat 4 11)) (pgPart part.val + 0x210) 4 11 (bits v.toNat 4 11)))
          (pgPart part.val + 0x210) 1 1 0)
      else .next (wrf s (pgPart part.val + 0x210) 1 1 1)
    else .next (tierRest part.val v (wrf (lowered s part.val (bits v.toNat 4 11)) (pgPart part.val + 0x210) 4 11 (bits v.toNat 4 11))) := by
  refine (hostWr_of_hostMay hmay _).trans (if_neg ?_)
  rw [hidle]
  exact Bool.false_ne_true

/-- The cabinet shares of the other partitions. -/
def otherShares (s : State) (p : Nat) : Nat := (((List.range 32).filter (fun q => decide (q ≠ p))).map (fun q => rdf s (pgPart q + 0x208) 0 13)).sum

theorem exec_partCabshareWrite_of_hostMay (hmay : HostMay s (pgPart part.val)) (hidle : (s.part part.val).busy = false) :
    exec (.partCabshareWrite part v) s =
      if otherShares s part.val + bits v.toNat 0 13 > 6519 ∨ (bits v.toNat 0 13 ≠ 0 ∧ s.chip.cabCap = false) then
        .next (wrf s (pgPart part.val + 0x208) 31 1 1)
      else .next (wrf (wrf s (pgPart part.val + 0x208) 0 13 (bits v.toNat 0 13)) (pgPart part.val + 0x208) 31 1 0) := by
  refine (hostWr_of_hostMay hmay _).trans (if_neg ?_)
  rw [hidle]
  exact Bool.false_ne_true

theorem exec_partTierWrite_busy (hmay : HostMay s (pgPart part.val)) (hbusy : (s.part part.val).busy = true) : exec (.partTierWrite part v) s = .next s :=
  (hostWr_of_hostMay hmay _).trans (if_pos hbusy)

theorem exec_partCabshareWrite_busy (hmay : HostMay s (pgPart part.val)) (hbusy : (s.part part.val).busy = true) :
    exec (.partCabshareWrite part v) s = .next s :=
  (hostWr_of_hostMay hmay _).trans (if_pos hbusy)

end

/-! ### Compression tables -/

section
variable {id : Nat} {install : Bool} {s : State}

theorem tblCommand_of_takes (hid : id ≤ 63) (hrm : RmTakes s 1) : tblCommand s install id = .next (tblRun s (install, id)) := by
  have hrun : s.stw.rm = .running := hrm.1
  simp only [tblCommand, gt_iff_lt, if_neg (Nat.not_lt.mpr hid), hrun, rmGate_of_rmTakes hrm]
  exact if_neg Rm.noConfusion

theorem tblCommand_held (hid : id ≤ 63) (hrm : s.stw.rm = .held) : tblCommand s install id = .next (tblResult s 1) := by
  simp only [tblCommand, gt_iff_lt, if_neg (Nat.not_lt.mpr hid), rmGate, hrm]
  exact if_neg Rm.noConfusion

theorem tblCommand_restarting (hid : id ≤ 63) (hrm : s.stw.rm = .restarting) :
    tblCommand s install id = .next { s with cab := { s.cab with tblWait := s.cab.tblWait ++ [(install, id)] } } :=
  (if_neg (Nat.not_lt.mpr hid)).trans (if_pos hrm)

theorem tblCommand_full (hid : id ≤ 63) (hrm : s.stw.rm = .running) (hfull : deferred s 1 = true ∨ classQueue 1 ≤ s.stw.queues.getD 1 0) :
    tblCommand s install id = .next (tblResult (bump s (pgStw + 0x114) 0 32 1) 1) := by
  simp only [tblCommand, gt_iff_lt, if_neg (Nat.not_lt.mpr hid), rmGate, hrm, ge_iff_le, if_pos hfull]
  exact if_neg Rm.noConfusion

theorem exec_cabTblInstall_of_hostMay (hmay : HostMay s pgCab) : exec (.cabTblInstall id) s = tblCommand s true id := hostWr_of_hostMay hmay _

theorem exec_cabTblRetire_of_hostMay (hmay : HostMay s pgCab) : exec (.cabTblRetire id) s = tblCommand s false id := hostWr_of_hostMay hmay _

theorem tblRun_install (hid : 1 ≤ id) : tblRun s (true, id) = tblInstall s id := by
  simp only [tblRun, if_neg (Nat.one_le_iff_ne_zero.mp hid), if_true]

theorem tblRun_retire (hid : 1 ≤ id) : tblRun s (false, id) = tblRetire s id := by
  simp only [tblRun, if_neg (Nat.one_le_iff_ne_zero.mp hid), Bool.false_eq_true, if_false]

/-- What an installation does (R261). -/
theorem tblInstall_cases (s : State) (id : Nat) :
    (tblOk (mread s.cab.window 0 2304) = false → tblInstall s id = tblResult s 1) ∧
    (tblOk (mread s.cab.window 0 2304) = true → tget? s.cab.tables id ≠ none → tblInstall s id = tblResult s 2) ∧
    (tblOk (mread s.cab.window 0 2304) = true → tget? s.cab.tables id = none → tblInstall s id = tblResult
      { s with cab := { s.cab with tables := tput s.cab.tables id (mread s.cab.window 0 2304),
                                   active := tput s.cab.active (le (mread s.cab.window 0 2304) 6 1 + 256 * le (mread s.cab.window 0 2304) 7 1) id } } 0) := by
  unfold tblInstall
  generalize mread s.cab.window 0 2304 = b
  dsimp only
  refine ⟨fun hbad => if_pos (by rw [hbad]; rfl), fun hok hthere => ?_, fun hok hfree => ?_⟩
  · rw [hok, if_neg (by decide), if_pos (Option.isSome_iff_ne_none.mpr hthere)]
  · rw [hok, hfree]; rfl

/-- What a retirement does (R261). -/
theorem tblRetire_cases (s : State) (id : Nat) :
    (tget? s.cab.tables id = none → tblRetire s id = tblResult s 4) ∧
    (tget? s.cab.tables id ≠ none → s.cab.units.any (fun e => decide (e.2.table = id)) = true → tblRetire s id = tblResult s 3) ∧
    (tget? s.cab.tables id ≠ none → s.cab.units.any (fun e => decide (e.2.table = id)) = false → tblRetire s id = tblResult
      { s with cab := { s.cab with tables := tdel s.cab.tables id, active := s.cab.active.filter (fun e => decide (e.2 ≠ id)) } } 0) := by
  have hgo : tget? s.cab.tables id ≠ none → ¬ (tget? s.cab.tables id).isNone = true := fun h hnone => h (Option.isNone_iff_eq_none.mp hnone)
  exact ⟨fun hno => if_pos (Option.isNone_iff_eq_none.mpr hno), fun h hused => (if_neg (hgo h)).trans (if_pos hused),
    fun h hunused => (if_neg (hgo h)).trans (if_neg (Bool.eq_false_iff.mp hunused))⟩

end

/-- Settles O36: the scratch reserve, the cabinet share, and the commands of the compression tables. -/
theorem tierRegistersAndTables : Obligations.TierRegistersAndTables := by
  refine ⟨⟨fun part v s hmay hidle => ?_, fun part v s hmay hidle => ?_, fun part v s hmay hbusy =>
      ⟨exec_partTierWrite_busy hmay hbusy, exec_partCabshareWrite_busy hmay hbusy⟩⟩,
    fun id s hid hmax hmay hrm => ?_, fun id s hmax hmay => ?_, fun s hmay hrm => ?_⟩
  · rw [exec_partTierWrite_of_hostMay hmay hidle]
    refine ⟨fun hout => if_pos hout, fun hlo hhi hup hfits => ?_, fun hlo hhi hup hover => ?_, fun hlo hdown hhi => ?_⟩
    · rw [if_neg (not_or.mpr ⟨Nat.not_lt.mpr hlo, Nat.not_lt.mpr hhi⟩), if_pos hup]
      exact if_pos hfits
    · rw [if_neg (not_or.mpr ⟨Nat.not_lt.mpr hlo, Nat.not_lt.mpr hhi⟩), if_pos hup]
      exact if_neg (Nat.not_le.mpr hover)
    · rw [if_neg (not_or.mpr ⟨Nat.not_lt.mpr hlo, Nat.not_lt.mpr hhi⟩), if_neg (Nat.not_lt.mpr hdown)]
      rfl
  · rw [exec_partCabshareWrite_of_hostMay hmay hidle]
    refine ⟨fun hout => if_pos hout, fun hfits hcap => if_neg (not_or.mpr ⟨Nat.not_lt.mpr hfits, fun ⟨hne, hno⟩ => ?_⟩)⟩
    exact hcap.elim hne (fun hyes => Bool.noConfusion (hyes.symm.trans hno))
  · rw [exec_cabTblInstall_of_hostMay hmay, exec_cabTblRetire_of_hostMay hmay, tblCommand_of_takes hmax hrm, tblCommand_of_takes hmax hrm,
      tblRun_install hid, tblRun_retire hid]
    obtain ⟨hbad, htaken, hgood⟩ := tblInstall_cases s id
    obtain ⟨hgone, hused, hretired⟩ := tblRetire_cases s id
    exact ⟨fun h => congrArg _ (hbad h), fun h h' => congrArg _ (htaken h h'), fun h h' => congrArg _ (hgood h h'), fun h => congrArg _ (hgone h),
      fun h h' => congrArg _ (hused h h'), fun h h' => congrArg _ (hretired h h')⟩
  · rw [exec_cabTblInstall_of_hostMay hmay, exec_cabTblRetire_of_hostMay hmay]
    exact ⟨fun h => ⟨tblCommand_held hmax h, tblCommand_held hmax h⟩, fun h => ⟨tblCommand_restarting hmax h, tblCommand_restarting hmax h⟩,
      fun h hfull => ⟨tblCommand_full hmax h hfull, tblCommand_full hmax h hfull⟩⟩
  · rw [exec_cabTblInstall_of_hostMay hmay, exec_cabTblRetire_of_hostMay hmay, tblCommand_of_takes (Nat.zero_le _) hrm,
      tblCommand_of_takes (Nat.zero_le _) hrm]
    have hlt := Nat.mod_lt (Config.freeNat s.free) (show 4 > 0 by decide)
    exact ⟨1 + Config.freeNat s.free % 4, s.free + 1, Nat.le_add_right _ _, by omega, rfl, rfl⟩

end Sys2Proof.Proofs.TierRegs
end

section
/-! PROOF. Flash blocks are erased, read and rebuilt (R250-R256, R262, R283). -/
namespace Sys2Proof.Proofs.Flash
open Sys2Proof.Machine Sys2Proof.Safety Sys2Proof.Laws Sys2Proof.Proofs.Frames

/-! ### The least of a list -/

/-- The first of the least by a measure, kept over a list. -/
def keepLeast {α : Type} (m : α → Nat) (o : Option α) (e : α) : Option α :=
  match o with
  | some x => if m e < m x then some e else o
  | none => some e

theorem foldl_keepLeast_some {α : Type} (m : α → Nat) (l : List α) (x : α) :
    ∃ y, l.foldl (keepLeast m) (some x) = some y ∧ (y = x ∨ y ∈ l) ∧ m y ≤ m x ∧ ∀ z ∈ l, m y ≤ m z := by
  induction l generalizing x with
  | nil => exact ⟨x, rfl, .inl rfl, Nat.le_refl _, fun z hz => absurd hz List.not_mem_nil⟩
  | cons e l ih =>
    by_cases hlt : m e < m x
    · obtain ⟨y, hy, hmem, hle, hall⟩ := ih e
      have hstep : keepLeast m (some x) e = some e := if_pos hlt
      refine ⟨y, by rw [List.foldl_cons, hstep, hy], .inr (List.mem_cons.mpr hmem), by omega, fun z hz => ?_⟩
      obtain rfl | hz := List.mem_cons.mp hz
      · exact hle
      · exact hall z hz
    · obtain ⟨y, hy, hmem, hle, hall⟩ := ih x
      have hstep : keepLeast m (some x) e = some x := if_neg hlt
      refine ⟨y, by rw [List.foldl_cons, hstep, hy], hmem.imp_right (List.mem_cons_of_mem e), hle, fun z hz => ?_⟩
      obtain rfl | hz := List.mem_cons.mp hz
      · omega
      · exact hall z hz

theorem foldl_keepLeast_of_ne_nil {α : Type} (m : α → Nat) {l : List α} (h : l ≠ []) :
    ∃ y, l.foldl (keepLeast m) none = some y ∧ y ∈ l ∧ ∀ z ∈ l, m y ≤ m z := by
  obtain ⟨x, l, rfl⟩ := List.exists_cons_of_ne_nil h
  obtain ⟨y, hy, hmem, hle, hall⟩ := foldl_keepLeast_some m l x
  refine ⟨y, hy, List.mem_cons.mpr hmem, fun z hz => ?_⟩
  obtain rfl | hz := List.mem_cons.mp hz
  · exact hle
  · exact hall z hz

theorem leastBy_eq_foldl (f : EBlock → Nat) (l : List (Nat × EBlock)) : leastBy f l = (l.foldl (keepLeast (fun e => f e.2)) none).map (·.1) := by
  unfold leastBy
  refine congrArg (fun g : Option (Nat × EBlock) → Nat × EBlock → Option (Nat × EBlock) => (l.foldl g none).map (·.1)) ?_
  funext o e
  cases o <;> rfl

theorem leastBy_some {f : EBlock → Nat} {l : List (Nat × EBlock)} {b : Nat} (h : leastBy f l = some b) :
    ∃ e : EBlock, (b, e) ∈ l ∧ ∀ x ∈ l, f e ≤ f x.2 := by
  rw [leastBy_eq_foldl] at h
  have hne : l ≠ [] := by
    rintro rfl
    exact absurd h (Option.some_ne_none b).symm
  obtain ⟨⟨n, e⟩, hy, hmem, hall⟩ := foldl_keepLeast_of_ne_nil (fun e => f e.2) hne
  rw [hy] at h
  cases h
  exact ⟨e, hmem, hall⟩

/-! ### Garbage collection and wear -/

section
variable {s : State}

/-- The retained copies in the cabinet. -/
def retainedUnits (s : State) : List (Nat × CabUnit) := s.cab.units.filter (fun e => retainedBy s e.1 e.2)

theorem exec_garbageCollection_of_free (h : cabFree s (if s.cab.gcUrgent then 2 else 5) = true) : exec .garbageCollection s =
    match (closedBlocks s).find? (fun e => decide (e.2.valid = 0)) with
    | some e => .next (eraseBlock s e.1)
    | none => match (retainedUnits s).foldl (keepLeast (fun e => e.2.wseq)) none with
      | some e => .next (flashFlags (eraseSum s) (releaseRetained s e.1 e.2))
      | none => match leastBy (fun e => e.valid) (closedBlocks s) with
        | some b => .next (eraseBlock (moveUnits s b none) b)
        | none => .next s := by
  have hkeep : (fun (o : Option (Nat × CabUnit)) e => match o with
      | some x => if e.2.wseq < x.2.wseq then some e else o
      | none => some e) = keepLeast (fun e => e.2.wseq) := by
    funext o e
    cases o <;> rfl
  simp only [exec, execGarbageCollection, h, Bool.not_true, Bool.false_eq_true, if_false]
  rw [← hkeep]
  rfl

theorem exec_garbageCollection_busy (h : cabFree s (if s.cab.gcUrgent then 2 else 5) = false) : exec .garbageCollection s = .next s := by
  refine if_pos ?_
  rw [h]
  rfl

theorem exec_staticWearLevelling_spread {b w : Nat} (hspread : 200 < eraseSpread s) (hruns : class3Runs s = true) (hfree : cabFree s 5 = true)
    (hb : leastBy (fun e => e.erases) (closedBlocks s) = some b)
    (hw : leastBy (fun e => 2 ^ 64 - e.erases) (s.cab.blocks.filter (fun e => isTlc e.1 && !e.2.prog && !e.2.bad)) = some w) :
    let s1 := { s with cab := { s.cab with units := s.cab.units.map (fun e =>
      (e.1, { e.2 with pieces := e.2.pieces.map (fun x => if x.1 = b then (w, x.2) else x) })) } }
    exec .staticWearLevelling s = .next (eraseBlock (setEblock s1 w { eblock s1 w with prog := true, reads := 0, valid := (eblock s1 b).valid }) b) := by
  have hgo : ¬ (eraseSpread s ≤ 200 ∨ (!class3Runs s) = true ∨ (!cabFree s 5) = true) := by
    simp [hruns, hfree, hspread]
  simp only [exec, execStaticWearLevelling, if_neg hgo, hb, hw]

theorem exec_staticWearLevelling_idle (h : eraseSpread s ≤ 200 ∨ class3Runs s = false ∨ cabFree s 5 = false) : exec .staticWearLevelling s = .next s := by
  refine if_pos ?_
  simpa using h

theorem exec_readDisturbRelocation_due {b : Nat} (hprog : (eblock s b).prog = true) (hreads : 50000 ≤ (eblock s b).reads) (hfree : cabFree s 2 = true) :
    exec (.readDisturbRelocation b) s = .next (bump (eraseBlock (moveUnits s b none) b) (pgCab + 0x110) 0 16 1) :=
  if_pos ⟨hprog, hreads, hfree⟩

theorem exec_readDisturbRelocation_idle {b : Nat} (h : (eblock s b).prog = false ∨ (eblock s b).reads < 50000 ∨ cabFree s 2 = false) :
    exec (.readDisturbRelocation b) s = .next s := by
  refine if_neg ?_
  rintro ⟨hprog, hreads, hfree⟩
  obtain h | h | h := h
  · exact Bool.noConfusion (h.symm.trans hprog)
  · omega
  · exact Bool.noConfusion (h.symm.trans hfree)

theorem flashFlags_blocks (old : Nat) (s : State) : (flashFlags old s).cab.blocks = s.cab.blocks := by
  unfold flashFlags
  dsimp only
  split <;> split <;> simp only [raise_same]

/-- An erase block after an erasure: one erase more, and it holds nothing. -/
def erased (e : EBlock) : EBlock := { e with erases := e.erases + 1, reads := 0, valid := 0, prog := false, failed := [] }

theorem eblock_eraseBlock (s : State) (b : Nat) : eblock (eraseBlock s b) b = erased (eblock s b) := by
  have hblocks : (eraseBlock s b).cab.blocks = tset {} s.cab.blocks b (erased (eblock s b)) := flashFlags_blocks _ _
  unfold eblock at hblocks ⊢
  rw [hblocks, tgetd_tset, if_pos rfl]

end

/-! ### Patrol and failed reads -/

section
variable {s : State} {c : Nat}

theorem exec_patrolRead_idle {bad : Bool} (h : class3Runs s = false ∨ s.cab.mounted = false ∨ cabFree s 6 = false) : exec (.patrolRead c bad) s = .next s := by
  refine if_pos ?_
  obtain h | h | h := h <;> simp [h]

theorem not_idle_of_patrols (hruns : class3Runs s = true) (hmounted : s.cab.mounted = true) (hfree : cabFree s 6 = true) :
    ¬ (!class3Runs s || !s.cab.mounted || !cabFree s 6) = true := by
  simp [hruns, hmounted, hfree]

theorem exec_patrolRead_good (hruns : class3Runs s = true) (hmounted : s.cab.mounted = true) (hfree : cabFree s 6 = true) (hc : c ≤ 75) :
    exec (.patrolRead c false) s = .next (patrolNext (patrolSees s (patrolPage s s.cab.patrol))) := by
  have hno : ¬ (false || decide (c > 75)) = true := by simpa using hc
  exact (if_neg (not_idle_of_patrols hruns hmounted hfree)).trans (if_neg hno)

theorem exec_patrolRead_weak (hruns : class3Runs s = true) (hmounted : s.cab.mounted = true) (hfree : cabFree s 6 = true) (hc : 75 < c) :
    exec (.patrolRead c false) s = .next (patrolNext (moveUnits (bump (patrolSees s (patrolPage s s.cab.patrol)) (pgCab + 0x110) 16 16 1)
      (patrolPage s s.cab.patrol).1 (some (patrolPage s s.cab.patrol).2))) := by
  have hyes : (false || decide (c > 75)) = true := by simpa using hc
  exact (if_neg (not_idle_of_patrols hruns hmounted hfree)).trans (if_pos hyes)

/-- A page that fails is rebuilt and rewritten, and its block marked bad at the second failure (R256). -/
theorem exec_patrolRead_bad {s3 : State} (hruns : class3Runs s = true) (hmounted : s.cab.mounted = true) (hfree : cabFree s 6 = true)
    (hs3 : s3 = moveUnits (bump (stripeRebuilt (patrolSees s (patrolPage s s.cab.patrol))) (pgCab + 0x110) 16 16 1) (patrolPage s s.cab.patrol).1
      (some (patrolPage s s.cab.patrol).2)) : exec (.patrolRead c true) s =
    if (eblock s3 (patrolPage s s.cab.patrol).1).failed.contains (patrolPage s s.cab.patrol).2 = true then
      .next (patrolNext (markBad (moveUnits s3 (patrolPage s s.cab.patrol).1 none) (patrolPage s s.cab.patrol).1))
    else .next (patrolNext (setEblock s3 (patrolPage s s.cab.patrol).1 { eblock s3 (patrolPage s s.cab.patrol).1 with
      failed := (eblock s3 (patrolPage s s.cab.patrol).1).failed ++ [(patrolPage s s.cab.patrol).2] })) := by
  subst hs3
  simp only [exec, execPatrolRead, if_neg (not_idle_of_patrols hruns hmounted hfree), Bool.true_or, if_true, Bool.not_true, Bool.false_eq_true, if_false]

theorem patrolSees_of_tlc {page : Nat × Nat} (htlc : isTlc page.1 = true) (hlater : s.cab.patrol ≠ 0) :
    patrolSees s page = setEblock s page.1 { eblock s page.1 with reads := (eblock s page.1).reads + 1 } := by
  simp only [patrolSees, htlc, if_true, if_neg hlater]

theorem patrolNext_within (h : s.cab.patrol + 1 < patrolPages s) : (patrolNext s).cab = { s.cab with patrol := s.cab.patrol + 1 } := by
  simp only [patrolNext, if_pos h]

theorem patrolNext_over (h : patrolPages s ≤ s.cab.patrol + 1) : (patrolNext s).cab = { s.cab with patrol := 0, patrolMs := stewardMs s } := by
  simp only [patrolNext, if_neg (Nat.not_lt.mpr h)]
  split
  · simp only [raise_same]
    rfl
  · rfl

theorem exec_blockReadFail_of_unit {n : Nat} {e : BlockErrs} {u : CabUnit} (hu : tget? s.cab.units n = some u) : exec (.blockReadFail n e) s =
    if blockPasses s n u e.first then .next (countRead s n)
    else .next (if blockPasses s n u e.second then stripeRebuilt (countRead (countRead s n) n)
      else if u.vslot.isSome then recordLost (stripeRebuilt (countRead (countRead s n) n)) n else blockLost (stripeRebuilt (countRead (countRead s n) n)) n u) := by
  simp only [exec, execBlockReadFail, hu]

theorem exec_blockReadFail_unmapped {n : Nat} {e : BlockErrs} (h : tget? s.cab.units n = none) : exec (.blockReadFail n e) s = .next s := by
  simp only [exec, execBlockReadFail, h]

theorem blockLost_retained {n : Nat} {u : CabUnit} (h : retainedBy (raise (bump s (pgCab + 0x118) 16 16 1) pgCab 4 []) n u = true) :
    blockLost s n u = releaseRetained (raise (bump s (pgCab + 0x118) 16 16 1) pgCab 4 []) n u := if_pos h

theorem blockLost_unread {n : Nat} {u : CabUnit} (h : retainedBy (raise (bump s (pgCab + 0x118) 16 16 1) pgCab 4 []) n u = false)
    (hread : coldReaders (raise (bump s (pgCab + 0x118) 16 16 1) pgCab 4 []) u.shelf u.series u.idx = [])
    (hlifts : (raise (bump s (pgCab + 0x118) 16 16 1) pgCab 4 []).tiers.lifts.filter
      (fun l => decide (l.shelf = u.shelf) && decide (l.series = u.series) && decide (l.idx = u.idx)) = []) :
    blockLost s n u = damage (raise (bump s (pgCab + 0x118) 16 16 1) pgCab 4 []) u.shelf (.inr n) := by
  refine (if_neg (Bool.eq_false_iff.mp h)).trans ?_
  rw [hread]
  dsimp only [List.foldl_nil]
  rw [hlifts]
  rfl

end

/-- Settles O37: the flash's upkeep, its patrol, and reads that fail. -/
theorem flashIsErasedAndChecked : Obligations.FlashIsErasedAndChecked := by
  refine ⟨⟨fun s hfree => ⟨fun b e hb => ?_, fun hnone => ⟨fun n u hone => ?_, fun hsome => ?_, fun b hno hb => ?_, fun hclosed hno => ?_⟩⟩,
      fun s => exec_garbageCollection_busy, fun f l b => leastBy_some, fun s b w => exec_staticWearLevelling_spread, fun s => exec_staticWearLevelling_idle,
      fun b s => ⟨exec_readDisturbRelocation_due, exec_readDisturbRelocation_idle⟩, eblock_eraseBlock⟩,
    fun c bad s => exec_patrolRead_idle, fun c s hruns hmounted hfree => ⟨exec_patrolRead_good hruns hmounted hfree, exec_patrolRead_weak hruns hmounted hfree,
      fun s3 hs3 => ⟨fun hfirst => ?_, fun hagain => ?_⟩⟩, fun s page => patrolSees_of_tlc, fun s => ⟨patrolNext_within, patrolNext_over⟩,
    fun n e s u hu => ?_, fun n e s => exec_blockReadFail_unmapped, fun s n u s1 hs1 => ?_⟩
  · rw [exec_garbageCollection_of_free hfree, hb]
  · have hone' : retainedUnits s = [(n, u)] := hone
    rw [exec_garbageCollection_of_free hfree, hnone, hone'] <;> rfl
  · obtain ⟨⟨n, u⟩, hy, hmem, hall⟩ := foldl_keepLeast_of_ne_nil (fun e : Nat × CabUnit => e.2.wseq) hsome
    have hy' : (retainedUnits s).foldl (keepLeast (fun e => e.2.wseq)) none = some (n, u) := hy
    obtain ⟨hunit, hretained⟩ := List.mem_filter.mp hmem
    refine ⟨n, u, hunit, hretained, fun e he hkept => hall e (List.mem_filter.mpr ⟨he, hkept⟩), ?_⟩
    rw [exec_garbageCollection_of_free hfree, hnone, hy']
  · have hno' : retainedUnits s = [] := hno
    rw [exec_garbageCollection_of_free hfree, hnone, hno', List.foldl_nil, hb]
  · have hno' : retainedUnits s = [] := hno
    rw [exec_garbageCollection_of_free hfree, hnone, hno', hclosed] <;> rfl
  · rw [exec_patrolRead_bad hruns hmounted hfree hs3]
    exact if_neg (Bool.eq_false_iff.mp hfirst)
  · rw [exec_patrolRead_bad hruns hmounted hfree hs3]
    exact if_pos hagain
  · rw [exec_blockReadFail_of_unit hu]
    refine ⟨fun hpass => if_pos hpass, fun hfail hpass => ?_, fun hfail hfail2 => ⟨fun hv => ?_, fun hv => ?_⟩⟩
    · rw [hfail, hpass]; rfl
    · rw [hfail, hfail2, hv]; rfl
    · rw [hfail, hfail2, Option.isSome_iff_ne_none.mpr hv]; rfl
  · subst hs1
    exact ⟨blockLost_retained, blockLost_unread, rfl⟩

end Sys2Proof.Proofs.Flash
end

section
/-! PROOF. Stacks are scrubbed, repaired, retired and fenced (R264-R282). -/
namespace Sys2Proof.Proofs.Stacks
open Sys2Proof.Machine Sys2Proof.Safety Sys2Proof.Laws Sys2Proof.Proofs.Frames

/-! ### Folds -/

theorem foldl_preserves {α β : Type} {f : β → α → β} {P : β → Prop} (hkeep : ∀ s a, P s → P (f s a)) (l : List α) {s : β} (h : P s) : P (l.foldl f s) := by
  induction l generalizing s with
  | nil => exact h
  | cons a l ih => exact ih (hkeep s a h)

/-- What one step sets and no step undoes holds at the end. -/
theorem foldl_establishes {α β : Type} {f : β → α → β} {P : β → Prop} (hkeep : ∀ s a, P s → P (f s a)) {l : List α} {a : α} (ha : a ∈ l)
    (hset : ∀ s, P (f s a)) (s : β) : P (l.foldl f s) := by
  induction l generalizing s with
  | nil => exact absurd ha List.not_mem_nil
  | cons c l ih =>
    obtain rfl | ha := List.mem_cons.mp ha
    · exact foldl_preserves hkeep l (hset s)
    · exact ih ha _

theorem foldl_same {α β γ : Type} (g : β → γ) {f : β → α → β} (h : ∀ s a, g (f s a) = g s) (l : List α) (s : β) : g (l.foldl f s) = g s :=
  foldl_preserves (P := fun t => g t = g s) (fun t a ht => (h t a).trans ht) l rfl

/-! ### Lines written and lines read -/

theorem tget_filter_ne {α : Type} (t : Tab α) (k : Nat) : tget? (t.filter (fun e => !decide (e.1 = k))) k = none := by
  induction t with
  | nil => rfl
  | cons e t ih =>
    obtain ⟨j, v⟩ := e
    by_cases hj : j = k
    · simpa [hj] using ih
    · simpa [hj, tget?] using ih

/-- A line written whole is clean, and no other write-back is lost. -/
theorem wroteLines_line (h : Hbm) (line : Nat) :
    line ∉ (wroteLines h (fun l => decide (l = line))).wb ∧ tget? (wroteLines h (fun l => decide (l = line))).poison line = none ∧
    tget? (wroteLines h (fun l => decide (l = line))).upsets line = none ∧
    ∀ l : Nat, l ≠ line → (l ∈ (wroteLines h (fun l => decide (l = line))).wb ↔ l ∈ h.wb) :=
  ⟨by simp [wroteLines], tget_filter_ne _ _, tget_filter_ne _ _, fun l hl => by simp [wroteLines, hl]⟩

section
variable {s : State} {k line : Nat} {o : LineOut}

theorem lineOut_of_poison (h : tget? (s.hbmc k).poison line ≠ none) : lineOut s k line = .poison := if_pos (Option.isSome_iff_ne_none.mpr h)

theorem lineOut_of_clean (hp : tget? (s.hbmc k).poison line = none) (hu : tget? (s.hbmc k).upsets line = none) : lineOut s k line = .good := by
  simp only [lineOut, hp, hu, Option.isSome_none, Bool.false_eq_true, if_false]

theorem lineOut_of_upset {u : Upset} (hp : tget? (s.hbmc k).poison line = none) (hu : tget? (s.hbmc k).upsets line = some u) : lineOut s k line =
    if (wordOut s k line (u.bad ++ u.once)).bad = false then wordOut s k line (u.bad ++ u.once)
    else match wordOut s k line u.bad with
      | .code => .code
      | .tag => .tag
      | .poison => .poison
      | _ => .fixed := by
  simp only [lineOut, hp, hu, Option.isSome_none, Bool.false_eq_true, if_false]
  cases (wordOut s k line (u.bad ++ u.once)).bad <;> rfl

theorem eq_code_or_tag_of_bad (h : o.bad = true) : o = .code ∨ o = .tag := by
  simpa [LineOut.bad] using h

theorem readLine_of_fixed (h : lineOut s k line = .fixed) : readLine s k line = (.fixed, lineCorrected (readOnce s k line) k line) := by
  simp only [readLine, h]

theorem readLine_of_bad (h : lineOut s k line = o) (hbad : o.bad = true) : readLine s k line = (o, lineUncorr s k line (decide (o = .tag))) := by
  unfold readLine
  rw [h]
  obtain rfl | rfl := eq_code_or_tag_of_bad hbad <;> rfl

theorem readLine_of_good_or_poison (h : lineOut s k line = o) (ho : o = .good ∨ o = .poison) : readLine s k line = (o, readOnce s k line) := by
  unfold readLine
  rw [h]
  obtain rfl | rfl := ho <;> rfl

theorem mem_wb_lineCorrected : line ∈ ((lineCorrected s k line).hbmc k).wb := by
  simp only [lineCorrected, hbmc_setHbm, if_true]
  split
  · next h => exact List.contains_iff_mem.mp h
  · exact List.mem_append_right _ (List.mem_singleton_self line)

/-- What a line is kept for depends on the structures alone. -/
theorem lineKept_congr {t : State} (hdir : t.dir = s.dir) (hhbm : t.hbm = s.hbm) (hreqs : t.reqs = s.reqs) (hcab : t.cab = s.cab)
    (hvidx : t.vidx = s.vidx) (hqps : t.qps = s.qps) : lineKept t k line = lineKept s k line := by
  have huse : ∀ u, useLive t k u = useLive s k u := by
    intro u
    cases u <;> simp only [useLive, State.shelf?, hdir, hreqs, hcab, hvidx, hqps]
  simp only [lineKept, lineDrawer, State.hbmc, hdir, hhbm, huse]

/-- The state in which an uncorrectable line has been counted and raised. -/
def uncorrRaised (s : State) (k line : Nat) (tag : Bool) : State :=
  let s1 := bump s (pgHbm k + 0x100) 16 16 1
  raise (if tag then raise (bump s1 (pgHbm k + 0x104) 0 32 1) (pgHbm k) 1 (lineData line 1) else s1) (pgHbm k) 0 (lineData line 1)

theorem uncorrRaised_same (s : State) (k line : Nat) (tag : Bool) : (uncorrRaised s k line tag).dir = s.dir ∧ (uncorrRaised s k line tag).hbm = s.hbm ∧
    (uncorrRaised s k line tag).reqs = s.reqs ∧ (uncorrRaised s k line tag).cab = s.cab ∧ (uncorrRaised s k line tag).vidx = s.vidx ∧
    (uncorrRaised s k line tag).qps = s.qps := by
  have hkeeps : Keeps 0xB2000000000 s (uncorrRaised s k line tag) := by
    unfold uncorrRaised
    dsimp only
    refine keeps_raise _ _ _ _ ?_ (.refl _)
    cases tag with
    | false => exact keeps_bump _ _ _ _ _ (.refl s) rfl
    | true => exact keeps_raise _ _ _ _ (keeps_bump _ _ _ _ _ (keeps_bump _ _ _ _ _ (.refl s) rfl) rfl) (.refl _)
  exact ⟨hkeeps.frame .dir rfl, hkeeps.frame .hbm rfl, hkeeps.frame .reqs rfl, hkeeps.frame .cab rfl, hkeeps.frame .vidx rfl, hkeeps.frame .qps rfl⟩

/-- A line that holds something is rewritten as poisoned where it is found uncorrectable (R269). -/
theorem lineUncorr_poison {tag : Bool} (hdev : ∀ l : Nat, tget? (s.hbmc k).uses line ≠ some (.dev l)) (hkept : lineKept s k line = true) :
    tget? ((lineUncorr s k line tag).hbmc k).poison line = some 1 := by
  obtain ⟨hdir, hhbm, hreqs, hcab, hvidx, hqps⟩ := uncorrRaised_same s k line tag
  have hkept3 : lineKept (uncorrRaised s k line tag) k line = true := (lineKept_congr hdir hhbm hreqs hcab hvidx hqps).trans hkept
  have hhbmc : (uncorrRaised s k line tag).hbmc k = s.hbmc k := congrArg (fun t : Tab Hbm => tget ({} : Hbm) t k) hhbm
  have hdev3 : ∀ l : Nat, tget? ((uncorrRaised s k line tag).hbmc k).uses line ≠ some (.dev l) := by rwa [hhbmc]
  unfold uncorrRaised at hkept3 hdev3
  unfold lineUncorr
  dsimp only at hkept3 hdev3 ⊢
  split
  · next l hl => exact absurd hl (hdev3 l)
  · simp only [hbmc_setHbm, if_true, hkept3, tget_tput]

/-! ### What a controller meets -/

variable {s1 : State}

theorem meetLine_of_read (h : readLine (askLine s k line) k line = (o, s1)) : meetLine s k line =
    if o = .good ∨ o = .fixed then (o, s1)
    else match lineDrawer s k line with
      | some (i, _) => (o, damage s1 i (.inl (k, line)))
      | none =>
        if !lineKept s k line then (o, s1.setHbm k (wroteLines (s1.hbmc k) (fun l => decide (l = line))))
        else match tget? (s.hbmc k).uses line with
          | some u => (o, lostCopy s1 k line u)
          | none => (o, s1) := by
  simp only [meetLine, h] <;> rfl

end

/-! ### Scrubbing -/

section
variable {k : Fin 16} {s : State}

theorem exec_correctedWriteback_waiting {line : Nat} (hon : (s.hbmc k.val).fenced = false) (hwb : (s.hbmc k.val).wb.contains line = true) :
    exec (.correctedWriteback k line) s = .next (askLine (s.setHbm k.val (wroteLines (s.hbmc k.val) (fun l => decide (l = line)))) k.val line) := by
  refine if_neg ?_
  simp only [hon, hwb, Bool.false_eq_true, Bool.true_eq_false, or_self, not_false_eq_true]

theorem exec_correctedWriteback_idle {line : Nat} (h : (s.hbmc k.val).fenced = true ∨ (s.hbmc k.val).wb.contains line = false) :
    exec (.correctedWriteback k line) s = .next s := if_pos h

/-- The state with new errors in some lines. -/
def hitLines (s : State) (k : Nat) (stays once : List LineHit) : State :=
  once.foldl (fun s x => hitLine s k false x) (stays.foldl (fun s x => hitLine s k true x) s)

theorem exec_scrubRead_of_wellFormed {stays once : List LineHit} (hwf : (stays ++ once).all LineHit.wellFormed = true) : exec (.scrubRead k stays once) s =
    if (s.hbmc k.val).fenced = true then .next s
    else match scrubFrom ((hitLines s k.val stays once).hbmc k.val) ((hitLines s k.val stays once).hbmc k.val).scrub with
      | none => .next (fenceIfDue (scrubNext (hitLines s k.val stays once) k.val) k.val)
      | some line => .next (fenceIfDue (scrubNext (meetLine (hitLines s k.val stays once) k.val line).2 k.val) k.val) := by
  refine if_neg ?_
  rw [hwf]
  exact Bool.false_ne_true

/-- The scrub goes on at or after a line, past retired pseudo-channels. -/
theorem scrubFrom_some {h : Hbm} {n line : Nat} (hs : scrubFrom h n = some line) : n ≤ line ∧ h.retired.contains (line / linesPerPc) = false := by
  obtain ⟨pc, hpc, hline⟩ := Option.map_eq_some_iff.mp hs
  have hcond := List.find?_some hpc
  simp only [Bool.and_eq_true, decide_eq_true_eq, Bool.not_eq_true'] at hcond
  obtain ⟨hle, hkept⟩ := hcond
  unfold linesPerPc at *
  have hdiv : line / 20971520 = pc := by omega
  rw [hdiv]
  exact ⟨by omega, hkept⟩

theorem scrubNext_over {k : Nat} (h : scrubFrom (s.hbmc k) ((s.hbmc k).scrub + 1) = none) :
    ((scrubNext s k).hbmc k).rows = [] ∧ ((scrubNext s k).hbmc k).pcUnc = [] ∧ ((scrubNext s k).hbmc k).stUnc = 0 := by
  simp only [scrubNext, h, hbmc_setHbm, if_true, and_self]

theorem exec_damagedShelfFree_over {i : Nat} {sh x : Shelf} (hsh : s.shelf? i = some sh) (hlost : sh.state = .lost) (hdamaged : sh.damaged = true)
    (hover : shelfRunning s i = false) (hx : (freeAll s i).shelf? i = some x) :
    exec (.damagedShelfFree i) s = .next ((freeAll s i).setShelf i { x with damaged := false }) := by
  have hgo : ¬ (sh.state ≠ .lost ∨ (!sh.damaged) = true ∨ shelfRunning s i = true) := by simp [hlost, hdamaged, hover]
  simp only [exec, execDamagedShelfFree, hsh, if_neg hgo, hx]

theorem exec_damagedShelfFree_waits {i : Nat} (h : s.shelf? i = none ∨ ∃ sh, s.shelf? i = some sh ∧ (sh.state ≠ .lost ∨ sh.damaged = false ∨
    shelfRunning s i = true)) : exec (.damagedShelfFree i) s = .next s := by
  simp only [exec, execDamagedShelfFree]
  obtain hno | ⟨sh, hsh, hwait⟩ := h
  · rw [hno]
  · rw [hsh]
    exact if_pos (by simpa using hwait)

/-! ### Repair -/

theorem exec_rowRepair_of_due {row : Nat} (hrow : (s.hbmc k.val).due.find? (fun r => decide (sparesUsed (s.hbmc k.val) (rowBank r) < 4) &&
    bankFree s k.val (rowBank r)) = some row) : exec (.rowRepair k) s =
      if (s.hbmc k.val).fenced = true ∨ logRoom s (s.hbmc k.val) = false then .next s else .next (fenceIfDue (repairRow s k.val row) k.val) := by
  simp only [exec, execRowRepair, hrow]

theorem exec_rowRepair_none (h : (s.hbmc k.val).due.find? (fun r => decide (sparesUsed (s.hbmc k.val) (rowBank r) < 4) &&
    bankFree s k.val (rowBank r)) = none) : exec (.rowRepair k) s = .next s := by
  simp only [exec, execRowRepair, h]

theorem rowDue_of_full {h : Hbm} {row : Nat} (hnew : h.due.contains row = false) (hfull : 4 ≤ sparesUsed h (rowBank row)) :
    rowDue h row = retireMark h (rowBank row / 64) := by
  simp only [rowDue, hnew, Bool.false_eq_true, if_false, ge_iff_le, if_pos hfull]

theorem rowDue_of_spare {h : Hbm} {row : Nat} (hnew : h.due.contains row = false) (hspare : sparesUsed h (rowBank row) < 4) :
    rowDue h row = { h with due := h.due ++ [row] } := by
  simp only [rowDue, hnew, Bool.false_eq_true, if_false, ge_iff_le, if_neg (Nat.not_le.mpr hspare)]

theorem mem_retiring_retireMark {h : Hbm} {pc : Nat} (hkept : h.retired.contains pc = false) : pc ∈ (retireMark h pc).retiring := by
  unfold retireMark
  rw [hkept, Bool.or_false]
  split
  · next hin => exact List.contains_iff_mem.mp hin
  · exact List.mem_append_right _ (List.mem_singleton_self pc)

theorem retireMark_stUnc (h : Hbm) (pc : Nat) : (retireMark h pc).stUnc = h.stUnc := by
  unfold retireMark
  split <;> rfl

/-- Uncorrectable lines up to the threshold of a pseudo-channel mark it retiring (R280). -/
theorem mem_retiring_countUnc {k line : Nat} {h : Hbm} (hmany : max 1 (rdf s (pgHbm k + 0x120) 16 8) ≤ tget 0 h.pcUnc (linePc line) + 1)
    (hkept : h.retired.contains (linePc line) = false) : linePc line ∈ (countUnc s k h line).retiring := by
  have hmem := mem_retiring_retireMark (h := { h with pcUnc := tput h.pcUnc (linePc line) (tget 0 h.pcUnc (linePc line) + 1), stUnc := h.stUnc + 1 }) hkept
  unfold countUnc
  dsimp only
  rw [if_pos (show tget 0 h.pcUnc (linePc line) + 1 ≥ max 1 (rdf s (pgHbm k + 0x120) 16 8) from hmany)]
  split <;> exact hmem

theorem fenceDue_countUnc {k line : Nat} {h : Hbm} (hmany : 8 * max 1 (rdf s (pgHbm k + 0x120) 24 8) ≤ h.stUnc + 1) :
    (countUnc s k h line).fenceDue = true := by
  unfold countUnc
  dsimp only
  rw [if_pos]
  split
  · rw [retireMark_stUnc]
    exact hmany
  · exact hmany

/-! ### Retirement -/

variable {pc : Fin 64}

theorem exec_pcRetire_marks (hring : (s.hbmc k.val).retiring.contains pc.val = false) (hkept : (s.hbmc k.val).retired.contains pc.val = false)
    (hon : (s.hbmc k.val).fenced = false) : exec (.pcRetire k pc) s =
      .next (leavePc (s.setHbm k.val { s.hbmc k.val with retiring := (s.hbmc k.val).retiring ++ [pc.val] }) k.val pc.val) := by
  simp only [exec, execPcRetire, retireMark, hring, hkept, hon, Bool.or_self, Bool.false_eq_true, if_false]

theorem exec_pcRetire_idle (h : (s.hbmc k.val).retiring.contains pc.val = true ∨ (s.hbmc k.val).retired.contains pc.val = true ∨
    (s.hbmc k.val).fenced = true) : exec (.pcRetire k pc) s = .next s := by
  refine if_pos ?_
  rw [Bool.or_eq_true, Bool.or_eq_true, or_assoc]
  exact h

/-- A pseudo-channel that is retiring is retired once nothing lies in it. -/
theorem exec_pcRetired_of_retiring (h : (s.hbmc k.val).retiring.contains pc.val = true) : exec (.pcRetired k pc) s =
    if drawersIn s k.val pc.val = [] then
      if segmentIn s k.val pc.val = true then .next s else .next (fenceIfDue (retirePc s k.val pc.val) k.val)
    else .next (leavePc s k.val pc.val) := by
  simp only [exec, execPcRetired, h, Bool.not_true, Bool.false_eq_true, if_false]
  cases drawersIn s k.val pc.val <;> rfl

theorem exec_pcRetired_not_retiring (h : (s.hbmc k.val).retiring.contains pc.val = false) : exec (.pcRetired k pc) s = .next s := by
  refine if_pos ?_
  rw [h]
  rfl

end

section
variable (s : State) (k pc : Nat)

theorem retired_clearPc : ((clearPc s k pc).hbmc k).retired = (s.hbmc k).retired := by
  have hset : ∀ h : Hbm, ((s.setHbm k h).hbmc k).retired = h.retired := fun h => by rw [hbmc_setHbm, if_pos rfl]
  unfold clearPc
  dsimp only
  split
  · have hslots : ∀ t : State, (freeSlots t k).hbmc k = t.hbmc k := fun _ => rfl
    rw [hslots]
    exact (congrArg (fun t : Tab Hbm => (tget ({} : Hbm) t k).retired) (foldl_same State.hbm (by intro _ _; rfl) _ _)).trans (hset _)
  · exact hset _

/-- The state that `retirePc` makes before it disables booths. -/
def unowned : State :=
  let s0 := moveData s k pc
  let h := s0.hbmc k
  let s1 := clearPc (s0.setHbm k { h with retiring := h.retiring.erase pc, retired := h.retired ++ [pc],
                                          due := h.due.filter (fun r => decide (rowBank r / 64 ≠ pc)) }) k pc
  { s1 with pcOwner := tdel s1.pcOwner (64 * k + pc) }

/-- The booths of a pseudo-channel are disabled. -/
def disableBooths (s : State) : State :=
  (List.range 8).foldl (fun s i => s.setBooth (boothNo k (pairBooth pc i)) { s.booth (boothNo k (pairBooth pc i)) with disabled := true }) s

theorem retirePc_eq : retirePc s k pc = raise (if isFront k then disableBooths k pc (unowned s k pc) else unowned s k pc) (pgHbm k) 5 [] := rfl

theorem disableBooths_hbm : (disableBooths k pc s).hbm = s.hbm := foldl_same State.hbm (by intro _ _; rfl) _ _
theorem disableBooths_pcOwner : (disableBooths k pc s).pcOwner = s.pcOwner := foldl_same State.pcOwner (by intro _ _; rfl) _ _

theorem disableBooths_disabled {i : Nat} (hi : i < 8) : ((disableBooths k pc s).booth (boothNo k (pairBooth pc i))).disabled = true := by
  refine foldl_establishes (P := fun t : State => (t.booth (boothNo k (pairBooth pc i))).disabled = true) (fun t j ht => ?_) (List.mem_range.mpr hi)
    (fun t => ?_) s
  · rw [booth_setBooth]
    split
    · rfl
    · exact ht
  · rw [booth_setBooth, if_pos rfl]

theorem mem_retired_unowned : pc ∈ ((unowned s k pc).hbmc k).retired := by
  have hclear := retired_clearPc ((moveData s k pc).setHbm k { (moveData s k pc).hbmc k with
    retiring := ((moveData s k pc).hbmc k).retiring.erase pc, retired := ((moveData s k pc).hbmc k).retired ++ [pc],
    due := ((moveData s k pc).hbmc k).due.filter (fun r => decide (rowBank r / 64 ≠ pc)) }) k pc
  rw [hbmc_setHbm, if_pos rfl] at hclear
  exact hclear ▸ List.mem_append_right _ (List.mem_singleton_self pc)

/-- A retired pseudo-channel belongs to no partition, and its booths are disabled (R280). -/
theorem retirePc_retires : pc ∈ ((retirePc s k pc).hbmc k).retired ∧ tget? (retirePc s k pc).pcOwner (64 * k + pc) = none ∧
    (isFront k = true → ∀ i : Nat, i < 8 → ((retirePc s k pc).booth (boothNo k (pairBooth pc i))).disabled = true) := by
  have hmem := mem_retired_unowned s k pc
  have howner : tget? (unowned s k pc).pcOwner (64 * k + pc) = none := (tget_tdel _ _ _).trans (if_pos rfl)
  rw [retirePc_eq]
  unfold State.hbmc State.booth at *
  simp only [raise_same]
  refine ⟨?_, ?_, fun hfront i hi => ?_⟩
  · split
    · rwa [disableBooths_hbm]
    · exact hmem
  · split
    · rwa [disableBooths_pcOwner]
    · exact howner
  · rw [if_pos hfront]
    exact disableBooths_disabled _ k pc hi

end

/-! ### Fences -/

theorem fenceIfDue_of_due {s : State} {k : Nat} (h : (s.hbmc k).fenceDue = true ∨ 16 ≤ (s.hbmc k).retired.length) : fenceIfDue s k = fenceStack s k := by
  refine if_pos ?_
  rw [Bool.or_eq_true, decide_eq_true_eq]
  exact h

theorem fenceIfDue_of_not_due {s : State} {k : Nat} (hdue : (s.hbmc k).fenceDue = false) (hfew : (s.hbmc k).retired.length < 16) : fenceIfDue s k = s := by
  refine if_neg ?_
  rw [hdue, Bool.false_or, decide_eq_true_eq]
  exact Nat.not_le.mpr hfew

theorem exec_stackFence_again {k : Fin 16} {s : State} (h : (s.hbmc k.val).fenced = true) : exec (.stackFence k) s = .next s :=
  congrArg Host.Outcome.next (if_pos h)

/-- No lift reads into a place that `backToRoom` takes back. -/
theorem backToRoom_reading {s : State} {f : Place → Bool} {l : Lift} {q : Place} (hl : l ∈ (backToRoom s f).tiers.lifts) (hphase : l.phase = .reading q) :
    f q = false := by
  obtain ⟨l0, -, rfl⟩ := List.mem_map.mp hl
  cases hp : l0.phase with
  | reading p =>
    rw [hp] at hphase
    dsimp only at hphase
    split at hphase
    · exact LiftPhase.noConfusion hphase
    · next hf =>
      rw [hp] at hphase
      cases hphase
      exact Bool.eq_false_iff.mpr hf
  | _ =>
    rw [hp] at hphase
    dsimp only at hphase
    rw [hp] at hphase
    exact LiftPhase.noConfusion hphase

section
variable (s : State) (k : Nat)

/-- The state in which a stack is marked fenced. -/
def fenceMarked : State := raise (s.setHbm k { s.hbmc k with fenced := true, fenceDue := false, wb := [], due := [], upsets := [] }) (pgHbm k) 6 []

/-- The shelves with a drawer in a stack, each with the first line of such a drawer. -/
def fenceLost : List (Nat × Nat) := s.dir.shelves.filterMap (fun e =>
  (e.2.drawers.findSome? (fun d => match locPlace d.loc with | some q => if q.stack = k then some (placeLines q).1 else none | none => none)).map
    (fun l => (e.1, l)))

def fenceHomes : List Nat := (s.dir.shelves.filter (fun e => decide (homeStack s e.2.key.part (shelfDie e.2) = k))).map (·.1)

/-- The state of a fence once its shelves are damaged and its copies dealt with. -/
def fenceDamaged : State :=
  fenceCopies ((fenceLost s k).foldl (fun s e => damage s e.1 (.inl (k, e.2)))
    (let s2 := fenceSegments (fenceReaders (fenceMarked s k) k) k
     { s2 with dir := { s2.dir with shelves := s2.dir.shelves.map (fun e => (e.1, fencedShelf ((fenceHomes s k).contains e.1) k e.2)) } })) k

/-- The state of a fence before the lifts into the stack are put back. -/
def fenceUnlifted : State :=
  fenceUnits { fenceDamaged s k with vidx := (fenceDamaged s k).vidx.map (fun e => (e.1, fenceIndex s (fenceDamaged s k) k e.2)) } k

theorem fenceStack_eq {s : State} {k : Nat} (h : (s.hbmc k).fenced = false) : fenceStack s k =
    backToRoom (fenceUnlifted s k) (fun q => decide (q.stack = k)) := if_neg (Bool.eq_false_iff.mp h)

theorem fenceMarked_hbmc : (fenceMarked s k).hbmc k = { s.hbmc k with fenced := true, fenceDue := false, wb := [], due := [], upsets := [] } := by
  unfold fenceMarked State.hbmc
  simp only [raise_same]
  exact (hbmc_setHbm s k k _).trans (if_pos rfl)

/-- Every shelf with a drawer in the stack is among those that a fence damages. -/
theorem mem_fenceLost {s : State} {k i : Nat} {sh : Shelf} {d : Drawer} {q : Place} (hsh : (i, sh) ∈ s.dir.shelves) (hd : d ∈ sh.drawers)
    (hq : locPlace d.loc = some q) (hk : q.stack = k) : ∃ l, (i, l) ∈ fenceLost s k := by
  have hsome : (sh.drawers.findSome? (fun d => match locPlace d.loc with
      | some q => if q.stack = k then some (placeLines q).1 else none
      | none => none)).isSome = true :=
    List.findSome?_isSome_iff.mpr ⟨d, hd, by simp only [hq, if_pos hk, Option.isSome_some]⟩
  obtain ⟨l, hl⟩ := Option.isSome_iff_exists.mp hsome
  exact ⟨l, List.mem_filterMap.mpr ⟨(i, sh), hsh, by rw [hl]; rfl⟩⟩

end

/-- Settles O38: lines read, corrected and scrubbed; rows repaired; pseudo-channels retired; stacks fenced. -/
theorem stacksAreScrubbedAndRepaired : Obligations.StacksAreScrubbedAndRepaired := by
  refine ⟨⟨fun k line s => ⟨exec_correctedWriteback_waiting, exec_correctedWriteback_idle⟩, wroteLines_line,
      fun s k line => ⟨lineOut_of_poison, lineOut_of_clean, fun u hp hu => ?_, readLine_of_fixed, fun o => readLine_of_bad,
        fun o => readLine_of_good_or_poison, mem_wb_lineCorrected, fun tag => lineUncorr_poison⟩,
      fun s k line o s1 hread => ?_, fun k stays once s s1 hwf hs1 => ?_, fun h n line => scrubFrom_some, fun s k => scrubNext_over,
      fun i s sh x => exec_damagedShelfFree_over, fun i s => exec_damagedShelfFree_waits⟩,
    fun k row s hrow => ?_, fun k s => exec_rowRepair_none, fun s k row => ⟨fun h => if_pos h, fun h => if_neg h⟩,
    fun h row hnew => ⟨rowDue_of_full hnew, rowDue_of_spare hnew⟩, fun s k line h => mem_retiring_countUnc, fun s k line h => fenceDue_countUnc,
    fun k pc s => ⟨exec_pcRetire_marks, exec_pcRetire_idle, exec_pcRetired_not_retiring, fun hring hempty hno => ⟨?_, retirePc_retires s k.val pc.val⟩,
      fun hring hempty hsome => ?_, fun hring hfull => ?_⟩,
    fun s k pc s1 hs1 => by rw [hs1]; rfl, fun s k => fenceIfDue_of_due, fun s k => fenceIfDue_of_not_due, fun k s => exec_stackFence_again,
    fun k s hon => ⟨fenceStack s k.val, fenceMarked s k.val, fenceDamaged s k.val, fenceLost s k.val, fenceHomes s k.val, rfl, rfl, ?_, ?_,
      fun i sh d q => mem_fenceLost, rfl, fenceStack_eq hon, fun l hl q hphase => ?_⟩⟩
  · rw [lineOut_of_upset hp hu]
    refine ⟨fun hgood => if_pos hgood, fun hbad hagain => ?_, fun hbad hagain => ?_⟩
    · rw [hbad, if_neg (by decide)]
      obtain h | h := hagain <;> rw [h]
    · rw [hbad, if_neg (by decide)]
      obtain h | h := eq_code_or_tag_of_bad hagain <;> rw [h]
  · rw [meetLine_of_read hread]
    refine ⟨fun ho => if_pos ho, fun i d hgood hfixed hd => ?_, fun hgood hfixed hd hfree => ?_, fun u hgood hfixed hd hkept hu => ?_⟩
    · rw [if_neg (not_or.mpr ⟨hgood, hfixed⟩), hd]
    · rw [if_neg (not_or.mpr ⟨hgood, hfixed⟩), hd, hfree] <;> rfl
    · rw [if_neg (not_or.mpr ⟨hgood, hfixed⟩), hd, hkept, hu] <;> rfl
  · have hs1' : hitLines s k.val stays once = s1 := hs1.symm
    rw [exec_scrubRead_of_wellFormed hwf, hs1']
    refine ⟨fun hoff => if_pos hoff, fun line hon hline => ?_, fun hon hnone => ?_⟩
    · rw [hon, hline] <;> rfl
    · rw [hon, hnone] <;> rfl
  · rw [exec_rowRepair_of_due hrow]
    exact ⟨fun hon hroom => if_neg (by simp [hon, hroom]), fun h => if_pos h⟩
  · rw [exec_pcRetired_of_retiring hring, if_pos hempty, hno] <;> rfl
  · rw [exec_pcRetired_of_retiring hring, if_pos hempty, if_pos hsome]
  · rw [exec_pcRetired_of_retiring hring, if_neg hfull]
  · rw [fenceMarked_hbmc]
  · rw [fenceMarked_hbmc]
  · rw [fenceStack_eq hon] at hl
    exact of_decide_eq_false (backToRoom_reading hl hphase)

end Sys2Proof.Proofs.Stacks
end

section
/-! PROOF. The rule table: lookups, commands, rebalancing, and its shadow copies (R312-R329). -/
namespace Sys2Proof.Proofs.Rules
open Sys2Proof.Machine Sys2Proof.Safety Sys2Proof.Laws Sys2Proof.Proofs.Frames Sys2Proof.Proofs.Firmware

/-! ### Lookups -/

theorem ruleMatch_iff {r : Rule} {key : Nat} : ruleMatch r key = true ↔ r.valid = true ∧ key &&& r.care = r.value := by
  rw [ruleMatch, Bool.and_eq_true, decide_eq_true_eq]

/-- The first match of a sorted table is the one of the lowest index. -/
theorem ruleFind_of_lowest {t : Tab Rule} {key i : Nat} {r : Rule} (hsorted : tsorted t = true) (hmem : (i, r) ∈ t) (hmatch : ruleMatch r key = true)
    (hlow : ∀ (j : Nat) (q : Rule), (j, q) ∈ t → ruleMatch q key = true → i ≤ j) : ruleFind t key = some (i, r) := by
  induction t with
  | nil => exact absurd hmem List.not_mem_nil
  | cons e t ih =>
    obtain ⟨j, q⟩ := e
    obtain ⟨habove, hrest⟩ := tsorted_cons.mp hsorted
    obtain heq | hmem := List.mem_cons.mp hmem
    · cases heq
      exact if_pos hmatch
    · have hq : ¬ ruleMatch q key = true := fun hq => Nat.not_lt.mpr (hlow j q (List.mem_cons_self ..) hq) (habove _ hmem)
      exact (if_neg hq).trans (ih hrest hmem fun j q hj => hlow j q (List.mem_cons_of_mem _ hj))

theorem ruleFind_of_none {t : Tab Rule} {key : Nat} (h : ∀ (i : Nat) (r : Rule), (i, r) ∈ t → ¬ ruleMatch r key = true) : ruleFind t key = none := by
  induction t with
  | nil => rfl
  | cons e t ih => exact (if_neg (h e.1 e.2 (List.mem_cons_self ..))).trans (ih fun i r hi => h i r (List.mem_cons_of_mem _ hi))

/-- Settles O39: the first match is the lowest one, since the entries are kept in order of their index. -/
theorem ruleLookupTakesTheFirstMatch : Obligations.RuleLookupTakesTheFirstMatch := by
  refine fun s key => ⟨fun i r hsorted hmem hvalid hkey hlow => ?_, fun hnone => ?_⟩
  · rw [ruleLookup, ruleFind_of_lowest hsorted hmem (ruleMatch_iff.mpr ⟨hvalid, hkey⟩) fun j q hj hq =>
      hlow j q hj (ruleMatch_iff.mp hq).1 (ruleMatch_iff.mp hq).2]
  · rw [ruleLookup, ruleFind_of_none fun i r hi hmatch => ?_]
    obtain ⟨hvalid, hkey⟩ := ruleMatch_iff.mp hmatch
    exact (hnone i r hi).elim (fun hno => Bool.noConfusion (hno.symm.trans hvalid)) (fun hno => hno hkey)

/-! ### Commands -/

section
variable {s : State}

theorem exec_ruleInsert_of_takes (hmay : HostMay s (pgRule 0)) (hrm : RmTakes s 1) : exec .ruleInsert s =
    if (actionOk (stagedAction s) && valueOk (staged160 s 0x200) (staged160 s 0x214)) = false then .next (ruleResult s 2)
    else match insPlan s.rules (rdf s (ruleReg 0x230) 0 4) (rdf s (ruleReg 0x230) 16 16) with
      | .bandFull => .next (ruleResult s 4)
      | .groupFull g => .next (ruleResult (raise { s with rules := queueRebal s.rules (rdf s (ruleReg 0x230) 0 4) } (pgRule (32 * g / 16384)) 3 []) 3)
      | .done g t =>
        let w := insWrite s.rules g t { valid := true, value := staged160 s 0x200, care := staged160 s 0x214, action := stagedAction s,
                                        prio := rdf s (ruleReg 0x230) 16 16 }
        .next (ruleResult (wrf (setRules s (if groupCount w.1.entries g ≥ 31 then queueRebal w.1 (rdf s (ruleReg 0x230) 0 4) else w.1)) (ruleReg 0x234) 0 16 w.2)
          0) := by
  refine (hostWr_of_hostMay hmay _).trans ?_
  simp only [rmGate_of_rmTakes hrm]
  cases actionOk (stagedAction s) && valueOk (staged160 s 0x200) (staged160 s 0x214) <;> rfl

/-- The entry that `INDEX` names. -/
def stagedEntry (s : State) : Rule := ruleAt s.rules.entries (rdf s (ruleReg 0x234) 0 16)

theorem exec_ruleRemove_of_takes (hmay : HostMay s (pgRule 0)) (hrm : RmTakes s 1) : exec .ruleRemove s =
    if (stagedEntry s).valid = true then
      .next (ruleResult (setRules s (putRule s.rules (rdf s (ruleReg 0x234) 0 16) { stagedEntry s with valid := false })) 0)
    else .next (ruleResult s 5) := by
  refine (hostWr_of_hostMay hmay _).trans ?_
  simp only [rmGate_of_rmTakes hrm] <;> rfl

theorem exec_ruleModify_of_takes (hmay : HostMay s (pgRule 0)) (hrm : RmTakes s 1) : exec .ruleModify s =
    if (stagedEntry s).valid = false then .next (ruleResult s 5)
    else if actionOk (stagedAction s) = false then .next (ruleResult s 2)
    else .next (ruleResult (setRules s (putRule s.rules (rdf s (ruleReg 0x234) 0 16) { stagedEntry s with action := stagedAction s })) 0) := by
  refine (hostWr_of_hostMay hmay _).trans ?_
  unfold stagedEntry
  simp only [rmGate_of_rmTakes hrm, Bool.not_eq_true']

theorem exec_ruleApplyBands_of_takes (hmay : HostMay s (pgRule 0)) (hrm : RmTakes s 1) : exec .ruleApplyBands s =
    if bandsOk s.rules (stagedBands s) = true then .next (ruleResult { s with rules := { s.rules with bands := stagedBands s } } 0)
    else .next (ruleResult s 6) := by
  refine (hostWr_of_hostMay hmay _).trans ?_
  simp only [rmGate_of_rmTakes hrm]

/-- Value and care mask of an entry in the staging registers. -/
def stageRule (s : State) (e : Rule) : State := (List.range 5).foldl (fun s i =>
  wr (wr s (ruleReg (0x200 + 4 * i)) (bits e.value (32 * i) 32)) (ruleReg (0x214 + 4 * i)) (bits e.care (32 * i) 32)) s

/-- The state after a read of an entry. -/
def ruleShown (s : State) (e : Rule) : State :=
  ruleResult (wrf (wr64 (stageRule s e) (ruleReg 0x228) e.action) (ruleReg 0x23C) 4 1 (if e.valid then 1 else 0)) 0

theorem exec_ruleRead_of_takes (hmay : HostMay s (pgRule 0)) (hrm : RmTakes s 1) : exec .ruleRead s = .next (ruleShown s (stagedEntry s)) := by
  refine (hostWr_of_hostMay hmay _).trans ?_
  simp only [rmGate_of_rmTakes hrm] <;> rfl

theorem ruleReg_inj {a b : Nat} : ruleReg a = ruleReg b ↔ a = b := Nat.add_left_cancel_iff

theorem rd_stageRule (s : State) (e : Rule) {k : Nat} (hk : k < 5) : rd (stageRule s e) (ruleReg (0x200 + 4 * k)) = bits e.value (32 * k) 32 ∧
    rd (stageRule s e) (ruleReg (0x214 + 4 * k)) = bits e.care (32 * k) 32 := by
  have hrange : List.range 5 = [0, 1, 2, 3, 4] := rfl
  have hlt : ∀ v lo : Nat, bits v lo 32 < 4294967296 := fun _ _ => Nat.mod_lt _ (by decide)
  simp only [stageRule, hrange, List.foldl_cons, List.foldl_nil, rd_wr, ruleReg_inj]
  rcases (by omega : k = 0 ∨ k = 1 ∨ k = 2 ∨ k = 3 ∨ k = 4) with rfl | rfl | rfl | rfl | rfl <;> simp [hlt]

/-- Registers other than `RULE_CSTAT` read in the end as they were staged. -/
theorem rd_ruleShown (s : State) (e : Rule) {a : Nat} (ha : a ≠ 0x23C) (hlo : a ≠ 0x228) (hhi : a ≠ 0x22C) :
    rd (ruleShown s e) (ruleReg a) = rd (stageRule s e) (ruleReg a) := by
  have hhalf : ruleReg 0x228 + 4 = ruleReg 0x22C := rfl
  simp only [ruleShown, ruleResult, wrf, wr64, rd_wr, hhalf, ruleReg_inj, if_neg ha.symm, if_neg hlo.symm, if_neg hhi.symm]

theorem stagedAction_ruleShown (s : State) (e : Rule) : stagedAction (ruleShown s e) = e.action % 2 ^ 64 := by
  have hhalf : ruleReg 0x228 + 4 = ruleReg 0x22C := rfl
  simp only [stagedAction, rd64, ruleShown, ruleResult, wrf, wr64, rd_wr, hhalf, ruleReg_inj]
  simp
  omega

theorem valid_ruleShown (s : State) (e : Rule) : rdf (ruleShown s e) (ruleReg 0x23C) 4 1 = (if e.valid then 1 else 0) := by
  have hbits : ∀ v : Nat, bits (setBits v 1 3 0 % 2 ^ 32) 4 1 = bits v 4 1 := by
    intro v
    simp only [bits, setBits]
    omega
  have hkeep : ∀ t : State, rdf (wrf t (ruleReg 0x23C) 1 3 0) (ruleReg 0x23C) 4 1 = rdf t (ruleReg 0x23C) 4 1 := by
    intro t
    rw [rdf, wrf, rd_wr, if_pos rfl, hbits, rdf]
  rw [ruleShown, ruleResult, hkeep, rdf_wrf_same (by decide)]
  cases e.valid <;> rfl

theorem result_ruleShown (s : State) (e : Rule) : rdf (ruleShown s e) (ruleReg 0x23C) 1 3 = 0 := rdf_wrf_same (by decide)

theorem ruleShown_rules (s : State) (e : Rule) : (ruleShown s e).rules = s.rules := by
  have hstaged : (stageRule s e).rules = s.rules := Stacks.foldl_same State.rules (by intro _ _; rfl) _ _
  have hwr : ∀ (t : State) (a v : Nat), (wr t a v).rules = t.rules := fun _ _ _ => rfl
  simp only [ruleShown, ruleResult, wrf, wr64, hwr, hstaged]

/-- What a read of the table leaves in the staging registers. -/
theorem ruleShown_shows (s : State) (e : Rule) : (ruleShown s e).rules = s.rules ∧ stagedAction (ruleShown s e) = e.action % 2 ^ 64 ∧
    rdf (ruleShown s e) (ruleReg 0x23C) 4 1 = (if e.valid then 1 else 0) ∧ rdf (ruleShown s e) (ruleReg 0x23C) 1 3 = 0 ∧
    ∀ k : Nat, k < 5 → rd (ruleShown s e) (ruleReg (0x200 + 4 * k)) = bits e.value (32 * k) 32 ∧
      rd (ruleShown s e) (ruleReg (0x214 + 4 * k)) = bits e.care (32 * k) 32 := by
  refine ⟨ruleShown_rules s e, stagedAction_ruleShown s e, valid_ruleShown s e, result_ruleShown s e, fun k hk => ?_⟩
  obtain ⟨hvalue, hcare⟩ := rd_stageRule s e hk
  exact ⟨(rd_ruleShown s e (by omega) (by omega) (by omega)).trans hvalue, (rd_ruleShown s e (by omega) (by omega) (by omega)).trans hcare⟩

/-- Each command of the table is refused while the ringmaster does not run. -/
theorem exec_ruleCommands_held (hmay : HostMay s (pgRule 0)) (hrm : s.stw.rm ≠ .running) :
    exec .ruleInsert s = .next (ruleResult s 1) ∧ exec .ruleRemove s = .next (ruleResult s 1) ∧ exec .ruleModify s = .next (ruleResult s 1) ∧
    exec .ruleRead s = .next (ruleResult s 1) ∧ exec .ruleApplyBands s = .next (ruleResult s 1) := by
  have hgate : ∃ n, rmGate s 1 = (some n, s) := by
    unfold rmGate
    cases h : s.stw.rm with
    | running => exact absurd h hrm
    | restarting => exact ⟨_, rfl⟩
    | held => exact ⟨_, rfl⟩
  obtain ⟨n, hgate⟩ := hgate
  refine ⟨(hostWr_of_hostMay hmay _).trans ?_, (hostWr_of_hostMay hmay _).trans ?_, (hostWr_of_hostMay hmay _).trans ?_,
    (hostWr_of_hostMay hmay _).trans ?_, (hostWr_of_hostMay hmay _).trans ?_⟩ <;> simp only [hgate]

/-! ### Upkeep -/

theorem exec_rebalance_idle {b : Fin 16} (h : s.rules.rebal.contains b.val = false ∨ s.stw.rm ≠ .running ∨ deferred s 3 = true) :
    exec (.rebalance b) s = .next s := by
  refine if_neg ?_
  rintro ⟨hwaits, hrm, hruns⟩
  obtain h | h | h := h
  · exact Bool.noConfusion (h.symm.trans hwaits)
  · exact h hrm
  · exact Bool.noConfusion (h.symm.trans hruns)

/-- The comparison of a slice's next entry, once both copies have been read. -/
def compared (s s2 : State) (n : Nat) (lostA lostB : Bool) : Res :=
  let loc := s.rules.sweep.getD n 0
  let i := 16384 * n + loc
  let e := ruleAt s2.rules.entries i
  let a := ruleAt s2.rules.shadowA i
  let b := ruleAt s2.rules.shadowB i
  let g := if lostA then b else a
  if lostA = true ∧ lostB = true then
    .next (sweepNext (raise (bump (wr (writeShadows s2 i e) (pgRule n + 0x108) (2 ^ 31 + loc)) (pgRule n + 0x10C) 16 16 1) (pgRule n) 1 (leBytes 2 i)) n)
  else if (!lostA) = true ∧ (!lostB) = true ∧ a ≠ b then .next (sweepNext s2 n)
  else if e = g then .next (sweepNext (writeShadows s2 i e) n)
  else .next (sweepNext (raise (bump (wr (writeShadows s2 i g) (pgRule n + 0x108) (2 ^ 31 + loc)) (pgRule n + 0x10C) 0 16 1) (pgRule n) 0 (leBytes 2 i)) n)

theorem exec_shadowCompare_of_reads {n : Fin 4} {badA badB lostA lostB : Bool} {s1 s2 : State}
    (hA : readShadow s n.val 0 (16384 * n.val + s.rules.sweep.getD n.val 0) badA = (lostA, s1))
    (hB : readShadow s1 n.val 1 (16384 * n.val + s.rules.sweep.getD n.val 0) badB = (lostB, s2)) :
    exec (.shadowCompare n badA badB) s = compared s s2 n.val lostA lostB := by
  simp only [exec, execShadowCompare, hA, hB] <;> rfl

theorem readShadow_of_unnoted {die copy i : Nat} (h : useNoted s (fun u => decide (u = .shadow i copy)) = []) :
    readShadow s die copy i false = (false, s) := by
  have hread : readUse s (fun u => decide (u = .shadow i copy)) = (false, s) := by
    rw [readUse, h]; rfl
  simp only [readShadow, hread, Bool.not_false, Bool.or_true, Bool.true_or, if_true, Bool.or_self]

theorem readShadow_of_bad (s : State) (die copy i : Nat) : (readShadow s die copy i true).1 = true := by
  unfold readShadow
  dsimp only
  split
  · exact Bool.or_true _
  · split <;> rfl

end

/-- Settles O40: the commands of the rule table, its default action, rebalancing, and the comparison with the shadow copies. -/
theorem ruleCommandsAndUpkeep : Obligations.RuleCommandsAndUpkeep := by
  refine ⟨⟨fun s hmay hrm => ⟨fun hbad => ?_, fun hok => ⟨fun hplan => ?_, fun g hplan => ?_, fun g t n r hplan hw => ?_⟩, fun hvalid => ?_,
      fun hno => ⟨?_, ?_⟩, fun hvalid hbad => ?_, fun hvalid hok => ?_, fun hok => ?_, fun hbad => ?_,
      ruleShown s (stagedEntry s), exec_ruleRead_of_takes hmay hrm, ruleShown_shows s (stagedEntry s)⟩,
      fun s r => ⟨rfl, rfl, rfl⟩, fun s => exec_ruleCommands_held,
      fun v s hmay => ⟨hostWr_of_hostMay hmay _, hostWr_of_hostMay hmay _⟩⟩,
    fun b s => ⟨fun hwaits hrm hruns => if_pos ⟨hwaits, hrm, hruns⟩, exec_rebalance_idle⟩, fun n badA badB lostA lostB s s1 s2 hA hB => ?_,
    fun s die copy i => ⟨readShadow_of_unnoted, readShadow_of_bad s die copy i⟩, fun s i e => rfl, fun s n h => if_pos h⟩
  · exact (exec_ruleInsert_of_takes hmay hrm).trans (if_pos hbad)
  · rw [exec_ruleInsert_of_takes hmay hrm, hok, if_neg (by decide), hplan]
  · rw [exec_ruleInsert_of_takes hmay hrm, hok, if_neg (by decide), hplan]
  · rw [exec_ruleInsert_of_takes hmay hrm, hok, if_neg (by decide), hplan]
    dsimp only at hw ⊢
    rw [hw]
  · exact (exec_ruleRemove_of_takes hmay hrm).trans (if_pos hvalid)
  · exact (exec_ruleRemove_of_takes hmay hrm).trans (if_neg (Bool.eq_false_iff.mp hno))
  · exact (exec_ruleModify_of_takes hmay hrm).trans (if_pos hno)
  · exact (exec_ruleModify_of_takes hmay hrm).trans ((if_neg (Bool.not_eq_false _ |>.mpr hvalid)).trans (if_pos hbad))
  · exact (exec_ruleModify_of_takes hmay hrm).trans ((if_neg (Bool.not_eq_false _ |>.mpr hvalid)).trans (if_neg (Bool.not_eq_false _ |>.mpr hok)))
  · exact (exec_ruleApplyBands_of_takes hmay hrm).trans (if_pos hok)
  · exact (exec_ruleApplyBands_of_takes hmay hrm).trans (if_neg (Bool.eq_false_iff.mp hbad))
  · rw [exec_shadowCompare_of_reads hA hB]
    refine ⟨fun hlostA hlostB => if_pos ⟨hlostA, hlostB⟩, fun hone hagree => ?_, fun hgoodA hgoodB hdiffer => ?_⟩
    · have hnotBoth : ¬ (lostA = true ∧ lostB = true) := by
        rw [← Bool.and_eq_true, hone]
        exact Bool.false_ne_true
      have hnotDiffer : ¬ ((!lostA) = true ∧ (!lostB) = true ∧ ruleAt s2.rules.shadowA (16384 * n.val + s.rules.sweep.getD n.val 0) ≠
          ruleAt s2.rules.shadowB (16384 * n.val + s.rules.sweep.getD n.val 0)) := by
        rintro ⟨hA, hB, hne⟩
        obtain h | h | h := hagree
        · rw [h] at hA; exact Bool.noConfusion hA
        · rw [h] at hB; exact Bool.noConfusion hB
        · exact hne h
      exact ⟨fun heq => (if_neg hnotBoth).trans ((if_neg hnotDiffer).trans (if_pos heq)),
        fun hne => (if_neg hnotBoth).trans ((if_neg hnotDiffer).trans (if_neg hne))⟩
    · subst hgoodA hgoodB
      have hnone : ¬ (false = true ∧ false = true) := by decide
      unfold compared
      dsimp only
      rw [if_neg hnone, if_pos ⟨rfl, rfl, hdiffer⟩]

end Sys2Proof.Proofs.Rules
end

section
/-! PROOF. Ports: links, shapers, policers, gates, time, and the timers of queue pairs (R336-R359). -/
namespace Sys2Proof.Proofs.Ports
open Sys2Proof.Machine Sys2Proof.Safety Sys2Proof.Laws Sys2Proof.Proofs.Firmware

section
variable {p : Fin 4} {s : State}

theorem reached (h : hostReach s = true) : ¬ (!hostReach s) = true := by
  rw [h]
  exact Bool.false_ne_true

/-! ### Links -/

theorem exec_portLinkUp_of_down (hreach : hostReach s = true) (hdown : (s.port p.val).up = false) : exec (.portLinkUp p) s =
    .next (raise (s.setPort p.val { s.port p.val with
      up := true, sealReq := decide (rdf s (pgNet p.val + 0x100) 0 1 = 1), sealed := false, hs := {} }) (pgNet p.val) 0 []) :=
  (if_neg (reached hreach)).trans (if_neg (Bool.eq_false_iff.mp hdown))

theorem exec_portLinkUp_again (hreach : hostReach s = true) (hup : (s.port p.val).up = true) : exec (.portLinkUp p) s = .next s :=
  (if_neg (reached hreach)).trans (if_pos hup)

/-! ### Policers -/

theorem mem_range_of_lt {n i : Nat} (h : i < n) : i ∈ List.range n := List.mem_range.mpr h

/-- A table written over a list of keys without repetition holds at each of them what was made of its old value. -/
theorem tget_foldl_tset {α : Type} [DecidableEq α] (d : α) (f : Nat → α → α) {l : List Nat} (hl : l.Nodup) (t : Tab α) (k : Nat) :
    tget d (l.foldl (fun t i => tset d t i (f i (tget d t i))) t) k = if k ∈ l then f k (tget d t k) else tget d t k := by
  induction l generalizing t with
  | nil => rfl
  | cons i l ih =>
    obtain ⟨hi, hl⟩ := List.nodup_cons.mp hl
    rw [List.foldl_cons, ih hl, tgetd_tset]
    by_cases hik : i = k
    · subst hik
      simp [hi]
    · simp [hik, Ne.symm hik]

theorem exec_policerRefill_of_reach (hreach : hostReach s = true) : ∃ (pol : Tab Int) (rate : Tab Nat),
    exec (.policerRefill p) s = .next (s.setPort p.val { s.port p.val with polRate := rate, pol := pol }) ∧
    (∀ i : Nat, i < 256 → tget 0 rate i = rdf s (pgShp p.val 1 + 0x100 + 8 * i) 0 20) ∧ ∀ i : Nat, i < 256 → tget 0 pol i =
      min (tget 0 (s.port p.val).pol i + 128 * (rdf s (pgShp p.val 1 + 0x100 + 8 * i) 0 20 : Nat))
        ((rdf s (pgShp p.val 1 + 0x104 + 8 * i) 0 12 * 1024000 : Nat) : Int) := by
  refine ⟨_, _, if_neg (reached hreach), fun i hi => ?_, fun i hi => ?_⟩
  · exact (tget_foldl_tset 0 (fun i _ => rdf s (pgShp p.val 1 + 0x100 + 8 * i) 0 20) List.nodup_range _ i).trans (if_pos (mem_range_of_lt hi))
  · exact (tget_foldl_tset 0 (fun i v => refillBucket (rdf s (pgShp p.val 1 + 0x100 + 8 * i) 0 20) (rdf s (pgShp p.val 1 + 0x104 + 8 * i) 0 12) v)
      List.nodup_range _ i).trans (if_pos (mem_range_of_lt hi))

/-! ### Gates -/

theorem exec_gateIntervalEnd_off (hreach : hostReach s = true) (h : rdf s (pgShp p.val 0 + 0x180) 0 1 = 0 ∨ (s.port p.val).gcl.entries = []) :
    exec (.gateIntervalEnd p) s = .next s :=
  (if_neg (reached hreach)).trans (if_pos (h.imp_right List.isEmpty_iff.mpr))

theorem exec_gateIntervalEnd_on (hreach : hostReach s = true) (hon : rdf s (pgShp p.val 0 + 0x180) 0 1 ≠ 0) (hlist : (s.port p.val).gcl.entries ≠ []) :
    exec (.gateIntervalEnd p) s = .next (s.setPort p.val { s.port p.val with
      gcl := { (s.port p.val).gcl with cur := ((s.port p.val).gcl.cur + 1) % (s.port p.val).gcl.entries.length, since := portTime s p.val } }) :=
  (if_neg (reached hreach)).trans (if_neg (not_or.mpr ⟨hon, fun hempty => hlist (List.isEmpty_iff.mp hempty)⟩))

theorem exec_gclSwitch_none (hreach : hostReach s = true) (h : (s.port p.val).nextGcl = none) : exec (.gclSwitch p) s = .next s := by
  simp only [exec, execGclSwitch, if_neg (reached hreach), h]

theorem exec_gclSwitch_some {g : Gcl} {t : Nat} (hreach : hostReach s = true) (h : (s.port p.val).nextGcl = some (g, t)) : exec (.gclSwitch p) s =
    .next (raise (wrf (s.setPort p.val { s.port p.val with gcl := { g with cur := 0, since := t }, nextGcl := none }) (pgShp p.val 0 + 0x180) 31 1 0)
      (pgShp p.val 0) 0 []) := by
  simp only [exec, execGclSwitch, if_neg (reached hreach), h]

theorem exec_gclCommit_pending (hmay : HostMay s (pgShp p.val 0)) (h : (s.port p.val).nextGcl.isSome = true) : exec (.gclCommit p) s = .next s :=
  (hostWr_of_hostMay hmay _).trans (if_pos h)

/-- The wait until a list of a cycle starts. -/
def gclWait (c : Nat) (base now : Int) : Nat := if c = 0 then 0 else ((base - now) % c).toNat

theorem gclWait_within {c : Nat} (base : Nat) (now : Nat) (hc : c ≠ 0) :
    gclWait c base now < c ∧ ((now + gclWait c base now : Nat) - (base : Int)) % c = 0 := by
  have hpos : (0 : Int) < c := by omega
  have hlo := Int.emod_nonneg ((base : Int) - now) (by omega : (c : Int) ≠ 0)
  have hhi := Int.emod_lt_of_pos ((base : Int) - now) hpos
  have hwait : ((gclWait c base now : Nat) : Int) = ((base : Int) - now) % c := by
    rw [gclWait, if_neg hc]
    omega
  refine ⟨by omega, ?_⟩
  have hsum : ((now + gclWait c base now : Nat) : Int) - base = ((base : Int) - now) % c - (base - now) := by
    push_cast
    rw [hwait]
    omega
  exact hsum ▸ Int.emod_eq_zero_of_dvd ⟨-(((base : Int) - now) / c), by rw [Int.emod_def, Int.mul_neg]; omega⟩

theorem exec_gclCommit_of_idle (hmay : HostMay s (pgShp p.val 0)) (h : (s.port p.val).nextGcl = none) : ∃ t : Nat, portTime s p.val ≤ t ∧
    (gclCycle (adminGcl s p.val) ≠ 0 → t < portTime s p.val + gclCycle (adminGcl s p.val) ∧ ((t : Int) - (adminGcl s p.val).base) % (gclCycle (adminGcl s p.val)) = 0) ∧
    exec (.gclCommit p) s = .next (wrf (s.setPort p.val { s.port p.val with nextGcl := some (adminGcl s p.val, t) }) (pgShp p.val 0 + 0x180) 31 1 1) := by
  refine ⟨portTime s p.val + gclWait (gclCycle (adminGcl s p.val)) (adminGcl s p.val).base (portTime s p.val), Nat.le_add_right _ _, fun hc => ?_, ?_⟩
  · obtain ⟨hlt, hmod⟩ := gclWait_within (adminGcl s p.val).base (portTime s p.val) hc
    exact ⟨Nat.add_lt_add_left hlt _, hmod⟩
  · refine (hostWr_of_hostMay hmay _).trans (if_neg ?_)
    rw [h]
    exact Bool.false_ne_true

/-! ### Time -/

/-- The portion of an offset that a slew takes: toward it and not beyond it. -/
def slewed (d : Int) (v : Nat) : Int := (if d < 0 then -1 else 1) * ((v % (d.natAbs + 1) : Nat) : Int)

theorem slewed_toward (d : Int) (v : Nat) : (slewed d v).natAbs ≤ d.natAbs ∧ 0 ≤ slewed d v * d := by
  have hle : v % (d.natAbs + 1) ≤ d.natAbs := Nat.le_of_lt_succ (Nat.mod_lt _ (Nat.succ_pos _))
  unfold slewed
  generalize v % (d.natAbs + 1) = k at hle
  split
  · next hneg =>
    refine ⟨by omega, ?_⟩
    rw [Int.neg_mul, Int.one_mul, Int.neg_mul, ← Int.mul_neg]
    exact Int.mul_nonneg (Int.natCast_nonneg k) (by omega)
  · next hpos =>
    refine ⟨by omega, ?_⟩
    rw [Int.one_mul]
    exact Int.mul_nonneg (Int.natCast_nonneg k) (by omega)

/-- The new rate of a port's clock, as the free value gives it. -/
def slewRate (w : Nat) : Int := if w % 2 = 0 then (w / 2 : Nat) else -((w / 2 : Nat) : Int)

theorem exec_ptpSync_slew {d : Int} (hreach : hostReach s = true) (hd : d.natAbs ≤ 1000) : ∃ moved rate : Int, moved.natAbs ≤ d.natAbs ∧ 0 ≤ moved * d ∧
    let good := if (d - moved).natAbs < 100 then min 16 ((s.port p.val).ptpGood + 1) else 0
    exec (.ptpSync p d) s = .next ({ s with free := s.free + 2 }.setPort p.val { s.port p.val with
      ptpStep := (s.port p.val).ptpStep + rateGain s p.val - moved, ptpRate := rate, ptpAt := portCount s p.val, ptpGood := good,
      ptpLock := (s.port p.val).ptpLock || decide (good ≥ 16) }) := by
  obtain ⟨hle, htoward⟩ := slewed_toward d (Config.freeNat s.free)
  refine ⟨slewed d (Config.freeNat s.free), slewRate (Config.freeNat (s.free + 1)), hle, htoward, ?_⟩
  have hsmall : ¬ d.natAbs > 1000 := Nat.not_lt.mpr hd
  simp only [exec, execPtpSync, if_neg (reached hreach), draw, if_neg hsmall]
  rfl

theorem gclAt_entries (g : Gcl) (now : Nat) : (gclAt g now).entries = g.entries := by
  unfold gclAt
  dsimp only
  split <;> rfl

theorem exec_ptpSync_step {d : Int} (hreach : hostReach s = true) (hd : 1000 < d.natAbs) : ∃ t : State, exec (.ptpSync p d) s = .next t ∧
    (t.port p.val).ptpStep = (s.port p.val).ptpStep + rateGain s p.val - d ∧ (t.port p.val).ptpAt = portCount s p.val ∧
    (t.port p.val).ptpGood = min 16 ((s.port p.val).ptpGood + 1) ∧ (t.port p.val).gcl.entries = (s.port p.val).gcl.entries ∧ t.regs = s.regs ∧
    t.qps = s.qps := by
  have hzero : (d - d).natAbs < 100 := by omega
  simp only [exec, execPtpSync, if_neg (reached hreach), draw, gt_iff_lt, if_pos hd, if_pos hzero]
  refine ⟨_, rfl, ?_, ?_, ?_, ?_, rfl, rfl⟩ <;> simp only [port_setPort, if_true, gclAt_entries]

theorem exec_netTimeNsRead_of_hostMay (hmay : HostMay s (pgNet p.val)) : exec (.netTimeNsRead p) s =
    .next (emit (s.setPort p.val { s.port p.val with secLatch := portTime s p.val / 1000000000 % 2 ^ 48 })
      (.read (pgNet p.val + 0x300) 4 (portTime s p.val % 1000000000))) := by
  obtain ⟨hreach, hide, hopen⟩ := hmay
  have hpage : (pgNet p.val + 0x300) / 4096 = pgNet p.val / 4096 := by
    unfold pgNet
    omega
  simp only [exec, execNetTimeNsRead, hostRd, hostIo, hreach, hide, hpage, hopen, Bool.not_true, Bool.false_eq_true, if_false]

/-! ### Timers of queue pairs -/

variable {q : Nat} {x : Qp}

theorem exec_timers_idle (h : hostReach s = false ∨ tget? s.qps q = none) :
    exec (.ccTimerExpiry q) s = .next s ∧ exec (.ackTimeout q) s = .next s ∧ exec (.rnrTimerExpiry q) s = .next s := by
  simp only [exec, execCcTimerExpiry, execAckTimeout, execRnrTimerExpiry]
  obtain h | h := h
  · simp only [h, Bool.not_false, if_true, and_self]
  · simp only [h, ite_self, and_self]

theorem exec_ccTimerExpiry_of_qp (hreach : hostReach s = true) (hx : tget? s.qps q = some x) : exec (.ccTimerExpiry q) s =
    if x.cnpSeen = true then .next (s.setQp q { x with cnpSeen := false })
    else .next (s.setQp q { x with
      a := (1 - ccG s x.port) * x.a, rt := if x.calm < 5 then x.rt else x.rt + (rdf s (pgNet x.port + 0x130) 16 16 : Nat),
      rc := ccClamp ((x.rc + if x.calm < 5 then x.rt else x.rt + (rdf s (pgNet x.port + 0x130) 16 16 : Nat)) / 2), calm := min 5 (x.calm + 1) }) := by
  simp only [exec, execCcTimerExpiry, if_neg (reached hreach), hx]

theorem exec_ackTimeout_of_qp (hreach : hostReach s = true) (hx : tget? s.qps q = some x) : exec (.ackTimeout q) s =
    match oldestPsn x with
    | none => .next s
    | some f => if x.err = true ∨ x.rnrWait = true then .next s else .next (retryFrom s q x f) := by
  simp only [exec, execAckTimeout, if_neg (reached hreach), hx] <;> rfl

theorem exec_ackTimeout_retry {f : Nat} (hreach : hostReach s = true) (hx : tget? s.qps q = some x) (hf : oldestPsn x = some f) (herr : x.err = false)
    (hrnr : x.rnrWait = false) : exec (.ackTimeout q) s =
      if x.retries ≥ qpRetry x then .next (qpError s q 1) else .next (s.setQp q (resendFrom { x with retries := x.retries + 1 } f)) := by
  have hgo : ¬ (x.err = true ∨ x.rnrWait = true) := by simp [herr, hrnr]
  rw [exec_ackTimeout_of_qp hreach hx, hf]
  dsimp only
  rw [if_neg hgo, retryFrom, apply_ite Host.Outcome.next]

theorem exec_ackTimeout_idle (hreach : hostReach s = true) (hx : tget? s.qps q = some x) (h : oldestPsn x = none ∨ x.err = true ∨ x.rnrWait = true) :
    exec (.ackTimeout q) s = .next s := by
  rw [exec_ackTimeout_of_qp hreach hx]
  cases hf : oldestPsn x with
  | none => rfl
  | some f => exact if_pos (h.resolve_left (by rw [hf]; exact Option.some_ne_none f))

end

/-- Settles O41: a port's link, its shapers, policers and gates, its time, and the timers of its queue pairs. -/
theorem portsKeepTimeAndRates : Obligations.PortsKeepTimeAndRates := by
  refine ⟨fun p s hreach => ⟨exec_portLinkUp_of_down hreach, exec_portLinkUp_again hreach, if_neg (reached hreach), exec_policerRefill_of_reach hreach,
      exec_gateIntervalEnd_off hreach, exec_gateIntervalEnd_on hreach, exec_gclSwitch_none hreach, fun g t => exec_gclSwitch_some hreach,
      if_neg (reached hreach), fun d => exec_ptpSync_slew hreach, fun d => exec_ptpSync_step hreach⟩, fun p s => rfl,
    fun p s hmay => ⟨exec_gclCommit_pending hmay, exec_gclCommit_of_idle hmay⟩, fun p s => exec_netTimeNsRead_of_hostMay, fun q s => exec_timers_idle,
    fun q s x hreach hx => ⟨?_, fun hseen => ?_, fun hunseen => ⟨_, rfl, ?_⟩, fun f hf herr hrnr hless => ?_, fun f hf herr hrnr hmost => ?_,
      exec_ackTimeout_idle hreach hx⟩⟩
  · simp only [exec, execRnrTimerExpiry, if_neg (reached hreach), hx]
  · rw [exec_ccTimerExpiry_of_qp hreach hx, if_pos hseen]
  · rw [exec_ccTimerExpiry_of_qp hreach hx, if_neg (Bool.eq_false_iff.mp hunseen)]
    rfl
  · rw [exec_ackTimeout_retry hreach hx hf herr hrnr, if_neg (Nat.not_le.mpr hless)]
  · rw [exec_ackTimeout_retry hreach hx hf herr hrnr, if_pos hmost]

end Sys2Proof.Proofs.Ports
end

section
/-! PROOF. Packets are received, fetched for, and sent (R333-R367). -/
namespace Sys2Proof.Proofs.Packets
open Sys2Proof.Machine Sys2Proof.Safety Sys2Proof.Laws Sys2Proof.Proofs.Ports

/-! ### The port and its seal -/

section
variable {p : Fin 4} {k : Packet} {s : State}

theorem exec_packetReceive_lost (h : hostReach s = false ∨ (s.port p.val).up = false ∨ 4352 < k.frameLen) : exec (.packetReceive p k) s = .next s := by
  simp only [exec, execPacketReceive]
  split
  · rfl
  · next hreach =>
    refine if_pos ((h.resolve_left fun hno => hreach (by rw [hno]; rfl)).imp_left fun hdown => ?_)
    rw [hdown]
    rfl

/-- The first sealed frame tells the initiator of a handshake that sealing is active. -/
def firstSealed (q : Port) : Bool := q.hs.init && decide (q.hs.phase = .confirmSent)

/-- A port that is up receives frames of its kind of session. -/
theorem exec_packetReceive_of_up (hreach : hostReach s = true) (hup : (s.port p.val).up = true) (hlen : k.frameLen ≤ 4352) : exec (.packetReceive p k) s =
    if (s.port p.val).sealReq = true then
      if (!k.sealed || !((s.port p.val).sealed || firstSealed (s.port p.val))) = true then .next (bump s (pgNet p.val + 0x128) 16 16 1)
      else match unsealed (s.port p.val).hs k with
        | none => .next s
        | some h => .next (receiveFrame (s.setPort p.val { s.port p.val with
            sealed := true, hs := if (s.port p.val).sealed then h else { h with phase := .done } }) p.val k)
    else if k.sealed = true then .next s
    else .next (receiveFrame s p.val k) := by
  have hgo : ¬ ((!(s.port p.val).up) = true ∨ k.frameLen > 4352) := by
    rw [hup]
    rintro (h | h)
    · exact Bool.noConfusion h
    · exact Nat.not_lt.mpr hlen h
  exact (if_neg (reached hreach)).trans (if_neg hgo)

end

section
variable {h : Seal} {k : Packet}

theorem unsealed_current (hicv : k.icvOk = true) (han : k.an = h.keyIdx % 4) (hpn : h.rxPn < k.pn) : unsealed h k = some { h with rxPn := k.pn } := by
  simp only [unsealed, hicv, Bool.not_true, Bool.false_eq_true, if_false, if_pos han, gt_iff_lt, if_pos hpn]

theorem unsealed_previous (hicv : k.icvOk = true) (hidx : 1 ≤ h.keyIdx) (han : k.an = (h.keyIdx - 1) % 4) (hpn : h.rxOld < k.pn) :
    unsealed h k = some { h with rxOld := k.pn } := by
  have hother : ¬ k.an = h.keyIdx % 4 := by omega
  have hprev : h.keyIdx ≥ 1 ∧ k.an = (h.keyIdx - 1) % 4 := ⟨hidx, han⟩
  simp only [unsealed, hicv, Bool.not_true, Bool.false_eq_true, if_false, if_neg hother, if_pos hprev, gt_iff_lt, if_pos hpn]

theorem unsealed_refused (hbad : k.icvOk = false ∨ (k.an = h.keyIdx % 4 ∧ k.pn ≤ h.rxPn) ∨
    (k.an ≠ h.keyIdx % 4 ∧ (h.keyIdx = 0 ∨ k.an ≠ (h.keyIdx - 1) % 4 ∨ k.pn ≤ h.rxOld))) : unsealed h k = none := by
  unfold unsealed
  obtain hicv | ⟨han, hpn⟩ | ⟨hother, hold⟩ := hbad
  · rw [hicv]
    rfl
  · split
    · rfl
    · exact if_neg (Nat.not_lt.mpr hpn)
  · split
    · rfl
    · split
      · next hprev =>
        obtain ⟨hidx, han⟩ := hprev
        exact if_neg (by omega)
      · rfl

end

/-! ### Frames -/

section
variable {n : Nat} {k : Packet} {s : State} {x : Qp}

theorem receiveFrame_badIcrc (hk : k.kind = .roce) (hicrc : k.icrcOk = false) : receiveFrame s n k = bump s (pgNet n + 0x124) 16 16 1 := by
  simp only [receiveFrame, hk, hicrc, Bool.not_false, if_true]

theorem receiveFrame_unsupported (hk : k.kind = .roce) (hicrc : k.icrcOk = true) (hop : supported k.opcode = false) :
    receiveFrame s n k = if otherTransport k.opcode then bump s (pgNet n + 0x124) 0 16 1 else s := by
  simp only [receiveFrame, hk, hicrc, hop, Bool.not_true, Bool.false_eq_true, if_false]

theorem receiveFrame_noQp (hk : k.kind = .roce) (hicrc : k.icrcOk = true) (hop : supported k.opcode = true) (hx : tget? s.qps k.qpn = none) :
    receiveFrame s n k = bump s (pgNet n + 0x124) 0 16 1 := by
  simp only [receiveFrame, hk, hicrc, hop, hx, Bool.not_true, Bool.false_eq_true, if_false, if_true]

theorem receiveFrame_of_qp (hk : k.kind = .roce) (hicrc : k.icrcOk = true) (hop : supported k.opcode = true) (hx : tget? s.qps k.qpn = some x)
    (hport : x.port = n) : receiveFrame s n k = receiveQp s n x k := by
  simp only [receiveFrame, hk, hicrc, hop, hx, Bool.not_true, Bool.false_eq_true, if_false, if_true]
  exact if_neg (not_not_intro hport)

theorem police_unpoliced (hpol : bit (le x.attr 0x10 2) 8 = false) : police s n x k = (true, s) := by
  simp only [police, hpol, Bool.not_false, Bool.true_or, if_true]

/-- A packet of a queue pair that nothing polices or refuses, as it is metered. -/
theorem receiveQp_of_unpoliced (hpol : bit (le x.attr 0x10 2) 8 = false) (herr : x.err = false) (href : (s.port n).refusals = []) : receiveQp s n x k =
    let s1 := meterPort s x.part n k.frameLen false
    if (s.port n).cache.contains k.qpn = false then holdPkt (askFetch s1 n k.qpn) n { pkt := k }
    else if (s.port n).held.any (fun h => decide (h.pkt.qpn = k.qpn)) = true then holdPkt s1 n { pkt := k }
    else match processPkt s1 n k none with
      | (s2, none) => s2
      | (s2, some g) => holdPkt (faultHold s2 n k g false).2 n (faultHold s2 n k g false).1 := by
  have hport : (meterPort s x.part n k.frameLen false).port n = s.port n := rfl
  simp only [receiveQp, police_unpoliced hpol, hport, herr, href, List.any_nil, Bool.or_self, Bool.false_eq_true, if_false, Bool.not_eq_true'] <;> rfl

/-- A cached queue pair for which nothing is held processes its packet. -/
theorem receiveFrame_of_processed {s2 : State} (hk : k.kind = .roce) (hicrc : k.icrcOk = true) (hop : supported k.opcode = true)
    (hx : tget? s.qps k.qpn = some x) (hport : x.port = n) (hpol : bit (le x.attr 0x10 2) 8 = false) (herr : x.err = false)
    (href : (s.port n).refusals = []) (hcache : (s.port n).cache.contains k.qpn = true) (hheld : (s.port n).held = [])
    (hproc : processPkt (meterPort s x.part n k.frameLen false) n k none = (s2, none)) : receiveFrame s n k = s2 := by
  rw [receiveFrame_of_qp hk hicrc hop hx hport, receiveQp_of_unpoliced hpol herr href]
  simp only [hcache, hheld, List.any_nil, Bool.true_eq_false, Bool.false_eq_true, if_false, hproc]

/-- A packet of a queue pair without error turns on its opcode. -/
theorem processPkt_of_qp (hx : tget? s.qps k.qpn = some x) (herr : x.err = false) : processPkt s n k none =
    if k.opcode = 0x81 then (recvCnp (useQp s n k.qpn) k.qpn x, none)
    else if k.opcode = 0x11 then (recvAck (useQp s n k.qpn) k.qpn x k, none)
    else if 0x0D ≤ k.opcode ∧ k.opcode ≤ 0x10 then (recvResp (useQp s n k.qpn) k.qpn x k, none)
    else recvRequest (useQp s n k.qpn) k.qpn x k none := by
  have hx' : tget? (useQp s n k.qpn).qps k.qpn = some x := hx
  simp only [processPkt, hx', herr, Bool.false_eq_true, if_false]

theorem psnDiff_self {a : Nat} : psnDiff a a = 0 := by
  unfold psnDiff
  omega

/-- A request at the expected number, of a queue pair that answers no refusal or gap, is placed. -/
theorem recvRequest_expected {q : Nat} (hce : k.ce = false) (hpsn : k.psn = x.rqPsn) (hrefused : x.refused = none) (hgap : x.gapNak = false)
    (hread : k.opcode ≠ 0x0C) (hknown : [0x13, 0x14, 0x16, 0x17].contains k.opcode = false) :
    recvRequest s q x k none = (placePkt (s.setQp q x) q x k, none) := by
  have hself : ({ x with refused := none, gapNak := false } : Qp) = x := by
    rw [← hrefused, ← hgap]
  simp only [recvRequest, hce, Bool.false_and, Bool.false_eq_true, if_false, hpsn, psnDiff_self, hrefused, Option.isSome_none, false_and, hself] <;>
    simp only [ge_iff_le, Nat.le_zero_eq, Nat.reducePow, Nat.reduceEqDiff, if_false, gt_iff_lt, Nat.lt_irrefl, if_neg hread, hknown, Bool.false_eq_true]

theorem startPlacing_write (hop : k.opcode = 0x0A) (hplacing : x.placing = none) (hlen : k.dlen ≠ 0) {q : Nat} : startPlacing s q x k true =
    match keyCheck s x k.rkey k.va k.dlen true with
    | some (i, g) => (some { firstPsn := k.psn, isWrite := true, region := some (i, g.gen), ref := g.base + k.va, left := k.dlen }, s)
    | none => (none, denyKey s q x k.psn) := by
  have hfirst : opFirst k.opcode = true := by rw [hop]; rfl
  simp only [startPlacing, hfirst, hplacing, Bool.true_and, decide_eq_true_eq, ne_eq, hlen, not_false_eq_true, if_true] <;>
    cases keyCheck s x k.rkey k.va k.dlen true <;> rfl

/-- The queue pair once a `WRITE` of one packet has been placed. -/
def placedQp (x : Qp) (k : Packet) (i : Nat) (g : Region) : Qp :=
  { x with rqPsn := (k.psn + 1) % 2 ^ 24, placing := some { firstPsn := k.psn, isWrite := true, region := some (i, g.gen),
                                                            ref := g.base + k.va + k.dlen, left := 0 } }

/-- A `WRITE` of one packet that passes its key check is placed and acknowledged. -/
theorem placePkt_of_key {q i : Nat} {g : Region} (hop : k.opcode = 0x0A) (hplacing : x.placing = none) (hlen : k.dlen ≠ 0)
    (hpayload : k.payload.length = k.dlen) (hkey : keyCheck s x k.rkey k.va k.dlen true = some (i, g)) : placePkt s q x k =
    ackMsg ((issueWrite (refWrite s x.part (g.base + k.va) k.payload) (.placed i g.gen)).setQp q (placedQp x k i g)) q k.psn := by
  have hwrite : (decide (0x06 ≤ k.opcode) && decide (k.opcode ≤ 0x0B)) = true := by rw [hop]; rfl
  have himm : opImm k.opcode = false := by rw [hop]; rfl
  have hlast : opLast k.opcode = true := by rw [hop]; rfl
  have htake : k.payload.take k.dlen = k.payload := List.take_of_length_le (Nat.le_of_eq hpayload)
  unfold placePkt placedQp
  simp only [hwrite, himm, hlast, startPlacing_write hop hplacing hlen, hkey, htake, hpayload, Nat.sub_self, Bool.false_eq_true, if_false, if_true]

theorem placePkt_of_noKey {q : Nat} (hop : k.opcode = 0x0A) (hplacing : x.placing = none) (hlen : k.dlen ≠ 0)
    (hkey : keyCheck s x k.rkey k.va k.dlen true = none) : placePkt s q x k = denyKey s q x k.psn := by
  have hwrite : (decide (0x06 ≤ k.opcode) && decide (k.opcode ≤ 0x0B)) = true := by rw [hop]; rfl
  simp only [placePkt, hwrite, startPlacing_write hop hplacing hlen, hkey]

end

/-! ### Fetches -/

section
variable {p : Fin 4} {q : Nat} {s s1 : State}

theorem exec_qpFetchDone_of_place {b : Bool} {s3 : State} (hreach : hostReach s = true) (hfetch : (s.port p.val).fetch.contains q = true)
    (hspill : (spillHost s && ideHold s) = false) (hplace : cachePlace s p.val = some s1)
    (hread : readSpill (bump (s1.setPort p.val { s1.port p.val with fetch := (s1.port p.val).fetch.erase q, cache := (s1.port p.val).cache ++ [q] })
      (pgNet p.val + 0x10C) 0 32 1) q = (b, s3)) :
    exec (.qpFetchDone p q) s = .next (processHeld (if b then s3 else qpError s3 q 4) p.val q ((s3.port p.val).held.length + 1)) := by
  simp only [exec, execQpFetchDone, if_neg (reached hreach), hfetch, hspill, Bool.not_true, Bool.or_self, Bool.false_eq_true, if_false, hplace, hread]
  cases b <;> rfl

theorem exec_qpFetchDone_waits (h : hostReach s = false ∨ (s.port p.val).fetch.contains q = false ∨ (spillHost s && ideHold s) = true ∨
    cachePlace s p.val = none) : exec (.qpFetchDone p q) s = .next s := by
  simp only [exec, execQpFetchDone]
  split
  · rfl
  · next hreach =>
    split
    · rfl
    · next hgo =>
      rw [Bool.or_eq_true, not_or] at hgo
      obtain ⟨hfetch, hspill⟩ := hgo
      obtain h | h | h | h := h
      · exact absurd (by rw [h]; rfl) hreach
      · exact absurd (by rw [h]; rfl) hfetch
      · exact absurd h hspill
      · rw [h]

/-! ### Sending -/

/-- What a packet that may leave tells of its queue pair and its port (R337, R354, R358, R360). -/
theorem sendable_some {y : Qp × Nat × OutMsg × Packet × GateSays} (h : sendable s q = some y) : ∃ x : Qp, tget? s.qps q = some x ∧ y.1 = x ∧
    x.err = false ∧ portOpen (s.port x.port) = true ∧ (s.port x.port).cache.contains q = true ∧ y.2.2.2.2 ≠ .wait ∧ x.pace ≤ (portCount s x.port : Rat) ∧
    ((s.port x.port).shRate.getD y.2.2.1.tclass 0 ≠ 0 → 0 < (s.port x.port).tokens.getD y.2.2.1.tclass 0) := by
  unfold sendable at h
  split at h
  · exact absurd h (Option.some_ne_none y).symm
  · next x hx =>
    split at h
    · exact absurd h (Option.some_ne_none y).symm
    · next i m hm =>
      dsimp only at h
      split at h
      · exact absurd h (Option.some_ne_none y).symm
      · next hgo =>
        cases h
        simp only [Bool.or_eq_true, Bool.and_eq_true, Bool.not_eq_true', decide_eq_true_eq, not_or, not_and, Bool.not_eq_false, Bool.not_eq_true] at hgo
        obtain ⟨⟨⟨⟨⟨⟨⟨⟨hopen, hcache⟩, herr⟩, -⟩, -⟩, -⟩, hgate⟩, hshaped⟩, hpace⟩ := hgo
        exact ⟨x, hx, rfl, herr, hopen, hcache, hgate, Rat.not_lt.mp hpace, fun hrate => Int.not_le.mp (hshaped hrate)⟩

theorem askFetch_of_cached (h : (s.port p.val).cache.contains q = true) : askFetch s p.val q = s := if_pos (.inl h)

/-- A cached queue pair of a port sends its next packet where it is the one that the port serves next. -/
theorem exec_resultBlockSend_of_cached {x : Qp} (hreach : hostReach s = true) (hx : tget? s.qps q = some x) (hport : x.port = p.val)
    (hcache : (s.port p.val).cache.contains q = true) : exec (.resultBlockSend p q) s =
    match sendable s q, nextSend s p.val with
    | some (x, i, m, pk, gate), some (q', p0) =>
      if q' ≠ q then .next s
      else
        let n := pk.frameLen
        let p1 := if p0.shRate.getD m.tclass 0 = 0 then p0 else { p0 with tokens := modAt (fun t => t - (1000 * n : Nat)) m.tclass p0.tokens }
        let s1 := useQp ((s.setPort p.val p1).setQp q { sentMsg x i m with pace := paced s x n }) p.val q
        let s2 := meterPort (transmit s1 p.val q (classDscp s1 p.val m.tclass) pk) x.part p.val n true
        .next (if gate = .over then raise (bump s2 (pgShp p.val 0 + 0x190) 0 16 1) (pgShp p.val 0) 1 [] else s2)
    | _, _ => .next s := by
  have hask : (if (nextMsg x).isSome = true ∧ x.err = false then askFetch s p.val q else s) = s := by
    rw [askFetch_of_cached hcache, ite_self]
  simp only [exec, execResultBlockSend, if_neg (reached hreach), hx, if_neg (not_not_intro hport), hask] <;> rfl

theorem exec_resultBlockSend_waits (h : hostReach s = false ∨ tget? s.qps q = none ∨ ∃ x : Qp, tget? s.qps q = some x ∧ (x.port ≠ p.val ∨
    ((s.port p.val).cache.contains q = true ∧ (sendable s q = none ∨ ∀ p0 : Port, nextSend s p.val ≠ some (q, p0))))) :
    exec (.resultBlockSend p q) s = .next s := by
  cases hreach : hostReach s with
  | false => exact if_pos (by rw [hreach]; rfl)
  | true =>
    obtain hno | ⟨x, hx, hwait⟩ := h.resolve_left (fun hno => Bool.noConfusion (hreach.symm.trans hno))
    · simp only [exec, execResultBlockSend, hno, ite_self]
    · by_cases hport : x.port = p.val
      · obtain ⟨hcache, hno⟩ := hwait.resolve_left (not_not_intro hport)
        rw [exec_resultBlockSend_of_cached hreach hx hport hcache]
        obtain hno | hother := hno
        · rw [hno]
        · cases sendable s q with
          | none => rfl
          | some y =>
            cases hnext : nextSend s p.val with
            | none => rfl
            | some e => exact if_pos fun heq => hother e.2 (by rw [hnext, ← heq])
      · simp only [exec, execResultBlockSend, if_neg (reached hreach), hx]
        exact if_pos hport

/-- Queues 0 to 3 go first, the lowest of them that has a packet. -/
theorem nextSend_strict {n c : Nat} {p0 : Port} {h : Nat × Nat × Nat} (hnext : nextSend s n = some (q, p0)) (hc : c < 4) (hhead : queueHead s n c = some h)
    (hlower : ∀ d : Nat, d < c → queueHead s n d = none) : q = h.1 ∧ p0 = s.port n := by
  have htake : (((List.range 16).map (queueHead s n)).take 4) = [queueHead s n 0, queueHead s n 1, queueHead s n 2, queueHead s n 3] := rfl
  have hfirst : [queueHead s n 0, queueHead s n 1, queueHead s n 2, queueHead s n 3].findSome? id = some h := by
    rcases (by omega : c = 0 ∨ c = 1 ∨ c = 2 ∨ c = 3) with rfl | rfl | rfl | rfl
    · simp [hhead]
    · simp [hhead, hlower 0]
    · simp [hhead, hlower 0, hlower 1]
    · simp [hhead, hlower 0, hlower 1, hlower 2]
  simp only [nextSend, htake, hfirst, Option.some.injEq, Prod.mk.injEq] at hnext
  exact ⟨hnext.1.symm, hnext.2.symm⟩

end

/-- Settles O42: what a port receives, what it fetches, and what it sends. -/
theorem packetsAreReceivedAndSent : Obligations.PacketsAreReceivedAndSent := by
  refine ⟨fun p k s => exec_packetReceive_lost, fun p k s hreach hup hlen => ?_, fun h k => ⟨unsealed_current, unsealed_previous, unsealed_refused⟩,
    fun n k s => ⟨fun hk => ?_, fun hk => ?_, receiveFrame_badIcrc, receiveFrame_unsupported, receiveFrame_noQp,
      fun x hk hicrc hop hx hport hpol herr href => ⟨fun hcache => ?_, fun hcache hheld => ⟨fun hcnp => ?_, fun hack => ?_,
        fun hwrite hce hpsn hlt hplacing hrefused hgap hlen hpayload => ⟨fun i g hkey => ?_, fun hkey => ?_⟩⟩⟩⟩,
    fun s q x => rfl, fun p q s s1 hreach hfetch hspill hplace b s3 => exec_qpFetchDone_of_place hreach hfetch hspill hplace,
    fun p q s => exec_qpFetchDone_waits, fun p q i s x m pk gate p0 hreach hx hport hsend hnext => ?_, fun s q y => sendable_some,
    fun s p q p0 c h => nextSend_strict, fun p q s => exec_resultBlockSend_waits⟩
  · rw [exec_packetReceive_of_up hreach hup hlen]
    refine ⟨fun hreq hdrop => ?_, fun hreq hsealed hsession hno => ?_, fun h hreq hsealed hsome => ⟨fun hdone => ?_, fun hnot hfirst => ?_⟩,
      fun hopen hsealed => ?_, fun hopen hplain => ?_⟩
    · rw [if_pos hreq]
      refine if_pos ?_
      obtain hplain | ⟨hnot, hfirst⟩ := hdrop
      · rw [hplain]; rfl
      · have hfirst' : firstSealed (s.port p.val) = false := hfirst
        rw [hnot, hfirst']
        exact Bool.or_true _
    · have hgo : ((s.port p.val).sealed || firstSealed (s.port p.val)) = true := Bool.or_eq_true_iff.mpr hsession
      rw [if_pos hreq, hsealed, hgo, hno]
      rfl
    · rw [if_pos hreq, hsealed, hdone, hsome]
      rfl
    · have hfirst' : firstSealed (s.port p.val) = true := hfirst
      rw [if_pos hreq, hsealed, hnot, hfirst', hsome]
      rfl
    · rw [hopen, if_pos hsealed]
      rfl
    · rw [hopen, hplain]
      rfl
  · simp only [receiveFrame, hk]
  · obtain hk | hk := hk <;> simp only [receiveFrame, hk]
  · rw [receiveFrame_of_qp hk hicrc hop hx hport, receiveQp_of_unpoliced hpol herr href]
    exact if_pos hcache
  · refine receiveFrame_of_processed hk hicrc hop hx hport hpol herr href hcache hheld ?_
    rw [processPkt_of_qp (s := meterPort s x.part n k.frameLen false) hx herr, if_pos hcnp]
  · refine receiveFrame_of_processed hk hicrc hop hx hport hpol herr href hcache hheld ?_
    rw [processPkt_of_qp (s := meterPort s x.part n k.frameLen false) hx herr, if_neg (by omega), if_pos hack]
  · refine receiveFrame_of_processed hk hicrc hop hx hport hpol herr href hcache hheld ?_
    rw [processPkt_of_qp (s := meterPort s x.part n k.frameLen false) hx herr, if_neg (by omega), if_neg (by omega), if_neg (by omega),
      recvRequest_expected hce hpsn hrefused hgap (by omega) (by rw [hwrite]; rfl), placePkt_of_key hwrite hplacing hlen hpayload hkey]
    rfl
  · refine receiveFrame_of_processed hk hicrc hop hx hport hpol herr href hcache hheld ?_
    rw [processPkt_of_qp (s := meterPort s x.part n k.frameLen false) hx herr, if_neg (by omega), if_neg (by omega), if_neg (by omega),
      recvRequest_expected hce hpsn hrefused hgap (by omega) (by rw [hwrite]; rfl), placePkt_of_noKey hwrite hplacing hlen hkey, denyKey, hport]
    rfl
  · obtain ⟨y, hy, -, -, -, hcache, -⟩ := sendable_some hsend
    cases hy.symm.trans hx
    rw [hport] at hcache
    rw [exec_resultBlockSend_of_cached hreach hx hport hcache, hsend, hnext]
    have hpaced : paced s x pk.frameLen = max (portCount s p.val : Rat) x.pace + (8000 * pk.frameLen : Nat) / x.rc := by rw [paced, hport]
    dsimp only
    rw [hpaced]
    exact if_neg fun hne => hne rfl

end Sys2Proof.Proofs.Packets
end

section
/-! PROOF. The link sealing handshake (R436-R441). -/
namespace Sys2Proof.Proofs.LinkSeal
open Sys2Proof.Machine Sys2Proof.Safety Sys2Proof.Laws Sys2Proof.Proofs.Ports

section
variable {p : Fin 4} {m : List Byte} {s : State}

/-- A port that takes no handshake messages does nothing about them. -/
theorem exec_handshake_closed (h : hostReach s = false ∨ hsOpen s p.val = false) :
    exec (.hello p m) s = .next s ∧ exec (.reply p m) s = .next s ∧ exec (.confirm p m) s = .next s ∧ exec (.rekey p m) s = .next s ∧
    exec (.abort p m) s = .next s ∧ exec (.helloRepeat p) s = .next s ∧ exec (.rekeyPeriod p) s = .next s := by
  simp only [exec, execHello, execReply, execConfirm, execRekey, execAbort, execHelloRepeat, execRekeyPeriod]
  obtain h | h := h
  · simp only [h, Bool.not_false, if_true, and_self]
  · simp only [h, Bool.not_false, Bool.true_or, if_true, ite_self, and_self]

section
variable (hreach : hostReach s = true) (hopen : hsOpen s p.val = true)
include hreach hopen

/-! ### HELLO -/

theorem exec_helloRepeat_of_open : exec (.helloRepeat p) s = match (s.port p.val).hs.phase with
    | .helloSent => .next (sendHs s p.val (s.port p.val).hs.hello)
    | .none | .failed =>
      let m := hsMsg 1 0 ((drawBytes s 32).1 ++ ownDigest ++ kemPub (leBytes 64 (draw (drawBytes s 32).2).1))
      .next (sendHs ((draw (drawBytes s 32).2).2.setPort p.val { s.port p.val with
        hs := { phase := .helloSent, init := true, hello := m, eph := (draw (drawBytes s 32).2).1 } }) p.val m)
    | _ => .next s := by
  simp only [exec, execHelloRepeat, hreach, hopen, Bool.not_true, Bool.false_eq_true, if_false] <;> rfl

/-- The device's own `HELLO` stands against one from a side with the higher digest. -/
def helloStays (s : State) (p : Nat) (m : List Byte) : Bool :=
  decide ((s.port p).hs.phase = .helloSent) && hsOk m 1 0 && decide (leNat ownDigest < leNat (bslice m 48 32))

theorem exec_hello_ignored (h : helloStays s p.val m = true ∨ (s.port p.val).hs.phase = .confirmSent ∨ (s.port p.val).hs.phase = .done) :
    exec (.hello p m) s = .next s := by
  refine (if_neg (reached hreach)).trans (if_pos ?_)
  unfold helloStays at h
  rw [hopen]
  obtain h | h | h := h <;> simp [h]

theorem exec_hello_answered (hstays : helloStays s p.val m = false) (hsent : (s.port p.val).hs.phase ≠ .confirmSent)
    (hdone : (s.port p.val).hs.phase ≠ .done) : exec (.hello p m) s = match respond s m 0 with
      | (.error e, s1) => .next (sealAbort s1 p.val e)
      | (.ok (r, h), s1) => .next (sendHs (s1.setPort p.val { s1.port p.val with hs := h }) p.val r) := by
  unfold helloStays at hstays
  simp only [exec, execHello, hreach, hopen, hstays, hsent, hdone, decide_false, Bool.not_true, Bool.or_self, Bool.false_eq_true, if_false] <;> rfl

end

theorem respond_badForm (h : hsOk m 1 0 = false) : respond s m 0 = (.error 3, s) := by
  simp only [respond, h, Bool.not_false, if_true]

theorem respond_unknown (h : hsOk m 1 0 = true) (hkey : trustKey s (bslice m 48 32) = none) : respond s m 0 = (.error 1, s) := by
  simp only [respond, h, hkey, Bool.not_true, Bool.false_eq_true, if_false]

theorem respond_known {k : List Byte} (h : hsOk m 1 0 = true) (hkey : trustKey s (bslice m 48 32) = some k) : ∃ r secret : List Byte, respond s m 0 =
    (.ok (r, { phase := .replySent, init := false, hello := m, reply := r, peer := bslice m 48 32, secret := secret }), { s with free := s.free + 2 }) := by
  simp only [respond, h, hkey, Bool.not_true, Bool.false_eq_true, if_false]
  exact ⟨_, _, rfl⟩

/-! ### REPLY and CONFIRM -/

section
variable (hreach : hostReach s = true) (hopen : hsOpen s p.val = true)
include hreach hopen

omit hopen in
theorem exec_reply_unexpected (h : (s.port p.val).hs.phase ≠ .helloSent) : exec (.reply p m) s = .next s := by
  refine (if_neg (reached hreach)).trans (if_pos ?_)
  rw [decide_eq_true h, Bool.or_true]

/-- The initiator once it has taken a `REPLY`. -/
def replied (h : Seal) (m : List Byte) : Seal :=
  { h with phase := .confirmSent, reply := m, peer := bslice m 48 32, eph := 0, keyIdx := 0,
           secret := derive (leBytes 32 (Config.mlkemOpen (leBytes 64 h.eph) (bslice m 80 1088))) (sha3 (h.hello ++ m)) "XCN3-SESS" }

theorem exec_reply_expected (h : (s.port p.val).hs.phase = .helloSent) : exec (.reply p m) s =
    if hsOk m 2 0 = false then .next (sealAbort s p.val 3)
    else match trustKey s (bslice m 48 32) with
      | none => .next (sealAbort s p.val 1)
      | some k =>
        if dsaVerify k (sha3 ((s.port p.val).hs.hello ++ m.take 1168)) (bslice m 1168 2420) "XCN3-HS-R" = false then .next (sealAbort s p.val 2)
        else .next (sendHs (s.setPort p.val { s.port p.val with hs := replied (s.port p.val).hs m }) p.val
          (hsMsg 3 0 (dsaSign idSeed (sha3 ((s.port p.val).hs.hello ++ m)) "XCN3-HS-I"))) := by
  simp only [exec, execReply, hreach, hopen, h, ne_eq, not_true_eq_false, decide_false, Bool.not_true, Bool.or_self, Bool.false_eq_true, if_false,
    Bool.not_eq_true', Nat.reduceSub]
  rfl

omit hopen in
theorem exec_confirm_unexpected (h : (s.port p.val).hs.phase ≠ .replySent) : exec (.confirm p m) s = .next s := by
  refine (if_neg (reached hreach)).trans (if_pos ?_)
  rw [decide_eq_true h, Bool.or_true]

theorem exec_confirm_expected (h : (s.port p.val).hs.phase = .replySent) : exec (.confirm p m) s = match confirmed s (s.port p.val).hs m 0 with
    | .error e => .next (sealAbort s p.val e)
    | .ok h => .next (s.setPort p.val { s.port p.val with hs := h, sealed := true }) := by
  simp only [exec, execConfirm, hreach, hopen, h, ne_eq, not_true_eq_false, decide_false, Bool.not_true, Bool.or_self, Bool.false_eq_true, if_false] <;> rfl

end

theorem confirmed_eq (h : Seal) : confirmed s h m 0 =
    if hsOk m 3 0 = false then .error 3
    else match trustKey s h.peer with
      | none => .error 1
      | some k =>
        if dsaVerify k (sha3 (h.hello ++ h.reply)) (bslice m 16 2420) "XCN3-HS-I" = true then .ok { h with phase := .done, keyIdx := 0 } else .error 2 := by
  simp only [confirmed, Bool.not_eq_true'] <;> rfl

/-! ### REKEY, ABORT, and a wait without answer -/

theorem rekeyed_eq (h : Seal) : rekeyed h m 0 =
    if hsOk m 4 0 = false then .error 3 else if le m 16 4 = h.keyIdx + 1 then .ok (nextKey h) else .error 4 := by
  simp only [rekeyed, Bool.not_eq_true']

section
variable (hreach : hostReach s = true) (hopen : hsOpen s p.val = true)
include hreach hopen

omit hreach hopen in
theorem exec_rekey_unsealed (h : (s.port p.val).sealed = false) : exec (.rekey p m) s = .next s ∧ exec (.rekeyPeriod p) s = .next s := by
  simp only [exec, execRekey, execRekeyPeriod, h, Bool.not_false, Bool.or_true, if_true, ite_self, and_self]

theorem exec_rekey_sealed (h : (s.port p.val).sealed = true) : exec (.rekey p m) s = match rekeyed (s.port p.val).hs m 0 with
    | .error e => .next (sealAbort s p.val e)
    | .ok h => .next (s.setPort p.val { s.port p.val with hs := h }) := by
  simp only [exec, execRekey, hreach, hopen, h, Bool.not_true, Bool.or_self, Bool.false_eq_true, if_false] <;> rfl

theorem exec_rekeyPeriod_sealed (h : (s.port p.val).sealed = true) : exec (.rekeyPeriod p) s =
    .next (sendHs (s.setPort p.val { s.port p.val with hs := nextKey (s.port p.val).hs }) p.val (hsMsg 4 0 (leBytes 4 ((s.port p.val).hs.keyIdx + 1)))) := by
  refine (if_neg (reached hreach)).trans (if_neg ?_)
  rw [hopen, h]
  exact Bool.false_ne_true

theorem exec_abort_ends (hok : hsOk m 5 0 = true) (hsome : (s.port p.val).hs.phase ≠ .none) (hgoing : (s.port p.val).hs.phase ≠ .failed) :
    exec (.abort p m) s = .next (sealFail s p.val) := by
  simp only [exec, execAbort, hreach, hopen, hok, hsome, hgoing, decide_false, Bool.not_true, Bool.or_self, Bool.false_eq_true, if_false]

theorem exec_abort_ignored (h : hsOk m 5 0 = false ∨ (s.port p.val).hs.phase = .none ∨ (s.port p.val).hs.phase = .failed) :
    exec (.abort p m) s = .next s := by
  refine (if_neg (reached hreach)).trans (if_pos ?_)
  rw [hopen]
  obtain h | h | h := h <;> simp [h]

end

theorem exec_handshakeTimeout_idle (h : hostReach s = false ∨ (s.port p.val).hs.phase = .none ∨ (s.port p.val).hs.phase = .done ∨
    (s.port p.val).hs.phase = .failed) : exec (.handshakeTimeout p) s = .next s := by
  simp only [exec, execHandshakeTimeout]
  obtain h | h | h | h := h <;> simp only [h, Bool.not_false, if_true, ite_self]

theorem exec_handshakeTimeout_waiting (hreach : hostReach s = true) (h : (s.port p.val).hs.phase = .helloSent ∨ (s.port p.val).hs.phase = .replySent ∨
    (s.port p.val).hs.phase = .confirmSent) : exec (.handshakeTimeout p) s = .next (sealFail s p.val) := by
  simp only [exec, execHandshakeTimeout, if_neg (reached hreach)]
  obtain h | h | h := h <;> rw [h]

end

theorem length_nonce (s : State) : (drawBytes s 32).1.length = 32 := by
  simp [drawBytes, leBytes]

/-- Settles O43: the handshake's messages one by one, and what ends it. -/
theorem linksAreSealed : Obligations.LinksAreSealed := by
  refine ⟨fun p m s => exec_handshake_closed, fun p m s hreach hopen => ⟨fun hsent => ?_, fun hnew => ?_, fun hlate => ?_,
    fun hlate => exec_hello_ignored hreach hopen (.inr hlate), fun hsent hok hlower => exec_hello_ignored hreach hopen (.inl ?_), fun hphase => ?_,
    exec_reply_unexpected hreach, fun hsent => ?_, exec_confirm_unexpected hreach, fun hsent => ?_, exec_rekey_unsealed,
    fun hsealed => ?_, exec_abort_ends hreach hopen, exec_abort_ignored hreach hopen⟩,
    fun p s => ⟨exec_handshakeTimeout_idle, exec_handshakeTimeout_waiting⟩, fun h => ⟨rfl, rfl, rfl, rfl, rfl⟩⟩
  · rw [exec_helloRepeat_of_open hreach hopen, hsent]
  · refine ⟨(drawBytes s 32).1, (draw (drawBytes s 32).2).1, length_nonce s, ?_⟩
    rw [exec_helloRepeat_of_open hreach hopen]
    obtain hnew | hnew := hnew <;> rw [hnew] <;> rfl
  · rw [exec_helloRepeat_of_open hreach hopen]
    obtain hlate | hlate | hlate := hlate <;> rw [hlate]
  · rw [helloStays, hsent, hok, decide_eq_true hlower]
    rfl
  · have hanswers : helloStays s p.val m = false ∧ (s.port p.val).hs.phase ≠ .confirmSent ∧ (s.port p.val).hs.phase ≠ .done := by
      unfold helloStays
      obtain h | h | h | ⟨h, hlower⟩ := hphase
      · simp [h]
      · simp [h]
      · simp [h]
      · simp [h, Nat.not_lt.mpr hlower]
    obtain ⟨hstays, hsent, hdone⟩ := hanswers
    rw [exec_hello_answered hreach hopen hstays hsent hdone]
    refine ⟨fun hbad => ?_, fun hok hno => ?_, fun k hok hk => ?_⟩
    · rw [respond_badForm hbad]
    · rw [respond_unknown hok hno]
    · obtain ⟨r, secret, hr⟩ := respond_known hok hk
      refine ⟨r, secret, ?_⟩
      rw [hr]
      rfl
  · rw [exec_reply_expected hreach hopen hsent]
    refine ⟨fun hbad => if_pos hbad, fun hok hno => ?_, fun k hok hk => ⟨fun hsig => ?_, fun hsig => ?_⟩⟩
    · rw [hok, hno]; rfl
    · rw [hok, hk, if_neg (by decide)]
      exact if_pos hsig
    · rw [hok, hk, if_neg (by decide)]
      exact if_neg (by rw [hsig]; decide)
  · rw [exec_confirm_expected hreach hopen hsent, confirmed_eq]
    refine ⟨fun hbad => ?_, fun hok hno => ?_, fun k hok hk => ⟨fun hsig => ?_, fun hsig => ?_⟩⟩
    · rw [hbad]; rfl
    · rw [hok, hno]; rfl
    · rw [hok, hk, if_neg (by decide)]
      dsimp only
      rw [hsig]; rfl
    · rw [hok, hk, if_neg (by decide)]
      dsimp only
      rw [hsig]; rfl
  · rw [exec_rekey_sealed hreach hopen hsealed, rekeyed_eq]
    refine ⟨fun hbad => ?_, fun hok hother => ?_, fun hok hnext => ?_, exec_rekeyPeriod_sealed hreach hopen hsealed⟩
    · rw [hbad]; rfl
    · rw [hok, if_neg (by decide), if_neg hother]
    · rw [hok, if_neg (by decide), if_pos hnext]

end Sys2Proof.Proofs.LinkSeal
end

section
/-! PROOF. Queue pair and region commands (R334-R338, R342-R346, R355). -/
namespace Sys2Proof.Proofs.QpRegions
open Sys2Proof.Machine Sys2Proof.Safety Sys2Proof.Laws Sys2Proof.Proofs.Firmware

theorem rmGate_of_not_running {s : State} {c : Nat} (h : s.stw.rm ≠ .running) : ∃ n, rmGate s c = (some n, s) := by
  unfold rmGate
  cases hrm : s.stw.rm with
  | running => exact absurd hrm h
  | restarting => exact ⟨_, rfl⟩
  | held => exact ⟨_, rfl⟩

/-! ### Queue pairs -/

section
variable {p : Fin 4} {s : State}

theorem exec_qpCommands_held (hmay : HostMay s (pgNet p.val)) (hrm : s.stw.rm ≠ .running) : exec (.qpCreate p) s = .next (qpResult s p.val 1) ∧
    exec (.qpDestroy p) s = .next (qpResult s p.val 1) ∧ exec (.qpRead p) s = .next (qpResult s p.val 1) := by
  obtain ⟨n, hgate⟩ := rmGate_of_not_running (c := 1) hrm
  refine ⟨(hostWr_of_hostMay hmay _).trans ?_, (hostWr_of_hostMay hmay _).trans ?_, (hostWr_of_hostMay hmay _).trans ?_⟩ <;> simp only [hgate]

/-- The queue pair that the staged block asks for. -/
def newQp (s : State) (p : Nat) : Qp :=
  let a := stagedAttr s p
  { port := p, part := le a 4 1, attr := a, sqPsn := le a 0x14 4, rqPsn := le a 0x18 4, rnrLeft := bits (le a 0x0E 1) 4 3 }

theorem exec_qpCreate_of_takes (hmay : HostMay s (pgNet p.val)) (hrm : RmTakes s 1) : exec (.qpCreate p) s =
    if attrOk s (stagedAttr s p.val) = false then .next (qpResult s p.val 2)
    else if (tget? s.qps (le (stagedAttr s p.val) 0 4)).isSome = true then .next (qpResult s p.val 3)
    else if rdf s (pgNet 0 + 0x2B8) 0 1 = 0 then .next (qpResult s p.val 4)
    else .next (qpResult (writeBack (s.setQp (le (stagedAttr s p.val) 0 4) (newQp s p.val)) (le (stagedAttr s p.val) 0 4)) p.val 0) := by
  refine (hostWr_of_hostMay hmay _).trans ?_
  unfold newQp
  simp only [rmGate_of_rmTakes hrm, Bool.not_eq_true'] <;> rfl

theorem exec_qpDestroy_of_takes (hmay : HostMay s (pgNet p.val)) (hrm : RmTakes s 1) : exec (.qpDestroy p) s = match stagedQp s p.val with
    | none => .next (qpResult s p.val 3)
    | some (q, _) => .next (qpResult (removeQp s q) p.val 0) := by
  refine (hostWr_of_hostMay hmay _).trans ?_
  simp only [rmGate_of_rmTakes hrm] <;> rfl

theorem exec_qpRead_of_takes (hmay : HostMay s (pgNet p.val)) (hrm : RmTakes s 1) : exec (.qpRead p) s = match stagedQp s p.val with
    | none => .next (qpResult (wrf (wrf s (pgNet p.val + 0x244) 4 2 0) (pgNet p.val + 0x244) 6 1 0) p.val 3)
    | some (q, x) => .next (qpResult (wrf (wrf s (pgNet p.val + 0x244) 4 2 (if x.err then 2 else 1)) (pgNet p.val + 0x244) 6 1
        (if (s.port p.val).cache.contains q then 1 else 0)) p.val 0) := by
  refine (hostWr_of_hostMay hmay _).trans ?_
  simp only [rmGate_of_rmTakes hrm] <;> rfl

theorem removeQp_gone (s : State) (n : Nat) : tget? (removeQp s n).qps n = none := by
  unfold removeQp
  cases h : tget? s.qps n with
  | none => exact h
  | some x => exact (tget_tdel _ _ _).trans (if_pos rfl)

end

/-! ### Regions -/

section
variable {s : State}

theorem exec_regionCommands_held (hmay : HostMay s (pgNet 0)) (hidle : s.regionBusy = none) (hrm : s.stw.rm ≠ .running) :
    exec .regionRegister s = .next (wrf s (pgNet 0 + 0x2A4) 1 3 1) ∧ exec .regionReregisterNew s = .next (wrf s (pgNet 0 + 0x2A4) 1 3 1) ∧
    exec .regionReregisterKeep s = .next (wrf s (pgNet 0 + 0x2A4) 1 3 1) ∧ exec .regionDeregister s = .next (wrf s (pgNet 0 + 0x2A4) 1 3 1) ∧
    exec .regionRead s = .next (wrf s (pgNet 0 + 0x2A4) 1 3 1) := by
  obtain ⟨n, hgate⟩ := rmGate_of_not_running (c := 1) hrm
  have hon : ∀ k, onRegion s k = .next (wrf s (pgNet 0 + 0x2A4) 1 3 1) := fun k => by
    simp only [onRegion, hidle, hgate, Option.isSome_none, Bool.false_eq_true, if_false]
  refine ⟨(hostWr_of_hostMay hmay _).trans ?_, (hostWr_of_hostMay hmay _).trans (hon _), (hostWr_of_hostMay hmay _).trans (hon _),
    (hostWr_of_hostMay hmay _).trans (hon _), (hostWr_of_hostMay hmay _).trans (hon _)⟩
  simp only [hidle, hgate, Option.isSome_none, Bool.false_eq_true, if_false]

theorem exec_regionCommands_busy (hmay : HostMay s (pgNet 0)) (hbusy : s.regionBusy ≠ none) :
    exec .regionRegister s = .next s ∧ exec .regionReregisterNew s = .next s ∧ exec .regionReregisterKeep s = .next s ∧
    exec .regionDeregister s = .next s ∧ exec .regionRead s = .next s := by
  have hsome : s.regionBusy.isSome = true := Option.isSome_iff_ne_none.mpr hbusy
  exact ⟨(hostWr_of_hostMay hmay _).trans (if_pos hsome), (hostWr_of_hostMay hmay _).trans (if_pos hsome), (hostWr_of_hostMay hmay _).trans (if_pos hsome),
    (hostWr_of_hostMay hmay _).trans (if_pos hsome), (hostWr_of_hostMay hmay _).trans (if_pos hsome)⟩

/-- The staged block allows a registration (R343, R344). -/
def regionOk (s : State) : Bool :=
  let b := stagedRegion s
  decide (le b 0 4 < 65536) && decide (le b 4 1 < 32) && decide (le b 5 1 < 8) && !(bit (le b 5 1) 2 && bit (le b 5 1) 1) && decide (le b 6 2 = 0) &&
    decide (le b 0x18 8 = 0) && partOpen s (le b 4 1) && spanOk s (le b 4 1) (le b 5 1) (le b 8 8) (le b 0x10 8)

/-- The region that the staged block asks for. -/
def newRegion (s : State) : Region :=
  let b := stagedRegion s
  { part := le b 4 1, acc := le b 5 1, base := le b 8 8, len := le b 0x10 8, gen := tget 0 s.regionGen (le b 0 4) }

theorem exec_regionRegister_of_takes (hmay : HostMay s (pgNet 0)) (hidle : s.regionBusy = none) (hrm : RmTakes s 1) : exec .regionRegister s =
    if regionOk s = false then .next (regionResult s (stagedIndex s % 65536) 2)
    else if (tget? s.regions (stagedIndex s)).isSome = true then .next (regionResult s (stagedIndex s) 3)
    else .next (regionResult { s with regions := tput s.regions (stagedIndex s) (newRegion s),
                                      regionGen := tset 0 s.regionGen (stagedIndex s) ((tget 0 s.regionGen (stagedIndex s) + 1) % 256) } (stagedIndex s) 0) := by
  refine (hostWr_of_hostMay hmay _).trans ?_
  unfold regionOk newRegion stagedIndex
  simp only [hidle, rmGate_of_rmTakes hrm, Option.isSome_none, Bool.false_eq_true, if_false, Bool.not_eq_true'] <;> rfl

section
variable {k : State → Nat → Region → State} (hidle : s.regionBusy = none) (hrm : RmTakes s 1)
include hidle hrm

theorem onRegion_beyond (hi : 65536 ≤ stagedIndex s) : onRegion s k = .next (regionResult s (stagedIndex s % 65536) 2) := by
  simp only [onRegion, hidle, rmGate_of_rmTakes hrm, Option.isSome_none, Bool.false_eq_true, if_false, ge_iff_le, if_pos hi]

theorem onRegion_absent (hi : stagedIndex s < 65536) (hno : tget? s.regions (stagedIndex s) = none) : onRegion s k = .next (regionResult s (stagedIndex s) 3) := by
  simp only [onRegion, hidle, rmGate_of_rmTakes hrm, Option.isSome_none, Bool.false_eq_true, if_false, ge_iff_le, if_neg (Nat.not_le.mpr hi), hno]

theorem onRegion_of_region {g : Region} (hi : stagedIndex s < 65536) (hg : tget? s.regions (stagedIndex s) = some g) :
    onRegion s k = .next (k s (stagedIndex s) g) := by
  simp only [onRegion, hidle, rmGate_of_rmTakes hrm, Option.isSome_none, Bool.false_eq_true, if_false, ge_iff_le, if_neg (Nat.not_le.mpr hi), hg]

end

theorem leNat_lt (l : List Byte) : leNat l < 256 ^ l.length := by
  induction l with
  | nil => exact Nat.one_pos
  | cons b l ih =>
    have hb := b.isLt
    rw [leNat, List.length_cons, Nat.pow_succ]
    omega

theorem leNat_lt_word {l : List Byte} (h : l.length ≤ 4) : leNat l < 4294967296 := by
  have hlt : leNat l < 256 ^ l.length := leNat_lt l
  have hpow : 256 ^ l.length ≤ 256 ^ 4 := Nat.pow_le_pow_right (by decide) h
  omega

theorem mod_word {n : Nat} (h : n < 4294967296) : n % 2 ^ 32 = n := Nat.mod_eq_of_lt (Nat.lt_of_lt_of_eq h (by decide))

theorem le_mod_word (l : List Byte) (o : Nat) : le l o 4 % 2 ^ 32 = le l o 4 := by
  have hlen : (bslice l o 4).length ≤ 4 := by simp only [bslice, List.length_take, Nat.min_le_left]
  exact mod_word (leNat_lt_word hlen)

/-- The bytes that a read of a region shows, in the staging registers. -/
def regionBytes (i : Nat) (g : Region) : List Byte :=
  leBytes 4 i ++ leBytes 1 g.part ++ leBytes 1 g.acc ++ leBytes 2 0 ++ leBytes 8 g.base ++ leBytes 8 g.len ++ leBytes 8 0

def stageBytes (s : State) (b : List Byte) : State := (List.range 8).foldl (fun s j => wr s (pgNet 0 + 0x280 + 4 * j) (le b (4 * j) 4)) s

theorem rd_stageBytes (s : State) (b : List Byte) {j : Nat} (hj : j < 8) : rd (stageBytes s b) (pgNet 0 + 0x280 + 4 * j) = le b (4 * j) 4 := by
  have hrange : List.range 8 = [0, 1, 2, 3, 4, 5, 6, 7] := rfl
  have hword : ∀ o : Nat, le b o 4 % 2 ^ 32 = le b o 4 := le_mod_word b
  simp only [stageBytes, hrange, List.foldl_cons, List.foldl_nil, rd_wr, Nat.add_left_cancel_iff, hword]
  rcases (by omega : j = 0 ∨ j = 1 ∨ j = 2 ∨ j = 3 ∨ j = 4 ∨ j = 5 ∨ j = 6 ∨ j = 7) with rfl | rfl | rfl | rfl | rfl | rfl | rfl | rfl <;> simp

theorem regionResult_regions (s : State) (i r : Nat) : (regionResult s i r).regions = s.regions := by
  have hwr : ∀ (t : State) (a v : Nat), (wr t a v).regions = t.regions := fun _ _ _ => rfl
  unfold regionResult
  dsimp only
  split <;> simp only [wrf, hwr] <;> rfl

/-- A region after a re-registration: its new range, under its next generation. -/
def reregistered (g : Region) (base len : Nat) : Region := { g with base := base, len := len, gen := (g.gen + 1) % 256 }

theorem reregister_gets (s : State) (i : Nat) (g : Region) (base len : Nat) : ∃ t : State, reregister s i g base len = regionWait t i g ∧
    tget? t.regions i = some { g with base := base, len := len, gen := (g.gen + 1) % 256 } := by
  have hwait : reregister s i g base len = regionWait (regionResult { s with
      regions := tput s.regions i (reregistered g base len),
      regionGen := tset 0 s.regionGen i (((reregistered g base len).gen + 1) % 256) } i 0) i g := by
    unfold reregister reregistered
    exact Eq.refl _
  refine ⟨_, hwait, ?_⟩
  rw [regionResult_regions, tget_tput, if_pos rfl]
  exact congrArg some (Eq.refl (reregistered g base len))

theorem exec_regionCommandDrain_none (h : s.regionBusy = none) : exec .regionCommandDrain s = .next s := by
  simp only [exec, execRegionCommandDrain, h]

theorem exec_regionCommandDrain_of_wait {w : RegionWait} (h : s.regionBusy = some w) : exec .regionCommandDrain s =
    if regionInUse s w.index w.old.gen = true then .next s else .next (wrf { s with regionBusy := none } (pgNet 0 + 0x2A4) 0 1 0) := by
  simp only [exec, execRegionCommandDrain, h]

theorem regionInUse_of_write {i gen : Nat} (h : s.cxl.wq.contains (.placed i gen) = true) : regionInUse s i gen = true := by
  unfold regionInUse
  rw [h]
  exact Bool.or_true _

theorem bits_regionKey {i : Nat} {g : Region} (hi : i < 65536) (hgen : g.gen < 256) : bits (regionKey i g) 8 16 = i := by
  unfold bits regionKey
  omega

/-- A region's own key passes for its partition, its access and its range. -/
theorem keyCheck_regionKey {x : Qp} {g : Region} {i va len : Nat} {write : Bool} (hi : i < 65536) (hg : tget? s.regions i = some g) (hgen : g.gen < 256) :
    keyCheck s x (regionKey i g) va len write = some (i, g) ↔
      g.part = x.part ∧ bit g.acc (if write then 1 else 0) = true ∧ va + len ≤ (if bit g.acc 2 = true then 2 ^ 62 else g.len) := by
  simp only [keyCheck, bits_regionKey hi hgen, hg, decide_true, Bool.true_and, regShelf]
  simp only [Option.ite_none_right_eq_some, and_true, Bool.and_eq_true, decide_eq_true_iff, and_assoc]
  exact and_congr_right fun _ => and_congr_right fun _ => decide_eq_true_iff

end

/-- Settles O44: the commands of queue pairs and of registered regions, and the key check. -/
theorem queuePairsAndRegions : Obligations.QueuePairsAndRegions := by
  refine ⟨fun p s hmay => ⟨exec_qpCommands_held hmay, fun hrm => ⟨fun hbad => ?_, fun hok hthere => ?_, fun hok hfree hnone => ?_, fun hok hfree hspill => ?_,
      fun hno => ⟨?_, ?_⟩, fun n x hx => ⟨?_, removeQp_gone s n, ?_⟩⟩⟩,
    fun s => exec_regionCommands_held, fun s => exec_regionCommands_busy,
    fun s hmay hidle hrm => ⟨fun ok hok => ⟨fun hbad => ?_, fun hgood hthere => ?_, fun hgood hfree => ?_⟩, fun hi => ⟨?_, ?_⟩, fun hi hno => ⟨?_, ?_, ?_, ?_⟩,
      fun g hi hg => ⟨?_, fun hopen => ?_, fun hclosed => ⟨?_, ?_⟩, fun hopen hspan => ?_, fun hopen hspan => ?_,
        stageBytes s (regionBytes (stagedIndex s) g), ?_, ?_, ?_, fun j => rd_stageBytes s _⟩⟩,
    reregister_gets, fun s => ⟨exec_regionCommandDrain_none, fun w hw => ⟨fun huse => ?_, fun hover => ?_⟩⟩, fun s i gen => regionInUse_of_write,
    fun s x g i va len write => keyCheck_regionKey⟩
  · exact (exec_qpCreate_of_takes hmay hrm).trans (if_pos hbad)
  · rw [exec_qpCreate_of_takes hmay hrm, hok, if_neg (by decide), if_pos (Option.isSome_iff_ne_none.mpr hthere)]
  · rw [exec_qpCreate_of_takes hmay hrm, hok, if_neg (by decide), hfree, if_neg (by decide), if_pos hnone]
  · rw [exec_qpCreate_of_takes hmay hrm, hok, if_neg (by decide), hfree, if_neg (by decide), hspill, if_neg (by decide)]
    rfl
  · rw [exec_qpDestroy_of_takes hmay hrm, hno]
  · rw [exec_qpRead_of_takes hmay hrm, hno]
  · rw [exec_qpDestroy_of_takes hmay hrm, hx]
  · rw [exec_qpRead_of_takes hmay hrm, hx]
  · exact (exec_regionRegister_of_takes hmay hidle hrm).trans (if_pos (hok.symm.trans hbad))
  · have hgood' : regionOk s = true := hok.symm.trans hgood
    rw [exec_regionRegister_of_takes hmay hidle hrm, hgood', if_neg (by decide)]
    exact if_pos (Option.isSome_iff_ne_none.mpr hthere)
  · have hgood' : regionOk s = true := hok.symm.trans hgood
    have hfree' : tget? s.regions (stagedIndex s) = none := hfree
    rw [exec_regionRegister_of_takes hmay hidle hrm, hgood', if_neg (by decide), hfree', if_neg (by decide)]
    rfl
  · exact (hostWr_of_hostMay hmay _).trans (onRegion_beyond hidle hrm hi)
  · exact (hostWr_of_hostMay hmay _).trans (onRegion_beyond hidle hrm hi)
  · exact (hostWr_of_hostMay hmay _).trans (onRegion_absent hidle hrm hi hno)
  · exact (hostWr_of_hostMay hmay _).trans (onRegion_absent hidle hrm hi hno)
  · exact (hostWr_of_hostMay hmay _).trans (onRegion_absent hidle hrm hi hno)
  · exact (hostWr_of_hostMay hmay _).trans (onRegion_absent hidle hrm hi hno)
  · exact (hostWr_of_hostMay hmay _).trans (onRegion_of_region hidle hrm hi hg)
  · refine ((hostWr_of_hostMay hmay _).trans (onRegion_of_region hidle hrm hi hg)).trans (congrArg Host.Outcome.next ?_)
    exact if_pos hopen
  · refine ((hostWr_of_hostMay hmay _).trans (onRegion_of_region hidle hrm hi hg)).trans (congrArg Host.Outcome.next ?_)
    exact if_neg (Bool.eq_false_iff.mp hclosed)
  · refine ((hostWr_of_hostMay hmay _).trans (onRegion_of_region hidle hrm hi hg)).trans (congrArg Host.Outcome.next ?_)
    exact if_neg (by rw [hclosed, Bool.false_and]; exact Bool.false_ne_true)
  · refine ((hostWr_of_hostMay hmay _).trans (onRegion_of_region hidle hrm hi hg)).trans (congrArg Host.Outcome.next ?_)
    exact if_pos (by rw [hopen, hspan]; rfl)
  · refine ((hostWr_of_hostMay hmay _).trans (onRegion_of_region hidle hrm hi hg)).trans (congrArg Host.Outcome.next ?_)
    exact if_neg (by rw [hopen, hspan]; exact Bool.false_ne_true)
  · exact (hostWr_of_hostMay hmay _).trans (onRegion_of_region hidle hrm hi hg)
  · exact Stacks.foldl_same State.regions (by intro _ _; rfl) _ _
  · exact Stacks.foldl_same State.qps (by intro _ _; rfl) _ _
  · rw [exec_regionCommandDrain_of_wait hw, if_pos huse]
  · rw [exec_regionCommandDrain_of_wait hw, if_neg (Bool.eq_false_iff.mp hover)]

end Sys2Proof.Proofs.QpRegions
end

section
/-! PROOF. The CXL link and the accesses to CXL memory (R268, R371, R372, R377, R382-R387). -/
namespace Sys2Proof.Proofs.CxlMemory
open Sys2Proof.Machine Sys2Proof.Safety Sys2Proof.Laws Sys2Proof.Proofs.Ports

/-! ### The link -/

section
variable {speed width : Nat} {f c m : Bool} {s : State}

theorem exec_cxlLinkUp_of_up (h : hostReach s = false ∨ s.cxl.speed ≠ 0) : exec (.cxlLinkUp speed width f c m) s = .next s := by
  simp only [exec, execCxlLinkUp]
  rcases h with h | h
  · simp only [h, Bool.not_false, if_true]
  · simp only [h, ne_eq, not_false_iff, true_or, if_true, ite_self]

/-- The state of the link as row `n` of the training table. -/
def trained (s : State) (n width : Nat) : State :=
  { s with cxl := { s.cxl with speed := n, width := widthCode width, flit256 := decide (n = 2), cacheEn := true } }

/-- The row of the training table that the partner's offer fits; 0 for none. -/
def trainRow (speed width : Nat) (f c m : Bool) : Nat :=
  if widthCode width = 0 ∨ c = false then 0 else if speed ≥ 64 ∧ f = true ∧ m = true then 2 else if speed ≥ 32 then 1 else 0

theorem exec_cxlLinkUp_of_down (hreach : hostReach s = true) (hdown : s.cxl.speed = 0) : exec (.cxlLinkUp speed width f c m) s =
    if trainRow speed width f c m = 0 then .next (raise s pgCxl 3 [])
    else .next (if width = 16 then raise (trained s (trainRow speed width f c m) width) pgCxl 0 []
      else raise (raise (trained s (trainRow speed width f c m) width) pgCxl 0 []) pgCxl 2 []) := by
  have hon : ¬ (s.cxl.speed ≠ 0 ∨ s.dev.state = .off) := by
    rintro (h | h)
    · exact h hdown
    · simp [hostReach, h] at hreach
  exact (if_neg (reached hreach)).trans (if_neg hon)

theorem trainRow_none (h : widthCode width = 0 ∨ c = false ∨ speed < 32) : trainRow speed width f c m = 0 := by
  have hslow : speed < 32 → ¬ (speed ≥ 64 ∧ f = true ∧ m = true) ∧ ¬ speed ≥ 32 := fun hs => ⟨fun h => absurd h.1 (by omega), by omega⟩
  unfold trainRow
  rcases h with h | h | h
  · exact if_pos (.inl h)
  · exact if_pos (.inr h)
  · rw [if_neg (hslow h).1, if_neg (hslow h).2, ite_self]

theorem trainRow_fast (hw : widthCode width ≠ 0) (hc : c = true) (hs : 64 ≤ speed) (hf : f = true) (hm : m = true) : trainRow speed width f c m = 2 := by
  unfold trainRow
  rw [if_neg (by simp [hw, hc]), if_pos ⟨hs, hf, hm⟩]

theorem trainRow_slow (hw : widthCode width ≠ 0) (hc : c = true) (hs : 32 ≤ speed) (hno : speed < 64 ∨ f = false ∨ m = false) :
    trainRow speed width f c m = 1 := by
  have hnot : ¬ (speed ≥ 64 ∧ f = true ∧ m = true) := by
    rintro ⟨h64, hf, hm⟩
    rcases hno with h | h | h
    · omega
    · exact absurd (h.symm.trans hf) (by decide)
    · exact absurd (h.symm.trans hm) (by decide)
  unfold trainRow
  rw [if_neg (by simp [hw, hc]), if_neg hnot, if_pos hs]

end

theorem exec_ideFail_of_ide {s : State} (h : s.cxl.ideIo = true ∨ s.cxl.ideCm = true) :
    exec .ideFail s = .next (raise { s with cxl := { s.cxl with ideIo := false, ideCm := false, ide := {} } } pgCxl 4 []) :=
  if_pos ((Bool.or_eq_true _ _).mpr h)

theorem exec_ideFail_none {s : State} (hio : s.cxl.ideIo = false) (hcm : s.cxl.ideCm = false) : exec .ideFail s = .next s :=
  if_neg (by simp only [hio, hcm, Bool.or_false, Bool.false_eq_true, not_false_iff])

/-! ### Reads -/

section
variable {a : Nat} {s : State}

theorem exec_cxlMemRead_of_reached (hreach : hostReach s = true) (ha : a < 2 ^ 39) : exec (.cxlMemRead a) s =
    if memOn s = false then .next (emit s (.unsupported a))
    else if ideHold s = true then .next (emit s (.cxlDrop a))
    else if dpaOpen s a = false then .next (emit s (.cxlData (a / 64 * 64) true (List.replicate 64 0)))
    else if (readDev s (a / 64)).1 = true then .next (emit (readDev s (a / 64)).2 (.cxlData (a / 64 * 64) true (List.replicate 64 0)))
    else .next (emit (trackLine (readDev s (a / 64)).2 (a / 64)) (.cxlData (a / 64 * 64) false (mread (readDev s (a / 64)).2.devMem (a / 64 * 64) 64))) := by
  refine (if_neg (reached hreach)).trans ((if_neg (Nat.not_le.mpr ha)).trans ?_)
  simp only [Bool.not_eq_true']
  obtain ⟨bad, s1⟩ := readDev s (a / 64)
  cases bad <;> rfl

theorem readDev_bad {l : Nat} (h : dpaAnswers s (l * 64) = false ∨ tget? s.devBad l ≠ none) : readDev s l = (true, s) := by
  refine if_pos ?_
  rw [Bool.or_eq_true, Bool.not_eq_true', Option.isSome_iff_ne_none]
  exact h

theorem readDev_unused {l k : Nat} (hopen : dpaAnswers s (l * 64) = true) (hgood : tget? s.devBad l = none) (hk : dpaStack s (l * 64) = some k)
    (hno : ∀ e ∈ (s.hbmc k).uses, e.2 ≠ .dev l) : readDev s l = (false, s) := by
  have hfind : (s.hbmc k).uses.find? (fun e => decide (e.2 = .dev l)) = none := List.find?_eq_none.mpr
    fun e he => by simp only [decide_eq_true_eq, hno e he, not_false_iff]
  unfold readDev
  simp only [hopen, hgood, hk, hfind, Bool.not_true, Option.isSome_none, Bool.or_false, Bool.false_eq_true, if_false, Option.map_none]

end

/-! ### Writes -/

section
variable {a : Nat} {b : List Byte} {s : State}

theorem exec_cxlMemWrite_of_reached (bad : Bool) (hreach : hostReach s = true) (ha : a < 2 ^ 39) (hb : b ≠ []) (hin : a % 64 + b.length ≤ 64) :
    exec (.cxlMemWrite a b bad) s =
    if memOn s = false then .next (emit s (.unsupported a))
    else if ideHold s = true ∨ dpaOpen s a = false then .next (emit s (.cxlDrop a))
    else if bad = false then .next (devPutLine s a b)
    else if b.length = 64 then .next (wroteDev s (a / 64) (some 3))
    else if (readDev s (a / 64)).1 = true then .next (dropNarrow (readDev s (a / 64)).2 a)
    else .next (wroteDev (readDev s (a / 64)).2 (a / 64) (some 3)) := by
  have hone : ¬ (a ≥ 2 ^ 39 ∨ b = [] ∨ a % 64 + b.length > 64) := by
    rintro (h | h | h)
    · exact absurd ha (Nat.not_lt.mpr h)
    · exact hb h
    · exact absurd hin (Nat.not_le.mpr h)
  refine (if_neg (reached hreach)).trans ((if_neg hone).trans ?_)
  simp only [Bool.not_eq_true', Bool.or_eq_true]
  obtain ⟨poisoned, s1⟩ := readDev s (a / 64)
  cases poisoned <;> rfl

theorem devPutLine_line (hb : b.length = 64) : (devPutLine s a b).devMem = mwrite s.devMem a b ∧ tget? (devPutLine s a b).devBad (a / 64) = none := by
  have hline : devPutLine s a b = { wroteDev s (a / 64) none with devMem := mwrite s.devMem a b } := if_pos hb
  rw [hline]
  exact ⟨rfl, (tget_tdel s.devBad (a / 64) (a / 64)).trans (if_pos rfl)⟩

theorem devPutLine_narrow (hb : b.length ≠ 64) : devPutLine s a b =
    if (readDev s (a / 64)).1 = true then dropNarrow (readDev s (a / 64)).2 a
    else { (readDev s (a / 64)).2 with devMem := mwrite (readDev s (a / 64)).2.devMem a b } := by
  refine (if_neg hb).trans ?_
  obtain ⟨bad, s1⟩ := readDev s (a / 64)
  cases bad <;> rfl

theorem wroteDev_poisons (l c : Nat) : tget? (wroteDev s l (some c)).devBad l = some c := (tget_tput s.devBad l l c).trans (if_pos rfl)

theorem dropNarrow_counts {k : Nat} (hk : dpaStack s a = some k) :
    dropNarrow s a = raise (s.setHbm k { s.hbmc k with dropped := sat 32 ((s.hbmc k).dropped + 1) }) (pgHbm k) 7 [] := by
  simp only [dropNarrow, hk]

end

/-! ### Back-invalidates and snoops -/

section
variable {line : Nat} {s : State}

theorem exec_hostSnoop_none (hreach : hostReach s = true) (hno : tget? s.cxl.cache line = none) :
    exec (.hostSnoop line) s = .next (emit s (.snoopAns line false false)) := by
  refine (if_neg (reached hreach)).trans ?_
  rw [hno]

theorem exec_hostSnoop_clean (hreach : hostReach s = true) (hclean : tget? s.cxl.cache line = some false) :
    exec (.hostSnoop line) s = .next (emit { s with cxl := { s.cxl with cache := tdel s.cxl.cache line } } (.snoopAns line true false)) := by
  refine (if_neg (reached hreach)).trans ?_
  rw [hclean]
  exact if_neg (by decide)

theorem exec_hostSnoop_dirty (hreach : hostReach s = true) (hdirty : tget? s.cxl.cache line = some true) : ∃ b : List Byte, b.length = 64 ∧
    exec (.hostSnoop line) s = .next (emit (hostPut { s with cxl := { s.cxl with cache := tdel s.cxl.cache line }, free := s.free + 1 } (line * 64) b)
      (.snoopAns line true true)) := by
  refine ⟨_, leBytes_length 64 (Config.freeNat s.free), (if_neg (reached hreach)).trans ?_⟩
  rw [hdirty]
  exact if_pos rfl

end

/-- Settles O45: link training, reads, writes, snoops and answered back-invalidates of CXL memory. -/
theorem cxlMemoryAccesses : Obligations.CxlMemoryAccesses := by
  refine ⟨fun _ _ _ _ _ _ => exec_cxlLinkUp_of_up, fun speed width f c m s hreach hdown => ⟨fun hno => ?_, fun hw hc hs hf hm => ?_, fun hw hc hs hno => ?_,
      fun hw hc hs hf hm => ?_⟩, fun _ => rfl, fun _ => exec_ideFail_of_ide, fun _ => exec_ideFail_none, fun a b bad line s hreach => ?_,
    fun a s hreach ha => ⟨fun hoff => ?_, fun hon hhold => ?_, fun hon hopen hno => ?_, fun s1 hon hfree hopen hread => ?_, fun s1 hon hfree hopen hread => ?_⟩,
    fun s l => ⟨readDev_bad, fun k => readDev_unused⟩,
    fun a b bad s hreach ha hb hin => ⟨fun hoff => ?_, fun hon hno => ?_, fun hon hfree hopen => ⟨?_, fun hl => ?_, fun s1 hl hread => ?_, fun s1 hl hread => ?_⟩⟩,
    fun s a b => ⟨devPutLine_line, fun s1 hl hread => ?_, fun s1 hl hread => ?_, wroteDev_poisons _, fun k => dropNarrow_counts⟩,
    fun line s hreach => ⟨fun hno => ?_, fun hyes => ?_, exec_hostSnoop_none hreach, exec_hostSnoop_clean hreach, exec_hostSnoop_dirty hreach⟩⟩
  · rw [exec_cxlLinkUp_of_down hreach hdown, if_pos (trainRow_none hno)]
  · rw [exec_cxlLinkUp_of_down hreach hdown, trainRow_fast (by subst hw; decide) hc hs hf hm, if_neg (by decide), if_pos hw]
    rfl
  · rw [exec_cxlLinkUp_of_down hreach hdown, trainRow_slow (by subst hw; decide) hc hs hno, if_neg (by decide), if_pos hw]
    rfl
  · have hcode : widthCode width ≠ 0 := by rcases hw with rfl | rfl <;> decide
    rw [exec_cxlLinkUp_of_down hreach hdown, trainRow_fast hcode hc hs hf hm, if_neg (by decide), if_neg (by omega)]
    rfl
  · have hun : (!hostReach s) = true := by rw [hreach]; rfl
    exact ⟨if_pos hun, if_pos hun, if_pos hun, if_pos hun⟩
  · rw [exec_cxlMemRead_of_reached hreach ha, if_pos hoff]
  · rw [exec_cxlMemRead_of_reached hreach ha, hon, if_neg (by decide), if_pos hhold]
  · rw [exec_cxlMemRead_of_reached hreach ha, hon, if_neg (by decide), hopen, if_neg (by decide), if_pos hno]
  · rw [exec_cxlMemRead_of_reached hreach ha, hon, if_neg (by decide), hfree, if_neg (by decide), hopen, if_neg (by decide), hread, if_pos rfl]
  · rw [exec_cxlMemRead_of_reached hreach ha, hon, if_neg (by decide), hfree, if_neg (by decide), hopen, if_neg (by decide), hread, if_neg Bool.false_ne_true]
  · rw [exec_cxlMemWrite_of_reached bad hreach ha hb hin, if_pos hoff]
  · rw [exec_cxlMemWrite_of_reached bad hreach ha hb hin, hon, if_neg (by decide), if_pos hno]
  · rw [exec_cxlMemWrite_of_reached false hreach ha hb hin, hon, if_neg (by decide), hfree, hopen, if_neg (by decide), if_pos rfl]
  · rw [exec_cxlMemWrite_of_reached true hreach ha hb hin, hon, if_neg (by decide), hfree, hopen, if_neg (by decide),
      if_neg (by decide), if_pos hl]
  · rw [exec_cxlMemWrite_of_reached true hreach ha hb hin, hon, if_neg (by decide), hfree, hopen, if_neg (by decide), if_neg (by decide),
      if_neg (by omega), hread,
      if_pos rfl]
  · rw [exec_cxlMemWrite_of_reached true hreach ha hb hin, hon, if_neg (by decide), hfree, hopen, if_neg (by decide), if_neg (by decide),
      if_neg (by omega), hread,
      if_neg Bool.false_ne_true]
  · rw [devPutLine_narrow hl, hread, if_pos rfl]
  · rw [devPutLine_narrow hl, hread, if_neg Bool.false_ne_true]
  · refine (if_neg (reached hreach)).trans (if_pos ?_)
    rw [hno]
    rfl
  · refine (if_neg (reached hreach)).trans (if_neg ?_)
    rw [hyes]
    decide

end Sys2Proof.Proofs.CxlMemory
end

section
/-! PROOF. Dynamic capacity: extents are added, released, zeroed and read (R379-R381). -/
namespace Sys2Proof.Proofs.Extents
open Sys2Proof.Machine Sys2Proof.Safety Sys2Proof.Laws Sys2Proof.Proofs.Firmware Sys2Proof.Proofs.QpRegions

section
variable {s : State}

theorem exec_dcCommands_held (hmay : HostMay s pgCxl) (hrm : s.stw.rm ≠ .running) :
    exec .dcAdd s = .next (dcResult s 1) ∧ exec .dcRelease s = .next (dcResult s 1) ∧ exec .dcRead s = .next (dcResult s 1) := by
  obtain ⟨n, hgate⟩ := rmGate_of_not_running (c := 1) hrm
  refine ⟨(hostWr_of_hostMay hmay _).trans ?_, (hostWr_of_hostMay hmay _).trans ?_, (hostWr_of_hostMay hmay _).trans ?_⟩ <;> simp only [hgate]

/-- An extent that is added. -/
def added (s : State) (e p off : Nat) (st : ExtState) : Extent :=
  { state := st, part := p, poff := off, order := s.cxl.dcHandle, pcs := extPcs s p (e / 64) }

section
variable {e p off : Nat} {offer : Bool} (hmay : HostMay s pgCxl) (hrm : RmTakes s 1) (hstaged : stagedExt s = (e, p, off, offer))
include hmay hrm hstaged

theorem exec_dcAdd_of_takes : exec .dcAdd s =
    if (tget {} s.cxl.ext e).state ≠ .free then .next (dcResult s 3)
    else if (extentAt s p (off * 2 ^ 30)).isSome = true ∨ (offer = true ∧ (s.part p).sealed = true) ∨ partOpen s p = false then .next (dcResult s 2)
    else if extFits s p (extPcs s p (e / 64)) = false then .next (dcResult s 4)
    else if offer = true ∧ memOn s = false then .next (dcResult s 5)
    else if offer = true then .next (dcResult (postDc (setExt (zeroExt s e) e (added s e p off .offered)) false e) 0)
    else .next (dcResult (setExt s e (added s e p off .alloc)) 0) := by
  refine (hostWr_of_hostMay hmay _).trans ?_
  simp only [rmGate_of_rmTakes hrm, hstaged, Bool.not_eq_true', Bool.and_eq_true]
  cases offer <;> rfl

theorem exec_dcRelease_of_takes : exec .dcRelease s = match (tget {} s.cxl.ext e).state with
    | .free => .next (dcResult s 2)
    | .releasing | .zeroing => .next (dcResult s 0)
    | _ => if extInUse s (tget {} s.cxl.ext e).part (tget {} s.cxl.ext e).poff = true then .next (dcResult s 3) else .next (dcResult (releaseExt s e) 0) := by
  refine (hostWr_of_hostMay hmay _).trans ?_
  simp only [rmGate_of_rmTakes hrm, hstaged] <;> rfl

theorem exec_dcRelease_used (hst : (tget {} s.cxl.ext e).state = .alloc ∨ (tget {} s.cxl.ext e).state = .offered ∨ (tget {} s.cxl.ext e).state = .accepted)
    (huse : extInUse s (tget {} s.cxl.ext e).part (tget {} s.cxl.ext e).poff = true) : exec .dcRelease s = .next (dcResult s 3) := by
  rw [exec_dcRelease_of_takes hmay hrm hstaged, huse]
  rcases hst with h | h | h <;> rw [h] <;> rfl

theorem exec_dcRelease_held (hst : (tget {} s.cxl.ext e).state = .alloc ∨ (tget {} s.cxl.ext e).state = .offered)
    (huse : extInUse s (tget {} s.cxl.ext e).part (tget {} s.cxl.ext e).poff = false) :
    exec .dcRelease s = .next (dcResult (setExt s e { tget {} s.cxl.ext e with state := .releasing }) 0) := by
  have hrel : releaseExt s e = setExt s e { tget {} s.cxl.ext e with state := .releasing } := by
    unfold releaseExt
    rcases hst with h | h <;> simp only [h]
  rw [exec_dcRelease_of_takes hmay hrm hstaged, huse, hrel]
  rcases hst with h | h <;> rw [h] <;> rfl

theorem exec_dcRelease_accepted (hst : (tget {} s.cxl.ext e).state = .accepted) (hreq : (tget {} s.cxl.ext e).relReq = false)
    (huse : extInUse s (tget {} s.cxl.ext e).part (tget {} s.cxl.ext e).poff = false) :
    exec .dcRelease s = .next (dcResult (postDc (setExt s e { tget {} s.cxl.ext e with relReq := true }) true e) 0) := by
  have hrel : releaseExt s e = postDc (setExt s e { tget {} s.cxl.ext e with relReq := true }) true e := by
    simp only [releaseExt, hst, hreq, Bool.false_eq_true, if_false]
  rw [exec_dcRelease_of_takes hmay hrm hstaged, huse, hrel, hst]
  rfl

theorem exec_dcRead_of_takes : exec .dcRead s = .next (dcResult (wrf (wrf (wrf (wrf s (pgCxl + 0x118) 4 3 (extCode (tget {} s.cxl.ext e).state))
    (pgCxl + 0x118) 7 5 (tget {} s.cxl.ext e).part) (pgCxl + 0x118) 12 9 (tget {} s.cxl.ext e).poff)
    (pgCxl + 0x118) 21 1 (if (tget {} s.cxl.ext e).relReq then 1 else 0)) 0) := by
  refine (hostWr_of_hostMay hmay _).trans ?_
  simp only [rmGate_of_rmTakes hrm, hstaged]

end

/-! ### The end of a release -/

variable {e : Fin 512}

theorem exec_extentUnused_other (h : (tget {} s.cxl.ext e.val).state ≠ .releasing) : exec (.extentUnused e) s = .next s :=
  if_neg fun hc => h hc.1

theorem exec_extentUnused_free (h : (tget {} s.cxl.ext e.val).state = .releasing)
    (hfree : ∀ k ∈ s.reqs, k.2.part = (tget {} s.cxl.ext e.val).part → ∀ a ∈ reqRanges s k.2, refOverlaps a.1 a.2 (tget {} s.cxl.ext e.val).poff = false) :
    exec (.extentUnused e) s = .next (setExt s e.val { tget {} s.cxl.ext e.val with state := .zeroing }) := by
  refine if_pos ⟨h, List.all_eq_true.mpr fun k hk => ?_⟩
  rw [Bool.or_eq_true, decide_eq_true_iff, List.all_eq_true]
  by_cases hpart : k.2.part = (tget {} s.cxl.ext e.val).part
  · refine .inr fun a ha => ?_
    rw [hfree k hk hpart a ha]
    rfl
  · exact .inl hpart

theorem exec_extentUnused_used
    (huse : ∃ k ∈ s.reqs, k.2.part = (tget {} s.cxl.ext e.val).part ∧ ∃ a ∈ reqRanges s k.2, refOverlaps a.1 a.2 (tget {} s.cxl.ext e.val).poff = true) :
    exec (.extentUnused e) s = .next s := by
  obtain ⟨k, hk, hpart, a, ha, hover⟩ := huse
  refine if_neg fun hc => ?_
  have hnone := List.all_eq_true.mp hc.2 k hk
  rw [Bool.or_eq_true, decide_eq_true_iff, List.all_eq_true] at hnone
  rcases hnone with h | h
  · exact h hpart
  · have hfree := h a ha
    rw [hover] at hfree
    exact absurd hfree (by decide)

end

/-- Settles O46: extents are added, released, read, zeroed and free again. -/
theorem extentsGoTheirWay : Obligations.ExtentsGoTheirWay := by
  refine ⟨fun s => exec_dcCommands_held, fun e p off offer s hmay hrm hstaged => ⟨fun hst => ?_, fun hst hclash => ?_, fun hst hclear hfull => ?_,
      fun hst hclear hfits hoffer hmem => ?_, fun hst hclear hfits hoffer => ?_, fun hst hclear hfits hoffer hmem => ?_, fun hst => ?_, fun hst => ?_,
      exec_dcRelease_used hmay hrm hstaged, exec_dcRelease_held hmay hrm hstaged, exec_dcRelease_accepted hmay hrm hstaged, exec_dcRead_of_takes hmay hrm hstaged⟩,
    fun e s => ⟨fun hst => if_pos hst, fun hst => if_neg hst, exec_extentUnused_other, exec_extentUnused_free, fun _ => exec_extentUnused_used⟩⟩
  · rw [exec_dcAdd_of_takes hmay hrm hstaged, if_pos hst]
  · rw [exec_dcAdd_of_takes hmay hrm hstaged, if_neg (not_not_intro hst), if_pos hclash]
  · rw [exec_dcAdd_of_takes hmay hrm hstaged, if_neg (not_not_intro hst), if_neg hclear, if_pos hfull]
  · rw [exec_dcAdd_of_takes hmay hrm hstaged, if_neg (not_not_intro hst), if_neg hclear, if_neg (Bool.not_eq_false _ |>.mpr hfits), if_pos ⟨hoffer, hmem⟩]
  · rw [exec_dcAdd_of_takes hmay hrm hstaged, if_neg (not_not_intro hst), if_neg hclear, if_neg (Bool.not_eq_false _ |>.mpr hfits),
      if_neg fun h => Bool.false_ne_true (hoffer.symm.trans h.1), if_neg fun h => Bool.false_ne_true (hoffer.symm.trans h)]
    rfl
  · rw [exec_dcAdd_of_takes hmay hrm hstaged, if_neg (not_not_intro hst), if_neg hclear, if_neg (Bool.not_eq_false _ |>.mpr hfits),
      if_neg fun h => Bool.false_ne_true (h.2.symm.trans hmem), if_pos hoffer]
    rfl
  · rw [exec_dcRelease_of_takes hmay hrm hstaged, hst]
  · rw [exec_dcRelease_of_takes hmay hrm hstaged]
    rcases hst with h | h <;> rw [h]

end Sys2Proof.Proofs.Extents
end

section
/-! PROOF. Commands of the memory device mailbox (R369, R370, R381, R386, R387, R535). -/
namespace Sys2Proof.Proofs.Mailbox
open Sys2Proof.Machine Sys2Proof.Safety Sys2Proof.Laws Sys2Proof.Proofs.Firmware Sys2Proof.Proofs.QpRegions Sys2Proof.Proofs.Ports

section
variable {s : State} {code : Nat} {r : Res} {dc : Bool} {k : State → State}

/-! ### What the mailbox does before a command -/

theorem mailboxIo_unreached (h : hostReach s = false) : mailboxIo code s r = .next s := if_pos (by rw [h]; rfl)

theorem mailboxIo_held (hreach : hostReach s = true) (hhold : ideHold s = true) : mailboxIo code s r = .next (emit s (.unsupported code)) :=
  (if_neg (reached hreach)).trans (if_pos hhold)

theorem mailboxIo_open (hreach : hostReach s = true) (hopen : ideHold s = false) : mailboxIo code s r = r :=
  (if_neg (reached hreach)).trans (if_neg (ne_true_of_eq_false hopen))

theorem mailbox_absent (hreach : hostReach s = true) (hopen : ideHold s = false) (hdc : s.chip.dcCap = false) :
    mailbox code true s k = .next (mbReply s code 3 []) :=
  (mailboxIo_open hreach hopen).trans (if_pos (by rw [hdc]; rfl))

theorem mailbox_offered (hoff : dc = false ∨ s.chip.dcCap = true) : ¬ (dc && !s.chip.dcCap) = true := by
  rcases hoff with h | h <;> simp only [h, Bool.false_and, Bool.not_true, Bool.and_false, Bool.false_eq_true, not_false_iff]

theorem mailbox_busy (hreach : hostReach s = true) (hopen : ideHold s = false) (hoff : dc = false ∨ s.chip.dcCap = true) (hrm : s.stw.rm ≠ .running) :
    mailbox code dc s k = .next (mbReply s code 6 []) := by
  obtain ⟨n, hgate⟩ := rmGate_of_not_running (c := 1) hrm
  refine (mailboxIo_open hreach hopen).trans ((if_neg (mailbox_offered hoff)).trans ?_)
  rw [hgate]
  rfl

theorem mailbox_takes (hreach : hostReach s = true) (hopen : ideHold s = false) (hoff : dc = false ∨ s.chip.dcCap = true) (hrm : RmTakes s 1) :
    mailbox code dc s k = .next (k s) := by
  refine (mailboxIo_open hreach hopen).trans ((if_neg (mailbox_offered hoff)).trans ?_)
  rw [rmGate_of_rmTakes hrm]

/-- A command of the mailbox under its code is some result behind the gate of the mailbox. -/
theorem exec_mailbox_command {c : Instr} (h : (∃ l, c = .addDynamicCapacityResponse l ∧ code = 0x4802) ∨ (∃ l, c = .releaseDynamicCapacity l ∧ code = 0x4803) ∨
      (c = .identifyMemoryDevice ∧ code = 0x4000) ∨ (c = .getDynamicCapacityConfiguration ∧ code = 0x4800) ∨
      (c = .getDynamicCapacityExtentList ∧ code = 0x4801) ∨ (∃ l, c = .getEventRecords l ∧ code = 0x0100) ∨
      (∃ l hs, c = .clearEventRecords l hs ∧ code = 0x0101) ∨ c = .unsupportedMailboxCommand code) : ∃ r : Res, exec c s = mailboxIo code s r := by
  rcases h with ⟨l, rfl, rfl⟩ | ⟨l, rfl, rfl⟩ | ⟨rfl, rfl⟩ | ⟨rfl, rfl⟩ | ⟨rfl, rfl⟩ | ⟨l, rfl, rfl⟩ | ⟨l, hs, rfl, rfl⟩ | rfl
  case inr.inr.inr.inr.inr.inl =>
    by_cases hl : l > 4
    · exact ⟨_, if_pos hl⟩
    · exact ⟨_, if_neg hl⟩
  case inr.inr.inr.inr.inr.inr.inl =>
    by_cases hl : l > 4
    · exact ⟨_, if_pos hl⟩
    · exact ⟨_, if_neg hl⟩
  all_goals exact ⟨_, rfl⟩

end

/-! ### The configuration -/

/-- A DC region in the configuration, with the DSMAD handle `h`: base, length, block size in units of 256 MiB, and the rest of its form. -/
def regionEntry (h : Nat → Nat) (r : Nat) : List Byte :=
  leBytes 8 (r * 2 ^ 36) ++ leBytes 8 256 ++ leBytes 8 (2 ^ 36) ++ leBytes 8 (2 ^ 30) ++ leBytes 4 (h r) ++ leBytes 4 0

def configBytes (h : Nat → Nat) : List Byte := leBytes 8 8 ++ (List.range 8).flatMap (regionEntry h)

theorem regionEntry_length (h : Nat → Nat) (r : Nat) : (regionEntry h r).length = 40 := by
  simp only [regionEntry, List.length_append, leBytes_length]

theorem configBytes_length (h : Nat → Nat) : (configBytes h).length = 328 := by
  simp only [configBytes, List.length_append, leBytes_length, List.length_flatMap, regionEntry_length]
  rfl

theorem leNat_leBytes (n v : Nat) : leNat (leBytes n v) = v % 256 ^ n := by
  induction n generalizing v with
  | zero => rw [leBytes, leNat, Nat.pow_zero, Nat.mod_one]
  | succ n ih =>
    have hbyte : (BitVec.ofNat 8 v).toNat = v % 256 := BitVec.toNat_ofNat v 8
    rw [leBytes, leNat, ih, hbyte, Nat.pow_succ', Nat.mod_mul]

/-- The number written at an offset of a list. -/
theorem le_written {l pre rest : List Byte} {o n v : Nat} (hl : l = pre ++ (leBytes n v ++ rest)) (ho : pre.length = o) : le l o n = v % 256 ^ n := by
  have htake : (leBytes n v ++ rest).take n = leBytes n v := List.take_left' (leBytes_length n v)
  rw [le, bslice, hl, ← ho, List.drop_left, htake, leNat_leBytes]

theorem range_eight_split {r : Nat} (h : r < 8) : List.range 8 = List.range r ++ r :: List.range' (r + 1) (7 - r) := by
  have hall : ∀ r : Nat, r < 8 → List.range 8 = List.range r ++ r :: List.range' (r + 1) (7 - r) := by decide
  exact hall r h

/-- The bytes of a configuration before region `r`. -/
def configBefore (h : Nat → Nat) (r : Nat) : List Byte := leBytes 8 8 ++ (List.range r).flatMap (regionEntry h)

theorem configBefore_length (h : Nat → Nat) (r : Nat) : (configBefore h r).length = 8 + 40 * r := by
  simp only [configBefore, List.length_append, leBytes_length, List.length_flatMap, regionEntry_length, List.map_const', List.length_range, List.sum_replicate_nat,
    Nat.mul_comm]

theorem configBytes_split (h : Nat → Nat) {r : Nat} (hr : r < 8) :
    configBytes h = configBefore h r ++ (regionEntry h r ++ (List.range' (r + 1) (7 - r)).flatMap (regionEntry h)) := by
  rw [configBytes, configBefore, range_eight_split hr, List.flatMap_append, List.flatMap_cons, List.append_assoc]

theorem le_configBytes_count (h : Nat → Nat) : le (configBytes h) 0 8 = 8 :=
  (le_written (pre := []) rfl rfl).trans (Nat.mod_eq_of_lt (by decide))

/-- Base, length and block size of a region in the configuration. -/
theorem le_configBytes_region (h : Nat → Nat) {r : Nat} (hr : r < 8) : le (configBytes h) (8 + 40 * r) 8 = r * 2 ^ 36 ∧
    le (configBytes h) (24 + 40 * r) 8 = 2 ^ 36 ∧ le (configBytes h) (32 + 40 * r) 8 = 2 ^ 30 := by
  have hlen := configBefore_length h r
  have hsplit := configBytes_split h hr
  have hbase : r * 2 ^ 36 < 256 ^ 8 := Nat.lt_of_lt_of_le (Nat.mul_lt_mul_of_pos_right hr (by decide)) (by decide)
  simp only [regionEntry, List.append_assoc] at hsplit
  refine ⟨(le_written hsplit hlen).trans (Nat.mod_eq_of_lt hbase), ?_, ?_⟩
  · have hat : configBytes h = (configBefore h r ++ (leBytes 8 (r * 2 ^ 36) ++ leBytes 8 256)) ++ (leBytes 8 (2 ^ 36) ++ _) :=
      hsplit.trans (by simp only [List.append_assoc]; rfl)
    refine (le_written hat ?_).trans (Nat.mod_eq_of_lt (by decide))
    simp only [List.length_append, leBytes_length, hlen]
    omega
  · have hat : configBytes h = (configBefore h r ++ (leBytes 8 (r * 2 ^ 36) ++ (leBytes 8 256 ++ leBytes 8 (2 ^ 36)))) ++ (leBytes 8 (2 ^ 30) ++ _) :=
      hsplit.trans (by simp only [List.append_assoc]; rfl)
    refine (le_written hat ?_).trans (Nat.mod_eq_of_lt (by decide))
    simp only [List.length_append, leBytes_length, hlen]
    omega

/-! ### The commands -/

section
variable {s : State} (hreach : hostReach s = true) (hopen : ideHold s = false) (hrm : RmTakes s 1)
include hreach hopen

theorem exec_eventRecords_badLog {n : Nat} (hn : 4 < n) : exec (.getEventRecords n) s = .next (mbReply s 0x0100 2 []) ∧
    ∀ hs : List Nat, exec (.clearEventRecords n hs) s = .next (mbReply s 0x0101 2 []) :=
  ⟨(if_pos hn).trans (mailboxIo_open hreach hopen), fun _ => (if_pos hn).trans (mailboxIo_open hreach hopen)⟩

include hrm

theorem exec_identifyMemoryDevice_draws : ∃ b : List Byte, b.length = 69 ∧
    exec .identifyMemoryDevice s = .next (mbReply { s with free := s.free + 1 } 0x4000 0 b) :=
  ⟨_, leBytes_length 69 (Config.freeNat s.free), mailbox_takes hreach hopen (.inl rfl) hrm⟩

theorem exec_getEventRecords_of_log {n : Nat} (hn : n ≤ 4) : exec (.getEventRecords n) s =
    .next (mbReply s 0x0100 0 (leBytes 2 (if n = 4 then s.cxl.dcLog else []).length ++ (if n = 4 then s.cxl.dcLog else []).flatMap (fun e =>
      leBytes 2 e.handle ++ leBytes 1 (if e.release then 1 else 0) ++ extBytes e.ext e.part))) :=
  (if_neg (Nat.not_lt.mpr hn)).trans (mailbox_takes hreach hopen (.inl rfl) hrm)

theorem exec_clearEventRecords_dc (hs : List Nat) : exec (.clearEventRecords 4 hs) s =
    .next (if (hs.all fun h => s.cxl.dcLog.any fun e => decide (e.handle = h)) = true then
      mbReply { s with cxl := { s.cxl with dcLog := s.cxl.dcLog.filter (fun e => !hs.contains e.handle) } } 0x0101 0 []
      else mbReply s 0x0101 0x0E []) :=
  mailbox_takes (dc := false) (k := fun s => if (hs.all fun h => s.cxl.dcLog.any fun e => decide (e.handle = h)) = true then
      mbReply { s with cxl := { s.cxl with dcLog := s.cxl.dcLog.filter (fun e => !hs.contains e.handle) } } 0x0101 0 []
      else mbReply s 0x0101 0x0E []) hreach hopen (.inl rfl) hrm

theorem exec_clearEventRecords_named {hs : List Nat} (hall : ∀ k ∈ hs, ∃ e ∈ s.cxl.dcLog, e.handle = k) : exec (.clearEventRecords 4 hs) s =
    .next (mbReply { s with cxl := { s.cxl with dcLog := s.cxl.dcLog.filter (fun e => !hs.contains e.handle) } } 0x0101 0 []) := by
  rw [exec_clearEventRecords_dc hreach hopen hrm, if_pos]
  simpa only [List.all_eq_true, List.any_eq_true, decide_eq_true_eq] using hall

theorem exec_clearEventRecords_unnamed {hs : List Nat} (hno : ∃ k ∈ hs, ∀ e ∈ s.cxl.dcLog, e.handle ≠ k) :
    exec (.clearEventRecords 4 hs) s = .next (mbReply s 0x0101 0x0E []) := by
  obtain ⟨k, hk, hno⟩ := hno
  rw [exec_clearEventRecords_dc hreach hopen hrm, if_neg]
  simp only [List.all_eq_true, List.any_eq_true, decide_eq_true_eq]
  intro hall
  obtain ⟨e, he, heq⟩ := hall k hk
  exact hno e he heq

variable (hdc : s.chip.dcCap = true)
include hdc

theorem exec_getDynamicCapacityConfiguration_draws : ∃ b : List Byte, b.length = 328 ∧ le b 0 8 = 8 ∧
    (∀ r : Nat, r < 8 → le b (8 + 40 * r) 8 = r * 2 ^ 36 ∧ le b (24 + 40 * r) 8 = 2 ^ 36 ∧ le b (32 + 40 * r) 8 = 2 ^ 30) ∧
    exec .getDynamicCapacityConfiguration s = .next (mbReply { s with free := s.free + 1 } 0x4800 0 b) :=
  ⟨configBytes fun r => bits (Config.freeNat s.free) (32 * r) 32, configBytes_length _, le_configBytes_count _, fun _ hr => le_configBytes_region _ hr,
    mailbox_takes hreach hopen (.inr hdc) hrm⟩

theorem exec_addResponse_bad {a : Nat × Nat} {l : List (Nat × Nat)} (h : extsNamed s .offered (a :: l) = none) :
    exec (.addDynamicCapacityResponse (a :: l)) s = .next (mbReply s 0x4802 0x0F []) := by
  refine (mailbox_takes hreach hopen (.inr hdc) hrm).trans ?_
  simp only [h]
  rfl

theorem exec_addResponse_accepts {a : Nat × Nat} {l : List (Nat × Nat)} {es : List Nat} (h : extsNamed s .offered (a :: l) = some es) :
    exec (.addDynamicCapacityResponse (a :: l)) s =
    .next (mbReply (es.foldl (fun s e => setExt s e { tget {} s.cxl.ext e with state := .accepted }) s) 0x4802 0 []) := by
  refine (mailbox_takes hreach hopen (.inr hdc) hrm).trans ?_
  simp only [h]
  rfl

theorem exec_addResponse_nothing (hno : ∀ e ∈ s.cxl.ext, e.2.state ≠ .offered) :
    exec (.addDynamicCapacityResponse []) s = .next (mbReply s 0x4802 0 []) := by
  have hnone : s.cxl.ext.filter (fun e => decide (e.2.state = .offered)) = [] := List.filter_eq_nil_iff.mpr fun e he => by
    simp only [decide_eq_true_eq, hno e he, not_false_iff]
  refine (mailbox_takes hreach hopen (.inr hdc) hrm).trans ?_
  simp only [hnone]
  rfl

theorem exec_addResponse_declines {e : Nat} {x : Extent} (hone : s.cxl.ext.filter (fun e => decide (e.2.state = .offered)) = [(e, x)]) :
    exec (.addDynamicCapacityResponse []) s = .next (mbReply (setExt s e { x with state := .alloc }) 0x4802 0 []) := by
  refine (mailbox_takes hreach hopen (.inr hdc) hrm).trans ?_
  simp only [hone]
  rfl

theorem exec_release_bad {l : List (Nat × Nat)} (h : extsNamed s .accepted l = none) :
    exec (.releaseDynamicCapacity l) s = .next (mbReply s 0x4803 0x0F []) := by
  refine (mailbox_takes hreach hopen (.inr hdc) hrm).trans ?_
  simp only [h]
  rfl

/-- Extent `e` after the host has given it back. -/
def givenBack (s : State) (e : Nat) : State :=
  setExt s e { tget {} s.cxl.ext e with state := if (tget {} s.cxl.ext e).relReq then .releasing else .alloc, relReq := false }

theorem exec_release_one {a : Nat × Nat} {e : Nat} (h : extsNamed s .accepted [a] = some [e]) : exec (.releaseDynamicCapacity [a]) s =
    .next (mbReply { givenBack s e with cxl := { (givenBack s e).cxl with
      filter := (givenBack s e).cxl.filter.map (fun f => f.filter (fun l => !decide (l / 2 ^ 24 = e))) } } 0x4803 0 []) := by
  have hone : ∀ n : Nat, [e].contains n = decide (n = e) := fun n => by
    rw [List.contains_cons, List.contains_nil, Bool.or_false]
    rfl
  refine (mailbox_takes hreach hopen (.inr hdc) hrm).trans ?_
  simp only [h, hone]
  rfl

end

/-- Settles O47: what the mailbox answers to each command. -/
theorem mailboxCommands : Obligations.MailboxCommands := by
  refine ⟨fun c code s hc => ?_, fun code s => mailboxIo_open, fun l s hreach hopen hdc => ?_, fun s hreach hopen hrm hdc => ?_,
    fun s hreach hopen hrm => ⟨exec_identifyMemoryDevice_draws hreach hopen hrm, fun n => exec_eventRecords_badLog hreach hopen, fun n hn => ?_, ?_,
      fun h => exec_clearEventRecords_named hreach hopen hrm, fun h => exec_clearEventRecords_unnamed hreach hopen hrm,
      fun hdc => ⟨exec_getDynamicCapacityConfiguration_draws hreach hopen hrm hdc, ?_, fun a l => exec_addResponse_bad hreach hopen hrm hdc,
        fun a l es => exec_addResponse_accepts hreach hopen hrm hdc, exec_addResponse_nothing hreach hopen hrm hdc,
        fun e x => exec_addResponse_declines hreach hopen hrm hdc, fun l => exec_release_bad hreach hopen hrm hdc,
        fun a e => exec_release_one hreach hopen hrm hdc⟩⟩⟩
  · obtain ⟨r, hr⟩ := exec_mailbox_command hc
    exact ⟨fun h => hr.trans (mailboxIo_unreached h), fun hreach hhold => hr.trans (mailboxIo_held hreach hhold)⟩
  · exact ⟨mailbox_absent hreach hopen hdc, mailbox_absent hreach hopen hdc, mailbox_absent hreach hopen hdc, mailbox_absent hreach hopen hdc⟩
  · exact ⟨mailbox_busy hreach hopen (.inl rfl) hrm, mailbox_busy hreach hopen (.inr hdc) hrm⟩
  · rw [exec_getEventRecords_of_log hreach hopen hrm (Nat.le_of_lt hn), if_neg (Nat.ne_of_lt hn)]
    rfl
  · exact exec_getEventRecords_of_log hreach hopen hrm (Nat.le_refl 4)
  · exact mailbox_takes hreach hopen (.inr hdc) hrm

end Sys2Proof.Proofs.Mailbox
end

section
/-! PROOF. Commands of the security block and debug tokens (R427, R435, R436, R440-R449). -/
namespace Sys2Proof.Proofs.SecurityBlock
open Sys2Proof.Machine Sys2Proof.Safety Sys2Proof.Laws Sys2Proof.Proofs.Firmware

section
variable {s : State} {p : Fin 32} {b : Bool} {i : Fin 16}

/-! ### A window change under way -/

theorem exec_secCommands_busy (hmay : HostMay s pgSec) (hbusy : secBusy s = true) : exec (.report p b) s = .next s ∧ exec (.readCertificate i) s = .next s ∧
    exec .installFenceKey s = .next s ∧ exec .addTrustKey s = .next s ∧ exec (.removeTrustKey i) s = .next s ∧ exec .ideHandshakeMessage s = .next s ∧
    exec .applyWindow s = .next s :=
  ⟨(hostWr_of_hostMay hmay _).trans (if_pos hbusy), (hostWr_of_hostMay hmay _).trans (if_pos hbusy), (hostWr_of_hostMay hmay _).trans (if_pos hbusy),
    (hostWr_of_hostMay hmay _).trans (if_pos hbusy), (hostWr_of_hostMay hmay _).trans (if_pos hbusy), (hostWr_of_hostMay hmay _).trans (if_pos hbusy),
    (hostWr_of_hostMay hmay _).trans (if_pos hbusy)⟩

theorem mbMsg_of_key (h : mbLen s = 1312) : mbMsg s = mread s.sec.mb 0 1312 := by rw [mbMsg, h]; rfl

/-! ### Handshake messages of the host -/

variable {m : List Byte}

theorem hsOk_type {t stream : Nat} (h : hsOk m t stream = true) : le m 3 1 = t := by
  simp only [hsOk, Bool.and_eq_true, decide_eq_true_eq] at h
  exact h.1.1.1.1.2

theorem respond_ide_badForm (h : hsOk m 1 1 = false) : respond s m 1 = (.error 3, s) := by
  simp only [respond, h, Bool.not_false, if_true]

theorem respond_ide_unknown (h : hsOk m 1 1 = true) (hkey : trustKey s (bslice m 48 32) = none) : respond s m 1 = (.error 1, s) := by
  simp only [respond, h, hkey, Bool.not_true, Bool.false_eq_true, if_false]

theorem respond_ide_known {k : List Byte} (h : hsOk m 1 1 = true) (hkey : trustKey s (bslice m 48 32) = some k) : ∃ r secret : List Byte, respond s m 1 =
    (.ok (r, { phase := .replySent, init := false, hello := m, reply := r, peer := bslice m 48 32, secret := secret }), { s with free := s.free + 2 }) := by
  simp only [respond, h, hkey, Bool.not_true, Bool.false_eq_true, if_false]
  exact ⟨_, _, rfl⟩

section
variable (hmay : HostMay s pgSec) (hidle : secBusy s = false)
include hmay hidle

theorem exec_sec_of_idle {k : Res} : (hostWr s pgSec <| if secBusy s then .next s else k) = k :=
  (hostWr_of_hostMay hmay _).trans (if_neg (ne_true_of_eq_false hidle))

theorem exec_ideHello (h : le (mbMsg s) 3 1 = 1) : exec .ideHandshakeMessage s = match respond s (mbMsg s) 1 with
    | (.error e, s1) => .next (ideAbort s1 (some e) false)
    | (.ok (r, h1), s1) => .next (secResult (mbPut { s1 with cxl := { s1.cxl with ide := h1 } } r) 0) :=
  (exec_sec_of_idle hmay hidle).trans (if_pos h)

theorem exec_ideConfirm (h : le (mbMsg s) 3 1 = 3) (hphase : s.cxl.ide.phase = .replySent) : exec .ideHandshakeMessage s =
    match confirmed s s.cxl.ide (mbMsg s) 1 with
    | .error e => .next (ideAbort s (some e) false)
    | .ok h1 => .next (drainWrites (secResult { s with cxl := { s.cxl with ide := h1, ideIo := true, ideCm := true, keyset := 0 } } 0) (2 * s.cxl.wq.length + 3)) :=
  (exec_sec_of_idle hmay hidle).trans ((if_neg (by omega)).trans (if_pos ⟨h, hphase⟩))

theorem exec_ideRekey (h : hsOk (mbMsg s) 4 1 = true) (hphase : s.cxl.ide.phase = .done) : exec .ideHandshakeMessage s =
    if le (mbMsg s) 16 4 = s.cxl.ide.keyIdx + 1 then .next (secResult (bump
        { s with cxl := { s.cxl with ide := nextKey s.cxl.ide, keyset := (s.cxl.ide.keyIdx + 1) % 4 } } (pgCxl + 0x134) 16 16 1) 0)
    else .next (ideAbort s (some 4) true) := by
  have ht := hsOk_type h
  refine (exec_sec_of_idle hmay hidle).trans ((if_neg (by omega)).trans ((if_neg (by omega)).trans ((if_pos ⟨ht, hphase⟩).trans ?_)))
  unfold rekeyed
  rw [h, if_neg (by decide)]
  by_cases hidx : le (mbMsg s) 16 4 = s.cxl.ide.keyIdx + 1
  · rw [if_pos hidx, if_pos hidx]
    rfl
  · rw [if_neg hidx, if_neg hidx]

theorem exec_ideOther (h1 : le (mbMsg s) 3 1 ≠ 1) (h3 : le (mbMsg s) 3 1 ≠ 3 ∨ s.cxl.ide.phase ≠ .replySent)
    (h4 : le (mbMsg s) 3 1 ≠ 4 ∨ s.cxl.ide.phase ≠ .done) : exec .ideHandshakeMessage s =
    if hsOk (mbMsg s) 5 1 = true then .next (ideAbort s none true) else .next (ideAbort s (some 3) false) :=
  (exec_sec_of_idle hmay hidle).trans ((if_neg h1).trans ((if_neg fun h => h3.elim (· h.1) (· h.2)).trans (if_neg fun h => h4.elim (· h.1) (· h.2))))

/-! ### Trust list and fence key -/

theorem exec_installFenceKey_of_idle : exec .installFenceKey s =
    if s.sec.fenceKey.isSome = true then .next (secResult s 1)
    else if mbLen s ≠ 1312 then .next (secResult s 2)
    else .next (secResult { s with sec := { s.sec with fenceKey := some (mbMsg s) } } 0) := exec_sec_of_idle hmay hidle

theorem exec_addTrustKey_full (h : trustFree s = none) : exec .addTrustKey s = .next (secResult s 3) := by
  refine (exec_sec_of_idle hmay hidle).trans ?_
  rw [h]

theorem exec_addTrustKey_free {n : Nat} (h : trustFree s = some n) : exec .addTrustKey s =
    if mbLen s ≠ 1312 then .next (secResult s 2)
    else .next (raise (secResult { s with sec := { s.sec with trust := tput s.sec.trust n (mbMsg s) } } 0) pgSec 3 []) := by
  refine (exec_sec_of_idle hmay hidle).trans ?_
  rw [h]

theorem exec_removeTrustKey_none (h : tget? s.sec.trust i.val = none) : exec (.removeTrustKey i) s = .next (secResult s 3) := by
  refine (exec_sec_of_idle hmay hidle).trans ?_
  rw [h]

theorem exec_removeTrustKey_some {k : List Byte} (h : tget? s.sec.trust i.val = some k) : exec (.removeTrustKey i) s = .next (raise (secResult
    ((List.range 4).foldl (fun s n => if (s.port n).sealed && decide ((s.port n).hs.peer = sha3 k) then linkDown s n else s)
      { s with sec := { s.sec with trust := tdel s.sec.trust i.val } }) 0) pgSec 3 []) := by
  refine (exec_sec_of_idle hmay hidle).trans ?_
  rw [h]

end

/-- The state with a key of the trust list gone. -/
def untrusted (s : State) (n : Nat) : State := { s with sec := { s.sec with trust := tdel s.sec.trust n } }

/-- No port's session has used a key: removing it takes no link down. -/
theorem foldl_linkDown_unused {t : State} {k : List Byte} (h : ∀ n : Nat, n < 4 → (t.port n).sealed = false ∨ (t.port n).hs.peer ≠ sha3 k) :
    (List.range 4).foldl (fun s n => if (s.port n).sealed && decide ((s.port n).hs.peer = sha3 k) then linkDown s n else s) t = t := by
  refine Parking.foldl_fixed fun n hn => if_neg ?_
  rw [Bool.and_eq_true, decide_eq_true_iff]
  rintro ⟨hsealed, hpeer⟩
  rcases h n (List.mem_range.mp hn) with h | h
  · exact Bool.false_ne_true (h.symm.trans hsealed)
  · exact h hpeer

/-! ### Host windows -/

/-- The staged window: its number, its partition, its base and its length. -/
def stagedWin (s : State) : Nat := rdf s (pgSec + 0x120) 0 4
def stagedPart (s : State) : Nat := rdf s (pgSec + 0x120) 4 5
def stagedBase (s : State) : Nat := rd64 s (pgSec + 0x124) / 4096 * 4096
def stagedLen (s : State) : Nat := rd64 s (pgSec + 0x12C) / 4096 * 4096

/-- The requests of a partition, which a window change waits for. -/
def olderReqs (s : State) (q : Nat) : List Nat := (s.reqs.filter (fun e => decide (e.2.part = q))).map (·.1)

/-- The window that stands, or an empty one. -/
def oldWindow (s : State) : Nat × Nat := (tget? (s.part (stagedPart s)).windows (stagedWin s)).getD (0, 0)

/-- What an applied window leaves of the old one free below and above it. -/
def lowCut (s : State) : Nat × Nat :=
  if stagedLen s = 0 then ((oldWindow s).1, (oldWindow s).1 + (oldWindow s).2)
  else ((oldWindow s).1, min ((oldWindow s).1 + (oldWindow s).2) (stagedBase s))
def highCut (s : State) : Nat × Nat :=
  if stagedLen s = 0 then ((oldWindow s).1 + (oldWindow s).2, (oldWindow s).1 + (oldWindow s).2)
  else (max (oldWindow s).1 (stagedBase s + stagedLen s), (oldWindow s).1 + (oldWindow s).2)

def cutUsed (s : State) (a b : Nat) : Bool := decide (a < b) && hostInUse s (stagedPart s) a b

theorem exec_applyWindow_of_idle (hmay : HostMay s pgSec) (hidle : secBusy s = false) : exec .applyWindow s =
    if (cutUsed s (lowCut s).1 (lowCut s).2 || cutUsed s (highCut s).1 (highCut s).2) = true then .next (secResult s 4)
    else .next (secResult (s.setPart (stagedPart s) { s.part (stagedPart s) with
      windows := if stagedLen s = 0 then tdel (s.part (stagedPart s)).windows (stagedWin s)
        else tput (s.part (stagedPart s)).windows (stagedWin s) (stagedBase s, stagedLen s),
      winWait := if ((decide ((lowCut s).1 < (lowCut s).2) || decide ((highCut s).1 < (highCut s).2)) && !(olderReqs s (stagedPart s)).isEmpty) = true
        then some { win := stagedWin s, older := olderReqs s (stagedPart s) } else none }) 0) := exec_sec_of_idle hmay hidle

theorem oldWindow_of_some {w : Nat × Nat} (h : tget? (s.part (stagedPart s)).windows (stagedWin s) = some w) : oldWindow s = w := by
  rw [oldWindow, h, Option.getD_some]

theorem oldWindow_of_none (h : tget? (s.part (stagedPart s)).windows (stagedWin s) = none) : oldWindow s = (0, 0) := by
  rw [oldWindow, h, Option.getD_none]

theorem cuts_of_grown {ob ol : Nat} (hlen : stagedLen s ≠ 0) (hold : oldWindow s = (ob, ol)) :
    lowCut s = (ob, min (ob + ol) (stagedBase s)) ∧ highCut s = (max ob (stagedBase s + stagedLen s), ob + ol) := by
  rw [lowCut, highCut, if_neg hlen, if_neg hlen, hold]
  exact ⟨rfl, rfl⟩

theorem cuts_of_removed {ob ol : Nat} (hlen : stagedLen s = 0) (hold : oldWindow s = (ob, ol)) : lowCut s = (ob, ob + ol) ∧ highCut s = (ob + ol, ob + ol) := by
  rw [lowCut, highCut, if_pos hlen, if_pos hlen, hold]
  exact ⟨rfl, rfl⟩

theorem cutUsed_empty {a b : Nat} (h : b ≤ a) : cutUsed s a b = false := by
  rw [cutUsed, decide_eq_false (Nat.not_lt.mpr h), Bool.false_and]

theorem cutUsed_range {a b : Nat} (h : a < b) : cutUsed s a b = hostInUse s (stagedPart s) a b := by
  rw [cutUsed, decide_eq_true h, Bool.true_and]

section
variable (hmay : HostMay s pgSec) (hidle : secBusy s = false)
include hmay hidle

/-- A window where none stood removes nothing and waits for nothing. -/
theorem exec_applyWindow_new (hlen : stagedLen s ≠ 0) (hnone : tget? (s.part (stagedPart s)).windows (stagedWin s) = none) : exec .applyWindow s =
    .next (secResult (s.setPart (stagedPart s) { s.part (stagedPart s) with
      windows := tput (s.part (stagedPart s)).windows (stagedWin s) (stagedBase s, stagedLen s), winWait := none }) 0) := by
  obtain ⟨hlow, hhigh⟩ := cuts_of_grown hlen (oldWindow_of_none hnone)
  have hlo : ¬ 0 < min (0 + 0) (stagedBase s) := by omega
  have hhi : ¬ max 0 (stagedBase s + stagedLen s) < 0 + 0 := by omega
  have hfree : ¬ (cutUsed s 0 (min (0 + 0) (stagedBase s)) || cutUsed s (max 0 (stagedBase s + stagedLen s)) (0 + 0)) = true := by
    rw [cutUsed_empty (Nat.not_lt.mp hlo), cutUsed_empty (Nat.not_lt.mp hhi)]
    decide
  rw [exec_applyWindow_of_idle hmay hidle, hlow, hhigh, if_neg hfree, if_neg hlen, decide_eq_false hlo, decide_eq_false hhi,
    Bool.or_false, Bool.false_and, if_neg Bool.false_ne_true]

/-- A window that is taken away. -/
theorem exec_applyWindow_removed {ob ol : Nat} (hlen : stagedLen s = 0) (hold : tget? (s.part (stagedPart s)).windows (stagedWin s) = some (ob, ol))
    (hpos : 0 < ol) : exec .applyWindow s =
    if hostInUse s (stagedPart s) ob (ob + ol) = true then .next (secResult s 4)
    else .next (secResult (s.setPart (stagedPart s) { s.part (stagedPart s) with
      windows := tdel (s.part (stagedPart s)).windows (stagedWin s),
      winWait := if (olderReqs s (stagedPart s)).isEmpty = true then none else some { win := stagedWin s, older := olderReqs s (stagedPart s) } }) 0) := by
  obtain ⟨hlow, hhigh⟩ := cuts_of_removed hlen (oldWindow_of_some hold)
  have hcut : ob < ob + ol := Nat.lt_add_of_pos_right hpos
  rw [exec_applyWindow_of_idle hmay hidle, hlow, hhigh, cutUsed_range hcut, cutUsed_empty (Nat.le_refl _), Bool.or_false, if_pos hlen, decide_eq_true hcut,
    Bool.true_or, Bool.true_and]
  cases (olderReqs s (stagedPart s)).isEmpty <;> rfl

end

/-! ### The end of a window change, and debug tokens -/

theorem exec_windowChangeDone_none (h : (s.part p.val).winWait = none) : exec (.windowChangeDone p) s = .next s := by
  simp only [exec, execWindowChangeDone, h]

theorem exec_windowChangeDone_some {w : WinWait} (h : (s.part p.val).winWait = some w) : exec (.windowChangeDone p) s =
    if (w.older.any fun i => (tget? s.reqs i).isSome) = true then .next s else .next (s.setPart p.val { s.part p.val with winWait := none }) := by
  simp only [exec, execWindowChangeDone, h]

variable {tok : List Byte}

/-- The state with a debug token accepted and a new challenge drawn. -/
def tokenTaken (s : State) (tok : List Byte) : State :=
  { s with
    free := s.free + 1,
    sec := { s.sec with
      challenge := leBytes 32 (Config.freeNat s.free), level := max s.sec.level (le tok 5 1), since1 := true,
      since2 := s.sec.since2 || decide (le tok 5 1 = 2), debugByte := if le tok 5 1 = 2 then 2 else s.sec.debugByte,
      svnUsed := if le tok 5 1 = 2 then s.sec.svn else s.sec.svnUsed } }

theorem exec_debugToken_locked (h : 8 ≤ s.sec.fails) : exec (.debugToken tok) s = .next s := if_pos h

theorem exec_debugToken_bad (h : s.sec.fails < 8) (hbad : tokenGood s tok = false) : ∃ ch : List Byte, ch.length = 32 ∧ exec (.debugToken tok) s =
    .next (emit (raise { s with free := s.free + 1, sec := { s.sec with challenge := ch, fails := s.sec.fails + 1 } } pgSec 1 []) (.debug false)) :=
  ⟨_, leBytes_length 32 (Config.freeNat s.free), (if_neg (Nat.not_le.mpr h)).trans (if_neg (ne_true_of_eq_false hbad))⟩

theorem exec_debugToken_good (h : s.sec.fails < 8) (hgood : tokenGood s tok = true) : exec (.debugToken tok) s =
    .next (emit (raise (tokenTaken s tok) pgSec 0 [BitVec.ofNat 8 (le tok 5 1)]) (.debug true)) :=
  (if_neg (Nat.not_le.mpr h)).trans (if_pos hgood)

end

/-- Settles O48: the commands of the security block, host windows and debug tokens. -/
theorem securityCommands : Obligations.SecurityCommands := by
  refine ⟨fun p b i s => exec_secCommands_busy, fun p b i s hmay hidle => ⟨exec_sec_of_idle hmay hidle, fun hi => ?_, fun hi => ?_, fun hkey => ?_,
      fun hkey hlen => ?_, fun hkey hlen => ?_, exec_addTrustKey_full hmay hidle, fun n hn hlen => ?_, fun n hn hlen => ?_, exec_removeTrustKey_none hmay hidle,
      fun k => exec_removeTrustKey_some hmay hidle, fun k hk hno => ?_,
      ⟨fun hform hkey => ?_, fun k hform hkey => ?_, fun h hm hphase hok => ?_, fun n hm hphase hbad => ?_, fun hform hphase hidx => ?_, fun hform hphase hidx => ?_,
        fun hform hm => ?_, fun h1 h3 h4 h5 => ?_, fun h5 => ?_⟩,
      ⟨fun ob ol hlen hold => ⟨fun huse => ?_, fun hfree => ?_⟩, fun hlen hnone => ?_, fun ob ol hlen hold hpos => ⟨fun huse => ?_, fun hfree => ?_⟩⟩⟩,
    fun p s => ⟨exec_windowChangeDone_none, fun w hw => ⟨fun hwait => ?_, fun hdone => ?_⟩⟩,
    fun b s => ⟨exec_debugToken_locked, exec_debugToken_bad, fun h hgood => ⟨tokenTaken s b, exec_debugToken_good h hgood, rfl, rfl, rfl, fun h2 => ⟨?_, ?_⟩,
      fun h2 => ⟨?_, ?_⟩, rfl, rfl⟩⟩⟩
  · exact (exec_sec_of_idle hmay hidle).trans (if_neg (Nat.not_lt.mpr hi))
  · exact (exec_sec_of_idle hmay hidle).trans (if_pos hi)
  · rw [exec_installFenceKey_of_idle hmay hidle, if_pos (Option.isSome_iff_ne_none.mpr hkey)]
  · rw [exec_installFenceKey_of_idle hmay hidle, hkey, if_neg (by decide), if_pos hlen]
  · rw [exec_installFenceKey_of_idle hmay hidle, hkey, if_neg (by decide), if_neg (not_not_intro hlen), mbMsg_of_key hlen]
  · rw [exec_addTrustKey_free hmay hidle hn, if_neg (not_not_intro hlen), mbMsg_of_key hlen]
  · rw [exec_addTrustKey_free hmay hidle hn, if_pos hlen]
  · have hports : ∀ n : Nat, n < 4 → ((untrusted s i.val).port n).sealed = false ∨ ((untrusted s i.val).port n).hs.peer ≠ sha3 k := hno
    have hsame := foldl_linkDown_unused hports
    rw [untrusted] at hsame
    rw [exec_removeTrustKey_some hmay hidle hk, hsame]
  · rw [exec_ideHello hmay hidle (hsOk_type hform), respond_ide_unknown hform hkey]
  · obtain ⟨r, secret, hr⟩ := respond_ide_known hform hkey
    refine ⟨r, secret, ?_⟩
    rw [exec_ideHello hmay hidle (hsOk_type hform), hr]
  · rw [exec_ideConfirm hmay hidle hm hphase, hok]
  · rw [exec_ideConfirm hmay hidle hm hphase, hbad]
  · rw [exec_ideRekey hmay hidle hform hphase, if_pos hidx]
  · rw [exec_ideRekey hmay hidle hform hphase, if_neg hidx]
  · rw [exec_ideHello hmay hidle hm, respond_ide_badForm hform]
  · rw [exec_ideOther hmay hidle h1 h3 h4, if_neg (ne_true_of_eq_false h5)]
  · have ht := hsOk_type h5
    rw [exec_ideOther hmay hidle (by omega) (.inl (by omega)) (.inl (by omega)), if_pos h5]
  · obtain ⟨hlow, hhigh⟩ := cuts_of_grown hlen (oldWindow_of_some hold)
    refine (exec_applyWindow_of_idle hmay hidle).trans (if_pos ?_)
    rw [hlow, hhigh]
    exact huse
  · obtain ⟨hlow, hhigh⟩ := cuts_of_grown hlen (oldWindow_of_some hold)
    refine (exec_applyWindow_of_idle hmay hidle).trans ((if_neg ?_).trans ?_)
    · rw [hlow, hhigh]
      exact ne_true_of_eq_false hfree
    · have hgrown : stagedLen s ≠ 0 := hlen
      rw [hlow, hhigh, if_neg hgrown]
      rfl
  · exact exec_applyWindow_new hmay hidle hlen hnone
  · exact (exec_applyWindow_removed hmay hidle hlen hold hpos).trans (if_pos huse)
  · exact (exec_applyWindow_removed hmay hidle hlen hold hpos).trans (if_neg (ne_true_of_eq_false hfree))
  · obtain ⟨i, hi, hin⟩ := hwait
    exact (exec_windowChangeDone_some hw).trans (if_pos (List.any_eq_true.mpr ⟨i, hi, Option.isSome_iff_ne_none.mpr hin⟩))
  · refine (exec_windowChangeDone_some hw).trans (if_neg fun hany => ?_)
    obtain ⟨i, hi, hin⟩ := List.any_eq_true.mp hany
    rw [hdone i hi] at hin
    exact absurd hin (by decide)
  · simp only [tokenTaken, h2, decide_true, Bool.or_true]
  · exact if_pos h2
  · simp only [tokenTaken, h2, decide_false, Bool.or_false]
  · exact if_neg h2

end Sys2Proof.Proofs.SecurityBlock
end

section
/-! PROOF. The firmware commands (R460-R470). -/
namespace Sys2Proof.Proofs.FwCommands
open Sys2Proof.Machine Sys2Proof.Safety Sys2Proof.Laws Sys2Proof.Proofs.Firmware Sys2Proof.Proofs.QpRegions

section
variable {s : State} {k : State → State}

/-! ### Past `BUSY` and the ringmaster -/

theorem hostWr_fwCmd_busy (hmay : HostMay s pgStw) (hfw : s.stw.fw ≠ none) : hostWr s pgStw (fwCmd s k) = .next s :=
  (hostWr_of_hostMay hmay _).trans (if_pos (Option.isSome_iff_ne_none.mpr hfw))

theorem hostWr_fwCmd_held (hmay : HostMay s pgStw) (hfw : s.stw.fw = none) (hrm : s.stw.rm ≠ .running) : hostWr s pgStw (fwCmd s k) = .next (fwEnd s 1) := by
  obtain ⟨n, hgate⟩ := rmGate_of_not_running (c := 2) hrm
  refine (hostWr_of_hostMay hmay _).trans ?_
  simp only [fwCmd, hfw, hgate, Option.isSome_none, Bool.false_eq_true, if_false]

theorem hostWr_fwCmd_taken (hmay : HostMay s pgStw) (hfw : s.stw.fw = none) (hrm : RmTakes s 2) : hostWr s pgStw (fwCmd s k) = .next (k s) :=
  (hostWr_of_hostMay hmay _).trans (fwCmd_of_rmTakes hfw hrm k)

/-! ### The commands, once taken -/

section
variable (hmay : HostMay s pgStw) (hfw : s.stw.fw = none) (hrm : RmTakes s 2)
include hmay hfw hrm

/-- What the checks of a file answer to the staged one. -/
def stagedCheck (s : State) : Nat × Image × Nat :=
  fileCheck s (some (rd s (pgStw + 0x148))) (fun o n => hostPeek s (rd64 s (pgStw + 0x140) + o) n)

/-- The bytes of a file that its checks read. -/
def checkedSize (img : Image) (caps : Nat) : Nat := if headerForm img.header then capsAt img.header + 16 + 1152 * caps else 4096

/-- The state once the checks have read what they read. -/
def checkedState (s : State) (img : Image) (caps : Nat) : State :=
  bump s (pgCxl + 0x128) 0 32 (lineCount (rd64 s (pgStw + 0x140)) (checkedSize img caps))

theorem exec_fwStream_trial (htrial : trialOn s = true) : exec .fwStream s = .next (fwEnd s 8) :=
  (hostWr_fwCmd_taken hmay hfw hrm).trans (congrArg Host.Outcome.next (if_pos htrial))

theorem exec_fwStream_checked {img : Image} {code caps : Nat} (htrial : trialOn s = false) (hcheck : stagedCheck s = (code, img, caps)) : exec .fwStream s =
    .next (if code = 9 then fwEnd (poisonRcvd (checkedState s img caps) (badLines s.hostBad (rd64 s (pgStw + 0x140)) (checkedSize img caps))) 9
      else if code ≠ 0 then fwEnd (checkedState s img caps) code
      else
        let s2 := setSlotImage (markSlot (checkedState s img caps) (1 - (bootRec s).active) 0) (1 - (bootRec s).active) (some img)
        { s2 with stw := { s2.stw with
          fw := some { stream := true, slot := 1 - (bootRec s).active, base := rd64 s (pgStw + 0x140) + blocksAt img.header caps }, fwDone := 0 } }) := by
  refine (hostWr_fwCmd_taken hmay hfw hrm).trans (congrArg Host.Outcome.next ((if_neg (ne_true_of_eq_false htrial)).trans ?_))
  unfold stagedCheck at hcheck
  rw [hcheck]
  rfl

theorem exec_activateTrial_taken : exec .activateTrial s = .next (if slotCode (bootRec s) (1 - (bootRec s).active) ≠ 2 then fwEnd s 6
    else fwEnd (putBoot s { bootRec s with pending := true, trial := 1 - (bootRec s).active }) 0) := hostWr_fwCmd_taken hmay hfw hrm

theorem exec_commit_taken : exec .commit s = .next (if (bootRec s).started = true then fwEnd (commitTrial s) 0 else fwEnd s 0) := hostWr_fwCmd_taken hmay hfw hrm

theorem exec_cancelTrial_taken : exec .cancelTrial s =
    .next (if (bootRec s).pending = true then fwEnd (putBoot s { bootRec s with pending := false }) 0 else fwEnd s 0) := hostWr_fwCmd_taken hmay hfw hrm

theorem exec_raiseSecurityVersion_trial (htrial : trialOn s = true) : exec .raiseSecurityVersion s = .next (fwEnd s 8) :=
  (hostWr_fwCmd_taken hmay hfw hrm).trans (congrArg Host.Outcome.next (if_pos htrial))

end

/-! ### The end of a stream and of a verification -/

theorem exec_fwDone_idle (h : s.stw.fw = none ∨ s.stw.rm ≠ .running) : exec .fwDone s = .next s ∧ exec .fwVerifyDone s = .next s := by
  simp only [exec, execFwDone, execFwVerifyDone]
  cases hfw : s.stw.fw with
  | none => exact ⟨rfl, rfl⟩
  | some j =>
    have hrm : s.stw.rm ≠ .running := h.resolve_left fun hnone => by rw [hfw] at hnone; cases hnone
    simp only [decide_eq_true hrm, Bool.or_true, Bool.true_or, if_true, and_self]

section
variable {j : FwJob} (hfw : s.stw.fw = some j) (hrm : s.stw.rm = .running)
include hfw hrm

omit hrm in
theorem exec_fwVerifyDone_of_stream (hj : j.stream = true) : exec .fwVerifyDone s = .next s := by
  simp only [exec, execFwVerifyDone, hfw, hj, Bool.true_or, if_true]

omit hrm in
theorem exec_fwDone_of_verify (hj : j.stream = false) : exec .fwDone s = .next s := by
  simp only [exec, execFwDone, hfw, hj, Bool.not_false, Bool.true_or, if_true]

omit hrm in
theorem exec_fwDone_held (hhold : ideHold s = true) : exec .fwDone s = .next s := by
  simp only [exec, execFwDone, hfw, hhold, Bool.or_true, if_true]

theorem exec_fwDone_lost (hj : j.stream = true) (hopen : ideHold s = false) (hno : slotImage s j.slot = none) :
    exec .fwDone s = .next (stopStream s j.slot 9) := by
  simp only [exec, execFwDone, hfw, hrm, hj, hopen, hno, ne_eq, not_true_eq_false, decide_false, Bool.not_true, Bool.or_self, Bool.false_eq_true, if_false]

theorem exec_fwDone_streamed {m : Image} (hj : j.stream = true) (hopen : ideHold s = false) (hm : slotImage s j.slot = some m) : exec .fwDone s =
    match streamBlocks s m.table j.base 0 (ihNblk m.header) with
    | .error e => .next (stopStream (if e = 9 then poisonRcvd (bump s (pgCxl + 0x128) 0 32 (1024 * ihNblk m.header))
        (badLines s.hostBad j.base (65536 * ihNblk m.header)) else bump s (pgCxl + 0x128) 0 32 (1024 * ihNblk m.header)) j.slot e)
    | .ok l =>
      let s2 := markSlot (setSlotImage (bump s (pgCxl + 0x128) 0 32 (1024 * ihNblk m.header)) j.slot (some { m with blocks := l })) j.slot 1
      .next (raise (fwEnd { s2 with stw := { s2.stw with fwDone := 1000 } } 0) pgStw 3 []) := by
  simp only [exec, execFwDone, hfw, hrm, hj, hopen, hm, ne_eq, not_true_eq_false, decide_false, Bool.not_true, Bool.or_self, Bool.false_eq_true, if_false] <;> rfl

/-- The image that a slot holds and its code say that a verification of it succeeds. -/
def slotGood (s : State) (slot : Nat) : Bool :=
  match slotImage s slot with
  | some m => decide (slotCode (bootRec s) slot ≠ 0) && imageGood s m
  | none => false

theorem exec_fwVerifyDone_of_verify (hj : j.stream = false) : exec .fwVerifyDone s =
    if slotGood s j.slot = true then .next (fwEnd (markSlot { s with stw := { s.stw with fwDone := 1000 } } j.slot 2) 0)
    else .next (fwEnd { s with stw := { s.stw with fwDone := 1000 } } 6) := by
  simp only [exec, execFwVerifyDone, hfw, hrm, hj, ne_eq, not_true_eq_false, decide_false, Bool.or_self, Bool.false_eq_true, if_false] <;> rfl

end

theorem slotGood_empty {slot : Nat} (h : slotImage s slot = none ∨ slotCode (bootRec s) slot = 0) : slotGood s slot = false := by
  unfold slotGood
  rcases h with h | h
  · rw [h]
  · simp only [h, ne_eq, not_true_eq_false, decide_false, Bool.false_and]
    split <;> rfl

theorem slotGood_image {m : Image} {slot : Nat} (hm : slotImage s slot = some m) (hcode : slotCode (bootRec s) slot ≠ 0) : slotGood s slot = imageGood s m := by
  simp only [slotGood, hm, ne_eq, hcode, not_false_iff, decide_true, Bool.true_and]

theorem exec_trialCommitTimer_due (hserve : inService s = true) (hstarted : (bootRec s).started = true) (hrm : s.stw.rm = .running) :
    exec .trialCommitTimer s = .next (commitTrial s) := if_pos (by rw [hserve, hstarted, decide_eq_true hrm]; rfl)

theorem exec_trialCommitTimer_not (h : inService s = false ∨ (bootRec s).started = false ∨ s.stw.rm ≠ .running) : exec .trialCommitTimer s = .next s := by
  refine if_neg ?_
  rw [Bool.and_eq_true, Bool.and_eq_true, decide_eq_true_iff]
  rintro ⟨⟨hserve, hstarted⟩, hrm⟩
  rcases h with h | h | h
  · exact Bool.false_ne_true (h.symm.trans hserve)
  · exact Bool.false_ne_true (h.symm.trans hstarted)
  · exact h hrm

/-- An abort with no work taken. -/
theorem exec_fwAbort_held (hmay : HostMay s pgStw) (hrm : s.stw.rm ≠ .running) : exec .fwAbort s = .next { s with stw := { s.stw with fwResult := 1 } } := by
  obtain ⟨n, hgate⟩ := rmGate_of_not_running (c := 2) hrm
  refine (hostWr_of_hostMay hmay _).trans ?_
  rw [hgate]

theorem exec_fwAbort_of_none (hmay : HostMay s pgStw) (hrm : RmTakes s 2) (hfw : s.stw.fw = none) : exec .fwAbort s = .next s := by
  refine (hostWr_of_hostMay hmay _).trans ?_
  simp only [rmGate_of_rmTakes hrm, hfw]

theorem exec_fwAbort_of_verify {j : FwJob} (hmay : HostMay s pgStw) (hrm : RmTakes s 2) (hfw : s.stw.fw = some j) (hj : j.stream = false) :
    exec .fwAbort s = .next s := by
  refine (hostWr_of_hostMay hmay _).trans ?_
  simp only [rmGate_of_rmTakes hrm, hfw, hj, Bool.false_eq_true, if_false]

end

/-- Settles O49: firmware is streamed, aborted, verified, tried and committed. -/
theorem firmwareCommands : Obligations.FirmwareCommands := by
  refine ⟨fun k s hmay hfw => ?_, fun k s hmay hfw hrm => ?_, fun k s hmay hfw hrm => ⟨hostWr_fwCmd_taken hmay hfw hrm, fun htrial => ?_,
      fun img caps htrial hcheck hform => ?_, fun img code caps htrial hcheck hcode => ⟨fun h9 => ?_, fun h9 => ?_⟩, fun hcode => ?_, fun hcode => ?_, fun hst => ?_,
      fun hst => ?_, fun hpend => ?_, fun hpend => ?_, fun m htrial hm => ⟨fun hle => ?_, fun hlt => ?_⟩⟩,
    fun s hmay hrm => ⟨exec_fwAbort_of_none hmay hrm, fun j hfw => ⟨exec_fwAbort_of_stream hmay hrm hfw, exec_fwAbort_of_verify hmay hrm hfw⟩⟩,
    fun s => exec_fwAbort_held, fun s => exec_fwDone_idle,
    fun s j hfw hrm hj => ⟨exec_fwVerifyDone_of_stream hfw hj, exec_fwDone_held hfw, fun m l hopen hm hl => ?_, fun m hopen hm he => ?_, fun m hopen hm he => ?_,
      exec_fwDone_lost hfw hrm hj⟩,
    fun s j hfw hrm hj => ⟨exec_fwDone_of_verify hfw hj, fun hno => ?_, fun m hm hcode => ⟨fun hgood => ?_, fun hbad => ?_⟩⟩,
    fun s => ⟨exec_trialCommitTimer_due, exec_trialCommitTimer_not⟩, fun s r _ hgen => bootRec_putBoot hgen⟩
  · exact ⟨hostWr_fwCmd_busy hmay hfw, hostWr_fwCmd_busy hmay hfw, hostWr_fwCmd_busy hmay hfw, hostWr_fwCmd_busy hmay hfw, hostWr_fwCmd_busy hmay hfw,
      hostWr_fwCmd_busy hmay hfw⟩
  · exact ⟨hostWr_fwCmd_held hmay hfw hrm, hostWr_fwCmd_held hmay hfw hrm, hostWr_fwCmd_held hmay hfw hrm, hostWr_fwCmd_held hmay hfw hrm,
      hostWr_fwCmd_held hmay hfw hrm, hostWr_fwCmd_held hmay hfw hrm⟩
  · exact ⟨exec_fwStream_trial hmay hfw hrm htrial, exec_raiseSecurityVersion_trial hmay hfw hrm htrial⟩
  · rw [exec_fwStream_checked hmay hfw hrm htrial hcheck, if_neg (by decide), if_neg (by decide), checkedState, checkedSize, if_pos hform]
  · rw [exec_fwStream_checked hmay hfw hrm htrial hcheck, if_pos h9]
    rfl
  · rw [exec_fwStream_checked hmay hfw hrm htrial hcheck, if_neg h9, if_pos hcode]
    rfl
  · rw [exec_activateTrial_taken hmay hfw hrm, if_pos hcode]
  · rw [exec_activateTrial_taken hmay hfw hrm, if_neg (not_not_intro hcode)]
  · rw [exec_commit_taken hmay hfw hrm, if_pos hst]
  · rw [exec_commit_taken hmay hfw hrm, if_neg (ne_true_of_eq_false hst)]
  · rw [exec_cancelTrial_taken hmay hfw hrm, if_pos hpend]
  · rw [exec_cancelTrial_taken hmay hfw hrm, if_neg (ne_true_of_eq_false hpend)]
  · rw [exec_raiseSecurityVersion hmay hfw hrm hm, if_neg (ne_true_of_eq_false htrial), if_pos hle]
  · rw [exec_raiseSecurityVersion hmay hfw hrm hm, if_neg (ne_true_of_eq_false htrial), if_neg (Nat.not_le.mpr hlt)]
  · rw [exec_fwDone_streamed hfw hrm hj hopen hm, hl]
  · rw [exec_fwDone_streamed hfw hrm hj hopen hm, he]
    exact congrArg (fun u => Host.Outcome.next (stopStream u j.slot 6)) (if_neg (by decide))
  · rw [exec_fwDone_streamed hfw hrm hj hopen hm, he]
    exact congrArg (fun u => Host.Outcome.next (stopStream u j.slot 9)) (if_pos rfl)
  · rw [exec_fwVerifyDone_of_verify hfw hrm hj, slotGood_empty hno, if_neg Bool.false_ne_true]
  · rw [exec_fwVerifyDone_of_verify hfw hrm hj, slotGood_image hm hcode, if_pos hgood]
  · rw [exec_fwVerifyDone_of_verify hfw hrm hj, slotGood_image hm hcode, if_neg (ne_true_of_eq_false hbad)]

end Sys2Proof.Proofs.FwCommands
end

section
/-! PROOF. The event register and the log after an event (R473-R479, R529). -/
namespace Sys2Proof.Proofs.Events
open Sys2Proof.Machine Sys2Proof.Safety Sys2Proof.Laws Sys2Proof.Proofs.Frames

/-! ### The event bits of a page -/

theorem bit_eq_testBit (v i : Nat) : bit v i = v.testBit i := (Nat.testBit_eq_decide_div_mod_eq (x := v) (i := i)).symm

theorem rd_wrf_other {s : State} {a b : Nat} (h : a ≠ b) (lo n v : Nat) : rd (wrf s a lo n v) b = rd s b := by
  rw [wrf, rd_wr, if_neg h]

theorem rd_bump_other {s : State} {a b : Nat} (h : a ≠ b) (lo n k : Nat) : rd (bump s a lo n k) b = rd s b := rd_wrf_other h lo n _

theorem rd_of_regs {s t : State} (h : t.regs = s.regs) (a : Nat) : rd t a = rd s a := by rw [rd, rd, h]

theorem rd_setEvt (s : State) (pg b : Nat) : rd (setEvt s pg b) (pg + 0x10) = (rd s (pg + 0x10) ||| 2 ^ b) % 2 ^ 32 := by
  have hbump : rd (bump (wr s (pg + 0x10) (rd s (pg + 0x10) ||| 2 ^ b)) (pg + 0x1C) 0 32 1) (pg + 0x10) = (rd s (pg + 0x10) ||| 2 ^ b) % 2 ^ 32 := by
    rw [rd_bump_other (by omega), rd_wr, if_pos rfl]
  have hsignal : ∀ t : State, (signalPage t pg).regs = t.regs := fun t => (keeps_signalPage t pg (.refl t) (.refl _)).frame .regs rfl
  unfold setEvt
  dsimp only
  split
  · rw [rd_of_regs (hsignal _), hbump]
  · exact hbump

theorem bit_setEvt_same (s : State) (pg : Nat) {b : Nat} (hb : b < 32) : bit (rd (setEvt s pg b) (pg + 0x10)) b = true := by
  rw [rd_setEvt, bit_eq_testBit, Nat.testBit_mod_two_pow, Nat.testBit_or, Nat.testBit_two_pow_self, Bool.or_true, decide_eq_true hb, Bool.true_and]

theorem bit_setEvt_of_bit {s : State} {pg i : Nat} (b : Nat) (hi : i < 32) (h : bit (rd s (pg + 0x10)) i = true) :
    bit (rd (setEvt s pg b) (pg + 0x10)) i = true := by
  rw [bit_eq_testBit] at h
  rw [rd_setEvt, bit_eq_testBit, Nat.testBit_mod_two_pow, Nat.testBit_or, h, Bool.true_or, decide_eq_true hi, Bool.true_and]

/-- An event is one record that repeats the last record of the log. -/
def merges (s : State) (e : Ev) : Bool :=
  match s.evr.log.getLast?, evRecords s.evr.nextSeq (islandTime s e.island) e with
  | some l, [r] => decide (recKey l = recKey r) && !s.evr.inGroup && decide (recRepeat l < 0xFFFF)
  | _, _ => false

/-- The recorder with one repeat more of the last record. -/
def repeated (x : Evr) : Evr := { x with log := modAt (fun r => recSetRepeat r (recRepeat r + 1)) (x.log.length - 1) x.log }

/-- The recorder with new records. -/
def lengthened (x : Evr) (recs : List (List Byte)) : Evr :=
  { x with log := x.log ++ recs, nextSeq := (x.nextSeq + recs.length) % 2 ^ 32, inGroup := decide (1 < recs.length) }

/-- The recorder once it has taken an event. -/
def takenEvr (s : State) (e : Ev) : Evr :=
  if merges s e = true then repeated s.evr
  else if s.evr.log.length + (evRecords s.evr.nextSeq (islandTime s e.island) e).length ≤ 32768 then
    lengthened s.evr (evRecords s.evr.nextSeq (islandTime s e.island) e)
  else { s.evr with overflow := sat 32 (s.evr.overflow + 1) }

/-- What the recorder does with one event: it is counted, and the log takes it. -/
theorem accept1_eq (s : State) (e : Ev) : accept1 s e = { bump s (pgEvr + 0x10C) 0 32 1 with evr := takenEvr s e } := by
  have hcases : accept1 s e =
      if merges s e = true then { bump s (pgEvr + 0x10C) 0 32 1 with evr := repeated s.evr }
      else if s.evr.log.length + (evRecords s.evr.nextSeq (islandTime s e.island) e).length ≤ 32768 then
        { bump s (pgEvr + 0x10C) 0 32 1 with evr := lengthened s.evr (evRecords s.evr.nextSeq (islandTime s e.island) e) }
      else { bump s (pgEvr + 0x10C) 0 32 1 with evr := { s.evr with overflow := sat 32 (s.evr.overflow + 1) } } := rfl
  rw [hcases]
  unfold takenEvr
  split
  · rfl
  · split <;> rfl

theorem accept1_evr (s : State) (e : Ev) : (accept1 s e).evr = takenEvr s e := by rw [accept1_eq]

/-- Taking an event changes of the registers the count of events alone. -/
theorem rd_accept1 (s : State) (e : Ev) {a : Nat} (ha : pgEvr + 0x10C ≠ a) : rd (accept1 s e) a = rd s a := by
  have hregs : (accept1 s e).regs = (bump s (pgEvr + 0x10C) 0 32 1).regs := by rw [accept1_eq]
  rw [rd_of_regs hregs, rd_bump_other ha]

theorem bit_accept_of_bit {s : State} {i : Nat} (e : Ev) (hi : i < 32) (h : bit (rd s (pgEvr + 0x10)) i = true) :
    bit (rd (accept s e) (pgEvr + 0x10)) i = true := by
  have hat : pgEvr + 0x10C ≠ pgEvr + 0x10 := by omega
  have hone : bit (rd (accept1 s e) (pgEvr + 0x10)) i = true := by rwa [rd_accept1 s e hat]
  unfold accept
  dsimp only
  split
  · rw [rd_accept1 _ _ hat]
    exact bit_setEvt_of_bit 0 hi hone
  · exact hone

/-- An event of the recorder's own page stands in its event register. -/
theorem bit_raise_evr (s : State) {b : Nat} (hb : b < 32) (d : List Byte) : bit (rd (raise s pgEvr b d) (pgEvr + 0x10)) b = true :=
  bit_accept_of_bit _ hb (bit_setEvt_same s pgEvr hb)

/-! ### The first record of the log -/

theorem recSetRepeat_take {r : List Byte} (h : 28 ≤ r.length) (n : Nat) : (recSetRepeat r n).take 28 = r.take 28 := by
  unfold recSetRepeat
  rw [List.append_assoc]
  exact List.take_left' (List.length_take_of_le h)

/-- The log begins with a record whose bytes before its repeat count are `r`. -/
def Begins (x : Evr) (r : List Byte) : Prop := ∃ h l, x.log = h :: l ∧ h.take 28 = r ∧ 28 ≤ h.length

theorem Begins.repeated {x : Evr} {r : List Byte} (h : Begins x r) : Begins (repeated x) r := by
  obtain ⟨y, l, hlog, hr, hlen⟩ := h
  have hlast : ∀ n : Nat, 28 ≤ (recSetRepeat y n).length := fun n => by
    have htake := congrArg List.length (recSetRepeat_take hlen n)
    rw [List.length_take, List.length_take] at htake
    omega
  cases l with
  | nil =>
    refine ⟨recSetRepeat y (recRepeat y + 1), [], ?_, (recSetRepeat_take hlen _).trans hr, hlast _⟩
    rw [Events.repeated, hlog]
    rfl
  | cons z l =>
    refine ⟨y, modAt (fun r => recSetRepeat r (recRepeat r + 1)) l.length (z :: l), ?_, hr, hlen⟩
    rw [Events.repeated, hlog]
    rfl

theorem Begins.takenEvr {s : State} {r : List Byte} (h : Begins s.evr r) (e : Ev) : Begins (takenEvr s e) r := by
  unfold Events.takenEvr
  split
  · exact h.repeated
  · obtain ⟨y, l, hlog, hr, hlen⟩ := h
    split
    · exact ⟨y, l ++ _, congrArg (· ++ _) hlog, hr, hlen⟩
    · exact ⟨y, l, hlog, hr, hlen⟩

theorem setEvt_evr (s : State) (pg b : Nat) : (setEvt s pg b).evr = s.evr := (keeps_setEvt s pg b (.refl s) (.refl _)).frame .evr rfl

theorem Begins.accept {s : State} {r : List Byte} (h : Begins s.evr r) (e : Ev) : Begins (accept s e).evr r := by
  have hone : Begins (accept1 s e).evr r := accept1_evr s e ▸ h.takenEvr e
  unfold Machine.accept
  dsimp only
  split
  · rw [accept1_evr]
    refine Begins.takenEvr ?_ _
    rwa [setEvt_evr]
  · exact hone

theorem Begins.raise {s : State} {r : List Byte} (h : Begins s.evr r) (pg b : Nat) (d : List Byte) : Begins (raise s pg b d).evr r := by
  unfold Machine.raise raiseG
  split
  · exact h
  · refine Begins.accept ?_ _
    rwa [setEvt_evr]

end Sys2Proof.Proofs.Events
end

section
/-! PROOF. The way through `BOOT` and recovery (R466-R472, R511, R513). -/
namespace Sys2Proof.Proofs.Boot
open Sys2Proof.Machine Sys2Proof.Safety Sys2Proof.Laws Sys2Proof.Proofs.Firmware Sys2Proof.Proofs.Frames Sys2Proof.Proofs.Events

section
variable {s : State} {slot : Nat} {m : Image} {key loader : List Byte}

/-! ### The boot record and the slots -/

/-- The boot record that a write leaves the newest is the one written, or, once the generations have wrapped, the one before. -/
theorem bootRec_putBoot_or (s : State) (r : BootRec) :
    bootRec (putBoot s r) = { r with valid := true, gen := ((bootRec s).gen + 1) % 2 ^ 32 } ∨ bootRec (putBoot s r) = bootRec s := by
  unfold putBoot
  dsimp only
  split
  · next hA =>
    simp only [Bool.and_eq_true, decide_eq_true_eq] at hA
    obtain ⟨hvalid, hold⟩ := hA
    by_cases hgen : ((bootRec s).gen + 1) % 2 ^ 32 ≤ s.stw.recA.gen
    · exact .inr (Eq.trans (bootRec_eq_recA (s := { s with stw := { s.stw with recB := _ } }) hvalid fun _ => hgen) hold)
    · exact .inl (bootRec_eq_recB rfl fun _ => Nat.lt_of_not_le hgen)
  · next hA =>
    simp only [Bool.and_eq_true, decide_eq_true_eq, not_and] at hA
    cases hB : s.stw.recB.valid with
    | false => exact .inl (bootRec_eq_recA rfl fun h => absurd (h.symm.trans hB) (by decide))
    | true =>
      have hold : bootRec s = s.stw.recB := bootRec_eq_recB_of_ne hB hA
      by_cases hgen : s.stw.recB.gen ≤ ((bootRec s).gen + 1) % 2 ^ 32
      · exact .inl (bootRec_eq_recA rfl fun _ => hgen)
      · exact .inr (Eq.trans (bootRec_eq_recB (s := { s with stw := { s.stw with recA := _ } }) hB fun _ => Nat.lt_of_not_le hgen) hold.symm)

theorem putBoot_same (s : State) (r : BootRec) : (putBoot s r).stw.slotA = s.stw.slotA ∧ (putBoot s r).stw.slotB = s.stw.slotB ∧
    (putBoot s r).stw.trialEnded = s.stw.trialEnded ∧ (putBoot s r).chip = s.chip ∧ (putBoot s r).sec = s.sec ∧ (putBoot s r).dev = s.dev ∧
    (putBoot s r).pwr = s.pwr := by
  unfold putBoot
  dsimp only
  split <;> exact ⟨rfl, rfl, rfl, rfl, rfl, rfl, rfl⟩

theorem slotImage_congr {t : State} (hA : t.stw.slotA = s.stw.slotA) (hB : t.stw.slotB = s.stw.slotB) (slot : Nat) : slotImage t slot = slotImage s slot := by
  rw [slotImage, slotImage, hA, hB]

theorem romCheck_congr {t : State} (hchip : t.chip = s.chip) (hsvn : t.sec.svn = s.sec.svn) (m : Image) : romCheck t m = romCheck s m := by
  have hheader : ∀ h : List Byte, headerCheck t h = headerCheck s h := fun h => by rw [headerCheck, headerCheck, hchip, hsvn]
  rw [romCheck, romCheck, hheader, hchip]

theorem trySlot_bad (h : slotCode (bootRec s) slot = 0 ∨ slotCode (bootRec s) slot = 3) : trySlot s slot = (false, s) := if_pos h

theorem trySlot_good (hcode : slotCode (bootRec s) slot = 1 ∨ slotCode (bootRec s) slot = 2) (hm : slotImage s slot = some m)
    (hrom : romCheck s m = some (key, loader)) : trySlot s slot = (true, startLoader s slot m loader) := by
  refine (if_neg (by omega)).trans ?_
  rw [hm, Option.bind_some, hrom]
  rfl

theorem trySlot_trialEnded (s : State) (slot : Nat) : (trySlot s slot).2.stw.trialEnded = s.stw.trialEnded := by
  have hmark : ∀ c : Nat, (markSlot s slot c).stw.trialEnded = s.stw.trialEnded := fun c => (putBoot_same s _).2.2.1
  unfold trySlot
  dsimp only
  split
  · rfl
  · split
    · rfl
    · exact hmark 3

/-! ### The boot ROM -/

/-- The boot record's slot to try, the boot record to write first, and whether a started trial ends. -/
def bootPick (r : BootRec) : Nat × BootRec × Bool :=
  if r.pending then (r.trial, { r with boots := (r.boots + 1) % 2 ^ 32, pending := false, started := true }, false)
  else if r.started then (r.active, { r with boots := (r.boots + 1) % 2 ^ 32, started := false }, true)
  else (r.active, { r with boots := (r.boots + 1) % 2 ^ 32 }, false)

theorem bootPick_slots (r : BootRec) (k : Nat) : slotCode (bootPick r).2.1 k = slotCode r k := by
  unfold bootPick
  split
  · rfl
  · split <;> rfl

/-- The state with the keys drawn and the boot record written, before a slot is tried. -/
def bootTry (s : State) : State :=
  let s1 := putBoot (bootKeys s) (bootPick (bootRec s)).2.1
  { s1 with stw := { s1.stw with trialEnded := s1.stw.trialEnded || (bootPick (bootRec s)).2.2 } }

/-- The state with a trial ended, where the slot tried first does not start. -/
def bootFall (s : State) : State :=
  if (bootRec s).started || (bootRec s).pending then
    let s1 := putBoot s { bootRec s with started := false, pending := false }
    { s1 with stw := { s1.stw with trialEnded := s1.stw.trialEnded || (bootRec s).started } }
  else s

/-- The device waits for a recovery image. -/
def awaitImage (s : State) : State :=
  setSbAlert { s with stw := { s.stw with recovery := true, recBytes := [], recResult := 0xFF, recWait := false } } 1

/-- What the boot ROM does once the slot it has tried first does not start. -/
def bootRetry (s : State) (slot : Nat) : State :=
  if (trySlot (bootFall s) (1 - slot)).1 = true then (trySlot (bootFall s) (1 - slot)).2 else awaitImage (trySlot (bootFall s) (1 - slot)).2

theorem exec_bootRom_not (h : s.dev.state ≠ .boot ∨ s.dev.bootStep ≠ 0 ∨ s.stw.recovery = true) : exec .bootRom s = .next s := if_pos h

/-- The boot ROM tries the slot that it picks, and then the other one. -/
theorem exec_bootRom_of_boot (hboot : s.dev.state = .boot) (hstep : s.dev.bootStep = 0) (hrec : s.stw.recovery = false) : exec .bootRom s =
    .next (if (trySlot (bootTry s) (bootPick (bootRec s)).1).1 = true then (trySlot (bootTry s) (bootPick (bootRec s)).1).2
      else bootRetry (trySlot (bootTry s) (bootPick (bootRec s)).1).2 (bootPick (bootRec s)).1) := by
  have hgo : ¬ (s.dev.state ≠ .boot ∨ s.dev.bootStep ≠ 0 ∨ s.stw.recovery = true) := by
    simp only [hboot, hstep, hrec, ne_eq, not_true_eq_false, Bool.false_eq_true, or_self, not_false_iff]
  have hkeys : bootRec (bootKeys s) = bootRec s := bootRec_of_stw (bootKeys_stw s)
  have hrun : exec .bootRom s = match trySlot (bootTry s) (bootPick (bootRec s)).1 with
      | (true, s3) => .next s3
      | (false, s3) =>
        match trySlot (bootFall s3) (1 - (bootPick (bootRec s)).1) with
        | (true, s5) => .next s5
        | (false, s5) => .next (awaitImage s5) := by
    refine (if_neg hgo).trans ?_
    rw [bootTry, ← hkeys]
    rfl
  rw [hrun]
  unfold bootRetry
  obtain ⟨first, s3⟩ := trySlot (bootTry s) (bootPick (bootRec s)).1
  cases first with
  | true => rfl
  | false =>
    dsimp only
    obtain ⟨second, s5⟩ := trySlot (bootFall s3) (1 - (bootPick (bootRec s)).1)
    cases second <;> rfl

/-- The boot record after the first write has the slots of the one before; a trial that it shows in force was pending or in force before. -/
theorem bootRec_bootTry (s : State) : (∀ k : Nat, slotCode (bootRec (bootTry s)) k = slotCode (bootRec s) k) ∧
    ((bootRec s).pending = false → (bootRec s).started = false → (bootRec (bootTry s)).pending = false ∧ (bootRec (bootTry s)).started = false) := by
  have hkeys : bootRec (bootKeys s) = bootRec s := bootRec_of_stw (bootKeys_stw s)
  have htry : bootRec (bootTry s) = bootRec (putBoot (bootKeys s) (bootPick (bootRec s)).2.1) := rfl
  rcases bootRec_putBoot_or (bootKeys s) (bootPick (bootRec s)).2.1 with h | h
  · refine ⟨fun k => ?_, fun hpend hst => ?_⟩
    · rw [htry, h, ← bootPick_slots (bootRec s) k]
      rfl
    · rw [htry, h, bootPick, hpend, hst, if_neg Bool.false_ne_true, if_neg Bool.false_ne_true]
      exact ⟨rfl, rfl⟩
  · rw [htry, h, hkeys]
    exact ⟨fun _ => rfl, fun hpend hst => ⟨hpend, hst⟩⟩

theorem bootTry_same (s : State) : (bootTry s).stw.slotA = s.stw.slotA ∧ (bootTry s).stw.slotB = s.stw.slotB ∧ (bootTry s).chip = s.chip ∧
    (bootTry s).sec.svn = s.sec.svn ∧ (bootTry s).dev = s.dev ∧ (bootTry s).pwr = s.pwr ∧
    (bootTry s).stw.trialEnded = (s.stw.trialEnded || (bootPick (bootRec s)).2.2) := by
  obtain ⟨hA, hB, htrial, hchip, hsec, hdev, hpwr⟩ := putBoot_same (bootKeys s) (bootPick (bootRec s)).2.1
  have hkeep := keeps_bootKeys s (.refl s) (.refl _)
  have hsvn : (bootKeys s).sec.svn = s.sec.svn := by
    unfold bootKeys
    split <;> rfl
  rw [bootKeys_stw] at hA hB htrial
  exact ⟨hA, hB, hchip.trans hkeep.chip, (congrArg Sec.svn hsec).trans hsvn, hdev.trans (hkeep.frame .dev rfl), hpwr.trans (hkeep.frame .pwr rfl),
    congrArg (· || (bootPick (bootRec s)).2.2) htrial⟩

/-- The slot that the boot ROM picks starts where it is loaded or verified and its loader is good. -/
theorem exec_bootRom_starts (hboot : s.dev.state = .boot) (hstep : s.dev.bootStep = 0) (hrec : s.stw.recovery = false) (hslot : (bootPick (bootRec s)).1 = slot)
    (hcode : slotCode (bootRec s) slot = 1 ∨ slotCode (bootRec s) slot = 2) (hm : slotImage s slot = some m) (hrom : romCheck s m = some (key, loader)) :
    exec .bootRom s = .next (startLoader (bootTry s) slot m loader) := by
  obtain ⟨hA, hB, hchip, hsvn, -⟩ := bootTry_same s
  have htry : trySlot (bootTry s) slot = (true, startLoader (bootTry s) slot m loader) :=
    trySlot_good (by rwa [(bootRec_bootTry s).1]) ((slotImage_congr hA hB slot).trans hm) ((romCheck_congr hchip hsvn m).trans hrom)
  rw [exec_bootRom_of_boot hboot hstep hrec, hslot, htry, if_pos rfl]

theorem bootPick_plain {r : BootRec} (hpend : r.pending = false) (hst : r.started = false) : (bootPick r).1 = r.active ∧ (bootPick r).2.2 = false := by
  rw [bootPick, hpend, hst, if_neg Bool.false_ne_true, if_neg Bool.false_ne_true]
  exact ⟨rfl, rfl⟩

theorem bootPick_pending {r : BootRec} (hpend : r.pending = true) : (bootPick r).1 = r.trial ∧ (bootPick r).2.2 = false := by
  rw [bootPick, if_pos hpend]
  exact ⟨rfl, rfl⟩

theorem bootPick_started {r : BootRec} (hpend : r.pending = false) (hst : r.started = true) : (bootPick r).2.2 = true := by
  rw [bootPick, hpend, if_neg Bool.false_ne_true, if_pos hst]

theorem slotCode_of_both {r : BootRec} {P : Nat → Prop} (h0 : P (slotCode r 0)) (h1 : P (slotCode r 1)) (k : Nat) : P (slotCode r k) := by
  by_cases hk : k = 0
  · rwa [hk]
  · have hone : slotCode r k = slotCode r 1 := if_neg hk
    rwa [hone]

theorem bootFall_plain (hpend : (bootRec s).pending = false) (hst : (bootRec s).started = false) : bootFall s = s := by
  rw [bootFall, hpend, hst, if_neg (by decide)]

/-- With no slot to try and no trial the device waits for a recovery image. -/
theorem exec_bootRom_awaits (hboot : s.dev.state = .boot) (hstep : s.dev.bootStep = 0) (hrec : s.stw.recovery = false) (hpend : (bootRec s).pending = false)
    (hst : (bootRec s).started = false) (h0 : slotCode (bootRec s) 0 = 0 ∨ slotCode (bootRec s) 0 = 3)
    (h1 : slotCode (bootRec s) 1 = 0 ∨ slotCode (bootRec s) 1 = 3) : exec .bootRom s = .next (awaitImage (bootTry s)) := by
  obtain ⟨hcodes, hplain⟩ := bootRec_bootTry s
  obtain ⟨hpend', hst'⟩ := hplain hpend hst
  have hbad : ∀ k : Nat, trySlot (bootTry s) k = (false, bootTry s) := fun k => trySlot_bad (by
    rw [hcodes]
    exact slotCode_of_both (P := fun c => c = 0 ∨ c = 3) h0 h1 k)
  rw [exec_bootRom_of_boot hboot hstep hrec, hbad, if_neg Bool.false_ne_true, bootRetry, bootFall_plain hpend' hst', hbad, if_neg Bool.false_ne_true]

theorem awaitImage_alerts (s : State) : (awaitImage s).stw.recovery = true ∧ (awaitImage s).stw.recBytes = [] ∧ (awaitImage s).dev.state = s.dev.state ∧
    (awaitImage s).pwr.sbAlert = s.pwr.sbAlert ||| 1 ∧ (awaitImage s).dev.alertN = false := by
  have hset : s.pwr.sbAlert ||| 1 ≠ 0 := fun h => by
    have hbit := congrArg (Nat.testBit · 0) h
    simp at hbit
  refine ⟨rfl, rfl, rfl, rfl, ?_⟩
  exact (congrArg (s.dev.alertN && ·) (decide_eq_false hset)).trans (Bool.and_false _)

/-- A trial that was started and has not been committed ends as the boot ROM runs. -/
theorem exec_bootRom_endsTrial (hboot : s.dev.state = .boot) (hstep : s.dev.bootStep = 0) (hrec : s.stw.recovery = false) (hpend : (bootRec s).pending = false)
    (hst : (bootRec s).started = true) : ∃ t : State, exec .bootRom s = .next t ∧ t.stw.trialEnded = true := by
  have htry : (bootTry s).stw.trialEnded = true := by
    obtain ⟨-, -, -, -, -, -, h⟩ := bootTry_same s
    rw [h, bootPick_started hpend hst, Bool.or_true]
  have hfirst : (trySlot (bootTry s) (bootPick (bootRec s)).1).2.stw.trialEnded = true := (trySlot_trialEnded _ _).trans htry
  have hfall : ∀ t : State, t.stw.trialEnded = true → (bootFall t).stw.trialEnded = true := fun t ht => by
    unfold bootFall
    split
    · exact (congrArg (· || (bootRec t).started) (((putBoot_same t _).2.2.1).trans ht)).trans (Bool.true_or _)
    · exact ht
  have hretry : ∀ (t : State) (k : Nat), t.stw.trialEnded = true → (bootRetry t k).stw.trialEnded = true := fun t k ht => by
    have hsecond := (trySlot_trialEnded (bootFall t) (1 - k)).trans (hfall t ht)
    unfold bootRetry
    split
    · exact hsecond
    · exact hsecond
  refine ⟨_, exec_bootRom_of_boot hboot hstep hrec, ?_⟩
  split
  · exact hfirst
  · exact hretry _ _ hfirst

/-! ### The loader and the runtime -/

theorem exec_loaderStart_loads {k run res : List Byte} (hboot : s.dev.state = .boot) (hstep : s.dev.bootStep = 1) (hm : slotImage s s.stw.runSlot = some m)
    (hk : contentKey m.capsule = some k) (hload : loaderCheck m k = some (run, res)) :
    exec .loaderStart s = .next { s with sec := { s.sec with m2 := sha3 (run ++ res) }, dev := { s.dev with bootStep := 2 } } := by
  refine (if_neg (by simp only [hboot, hstep, ne_eq, not_true_eq_false, or_self, not_false_iff])).trans ?_
  rw [hm, Option.bind_some, hk, Option.bind_some, hload]
  rfl

theorem exec_loaderStart_bad {k : List Byte} (hboot : s.dev.state = .boot) (hstep : s.dev.bootStep = 1) (hm : slotImage s s.stw.runSlot = some m)
    (hk : contentKey m.capsule = some k) (hload : loaderCheck m k = none) :
    exec .loaderStart s = .next { markSlot s s.stw.runSlot 3 with dev := { (markSlot s s.stw.runSlot 3).dev with bootStep := 0 } } := by
  refine (if_neg (by simp only [hboot, hstep, ne_eq, not_true_eq_false, or_self, not_false_iff])).trans ?_
  rw [hm, Option.bind_some, hk, Option.bind_some, hload]
  rfl

/-- The data of a boot record. -/
def bootData (s : State) : List Byte :=
  leBytes 1 s.dev.bootCause ++ leBytes 4 (bootRec s).boots ++ leBytes 1 s.stw.runSlot ++ leBytes 1 (if s.stw.trialEnded then 1 else 0)

/-- The state at the start of `TRAIN`, with an empty log. -/
def trainStart (s : State) : State :=
  { s with
    dev := { s.dev with state := .train, bootStep := 0 },
    stw := { s.stw with runVer := ihVersion (match slotImage s s.stw.runSlot with | some m => m.header | none => []) },
    evr := { s.evr with log := [], nextSeq := 0, overflow := 0, inGroup := false } }

def bootEvent (s : State) : Ev := { island := 0, sev := 0, blk := 0x070, inst := 0, code := 0x20, datas := [bootData s] }

/-- The boot record of the log. -/
def bootLogged (s : State) : List Byte := mkRecord 0 (islandTime (trainStart s) 0) 0 0 0x070 0 0x20 (bootData s)

/-- The state once the boot record, and the end of a trial, are in the log. -/
def trainLogged (s : State) : State :=
  if s.stw.trialEnded then raise (accept (trainStart s) (bootEvent s)) pgStw 6 [] else accept (trainStart s) (bootEvent s)

theorem exec_runtimeStart_of_boot (hboot : s.dev.state = .boot) (hstep : s.dev.bootStep = 2) : exec .runtimeStart s =
    .next (chooseSettings (trainLogged s) (ihCfgVer (match slotImage s s.stw.runSlot with | some m => m.header | none => []))) :=
  if_neg (by simp only [hboot, hstep, ne_eq, not_true_eq_false, or_self, not_false_iff])

theorem bslice_take {l : List Byte} {o n k : Nat} (h : o + n ≤ k) : bslice (l.take k) o n = bslice l o n := by
  rw [bslice, bslice, List.drop_take, List.take_take, Nat.min_eq_left (by omega)]

theorem bootData_length (s : State) : (bootData s).length = 7 := by
  simp only [bootData, List.length_append, leBytes_length]

theorem bootData_padded (s : State) : bslice (padTo (bootData s) 10) 0 10 = bootData s ++ List.replicate 3 0 := by
  have hpad : padTo (bootData s) 10 = bootData s ++ List.replicate 3 0 := by rw [padTo, bootData_length]
  rw [hpad, bslice, List.drop_zero]
  exact List.take_of_length_le (by simp only [List.length_append, bootData_length, List.length_replicate, Nat.reduceAdd, Nat.le_refl])

/-- The bytes of the boot record before its event code. -/
def bootHead (s : State) : List Byte :=
  leBytes 4 0 ++ (leBytes 6 (islandTime (trainStart s) 0) ++ (leBytes 1 0 ++ (leBytes 1 0 ++ (leBytes 2 0x070 ++ leBytes 1 0))))

theorem bootHead_length (s : State) : (bootHead s).length = 15 := by
  simp only [bootHead, List.length_append, leBytes_length]

/-- The bytes of a record before its check sum. -/
def recBody (seq time island sev blk inst code : Nat) (data : List Byte) : List Byte :=
  leBytes 4 seq ++ leBytes 6 time ++ leBytes 1 island ++ leBytes 1 sev ++ leBytes 2 blk ++ leBytes 1 inst ++ leBytes 1 code ++ bslice (padTo data 10) 0 10

theorem mkRecord_eq (seq time island sev blk inst code : Nat) (data : List Byte) : mkRecord seq time island sev blk inst code data =
    recBody seq time island sev blk inst code data ++ leBytes 2 (crc16 0xFFFF (recBody seq time island sev blk inst code data)) ++ [0, 0, 0, 0xA5] := rfl

theorem bootLogged_split (s : State) : ∃ tail, bootLogged s = bootHead s ++ (leBytes 1 0x20 ++ (bootData s ++ tail)) ∧ 5 ≤ tail.length := by
  have hbody : recBody 0 (islandTime (trainStart s) 0) 0 0 0x070 0 0x20 (bootData s) =
      bootHead s ++ (leBytes 1 0x20 ++ (bootData s ++ List.replicate 3 0)) := by
    simp only [recBody, bootHead, bootData_padded, List.append_assoc]
  rw [bootLogged, mkRecord_eq]
  generalize crc16 0xFFFF (recBody 0 (islandTime (trainStart s) 0) 0 0 0x070 0 0x20 (bootData s)) = c
  refine ⟨List.replicate 3 0 ++ (leBytes 2 c ++ [0, 0, 0, 0xA5]), ?_, ?_⟩
  · simp only [hbody, List.append_assoc]
  · simp only [List.length_append, leBytes_length, List.length_replicate, List.length_cons, List.length_nil]
    omega

/-- Event code, sequence number and data of the boot record. -/
theorem bootLogged_fields (s : State) : le (bootLogged s) 0x0F 1 = 0x20 ∧ le (bootLogged s) 0 4 = 0 ∧ bslice (bootLogged s) 0x10 7 = bootData s ∧
    28 ≤ (bootLogged s).length := by
  obtain ⟨tail, hsplit, htail⟩ := bootLogged_split s
  have hhead := bootHead_length s
  refine ⟨(Mailbox.le_written hsplit hhead).trans (by decide), ?_, ?_, ?_⟩
  · have hseq : bootLogged s = [] ++ (leBytes 4 0 ++ _) := hsplit.trans (by rw [bootHead, List.append_assoc, List.nil_append])
    exact (Mailbox.le_written hseq rfl).trans (by decide)
  · have hpre : (bootHead s ++ leBytes 1 0x20).length = 0x10 := by rw [List.length_append, hhead, leBytes_length]
    rw [hsplit, ← List.append_assoc, bslice, ← hpre, List.drop_left]
    exact List.take_left' (bootData_length s)
  · rw [hsplit]
    simp only [List.length_append, leBytes_length, hhead, bootData_length]
    omega

/-- The log begins with the boot record, and goes on doing so. -/
theorem begins_trainLogged (s : State) : Begins (trainLogged s).evr ((bootLogged s).take 28) := by
  have hfirst : Begins (accept (trainStart s) (bootEvent s)).evr ((bootLogged s).take 28) := by
    have hmerge : merges (trainStart s) (bootEvent s) = false := rfl
    have hrecs : evRecords (trainStart s).evr.nextSeq (islandTime (trainStart s) (bootEvent s).island) (bootEvent s) = [bootLogged s] := rfl
    have hone : (accept1 (trainStart s) (bootEvent s)).evr.log = [bootLogged s] := by
      rw [accept1_evr, takenEvr, hmerge, if_neg Bool.false_ne_true, hrecs]
      exact congrArg Evr.log (if_pos (show 0 + 1 ≤ 32768 by decide))
    have hnot : ¬ ((accept1 (trainStart s) (bootEvent s)).evr.log.length = 32768 ∧ (trainStart s).evr.log.length < 32768) := by
      rw [hone]
      exact fun h => absurd (show 1 = 32768 from h.1) (by decide)
    have haccept : accept (trainStart s) (bootEvent s) = accept1 (trainStart s) (bootEvent s) := by
      unfold accept
      exact if_neg hnot
    rw [haccept]
    exact ⟨bootLogged s, [], hone, rfl, (bootLogged_fields s).2.2.2⟩
  unfold trainLogged
  split
  · exact hfirst.raise _ _ _
  · exact hfirst

theorem Begins.chooseSettings {r : List Byte} (h : Begins s.evr r) (ver : Nat) : Begins (chooseSettings s ver).evr r := by
  have hboot : ∀ (t : State) (x : BootRec), (putBoot t x).evr = t.evr := fun t x => (keeps_putBoot t x (.refl t) (.refl _)).frame .evr rfl
  unfold Machine.chooseSettings
  dsimp only
  split
  · exact h
  · split
    · refine Events.Begins.raise ?_ _ _ _
      exact (hboot _ _).symm ▸ h
    · split
      · exact h
      · refine Events.Begins.raise ?_ _ _ _
        exact h

theorem trainLogged_dev (s : State) : (trainLogged s).dev = { s.dev with state := .train, bootStep := 0 } := by
  have haccept : (accept (trainStart s) (bootEvent s)).dev = (trainStart s).dev := (keeps_accept _ (bootEvent s) (.refl _) (.refl _)).frame .dev rfl
  unfold trainLogged
  split
  · exact (raise_same _ pgStw 6 []).1.trans haccept
  · exact haccept

theorem exec_runtimeStart_trains (hboot : s.dev.state = .boot) (hstep : s.dev.bootStep = 2) : ∃ t : State, exec .runtimeStart s = .next t ∧
    t.dev.state = .train ∧ t.dev.bootStep = 0 ∧ t.dev.pagesOpen = s.dev.pagesOpen ∧
    ∃ (r : List Byte) (l : List (List Byte)), t.evr.log = r :: l ∧ le r 0x0F 1 = 0x20 ∧ le r 0 4 = 0 ∧ bslice r 0x10 7 = bootData s := by
  refine ⟨_, exec_runtimeStart_of_boot hboot hstep, ?_⟩
  generalize ihCfgVer (match slotImage s s.stw.runSlot with | some m => m.header | none => []) = ver
  have hdev : (chooseSettings (trainLogged s) ver).dev = { s.dev with state := .train, bootStep := 0 } :=
    ((keeps_chooseSettings _ ver (.refl _) (.refl _)).frame .dev rfl).trans (trainLogged_dev s)
  obtain ⟨r, l, hlog, hhead, -⟩ := Begins.chooseSettings (begins_trainLogged s) ver
  have hfield : ∀ o n : Nat, o + n ≤ 28 → bslice r o n = bslice (bootLogged s) o n := fun o n h => by
    rw [← bslice_take h, hhead, bslice_take h]
  obtain ⟨hcode, hseq, hdata, -⟩ := bootLogged_fields s
  refine ⟨(congrArg Dev.state hdev :), (congrArg Dev.bootStep hdev :), (congrArg Dev.pagesOpen hdev :), r, l, hlog, ?_, ?_, ?_⟩
  · rwa [le, hfield _ _ (by decide)]
  · rwa [le, hfield _ _ (by decide)]
  · rwa [hfield _ _ (by decide)]

/-! ### The end of `TRAIN` -/

/-- The device in `READY` with its pages open and the cabinet mounted. -/
def opened (s : State) : State :=
  { s with dev := { s.dev with state := .ready, pagesOpen := true }, cab := { s.cab with mounted := true }, cxl := { s.cxl with memActive := true } }

theorem opened_opens (s : State) : (opened s).dev.state = .ready ∧ (opened s).dev.pagesOpen = true ∧ (opened s).cxl.memActive = true ∧
    (opened s).cab.mounted = true := ⟨rfl, rfl, rfl, rfl⟩

/-- The state of a device that has trained, before its dump slots are looked at. -/
def ready (s : State) : State := opened ((List.range 16).foldl replayRepairs s)

theorem opened_same (s : State) : (opened s).regs = s.regs ∧ (opened s).evr = s.evr := ⟨rfl, rfl⟩

theorem keeps_repairs (s : State) : Keeps 0x40000440000 s ((List.range 16).foldl replayRepairs s) :=
  keeps_foldl (fun t k h => keeps_replayRepairs t k h (.refl _)) (.refl s)

theorem ready_same (s : State) : (ready s).regs = s.regs ∧ (ready s).evr = s.evr := by
  have hkeep := keeps_repairs s
  unfold ready
  generalize (List.range 16).foldl replayRepairs s = t at hkeep
  exact ⟨hkeep.frame .regs rfl, hkeep.frame .evr rfl⟩

theorem exec_trainDone_of_train (h : s.dev.state = .train) : exec .trainDone s = .next (if dumpHeld (ready s) then raise (ready s) pgEvr 2 [] else ready s) := by
  refine (if_neg (not_not_intro h)).trans ?_
  unfold ready
  generalize (List.range 16).foldl replayRepairs s = t
  rfl

theorem exec_trainDone_readies (h : s.dev.state = .train) : ∃ t : State, exec .trainDone s = .next t ∧ t.dev.state = .ready ∧ t.dev.pagesOpen = true ∧
    t.cxl.memActive = true ∧ t.cab.mounted = true ∧ (dumpHeld s = false → t.regs = s.regs ∧ t.evr = s.evr) ∧
    (dumpHeld s = true → bit (rd t (pgEvr + 0x10)) 2 = true) := by
  have hheld : dumpHeld (ready s) = dumpHeld s := by rw [dumpHeld, dumpHeld, (ready_same s).2]
  refine ⟨_, exec_trainDone_of_train h, ?_⟩
  rw [hheld]
  cases hd : dumpHeld s with
  | false =>
    obtain ⟨hstate, hpages, hmem, hcab⟩ := opened_opens ((List.range 16).foldl replayRepairs s)
    exact ⟨hstate, hpages, hmem, hcab, fun _ => ready_same s, fun h => absurd h Bool.false_ne_true⟩
  | true =>
    have hkeep := keeps_raise (ready s) pgEvr 2 [] (.refl _) (.refl _)
    have hdev : (raise (ready s) pgEvr 2 []).dev = (ready s).dev := hkeep.frame .dev rfl
    have hcxl : (raise (ready s) pgEvr 2 []).cxl = (ready s).cxl := hkeep.frame .cxl rfl
    have hcabs : (raise (ready s) pgEvr 2 []).cab = (ready s).cab := hkeep.frame .cab rfl
    obtain ⟨hstate, hpages, hmem, hcab⟩ := opened_opens ((List.range 16).foldl replayRepairs s)
    rw [if_pos rfl, hdev, hcxl, hcabs]
    exact ⟨hstate, hpages, hmem, hcab, fun h => absurd h.symm Bool.false_ne_true, fun _ => bit_raise_evr (ready s) (by decide) []⟩

/-! ### Recovery images -/

variable {b : List Byte}

/-- The state with the bytes of a recovery image received. -/
def received (s : State) (b : List Byte) : State := { s with stw := { s.stw with recBytes := s.stw.recBytes ++ b } }

/-- The blocks that have been received whole, and all of an image. -/
def blocksHad (s : State) (b : List Byte) (img : Image) (caps : Nat) : Nat := ((s.stw.recBytes ++ b).length - blocksAt img.header caps) / 65536
def blocksOf (s : State) (b : List Byte) (img : Image) (caps n : Nat) : List (List Byte) :=
  (List.range n).map (fun i => bslice (s.stw.recBytes ++ b) (blocksAt img.header caps + 65536 * i) 65536)

/-- The image that a device recovers with. -/
def recovered (s : State) (m : Image) (loader : List Byte) : State :=
  let s2 := putBoot (setSlotImage s 0 (some m)) { bootRec s with active := 0, slotA := 2, pending := false, started := false }
  startLoader { s2 with stw := { s2.stw with recovery := false, recResult := 0, recBytes := [] } } 0 m loader

section
variable (hrec : s.stw.recovery = true) (hgo : s.stw.recWait = false)
include hrec hgo

theorem recovering : ¬ (s.stw.recovery = false ∨ s.stw.recWait = true) := by
  simp only [hrec, hgo, Bool.true_eq_false, Bool.false_eq_true, or_self, not_false_iff]

/-- The checks of a recovery image with all blocks that it names. -/
theorem exec_recoveryImageData_of_recovering : exec (.recoveryImageData b) s = match fileCheck (received s b) none (recGet (s.stw.recBytes ++ b)) with
    | (code, img, caps) =>
      if code = 9 then .next (received s b)
      else if code ≠ 0 then .next (recRefuse (received s b) code)
      else
        let blocks := blocksOf s b img caps (min (ihNblk img.header) (blocksHad s b img caps))
        if !((blocks.zip (List.range blocks.length)).all (fun e => digestOk img.table e.2 e.1)) then
          .next (recRefuse (setSlotImage (markSlot (received s b) 0 0) 0 none) 6)
        else if blocksHad s b img caps < ihNblk img.header then .next (received s b)
        else
          match romCheck (received s b) { img with blocks := blocks }, imageGood (received s b) { img with blocks := blocks } with
          | some (_, loader), true => .next (recovered (received s b) { img with blocks := blocks } loader)
          | _, _ => .next (recRefuse (setSlotImage (markSlot (received s b) 0 0) 0 none) 6) := by
  simp only [exec, execRecoveryImageData]
  rw [if_neg (recovering hrec hgo)]
  unfold received
  obtain ⟨code, img, caps⟩ := fileCheck _ none (recGet (s.stw.recBytes ++ b))
  rfl

theorem exec_recoveryImageData_short (hlen : (s.stw.recBytes ++ b).length < 4096) : exec (.recoveryImageData b) s = .next (received s b) := by
  have hget : recGet (s.stw.recBytes ++ b) 0 4096 = none := if_neg (by omega)
  have hcheck : fileCheck (received s b) none (recGet (s.stw.recBytes ++ b)) = (9, {}, 0) := by rw [fileCheck, hget]
  rw [exec_recoveryImageData_of_recovering hrec hgo, hcheck]
  exact if_pos rfl

theorem exec_recoveryImageData_badForm (hlen : 4096 ≤ (s.stw.recBytes ++ b).length) (hform : headerForm ((s.stw.recBytes ++ b).take 4096) = false) :
    exec (.recoveryImageData b) s = .next (recRefuse (received s b) 2) := by
  have hget : recGet (s.stw.recBytes ++ b) 0 4096 = some ((s.stw.recBytes ++ b).take 4096) := if_pos (by omega)
  have hcode : (fileCheck (received s b) none (recGet (s.stw.recBytes ++ b))).1 = 2 := by
    unfold fileCheck
    simp only [hget, hform, Bool.not_false, Bool.true_or, if_true]
  rw [exec_recoveryImageData_of_recovering hrec hgo]
  generalize fileCheck (received s b) none (recGet (s.stw.recBytes ++ b)) = c at hcode
  obtain ⟨code, img, caps⟩ := c
  have htwo : code = 2 := hcode
  rw [htwo]
  exact (if_neg (by decide)).trans (if_pos (by decide))

theorem exec_recoveryImageData_whole {img : Image} {caps : Nat} (hcheck : fileCheck (received s b) none (recGet (s.stw.recBytes ++ b)) = (0, img, caps))
    (hhad : ihNblk img.header ≤ blocksHad s b img caps)
    (hgood : ∀ e ∈ (blocksOf s b img caps (ihNblk img.header)).zip (List.range (blocksOf s b img caps (ihNblk img.header)).length),
      digestOk img.table e.2 e.1 = true) :
    exec (.recoveryImageData b) s =
      match romCheck (received s b) { img with blocks := blocksOf s b img caps (ihNblk img.header) },
        imageGood (received s b) { img with blocks := blocksOf s b img caps (ihNblk img.header) } with
      | some (_, loader), true => .next (recovered (received s b) { img with blocks := blocksOf s b img caps (ihNblk img.header) } loader)
      | _, _ => .next (recRefuse (setSlotImage (markSlot (received s b) 0 0) 0 none) 6) := by
  have hmin : min (ihNblk img.header) (blocksHad s b img caps) = ihNblk img.header := Nat.min_eq_left hhad
  have hokay : ((blocksOf s b img caps (ihNblk img.header)).zip (List.range (blocksOf s b img caps (ihNblk img.header)).length)).all
      (fun e => digestOk img.table e.2 e.1) = true := List.all_eq_true.mpr hgood
  rw [exec_recoveryImageData_of_recovering hrec hgo, hcheck]
  dsimp only
  rw [if_neg (by decide), if_neg (by decide), hmin, hokay, if_neg (by decide), if_neg (Nat.not_lt.mpr hhad)]

end

theorem exec_recoveryReenumeration_takes (hrec : s.stw.recovery = true) (hwait : s.stw.recWait = true) :
    exec .recoveryReenumeration s = .next { s with stw := { s.stw with recBytes := [], recResult := 0xFF, recWait := false } } :=
  if_pos (by rw [hrec, hwait]; rfl)

theorem exec_recoveryReenumeration_not (h : s.stw.recovery = false ∨ s.stw.recWait = false) : exec .recoveryReenumeration s = .next s := by
  refine if_neg ?_
  rcases h with h | h <;> simp only [h, Bool.false_and, Bool.and_false, Bool.false_eq_true, not_false_iff]

end

/-- Settles O50: the way from `BOOT` to `READY`, and recovery. -/
theorem bootGoesItsWay : Obligations.BootGoesItsWay := by
  refine ⟨fun s => exec_bootRom_not, fun s hboot hstep hrec hpend hst h0 h1 => ?_, fun s m key loader hboot hstep hrec hpend hst _ hcode hm hrom => ?_,
    fun s m key loader hboot hstep hrec hpend hcode hm hrom => ?_, fun s => exec_bootRom_endsTrial, fun s h => if_pos h,
    fun s m k run res => exec_loaderStart_loads, fun s m k => exec_loaderStart_bad, fun s h => if_pos h, fun s => exec_runtimeStart_trains,
    fun s h => if_pos h, fun s => exec_trainDone_readies, fun b s h => if_pos h, fun b s => exec_recoveryImageData_short,
    fun b s => exec_recoveryImageData_badForm, fun b s img caps hrec hgo => ?_,
    fun s => ⟨fun h => if_pos h, fun h => if_neg (ne_true_of_eq_false h), exec_recoveryReenumeration_takes, exec_recoveryReenumeration_not⟩⟩
  · obtain ⟨-, -, -, -, hdev, hpwr, -⟩ := bootTry_same s
    obtain ⟨hrecovery, hbytes, hstate, halert, hpin⟩ := awaitImage_alerts (bootTry s)
    refine ⟨_, exec_bootRom_awaits hboot hstep hrec hpend hst h0 h1, hrecovery, hbytes, ?_, ?_, hpin⟩
    · rw [hstate, hdev, hboot]
    · rw [halert, hpwr]
  · obtain ⟨-, -, -, hsvn, hdev, -⟩ := bootTry_same s
    exact ⟨_, exec_bootRom_starts hboot hstep hrec (bootPick_plain hpend hst).1 hcode hm hrom, rfl, (congrArg Dev.state hdev).trans hboot, rfl, rfl, hsvn, hsvn⟩
  · obtain ⟨-, -, -, -, hdev, -, htrial⟩ := bootTry_same s
    refine ⟨_, exec_bootRom_starts hboot hstep hrec (bootPick_pending hpend).1 hcode hm hrom, rfl, (congrArg Dev.state hdev).trans hboot, rfl, ?_, rfl⟩
    refine htrial.trans ?_
    rw [(bootPick_pending hpend).2, Bool.or_false]
  · intro l s1 n blocks m hcheck hhad hgood
    have hwhole := exec_recoveryImageData_whole hrec hgo hcheck hhad hgood
    refine ⟨fun key loader hrom himg => ?_, fun himg => ?_⟩
    · refine hwhole.trans ?_
      have hrom' : romCheck (received s b) { img with blocks := blocksOf s b img caps (ihNblk img.header) } = some (key, loader) := hrom
      have himg' : imageGood (received s b) { img with blocks := blocksOf s b img caps (ihNblk img.header) } = true := himg
      rw [hrom', himg']
      rfl
    · refine hwhole.trans ?_
      have himg' : imageGood (received s b) { img with blocks := blocksOf s b img caps (ihNblk img.header) } = false := himg
      rw [himg']
      cases romCheck (received s b) { img with blocks := blocksOf s b img caps (ihNblk img.header) } <;> rfl

end Sys2Proof.Proofs.Boot
end

section
/-! PROOF. The ringmaster restarts, is held, and defers (R452-R456). -/
namespace Sys2Proof.Proofs.Ringmaster
open Sys2Proof.Machine Sys2Proof.Safety Sys2Proof.Laws Sys2Proof.Proofs.Firmware Sys2Proof.Proofs.Frames

section
variable {s : State}

/-! ### Restarts -/

theorem exec_restarts_not (h : s.stw.rm ≠ .running ∨ s.dev.state = .off ∨ s.dev.state = .boot) :
    exec .watchdogExpiry s = .next s ∧ (HostMay s pgStw → exec .restart s = .next s) :=
  ⟨if_pos h, fun hmay => (hostWr_of_hostMay hmay _).trans (if_pos h)⟩

/-- The expiries of the last ten minutes. -/
def recentExpiries (s : State) : List Nat := s.stw.expiries.filter (fun t => decide (stewardMs s < t + 600000))

/-- The state with one expiry more, and a trial ended by it. -/
def expired (s : State) : State := expireTrial { s with stw := { s.stw with expiries := recentExpiries s ++ [stewardMs s] } }

section
variable (hrm : s.stw.rm = .running) (hoff : s.dev.state ≠ .off) (hboot : s.dev.state ≠ .boot)
include hrm hoff hboot

theorem restarts : ¬ (s.stw.rm ≠ .running ∨ s.dev.state = .off ∨ s.dev.state = .boot) := by
  simp only [hrm, hoff, hboot, ne_eq, not_true_eq_false, or_self, not_false_iff]

theorem exec_restart_of_running (hmay : HostMay s pgStw) : exec .restart s = .next (rmRestart s true) :=
  (hostWr_of_hostMay hmay _).trans (if_neg (restarts hrm hoff hboot))

theorem exec_watchdogExpiry_of_running : exec .watchdogExpiry s =
    if (recentExpiries s).length ≥ 3 then .next (setSbAlert (raise (dropWork { expired s with stw := { (expired s).stw with rm := .held } }) pgStw 1 []) 2)
    else .next (rmRestart (expired s) false) := if_neg (restarts hrm hoff hboot)

end

/-! ### The work that a restart drops -/

theorem fwEnd_regionBusy (s : State) (n : Nat) : (fwEnd s n).regionBusy = s.regionBusy := by
  unfold fwEnd
  dsimp only
  split
  · exact (keeps_raise _ pgStw 4 [] (.refl _) (.refl _)).frame .regionBusy rfl
  · rfl

theorem stopStream_regionBusy (s : State) (slot n : Nat) : (stopStream s slot n).regionBusy = s.regionBusy := by
  have hmark : (markSlot s slot 0).regionBusy = s.regionBusy := (keeps_markSlot s slot 0 (.refl s) (.refl _)).frame .regionBusy rfl
  unfold stopStream
  rw [fwEnd_regionBusy]
  unfold setSlotImage
  split <;> exact hmark

/-- A region's re-registration that is under way is given up. -/
def dropRegion (s : State) : State :=
  match s.regionBusy with
  | none => s
  | some w => wrf (wrf { s with regionBusy := none, regions := tput s.regions w.index w.old } (pgNet 0 + 0x2A4) 0 1 0) (pgNet 0 + 0x2A4) 1 3 1

theorem dropRegion_idle (s : State) : (dropRegion s).regionBusy = none := by
  unfold dropRegion
  split
  · assumption
  · rfl

/-- A firmware command that is under way is given up. -/
def dropFw (s : State) : State :=
  match s.stw.fw with
  | none => s
  | some j => if j.stream then stopStream s j.slot 1 else fwEnd s 1

theorem dropFw_idle (s : State) : (dropFw s).stw.fw = none ∧ (dropFw s).regionBusy = s.regionBusy := by
  unfold dropFw
  split
  · exact ⟨by assumption, rfl⟩
  · split
    · exact ⟨congrArg Stw.fw (fwEnd_stw _ 1), stopStream_regionBusy s _ 1⟩
    · exact ⟨congrArg Stw.fw (fwEnd_stw s 1), fwEnd_regionBusy s 1⟩

theorem dropWork_idle (s : State) : (dropWork s).stw.fw = none ∧ (dropWork s).regionBusy = none := by
  have hdrop : ∃ t : State, dropWork s = dropFw (dropRegion t) := by
    unfold dropWork
    extract_lets late s1 s2 s3 s4
    clear_value s3
    have hregion : s4 = dropRegion s3 := by
      unfold s4 dropRegion
      split <;> simp only [*]
    refine ⟨s3, ?_⟩
    rw [← hregion]
    clear_value s4
    rfl
  obtain ⟨t, ht⟩ := hdrop
  obtain ⟨hfw, hbusy⟩ := dropFw_idle (dropRegion t)
  rw [ht]
  exact ⟨hfw, hbusy.trans (dropRegion_idle t)⟩

/-! ### Windows of load -/

/-- The windows in a row that are calm for a bound, with this one. -/
def calmCount (load bound calm : Nat) : Nat := if load ≤ bound then calm + 1 else 0

/-- Whether a deferral is in force after a window. -/
def defers (load start : Nat) (was : Bool) (calm : Nat) : Bool := decide (load ≥ start) || (was && decide (calm < 3))

/-- The state of a steward after a window of load. -/
def windowStw (w : Stw) (load : Nat) : Stw :=
  { w with
    load := load, calm3 := min (calmCount load 50 w.calm3) 3, calm23 := min (calmCount load 65 w.calm23) 3,
    defer3 := defers load 70 w.defer3 (calmCount load 50 w.calm3), defer23 := defers load 85 w.defer23 (calmCount load 65 w.calm23) }

/-- The event of a deferral that begins. -/
def raiseIf (c : Bool) (s : State) : State := if c then raise s pgStw 2 [] else s

theorem raiseIf_same (c : Bool) (s : State) : (raiseIf c s).stw = s.stw ∧ (raiseIf c s).reqs = s.reqs ∧ (raiseIf c s).hostMem = s.hostMem := by
  cases c with
  | false => exact ⟨rfl, rfl, rfl⟩
  | true => simp only [raiseIf, if_true, raise_same, and_self]

theorem exec_loadWindow_of_running {load : Nat} (hload : load ≤ 100) (hrm : s.stw.rm = .running) : ∃ t : State, exec (.loadWindow load) s = .next t ∧
    t.stw = windowStw s.stw load ∧ t.reqs = s.reqs ∧ t.hostMem = s.hostMem := by
  have hrun : exec (.loadWindow load) s = .next (raiseIf ((windowStw s.stw load).defer23 && !s.stw.defer23)
      (raiseIf ((windowStw s.stw load).defer3 && !s.stw.defer3) { s with stw := windowStw s.stw load })) :=
    (if_neg (Nat.not_lt.mpr hload)).trans (if_neg (not_not_intro hrm))
  refine ⟨_, hrun, ?_⟩
  simp only [raiseIf_same, and_self]

theorem defers_of_high {load start calm : Nat} {was : Bool} (h : start ≤ load) : defers load start was calm = true := by
  rw [defers, decide_eq_true h, Bool.true_or]

theorem defers_low {load start calm : Nat} {was : Bool} (h : load < start) : defers load start was calm = (was && decide (calm < 3)) := by
  rw [defers, decide_eq_false (Nat.not_le.mpr h), Bool.false_or]

theorem defers_none {load start calm : Nat} {was : Bool} (h : load < start) (hwas : was = false) : defers load start was calm = false := by
  rw [defers_low h, hwas, Bool.false_and]

/-- A deferral ends with the third calm window in a row. -/
theorem defers_ends_iff {load start bound calm : Nat} {was : Bool} (hwas : was = true) (h : load < start) :
    defers load start was (calmCount load bound calm) = false ↔ load ≤ bound ∧ 2 ≤ calm := by
  rw [defers_low h, hwas, Bool.true_and, decide_eq_false_iff_not, calmCount]
  split <;> omega

end

/-- Settles O51: the ringmaster's restarts, what they drop, and the deferrals. -/
theorem ringmasterRestartsAndDefers : Obligations.RingmasterRestartsAndDefers := by
  refine ⟨fun s => exec_restarts_not, fun s hrm hoff hboot => ⟨exec_restart_of_running hrm hoff hboot, fun hfew => ?_, fun hmany => ?_⟩, fun s op => rfl,
    dropWork_idle, fun s => ⟨fun h => if_pos h, fun h => if_neg h⟩, fun load s hload hrm => (if_neg (Nat.not_lt.mpr hload)).trans (if_pos hrm),
    fun load s hload hrm => ?_⟩
  · exact (exec_watchdogExpiry_of_running hrm hoff hboot).trans (if_neg (Nat.not_le.mpr hfew))
  · exact (exec_watchdogExpiry_of_running hrm hoff hboot).trans (if_pos hmany)
  · obtain ⟨t, ht, hstw, hreqs, hmem⟩ := exec_loadWindow_of_running hload hrm
    refine ⟨t, ht, ?_⟩
    rw [hstw]
    exact ⟨rfl, defers_of_high, defers_of_high, fun h hwas => defers_none h hwas, fun h hwas => defers_none h hwas,
      fun hwas h => defers_ends_iff hwas h, fun hwas h => defers_ends_iff hwas h, fun h => congrArg (min · 3) (if_pos h),
      fun h => (congrArg (min · 3) (if_neg (Nat.not_le.mpr h))).trans rfl, hreqs, hmem⟩

end Sys2Proof.Proofs.Ringmaster
end

section
/-! PROOF. The event recorder as the host reads it, capture settings and replay (R478-R480, R484, R489-R492, R499). -/
namespace Sys2Proof.Proofs.Recorder
open Sys2Proof.Machine Sys2Proof.Safety Sys2Proof.Laws Sys2Proof.Proofs.Firmware Sys2Proof.Proofs.Events

section
variable {s : State} {p : Fin 32}

/-! ### Reads, and the events that the recorder takes -/

theorem hostRd_of_hostMay {addr width : Nat} (h : HostMay s addr) (r : Res) : hostRd s addr width r = r := by
  obtain ⟨hreach, hide, hopen⟩ := h
  simp [hostRd, hostIo, hreach, hide, hopen]

theorem exec_evrWstatRead_of_hostMay (hmay : HostMay s pgEvr) : exec .evrWstatRead s =
    .next (recBad (emit s (.read (pgEvr + 0x114) 4 (windowStat s (rdf s (pgEvr + 0x110) 0 15)))) (badInWindow s (rdf s (pgEvr + 0x110) 0 15))) := by
  have hpage : HostMay s (pgEvr + 0x114) := hmay
  exact hostRd_of_hostMay hpage _

theorem evRecords_length (seq time : Nat) (e : Ev) : (evRecords seq time e).length = e.datas.length := by
  rw [evRecords, List.length_map, List.length_zip, List.length_range, Nat.min_self]

theorem evRecords_one {seq time : Nat} {e : Ev} {d : List Byte} (h : e.datas = [d]) :
    evRecords seq time e = [mkRecord (seq % 2 ^ 32) time e.island e.sev e.blk e.inst e.code d] := by
  rw [evRecords, h]
  rfl

/-- The record that a single event would become. -/
def wouldBe (s : State) (e : Ev) (d : List Byte) : List Byte :=
  mkRecord (s.evr.nextSeq % 2 ^ 32) (islandTime s e.island) e.island e.sev e.blk e.inst e.code d

theorem merges_of_repeat {e : Ev} {d l : List Byte} (hd : e.datas = [d]) (hl : s.evr.log.getLast? = some l) (hg : s.evr.inGroup = false)
    (hrep : recRepeat l < 0xFFFF) (hkey : recKey l = recKey (wouldBe s e d)) : merges s e = true := by
  unfold wouldBe at hkey
  simp only [merges, hl, evRecords_one hd, hkey, hg, hrep, decide_true, Bool.not_false, Bool.and_self]

theorem merges_iff {e : Ev} : merges s e = true ↔ ∃ d l : List Byte, e.datas = [d] ∧ s.evr.log.getLast? = some l ∧ s.evr.inGroup = false ∧
    recRepeat l < 0xFFFF ∧ recKey l = recKey (wouldBe s e d) := by
  constructor
  · intro h
    unfold merges at h
    split at h
    · next l r hl hr =>
      simp only [Bool.and_eq_true, decide_eq_true_eq, Bool.not_eq_true'] at h
      obtain ⟨⟨hkey, hg⟩, hrep⟩ := h
      have hlen : e.datas.length = 1 := by rw [← evRecords_length s.evr.nextSeq (islandTime s e.island) e, hr, List.length_singleton]
      obtain ⟨d, hd⟩ := List.length_eq_one_iff.mp hlen
      have hrec : [r] = [wouldBe s e d] := hr.symm.trans (evRecords_one hd)
      exact ⟨d, l, hd, hl, hg, hrep, hkey.trans (congrArg recKey (List.head_eq_of_cons_eq hrec))⟩
    · exact absurd h Bool.false_ne_true
  · rintro ⟨d, l, hd, hl, hg, hrep, hkey⟩
    exact merges_of_repeat hd hl hg hrep hkey

/-- The state with an event counted. -/
def counted (s : State) : State := bump s (pgEvr + 0x10C) 0 32 1

theorem accept1_repeats {e : Ev} (h : merges s e = true) : accept1 s e = { counted s with evr := repeated s.evr } := by
  rw [accept1_eq, takenEvr, if_pos h]
  rfl

theorem accept1_records {e : Ev} (h : merges s e = false) (hroom : s.evr.log.length + e.datas.length ≤ 32768) : accept1 s e =
    { counted s with evr := { s.evr with
      log := s.evr.log ++ evRecords s.evr.nextSeq (islandTime s e.island) e, nextSeq := (s.evr.nextSeq + e.datas.length) % 2 ^ 32,
      inGroup := decide (1 < e.datas.length) } } := by
  rw [accept1_eq, takenEvr, h, if_neg Bool.false_ne_true, lengthened, evRecords_length, if_pos hroom]
  rfl

theorem accept1_overflows {e : Ev} (h : merges s e = false) (hfull : 32768 < s.evr.log.length + e.datas.length) : accept1 s e =
    { counted s with evr := { s.evr with overflow := min (s.evr.overflow + 1) (2 ^ 32 - 1) } } := by
  rw [accept1_eq, takenEvr, h, if_neg Bool.false_ne_true, lengthened, evRecords_length, if_neg (Nat.not_le.mpr hfull)]
  rfl

/-! ### Capture settings -/

theorem exec_captCfgWrite_of_hostMay (v : Word) (hmay : HostMay s (pgCapt p.val)) : exec (.captCfgWrite p v) s =
    if captEn s p.val = true then .next (wrf s (pgCapt p.val + 0x100) 0 1 (bits v.toNat 0 1))
    else if (bit v.toNat 0 = true ∧ captBaseOk s p.val (bits v.toNat 8 4) = false) ∨
        ((bit v.toNat 1 = true ∨ bit v.toNat 2 = true) ∧ (s.part p.val).sealed = true) then
      .next (raise s (pgCapt p.val) 1 [])
    else .next (wr s (pgCapt p.val + 0x100) (bits v.toNat 0 3 + bits v.toNat 8 4 * 2 ^ 8 + bits v.toNat 16 5 * 2 ^ 16)) := by
  refine (hostWr_of_hostMay hmay _).trans ?_
  simp only [Bool.or_eq_true, Bool.and_eq_true, Bool.not_eq_true']

/-! ### Replay -/

/-- The state with a replay of a partition as given. -/
def withReplay (s : State) (p : Nat) (y : Replay) : State := { s with replay := tset {} s.replay p y }

theorem exec_replayStart_of_hostMay (d : Fin 4) (hmay : HostMay s (pgCapt p.val)) : exec (.replayStart p d) s =
    if (tget {} s.replay p.val).busy = true ∨ s.chip.replayCap = false then .next s
    else if s.stw.rm ≠ .running then .next (withReplay s p.val { tget {} s.replay p.val with result := 1 })
    else if replayTarget s p.val = false then .next (withReplay s p.val { tget {} s.replay p.val with result := 2 })
    else .next (if rd s (pgCapt p.val + 0x148) = 0 then endReplay (withReplay s p.val { busy := true, die := d.val }) p.val
      else withReplay s p.val { busy := true, die := d.val }) := by
  refine (hostWr_of_hostMay hmay _).trans ?_
  simp only [Bool.or_eq_true, Bool.not_eq_true']
  rfl

theorem exec_replayEntry_waits (h : (tget {} s.replay p.val).busy = false ∨ tget? s.reqs (tget {} s.replay p.val).cur ≠ none ∨ fetching s = false) :
    exec (.replayEntry p) s = .next s := by
  refine if_pos ?_
  simp only [Bool.or_eq_true, Bool.not_eq_true', Option.isSome_iff_ne_none, or_assoc]
  exact h

section
variable {at_ : Nat} (hat : rd64 s (pgCapt p.val + 0x140) + (tget ({} : Replay) s.replay p.val).pos = at_) (hbusy : (tget {} s.replay p.val).busy = true)
  (hcur : tget? s.reqs (tget {} s.replay p.val).cur = none) (hfetch : fetching s = true)
include hat hbusy hcur hfetch

/-- A replay reads the head of the entry at its place, which is `at_`. -/
theorem exec_replayEntry_reads : exec (.replayEntry p) s = match refRead s p.val at_ 64 with
    | (none, s1) => .next (endReplay s1 p.val)
    | (some h, s1) => .next (replayHead s1 p.val (tget {} s.replay p.val) at_ (rd s (pgCapt p.val + 0x148)) h) := by
  have hgo : ¬ (!(tget ({} : Replay) s.replay p.val).busy || (tget? s.reqs (tget ({} : Replay) s.replay p.val).cur).isSome || !fetching s) = true := by
    rw [hbusy, hcur, hfetch]
    decide
  simp only [exec, execReplayEntry]
  rw [if_neg hgo, hat] <;> rfl

theorem exec_replayEntry_unread {s1 : State} (h : refRead s p.val at_ 64 = (none, s1)) : exec (.replayEntry p) s = .next (endReplay s1 p.val) := by
  rw [exec_replayEntry_reads hat hbusy hcur hfetch, h]

theorem exec_replayEntry_head {s1 : State} {h : List Byte} (hread : refRead s p.val at_ 64 = (some h, s1)) :
    exec (.replayEntry p) s = .next (replayHead s1 p.val (tget {} s.replay p.val) at_ (rd s (pgCapt p.val + 0x148)) h) := by
  rw [exec_replayEntry_reads hat hbusy hcur hfetch, hread]

end

variable {q at_ len : Nat} {x : Replay} {h : List Byte}

theorem replayHead_ends (hbad : len < x.pos + 64 ∨ le h 0 2 ≠ 0xCA97 ∨ le h 2 1 ≠ 1 ∨ le h 4 4 < 64 ∨ le h 4 4 % 64 ≠ 0 ∨ len < x.pos + le h 4 4) :
    replayHead s q x at_ len h = endReplay s q := if_pos hbad

section
variable (h64 : x.pos + 64 ≤ len) (hmagic : le h 0 2 = 0xCA97) (hver : le h 2 1 = 1) (hmin : 64 ≤ le h 4 4) (hmod : le h 4 4 % 64 = 0)
  (hin : x.pos + le h 4 4 ≤ len)
include h64 hmagic hver hmin hmod hin

theorem replayHead_good : ¬ (x.pos + 64 > len ∨ le h 0 2 ≠ 0xCA97 ∨ le h 2 1 ≠ 1 ∨ le h 4 4 < 64 ∨ le h 4 4 % 64 ≠ 0 ∨ x.pos + le h 4 4 > len) := by
  omega

/-- What is no entry is passed over. -/
theorem replayHead_passes (hno : le h 3 1 ≠ 1 ∨ le h 4 4 < 256) : replayHead s q x at_ len h =
    if x.pos + le h 4 4 ≥ len then endReplay (withReplay s q { x with pos := x.pos + le h 4 4 }) q else withReplay s q { x with pos := x.pos + le h 4 4 } :=
  (if_neg (replayHead_good h64 hmagic hver hmin hmod hin)).trans (if_pos hno)

theorem replayHead_entry (hkind : le h 3 1 = 1) (hlong : 256 ≤ le h 4 4) : replayHead s q x at_ len h =
    match refRead s q at_ (le h 4 4) with
    | (none, s1) => endReplay s1 q
    | (some e, s1) => playEntry s1 q x { x with pos := x.pos + le h 4 4 } at_ e :=
  (if_neg (replayHead_good h64 hmagic hver hmin hmod hin)).trans ((if_neg (by omega)).trans rfl)

end

theorem replayDesc_newId (s : State) (q at_ : Nat) (e : List Byte) : replayDesc (newId s).2 q at_ e = replayDesc s q at_ e := by
  have hfields : ∀ d : List Byte, refFields (newId s).2 q d = refFields s q d := fun _ => rfl
  simp only [replayDesc, hfields]

theorem playEntry_skips {y : Replay} {e : List Byte} (hskip : enSkipped s e x.prev = true) : playEntry s q x y at_ e =
    putVerdict (withReplay s q y) q (enSeq e) (enStatus e) 0 { code := 3 } := if_pos hskip

theorem playEntry_runs {y : Replay} {e : List Byte} (hskip : enSkipped s e x.prev = false) : playEntry s q x y at_ e =
    replayAdmit (withReplay (newId s).2 q { y with cur := (newId s).1 }) (newId s).1
      { ring := 1024 * x.die, desc := replayDesc (newId s).2 q at_ e, part := q, replay := true, route := replayRoute, entry := e } := by
  rw [replayDesc_newId]
  exact if_neg (ne_true_of_eq_false hskip)

end

/-- Settles O52: the recorder's window and records, capture settings, the metering latch, and replay. -/
theorem recorderCaptureAndReplay : Obligations.RecorderCaptureAndReplay := by
  refine ⟨⟨fun s => exec_evrWstatRead_of_hostMay, fun s e => ⟨counted s, rfl, fun d l hd hl hg hrep hkey => ?_, fun hno => ?_⟩,
      fun p v s hmay => ⟨fun hen => ?_, fun hen hbad => ?_, fun hen hbase hseal => ?_⟩, fun p s hmay => hostWr_of_hostMay hmay _⟩,
    fun p d s hmay => ⟨fun h => ?_, fun hidle hcap => ⟨fun hrm => ?_, fun hrm hbad => ?_, fun hrm hgood => ?_⟩, fun hcap => ?_, fun hcap => ?_⟩,
    fun p s => ⟨exec_replayEntry_waits, fun s1 hbusy hcur hfetch hread => exec_replayEntry_unread rfl hbusy hcur hfetch hread,
      fun s1 h hbusy hcur hfetch hread => ⟨fun hbad => ?_, fun h64 hmagic hver hmin hmod hin hno => ?_, fun s2 h64 hmagic hver hlong hmod hin hkind hread2 => ?_,
        fun h64 hmagic hver hlong hmod hin hkind s2 e hread2 => ?_⟩⟩⟩
  · exact accept1_repeats (merges_of_repeat hd hl hg hrep hkey)
  · have hmerge : merges s e = false := by
      rw [← Bool.not_eq_true, merges_iff]
      rintro ⟨d, l, hd, hl, hg, hrep, hkey⟩
      rcases hno d l hd hl with h | h | h
      · exact Bool.false_ne_true (hg.symm.trans h)
      · exact absurd hrep (Nat.not_lt.mpr h)
      · exact h hkey
    exact ⟨accept1_records hmerge, accept1_overflows hmerge⟩
  · exact (exec_captCfgWrite_of_hostMay v hmay).trans (if_pos hen)
  · exact (exec_captCfgWrite_of_hostMay v hmay).trans ((if_neg (ne_true_of_eq_false hen)).trans (if_pos hbad))
  · refine (exec_captCfgWrite_of_hostMay v hmay).trans ((if_neg (ne_true_of_eq_false hen)).trans (if_neg ?_))
    rintro (⟨h0, hbad⟩ | ⟨h12, hsealed⟩)
    · rcases hbase with h | h
      · exact Bool.false_ne_true (h.symm.trans h0)
      · exact Bool.false_ne_true (hbad.symm.trans h)
    · rcases hseal with ⟨h1, h2⟩ | h
      · rcases h12 with h | h
        · exact Bool.false_ne_true (h1.symm.trans h)
        · exact Bool.false_ne_true (h2.symm.trans h)
      · exact Bool.false_ne_true (h.symm.trans hsealed)
  · exact (exec_replayStart_of_hostMay d hmay).trans (if_pos h)
  · have hgo : ¬ ((tget {} s.replay p.val).busy = true ∨ s.chip.replayCap = false) := not_or.mpr ⟨ne_true_of_eq_false hidle, Bool.not_eq_false _ |>.mpr hcap⟩
    exact (exec_replayStart_of_hostMay d hmay).trans ((if_neg hgo).trans (if_pos hrm))
  · have hgo : ¬ ((tget {} s.replay p.val).busy = true ∨ s.chip.replayCap = false) := not_or.mpr ⟨ne_true_of_eq_false hidle, Bool.not_eq_false _ |>.mpr hcap⟩
    exact (exec_replayStart_of_hostMay d hmay).trans ((if_neg hgo).trans ((if_neg (not_not_intro hrm)).trans (if_pos hbad)))
  · have hgo : ¬ ((tget {} s.replay p.val).busy = true ∨ s.chip.replayCap = false) := not_or.mpr ⟨ne_true_of_eq_false hidle, Bool.not_eq_false _ |>.mpr hcap⟩
    exact (exec_replayStart_of_hostMay d hmay).trans ((if_neg hgo).trans ((if_neg (not_not_intro hrm)).trans (if_neg (Bool.not_eq_false _ |>.mpr hgood))))
  · exact (hostWr_of_hostMay hmay _).trans (if_pos hcap)
  · exact (hostWr_of_hostMay hmay _).trans (if_neg (ne_true_of_eq_false hcap))
  · rw [exec_replayEntry_head rfl hbusy hcur hfetch hread, replayHead_ends hbad]
  · have hpass := exec_replayEntry_head rfl hbusy hcur hfetch hread
    rw [replayHead_passes h64 hmagic hver hmin hmod hin hno] at hpass
    exact ⟨fun hend => hpass.trans (congrArg Host.Outcome.next (if_pos hend)), fun hmore => hpass.trans (congrArg Host.Outcome.next (if_neg (Nat.not_le.mpr hmore)))⟩
  · have hentry := exec_replayEntry_head rfl hbusy hcur hfetch hread
    rw [replayHead_entry h64 hmagic hver (by omega) hmod hin hkind hlong, hread2] at hentry
    exact hentry
  · have hentry := exec_replayEntry_head rfl hbusy hcur hfetch hread
    rw [replayHead_entry h64 hmagic hver (by omega) hmod hin hkind hlong, hread2] at hentry
    refine ⟨fun hskip => hentry.trans ?_, fun hskip => hentry.trans ?_⟩
    · exact congrArg Host.Outcome.next (playEntry_skips hskip)
    · exact congrArg Host.Outcome.next (playEntry_runs hskip)

end Sys2Proof.Proofs.Recorder
end

section
/-! PROOF. The fatal dump is begun, completed, copied and released (R493-R497). -/
namespace Sys2Proof.Proofs.Dumps
open Sys2Proof.Machine Sys2Proof.Safety Sys2Proof.Laws Sys2Proof.Proofs.Firmware Sys2Proof.Proofs.Events

section
variable {s : State} {n : Nat}

/-! ### The slots, and what an event leaves of them -/

/-- The parts of the recorder that no event changes. -/
def SameDumps (x y : Evr) : Prop := y.dump0 = x.dump0 ∧ y.dump1 = x.dump1 ∧ y.dumpNo = x.dumpNo ∧ y.newest = x.newest ∧ y.active = x.active ∧ y.cause = x.cause

theorem SameDumps.trans {x y z : Evr} (h : SameDumps x y) (h' : SameDumps y z) : SameDumps x z := by
  obtain ⟨h0, h1, hno, hnew, hact, hcause⟩ := h
  obtain ⟨h0', h1', hno', hnew', hact', hcause'⟩ := h'
  exact ⟨h0'.trans h0, h1'.trans h1, hno'.trans hno, hnew'.trans hnew, hact'.trans hact, hcause'.trans hcause⟩

theorem sameDumps_accept1 (s : State) (e : Ev) : SameDumps s.evr (accept1 s e).evr := by
  rw [accept1_evr, takenEvr]
  split
  · exact ⟨rfl, rfl, rfl, rfl, rfl, rfl⟩
  · split <;> exact ⟨rfl, rfl, rfl, rfl, rfl, rfl⟩

theorem sameDumps_accept (s : State) (e : Ev) : SameDumps s.evr (accept s e).evr := by
  have hone := sameDumps_accept1 s e
  unfold accept
  dsimp only
  split
  · refine hone.trans ?_
    have hnext := sameDumps_accept1 (setEvt (accept1 s e) pgEvr 0) { island := 0, sev := 0, blk := 0x071, inst := 0, code := 0, datas := [[]] }
    rwa [setEvt_evr] at hnext
  · exact hone

theorem dumpSlot_of_same {t : State} (h : SameDumps s.evr t.evr) (n : Nat) : dumpSlot t n = dumpSlot s n := by
  obtain ⟨h0, h1, -⟩ := h
  rw [dumpSlot, dumpSlot, h0, h1]

theorem dumpSlot_putDump (s : State) (n : Nat) (d : DumpSlot) : dumpSlot (putDump s n d) n = d := by
  unfold dumpSlot putDump
  by_cases h : n = 0 <;> simp only [h, if_true, if_false]

theorem putDump_same (s : State) (n : Nat) (d : DumpSlot) : (putDump s n d).dev = s.dev ∧ (putDump s n d).hostMem = s.hostMem ∧
    (putDump s n d).evr.cause = s.evr.cause := by
  unfold putDump
  split <;> exact ⟨rfl, rfl, rfl⟩

/-! ### The slot that a new dump takes -/

theorem dumpChoice_empty0 (h : s.evr.dump0.state = .empty) : dumpChoice s = 0 := if_pos h

theorem dumpChoice_empty1 (h0 : s.evr.dump0.state ≠ .empty) (h1 : s.evr.dump1.state = .empty) : dumpChoice s = 1 := (if_neg h0).trans (if_pos h1)

theorem dumpChoice_released0 (h0 : s.evr.dump0.state = .released) (h1 : s.evr.dump1.state = .unreleased) : dumpChoice s = 0 := by
  simp only [dumpChoice, h0, h1, reduceCtorEq, and_false, if_false, if_true]

theorem dumpChoice_released1 (h0 : s.evr.dump0.state = .unreleased) (h1 : s.evr.dump1.state = .released) : dumpChoice s = 1 := by
  simp only [dumpChoice, h0, h1, reduceCtorEq, false_and, if_false, if_true]

theorem dumpChoice_newest (h0 : s.evr.dump0.state = .unreleased) (h1 : s.evr.dump1.state = .unreleased) (hh0 : s.evr.dump0.header = true)
    (hh1 : s.evr.dump1.header = true) (hne : s.evr.dump0.no ≠ s.evr.dump1.no) : dumpChoice s = (if s.evr.dump1.no < s.evr.dump0.no then 0 else 1) := by
  have hlt : s.evr.dump1.no ≤ s.evr.dump0.no ↔ s.evr.dump1.no < s.evr.dump0.no := by omega
  simp only [dumpChoice, h0, h1, hh0, hh1, reduceCtorEq, false_and, if_false, Bool.not_true, Bool.true_and, Bool.false_or, decide_eq_true_eq, hlt]

theorem dumpChoice_oldest (h0 : s.evr.dump0.state = .released) (h1 : s.evr.dump1.state = .released) (hne : s.evr.dump0.no ≠ s.evr.dump1.no) :
    dumpChoice s = (if s.evr.dump0.no < s.evr.dump1.no then 0 else 1) := by
  have hlt : s.evr.dump0.no ≤ s.evr.dump1.no ↔ s.evr.dump0.no < s.evr.dump1.no := by omega
  simp only [dumpChoice, h0, h1, reduceCtorEq, if_false, and_self, if_true, hlt]

/-! ### A dump begins -/

/-- The slot of a dump that has begun, with its header. -/
def begunSlot (s : State) (red : Bool) : DumpSlot :=
  { state := .incomplete, no := s.evr.dumpNo + 1, header := true, reduced := red,
    bytes := mwrite [] 0 (dumpHeader s red false (s.evr.dumpNo + 1) (s.evr.cause.getD []) (sectTable s red 7 1 4096)) }

/-- The state with a dump begun, before its event. -/
def begun (s : State) (red : Bool) : State :=
  let s1 := putDump s (dumpChoice s) (begunSlot s red)
  { s1 with evr := { s1.evr with active := some (dumpChoice s), dumpNo := s.evr.dumpNo + 1, newest := dumpChoice s } }

theorem beginDump_eq (s : State) (red : Bool) : ∃ e : Ev, beginDump s red = accept (begun s red) e := ⟨_, rfl⟩

theorem dumpSlot_begun (s : State) (red : Bool) : dumpSlot (begun s red) (dumpChoice s) = begunSlot s red := dumpSlot_putDump s (dumpChoice s) (begunSlot s red)

theorem beginDump_begins (s : State) (red : Bool) : (beginDump s red).evr.active = some (dumpChoice s) ∧ (beginDump s red).evr.dumpNo = s.evr.dumpNo + 1 ∧
    dumpSlot (beginDump s red) (dumpChoice s) = begunSlot s red := by
  obtain ⟨e, he⟩ := beginDump_eq s red
  have hsame := sameDumps_accept (begun s red) e
  rw [he]
  refine ⟨?_, ?_, (dumpSlot_of_same hsame _).trans (dumpSlot_begun s red)⟩
  · obtain ⟨-, -, -, -, hact, -⟩ := hsame
    rw [hact]
    rfl
  · obtain ⟨-, -, hno, -⟩ := hsame
    rw [hno]
    rfl

theorem reduceDump_none (h : s.evr.active = none) : reduceDump s = beginDump s true := by rw [reduceDump, h]

theorem dumpSlot_reduceDump (hact : s.evr.active = some n) : dumpSlot (reduceDump s) n = { dumpSlot s n with
    reduced := true,
    bytes := mwrite [] 0 (dumpHeader s true false (dumpSlot s n).no (s.evr.cause.getD []) (sectTable s true 7 1 4096)) } := by
  rw [reduceDump, hact]
  exact dumpSlot_putDump s n _

theorem exec_dumpStart_not (h : s.dev.state ≠ .dump ∨ s.evr.active ≠ none ∨ s.stw.rm = .restarting) : exec .dumpStart s = .next s := by
  by_cases hgo : s.dev.state ≠ .dump ∨ s.evr.active.isSome = true
  · exact if_pos hgo
  · have hrm : s.stw.rm = .restarting := by
      rw [Option.isSome_iff_ne_none] at hgo
      rcases h with h | h | h
      · exact absurd (.inl h) hgo
      · exact absurd (.inr h) hgo
      · exact h
    refine (if_neg hgo).trans ?_
    rw [hrm]

section
variable (hdump : s.dev.state = .dump)
include hdump

theorem exec_dumpStart_of_dump (hact : s.evr.active = none) : exec .dumpStart s = match s.stw.rm with
    | .restarting => .next s
    | .held => .next (beginDump s true)
    | .running => .next (beginDump s false) :=
  if_neg (by simp only [hdump, hact, ne_eq, not_true_eq_false, Option.isSome_none, Bool.false_eq_true, or_self, not_false_iff])

theorem exec_dumpTimeout_none (hact : s.evr.active = none) : exec .dumpTimeout s = .next (beginDump s true) := by
  refine (if_neg (not_not_intro hdump)).trans ?_
  rw [hact, ← reduceDump_none hact]

theorem exec_dumpTimeout_some (hact : s.evr.active = some n) : exec .dumpTimeout s =
    if (dumpSlot s n).reduced = true then .next s else .next (reduceDump s) := by
  refine (if_neg (not_not_intro hdump)).trans ?_
  rw [hact]

end

theorem exec_dumpComplete_none (hact : s.evr.active = none) : exec .dumpComplete s = .next s := by
  simp only [exec, execDumpComplete, hact]

/-- The state of a device in `HALT` after a written dump. -/
def halted (s : State) : State :=
  setSbAlert { s with
    evr := { s.evr with active := none, cause := none },
    dev := { s.dev with state := .halt, tripN := s.dev.tripN && !s.dev.tripped } } 1

theorem exec_dumpComplete_some (hact : s.evr.active = some n) : exec .dumpComplete s =
    if s.dev.state ≠ .dump ∨ (s.stw.rm ≠ .running ∧ (dumpSlot s n).reduced = false) then .next s else .next (halted (writeDump s n)) := by
  simp only [exec, execDumpComplete, hact] <;> rfl

/-! ### The sections are written -/

/-- Drawing of free values changes the supply of them alone. -/
def SameButDrawn (s t : State) : Prop := t.dev = s.dev ∧ t.hostMem = s.hostMem ∧ t.evr = s.evr

theorem sameButDrawn_sectBytes (s : State) (n off : Nat) (m : Tab Byte) : SameButDrawn s (sectBytes s n off m).2 := by
  unfold sectBytes
  split <;> exact ⟨rfl, rfl, rfl⟩

theorem sameButDrawn_sections (l : List (Nat × Nat × Nat × Nat)) (a : Tab Byte × State) :
    SameButDrawn a.2 (l.foldl (fun (a : Tab Byte × State) e => sectBytes a.2 e.1 e.2.2.2 a.1) a).2 := by
  induction l generalizing a with
  | nil => exact ⟨rfl, rfl, rfl⟩
  | cons e l ih =>
    obtain ⟨hdev, hmem, hevr⟩ := ih (sectBytes a.2 e.1 e.2.2.2 a.1)
    obtain ⟨hdev', hmem', hevr'⟩ := sameButDrawn_sectBytes a.2 e.1 e.2.2.2 a.1
    exact ⟨hdev.trans hdev', hmem.trans hmem', hevr.trans hevr'⟩

theorem writeDump_writes (s : State) (n : Nat) : ∃ (t : State) (b : Tab Byte), SameButDrawn s t ∧
    writeDump s n = putDump t n { dumpSlot s n with state := .unreleased, bytes := b } :=
  ⟨_, _, sameButDrawn_sections ((sectTable s (dumpSlot s n).reduced 7 1 4096).filter (fun e => decide (e.2.1 = 0))) ([], s), rfl⟩

theorem halted_alertN (s : State) : (halted s).dev.alertN = false := by
  have hset : s.pwr.sbAlert ||| 1 ≠ 0 := fun h => by
    have hbit := congrArg (Nat.testBit · 0) h
    simp at hbit
  exact (congrArg (s.dev.alertN && ·) (decide_eq_false hset)).trans (Bool.and_false _)

theorem dumpSlot_halted (s : State) (n : Nat) : dumpSlot (halted s) n = dumpSlot s n := rfl

theorem exec_dumpComplete_halts (hdump : s.dev.state = .dump) (hact : s.evr.active = some n) (hgo : s.stw.rm = .running ∨ (dumpSlot s n).reduced = true) :
    ∃ t : State, exec .dumpComplete s = .next t ∧ t.dev.state = .halt ∧ t.evr.active = none ∧ t.evr.cause = none ∧ t.dev.alertN = false ∧
      (t.dev.tripN = true ↔ s.dev.tripN = true ∧ s.dev.tripped = false) ∧ t.hostMem = s.hostMem ∧
      (n ≤ 1 → (dumpSlot t n).state = .unreleased ∧ (dumpSlot t n).no = (dumpSlot s n).no) := by
  have hready : ¬ (s.dev.state ≠ .dump ∨ (s.stw.rm ≠ .running ∧ (dumpSlot s n).reduced = false)) := by
    rintro (h | ⟨hrm, hred⟩)
    · exact h hdump
    · rcases hgo with h | h
      · exact hrm h
      · exact Bool.false_ne_true (hred.symm.trans h)
  obtain ⟨u, b, ⟨hdev, hmem, -⟩, hwrite⟩ := writeDump_writes s n
  obtain ⟨hdev', hmem', -⟩ := putDump_same u n { dumpSlot s n with state := .unreleased, bytes := b }
  rw [← hwrite] at hdev' hmem'
  refine ⟨_, (exec_dumpComplete_some hact).trans (if_neg hready), rfl, rfl, rfl, halted_alertN _, ?_, hmem'.trans hmem, fun _ => ?_⟩
  · have htrip : (halted (writeDump s n)).dev.tripN = (s.dev.tripN && !s.dev.tripped) := by
      rw [← hdev, ← hdev']
      rfl
    rw [htrip, Bool.and_eq_true, Bool.not_eq_true']
  · rw [dumpSlot_halted, hwrite, dumpSlot_putDump]
    exact ⟨rfl, rfl⟩

/-! ### Copy and release -/

section
variable (hmay : HostMay s pgEvr)
include hmay

theorem exec_dumpCopy_of_hostMay : exec .dumpCopy s =
    if (dumpSlot s (rdf s (pgEvr + 0x144) 0 1)).state = .empty then .next { s with evr := { s.evr with result := 1 } }
    else if s.cxl.cacheEn = false then .next { s with evr := { s.evr with result := 2 } }
    else
      let b := mread (dumpSlot s (rdf s (pgEvr + 0x144) 0 1)).bytes (rd64 s (pgEvr + 0x148)) (rd s (pgEvr + 0x158))
      let t := if b.isEmpty then s else issueWrite s (.host (rd64 s (pgEvr + 0x150)) b)
      .next { t with evr := { t.evr with result := 0 } } := by
  refine (hostWr_of_hostMay hmay _).trans ?_
  simp only [Bool.not_eq_true']

theorem exec_dumpRelease_of_hostMay : exec .dumpRelease s =
    if (dumpSlot s (rdf s (pgEvr + 0x144) 0 1)).state = .empty then .next { s with evr := { s.evr with result := 1 } }
    else
      let t := putDump s (rdf s (pgEvr + 0x144) 0 1) { dumpSlot s (rdf s (pgEvr + 0x144) 0 1) with state := .released }
      .next { t with evr := { t.evr with result := 0 } } := hostWr_of_hostMay hmay _

end

theorem mread_isEmpty {m : Tab Byte} {a k : Nat} (hk : k ≠ 0) : (mread m a k).isEmpty = false := by
  rw [mread, List.isEmpty_eq_false_iff, ← List.length_pos_iff, List.length_map, List.length_range]
  exact Nat.pos_of_ne_zero hk

end

/-- Settles O53: how the fatal dump is begun, reduced, completed, copied and released. -/
theorem dumpsAreWritten : Obligations.DumpsAreWritten := by
  refine ⟨fun s => exec_dumpStart_not, fun s hdump hact => ⟨fun hrm => ?_, fun hrm => ?_, exec_dumpTimeout_none hdump hact⟩, fun s hdump => ⟨if_pos hdump, ?_⟩,
    fun s n hdump hact => ⟨fun hred => ?_, fun hred => ?_, fun hrm hred => ?_, exec_dumpComplete_halts hdump hact⟩, fun s => exec_dumpComplete_none,
    fun s => ⟨dumpChoice_empty0, dumpChoice_empty1, dumpChoice_released0, dumpChoice_released1, dumpChoice_newest, dumpChoice_oldest⟩, fun s red => ?_,
    fun s n hact _ => dumpSlot_reduceDump hact, fun s hmay => ⟨fun hempty => ⟨?_, ?_⟩, fun hheld hoff => ?_, fun hheld hon hlen => ⟨_, rfl, ?_⟩, fun hheld => ?_⟩⟩
  · rw [exec_dumpStart_of_dump hdump hact, hrm]
  · rw [exec_dumpStart_of_dump hdump hact, hrm]
  · cases hact : s.evr.active with
    | none => exact exec_dumpComplete_none hact
    | some n => exact (exec_dumpComplete_some hact).trans (if_pos (.inl hdump))
  · exact (exec_dumpTimeout_some hdump hact).trans (if_pos hred)
  · exact (exec_dumpTimeout_some hdump hact).trans (if_neg (ne_true_of_eq_false hred))
  · exact (exec_dumpComplete_some hact).trans (if_pos (.inr ⟨hrm, hred⟩))
  · obtain ⟨hact, hno, hslot⟩ := beginDump_begins s red
    refine ⟨_, rfl, hact, hno, ?_⟩
    rw [hslot]
    exact ⟨rfl, rfl, rfl, rfl⟩
  · exact (exec_dumpCopy_of_hostMay hmay).trans (if_pos hempty)
  · exact (exec_dumpRelease_of_hostMay hmay).trans (if_pos hempty)
  · exact (exec_dumpCopy_of_hostMay hmay).trans ((if_neg hheld).trans (if_pos hoff))
  · refine (exec_dumpCopy_of_hostMay hmay).trans ((if_neg hheld).trans ((if_neg (Bool.not_eq_false _ |>.mpr hon)).trans ?_))
    dsimp only
    rw [mread_isEmpty hlen, if_neg Bool.false_ne_true]
  · exact (exec_dumpRelease_of_hostMay hmay).trans (if_neg hheld)

end Sys2Proof.Proofs.Dumps
end

section
/-! PROOF. A reset gives up the repairs of a stack that the ringmaster has not written (R278, R280, R509). -/
namespace Sys2Proof.Proofs.Resets
open Sys2Proof.Machine Sys2Proof.Safety Sys2Proof.Laws

/-- A device in `READY` whose stack 0 has one repair, which no ringmaster has written yet. -/
def unwrittenRepair : State :=
  { dev := { state := .ready, pagesOpen := true }, hbm := [(0, { log := [{ row := 7 }], unwritten := 1 })] }

theorem exec_resetN_of_on {s : State} (h : s.dev.state ≠ .off) : exec .resetN s = .next (throughBoot s 2) := if_neg h

/-- The repair log after the reset has lost the repair. -/
theorem throughBoot_unwrittenRepair_log : ((throughBoot unwrittenRepair 2).hbmc 0).log = [] := by decide +kernel

/-- Refutes O54: its clause on `RESET_N` keeps the whole repair log of every stack, but a passage through `BOOT` gives up the repairs that the ringmaster has
not written (R278): after `RESET_N` the log of `unwrittenRepair` is empty. -/
theorem not_powerAndResets : ¬ Obligations.PowerAndResets := by
  unfold Obligations.PowerAndResets
  rintro ⟨-, -, -, -, -, -, hreset, -⟩
  have hon : unwrittenRepair.dev.state ≠ .off := by decide
  obtain ⟨t, u, ht, -, -, -, -, -, -, -, -, -, -, -, -, hstacks, -⟩ := hreset unwrittenRepair hon
  have hafter : throughBoot unwrittenRepair 2 = t := Host.Outcome.next.inj ((exec_resetN_of_on hon).symm.trans ht)
  obtain ⟨-, hlog⟩ := hstacks (by decide +kernel) 0
  rw [← hafter, throughBoot_unwrittenRepair_log] at hlog
  exact absurd hlog (by decide +kernel)

end Sys2Proof.Proofs.Resets
end

section
/-! PROOF. Power steps, thermal steps, the thermal trip and drain (R219, R515-R522). -/
namespace Sys2Proof.Proofs.Thermal
open Sys2Proof.Machine Sys2Proof.Safety Sys2Proof.Laws Sys2Proof.Proofs.Firmware Sys2Proof.Proofs.Frames Sys2Proof.Proofs.Ports Sys2Proof.Proofs.Dumps

/-- A property that every step with an element of a list keeps. -/
theorem foldl_keeps_mem {α β : Type} {f : β → α → β} {P : β → Prop} {l : List α} (hkeep : ∀ a ∈ l, ∀ s, P s → P (f s a)) {s : β} (h : P s) : P (l.foldl f s) := by
  induction l generalizing s with
  | nil => exact h
  | cons a l ih => exact ih (fun c hc => hkeep c (List.mem_cons_of_mem a hc)) (hkeep a (List.mem_cons_self ..) s h)

section
variable {s : State}

/-! ### What events leave of the power controller -/

/-- Two states of the power controller that differ in the alert bits alone. -/
def SameButAlert (x y : Pwr) : Prop := ∃ a, y = { x with sbAlert := a }

theorem SameButAlert.refl (x : Pwr) : SameButAlert x x := ⟨x.sbAlert, rfl⟩

theorem SameButAlert.trans {x y z : Pwr} (h : SameButAlert x y) (h' : SameButAlert y z) : SameButAlert x z := by
  obtain ⟨a, rfl⟩ := h
  obtain ⟨b, rfl⟩ := h'
  exact ⟨b, rfl⟩

theorem sameButAlert_of_eq {x y : Pwr} (h : y = x) : SameButAlert x y := h ▸ SameButAlert.refl y

theorem accept_pwr (s : State) (e : Ev) : (accept s e).pwr = s.pwr := (keeps_accept s e (.refl s) (.refl _)).frame .pwr rfl

theorem accept_dev (s : State) (e : Ev) : (accept s e).dev = s.dev := (keeps_accept s e (.refl s) (.refl _)).frame .dev rfl

theorem raise_pwr (s : State) (pg b : Nat) (d : List Byte) : (raise s pg b d).pwr = s.pwr := (keeps_raise s pg b d (.refl s) (.refl _)).frame .pwr rfl

theorem sameButAlert_setSbAlert (s : State) (m : Nat) : SameButAlert s.pwr (setSbAlert s m).pwr := ⟨_, rfl⟩

theorem sameButAlert_enterDump (s : State) (c : List Byte) : SameButAlert s.pwr (enterDump s c).pwr := by
  unfold enterDump
  split <;> exact ⟨_, rfl⟩

theorem sameButAlert_record (s : State) (island sev blk inst code : Nat) (d : List Byte) : SameButAlert s.pwr (record s island sev blk inst code d).pwr := by
  unfold record
  dsimp only
  split
  · refine .trans (sameButAlert_of_eq ?_) (sameButAlert_enterDump _ _)
    exact accept_pwr _ _
  · exact sameButAlert_of_eq (accept_pwr _ _)

theorem reduceDump_same (s : State) : (reduceDump s).pwr = s.pwr ∧ (reduceDump s).dev = s.dev := by
  have hput : ∀ (t : State) (n : Nat) (d : DumpSlot), (putDump t n d).pwr = t.pwr ∧ (putDump t n d).dev = t.dev := fun t n d => by
    unfold putDump
    split <;> exact ⟨rfl, rfl⟩
  cases hact : s.evr.active with
  | none =>
    obtain ⟨e, he⟩ := beginDump_eq s true
    rw [reduceDump_none hact, he, accept_pwr, accept_dev]
    exact hput s _ _
  | some n =>
    rw [reduceDump, hact]
    exact hput s _ _

theorem sameButAlert_trip (s : State) (src : Nat) (t : Int) : SameButAlert s.pwr (trip s src t).pwr := by
  unfold trip
  dsimp only
  split
  · exact .refl _
  · exact .refl _
  · exact sameButAlert_record { s with dev := { s.dev with tripped := true } } _ _ _ _ _ _
  · rw [(reduceDump_same _).1]
    exact sameButAlert_record { s with dev := { s.dev with tripped := true } } _ _ _ _ _ _

theorem sameButAlert_stepChange (s : State) (old : Nat) : SameButAlert s.pwr (stepChange s old).pwr := by
  unfold stepChange
  dsimp only
  split
  · exact .refl _
  · refine .trans (sameButAlert_of_eq ?_) (sameButAlert_record _ _ _ _ _ _ _)
    exact (raise_pwr _ _ _ _).trans rfl

/-! ### A power measurement -/

section
variable {mv ca w : Nat}

/-- The measurements with a new one. -/
def history (s : State) (w : Nat) : List Nat := (w :: s.pwr.hist).take 1000

/-- Mode and cap that a measurement takes. -/
def nextMode (s : State) : Nat × Nat := s.pwr.nextMode.getD (s.pwr.mode, s.pwr.cap)

/-- The controller with a measurement entered, before its step moves. -/
def measured (s : State) (mv ca w : Nat) : Pwr :=
  { s.pwr with
    vin := mv, iin := ca, hist := history s w, p1s := meanOf (history s w) 1000, peak := max s.pwr.peak (meanOf (history s w) 10),
    energyMj := s.pwr.energyMj + w, mode := (nextMode s).1, cap := (nextMode s).2, nextMode := none, inBad := s.pwr.inBad && !inputFine mv }

/-- The controller after a measurement. -/
def stepped (y : Pwr) (p10 : Nat) : Pwr :=
  { y with step := (stepControl y p10).1, since := min 10 (stepControl y p10).2.1, under := (stepControl y p10).2.2 }

theorem exec_powerMeasurement_enters (hon : s.dev.state ≠ .off) : ∃ t : State, exec (.powerMeasurement mv ca w) s = .next t ∧
    SameButAlert (stepped (measured s mv ca w) (meanOf (history s w) 10)) t.pwr := by
  refine ⟨_, if_neg hon, .trans (sameButAlert_of_eq ?_) (sameButAlert_stepChange _ _)⟩
  split
  · exact (raise_pwr _ _ _ _).trans rfl
  · rfl

theorem meanOf_history (s : State) (w : Nat) : meanOf (history s w) 1000 = (history s w).sum / (history s w).length := by
  have htake : (history s w).take 1000 = history s w := by rw [history, List.take_take, Nat.min_self]
  have hlen : 1 ≤ (history s w).length := by
    rw [history, List.length_take, List.length_cons]
    omega
  rw [meanOf, htake, Nat.max_eq_right hlen]

end

/-- The step that control chooses, case by case. -/
theorem stepControl_step (x : Pwr) (p10 : Nat) :
    (2100 < p10 → (stepControl x p10).1 = min 7 (max (modeLow x.mode) x.step + 2)) ∧
    (p10 ≤ 2100 → modeLimit x.mode x.cap < x.p1s → 9 ≤ x.since → (stepControl x p10).1 = min 7 (max (modeLow x.mode) x.step + 1)) ∧
    (p10 ≤ 2100 → x.p1s * 100 < modeLimit x.mode x.cap * 95 → 99 ≤ x.under → (stepControl x p10).1 = max (modeLow x.mode) (x.step - 1)) ∧
    (p10 ≤ 2100 → x.p1s ≤ modeLimit x.mode x.cap → (modeLimit x.mode x.cap * 95 ≤ x.p1s * 100 ∨ x.under < 99) →
      (stepControl x p10).1 = max (modeLow x.mode) x.step) := by
  unfold stepControl
  dsimp only
  refine ⟨fun h => ?_, fun h hover hsince => ?_, fun h hlow hunder => ?_, fun h hin hcalm => ?_⟩
  · rw [if_pos h]
  · rw [if_neg (Nat.not_lt.mpr h), if_pos ⟨hover, Nat.succ_le_succ hsince⟩]
  · rw [if_neg (Nat.not_lt.mpr h), if_neg (by omega), if_pos hlow, if_pos (Nat.succ_le_succ hunder)]
  · have hfew : ¬ (if x.p1s * 100 < modeLimit x.mode x.cap * 95 then x.under + 1 else 0) ≥ 100 := by
      split <;> omega
    rw [if_neg (Nat.not_lt.mpr h), if_neg (by omega), if_neg hfew]

/-! ### Clocks that lock -/

/-- A booth that runs and is not at a step end. -/
def Late (s : State) (b : Nat) : Prop := running (s.booth b) = true ∧ (s.booth b).atEnd = false

/-- What the clocks of a die leave as it is. -/
def SameClocks (s t : State) : Prop := t.pwr.step = s.pwr.step ∧ t.pwr.therm = s.pwr.therm ∧ t.pwr.appliedT = s.pwr.appliedT ∧
  (∀ b : Nat, running (t.booth b) = running (s.booth b) ∧ (t.booth b).atEnd = (s.booth b).atEnd ∧ ((s.booth b).askPark = true → (t.booth b).askPark = true))

theorem SameClocks.refl (s : State) : SameClocks s s := ⟨rfl, rfl, rfl, fun _ => ⟨rfl, rfl, fun h => h⟩⟩

theorem SameClocks.trans {t u : State} (h : SameClocks s t) (h' : SameClocks t u) : SameClocks s u := by
  obtain ⟨hstep, htherm, happ, hbooth⟩ := h
  obtain ⟨hstep', htherm', happ', hbooth'⟩ := h'
  refine ⟨hstep'.trans hstep, htherm'.trans htherm, happ'.trans happ, fun b => ?_⟩
  obtain ⟨hrun, hend, hask⟩ := hbooth b
  obtain ⟨hrun', hend', hask'⟩ := hbooth' b
  exact ⟨hrun'.trans hrun, hend'.trans hend, fun ha => hask' (hask ha)⟩

theorem SameClocks.boothStep {t : State} (h : SameClocks s t) (f : Nat) : boothStep t f = boothStep s f := by
  obtain ⟨hstep, htherm, -⟩ := h
  rw [Machine.boothStep, Machine.boothStep, thermStep, thermStep, hstep, htherm]

theorem SameClocks.late_iff {t : State} (h : SameClocks s t) (b : Nat) : Late t b ↔ Late s b := by
  obtain ⟨-, -, -, hbooth⟩ := h
  rw [Late, Late, (hbooth b).1, (hbooth b).2.1]

/-- The booths of a die that are asked to stop at their step end. -/
def lateBooths (s : State) (f die : Nat) : List Nat :=
  ((List.range 32).map (fun q => boothNo f (32 * die + q))).filter (fun b => running (s.booth b) && !(s.booth b).atEnd)

theorem mem_lateBooths {f die b : Nat} : b ∈ lateBooths s f die ↔ (∃ q, q < 32 ∧ boothNo f (32 * die + q) = b) ∧ Late s b := by
  simp only [lateBooths, List.mem_filter, List.mem_map, List.mem_range, Bool.and_eq_true, Bool.not_eq_true', Late]

/-- A booth is asked to stop at its next step end. -/
def ask (s : State) (b : Nat) : State := s.setBooth b { s.booth b with askPark := true }

theorem sameClocks_ask (s : State) (b : Nat) : SameClocks s (ask s b) := by
  refine ⟨rfl, rfl, rfl, fun j => ?_⟩
  rw [ask, booth_setBooth]
  split
  · next h => exact h ▸ ⟨rfl, rfl, fun _ => rfl⟩
  · exact ⟨rfl, rfl, fun h => h⟩

theorem sameClocks_asks (l : List Nat) (s : State) : SameClocks s (l.foldl ask s) :=
  foldl_keeps_mem (P := SameClocks s) (fun b _ t h => h.trans (sameClocks_ask t b)) (.refl s)

theorem asks_pwr (l : List Nat) (s : State) : (l.foldl ask s).pwr = s.pwr := foldl_keeps_mem (f := ask) (P := fun t : State => t.pwr = s.pwr) (fun _ _ _ h => h) rfl

theorem asks_asks {l : List Nat} {b : Nat} (hb : b ∈ l) (s : State) : ((l.foldl ask s).booth b).askPark = true := by
  refine Stacks.foldl_establishes (P := fun t : State => (t.booth b).askPark = true) (fun t c h => ?_) hb (fun t => ?_) s
  · exact ((sameClocks_ask t c).2.2.2 b).2.2 h
  · rw [ask, booth_setBooth, if_pos rfl]

theorem dieClock_eq (s : State) (f die : Nat) : dieClock s f die =
    if tget 0 s.pwr.appliedB (16 * f + die) = boothStep s f then s
    else if (lateBooths s f die).isEmpty = true then { s with pwr := { s.pwr with appliedB := tset 0 s.pwr.appliedB (16 * f + die) (boothStep s f) } }
    else (lateBooths s f die).foldl ask s := rfl

theorem sameClocks_dieClock (s : State) (f die : Nat) : SameClocks s (dieClock s f die) := by
  rw [dieClock_eq]
  split
  · exact .refl s
  · split
    · exact .refl s
    · exact sameClocks_asks _ s

theorem dieClock_other (s : State) {f die k : Nat} (hk : k ≠ 16 * f + die) : tget 0 (dieClock s f die).pwr.appliedB k = tget 0 s.pwr.appliedB k := by
  rw [dieClock_eq]
  split
  · rfl
  · split
    · exact (tgetd_tset _ _ _ _ _).trans (if_neg hk.symm)
    · rw [asks_pwr]

/-- A die without a late booth takes the step. -/
theorem dieClock_ready {f die : Nat} (hnone : ∀ q : Nat, q < 32 → ¬ Late s (boothNo f (32 * die + q))) :
    tget 0 (dieClock s f die).pwr.appliedB (16 * f + die) = boothStep s f := by
  have hempty : lateBooths s f die = [] := List.eq_nil_iff_forall_not_mem.mpr fun b hb => by
    obtain ⟨⟨q, hq, rfl⟩, hlate⟩ := mem_lateBooths.mp hb
    exact hnone q hq hlate
  rw [dieClock_eq, hempty]
  split
  · next h => exact h
  · exact (tgetd_tset _ _ _ _ _).trans (if_pos rfl)

/-- A die with a late booth keeps its step, and its late booths are asked to stop. -/
theorem dieClock_late {f die : Nat} (hstep : tget 0 s.pwr.appliedB (16 * f + die) ≠ boothStep s f) (hlate : ∃ q, q < 32 ∧ Late s (boothNo f (32 * die + q))) :
    tget 0 (dieClock s f die).pwr.appliedB (16 * f + die) = tget 0 s.pwr.appliedB (16 * f + die) ∧
    ∀ q : Nat, q < 32 → Late s (boothNo f (32 * die + q)) → ((dieClock s f die).booth (boothNo f (32 * die + q))).askPark = true := by
  obtain ⟨q, hq, hl⟩ := hlate
  have hmem : ∀ q : Nat, q < 32 → Late s (boothNo f (32 * die + q)) → boothNo f (32 * die + q) ∈ lateBooths s f die :=
    fun q hq hl => mem_lateBooths.mpr ⟨⟨q, hq, rfl⟩, hl⟩
  have hsome : ¬ (lateBooths s f die).isEmpty = true := by
    rw [List.isEmpty_iff]
    exact List.ne_nil_of_mem (hmem q hq hl)
  rw [dieClock_eq, if_neg hstep, if_neg hsome, asks_pwr]
  exact ⟨rfl, fun q hq hl => asks_asks (hmem q hq hl) s⟩

/-- The clocks of all dies. -/
def allClocks (s : State) (l : List Nat) : State := l.foldl (fun s n => dieClock s (n / 16) (n % 16)) s

theorem sameClocks_allClocks (s : State) (l : List Nat) : SameClocks s (allClocks s l) :=
  foldl_keeps_mem (P := SameClocks s) (fun _ _ t h => h.trans (sameClocks_dieClock t _ _)) (.refl s)

theorem allClocks_other (s : State) {l : List Nat} {k : Nat} (hk : k ∉ l) : tget 0 (allClocks s l).pwr.appliedB k = tget 0 s.pwr.appliedB k := by
  refine foldl_keeps_mem (P := fun t : State => tget 0 t.pwr.appliedB k = tget 0 s.pwr.appliedB k) (fun n hn t h => ?_) rfl
  have hne : k ≠ 16 * (n / 16) + n % 16 := by
    rw [Nat.div_add_mod]
    exact fun h => hk (h ▸ hn)
  exact (dieClock_other t hne).trans h

/-- One die among all: the clocks before and after it change nothing that it looks at. -/
theorem allClocks_at (s : State) {l : List Nat} (hl : l.Nodup) {f die : Nat} (hdie : die < 16) (hmem : 16 * f + die ∈ l) : ∃ u : State,
    SameClocks s u ∧ tget 0 u.pwr.appliedB (16 * f + die) = tget 0 s.pwr.appliedB (16 * f + die) ∧
    SameClocks (dieClock u f die) (allClocks s l) ∧
    tget 0 (allClocks s l).pwr.appliedB (16 * f + die) = tget 0 (dieClock u f die).pwr.appliedB (16 * f + die) := by
  obtain ⟨pre, post, rfl⟩ := List.append_of_mem hmem
  have hpre : 16 * f + die ∉ pre := fun h => (List.nodup_append.mp hl).2.2 _ h _ (List.mem_cons_self ..) rfl
  have hpost : 16 * f + die ∉ post := (List.nodup_cons.mp (List.nodup_append.mp hl).2.1).1
  have hdiv : (16 * f + die) / 16 = f := by omega
  have hmod : (16 * f + die) % 16 = die := by omega
  have hsplit : allClocks s (pre ++ (16 * f + die) :: post) = allClocks (dieClock (allClocks s pre) f die) post := by
    simp only [allClocks, List.foldl_append, List.foldl_cons, hdiv, hmod]
  rw [hsplit]
  exact ⟨allClocks s pre, sameClocks_allClocks s pre, allClocks_other s hpre, sameClocks_allClocks _ post, allClocks_other _ hpost⟩

/-- The state with the clusters switched. -/
def clustersSwitched (s : State) : State :=
  { s with pwr := { s.pwr with appliedT := (List.range 16).foldl (fun t c => tset 0 t c (clusterStep s c)) s.pwr.appliedT } }

theorem exec_pllLocked_of_serving (hon : s.dev.state ≠ .off) (hserve : noService s = false) : exec .pllLocked s =
    .next (allClocks (clustersSwitched s) (List.range 128)) := by
  refine (if_neg (by simp only [hon, hserve, Bool.false_eq_true, or_self, not_false_iff])).trans ?_
  unfold allClocks clustersSwitched
  generalize (List.range 16).foldl (fun t c => tset 0 t c (clusterStep s c)) s.pwr.appliedT = t
  generalize List.range 128 = l
  rfl

theorem clustersSwitched_at (s : State) {c : Nat} (hc : c < 16) : tget 0 (clustersSwitched s).pwr.appliedT c = clusterStep s c :=
  (tget_foldl_tset 0 (fun c _ => clusterStep s c) List.nodup_range s.pwr.appliedT c).trans (if_pos (List.mem_range.mpr hc))

/-! ### Readings of the sources -/

/-- The state with a reading entered for a source. -/
def sensed (s : State) (src : Nat) (t : Int) : State :=
  { s with pwr := { s.pwr with therm := tset {} s.pwr.therm src (thermRead src t (tget {} s.pwr.therm src)) } }

/-- The event of a thermal step that changes. -/
def thermEvent (s : State) (src old new : Nat) (t : Int) : State :=
  record (raise (bump s (pgPwr + 0x128) 0 16 1) pgPwr 0 []) 0x00 (if new > old then 1 else 0) 0x090 0 0x22 (thermData src new old t)

/-- The state once a thermal step that changes has been reported. -/
def reported (s : State) (src : Nat) (t : Int) (x y : Therm) : State :=
  if y.step = x.step then s else thermEvent s src x.step y.step t

/-- The alert of a step that reaches 5. -/
def alerted (s : State) (x y : Therm) : State := if y.step ≥ 5 ∧ x.step < 5 then setSbAlert s 4 else s

theorem readSource_eq (s : State) (src : Nat) (t : Int) : readSource s src t =
    (let x := tget {} s.pwr.therm src
     let u := alerted (reported (sensed s src t) src t x (thermRead src t x)) x (thermRead src t x)
     if (thermRead src t x).hot ≥ 3 ∧ u.dev.tripped = false then trip u src t else u) := rfl

theorem sameButAlert_readSource (s : State) (src : Nat) (t : Int) : SameButAlert (sensed s src t).pwr (readSource s src t).pwr := by
  rw [readSource_eq]
  dsimp only
  generalize thermRead src t (tget {} s.pwr.therm src) = y
  generalize tget {} s.pwr.therm src = x
  have hreport : SameButAlert (sensed s src t).pwr (reported (sensed s src t) src t x y).pwr := by
    unfold reported
    split
    · exact .refl _
    · refine .trans (sameButAlert_of_eq ?_) (sameButAlert_record _ _ _ _ _ _ _)
      exact (raise_pwr _ _ _ _).trans rfl
  have halert : SameButAlert (sensed s src t).pwr (alerted (reported (sensed s src t) src t x y) x y).pwr := by
    unfold alerted
    split
    · exact hreport.trans (sameButAlert_setSbAlert _ _)
    · exact hreport
  split
  · exact halert.trans (sameButAlert_trip _ _ _)
  · exact halert

theorem readSource_therm (s : State) (src : Nat) (t : Int) (k : Nat) : tget {} (readSource s src t).pwr.therm k =
    if src = k then thermRead src t (tget {} s.pwr.therm src) else tget {} s.pwr.therm k := by
  obtain ⟨a, h⟩ := sameButAlert_readSource s src t
  have htherm : (readSource s src t).pwr.therm = (sensed s src t).pwr.therm := by rw [h]
  rw [htherm]
  exact tgetd_tset _ _ _ _ _

theorem readSource_inletHot (s : State) (src : Nat) (t : Int) : (readSource s src t).pwr.inletHot = s.pwr.inletHot := by
  obtain ⟨a, h⟩ := sameButAlert_readSource s src t
  rw [h]
  rfl

/-- The readings of all sources in a list take effect. -/
def readAll (s : State) (l : List (Nat × Int)) : State := l.foldl (fun s e => readSource s e.1 e.2) s

theorem readAll_inletHot (s : State) (l : List (Nat × Int)) : (readAll s l).pwr.inletHot = s.pwr.inletHot :=
  foldl_keeps_mem (P := fun t : State => t.pwr.inletHot = s.pwr.inletHot) (fun e _ t h => (readSource_inletHot t e.1 e.2).trans h) rfl

theorem readAll_other (s : State) {l : List (Nat × Int)} {k : Nat} (hk : k ∉ l.map (·.1)) : tget {} (readAll s l).pwr.therm k = tget {} s.pwr.therm k := by
  refine foldl_keeps_mem (P := fun t : State => tget {} t.pwr.therm k = tget {} s.pwr.therm k) (fun e he t h => ?_) rfl
  have hne : e.1 ≠ k := fun heq => hk (heq ▸ List.mem_map_of_mem he)
  rw [readSource_therm, if_neg hne]
  exact h

/-- A source that is read once takes its reading. -/
theorem readAll_at (s : State) {l : List (Nat × Int)} (hl : (l.map (·.1)).Nodup) {k : Nat} {t : Int} (hmem : (k, t) ∈ l) :
    tget {} (readAll s l).pwr.therm k = thermRead k t (tget {} s.pwr.therm k) := by
  obtain ⟨pre, post, rfl⟩ := List.append_of_mem hmem
  rw [List.map_append, List.map_cons] at hl
  have hpre : k ∉ pre.map (·.1) := fun h => (List.nodup_append.mp hl).2.2 _ h _ (List.mem_cons_self ..) rfl
  have hpost : k ∉ post.map (·.1) := (List.nodup_cons.mp (List.nodup_append.mp hl).2.1).1
  have hsplit : readAll s (pre ++ (k, t) :: post) = readAll (readSource (readAll s pre) k t) post := by
    simp only [readAll, List.foldl_append, List.foldl_cons]
  rw [hsplit, readAll_other _ hpost, readSource_therm, if_pos rfl, readAll_other _ hpre]

theorem thermSources_length : thermSources.length = 20 := rfl

theorem readings_nodup {l : List Int} (hl : l.length = 22) : ((thermSources.zip l).map (·.1)).Nodup := by
  have hfst : (thermSources.zip l).map (·.1) = thermSources := List.map_fst_zip (by rw [thermSources_length, hl]; decide)
  rw [hfst]
  decide

theorem reading_mem {l : List Int} (hl : l.length = 22) {j k : Nat} (hj : j < 20) (hk : thermSources[j]? = some k) : (k, l.getD j 0) ∈ thermSources.zip l := by
  have hget : (thermSources.zip l)[j]? = some (k, l.getD j 0) := by
    have hin : j < l.length := by omega
    rw [List.getElem?_zip_eq_some]
    exact ⟨hk, by rw [List.getD_eq_getElem?_getD, List.getElem?_eq_getElem hin, Option.getD_some]⟩
  exact List.mem_of_getElem? hget

theorem thermSources_die {i : Nat} (hi : i < 4) : thermSources[i]? = some (0x10 + i) := by
  have hall : ∀ i : Nat, i < 4 → thermSources[i]? = some (0x10 + i) := by decide
  exact hall i hi

theorem thermSources_stack {i : Nat} (hi : i < 16) : thermSources[4 + i]? = some (0x30 + i) := by
  have hall : ∀ i : Nat, i < 16 → thermSources[4 + i]? = some (0x30 + i) := by decide
  exact hall i hi

/-- The readings in a row of an inlet above 40 degrees, with this one. -/
def inletCount (s : State) (inlet : Int) : Nat := if inlet > 640 then min 100 (s.pwr.inletHot + 1) else 0

/-- The state with the temperatures of the air entered. -/
def airSensed (u : State) (inlet outlet : Int) : State :=
  { u with pwr := { u.pwr with inlet := inlet, outlet := outlet, inletHot := inletCount u inlet } }

theorem exec_sensorReading_eq {l : List Int} (hl : l.length = 22) (hon : s.dev.state ≠ .off) : exec (.sensorReading l) s =
    .next (if inletCount (readAll s (thermSources.zip l)) (l.getD 20 0) = 100 ∧ (readAll s (thermSources.zip l)).pwr.inletHot < 100 then
      setSbAlert (raise (airSensed (readAll s (thermSources.zip l)) (l.getD 20 0) (l.getD 21 0)) pgPwr 3 []) 16
    else airSensed (readAll s (thermSources.zip l)) (l.getD 20 0) (l.getD 21 0)) := by
  refine ((if_neg (not_not_intro hl)).trans (if_neg hon)).trans ?_
  unfold readAll
  generalize (thermSources.zip l).foldl (fun s e => readSource s e.1 e.2) s = u
  rfl

theorem exec_sensorReading_of_on {l : List Int} (hl : l.length = 22) (hon : s.dev.state ≠ .off) : ∃ t : State, exec (.sensorReading l) s = .next t ∧
    SameButAlert (airSensed (readAll s (thermSources.zip l)) (l.getD 20 0) (l.getD 21 0)).pwr t.pwr := by
  refine ⟨_, exec_sensorReading_eq hl hon, ?_⟩
  by_cases h : inletCount (readAll s (thermSources.zip l)) (l.getD 20 0) = 100 ∧ (readAll s (thermSources.zip l)).pwr.inletHot < 100
  · rw [if_pos h]
    exact .trans (sameButAlert_of_eq (raise_pwr _ pgPwr 3 [])) (sameButAlert_setSbAlert _ _)
  · rw [if_neg h]
    exact .refl _

/-! ### Thermal steps, case by case -/

theorem thermRead_hot (src : Nat) (t : Int) (x : Therm) : (thermRead src t x).hot = if t > 16 * tripAbove src then min 3 (x.hot + 1) else 0 := by
  unfold thermRead
  dsimp only
  repeat' split
  all_goals rfl

theorem thermRead_step (src : Nat) (t : Int) (x : Therm) : (thermRead src t x).step =
    if x.step < 7 ∧ t ≥ 16 * enterAt src (x.step + 1) then x.step + 1
    else if x.step > 0 ∧ t ≤ 16 * (enterAt src x.step - 3) then (if x.cool + 1 ≥ 1000 then x.step - 1 else x.step) else x.step := by
  unfold thermRead
  dsimp only
  repeat' split
  all_goals rfl

theorem enterAt_succ (src n : Nat) : enterAt src (n + 1) = enterAt src n + 1 := by
  unfold enterAt
  rw [Int.natCast_add]
  exact (Int.add_assoc _ _ _).symm

/-! ### Trips and reports -/

theorem readSource_calm {src : Nat} {t : Int} (hstep : (thermRead src t (tget {} s.pwr.therm src)).step = (tget {} s.pwr.therm src).step) :
    readSource s src t = if (thermRead src t (tget {} s.pwr.therm src)).hot ≥ 3 ∧ s.dev.tripped = false then trip (sensed s src t) src t else sensed s src t := by
  have hreport : reported (sensed s src t) src t (tget {} s.pwr.therm src) (thermRead src t (tget {} s.pwr.therm src)) = sensed s src t := if_pos hstep
  have halert : alerted (sensed s src t) (tget {} s.pwr.therm src) (thermRead src t (tget {} s.pwr.therm src)) = sensed s src t := if_neg (by omega)
  rw [readSource_eq]
  dsimp only
  rw [hreport, halert]
  rfl

theorem readSource_steps {src : Nat} {t : Int} (hstep : (thermRead src t (tget {} s.pwr.therm src)).step ≠ (tget {} s.pwr.therm src).step)
    (hcool : (thermRead src t (tget {} s.pwr.therm src)).hot < 3)
    (hquiet : (thermRead src t (tget {} s.pwr.therm src)).step < 5 ∨ 5 ≤ (tget ({} : Therm) s.pwr.therm src).step) :
    readSource s src t = thermEvent (sensed s src t) src (tget ({} : Therm) s.pwr.therm src).step (thermRead src t (tget {} s.pwr.therm src)).step t := by
  have hreport : reported (sensed s src t) src t (tget {} s.pwr.therm src) (thermRead src t (tget {} s.pwr.therm src)) =
      thermEvent (sensed s src t) src (tget ({} : Therm) s.pwr.therm src).step (thermRead src t (tget {} s.pwr.therm src)).step t := if_neg hstep
  have halert : ∀ u : State, alerted u (tget {} s.pwr.therm src) (thermRead src t (tget {} s.pwr.therm src)) = u := fun u => if_neg (by omega)
  rw [readSource_eq]
  dsimp only
  rw [hreport, halert, if_neg fun h => absurd h.1 (Nat.not_le.mpr hcool)]

/-- A device whose clocks have stopped. -/
def stopped (s : State) : State := { s with dev := { s.dev with tripped := true } }

/-- A record of severity 3 sends a device that trains or serves to `DUMP`. -/
theorem record_fatal_dev (hst : s.dev.state = .train ∨ s.dev.state = .ready ∨ s.dev.state = .serve ∨ s.dev.state = .drain) (island blk inst code : Nat)
    (d : List Byte) : (record s island 3 blk inst code d).dev = { s.dev with state := .dump, alertN := false } := by
  have henter : ∀ (u : State) (c : List Byte), u.dev = s.dev → (enterDump u c).dev = { s.dev with state := .dump, alertN := false } := fun u c hu => by
    have hset : u.pwr.sbAlert ||| 1 ≠ 0 := fun h => by
      have hbit := congrArg (Nat.testBit · 0) h
      simp at hbit
    have hpin : (u.dev.alertN && decide (u.pwr.sbAlert ||| 1 = 0)) = false := by rw [decide_eq_false hset, Bool.and_false]
    unfold enterDump
    rw [← hu] at hst
    rcases hst with h | h | h | h <;> simp only [h, setSbAlert, hpin] <;> rw [hu]
  exact henter _ _ (accept_dev s _)

theorem trip_fatal_dev {src : Nat} {t : Int} (hst : s.dev.state = .train ∨ s.dev.state = .ready ∨ s.dev.state = .serve ∨ s.dev.state = .drain) :
    (trip s src t).dev = { s.dev with tripped := true, state := .dump, alertN := false } := by
  have htrip : trip s src t = reduceDump (record (stopped s) 0x00 3 0x090 0 0x22 (thermData src 8 (thermStep s src) t)) := by
    unfold trip
    rcases hst with h | h | h | h <;> simp only [h, stopped]
  have hst' : (stopped s).dev.state = .train ∨ (stopped s).dev.state = .ready ∨ (stopped s).dev.state = .serve ∨ (stopped s).dev.state = .drain := hst
  rw [htrip, (reduceDump_same _).2, record_fatal_dev hst']
  rfl

theorem trip_boot {src : Nat} {t : Int} (hst : s.dev.state = .boot) : trip s src t = { s with dev := { s.dev with tripped := true, tripN := false } } := by
  unfold trip
  simp only [hst]

end

/-- Settles O55: power measurements and modes, locked clocks, temperatures, the trip, and drain. -/
theorem powerThermalAndDrain : Obligations.PowerThermalAndDrain := by
  refine ⟨fun mv ca w s h => if_pos h, fun mv ca w s hon => ?_, fun v s hmay => ⟨fun hbad => ?_, fun h3 hlo hhi => ?_⟩, fun s h => if_pos h,
    fun s hon hserve => ⟨_, exec_pllLocked_of_serving hon hserve, ?_, fun c hc => ?_, fun f die hf hdie => ⟨fun hnone => ?_, fun hstep hlate => ?_⟩⟩,
    fun l s hl hoff => (if_neg (not_not_intro hl)).trans (if_pos hoff), fun l s hl hon => ?_,
    fun src t x => ⟨fun h => ?_, fun h => ?_, fun h7 h => ?_, fun h0 h => ?_, fun hlo hhi => ?_⟩,
    fun s src t => ⟨fun hstep hcool => ?_, fun hstep hhot hrun => ?_, fun hstep hcool hquiet => readSource_steps hstep hcool hquiet⟩,
    fun s src t hst => ?_, fun s src t hst => ?_, fun s hmay => ⟨fun h => ⟨?_, ?_⟩, fun h => ⟨?_, ?_⟩, fun hs hd => ⟨?_, ?_⟩⟩⟩
  · obtain ⟨t, ht, a, hpwr⟩ := exec_powerMeasurement_enters (mv := mv) (ca := ca) (w := w) hon
    obtain ⟨hhigh, hover, hunder, hsteady⟩ := stepControl_step (measured s mv ca w) (meanOf (history s w) 10)
    refine ⟨t, ht, ?_⟩
    rw [hpwr]
    exact ⟨rfl, rfl, rfl, meanOf_history s w, rfl, rfl, rfl, rfl, rfl, hhigh, hover, hunder, hsteady⟩
  · exact (hostWr_of_hostMay hmay _).trans (if_pos (.inr hbad))
  · have hon : s.dev.state ≠ .off := by
      obtain ⟨hreach, -⟩ := hmay
      rw [hostReach, Bool.and_eq_true, decide_eq_true_iff] at hreach
      exact hreach.1
    refine (hostWr_of_hostMay hmay _).trans (if_neg ?_)
    rintro (h | h | h | h)
    · exact hon h
    · exact h3 h
    · exact absurd h (Nat.not_lt.mpr hlo)
    · exact absurd h (Nat.not_lt.mpr hhi)
  · exact (sameClocks_allClocks (clustersSwitched s) _).1
  · rw [(sameClocks_allClocks (clustersSwitched s) _).2.2.1]
    exact clustersSwitched_at s hc
  · obtain ⟨u, hsame, -, -, hkey⟩ := allClocks_at (clustersSwitched s) (l := List.range 128) List.nodup_range hdie (f := f) (List.mem_range.mpr (by omega))
    rw [hkey, dieClock_ready fun q hq hl => hnone q hq ((hsame.late_iff _).mp hl)]
    exact hsame.boothStep f
  · obtain ⟨u, hsame, hkey, hafter, hkey'⟩ := allClocks_at (clustersSwitched s) (l := List.range 128) List.nodup_range hdie (f := f) (List.mem_range.mpr (by omega))
    have hstep' : tget 0 u.pwr.appliedB (16 * f + die) ≠ boothStep u f := by
      rw [hkey, hsame.boothStep f]
      exact hstep
    obtain ⟨q, hq, hl⟩ := hlate
    obtain ⟨hstays, hask⟩ := dieClock_late hstep' ⟨q, hq, (hsame.late_iff _).mpr hl⟩
    refine ⟨(hkey'.trans hstays).trans hkey, fun q hq hl => ?_⟩
    exact (hafter.2.2.2 _).2.2 (hask q hq ((hsame.late_iff _).mpr hl))
  · obtain ⟨t, ht, a, hpwr⟩ := exec_sensorReading_of_on hl hon
    refine ⟨t, ht, ?_⟩
    rw [hpwr]
    refine ⟨rfl, rfl, fun h => if_neg (Int.not_lt.mpr h), fun h => ?_, fun i hi => ?_, fun i hi => ?_⟩
    · exact (if_pos h).trans (congrArg (fun n => min 100 (n + 1)) (readAll_inletHot s _))
    · exact readAll_at s (readings_nodup hl) (reading_mem hl (by omega) (thermSources_stack hi))
    · exact readAll_at s (readings_nodup hl) (reading_mem hl (by omega) (thermSources_die hi))
  · exact (thermRead_hot src t x).trans (if_neg (Int.not_lt.mpr h))
  · exact (thermRead_hot src t x).trans (if_pos h)
  · exact (thermRead_step src t x).trans (if_pos ⟨h7, h⟩)
  · have hnot : ¬ (x.step < 7 ∧ t ≥ 16 * enterAt src (x.step + 1)) := by
      rw [enterAt_succ]
      omega
    rw [thermRead_step, if_neg hnot, if_pos ⟨h0, h⟩]
    by_cases hc : 999 ≤ x.cool
    · rw [if_pos hc, if_pos (by omega)]
    · rw [if_neg hc, if_neg (by omega)]
  · rw [thermRead_step, if_neg fun h => absurd hhi (Int.not_lt.mpr h.2), if_neg fun h => absurd hlo (Int.not_lt.mpr h.2)]
  · rw [readSource_calm hstep, if_neg fun h => absurd h.1 (Nat.not_le.mpr hcool)]
    rfl
  · rw [readSource_calm hstep, if_pos ⟨Nat.le_of_eq hhot.symm, hrun⟩]
    rfl
  · rw [trip_boot hst]
    exact ⟨rfl, rfl⟩
  · rw [trip_fatal_dev (by rcases hst with h | h | h | h <;> simp [h])]
    exact ⟨rfl, rfl, rfl⟩
  · exact (hostWr_of_hostMay hmay _).trans (if_pos h)
  · exact (hostWr_of_hostMay hmay _).trans (if_neg (by rw [h]; decide))
  · exact (hostWr_of_hostMay hmay _).trans (if_pos h)
  · exact (hostWr_of_hostMay hmay _).trans (if_neg (by rw [h]; decide))
  · exact (hostWr_of_hostMay hmay _).trans (if_neg hd)
  · exact (hostWr_of_hostMay hmay _).trans (if_neg hs)

end Sys2Proof.Proofs.Thermal
end

section
/-! PROOF. Event registers, accesses of the host to BAR0, and command registers (R6-R11, R525-R545). -/
namespace Sys2Proof.Proofs.RegisterAccess
open Sys2Proof.Machine Sys2Proof.Safety Sys2Proof.Laws Sys2Proof.Proofs.Firmware Sys2Proof.Proofs.Events

section
variable {s : State}

/-! ### Accesses that the host may make -/

theorem hostWr_of_off (h : hostReach s = false) (pg : Nat) (r : Res) : hostWr s pg r = .next s := if_pos (Bool.not_eq_true' _ ▸ h)

theorem hostWr_of_ideHold (hreach : hostReach s = true) (hide : ideHold s = true) (pg : Nat) (r : Res) : hostWr s pg r = .next (emit s (.refusedIo pg)) :=
  (if_neg (by rw [hreach]; decide)).trans (if_pos hide)

theorem hostIo_of_off (h : hostReach s = false) (a : Nat) (r : Res) : hostIo s a r = .next s := if_pos (Bool.not_eq_true' _ ▸ h)

theorem hostIo_of_ideHold (hreach : hostReach s = true) (hide : ideHold s = true) (a : Nat) (r : Res) : hostIo s a r = .next (emit s (.refusedIo a)) :=
  (if_neg (by rw [hreach]; decide)).trans (if_pos hide)

theorem hostIo_of_reach (hreach : hostReach s = true) (hide : ideHold s = false) (a : Nat) (r : Res) : hostIo s a r = r :=
  (if_neg (by rw [hreach]; decide)).trans (if_neg (by rw [hide]; decide))

theorem hostMay_page {a : Nat} (hmay : HostMay s (a / 4096 * 4096)) : hostReach s = true ∧ ideHold s = false ∧ pageOpen s (a / 4096) = true := by
  obtain ⟨hreach, hide, hopen⟩ := hmay
  rw [Nat.mul_div_cancel _ (by omega)] at hopen
  exact ⟨hreach, hide, hopen⟩

/-! ### Reads -/

/-- The bytes of an access that is not of whole aligned words. -/
def bytesAt (s : State) (a w : Nat) : Nat := ((List.range w).map (fun i => readByte s (a + i) * 256 ^ i)).sum

theorem width_of_fits {a w : Nat} (h : accessFits a w = true) (hw : 4 ≤ w) : w = 4 ∨ w = 8 := by
  obtain ⟨hmem, -⟩ := Bool.and_eq_true_iff.mp h
  rw [List.contains_iff_mem] at hmem
  simp only [List.mem_cons, List.not_mem_nil, or_false] at hmem
  omega

theorem exec_rcRead_eq {a w : Nat} (hfits : accessFits a w = true) : exec (.rcRead a w) s = hostIo s a
    (if w < 4 ∨ a % w ≠ 0 then .next (emit s (.read a w (bytesAt s a w)))
     else if w = 4 then .next (emit (readEffect s a).2 (.read a 4 (readEffect s a).1))
     else .next (emit (readEffect (readEffect s a).2 (a + 4)).2 (.read a 8 ((readEffect s a).1 + (readEffect (readEffect s a).2 (a + 4)).1 * 2 ^ 32)))) :=
  if_neg (by rw [accessOk, hfits]; decide)

theorem readEffect_of_closed {a : Nat} (h : pageOpen s (a / 4096) = false) : readEffect s a = (0, s) := if_pos (Bool.not_eq_true' _ ▸ h)

theorem readEffect_value {a : Nat} (h : pageOpen s (a / 4096) = true) : (readEffect s a).1 = readWord s a := by
  unfold readEffect
  dsimp only
  rw [if_neg (by rw [h]; decide)]
  split <;> rfl

theorem readWord_of_closed {a : Nat} (h : pageOpen s (a / 4096) = false) : readWord s a = 0 := if_pos (Bool.not_eq_true' _ ▸ h)

theorem readByte_of_closed {a : Nat} (h : pageOpen s (a / 4096) = false) : readByte s a = 0 := by
  have hword : pageOpen s (a / 4 * 4 / 4096) = false := by
    rw [show a / 4 * 4 / 4096 = a / 4096 by omega]
    exact h
  rw [readByte, readWord_of_closed hword, Nat.zero_div, Nat.zero_mod]

/-! ### Writes -/

theorem exec_registerWrite_eq {a w : Nat} {v : BitVec 64} (hfits : accessFits a w = true) : exec (.registerWrite a w v) s = hostWr s (a / 4096 * 4096)
    (if w < 4 ∨ a % w ≠ 0 then .next s
     else if w = 4 then writeWord s a (BitVec.ofNat 32 v.toNat)
     else match writeWord s a (BitVec.ofNat 32 v.toNat) with
       | .next s1 => writeWord s1 (a + 4) (BitVec.ofNat 32 (v.toNat / 2 ^ 32))
       | o => o) := by
  refine (if_neg (by rw [accessOk, hfits]; decide)).trans ?_
  rfl

/-- A write of a word answers with a next state. -/
theorem writeWord_next (s : State) (a : Nat) (v : Word) : ∃ t : State, writeWord s a v = .next t := by
  generalize hres : writeWord s a v = res
  have hans : Commands.Answers true res := hres ▸ Commands.answers_writeWord s a v
  cases hans with
  | next t => exact ⟨t, rfl⟩
  | fault what h => exact absurd h (by decide)

/-- Clearing the bits of a mask and adding others of them sets the bits of the mask. -/
theorem ofNat_replace (x m v : Nat) : BitVec.ofNat 32 (x - (x &&& m) + (v &&& m)) =
    (BitVec.ofNat 32 x &&& ~~~BitVec.ofNat 32 m) ||| (BitVec.ofNat 32 v &&& BitVec.ofNat 32 m) := by
  have hdisjoint : ∀ y z n : BitVec 32, (y &&& ~~~n) &&& (z &&& n) = 0#32 := fun y z n => by
    ext i hi
    simp only [BitVec.getElem_and, BitVec.getElem_not, BitVec.getElem_zero]
    cases n[i] <;> simp
  have hwhole : ∀ y n : BitVec 32, (y &&& ~~~n) ||| (y &&& n) = y := fun y n => by
    ext i hi
    simp only [BitVec.getElem_or, BitVec.getElem_and, BitVec.getElem_not]
    cases n[i] <;> simp
  have hback : BitVec.ofNat 32 (x - (x &&& m)) + (BitVec.ofNat 32 x &&& BitVec.ofNat 32 m) = BitVec.ofNat 32 x := by
    rw [← BitVec.ofNat_and, ← BitVec.ofNat_add]
    exact congrArg (BitVec.ofNat 32) (Nat.sub_add_cancel Nat.and_le_left)
  have hclear : BitVec.ofNat 32 (x - (x &&& m)) = BitVec.ofNat 32 x &&& ~~~BitVec.ofNat 32 m := by
    have hsum := (BitVec.add_eq_or_of_and_eq_zero _ _ (hdisjoint (BitVec.ofNat 32 x) (BitVec.ofNat 32 x) (BitVec.ofNat 32 m))).trans (hwhole _ _)
    exact (BitVec.add_left_inj _).mp (hback.trans hsum.symm)
  rw [BitVec.ofNat_add, hclear, BitVec.ofNat_and, BitVec.add_eq_or_of_and_eq_zero _ _ (hdisjoint _ _ _)]

theorem bit_storeRw (s : State) (a v : Nat) {i : Nat} (hi : i < 32) : bit (rd (storeRw s a v) a) i =
    ((bit (rd s a) i && !bit (accMask (fieldsAt a) .rw) i) || (bit v i && bit (accMask (fieldsAt a) .rw) i)) := by
  have hrd : rd (storeRw s a v) a =
      (BitVec.ofNat 32 (rd s a - (rd s a &&& accMask (fieldsAt a) .rw) + (v &&& accMask (fieldsAt a) .rw))).toNat := by
    rw [storeRw, rd_wr, if_pos rfl, BitVec.toNat_ofNat]
  simp only [bit_eq_testBit]
  rw [hrd, ofNat_replace]
  simp only [BitVec.testBit_toNat, BitVec.getLsbD_or, BitVec.getLsbD_and, BitVec.getLsbD_not, BitVec.getLsbD_ofNat, hi, decide_true, Bool.true_and]

/-! ### Messages -/

theorem alert_eq_false (s : State) (pg : Nat) : alert s pg = false ↔ rd s (pg + 0x10) &&& rd s (pg + 0x14) = 0 := by
  rw [alert, decide_eq_false_iff_not, Decidable.not_not]

theorem alert_eq_true (s : State) (pg : Nat) : alert s pg = true ↔ rd s (pg + 0x10) &&& rd s (pg + 0x14) ≠ 0 := decide_eq_true_iff

theorem sendVector_of_masked {v : Nat} (h : vecMasked s v = true) : ∃ t : State, sendVector s v = t ∧ v ∈ t.msix.pend ∧ t.out = s.out ∧ t.regs = s.regs := by
  refine ⟨_, if_pos h, ?_, rfl, rfl⟩
  dsimp only
  split
  · next hpend => exact List.contains_iff_mem.mp hpend
  · exact List.mem_append_right _ (List.mem_singleton.mpr rfl)

end

/-- Settles O56: event registers, vectors, reads and writes of the host, and command registers. -/
theorem registersAndCommandRegisters : Obligations.RegistersAndCommandRegisters := by
  refine ⟨⟨fun pg v s hmay => ⟨fun hno => ?_, fun hhas => ⟨?_, fun hfree => ⟨?_, ?_⟩, fun hheld => ⟨?_, ?_⟩, ?_⟩⟩, fun s pg => ⟨fun h => ?_, fun h hie => ?_, fun h hie => ?_⟩,
    fun s pg b => ⟨fun hwas hnow => ?_, fun hor => ?_, fun k n hk => ?_⟩, fun s v => ⟨fun hen hf hm => ?_, fun hor => sendVector_of_masked ?_⟩,
    fun s => ⟨fun h => if_neg (by rw [h]; decide), fun h => if_pos h⟩, fun n s hn hmay => ?_, fun a w s hfits => ?_, fun s a h => readByte_of_closed h,
    fun a w v s hfits => ?_, fun s a v i hi => ?_⟩, fun s v p q d => ?_⟩
  · simp only [exec, execPgEvtWrite, execPgEvtEnWrite, execPgCtrlWrite, execPgEvtForce, hostWr_of_hostMay hmay, hno, Bool.false_and, Bool.false_eq_true, if_false, and_self]
  · exact (hostWr_of_hostMay hmay _).trans (if_pos hhas)
  · exact (hostWr_of_hostMay hmay _).trans (if_pos (by rw [hhas, hfree]; rfl))
  · exact (hostWr_of_hostMay hmay _).trans (if_pos (by rw [hhas, hfree]; rfl))
  · exact (hostWr_of_hostMay hmay _).trans (if_neg (by rw [hheld, Bool.not_true, Bool.and_false]; decide))
  · exact (hostWr_of_hostMay hmay _).trans (if_neg (by rw [hheld, Bool.not_true, Bool.and_false]; decide))
  · exact (hostWr_of_hostMay hmay _).trans (if_pos hhas)
  · exact if_neg (by rw [(alert_eq_false s pg).mpr h]; decide)
  · exact (if_pos ((alert_eq_true s pg).mpr h)).trans (if_pos hie)
  · exact (if_pos ((alert_eq_true s pg).mpr h)).trans (if_neg (by rw [hie]; decide))
  · exact if_pos (by rw [hwas, hnow]; rfl)
  · refine if_neg fun h => ?_
    obtain ⟨hwas, hnow⟩ := Bool.and_eq_true_iff.mp h
    rcases hor with h | h
    · rw [h] at hwas
      exact absurd hwas (by decide)
    · rw [h] at hnow
      exact absurd hnow (by decide)
  · rw [raiseForced, hk]
  · exact if_neg (by rw [vecMasked, hen, hf, hm]; decide)
  · rw [vecMasked]
    rcases hor with h | h | h <;> simp [h]
  · exact (if_neg (Nat.not_le.mpr hn)).trans (hostWr_of_hostMay hmay _)
  · refine ⟨fun h => ?_, fun h hide => ?_, fun h hide hclosed hw ha => ?_, fun h hide hpart => ?_, fun hmay hw ha => ?_, fun hmay hw ha => ⟨_, rfl, ?_⟩⟩
    · rw [exec_rcRead_eq hfits, hostIo_of_off h]
    · rw [exec_rcRead_eq hfits, hostIo_of_ideHold h hide]
    · have hpage : (a + 4) / 4096 = a / 4096 ∨ w = 4 := by
        rcases width_of_fits hfits hw with rfl | rfl <;> omega
      rw [exec_rcRead_eq hfits, hostIo_of_reach h hide, if_neg (by omega), readEffect_of_closed hclosed]
      by_cases h4 : w = 4
      · rw [if_pos h4, h4]
      · have h8 : w = 8 := (width_of_fits hfits hw).resolve_left h4
        have hnext : pageOpen s ((a + 4) / 4096) = false := (hpage.resolve_right h4) ▸ hclosed
        rw [if_neg h4, readEffect_of_closed hnext, h8]
        exact congrArg (fun v => Host.Outcome.next (emit s (Out.read a 8 v))) ((Nat.zero_add _).trans (Nat.zero_mul (2 ^ 32)))
    · rw [exec_rcRead_eq hfits, hostIo_of_reach h hide, if_pos hpart]
      rfl
    · obtain ⟨hreach, hide, hopen⟩ := hostMay_page hmay
      subst hw
      rw [exec_rcRead_eq hfits, hostIo_of_reach hreach hide, if_neg (by omega), if_pos rfl, readEffect_value hopen]
    · obtain ⟨hreach, hide, hopen⟩ := hostMay_page hmay
      subst hw
      rw [exec_rcRead_eq hfits, hostIo_of_reach hreach hide, if_neg (by omega), if_neg (by decide), readEffect_value hopen]
  · refine ⟨fun h => ?_, fun h hide => ?_, fun hmay hpart => ?_, fun hmay hw ha => ?_, fun hmay hw ha => ?_⟩
    · rw [exec_registerWrite_eq hfits, hostWr_of_off h]
    · rw [exec_registerWrite_eq hfits, hostWr_of_ideHold h hide]
    · rw [exec_registerWrite_eq hfits, hostWr_of_hostMay hmay, if_pos hpart]
    · obtain ⟨t, ht⟩ := writeWord_next s a (BitVec.ofNat 32 v.toNat)
      subst hw
      refine ⟨t, ?_, ht⟩
      rw [exec_registerWrite_eq hfits, hostWr_of_hostMay hmay, if_neg (by omega), if_pos rfl, ht]
    · obtain ⟨t, ht⟩ := writeWord_next s a (BitVec.ofNat 32 v.toNat)
      obtain ⟨u, hu⟩ := writeWord_next t (a + 4) (BitVec.ofNat 32 (v.toNat / 2 ^ 32))
      subst hw
      refine ⟨t, u, ht, hu, ?_⟩
      rw [exec_registerWrite_eq hfits, hostWr_of_hostMay hmay, if_neg (by omega), if_neg (by decide), ht]
      exact hu
  · rw [bit_storeRw s a v hi]
    cases bit (rd s a) i <;> cases bit (accMask (fieldsAt a) .rw) i <;> cases bit v i <;> decide
  · have hp : Fin.ofNat 32 p.val = p := Fin.ofNat_val_eq_self p
    have hq : Fin.ofNat 4 q.val = q := Fin.ofNat_val_eq_self q
    have hd : Fin.ofNat 4 d.val = d := Fin.ofNat_val_eq_self d
    refine ⟨?_, ?_, ?_, rfl, rfl, rfl, rfl, rfl, rfl, rfl, ?_⟩
    · exact (congrArg (partCommand s · v.toNat) hp).trans rfl
    · exact (congrArg (aschCommand s · v.toNat) hd).trans rfl
    · exact (congrArg (qpCommand s · v.toNat) hq).trans rfl
    · exact (congrArg (replayCommand s · v.toNat) hp).trans rfl

end Sys2Proof.Proofs.RegisterAccess
end
